-- ==== Sys2Proof/Word.lean ====
section
/-! DEFINITION. The word types of the instance (R11: registers are 64 bits; R46: a flit is 512 bits;
R62: a port beat is 256 bits). -/

namespace Sys2Proof

/-- A 64-bit register or engine word (R11, R338). -/
abbrev Word := BitVec 64

/-- The 512 bits of one flit (R46). -/
abbrev FlitBits := BitVec 512

/-- The 256 bits of one endpoint port beat (R62). -/
abbrev BeatBits := BitVec 256

end Sys2Proof
end

