-- ==== Sys2Proof/Syntax.lean ====
section
/-! DEFINITION. The commands of the block: one constructor per row of the opcode table, with the row's operands.
An engine row (the rows of the Markhor instruction set) says which engine issues its next instruction; the word
itself is where the engine fetches it. A row that stands for an event names the unit it happens at and carries what
only the surroundings know (a beat, a wire error, a measured code). -/

namespace Sys2Proof

/-- Engine number e (R312): 0 the master, 1 to 4 QE0 to QE3. -/
abbrev EngId := Fin 5
/-- External endpoint 0 to 511 (R22). -/
abbrev Ep := Fin 512
/-- NIU number: an external endpoint, or 512 + Q for the service NIU of quadrant Q (R22, R28). -/
abbrev NiuId := Fin 516
/-- Tile index (R20). -/
abbrev Tile := Fin 128
/-- Quadrant (R21). -/
abbrev Quad := Fin 4
/-- Station and spine port number (R203). -/
abbrev Stn := Fin 32
/-- Power domain number of R342: tile, 128 + Q, or 132. -/
abbrev Dom := Fin 133
/-- Mesh link number (R174). -/
abbrev LinkId := Fin 232
/-- Link direction 2n + d (R250). -/
abbrev LinkDir := Fin 464
/-- Physical lane slice (R184). -/
abbrev Slice := Fin 9
/-- Slice of switch segments within a domain (R366). -/
abbrev SwSlice := Fin 32
/-- Router output or input: N, E, S, W, L0, L1, SPN, CB (R157). -/
abbrev Port := Fin 8
/-- Virtual channel index (R56). -/
abbrev Vc := Fin 12
/-- Combine group (R279). -/
abbrev Group := Fin 256
/-- Sub-endpoint of a shared port (R87). -/
abbrev Sub := Fin 4
/-- Counter number (R435): router, NIU, spine and engine counters. -/
abbrev CtrId := Fin 5204
/-- Sampler number (R441). -/
abbrev SmpId := Fin 544

/-- The barrier kinds of ep_req_bar (R62, R143). -/
inductive BarKind where
  | ld | st | full
deriving DecidableEq, Repr

/-- A unit that acts on the safe-state broadcast (R457). -/
inductive SafeUnit where
  | niu (n : NiuId)
  | engine (e : EngId)
  | spine
  | twin
deriving DecidableEq, Repr

/-- A unit that the new epoch number reaches (R178). -/
inductive EpochUnit where
  | niu (n : NiuId)
  | combine (t : Tile)
deriving DecidableEq, Repr

/-- Codes measured at an event: current in 1/64 of the rated current, rail in 4 mV (R388). -/
structure Meas where
  current : BitVec 8
  rail    : BitVec 8
deriving DecidableEq, Repr

/-- A domain, and the voltage of its selected feed measured at the event, in 4 mV (R369, R377). -/
structure FeedAt where
  dom  : Dom
  volt : BitVec 8
deriving DecidableEq, Repr

/-- Whether a feed is found valid, and its voltage measured then, in 4 mV (R369). -/
structure FeedLevel where
  valid : Bool
  volt  : BitVec 8
deriving DecidableEq, Repr

/-- The commands, one constructor per row of the opcode table. -/
inductive Instr where
  /-- NOP (R349): Engine instruction that does nothing. -/
  | nop (e : EngId)
  /-- HALT (R349): Engine becomes HALTED, keeps the next address in ENG_PC and sets ENG_IRQ.PEND[15]. -/
  | halt (e : EngId)
  /-- JMP (R348): Unconditional jump to the computed target. -/
  | jmp (e : EngId)
  /-- JCC (R350): Jumps to the computed target when the condition coded in D holds. -/
  | jcc (e : EngId)
  /-- CALL (R349): Stores the return address in g15 and jumps. -/
  | call (e : EngId)
  /-- RET (R349): Jumps to g15[47:0] and keeps the space and endpoint of the program counter. -/
  | ret (e : EngId)
  /-- LOOP (R349): Decrements g[D] and jumps while the result is not zero. -/
  | loop (e : EngId)
  /-- TRAP (R349): Halts the engine with fault TRAP. -/
  | trap (e : EngId)
  /-- MOVI (R351): Loads an immediate into g[D], zero-extended, sign-extended or into the upper bits. -/
  | movi (e : EngId)
  /-- MOV (R351): Copies g[A] into g[D]. -/
  | mov (e : EngId)
  /-- ADD (R351): Adds a and b modulo 2^64 and sets Z, N, C and V. -/
  | add (e : EngId)
  /-- SUB (R351): Subtracts b from a modulo 2^64 and sets Z, N, C and V. -/
  | sub (e : EngId)
  /-- AND (R351): Bitwise AND of a and b; sets Z and N. -/
  | and (e : EngId)
  /-- OR (R351): Bitwise OR of a and b; sets Z and N. -/
  | or (e : EngId)
  /-- XOR (R351): Bitwise XOR of a and b; sets Z and N. -/
  | xor (e : EngId)
  /-- SHL (R351): Shifts a left by b[5:0] and sets Z, N and C. -/
  | shl (e : EngId)
  /-- SHR (R351): Shifts a right by b[5:0], logically or arithmetically, and sets Z, N and C. -/
  | shr (e : EngId)
  /-- CMP (R351): Sets the flags as SUB does and writes no register. -/
  | cmp (e : EngId)
  /-- MIN (R351): Writes the unsigned or signed minimum of a and b to g[D]. -/
  | min (e : EngId)
  /-- MAX (R351): Writes the unsigned or signed maximum of a and b to g[D]. -/
  | max (e : EngId)
  /-- LDS (R352): Loads one SRAM word into g[D]. -/
  | lds (e : EngId)
  /-- STS (R352): Stores g[B] into one SRAM word. -/
  | sts (e : EngId)
  /-- LDX (R352): Issues an 8 B or 64 B chip-memory read through the service NIU and waits for its response. -/
  | ldx (e : EngId)
  /-- STX (R352): Issues an 8 B or 64 B acknowledged write to chip memory and completes at the WAK. -/
  | stx (e : EngId)
  /-- RDREG (R352): Reads a fabric register over the control network into g[D]. -/
  | rdreg (e : EngId)
  /-- WRREG (R319): Writes a fabric register over the control network, with the DENIED cases of R319. -/
  | wrreg (e : EngId)
  /-- FENCE_E (R316): Invalidates the engine's instruction line buffer. -/
  | fenceE (e : EngId)
  /-- FTGET (R267): Reads the engine's local copy of Fabric Time into g[D]. -/
  | ftget (e : EngId)
  /-- WAITFT (R354): Waits until the local Fabric Time reaches g[A], or ends LATE when it already has. -/
  | waitft (e : EngId)
  /-- WAITEV (R330): Removes the oldest queued event record of the masked classes, or waits for one. -/
  | waitev (e : EngId)
  /-- RT_LOAD (R177): Reads and checks a route image and loads it into the other slot as the NEXT epoch. -/
  | rtLoad (e : EngId) (first : Quad)
  /-- RT_EPOCH (R178): Broadcasts the new epoch and makes NEXT current and the old current PREV. -/
  | rtEpoch (e : EngId)
  /-- RT_RETIRE (R178): Takes periodic epoch-count snapshots until the PREV epoch holds no packet, then frees the slot. -/
  | rtRetire (e : EngId)
  /-- LINK_EXCL (R179): Marks a link as pending exclusion. -/
  | linkExcl (e : EngId)
  /-- LINK_INCL (R200): Cancels a pending exclusion or starts training of an excluded link. -/
  | linkIncl (e : EngId)
  /-- LANE_MAP (R195): Marks further slices of one link direction failed and starts a map change. -/
  | laneMap (e : EngId)
  /-- SP_SCHED (R222): Stores a pending TC2 reservation mask and its effect time in every station. -/
  | spSched (e : EngId)
  /-- SP_PORT_OFF (R228): Makes a station CLOSING and completes when it is empty and DISABLED. -/
  | spPortOff (e : EngId)
  /-- SP_PORT_ON (R229): Enables a station at the next rotor period boundary. -/
  | spPortOn (e : EngId)
  /-- SP_THRESH (R216): Writes the admission thresholds and caps in every station. -/
  | spThresh (e : EngId)
  /-- DOM_DRAIN (R390): Stops the ports of a domain and waits until it is DRAINED. -/
  | domDrain (e : EngId)
  /-- DOM_FENCE (R391): Sets the tile's fence bit in every NIU and waits until every NIU reports QUIET. -/
  | domFence (e : EngId)
  /-- DOM_OFF (R392): Opens every switch segment of a FENCED domain and makes it OFF. -/
  | domOff (e : EngId)
  /-- DOM_ON (R393): Powers a domain under R375 and completes when it is FENCED. -/
  | domOn (e : EngId)
  /-- DOM_UNFENCE (R393): Clears the tile's fence bits and LOSS_FENCE in every NIU, and the domain becomes ON. -/
  | domUnfence (e : EngId)
  /-- DOM_FEED (R376): Forces a domain onto VFA or VFB, or returns it to priority selection. -/
  | domFeed (e : EngId)
  /-- DOM_STAT (R357): Returns the PD_STAT word of a domain. -/
  | domStat (e : EngId)
  /-- FL_INV (R240): Drops every cached copy of a flow without write-back and ends any hold on it. -/
  | flInv (e : EngId)
  /-- FL_FLUSH (R240): Writes back the dirty halves of every cached copy of a flow and drops the copies. -/
  | flFlush (e : EngId)
  /-- FL_FLUSH_HOLD (R240): Flushes a flow and leaves it held until FL.INV. -/
  | flFlushHold (e : EngId)
  /-- FL_PIN (R239): Pins a flow's entry in one NIU's cache and completes when it is filled. -/
  | flPin (e : EngId)
  /-- FL_UNPIN (R239): Releases the pin on a flow's cache entry. -/
  | flUnpin (e : EngId)
  /-- SH_SET (R245): Writes a shaper's mode, class, weight, rate and burst; mode, rate and burst apply at the next refill tick. -/
  | shSet (e : EngId)
  /-- SH_GET (R360): Reads a shaper's config and state words. -/
  | shGet (e : EngId)
  /-- GT_LOAD (R273): Copies a gate list into an NIU's pending bank. -/
  | gtLoad (e : EngId)
  /-- GT_ARM (R274): Arms the pending gate list with a start time, with or without ALIGN. -/
  | gtArm (e : EngId)
  /-- GT_STAT (R275): Returns GT_STAT, GT_CT and the gate-list entry in force. -/
  | gtStat (e : EngId)
  /-- ADM_RESV (R251): Checks a reservation against the admission ledger and, when it fits, records it and makes the shaper GUARANTEED. -/
  | admResv (e : EngId)
  /-- ADM_FREE (R252): Removes a shaper's reservation, and the shaper becomes STANDARD at the next tick. -/
  | admFree (e : EngId)
  /-- CB_GROUP (R281): Checks a combine group descriptor and writes the group's entry at every node. -/
  | cbGroup (e : EngId)
  /-- CB_FREE (R295): Waits until every node of a group is quiet, then releases its entries and buffers. -/
  | cbFree (e : EngId)
  /-- GD_SET (R305): Writes one whole guard region at an endpoint's guard. -/
  | gdSet (e : EngId)
  /-- GD_SET_DEFAULT (R305): Writes a guard's default policy. -/
  | gdSetDefault (e : EngId)
  /-- GD_LOCK (R307): Sets guard lock bits for regions or the default policy. -/
  | gdLock (e : EngId)
  /-- GD_SYNC (R306): Moves the guard's NEW count into OLD and waits until OLD reaches zero. -/
  | gdSync (e : EngId)
  /-- PL_DETACH (R415): Moves every flow of the leaving plane to the staying plane. -/
  | plDetach (e : EngId)
  /-- PL_ATTACH (R417): Sweeps flow state to the twin and establishes mirroring. -/
  | plAttach (e : EngId)
  /-- PL_MIGRATE (R415): Moves a range of flows from the executing plane to the twin. -/
  | plMigrate (e : EngId)
  /-- PC_CFG (R437): Configures a counter and optionally loads it. -/
  | pcCfg (e : EngId)
  /-- PC_READ (R363): Reads a counter's value and OVF into g[D]. -/
  | pcRead (e : EngId)
  /-- SMP_CFG (R442): Configures a queue sampler from a descriptor. -/
  | smpCfg (e : EngId)
  /-- MIR_CFG (R444): Configures the mirror ring and its match rules, and resets PROD, DONE and CONS. -/
  | mirCfg (e : EngId)
  /-- POST (R333): Writes a mailbox slot with a tag from the post counter. -/
  | post (e : EngId)
  /-- IRQ (R331): Sets a bit of the engine's ENG_IRQ.PEND. -/
  | irq (e : EngId)
  /-- FLT_CLR (R453): Removes one fault record whose cause no longer persists. -/
  | fltClr (e : EngId)
  /-- FLT_CLR_ALL (R453): Removes every fault record whose cause no longer persists. -/
  | fltClrAll (e : EngId)
  /-- CAP (R3): Returns the value of CAP_UNITS in g[D]. -/
  | cap (e : EngId)
  /-- INSTRUCTION_LIMIT_EXPIRY (R341): A waiting instruction's limit passes, and it ends with TIMEOUT. -/
  | instructionLimitExpiry (e : EngId)
  /-- WAITFT_COMPLETE (R267): The engine's copy of Fabric Time reaches the WAITFT operand. -/
  | waitftComplete (e : EngId)
  /-- WAITEV_RECORD (R330): A matching record arrives for a waiting WAITEV and is removed and returned. -/
  | waitevRecord (e : EngId)
  /-- EPOCH_SNAPSHOT (R178): An RT.RETIRE snapshot result arrives, and the retire completes when the PREV count is zero. -/
  | epochSnapshot
  /-- STATION_DISABLED (R228): A CLOSING station becomes empty and DISABLED, completing SP.PORT OFF. -/
  | stationDisabled (p : Stn)
  /-- STATION_ENABLE (R229): At the next period boundary a station switched on becomes ENABLED with an empty buffer. -/
  | stationEnable (p : Stn)
  /-- GD_SYNC_COMPLETE (R306): A guard's OLD count reaches zero and the pending GD.SYNC completes. -/
  | gdSyncComplete (ep : Ep)
  /-- DOMAIN_DRAINED (R390): A DRAINING domain meets the drain condition and becomes DRAINED. -/
  | domainDrained (d : Dom)
  /-- DOMAIN_FENCED (R391): Every NIU reports QUIET for the tile, and the domain becomes FENCED. -/
  | domainFenced (d : Dom)
  /-- CB_FREE_COMPLETE (R295): Every node of a group is IDLE or FAILED and empty, and the group is released. -/
  | cbFreeComplete (g : Group)
  /-- FLOW_COPY_DROPPED (R240): A locked flow copy unlocks or its write-back retires, and it is dropped. -/
  | flowCopyDropped (n : NiuId) (flow : BitVec 16)
  /-- ENG_LAUNCH (R326): A write to ENG_LAUNCH starts a program or is rejected with LAUNCH_REJ. -/
  | engLaunch (e : EngId) (v : Word) (priv : Bool) (mid : BitVec 16)
  /-- ENG_STOP (R327): A write to ENG_STOP halts the engine with fault STOPPED at the next boundary. -/
  | engStop (e : EngId) (v : Word) (priv : Bool) (mid : BitVec 16)
  /-- ENG_EVT_IN (R329): A write to ENG_EVT_IN posts a HOST event to the engine. -/
  | engEvtIn (e : EngId) (v : Word) (priv : Bool) (mid : BitVec 16)
  /-- ENG_SRAM_ACCESS (R336): A host access to ENG_SRAM_DATA reads or writes an SRAM word and advances WORD. -/
  | engSramAccess (e : EngId) (write : Option Word) (priv : Bool) (mid : BitVec 16)
  /-- MBX_ACK (R335): Clears a mailbox slot whose tag matches, or sets ACK_MISS. -/
  | mbxAck (v : Word) (priv : Bool) (mid : BitVec 16)
  /-- ADM_BRQ_POP (R256): Removes the oldest breach record. -/
  | admBrqPop (v : Word) (priv : Bool) (mid : BitVec 16)
  /-- GD_LOG_POP (R311): Removes the oldest guard denial record. -/
  | gdLogPop (ep : Ep) (v : Word) (priv : Bool) (mid : BitVec 16)
  /-- CLR_MEAS (R388): Restarts a domain's PEAK_I and MIN_V measurements. -/
  | clrMeas (d : Dom) (v : Word) (priv : Bool) (mid : BitVec 16)
  /-- FLT_SAFE_ENTER (R456): A host write enters the safe state with cause HOST. -/
  | fltSafeEnter (v : Word) (priv : Bool) (mid : BitVec 16)
  /-- FLT_SAFE_EXIT (R460): A host write ends a HOST or ESCALATE safe state, or sets EXIT_REJ. -/
  | fltSafeExit (v : Word) (priv : Bool) (mid : BitVec 16)
  /-- MIR_CONS_WRITE (R449): The host advances the mirror ring's consumer count, capped at DONE. -/
  | mirConsWrite (v : Word) (priv : Bool) (mid : BitVec 16)
  /-- FLOW_TBL_WRITE (R487): A change of FLOW_TBL.EN makes the NIUs drop table entries or default entries. -/
  | flowTblWrite (v : Word)
  /-- PWR_CFG_NOM_WRITE (R370): A write of the nominal voltage starts the NOM_BLANK window. -/
  | pwrCfgNomWrite (v : Word)
  /-- CLEARING_READ (R16): A read of an RC field returns it and clears it, keeping same-cycle events. -/
  | clearingRead (a : BitVec 24) (priv : Bool) (mid : BitVec 16)
  /-- REGISTER_WRITE (R15): A register write that has no row of its own, under the access code of each field. -/
  | registerWrite (a : BitVec 24) (v : Word) (priv : Bool) (mid : BitVec 16)
  /-- RP_FAR_ACCESS (R467): The register port accepts a far access and sends it across the crossing. -/
  | rpFarAccess (a : BitVec 24) (write : Option Word) (priv : Bool) (mid : BitVec 16)
  /-- RP_FAR_RESPONSE (R468): A far access completes, and the register port presents its response. -/
  | rpFarResponse
  /-- HUNG_TARGET_RECORD (R428): A far access has waited 4,096 RCLK cycles and is recorded in HUNG_TARGET. -/
  | hungTargetRecord
  /-- REQ_HEADER_BEAT (R67): The port accepts or refuses a request header beat, and the NIU begins injection. -/
  | reqHeaderBeat (ep : Ep) (data : BeatBits) (last dbg : Bool) (sub : Sub)
  /-- REQ_DATA_BEAT (R70): The port accepts a request data beat and checks ep_req_last. -/
  | reqDataBeat (ep : Ep) (data : BeatBits) (last : Bool) (sub : Sub)
  /-- BARRIER_BEAT (R143): The port accepts a BAR_LD, BAR_ST or BAR_FULL beat. -/
  | barrierBeat (ep : Ep) (kind : BarKind) (sub : Sub)
  /-- BARRIER_COMPLETE (R144): A barrier's condition holds, and ep_bar_done pulses in acceptance order. -/
  | barrierComplete (ep : Ep)
  /-- EP_ABORT (R77): ep_abort changes; while it is 1 the port refuses beats and discards partial units. -/
  | epAbort (ep : Ep) (level : Bool)
  /-- EP_RST_ASSERT (R79): ep_rst_n falls: open messages are abandoned and held responses discarded. -/
  | epRstAssert (ep : Ep)
  /-- EP_RST_RELEASE (R80): ep_rst_n rises, the NIU captures ep_inc, and ep_stop holds for 8 port cycles. -/
  | epRstRelease (ep : Ep) (inc : BitVec 8)
  /-- EP_INC_CHANGE (R81): ep_inc changes outside port reset and sets INC_IGN. -/
  | epIncChange (ep : Ep) (inc : BitVec 8)
  /-- SP_GRANT_CHANGE (R88): The shared-port grant passes to a weighted-selected candidate or parks. -/
  | spGrantChange (ep : Ep) (req : BitVec 4)
  /-- STARVE_LIMIT_REACHED (R90): A waiting sub-endpoint's wait count reaches STARVE_LIMIT and a port event is posted. -/
  | starveLimitReached (ep : Ep) (sub : Sub)
  /-- RSP_BEAT_ACCEPT (R102): The endpoint accepts a response beat, and the tracker entry is freed at the last beat. -/
  | rspBeatAccept (ep : Ep)
  /-- TREQ_BEAT_ACCEPT (R137): The endpoint accepts a target-request beat; the request is performed at its last beat. -/
  | treqBeatAccept (ep : Ep)
  /-- TRSP_BEAT (R112): The NIU takes a target-response beat, frees the TTAG and forms the response packet. -/
  | trspBeat (ep : Ep) (data : BeatBits) (last : Bool)
  /-- INGRESS_TAKE (R94): The NIU core takes the beat at the head of the ingress buffer once it has a place. -/
  | ingressTake (ep : Ep)
  /-- FLOW_FILL_RESPONSE (R486): A flow-cache fill returns, and the entry is validated or the waiting requests fail. -/
  | flowFillResponse (q : Quad)
  /-- PACKET_RELEASE (R246): The scheduler selects a packet, checks fence and route, stamps EPOCH and SEQ and releases the head. -/
  | packetRelease (n : NiuId)
  /-- RETX_DEADLINE (R119): A retransmit deadline expires, and the copy is resent or the flow enters ERROR. -/
  | retxDeadline (n : NiuId) (flow seq : BitVec 16)
  /-- PACKET_EJECT (R105): A request packet ejects at a target NIU and passes the safe-state, incarnation and window checks. -/
  | packetEject (ep : Ep) (vc : Vc)
  /-- TARGET_PRESENT (R105): The next packet in order is guard-checked and presented on the target-request channel. -/
  | targetPresent (ep : Ep)
  /-- RESPONSE_ARRIVAL (R101): A response arrives at its source NIU and is matched by TAG, retiring or answering the request. -/
  | responseArrival (n : NiuId) (vc : Vc)
  /-- REASM_TIMEOUT (R111): A reassembly context times out and is freed without a MAK. -/
  | reasmTimeout (ep : Ep) (flow : BitVec 16) (src : BitVec 10) (msg : BitVec 8)
  /-- LINK_SLOT_RECEIVE (R189): A receiver checks an arriving link slot and accepts, corrects, replays or discards it. -/
  | linkSlotReceive (d : LinkDir) (ctlErr : BitVec 24) (sliceErr : BitVec 648)
  /-- NAK_RECEIVE (R192): A sender receives a NAK, sends RPLY and resends from the named slot. -/
  | nakReceive (d : LinkDir)
  /-- LREQ_RECEIVE (R196): A sender receives LREQ and answers with LMAP. -/
  | lreqReceive (d : LinkDir)
  /-- LMAP_RECEIVE (R196): A receiver accepts LMAP and decodes under the new map from the third slot. -/
  | lmapReceive (d : LinkDir)
  /-- SLICE_THRESHOLD (R195): A slice reaches SLICE_THR errors in the window and is marked failed. -/
  | sliceThreshold (d : LinkDir) (slice : Slice)
  /-- LINK_TRAINING_DONE (R199): Training ends, and the link becomes UP or DEAD. -/
  | linkTrainingDone (n : LinkId) (fwd back : BitVec 9) (ctlBad : Bool)
  /-- ROUTER_SWITCH (R159): A head or flit wins switch allocation, takes lookahead route computation and traverses. -/
  | routerSwitch (t : Tile) (out : Port)
  /-- ROTOR_SLOT (R207): At a slot start, ports launch eligible cells into nodes and nodes send cells through stage 2. -/
  | rotorSlot
  /-- EXIT_STAGE_PASS (R210): The exit stage passes a flit into the SPN input VC when credit allows and sets SPH. -/
  | exitStagePass (p : Stn)
  /-- GRID_MARK (R218): Eland receives a grid mark and stays locked, slews or acquires. -/
  | gridMark
  /-- STATION_DEAD (R230): A station becomes DEAD, and cells toward its port are discarded. -/
  | stationDead (p : Stn)
  /-- REFILL_TICK (R244): At each 20 ns FT tick every shaper applies pending changes and refills tokens. -/
  | refillTick
  /-- ADMISSION_RECHECK (R253): After a capacity change the ledger rechecks resources and sheds reservations. -/
  | admissionRecheck
  /-- GATE_TAKEOVER (R275): At S the armed pending gate list becomes active. -/
  | gateTakeover (ep : Ep)
  /-- GATE_ENTRY_CHANGE (R271): A gate-list entry ends and the next takes force. -/
  | gateEntryChange (ep : Ep)
  /-- TP_OFFER (R259): A toggle of tp_flag offers a time value, which is captured and applied as a load, slew, step or freeze. -/
  | tpOffer (time : Word) (crc : BitVec 8) (valid : Bool) (since : BitVec 16)
  /-- HOLDOVER_ENTRY (R265): No OK capture for LOSS_US µs takes the keeper to HOLDOVER. -/
  | holdoverEntry
  /-- FREEZE_END (R264): The shadow time reaches the held value and the keeper resumes TRACK. -/
  | freezeEnd
  /-- COMBINE_RED_ARRIVAL (R287): A member's RED reaches its node and is merged or rejected. -/
  | combineRedArrival (t : Tile)
  /-- COMBINE_PARTIAL_ARRIVAL (R288): A child's partial result reaches a node and is merged or discarded. -/
  | combinePartialArrival (t : Tile)
  /-- COMBINE_RESULT_ARRIVAL (R290): A round's result reaches a node and is copied to children and local members. -/
  | combineResultArrival (t : Tile)
  /-- COLLECT_TIMEOUT (R291): A COLLECT round expires and sends what it has with status PARTIAL. -/
  | collectTimeout (t : Tile) (g : Group)
  /-- SENT_TIMEOUT (R291): A SENT node expires, forwards its own partial as a PARTIAL result and becomes FAILED. -/
  | sentTimeout (t : Tile) (g : Group)
  /-- TWIN_FRAME_RECEIVE (R407): A twin-link frame is received, checked by CRC, acknowledged or NAKed. -/
  | twinFrameReceive (data : BitVec 512) (ctl : BitVec 30) (crc : BitVec 32)
  /-- SREC_APPLY (R408): A source record is applied to the twin's shadow tracker and TX_SEQ. -/
  | srecApply
  /-- RETIRE_APPLY (R408): A RETIRE record removes a shadow-tracker entry. -/
  | retireApply
  /-- RXMARK_APPLY (R408): An RXMARK record updates the twin's receive half. -/
  | rxmarkApply
  /-- ATOM_APPLY (R408): An ATOM record writes the prior value into the twin's atomic result cache. -/
  | atomApply
  /-- OREL_APPLY (R408): An OREL record advances TX_SEQ at the source and RX_NEXT at the destination. -/
  | orelApply
  /-- FSTATE_APPLY (R408): An FSTATE record updates the twin's send half. -/
  | fstateApply
  /-- COPY_APPLY (R417): A COPY frame writes a flow's state fields into the twin's entry. -/
  | copyApply
  /-- HB_SEND (R411): The twin unit sends a heartbeat frame every 10 AON cycles. -/
  | hbSend
  /-- HB_RECEIVE (R418): A heartbeat is received, time offset is measured, and FAILED = 1 declares the twin dead. -/
  | hbReceive
  /-- HB_MISSED (R412): A heartbeat period passes with no valid heartbeat, and the unit may withdraw or declare the twin DEAD. -/
  | hbMissed (live : Bool)
  /-- TWIN_LINK_TRAINED (R401): The twin link trains and both units enter ATTACHED or DETACHED. -/
  | twinLinkTrained (fresh : Bool) (variant : BitVec 4) (plane : Bool)
  /-- TWIN_ABSENT_TIMEOUT (R401): 10 µs after pw_ready with the twin still DOWN, the plane declares it DEAD with cause ABSENT. -/
  | twinAbsentTimeout
  /-- NOTICE_ANSWERED (R415): An endpoint answers its plane notice and the flush handshake starts. -/
  | noticeAnswered (ep : Ep)
  /-- FLUSH_HANDSHAKE_DONE (R415): A flush handshake completes, and arriving flows may be released; the move may complete. -/
  | flushHandshakeDone (ep : Ep)
  /-- POR_ASSERT (R368): pw_por_n falls and holds the instance in instance reset. -/
  | porAssert
  /-- STARTUP_T0 (R371): Supplies and clocks are valid and the staging sequencer starts start-up. -/
  | startupT0
  /-- AON_RESET_RELEASE (R485): The always-on reset releases, the keeper starts in FREE and tp_ack follows tp_flag. -/
  | aonResetRelease (tpFlag : Bool)
  /-- STARTUP_READY (R373): At t0 + 25 µs pw_ready rises and missing domains are counted. -/
  | startupReady
  /-- RAMP_ADMIT (R375): The sequencer admits a domain's ramp once a feed is valid and the inrush limit allows. -/
  | rampAdmit (d : Dom)
  /-- POWER_GOOD_RISE (R383): A domain's power-good rises. -/
  | powerGoodRise (d : Dom) (m : Meas)
  /-- POWER_GOOD_FALL (R384): Power-good falls while switched on, raising FEED_WARN and PG_DROP. -/
  | powerGoodFall (d : Dom) (m : Meas)
  /-- DOMAIN_RESET_RELEASE (R375): 0.5 µs after power-good the domain's reset is released. -/
  | domainResetRelease (d : Dom)
  /-- DOMAIN_INIT_DONE (R375): Domain initialization ends, fence bits and ep_inc are loaded and links begin training. -/
  | domainInitDone (d : Dom)
  /-- FEED_CHANGEOVER (R377): The selected feed falls below 96 % and the domain changes over break-before-make. -/
  | feedChangeover (d : FeedAt)
  /-- FEED_RETURN (R376): VFA has been valid for RETURN_US and the domain returns to it. -/
  | feedReturn (d : Dom)
  /-- FEED_WARN_RAISE (R378): The feed falls below 94 % with no changeover and FEED_WARN stops the ports. -/
  | feedWarnRaise (d : FeedAt)
  /-- FEED_WARN_END (R378): The feed recovers or a changeover is made and FEED_WARN ends. -/
  | feedWarnEnd (d : FeedAt)
  /-- SUPPLY_LOSS (R379): The feed falls below 88 % with no changeover and the domain opens. -/
  | supplyLoss (d : FeedAt)
  /-- FAST_TRIP (R380): A segment exceeds 62.5 mA and the domain opens within 0.4 µs. -/
  | fastTrip (d : Dom) (m : Meas)
  /-- SLICE_LIMIT_ENTER (R382): A slice enters its current limit and the fault timer starts. -/
  | sliceLimitEnter (d : Dom) (slice : SwSlice) (m : Meas)
  /-- TIMER_TRIP (R382): The fault timer expires and the domain opens. -/
  | timerTrip (d : Dom)
  /-- RETRY_TIMER (R387): 100 × FAULT_TO after a trip the domain is powered again or latches off. -/
  | retryTimer (d : Dom)
  /-- RETRY_RELOAD (R387): After power-good held for 100 × FAULT_TO, RETRY_LEFT is reloaded. -/
  | retryReload (d : Dom)
  /-- CLOCK_MODE_CHANGE (R463): The first pw_fclk edge in a new mode changes the increment and starts acquisition and recheck. -/
  | clockModeChange (code : BitVec 2)
  /-- FCLK_STOP_DETECT (R427): No FCLK edge within 2 AON cycles sets FCLK_STOP. -/
  | fclkStopDetect
  /-- AON_STOP_DETECT (R427): No AON edge within 64 FCLK cycles sets AON_STOP. -/
  | aonStopDetect
  /-- CLOCK_RESTART (R427): A stopped clock runs again, the stop flag clears and hung accesses complete. -/
  | clockRestart (aon : Bool)
  /-- EVENT_CHANNEL_TRANSFER (R426): An event-channel transfer arrives and its count is added to counters and queues. -/
  | eventChannelTransfer (toAon : Bool) (chan : Dom)
  /-- FU_PARITY_FAIL (R456): A fault-unit register fails parity and the safe state is entered. -/
  | fuParityFail
  /-- SAFE_STATE_ACT (R457): An NIU, engine, station or twin unit acts on the safe-state broadcast. -/
  | safeStateAct (u : SafeUnit)
  /-- ERR_PULSE_END (R455): A DWN_ERR_N pulse of PULSE_US ends. -/
  | errPulseEnd
  /-- COUNTER_WRAP (R440): A counter wraps, sets OVF and, with SINT, reloads, snapshots and posts a SAMPLE event. -/
  | counterWrap (c : CtrId)
  /-- SAMPLER_SAMPLE (R443): At a multiple of PERIOD a sampler samples its queue and updates bins. -/
  | samplerSample (s : SmpId)
  /-- FETCH_RESPONSE (R316): A chip-memory instruction fetch returns a line or halts the engine with FETCH. -/
  | fetchResponse (e : EngId)
  /-- FABRIC_INSTRUCTION_COMPLETION (R346): A fabric instruction's command completes at its targets and the completion returns to
  the waiting engine, which sets ST and continues, halts or releases the token. -/
  | fabricInstructionCompletion (e : EngId)
  /-- EPOCH_BROADCAST_ARRIVAL (R178): The new epoch number of RT.EPOCH reaches an NIU or combine unit, which stamps it from then on. -/
  | epochBroadcastArrival (u : EpochUnit)
  /-- POWER_GOOD_DEADLINE (R375): Power-good has not risen by the later of 10 µs after the ramp began and 2 µs after a slice last
  left the limit, and the domain trips as a timer trip. -/
  | powerGoodDeadline (d : Dom)
  /-- SLICE_LIMIT_LEAVE (R383): A slice leaves its current limit, which starts the 1 µs quiet time that resets the fault timer and
  allows power-good. -/
  | sliceLimitLeave (d : Dom) (slice : SwSlice)
  /-- FEED_VALIDITY_CHANGE (R369): A feed becomes valid after 1 µs at or above 97 % of nominal, or falls below 97 %, changing
  FEEDA_OK or FEEDB_OK. -/
  | feedValidityChange (b : Bool) (valid : FeedLevel)
  /-- NOM_BLANK_END (R370): NOM_BLANK µs after a write of PWR_CFG.NOM the blanking window ends, and changeover, FEED_WARN and
  undervoltage actions resume. -/
  | nomBlankEnd
  /-- EP_STOP_HOLD_END (R80): 8 port cycles after an incarnation capture, ep_stop is released unless another stop condition holds. -/
  | epStopHoldEnd (ep : Ep)
  /-- LREQ_REPEAT (R196): A receiver that has sent LREQ and seen no LMAP sends LREQ again after 16 FCLK cycles. -/
  | lreqRepeat (d : LinkDir)
  /-- TAP_INSTRUCTION_CHANGE (R477): A new IEEE 1149.1 instruction takes effect; entering EXTEST or CLAMP holds the instance in
  reset, and leaving them starts start-up from a new t0. -/
  | tapInstructionChange (op : BitVec 8)
  /-- MEMORY_TEST_START (R478): A start request reaches a domain's memory test controller through the IEEE 1687 network and starts
  it when the domain is FENCED, or reads NOT_ALLOWED otherwise. -/
  | memoryTestStart (d : Dom)
  /-- MEMORY_TEST_DONE (R478): A memory test ends, leaving the tested contents undefined and clearing the quadrant engine SRAM as at
  power-up. -/
  | memoryTestDone (d : Dom)
  /-- SCAN_MODE_CHANGE (R465): SCAN_MODE rises and the instance stops all function, sending no heartbeat. -/
  | scanModeChange (level : Bool)
deriving DecidableEq, Repr

end Sys2Proof
end

