-- ==== Sys2Proof/Decode.lean ====
section
/-! DEFINITION. The block has no instruction words of its own at its boundary: no row of the opcode table carries bits,
so no word spells a command. (The words that the engines fetch are state of the engines; Machine/Operands.lean says
which of them are defined.) -/

namespace Sys2Proof

/-- The command that a word spells by the table's bits: none, since the table gives no row any bits. -/
def decodeTableWord (_nbits _w : Nat) : Option Instr := none

end Sys2Proof
end

