-- ==== Sys2Proof/Config.lean ====
section
/-! DEFINITION. The free values: what the spec leaves open although the machine goes on. Each constant has no body,
so nothing can be proved of its value; a meaning applies it to the counter `frees` of the state, which it then
advances (log entry 2). -/

namespace Sys2Proof.Config

/-- The lag of one read of FT_NOW behind the keeper, before it is brought inside the bounds of R267
(log entry 10). -/
opaque ftLag : Nat → Nat

/-- Whether a slew still to apply that is no whole number of ns reads in TIME_ERR as the number above it (R277 gives no rounding; log
entry 20). -/
opaque slewUp : Int → Bool

/-- A word the spec leaves undefined or does not state: SRAM after a memory test (R478), the instruction word of a
halt at which no instruction was fetched (R334; log entry 11). -/
opaque freeWord : Nat → Word

/-- A number drawn where the spec gives no rule for which of several alternatives happens (log entry 2). -/
opaque freeNat : Nat → Nat

/-- What R406 leaves open of the CRC-32 of a twin-link frame, whose generator it gives: which bit of ctl and data (ctl above
data) is divided at each place, the register's value before the first bit, and what is added to it after the last (log entry 17). -/
opaque crcOrder : Nat → Nat
opaque crcInit : BitVec 32
opaque crcFinal : BitVec 32

/-- The layout of a CTRL frame (R407 names the kind alone): the frame for a message and two numbers, and what a received
frame says (log entry 17). -/
opaque ctrlFrame : Nat → Nat → Nat → BitVec 512
opaque ctrlCode : BitVec 512 → Nat
opaque ctrlA : BitVec 512 → Nat
opaque ctrlB : BitVec 512 → Nat

/-- Test access (log entry 101): the boundary register, the IDCODE register and the segment insertion bits after any number of
shifts from TDI, the levels of TCK, TMS, TDI and TRST_N, the signal whose cell stands next to TDO, since the BSDL file gives the
order of the cells (R477), a domain's junction temperature at an AON cycle (R478), and in scan mode the levels of SCAN_CLK, SCAN_EN,
SCAN_RST_N and SCAN_SI and what SCAN_SO shows (R465). -/
opaque boundary : Nat → BitVec 1675
opaque idShift : Nat → BitVec 32
opaque segBits : Nat → BitVec 134
opaque tapPins : Nat → BitVec 4
opaque bsNext : Nat
opaque dieTemp : Nat → Nat → Nat
opaque scanIn : Nat → BitVec 633
opaque scanOut : Nat → BitVec 630

/-- A flow table entry in chip memory that the sweep of PL.ATTACH reads (R417): memory is outside the instance
(log entry 17). -/
opaque tableEntry : Nat → BitVec 512

end Sys2Proof.Config
end

