-- ==== Sys2Proof/Machine/Bits.lean ====
section
/-! DEFINITION. Bit fields of words, flits and beats, and small arithmetic shared by every unit. -/

namespace Sys2Proof.Machine

/-- The field of `len` bits from bit `lo` upward, as a number (R11). -/
def bf {n : Nat} (w : BitVec n) (lo len : Nat) : Nat := (w.extractLsb' lo len).toNat

/-- One bit. -/
def bt {n : Nat} (w : BitVec n) (i : Nat) : Bool := w.getLsbD i

/-- `w` with the field of `len` bits from bit `lo` set to `v` (modulo 2^len). -/
def sf {n : Nat} (w : BitVec n) (lo len v : Nat) : BitVec n :=
  (w &&& ~~~(BitVec.ofNat n ((2 ^ len - 1) <<< lo))) ||| BitVec.ofNat n ((v % 2 ^ len) <<< lo)

/-- `v` as a field at bit `lo` of a word under construction. -/
def mkf (n lo len v : Nat) : BitVec n := BitVec.ofNat n ((v % 2 ^ len) <<< lo)

/-- 1 for true. -/
def b1 (b : Bool) : Nat := if b then 1 else 0

/-- Saturating addition at `2^len - 1`. -/
def satAdd (len a b : Nat) : Nat := min (a + b) (2 ^ len - 1)

/-- How many bits of the low `len` bits are set. -/
def pop {n : Nat} (w : BitVec n) : Nat → Nat
  | 0 => 0
  | k + 1 => b1 (bt w k) + pop w k

/-- Ceiling division. -/
def cdiv (a b : Nat) : Nat := (a + b - 1) / b

/-- (a - b) mod 65536 for sequence numbers (R106, R126). -/
def seqDist (a b : BitVec 16) : Nat := (a - b).toNat

/-- The number written to a two's complement field of `len` bits for the integer `i`, saturated (R277, R231). -/
def satInt (len : Nat) (i : Int) : Nat :=
  let m : Int := 2 ^ (len - 1) - 1
  let c := if i > m then m else if i < -m then -m else i
  (c % (2 ^ len : Int)).toNat

/-- The two's complement value of a field of `len` bits. -/
def sval (len v : Nat) : Int := if v < 2 ^ (len - 1) then (v : Int) else (v : Int) - 2 ^ len

/-- The first element of a list that satisfies `p`, with its index. -/
def firstIdx {α : Type} (p : α → Bool) : List α → Option (Nat × α)
  | [] => none
  | x :: t => if p x then some (0, x) else (firstIdx p t).map (fun r => (r.1 + 1, r.2))

/-- The list without the element at index `i`. -/
def dropAt {α : Type} : List α → Nat → List α
  | [], _ => []
  | _ :: t, 0 => t
  | x :: t, i + 1 => x :: dropAt t i

/-- The list with the element at index `i` changed by `f`. -/
def modAt {α : Type} (f : α → α) : List α → Nat → List α
  | [], _ => []
  | x :: t, 0 => f x :: t
  | x :: t, i + 1 => x :: modAt f t i

/-- How many elements satisfy `p`. -/
def cnt {α : Type} (p : α → Bool) (l : List α) : Nat := (l.filter p).length

/-- Apply `f` for each element, left to right. -/
def each {α σ : Type} (l : List α) (f : α → σ → σ) (s : σ) : σ := l.foldl (fun s a => f a s) s

/-- The lowest index below `n` that satisfies `p`. -/
def lowest (p : Nat → Bool) (n : Nat) : Option Nat := (List.range n).find? p

end Sys2Proof.Machine
end

