-- ==== Sys2Proof/Machine/RegMap.lean ====
section
/-! DEFINITION. The registers of the 16 MiB window (R472): their fields with access codes and reset values (R15, R17),
which of them are privileged (R469), and where they lie (R473, R474 and the rules of each unit's chapter). -/

namespace Sys2Proof.Machine

/-- The access codes of R15. -/
inductive Acc where
  | ro | rw | w1c | rc | wo | eo
deriving DecidableEq, Repr

/-- One field of a register: lowest bit, length, access code, reset value. -/
structure RField where
  lo  : Nat
  len : Nat
  acc : Acc
  rst : Nat
deriving DecidableEq, Repr

/-- The registers that the spec names, one constructor each. -/
inductive Reg where
  | capUnits
  | portStat
  | portSpCfg
  | portSpWeight
  | portEvt
  | portDrop
  | niuStat
  | niuCfg
  | fenceLo
  | fenceHi
  | quietLo
  | quietHi
  | niuEvt
  | niuDrop
  | niuCnt
  | lostPosted
  | rtrEpoch
  | rtrCfg
  | rtrEvt
  | rtrCnt
  | rtrOcc
  | linkStat
  | linkCfg
  | linkCnt
  | spStat
  | spThresh
  | spResv
  | spResvAt
  | spStn
  | spClosing
  | spEvt
  | spLost
  | spStnStat
  | spStnPeak
  | flowTbl
  | schFcStat
  | schFcCnt
  | schActive
  | schBlock
  | schEvt
  | schBadCnt
  | admCfg
  | admStat
  | admBrq
  | admBrqPop
  | timeStat
  | timeCfg
  | ftNow
  | timeLast
  | timeErr
  | timeEvt
  | timeCnt
  | gtStat
  | gtCt
  | gtStart
  | gtPendAt
  | gtEvt
  | gtCnt
  | cbStat
  | cbEvt
  | cbCnt
  | cbFail
  | gdStart
  | gdEnd
  | gdRule01
  | gdRule23
  | gdCfg
  | gdStat
  | gdLog0
  | gdLog1
  | gdLogPop
  | gdCnt
  | engStat
  | engPc
  | engLaunch
  | engArg0
  | engArg1
  | engStop
  | engFault
  | engFaultInsn
  | engSramAddr
  | engSramData
  | engEvtIn
  | engIrq
  | mbxHdr
  | mbxD
  | mbxAck
  | pdStat
  | pdCfg
  | pdCtl
  | pdEvt
  | pdCnt
  | pwrSeq
  | pwrCfg
  | pwrSum
  | twStat
  | twCfg
  | twEvt
  | twCnt
  | twOffset
  | twMap
  | hungTarget
  | xingStat
  | pcVal
  | pcCfg
  | pcSnap
  | smpStat
  | smpMax
  | smpCfg0
  | smpCfg1
  | smpHd
  | smpHa
  | mirCfg
  | mirProd
  | mirDone
  | mirCons
  | mirDrop
  | fltSum
  | fltCfg
  | fltErrCtl
  | fltSafe
  | fltRecA
  | fltRecB
  | devId
  | instStat
  | irqSum
  | clkStat
  | rpDeny
deriving DecidableEq, Repr

/-- The fields of a register that are not reserved; a reserved field reads as zero (R18). -/
def Reg.fields : Reg → List RField
  | .capUnits => -- R2
    [⟨24, 8, .ro, 128⟩, ⟨16, 8, .ro, 0⟩, ⟨8, 4, .ro, 0⟩, ⟨3, 1, .ro, 0⟩, ⟨2, 1, .ro, 0⟩, ⟨1, 1, .ro, 0⟩, ⟨0, 1, .ro, 0⟩]
  | .portStat => -- R92
    [⟨32, 8, .ro, 0⟩, ⟨16, 9, .ro, 0⟩, ⟨12, 4, .ro, 0⟩, ⟨8, 4, .ro, 0⟩, ⟨7, 1, .ro, 0⟩, ⟨6, 1, .ro, 0⟩, ⟨5, 1, .ro, 1⟩, ⟨4, 1, .ro, 0⟩, ⟨3, 1, .ro, 1⟩, ⟨2, 1, .ro, 0⟩, ⟨0, 2, .ro, 0⟩]
  | .portSpCfg => -- R92
    [⟨16, 16, .eo, 1024⟩, ⟨8, 6, .eo, 63⟩, ⟨0, 1, .eo, 0⟩]
  | .portSpWeight => -- R92
    [⟨12, 4, .eo, 1⟩, ⟨8, 4, .eo, 1⟩, ⟨4, 4, .eo, 1⟩, ⟨0, 4, .eo, 1⟩]
  | .portEvt => -- R92
    [⟨9, 1, .w1c, 0⟩, ⟨8, 1, .w1c, 0⟩, ⟨0, 4, .w1c, 0⟩]
  | .portDrop => -- R92
    [⟨0, 16, .rc, 0⟩]
  | .niuStat => -- R113
    [⟨50, 9, .ro, 0⟩, ⟨44, 6, .ro, 0⟩, ⟨37, 7, .ro, 0⟩, ⟨32, 5, .ro, 0⟩, ⟨2, 1, .ro, 0⟩, ⟨1, 1, .ro, 0⟩, ⟨0, 1, .ro, 0⟩]
  | .niuCfg => -- R113
    [⟨0, 8, .eo, 20⟩]
  | .fenceLo => -- R113
    [⟨0, 64, .eo, 0⟩]
  | .fenceHi => -- R113
    [⟨0, 64, .eo, 0⟩]
  | .quietLo => -- R113
    [⟨0, 64, .ro, 0⟩]
  | .quietHi => -- R113
    [⟨0, 64, .ro, 0⟩]
  | .niuEvt => -- R113
    [⟨4, 1, .w1c, 0⟩, ⟨3, 1, .w1c, 0⟩, ⟨2, 1, .w1c, 0⟩, ⟨1, 1, .w1c, 0⟩, ⟨0, 1, .w1c, 0⟩]
  | .niuDrop => -- R113
    [⟨48, 16, .rc, 0⟩, ⟨32, 16, .rc, 0⟩, ⟨16, 16, .rc, 0⟩, ⟨0, 16, .rc, 0⟩]
  | .niuCnt => -- R113
    [⟨16, 16, .rc, 0⟩, ⟨0, 16, .rc, 0⟩]
  | .lostPosted => -- R155
    [⟨48, 10, .ro, 0⟩, ⟨32, 16, .rc, 0⟩, ⟨0, 32, .rc, 0⟩]
  | .rtrEpoch => -- R183
    [⟨40, 8, .ro, 0⟩, ⟨32, 8, .ro, 0⟩, ⟨18, 2, .ro, 0⟩, ⟨16, 2, .ro, 0⟩, ⟨12, 4, .ro, 6⟩, ⟨8, 2, .ro, 0⟩, ⟨4, 3, .ro, 0⟩, ⟨0, 3, .ro, 0⟩]
  | .rtrCfg => -- R183
    [⟨16, 8, .eo, 16⟩, ⟨4, 4, .eo, 1⟩, ⟨0, 4, .eo, 3⟩]
  | .rtrEvt => -- R183
    [⟨3, 1, .w1c, 0⟩, ⟨2, 1, .w1c, 0⟩, ⟨1, 1, .w1c, 0⟩, ⟨0, 1, .w1c, 0⟩]
  | .rtrCnt => -- R183
    [⟨48, 16, .rc, 0⟩, ⟨32, 16, .rc, 0⟩, ⟨16, 16, .rc, 0⟩, ⟨0, 16, .rc, 0⟩]
  | .rtrOcc => -- R183
    [⟨8, 8, .ro, 0⟩, ⟨0, 8, .ro, 0⟩]
  | .linkStat => -- R202
    [⟨32, 9, .ro, 0⟩, ⟨10, 1, .ro, 0⟩, ⟨9, 1, .ro, 0⟩, ⟨0, 3, .ro, 1⟩]
  | .linkCfg => -- R202
    [⟨16, 8, .eo, 16⟩, ⟨8, 1, .eo, 0⟩, ⟨0, 1, .eo, 0⟩]
  | .linkCnt => -- R202
    [⟨48, 16, .rc, 0⟩, ⟨32, 16, .rc, 0⟩, ⟨16, 16, .rc, 0⟩, ⟨0, 16, .rc, 0⟩]
  | .spStat => -- R231
    [⟨32, 8, .ro, 0⟩, ⟨16, 5, .ro, 0⟩, ⟨8, 1, .ro, 1⟩, ⟨0, 3, .ro, 0⟩]
  | .spThresh => -- R231
    [⟨24, 8, .eo, 0⟩, ⟨16, 8, .eo, 2⟩, ⟨8, 3, .eo, 3⟩, ⟨0, 3, .eo, 6⟩]
  | .spResv => -- R231
    [⟨32, 32, .eo, 0⟩, ⟨0, 32, .eo, 0⟩]
  | .spResvAt => -- R231
    [⟨0, 64, .eo, 0⟩]
  | .spStn => -- R231
    [⟨32, 32, .ro, 0⟩, ⟨0, 32, .eo, 4294967295⟩]
  | .spClosing => -- R231
    [⟨0, 32, .ro, 0⟩]
  | .spEvt => -- R231
    [⟨4, 1, .w1c, 0⟩, ⟨3, 1, .w1c, 0⟩, ⟨2, 1, .w1c, 0⟩, ⟨1, 1, .w1c, 0⟩, ⟨0, 1, .w1c, 0⟩]
  | .spLost => -- R231
    [⟨32, 16, .rc, 0⟩, ⟨0, 32, .rc, 0⟩]
  | .spStnStat => -- R231
    [⟨52, 12, .ro, 0⟩, ⟨40, 12, .ro, 0⟩, ⟨16, 12, .ro, 0⟩, ⟨8, 4, .ro, 0⟩, ⟨4, 4, .ro, 0⟩, ⟨0, 2, .ro, 0⟩]
  | .spStnPeak => -- R231
    [⟨16, 12, .rc, 0⟩, ⟨0, 12, .rc, 0⟩]
  | .flowTbl => -- R232
    [⟨48, 10, .eo, 0⟩, ⟨22, 26, .eo, 0⟩, ⟨1, 1, .ro, 0⟩, ⟨0, 1, .eo, 0⟩]
  | .schFcStat => -- R255
    [⟨47, 1, .ro, 0⟩, ⟨40, 4, .ro, 0⟩, ⟨32, 6, .ro, 0⟩, ⟨24, 6, .ro, 0⟩, ⟨16, 6, .ro, 0⟩, ⟨8, 6, .ro, 0⟩, ⟨0, 6, .ro, 0⟩]
  | .schFcCnt => -- R255
    [⟨32, 32, .rc, 0⟩, ⟨16, 16, .rc, 0⟩, ⟨0, 16, .rc, 0⟩]
  | .schActive => -- R255
    [⟨0, 64, .ro, 0⟩]
  | .schBlock => -- R255
    [⟨0, 64, .ro, 0⟩]
  | .schEvt => -- R255
    [⟨4, 1, .w1c, 0⟩, ⟨3, 1, .w1c, 0⟩, ⟨2, 1, .w1c, 0⟩, ⟨1, 1, .w1c, 0⟩, ⟨0, 1, .w1c, 0⟩]
  | .schBadCnt => -- R255
    [⟨0, 16, .rc, 0⟩]
  | .admCfg => -- R256
    [⟨8, 5, .eo, 12⟩, ⟨0, 5, .eo, 12⟩]
  | .admStat => -- R256
    [⟨48, 16, .rc, 0⟩, ⟨32, 1, .w1c, 0⟩, ⟨31, 1, .ro, 0⟩, ⟨16, 11, .ro, 0⟩, ⟨0, 7, .ro, 0⟩]
  | .admBrq => -- R256
    [⟨63, 1, .ro, 0⟩, ⟨51, 12, .ro, 0⟩, ⟨49, 2, .ro, 0⟩, ⟨47, 2, .ro, 0⟩, ⟨37, 10, .ro, 0⟩, ⟨31, 6, .ro, 0⟩, ⟨15, 16, .ro, 0⟩, ⟨0, 15, .ro, 0⟩]
  | .admBrqPop => -- R256
    [⟨0, 1, .wo, 0⟩]
  | .timeStat => -- R277
    [⟨16, 2, .ro, 0⟩, ⟨8, 3, .ro, 0⟩, ⟨0, 2, .ro, 0⟩]
  | .timeCfg => -- R277
    [⟨16, 8, .eo, 20⟩, ⟨0, 12, .eo, 256⟩]
  | .ftNow => -- R277
    [⟨0, 64, .ro, 0⟩]
  | .timeLast => -- R277
    [⟨0, 64, .ro, 0⟩]
  | .timeErr => -- R277
    [⟨32, 32, .ro, 0⟩, ⟨0, 16, .ro, 0⟩]
  | .timeEvt => -- R277
    [⟨4, 1, .w1c, 0⟩, ⟨3, 1, .w1c, 0⟩, ⟨2, 1, .w1c, 0⟩, ⟨1, 1, .w1c, 0⟩, ⟨0, 1, .w1c, 0⟩]
  | .timeCnt => -- R277
    [⟨48, 16, .rc, 0⟩, ⟨32, 16, .rc, 0⟩, ⟨16, 16, .rc, 0⟩, ⟨0, 16, .rc, 0⟩]
  | .gtStat => -- R278
    [⟨24, 3, .ro, 7⟩, ⟨16, 6, .ro, 0⟩, ⟨8, 7, .ro, 0⟩, ⟨2, 2, .ro, 0⟩, ⟨0, 2, .ro, 0⟩]
  | .gtCt => -- R278
    [⟨32, 32, .ro, 0⟩, ⟨0, 32, .ro, 0⟩]
  | .gtStart => -- R278
    [⟨0, 64, .ro, 0⟩]
  | .gtPendAt => -- R278
    [⟨0, 64, .ro, 0⟩]
  | .gtEvt => -- R278
    [⟨2, 1, .w1c, 0⟩, ⟨1, 1, .w1c, 0⟩, ⟨0, 1, .w1c, 0⟩]
  | .gtCnt => -- R278
    [⟨32, 32, .rc, 0⟩, ⟨16, 16, .rc, 0⟩, ⟨0, 16, .rc, 0⟩]
  | .cbStat => -- R297
    [⟨32, 9, .ro, 0⟩, ⟨8, 6, .ro, 0⟩, ⟨0, 6, .ro, 0⟩]
  | .cbEvt => -- R297
    [⟨4, 1, .w1c, 0⟩, ⟨3, 1, .w1c, 0⟩, ⟨2, 1, .w1c, 0⟩, ⟨1, 1, .w1c, 0⟩, ⟨0, 1, .w1c, 0⟩]
  | .cbCnt => -- R297
    [⟨48, 16, .rc, 0⟩, ⟨32, 16, .rc, 0⟩, ⟨16, 16, .rc, 0⟩, ⟨0, 16, .rc, 0⟩]
  | .cbFail => -- R297
    [⟨0, 64, .ro, 0⟩]
  | .gdStart => -- R310
    [⟨63, 1, .eo, 0⟩, ⟨61, 2, .eo, 0⟩, ⟨60, 1, .eo, 0⟩, ⟨6, 42, .eo, 0⟩]
  | .gdEnd => -- R310
    [⟨56, 8, .eo, 0⟩, ⟨52, 4, .eo, 0⟩, ⟨6, 42, .eo, 0⟩]
  | .gdRule01 => -- R310
    [⟨48, 16, .eo, 0⟩, ⟨32, 16, .eo, 0⟩, ⟨16, 16, .eo, 0⟩, ⟨0, 16, .eo, 0⟩]
  | .gdRule23 => -- R310
    [⟨48, 16, .eo, 0⟩, ⟨32, 16, .eo, 0⟩, ⟨16, 16, .eo, 0⟩, ⟨0, 16, .eo, 0⟩]
  | .gdCfg => -- R311
    [⟨0, 1, .eo, 0⟩]
  | .gdStat => -- R311
    [⟨32, 17, .ro, 0⟩, ⟨31, 1, .w1c, 0⟩, ⟨24, 4, .ro, 0⟩, ⟨20, 1, .ro, 0⟩, ⟨10, 10, .ro, 0⟩, ⟨0, 10, .ro, 0⟩]
  | .gdLog0 => -- R311
    [⟨48, 16, .ro, 0⟩, ⟨0, 48, .ro, 0⟩]
  | .gdLog1 => -- R311
    [⟨63, 1, .ro, 0⟩, ⟨62, 1, .ro, 0⟩, ⟨61, 1, .ro, 0⟩, ⟨55, 6, .ro, 0⟩, ⟨49, 6, .ro, 0⟩, ⟨44, 5, .ro, 0⟩, ⟨41, 3, .ro, 0⟩, ⟨25, 16, .ro, 0⟩, ⟨0, 25, .ro, 0⟩]
  | .gdLogPop => -- R311
    [⟨0, 1, .wo, 0⟩]
  | .gdCnt => -- R311
    [⟨32, 32, .rc, 0⟩, ⟨16, 16, .rc, 0⟩]
  | .engStat => -- R336
    [⟨32, 8, .rc, 0⟩, ⟨28, 4, .ro, 0⟩, ⟨20, 4, .ro, 0⟩, ⟨16, 4, .ro, 0⟩, ⟨9, 1, .w1c, 0⟩, ⟨8, 1, .w1c, 0⟩, ⟨7, 1, .ro, 0⟩, ⟨0, 3, .ro, 0⟩]
  | .engPc => -- R336
    [⟨0, 64, .ro, 0⟩]
  | .engLaunch => -- R336
    [⟨0, 64, .wo, 0⟩]
  | .engArg0 => -- R336
    [⟨0, 64, .rw, 0⟩]
  | .engArg1 => -- R336
    [⟨0, 64, .rw, 0⟩]
  | .engStop => -- R336
    [⟨0, 1, .wo, 0⟩]
  | .engFault => -- R336
    [⟨8, 1, .w1c, 0⟩, ⟨0, 4, .ro, 0⟩]
  | .engFaultInsn => -- R336
    [⟨0, 64, .ro, 0⟩]
  | .engSramAddr => -- R336
    [⟨3, 13, .rw, 0⟩]
  | .engSramData => -- R336
    [⟨0, 64, .rw, 0⟩]
  | .engEvtIn => -- R336
    [⟨0, 16, .wo, 0⟩]
  | .engIrq => -- R336
    [⟨32, 16, .rc, 0⟩, ⟨16, 16, .rw, 32768⟩, ⟨0, 16, .w1c, 0⟩]
  | .mbxHdr => -- R337
    [⟨63, 1, .ro, 0⟩, ⟨24, 1, .ro, 0⟩, ⟨20, 4, .ro, 0⟩, ⟨0, 16, .ro, 0⟩]
  | .mbxD => -- R337
    [⟨0, 64, .ro, 0⟩]
  | .mbxAck => -- R337
    [⟨23, 1, .w1c, 0⟩, ⟨20, 3, .wo, 0⟩, ⟨16, 4, .wo, 0⟩, ⟨0, 16, .wo, 0⟩]
  | .pdStat => -- R397
    [⟨56, 8, .ro, 0⟩, ⟨48, 8, .ro, 255⟩, ⟨44, 4, .ro, 3⟩, ⟨36, 6, .ro, 0⟩, ⟨31, 1, .ro, 0⟩, ⟨30, 1, .ro, 0⟩, ⟨29, 1, .ro, 0⟩, ⟨28, 1, .ro, 0⟩, ⟨26, 2, .ro, 0⟩, ⟨24, 2, .ro, 0⟩, ⟨23, 1, .ro, 0⟩, ⟨22, 1, .ro, 0⟩, ⟨21, 1, .ro, 0⟩, ⟨0, 3, .ro, 0⟩]
  | .pdCfg => -- R397
    [⟨16, 8, .eo, 20⟩, ⟨8, 4, .eo, 3⟩, ⟨4, 2, .eo, 1⟩]
  | .pdCtl => -- R397
    [⟨0, 1, .wo, 0⟩]
  | .pdEvt => -- R397
    [⟨7, 1, .w1c, 0⟩, ⟨6, 1, .w1c, 0⟩, ⟨5, 1, .w1c, 0⟩, ⟨4, 1, .w1c, 0⟩, ⟨3, 1, .w1c, 0⟩, ⟨2, 1, .w1c, 0⟩, ⟨1, 1, .w1c, 0⟩, ⟨0, 1, .w1c, 0⟩]
  | .pdCnt => -- R397
    [⟨32, 16, .rc, 0⟩, ⟨16, 16, .rc, 0⟩, ⟨0, 16, .rc, 0⟩]
  | .pwrSeq => -- R398
    [⟨16, 8, .ro, 0⟩, ⟨8, 1, .ro, 0⟩, ⟨0, 3, .ro, 0⟩]
  | .pwrCfg => -- R398
    [⟨16, 2, .eo, 0⟩, ⟨8, 8, .eo, 50⟩, ⟨0, 8, .eo, 10⟩]
  | .pwrSum => -- R398
    [⟨16, 8, .ro, 0⟩, ⟨8, 8, .ro, 133⟩, ⟨0, 8, .ro, 0⟩]
  | .twStat => -- R419
    [⟨32, 10, .ro, 0⟩, ⟨20, 4, .ro, 0⟩, ⟨16, 1, .ro, 0⟩, ⟨12, 4, .ro, 0⟩, ⟨8, 4, .ro, 0⟩, ⟨7, 1, .ro, 0⟩, ⟨6, 1, .ro, 0⟩, ⟨5, 1, .ro, 1⟩, ⟨3, 2, .ro, 0⟩, ⟨0, 3, .ro, 0⟩]
  | .twCfg => -- R419
    [⟨16, 1, .eo, 1⟩, ⟨0, 16, .eo, 20⟩]
  | .twEvt => -- R419
    [⟨4, 1, .w1c, 0⟩, ⟨3, 1, .w1c, 0⟩, ⟨2, 1, .w1c, 0⟩, ⟨1, 1, .w1c, 0⟩, ⟨0, 1, .w1c, 0⟩]
  | .twCnt => -- R419
    [⟨48, 16, .rc, 0⟩, ⟨32, 16, .rc, 0⟩, ⟨0, 32, .rc, 0⟩]
  | .twOffset => -- R419
    [⟨32, 32, .ro, 0⟩, ⟨16, 16, .ro, 0⟩]
  | .twMap => -- R419
    [⟨0, 64, .ro, 0⟩]
  | .hungTarget => -- R434
    [⟨63, 1, .w1c, 0⟩, ⟨62, 1, .ro, 0⟩, ⟨61, 1, .ro, 0⟩, ⟨60, 1, .ro, 0⟩, ⟨58, 2, .ro, 0⟩, ⟨57, 1, .ro, 0⟩, ⟨0, 24, .ro, 0⟩]
  | .xingStat => -- R434
    [⟨16, 8, .ro, 0⟩, ⟨5, 1, .ro, 0⟩, ⟨4, 1, .ro, 0⟩, ⟨3, 1, .w1c, 0⟩, ⟨2, 1, .w1c, 0⟩, ⟨1, 1, .w1c, 0⟩, ⟨0, 1, .w1c, 0⟩]
  | .pcVal => -- R450
    [⟨63, 1, .w1c, 0⟩, ⟨0, 48, .ro, 0⟩]
  | .pcCfg => -- R450
    [⟨0, 64, .eo, 0⟩]
  | .pcSnap => -- R450
    [⟨63, 1, .w1c, 0⟩, ⟨50, 10, .ro, 0⟩, ⟨40, 10, .ro, 0⟩, ⟨38, 2, .ro, 0⟩, ⟨32, 6, .ro, 0⟩, ⟨16, 16, .ro, 0⟩]
  | .smpStat => -- R450
    [⟨32, 32, .ro, 0⟩, ⟨16, 16, .ro, 0⟩, ⟨0, 16, .ro, 0⟩]
  | .smpMax => -- R450
    [⟨32, 16, .ro, 0⟩, ⟨0, 32, .ro, 0⟩]
  | .smpCfg0 => -- R450
    [⟨0, 64, .eo, 0⟩]
  | .smpCfg1 => -- R450
    [⟨0, 64, .eo, 0⟩]
  | .smpHd => -- R450
    [⟨32, 32, .ro, 0⟩, ⟨0, 32, .ro, 0⟩]
  | .smpHa => -- R450
    [⟨32, 32, .ro, 0⟩, ⟨0, 32, .ro, 0⟩]
  | .mirCfg => -- R450
    [⟨0, 64, .eo, 0⟩]
  | .mirProd => -- R450
    [⟨0, 21, .ro, 0⟩]
  | .mirDone => -- R450
    [⟨0, 21, .ro, 0⟩]
  | .mirCons => -- R450
    [⟨0, 21, .rw, 0⟩]
  | .mirDrop => -- R450
    [⟨32, 32, .rc, 0⟩, ⟨0, 32, .rc, 0⟩]
  | .fltSum => -- R461
    [⟨48, 16, .w1c, 0⟩, ⟨47, 1, .w1c, 0⟩, ⟨40, 7, .ro, 0⟩, ⟨0, 16, .rc, 0⟩]
  | .fltCfg => -- R461
    [⟨48, 16, .eo, 0⟩, ⟨32, 16, .eo, 65535⟩, ⟨8, 8, .eo, 1⟩, ⟨0, 1, .eo, 0⟩]
  | .fltErrCtl => -- R461
    [⟨0, 1, .rw, 0⟩]
  | .fltSafe => -- R461
    [⟨63, 1, .ro, 0⟩, ⟨62, 1, .wo, 0⟩, ⟨61, 1, .wo, 0⟩, ⟨60, 1, .w1c, 0⟩, ⟨52, 4, .ro, 0⟩, ⟨48, 3, .ro, 0⟩, ⟨16, 32, .ro, 0⟩, ⟨0, 3, .ro, 0⟩]
  | .fltRecA => -- R461
    [⟨63, 1, .ro, 0⟩, ⟨62, 1, .ro, 0⟩, ⟨52, 4, .ro, 0⟩, ⟨48, 4, .ro, 0⟩, ⟨45, 3, .ro, 0⟩, ⟨32, 8, .ro, 0⟩, ⟨24, 8, .ro, 0⟩, ⟨0, 16, .ro, 0⟩]
  | .fltRecB => -- R461
    [⟨0, 64, .ro, 0⟩]
  | .devId => -- R475
    [⟨0, 32, .ro, 0⟩]
  | .instStat => -- R475
    [⟨63, 1, .ro, 0⟩, ⟨62, 1, .ro, 0⟩, ⟨61, 1, .ro, 0⟩, ⟨60, 1, .ro, 0⟩, ⟨53, 3, .ro, 0⟩, ⟨48, 2, .ro, 0⟩, ⟨40, 7, .ro, 0⟩, ⟨0, 15, .ro, 0⟩]
  | .irqSum => -- R475
    [⟨0, 5, .ro, 0⟩]
  | .clkStat => -- R475
    [⟨8, 8, .rc, 0⟩, ⟨2, 1, .w1c, 0⟩, ⟨0, 2, .ro, 0⟩]
  | .rpDeny => -- R475
    [⟨63, 1, .w1c, 0⟩, ⟨62, 1, .ro, 0⟩, ⟨32, 16, .ro, 0⟩, ⟨0, 24, .ro, 0⟩]

/-- The registers that their chapters mark privileged (R469). -/
def Reg.priv : Reg → Bool
  | .capUnits | .portStat | .portSpCfg | .portSpWeight | .portEvt | .portDrop | .niuStat | .niuCfg | .fenceLo | .fenceHi | .quietLo | .quietHi | .niuEvt | .niuDrop | .niuCnt | .rtrEpoch | .rtrCfg | .rtrEvt | .rtrCnt | .rtrOcc | .linkStat | .linkCfg | .linkCnt | .spStat | .spThresh | .spResv | .spResvAt | .spStn | .spClosing | .spEvt | .spLost | .spStnStat | .spStnPeak | .flowTbl | .schFcStat | .schFcCnt | .schActive | .schBlock | .schEvt | .schBadCnt | .admCfg | .timeStat | .timeCfg | .ftNow | .timeLast | .timeErr | .timeEvt | .gtStat | .gtCt | .gtStart | .gtPendAt | .gtEvt | .gtCnt | .cbStat | .cbEvt | .cbCnt | .cbFail | .engStat | .engPc | .mbxHdr | .mbxD | .pdStat | .pwrSeq | .twStat | .twCfg | .twEvt | .twCnt | .twOffset | .twMap | .hungTarget | .xingStat | .fltSum | .devId | .instStat | .irqSum | .clkStat => false
  | _ => true

/-- The word a register holds after reset, from its fields. -/
def Reg.reset (r : Reg) : Word :=
  r.fields.foldl (fun w f => sf w f.lo f.len f.rst) 0

/-- A register's place: the register, the unit it belongs to, and an index within the unit. -/
structure RegLoc where
  reg : Reg
  i   : Nat
  j   : Nat
deriving DecidableEq, Repr

/-- The register at an 8 B step of a list that starts at offset 0. -/
def pick (l : List Reg) (off : Nat) : Option Reg := l[off / 8]?

/-- The near window (R474). -/
def nearReg (a : Nat) : Option RegLoc :=
  if a < 0x50 then
    (pick [.devId, .capUnits, .instStat, .irqSum, .clkStat, .rpDeny, .hungTarget, .xingStat, .lostPosted, .flowTbl] a).map
      (fun r => ⟨r, 0, 0⟩)
  else if a < 0x100 then none
  else if a < 0x138 then
    (pick [.timeStat, .timeCfg, .ftNow, .timeLast, .timeErr, .timeEvt, .timeCnt] (a - 0x100)).map (fun r => ⟨r, 0, 0⟩)
  else if a < 0x200 then none
  else if a < 0x220 then
    (pick [.admCfg, .admStat, .admBrq, .admBrqPop] (a - 0x200)).map (fun r => ⟨r, 0, 0⟩)
  else if a < 0x1000 then none
  else if a < 0x1A00 then
    let o := a - 0x1000
    let e := o / 0x200
    let sl := o % 0x200 / 0x20
    if o % 0x20 = 0 then some ⟨.mbxHdr, e, sl⟩ else some ⟨.mbxD, e, sl * 4 + (o % 0x20 / 8 - 1)⟩
  else if a = 0x1A00 then some ⟨.mbxAck, 0, 0⟩
  else none

/-- The NIU registers at offsets 0x000 to 0x047 (R113). -/
def niuReg (off : Nat) : Option Reg :=
  if off < 0x48 then
    pick [.niuStat, .niuCfg, .fenceLo, .fenceHi, .quietLo, .quietHi, .niuEvt, .niuDrop, .niuCnt] off
  else none

/-- The flow cache and scheduler registers of one NIU (R255). -/
def schReg (off : Nat) : Option Reg :=
  if off < 0x30 then pick [.schFcStat, .schFcCnt, .schActive, .schBlock, .schEvt, .schBadCnt] off else none

/-- An engine's block (R336); the service NIU of QE Q at 0x8000 (R317). Unit `e` for the engine, 512 + Q for the
service NIU. -/
def engReg (e off : Nat) : Option RegLoc :=
  if off < 0x60 then
    (pick [.engStat, .engPc, .engLaunch, .engArg0, .engArg1, .engStop, .engFault, .engFaultInsn, .engSramAddr,
      .engSramData, .engEvtIn, .engIrq] off).map (fun r => ⟨r, e, 0⟩)
  else if e = 0 then none
  else if off < 0x8000 then none
  else if off < 0x8400 then (niuReg (off - 0x8000)).map (fun r => ⟨r, 511 + e, 0⟩)
  else if off < 0x8430 then (schReg (off - 0x8400)).map (fun r => ⟨r, 511 + e, 0⟩)
  else none

/-- The Eland range (R231). -/
def spineReg (off : Nat) : Option RegLoc :=
  if off < 0x40 then
    (pick [.spStat, .spThresh, .spResv, .spResvAt, .spStn, .spClosing, .spEvt, .spLost] off).map (fun r => ⟨r, 0, 0⟩)
  else if off < 0x1000 then none
  else if off < 0x1800 then
    let p := (off - 0x1000) / 0x40
    let o := (off - 0x1000) % 0x40
    if o = 0 then some ⟨.spStnStat, p, 0⟩ else if o = 8 then some ⟨.spStnPeak, p, 0⟩ else none
  else none

/-- The power range (R397, R398). -/
def powerReg (off : Nat) : Option RegLoc :=
  if off < 133 * 0x40 then
    let o := off % 0x40
    if o < 0x28 then (pick [.pdStat, .pdCfg, .pdCtl, .pdEvt, .pdCnt] o).map (fun r => ⟨r, off / 0x40, 0⟩) else none
  else if off < 0x4000 then none
  else if off < 0x4018 then (pick [.pwrSeq, .pwrCfg, .pwrSum] (off - 0x4000)).map (fun r => ⟨r, 0, 0⟩)
  else none

/-- The fault unit range (R461). -/
def faultReg (off : Nat) : Option RegLoc :=
  if off < 0x20 then (pick [.fltSum, .fltCfg, .fltErrCtl, .fltSafe] off).map (fun r => ⟨r, 0, 0⟩)
  else if off < 0x1000 then none
  else if off < 0x1400 then
    let n := (off - 0x1000) / 0x10
    if off % 0x10 = 0 then some ⟨.fltRecA, n, 0⟩ else some ⟨.fltRecB, n, 0⟩
  else none

/-- The twin unit range (R419). -/
def twinReg (off : Nat) : Option RegLoc :=
  if off < 0x28 then (pick [.twStat, .twCfg, .twEvt, .twCnt, .twOffset] off).map (fun r => ⟨r, 0, 0⟩)
  else if off < 0x2000 then none
  else if off < 0x4000 then some ⟨.twMap, (off - 0x2000) / 8, 0⟩
  else none

/-- A tile block (R473). Unit `t` for the router, links (index d) and combine unit; unit EP for the per-NIU ranges. -/
def tileReg (t off : Nat) : Option RegLoc :=
  if off < 0x28 then (pick [.rtrEpoch, .rtrCfg, .rtrEvt, .rtrCnt, .rtrOcc] off).map (fun r => ⟨r, t, 0⟩)
  else if off < 0x100 then none
  else if off < 0x180 then
    let o := off % 0x20
    if o < 0x18 then (pick [.linkStat, .linkCfg, .linkCnt] o).map (fun r => ⟨r, t, (off - 0x100) / 0x20⟩) else none
  else if off < 0x200 then none
  else if off < 0x218 then (pick [.cbStat, .cbEvt, .cbCnt] (off - 0x200)).map (fun r => ⟨r, t, 0⟩)
  else if off < 0x220 then none
  else if off < 0x240 then some ⟨.cbFail, t, (off - 0x220) / 8⟩
  else if off < 0x400 then none
  else if off < 0x500 then (schReg (off % 0x40)).map (fun r => ⟨r, 4 * t + (off - 0x400) / 0x40, 0⟩)
  else if off < 0x600 then
    let o := off % 0x40
    if o < 0x30 then (pick [.gtStat, .gtCt, .gtStart, .gtPendAt, .gtEvt, .gtCnt] o).map
      (fun r => ⟨r, 4 * t + (off - 0x500) / 0x40, 0⟩) else none
  else if off < 0xE00 then
    (pick [.gdStart, .gdEnd, .gdRule01, .gdRule23] (off % 0x20)).map
      (fun r => ⟨r, 4 * t + (off - 0x600) / 0x200, (off - 0x600) % 0x200 / 0x20⟩)
  else if off < 0xF00 then
    let o := off % 0x40
    if o < 0x30 then (pick [.gdCfg, .gdStat, .gdLog0, .gdLog1, .gdLogPop, .gdCnt] o).map
      (fun r => ⟨r, 4 * t + (off - 0xE00) / 0x40, 0⟩) else none
  else none

/-- The telemetry range (R450). Counters carry their counter number (R435) as unit. -/
def teleReg (off : Nat) : Option RegLoc :=
  let pc (n o : Nat) : Option RegLoc :=
    if o < 0x18 then (pick [.pcVal, .pcCfg, .pcSnap] o).map (fun r => ⟨r, n, 0⟩) else none
  if off < 0x8000 then pc (8 * (off / 0x100) + off % 0x100 / 0x20) (off % 0x20)
  else if off < 0x10000 then none
  else if off < 0x30000 then pc (1024 + 8 * ((off - 0x10000) / 0x100) + off % 0x100 / 0x20) (off % 0x20)
  else if off < 0x30800 then pc (5120 + (off - 0x30000) / 0x20) (off % 0x20)
  else if off < 0x31000 then none
  else if off < 0x31280 then pc (5184 + (off - 0x31000) / 0x20) (off % 0x20)
  else if off < 0x40000 then none
  else if off < 0x40000 + 544 * 0x100 then
    let n := (off - 0x40000) / 0x100
    let o := off % 0x100
    if o < 0x20 then (pick [.smpStat, .smpMax, .smpCfg0, .smpCfg1] o).map (fun r => ⟨r, n, 0⟩)
    else if o < 0x60 then some ⟨.smpHd, n, (o - 0x20) / 8⟩
    else if o < 0xA0 then some ⟨.smpHa, n, (o - 0x60) / 8⟩
    else none
  else if off < 0x80000 then none
  else if off < 0x80028 then (pick [.mirCfg, .mirProd, .mirDone, .mirCons, .mirDrop] (off - 0x80000)).map
      (fun r => ⟨r, 0, 0⟩)
  else none

/-- Which register, if any, an address names (R472); an address that no register occupies reads as zero and ignores
writes (R18). The address is taken at its 8 B step. -/
def locate (a : Nat) : Option RegLoc :=
  let a := a / 8 * 8
  if a < 0x10000 then nearReg a
  else if a < 0x60000 then engReg (a / 0x10000 - 1) (a % 0x10000)
  else if a < 0x80000 then none
  else if a < 0xC0000 then spineReg (a - 0x80000)
  else if a < 0xD0000 then powerReg (a - 0xC0000)
  else if a < 0xE0000 then faultReg (a - 0xD0000)
  else if a < 0xF0000 then twinReg (a - 0xE0000)
  else if a < 0x100000 then none
  else if a < 0x180000 then tileReg ((a - 0x100000) / 0x1000) (a % 0x1000)
  else if a < 0x200000 then none
  else if a < 0x400000 then
    let ep := (a - 0x200000) / 0x1000
    let o := a % 0x1000
    if o < 0x48 then (niuReg o).map (fun r => ⟨r, ep, 0⟩)
    else if o < 0x800 then none
    else if o < 0x828 then (pick [.portStat, .portSpCfg, .portSpWeight, .portEvt, .portDrop] (o - 0x800)).map
      (fun r => ⟨r, ep, 0⟩)
    else none
  else if a < 0x500000 then teleReg (a - 0x400000)
  else none

/-- A far address (R466, R472): inside a range of the address map other than the near window. -/
def farAddr (a : Nat) : Bool :=
  decide ((0x10000 ≤ a ∧ a < 0x60000) ∨ (0x80000 ≤ a ∧ a < 0xF0000) ∨ (0x100000 ≤ a ∧ a < 0x180000) ∨
    (0x200000 ≤ a ∧ a < 0x500000))

/-- What a register address reads as after reset (R17). -/
def regReset (a : Nat) : Word :=
  match locate a with
  | none => 0
  | some l => l.reg.reset

/-- The base of the NIU registers of unit `n`: an external NIU's block, or a service NIU's range (R113, R317). -/
def aNiu (n off : Nat) : Nat := if n < 512 then 0x200000 + n * 0x1000 + off else 0x18000 + (n - 511) * 0x10000 + off

/-- The port registers of EP (R92). -/
def aPort (n off : Nat) : Nat := 0x200800 + n * 0x1000 + off

/-- The scheduler registers of an NIU (R255, R317). -/
def aSch (n off : Nat) : Nat :=
  if n < 512 then 0x100400 + n / 4 * 0x1000 + n % 4 * 0x40 + off else 0x18400 + (n - 511) * 0x10000 + off

/-- The gate list registers of an NIU (R278). -/
def aGt (n off : Nat) : Nat := 0x100500 + n / 4 * 0x1000 + n % 4 * 0x40 + off

/-- The guard registers of an NIU (R309). -/
def aGd (n off : Nat) : Nat := 0x100E00 + n / 4 * 0x1000 + n % 4 * 0x40 + off

/-- A tile block's address (R473). -/
def aTile (t off : Nat) : Nat := 0x100000 + t * 0x1000 + off

/-- An engine register (R312). -/
def aEng (e off : Nat) : Nat := 0x10000 + e * 0x10000 + off

/-- A power domain register (R397). -/
def aDom (d off : Nat) : Nat := 0xC0000 + d * 0x40 + off

/-- The base address of a counter by its number (R435, R450). -/
def aCtr (n : Nat) : Nat :=
  if n < 1024 then 0x400000 + n / 8 * 0x100 + n % 8 * 0x20
  else if n < 5120 then 0x410000 + (n - 1024) / 8 * 0x100 + n % 8 * 0x20
  else if n < 5184 then 0x430000 + (n - 5120) * 0x20
  else 0x431000 + (n - 5184) * 0x20

/-- The base address of a sampler (R450). -/
def aSmp (n : Nat) : Nat := 0x440000 + n * 0x100

end Sys2Proof.Machine
end

