-- ==== Sys2Proof/Machine/Tab.lean ====
section
/-! DEFINITION. Tables: sparse maps from a number to a value, kept in one canonical form (keys strictly rising, no
entry equal to what an unlisted key reads as), so that equal tables are equal data. Every addressed collection of the
state is one: register storage, engine SRAM, per-unit records. -/

namespace Sys2Proof.Machine

/-- A table: (key, value) pairs, keys strictly rising. -/
abbrev Tab (α : Type) := List (Nat × α)

/-- The listed value at key `k`. -/
def Tab.find {α : Type} : Tab α → Nat → Option α
  | [], _ => none
  | (j, v) :: t, k => if j = k then some v else Tab.find t k

/-- The value at key `k`: the listed one, else the table's default there. -/
def Tab.get {α : Type} (d : Nat → α) (t : Tab α) (k : Nat) : α := (Tab.find t k).getD (d k)

/-- List `v` at key `k`. -/
def Tab.put {α : Type} : Tab α → Nat → α → Tab α
  | [], k, v => [(k, v)]
  | (j, u) :: t, k, v =>
    if k < j then (k, v) :: (j, u) :: t else if k = j then (k, v) :: t else (j, u) :: Tab.put t k v

/-- Unlist key `k`. -/
def Tab.del {α : Type} (t : Tab α) (k : Nat) : Tab α := t.filter (fun e => e.1 ≠ k)

/-- Write `v` at key `k`, keeping the canonical form: the default value unlists the key. -/
def Tab.set {α : Type} [DecidableEq α] (d : Nat → α) (t : Tab α) (k : Nat) (v : α) : Tab α :=
  if v = d k then Tab.del t k else Tab.put t k v

/-- Change the value at key `k` by `f`. -/
def Tab.upd {α : Type} [DecidableEq α] (d : Nat → α) (t : Tab α) (k : Nat) (f : α → α) : Tab α :=
  Tab.set d t k (f (Tab.get d t k))

/-- Keep the entries whose key satisfies `p` (the others read as the default again). -/
def Tab.keep {α : Type} (p : Nat → Bool) (t : Tab α) : Tab α := t.filter (fun e => p e.1)

/-- Change every listed entry by `f`, unlisting the keys whose value becomes the default. -/
def Tab.mapv {α : Type} [DecidableEq α] (d : Nat → α) (f : Nat → α → α) (t : Tab α) : Tab α :=
  let u := t.map (fun e => (e.1, f e.1 e.2))
  u.filter (fun e => decide (Tab.get d u e.1 ≠ d e.1))

/-- Keys strictly rise above `lo`. -/
def Tab.rising {α : Type} : Nat → Tab α → Bool
  | _, [] => true
  | lo, (j, _) :: t => decide (lo ≤ j) && Tab.rising (j + 1) t

/-- No entry equals what an unlisted key reads as. -/
def Tab.tidy {α : Type} [DecidableEq α] (d : Nat → α) (t : Tab α) : Bool :=
  t.all (fun e => decide (e.2 ≠ d e.1))

/-- The canonical form. -/
def Tab.wf {α : Type} [DecidableEq α] (d : Nat → α) (t : Tab α) : Bool :=
  Tab.rising 0 t && Tab.tidy d t

/-- The byte memory of one engine: a table of bytes over the host's cells; an unlisted byte is zero (R314). -/
abbrev Memory := List Host.Cell

/-- What an unlisted byte of SRAM reads as: SRAM is cleared to zero (R314). -/
def Memory.blank (_ : Nat) : BitVec 8 := 0

/-- One byte of SRAM. -/
def Memory.byte (m : Memory) (a : Nat) : BitVec 8 := Tab.get Memory.blank m a

/-- Store one byte. -/
def Memory.setByte (m : Memory) (a : Nat) (b : BitVec 8) : Memory := Tab.set Memory.blank m a b

/-- The canonical form of a memory. -/
def Memory.wf (m : Memory) : Bool := Tab.wf Memory.blank m

/-- Read `n` bytes from `a` upward, little-endian (R11), as a number. -/
def Memory.bytes (m : Memory) (a : Nat) : Nat → Nat
  | 0 => 0
  | n + 1 => (Memory.byte m a).toNat + 256 * Memory.bytes m (a + 1) n

/-- Store the `n` low bytes of `v` from `a` upward, little-endian (R11). -/
def Memory.setBytes (m : Memory) (a : Nat) : Nat → Nat → Memory
  | 0, _ => m
  | n + 1, v => Memory.setBytes (Memory.setByte m a (BitVec.ofNat 8 v)) (a + 1) n (v / 256)

/-- The aligned 8 B word of SRAM at byte address `a` (R313). -/
def Memory.word (m : Memory) (a : Nat) : Word := BitVec.ofNat 64 (Memory.bytes m a 8)

/-- Store the aligned 8 B word at byte address `a` (R313). -/
def Memory.setWord (m : Memory) (a : Nat) (w : Word) : Memory := Memory.setBytes m a 8 w.toNat

end Sys2Proof.Machine
end

