-- ==== Sys2Proof/Machine/State.lean ====
section
/-! DEFINITION. The state of one instance as plain data: every register, buffer, queue, counter, mode and pin the spec
gives it, and the queue of commands that wait. The registers of the window have one home, the table `regs` by byte
address; read-only fields that show live state are composed when they are read (Machine/RegView.lean). -/

namespace Sys2Proof.Machine

/-- A packet: head flit, data flits, and whether a data word was found uncorrectable (R46, R191). -/
structure Pkt where
  hd   : FlitBits
  data : List FlitBits
  bad  : Bool
deriving DecidableEq, Repr

/-- A flit in the network: head mark, last-of-packet mark, bits, and which of its eight words are marked uncorrectable
(R191). -/
structure Flit where
  head : Bool
  last : Bool
  bits : FlitBits
  bad  : BitVec 8
deriving DecidableEq, Repr

/-- What a beat in the ingress buffer is (R94). -/
inductive BeatKind where
  | header | data | barrier (k : BarKind)
deriving DecidableEq, Repr

/-- A beat in the ingress buffer (R93): `uid` numbers the request it belongs to. -/
structure Beat where
  kind : BeatKind
  bits : BeatBits
  dbg  : Bool
  sub  : Nat
  uid  : Nat
deriving DecidableEq, Repr

/-- A unit that the port is in the middle of (R70): beats still to come of the unit and of the whole request, packet
index of the unit, and whether the request is a message. -/
structure PUnit where
  uid   : Nat
  sub   : Nat
  idx   : Nat
  left  : Nat
  after : Nat
  msg   : Bool
deriving DecidableEq, Repr

/-- On whose behalf a request is outstanding at an NIU (R51, R238, R316, R355). -/
inductive Owner where
  | endpoint
  | fetch (e line : Nat)
  | ldx (e : Nat)
  | stx (e : Nat)
  | fill (n : Nat) (flow : BitVec 16)
  | writeBack (n : Nat) (flow : BitVec 16)
  | replayWrite (n : Nat) (flow seq : BitVec 16)
  | replayRead (n : Nat) (flow seq : BitVec 16)
  | mirror (idx : Nat)
  | image (ser q idx : Nat)
deriving DecidableEq, Repr

/-- A request whose packets are not all formed: its header beat, its TAG or posted write buffer entry, the message
identifier, the next packet index, beats taken of the unit in hand, and the sequence numbers that a resubmitted message
still has to carry (R136). -/
structure Req where
  uid    : Nat
  hdr    : BeatBits
  dbg    : Bool
  sub    : Nat
  tag    : Nat
  msgId  : Nat
  idx    : Nat
  inMiss : Bool
  beats  : List BeatBits
  old    : List (BitVec 16)
deriving DecidableEq, Repr

/-- A packet in the injection space (R93): request, packet index, data beats still to come, shaper, TAG or buffer
entry, and what it is. `seq` holds a sequence number already fixed (a resend, or a record of R136); `mir` names the
source record whose mirroring the release awaits (R134); `born` the FCLK cycle it entered (R441); `fail` the code of a source
check that a service NIU's own request has failed (R59). -/
structure InjP where
  uid    : Nat
  pkt    : Pkt
  need   : Nat
  shp    : Nat
  tag    : Nat
  posted : Bool
  resend : Bool
  close  : Bool
  dev    : Bool
  seq    : Option (BitVec 16)
  short  : Bool
  mir    : Option Nat
  born   : Nat
  fail   : Option Nat
deriving DecidableEq, Repr

/-- A posted write buffer entry (R93), with its ETAG, its exactly-once deadline in refill ticks and the copies resent; `fail`
marks one that failed a source check before its acceptance (R94), `eo` one of an EXACTLY_ONCE flow, `todo` the copy that is still to be
read (R119). -/
structure Pwb where
  uid   : Nat
  etag  : Nat
  fail  : Bool
  flow  : BitVec 16
  seq   : BitVec 16
  dst   : Nat
  eo    : Bool
  rel   : Bool
  acc   : Nat
  owner : Owner
  ddl   : Option Nat
  tries : Nat
  todo  : List (BitVec 16)
deriving DecidableEq, Repr

/-- A request tracker entry (R101): the request header, the message identifier, destination tile, the sequence numbers of the
packets released, the serial number of its acceptance (0 before), and where its answer stands; `close` says that an abandoned
message still owes its closing packet (R110), `todo` lists the copies still to be read for a resend (R119), `dbg` says that it was issued
with the debug attribute (R46). -/
structure Trk where
  uid     : Nat
  hdr     : BeatBits
  flow    : BitVec 16
  msgId   : Nat
  seqs    : List (BitVec 16)
  dst     : Nat
  ordered : Bool
  eo      : Bool
  acc     : Nat
  owner   : Owner
  ans     : Bool
  hold    : Option Nat
  dead    : Bool
  close   : Bool
  ddl     : Option Nat
  tries   : Nat
  todo    : List (BitVec 16)
  dbg     : Bool
deriving DecidableEq, Repr

/-- A barrier outstanding at a port (R143): kind, sub-endpoint, serial number of its acceptance. -/
structure Bar where
  kind : BarKind
  sub  : Nat
  acc  : Nat
deriving DecidableEq, Repr

/-- A response on or before the response channel: TAG, request number, flow, order, the ejection VC it still waits in, whether
it takes a slot of the packet store (R93), and the beats not yet accepted (R72). -/
structure Rsp where
  tag     : Nat
  uid     : Nat
  flow    : BitVec 16
  ordered : Bool
  vc      : Option Nat
  slot    : Bool
  beats   : List BeatBits
deriving DecidableEq, Repr

/-- A flow cache entry (R237): the 64 B entry, the answer of a negative entry, whether it has served only as a receive half,
marks, and whether it is to be dropped when it unlocks, with or without write-back; `now` says that a write-back has still to start
though the entry is locked (R240). -/
structure FcE where
  flow   : BitVec 16
  ent    : FlitBits
  neg    : Option Nat
  recv   : Bool
  dflt   : Bool
  pinned : Bool
  dirtyS : Bool
  dirtyR : Bool
  drop   : Bool
  wb     : Bool
  now    : Bool
deriving DecidableEq, Repr

/-- A shaper (R242); TOK is a signed count with 4 fraction bits; `pend` holds MODE, RATE and BURST that the next refill
tick applies (R244). -/
structure Shaper where
  mode    : Nat
  tc      : Nat
  excess  : Bool
  demoted : Bool
  wt      : Nat
  rate    : Nat
  burst   : Nat
  tok     : Int
  f       : BitVec 32
  pend    : Option (Nat × Nat × Nat)
deriving DecidableEq, Repr

/-- A gate list (R271): entries, cycle time, start time. No entry means no list. -/
structure GateList where
  ents : List Word
  ct   : Nat
  s    : Nat
deriving DecidableEq, Repr

/-- What a packet or message next to be presented is: a single request; a duplicate that R128 answers; a packet of a
multi-packet queue message or memory message; a whole queue message; a message the NIU itself delivers (R135, R404). -/
inductive TKind where
  | plain
  | dup
  | qpart
  | mpart
  | qmsg
  | service
deriving DecidableEq, Repr

/-- What is next to be presented (R105 step 4 onward): its packet; the ejection VC it still waits in; whether it takes a
slot of the packet store; its bytes where the NIU makes the message itself; the guard generation once the guard has admitted
it (R306); the mark whose mirroring it awaits (R134). -/
structure Pres where
  kind : TKind
  pkt  : Pkt
  vc   : Option Nat
  slot : Bool
  size : Nat
  adm  : Option Nat
  mir  : Option Nat
deriving DecidableEq, Repr

/-- A target request presented and not answered (R112), by TTAG: the sequence numbers it stands for; `gone` marks one the NIU
has yet to answer itself after a port reset (R79). -/
structure TT where
  kind : TKind
  hd   : FlitBits
  gens : List Nat
  seqs : List (BitVec 16)
  gone : Bool
deriving DecidableEq, Repr

/-- A reassembly context (R107): key, indices present, packet count, head for the MAK, packets held with their guard
generations, sequence numbers accepted, indices dealt with at step 4 of R105, the first failure, packets presented and not
yet answered, whether a closing packet has ended it (R110), and refill ticks left. -/
structure Ctx where
  src     : Nat
  flow    : BitVec 16
  msg     : Nat
  mem     : Bool
  map     : BitVec 64
  pcnt    : Option Nat
  hd      : FlitBits
  pkts    : List Pkt
  gens    : List Nat
  seqs    : List (BitVec 16)
  checked : BitVec 64
  fail    : Option (Nat × Nat)
  out     : Nat
  closed  : Bool
  ticks   : Option Nat
deriving DecidableEq, Repr

/-- A response in the RSP injection space (R93): the record whose mirroring it awaits (R134), whether it answers an
accepted packet of an EXACTLY_ONCE flow (the sequence numbers whose packets it answers: R126, R127), whether SHORT_CNT has
counted it (R272). -/
structure RspP where
  mir   : Option Nat
  eo    : List (BitVec 16)
  short : Bool
  pkt   : Pkt
deriving DecidableEq, Repr

/-- A source record of R134, one for each request: the sequence numbers of its packets, and those of them whose retirement has been
mirrored. -/
structure SRec where
  flow : BitVec 16
  seqs : List (BitVec 16)
  done : List (BitVec 16)
  sub  : Nat
  etag : Nat
  opc  : Nat
  inc  : BitVec 8
  addr : Nat
deriving DecidableEq, Repr

/-- One network interface unit with its endpoint port, flow cache, shaper bank, gate list and the volatile part of its guard
(R27). `beatAt` and `beatEnd` say in which FCLK cycle the owner last offered a beat and whether it ended a unit (R87); `pulses`
and `barSub` are the ep_bar_done pulses given and ep_bar_sub of the last (R62); `rsv` are the copies being read for a resend,
which keep their places in the injection space; `ej` the flits in the ejection VCs, at most 4 in each (R163), `ejHd` the head that the NIU
has taken from one, whose data flits follow (R160); `owed` packets of a flow reset whose answers wait for room; `marks` marks that
wait for their entry (R127), with RX_ERR; `rxBad` flows whose fill for a receive half has failed;
`missEj` the ejection VCs whose packet has missed the cache; `heldEj` those whose packet has been held for a store slot (bits 11 to 0) and
for a context (bits 23 to 12); `relHold` says that the capture for which ep_stop holds came with the end of a port reset (R80); `treqVc` and `treqSlot` the ejection VC, or the slot of the packet store,
that the request on the target-request channel keeps until its last beat is accepted (R93); `eoDone` the flow and number of packets of
EXACTLY_ONCE flows whose request has been answered (R120). -/
structure Niu where
  rstN    : Bool
  abort   : Bool
  incPin  : BitVec 8
  ratPin  : Nat
  spPin   : Bool
  inc     : BitVec 8
  ratio   : Nat
  spEn    : Bool
  hold    : Bool
  relHold : Bool
  spReq   : BitVec 4
  gnt     : BitVec 4
  burst   : Nat
  beatAt  : Option Nat
  beatEnd : Bool
  pulses  : Nat
  barSub  : Nat
  scores  : List Int
  wts     : BitVec 16
  uidNext : Nat
  accNext : Nat
  ingress : List Beat
  unit    : Option PUnit
  opens   : List PUnit
  reqs    : List Req
  inj     : List InjP
  rsv     : List (BitVec 16 × BitVec 16)
  pwb     : Tab (Option Pwb)
  trk     : Tab (Option Trk)
  bars    : List Bar
  rspq    : List Rsp
  rspOut  : Option Rsp
  msgIds  : Tab Nat
  fc      : List FcE
  fills   : List (BitVec 16)
  pins    : List (BitVec 16)
  shp     : Tab Shaper
  v1      : BitVec 32
  v0      : BitVec 32
  rr3     : Nat
  rr2     : Nat
  safe    : Bool
  gate    : GateList
  gateP   : GateList
  gateSt  : Nat
  gateIdx : Nat
  gateCyc : Nat
  ej      : Tab (List Flit)
  ejHd    : Tab (Option Flit)
  ready   : List Pres
  store   : List Pkt
  ctxs    : List Ctx
  tt      : Tab (Option TT)
  treq    : Option (Nat × List BeatBits)
  treqVc  : Option Nat
  treqSlot : Bool
  trsp    : Option (BeatBits × List BeatBits)
  rspInj  : List RspP
  atoms   : List (BitVec 16 × BitVec 16 × Word)
  eoPend  : List (BitVec 16 × BitVec 16)
  eoDone  : List (BitVec 16 × BitVec 16)
  rxBad   : List (BitVec 16)
  missEj  : BitVec 12
  heldEj  : BitVec 24
  marks   : List (BitVec 16 × BitVec 16 × Bool)
  owed    : List (Pkt × Nat)
  gOld    : Nat
  gNew    : Nat
  gSer    : Nat
  gSync   : Option Nat
  gLog    : List (BitVec 128)
  notice  : Bool
  arrive  : Bool
  shadow  : List SRec
  unc     : List SRec
deriving DecidableEq, Repr

/-- Shaper 0 of a service NIU at reset (R238). -/
def Shaper.service : Shaper := ⟨1, 3, false, false, 16, 8192, 2048, 0, 0, none⟩

/-- A shaper at reset (R242). -/
def Shaper.off : Shaper := ⟨0, 0, false, false, 16, 0, 0, 0, 0, none⟩

/-- Shaper `k` of NIU `n` at reset (R238, R242). -/
def Shaper.init (n k : Nat) : Shaper := if 512 ≤ n ∧ k = 0 then Shaper.service else Shaper.off

/-- A gate list bank that holds no list. -/
def GateList.none : GateList := ⟨[], 0, 0⟩

/-- An NIU after the reset of its tile domain (R431): empty, the pins as given. The pins of an
external port at instance reset are a choice of the model (log entry 5). -/
def Niu.init : Niu :=
  { rstN := true, abort := false, incPin := 0, ratPin := 0, spPin := false, inc := 0, ratio := 0, spEn := false,
    hold := false, relHold := false, spReq := 0, gnt := 0, burst := 0, beatAt := none, beatEnd := false, pulses := 0, barSub := 0,
    scores := [0, 0, 0, 0], wts := 0x1111#16, uidNext := 1,
    accNext := 1, ingress := [], unit := none, opens := [], reqs := [], inj := [], rsv := [], pwb := [], trk := [], bars := [],
    rspq := [], rspOut := none, msgIds := [], fc := [], fills := [], pins := [], shp := [], v1 := 0, v0 := 0,
    rr3 := 0, rr2 := 0, safe := false, gate := GateList.none, gateP := GateList.none, gateSt := 0,
    gateIdx := 0, gateCyc := 0, ej := [], ejHd := [], ready := [], store := [], ctxs := [], tt := [], treq := none, treqVc := none, treqSlot := false,
    trsp := none, rspInj := [], atoms := [], eoPend := [], eoDone := [], rxBad := [], missEj := 0, heldEj := 0, marks := [], owed := [], gOld := 0, gNew := 0, gSer := 0, gSync := none, gLog := [], notice := false,
    arrive := false, shadow := [], unc := [] }

/-- The guard configuration of one NIU, held in retention cells (R298, R300): four words per region in the layout of
R310, the default policy, 17 lock bits. -/
structure Guard where
  words : Tab Word
  deny  : Bool
  lock  : BitVec 17
deriving DecidableEq, Repr

/-- Guard configuration after instance reset (R300): regions invalid and unlocked, ALLOW. -/
def Guard.init : Guard := ⟨[], false, 0⟩

/-- One input VC of a router (R157): flits held, the FCLK cycles in which they entered (R441), flits of its packet still at the NIU
(local inputs: its data flits follow it one by one), whether the packet in it is being discarded (R484), the output its packet has
taken, FCLK cycles its head has waited, the head of the packet it holds or held last, and whether the youngest flit held stands in
the input's register, not in the buffer (R157 to R159). -/
structure VcBuf where
  q    : List Flit
  t    : List Nat
  tail : List Flit
  drop : Bool
  out  : Option Nat
  wait : Nat
  hd   : FlitBits
  inReg : Bool
deriving DecidableEq, Repr

/-- An empty input VC. -/
def VcBuf.empty : VcBuf := ⟨[], [], [], false, none, 0, 0, false⟩

/-- One output VC of a router (R161, R163): credits in use downstream, and whether a packet is in progress. -/
structure OutVc where
  used : Nat
  busy : Bool
deriving DecidableEq, Repr

/-- Per-output allocation state (R162): last input granted, GR grants and BE grants of the round robin in hand. -/
structure Arb where
  last : Nat
  gr   : Nat
  be   : Nat
deriving DecidableEq, Repr

/-- The states of a link (R198). -/
inductive LinkSt where
  | tied | down | train | up | dead | excl
deriving DecidableEq, Repr

/-- A mesh link: state and pending exclusion (R179). `incl` marks training begun by LINK.INCL (R200). -/
structure Link where
  st   : LinkSt
  pend : Bool
  incl : Bool
deriving DecidableEq, Repr

/-- A link is DOWN while its tile domains are off (R198). -/
def Link.init : Link := ⟨.down, false, false⟩

/-- A slot on a link direction (R187): TAG, H, CRD, the flit or the argument of a command. -/
structure Slot where
  tag  : Nat
  h    : Bool
  crd  : Nat
  arg  : Nat
  flit : Option Flit
deriving DecidableEq, Repr

/-- One link direction (R192, R195, R196): the sender's replay buffer, slots not yet confirmed with the one to be examined next first
(outside a replay it stands in the receiver's input register: `LDir.inReg`, R158), credits waiting to be returned on it, a
NAK outstanding against it, replays of its first slot and the slices that failed in them, the FAILED mask and width in force
at its receiver, the mask its receiver asks for, the map its sender has announced with FORCE_HALF, the first half of a
half-width flit, VCs whose packet is being discarded, slice error counts of the window, and the last congestion report it
delivered. -/
structure LDir where
  sent  : List Slot
  crd   : List Nat
  nak   : Bool
  tries : Nat
  bad   : BitVec 9
  fail  : BitVec 9
  half  : Bool
  want  : Option (BitVec 9)
  lmap  : Option (BitVec 9 × Bool)
  half1 : Option (Nat × Flit)
  dvc   : BitVec 12
  errs  : List Nat
  rpt   : BitVec 16
deriving DecidableEq, Repr

/-- A link direction at reset (R202). -/
def LDir.init : LDir := ⟨[], [], false, 0, 0, 0, false, none, none, none, 0, [0, 0, 0, 0, 0, 0, 0, 0, 0], 0⟩

/-- A route table image (R175): none stands for the default tables of R165. -/
structure Img where
  lines  : Option (List FlitBits)
  mode0  : Nat
  mode1  : Nat
  thr    : Nat
  spnOk  : BitVec 32
  unr    : BitVec 128
deriving DecidableEq, Repr

/-- State of the other table slot (R177). -/
inductive OtherSt where
  | free | next | prev
deriving DecidableEq, Repr

/-- The two table slots of every router (R177); whether the number of the current epoch is still being broadcast, and the
units it has reached: NIU n as n, the combine unit of tile t as 1,024 + t (R178). -/
structure Routes where
  cur     : Img
  curE    : Nat
  oth     : Img
  othE    : Nat
  st      : OtherSt
  casting : Bool
  reached : List Nat
deriving DecidableEq, Repr

/-- A cell in Eland (R205): flits with their sideband words (R211), VC code, output port, node it occupies, the FCLK cycle it entered
the node. -/
structure Cell where
  flits : List Flit
  side  : List (BitVec 16)
  code  : Nat
  out   : Nat
  node  : Nat
  born  : Nat
deriving DecidableEq, Repr

/-- Station states (R227). -/
inductive StnSt where
  | enabled | closing | disabled | dead
deriving DecidableEq, Repr

/-- A station (R203): state, entry registers, node queues, exit registers by VC code (flit, its cell's node, number of the landing it
came with), REQ/RSP turn bits of launch and, by output, of stage 2, whether SP.PORT ON has been asked for and whether a period boundary
has passed since (R229), and whether it becomes DEAD at the next slot boundary (R230). -/
structure Station where
  st    : StnSt
  entry : Tab (List Flit)
  q     : Tab (List Cell)
  exit  : Tab (List (Flit × Nat × Nat))
  turnL : BitVec 2
  turnS : Tab (BitVec 2)
  onReq : Bool
  onDue : Bool
  dying : Bool
deriving DecidableEq, Repr

/-- A station after power-up (R371). -/
def Station.init : Station := ⟨.enabled, [], [], [], 0, [], false, false, false⟩

/-- Rotor lock (R231). -/
inductive Lock where
  | free | acq | locked | slew | hold
deriving DecidableEq, Repr

/-- Eland as a whole (R207, R218): rotor slot index, absolute slot, FCLK cycles since the last period boundary that should meet a mark,
lock, phase error, correction of slot 31 of this period and of the next one, whether a mask is pending (R222), first lock seen, whether
the next grid mark starts acquisition (R219), cells in flight, the number of landings at exit stages, the grid boundary of the last mark
in ns (R217). -/
structure Spine where
  stn    : Tab Station
  slot   : Nat
  abs    : Nat
  cyc    : Nat
  lock   : Lock
  err    : Int
  corr   : Int
  corrN  : Int
  pend   : Bool
  seen   : Bool
  acqNext : Bool
  flight : List Cell
  lands  : Nat
  mark   : Nat
deriving DecidableEq, Repr

/-- Combine node states (R288). -/
inductive CbSt where
  | idle | collect | sent | failed
deriving DecidableEq, Repr

/-- A node entry of a combine group in one router (R280, R293). Contributors are numbered in tree order: 0 W, 1 S,
2 to 5 local members, 6 E, 7 N (R286). `held` are contributions not merged yet, with their uncorrectable flits; `acc` and
`merged` what is merged; `reds` the heads of the members' REDs of the round; `kept` the partial result sent; `eps` the epochs
of the contributions merged and not yet in a produced packet (R294); `ticks` what is left of the timeout (R291). -/
structure CbNode where
  subop   : Nat
  ctype   : Nat
  arrival : Bool
  tc      : Nat
  len     : Nat
  tmo     : Nat
  up      : Nat
  kids    : BitVec 4
  loc     : BitVec 4
  st      : CbSt
  held    : List (Nat × Nat × Pkt)
  acc     : Option Pkt
  merged  : List Nat
  reds    : List (Nat × FlitBits)
  status  : Nat
  kept    : Option Pkt
  eps     : List Nat
  ticks   : Nat
deriving DecidableEq, Repr

/-- A packet that a combine unit has produced (R282, R290): its output, its head, the flits still to leave through the CB input, FCLK
cycles its head has waited, and whether the first of those flits stands in the CB input's register (R157). -/
structure CbOut where
  out   : Nat
  hd    : FlitBits
  fl    : List Flit
  wait  : Nat
  inReg : Bool
deriving DecidableEq, Repr

/-- The part of a combine unit that is not per group: packets switched to CB with the input they came from and how many of their flits
are uncorrectable, and packets it produces, each once per output. -/
structure CbUnit where
  part  : Tab (List Flit)
  inq   : List (Nat × Nat × Pkt)
  outq  : List CbOut
deriving DecidableEq, Repr

/-- A combine unit at reset. -/
def CbUnit.init : CbUnit := ⟨[], [], []⟩

/-- A reservation of the admission ledger (R251), with its age. -/
structure Resv where
  flow  : BitVec 16
  ep    : Nat
  shp   : Nat
  tc    : Nat
  rlvl  : Nat
  nfl   : Nat
  rate  : Nat
  burst : Nat
  res   : List Nat
  age   : Nat
deriving DecidableEq, Repr

/-- The admission ledger (R250 to R253). -/
structure Adm where
  led : List Resv
  brq : List Word
  age : Nat
deriving DecidableEq, Repr

/-- Keeper states (R262). -/
inductive KSt where
  | free | track | frozen | holdover
deriving DecidableEq, Repr

/-- The time keeper (R261 to R265). `ft`, `slew` and `shadow` count units of 2^-16 ns; `idle` counts FCLK cycles since the last OK
capture; `past` holds FT at the end of each of the last 1,024 FCLK cycles, the latest first (R263, R267); `ticked` is the number of the
last 20 ns boundary that ticked or that a step or load has passed (R244, R268). -/
structure Keeper where
  st     : KSt
  ft     : Nat
  slew   : Int
  shadow : Nat
  idle   : Nat
  tpFlag : Bool
  tpAck  : Bool
  past   : List Nat
  ticked : Nat
deriving DecidableEq, Repr

/-- What an engine waits for (R325): the end of a command already carried out with its status and results, the end of one whose
configuration, with the words it read, comes into force then (R216, R363), or a condition. -/
inductive Wait where
  | none
  | done (st : Nat) (wr : List (Nat × Word))
  | config (ws : List Word)
  | time (t : Nat)
  | event (d : Nat) (mask : BitVec 16)
  | access
  | retire
  | portOff (p : Nat)
  | portOn (p : Nat)
  | drain (d : Nat)
  | fence (d : Nat)
  | domOn (d : Nat)
  | feed (d : Nat)
  | flow (f : BitVec 16)
  | pin (n : Nat) (f : BitVec 16)
  | sync (ep : Nat)
  | cbFree (g : Nat)
  | train (n : Nat)
  | laneMap (d : Nat)
  | twin
  | aon
  | image
deriving DecidableEq, Repr

/-- Engine states (R325). -/
inductive EngSt where
  | idle | running | waiting | halted | fault | off
deriving DecidableEq, Repr

/-- An engine (R313): general registers, flags, program counter in the format of R315, status, state, the instruction
it waits in, the FCLK cycles left of its limit, SRAM with its uncorrectable words, event queue, line buffer and fetch
outstanding, the post counter (R333), and whether a stop waits for the AON clock (R429). -/
structure Eng where
  g     : Tab Word
  z     : Bool
  n     : Bool
  c     : Bool
  v     : Bool
  pc    : Word
  st    : Nat
  state : EngSt
  wait  : Wait
  insn  : Word
  limit : Option Nat
  sram  : Memory
  bad   : List Nat
  soft  : List Nat
  evq   : List Word
  lines : List (Word × FlitBits)
  fetch : Option Word
  post  : BitVec 16
  stopReq : Bool
deriving DecidableEq, Repr

/-- An engine after reset (R325, R314). -/
def Eng.init : Eng :=
  { g := [], z := false, n := false, c := false, v := false, pc := 0, st := 0, state := .idle, wait := .none,
    insn := 0, limit := none, sram := [], bad := [], soft := [], evq := [], lines := [], fetch := none, post := 0, stopReq := false }

/-- Domain states (R389). -/
inductive DSt where
  | off | ramp | init | on | draining | drained | fenced
deriving DecidableEq, Repr

/-- A power domain (R389, R397): `feed` is the leg closed, `mode` the selection, `warn` a FEED_WARN of R378, `pgWarn` one of R384,
`lim` the slices in the limit, `timer` the fault timer running, `live` that step 5 of R375 is done (R430), `alert` an opening under
R385 not yet answered, `redo` that DOM.ON has been asked for since (R385), `boot` a power-up of the start-up sequence, `flt` an
occurrence of class 12 since which the domain has neither completed a power-up nor been powered off by DOM.OFF (R451), `left` the
AON cycle in which a slice last left the limit (R382, R383). -/
structure PDom where
  st      : DSt
  feed    : Nat
  mode    : Nat
  latched : Bool
  retryP  : Bool
  retries : Nat
  pgood   : Bool
  warn    : Bool
  pgWarn  : Bool
  lossF   : Bool
  lim     : BitVec 32
  timer   : Bool
  peak    : Nat
  minV    : Nat
  live    : Bool
  alert   : Bool
  redo    : Bool
  boot    : Bool
  flt     : Bool
  left    : Option Nat
deriving DecidableEq, Repr

/-- A domain at instance reset (R397). -/
def PDom.init : PDom :=
  { st := .off, feed := 0, mode := 0, latched := false, retryP := false, retries := 3, pgood := false, warn := false,
    pgWarn := false, lossF := false, lim := 0, timer := false, peak := 0, minV := 255, live := false,
    alert := false, redo := false, boot := false, flt := false, left := none }

/-- The always-on part of power (R371, R374, R103): domains, feed validity and the voltage of each feed when it was last judged, in 4 mV
codes (R369), sequencer phase, pw_ready, NOM blanking,
fence set of the instance, domains missing at pw_ready, ramp requests in order. -/
structure Power where
  doms    : Tab PDom
  feedA   : Bool
  feedB   : Bool
  volA    : Nat
  volB    : Nat
  phase   : Nat
  ready   : Bool
  blank   : Bool
  fence   : BitVec 128
  missing : Nat
  reqs    : List Nat
  aonUp   : Bool
  porN    : Bool
deriving DecidableEq, Repr

/-- A fault occurrence on its way: KIND, LEVEL, LOC, SUB and how many (R451). -/
structure Occ where
  kind : Nat
  lvl  : Nat
  loc  : Nat
  sub  : Nat
  n    : Nat
deriving DecidableEq, Repr

/-- A fault record (R452). -/
structure FRec where
  cls : Nat
  occ : Occ
  ft  : Word
deriving DecidableEq, Repr

/-- An event channel (R424, R425): what the transfer under way carries, what has come since, an overflow that awaits the next
transfer, an overflow that the transfer under way carries. -/
structure Chan (α : Type) where
  fly    : List α
  acc    : List α
  ovf    : Bool
  flyOvf : Bool
deriving DecidableEq, Repr

/-- The fault unit (R452, R455, R456): records, channels from FCLK, three copies of the safe flag and three of its cause, the pulse. -/
structure FaultUnit where
  recs  : Tab (Option FRec)
  chans : Tab (Chan Occ)
  safeA : Bool
  safeB : Bool
  safeC : Bool
  causeA : Nat
  causeB : Nat
  causeC : Nat
  esc   : Nat
  twin  : Nat
  us    : BitVec 32
  pulse : Bool
deriving DecidableEq, Repr

/-- Telemetry outside the counters' registers: who configured each counter and sampler (engine + 1; samplers as
8,192 + s), the heads of wraps that await their step, for an engine counter with such a wrap the addresses of the instructions that have
completed since, the one that wrapped it and at most 3 more (R440),
rule counts per tile, mirror descriptor, mirror queues, indices whose write has not retired, each sampler's last boundary in ns, and the
heads that have lost switch allocation in the present FCLK cycle: tile, input, VC, output (R438). -/
structure Tele where
  owner : Tab Nat
  wraps : Tab (Option FlitBits)
  wrapPc : Tab (List Word)
  rules : List Word
  memEp : Nat
  rcnt  : Tab Nat
  mq    : Tab (List (Nat × Pkt))
  out   : List Nat
  smpAt : Tab Nat
  lost  : List (Nat × Nat × Nat × Nat)
deriving DecidableEq, Repr

/-- Twin unit states (R400). -/
inductive TwSt where
  | down | detached | attaching | attached | detaching | dead
deriving DecidableEq, Repr

/-- A frame sent and not acknowledged (R407): number, kind, data, and the records it carries. -/
structure TwFrame where
  seq  : Nat
  kind : Nat
  data : BitVec 512
  rids : List Nat
deriving DecidableEq, Repr

/-- A frame received in order and not taken (R407): number, kind, data. -/
structure TwRx where
  seq  : Nat
  kind : Nat
  data : BitVec 512
deriving DecidableEq, Repr

/-- The twin unit (R399 to R419). `map` lists the ranges of flows whose plane has been set, newest first; a flow in none is
on its home plane (R402). `op` is the operation in progress (0 none, 1 ATTACH, 2 DETACH, 3 MIGRATE), `opSelf` that it was
issued here, `opTo` the staying plane, `first` and `last` its range, `sweep` the next flow of R417, `left` the endpoints whose
notice or flush handshake is not finished, `flushq` the handshakes that this plane as the leaving one still owes (endpoint,
number of the first record queued after the request), `flushed` the endpoints whose handshake the leaving plane has ended; `whole`
says whether this plane carries every flow or none where the state became DETACHED as the link trained (R400). `recq`
the records in the unit's queue, at most 64, with their numbers, `recw` records that wait at their NIUs for room in it (R409), `outq`
COPY and CTRL frames waiting, `hbDue` that a heartbeat is to be sent, `unack` frames not acknowledged, `again` those of them that a resend has
still to send (R407), `fseq` the next number to send, `rseq` the next expected,
`rx` frames received and not taken, `rxq` records taken and not applied, `taken` the number of their frame, `hbIn` a heartbeat
received, with its number; `crd` is the last CRD received (R407); `oData`, `oCtl` and `oLive` are the outputs tw_o_data, tw_o_ctl
and tw_o_live (R406). -/
structure Twin where
  st      : TwSt
  cause   : Nat
  fresh   : Bool
  map     : List (Nat × Nat × Bool)
  op      : Nat
  opSelf  : Bool
  opTo    : Bool
  first   : Nat
  last    : Nat
  sweep   : Nat
  left    : List Nat
  flushq  : List (Nat × Nat)
  flushed : List Nat
  whole   : Option Bool
  recq    : List (Nat × BitVec 128)
  recw    : List (Nat × BitVec 128)
  rid     : Nat
  outq    : List (Nat × BitVec 512)
  hbDue   : Bool
  unack   : List TwFrame
  again   : List TwFrame
  fseq    : Nat
  rseq    : Nat
  rx      : List TwRx
  rxq     : List (BitVec 128)
  taken   : Option Nat
  hbIn    : Option (Nat × BitVec 512)
  crd     : Nat
  oData   : BitVec 512
  oCtl    : BitVec 30
  oLive   : Bool
  nakOut  : Bool
  trained : Bool
  missed  : Nat
  live    : Bool
  hbSeq   : Nat
  lastFt  : Nat
  lastAt  : Nat
  cfgBad  : Bool
  wdrawn  : Bool
  failed  : Bool
  twVar   : Nat
  offset  : Int
  rtt     : Int
deriving DecidableEq, Repr

/-- A far access outstanding at the register port (R466, R467). -/
structure Far where
  a     : Nat
  write : Option Word
  priv  : Bool
  mid   : BitVec 16
deriving DecidableEq, Repr

/-- The register port (R466 to R469): far access outstanding, the response presented in the present cycle and whether it is that of a far
access, HUNG_TARGET. -/
structure RegPort where
  far  : Option Far
  rsp  : Option (Nat × Word)
  hung : Option (Far × Nat × Bool)
  pend : Bool
  mbx  : Tab (Option (BitVec 256))
  rspFar : Bool
deriving DecidableEq, Repr

/-- Clocks (R427, R463): the mode, the stop flags, FCLK cycles passed, AON clock cycles passed, and FCLK cycles into the AON cycle in
hand. -/
structure Clocks where
  mode  : Nat
  fstop : Bool
  astop : Bool
  cyc   : Nat
  aon   : Nat
  ph    : Nat
deriving DecidableEq, Repr

/-- Test access (R465, R476 to R478): current instruction, scan mode, memory tests running and refused, the bypass, IDCODE and
boundary registers (of the last bit i is the cell of signal i: `OutSig.idx`, `InSig.idx`), the 134 segment insertion bits, and by
link what its last training found: the slices in error of each direction and whether a control wire was (R199). -/
structure TestAcc where
  tap   : BitVec 8
  scan  : Bool
  run   : List Nat
  refus : List Nat
  byp   : Bool
  idr   : BitVec 32
  bnd   : BitVec 1675
  sib   : BitVec 134
  train : Tab (BitVec 9 × BitVec 9 × Bool)
deriving DecidableEq, Repr

/-- The pins that name the instance (R1, R399): 1 DW512-F, 2 DW512-S, 3 DW512-M; plane B. -/
structure Straps where
  variant : Nat
  planeB  : Bool
deriving DecidableEq, Repr

/-- The reading of a route image by RT.LOAD (R355): whether one is under way, its number, the endpoint and address of the image,
for each quadrant the lines whose reads are still to be made, the reads not answered, the lines that have come by their index in
the image, and the code of the first read answered other than OK. -/
structure ImgRead where
  on   : Bool
  ser  : Nat
  ep   : Nat
  addr : Nat
  todo : Tab (List Nat)
  out  : Nat
  got  : Tab FlitBits
  code : Option Nat
deriving DecidableEq, Repr

/-- No image read. -/
def ImgRead.init : ImgRead := ⟨false, 0, 0, 0, [], 0, [], none⟩

/-- Everything that commands change but the guard configuration and the queue (`tblOld`: FLOW_TBL as it was when EN last became
0, R487; `locl`: by tile and local input, the NIU whose packet entered last, R248). -/
structure Mach where
  straps  : Straps
  regs    : Tab Word
  frees   : Nat
  clk     : Clocks
  keep    : Keeper
  engs    : Tab Eng
  token   : Option Nat
  nius    : Tab Niu
  rin     : Tab VcBuf
  rout    : Tab OutVc
  arb     : Tab Arb
  locl    : Tab Nat
  links   : Tab Link
  dirs    : Tab LDir
  rt      : Routes
  img     : ImgRead
  spine   : Spine
  cb      : Tab (Option CbNode)
  cbu     : Tab CbUnit
  adm     : Adm
  held    : List (BitVec 16)
  tblOld  : Word
  replay  : Tab (Option Pkt)
  pwr     : Power
  flt     : FaultUnit
  pchan   : Tab (Chan Nat)
  tele    : Tele
  twin    : Twin
  rp      : RegPort
  test    : TestAcc
deriving DecidableEq, Repr

/-- The state: the machine, the guard configuration in its retention cells (R300), the queue of commands that wait. -/
structure State where
  m       : Mach
  guards  : Tab Guard
  pending : List Instr
deriving DecidableEq, Repr

/-- Why a step ends in a fault: the surroundings broke an obligation for which the spec gives the instance no effect. -/
inductive Fault where
  /-- TRSP_BEAT: the endpoint's target response names a TTAG that is not in use, against R76, which asks for exactly
  one response per delivered target request. Safe: the model stops where the hardware goes on. -/
  | strayTargetResponse
deriving DecidableEq, Repr

/-- Why a step is refused. -/
inductive Refusal where
  /-- Machine/Dispatch.lean only: the row has no meaning yet. Safe: nothing can be proved of what it does. -/
  | notModelled (mnemonic : String)
deriving DecidableEq, Repr

/-- The default route tables (R181): the image of epoch 0. -/
def Img.init (variant : Nat) : Img :=
  ⟨none, 0, 0, 6, if variant = 3 then 0 else 0xFFFFFFFF#32, 0⟩

/-- The keeper at reset (R262, R485). -/
def Keeper.init : Keeper := ⟨.free, 0, 0, 0, 0, false, false, [], 0⟩

/-- The spine at power-up (R219). -/
def Spine.init : Spine := ⟨[], 0, 0, 0, .free, 0, 0, 0, false, false, false, [], 0, 0⟩

/-- The twin unit after instance reset (R401, R402). -/
def Twin.init : Twin :=
  { st := .down, cause := 0, fresh := true, map := [], op := 0, opSelf := false, opTo := false, first := 0, last := 0,
    sweep := 0, left := [], flushq := [], flushed := [], whole := none, recq := [], recw := [], rid := 1, outq := [], hbDue := false, unack := [], again := [], fseq := 0, rseq := 0,
    rx := [], rxq := [], taken := none, hbIn := none, crd := 0, oData := 0, oCtl := 0, oLive := false, nakOut := false, trained := false, missed := 0, live := false, hbSeq := 0,
    lastFt := 0, lastAt := 0, cfgBad := false, wdrawn := false, failed := false, twVar := 0, offset := 0, rtt := 0 }

/-- The fault unit after instance reset (R461). -/
def FaultUnit.init : FaultUnit := ⟨[], [], false, false, false, 0, 0, 0, 0, 0, 0, false⟩

/-- Power at instance reset (R398): waiting for supplies. -/
def Power.init : Power := ⟨[], false, false, 0, 0, 0, false, false, 0, 0, [], false, true⟩

/-- The machine right after instance reset: every domain OFF, every register at its reset value. The variant, the plane
and the clock mode are inputs (log entry 4). -/
def Mach.reset : Mach :=
  { straps := ⟨1, false⟩, regs := [], frees := 0, clk := ⟨0, false, false, 0, 0, 0⟩, keep := Keeper.init, engs := [],
    token := none, nius := [], rin := [], rout := [], arb := [], locl := [], links := [], dirs := [],
    rt := ⟨Img.init 1, 0, Img.init 1, 0, .free, false, []⟩, img := ImgRead.init, spine := Spine.init, cb := [], cbu := [],
    adm := ⟨[], [], 0⟩, held := [], tblOld := 0, replay := [], pwr := Power.init, flt := FaultUnit.init, pchan := [],
    tele := ⟨[], [], [], [], 0, [], [], [], [], []⟩, twin := Twin.init, rp := ⟨none, none, none, false, [], false⟩,
    test := ⟨1, false, [], [], false, 0x10512A6B, 0, 0, []⟩ }

/-- The state right after instance reset, no command waiting. -/
def State.reset : State := { m := Mach.reset, guards := [], pending := [] }

end Sys2Proof.Machine
end

