-- ==== Sys2Proof/Machine/Topo.lean ====
section
/-! DEFINITION. Numbering of the floor plan: tiles, quadrants, endpoints, links, spine ports, resources (R20 to R30,
R174, R250). -/

namespace Sys2Proof.Machine

/-- Column of a tile (R20). -/
def tileX (t : Nat) : Nat := t % 16
/-- Row of a tile (R20). -/
def tileY (t : Nat) : Nat := t / 16

/-- Quadrant of a tile (R21). -/
def quadOf (t : Nat) : Nat := b1 (decide (8 ≤ tileX t)) + 2 * b1 (decide (4 ≤ tileY t))

/-- Local position of a tile in its quadrant (R21). -/
def localX (t : Nat) : Nat := tileX t % 8
def localY (t : Nat) : Nat := tileY t % 4

/-- The service tile of a quadrant (R28). -/
def serviceTile (q : Nat) : Nat := [19, 27, 83, 91].getD q 19

/-- The tile of an endpoint (R30). -/
def epTile (ep : Nat) : Nat := if ep < 512 then ep / 4 else serviceTile (ep - 512)

/-- The quadrant engine's number for a quadrant (R312). -/
def qeOf (q : Nat) : Nat := q + 1

/-- The local port of an NIU at its tile: 4 for L0, 5 for L1 (R24, R28). -/
def niuPort (n : Nat) : Nat := if n < 512 then 4 + n % 4 / 2 else 5

/-- The tile of spine port p (R25). -/
def spineTile (p : Nat) : Nat :=
  let j := p % 8
  let lx := [1, 2, 5, 6].getD (j % 4) 1
  let ly := 1 + j / 4
  (p / 8 / 2 * 4 + ly) * 16 + (p / 8 % 2 * 8 + lx)

/-- The spine port of a tile, if it has one (R25). -/
def spineOf (t : Nat) : Option Nat := lowest (fun p => spineTile p == t) 32

/-- The neighbour of a tile in a mesh direction 0 N, 1 E, 2 S, 3 W; none at the edge. -/
def neighbour (t d : Nat) : Option Nat :=
  if d = 0 then (if t / 16 < 7 then some (t + 16) else none)
  else if d = 1 then (if t % 16 < 15 then some (t + 1) else none)
  else if d = 2 then (if 16 ≤ t then some (t - 16) else none)
  else if d = 3 then (if 0 < t % 16 then some (t - 1) else none)
  else none

/-- The opposite mesh direction. -/
def opposite (d : Nat) : Nat := (d + 2) % 4

/-- The link at a tile in a mesh direction (R174). -/
def linkAt (t d : Nat) : Option Nat :=
  match neighbour t d with
  | none => none
  | some u =>
    let a := min t u
    some (if d % 2 = 1 then 15 * tileY a + tileX a else 120 + a)

/-- The lower-numbered tile of a link (R320). -/
def linkTile (n : Nat) : Nat := if n < 120 then 16 * (n / 15) + n % 15 else n - 120

/-- The other tile of a link. -/
def linkTile2 (n : Nat) : Nat := if n < 120 then linkTile n + 1 else linkTile n + 16

/-- The link direction that leaves a tile in a mesh direction: 2n + d, d 0 toward increasing x or y (R250). -/
def dirOut (t d : Nat) : Option Nat := (linkAt t d).map (fun n => 2 * n + b1 (decide (d = 2 ∨ d = 3)))

/-- The sending tile, receiving tile and receiving input of a link direction. -/
def dirFrom (l : Nat) : Nat := if l % 2 = 0 then linkTile (l / 2) else linkTile2 (l / 2)
def dirTo (l : Nat) : Nat := if l % 2 = 0 then linkTile2 (l / 2) else linkTile (l / 2)
def dirInput (l : Nat) : Nat :=
  if l / 2 < 120 then (if l % 2 = 0 then 3 else 1) else (if l % 2 = 0 then 2 else 0)

/-- The opposite direction of the same link. -/
def dirBack (l : Nat) : Nat := if l % 2 = 0 then l + 1 else l - 1

/-- The address of the LINK_CFG register that governs link n: the E or N input register of its lower tile (R202). -/
def aLinkCfg (n : Nat) : Nat := 0x100108 + linkTile n * 0x1000 + (if n < 120 then 0x20 else 0)

/-- The LINK_CNT register of a link direction, at its receiving input (R201). -/
def aLinkCnt (l : Nat) : Nat := 0x100110 + dirTo l * 0x1000 + 0x20 * dirInput l

/-- Whether a resource id names a resource (R250). -/
def resOk (r : Nat) : Bool :=
  decide (r < 464) || decide (512 ≤ r ∧ r < 1088)

/-- The first counter number of a unit (R435). -/
def ctrRouter (t : Nat) : Nat := 8 * t
def ctrNiu (n : Nat) : Nat := 1024 + 8 * n
def ctrEng (e : Nat) : Nat := 5184 + 4 * e

/-- The tile domain, spine domain or always-on domain of a domain number, by kind (R342). -/
def domQuad (d : Nat) : Option Nat := if d < 128 then some (quadOf d) else if d < 132 then some (d - 128) else none

/-- Fault design level of a domain (R451, class 12). -/
def domLevel (d : Nat) : Nat := if d < 128 then 5 else if d < 132 then 6 else 7

/-- One FCLK cycle in units of 2^-16 ns (R261). -/
def fclkUnits (mode : Nat) : Nat := if mode = 0 then 0x5000 else if mode = 1 then 0x6AAB else 0xA000

/-- FCLK cycles per µs (R217). -/
def usCycles (mode : Nat) : Nat := if mode = 0 then 3200 else if mode = 1 then 2400 else 1600

end Sys2Proof.Machine
end

