-- ==== Sys2Proof/Machine/Packet.lean ====
section
/-! DEFINITION. The fields of head flits and port beats (R46, R66, R72, R75, R76), packets and flits, and the cost and
channel of a packet. -/

namespace Sys2Proof.Machine

/-- Head fields of R46. -/
def hInline (h : FlitBits) : BitVec 128 := h.extractLsb' 256 128
def hMsgId (h : FlitBits) : Nat := bf h 248 8
def hIdx (h : FlitBits) : Nat := bf h 242 6
def hCnt (h : FlitBits) : Nat := bf h 235 7
def hLast (h : FlitBits) : Bool := bt h 234
def hMq (h : FlitBits) : Nat := bf h 228 6
def hHops (h : FlitBits) : Nat := bf h 222 6
def hDbg (h : FlitBits) : Bool := bt h 219
def hSeq (h : FlitBits) : BitVec 16 := h.extractLsb' 176 16
def hSrcInc (h : FlitBits) : BitVec 8 := h.extractLsb' 168 8
def hDstInc (h : FlitBits) : BitVec 8 := h.extractLsb' 160 8
def hTag (h : FlitBits) : Nat := bf h 152 8
def hStatus (h : FlitBits) : Nat := bf h 148 4
def hSubop (h : FlitBits) : Nat := bf h 144 4
def hCtype (h : FlitBits) : Nat := bf h 141 3
def hGroup (h : FlitBits) : Nat := bf h 133 8
def hAddr (h : FlitBits) : Nat := bf h 80 48
def hFlow (h : FlitBits) : BitVec 16 := h.extractLsb' 64 16
def hOpc (h : FlitBits) : Nat := bf h 58 6
def hTc (h : FlitBits) : Nat := bf h 56 2
def hEpoch (h : FlitBits) : Nat := bf h 53 3
def hDmode (h : FlitBits) : Nat := bf h 51 2
def hSph (h : FlitBits) : Bool := bt h 49
def hNdata (h : FlitBits) : Nat := bf h 46 3
def hLen (h : FlitBits) : Nat := bf h 37 9
def hDst (h : FlitBits) : Nat := bf h 27 10
def hMid (h : FlitBits) : Nat := bf h 11 16
def hSrc (h : FlitBits) : Nat := bf h 17 10
def hLa (h : FlitBits) : Nat := bf h 8 3
def hSpn (h : FlitBits) : Nat := bf h 3 5

def hSetHops (h : FlitBits) (v : Nat) : FlitBits := sf h 222 6 v
def hSetSeq (h : FlitBits) (v : BitVec 16) : FlitBits := sf h 176 16 v.toNat
def hSetStatus (h : FlitBits) (v : Nat) : FlitBits := sf h 148 4 v
def hSetEpoch (h : FlitBits) (v : Nat) : FlitBits := sf h 53 3 v
def hSetSph (h : FlitBits) (v : Bool) : FlitBits := sf h 49 1 (b1 v)
def hSetDst (h : FlitBits) (v : Nat) : FlitBits := sf h 27 10 v
def hSetLa (h : FlitBits) (v : Nat) : FlitBits := sf h 8 3 v
def hSetSpn (h : FlitBits) (v : Nat) : FlitBits := sf h 3 5 v
def hSetTag (h : FlitBits) (v : Nat) : FlitBits := sf h 152 8 v
def hSetInline (h : FlitBits) (v : BitVec 128) : FlitBits := sf h 256 128 v.toNat

/-- Request opcodes of R48. -/
def opRD : Nat := 0x01
def opWRP : Nat := 0x02
def opWRA : Nat := 0x03
def opATM : Nat := 0x04
def opMSG : Nat := 0x05
def opRED : Nat := 0x06

/-- Whether a code is a request opcode, or a response opcode, of R48. -/
def opReq (o : Nat) : Bool := decide (1 ≤ o ∧ o ≤ 6)
def opRsp (o : Nat) : Bool := decide (0x21 ≤ o ∧ o ≤ 0x26)

/-- The response opcode of a request opcode (R37). -/
def rspOf (o : Nat) : Nat := o + 0x20

/-- Status codes of R59. -/
def sOK : Nat := 0
def sSAFE : Nat := 1
def sFLOW : Nat := 2
def sUNSUP : Nat := 3
def sMIS : Nat := 4
def sDOMOFF : Nat := 5
def sUNROUTE : Nat := 6
def sSTALE : Nat := 7
def sRESYNC : Nat := 8
def sGUARD : Nat := 9
def sTGTERR : Nat := 10
def sPOISON : Nat := 11
def sTIMEOUT : Nat := 12
def sPARTIAL : Nat := 13

/-- The channel of a packet (R56): 6·OPC[5] + k, from OPC[5], TC and SPH. -/
def vcOf (h : FlitBits) : Nat :=
  6 * (hOpc h / 32) +
    (if hTc h = 3 then 0 else if hTc h = 2 then 1
     else if hTc h = 1 then 2 + b1 (hSph h) else 4 + b1 (hSph h))

/-- Priority level of a channel (R162): 0 CTL, 1 SCH, 2 GR and BE. -/
def vcLevel (vc : Nat) : Nat := if vc % 6 = 0 then 0 else if vc % 6 = 1 then 1 else 2

/-- Whether a channel is a GR channel. -/
def vcGr (vc : Nat) : Bool := decide (vc % 6 = 2 ∨ vc % 6 = 3)

/-- The flits of a packet, head first (R41). -/
def Pkt.flits (p : Pkt) : List Flit :=
  let n := p.data.length
  ⟨true, decide (n = 0), p.hd, 0⟩ ::
    p.data.zipIdx.map (fun d => ⟨false, decide (d.2 + 1 = n), d.1, if p.bad then 1 else 0⟩)

/-- A packet put together from its flits. -/
def Pkt.ofFlits : List Flit → Option Pkt
  | [] => none
  | h :: t => if h.head then some ⟨h.bits, t.map Flit.bits, t.any (fun f => decide (f.bad ≠ 0))⟩ else none

/-- Bytes charged for a packet (R243, R249). -/
def Pkt.cost (p : Pkt) : Nat := 64 * (1 + hNdata p.hd)

/-- Fields of a request header beat (R66). -/
def qInline (b : BeatBits) : BitVec 128 := b.extractLsb' 128 128
def qAddr (b : BeatBits) : Nat := bf b 80 48
def qFlow (b : BeatBits) : BitVec 16 := b.extractLsb' 64 16
def qOpc (b : BeatBits) : Nat := bf b 58 6
def qSubid (b : BeatBits) : Nat := bf b 52 6
def qSubop (b : BeatBits) : Nat := bf b 48 4
def qCtype (b : BeatBits) : Nat := bf b 45 3
def qGroup (b : BeatBits) : Nat := bf b 37 8
def qSize (b : BeatBits) : Nat := bf b 22 15
def qMq (b : BeatBits) : Nat := bf b 16 6
def qEtag (b : BeatBits) : Nat := bf b 8 8

/-- Data beats that follow a header beat in all (R69). -/
def dataBeats (opc size : Nat) : Nat :=
  if (opc = opWRP ∨ opc = opWRA ∨ opc = opRED ∨ opc = opMSG) ∧ 16 < size then 2 * cdiv size 64 else 0

/-- Whether an opcode is load-type, or store-type, for barriers (R142). -/
def isLoad (o : Nat) : Bool := o == opRD || o == opATM || o == opRED
def isStore (o : Nat) : Bool := o == opWRP || o == opWRA || o == opMSG || o == opATM || o == opRED

/-- Data flits from port beats, two beats each, lower half first (R50). -/
def flitsOf : List BeatBits → List FlitBits
  | a :: b :: t => (b ++ a : BitVec 512) :: flitsOf t
  | [a] => [((0 : BeatBits) ++ a : BitVec 512)]
  | [] => []

/-- Port beats from data flits (R50). -/
def beatsOf : List FlitBits → List BeatBits
  | [] => []
  | f :: t => f.extractLsb' 0 256 :: f.extractLsb' 256 256 :: beatsOf t

/-- Data with the bytes past `len` zero (R50): the flits of `len` bytes. -/
def trimData (len : Nat) (l : List FlitBits) : List FlitBits :=
  (List.range (cdiv len 64)).map (fun i =>
    let f := l.getD i 0
    if 64 * (i + 1) ≤ len then f else sf 0 0 (8 * (len - 64 * i)) (bf f 0 (8 * (len - 64 * i))))

/-- The payload of a packet as data flits: its own, or its inline bytes at the foot of one (R41, R50). -/
def Pkt.payload (p : Pkt) : List FlitBits :=
  if p.data.isEmpty && decide (0 < hLen p.hd) then [BitVec.ofNat 512 (hInline p.hd).toNat] else p.data

/-- The operands of an ATM of LEN `len` in INLINE (R42, R46): LEN bytes from bit 0, for CAS LEN bytes from bit 64 too, the rest
zero. -/
def atmInline (subop len : Nat) (v : BitVec 128) : Nat :=
  bf v 0 (8 * len) + (if subop = 2 then bf v 64 (8 * len) * 2 ^ 64 else 0)

/-- A response packet formed from the head of the request it answers (R49): `data` and `inl` only where the response
carries data, with the request's LEN. DST_EP is MID[15:6] of the request. Head fields that R49 does not list (MQUEUE, PKT_IDX, PKT_CNT,
LAST, RLVL, DBG, SUBOP, CTYPE, HOPS, SPH) are zero (DESIGN CHOICE but for HOPS and SPH, which start at zero; log entry 148). -/
def rspPkt (h : FlitBits) (status len : Nat) (inl : BitVec 128) (data : List FlitBits) : Pkt :=
  let w : FlitBits :=
    mkf 512 256 128 inl.toNat ||| mkf 512 248 8 (hMsgId h) ||| mkf 512 176 16 (hSeq h).toNat |||
    mkf 512 168 8 (hSrcInc h).toNat ||| mkf 512 160 8 (hDstInc h).toNat ||| mkf 512 152 8 (hTag h) |||
    mkf 512 148 4 status ||| mkf 512 133 8 (hGroup h) ||| mkf 512 80 48 (hAddr h) |||
    mkf 512 64 16 (hFlow h).toNat ||| mkf 512 58 6 (rspOf (hOpc h)) ||| mkf 512 56 2 (hTc h) |||
    mkf 512 51 2 (hDmode h) ||| mkf 512 50 1 (bf h 50 1) ||| mkf 512 46 3 data.length ||| mkf 512 37 9 len |||
    mkf 512 27 10 (hSrc h) ||| mkf 512 11 16 (hMid h)
  ⟨w, data, false⟩

/-- A response that carries no data (R49). -/
def rspBare (h : FlitBits) (status : Nat) : Pkt := rspPkt h status 0 0 []

/-- MID of a request (R51). -/
def midOf (ep sub : Nat) : Nat := ep * 64 + sub

end Sys2Proof.Machine
end

