-- ==== Sys2Proof/Machine/Ops.lean ====
section
/-! DEFINITION. The named operations over the machine that every meaning is made of: reading and changing one unit, one
register, one counter; posting an event; reporting a fault occurrence; halting an engine (the engine's one way to take
a fault, R324 and R334). -/

namespace Sys2Proof.Machine

/-- The answer of one command. -/
abbrev Out := Host.Outcome State Fault Refusal

/-- A command that changes the machine: with SCAN_MODE = 1 the instance performs no function (R465). -/
def State.onAll (s : State) (f : State → Mach) : Out := .next (if s.m.test.scan then s else { s with m := f s })

/-- A command whose effect reads the machine alone. -/
def State.on (s : State) (f : Mach → Mach) : Out := s.onAll (fun s => f s.m)

/-- Defaults of the tables of `Mach`. -/
def dEng (_ : Nat) : Eng := Eng.init
def dNiu (_ : Nat) : Niu := Niu.init
def dVc (_ : Nat) : VcBuf := VcBuf.empty
def dOutVc (_ : Nat) : OutVc := ⟨0, false⟩
def dArb (_ : Nat) : Arb := ⟨0, 0, 0⟩
def dLink (_ : Nat) : Link := Link.init
def dDir (_ : Nat) : LDir := LDir.init
def dStn (_ : Nat) : Station := Station.init
def dCbu (_ : Nat) : CbUnit := CbUnit.init
def dDom (_ : Nat) : PDom := PDom.init
def dGuard (_ : Nat) : Guard := Guard.init
def dNone {α : Type} (_ : Nat) : Option α := none
def dNil {α : Type} (_ : Nat) : List α := []
def dZero (_ : Nat) : Nat := 0
def dW0 (_ : Nat) : Word := 0
def dFalse (_ : Nat) : Bool := false
def dNoTrain (_ : Nat) : BitVec 9 × BitVec 9 × Bool := (0, 0, false)
def dChan {α : Type} (_ : Nat) : Chan α := ⟨[], [], false, false⟩

/-- Reading one unit. -/
def Mach.eng (m : Mach) (e : Nat) : Eng := Tab.get dEng m.engs e
def Mach.niu (m : Mach) (n : Nat) : Niu := Tab.get dNiu m.nius n
def Mach.vc (m : Mach) (k : Nat) : VcBuf := Tab.get dVc m.rin k
def Mach.outVc (m : Mach) (k : Nat) : OutVc := Tab.get dOutVc m.rout k
def Mach.arbOf (m : Mach) (k : Nat) : Arb := Tab.get dArb m.arb k
def Mach.link (m : Mach) (n : Nat) : Link := Tab.get dLink m.links n
def Mach.dir (m : Mach) (l : Nat) : LDir := Tab.get dDir m.dirs l
def Mach.stn (m : Mach) (p : Nat) : Station := Tab.get dStn m.spine.stn p
def Mach.node (m : Mach) (t g : Nat) : Option CbNode := Tab.get dNone m.cb (t * 256 + g)
def Mach.cbUnit (m : Mach) (t : Nat) : CbUnit := Tab.get dCbu m.cbu t
def Mach.dom (m : Mach) (d : Nat) : PDom := Tab.get dDom m.pwr.doms d
def Mach.reg (m : Mach) (a : Nat) : Word := Tab.get regReset m.regs a
def Mach.slot (m : Mach) (e s : Nat) : Option (BitVec 256) := Tab.get dNone m.rp.mbx (e * 16 + s)

/-- Changing one unit. -/
def Mach.modEng (m : Mach) (e : Nat) (f : Eng → Eng) : Mach := { m with engs := Tab.upd dEng m.engs e f }
def Mach.modNiu (m : Mach) (n : Nat) (f : Niu → Niu) : Mach := { m with nius := Tab.upd dNiu m.nius n f }
def Mach.modVc (m : Mach) (k : Nat) (f : VcBuf → VcBuf) : Mach := { m with rin := Tab.upd dVc m.rin k f }
def Mach.modOut (m : Mach) (k : Nat) (f : OutVc → OutVc) : Mach := { m with rout := Tab.upd dOutVc m.rout k f }
def Mach.modArb (m : Mach) (k : Nat) (f : Arb → Arb) : Mach := { m with arb := Tab.upd dArb m.arb k f }
def Mach.modLink (m : Mach) (n : Nat) (f : Link → Link) : Mach := { m with links := Tab.upd dLink m.links n f }
def Mach.modDir (m : Mach) (l : Nat) (f : LDir → LDir) : Mach := { m with dirs := Tab.upd dDir m.dirs l f }
def Mach.modSpine (m : Mach) (f : Spine → Spine) : Mach := { m with spine := f m.spine }
def Mach.modStn (m : Mach) (p : Nat) (f : Station → Station) : Mach :=
  { m with spine := { m.spine with stn := Tab.upd dStn m.spine.stn p f } }
def Mach.setNode (m : Mach) (t g : Nat) (v : Option CbNode) : Mach :=
  { m with cb := Tab.set dNone m.cb (t * 256 + g) v }
def Mach.modCbu (m : Mach) (t : Nat) (f : CbUnit → CbUnit) : Mach := { m with cbu := Tab.upd dCbu m.cbu t f }
def Mach.modDom (m : Mach) (d : Nat) (f : PDom → PDom) : Mach :=
  { m with pwr := { m.pwr with doms := Tab.upd dDom m.pwr.doms d f } }
def Mach.modPwr (m : Mach) (f : Power → Power) : Mach := { m with pwr := f m.pwr }
def Mach.modTwin (m : Mach) (f : Twin → Twin) : Mach := { m with twin := f m.twin }
def Mach.modKeep (m : Mach) (f : Keeper → Keeper) : Mach := { m with keep := f m.keep }
def Mach.modTele (m : Mach) (f : Tele → Tele) : Mach := { m with tele := f m.tele }
def Mach.modFlt (m : Mach) (f : FaultUnit → FaultUnit) : Mach := { m with flt := f m.flt }
def Mach.modRp (m : Mach) (f : RegPort → RegPort) : Mach := { m with rp := f m.rp }
def Mach.setSlot (m : Mach) (e s : Nat) (v : Option (BitVec 256)) : Mach :=
  { m with rp := { m.rp with mbx := Tab.set dNone m.rp.mbx (e * 16 + s) v } }
def Mach.setReg (m : Mach) (a : Nat) (w : Word) : Mach := { m with regs := Tab.set regReset m.regs a w }

/-- Set the bits of a mask in a register: a sticky bit stays set until software clears it. -/
def Mach.orReg (m : Mach) (a mask : Nat) : Mach := m.setReg a (m.reg a ||| BitVec.ofNat 64 mask)

/-- Write one field of a register. -/
def Mach.setFld (m : Mach) (a lo len v : Nat) : Mach := m.setReg a (sf (m.reg a) lo len v)

/-- One field of a register as stored. -/
def Mach.fld (m : Mach) (a lo len : Nat) : Nat := bf (m.reg a) lo len

/-- Add `k` to a counter field, which saturates at its maximum. -/
def Mach.addFld (m : Mach) (a lo len k : Nat) : Mach := m.setFld a lo len (satAdd len (m.fld a lo len) k)

/-- The key of an input VC and of an output VC of a router. -/
def kVc (t inp vc : Nat) : Nat := (t * 8 + inp) * 12 + vc

/-- The flits of the packet at an ejection VC: the head that the NIU has taken (R160), and those in the VC. -/
def Niu.ejFlits (x : Niu) (vc : Nat) : List Flit := (Tab.get dNone x.ejHd vc).toList ++ Tab.get dNil x.ej vc

/-- A flit enters an ejection VC of an NIU. A head stands in the VC for one cycle, then the NIU takes it (R160), so that the 4 flits of
the VC hold the data flits behind it (R163): it has done so when a data flit comes. -/
def Niu.pushEj (x : Niu) (vc : Nat) (f : Flit) : Niu :=
  match Tab.get dNil x.ej vc with
  | [h] =>
    if h.head then { x with ejHd := Tab.set dNone x.ejHd vc (some h), ej := Tab.set dNil x.ej vc [f] }
    else { x with ej := Tab.set dNil x.ej vc [h, f] }
  | l => { x with ej := Tab.set dNil x.ej vc (l ++ [f]) }

/-- Whether an ejection VC takes a data flit: it has a place among its 4 (R163), a head that stands there being taken meanwhile. -/
def Niu.ejRoom (x : Niu) (vc : Nat) : Bool := decide (((Tab.get dNil x.ej vc).filter (fun g => !g.head)).length < 4)

/-- An ejection VC is emptied. -/
def Niu.clearEj (x : Niu) (vc : Nat) : Niu :=
  { x with ej := Tab.set dNil x.ej vc [], ejHd := Tab.set dNone x.ejHd vc none, missEj := x.missEj &&& ~~~(BitVec.ofNat 12 (2 ^ vc)),
           heldEj := x.heldEj &&& ~~~(BitVec.ofNat 24 (2 ^ vc + 2 ^ (vc + 12))) }

/-- Integer FT ns (R267): the local copies are taken equal to the keeper's value (log entry 12). -/
def Mach.ftNs (m : Mach) : Nat := m.keep.ft / 65536 % 2 ^ 64

/-- FT in µs. -/
def Mach.ftUs (m : Mach) : Nat := m.ftNs / 1000

/-- Whether FT has reached a multiple of `p` ns in this FCLK cycle (R244, R261, R443). -/
def Mach.atMultiple (m : Mach) (p : Nat) : Bool :=
  let inc := fclkUnits m.clk.mode
  decide (0 < p ∧ m.keep.ft % (p * 65536) ≤ inc + inc / 64)

/-- The keeper in one FCLK cycle (R261 to R264). -/
def Keeper.tick (inc : Nat) (k : Keeper) : Keeper :=
  let a := min (inc / 64) k.slew.natAbs
  let k := { k with idle := k.idle + 1, past := (k.ft :: k.past).take 1024 }
  if k.st = .frozen then { k with shadow := k.shadow + inc }
  else if 0 < k.slew then { k with ft := k.ft + inc + a, slew := k.slew - a }
  else { k with ft := k.ft + inc - a, slew := k.slew + a }

/-- The keeper's FT `k` FCLK cycles ago (R263, R267); before the cycles it remembers FT ran on the increment. -/
def Mach.ftAgo (m : Mach) (k : Nat) : Nat :=
  let l := m.keep.ft :: m.keep.past
  match l[k]? with
  | some t => t
  | none => (l.getLast?.getD 0) - (k + 1 - l.length) * fclkUnits m.clk.mode

/-- Whether the unit is present on the variant (R1). -/
def Mach.hasSpine (m : Mach) : Bool := m.straps.variant != 3
def Mach.hasCombine (m : Mach) : Bool := m.straps.variant == 1
def Mach.hasMirror (m : Mach) : Bool := m.straps.variant == 1
def Mach.hasEo (m : Mach) : Bool := m.straps.variant != 3

/-- The value of CAP_UNITS (R2, R3). -/
def Mach.capUnits (m : Mach) : Word :=
  mkf 64 24 8 128 ||| mkf 64 16 8 (if m.hasSpine then 32 else 0) ||| mkf 64 8 4 m.straps.variant |||
  mkf 64 3 1 (b1 m.hasMirror) ||| mkf 64 2 1 (b1 m.hasCombine) ||| mkf 64 1 1 (b1 m.hasEo) |||
  mkf 64 0 1 (b1 m.hasSpine)

/-- Whether a domain's registers answer: its reset released and past step 5 of R375 (R430). The near window answers from the release
of the always-on reset (R432). -/
def Mach.domLive (m : Mach) (d : Nat) : Bool := (m.dom d).live

/-- Whether a spine domain has power and is initialized, so that the rotor runs (R219). -/
def Mach.spineUp (m : Mach) : Bool := m.hasSpine && [128, 129, 130, 131].any (fun d => m.domLive d)

/-- Record an event for an engine (R329): dropped and counted while it is OFF, not queued when the queue of 32 is full. -/
def Mach.postEvt (m : Mach) (e cls kind detail src : Nat) : Mach :=
  let r : Word := mkf 64 60 4 cls ||| mkf 64 56 4 kind ||| mkf 64 32 24 m.ftUs ||| mkf 64 16 16 detail ||| mkf 64 0 16 src
  if (m.eng e).state = .off then m.addFld (aEng e 0x58) 32 16 1
  else if (m.eng e).evq.length < 32 then m.modEng e (fun x => { x with evq := x.evq ++ [r] })
  else m.orReg (aEng e 0) (2 ^ 9)

/-- Put `x` on an event channel (R424): an idle channel starts its transfer at once, a busy one counts, up to 15, beyond
which the overflow is marked (R425). -/
def Chan.push {α : Type} (c : Chan α) (x : α) : Chan α :=
  if c.fly.isEmpty then { c with fly := [x] }
  else if c.acc.length < 15 then { c with acc := c.acc ++ [x] }
  else { c with ovf := true }

/-- `k` pulses of one kind (R424). -/
def Chan.pushes {α : Type} (x : α) : Nat → Chan α → Chan α
  | 0, c => c
  | k + 1, c => (c.push x).pushes x k

/-- Report `n` occurrences of a fault class to the fault unit, through the class's event channel, a pulse each (R424, R451, R452);
while the always-on domain is in reset its channels hold nothing (R433). -/
def Mach.occur (m : Mach) (cls kind lvl loc sub n : Nat) : Mach :=
  if m.pwr.aonUp then m.modFlt (fun f => { f with chans := Tab.upd dChan f.chans cls (Chan.pushes ⟨kind, lvl, loc, sub, 1⟩ n) })
  else m

/-- Report a POWER event of a domain toward the master, through the domain's event channel (R424, R329, R433). -/
def Mach.powerEvt (m : Mach) (d kind : Nat) : Mach :=
  if m.pwr.aonUp then { m with pchan := Tab.upd dChan m.pchan d (fun c => c.push kind) } else m

/-- Add `k` to counter number `n` (R436): a sum that passes 2^48 - 1 wraps, and the wrap awaits its own step. -/
def Mach.addCtr (m : Mach) (n k : Nat) (hd : FlitBits) : Mach :=
  let a := aCtr n
  let v := m.fld a 0 48 + k
  let m1 := m.setFld a 0 48 v
  if v < 2 ^ 48 then m1
  else m1.modTele (fun t => { t with wraps := Tab.upd dNone t.wraps n (fun o => some (o.getD hd)) })

/-- Whether counter number `n` counts the event (R437): enabled, this event code, the selector and class match. -/
def Mach.ctrHit (m : Mach) (n code : Nat) (sel tc : Option Nat) : Bool :=
  let c := m.reg (aCtr n + 8)
  bt c 63 && bf c 0 8 == code &&
  (match sel with
   | none => true
   | some x => bf c 32 8 == 0xFF || bf c 32 8 == x) &&
  (match tc with
   | none => true
   | some k => bf c 44 4 == 0 || bt c (44 + k))

/-- Count one FCLK cycle at each counter of a unit that counts cycles in which one of these events holds: selector, class, head (R436,
R438). -/
def Mach.countCycle (m : Mach) (base w code : Nat) (evs : List (Option Nat × Option Nat × FlitBits)) : Mach :=
  if m.tele.owner.isEmpty || evs.isEmpty then m
  else each (List.range w) (fun i m =>
    match evs.find? (fun v => m.ctrHit (base + i) code v.1 v.2.1) with
    | some v => m.addCtr (base + i) 1 v.2.2
    | none => m) m

/-- Count `k` events at a unit whose counters are numbered `base` to `base + w - 1` (R436, R438). No counter counts
before one has been configured. -/
def Mach.count (m : Mach) (base w code : Nat) (sel tc : Option Nat) (k : Nat) (hd : FlitBits) : Mach :=
  if m.tele.owner.isEmpty then m
  else each (List.range w) (fun i m => if m.ctrHit (base + i) code sel tc then m.addCtr (base + i) k hd else m) m

/-- Class of a VC (R56). -/
def vcTc (vc : Nat) : Nat := if vc % 6 = 0 then 3 else if vc % 6 = 1 then 2 else if vc % 6 < 4 then 1 else 0

/-- Count at a router's telemetry counters (R438, KIND 0). -/
def Mach.countRtr (m : Mach) (t code : Nat) (sel tc : Option Nat) (hd : FlitBits) : Mach := m.count (ctrRouter t) 8 code sel tc 1 hd

/-- A flit takes an input's register: what stood there is in its VC buffer now (R158, R159). -/
def Mach.freeReg (m : Mach) (t inp : Nat) : Mach :=
  (List.range 12).foldl (fun m vc =>
    if (m.vc (kVc t inp vc)).inReg then m.modVc (kVc t inp vc) (fun b => { b with inReg := false }) else m) m

/-- The next free value's number, and the state past it. -/
def Mach.nextFree (m : Mach) : Nat × Mach := (m.frees, { m with frees := m.frees + 1 })

/-- Give the instance token back if engine `e` holds it (R345). -/
def Mach.releaseToken (m : Mach) (e : Nat) : Mach := if m.token = some e then { m with token := none } else m

/-- Write the fault record of a halt into slot 15 (R334), or mark it lost. -/
def Mach.faultRecord (m : Mach) (e code : Nat) : Mach :=
  let x := m.eng e
  if (m.slot e 15).isNone then
    let hdr : Nat := 2 ^ 63 + 2 ^ 24 + (if code ≤ 14 then code else 15) * 2 ^ 20 + x.post.toNat
    (m.setSlot e 15 (some (BitVec.ofNat 256 (hdr + x.pc.toNat * 2 ^ 64 + x.insn.toNat * 2 ^ 128 + m.ftNs * 2 ^ 192)))).modEng e
      (fun x => { x with post := x.post + 1 })
  else m.orReg (aEng e 0x30) (2 ^ 8)

/-- Halt engine `e` at its current instruction with a code of R323 (R324, R327, R328): state FAULT, ENG_FAULT.CODE and
ENG_FAULT_INSN, PEND[15] (R331), the token released (R345), the fault record (R334), and for SRAM_ECC and FETCH the
occurrence of class 15 (R451). -/
def Mach.haltFault (m : Mach) (e code : Nat) : Mach :=
  let m := m.modEng e (fun x => { x with state := .fault, wait := .none, limit := none, fetch := none, stopReq := false })
  let m := m.setFld (aEng e 0x30) 0 4 code
  let m := m.setReg (aEng e 0x38) (m.eng e).insn
  let m := m.orReg (aEng e 0x58) (2 ^ 15)
  let m := (m.releaseToken e).faultRecord e code
  if code = 10 then m.occur 15 0 3 e 0 1 else if code = 11 then m.occur 15 1 3 e 0 1 else m

/-- Engine status and fault codes of R323. -/
def xOK : Nat := 0
def xSTATE : Nat := 1
def xABSENT : Nat := 2
def xRANGE : Nat := 3
def xLATE : Nat := 4
def xBUSY : Nat := 5
def xDENIED : Nat := 6
def xTIMEOUT : Nat := 7
def xILLEGAL : Nat := 8
def xALIGN : Nat := 9
def xECC : Nat := 10
def xFETCH : Nat := 11
def xTRAP : Nat := 12
def xSTOPPED : Nat := 13
def xSAFE : Nat := 14

/-- Register `i` of engine `e`, and writing it. -/
def Eng.reg (x : Eng) (i : Nat) : Word := Tab.get dW0 x.g i
def Eng.setReg (x : Eng) (i : Nat) (w : Word) : Eng := { x with g := Tab.set dW0 x.g i w }

/-- Write several registers. -/
def Eng.setRegs (x : Eng) (l : List (Nat × Word)) : Eng := l.foldl (fun x p => x.setReg p.1 p.2) x

/-- The address of the next instruction: 8 B on, the space and endpoint kept (R338, R315). -/
def Eng.nextPc (x : Eng) : Word := sf x.pc 0 48 (bf x.pc 0 48 + 8)

/-- An instruction at `pc` has completed, and counts (R438, KIND 3 code 0x02): counters of the engine that have wrapped note its address
(R440). -/
def Mach.completes (m : Mach) (e : Nat) (pc : Word) : Mach :=
  let m := m.count (ctrEng e) 4 2 none none 1 0
  if m.tele.wraps.isEmpty then m
  else each (List.range 4) (fun i m =>
    let n := ctrEng e + i
    if (Tab.get dNone m.tele.wraps n).isNone then m
    else m.modTele (fun t => { t with wrapPc := Tab.upd dNil t.wrapPc n (fun l => (l ++ [pc]).take 4) })) m

/-- Move past an instruction that has completed. -/
def Mach.stepPc (m : Mach) (e : Nat) : Mach := (m.modEng e (fun x => { x with pc := x.nextPc })).completes e (m.eng e).pc

/-- End a status instruction (R344): ST; on OK the try form clears V and both go on; otherwise the try form sets V and
goes on, the plain form halts. `wr` is what the row lets it write with this status (R365). -/
def Mach.endStatus (m : Mach) (e st : Nat) (wr : List (Nat × Word)) : Mach :=
  let t := bt (m.eng e).insn 43
  let m := m.releaseToken e
  let m := m.modEng e (fun x => { x with st := st, wait := .none, limit := none, state := .running })
  let m := m.modEng e (fun x => x.setRegs wr)
  if st = xOK then (m.modEng e (fun x => { x with v := if t then false else x.v })).stepPc e
  else if t then ((m.modEng e (fun x => { x with v := true })).count (ctrEng e) 4 5 none none 1 0).stepPc e
  else m.haltFault e st

/-- Put engine `e` in WAITING with what it waits for (R325). -/
def Mach.setWait (m : Mach) (e : Nat) (w : Wait) : Mach :=
  m.modEng e (fun x => { x with state := .waiting, wait := w })

/-- The engines that wait for exactly `w`. -/
def Mach.waiters (m : Mach) (w : Wait) : List Nat :=
  (List.range 5).filter (fun e => decide ((m.eng e).state = .waiting ∧ (m.eng e).wait = w))

/-- Turn every engine's wait for `w` into the end of its command with status `st`: the completion then travels back to
the engine (R346). -/
def Mach.finish (m : Mach) (w : Wait) (st : Nat) : Mach :=
  each (m.waiters w) (fun e m => m.modEng e (fun x => { x with wait := .done st [], limit := none })) m

/-- The safe-state flag: the majority of its three copies (R456). -/
def Mach.safe (m : Mach) : Bool :=
  (m.flt.safeA && m.flt.safeB) || (m.flt.safeA && m.flt.safeC) || (m.flt.safeB && m.flt.safeC)

/-- The twin state code of R419. -/
def TwSt.code : TwSt → Nat
  | .down => 0 | .detached => 1 | .attaching => 2 | .attached => 3 | .detaching => 4 | .dead => 5

/-- The engine state code of R336. -/
def EngSt.code : EngSt → Nat
  | .idle => 0 | .running => 1 | .waiting => 2 | .halted => 3 | .fault => 4 | .off => 5

/-- The keeper state code of R277. -/
def KSt.code : KSt → Nat
  | .free => 0 | .track => 1 | .frozen => 2 | .holdover => 3

/-- The domain state code of R397. -/
def DSt.code : DSt → Nat
  | .off => 0 | .ramp => 1 | .init => 2 | .on => 3 | .draining => 4 | .drained => 5 | .fenced => 6

/-- The link state code of R202. -/
def LinkSt.code : LinkSt → Nat
  | .tied => 0 | .down => 1 | .train => 2 | .up => 3 | .dead => 4 | .excl => 5

/-- The station state code of R231. -/
def StnSt.code : StnSt → Nat
  | .enabled => 0 | .closing => 1 | .disabled => 2 | .dead => 3

/-- The lock code of R231. -/
def Lock.code : Lock → Nat
  | .free => 0 | .acq => 1 | .locked => 2 | .slew => 3 | .hold => 4

/-- The cause of the safe state: the majority of its three copies, bit by bit (R456). -/
def FaultUnit.cause (f : FaultUnit) : Nat := (f.causeA &&& f.causeB) ||| (f.causeA &&& f.causeC) ||| (f.causeB &&& f.causeC)

/-- Enter the safe state (R456, R457): the first cause of a period sets CAUSE, ESC_CLASS, ENTRY_TWIN and ENTRY_US. Units act on it
in steps of their own. -/
def Mach.enterSafe (m : Mach) (cause esc : Nat) : Mach :=
  if m.safe then m
  else m.modFlt (fun f => { f with safeA := true, safeB := true, safeC := true, causeA := cause, causeB := cause, causeC := cause, esc := esc,
                                   twin := m.twin.st.code, us := BitVec.ofNat 32 m.ftUs })

/-- Whether records are mirrored and mirror waits run (R400). -/
def Mach.mirrors (m : Mach) : Bool :=
  decide (m.twin.st = .attaching ∨ m.twin.st = .attached ∨ m.twin.st = .detaching)

/-- Whether the twin unit's queue of 64 records has room and none waits for it: else an NIU with a record to send waits (R409). -/
def Mach.recRoom (m : Mach) : Bool := decide (m.twin.recq.length < 64) && m.twin.recw.isEmpty

/-- Fields of a record, and the NIUs whose flow entry it changes (R408). -/
def rType (r : BitVec 128) : Nat := bf r 124 4
def rEp (r : BitVec 128) : Nat := bf r 114 10
def rFlow (r : BitVec 128) : BitVec 16 := r.extractLsb' 98 16
def rSeq (r : BitVec 128) : BitVec 16 := r.extractLsb' 82 16
def recNius (r : BitVec 128) : List Nat :=
  if rType r = 1 ∨ rType r = 3 ∨ rType r = 6 then [rEp r]
  else if rType r = 5 then [rEp r, bf r 72 10]
  else []

/-- Four records as the data of a REC frame, the first in the lowest bits (R408; log entry 17). -/
def recFrame (l : List (Nat × BitVec 128)) : BitVec 512 :=
  ((l.take 4).zipIdx).foldl (fun d r => d ||| mkf 512 (128 * r.2) 128 r.1.2.toNat) 0

/-- One bit of the division by the IEEE 802.3 generator (R406). -/
def crcStep (c : BitVec 32) (b : Bool) : BitVec 32 := if (c.msb != b) = true then (c <<< 1) ^^^ 0x04C11DB7 else c <<< 1

/-- The CRC-32 of a frame over data and ctl (R406): the generator is the spec's, the order of the bits, the first value and the
last addition are free values (log entry 17). -/
def twinCrc (data : BitVec 512) (ctl : BitVec 30) : BitVec 32 :=
  (List.range 542).foldl (fun c i => crcStep c ((ctl ++ data).getLsbD (Config.crcOrder i))) Config.crcInit ^^^ Config.crcFinal

/-- The numbers of the frames received in order and not yet taken and applied (R407): the one whose records are being applied,
those in the buffer, a heartbeat. -/
def Twin.held (x : Twin) : List Nat :=
  (if x.rxq.isEmpty then [] else x.taken.toList) ++ x.rx.map (fun f => f.seq) ++ x.hbIn.toList.map Prod.fst

/-- ACK of R407: the last frame received in order before which and with which every frame is taken and applied. -/
def Twin.ackOut (x : Twin) : Nat :=
  (x.rseq + 255 - (x.held.map (fun s => (x.rseq + 256 - s) % 256)).foldl max 0) % 256

/-- CRD of R407, counted modulo 256: receive buffer slots freed since the link trained (log entry 17). -/
def Twin.crdOut (x : Twin) : Nat := (x.rseq + 256 - x.rx.length - x.hbIn.toList.length) % 256

/-- The control word of a frame that leaves now (R407). -/
def Twin.ctl (x : Twin) (kind seq : Nat) : BitVec 30 :=
  mkf 30 26 4 kind ||| mkf 30 18 8 seq ||| mkf 30 10 8 x.ackOut ||| mkf 30 2 8 x.crdOut ||| mkf 30 1 1 (b1 x.nakOut) |||
    mkf 30 0 1 (b1 x.trained)

/-- Put a frame on the outputs (R406). -/
def Twin.drive (x : Twin) (kind seq : Nat) (data : BitVec 512) : Twin := { x with oData := data, oCtl := x.ctl kind seq }

/-- Send one frame: it takes the next number and waits for its acknowledgement (R407). -/
def Twin.send (x : Twin) (kind : Nat) (data : BitVec 512) (rids : List Nat) : Twin :=
  { x.drive kind x.fseq data with fseq := (x.fseq + 1) % 256, unack := x.unack ++ [⟨x.fseq, kind, data, rids⟩] }

/-- Whether the next numbered frame may leave (R407): the link is trained, fewer than 32 frames wait for their acknowledgement,
and the twin's buffer has a free slot. -/
def Twin.mayTx (x : Twin) : Bool :=
  x.trained && decide (x.unack.length < 32) && decide ((x.fseq + 256 - x.crd) % 256 < 32)

/-- A resend from ACK + 1 begins (R407): every frame not acknowledged is to leave again, in order. -/
def Twin.resend (x : Twin) : Twin := { x with again := x.unack }

/-- The CRC on the outputs (R406). -/
def Twin.oCrc (x : Twin) : BitVec 32 := twinCrc x.oData x.oCtl

/-- Whether every record numbered below `b` is acknowledged (R409, R415). -/
def Twin.ackedTo (x : Twin) (b : Nat) : Bool :=
  (x.recq ++ x.recw).all (fun r => decide (b ≤ r.1)) && x.unack.all (fun f => f.rids.all (fun i => decide (b ≤ i)))

/-- Flush handshakes that this plane owes and can end now: their CTRL frames wait to be sent (R415). -/
def Twin.flushNow (x : Twin) : Twin :=
  let done := x.flushq.filter (fun q => x.ackedTo q.2)
  { x with flushq := x.flushq.filter (fun q => !x.ackedTo q.2), outq := x.outq ++ done.map (fun q => (4, Config.ctrlFrame 6 q.1 0)) }

/-- Records that wait at their NIUs take the room in the unit's queue of 64 (R409). -/
def Twin.refill (x : Twin) : Twin :=
  { x with recq := x.recq ++ x.recw.take (64 - x.recq.length), recw := x.recw.drop (64 - x.recq.length) }

/-- A heartbeat with the layout of R411, as it is at the send cycle. -/
def Mach.hbFrame (m : Mach) : BitVec 512 :=
  let x := m.twin
  mkf 512 176 16 x.hbSeq ||| mkf 512 175 1 (b1 (x.failed || x.wdrawn)) |||
    mkf 512 174 1 (b1 (decide (m.keep.st = .track))) ||| mkf 512 173 1 (b1 x.fresh) ||| mkf 512 172 1 (b1 m.straps.planeB) |||
    mkf 512 168 4 m.straps.variant ||| mkf 512 160 8 x.st.code ||| mkf 512 128 32 (m.ftNs - x.lastAt) |||
    mkf 512 64 64 x.lastFt ||| mkf 512 0 64 m.ftNs

/-- The heartbeat that was due has left (R411). -/
def Twin.hbGone (x : Twin) : Twin := { x with hbDue := false, hbSeq := (x.hbSeq + 1) % 65536 }

/-- The frame that leaves at one edge of the frame clock (R406, R407): one of a resend, a heartbeat, a COPY or CTRL frame, records,
four to a frame, else IDLE (R408, R411, R417; log entries 17, 126). A heartbeat is formed as it leaves; one of a resend leaves as it was
(R411; DEDUCED, log entry 126). In DEAD a heartbeat leaves whether or not the link is trained or
frames wait for their acknowledgement, and none is kept for a resend (R411; DEDUCED, log entry 126). -/
def Mach.twinEdge (m : Mach) : Mach :=
  let x := m.twin.flushNow
  let put (x : Twin) : Mach := { m with twin := x }
  match x.again, x.hbDue with
  | f :: rest, _ => put { x.drive f.kind f.seq f.data with again := rest }
  | [], true =>
    if x.mayTx then put (x.send 2 m.hbFrame []).hbGone
    else if x.st = .dead then put { x.drive 2 x.fseq m.hbFrame with fseq := (x.fseq + 1) % 256 }.hbGone
    else put (x.drive 0 0 0)
  | [], false =>
    if !x.mayTx then put (x.drive 0 0 0)
    else match x.outq, x.recq with
      | c :: rest, _ => put { x.send c.1 c.2 [] with outq := rest }
      | [], [] => put (x.drive 0 0 0)
      | [], r => (put { x.send 1 (recFrame r) ((r.take 4).map Prod.fst) with recq := r.drop 4 }.refill).addFld 0xE0018 0 32 (min 4 r.length)

/-- Queue a record for the twin (R408): its number, and the machine. Beyond the 64 of the unit's queue it waits at its NIU (R409). -/
def Mach.pushRec (m : Mach) (ty ep : Nat) (flow seq : BitVec 16) (payload : Nat) : Nat × Mach :=
  let r : BitVec 128 := mkf 128 124 4 ty ||| mkf 128 114 10 ep ||| mkf 128 98 16 flow.toNat ||| mkf 128 82 16 seq.toNat |||
    mkf 128 0 82 payload
  let id := m.twin.rid
  (id, m.modTwin (fun x => { x with recw := x.recw ++ [(id, r)], rid := id + 1 }.refill))

/-- Queue a record where mirroring runs. -/
def Mach.mirrorRec (m : Mach) (ty ep : Nat) (flow seq : BitVec 16) (payload : Nat) : Mach :=
  if m.mirrors then (m.pushRec ty ep flow seq payload).2 else m

/-- Whether a mirror wait for the record has ended: it is acknowledged, or mirror waits do not run (R400, R409, R413). -/
def Mach.recDone (m : Mach) (id : Nat) : Bool :=
  !m.mirrors || !((m.twin.recq ++ m.twin.recw).any (fun r => r.1 == id)) && !(m.twin.unack.any (fun f => f.rids.contains id))

/-- The plane that the plane map gives a flow, true for B (R402). -/
def Twin.mapOf (x : Twin) (f : BitVec 16) : Bool :=
  match x.map.find? (fun r => decide (r.1 ≤ f.toNat ∧ f.toNat ≤ r.2.1)) with
  | some r => r.2.2
  | none => bt f 15

/-- The plane that carries a flow, true for B: the map's (R402), but where the state became DETACHED as the link trained, this plane
carries every flow or none (R400; DESIGN CHOICE, log entry 127). -/
def Mach.planeOf (m : Mach) (f : BitVec 16) : Bool :=
  match m.twin.whole with
  | some b => m.straps.planeB == b
  | none => m.twin.mapOf f

/-- Whether a flow is moving to this plane under R415. -/
def Mach.arriving (m : Mach) (f : BitVec 16) : Bool :=
  decide (m.twin.st = .detaching ∧ m.twin.first ≤ f.toNat ∧ f.toNat ≤ m.twin.last) &&
  (m.twin.opTo == m.straps.planeB) && (m.planeOf f != m.straps.planeB)

/-- Whether an NIU of this plane takes requests on the flow (R403, R415). -/
def Mach.carries (m : Mach) (f : BitVec 16) : Bool := m.planeOf f == m.straps.planeB || m.arriving f

end Sys2Proof.Machine
end

