-- ==== Sys2Proof/Machine/Operands.lean ====
section
/-! DEFINITION. The fields and operand forms of an instruction word (R338, R340, R342), which words are defined (R339,
R347), and the scope rules (R320, R343). -/

namespace Sys2Proof.Machine

/-- Fields of the instruction word (R338). -/
def wOpc (w : Word) : Nat := bf w 56 8
def wD (w : Word) : Nat := bf w 52 4
def wA (w : Word) : Nat := bf w 48 4
def wB (w : Word) : Nat := bf w 44 4
def wT (w : Word) : Bool := bt w 43
def wImm (w : Word) : Nat := bf w 0 40

/-- Shared immediate sub-fields (R340). -/
def wLimit (w : Word) : Nat := bf w 0 24
def wSadr (w : Word) : Nat := bf w 24 16
def wImmB (w : Word) : Word := BitVec.ofNat 64 (bf w 0 32 <<< bf w 32 6)

/-- Source b of the arithmetic instructions (R351). -/
def srcB (x : Eng) (w : Word) : Word := if bt w 42 then wImmB w else x.reg (wB w)

/-- A jump target (R348). -/
def jumpTarget (x : Eng) (w : Word) : Nat :=
  if bt w 42 then bf (x.reg (wA w)) 0 48 else bf x.pc 40 8 * 2 ^ 40 + wImm w

/-- A limit in FCLK cycles: 32, 24 or 16 per unit by clock mode (R341). -/
def limitCycles (mode units : Nat) : Option Nat :=
  if units = 0 then none else some (units * (if mode = 0 then 32 else if mode = 1 then 24 else 16))

/-- Field masks of the word. -/
def mD : Nat := 0xF * 2 ^ 52
def mA : Nat := 0xF * 2 ^ 48
def mB : Nat := 0xF * 2 ^ 44
def mT : Nat := 2 ^ 43
def mM2 : Nat := 2 ^ 42
def mM1 : Nat := 2 ^ 41
def mM0 : Nat := 2 ^ 40
def mImm : Nat := 2 ^ 40 - 1
def mLim : Nat := 2 ^ 24 - 1
def mSadr : Nat := 0xFFFF * 2 ^ 24
def mImmB : Nat := 2 ^ 38 - 1

/-- The bits that the instruction of opcode `wOpc w` uses, its opcode aside (R338 to R340 and the rows of R349 to R364);
none where the opcode is undefined (R347) or a code within the word is reserved. -/
def usedBits (w : Word) : Option Nat :=
  let i := bt w 42
  let jump : Nat := if i then mM2 + mA else mM2 + mImm
  let arith : Nat := if i then mM2 + mD + mA + mImmB else mM2 + mD + mA + mB
  let m := bf w 40 3
  match wOpc w with
  | 0x00 => some 0
  | 0x01 => some 0
  | 0x02 => some jump
  | 0x03 => if wD w = 15 then none else some (jump + mD)
  | 0x04 => some jump
  | 0x05 => some 0
  | 0x06 => some (jump + mD)
  | 0x07 => some mImm
  | 0x10 =>
    if m = 0 ∨ m = 2 then some (mD + mM1 + mImm)
    else if m = 1 then some (mD + mM0 + mLim)
    else none
  | 0x11 => some (mD + mA)
  | 0x12 => some arith
  | 0x13 => some arith
  | 0x14 => some arith
  | 0x15 => some arith
  | 0x16 => some arith
  | 0x17 => some arith
  | 0x18 => some (arith + mM1)
  | 0x19 => some (arith - mD)
  | 0x1A => some (arith + mM1)
  | 0x1B => some (arith + mM1)
  | 0x20 => some (mD + mA + 0xFFFF)
  | 0x21 => some (mA + mB + 0xFFFF)
  | 0x22 => if m = 0 then some (mT + mD + mA) else if m = 1 then some (mT + mA + mM0 + mSadr) else none
  | 0x23 => if m = 0 then some (mT + mA + mB) else if m = 1 then some (mT + mA + mM0 + mSadr) else none
  | 0x24 => some (mT + mD + mA)
  | 0x25 => some (mT + mA + mB)
  | 0x26 => some 0
  | 0x30 => some mD
  | 0x31 => some (mT + mA)
  | 0x32 => some (mT + mD + mImm)
  | 0x40 => some (mT + mA)
  | 0x41 => some mT
  | 0x42 => some (mT + mLim)
  | 0x43 => some (mT + mA)
  | 0x44 => some (mT + mA)
  | 0x45 => some (mT + mA + mB + 2 ^ 24)
  | 0x50 => some (mT + mA + mB)
  | 0x51 => some (mT + mM2 + 0x1F * 2 ^ 24 + (if i then 0 else mLim))
  | 0x52 => some (mT + mA)
  | 0x60 => some (mT + mA + mLim)
  | 0x61 => some (mT + mA + mLim)
  | 0x62 => some (mT + mA)
  | 0x63 => some (mT + mA + mLim)
  | 0x64 => some (mT + mA)
  | 0x65 => some (mT + mA + 3 * 2 ^ 24)
  | 0x66 => some (mT + mA + mD)
  | 0x70 => some (mT + mA + mLim)
  | 0x71 => some (mT + mA + mM2 + mLim)
  | 0x72 => some (mT + mA + mB + mM2)
  | 0x80 => some (mT + mA + mB)
  | 0x81 => some (mT + mA + mD)
  | 0x82 => some (mT + mA + mSadr)
  | 0x83 => some (mT + mA + mB + mM2)
  | 0x84 => some (mT + mA + mD)
  | 0x85 => some (mT + mD + mSadr)
  | 0x86 => some (mT + mA)
  | 0x90 => some (mT + mSadr)
  | 0x91 => some (mT + mA + mLim)
  | 0xA0 => if i then some (mT + mA + mB + mM2) else some (mT + mA + mSadr + 0xF)
  | 0xA1 => some (mT + mA + 0x1FFFF)
  | 0xA2 => some (mT + mA + mLim)
  | 0xB0 => some (mT + 2 ^ 24 + mLim)
  | 0xB1 => some (mT + mLim)
  | 0xB2 => some (mT + mA + mB + mLim)
  | 0xC0 => some (mT + mA + mB)
  | 0xC1 => some (mT + mA + mD)
  | 0xC2 => some (mT + mSadr)
  | 0xC3 => some (mT + mSadr)
  | 0xD0 =>
    let nw := bf w 4 4
    some (mT + mM2 + 0xFF + (if i then 0xF00 else 0) + (if 1 ≤ nw then mD else 0) + (if 2 ≤ nw then mA else 0) +
      (if 3 ≤ nw then mB else 0))
  | 0xD1 => some 0xF
  | 0xE0 => if i then some (mT + mM2) else some (mT + mM2 + mA)
  | 0xF0 => some mD
  | _ => none

/-- Whether a word is a defined instruction (R339): its opcode is in the map and every bit it does not use is zero. -/
def legalWord (w : Word) : Bool :=
  match usedBits w with
  | none => false
  | some u => decide (w &&& ~~~(BitVec.ofNat 64 (u + 0xFF * 2 ^ 56)) = 0)

/-- Whether the instruction produces a status (R339). -/
def hasStatus (w : Word) : Bool :=
  let o := wOpc w
  !(decide (o < 0x22) || o == 0x26 || o == 0x30 || o == 0xD1 || o == 0xF0)

/-- The selectors of R342, read from a register; none where a bit outside the format is set or a number is outside its
range (the instruction then ends with RANGE). -/
def selRange (v : Word) (len lim : Nat) : Option Nat := if v.toNat < 2 ^ len ∧ v.toNat < lim then some v.toNat else none
def selEp (v : Word) : Option Nat := selRange v 10 516
def selLink (v : Word) : Option Nat := selRange v 8 232
def selDom (v : Word) : Option Nat := selRange v 8 256
def selFlow (v : Word) : Option (BitVec 16) := if v.toNat < 0xFFFE then some (v.extractLsb' 0 16) else none
def selShaper (v : Word) : Option (Nat × Nat) :=
  if bf v 48 10 < 516 ∧ bf v 58 6 = 0 ∧ bf v 6 42 = 0 then some (bf v 48 10, bf v 0 6) else none

/-- Whether engine `e` may act on a target in quadrant `q`; `none` is a target in no quadrant (R320, R343). -/
def inScope (e : Nat) (q : Option Nat) : Bool :=
  e == 0 || (match q with
             | some k => e == k + 1
             | none => false)

/-- The quadrant of an endpoint's NIU (R343). -/
def epQuad (ep : Nat) : Option Nat := some (quadOf (epTile ep))

/-- The quadrant of a register address (R343); near-window registers may be read by any engine. -/
def addrQuad (a : Nat) : Option Nat :=
  if a < 0x20000 then none
  else if a < 0x60000 then some (a / 0x10000 - 2)
  else if 0x81000 ≤ a ∧ a < 0x81800 then some ((a - 0x81000) / 0x40 / 8)
  else if 0xC0000 ≤ a ∧ a < 0xC0000 + 132 * 0x40 then domQuad ((a - 0xC0000) / 0x40)
  else if 0x100000 ≤ a ∧ a < 0x180000 then some (quadOf ((a - 0x100000) / 0x1000))
  else if 0x200000 ≤ a ∧ a < 0x400000 then some (quadOf ((a - 0x200000) / 0x4000))
  else if 0x400000 ≤ a ∧ a < 0x408000 then some (quadOf ((a - 0x400000) / 0x100))
  else if 0x410000 ≤ a ∧ a < 0x430000 then some (quadOf ((a - 0x410000) / 0x400))
  else if 0x430000 ≤ a ∧ a < 0x430800 then some ((a - 0x430000) / 0x20 / 8 % 4)
  else if 0x431080 ≤ a ∧ a < 0x431280 then some ((a - 0x431080) / 0x80)
  else if 0x440000 ≤ a ∧ a < 0x440000 + 512 * 0x100 then some (quadOf ((a - 0x440000) / 0x100 / 4))
  else if 0x460000 ≤ a ∧ a < 0x460000 + 32 * 0x100 then some ((a - 0x460000) / 0x100 / 8)
  else none

/-- The gate of R344 before a row's own results: ABSENT, DENIED, BUSY in that order. -/
def Mach.gate (m : Mach) (e : Nat) (absent scope instWide : Bool) : Option Nat :=
  if absent then some xABSENT
  else if !scope then some xDENIED
  else if instWide && (match m.token with
                       | none => false
                       | some k => k != e) then some xBUSY
  else none

end Sys2Proof.Machine
end

