-- ==== Sys2Proof/Machine/Flags.lean ====
section
/-! DEFINITION. The flag computations of the arithmetic instructions (R351) and the JCC conditions (R350). -/

namespace Sys2Proof.Machine

/-- Z and N from a result (R351). -/
def Eng.zn (x : Eng) (r : Word) : Eng := { x with z := decide (r = 0), n := r.msb }

/-- The flags of ADD: Z, N, carry out, signed overflow. -/
def Eng.addFlags (x : Eng) (a b : Word) : Eng :=
  { x.zn (a + b) with c := decide (2 ^ 64 ≤ a.toNat + b.toNat),
                      v := decide (a.msb = b.msb ∧ (a + b).msb ≠ a.msb) }

/-- The flags of SUB and CMP: Z, N, C = 1 when a ≥ b unsigned, signed overflow. -/
def Eng.subFlags (x : Eng) (a b : Word) : Eng :=
  { x.zn (a - b) with c := decide (b.toNat ≤ a.toNat),
                      v := decide (a.msb ≠ b.msb ∧ (a - b).msb ≠ a.msb) }

/-- The flags of SHL: C the last bit shifted out, 0 for a shift of 0. -/
def Eng.shlFlags (x : Eng) (a : Word) (k : Nat) : Eng :=
  { x.zn (a <<< k) with c := if k = 0 then false else a.getLsbD (64 - k) }

/-- The result of SHR: logical, or arithmetic when S = 1. -/
def shrResult (a : Word) (k : Nat) (s : Bool) : Word := if s then a.sshiftRight k else a >>> k

/-- The flags of SHR, as SHL. -/
def Eng.shrFlags (x : Eng) (a : Word) (k : Nat) (s : Bool) : Eng :=
  { x.zn (shrResult a k s) with c := if k = 0 then false else a.getLsbD (k - 1) }

/-- Whether a is below b, unsigned, or signed when S = 1. -/
def below (s : Bool) (a b : Word) : Bool := if s then a.slt b else a.ult b

/-- The JCC conditions (R350). -/
def Eng.cond (x : Eng) : Nat → Bool
  | 0 => x.z
  | 1 => !x.z
  | 2 => x.c
  | 3 => !x.c
  | 4 => x.n
  | 5 => !x.n
  | 6 => x.v
  | 7 => !x.v
  | 8 => x.c && !x.z
  | 9 => !x.c || x.z
  | 10 => x.n == x.v
  | 11 => x.n != x.v
  | 12 => !x.z && x.n == x.v
  | 13 => x.z || x.n != x.v
  | 14 => true
  | _ => false

end Sys2Proof.Machine
end

