-- ==== Sys2Proof/Machine/Engine.lean ====
section
/-! DEFINITION. Instruction fetch and issue (R315, R316, R326, R339), the start of a chip-memory fetch, and the two ways
a status instruction ends at its engine: at once, or after its command has returned (R344, R346). -/

namespace Sys2Proof.Machine

/-- The service NIU an engine uses: its quadrant's, or for the master the lowest-numbered whose service tile is not
fenced (R29); none where that tile is fenced (R31). -/
def Mach.serviceOf (m : Mach) (e : Nat) : Option Nat :=
  let open' := fun q => !(bt m.pwr.fence (serviceTile q))
  if e = 0 then (lowest open' 4).map (fun q => 512 + q)
  else if open' (e - 1) then some (511 + e) else none

/-- What fetch finds for an engine. -/
inductive Fetch where
  | idle
  | word (w : Word)
  | fault (code : Nat)
  | miss (line : Word)
deriving DecidableEq, Repr

/-- Whether a program address is well formed for fetch (R326, R348). -/
def pcOk (pc : Word) : Bool :=
  bf pc 58 5 == 0 && bf pc 0 3 == 0 && (bt pc 63 || bf pc 16 32 == 0)

/-- The instruction at an engine's program counter (R315, R316). -/
def Mach.fetch (m : Mach) (e : Nat) : Fetch :=
  let x := m.eng e
  if x.state ≠ .running then .idle
  else if !pcOk x.pc then .fault xALIGN
  else if !bt x.pc 63 then
    let a := bf x.pc 0 16
    if x.bad.contains a then .fault xECC else .word (Memory.word x.sram a)
  else
    let line := sf x.pc 0 6 0
    match x.lines.find? (fun l => l.1 = line) with
    | some l => .word (l.2.extractLsb' (8 * bf x.pc 0 6) 64)
    | none =>
      if x.fetch.isSome then .idle
      else if (m.serviceOf e).isNone then .fault xFETCH
      else .miss line

/-- Put a request of a service NIU into its tracker and injection space (R28, R317): TC3, UNORDERED, shaper 0, head
fields from the access; the source checks SAFE_STATE and UNSUPPORTED are made here (R28, R59, R486), the others do not apply. A
request that finds no TAG, no space or no power at the service tile waits and is not made. -/
def Mach.serviceReq (m : Mach) (q opc sub dst addr len : Nat) (flow : BitVec 16) (inl : BitVec 128)
    (data : List FlitBits) (own : Owner) : Option Mach :=
  let x := m.niu q
  let posted := decide (opc = opWRP)
  let slot := if posted then lowest (fun k => (Tab.get dNone x.pwb k).isNone) 16
    else lowest (fun k => (Tab.get dNone x.trk k).isNone) 256
  match (if m.domLive (epTile q) then slot else none) with
  | none => none
  | some k =>
    if 48 ≤ x.inj.length then none
    else
      let hd : FlitBits :=
        mkf 512 256 128 inl.toNat ||| mkf 512 152 8 (if posted then 0 else k) ||| mkf 512 80 48 addr |||
        mkf 512 64 16 flow.toNat ||| mkf 512 58 6 opc ||| mkf 512 56 2 3 |||
        mkf 512 50 1 (b1 m.straps.planeB) ||| mkf 512 46 3 data.length ||| mkf 512 37 9 len |||
        mkf 512 27 10 dst ||| mkf 512 11 16 (midOf q sub)
      let hdr : BeatBits := mkf 256 80 48 addr ||| mkf 256 64 16 flow.toNat ||| mkf 256 58 6 opc |||
        mkf 256 52 6 sub ||| mkf 256 22 15 len
      let p : InjP := ⟨x.uidNext, ⟨hd, data, false⟩, 0, 0, k, posted, false, false, false, none, false, none, m.clk.cyc,
        if x.safe then some sSAFE else if 512 ≤ dst then some sUNSUP else none⟩
      some (m.modNiu q (fun x =>
        let x := { x with uidNext := x.uidNext + 1, accNext := x.accNext + 1, inj := x.inj ++ [p] }
        if posted then
          let w : Pwb := ⟨p.uid, 0, false, flow, 0, epTile dst, false, false, x.accNext, own, none, 0, []⟩
          { x with pwb := Tab.set dNone x.pwb k (some w) }
        else
          let r : Trk := ⟨p.uid, hdr, flow, 0, [], epTile dst, false, false, x.accNext, own, false, none, false, false, none, 0, [], false⟩
          { x with trk := Tab.set dNone x.trk k (some r) }))

/-- The fixed flow of an engine (R317) and its sub-identity (R51). -/
def engFlow (e : Nat) : BitVec 16 := if e = 0 then 0xFFFE else 0xFFFF
def engSub (e : Nat) : Nat := if e = 0 then 0 else 1

/-- Start the fetch of a 64 B line (R316): one RD through the service NIU. -/
def Mach.startFetch (m : Mach) (e : Nat) (line : Word) : Mach :=
  match m.serviceOf e with
  | none => m
  | some q =>
    match m.serviceReq q opRD (engSub e) (bf line 48 10) (bf line 0 48) 64 (engFlow e) 0 [] (.fetch e (bf line 0 48)) with
    | none => m
    | some m => m.modEng e (fun x => { x with fetch := some line })

/-- Fetch finds no line in the buffer (R316), which counts as its request is made; a prefetch, and the wait for a line that is on its
way, are no misses (R438, KIND 3 code 0x04; DEDUCED, log entry 141). -/
def Mach.fetchMiss (m : Mach) (e : Nat) (line : Word) : Mach :=
  let n := m.startFetch e line
  if (n.eng e).fetch = some line then n.count (ctrEng e) 4 4 none none 1 0 else n

/-- Halt at a fetch: no instruction was read, so the word recorded for it is a free value (log entry 11). -/
def Mach.haltFetch (m : Mach) (e code : Nat) : Mach :=
  let r := m.nextFree
  (r.2.modEng e (fun x => { x with insn := Config.freeWord r.1 })).haltFault e code

/-- A read of an SRAM word (R313): a correctable one is corrected and counted (log entry 115). -/
def Mach.readSram (m : Mach) (e a : Nat) : Mach := if (m.eng e).soft.contains a then m.addFld (aEng e 0) 32 8 1 else m

/-- A read of `n` SRAM words from `a` on. -/
def Mach.readWords (m : Mach) (e a n : Nat) : Mach := each (List.range n) (fun i m => m.readSram e ((a + 8 * i) % 65536)) m

/-- The read of the word at the program counter, where it is in SRAM (R313). -/
def Mach.readPc (m : Mach) (e : Nat) : Mach := if bt (m.eng e).pc 63 then m else m.readSram e (bf (m.eng e).pc 0 16)

/-- Store a word in SRAM: its check bits are valid from then on (R313, R352). -/
def Eng.store (x : Eng) (a : Nat) (v : Word) : Eng :=
  { x with sram := Memory.setWord x.sram a v, bad := x.bad.filter (fun k => k ≠ a), soft := x.soft.filter (fun k => k ≠ a) }

/-- Issue the next instruction of engine `e` as the row with opcode `opc` for which `sel` holds of the word. A fetch
that faults halts the engine, a miss starts the fetch, an undefined word halts with ILLEGAL (R339). A word of another
row leaves the state as it is: the command then does not describe what the engine issues (log entry 13). -/
def Mach.issue (m : Mach) (e opc : Nat) (sel : Word → Bool) (body : Word → Mach → Mach) : Mach :=
  match m.fetch e with
  | .idle => m
  | .fault c => m.haltFetch e c
  | .miss line => m.fetchMiss e line
  | .word w =>
    if usedBits w = none ∨ (wOpc w = opc ∧ sel w = true) then
      let m := (m.readPc e).modEng e (fun x => { x with insn := w })
      if legalWord w && (hasStatus w || !wT w) then body w m else m.haltFault e xILLEGAL
    else m

/-- Every word of the opcode. -/
def anyWord (_ : Word) : Bool := true

/-- End the command of a fabric instruction: its status and results return to the waiting engine (R346). -/
def Mach.done (m : Mach) (e st : Nat) (wr : List (Nat × Word)) : Mach :=
  m.modEng e (fun x => { x with state := .waiting, wait := .done st wr, limit := none })

/-- Run a status row (R344): the gate first, which ends the instruction at its engine; then the token is taken and the
row acts. -/
def Mach.status (m : Mach) (e : Nat) (absent scope instWide : Bool) (act : Mach → Mach) : Mach :=
  match m.gate e absent scope instWide with
  | some st => m.endStatus e st []
  | none => act (if instWide then { m with token := some e } else m)

/-- A line an engine has asked for will not be taken any more: its request is marked so that its answer matches no
outstanding fetch (R316: the line buffer is invalidated at launch and by FENCE.E). -/
def Mach.dropFetch (m : Mach) (e : Nat) : Mach :=
  let m := m.modEng e (fun x => { x with lines := [], fetch := none })
  let stale : Nat → Option Trk → Option Trk := fun _ o => o.map (fun r =>
    match r.owner with
    | .fetch k _ => if k = e then { r with owner := .fetch e (2 ^ 48) } else r
    | _ => r)
  each [512, 513, 514, 515] (fun n m => m.modNiu n (fun x => { x with trk := Tab.mapv dNone stale x.trk })) m

/-- Prefetch of the next sequential line (R316): with the line at the program counter held, no fetch outstanding and
the next line missing. -/
def Mach.prefetch (m : Mach) (e : Nat) : Mach :=
  let x := m.eng e
  let next := sf x.pc 0 48 (bf x.pc 6 42 * 64 + 64)
  if x.state = .running ∧ pcOk x.pc = true ∧ bt x.pc 63 = true ∧ x.fetch = none ∧ bf x.pc 6 42 + 1 < 2 ^ 42 ∧
      x.lines.any (fun l => l.1 = sf x.pc 0 6 0) = true ∧ x.lines.any (fun l => l.1 = next) = false
  then m.startFetch e next else m

/-- Start the limit of an instruction that has one (R341). -/
def Mach.startLimit (m : Mach) (e units : Nat) : Mach :=
  m.modEng e (fun x => { x with limit := limitCycles m.clk.mode units })

/-- A descriptor word at SADR + 8i in engine SRAM (R340). -/
def Mach.descWord (m : Mach) (e : Nat) (w : Word) (i : Nat) : Word :=
  Memory.word (m.eng e).sram ((wSadr w + 8 * i) % 65536)

/-- Check SADR's alignment (R340), once the gate of R344 is passed: a fault ALIGN otherwise (log entry 24); then the descriptor's `n`
words are read (R313). -/
def Mach.sadr (m : Mach) (e : Nat) (w : Word) (n : Nat) (act : Mach → Mach) : Mach :=
  if wSadr w % 8 ≠ 0 then m.haltFault e xALIGN else act (m.readWords e (wSadr w) n)

end Sys2Proof.Machine
end

