-- ==== Sys2Proof/Machine/Memory.lean ====
section
/-! DEFINITION. The memory instructions that stay at the engine or go to chip memory (R352, R353), and the return of
chip-memory lines (R316). -/

namespace Sys2Proof.Machine

/-- The SRAM address of LDS and STS (R352). -/
def sramAddr (x : Eng) (w : Word) : Nat := ((x.reg (wA w)).toNat + bf w 0 16) % 65536

/-- LDS (R352): ALIGN, then SRAM_ECC, then the load. -/
def execLds (e : EngId) (s : State) : Out :=
  s.on (fun m => m.issue e 0x20 anyWord (fun w m =>
    let x := m.eng e
    let a := sramAddr x w
    if a % 8 ≠ 0 then m.haltFault e xALIGN
    else if x.bad.contains a then m.haltFault e xECC
    else ((m.readSram e a).modEng e (fun x => x.setReg (wD w) (Memory.word x.sram a))).stepPc e))

/-- STS (R352): the stored word carries valid check bits. -/
def execSts (e : EngId) (s : State) : Out :=
  s.on (fun m => m.issue e 0x21 anyWord (fun w m =>
    let x := m.eng e
    let a := sramAddr x w
    if a % 8 ≠ 0 then m.haltFault e xALIGN
    else (m.modEng e (fun x => x.store a (x.reg (wB w)))).stepPc e))

/-- Whether an access of this engine to chip memory is still unanswered (R353). -/
def Mach.accessOut (m : Mach) (e : Nat) : Bool :=
  [512, 513, 514, 515].any (fun n => (m.niu n).trk.any (fun p =>
    match p.2 with
    | some r => decide (r.owner = .ldx e ∨ r.owner = .stx e)
    | none => false))

/-- Store a 64 B line in SRAM from `a` upward. -/
def Eng.setLine (x : Eng) (a : Nat) (f : FlitBits) : Eng :=
  (List.range 8).foldl (fun x i => x.store ((a + 8 * i) % 65536) (f.extractLsb' (64 * i) 64)) x

/-- The 64 B line of SRAM from `a` upward. -/
def Eng.line (x : Eng) (a : Nat) : FlitBits :=
  BitVec.ofNat 512 ((List.range 8).foldl (fun v i => v + (Memory.word x.sram ((a + 8 * i) % 65536)).toNat * 2 ^ (64 * i)) 0)

/-- Whether an engine's store writes an entry of the flow table while mirroring runs, so that it has a record to send (R408). -/
def Mach.entryStore (m : Mach) (dst a : Nat) : Bool :=
  let t := m.reg 0x48
  m.mirrors && bt t 0 && decide (dst = bf t 48 10 ∧ a / 2 ^ 22 = bf t 22 26)

/-- An engine writes a flow table entry in chip memory while mirroring runs: FSTATE (R408). Words of the entry that the store
does not carry are free values (log entry 17). -/
def Mach.entryWritten (m : Mach) (dst a : Nat) (line : Bool) (data : FlitBits) : Mach :=
  if !m.entryStore dst a then m
  else
    let k := a % 64 / 8
    let r := m.nextFree
    let q := r.2.nextFree
    let w0 : Word := if line ∨ k = 0 then data.extractLsb' 0 64 else Config.freeWord r.1
    let w1 : Word := if line then data.extractLsb' 64 64 else if k = 1 then data.extractLsb' 0 64 else Config.freeWord q.1
    q.2.mirrorRec 6 (bf w0 1 10) (BitVec.ofNat 16 (a / 64)) (w1.extractLsb' 0 16) (bf w0 51 2 * 2 ^ 80 + bf w0 43 8 * 2 ^ 72)

/-- LDX and STX (R352, R353): the faults ALIGN, then RANGE and STATE, then one request of the service NIU. While an
earlier access of the engine is unanswered, or the NIU has no room, for the request or for the record of an entry that it writes
(R409), the instruction is not issued. -/
def Mach.chipAccess (m : Mach) (e : Nat) (w : Word) (store : Bool) : Mach :=
  let x := m.eng e
  let a := x.reg (wA w)
  let line := bf w 40 3 = 1
  let size := if line then 64 else 8
  if bf a 0 48 % size ≠ 0 ∨ (line ∧ wSadr w % 8 ≠ 0) then m.haltFault e xALIGN
  else m.status e false true false (fun m =>
    if bt a 63 = false ∨ 515 < bf a 48 10 ∨ bf a 58 5 ≠ 0 then m.endStatus e xRANGE []
    else match m.serviceOf e with
      | none => m.endStatus e xSTATE []
      | some q =>
        let inl : BitVec 128 := if store ∧ ¬line then BitVec.ofNat 128 (x.reg (wB w)).toNat else 0
        let data := if store ∧ line then [x.line (wSadr w)] else []
        let own := if store then Owner.stx e else Owner.ldx e
        if m.accessOut e || (store && m.entryStore (bf a 48 10) (bf a 0 48) && !m.recRoom) then m
        else match m.serviceReq q (if store then opWRA else opRD) (engSub e) (bf a 48 10) (bf a 0 48) size (engFlow e) inl data own with
          | none => m
          | some m =>
            let m := if store then m.entryWritten (bf a 48 10) (bf a 0 48) (decide line) (if line then x.line (wSadr w) else BitVec.ofNat 512 (x.reg (wB w)).toNat) else m
            (m.readWords e (wSadr w) (if store ∧ line then 8 else 0)).setWait e .access)

/-- LDX (R352). -/
def execLdx (e : EngId) (s : State) : Out :=
  s.on (fun m => m.issue e 0x22 anyWord (fun w m => m.chipAccess e w false))

/-- STX (R352). -/
def execStx (e : EngId) (s : State) : Out :=
  s.on (fun m => m.issue e 0x23 anyWord (fun w m => m.chipAccess e w true))

/-- The answer to an engine's LDX or STX (R352, R323): other than OK ends with DENIED and XSTAT; LDX of 8 B writes
g[D], of 64 B the SRAM words at SADR. An engine that was stopped meanwhile takes no answer. -/
def Mach.accessAnswer (m : Mach) (e : Nat) (p : Pkt) : Mach :=
  let x := m.eng e
  if x.state ≠ .waiting ∨ x.wait ≠ .access then m
  else
    let st := hStatus p.hd
    let w := x.insn
    if st ≠ sOK then ((m.setFld (aEng e 0) 28 4 st).endStatus e xDENIED [])
    else if wOpc w = 0x23 then m.endStatus e xOK []
    else if bf w 40 3 = 0 then m.endStatus e xOK [(wD w, (hInline p.hd).extractLsb' 0 64)]
    else (m.modEng e (fun x => x.setLine (wSadr w) (p.data.headD 0))).endStatus e xOK []

/-- A line of a route image has come, or its read has failed (R355): with the last answer the image is there. -/
def Mach.imageLine (m : Mach) (ser idx st : Nat) (d : FlitBits) : Mach :=
  if !m.img.on || m.img.ser != ser then m
  else
    let g := m.img
    { m with img := { g with out := g.out - 1, got := if st = sOK then Tab.set (fun _ => 0) g.got idx d else g.got,
                             code := if st = sOK ∨ g.code.isSome = true then g.code else some st } }

/-- FENCE.E (R352, R316). -/
def execFenceE (e : EngId) (s : State) : Out :=
  s.on (fun m => m.issue e 0x26 anyWord (fun _ m => (m.dropFetch e).stepPc e))

/-- A fetched line arrives: it takes the place of the oldest of four (log entry 14), and the next line is prefetched; a
status other than OK halts the engine with FETCH when it is the line the engine needs, and a prefetch that failed is
dropped (R316; log entry 14). -/
def Mach.lineAnswer (m : Mach) (e : Nat) (line : Word) (p : Pkt) : Mach :=
  let m := m.modEng e (fun x => { x with fetch := none })
  let x := m.eng e
  if hStatus p.hd = sOK then
    (m.modEng e (fun x => { x with lines := (x.lines ++ [(line, p.data.headD 0)]).drop (x.lines.length + 1 - 4) })).prefetch e
  else if x.state = .running ∧ bt x.pc 63 = true ∧ sf x.pc 0 6 0 = line then m.haltFetch e xFETCH
  else m

/-- The number of cells a network consumer takes: the oldest complete packet of an ejection VC. -/
def Niu.ejected (x : Niu) (vc : Nat) : Option Pkt :=
  let f := x.ejFlits vc
  match f.getLast? with
  | none => none
  | some l => if l.last then Pkt.ofFlits f else none

end Sys2Proof.Machine
end

