-- ==== Sys2Proof/Machine/Time.lean ====
section
/-! DEFINITION. The instructions of time and events, the results and interrupts, and how a waiting instruction ends
(R330, R341, R346, R354, R364). -/

namespace Sys2Proof.Machine

/-- FTGET (R354, R267). -/
def execFtget (e : EngId) (s : State) : Out :=
  s.on (fun m => m.issue e 0x30 anyWord (fun w m =>
    (m.modEng e (fun x => x.setReg (wD w) (BitVec.ofNat 64 m.ftNs))).stepPc e))

/-- WAITFT (R354): LATE when the copy has reached the operand at issue; otherwise the engine waits. -/
def execWaitft (e : EngId) (s : State) : Out :=
  s.on (fun m => m.issue e 0x31 anyWord (fun w m =>
    m.status e false true false (fun m =>
      let t := ((m.eng e).reg (wA w)).toNat
      if t ≤ m.ftNs then m.endStatus e xLATE [] else m.setWait e (.time t))))

/-- WAITFT_COMPLETE (R267): the copy has reached the operand of a waiting WAITFT. -/
def execWaitftComplete (e : EngId) (s : State) : Out :=
  s.on (fun m =>
    let x := m.eng e
    match x.wait with
    | .time t => if x.state = .waiting ∧ t ≤ m.ftNs then m.endStatus e xOK [] else m
    | _ => m)

/-- The oldest queued record whose class is in the mask, with its position (R330). -/
def Eng.findEvt (x : Eng) (mask : BitVec 16) : Option (Nat × Word) := firstIdx (fun r => bt mask (bf r 60 4)) x.evq

/-- Remove the record and end WAITEV with it (R330). -/
def Mach.takeEvt (m : Mach) (e d i : Nat) (r : Word) : Mach :=
  (m.modEng e (fun x => { x with evq := dropAt x.evq i })).endStatus e xOK [(d, r)]

/-- WAITEV (R354, R330). -/
def execWaitev (e : EngId) (s : State) : Out :=
  s.on (fun m => m.issue e 0x32 anyWord (fun w m =>
    m.status e false true false (fun m =>
      let mask : BitVec 16 := w.extractLsb' 24 16
      if mask = 0 ∨ bf w 37 3 ≠ 0 then m.endStatus e xRANGE []
      else match (m.eng e).findEvt mask with
        | some (i, r) => m.takeEvt e (wD w) i r
        | none => (m.setWait e (.event (wD w) mask)).startLimit e (wLimit w))))

/-- WAITEV_RECORD (R330): a record of the masks has arrived for a waiting WAITEV. -/
def execWaitevRecord (e : EngId) (s : State) : Out :=
  s.on (fun m =>
    let x := m.eng e
    match x.wait with
    | .event d mask =>
      if x.state ≠ .waiting then m
      else match x.findEvt mask with
        | some (i, r) => m.takeEvt e d i r
        | none => m
    | _ => m)

/-- Take back what an instruction that ends early has asked for: a GD.SYNC (R306), the reads of an image (log entry 55). -/
def Mach.withdraw (m : Mach) (e : Nat) : Mach :=
  match (m.eng e).wait with
  | .image => { m with img := { m.img with on := false, todo := [], got := [] } }
  | .sync ep => m.modNiu ep (fun x => if x.gSync = some e then { x with gSync := none } else x)
  | _ => m

/-- The words POST writes (R333, R364): words from NW onward are zero. -/
def postSlot (x : Eng) (w : Word) : BitVec 256 :=
  let nw := bf w 4 4
  let st := if bt w 42 then bf w 8 4 else x.st
  let d0 := if 1 ≤ nw then (x.reg (wD w)).toNat else 0
  let d1 := if 2 ≤ nw then (x.reg (wA w)).toNat else 0
  let d2 := if 3 ≤ nw then (x.reg (wB w)).toNat else 0
  BitVec.ofNat 256 (2 ^ 63 + st * 2 ^ 20 + x.post.toNat + d0 * 2 ^ 64 + d1 * 2 ^ 128 + d2 * 2 ^ 192)

/-- POST (R333, R364). -/
def execPost (e : EngId) (s : State) : Out :=
  s.on (fun m => m.issue e 0xD0 anyWord (fun w m =>
    m.status e false true false (fun m =>
      let k := bf w 0 4
      if k = 15 ∨ 3 < bf w 4 4 then m.endStatus e xRANGE []
      else if (m.slot e k).isSome then m.endStatus e xBUSY []
      else ((m.setSlot e k (some (postSlot (m.eng e) w))).modEng e (fun x => { x with post := x.post + 1 })).endStatus e xOK [])))

/-- IRQ (R331, R364). -/
def execIrq (e : EngId) (s : State) : Out :=
  s.on (fun m => m.issue e 0xD1 anyWord (fun w m => (m.orReg (aEng e 0x58) (2 ^ bf w 0 4)).stepPc e))

/-- CAP (R3, R364). -/
def execCap (e : EngId) (s : State) : Out :=
  s.on (fun m => m.issue e 0xF0 anyWord (fun w m => (m.modEng e (fun x => x.setReg (wD w) m.capUnits)).stepPc e))

end Sys2Proof.Machine
end

