-- ==== Sys2Proof/Machine/Access.lean ====
section
/-! DEFINITION. The register port (R466 to R470): acceptance, the answers it makes itself, near and far accesses; and
the engine rows that are host writes of their own (R326, R327, R329, R335, R336). -/

namespace Sys2Proof.Machine

/-- Present a response at the register port: status 0 OK, 1 DENIED, 2 ERROR, and read data (R466, R468). -/
def Mach.answer (m : Mach) (st : Nat) (v : Word) : Mach := m.modRp (fun r => { r with rsp := some (st, v), rspFar := false })

/-- The response to a far access is presented (R467, R468). -/
def Mach.answerFar (m : Mach) (st : Nat) (v : Word) : Mach := (m.answer st v).modRp (fun r => { r with rspFar := true })

/-- Record a denied access, when no record stands (R469, R475). -/
def Mach.recordDeny (m : Mach) (a : Nat) (write : Bool) (mid : BitVec 16) : Mach :=
  if bt (m.reg 0x28) 63 then m
  else m.setReg 0x28 (mkf 64 63 1 1 ||| mkf 64 62 1 (b1 write) ||| mkf 64 32 16 mid.toNat ||| mkf 64 0 24 a)

/-- Whether a far address is answered from the AON clock (R422). -/
def farAon (a : Nat) : Bool := decide (0xC0000 ≤ a ∧ a < 0xF0000)

/-- Whether the clock that a far access needs is stopped (R428). -/
def Mach.farStopped (m : Mach) (a : Nat) : Bool := if farAon a then m.clk.astop else m.clk.fstop

/-- Whether a register address belongs to the always-on domain's switched logic: near window, master engine and its
counters, fault unit, twin unit, mirror ring (R27, R431, R450). -/
def aonAddr (a : Nat) : Bool :=
  decide (a < 0x20000) || decide (0xD0000 ≤ a ∧ a < 0xF0000) || decide (0x431000 ≤ a ∧ a < 0x431080) ||
    decide (0x480000 ≤ a ∧ a < 0x480028)

/-- Whether a far register of the always-on domain does not answer, since the domain's initialization has not ended (R375, R430). -/
def Mach.aonDead (m : Mach) (a : Nat) : Bool := farAddr a && aonAddr a && !m.domLive 132

/-- The response to an access at an address (R468): a near access is answered in its own cycle, a far one at the far port. -/
def Mach.answerTo (m : Mach) (a st : Nat) (v : Word) : Mach := if farAddr a then m.answerFar st v else m.answer st v

/-- An access carried out whole, with its response: a register of the always-on domain that does not answer reads as zero and ignores
writes (R430); a write is answered with zero data (R466). -/
def State.carry (s : State) (a : Nat) (w : Option Word) (act : State → Word × Mach) : Mach :=
  if s.m.aonDead a then s.m.answerTo a 0 0
  else
    let r := act s
    r.2.answerTo a 0 (if w.isSome then 0 else r.1)

/-- One access offered at the register port (R466 to R469): not accepted before the always-on reset releases or, for a far
access, while another is outstanding; ERROR for a misaligned address; DENIED without the privileged attribute where
the register asks for it (`pr`); a near access answered at once; a far one carried out whole, or left outstanding where
its crossing waits on a stopped clock (R428). A far register of the always-on domain answers once that is initialized (R430). While a far
response is presented the requester holds its access to the next cycle (R467), and the response is presented no more. -/
def State.hostAccess (s : State) (a : Nat) (w : Option Word) (pr priv : Bool) (mid : BitVec 16)
    (act : State → Word × Mach) : Mach :=
  let m := s.m
  if !m.pwr.aonUp || (farAddr a && m.rp.far.isSome) then m
  else if a % 8 ≠ 0 then m.answer 2 0
  else if pr && !priv then (m.recordDeny a w.isSome mid).answer 1 0
  else if farAddr a && m.farStopped a then m.modRp (fun r => { r with far := some ⟨a, w, priv, mid⟩, rsp := none, rspFar := false })
  else s.carry a w act

/-- A host write that acts on the machine alone. -/
def State.hostWrite (s : State) (a : Nat) (v : Word) (pr priv : Bool) (mid : BitVec 16) (act : Mach → Mach) : Out :=
  s.onAll (fun s => s.hostAccess a (some v) pr priv mid (fun s => (0, act s.m)))

/-- Whether an engine's own registers answer (R325, R430). -/
def Mach.engLive (m : Mach) (e : Nat) : Bool :=
  decide ((m.eng e).state ≠ .off) && m.domLive (if e = 0 then 132 else 127 + e)

/-- A write to ENG_LAUNCH (R326, R328): accepted in IDLE, HALTED and FAULT outside the safe state; otherwise
LAUNCH_REJ; ignored in OFF. -/
def Mach.launch (m : Mach) (e : Nat) (v : Word) : Mach :=
  if !m.engLive e then m
  else match (m.eng e).state with
    | .running => m.orReg (aEng e 0) (2 ^ 8)
    | .waiting => m.orReg (aEng e 0) (2 ^ 8)
    | .off => m
    | _ =>
      if m.safe then m.orReg (aEng e 0) (2 ^ 8)
      else
        let a0 := m.reg (aEng e 0x18)
        let a1 := m.reg (aEng e 0x20)
        let m := (m.dropFetch e).modEng e (fun x =>
          ({ x with g := [], z := false, n := false, c := false, v := false, pc := v, st := 0, state := .running,
                    wait := .none, limit := none }).setRegs [(0, a0), (1, a1)])
        m.setFld (aEng e 0x30) 0 4 0

/-- The instruction at the program counter where it can be read without an access, else a free word: what a halt at a
boundary records (log entry 11). -/
def Mach.atBoundary (m : Mach) (e : Nat) : Mach :=
  match m.fetch e with
  | .word w => m.modEng e (fun x => { x with insn := w })
  | _ => let r := m.nextFree
    r.2.modEng e (fun x => { x with insn := Config.freeWord r.1 })

/-- Halt a RUNNING or WAITING engine from outside with a fault code (R327, R328): an instruction that waits ends as
though its limit had passed, ST receives TIMEOUT, and a try form moves on to the next boundary. -/
def Mach.stopEngine (m : Mach) (e code : Nat) : Mach :=
  match (m.eng e).state with
  | .running => (m.atBoundary e).haltFault e code
  | .waiting =>
    let m := (m.withdraw e).modEng e (fun x => { x with st := xTIMEOUT, state := .running, wait := .none, limit := none })
    if wT (m.eng e).insn then
      ((((m.modEng e (fun x => { x with v := true })).count (ctrEng e) 4 5 none none 1 0).stepPc e).atBoundary e).haltFault e code
    else m.haltFault e code
  | _ => m

/-- A write to ENG_STOP (R327, R336). An engine that waits for the AON clock with no limit stops once that clock runs (R429). -/
def Mach.engStop (m : Mach) (e : Nat) (v : Word) : Mach :=
  if !(bt v 0 && m.engLive e) then m
  else if (m.eng e).state = .waiting ∧ (m.eng e).wait = .aon ∧ (m.eng e).limit = none then
    m.modEng e (fun x => { x with stopReq := true })
  else m.stopEngine e xSTOPPED

/-- A write to ENG_EVT_IN (R329, R336): a HOST event with its source field; ignored in OFF (R325). -/
def Mach.evtIn (m : Mach) (e : Nat) (v : Word) : Mach := if m.engLive e then m.postEvt e 12 0 0 (bf v 0 16) else m

/-- An access to ENG_SRAM_DATA (R336): the addressed word, then WORD advances by one, modulo 8,192. -/
def Mach.sramAccess (m : Mach) (e : Nat) (w : Option Word) : Word × Mach :=
  if !m.engLive e then (0, m)
  else
    let a := 8 * m.fld (aEng e 0x40) 3 13
    let m1 := m.setFld (aEng e 0x40) 3 13 (a / 8 + 1)
    match w with
    | none => (Memory.word (m.eng e).sram a, m1.readSram e a)
    | some v => (0, m1.modEng e (fun x => x.store a v))

/-- A write to MBX_ACK (R335, R337): the slot named is cleared when it is VALID with that tag; otherwise ACK_MISS is
set, a 1 written to it in the same access notwithstanding. -/
def Mach.mbxAck (m : Mach) (v : Word) : Mach :=
  let e := bf v 20 3
  let k := bf v 16 4
  let m := if bt v 23 then m.setFld 0x1A00 23 1 0 else m
  match (if e < 5 then m.slot e k else none) with
  | some h => if bf h 0 16 = bf v 0 16 then m.setSlot e k none else m.setFld 0x1A00 23 1 1
  | none => m.setFld 0x1A00 23 1 1

/-- ENG_LAUNCH (R326). -/
def execEngLaunch (e : EngId) (v : Word) (priv : Bool) (mid : BitVec 16) (s : State) : Out :=
  s.hostWrite (aEng e 0x10) v true priv mid (fun m => m.launch e v)

/-- ENG_STOP (R327). -/
def execEngStop (e : EngId) (v : Word) (priv : Bool) (mid : BitVec 16) (s : State) : Out :=
  s.hostWrite (aEng e 0x28) v true priv mid (fun m => m.engStop e v)

/-- ENG_EVT_IN (R329). -/
def execEngEvtIn (e : EngId) (v : Word) (priv : Bool) (mid : BitVec 16) (s : State) : Out :=
  s.hostWrite (aEng e 0x50) v true priv mid (fun m => m.evtIn e v)

/-- ENG_SRAM_ACCESS (R336). -/
def execEngSramAccess (e : EngId) (write : Option Word) (priv : Bool) (mid : BitVec 16) (s : State) : Out :=
  s.onAll (fun s => s.hostAccess (aEng e 0x48) write true priv mid (fun s => s.m.sramAccess e write))

/-- MBX_ACK (R335). -/
def execMbxAck (v : Word) (priv : Bool) (mid : BitVec 16) (s : State) : Out :=
  s.hostWrite 0x1A00 v true priv mid (fun m => m.mbxAck v)

end Sys2Proof.Machine
end

