-- ==== Sys2Proof/Machine/Flow.lean ====
section
/-! DEFINITION. Flow entries, the flow cache, source checks, the forming of packets, and answers at the source NIU
(R93 to R103, R232 to R240, R59, R486, R487). -/

namespace Sys2Proof.Machine

/-- Fields of a flow entry (R233). -/
def eV (f : FlitBits) : Bool := bt f 0
def eSrc (f : FlitBits) : Nat := bf f 1 10
def eDst (f : FlitBits) : Nat := bf f 11 10
def ePlane (f : FlitBits) : Bool := bt f 21
def eTc (f : FlitBits) : Nat := bf f 22 2
def eDmode (f : FlitBits) : Nat := bf f 24 2
def eRlvl (f : FlitBits) : Nat := bf f 26 2
def eDev (f : FlitBits) : Bool := bt f 28
def eShp (f : FlitBits) : Nat := bf f 30 6
def eCred (f : FlitBits) : Nat := bf f 36 7
def eDInc (f : FlitBits) : Nat := bf f 43 8
def eState (f : FlitBits) : Nat := bf f 51 2
def eTxSeq (f : FlitBits) : BitVec 16 := f.extractLsb' 64 16
def eRetx (f : FlitBits) : Nat := bf f 80 16
def eReplay (f : FlitBits) : Nat := bf f 128 36
def eRxState (f : FlitBits) : Bool := bt f 256
def eSInc (f : FlitBits) : BitVec 8 := f.extractLsb' 257 8
def ePInc (f : FlitBits) : BitVec 8 := f.extractLsb' 265 8
def eTop (f : FlitBits) : BitVec 16 := f.extractLsb' 273 16
def eNext (f : FlitBits) : BitVec 16 := f.extractLsb' 304 16
def eMap (f : FlitBits) : BitVec 64 := f.extractLsb' 320 64
def eErr (f : FlitBits) : BitVec 64 := f.extractLsb' 384 64

/-- Fields of FLOW_TBL (R232). -/
def Mach.tblEn (m : Mach) : Bool := bt (m.reg 0x48) 0
def Mach.tblBase (m : Mach) : Nat := m.fld 0x48 22 26 * 2 ^ 22
def Mach.tblEp (m : Mach) : Nat := m.fld 0x48 48 10

/-- The NIU's tile, its service NIU and its quadrant engine (R238, R329). -/
def niuService (n : Nat) : Nat := 512 + quadOf (epTile n)
def niuQe (n : Nat) : Nat := qeOf (quadOf (epTile n))

/-- Shaper `k` of an NIU. -/
def dShp (n : Nat) (k : Nat) : Shaper := Shaper.init n k
def Niu.shaper (x : Niu) (n k : Nat) : Shaper := Tab.get (dShp n) x.shp k
def Niu.modShp (x : Niu) (n k : Nat) (f : Shaper → Shaper) : Niu := { x with shp := Tab.upd (dShp n) x.shp k f }

/-- Count at an external NIU's telemetry counters (R435). -/
def Mach.countNiu (m : Mach) (n code : Nat) (sel tc : Option Nat) (k : Nat) (hd : FlitBits) : Mach :=
  if n < 512 then m.count (ctrNiu n) 8 code sel tc k hd else m

/-- The cached entry of a flow. -/
def Niu.entry (x : Niu) (f : BitVec 16) : Option FcE := x.fc.find? (fun e => e.flow = f)

/-- Change the cached entry of a flow. -/
def Niu.modEntry (x : Niu) (f : BitVec 16) (g : FcE → FcE) : Niu :=
  { x with fc := x.fc.map (fun e => if e.flow = f then g e else e) }

/-- Set fields of the send half, or of the receive half, of a cached entry: the half becomes dirty (R237). -/
def Niu.setSend (x : Niu) (f : BitVec 16) (g : FlitBits → FlitBits) : Niu :=
  x.modEntry f (fun e => { e with ent := g e.ent, dirtyS := true })
def Niu.setRecv (x : Niu) (f : BitVec 16) (g : FlitBits → FlitBits) : Niu :=
  x.modEntry f (fun e => { e with ent := g e.ent, dirtyR := true })

/-- The entry becomes the most recently used. -/
def Niu.touch (x : Niu) (f : BitVec 16) : Niu :=
  { x with fc := x.fc.filter (fun e => e.flow ≠ f) ++ x.fc.filter (fun e => e.flow = f) }

/-- Whether a message in progress or a packet of the injection space uses a flow's entry, a copy being read among them (R119).
Requests that wait for another entry of the flow do not (R240, R487). -/
def Niu.inUse (x : Niu) (f : BitVec 16) : Bool :=
  x.reqs.any (fun r => !r.inMiss && qFlow r.hdr == f) || x.inj.any (fun p => hFlow p.pkt.hd = f) || x.rsv.any (fun r => r.1 = f)

/-- Whether a flow's entry is locked (R237): the miss queue, a message in progress or the injection space holds one of
its requests or packets. -/
def Niu.locked (x : Niu) (f : BitVec 16) : Bool := x.inUse f || x.reqs.any (fun r => qFlow r.hdr == f)

/-- Whether an entry is to be pinned again at once after a drop. -/
def Niu.isPinned (x : Niu) (f : BitVec 16) : Bool := x.pins.contains f

/-- R234: the answer of a rejected entry, none where the entry is accepted. -/
def Mach.validate (m : Mach) (n : Nat) (e : FlitBits) : Option Nat :=
  let sh := (m.niu n).shaper n (eShp e)
  if eV e = false ∨ eSrc e ≠ n ∨ ePlane e ≠ m.straps.planeB ∨ eState e = 3 ∨ eDmode e = 3 ∨ 516 ≤ eDst e ∨
      (eDev e = true ∧ eDmode e ≠ 1) ∨ 64 < eCred e ∨ (eCred e = 0 ∧ eDmode e ≠ 0) ∨
      (eRlvl e ≠ 0 ∧ eTc e ≠ 1) ∨ sh.tc ≠ eTc e ∨ (eTc e = 1 ∧ sh.mode ≠ 2) then some sFLOW
  else if 512 ≤ eDst e ∨ (eDmode e = 2 ∧ m.hasEo = false) then some sUNSUP
  else none

/-- Whether an NIU needs a flow's entry only as a receive half: no request waits for it and it is not pinned (R237, R255). -/
def Niu.recvOnly (x : Niu) (f : BitVec 16) : Bool :=
  !x.isPinned f && !x.reqs.any (fun r => r.inMiss && qFlow r.hdr == f)

/-- The default entry of R235. -/
def Mach.defaultEntry (m : Mach) (n : Nat) (f : BitVec 16) : FcE :=
  let ent : FlitBits :=
    if bf f 10 6 ≠ 0 then 0
    else mkf 512 0 1 1 ||| mkf 512 1 10 n ||| mkf 512 11 10 (bf f 0 10) ||| mkf 512 21 1 (b1 m.straps.planeB)
  { flow := f, ent := ent, neg := m.validate n ent, recv := (m.niu n).recvOnly f, dflt := true, pinned := (m.niu n).isPinned f, dirtyS := false, dirtyR := false, drop := false, wb := false, now := false }

/-- The address of a flow's entry in the table (R232). -/
def Mach.entryAddr (m : Mach) (f : BitVec 16) : Nat := m.tblBase + 64 * f.toNat

/-- FLOW_TBL as it serves entries read from the table: while EN = 0, as it was when EN became 0 (R487). -/
def Mach.tblRead (m : Mach) : Word := if m.tblEn then m.reg 0x48 else m.tblOld

/-- Write back the dirty halves of an entry through the service NIU (R237, R238): each a posted write of 32 B. None
where the service NIU has no room. -/
def Mach.writeBack (m : Mach) (n : Nat) (e : FcE) : Option Mach :=
  let half (m : Mach) (lo : Nat) : Option Mach :=
    (m.serviceReq (niuService n) opWRP 1 (bf m.tblRead 48 10) (bf m.tblRead 22 26 * 2 ^ 22 + 64 * e.flow.toNat + lo / 8) 32 0xFFFF 0
      [BitVec.ofNat 512 (bf e.ent lo 256)] (.writeBack n e.flow)).map (fun m => m.addFld (aSch n 0x08) 0 16 1)
  if e.dflt then some m
  else match (if e.dirtyS then half m 0 else some m) with
    | none => none
    | some m => if e.dirtyR then half m 256 else some m

/-- Take a cache place for a new entry (R237, R238): none where every place is taken by a locked or pinned entry, or the
write-back of the entry to be replaced finds no room. -/
def Mach.makeRoom (m : Mach) (n : Nat) : Option Mach :=
  let x := m.niu n
  if x.fc.length + x.fills.length < 32 then some m
  else match x.fc.find? (fun e => !e.pinned && !x.locked e.flow) with
    | none => none
    | some e => (m.writeBack n e).map (fun m => m.modNiu n (fun x => { x with fc := x.fc.filter (fun g => g.flow ≠ e.flow) }))

/-- Whether a write-back of a flow's entry from this NIU has not retired (R240). -/
def Mach.wbOut (m : Mach) (n : Nat) (f : BitVec 16) : Bool :=
  (m.niu (niuService n)).pwb.any (fun p =>
    match p.2 with
    | some w => decide (w.owner = .writeBack n f)
    | none => false)

/-- Mark a sequence number in RX_MAP, and in RX_ERR where its answer is not OK (R127). -/
def Niu.rxMark (x : Niu) (f seq : BitVec 16) (err : Bool) : Niu :=
  match x.entry f with
  | none => x
  | some e =>
    let b := seqDist (eTop e.ent) seq
    if 63 < b then x
    else x.setRecv f (fun g => let g := sf g (320 + b) 1 1
      if err then sf g (384 + b) 1 1 else g)

/-- Make the marks of a flow that have waited for its entry; what they stand for is pending no more (R126, R127). -/
def Niu.makeMarks (x : Niu) (f : BitVec 16) : Niu :=
  let mine := x.marks.filter (fun k => k.1 = f)
  { (mine.foldl (fun x k => x.rxMark f k.2.1 k.2.2) x) with
    marks := x.marks.filter (fun k => k.1 ≠ f),
    eoPend := x.eoPend.filter (fun q => !(mine.any (fun k => decide (k.1 = q.1 ∧ k.2.1 = q.2)))) }

/-- An entry comes into the cache: the marks that wait for it are made, and a FL.PIN that waits for it ends (R127, R239). -/
def Mach.newEntry (m : Mach) (n : Nat) (e : FcE) : Mach :=
  (m.modNiu n (fun x => { x with fc := x.fc ++ [e] }.makeMarks e.flow)).finish (.pin n e.flow) xOK

/-- A request or a pin asks for the entry of a flow that is not cached: a default entry is formed at once (R235), or a
fill is started (R238). With every place locked or pinned the request waits and FC_WAIT is set (R237). A flow whose write-back
has not retired is not filled. -/
def Mach.wantEntry (m : Mach) (n : Nat) (f : BitVec 16) : Mach :=
  let x := m.niu n
  let wait (m : Mach) : Mach := if x.fc.any (fun e => !e.pinned && !x.locked e.flow) then m else m.orReg (aSch n 0x20) 2
  if (x.entry f).isSome || x.fills.contains f || m.wbOut n f then m
  else if !m.tblEn then
    match m.makeRoom n with
    | none => wait m
    | some m => m.newEntry n (m.defaultEntry n f)
  else
    match m.makeRoom n with
    | none => wait m
    | some m' =>
      match m'.serviceReq (niuService n) opRD 1 m.tblEp (m.entryAddr f) 64 0xFFFF 0 [] (.fill n f) with
      | none => m
      | some m' =>
        ((m'.modNiu n (fun x => { x with fills := x.fills ++ [f] })).addFld (aSch n 0x08) 16 16 1).countNiu n 4 none none 1 0

/-- The usable entry of a flow for a new request: cached, not to be dropped, the flow not held (R240, R487). -/
def Mach.usable (m : Mach) (n : Nat) (f : BitVec 16) : Option FcE :=
  match (m.niu n).entry f with
  | none => none
  | some e => if e.drop || m.held.contains f then none else some e

/-- Packets of a message of L bytes, and the bytes of packet k (R43). -/
def msgCount (l : Nat) : Nat := cdiv l 256
def msgLen (l k : Nat) : Nat := if k + 1 < msgCount l then 256 else l - 256 * k

/-- The lane width of a combine lane type in bytes (R45). -/
def laneBytes (c : Nat) : Nat := if c ≤ 2 then 8 else if c = 3 then 4 else 2

/-- Whether a request is outside what R48, R42, R45 and R7 support. -/
def Mach.unsupported (m : Mach) (h : BeatBits) : Bool :=
  !opReq (qOpc h) || (qOpc h == opATM && decide (10 ≤ qSubop h)) ||
  (qOpc h == opRED && (decide (6 ≤ qSubop h ∨ 5 ≤ qCtype h) || !m.hasCombine))

/-- Whether a request breaks R40, R43, R44 or R45. -/
def misaligned (h : BeatBits) : Bool :=
  let l := qSize h
  if qOpc h = opATM then !(decide ((l = 4 ∨ l = 8) ∧ qAddr h % l = 0))
  else if qOpc h = opMSG then
    decide (l = 0 ∨ 16384 < l) || (qMq h == 63 && decide (qAddr h % 256 ≠ 0))
  else decide (l = 0 ∨ 256 < l ∨ 256 < qAddr h % 256 + l) ||
    (qOpc h == opRED && decide (l % laneBytes (qCtype h) ≠ 0))

/-- The source checks of step 2 of R94, in the order of R59, then the flow's STATE: the code of the answer. -/
def Mach.sourceCheck (m : Mach) (n : Nat) (h : BeatBits) (e : FcE) : Option Nat :=
  let neg := e.neg.getD 99
  if (m.niu n).safe then some sSAFE
  else if neg = sFLOW ∨ m.carries (qFlow h) = false then some sFLOW
  else if neg = sUNSUP ∨ m.unsupported h = true then some sUNSUP
  else if misaligned h then some sMIS
  else if eState e.ent = 1 then some sTIMEOUT
  else if eState e.ent = 2 then some sSTALE
  else none

/-- The header beat of a response (R72): a status with no data, or data. -/
def rspHeader (h : BeatBits) (opc st size : Nat) (inl : BitVec 128) : BeatBits :=
  mkf 256 128 128 inl.toNat ||| mkf 256 80 48 (qAddr h) ||| mkf 256 64 16 (qFlow h).toNat ||| mkf 256 58 6 opc |||
  mkf 256 52 6 (qSubid h) ||| mkf 256 48 4 st ||| mkf 256 37 8 (qGroup h) ||| mkf 256 22 15 size |||
  mkf 256 16 6 (qMq h) ||| mkf 256 8 8 (qEtag h)

/-- The port is out of port reset (R79): ep_rst_n is 1, and the sampled ratio is not 0b11 (R64). -/
def Niu.runs (x : Niu) : Bool := x.rstN && x.ratio != 3

/-- Change one tracker entry, or one posted write buffer entry. -/
def Niu.modTrk (x : Niu) (k : Nat) (f : Trk → Trk) : Niu := { x with trk := Tab.upd dNone x.trk k (fun o => o.map f) }
def Niu.modPwb (x : Niu) (k : Nat) (f : Pwb → Pwb) : Niu := { x with pwb := Tab.upd dNone x.pwb k (fun o => o.map f) }
def Niu.freeTrk (x : Niu) (k : Nat) : Niu := { x with trk := Tab.set dNone x.trk k none }
def Niu.freePwb (x : Niu) (k : Nat) : Niu := { x with pwb := Tab.set dNone x.pwb k none }

/-- The response code of a request: for a code that is no request opcode the spec states none, so it is a free value. -/
def Mach.rspCode (m : Mach) (opc : Nat) : Nat × Mach :=
  if opReq opc then (rspOf opc, m)
  else let r := m.nextFree
    (Config.freeNat r.1 % 64, r.2)

/-- Mirror the retirement of a request of an EXACTLY_ONCE flow: one RETIRE record for each of its packets (R134, R408; DEDUCED: the
spec does not say whether one record stands for a request of several packets, log entry 128). -/
def Mach.retireRec (m : Mach) (n : Nat) (f : BitVec 16) (seqs : List (BitVec 16)) : Mach :=
  seqs.foldl (fun m q => m.mirrorRec 2 n f q 0) m

/-- A request of an EXACTLY_ONCE flow has been answered: its retirement is mirrored, and a further response with one of its numbers is
a duplicate (R120, R134). -/
def Mach.answeredEo (m : Mach) (n : Nat) (f : BitVec 16) (seqs : List (BitVec 16)) : Mach :=
  (m.retireRec n f seqs).modNiu n (fun x =>
    { x with eoDone := x.eoDone.filter (fun q => !(decide (q.1 = f) && seqs.contains q.2)) ++ seqs.map (fun q => (f, q)) })

/-- The number that a packet would be released with: the one it is bound to, or the next of its flow (R96, R136). Flows of a
service NIU keep theirs beside its message numbers. -/
def Niu.nextSeq (x : Niu) (n : Nat) (p : InjP) : BitVec 16 :=
  match p.seq with
  | some q => q
  | none =>
    if 512 ≤ n then BitVec.ofNat 16 (Tab.get dZero x.msgIds (65536 + (hFlow p.pkt.hd).toNat))
    else ((x.entry (hFlow p.pkt.hd)).map (fun e => eTxSeq e.ent)).getD 0

/-- Take packets out of the injection space that will not be released. One whose source record has been made is retired at the
twin (R134, R408). -/
def Mach.dropInj (m : Mach) (n : Nat) (out : InjP → Bool) : Mach :=
  let x := m.niu n
  let m := (x.inj.filter (fun p => out p && p.mir.isSome)).foldl
    (fun m p => m.retireRec n (hFlow p.pkt.hd) [x.nextSeq n p]) m
  m.modNiu n (fun x => { x with inj := x.inj.filter (fun p => !out p) })

/-- An ejected packet leaves the NIU's buffer of its VC, and its credits return (R163). -/
def Niu.takeEj (x : Niu) (vc : Option Nat) : Niu :=
  match vc with
  | none => x
  | some v => x.clearEj v

/-- Whether an earlier request of the ORDERED flow of a tracker entry has a response still to be delivered (R102). -/
def Niu.early (x : Niu) (flow : BitVec 16) (acc : Nat) : Bool :=
  x.trk.any (fun p =>
    match p.2 with
    | some t => t.ordered && decide (t.flow = flow ∧ t.acc ≠ 0) && !t.dead && decide (t.acc < acc)
    | none => false)

/-- The request on the target-request channel has been delivered, or is given up: the ejection VC or store slot that it kept is free
(R93). -/
def Niu.endTreq (x : Niu) : Niu := { x.takeEj x.treqVc with treq := none, treqVc := none, treqSlot := false }

/-- Packet store slots in use (R93): early packets and packets whose reset answer waits, packets of queue messages, until their
delivery, early responses of ORDERED flows. -/
def Niu.storeUsed (x : Niu) : Nat :=
  x.store.length + x.owed.length + cnt Pres.slot x.ready + b1 x.treqSlot +
  ((x.ctxs.filter (fun c => !c.mem)).map (fun c => c.pkts.length)).foldl (· + ·) 0 +
  cnt Rsp.slot (x.rspOut.toList ++ x.rspq)

/-- Whether the released packets of the tracker entry with TAG `k` are still without a response of the fabric (R97, R104): no answer
stands, or only one of this NIU's own making, held for the acceptance or on its way to the endpoint. The count ends with the entry at
the latest (DESIGN CHOICE, log entry 135). -/
def Niu.unheard (x : Niu) (k : Nat) (t : Trk) : Bool :=
  !t.ans || t.hold.isSome || (x.rspOut.toList ++ x.rspq).any (fun r => r.tag == k && r.vc.isNone && !r.slot)

/-- Free the tracker entry with TAG `k` whose answer nobody takes: an abandoned message (R78), a port in reset (R79). -/
def Mach.freeUnheard (m : Mach) (n k : Nat) (t : Trk) : Mach :=
  (if t.eo && (!t.ans || t.hold.isSome) then m.answeredEo n t.flow t.seqs else m).modNiu n (fun x => x.freeTrk k)

/-- Give the answer of the tracker entry with TAG `k` to the response channel (R102, R72): a status, its data and the
number of bytes. A response that has come in an ejection VC stays there until it is delivered, an early one of an ORDERED flow
takes a slot of the packet store (R93). A request of the NIU's own port whose port is in reset has its answer discarded (R79), and
so has an abandoned message (R78). -/
def Mach.respond (m : Mach) (n k st size : Nat) (inl : BitVec 128) (data : List FlitBits) (vc : Option Nat) : Mach :=
  match Tab.get dNone (m.niu n).trk k with
  | none => m
  | some t =>
    if t.dead || !(m.niu n).runs then (m.freeUnheard n k t).modNiu n (fun x => x.takeEj vc)
    else
      let o := m.rspCode (qOpc t.hdr)
      let b := rspHeader t.hdr o.1 st size inl :: beatsOf data
      let slot := t.ordered && vc.isSome && (m.niu n).early t.flow t.acc
      (if t.eo then o.2.answeredEo n t.flow t.seqs else o.2).modNiu n (fun x =>
        let x := (x.modTrk k (fun t => { t with ans := true, hold := none, ddl := none, todo := [] })).takeEj (if slot then vc else none)
        { x with rspq := x.rspq ++ [⟨k, t.uid, t.flow, t.ordered, if slot then none else vc, slot, b⟩] })

/-- What a source check or the release check answers (R94, R60, R103): a non-posted request gets a response with the
code once it is accepted, a posted write is counted in WRP_SRC_ERR, or in FENCED_DROP for DOMAIN_OFF, once it is
accepted. Requests a service NIU makes for others end with their owner. -/
def Mach.ownerFails (m : Mach) (o : Owner) (st : Nat) : Mach :=
  match o with
  | .fetch e a =>
    match (m.eng e).fetch with
    | none => m
    | some line => if bf line 0 48 = a then m.lineAnswer e line ⟨hSetStatus 0 st, [], false⟩ else m
  | .ldx e => m.accessAnswer e ⟨hSetStatus 0 st, [], false⟩
  | .stx e => m.accessAnswer e ⟨hSetStatus 0 st, [], false⟩
  | .image ser _ idx => m.imageLine ser idx st 0
  | _ => m

/-- Answer a request at its source NIU (R94). The answer of an abandoned message reaches nobody and frees its TAG (R78). -/
def Mach.srcAnswer (m : Mach) (n : Nat) (posted : Bool) (k st : Nat) : Mach :=
  let x := m.niu n
  if posted then
    match Tab.get dNone x.pwb k with
    | none => m
    | some w =>
      if w.acc = 0 then m.modNiu n (fun x => x.modPwb k (fun w => { w with fail := true }))
      else
        let m := m.modNiu n (fun x => x.freePwb k)
        if st = sDOMOFF then m.addFld (aNiu n 0x38) 32 16 1 else m.addFld (aNiu n 0x38) 0 16 1
  else
    match Tab.get dNone x.trk k with
    | none => m
    | some t =>
      if t.dead then m.freeUnheard n k t
      else if t.acc = 0 then m.modNiu n (fun x => x.modTrk k (fun t => { t with ans := true, hold := some st }))
      else m.respond n k st 0 0 [] none

/-- Room in the injection space (R93): 48 packets, of which 4 are kept for TC3. A copy that is being read for a resend keeps its
place. -/
def Niu.injRoom (x : Niu) (tc : Nat) : Bool :=
  let low := cnt (fun p => hTc p.pkt.hd != 3) x.inj + cnt (fun r => ((x.entry r.1).map (fun e => eTc e.ent)) != some 3) x.rsv
  decide (x.inj.length + x.rsv.length < 48) && (tc == 3 || decide (low < 44))

/-- The head of packet `k` of a request (R46, R51): fields of the request, of the flow entry and of the NIU. A RED takes only
TC and PLANE from its flow (R53); its RLVL and DST_INC are written as 0 (DESIGN CHOICE, log entry 105). -/
def Mach.formHead (m : Mach) (n : Nat) (h : BeatBits) (dbg : Bool) (e : FlitBits) (tag msgId k : Nat) : FlitBits :=
  let o := qOpc h
  let red := o = opRED
  let msg := o = opMSG
  let l := qSize h
  let len := if msg then msgLen l k else l
  let last := msg ∧ k + 1 = msgCount l
  let carries := o = opWRP ∨ o = opWRA ∨ msg ∨ red
  let nd := if carries ∧ 16 < len then cdiv len 64 else 0
  let inl : Nat := if o = opATM then atmInline (qSubop h) l (qInline h)
    else if carries ∧ l ≤ 16 then (qInline h).toNat % 2 ^ (8 * len) else 0
  mkf 512 256 128 inl ||| mkf 512 248 8 (if msg then msgId else 0) ||| mkf 512 242 6 (if msg then k else 0) |||
  mkf 512 235 7 (if last then msgCount l else 0) ||| mkf 512 234 1 (b1 (decide last)) |||
  mkf 512 228 6 (if msg then qMq h else 0) ||| mkf 512 220 2 (if red then 0 else eRlvl e) ||| mkf 512 219 1 (b1 dbg) |||
  mkf 512 168 8 (m.niu n).inc.toNat ||| mkf 512 160 8 (if red then 0 else eDInc e) ||| mkf 512 152 8 tag |||
  mkf 512 144 4 (if red ∨ o = opATM then qSubop h else 0) ||| mkf 512 141 3 (if red then qCtype h else 0) |||
  mkf 512 133 8 (if red then qGroup h else 0) |||
  mkf 512 80 48 (if red then 0 else if msg then (if qMq h = 63 then qAddr h + 256 * k else 0) else qAddr h) |||
  mkf 512 64 16 (qFlow h).toNat ||| mkf 512 58 6 o ||| mkf 512 56 2 (eTc e) |||
  mkf 512 51 2 (if red then 0 else eDmode e) ||| mkf 512 50 1 (b1 m.straps.planeB) ||| mkf 512 46 3 nd |||
  mkf 512 37 9 len ||| mkf 512 27 10 (if red then n else eDst e) ||| mkf 512 11 16 (midOf n (qSubid h))

/-- Add one data beat to a packet that is being formed; a last packet of 16 B or less becomes inline (R71), and in the last data
flit the bytes past LEN are zero (R50). -/
def InjP.addBeat (p : InjP) (b : BeatBits) : InjP :=
  let data := if p.need % 2 = 0 then p.pkt.data ++ [((0 : BeatBits) ++ b : BitVec 512)]
    else p.pkt.data.dropLast ++ (p.pkt.data.getLast?.toList.map (fun f => sf f 256 256 b.toNat))
  let hd := p.pkt.hd
  if p.need = 1 ∧ hLen hd ≤ 16 then
    { p with need := 0, pkt := ⟨sf hd 256 128 (bf (data.headD 0) 0 128 % 2 ^ (8 * hLen hd)), [], false⟩ }
  else { p with need := p.need - 1, pkt := { p.pkt with data := if p.need = 1 then trimData (hLen hd) data else data } }

/-- Whether a header's opcode takes a posted write buffer entry (R67). -/
def qPosted (h : BeatBits) : Bool := qOpc h == opWRP

/-- Data beats of unit `k` of a request (R69, R70). -/
def unitBeats (h : BeatBits) (k : Nat) : Nat :=
  let t := dataBeats (qOpc h) (qSize h)
  if qOpc h = opMSG then min 8 (t - 8 * k) else t

/-- Place packet `k` of a request in the injection space (step 3 of R94). A posted write's TAG is written as 0 (DESIGN CHOICE, log
entry 104). A resubmitted request's packets carry the numbers of its record (R136). -/
def Mach.inject (m : Mach) (n : Nat) (r : Req) (e : FcE) (k : Nat) : Mach :=
  let h := r.hdr
  let hd := m.formHead n h r.dbg e.ent (if qPosted h then 0 else r.tag) r.msgId k
  let p : InjP :=
    { uid := r.uid, pkt := ⟨hd, [], false⟩, need := unitBeats h k, shp := eShp e.ent, tag := r.tag, posted := qPosted h,
      resend := false, close := false, dev := eDev e.ent, seq := r.old[k]?, short := false, mir := none, born := m.clk.cyc, fail := none }
  m.modNiu n (fun x => { x with inj := x.inj ++ [p] })

/-- The uncertain set of a flow meets a request of the flow (R136): the record with its SUBID and ETAG gives the request its
numbers, all those of its packets, retired or not; the first request that matches none ends the set. -/
def Mach.resubmit (m : Mach) (n : Nat) (h : BeatBits) : List (BitVec 16) × Mach :=
  let f := qFlow h
  let mine := (m.niu n).unc.filter (fun u => u.flow = f)
  match mine.find? (fun u => u.sub = qSubid h ∧ u.etag = qEtag h) with
  | some u => (u.seqs, m.modNiu n (fun x => { x with unc := x.unc.erase u }))
  | none =>
    if mine.isEmpty then ([], m)
    else ([], (m.modNiu n (fun x => { x with unc := x.unc.filter (fun u => u.flow ≠ f) })).countNiu n 0x0D none none mine.length 0)

/-- Treat a request whose entry is at hand (steps 2 and 3 of R94). The caller has checked that there is room. A request that fails a
source check leaves the flow's uncertain set as it is (DESIGN CHOICE: R136 does not say whether it counts as the first that matches no
record, log entry 129). -/
def Mach.startReq (m : Mach) (n : Nat) (r : Req) (e : FcE) : Mach :=
  let h := r.hdr
  let posted := qPosted h
  let drop (m : Mach) : Mach := m.modNiu n (fun x => { x with reqs := x.reqs.filter (fun q => q.uid ≠ r.uid) })
  let mark (m : Mach) : Mach := m.modNiu n (fun x =>
    let x := (x.touch e.flow).modEntry e.flow (fun e => { e with recv := false })
    let inOrder := eDmode e.ent == 1 || (x.safe && x.trk.any (fun p => p.2.any (fun t => t.ordered && t.flow == e.flow)))
    if posted then x.modPwb r.tag (fun w => { w with flow := e.flow, dst := epTile (eDst e.ent), eo := eDmode e.ent == 2 })
    else x.modTrk r.tag (fun t =>
      { t with flow := e.flow, dst := if qOpc h = opRED then epTile n else epTile (eDst e.ent), ordered := inOrder && qOpc h != opRED, eo := eDmode e.ent == 2 && qOpc h != opRED }))
  match m.sourceCheck n h e with
  | some st =>
    let m := if (e.neg = some st ∧ st ≠ sSAFE) ∨ (st = sFLOW ∧ m.carries (qFlow h) = false) then m.orReg (aSch n 0x20) 1 else m
    ((drop (mark m)).srcAnswer n posted r.tag st)
  | none =>
    let msg := qOpc h = opMSG
    let id := Tab.get dZero (m.niu n).msgIds e.flow.toNat
    let u := m.resubmit n h
    let m := u.2
    let r := { r with msgId := if msg then id else r.msgId, old := u.1 }
    let m := if msg then m.modNiu n (fun x => { (x.modTrk r.tag (fun t => { t with msgId := id })) with msgIds := Tab.set dZero x.msgIds e.flow.toNat ((id + 1) % 256) }) else m
    let m := mark (drop m)
    let m := m.inject n r e 0
    let m := m.modNiu n (fun x => { x with inj := x.inj.map (fun p => if p.uid = r.uid then r.beats.foldl InjP.addBeat p else p) })
    if msg ∧ 8 < dataBeats (qOpc h) (qSize h) then
      m.modNiu n (fun x => { x with reqs := x.reqs ++ [{ r with inMiss := false, idx := 0, beats := [] }] })
    else m

/-- What stands for an entry where a request needs none (R457). -/
def FcE.blank (f : BitVec 16) : FcE := ⟨f, 0, none, false, false, false, false, false, false, false, false⟩

/-- One request leaves the flow-miss queue: the oldest whose flow has a usable entry, with room in the injection space,
and whose flow has no older request in the queue (R94, R95). In the safe state it needs no entry (R457). -/
def Mach.leaveMiss (m : Mach) (n : Nat) : Option Mach :=
  let x := m.niu n
  let first (r : Req) : Bool := (x.reqs.find? (fun q => q.inMiss && (qFlow q.hdr == qFlow r.hdr))).any (fun q => q.uid == r.uid)
  x.reqs.findSome? (fun r =>
    if !r.inMiss || !first r then none
    else if x.safe then some (m.startReq n r ((x.entry (qFlow r.hdr)).getD (FcE.blank (qFlow r.hdr))))
    else match m.usable n (qFlow r.hdr) with
      | none => none
      | some e => if x.injRoom (eTc e.ent) then some (m.startReq n r e) else none)

/-- The flows that engines wait to see pinned at an NIU (R239). -/
def Mach.pinWaits (m : Mach) (n : Nat) : List (BitVec 16) :=
  (List.range 5).filterMap (fun e =>
    match (m.eng e).wait with
    | .pin k f => if k = n then some f else none
    | _ => none)

/-- Let the flow-miss queue advance as far as it can: requests with entries leave, and missing entries are asked for, those of
requests whose flow is not held (R240), pinned ones, those an FL.PIN waits for and those that marks wait for. -/
def Mach.advanceMiss (m : Mach) (n : Nat) : Nat → Mach
  | 0 => m
  | k + 1 =>
    let m := ((m.niu n).reqs.filter (fun r => r.inMiss && !m.held.contains (qFlow r.hdr))).foldl (fun m r => m.wantEntry n (qFlow r.hdr)) m
    let m := ((m.niu n).pins ++ m.pinWaits n ++ (m.niu n).marks.map Prod.fst).foldl (fun m f => m.wantEntry n f) m
    match m.leaveMiss n with
    | none => m
    | some m => m.advanceMiss n k

/-- An entry that is to be dropped (R240, R487): where `wb` says so its dirty halves are written back, for a flush at once, and again
where they have changed by the time that it is no longer locked; once that has retired the entry goes. An entry that was pinned is asked
for again at once. -/
def Mach.dropEntry (m : Mach) (n : Nat) (f : BitVec 16) : Mach :=
  let x := m.niu n
  match x.entry f with
  | none => m
  | some e =>
    if !e.drop || (x.inUse f && !e.now) then m
    else match (if e.wb then m.writeBack n e else some m) with
      | none => m
      | some m =>
        let m := m.modNiu n (fun x => x.modEntry f (fun e => { e with dirtyS := false, dirtyR := false, now := false }))
        if x.inUse f || m.wbOut n f then m
        else
          let m := m.modNiu n (fun x => { x with fc := x.fc.filter (fun g => g.flow ≠ f) })
          if e.pinned then m.wantEntry n f else m

/-- The closing packet of R110: on the same flow, LAST = 1, LEN = 0, PKT_IDX and PKT_CNT the packets released. Its ADDR is that of the
message's first packet (DESIGN CHOICE: R110 names none, log entry 146). -/
def Mach.closePacket (m : Mach) (n tag : Nat) (t : Trk) (e : FcE) : Mach :=
  let h := m.formHead n t.hdr t.dbg e.ent tag t.msgId 0
  let k := t.seqs.length
  let h := sf (sf (sf (sf (sf (sf h 242 6 k) 235 7 k) 234 1 1) 46 3 0) 37 9 0) 256 128 0
  let p : InjP :=
    { uid := t.uid, pkt := ⟨h, [], false⟩, need := 0, shp := eShp e.ent, tag := tag, posted := false, resend := false, close := true,
      dev := eDev e.ent, seq := none, short := false, mir := none, born := m.clk.cyc, fail := none }
  m.modNiu n (fun x => { (x.modTrk tag (fun t => { t with close := false })) with inj := x.inj ++ [p] })

/-- Abandoned messages that owe a closing packet place it as soon as the injection space has room (R93, R110). -/
def Mach.pumpClose (m : Mach) (n : Nat) : Mach :=
  let owe := (m.niu n).trk.filterMap (fun p => p.2.bind (fun t => if t.close then some (p.1, t) else none))
  owe.foldl (fun m q =>
    match (m.niu n).entry q.2.flow with
    | none => m.wantEntry n q.2.flow
    | some e => if (m.niu n).injRoom (eTc e.ent) then m.closePacket n q.1 q.2 e else m) m

/-- Room for `k` more requests of a service NIU. -/
def Mach.serviceRoom (m : Mach) (q : Nat) (posted : Bool) (k : Nat) : Bool :=
  let x := m.niu q
  m.domLive (epTile q) && decide (x.inj.length + k ≤ 48) &&
  (if posted then decide (cnt (fun p => p.2.isSome) x.pwb + k ≤ 16) else decide (cnt (fun p => p.2.isSome) x.trk + k ≤ 256))

/-- The accesses that a copy of `len` bytes in a slot of a replay block takes: offset in the block and length of each, none of
them across a 256 B boundary (R40, R117). -/
def copySegs (slot len : Nat) : List (Nat × Nat) :=
  let a := 320 * slot
  let k := 256 - a % 256
  if len ≤ k then [(a, len)] else [(a, k), (a + k, len - k)]

/-- The bytes of a packet's copy (R117): its head and its data flits' payload. -/
def Pkt.copyLen (p : Pkt) : Nat := 64 + (if p.data.isEmpty then 0 else hLen p.hd)

/-- Read the copy of a packet through the service NIU (R119, R238); its place in the injection space is kept from now on (R93).
None where there is no room. -/
def Mach.readCopy (m : Mach) (n : Nat) (f seq : BitVec 16) (e : FcE) : Option Mach :=
  let sv := niuService n
  if !(m.niu n).injRoom (eTc e.ent) || !m.serviceRoom sv false 2 then none
  else
    let slot := bf seq 0 6
    let len := ((Tab.get dNone m.replay (f.toNat * 64 + slot)).map Pkt.copyLen).getD 64
    let m := (copySegs slot len).foldl (fun m g =>
      (m.serviceReq sv opRD 1 (bf m.tblRead 48 10) (eReplay e.ent * 4096 + g.1) g.2 0xFFFF 0 [] (.replayRead n f seq)).getD m) m
    some (m.modNiu n (fun x => { x with rsv := x.rsv ++ [(f, seq)] }))

/-- Read the copies that a request's resend still needs, in PKT_IDX order, as far as there is room. -/
def Mach.readCopies (m : Mach) (n : Nat) (posted : Bool) (k : Nat) (f : BitVec 16) (e : FcE) : List (BitVec 16) → Mach
  | [] => m
  | q :: t =>
    match m.readCopy n f q e with
    | none => m
    | some m => (m.modNiu n (fun x =>
        if posted then x.modPwb k (fun w => { w with todo := t }) else x.modTrk k (fun r => { r with todo := t }))).readCopies n posted k f e t

/-- Go on with the copies still to be read (R119). -/
def Mach.pumpReads (m : Mach) (n : Nat) : Mach :=
  let x := m.niu n
  let todo := x.trk.filterMap (fun p => p.2.bind (fun t => if t.todo.isEmpty then none else some (false, p.1, t.flow, t.todo))) ++
    x.pwb.filterMap (fun p => p.2.bind (fun w => if w.todo.isEmpty then none else some (true, p.1, w.flow, w.todo)))
  todo.foldl (fun m r =>
    match (m.niu n).entry r.2.2.1 with
    | none => m.wantEntry n r.2.2.1
    | some e => m.readCopies n r.1 r.2.1 r.2.2.1 e r.2.2.2) m

/-- After a packet has left or an entry has come, the miss queue advances, and closing packets and copies take the room. -/
def Mach.settleFlows (m : Mach) (n : Nat) : Mach := ((m.advanceMiss n 8).pumpClose n).pumpReads n

/-- A fill has failed (R486): no entry is filled, FILL_FAIL, and every request that waits on it is answered FLOW_INVALID or
counted. -/
def Mach.fillFails (m : Mach) (n : Nat) (f : BitVec 16) : Mach :=
  if !(m.niu n).fills.contains f then m
  else
    let m := (m.modNiu n (fun x => { x with fills := x.fills.filter (fun g => g ≠ f) })).orReg (aSch n 0x20) (2 ^ 4)
    let recv (l : List Flit) : Bool := l.any (fun g => g.head && !opRsp (hOpc g.bits) && decide (hFlow g.bits = f ∧ hDmode g.bits ≠ 0))
    let m := m.modNiu n (fun x => { x with rxBad := if x.ej.any (fun v => recv v.2) || x.ejHd.any (fun v => recv v.2.toList) then x.rxBad ++ [f] else x.rxBad })
    let mine := (m.niu n).reqs.filter (fun r => r.inMiss && (qFlow r.hdr == f))
    let m := m.modNiu n (fun x => { x with reqs := x.reqs.filter (fun r => !(r.inMiss && (qFlow r.hdr == f))) })
    (mine.foldl (fun m r => m.srcAnswer n (qPosted r.hdr) r.tag sFLOW) m).settleFlows n

/-- The deadline of a flow in refill ticks (R118, R269). -/
def Niu.retxTicks (x : Niu) (f : BitVec 16) : Nat :=
  match x.entry f with
  | some e => if eRetx e.ent = 0 then 100 else eRetx e.ent
  | none => 100

/-- What the copy of a packet stands for, while it is not answered (R118): posted or not, its TAG or buffer entry, its
request. -/
def Niu.copyOf (x : Niu) (f seq : BitVec 16) : Option (Bool × Nat × Nat) :=
  let tr := x.trk.findSome? (fun p =>
    match p.2 with
    | some t => if t.eo && !t.ans && decide (t.flow = f) && t.seqs.contains seq then some (false, p.1, t.uid) else none
    | none => none)
  tr.orElse (fun _ => x.pwb.findSome? (fun p =>
    match p.2 with
    | some w => if w.rel && decide (w.flow = f ∧ w.seq = seq) then some (true, p.1, w.uid) else none
    | none => none))

/-- A copy is being read no more: its place in the injection space is free again. -/
def Niu.unreserve (x : Niu) (f seq : BitVec 16) : Niu := { x with rsv := x.rsv.filter (fun r => r ≠ (f, seq)) }

/-- A read of a copy has failed (R486): no copy is released, and the deadline restarts. -/
def Mach.copyFails (m : Mach) (n : Nat) (f seq : BitVec 16) : Mach :=
  let m := m.modNiu n (fun x => x.unreserve f seq)
  match (m.niu n).copyOf f seq with
  | none => m
  | some (posted, tag, _) =>
    m.modNiu n (fun x =>
      let d := some (x.retxTicks f)
      if posted then x.modPwb tag (fun w => { w with ddl := d }) else x.modTrk tag (fun t => { t with ddl := d }))

/-- A request that an NIU makes on another's behalf fails before or without a response (R316, R352, R486). -/
def Mach.makerFails (m : Mach) (o : Owner) (st : Nat) : Mach :=
  match o with
  | .fill k f => m.fillFails k f
  | .replayRead k f q => m.copyFails k f q
  | o => m.ownerFails o st

end Sys2Proof.Machine
end

