-- ==== Sys2Proof/Machine/Port.lean ====
section
/-! DEFINITION. The endpoint port (R62 to R92) and the core's side of the ingress buffer (R94): beats, barriers, abort,
port reset, incarnation, shared-port arbitration, responses. -/

namespace Sys2Proof.Machine

/-- The port signal ep_stop (R83, R85). -/
def Mach.epStop (m : Mach) (n : Nat) : Bool :=
  let x := m.niu n
  let d := m.dom (epTile n)
  !m.pwr.ready || !m.domLive (epTile n) || x.hold || x.ratio == 3 || d.warn || d.pgWarn || decide (d.st ≠ .on)

/-- Whether the port takes request beats at all (R67, R64). -/
def Mach.portOpen (m : Mach) (n : Nat) : Bool :=
  let x := m.niu n
  x.rstN && !x.abort && !m.epStop n && decide (x.ingress.length < 18)

/-- The sub-endpoint that drives the request channel: the owner of the grant in shared-port mode, else 0 (R87). -/
def Niu.owner (x : Niu) : Option Nat := if x.spEn then lowest (fun i => bt x.gnt i) 4 else some 0

/-- Whether a request is still waiting for entries of the posted write buffer to retire before a device request is
released (R100, R149): no further WRP header is taken. -/
def Niu.devDrain (x : Niu) : Bool :=
  x.inj.any (fun p => p.dev && x.pwb.any (fun q =>
    match q.2 with
    | some w => decide (w.acc ≠ 0 ∧ w.uid ≠ p.uid ∧ w.uid < p.uid)
    | none => false))

/-- The owner offers a beat in this port cycle (R87). -/
def Mach.offer (m : Mach) (n : Nat) : Mach := m.modNiu n (fun x => { x with beatAt := some m.clk.cyc, beatEnd := false })

/-- Whether the owner has offered a beat in the present port cycle, of 1, 2 or 4 FCLK cycles (R64, R87). -/
def Mach.beatNow (m : Mach) (n : Nat) : Bool :=
  let x := m.niu n
  x.beatAt.any (fun c => c / 2 ^ x.ratio == m.clk.cyc / 2 ^ x.ratio)

/-- A beat the port refuses is counted in telemetry only (R438). -/
def Mach.refuseBeat (m : Mach) (n : Nat) : Mach := m.countNiu n 0x0F none none 1 0

/-- A beat is accepted: it enters the ingress buffer and counts toward the burst. -/
def Mach.takeBeat (m : Mach) (n : Nat) (b : Beat) : Mach :=
  m.modNiu n (fun x => { x with ingress := x.ingress ++ [b], burst := x.burst + 1 })

/-- A request is accepted with the last beat of its last unit (R71): it takes its serial number, and an answer held for
it is given (R94). -/
def Mach.acceptReq (m : Mach) (n uid : Nat) : Mach :=
  let x := m.niu n
  let s := x.accNext
  let m := m.modNiu n (fun x =>
    { x with accNext := s + 1, trk := Tab.mapv dNone (fun _ o => o.map (fun t => if t.uid = uid then { t with acc := s } else t)) x.trk, pwb := Tab.mapv dNone (fun _ o => o.map (fun w => if w.uid = uid then { w with acc := s } else w)) x.pwb })
  let x := m.niu n
  match lowest (fun k => (Tab.get dNone x.trk k).any (fun t => t.uid == uid)) 256 with
  | some k =>
    match (Tab.get dNone x.trk k).bind Trk.hold with
    | some st => m.respond n k st 0 0 [] none
    | none => m
  | none =>
    match lowest (fun k => (Tab.get dNone x.pwb k).any (fun w => w.uid == uid && w.fail)) 16 with
    | some k => (m.modNiu n (fun x => x.freePwb k)).addFld (aNiu n 0x38) 0 16 1
    | none => m

/-- Abandon a request that has not been accepted (R77, R78, R110): its beats and packets go; with no packet released its
TAG or buffer entry is freed at once, otherwise a closing packet follows and the TAG waits for the MAK; an answer held for it is
dropped (R94). -/
def Mach.abandon (m : Mach) (n uid : Nat) : Mach :=
  let m := (m.dropInj n (fun p => p.uid == uid && !p.close)).modNiu n (fun x =>
    { x with ingress := x.ingress.filter (fun b => b.uid ≠ uid), reqs := x.reqs.filter (fun r => r.uid ≠ uid), opens := x.opens.filter (fun u => u.uid ≠ uid) })
  match lowest (fun k => (Tab.get dNone (m.niu n).trk k).any (fun t => t.uid == uid)) 256 with
  | some k =>
    match Tab.get dNone (m.niu n).trk k with
    | none => m
    | some t =>
      if t.seqs.isEmpty then m.modNiu n (fun x => x.freeTrk k)
      else (m.modNiu n (fun x => x.modTrk k (fun t => { t with dead := true, close := true, ans := false, hold := none }))).pumpClose n
  | none =>
    match lowest (fun k => (Tab.get dNone (m.niu n).pwb k).any (fun w => w.uid == uid)) 16 with
    | some k => m.modNiu n (fun x => x.freePwb k)
    | none => m

/-- Discard the unit the port is in the middle of, if any (R70, R77): counted in DISCARD. -/
def Mach.discardUnit (m : Mach) (n : Nat) : Mach :=
  match (m.niu n).unit with
  | none => m
  | some u => ((m.abandon n u.uid).modNiu n (fun x => { x with unit := none })).addFld (aPort n 0x20) 0 16 1

/-- A framing error (R70): the beat is accepted and counts toward the burst; PROTO, and the unit with this beat is discarded. It is no
last beat of a unit for a handover (DESIGN CHOICE: R87 does not say whether a discarded unit ends with it, log entry 130). -/
def Mach.proto (m : Mach) (n : Nat) (inUnit : Bool) : Mach :=
  let m := (m.orReg (aPort n 0x18) (2 ^ 9)).modNiu n (fun x => { x with burst := x.burst + 1 })
  if inUnit then m.discardUnit n else m.addFld (aPort n 0x20) 0 16 1

/-- After an accepted beat of the unit in hand: the unit goes on, ends, or ends the request (R70, R71). -/
def Mach.unitStep (m : Mach) (n : Nat) (u : PUnit) : Mach :=
  if u.left ≠ 0 then m.modNiu n (fun x => { x with unit := some u })
  else let m := m.modNiu n (fun x => { x with beatEnd := true })
  if u.after ≠ 0 then m.modNiu n (fun x => { x with unit := none, opens := x.opens ++ [u] })
  else (m.modNiu n (fun x => { x with unit := none })).acceptReq n u.uid

/-- REQ_HEADER_BEAT (R67, R70): outside a unit and an open message of the owner; refused, or accepted with a TAG or a
posted write buffer entry. -/
def execReqHeaderBeat (ep : Ep) (data : BeatBits) (last dbg : Bool) (sub : Sub) (s : State) : Out :=
  s.on (fun m =>
    let n := ep.val
    let x := m.niu n
    match x.owner with
    | none => m
    | some o =>
      if (x.spEn ∧ o ≠ sub.val) ∨ x.unit.isSome ∨ x.opens.any (fun u => u.sub == o) then m
      else
        let m := m.offer n
        let posted := qPosted data
        let slot := if posted then (if x.devDrain then none else lowest (fun k => (Tab.get dNone x.pwb k).isNone) 16)
          else lowest (fun k => (Tab.get dNone x.trk k).isNone) 256
        match slot with
        | none => m.refuseBeat n
        | some k =>
          if !m.portOpen n then m.refuseBeat n
          else
            let total := dataBeats (qOpc data) (qSize data)
            let left := unitBeats data 0
            if last ≠ decide (left = 0) then m.proto n false
            else
              let uid := x.uidNext
              let u : PUnit := ⟨uid, o, 0, left, total - left, qOpc data == opMSG⟩
              let m := m.modNiu n (fun x =>
                let x := { x with uidNext := uid + 1 }
                if posted then { x with pwb := Tab.set dNone x.pwb k (some ⟨uid, qEtag data, false, qFlow data, 0, 0, false, false, 0, .endpoint, none, 0, []⟩) }
                else { x with trk := Tab.set dNone x.trk k (some ⟨uid, data, qFlow data, 0, [], 0, false, false, 0, .endpoint, false, none, false, false, none, 0, [], dbg⟩) })
              (m.takeBeat n ⟨.header, data, dbg, k, uid⟩).unitStep n u)

/-- REQ_DATA_BEAT (R67, R69, R70): a data beat of the unit in hand, or the first of the next unit of the owner's open
message (R89). -/
def execReqDataBeat (ep : Ep) (data : BeatBits) (last : Bool) (sub : Sub) (s : State) : Out :=
  s.on (fun m =>
    let n := ep.val
    let x := m.niu n
    match x.owner with
    | none => m
    | some o =>
      let next := match x.unit with
        | some u => some u
        | none => (x.opens.find? (fun u => u.sub == o)).map (fun u => { u with idx := u.idx + 1, left := min 8 u.after, after := u.after - min 8 u.after })
      match next with
      | none => m
      | some u =>
        if x.spEn ∧ o ≠ sub.val then m
        else if !m.portOpen n then (m.offer n).refuseBeat n
        else
          let m := (m.offer n).modNiu n (fun x => { x with unit := some u, opens := x.opens.filter (fun v => v.uid ≠ u.uid) })
          if last ≠ decide (u.left = 1) then m.proto n true
          else (m.takeBeat n ⟨.data, data, false, u.idx, u.uid⟩).unitStep n { u with left := u.left - 1 })

/-- BARRIER_BEAT (R67, R70, R143): where a header is expected, at most 8 outstanding; where a data beat is expected it
is a framing error. An accepted barrier beat is the last, and only, beat of its unit (R70, R87). -/
def execBarrierBeat (ep : Ep) (kind : BarKind) (sub : Sub) (s : State) : Out :=
  s.on (fun m =>
    let n := ep.val
    let x := m.niu n
    match x.owner with
    | none => m
    | some o =>
      let opened := x.opens.find? (fun u => u.sub == o)
      if x.spEn ∧ o ≠ sub.val then m
      else
      let m := m.offer n
      if !m.portOpen n then m.refuseBeat n
      else if x.unit.isSome then m.proto n true
      else match opened with
        | some u => (m.modNiu n (fun x => { x with unit := some u })).proto n true
        | none =>
          if 8 ≤ x.bars.length then m.refuseBeat n
          else (m.modNiu n (fun x =>
            { x with bars := x.bars ++ [⟨kind, o, x.accNext⟩], accNext := x.accNext + 1, beatEnd := true })).takeBeat n
            ⟨.barrier kind, 0, false, o, 0⟩)

/-- Whether an opcode is one a barrier kind is concerned with (R142, R143). -/
def barConcerns (k : BarKind) (opc : Nat) : Bool :=
  match k with
  | .ld => isLoad opc
  | .st => isStore opc
  | .full => true

/-- Whether a barrier's condition holds (R143): every earlier request of its kind is answered or retired. -/
def Niu.barHolds (x : Niu) (b : Bar) : Bool :=
  !(x.trk.any (fun p =>
    match p.2 with
    | some t => decide (t.owner = .endpoint ∧ t.acc ≠ 0 ∧ t.acc < b.acc) && !t.ans && barConcerns b.kind (qOpc t.hdr)
    | none => false)) &&
  !(x.pwb.any (fun p =>
    match p.2 with
    | some w => decide (w.owner = .endpoint ∧ w.acc ≠ 0 ∧ w.acc < b.acc) && barConcerns b.kind opWRP
    | none => false))

/-- BARRIER_COMPLETE (R144, R74, R146): the oldest barrier's condition holds; it completes, with a pulse of ep_bar_done and its
sub-endpoint in ep_bar_sub unless the port is in reset. -/
def execBarrierComplete (ep : Ep) (s : State) : Out :=
  s.on (fun m =>
    match (m.niu ep).bars with
    | [] => m
    | b :: rest =>
      if (m.niu ep).barHolds b then m.modNiu ep (fun x =>
        if x.runs then { x with bars := rest, pulses := x.pulses + 1, barSub := if x.spEn then b.sub else 0 } else { x with bars := rest })
      else m)

/-- EP_ABORT (R77). -/
def execEpAbort (ep : Ep) (level : Bool) (s : State) : Out :=
  s.on (fun m => (if level && !(m.niu ep).abort then m.discardUnit ep else m).modNiu ep (fun x => { x with abort := level }))

/-- Abandon every open message (R79). -/
def Mach.abandonOpens (m : Mach) (n : Nat) : Mach :=
  (m.niu n).opens.foldl (fun m u => m.abandon n u.uid) m

/-- Target requests that are delivered and not answered are answered by the NIU with TARGET_ERR (R79): the entry stays
until the answer is formed. -/
def Mach.dropResponses (m : Mach) (n : Nat) : Mach :=
  let rs := (m.niu n).rspOut.toList ++ (m.niu n).rspq
  (rs.foldl (fun m r => m.modNiu n (fun x => (x.freeTrk r.tag).takeEj r.vc)) m).modNiu n (fun x => { x with rspOut := none, rspq := [] })

/-- EP_RST_RELEASE (R80): the incarnation is captured, and ep_stop holds for its 8 port cycles, past pw_ready too (R371); a barrier
whose condition has come to hold in reset gives no pulse (R146), one behind a barrier that still waits neither (DESIGN CHOICE: the
two sentences of R146 differ on it, log entry 131). An unpowered port captures at its power-up; with ep_ratio = 0b11 the port stays
in reset and captures nothing (R64). -/
def execEpRstRelease (ep : Ep) (inc : BitVec 8) (s : State) : Out :=
  s.on (fun m =>
    if (m.niu ep).rstN then m
    else if (m.niu ep).ratio == 3 || !m.domLive (epTile ep) then m.modNiu ep (fun x => { x with rstN := true, incPin := inc })
    else m.modNiu ep (fun x =>
      { x with rstN := true, inc := inc, incPin := inc, hold := true, relHold := true, bars := x.bars.filter (fun b => !x.barHolds b) }))

/-- EP_STOP_HOLD_END (R80): 8 port cycles after a capture, which do not pass while FCLK stands still (R427). -/
def execEpStopHoldEnd (ep : Ep) (s : State) : Out :=
  s.on (fun m => if m.clk.fstop then m else m.modNiu ep (fun x => { x with hold := false }))

/-- EP_INC_CHANGE (R81): outside port reset the change is not captured and sets INC_IGN. -/
def execEpIncChange (ep : Ep) (inc : BitVec 8) (s : State) : Out :=
  s.on (fun m =>
    let m1 := m.modNiu ep (fun x => { x with incPin := inc })
    if (m.niu ep).rstN && (m.niu ep).incPin != inc && m.domLive (epTile ep) then m1.orReg (aPort ep 0x18) (2 ^ 8) else m1)

/-- The weights of R88 in a word. -/
def spWeight (w : BitVec 16) (i : Nat) : Nat := bf w (4 * i) 4

/-- The selection of R88 among candidates: scores after it, and the winner. -/
def spSelect (scores : List Int) (wts : BitVec 16) (cand : List Nat) : List Int × Option Nat :=
  let sc := (List.range 4).map (fun i => (scores.getD i 0) + (if cand.contains i then (spWeight wts i : Int) else 0))
  let total : Int := (cand.map (fun i => (spWeight wts i : Int))).foldl (· + ·) 0
  let best := cand.foldl (fun (b : Option Nat) i =>
    match b with
    | none => some i
    | some j => if sc.getD j 0 < sc.getD i 0 then some i else b) none
  match best with
  | none => (scores, none)
  | some w => (modAt (fun v => v - total) sc w, some w)

/-- A read of a field of PORT_SP_CFG. -/
def Mach.spFreeze (m : Mach) (n : Nat) : Bool := bt (m.reg (aPort n 0x08)) 0
def Mach.spBurst (m : Mach) (n : Nat) : Nat := m.fld (aPort n 0x08) 8 6 + 1
def Mach.spStarve (m : Mach) (n : Nat) : Nat := m.fld (aPort n 0x08) 16 16

/-- SP_GRANT_CHANGE (R87, R88, R91): with the requests given, at the end of a port cycle. The grant passes by weighted selection, or
parks, where the last beat of one of the owner's units was accepted in this cycle and a handover condition holds, or where the owner
neither drives nor requests; under FREEZE it goes to none at the end of a unit, or of a cycle in which the owner offers no beat. A
write of the weights takes effect here, with all scores zero (an empty list of scores marks it). -/
def execSpGrantChange (ep : Ep) (req : BitVec 4) (s : State) : Out :=
  s.on (fun m =>
    let n := ep.val
    let x := m.niu n
    if !x.spEn || !x.runs then m.modNiu n (fun x => { x with spReq := req })
    else if m.spFreeze n then
      let ends := x.unit.isNone && (!m.beatNow n || x.beatEnd)
      m.modNiu n (fun x => { x with spReq := req, gnt := if ends then 0 else x.gnt })
    else
      let own := lowest (fun i => bt x.gnt i) 4
      let others := (List.range 4).any (fun i => bt req i && !bt x.gnt i)
      let hand := match own with
        | none => true
        | some i =>
          if m.beatNow n then x.beatEnd && (!bt req i || (decide (m.spBurst n ≤ x.burst) && others)) else !bt req i && others
      if x.unit.isSome || !hand then m.modNiu n (fun x => { x with spReq := req })
      else
        let wts : BitVec 16 := if x.scores.isEmpty then BitVec.ofNat 16 (m.fld (aPort n 0x10) 0 16) else x.wts
        let sc := if x.scores.isEmpty then [0, 0, 0, 0] else x.scores
        let cand := (List.range 4).filter (fun i => bt req i && !bt x.gnt i && decide (spWeight wts i ≠ 0))
        match spSelect sc wts cand with
        | (_, none) => m.modNiu n (fun x => { x with spReq := req })
        | (sc', some w) =>
          m.modNiu n (fun x => { x with spReq := req, scores := sc', wts := wts, gnt := BitVec.ofNat 4 (2 ^ w), burst := 0, beatAt := some m.clk.cyc, beatEnd := false }))

/-- STARVE_LIMIT_REACHED (R90): a requesting sub-endpoint with a weight, not granted, has waited STARVE_LIMIT cycles;
none pass while FCLK stands still (R427). -/
def execStarveLimitReached (ep : Ep) (sub : Sub) (s : State) : Out :=
  s.on (fun m =>
    let n := ep.val
    let x := m.niu n
    if m.clk.fstop = false ∧ x.spEn ∧ x.runs ∧ m.spStarve n ≠ 0 ∧ bt x.spReq sub ∧ spWeight x.wts sub ≠ 0 ∧ bt x.gnt sub = false then
      (m.orReg (aPort n 0x18) (2 ^ sub.val)).postEvt (niuQe n) 0 0 (2 ^ sub.val) n
    else m)

/-- The response to present next (R102): the first that has no earlier undelivered request of its ORDERED flow. -/
def Niu.nextRsp (x : Niu) : Option (Nat × Rsp) :=
  firstIdx (fun r =>
    !r.ordered || !x.early r.flow (((Tab.get dNone x.trk r.tag).map Trk.acc).getD 0)) x.rspq

/-- RSP_BEAT_ACCEPT (R102, R72): the endpoint takes the next beat of the response on the channel; at the last beat the
TAG, and the place it took, are freed. In port reset no beat is presented (R79). -/
def execRspBeatAccept (ep : Ep) (s : State) : Out :=
  s.on (fun m =>
    let n := ep.val
    let x := m.niu n
    if !x.runs then m
    else
      let x := match x.rspOut with
        | some _ => x
        | none =>
          match x.nextRsp with
          | none => x
          | some (i, r) => { x with rspOut := some r, rspq := dropAt x.rspq i }
      match x.rspOut with
      | none => m
      | some r =>
        if r.beats.length ≤ 1 then m.modNiu n (fun _ => { (x.freeTrk r.tag).takeEj r.vc with rspOut := none })
        else m.modNiu n (fun _ => { x with rspOut := some { r with beats := r.beats.drop 1 } }))

/-- INGRESS_TAKE (R94): the core takes the beat at the head of the ingress buffer when it has a place for it. -/
def execIngressTake (ep : Ep) (s : State) : Out :=
  s.on (fun m =>
    let n := ep.val
    let x := m.niu n
    match x.ingress with
    | [] => m
    | b :: rest =>
      let pop (m : Mach) : Mach := m.modNiu n (fun x => { x with ingress := rest })
      match b.kind with
      | .barrier _ => pop m
      | .header =>
        let f := qFlow b.bits
        let r : Req := ⟨b.uid, b.bits, b.dbg, b.sub, b.sub, 0, 0, true, [], []⟩
        let m1 := if !x.safe && !m.tblEn && !m.held.contains f then m.wantEntry n f else m
        let waits := x.reqs.any (fun q => q.inMiss && (qFlow q.hdr == f))
        if x.safe then
          (pop m).startReq n r ((x.entry f).getD (FcE.blank f))
        else match (if waits then none else m1.usable n f) with
          | some e =>
            if x.injRoom (eTc e.ent) then
              let m2 := if e.dflt then m1 else m1.addFld (aSch n 0x08) 32 32 1
              (pop m2).startReq n r e
            else m1
          | none =>
            if 8 ≤ cnt Req.inMiss x.reqs then m1
            else
              let m2 := (pop m1).modNiu n (fun x => { x with reqs := x.reqs ++ [r] })
              if m.held.contains f then m2 else m2.wantEntry n f
      | .data =>
        if x.inj.any (fun p => p.uid == b.uid && decide (p.need ≠ 0)) then
          pop (m.modNiu n (fun x => { x with inj := x.inj.map (fun p => if p.uid = b.uid ∧ p.need ≠ 0 then p.addBeat b.bits else p) }))
        else match x.reqs.find? (fun r => r.uid == b.uid) with
          | none => pop m
          | some r =>
            if r.inMiss then
              if r.beats.length < unitBeats r.hdr 0 then
                pop (m.modNiu n (fun x =>
                  { x with reqs := x.reqs.map (fun q => if q.uid = r.uid then { q with beats := q.beats ++ [b.bits] } else q) }))
              else m
            else match x.entry (qFlow r.hdr) with
              | none => m
              | some e =>
                if !x.injRoom (eTc e.ent) then m
                else
                  let k := r.idx + 1
                  let m := (pop m).inject n r e k
                  let m := m.modNiu n (fun x =>
                    { x with inj := x.inj.map (fun p => if p.uid = b.uid ∧ p.need ≠ 0 then p.addBeat b.bits else p) })
                  m.modNiu n (fun x =>
                    { x with reqs := if 8 * (k + 1) < dataBeats (qOpc r.hdr) (qSize r.hdr) then
                        x.reqs.map (fun q => if q.uid = r.uid then { q with idx := k } else q)
                      else x.reqs.filter (fun q => q.uid ≠ r.uid) }))

end Sys2Proof.Machine
end

