-- ==== Sys2Proof/Machine/Route.lean ====
section
/-! DEFINITION. Route tables, epochs, congestion codes and output selection (R164 to R181, R213, R484). -/

namespace Sys2Proof.Machine

/-- Whether a turn from a mesh input (0 N, 1 E, 2 S, 3 W) to a mesh output is permitted at column x (R164). -/
def turnOk (x inp out : Nat) : Bool :=
  if inp = out then false
  else if inp = 3 ∧ (out = 0 ∨ out = 2) then x % 2 == 1
  else if (inp = 0 ∨ inp = 2) ∧ out = 3 then x % 2 == 0
  else true

/-- The minimal odd-even mask of the default tables (R165): router, input (4 for local, 5 for SPN), target. -/
def defaultMask (t inp g : Nat) : BitVec 4 :=
  let e0 : Int := (tileX g : Int) - (tileX t : Int)
  let e1 : Int := (tileY g : Int) - (tileY t : Int)
  let v := if e1 > 0 then 0 else 2
  let odd := tileX t % 2 = 1
  let raw : List Nat :=
    if e0 = 0 then (if e1 ≠ 0 then [v] else [])
    else if e0 > 0 then
      if e1 = 0 then [1]
      else (if inp = 3 ∧ ¬odd then [] else [v]) ++ (if tileX g % 2 = 1 ∨ e0 ≠ 1 then [1] else [])
    else 3 :: (if e1 ≠ 0 ∧ ¬odd then [v] else [])
  let ok := raw.filter (fun d => decide (4 ≤ inp) || turnOk (tileX t) inp d)
  BitVec.ofNat 4 (ok.foldl (fun a d => a ||| 2 ^ d) 0)

/-- The section of a record for an input (R175): 0 to 3, 4 for L0 and L1, 5 for SPN. -/
def secOf (inp : Nat) : Nat := if inp < 4 then inp else if inp = 6 then 5 else 4

/-- The mask of an image for a router, a section and a target tile (R175). -/
def Img.mask (g : Img) (t sec tgt : Nat) : BitVec 4 :=
  match g.lines with
  | none => defaultMask t sec tgt
  | some l => (l.getD (1 + 6 * t + sec) 0).extractLsb' (4 * tgt) 4

/-- The image that routes a packet of an epoch, and whether the epoch matches a slot (R178, R180). -/
def Mach.imgOf (m : Mach) (e : Nat) : Img × Bool :=
  if e = m.rt.curE then (m.rt.cur, true)
  else if m.rt.st ≠ .free ∧ e = m.rt.othE then (m.rt.oth, true)
  else (m.rt.cur, false)

/-- The epoch that a unit stamps (R178): NIU n, or the combine unit of tile t as 1,024 + t. -/
def Mach.epochOf (m : Mach) (u : Nat) : Nat := if m.rt.casting && !m.rt.reached.contains u then m.rt.othE else m.rt.curE

/-- Whether OCC of a mesh output is 3 whatever its credits: it is tied off, or its link is excluded or counts as DEAD (R166, R198). -/
def Mach.outDead (m : Mach) (t d : Nat) : Bool :=
  match linkAt t d with
  | none => true
  | some n => decide ((m.link n).st ≠ .up)

/-- Credits in use on the GR and BE channels of a mesh output, and the code OCC (R166). -/
def Mach.inUse (m : Mach) (t d : Nat) : Nat :=
  ([2, 3, 4, 5, 8, 9, 10, 11].map (fun vc => (m.outVc (kVc t d vc)).used)).foldl (· + ·) 0
def Mach.occOf (m : Mach) (t d : Nat) : Nat :=
  let u := m.inUse t d
  if m.outDead t d then 3 else if u ≤ 3 then 0 else if u ≤ 11 then 1 else if u ≤ 23 then 2 else 3

/-- The last report received at a router from its neighbour on `d` (R167). -/
def Mach.reportFrom (m : Mach) (t d : Nat) : BitVec 16 :=
  match dirOut t d with
  | none => 0xFFFF
  | some l => (m.dir (dirBack l)).rpt

/-- FWD of a router's output (R167). -/
def Mach.fwdOf (m : Mach) (t d : Nat) : Nat := if (neighbour t d).isNone then 3 else bf (m.reportFrom t d) (2 * d) 2

/-- The report a router sends toward its neighbour on `dst`: OCC in the low byte, FWD in the high byte, 0b11 for the output
that faces the receiver (R167, R188). -/
def Mach.report (m : Mach) (t dst : Nat) : BitVec 16 :=
  BitVec.ofNat 16 (((List.range 4).map (fun d =>
    if d = dst then 3 * 2 ^ (2 * d) + 3 * 2 ^ (8 + 2 * d)
    else m.occOf t d * 2 ^ (2 * d) + m.fwdOf t d * 2 ^ (8 + 2 * d))).foldl (· + ·) 0)

/-- Hops left in a dimension. -/
def hopsLeft (t g d : Nat) : Nat :=
  if d % 2 = 1 then (max (tileX t) (tileX g)) - min (tileX t) (tileX g)
  else (max (tileY t) (tileY g)) - min (tileY t) (tileY g)

/-- The tile of a head's destination (R30). -/
def hTile (h : FlitBits) : Nat := epTile (hDst h) % 128

/-- Whether a packet is spine-bound and still before the spine (R170, R171). -/
def spineBound (h : FlitBits) : Bool := !hSph h && decide (hSpn h / 8 = quadOf (hTile h))

/-- The block's two entry ports at a tile: the one of FLOW[0] first (R171). -/
def entryPorts (t : Nat) (flow : BitVec 16) : List Nat :=
  let j := 4 * b1 (decide (2 ≤ localY t)) + 2 * b1 (decide (4 ≤ localX t))
  let f := bf flow 0 1
  [8 * quadOf t + j + f, 8 * quadOf t + j + (1 - f)]

/-- The entry tile for a packet at a tile under an image (R171). -/
def Img.entryTile (g : Img) (t : Nat) (flow : BitVec 16) : Nat :=
  match entryPorts t flow with
  | a :: b :: _ => if bt g.spnOk a then spineTile a else spineTile b
  | _ => 0

/-- The routing target of a head at a router (R171). -/
def Mach.target (m : Mach) (t : Nat) (h : FlitBits) : Nat :=
  if spineBound h then (m.imgOf (hEpoch h)).1.entryTile t (hFlow h) else hTile h

/-- Whether a mesh output's link counts as DEAD for R168 and R169: it is DEAD, DOWN or in TRAIN (R198); an EXCL link is not. -/
def Mach.linkDead (m : Mach) (t d : Nat) : Bool :=
  match linkAt t d with
  | none => false
  | some n => decide ((m.link n).st = .dead ∨ (m.link n).st = .down ∨ (m.link n).st = .train)

/-- Candidate outputs at a router (R168): the mask, without DEAD links unless that leaves none. -/
def Mach.candidates (m : Mach) (t inp tgt e : Nat) : List Nat :=
  let k := (m.imgOf e).1.mask t (secOf inp) tgt
  let c := (List.range 4).filter (fun d => bt k d)
  let live := c.filter (fun d => !m.linkDead t d)
  if live.isEmpty then c else live

/-- The score of an output at a router: as reported to the neighbour `via`, or at the router itself (R168). -/
def Mach.score (m : Mach) (t : Nat) (rpt : Option (BitVec 16)) (d : Nat) : Nat :=
  match rpt with
  | none => 2 * m.occOf t d + m.fwdOf t d
  | some r => 2 * bf r (2 * d) 2 + bf r (8 + 2 * d) 2

/-- The output with the lowest score; on a tie the dimension with more hops left, then E or W before N or S (R168). Two outputs of one
dimension can tie only in a loaded table: the lower LA_PORT code is then taken (DESIGN CHOICE, log entry 110). -/
def pickOut (t g : Nat) (score : Nat → Nat) (c : List Nat) : Option Nat :=
  let key := fun d => (score d * 256 + (255 - hopsLeft t g d)) * 2 + (1 - d % 2)
  c.foldl (fun b d =>
    match b with
    | none => some d
    | some k => if key d < key k then some d else b) none

/-- Route computation for a head entering router `t` at input `inp` (R168): the LA_PORT code, 7 where there is no
route. `rpt` is the report of router `t` when a neighbour computes. -/
def Mach.la (m : Mach) (t inp : Nat) (rpt : Option (BitVec 16)) (h : FlitBits) : Nat :=
  let g := m.target t h
  if g = t then
    if spineBound h then 6 else if hDst h < 512 ∧ bt h 28 = false then 4 else 5
  else
    match m.candidates t inp g (hEpoch h) with
    | [] => 7
    | [d] => d
    | c => (pickOut t g (m.score t rpt) c).getD 7

/-- Route mode of a class (R175): TC0 and TC1 only; the others stay on the mesh (R26). -/
def Img.mode (g : Img) (tc : Nat) : Nat := if tc = 0 then g.mode0 else if tc = 1 then g.mode1 else 0

/-- The spine output port for a destination tile (R213): the first usable in the order j, given by its two lowest bits. -/
def Img.exitPort (g : Img) (dst : Nat) (flow : BitVec 16) : Option Nat :=
  let q := quadOf dst
  let f := bf flow 1 1
  let a := 4 * b1 (decide (2 ≤ localY dst))
  let b := 2 * b1 (decide (4 ≤ localX dst))
  let js := [a + b + f, a + b + (1 - f), a + (2 - b) + f, a + (2 - b) + (1 - f),
    (4 - a), (4 - a) + 1, (4 - a) + 2, (4 - a) + 3]
  (js.find? (fun j => bt g.spnOk (8 * q + j))).map (fun j => 8 * q + j)

/-- The decision mesh or spine at release (R170, R172, R213): the SPN_DST field. Where the mesh has no candidate there is no score: the
lowest is taken as 99, and the packet goes by the spine under ADAPTIVE (DESIGN CHOICE, log entry 112). -/
def Mach.spnDst (m : Mach) (t inp : Nat) (h : FlitBits) (e : Nat) : Nat :=
  let g := (m.imgOf e).1
  let dst := hTile h
  let qd := quadOf dst
  let mesh := 8 * ((qd + 1) % 4)
  let mode := g.mode (hTc h)
  let cand := m.candidates t inp dst e
  let low := (cand.map (m.score t none)).foldl min 99
  if m.hasSpine = true ∧ hTc h ≤ 1 ∧ quadOf t ≠ qd ∧ hOpc h % 32 ≠ 6 ∧ (entryPorts t (hFlow h)).any (fun p => bt g.spnOk p) = true ∧
      (mode = 1 ∨ (mode = 2 ∧ g.thr ≤ low)) then (g.exitPort dst (hFlow h)).getD mesh
  else mesh

/-- Whether a mask bit of a received image uses a code or link it may not (R176): tied-off, excluded or pending links,
links in the training of LINK.INCL, which only images loaded after it may use (R179), turns. -/
def Mach.maskBad (m : Mach) (t sec : Nat) (k : BitVec 4) : Bool :=
  (List.range 4).any (fun d => bt k d &&
    (match linkAt t d with
     | none => true
     | some n => decide ((m.link n).st = .excl) || (m.link n).pend || (m.link n).incl || (decide (sec < 4) && !turnOk (tileX t) sec d)))

/-- Whether output `d` of a tile leaves its 4 × 2 block (R176). -/
def leavesBlock (t d : Nat) : Bool :=
  match neighbour t d with
  | none => true
  | some u => decide (u % 16 / 4 ≠ t % 16 / 4 ∨ u / 16 / 2 ≠ t / 16 / 2)

/-- The image in a header and its records (R175). -/
def imgOfLines (l : List FlitBits) : Img :=
  let h := l.headD 0
  ⟨some l, bf h 164 2, bf h 166 2, bf h 160 4, h.extractLsb' 128 32, h.extractLsb' 0 128⟩

/-- Whether a router's record has a section that is not ignored: the SPN section needs a spine port (R157, R175). -/
def Mach.hasSec (m : Mach) (t sec : Nat) : Bool := decide (sec ≠ 5) || (m.hasSpine && (spineOf t).isSome)

/-- Whether RT.LOAD refuses an image with RANGE (R176): a reserved code, or a mask that breaks one of its conditions. A header whose
reserved bits [511:168] are not zero counts as using a reserved code (DESIGN CHOICE, log entry 111). -/
def Mach.imgBad (m : Mach) (g : Img) : Bool :=
  let h := (g.lines.getD []).headD 0
  decide (bf h 168 344 ≠ 0) || decide (g.mode0 = 3 ∨ g.mode1 = 3 ∨ 10 ≤ g.thr) ||
  (List.range 128).any (fun t =>
    (List.range 6).any (fun sec =>
      if !m.hasSec t sec then false
      else (List.range 128).any (fun i =>
        let k := g.mask t sec i
        m.maskBad t sec k ||
        (bt g.unr i && decide (k ≠ 0)) ||
        (decide (4 ≤ sec) && decide (k = 0) && !bt g.unr i && decide (i ≠ t)) ||
        (List.range 4).any (fun d => bt k d &&
          (match neighbour t d with
           | none => true
           | some u => decide (u ≠ i) && decide (g.mask u (opposite d) i = 0))) ||
        (match spineOf i with
         | none => false
         | some p => bt g.spnOk p && decide (i % 16 / 4 = t % 16 / 4 ∧ i / 16 / 2 = t / 16 / 2) &&
             (List.range 4).any (fun d => bt k d && leavesBlock t d)))))

/-- Whether an image asks for what DW512-M does not have (R9, R176). -/
def Mach.imgAbsent (m : Mach) (g : Img) : Bool :=
  !m.hasSpine && decide (g.mode0 ≠ 0 ∨ g.mode1 ≠ 0 ∨ g.spnOk ≠ 0)

end Sys2Proof.Machine
end

