-- ==== Sys2Proof/Machine/Mirror.lean ====
section
/-! DEFINITION. The mirror ring (R444 to R449): matching heads at a point, capturing records, writing them through the
service NIU of the quadrant. -/

namespace Sys2Proof.Machine

/-- Registers of the mirror ring (R450). -/
def aMirCfg : Nat := 0x480000
def aMirProd : Nat := 0x480008
def aMirDone : Nat := 0x480010
def aMirCons : Nat := 0x480018
def aMirDrop : Nat := 0x480020

/-- The key a rule compares (R445). -/
def mirKey (h : FlitBits) : Word :=
  mkf 64 58 6 (hOpc h) ||| mkf 64 56 2 (hTc h) ||| mkf 64 52 4 (hStatus h) ||| mkf 64 42 10 (hDst h) |||
  mkf 64 32 10 (hSrc h) ||| mkf 64 16 16 (hFlow h).toNat ||| mkf 64 13 3 (hEpoch h) ||| mkf 64 12 1 (b1 (hSph h)) |||
  mkf 64 6 6 (hHops h)

/-- Whether rule `r` matches a head at a point: 0 RELEASE, 1 ROUTER, 2 EJECT (R445). -/
def Mach.ruleHit (m : Mach) (r pt : Nat) (h : FlitBits) : Bool :=
  let w := m.tele.rules.getD (3 * r) 0
  let v := m.tele.rules.getD (3 * r + 1) 0
  let k := m.tele.rules.getD (3 * r + 2) 0
  bt w 63 && bt w (60 + pt) && decide (mirKey h &&& k = v &&& k)

/-- DONE: the least index whose write has not retired (R449). -/
def Mach.mirDone (m : Mach) : Mach :=
  let prod := m.fld aMirProd 0 21
  m.setFld aMirDone 0 21 (m.tele.out.headD prod)

/-- Hand mirror records of a quadrant to its service NIU while it has room (R448): a posted write of 64 B each. -/
def Mach.pumpMirror (m : Mach) (q : Nat) : Nat → Mach
  | 0 => m
  | k + 1 =>
    match Tab.get dNil m.tele.mq q with
    | [] => m
    | (i, p) :: rest =>
      let cfg := m.reg aMirCfg
      match m.serviceReq (512 + q) opWRP 2 m.tele.memEp (bf cfg 0 48 + 64 * (i % 2 ^ bf cfg 57 5)) 64 0xFFFF 0 [p.hd] (.mirror i) with
      | none => m
      | some m => (m.modTele (fun t => { t with mq := Tab.set dNil t.mq q rest })).pumpMirror q k

/-- Make the reads of a quadrant's part of a route image while its service NIU has room (R355): RDs of 64 B under sub-identity 0x01
(R51, R317). -/
def Mach.imageReads (m : Mach) (q n : Nat) : List Nat → Mach
  | [] => { m with img := { m.img with todo := Tab.set dNil m.img.todo q [] } }
  | i :: rest =>
    match m.serviceReq n opRD 1 m.img.ep (m.img.addr + 64 * i) 64 0xFFFF 0 [] (.image m.img.ser q i) with
    | none => { m with img := { m.img with todo := Tab.set dNil m.img.todo q (i :: rest) } }
    | some m => { m with img := { m.img with out := m.img.out + 1 } }.imageReads q n rest

/-- The service NIU that reads a quadrant's part of a route image: its own, or, where that tile is fenced or without power, the
lowest-numbered one that is neither (DESIGN CHOICE, log entry 55). -/
def Mach.imageNiu (m : Mach) (q : Nat) : Option Nat :=
  let open' := fun k => !(bt m.pwr.fence (serviceTile k)) && m.domLive (serviceTile k)
  (if open' q then some q else lowest open' 4).map (fun k => 512 + k)

/-- Go on with the image reads that service NIU 512 + `k` makes. -/
def Mach.pumpImage (m : Mach) (k : Nat) : Mach :=
  if !m.img.on then m
  else [0, 1, 2, 3].foldl (fun m q =>
    if m.imageNiu q = some (512 + k) then m.imageReads q (512 + k) (Tab.get dNil m.img.todo q) else m) m

/-- The record of a capture (R447). -/
def Mach.mirRecord (m : Mach) (t r pt out vc idx size : Nat) (h : FlitBits) : FlitBits :=
  mkf 512 0 256 (bf h 0 256) ||| mkf 512 256 64 m.ftNs ||| mkf 512 (320 + 44) 20 (idx % 2 ^ size) |||
  mkf 512 (320 + 43) 1 (idx / 2 ^ size) ||| mkf 512 (320 + 39) 4 r ||| mkf 512 (320 + 37) 2 pt |||
  mkf 512 (320 + 36) 1 (b1 m.straps.planeB) ||| mkf 512 (320 + 29) 7 t ||| mkf 512 (320 + 26) 3 out |||
  mkf 512 (320 + 22) 4 vc ||| mkf 512 384 128 (hInline h).toNat

/-- Capture a record (R448, R449): the drop counts, else the next index and the quadrant's queue of 64. -/
def Mach.capture (m : Mach) (t r pt out vc : Nat) (h : FlitBits) : Mach :=
  let cfg := m.reg aMirCfg
  let size := bf cfg 57 5
  let prod := m.fld aMirProd 0 21
  let cons := m.fld aMirCons 0 21
  let q := quadOf t
  if bt cfg 62 = false ∧ 2 ^ size ≤ (prod + 2 ^ 21 - cons) % 2 ^ 21 then m.addFld aMirDrop 32 32 1
  else if 64 ≤ (Tab.get dNil m.tele.mq q).length then m.addFld aMirDrop 0 32 1
  else
    let p : Pkt := ⟨m.mirRecord t r pt out vc prod size h, [], false⟩
    let m := m.setFld aMirProd 0 21 ((prod + 1) % 2 ^ 21)
    let m := m.modTele (fun x => { x with mq := Tab.upd dNil x.mq q (fun l => l ++ [(prod, p)]), out := x.out ++ [prod] })
    m.mirDone.pumpMirror q 64

/-- A head passes a point at a tile (R446): the rules are taken in order; the first whose count reaches N captures and starts from zero,
the counts of the others that match advance. One that has reached N so captures at its rule's next match (DESIGN CHOICE, log entry
121). -/
def Mach.mirror (m : Mach) (t pt out vc : Nat) (h : FlitBits) : Mach :=
  if !m.hasMirror || !bt (m.reg aMirCfg) 63 then m
  else
    let hits := (List.range 16).filter (fun r => m.ruleHit r pt h)
    let full (r : Nat) : Bool := decide (bf (m.tele.rules.getD (3 * r) 0) 0 16 ≤ Tab.get dZero m.tele.rcnt (t * 16 + r))
    let cap := hits.find? full
    let m1 := hits.foldl (fun m r => m.modTele (fun x =>
      { x with rcnt := Tab.upd dZero x.rcnt (t * 16 + r) (fun c => if cap = some r then 0 else min 0xFFFF (c + 1)) })) m
    match cap with
    | none => m1
    | some r => m1.capture t r pt out vc h

end Sys2Proof.Machine
end

