-- ==== Sys2Proof/Machine/Release.lean ====
section
/-! DEFINITION. Release (R94 step 4, R96, R97, R100, R103, R117, R119, R134, R143, R243 to R249, R272): which packet an
NIU may release, the choice among them, and what the release does. -/

namespace Sys2Proof.Machine

/-- End of entry `i` of a gate list within its cycle, in ns (R271). -/
def gateEnd (g : GateList) (i : Nat) : Nat :=
  if g.ents.length ≤ i + 1 then g.ct else min (((g.ents.take (i + 1)).map (fun w => bf w 0 32)).foldl (· + ·) 0) g.ct

/-- Whether class `c` is open in entry `i`. -/
def gateBit (g : GateList) (c i : Nat) : Bool := bt (g.ents.getD i 0) (32 + c)

/-- Up to where in the cycle the gate of class `c` stays open from entry `i` on (R272). -/
def gateReach (g : GateList) (c : Nat) : Nat → Nat → Nat
  | 0, i => gateEnd g i
  | k + 1, i =>
    if i + 1 < g.ents.length ∧ gateEnd g i < g.ct ∧ gateBit g c (i + 1) = true then gateReach g c k (i + 1) else gateEnd g i

/-- How a gate stands for a packet (R270, R272): open, closed, or open for too short a time. -/
inductive GateSt where
  | pass | closed | short
deriving DecidableEq, Repr

/-- The time left in the active list before its bit of class `c` clears, in 2^-16 ns (R272); none where no list is active or every entry
sets the bit. -/
def Mach.gateLeft (m : Mach) (n c : Nat) : Option Int :=
  let g := (m.niu n).gate
  if g.ents = [] ∨ g.ents.all (fun w => bt w (32 + c)) = true then none
  else
    let pos := ((m.keep.ft : Int) - (g.s * 65536 : Nat)) % ((g.ct * 65536 : Nat) : Int)
    some ((gateReach g c 64 (m.niu n).gateIdx * 65536 : Nat) - pos)

/-- The time left before an armed list takes over, in 2^-16 ns (R275). -/
def Mach.takeLeft (m : Mach) (n : Nat) : Option Int :=
  let x := m.niu n
  if x.gateSt = 2 then some ((x.gateP.s * 65536 : Nat) - (m.keep.ft : Int)) else none

/-- The gate of an NIU for a packet (R270, R272). The list in force, or the open gates without one, ends at the start time of an armed
list: where the first entry of that list clears the class's bit, the time left is counted no further; where it sets the bit, the bit does
not clear there (DEDUCED from R272 and R275, log entry 153). -/
def Mach.gateFor (m : Mach) (n : Nat) (h : FlitBits) : GateSt :=
  let x := m.niu n
  let c := hTc h
  let need : Int := ((1 + hNdata h) * fclkUnits m.clk.mode : Nat)
  let opens := gateBit x.gateP c 0
  let lasts := match m.gateLeft n c with
    | none => true
    | some l => decide (need ≤ l) || (opens && (m.takeLeft n).any (fun t => decide (t ≤ l)))
  let shuts := !opens && (m.takeLeft n).any (fun t => decide (t < need))
  if 512 ≤ n ∨ c = 3 then .pass
  else if x.gate.ents ≠ [] ∧ gateBit x.gate c x.gateIdx = false then .closed
  else if lasts && !shuts then .pass else .short

/-- Whether the VC a head would take at its local input is free with a credit (R161, R246). -/
def Mach.localFree (m : Mach) (n : Nat) (h : FlitBits) : Bool :=
  let b := m.vc (kVc (epTile n) (niuPort n) (vcOf h))
  b.q.isEmpty && b.tail.isEmpty

/-- Packets of a flow released and unanswered at its source NIU (R97). -/
def Niu.unanswered (x : Niu) (f : BitVec 16) : Nat :=
  (x.trk.map (fun p =>
    match p.2 with
    | some t => if t.flow = f ∧ x.unheard p.1 t = true then t.seqs.length else 0
    | none => 0)).foldl (· + ·) 0 +
  cnt (fun p =>
    match p.2 with
    | some w => w.rel && decide (w.flow = f)
    | none => false) x.pwb

/-- Whether R97 or R116 holds a packet back. -/
def Niu.credHeld (x : Niu) (e : FlitBits) (p : InjP) : Bool :=
  let h := p.pkt.hd
  let f := hFlow h
  let t := Tab.get dNone x.trk p.tag
  let pk := match t with
    | some t => if p.posted then 1 else msgCount (qSize t.hdr)
    | none => 1
  let many := decide (hOpc h = opMSG ∧ hMq h ≠ 63 ∧ 1 < pk)
  let lim := if eDmode e = 2 then min (eCred e) 64 else eCred e
  let own := match t with
    | some t => if p.posted || !x.unheard p.tag t then 0 else t.seqs.length
    | none => 0
  if p.resend || hOpc h == opRED || !(many || decide (eDmode e = 1 ∨ eDmode e = 2)) then false
  else if many && decide (lim < pk) then decide (x.unanswered f ≠ own)
  else decide (lim < x.unanswered f + 1)

/-- The serial number of a packet's request: 0 while it is not accepted. -/
def Niu.accOf (x : Niu) (p : InjP) : Nat :=
  if p.posted then ((Tab.get dNone x.pwb p.tag).map Pwb.acc).getD 0 else ((Tab.get dNone x.trk p.tag).map Trk.acc).getD 0

/-- Whether a barrier accepted before the packet's request holds it (R143). -/
def Niu.barHeld (x : Niu) (p : InjP) : Bool :=
  let a := x.accOf p
  x.bars.any (fun b => decide (a = 0 ∨ b.acc < a) && barConcerns b.kind (hOpc p.pkt.hd) && !x.barHolds b)

/-- Whether a device request waits for earlier posted writes to retire (R100, R149). Requests count as earlier in the order of their
header beats, for a message of several units too (DESIGN CHOICE, log entry 25). -/
def Niu.devHeld (x : Niu) (p : InjP) : Bool :=
  p.dev && x.pwb.any (fun q =>
    match q.2 with
    | some w => decide (w.acc ≠ 0 ∧ w.uid < p.uid)
    | none => false)

/-- Whether the numbers released on an EXACTLY_ONCE flow would reach 64 past one that is not answered: its copy's slot, and the receive
window, hold 64 (R117, R126; DEDUCED, log entry 133). -/
def Niu.spanHeld (x : Niu) (n : Nat) (p : InjP) : Bool :=
  let f := hFlow p.pkt.hd
  let far (q : BitVec 16) : Bool := decide (64 ≤ seqDist (x.nextSeq n p) q ∧ seqDist (x.nextSeq n p) q < 32768)
  decide (hDmode p.pkt.hd = 2 ∧ hOpc p.pkt.hd ≠ opRED) && !p.resend &&
  (x.trk.any (fun e => e.2.any (fun t => t.eo && decide (t.flow = f) && x.unheard e.1 t && t.seqs.any far)) ||
   x.pwb.any (fun e => e.2.any (fun w => w.rel && decide (w.flow = f) && far w.seq)))

/-- Whether a resent copy waits for the copy of an earlier packet of its message, which is still to be read or to leave (R119). -/
def Niu.copyHeld (x : Niu) (p : InjP) : Bool :=
  p.resend && x.inj.any (fun q => q.resend && q.uid == p.uid && decide (hIdx q.pkt.hd < hIdx p.pkt.hd)) || p.resend && (match Tab.get dNone x.trk p.tag, p.seq with
    | some t, some q => !p.posted && (t.seqs.takeWhile (fun k => k ≠ q)).any (fun k => t.todo.contains k || x.rsv.contains (t.flow, k))
    | _, _ => false)

/-- Whether the twin, which is dead, has left a record for a flow that waits for its entry at an NIU: R413 applies every record
received before anything else, so the flow's packets wait (log entry 84). -/
def Mach.recWaits (m : Mach) (n : Nat) (f : BitVec 16) : Bool :=
  decide (m.twin.st = .dead) && m.twin.rxq.any (fun r => decide (rFlow r = f) && (recNius r).contains n)

/-- Whether a packet of the injection space is held back (R97, R143, R100, R415, R134, R117, R413). -/
def Mach.isHeld (m : Mach) (n : Nat) (p : InjP) : Bool :=
  let x := m.niu n
  let h := p.pkt.hd
  match x.entry (hFlow h) with
  | none => false
  | some e =>
    let first := hDmode h = 2 ∧ p.resend = false
    x.credHeld e.ent p || x.copyHeld p || (!p.resend && (x.barHeld p || x.devHeld p)) ||
    (x.arrive && m.arriving (hFlow h)) || x.spanHeld n p || (decide (hDmode h ≠ 0) && m.recWaits n (hFlow h)) ||
    (match p.mir with
     | some id => !m.recDone id
     | none => m.mirrors && !m.recRoom && (decide first || decide (hDmode h = 1))) ||
    (decide first && !m.serviceRoom (niuService n) true 2)

/-- The head of each shaper queue: the oldest whole packet that is not held back. A packet held back, or still being
formed, holds those of its flow behind it (R95, R97, R247). Packets of one flow go in the order in which they were formed, also
where another sub-endpoint's request is accepted between two units of an open message (DESIGN CHOICE, log entry 107). -/
def Mach.queueHeads (m : Mach) (n : Nat) : List (Nat × InjP) :=
  let l := (m.niu n).inj.zipIdx
  (l.foldl (fun (a : List (BitVec 16) × List (Nat × InjP)) r =>
    let p := r.1
    let f := hFlow p.pkt.hd
    if (!p.resend && a.1.contains f) || a.2.any (fun q => q.2.shp == p.shp) then
      (if p.resend then a.1 else f :: a.1, a.2)
    else if p.need ≠ 0 ∨ m.isHeld n p = true then (if p.resend then a.1 else f :: a.1, a.2)
    else (a.1, a.2 ++ [(r.2, p)])) ([], [])).2

/-- Whether a shaper may release under R243. -/
def Shaper.may (k : Shaper) : Bool := decide (k.mode = 0 ∨ (0 < k.rate ∧ 0 < k.tok))

/-- Whether a GUARANTEED TC1 shaper is at the shared level under EXCESS (R246). -/
def Shaper.over (k : Shaper) : Bool := k.excess && decide (k.tc = 1 ∧ k.mode = 2 ∧ 0 < k.rate ∧ k.tok ≤ 0)

/-- `later` of R249. -/
def vLater (a b : BitVec 32) : Bool := decide ((a - b).toNat < 2 ^ 31)

/-- The tag T of R249 for a queue. -/
def vTag (k : Shaper) (v : BitVec 32) (p : Pkt) : BitVec 32 :=
  (if vLater k.f v then k.f else v) + BitVec.ofNat 32 (p.cost * 256 / k.wt)

/-- What the selection of R246 has chosen. -/
inductive Sel where
  | none
  | rsp (i : Nat)
  | req (i : Nat) (shp : Nat) (level : Nat)
deriving DecidableEq, Repr

/-- Whether a response of the RSP injection space waits: for its mirroring, or for the entry whose marks it writes. -/
def Mach.rspHeld (m : Mach) (n : Nat) (r : RspP) : Bool :=
  (match r.mir with
   | some id => !m.recDone id
   | none => false) ||
  (!r.eo.isEmpty && (((m.niu n).entry (hFlow r.pkt.hd)).isNone || (m.mirrors && !m.recRoom)))

/-- The oldest response of a class that may go (R246). -/
def Mach.rspHead (m : Mach) (n tc : Nat) : Option (Nat × RspP) :=
  firstIdx (fun r => hTc r.pkt.hd == tc && !m.rspHeld n r) (m.niu n).rspInj

/-- Round robin: the candidate next after the last one served. -/
def rrPick (last : Nat) (c : List Nat) : Option Nat :=
  c.foldl (fun b k =>
    match b with
    | none => some k
    | some j => if (k + 63 - last) % 64 < (j + 63 - last) % 64 then some k else b) none

/-- The least tag past V, the lowest shaper on a tie (R249). -/
def vPick (v : BitVec 32) (tag : Nat → BitVec 32) (c : List Nat) : Option Nat :=
  c.foldl (fun b k =>
    match b with
    | none => some k
    | some j =>
      let dk := (tag k - v).toNat
      let dj := (tag j - v).toNat
      if dk < dj ∨ (dk = dj ∧ k < j) then some k else b) none

/-- The selection of R246 to R249. -/
def Mach.select (m : Mach) (n : Nat) : Sel :=
  let x := m.niu n
  let ok (h : FlitBits) : Bool := m.localFree n h && decide (m.gateFor n h = .pass)
  let heads := (m.queueHeads n).filter (fun q => ok q.2.pkt.hd)
  let rsp (tc : Nat) : Option Sel :=
    match m.rspHead n tc with
    | some (i, r) => if ok r.pkt.hd then some (.rsp i) else none
    | none => none
  let sh (k : Nat) : Shaper := x.shaper n k
  let pick (lvl : Nat) (k : Option Nat) : Option Sel :=
    k.bind (fun k => (heads.find? (fun q => q.2.shp == k)).map (fun q => .req q.1 k lvl))
  let names := heads.map (fun q => q.2.shp)
  let rr (tc last : Nat) : Option Sel := pick tc (rrPick last (names.filter (fun k => (sh k).tc == tc && (sh k).may)))
  let pkt (k : Nat) : Pkt := ((heads.find? (fun q => q.2.shp == k)).map (fun q => q.2.pkt)).getD ⟨0, [], false⟩
  let v (lvl : Nat) (vt : BitVec 32) (c : List Nat) : Option Sel := pick lvl (vPick vt (fun k => vTag (sh k) vt (pkt k)) c)
  (((((((rsp 3).orElse (fun _ => rr 3 x.rr3)).orElse (fun _ => rsp 2)).orElse (fun _ => rr 2 x.rr2)).orElse
    (fun _ => rsp 1)).orElse (fun _ => v 1 x.v1 (names.filter (fun k => (sh k).tc == 1 && (sh k).mode == 2 && (sh k).may)))).orElse
    (fun _ => rsp 0)).orElse
    (fun _ => v 0 x.v0 (names.filter (fun k => ((sh k).tc == 0 && (sh k).may) || (sh k).over))) |>.getD .none

/-- A packet that fails only the time left of its gate is counted once (R272). -/
def Mach.markShort (m : Mach) (n : Nat) : Mach :=
  let x := m.niu n
  let late (h : FlitBits) : Bool := m.localFree n h && decide (m.gateFor n h = .short)
  let hs := ((m.queueHeads n).filter (fun q => !q.2.short && late q.2.pkt.hd)).map Prod.fst
  let rs := ([2, 1, 0].filterMap (fun tc => (m.rspHead n tc).bind (fun r => if !r.2.short && late r.2.pkt.hd then some r.1 else none)))
  if hs.isEmpty && rs.isEmpty then m
  else
    let m := m.modNiu n (fun _ =>
      { x with inj := hs.foldl (fun l i => modAt (fun p => { p with short := true }) l i) x.inj, rspInj := rs.foldl (fun l i => modAt (fun p => { p with short := true }) l i) x.rspInj })
    (m.addFld (aGt n 0x28) 0 16 (hs.length + rs.length)).orReg (aGt n 0x20) (2 ^ 2)

/-- Put a packet that leaves an NIU into its VC at the local input: four flits enter the router at once, the last of them in the input's
register, the others follow as flits leave (R57, R157, R158, R163; log entry 27). Without a route it is lost there (R484). -/
def Mach.enter (m : Mach) (n : Nat) (p : Pkt) : Mach :=
  let t := epTile n
  let h := hSetLa p.hd (m.la t (niuPort n) none p.hd)
  let fl := ({ p with hd := h } : Pkt).flits
  let vc := vcOf h
  let m := { m with locl := Tab.set dZero m.locl (2 * t + (niuPort n - 4)) (n + 1) }
  let m := m.mirror t 0 0 vc h
  let taken (k : Nat) (m : Mach) : Mach := m.count (ctrRouter t) 8 3 (some (niuPort n)) (some (vcTc vc)) k h
  if hLa h = 7 ∧ hOpc h % 32 ≠ 6 then ((taken fl.length m).orReg (aTile t 0x10) (2 ^ 3)).addFld (aTile t 0x18) 48 16 1
  else ((taken (min 4 fl.length) m).freeReg t (niuPort n)).modVc (kVc t (niuPort n) vc) (fun _ =>
    { VcBuf.empty with hd := h, q := fl.take 4, t := (fl.take 4).map (fun _ => m.clk.cyc), tail := fl.drop 4, inReg := true })

/-- A fence bit of an NIU (R103). -/
def Mach.fenced (m : Mach) (n tile : Nat) : Bool :=
  if tile < 64 then bt (m.reg (aNiu n 0x10)) tile else bt (m.reg (aNiu n 0x18)) (tile - 64)

/-- Mark sequence numbers, and the failing one in RX_ERR as well (R127): at once where the entry is cached, else as soon as it is.
Until then they stay pending. -/
def Niu.rxMarks (x : Niu) (f : BitVec 16) (l : List (BitVec 16)) (bad : Option (BitVec 16)) : Niu :=
  let x := { x with marks := x.marks ++ l.map (fun q => (f, q, decide (bad = some q))) }
  if (x.entry f).isSome then x.makeMarks f else x

/-- Whether a sequence number is marked in RX_MAP. -/
def Niu.marked (x : Niu) (f seq : BitVec 16) : Bool :=
  (x.entry f).any (fun e => decide (seqDist (eTop e.ent) seq ≤ 63) && bt (eMap e.ent) (seqDist (eTop e.ent) seq))

/-- The RXMARK record of a mark (R408). -/
def Mach.rxRec (m : Mach) (n : Nat) (h : FlitBits) (err : Bool) : Nat × Mach :=
  m.pushRec 3 n (hFlow h) (hSeq h) ((hSrcInc h).toNat * 2 ^ 74 + b1 err * 2 ^ 73)

/-- The answer of an accepted packet of an EXACTLY_ONCE flow leaves its target (R126, R127): it is pending no more, and its marks
are set; those that are new, and the one of a status other than OK, are mirrored (R134, R408). -/
def Mach.eoLeave (m : Mach) (n : Nat) (r : RspP) : Mach :=
  if r.eo.isEmpty then m
  else
    let h := r.pkt.hd
    let err := decide (hStatus h ≠ sOK)
    let bad (q : BitVec 16) : Bool := err && q == hSeq h
    let m := if m.mirrors then
        (r.eo.filter (fun q => bad q || !(m.niu n).marked (hFlow h) q)).foldl (fun m q => (m.rxRec n (hSetSeq h q) (bad q)).2) m
      else m
    m.modNiu n (fun x => x.rxMarks (hFlow h) r.eo (if err then some (hSeq h) else none))

/-- A response leaves, or is discarded at a fence (R103). Its SEQ stays that of the request. -/
def Mach.releaseRsp (m : Mach) (n i : Nat) (r : RspP) : Mach :=
  let m := (m.modNiu n (fun x => { x with rspInj := dropAt x.rspInj i })).eoLeave n r
  let h := r.pkt.hd
  if m.fenced n (hTile h) then m.addFld (aNiu n 0x38) 48 16 1
  else
    let ep := m.epochOf n
    let h := sf h 53 3 ep
    let h := hSetSpn h (m.spnDst (epTile n) (niuPort n) h ep)
    m.enter n { r.pkt with hd := h }

/-- Charge a shaper and advance the virtual time of its level (R243, R249). -/
def Niu.charge (x : Niu) (n k lvl : Nat) (p : Pkt) : Niu :=
  let s := x.shaper n k
  let free := s.mode == 0 || (lvl == 0 && s.over)
  let x := x.modShp n k (fun s => if free then s else { s with tok := s.tok - (p.cost * 16 : Nat) })
  if lvl = 3 then { x with rr3 := k }
  else if lvl = 2 then { x with rr2 := k }
  else
    let v := if lvl = 1 then x.v1 else x.v0
    let t := vTag s v p
    let x := x.modShp n k (fun s => { s with f := t })
    if lvl = 1 then { x with v1 := t } else { x with v0 := t }

/-- While a queue is idle its F is set to V whenever V is later (R249). -/
def Niu.idleTags (x : Niu) (n lvl : Nat) : Niu :=
  let v := if lvl = 1 then x.v1 else x.v0
  if 2 ≤ lvl then x
  else (List.range 64).foldl (fun x k =>
    let s := x.shaper n k
    if s.tc ≠ lvl ∨ x.inj.any (fun p => p.shp == k) = true ∨ s.f = v ∨ vLater v s.f = false then x
    else x.modShp n k (fun s => { s with f := v })) x

/-- A request that fails the check at release is answered, and none of it is left to release (R94, R103, R122): of a message some of
whose packets have been released, neither the rest nor a closing packet, so that its context at the target times out (DESIGN CHOICE: the
spec does not say how such a message ends, log entry 134). -/
def Mach.failRelease (m : Mach) (n : Nat) (p : InjP) (st : Nat) : Mach :=
  let x := m.niu n
  let m := (m.dropInj n (fun q => q.uid == p.uid)).modNiu n (fun x => { x with reqs := x.reqs.filter (fun r => r.uid ≠ p.uid) })
  if p.posted then
    match Tab.get dNone x.pwb p.tag with
    | none => m
    | some w =>
      let m := if hDmode p.pkt.hd = 2 ∧ w.rel = true then m.answeredEo n w.flow [w.seq] else m
      let m := m.srcAnswer n true p.tag st
      match w.owner with
      | .mirror i => (m.modTele (fun t => { t with out := t.out.erase i })).mirDone
      | _ => m
  else
    match Tab.get dNone x.trk p.tag with
    | none => m
    | some t =>
      if t.owner = .endpoint then
        m.srcAnswer n false p.tag st
      else (m.modNiu n (fun x => x.freeTrk p.tag)).makerFails t.owner st

/-- Number the first copy of a packet: the number a resubmission carries, or the next of its flow, which then advances
(R96, R136). Flows of a service NIU keep theirs beside its message numbers. -/
def Mach.numberPkt (m : Mach) (n : Nat) (p : InjP) : BitVec 16 × Mach :=
  let f := hFlow p.pkt.hd
  let q := (m.niu n).nextSeq n p
  if p.seq.isSome then (q, m)
  else if 512 ≤ n then (q, m.modNiu n (fun x => { x with msgIds := Tab.set dZero x.msgIds (65536 + f.toNat) (q + 1).toNat }))
  else (q, m.modNiu n (fun x => x.setSend f (fun g => sf g 64 16 (q + 1).toNat)))

/-- The source record of a packet (R134, R408). -/
def Mach.srcRec (m : Mach) (n : Nat) (h : FlitBits) (etag : Nat) (seq : BitVec 16) : Nat × Mach :=
  m.pushRec 1 n (hFlow h) seq
    (bf h 11 6 * 2 ^ 76 + etag * 2 ^ 68 + hOpc h * 2 ^ 62 + (hSrcInc h).toNat * 2 ^ 54 + hAddr h * 2 ^ 6)

/-- The ETAG of the request that a packet belongs to. -/
def Niu.etagOf (x : Niu) (p : InjP) : Nat :=
  if p.posted then ((Tab.get dNone x.pwb p.tag).map Pwb.etag).getD 0 else ((Tab.get dNone x.trk p.tag).map (fun t => qEtag t.hdr)).getD 0

/-- Keep the copy of a packet for resending: its head and payload, in posted writes of the service NIU into the slot SEQ mod 64 of
the flow's replay block (R117, R238; log entry 16). -/
def Mach.keepCopy (m : Mach) (n : Nat) (p : Pkt) (e : FlitBits) : Mach :=
  let f := hFlow p.hd
  let slot := bf (hSeq p.hd) 0 6
  let m := { m with replay := Tab.set dNone m.replay (f.toNat * 64 + slot) (some p) }
  let body := p.hd :: p.data
  (copySegs slot p.copyLen).foldl (fun m g =>
    let part := (body.drop ((g.1 - 320 * slot) / 64)).take (cdiv g.2 64)
    let inl : BitVec 128 := if g.2 ≤ 16 then BitVec.ofNat 128 (bf (part.headD 0) 0 (8 * g.2)) else 0
    (m.serviceReq (niuService n) opWRP 1 (bf m.tblRead 48 10) (eReplay e * 4096 + g.1) g.2 0xFFFF inl (if g.2 ≤ 16 then [] else part)
      (.replayWrite n f (hSeq p.hd))).getD m) m

/-- The release of a request packet that has passed the checks (R96, R117, R118, R249). -/
def Mach.releaseReq (m : Mach) (n i k lvl : Nat) (p : InjP) : Mach :=
  let ep := m.epochOf n
  let r := m.numberPkt n p
  let m := r.2
  let h := sf (sf p.pkt.hd 53 3 ep) 176 16 r.1.toNat
  let h := hSetSpn (hSetSph (sf h 222 6 0) false) (m.spnDst (epTile n) (niuPort n) h ep)
  let pk : Pkt := { p.pkt with hd := h }
  let ent := ((m.niu n).entry (hFlow h)).map FcE.ent
  let eo := decide (hDmode h = 2 ∧ hOpc h ≠ opRED)
  let ticks : Option Nat :=
    if eo && (hOpc h != opMSG || hLast h) then ent.map (fun e => if eRetx e = 0 then 100 else eRetx e) else none
  let m := m.modNiu n (fun x =>
    { (x.charge n k lvl pk) with inj := dropAt x.inj i, eoDone := if eo && !p.resend then x.eoDone.filter (fun q => q ≠ (hFlow h, r.1)) else x.eoDone })
  let m := m.modNiu n (fun x =>
    if p.posted then x.modPwb p.tag (fun w => { w with rel := true, seq := r.1, ddl := if eo then ticks else w.ddl })
    else x.modTrk p.tag (fun t =>
      { t with seqs := if p.resend then t.seqs else t.seqs ++ [r.1], ddl := if ticks.isSome then ticks else t.ddl }))
  let m := match ent with
    | some e => if eo && !p.resend then m.keepCopy n pk e else m
    | none => m
  let m := if hDmode h = 1 ∧ n < 512 then m.mirrorRec 5 n (hFlow h) r.1 (hDst h * 2 ^ 72) else m
  let m := if hDmode h ≠ 0 then m.modTwin (fun t => { t with fresh := false }) else m
  let m := if p.resend then m.countNiu n 0x08 none none 1 h else m
  let m := (m.countNiu n 1 (some k) (some (hTc h)) 1 h).countNiu n 2 (some k) (some (hTc h)) (1 + hNdata h) h
  ((m.enter n pk).modNiu n (fun x => x.idleTags n lvl)).settleFlows n

/-- A selected request packet: the checks of R94 step 4, its source record where mirroring runs (R134), then its release. The record
holds the number that the release will stamp: only released packets consume one (R96). A RED, whose DST_EP is its own endpoint, is
not checked for UNROUTABLE but is for DOMAIN_OFF (DESIGN CHOICE, log entry 106). -/
def Mach.chooseReq (m : Mach) (n i k lvl : Nat) (p : InjP) : Mach :=
  let h := p.pkt.hd
  let st : Option Nat :=
    if m.fenced n (hTile h) then some sDOMOFF
    else if hOpc h ≠ opRED ∧ bt (m.imgOf (m.epochOf n)).1.unr (hTile h) = true then some sUNROUTE
    else none
  match st with
  | some c => (m.failRelease n p c).settleFlows n
  | none =>
    if hDmode h = 2 ∧ hOpc h ≠ opRED ∧ p.resend = false ∧ p.mir = none ∧ m.mirrors = true then
      let s := m.srcRec n h ((m.niu n).etagOf p) ((m.niu n).nextSeq n p)
      s.2.modNiu n (fun x => { x with inj := modAt (fun p => { p with mir := some s.1 }) x.inj i })
    else m.releaseReq n i k lvl p

end Sys2Proof.Machine
end

