-- ==== Sys2Proof/Machine/Guard.lean ====
section
/-! DEFINITION. Access guards (R298 to R311): the check, denials, and the instructions GD.SET, GD.LOCK and GD.SYNC. -/

namespace Sys2Proof.Machine

/-- The guard of an external NIU. -/
def State.guard (s : State) (n : Nat) : Guard := Tab.get dGuard s.guards n

/-- The four words of a region (R310). -/
def Guard.start (g : Guard) (r : Nat) : Word := Tab.get dW0 g.words (4 * r)
def Guard.fin (g : Guard) (r : Nat) : Word := Tab.get dW0 g.words (4 * r + 1)
def Guard.rules (g : Guard) (r k : Nat) : Word := Tab.get dW0 g.words (4 * r + 2 + k / 2)

/-- Whether region `r` covers a key of the space (R299, R301). -/
def Guard.covers (g : Guard) (queue : Bool) (b r : Nat) : Bool :=
  let s := g.start r
  bt s 63 && (if queue then bf s 61 2 == 2 else decide (bf s 61 2 < 2)) &&
  decide (bf s 6 42 * 64 ≤ b ∧ b ≤ bf (g.fin r) 6 42 * 64)

/-- The region that decides a key: locked ones first, the lowest number (R301). -/
def Guard.region (g : Guard) (queue : Bool) (b : Nat) : Option Nat :=
  (lowest (fun r => g.covers queue b r && bt g.lock r) 16).orElse
    (fun _ => lowest (fun r => g.covers queue b r && !bt g.lock r) 16)

/-- Whether rule `i` of a region is enabled and matches a MID (R301). -/
def Guard.ruleHits (g : Guard) (r mid i : Nat) : Bool :=
  let w := g.rules r i
  let v := bf w (32 * (i % 2)) 16
  let k := bf w (32 * (i % 2) + 16) 16
  bt (g.fin r) (52 + i) && decide (mid &&& k = v &&& k)

/-- A refusal: reason, deciding region (0x10 for none), key, and whether what decided was locked (R301, R308). -/
structure Denial where
  reason : Nat
  region : Nat
  key    : Nat
  locked : Bool
deriving DecidableEq, Repr

/-- The check of one key (R301): the packet's MID, DBG, DMODE and the needs R and W. -/
def Guard.checkKey (g : Guard) (queue : Bool) (mid dmode : Nat) (dbg nr nw : Bool) (b : Nat) : Option Denial :=
  match g.region queue b with
  | none => if g.deny then some ⟨0, 0x10, b, bt g.lock 16⟩ else none
  | some r =>
    let no (c : Nat) : Option Denial := some ⟨c, r, b, bt g.lock r⟩
    if bt (g.start r) 60 && dbg then no 1
    else if bf (g.start r) 61 2 = 1 ∧ dmode ≠ 1 then no 2
    else match lowest (g.ruleHits r mid) 4 with
      | none => no 3
      | some i =>
        if (nr && !bt (g.fin r) (56 + 2 * i)) || (nw && !bt (g.fin r) (57 + 2 * i)) then no 4 else none

/-- The keys of a packet (R301). -/
def guardKeys (h : FlitBits) : List Nat :=
  if hOpc h = opMSG ∧ hMq h < 63 then [64 * hMq h]
  else
    let a := hAddr h / 64
    let z := (hAddr h + hLen h - 1) / 64
    (List.range (z + 1 - a)).map (fun i => 64 * (a + i))

/-- The check of a packet (R301): none where it is admitted. -/
def Guard.check (g : Guard) (h : FlitBits) : Option Denial :=
  let queue := hOpc h = opMSG ∧ hMq h < 63
  (guardKeys h).findSome? (fun b =>
    g.checkKey (decide queue) (hMid h) (hDmode h) (hDbg h) (hOpc h == opRD || hOpc h == opATM) (hOpc h != opRD) b)

/-- The denial record of R311: GD_LOG0 in the lower half, GD_LOG1 in the upper. -/
def denyRecord (h : FlitBits) (d : Denial) (us : Nat) : BitVec 128 :=
  mkf 128 48 16 (hMid h) ||| mkf 128 0 48 d.key ||| mkf 128 127 1 1 ||| mkf 128 126 1 (b1 (hDbg h)) |||
  mkf 128 125 1 (b1 d.locked) ||| mkf 128 (64 + 55) 6 (hOpc h) ||| mkf 128 (64 + 49) 6 (hMq h) |||
  mkf 128 (64 + 44) 5 d.region ||| mkf 128 (64 + 41) 3 d.reason ||| mkf 128 (64 + 25) 16 (hFlow h).toNat |||
  mkf 128 64 25 us

/-- A refusal is counted, logged and reported (R308, R451). -/
def Mach.deny (m : Mach) (n : Nat) (h : FlitBits) (d : Denial) : Mach :=
  let m := (m.addFld (aGd n 0x28) 32 32 1).countNiu n 0x0E none none 1 h
  let m := if hDbg h then m.addFld (aGd n 0x28) 16 16 1 else m
  let m := if hDbg h && d.locked then m.occur 11 0 3 n d.region 1 else m
  let l := (m.niu n).gLog
  if 8 ≤ l.length then m.orReg (aGd n 0x08) (2 ^ 31)
  else
    let m := m.modNiu n (fun x => { x with gLog := x.gLog ++ [denyRecord h d m.ftUs] })
    if l.isEmpty then m.postEvt (niuQe n) 5 0 0 n else m

/-- Admit an access: it counts in NEW (R306). -/
def Niu.admitted (x : Niu) : Niu := { x with gNew := x.gNew + 1 }

/-- End one admitted access of the generation it was counted in (R306). -/
def Niu.endAccess (x : Niu) (g : Nat) : Niu :=
  if g = x.gSer then { x with gNew := x.gNew - 1 } else { x with gOld := x.gOld - 1 }

/-- End several admitted accesses. -/
def Niu.endAll (x : Niu) (l : List Nat) : Niu := l.foldl Niu.endAccess x

/-- GD_SYNC_COMPLETE (R306): OLD has reached zero with a GD.SYNC pending; it completes. -/
def execGdSyncComplete (ep : Ep) (s : State) : Out :=
  s.on (fun m =>
    match (m.niu ep).gSync with
    | some e =>
      if (m.niu ep).gOld = 0 then
        ((m.modNiu ep (fun x => { x with gSync := none })).modEng e (fun x =>
          if x.wait = .sync ep then { x with wait := .done xOK [], limit := none } else x))
      else m
    | none => m)

/-- A command that changes the guard configuration too. -/
def State.onS (s : State) (f : State → State) : Out := .next (if s.m.test.scan then s else f s)

/-- Issue an instruction whose meaning changes the guard configuration (R315, R339); see `Mach.issue`. -/
def State.issue (s : State) (e opc : Nat) (sel : Word → Bool) (body : Word → State → State) : State :=
  match s.m.fetch e with
  | .word w =>
    if usedBits w = none ∨ (wOpc w = opc ∧ sel w = true) then
      let s := { s with m := (s.m.readPc e).modEng e (fun x => { x with insn := w }) }
      if legalWord w && (hasStatus w || !wT w) then body w s else { s with m := s.m.haltFault e xILLEGAL }
    else s
  | _ => { s with m := s.m.issue e opc sel (fun _ m => m) }

/-- End at the engine, by the gate or by a row's own result. -/
def State.endSt (s : State) (e st : Nat) : State := { s with m := s.m.endStatus e st [] }

/-- The endpoint of a GD instruction: its scope (R343) where the selector names one, and the external endpoint. -/
def gdScope (e : Nat) (v : Word) : Bool :=
  match selEp v with
  | none => true
  | some ep => inScope e (epQuad ep)
def gdEp (v : Word) : Option Nat := selRange v 10 512

/-- Change one guard's configuration. -/
def State.setGuard (s : State) (n : Nat) (f : Guard → Guard) : State :=
  { s with guards := Tab.upd dGuard s.guards n f }

/-- Whether a region descriptor is in range (R305). -/
def gdDescOk (s f : Word) : Bool :=
  bf s 48 12 == 0 && bf s 0 6 == 0 && bf f 48 4 == 0 && bf f 0 6 == 0 && bf s 61 2 != 3 &&
  decide (bf s 6 42 ≤ bf f 6 42) && !(bf s 61 2 == 2 && decide (63 ≤ bf f 6 42))

/-- GD.SET of a region (R305, R361): the whole region in one cycle. The cells are powered from VDD_AON (R300), so the write
takes effect whatever the state of the tile domain (log entry 18). -/
def execGdSet (e : EngId) (s : State) : Out :=
  s.onS (fun s => s.issue e 0xA0 (fun w => !bt w 42) (fun w s =>
      let a := (s.m.eng e).reg (wA w)
      match s.m.gate e false (gdScope e a) false with
      | some st => s.endSt e st
      | none =>
        if wSadr w % 8 ≠ 0 then { s with m := s.m.haltFault e xALIGN } else
        let s := { s with m := s.m.readWords e (wSadr w) 4 }
        let d := s.m.descWord e w
        let r := bf w 0 4
        match gdEp a with
        | none => s.endSt e xRANGE
        | some ep =>
          if !gdDescOk (d 0) (d 1) then s.endSt e xRANGE
          else if bt (s.guard ep).lock r then s.endSt e xSTATE
          else
            let s := s.setGuard ep (fun g =>
              { g with words := (List.range 4).foldl (fun t i => Tab.set dW0 t (4 * r + i) (d i)) g.words })
            { s with m := s.m.done e xOK [] }))

/-- GD.SET of the default policy (R305, R361). -/
def execGdSetDefault (e : EngId) (s : State) : Out :=
  s.onS (fun s => s.issue e 0xA0 (fun w => bt w 42) (fun w s =>
    let a := (s.m.eng e).reg (wA w)
    let b := (s.m.eng e).reg (wB w)
    match s.m.gate e false (gdScope e a) false with
    | some st => s.endSt e st
    | none =>
      match gdEp a with
      | none => s.endSt e xRANGE
      | some ep =>
        if 2 ≤ b.toNat then s.endSt e xRANGE
        else if bt (s.guard ep).lock 16 then s.endSt e xSTATE
        else
          let s := s.setGuard ep (fun g => { g with deny := bt b 0 })
          { s with m := s.m.done e xOK [] }))

/-- GD.LOCK (R307, R361): lock bits are only ever set. -/
def execGdLock (e : EngId) (s : State) : Out :=
  s.onS (fun s => s.issue e 0xA1 anyWord (fun w s =>
    let a := (s.m.eng e).reg (wA w)
    match s.m.gate e false (gdScope e a) false with
    | some st => s.endSt e st
    | none =>
      let k := bf w 0 17
      match gdEp a with
      | none => s.endSt e xRANGE
      | some ep =>
        if k = 0 then s.endSt e xRANGE
        else
          let s := s.setGuard ep (fun g => { g with lock := g.lock ||| BitVec.ofNat 17 k })
          { s with m := s.m.done e xOK [] }))

/-- GD.SYNC (R306, R361): NEW moves into OLD; it completes when OLD is zero, at once where the domain is not powered. -/
def execGdSync (e : EngId) (s : State) : Out :=
  s.on (fun m => m.issue e 0xA2 anyWord (fun w m =>
    let a := (m.eng e).reg (wA w)
    m.status e false (gdScope e a) false (fun m =>
      match gdEp a with
      | none => m.endStatus e xRANGE []
      | some ep =>
        if !m.domLive (epTile ep) then m.done e xOK []
        else if (m.niu ep).gSync.isSome then m.endStatus e xBUSY []
        else
          let m := m.modNiu ep (fun x =>
            { x with gOld := x.gOld + x.gNew, gNew := 0, gSer := x.gSer + 1, gSync := some e })
          (m.setWait e (.sync ep)).startLimit e (wLimit w))))

/-- A host write to GD_LOG_POP (R309, R311): a 1 removes the oldest record. -/
def Mach.gdPop (m : Mach) (n : Nat) (v : Word) : Mach :=
  if bt v 0 && m.domLive (epTile n) then m.modNiu n (fun x => { x with gLog := x.gLog.drop 1 }) else m

/-- GD_LOG_POP (R309, R311). -/
def execGdLogPop (ep : Ep) (v : Word) (priv : Bool) (mid : BitVec 16) (s : State) : Out :=
  s.hostWrite (aGd ep 0x20) v true priv mid (fun m => m.gdPop ep v)

end Sys2Proof.Machine
end

