-- ==== Sys2Proof/Machine/Eject.lean ====
section
/-! DEFINITION. Arrival of request packets at a target NIU: the checks of R105 steps 1 to 3, the receive window (R126), the
order of R106, reassembly contexts (R107 to R111), and the answers they give. -/

namespace Sys2Proof.Machine

/-- Whether one more response finds room in the RSP injection space (R93). -/
def Niu.rspRoom (x : Niu) : Bool := decide (x.rspInj.length < 32)

/-- Put a response in the RSP injection space. -/
def Mach.putRsp (m : Mach) (n : Nat) (p : Pkt) (eo : List (BitVec 16)) (mir : Option Nat) : Mach :=
  m.modNiu n (fun x => { x with rspInj := x.rspInj ++ [⟨mir, eo, false, p⟩] })

/-- The reassembly context of a packet (R107). -/
def Ctx.isOf (c : Ctx) (h : FlitBits) : Bool := decide (c.src = hSrc h ∧ c.flow = hFlow h ∧ c.msg = hMsgId h)
def Niu.ctxOf (x : Niu) (h : FlitBits) : Option Ctx := x.ctxs.find? (fun c => c.isOf h)
def Niu.modCtx (x : Niu) (h : FlitBits) (f : Ctx → Ctx) : Niu :=
  { x with ctxs := x.ctxs.map (fun c => if c.isOf h then f c else c) }
def Niu.freeCtx (x : Niu) (h : FlitBits) : Niu := { x with ctxs := x.ctxs.filter (fun c => !c.isOf h) }

/-- Whether a packet belongs to a multi-packet message (R107), and whether it closes one (R110). -/
def hMulti (h : FlitBits) : Bool := hOpc h == opMSG && !(hLast h && hIdx h == 0)
def hCloses (h : FlitBits) : Bool := hOpc h == opMSG && hLast h && hLen h == 0

/-- Whether a packet of a message would find its index present, or out of range (R107). -/
def Ctx.strays (c : Ctx) (h : FlitBits) : Bool :=
  !hCloses h && (bt c.map (hIdx h) || (match c.pcnt with
    | some k => decide (k ≤ hIdx h)
    | none => false))

/-- Bits 0 to `k` - 1. -/
def lowMask (k : Nat) : BitVec 64 := BitVec.ofNat 64 (2 ^ k - 1)

/-- Whether a map of indices holds every packet of a context's message. -/
def Ctx.covers (c : Ctx) (map : BitVec 64) : Bool :=
  match c.pcnt with
  | some k => map &&& lowMask k == lowMask k
  | none => false

/-- Whether every packet of a context's message has arrived (R107). -/
def Ctx.complete (c : Ctx) : Bool := c.covers c.map

/-- A packet of a message has been dealt with at step 4 of R105. -/
def Ctx.deal (c : Ctx) (h : FlitBits) : Ctx := { c with checked := c.checked ||| BitVec.ofNat 64 (2 ^ hIdx h) }

/-- The refill ticks of a reassembly timeout of `us` µs; 0 disables it (R111, R113). -/
def reasmTicks (us : Nat) : Option Nat := if us = 0 then none else some (us * 50)

/-- Count strays (R101, R107). -/
def Mach.strays (m : Mach) (n k : Nat) : Mach :=
  if k = 0 then m else (m.addFld (aNiu n 0x40) 0 16 k).orReg (aNiu n 0x30) (2 ^ 2)
def Mach.stray (m : Mach) (n : Nat) : Mach := m.strays n 1

/-- A new reassembly context for a packet (R107). REASM_TO is taken at the allocation: a later write of it does not reach the
context (DESIGN CHOICE, log entry 109). -/
def Mach.newCtx (m : Mach) (n : Nat) (h : FlitBits) : Ctx :=
  { src := hSrc h, flow := hFlow h, msg := hMsgId h, mem := hMq h == 63, map := 0, pcnt := none, hd := h, pkts := [], gens := [],
    seqs := [], checked := 0, fail := none, out := 0, closed := false, ticks := reasmTicks (m.fld (aNiu n 0x08) 0 8) }

/-- What a context becomes with the arrival of a packet (R107, R110): the closing packet completes it at once; with the packet of
LAST = 1 the packets held under an index of PKT_CNT or more go. The head kept for the one MAK, which gives it SEQ and ADDR, is that of
the packet of LAST = 1 or of the closing packet (DESIGN CHOICE: R49 does not say which packet of a message the MAK copies, log entry
147). -/
def Ctx.take (c : Ctx) (h : FlitBits) : Ctx :=
  if hCloses h then { c with pcnt := some (hCnt h), hd := h, ticks := none }
  else
    let map := c.map ||| BitVec.ofNat 64 (2 ^ hIdx h)
    let c :=
      if hLast h then
        let keep := (c.pkts.zip c.gens).filter (fun q => decide (hIdx q.1.hd < hCnt h))
        { c with map := map &&& lowMask (hCnt h), pcnt := some (hCnt h), hd := h, pkts := keep.map Prod.fst, gens := keep.map Prod.snd }
      else { c with map := map }
    if c.complete then { c with ticks := none } else c

/-- Record the arrival of a packet in its context, allocating it first (R107, R110, R111). What the packet of LAST = 1 shows to have
come under an index of PKT_CNT or more was a stray: it is discarded, in the context or still in line. -/
def Mach.arrive (m : Mach) (n : Nat) (h : FlitBits) (eo : Bool) : Mach :=
  let m := m.modNiu n (fun x => if (x.ctxOf h).isSome then x else { x with ctxs := x.ctxs ++ [m.newCtx n h] })
  let c := ((m.niu n).ctxOf h).getD (m.newCtx n h)
  let d := c.take h
  let late := if hLast h && !hCloses h then (c.pkts.zip c.gens).filter (fun q => decide (hCnt h ≤ hIdx q.1.hd)) else []
  let past (r : Pres) : Bool :=
    hLast h && !hCloses h && (r.kind == .qpart || r.kind == .mpart) && c.isOf r.pkt.hd && decide (hCnt h ≤ hIdx r.pkt.hd)
  let m := m.modNiu n (fun x =>
    let x := (x.ready.filter past).foldl (fun x r => (x.endAll r.adm.toList).takeEj r.vc) x
    ({ x with ready := x.ready.filter (fun r => !past r) }.endAll (late.map Prod.snd)).modCtx h
      (fun _ => { d with seqs := if eo then c.seqs ++ [hSeq h] else c.seqs }))
  m.strays n (if hLast h && !hCloses h then pop (c.map &&& ~~~(lowMask (hCnt h))) 64 else 0)

/-- Note a failed packet of a message: the code of the first failing packet in PKT_IDX order decides (R61). -/
def Ctx.note (c : Ctx) (idx st : Nat) : Ctx :=
  { c with fail := match c.fail with
      | some (i, s) => if idx < i then some (idx, st) else some (i, s)
      | none => some (idx, st) }

/-- Put a message that is whole in line: before what is in line of its flow, where that came after its packets (R106), else at the
end. -/
def Niu.lineUp (x : Niu) (r : Pres) (front : Bool) : Niu :=
  let later (q : Pres) : Bool := front && q.kind != .service && decide (hFlow q.pkt.hd = hFlow r.pkt.hd)
  { x with ready := x.ready.takeWhile (fun q => !later q) ++ r :: x.ready.dropWhile (fun q => !later q) }

/-- After a packet of a message has been dealt with: a whole queue message becomes next to present, a memory message is
answered once all its packets are and the RSP injection space has room, a closed one goes (R93, R108, R109, R110). `inLine` says that
the packet was the next of its flow in line: what is in line of the flow arrived after it and comes after its message (R106, R108,
R140). -/
def Mach.ctxStep (m : Mach) (n : Nat) (h : FlitBits) (inLine : Bool) : Mach :=
  match (m.niu n).ctxOf h with
  | none => m
  | some c =>
    if !c.complete || !c.covers c.checked then m
    else if c.closed then m.modNiu n (fun x => x.freeCtx h)
    else if c.mem then
      if c.out ≠ 0 ∨ (m.niu n).rspRoom = false then m
      else (m.putRsp n (rspBare c.hd ((c.fail.map Prod.snd).getD sOK)) c.seqs none).modNiu n (fun x => x.freeCtx h)
    else m.modNiu n (fun x => x.lineUp ⟨.qmsg, ⟨c.hd, [], false⟩, none, false, 0, none, none⟩ inLine)

/-- Memory messages all of whose packets are answered take the room that comes free in the RSP injection space (R93, R109). -/
def Mach.answerMsgs (m : Mach) (n : Nat) : Mach :=
  ((m.niu n).ctxs.filter (fun c => c.mem && !c.closed)).foldl (fun m c => m.ctxStep n c.hd false) m

/-- A packet of a message fails a check (R61): what a queue message holds is discarded, and its accesses end. -/
def Mach.failPart (m : Mach) (n : Nat) (h : FlitBits) (st : Nat) (inLine : Bool) : Mach :=
  let m := m.modNiu n (fun x =>
    match x.ctxOf h with
    | none => x
    | some c =>
      let x := if c.mem then x else x.endAll c.gens
      x.modCtx h (fun c =>
        { (c.note (hIdx h) st).deal h with pkts := if c.mem then c.pkts else [], gens := if c.mem then c.gens else [] }))
  m.ctxStep n h inLine

/-- Whether a packet of a message is discarded as it arrives: its message is closed, its index is PKT_CNT or more, or a packet with
a lower index has failed (R107, R109, R110). -/
def Ctx.drops (c : Ctx) (h : FlitBits) : Bool :=
  c.closed || c.pcnt.any (fun k => decide (k ≤ hIdx h)) || (match c.fail with
    | some (i, _) => decide (i < hIdx h)
    | none => false)

/-- The room an accepted packet needs before it is treated (R98): a context, a store slot. -/
inductive Room where
  | ok | noCtx | noStore
deriving DecidableEq, Repr

def Niu.roomFor (x : Niu) (h : FlitBits) (stored : Bool) : Room :=
  if hMulti h && (x.ctxOf h).isNone && decide (32 ≤ x.ctxs.length) then .noCtx
  else if hOpc h == opMSG && decide (hMq h < 63) && !hCloses h && !stored && decide (64 ≤ x.storeUsed) then .noStore
  else .ok

/-- The packet in ejection VC `vc` is held for storage of one kind, a store slot (0) or a context (1): the bit of NIU_EVT is set and the
fault unit has an occurrence, once for the packet and the kind however long it waits (R98, R451; DESIGN CHOICE: the spec does not say how
often a waiting packet sets them, log entry 150). -/
def Mach.heldAt (m : Mach) (n vc kind : Nat) : Mach :=
  let b := vc + 12 * kind
  if bt (m.niu n).heldEj b then m
  else ((m.modNiu n (fun x => { x with heldEj := x.heldEj ||| BitVec.ofNat 24 (2 ^ b) })).orReg (aNiu n 0x30) (2 ^ kind)).occur 8 kind 3 n 0 1

/-- A packet without room: held at ejection where it stands in an ejection VC (R98). One that keeps its slot of the packet store waits
there and is not held at ejection. -/
def Mach.holdFor (m : Mach) (n : Nat) (vc : Option Nat) (r : Room) : Mach :=
  match vc, r with
  | some v, .noStore => m.heldAt n v 0
  | some v, .noCtx => m.heldAt n v 1
  | _, _ => m

/-- Pass an accepted packet on to be presented (R105 step 4, R107 to R110). The caller has checked for room. `vc` is the
ejection VC it waits in; a packet of a queue message, or one from the packet store, takes a slot instead. A packet of an EXACTLY_ONCE
flow that a closed context discards is marked at once (DESIGN CHOICE: R127 gives no moment for it, log entry 35), and the mark is
mirrored (R134). -/
def Mach.place (m : Mach) (n : Nat) (p : Pkt) (vc : Option Nat) (eo : Bool) : Mach :=
  let h := p.hd
  let queue := hOpc h == opMSG && decide (hMq h < 63)
  let push (m : Mach) (k : TKind) : Mach :=
    let keep := !queue && vc.isSome
    m.modNiu n (fun x =>
      let x := if keep then x else x.takeEj vc
      { x with ready := x.ready ++ [⟨k, p, if keep then vc else none, !keep, 0, none, none⟩] })
  if !hMulti h then push m .plain
  else if ((m.niu n).ctxOf h).any (fun c => c.strays h) then (m.modNiu n (fun x => x.takeEj vc)).stray n
  else
    let m := m.arrive n h eo
    if hCloses h then
      let m := m.modNiu n (fun x =>
        let x := x.takeEj vc
        match x.ctxOf h with
        | none => x
        | some c =>
          let x := if c.mem then x else x.endAll c.gens
          let mine := fun (r : Pres) => c.isOf r.pkt.hd && hMulti r.pkt.hd && !c.mem
          { (x.modCtx h (fun c => (x.ready.filter mine).foldl (fun c r => c.deal r.pkt.hd) { c with closed := true, pkts := [], gens := [] })) with ready := x.ready.filter (fun r => !mine r) })
      let seqs := (((m.niu n).ctxOf h).map Ctx.seqs).getD []
      (m.putRsp n (rspBare h sOK) seqs none).ctxStep n h false
    else if ((m.niu n).ctxOf h).any (fun c => c.drops h) then
      let late := eo && ((m.niu n).ctxOf h).any Ctx.closed
      let m := if late && m.mirrors then (m.rxRec n h false).2 else m
      (m.modNiu n (fun x =>
        let x := if late then x.rxMarks (hFlow h) [hSeq h] none else x
        (x.takeEj vc).modCtx h (fun c => c.deal h))).ctxStep n h false
    else push m (if queue then .qpart else .mpart)

/-- A packet that fails a check on arrival is answered, a packet of a message through its context (R61, R105); the flag says whether
it has been. Without room for the answer, or without a context (R98), it waits where it is: that a full RSP injection space holds it
is the model's reading (DEDUCED: R98 names ep_treq_ready = 0 and 256 TTAGs alone, and R93 leaves 32 places, log entry 149). -/
def Mach.refuse (m : Mach) (n : Nat) (p : Pkt) (vc : Option Nat) (st : Nat) : Mach × Bool :=
  let x := m.niu n
  let h := p.hd
  if !x.rspRoom then (m, false)
  else if hMulti h && !hCloses h then
    if x.roomFor h true ≠ .ok then (m.holdFor n vc .noCtx, false)
    else if (x.ctxOf h).any (fun c => c.strays h) then ((m.modNiu n (fun x => x.takeEj vc)).stray n, true)
    else (((m.modNiu n (fun x => x.takeEj vc)).arrive n h false).failPart n h st false, true)
  else ((m.modNiu n (fun x => x.takeEj vc)).putRsp n (rspBare h st) [] none, true)

/-- Packets of a flow reset that keep their slots until their answers find room (R106). -/
def Mach.answerOwed (m : Mach) (n : Nat) : Nat → Mach
  | 0 => m
  | k + 1 =>
    match (m.niu n).owed with
    | [] => m
    | (p, st) :: rest =>
      let r := (m.modNiu n (fun x => { x with owed := rest })).refuse n p none st
      if r.2 then r.1.answerOwed n k else r.1.modNiu n (fun x => { x with owed := (p, st) :: x.owed })

/-- Move what the packet store holds next in order toward presentation (R106), as far as there is room. -/
def Mach.drainStore (m : Mach) (n : Nat) (f : BitVec 16) : Nat → Mach
  | 0 => m
  | k + 1 =>
    let x := m.niu n
    match x.entry f with
    | none => m
    | some e =>
      match firstIdx (fun (p : Pkt) => decide (hFlow p.hd = f ∧ hSeq p.hd = eNext e.ent)) x.store with
      | none => m
      | some (i, p) =>
        if x.roomFor p.hd true ≠ .ok ∨ (hCloses p.hd = true ∧ x.rspRoom = false) then m
        else
          let m := m.modNiu n (fun x =>
            { (x.setRecv f (fun g => sf g 304 16 (eNext e.ent + 1).toNat)) with store := dropAt x.store i })
          (m.place n p none false).drainStore n f k

/-- The verdict of R126 on a packet of an EXACTLY_ONCE flow, with the entry after it and whether atomic results go. -/
inductive Verdict where
  | accept (ent : FlitBits) (fresh : Bool)
  | stale (ent : FlitBits)
  | again (ent : FlitBits)
  | late (ent : FlitBits) (fresh : Bool)
  | resync (ent : FlitBits)
deriving DecidableEq, Repr

/-- `new_epoch` of R126. -/
def newEpoch (ent h : FlitBits) : FlitBits :=
  sf (sf (sf (sf (sf ent 257 8 (hSrcInc h).toNat) 273 16 (hSeq h - 1).toNat) 320 64 0) 384 64 0) 256 1 1

/-- The procedure of R126. -/
def rxWindow (ent h : FlitBits) (pend : Bool) : Verdict :=
  let go (ent : FlitBits) (fresh : Bool) : Verdict :=
    let a := seqDist (hSeq h) (eTop ent)
    let b := seqDist (eTop ent) (hSeq h)
    if 1 ≤ a ∧ a ≤ 64 then
      .accept (sf (sf (sf ent 320 64 ((eMap ent) <<< a).toNat) 384 64 ((eErr ent) <<< a).toNat) 273 16 (hSeq h).toNat) fresh
    else if b ≤ 63 then (if bt (eMap ent) b || pend then .again ent else .accept ent fresh)
    else if b ≤ 32767 then .late ent fresh
    else .resync (sf (sf (sf ent 273 16 (hSeq h).toNat) 320 64 1) 384 64 1)
  if eRxState ent = false then go (newEpoch (sf ent 265 8 (hSrcInc h).toNat) h) true
  else if hSrcInc h ≠ eSInc ent then
    if hSrcInc h = ePInc ent then .stale ent
    else go (newEpoch (sf ent 265 8 (eSInc ent).toNat) h) true
  else go ent false

/-- Write the receive half of an entry, freeing the atomic results that R130 frees. -/
def Niu.setWindow (x : Niu) (f : BitVec 16) (ent : FlitBits) (fresh : Bool) : Niu :=
  let x := match x.entry f with
    | some e => if e.ent = ent then x else x.setRecv f (fun _ => ent)
    | none => x
  { x with atoms := x.atoms.filter (fun a => decide (a.1 ≠ f) || (!fresh && decide (seqDist (eTop ent) a.2.1 < 64))) }

/-- A packet of an EXACTLY_ONCE flow at step 2 of R105 (R126, R128): the machine after it, and whether the packet has been dealt
with. An accepted packet that R107 discards as a stray is neither pending nor marked (DESIGN CHOICE: the spec does not say, log entry
132). A reset of the window is mirrored, as an RXMARK with ERR that resets the twin's (R134, R408). -/
def Mach.ejectEo (m : Mach) (n vc : Nat) (p : Pkt) (ent : FlitBits) : Mach × Bool :=
  let h := p.hd
  let f := hFlow h
  let x := m.niu n
  match rxWindow ent h (x.eoPend.contains (f, hSeq h)) with
  | .stale _ => m.refuse n p (some vc) sSTALE
  | .resync ent' =>
    if m.mirrors && !m.recRoom then (m, false)
    else
      let r := m.refuse n p (some vc) sRESYNC
      if r.2 then
        let m := (r.1.modNiu n (fun x => x.setWindow f ent' true)).countNiu n 0x0C none none 1 h
        (if m.mirrors then (m.rxRec n h true).2 else m, true)
      else r
  | .late ent' fresh => ((m.modNiu n (fun x => (x.takeEj (some vc)).setWindow f ent' fresh)).countNiu n 0x0B none none 1 h, true)
  | .again ent' =>
    let m := (m.modNiu n (fun x => x.setWindow f ent' false)).countNiu n 0x09 none none 1 h
    if x.eoPend.contains (f, hSeq h) || (hOpc h == opMSG && !hLast h) then (m.modNiu n (fun x => x.takeEj (some vc)), true)
    else (m.modNiu n (fun x => { x with ready := x.ready ++ [⟨.dup, p, some vc, false, 0, none, none⟩] }), true)
  | .accept ent' fresh =>
    let r := x.roomFor h false
    if r ≠ .ok then (m.holdFor n (some vc) r, false)
    else if hCloses h && !x.rspRoom then (m, false)
    else
      let stray := hMulti h && (x.ctxOf h).any (fun c => c.strays h)
      let m := m.modNiu n (fun x =>
        { (x.setWindow f ent' fresh) with eoPend := if stray then x.eoPend else x.eoPend ++ [(f, hSeq h)] })
      (m.place n p (some vc) true, true)

/-- The flow reset of R106: every early packet of the flow in the packet store is answered FLOW_RESYNC. Packets that stand in the store
for a queue message whose context holds them, or for the presentation, stay (DESIGN CHOICE: they have had their turn, and R106 speaks of
the packets held there without setting them apart, log entry 151). -/
def Mach.resetOrder (m : Mach) (n : Nat) (f seq : BitVec 16) : Mach :=
  let mine := (m.niu n).store.filter (fun p => hFlow p.hd = f)
  (m.modNiu n (fun x =>
    { (x.setRecv f (fun g => sf g 304 16 (seq + 1).toNat)) with
      store := x.store.filter (fun p => hFlow p.hd ≠ f), owed := x.owed ++ mine.map (fun p => (p, sRESYNC)) })).answerOwed n 64

/-- A packet of an ORDERED flow at step 3 of R105 (R106). -/
def Mach.ejectOrdered (m : Mach) (n vc : Nat) (p : Pkt) (ent : FlitBits) : Mach × Bool :=
  let h := p.hd
  let f := hFlow h
  let x := m.niu n
  let d := seqDist (hSeq h) (eNext ent)
  if d = 0 then
    let r := x.roomFor h false
    if r ≠ .ok then (m.holdFor n (some vc) r, false)
    else if hCloses h && !x.rspRoom then (m, false)
    else
      let m := m.modNiu n (fun x => x.setRecv f (fun g => sf g 304 16 (hSeq h + 1).toNat))
      ((m.place n p (some vc) false).drainStore n f 64, true)
  else if d < 64 then
    if 64 ≤ x.storeUsed then (m.holdFor n (some vc) .noStore, false)
    else ((m.modNiu n (fun x => { (x.takeEj (some vc)) with store := x.store ++ [p] })).countNiu n 7 none (some (hTc h)) 1 h, true)
  else
    let r := m.refuse n p (some vc) sRESYNC
    if r.2 then (r.1.resetOrder n f (hSeq h), true) else r

/-- The lookup of a receive half has hit (R238, R255): the entry is the most recently used, and one read from the table counts
unless the packet had missed. -/
def Mach.lookedUp (m : Mach) (n : Nat) (first : Bool) (e : FcE) : Mach :=
  let m := m.modNiu n (fun x => x.touch e.flow)
  if first && !e.dflt then m.addFld (aSch n 0x08) 32 32 1 else m

/-- A request packet at the head of an ejection VC (R105 steps 1 to 3): the machine after it, and whether the packet has been dealt
with; else it waits there, as it does while a record of the dead twin waits for the flow's entry (R413). -/
def Mach.eject (m : Mach) (n vc : Nat) (p : Pkt) : Mach × Bool :=
  let h := p.hd
  let x := m.niu n
  if !opReq (hOpc h) || hOpc h == opRED then
    ((m.modNiu n (fun x => x.takeEj (some vc))).occur 2 0 4 (epTile n) 0 1, true)
  else if x.safe then m.refuse n p (some vc) sSAFE
  else if hDstInc h ≠ x.inc then m.refuse n p (some vc) sSTALE
  else if hDmode h = 0 then
    let r := x.roomFor h false
    if r ≠ .ok then (m.holdFor n (some vc) r, false)
    else if hCloses h && !x.rspRoom then (m, false)
    else (m.place n p (some vc) false, true)
  else
    let bad (m : Mach) : Mach × Bool :=
      let r := m.refuse n p (some vc) sRESYNC
      if r.2 then ((r.1.orReg (aSch n 0x20) (2 ^ 2)).addFld (aSch n 0x28) 0 16 1, true) else r
    if m.recWaits n (hFlow h) then (m.wantEntry n (hFlow h), false)
    else match x.entry (hFlow h) with
    | none =>
      if x.rxBad.contains (hFlow h) then
        let r := bad m
        if r.2 then (r.1.modNiu n (fun x => { x with rxBad := x.rxBad.erase (hFlow h) }), true) else r
      else ((m.wantEntry n (hFlow h)).modNiu n (fun x => { x with missEj := x.missEj ||| BitVec.ofNat 12 (2 ^ vc) }), false)
    | some e =>
      let r :=
        if eV e.ent = false ∨ eDst e.ent ≠ n ∨ m.carries (hFlow h) = false then bad m
        else if hDmode h = 2 then m.ejectEo n vc p e.ent
        else m.ejectOrdered n vc p e.ent
      if r.2 then ((r.1.lookedUp n (!bt x.missEj vc) e), true) else r

/-- PACKET_EJECT (R105): the packet whole in an ejection VC of the NIU, when it is not waiting there to be presented or to be taken
by the endpoint. -/
def execPacketEject (ep : Ep) (vc : Vc) (s : State) : Out :=
  s.on (fun m =>
    let n := ep.val
    let x := m.niu n
    match x.ejected vc with
    | none => m
    | some p =>
      if x.ready.any (fun r => r.vc == some vc.val) || x.treqVc == some vc.val then m
      else
        let r := m.eject n vc p
        if r.2 then (r.1.mirror (epTile n) 2 0 (vcOf p.hd) p.hd).countNiu n 3 none (some (hTc p.hd)) 1 p.hd else r.1)

/-- REASM_TIMEOUT (R111): a context whose count of refill ticks is exhausted is freed, with its slots and accesses; no MAK,
no mark. -/
def execReasmTimeout (ep : Ep) (flow : BitVec 16) (src : BitVec 10) (msg : BitVec 8) (s : State) : Out :=
  s.on (fun m =>
    let n := ep.val
    match (m.niu n).ctxs.find? (fun c => decide (c.src = src.toNat ∧ c.flow = flow ∧ c.msg = msg.toNat)) with
    | none => m
    | some c =>
      if c.ticks ≠ some 0 then m
      else
        let mine := fun (r : Pres) => c.isOf r.pkt.hd && hMulti r.pkt.hd
        let m := m.modNiu n (fun x =>
          let x := (if c.mem then x else x.endAll c.gens).endAll ((x.ready.filter mine).filterMap Pres.adm)
          let x := (x.ready.filter mine).foldl (fun x r => x.takeEj r.vc) x
          { (x.freeCtx c.hd) with ready := x.ready.filter (fun r => !mine r), eoPend := x.eoPend.filter (fun q => !(decide (q.1 = flow) && c.seqs.contains q.2)) })
        (m.addFld (aNiu n 0x40) 16 16 1).orReg (aNiu n 0x30) (2 ^ 3))

end Sys2Proof.Machine
end

