-- ==== Sys2Proof/Machine/TwinLink.lean ====
section
/-! DEFINITION. What the twin unit does beside the link (R400 to R405, R415): state changes, the plane map, control frames,
notices and the end of a move. -/

namespace Sys2Proof.Machine

/-- Registers of the twin unit (R419). -/
def aTwCfg : Nat := 0xE0008
def aTwEvt : Nat := 0xE0010
def aTwCnt : Nat := 0xE0018

/-- Post a TWIN event to the master (R329). -/
def Mach.twinEvt (m : Mach) (kind src : Nat) : Mach := m.postEvt 0 9 kind m.twin.st.code src

/-- Enter a twin state: STATE_CHG; MISSED is zero in DOWN (R411, R419). `kind` is the event of R329 that reports it. -/
def Mach.twinState (m : Mach) (s : TwSt) (kind src : Nat) : Mach :=
  if m.twin.st = s then m
  else ((m.modTwin (fun x => { x with st := s, missed := if s = .down then 0 else x.missed })).orReg aTwEvt 1).twinEvt kind src

/-- Queue a CTRL frame (R407). -/
def Mach.sendCtrl (m : Mach) (code a b : Nat) : Mach :=
  m.modTwin (fun x => { x with outq := x.outq ++ [(4, Config.ctrlFrame code a b)] })

/-- Set the plane of a range of flows (R402): ranges that it covers are dropped. -/
def Twin.setPlane (x : Twin) (first last : Nat) (p : Bool) : Twin :=
  { x with map := (first, last, p) :: x.map.filter (fun r => !decide (first ≤ r.1 ∧ r.2.1 ≤ last)) }

/-- One plane carries every flow from now on, and the map says so (R413, R417). -/
def Twin.allTo (x : Twin) (p : Bool) : Twin := { x.setPlane 0 0xFFFF p with whole := none }

/-- End the operation in progress: its engine, where it waits here, gets status `st` (R346, R415). -/
def Mach.endTwinOp (m : Mach) (st : Nat) : Mach :=
  (m.finish .twin st).modTwin (fun x => { x with op := 0, opSelf := false, left := [], flushq := [], flushed := [] })

/-- A move is complete (R415): the map changes, the state is DETACHED after a PL.DETACH and ATTACHED after a PL.MIGRATE, and
arriving flows are released. -/
def Mach.endMove (m : Mach) : Mach :=
  let x := m.twin
  let m := m.modTwin (fun x => x.setPlane x.first x.last x.opTo)
  let m := { m with nius := Tab.mapv dNiu (fun _ x => { x with arrive := false }) m.nius }
  ((m.twinState (if x.op = 3 then .attached else .detached) 2 0).orReg aTwEvt 8).endTwinOp xOK

/-- On the staying plane, the move ends when every notice has been answered and every handshake has completed (R415). -/
def Mach.moveCheck (m : Mach) : Mach :=
  if m.twin.st = .detaching ∧ m.twin.opTo = m.straps.planeB ∧ m.twin.left = [] then (m.sendCtrl 4 0 0).endMove else m

/-- An endpoint has answered its notice: the flush handshake starts (R415). -/
def Mach.noticeDone (m : Mach) (n : Nat) : Mach :=
  let m1 := m.modNiu n (fun x => { x with notice := false })
  if (m.niu n).notice ∧ m.twin.st = .detaching ∧ m.twin.left.contains n = true then m1.sendCtrl 5 n 0 else m1

/-- An endpoint that a move waits for has lost its port for good: nothing of it is waited for any more. -/
def Mach.leftDrop (m : Mach) (l : List Nat) : Mach :=
  if m.twin.left.any (fun n => l.contains n) then
    (m.modTwin (fun x => { x with left := x.left.filter (fun n => !l.contains n) })).moveCheck
  else m

end Sys2Proof.Machine
end

