-- ==== Sys2Proof/Machine/Target.lean ====
section
/-! DEFINITION. Presentation at a target NIU (R105 steps 4 to 6, R108, R109, R128, R134), the target channels (R75, R76,
R112), and port reset as it bears on them (R79). -/

namespace Sys2Proof.Machine

/-- The header beat of a target request (R75). -/
def treqHeader (h : FlitBits) (addr size ttag : Nat) (inl : Nat) : BeatBits :=
  mkf 256 128 128 inl ||| mkf 256 80 48 addr ||| mkf 256 64 16 (hMid h) ||| mkf 256 58 6 (hOpc h) |||
  mkf 256 57 1 (b1 (hDbg h)) ||| mkf 256 52 4 (hSubop h) ||| mkf 256 37 15 size ||| mkf 256 31 6 (hMq h) |||
  mkf 256 23 8 ttag

/-- The beats of a target request: one packet, or a whole queue message with its payload (R75, R108). -/
def treqBeats (h : FlitBits) (size ttag : Nat) (data : List FlitBits) : List BeatBits :=
  let queue := hOpc h = opMSG ∧ hMq h < 63
  treqHeader h (if queue then 0 else hAddr h) size ttag (if data.isEmpty then (hInline h).toNat else 0) :: beatsOf data

/-- Put a target request on the channel (R112): it takes the TTAG given; `seqs` are the numbers it stands for on an EXACTLY_ONCE
flow. The ejection VC or the store slot of a packet stays taken until its delivery (R93). -/
def Mach.present (m : Mach) (n k : Nat) (r : Pres) (size : Nat) (data : List FlitBits) (gens : List Nat) (seqs : List (BitVec 16)) :
    Mach :=
  m.modNiu n (fun x =>
    { x with treq := some (k, treqBeats r.pkt.hd size k data), treqVc := r.vc, treqSlot := r.slot, tt := Tab.set dNone x.tt k (some ⟨r.kind, r.pkt.hd, gens, seqs, false⟩) })

/-- Remove entry `i` of the packets next to be presented; what waited in an ejection VC leaves it. -/
def Niu.dropReady (x : Niu) (i : Nat) (vc : Option Nat) : Niu := { x.takeEj vc with ready := dropAt x.ready i }

/-- Remove an entry that is not presented: an access that the guard has admitted ends (R306). -/
def Niu.discardReady (x : Niu) (i : Nat) (r : Pres) : Niu := (x.dropReady i r.vc).endAll r.adm.toList

/-- The sequence number an accepted packet of an EXACTLY_ONCE flow is pending under. -/
def eoSeqs (x : Niu) (h : FlitBits) : List (BitVec 16) :=
  if hDmode h = 2 ∧ x.eoPend.contains (hFlow h, hSeq h) = true then [hSeq h] else []

/-- Whether an EXACTLY_ONCE queue message waits for an earlier one of its flow that holds a context (R108). A memory message under an
earlier MSG_ID does not hold it (DESIGN CHOICE: R108 orders the queue messages of a flow and does not set its contexts apart, log entry
152). -/
def Niu.qWaits (x : Niu) (r : Pres) : Bool :=
  let h := r.pkt.hd
  let whole := r.kind == .qmsg || (r.kind == .plain && hOpc h == opMSG && decide (hMq h < 63))
  whole && decide (hDmode h = 2) && x.ctxs.any (fun c => !c.mem && !c.closed &&
    decide (c.flow = hFlow h ∧ c.src = hSrc h ∧ 1 ≤ (hMsgId h + 256 - c.msg) % 256 ∧ (hMsgId h + 256 - c.msg) % 256 ≤ 127))

/-- The next in order to be treated: nothing of its flow stands before it but messages that wait for an earlier one (R108), its mark
is mirrored (R134), and it waits for no earlier message. -/
def Mach.nextReady (m : Mach) (n : Nat) : Option (Nat × Pres) :=
  let x := m.niu n
  let l := x.ready.zipIdx
  (l.find? (fun q =>
    let r := q.1
    !(x.ready.take q.2).any (fun b => b.kind != .service && r.kind != .service && !x.qWaits b && decide (hFlow b.pkt.hd = hFlow r.pkt.hd)) &&
    (match r.mir with
     | some id => m.recDone id
     | none => true) && !x.qWaits r)).map (fun q => (q.2, q.1))

/-- A payload found uncorrectable at the target (R105 step 6). -/
def Mach.poisoned (m : Mach) (n : Nat) : Mach := (m.orReg (aNiu n 0x30) (2 ^ 4)).occur 8 2 3 n 0 1

/-- Answer the packet at entry `i` without presenting it. -/
def Mach.turnAway (m : Mach) (n i : Nat) (r : Pres) (st : Nat) : Mach :=
  let h := r.pkt.hd
  let m := m.modNiu n (fun x => x.discardReady i r)
  if r.kind = .qpart ∨ r.kind = .mpart then m.failPart n h st true
  else m.putRsp n (rspBare h st) (if r.kind = .dup then [] else eoSeqs (m.niu n) h) none

/-- The free TTAG and channel that a presentation needs (R76). -/
def Niu.freeTt (x : Niu) : Option Nat :=
  if x.treq.isSome then none else lowest (fun k => (Tab.get dNone x.tt k).isNone) 256

/-- Mark and mirror before presentation (R127, R134): with mirroring, the record goes first and the packet waits. -/
def Mach.markFirst (m : Mach) (n i : Nat) (h : FlitBits) (seqs : List (BitVec 16)) : Mach :=
  let r := seqs.foldl (fun (a : Nat × Mach) q => a.2.rxRec n (sf h 176 16 q.toNat) false) (0, m)
  r.2.modNiu n (fun x => { x with ready := modAt (fun p => { p with mir := some r.1 }) x.ready i })

/-- Whether a packet or message goes to a receive queue (R108). -/
def hQueue (h : FlitBits) : Bool := hOpc h == opMSG && decide (hMq h < 63)

/-- A single request or a packet of a memory message, admitted: present it. On an EXACTLY_ONCE flow it is marked with the
presentation, a queue message only with its delivery (R127). -/
def Mach.presentPlain (m : Mach) (n i k : Nat) (r : Pres) (g : Nat) : Mach :=
  let h := r.pkt.hd
  let m := m.modNiu n (fun x =>
    let x := x.dropReady i none
    let x := if hDmode h = 2 ∧ r.kind ≠ .dup ∧ hQueue h = false then x.rxMark (hFlow h) (hSeq h) false else x
    if r.kind = .mpart then x.modCtx h (fun c => { (c.deal h) with out := c.out + 1 }) else x)
  m.present n k r (hLen h) r.pkt.data [g] (eoSeqs (m.niu n) h)

/-- Steps 4 to 6 of R105 for one packet: the guard, port reset, poison, mirroring, presentation; a packet of a queue message
joins its context. A packet of a memory message that has arrived and not been presented when the message fails or is closed is discarded
(DESIGN CHOICE: R110 speaks only of packets presented and packets missing, log entry 136). -/
def Mach.treatPacket (m : Mach) (g : Guard) (n i : Nat) (r : Pres) : Mach :=
  let x := m.niu n
  let h := r.pkt.hd
  let turn (m : Mach) (st : Nat) : Mach := if (m.niu n).rspRoom then m.turnAway n i r st else m
  let lost := r.kind = .mpart ∧ (x.ctxOf h).any (fun c => c.drops h) = true
  if lost then
    (m.modNiu n (fun x => (x.discardReady i r).modCtx h (fun c => c.deal h))).ctxStep n h true
  else if hDmode h = 2 ∧ r.kind ≠ .qpart ∧ (x.entry (hFlow h)).isNone = true then m.wantEntry n (hFlow h)
  else if r.kind ≠ .qpart ∧ x.runs = true ∧ x.freeTt = none then m
  else
    let checked : Option Denial := if r.adm.isSome then none else g.check h
    match checked with
    | some d => if x.rspRoom then (m.deny n h d).turnAway n i r sGUARD else m
    | none =>
      if !x.runs && r.kind != .qpart then turn m sTGTERR
      else if r.pkt.bad then (if x.rspRoom then (m.poisoned n).turnAway n i r sPOISON else m)
      else
        let sr := r.adm.getD x.gSer
        let m := if r.adm.isSome then m else m.modNiu n (fun x =>
          { x.admitted with ready := modAt (fun p => { p with adm := some sr }) x.ready i })
        if r.kind = .qpart then
          (m.modNiu n (fun x =>
            let x := x.dropReady i r.vc
            if ((x.ctxOf h).bind Ctx.fail).isSome then (x.endAccess sr).modCtx h (fun c => c.deal h)
            else x.modCtx h (fun c => { (c.deal h) with pkts := c.pkts ++ [r.pkt], gens := c.gens ++ [sr] }))).ctxStep n h true
        else if hDmode h = 2 ∧ r.kind ≠ .dup ∧ m.mirrors = true ∧ r.mir = none then (if m.recRoom then m.markFirst n i h [hSeq h] else m)
        else match (m.niu n).freeTt with
          | none => m
          | some k => m.presentPlain n i k r sr

/-- A duplicate answered again (R128 step 3). -/
def Mach.treatDup (m : Mach) (g : Guard) (n i : Nat) (r : Pres) : Mach :=
  let x := m.niu n
  let h := r.pkt.hd
  let err := (x.entry (hFlow h)).any (fun e =>
    let b := seqDist (eTop e.ent) (hSeq h)
    decide (b ≤ 63) && bt (eErr e.ent) b)
  if !x.rspRoom then m
  else if (x.entry (hFlow h)).isNone then m.wantEntry n (hFlow h)
  else match g.check h with
    | some d => (m.deny n h d).turnAway n i r sGUARD
    | none =>
      if err then m.turnAway n i r sTGTERR
      else if hOpc h = opRD then m.treatPacket g n i r
      else if hOpc h = opATM then
        match x.atoms.find? (fun a => a.1 = hFlow h ∧ a.2.1 = hSeq h) with
        | none => m.turnAway n i r sTGTERR
        | some a =>
          (m.modNiu n (fun x => x.dropReady i r.vc)).putRsp n (rspPkt h sOK (hLen h) (BitVec.ofNat 128 a.2.2.toNat) []) [] none
      else m.turnAway n i r sOK

/-- A whole queue message (R108, R61). -/
def Mach.treatMessage (m : Mach) (n i : Nat) (r : Pres) : Mach :=
  let x := m.niu n
  match x.ctxOf r.pkt.hd with
  | none => m.modNiu n (fun x => x.dropReady i none)
  | some c =>
    let h := c.hd
    let finish (m : Mach) (st : Nat) : Mach :=
      if !x.rspRoom then m
      else (m.modNiu n (fun x => ((x.dropReady i none).endAll c.gens).freeCtx h)).putRsp n (rspBare h st) c.seqs none
    match c.fail with
    | some (_, st) => finish m st
    | none =>
      if !x.runs then finish m sTGTERR
      else match x.freeTt with
        | none => m
        | some k =>
          if hDmode h = 2 ∧ m.mirrors = true ∧ r.mir = none then (if m.recRoom then m.markFirst n i h c.seqs else m)
          else
            let parts := (List.range 64).filterMap (fun j => c.pkts.find? (fun p => hIdx p.hd == j))
            let size := (parts.map (fun p => hLen p.hd)).foldl (· + ·) 0
            (m.modNiu n (fun x => x.dropReady i none)).present n k ⟨.qmsg, ⟨h, [], false⟩, none, false, 0, none, none⟩ size
              (parts.flatMap Pkt.payload) c.gens c.seqs

/-- TARGET_PRESENT (R105): what is next in order is checked and presented. What the packet store holds in order comes first
into line. -/
def execTargetPresent (ep : Ep) (s : State) : Out :=
  s.onAll (fun s =>
    let n := ep.val
    let m := s.m
    let m := (((m.niu n).store.map (fun p => hFlow p.hd)).dedup).foldl (fun m f => m.drainStore n f 64) m
    match m.nextReady n with
    | none => m
    | some (i, r) =>
      match r.kind with
      | .service =>
        if !(m.niu n).runs then
          let m := m.modNiu n (fun x => x.dropReady i none)
          if bf r.pkt.hd 11 6 = 0x3E then m.noticeDone n else m
        else match (m.niu n).freeTt with
          | none => m
          | some k => (m.modNiu n (fun x => x.dropReady i none)).present n k r r.size r.pkt.data [] []
      | .qmsg => m.treatMessage n i r
      | .dup => m.treatDup (s.guard n) n i r
      | _ => m.treatPacket (s.guard n) n i r)

/-- TREQ_BEAT_ACCEPT (R137, R93, R108): the endpoint takes the next beat of the target request; with the last beat it is delivered
and the ejection VC or slot it kept is free; of a queue message the context and slots are freed, its marks are set and mirrored, and
it is pending no more (R126, R127). In port reset no beat is delivered (R79). -/
def execTreqBeatAccept (ep : Ep) (s : State) : Out :=
  s.on (fun m =>
    let n := ep.val
    let x := m.niu n
    match x.treq with
    | none => m
    | some (k, beats) =>
      if !x.runs then m
      else if 1 < beats.length then m.modNiu n (fun x => { x with treq := some (k, beats.drop 1) })
      else
        let m := m.modNiu n Niu.endTreq
        match Tab.get dNone x.tt k with
        | none => m
        | some t =>
          if hQueue t.hd = false ∨ t.kind = .service then m
          else
            m.modNiu n (fun x =>
              let x := if t.kind = .qmsg then x.freeCtx t.hd else x
              if t.kind = .dup ∨ hDmode t.hd ≠ 2 then x else x.rxMarks (hFlow t.hd) t.seqs none))

/-- The status an endpoint's code is taken as (R76). -/
def trspStatus (c : Nat) : Nat := if c = sOK ∨ c = sPOISON then c else sTGTERR

/-- The answer of a delivered target request (R112): its accesses end, and the response is formed. A prior value is kept,
and mirrored, before its ATR leaves (R130, R134). -/
def Mach.answerTt (m : Mach) (n : Nat) (t : TT) (st : Nat) (inl : BitVec 128) (data : List FlitBits) : Mach :=
  let h := t.hd
  let m := m.modNiu n (fun x => x.endAll t.gens)
  let seqs := eoSeqs (m.niu n) h
  match t.kind with
  | .service => if bf h 11 6 = 0x3E then m.noticeDone n else m
  | .qmsg => m.putRsp n (rspBare h st)
      (if hDmode h = 2 then t.seqs.filter (fun q => q == hSeq h || (m.niu n).eoPend.contains (hFlow h, q)) else []) none
  | .mpart =>
    (m.modNiu n (fun x => x.modCtx h (fun c =>
      let c := if st = sOK then c else c.note (hIdx h) st
      { c with out := c.out - 1 }))).ctxStep n h true
  | _ =>
    if hOpc h = opRD ∧ st = sOK then
      let len := hLen h
      let p := if len ≤ 16 then rspPkt h sOK len (BitVec.ofNat 128 (inl.toNat % 2 ^ (8 * len))) []
        else rspPkt h sOK len 0 (trimData len data)
      m.putRsp n p seqs none
    else if hOpc h = opATM ∧ st = sOK then
      let v := BitVec.ofNat 128 (inl.toNat % 2 ^ (8 * hLen h))
      let p := rspPkt h sOK (hLen h) v []
      if hDmode h = 2 then
        let w : Word := v.extractLsb' 0 64
        let m := m.modNiu n (fun x =>
          { x with atoms := (if 64 ≤ x.atoms.length then x.atoms.drop 1 else x.atoms) ++ [(hFlow h, hSeq h, w)] })
        if m.mirrors then
          let r := m.pushRec 4 n (hFlow h) (hSeq h) (w.toNat * 2 ^ 18)
          r.2.putRsp n p seqs (some r.1)
        else m.putRsp n p seqs none
      else m.putRsp n p seqs none
    else m.putRsp n (rspBare h st) (if hDmode h = 2 ∧ t.kind = .plain then [hSeq h] else seqs) none

/-- TRSP_BEAT (R112, R76): a beat of a target response, taken while the RSP injection space has room; the last beat frees the TTAG and
forms the response. An ATR whose record finds the twin unit's queue full waits in that space (R134, R409). A TTAG that is not in use
breaks R76 and the run stops. -/
def execTrspBeat (ep : Ep) (data : BeatBits) (last : Bool) (s : State) : Out :=
  let m := s.m
  let n := ep.val
  let x := m.niu n
  let hdr := (x.trsp.map Prod.fst).getD data
  let more := match x.trsp with
    | some (_, l) => l ++ [data]
    | none => []
  if s.m.test.scan || !m.domLive (epTile n) || !x.runs || !x.rspRoom then .next s
  else match Tab.get dNone x.tt (bf hdr 40 8) with
    | none => .fault .strayTargetResponse
    | some t =>
      if !last then .next { s with m := m.modNiu n (fun x => { x with trsp := some (hdr, more) }) }
      else
        let m := m.modNiu n (fun x => { x with trsp := none, tt := Tab.set dNone x.tt (bf hdr 40 8) none })
        .next { s with m := m.answerTt n t (trspStatus (bf hdr 48 4)) (hdr.extractLsb' 128 128) (flitsOf more) }

/-- Answers that the NIU itself owes after a port reset, as far as the RSP injection space has room (R79). -/
def Mach.answerGone (m : Mach) (n : Nat) : Nat → Mach
  | 0 => m
  | k + 1 =>
    let x := m.niu n
    if !x.rspRoom then m
    else match lowest (fun i => (Tab.get dNone x.tt i).any TT.gone) 256 with
      | none => m
      | some i =>
        match Tab.get dNone x.tt i with
        | none => m
        | some t =>
          ((m.modNiu n (fun x => { x with tt := Tab.set dNone x.tt i none })).answerTt n t sTGTERR 0 []).answerGone n k

/-- A port enters reset (R79): partial units and open messages go, held responses are discarded, target requests that are
presented and not answered are answered by the NIU, shared-port arbitration clears. -/
def Mach.portReset (m : Mach) (n : Nat) : Mach :=
  let m := ((m.discardUnit n).abandonOpens n).dropResponses n
  let x := m.niu n
  let m := match x.treq.bind (fun q => (Tab.get dNone x.tt q.1).bind (fun t => if t.kind = .qmsg then x.ctxOf t.hd else none)) with
    | none => m
    | some c => m.modNiu n (fun x => x.freeCtx c.hd)
  let m := m.modNiu n (fun x =>
    { x.endTreq with rstN := false, trsp := none, tt := Tab.mapv dNone (fun _ o => o.map (fun t => { t with gone := true })) x.tt, scores := if x.scores.isEmpty then [] else [0, 0, 0, 0], gnt := 0, burst := 0 })
  m.answerGone n 256

/-- EP_RST_ASSERT (R79). -/
def execEpRstAssert (ep : Ep) (s : State) : Out :=
  s.on (fun m => if (m.niu ep).rstN then m.portReset ep else m)

/-- Requests of a service NIU that fail a source check are answered and leave no packet (R59, R486). -/
def Mach.failChecked (m : Mach) (n : Nat) : Mach :=
  ((m.niu n).inj.filter (fun p => p.fail.isSome)).foldl (fun m p => m.failRelease n p (p.fail.getD 0)) m

/-- The level of R246 that a selection stands at: 4 for TC3 down to 1 for TC0, 0 for none. -/
def Mach.selLevel (m : Mach) (n : Nat) : Nat :=
  match m.select n with
  | .none => 0
  | .rsp i => (((m.niu n).rspInj[i]?).map (fun r => hTc r.pkt.hd + 1)).getD 0
  | .req _ _ lvl => lvl + 1

/-- The NIUs that share a local input (R24, R28). -/
def niuMates (n : Nat) : List Nat :=
  let t := epTile n
  let l := niuPort n
  [4 * t + 2 * (l - 4), 4 * t + 2 * (l - 4) + 1] ++ (if l = 5 then [512, 513, 514, 515].filter (fun q => epTile q == t) else [])

/-- Whether another NIU of the same local input goes first (R248): its packet stands at an earlier level, or at the same level and
the turn is its own, in the order of the NIUs from the one whose packet entered last. -/
def Mach.yields (m : Mach) (n : Nat) : Bool :=
  let last := Tab.get dZero m.locl (2 * epTile n + (niuPort n - 4))
  let turn (k : Nat) : Nat := (k + 1 + 1023 - last) % 1024
  let lv := m.selLevel n
  (niuMates n).any (fun o => o != n && (decide (lv < m.selLevel o) || (decide (m.selLevel o = lv) && decide (turn o < turn n))))

/-- PACKET_RELEASE (R246): the scheduler of the NIU selects a packet and releases it; with no candidate, or while another NIU of its
local input goes first (R248), nothing is released. Marks that responses wait to write ask for their entries (R127), and answers
that a port reset, a flow reset or a memory message left owing take the room that comes free (R79, R106, R109). -/
def execPacketRelease (n : NiuId) (s : State) : Out :=
  s.on (fun m =>
    let n := n.val
    let m := (m.failChecked n).markShort n
    let m := ((m.niu n).rspInj.filter (fun r => !r.eo.isEmpty)).foldl (fun m r => m.wantEntry n (hFlow r.pkt.hd)) m
    let m := if m.yields n then m
      else match m.select n with
        | .none => m
        | .rsp i =>
          match (m.niu n).rspInj[i]? with
          | none => m
          | some r => (((m.releaseRsp n i r).answerGone n 256).answerOwed n 64).answerMsgs n
        | .req i k lvl =>
          match (m.niu n).inj[i]? with
          | none => m
          | some p => m.chooseReq n i k lvl p
    if 512 ≤ n then (m.pumpMirror (n - 512) 64).pumpImage (n - 512) else m)

end Sys2Proof.Machine
end

