-- ==== Sys2Proof/Machine/Source.lean ====
section
/-! DEFINITION. Responses at the source NIU (R101, R102, R112, R120, R129, R132), retransmission (R118 to R122), and what the
flow instructions and FLOW_TBL do (R239, R240, R487). -/

namespace Sys2Proof.Machine

/-- Post a flow event for a source NIU (R329). -/
def Mach.flowEvt (m : Mach) (n : Nat) (f : BitVec 16) (kind : Nat) : Mach := m.postEvt (niuQe n) 1 kind n f.toNat

/-- Set a flow's STATE at its source, and mirror it (R123, R408). -/
def Mach.setFlowState (m : Mach) (n : Nat) (f : BitVec 16) (st : Nat) : Mach :=
  let m := m.modNiu n (fun x => x.setSend f (fun g => sf g 51 2 st))
  match (m.niu n).entry f with
  | none => m
  | some e => m.mirrorRec 6 n f (eTxSeq e.ent) (st * 2 ^ 80 + eDInc e.ent * 2 ^ 72)

/-- Answer every request of a flow that is not answered: non-posted ones with a status, posted ones in the counter whose field
starts at bit `lo` of NIU_DROP (R121, R132). Nothing of them stays to be released but closing packets (R110). Requests that the core
has not treated yet meet the flow's new state at step 2 of R94; a posted write that is not accepted is counted at its acceptance. -/
def Mach.failFlow (m : Mach) (n : Nat) (f : BitVec 16) (st lo : Nat) : Mach :=
  let x := m.niu n
  let ts := x.trk.filterMap (fun p =>
    match p.2 with
    | some t => if t.eo && decide (t.flow = f) && !t.ans && !t.close && !x.inj.any (fun q => q.close && q.tag == p.1) then some (p.1, t) else none
    | none => none)
  let ws := x.pwb.filterMap (fun p =>
    match p.2 with
    | some w => if decide (w.flow = f) && (w.rel || x.inj.any (fun q => q.uid == w.uid)) then some (p.1, w) else none
    | none => none)
  let m := (m.dropInj n (fun p => decide (hFlow p.pkt.hd = f) && hOpc p.pkt.hd != opRED && !p.close)).modNiu n (fun x =>
    { x with reqs := x.reqs.filter (fun r => r.inMiss || decide (qFlow r.hdr ≠ f) || qOpc r.hdr == opRED) })
  let m := ts.foldl (fun m q => m.srcAnswer n false q.1 st) m
  ws.foldl (fun m q =>
    if q.2.acc = 0 then m.srcAnswer n true q.1 st
    else ((if q.2.rel then m.answeredEo n f [q.2.seq] else m).modNiu n (fun x => x.freePwb q.1)).addFld (aNiu n 0x38) lo 16 1) m

/-- STALE received on an EXACTLY_ONCE flow (R132). -/
def Mach.staleFlow (m : Mach) (n : Nat) (f : BitVec 16) : Mach :=
  ((m.setFlowState n f 2).failFlow n f sSTALE 16).flowEvt n f 1

/-- An EXACTLY_ONCE flow whose copies are exhausted enters ERROR (R121). -/
def Mach.errorFlow (m : Mach) (n : Nat) (f : BitVec 16) : Mach :=
  ((m.setFlowState n f 1).failFlow n f sTIMEOUT 0).flowEvt n f 0

/-- The posted write buffer entry that a WCP retires (R101): its flow and sequence number. -/
def Niu.pwbOf (x : Niu) (h : FlitBits) : Option (Nat × Pwb) :=
  x.pwb.findSome? (fun p =>
    match p.2 with
    | some w => if w.rel && decide (w.flow = hFlow h ∧ w.seq = hSeq h) then some (p.1, w) else none
    | none => none)

/-- The tracker entry that a response answers (R101): its TAG, flow, and a sequence number of one of its packets (log entry
15). -/
def Niu.answeredBy (x : Niu) (h : FlitBits) : Option Trk :=
  match Tab.get dNone x.trk (hTag h) with
  | none => none
  | some t => if t.flow = hFlow h ∧ t.seqs.contains (hSeq h) = true then some t else none

/-- A response that matches nothing: a further response of an answered request of an EXACTLY_ONCE flow, or a stray (R101, R120). -/
def Mach.unmatched (m : Mach) (n : Nat) (h : FlitBits) : Mach :=
  if hDmode h = 2 ∧ (m.niu n).eoDone.contains (hFlow h, hSeq h) = true then m.countNiu n 0x0A none none 1 h else m.stray n

/-- What remains of a request that has been answered is not released or resent (R120). -/
def Mach.dropUid (m : Mach) (n uid : Nat) : Mach :=
  (m.dropInj n (fun p => p.uid == uid && !p.close)).modNiu n (fun x => { x with reqs := x.reqs.filter (fun r => r.uid ≠ uid) })

/-- Flow events of a response's status (R129, R132). -/
def Mach.statusEvt (m : Mach) (n : Nat) (h : FlitBits) (st : Nat) : Mach :=
  if st = sRESYNC then m.flowEvt n (hFlow h) 2
  else if st = sSTALE ∧ hDmode h ≠ 2 then m.flowEvt n (hFlow h) 1
  else m

/-- Insert a copy behind the resent packets at the front of the queue, but before those of its own request with a higher PKT_IDX (R119,
R247). -/
def insertResend (p : InjP) : List InjP → List InjP
  | [] => [p]
  | q :: t =>
    if q.resend && !(q.uid == p.uid && decide (hIdx p.pkt.hd < hIdx q.pkt.hd)) then q :: insertResend p t else p :: q :: t

/-- Whether another read of the same copy is still unanswered. -/
def Mach.readsOut (m : Mach) (n : Nat) (f seq : BitVec 16) : Bool :=
  (m.niu (niuService n)).trk.any (fun p => p.2.any (fun t => decide (t.owner = .replayRead n f seq)))

/-- A read of a copy has returned (R119, R486): with the last of them the copy, which is that of the SEQ asked for (R117), enters its
queue, unless its request has been answered since. With a status other than OK no copy is released and the deadline restarts. -/
def Mach.copyRead (m : Mach) (n : Nat) (f seq : BitVec 16) (st : Nat) : Mach :=
  if !(m.niu n).rsv.contains (f, seq) then m
  else match (m.niu n).copyOf f seq with
    | none => m.modNiu n (fun x => x.unreserve f seq)
    | some (posted, tag, uid) =>
      if st ≠ sOK then m.copyFails n f seq
      else if m.readsOut n f seq then m
      else match Tab.get dNone m.replay (f.toNat * 64 + bf seq 0 6), (m.niu n).entry f with
        | some p, some e =>
          if hSeq p.hd ≠ seq then m.copyFails n f seq
          else
          let q : InjP :=
            { uid := uid, pkt := p, need := 0, shp := eShp e.ent, tag := tag, posted := posted, resend := true, close := false,
              dev := false, seq := some seq, short := false, mir := none, born := m.clk.cyc, fail := none }
          m.modNiu n (fun x => { (x.unreserve f seq) with inj := insertResend q x.inj })
        | _, _ => m.copyFails n f seq

/-- A WCP retires its posted write (R60, R101, R112, R486). -/
def Mach.retire (m : Mach) (n k : Nat) (w : Pwb) (h : FlitBits) (st : Nat) : Mach :=
  let m := if st = sOK then m else m.addFld (aNiu n 0x38) 16 16 1
  let m := if hDmode h = 2 then m.answeredEo n w.flow [w.seq] else m
  let m := ((m.modNiu n (fun x => x.freePwb k)).dropUid n w.uid).statusEvt n h st
  let m := if st = sSTALE ∧ hDmode h = 2 then m.staleFlow n w.flow else m
  match w.owner with
  | .mirror i => ((m.modTele (fun t => { t with out := t.out.erase i })).mirDone).pumpMirror (n - 512) 64
  | _ => m

/-- A response in ejection VC `vc` answers its non-posted request (R102, R120, R132). An abandoned message only frees its TAG; its
status, and that of a request of a service NIU's own, has the effects on the flow that any other has (R129, R132). -/
def Mach.take (m : Mach) (n : Nat) (p : Pkt) (t : Trk) (st vc : Nat) : Mach :=
  let h := p.hd
  let k := hTag h
  let own := (m.modNiu n (fun x => (x.freeTrk k).takeEj (some vc))).statusEvt n h st
  match t.owner with
  | .ldx e => own.accessAnswer e ⟨hSetStatus h st, p.data, p.bad⟩
  | .stx e => own.accessAnswer e ⟨hSetStatus h st, p.data, p.bad⟩
  | .replayRead j f q => own.copyRead j f q st
  | .image ser _ idx => own.imageLine ser idx st (p.data.headD 0)
  | .endpoint =>
    let data := st = sOK ∨ st = sPARTIAL
    let m := (m.respond n k st (if data then hLen h else 0) (if data then hInline h else 0) (if data then p.data else []) (some vc)).statusEvt n h st
    let m := m.dropUid n t.uid
    if st = sSTALE ∧ hDmode h = 2 then m.staleFlow n t.flow else m
  | _ => m

/-- RESPONSE_ARRIVAL (R101): the response whole in an ejection VC is matched and taken. Answers to instruction fetches and
fills are taken by rows of their own. A response to the endpoint stays in its VC until the channel has delivered it, and an early one
of an ORDERED flow takes a store slot or, with none free, waits at ejection (R93, R98, R102). One that comes after an answer of the
NIU's own is a stray or duplicate, and ends the count of R97. A flow that must change state waits for
its entry, and an EXACTLY_ONCE request's answer for room among the records (R409). -/
def execResponseArrival (n : NiuId) (vc : Vc) (s : State) : Out :=
  s.on (fun m =>
    let n := n.val
    let x := m.niu n
    match x.ejected vc with
    | none => m
    | some p =>
      let h := p.hd
      let done (m : Mach) : Mach := m.modNiu n (fun x => x.takeEj (some vc.val))
      let taken := x.rspq.any (fun r => r.vc == some vc.val) || x.rspOut.any (fun r => r.vc == some vc.val)
      let count (m : Mach) : Mach := (m.mirror (epTile n) 2 0 (vcOf h) h).countNiu n 3 none (some (hTc h)) 1 h
      let seen (m : Mach) : Mach := count (done m)
      let st := if p.bad then sPOISON else hStatus h
      let bad (m : Mach) : Mach := if p.bad then m.poisoned n else m
      let late := st = sSTALE ∧ hDmode h = 2 ∧ (x.entry (hFlow h)).isNone = true
      let full := hDmode h = 2 ∧ m.mirrors = true ∧ m.recRoom = false
      if taken then m
      else if !opRsp (hOpc h) then (done m).occur 2 0 4 (epTile n) 0 1
      else if n < 512 ∧ hSrcInc h ≠ x.inc then (seen m).stray n
      else if hOpc h = rspOf opWRP then
        match x.pwbOf h with
        | none => (seen m).unmatched n h
        | some (k, w) => if full then m else if late then m.wantEntry n (hFlow h) else (bad (seen m)).retire n k w h st
      else match x.answeredBy h with
        | none => (seen m).unmatched n h
        | some t =>
          match t.owner with
          | .fetch _ _ => m
          | .fill _ _ => m
          | _ =>
            if t.ans then
              ((seen m).modNiu n (fun x => x.modTrk (hTag h) (fun t => if t.hold.isSome then t else { t with seqs := [] }))).unmatched n h
            else if full then m
            else if late then m.wantEntry n (hFlow h)
            else if t.ordered && x.runs && !t.dead && x.early t.flow t.acc && decide (64 ≤ x.storeUsed) then m.holdFor n (some vc.val) .noStore
            else (bad (count m)).take n p t st vc.val)

/-- The response whole in an ejection VC of service NIU `n` that answers a read made for an owner that `sel` picks (R101): its
VC, the packet and what `sel` gives. -/
def Mach.madeAnswer {α : Type} (m : Mach) (n : Nat) (sel : Owner → Option α) : Option (Nat × Pkt × α) :=
  (List.range 12).findSome? (fun vc =>
    match (m.niu n).ejected vc with
    | none => none
    | some p =>
      if hOpc p.hd ≠ rspOf opRD then none
      else match (m.niu n).answeredBy p.hd with
        | none => none
        | some t => (sel t.owner).map (fun a => (vc, p, a)))

/-- The result of a response: poisoned data make its status POISON (R191). -/
def Pkt.result (p : Pkt) : Nat := if p.bad then sPOISON else hStatus p.hd

/-- That response is taken: its TAG is freed, and its status has its effects on the flow (R101, R129, R132). -/
def Mach.takeMade (m : Mach) (n vc : Nat) (p : Pkt) : Mach :=
  let m := (m.modNiu n (fun x => (x.freeTrk (hTag p.hd)).takeEj (some vc))).mirror (epTile n) 2 0 (vcOf p.hd) p.hd
  (if p.bad then m.poisoned n else m).statusEvt n p.hd p.result

/-- FETCH_RESPONSE (R316): the response ejected at a service NIU that answers a fetch of this engine is taken. -/
def execFetchResponse (e : EngId) (s : State) : Out :=
  s.on (fun m =>
    match [512, 513, 514, 515].findSome? (fun n => (m.madeAnswer n (fun o =>
      match o with
      | .fetch k a => if k = e.val then some a else none
      | _ => none)).map (fun r => (n, r))) with
    | none => m
    | some (n, vc, p, a) =>
      let m := m.takeMade n vc p
      match (m.eng e).fetch with
      | none => m
      | some line => if bf line 0 48 = a then m.lineAnswer e line ⟨hSetStatus p.hd p.result, p.data, p.bad⟩ else m)

/-- FLOW_FILL_RESPONSE (R486, R234): the answer of a fill ejected at a service NIU is taken. With OK the entry is
validated into the cache; otherwise no entry is filled and every request that waits on it is answered FLOW_INVALID. -/
def execFlowFillResponse (q : Quad) (s : State) : Out :=
  s.on (fun m =>
    let sv := 512 + q.val
    match m.madeAnswer sv (fun o =>
      match o with
      | .fill n f => some (n, f)
      | _ => none) with
    | none => m
    | some (vc, p, n, f) =>
      let m := m.takeMade sv vc p
      if !(m.niu n).fills.contains f then m
      else if p.result = sOK then
        let m := m.modNiu n (fun x => { x with fills := x.fills.filter (fun g => g ≠ f) })
        let ent := p.data.headD 0
        let e : FcE :=
          { flow := f, ent := ent, neg := m.validate n ent, recv := (m.niu n).recvOnly f, dflt := false, pinned := (m.niu n).isPinned f, dirtyS := false, dirtyR := false, drop := !m.tblEn, wb := !m.tblEn, now := false }
        (m.newEntry n e).settleFlows n
      else m.fillFails n f)

/-- A request of an EXACTLY_ONCE flow whose deadline has passed (R118): posted or not, its place, the numbers of its packets, copies
resent, tile. -/
structure Late where
  posted : Bool
  place  : Nat
  seqs   : List (BitVec 16)
  tries  : Nat
  dst    : Nat
deriving DecidableEq, Repr

/-- The request whose deadline is the one named. -/
def Niu.expired (x : Niu) (f seq : BitVec 16) : Option Late :=
  (x.trk.findSome? (fun p => p.2.bind (fun t =>
    if t.eo && !t.ans && decide (t.ddl = some 0 ∧ t.flow = f) && t.seqs.contains seq then some ⟨false, p.1, t.seqs, t.tries, t.dst⟩ else none))).orElse (fun _ =>
  x.pwb.findSome? (fun p => p.2.bind (fun w =>
    if w.rel && decide (w.ddl = some 0 ∧ w.flow = f ∧ w.seq = seq) then some ⟨true, p.1, [w.seq], w.tries, w.dst⟩ else none)))

/-- RETX_DEADLINE (R119, R121 to R123): the deadline's count of ticks is exhausted. In a flow that is not ACTIVE nothing is resent and
the request is answered; the eighth copy's deadline puts the flow in ERROR; a fenced or unroutable destination answers the request;
otherwise the copies are read through the service NIU. While the twin unit's queue has no room for records it waits (R409). -/
def execRetxDeadline (n : NiuId) (flow seq : BitVec 16) (s : State) : Out :=
  s.on (fun m =>
    let n := n.val
    match (m.niu n).expired flow seq with
    | none => m
    | some r =>
      match (m.niu n).entry flow with
      | none => m.wantEntry n flow
      | some e =>
        if m.mirrors && !m.recRoom then m
        else
        let answer (st : Nat) : Mach :=
          (if r.posted then m.answeredEo n flow r.seqs else m).srcAnswer n r.posted r.place st
        if eState e.ent = 1 then answer sTIMEOUT
        else if eState e.ent = 2 then answer sSTALE
        else if 7 ≤ r.tries then m.errorFlow n flow
        else if m.fenced n r.dst then answer sDOMOFF
        else if bt (m.imgOf (m.epochOf n)).1.unr r.dst then answer sUNROUTE
        else
          (m.modNiu n (fun x =>
            if r.posted then x.modPwb r.place (fun w => { w with ddl := none, tries := r.tries + 1, todo := r.seqs })
            else x.modTrk r.place (fun t => { t with ddl := none, tries := r.tries + 1, todo := r.seqs }))).pumpReads n)

/-- FLOW_COPY_DROPPED (R240, R487): a copy that is to be dropped is not locked and has no write-back out; it goes. -/
def execFlowCopyDropped (n : NiuId) (flow : BitVec 16) (s : State) : Out :=
  s.on (fun m => (m.dropEntry n flow).settleFlows n)

/-- Mark every copy of a flow to be dropped, with or without write-back, which then starts at once, and drop those that may go (R240). -/
def Mach.dropCopies (m : Mach) (f : BitVec 16) (wb : Bool) : Mach :=
  (m.nius.map Prod.fst).foldl (fun m n =>
    match (m.niu n).entry f with
    | none => m.settleFlows n
    | some _ =>
      ((m.modNiu n (fun x => x.modEntry f (fun e =>
        { e with drop := true, wb := if e.drop then e.wb && wb else wb, now := wb && !(e.drop && !e.wb) }))).dropEntry n f).settleFlows n) m

/-- Whether no packet of a flow is left at its source, unreleased or unanswered (R240). -/
def Mach.flowQuiet (m : Mach) (f : BitVec 16) : Bool :=
  (m.nius.map Prod.fst).all (fun n =>
    let x := m.niu n
    !x.inUse f && decide (x.unanswered f = 0))

/-- Whether a flow instruction's copies are dropped, and for a flush with HOLD whether no packet of the flow is left at its source, and
no copy that packets on their way had filled again, but pinned ones with nothing to write back (R240). -/
def Mach.flowSettled (m : Mach) (f : BitVec 16) (hold : Bool) : Bool :=
  (m.nius.map Prod.fst).all (fun n =>
    let x := m.niu n
    !((x.entry f).any FcE.drop) && !m.wbOut n f &&
    (!hold || (x.entry f).all (fun e => e.pinned && !e.dirtyS && !e.dirtyR))) && (!hold || m.flowQuiet f)

/-- Copies that packets on their way have filled again during a flush with HOLD are dropped once no packet of the flow is left (R240). -/
def Mach.dropAgain (m : Mach) (f : BitVec 16) (hold : Bool) : Mach :=
  if hold && m.flowQuiet f then
    ((m.nius.map Prod.fst).filter (fun n => ((m.niu n).entry f).any (fun e => !e.pinned || e.dirtyS || e.dirtyR))).foldl (fun m n =>
      (m.modNiu n (fun x => x.modEntry f (fun e => { e with drop := true, wb := true }))).dropEntry n f) m
  else m

/-- Start a flow instruction (R240, R344): its copies, then the wait for them. -/
def Mach.flowOp (m : Mach) (e : Nat) (w : Word) (pre : BitVec 16 → Mach → Option Nat) (act : BitVec 16 → Mach → Mach) : Mach :=
  m.status e false true true (fun m =>
    match selFlow ((m.eng e).reg (wA w)) with
    | none => m.endStatus e xRANGE []
    | some f =>
      match pre f m with
      | some st => m.endStatus e st []
      | none => ((act f m).setWait e (.flow f)).startLimit e (wLimit w))

/-- FL.INV (R240, R358). -/
def execFlInv (e : EngId) (s : State) : Out :=
  s.on (fun m => m.issue e 0x70 anyWord (fun w m =>
    m.flowOp e w (fun _ _ => none) (fun f m => { m with held := m.held.erase f }.dropCopies f false)))

/-- FL.FLUSH without HOLD (R240, R358). -/
def execFlFlush (e : EngId) (s : State) : Out :=
  s.on (fun m => m.issue e 0x71 (fun w => !bt w 42) (fun w m =>
    m.flowOp e w (fun _ _ => none) (fun f m => m.dropCopies f true)))

/-- FL.FLUSH with HOLD (R240, R358): at most four flows are held. -/
def execFlFlushHold (e : EngId) (s : State) : Out :=
  s.on (fun m => m.issue e 0x71 (fun w => bt w 42) (fun w m =>
    m.flowOp e w (fun f m => if !m.held.contains f && decide (4 ≤ m.held.length) then some xBUSY else none)
      (fun f m => { m with held := if m.held.contains f then m.held else m.held ++ [f] }.dropCopies f true)))

/-- The NIU that FL.PIN names, with its scope (R343, R358). -/
def epScope (e : Nat) (v : Word) : Bool :=
  match selEp v with
  | none => true
  | some ep => inScope e (epQuad ep)

/-- FL.PIN (R239, R358): the pin holds at once, the instruction completes when the entry is there. At an NIU whose domain is
not powered the command has no effect and completes (R430; log entry 19). -/
def execFlPin (e : EngId) (s : State) : Out :=
  s.on (fun m => m.issue e 0x72 (fun w => !bt w 42) (fun w m =>
    let a := (m.eng e).reg (wA w)
    m.status e false (epScope e a) false (fun m =>
      match selEp a, selFlow ((m.eng e).reg (wB w)) with
      | some n, some f =>
        if !m.domLive (epTile n) then m.done e xOK []
        else if !(m.niu n).pins.contains f && decide (16 ≤ (m.niu n).pins.length) then m.endStatus e xRANGE []
        else
          let m := m.modNiu n (fun x =>
            { (x.modEntry f (fun g => { g with pinned := true })) with pins := if x.pins.contains f then x.pins else x.pins ++ [f] })
          let m := m.wantEntry n f
          if ((m.niu n).entry f).isSome then m.done e xOK [] else m.setWait e (.pin n f)
      | _, _ => m.endStatus e xRANGE [])))

/-- FL.PIN with UNPIN (R239, R358). -/
def execFlUnpin (e : EngId) (s : State) : Out :=
  s.on (fun m => m.issue e 0x72 (fun w => bt w 42) (fun w m =>
    let a := (m.eng e).reg (wA w)
    m.status e false (epScope e a) false (fun m =>
      match selEp a, selFlow ((m.eng e).reg (wB w)) with
      | some n, some f =>
        (m.modNiu n (fun x => { (x.modEntry f (fun g => { g with pinned := false })) with pins := x.pins.erase f })).done e xOK []
      | _, _ => m.endStatus e xRANGE [])))

/-- A write of FLOW_TBL (R232, R235, R487): where EN changes, the entries of the other kind are to be dropped; when it becomes 0,
BASE and MEM_EP as they were serve the write-backs. -/
def Mach.writeFlowTbl (m : Mach) (v : Word) : Mach :=
  let was := m.tblEn
  let m := if was && !bt v 0 then { m with tblOld := m.reg 0x48 } else m
  let m := ((m.setFld 0x48 0 1 (bf v 0 1)).setFld 0x48 22 26 (bf v 22 26)).setFld 0x48 48 10 (bf v 48 10)
  if was = m.tblEn then m
  else (m.nius.map Prod.fst).foldl (fun m n =>
    let m := m.modNiu n (fun x =>
      { x with fc := x.fc.map (fun e => if e.dflt = !was then { e with drop := true, wb := was } else e) })
    (((m.niu n).fc.filter FcE.drop).foldl (fun m e => m.dropEntry n e.flow) m).settleFlows n) m

/-- FLOW_TBL_WRITE (R232, R487): an engine's write of FLOW_TBL takes effect. -/
def execFlowTblWrite (v : Word) (s : State) : Out := s.on (fun m => m.writeFlowTbl v)

end Sys2Proof.Machine
end

