-- ==== Sys2Proof/Machine/Sched.lean ====
section
/-! DEFINITION. Shapers, refill ticks, gate lists and the admission ledger (R242 to R256, R268 to R276, R359, R360). -/

namespace Sys2Proof.Machine

/-- The config word and the state word of a shaper (R359). -/
def Shaper.config (k : Shaper) : Word :=
  mkf 64 62 2 k.mode ||| mkf 64 60 2 k.tc ||| mkf 64 59 1 (b1 k.excess) ||| mkf 64 58 1 (b1 k.demoted) ||| mkf 64 50 8 k.wt |||
    mkf 64 20 20 k.rate ||| mkf 64 0 20 k.burst
def Shaper.stateWord (k : Shaper) : Word := mkf 64 32 28 (k.tok % (2 ^ 28 : Int)).toNat ||| mkf 64 0 32 k.f.toNat

/-- MODE, RATE and BURST as they will be after the next refill tick. -/
def Shaper.next (k : Shaper) : Nat × Nat × Nat := k.pend.getD (k.mode, k.rate, k.burst)

/-- One refill tick of a shaper (R244). -/
def Shaper.tick (k : Shaper) : Shaper :=
  let k := match k.pend with
    | none => k
    | some (mode, rate, burst) =>
      { k with mode := mode, rate := rate, burst := burst, pend := none, tok := if mode ≠ 2 ∧ 0 < k.tok then 0 else k.tok }
  let sum : Int := min (k.tok + k.rate) (k.burst * 16 : Nat)
  if k.mode = 0 ∨ k.rate = 0 then k
  else if k.mode = 2 then { k with tok := max k.tok sum } else { k with tok := sum }

/-- Count down the refill ticks of a deadline (R269). -/
def ddlTick (o : Option Nat) : Option Nat := o.map (· - 1)

/-- One refill tick at an NIU: its shapers, retransmit deadlines and reassembly timeouts (R244, R269). -/
def Niu.tick (n : Nat) (x : Niu) : Niu :=
  let shp := Tab.mapv (dShp n) (fun _ k => k.tick) x.shp
  let shp := if 512 ≤ n ∧ (Tab.find x.shp 0).isNone = true then Tab.upd (dShp n) shp 0 Shaper.tick else shp
  let trk := Tab.mapv dNone (fun _ (o : Option Trk) => o.map (fun t => { t with ddl := ddlTick t.ddl })) x.trk
  let pwb := Tab.mapv dNone (fun _ (o : Option Pwb) => o.map (fun t => { t with ddl := ddlTick t.ddl })) x.pwb
  { x with shp := shp, trk := trk, pwb := pwb, ctxs := x.ctxs.map (fun c => { c with ticks := ddlTick c.ticks }) }

/-- One refill tick of a combine node (R291). -/
def CbNode.tick (x : CbNode) : CbNode := { x with ticks := x.ticks - 1 }

/-- A refill tick at every powered NIU and combine node (R244, R268, R291). -/
def Mach.refill (m : Mach) : Mach :=
  let known := (m.nius.map Prod.fst).dedup
  let all := known ++ [512, 513, 514, 515].filter (fun n => !known.contains n)
  let m := (all.filter (fun n => m.domLive (epTile n))).foldl (fun m n => m.modNiu n (Niu.tick n)) m
  { m with cb := Tab.mapv dNone (fun k o => if m.domLive (k / 256) then o.map CbNode.tick else o) m.cb }

/-- REFILL_TICK (R244, R268): FT has reached a multiple of 20 ns, once for each; no tick falls while Fabric Time is frozen. -/
def execRefillTick (s : State) : Out :=
  s.on (fun m =>
    if m.keep.st = .frozen ∨ m.atMultiple 20 = false ∨ m.ftNs / 20 = m.keep.ticked then m
    else m.refill.modKeep (fun k => { k with ticked := m.ftNs / 20 }))

/-- The reservation of a shaper in the ledger. -/
def Adm.find (a : Adm) (ep k : Nat) : Option Resv := a.led.find? (fun r => r.ep == ep && r.shp == k)

/-- A command to a shaper of an NIU (R343, R360). -/
def Mach.shaperOp (m : Mach) (e : Nat) (w : Word) (act : Nat → Nat → Mach → Mach) : Mach :=
  let sel := selShaper ((m.eng e).reg (wA w))
  m.status e false (match sel with
    | some p => inScope e (epQuad p.1)
    | none => true) false (fun m =>
    match sel with
    | some p => act p.1 p.2 m
    | none => m.endStatus e xRANGE [])

/-- Why SH.SET does not act, if it does not (R245). -/
def Mach.shSetFails (m : Mach) (ep k : Nat) (v : Word) : Option Nat :=
  let x := m.niu ep
  let s := x.shaper ep k
  let mode := bf v 62 2
  let tc := bf v 60 2
  let bound := m.adm.find ep k
  let above := match bound with
    | some r => decide (mode ≠ 2 ∨ r.rate < bf v 20 20 ∨ r.burst < bf v 0 20)
    | none => decide (mode = 2)
  if decide (mode = 3) || decide (bf v 50 8 = 0) || decide (tc = 3 ∧ mode = 0) || decide (bf v 40 10 ≠ 0) || above then some xRANGE
  else if tc ≠ s.tc ∧ (x.inj.any (fun p => p.shp == k) = true ∨ bound.isSome = true) then some xSTATE
  else none

/-- SH.SET (R245, R359): TC, EXCESS and WT at once, MODE, RATE and BURST at the next tick (R244). -/
def execShSet (e : EngId) (s : State) : Out :=
  s.on (fun m => m.issue e 0x80 anyWord (fun w m =>
    m.shaperOp e w (fun ep k m =>
      let v := (m.eng e).reg (wB w)
      match m.shSetFails ep k v with
      | some st => m.endStatus e st []
      | none =>
        if !m.domLive (epTile ep) then m.done e xOK []
        else (m.modNiu ep (fun x => x.modShp ep k (fun s =>
          { s with tc := bf v 60 2, excess := bt v 59, demoted := false, wt := bf v 50 8, pend := some (bf v 62 2, bf v 20 20, bf v 0 20) }))).done e xOK [])))

/-- SH.GET (R359, R360). -/
def execShGet (e : EngId) (s : State) : Out :=
  s.on (fun m => m.issue e 0x81 anyWord (fun w m =>
    m.shaperOp e w (fun ep k m =>
      let s := (m.niu ep).shaper ep k
      let on := m.domLive (epTile ep)
      m.done e xOK [(wD w, if on then s.config else 0), ((wD w + 1) % 16, if on then s.stateWord else 0)])))

/-- Cycles completed and the entry in force of a gate list at `t` ns (R271). -/
def GateList.entryAt (g : GateList) (pos : Nat) : Nat → Nat → Nat
  | 0, i => i
  | k + 1, i =>
    if ((g.ents.take (i + 1)).map (fun w => bf w 0 32)).foldl (· + ·) 0 ≤ pos ∧ i + 1 < g.ents.length then
      GateList.entryAt g pos k (i + 1)
    else i
def GateList.at (g : GateList) (t : Nat) : Nat × Nat := ((t - g.s) / g.ct, g.entryAt ((t - g.s) % g.ct) 64 0)

/-- Take the position of an NIU's active list again from Fabric Time (R271, R276): a cycle that has ended is counted. -/
def Mach.gatePlace (m : Mach) (n : Nat) : Mach :=
  let x := m.niu n
  if x.gate.ents = [] ∨ m.ftNs < x.gate.s then m
  else
    let p := x.gate.at m.ftNs
    if p = (x.gateCyc, x.gateIdx) then m
    else
      let m := m.modNiu n (fun x => { x with gateCyc := p.1, gateIdx := p.2 })
      if x.gateCyc < p.1 then m.addFld (aGt n 0x28) 32 32 1 else m

/-- The takeover of an armed list whose start time is reached (R275): it is in force at its position of R271. -/
def Mach.gateTake (m : Mach) (n : Nat) : Mach :=
  let x := m.niu n
  if x.gateSt = 2 ∧ x.gateP.s ≤ m.ftNs then
    let p := x.gateP.at m.ftNs
    (m.modNiu n (fun x =>
      { x with gate := x.gateP, gateP := GateList.none, gateSt := 0, gateCyc := p.1, gateIdx := p.2 })).orReg (aGt n 0x20) 2
  else m

/-- Every gate list at a step of Fabric Time (R276). -/
def Mach.gatesJump (m : Mach) : Mach := ((m.nius.map Prod.fst).dedup).foldl (fun m n => (m.gatePlace n).gateTake n) m

/-- GATE_TAKEOVER (R275). -/
def execGateTakeover (ep : Ep) (s : State) : Out := s.on (fun m => m.gateTake ep)

/-- GATE_ENTRY_CHANGE (R271): the entry in force is the one Fabric Time gives; while FROZEN it stays (R276). -/
def execGateEntryChange (ep : Ep) (s : State) : Out := s.on (fun m => if m.keep.st = .frozen then m else m.gatePlace ep)

/-- A gate list instruction (R343, R360): endpoints 512 to 515 end with RANGE. -/
def Mach.gateOp (m : Mach) (e : Nat) (w : Word) (act : Nat → Mach → Mach) : Mach :=
  let a := (m.eng e).reg (wA w)
  m.status e false (epScope e a) false (fun m =>
    match selEp a with
    | some n => if n < 512 then act n m else m.endStatus e xRANGE []
    | none => m.endStatus e xRANGE [])

/-- The list that GT.LOAD reads from SRAM; none where it breaks R271. -/
def Mach.gateDesc (m : Mach) (e : Nat) (w : Word) : Option GateList :=
  let h := m.descWord e w 0
  let n := bf h 0 7
  let ents := (List.range (min n 64)).map (fun i => m.descWord e w (i + 1))
  if 1 ≤ n ∧ n ≤ 64 ∧ bf h 7 25 = 0 ∧ 64 ≤ bf h 32 32 ∧ ents.all (fun w => decide (bf w 35 29 = 0 ∧ 8 ≤ bf w 0 32)) = true then
    some ⟨ents, bf h 32 32, 0⟩
  else none

/-- GT.LOAD (R273). -/
def execGtLoad (e : EngId) (s : State) : Out :=
  s.on (fun m => m.issue e 0x82 anyWord (fun w m =>
    m.status e false (epScope e ((m.eng e).reg (wA w))) false (fun m => m.sadr e w (1 + min 64 (bf (m.descWord e w 0) 0 7)) (fun m => m.gateOp e w (fun n m =>
      match m.gateDesc e w with
      | none => m.endStatus e xRANGE []
      | some g =>
        if (m.niu n).gateSt = 2 then m.endStatus e xSTATE []
        else if !m.domLive (epTile n) then m.done e xOK []
        else (m.modNiu n (fun x => { x with gateP := g, gateSt := 1 })).done e xOK [])))))

/-- The start time that GT.ARM sets at `now` ns; none where it ends LATE (R274). -/
def armTime (align : Bool) (base ct now : Nat) : Option Nat :=
  if now + 100 ≤ base then some base
  else if align then some (base + cdiv (now + 100 - base) ct * ct)
  else none

/-- GT.ARM (R274). -/
def execGtArm (e : EngId) (s : State) : Out :=
  s.on (fun m => m.issue e 0x83 anyWord (fun w m =>
    m.gateOp e w (fun n m =>
      let x := m.niu n
      let now := m.ftNs
      if x.gateSt = 0 ∨ m.keep.st = .free ∨ m.keep.st = .frozen then m.endStatus e xSTATE []
      else if x.gateSt = 2 ∧ x.gateP.s < now + 100 then m.endStatus e xBUSY []
      else match armTime (bt w 42) ((m.eng e).reg (wB w)).toNat x.gateP.ct now with
        | none => ((m.addFld (aGt n 0x28) 16 16 1).orReg (aGt n 0x20) 1).endStatus e xLATE []
        | some t => (m.modNiu n (fun x => { x with gateP := { x.gateP with s := t }, gateSt := 2 })).done e xOK [])))

/-- GT_STAT and GT_CT of an NIU (R278). -/
def Mach.gtStatWord (m : Mach) (n : Nat) : Word :=
  let x := m.niu n
  let none := x.gate.ents.isEmpty
  let act := if none then 0 else if m.keep.st = .frozen then 2 else 1
  mkf 64 24 3 (if none then 7 else bf (x.gate.ents.getD x.gateIdx 0) 32 3) ||| mkf 64 16 6 (if none then 0 else x.gateIdx) |||
    mkf 64 8 7 x.gate.ents.length ||| mkf 64 2 2 x.gateSt ||| mkf 64 0 2 act
def Mach.gtCtWord (m : Mach) (n : Nat) : Word := mkf 64 32 32 (m.niu n).gateP.ct ||| mkf 64 0 32 (m.niu n).gate.ct

/-- GT.STAT (R275, R360). With no list active there is no entry in force: that word is a free value (log entry 11). -/
def execGtStat (e : EngId) (s : State) : Out :=
  s.on (fun m => m.issue e 0x84 anyWord (fun w m =>
    m.gateOp e w (fun n m =>
      let x := m.niu n
      let d (i : Nat) : Nat := (wD w + i) % 16
      if !m.domLive (epTile n) then m.done e xOK [(d 0, 0), (d 1, 0), (d 2, 0)]
      else if x.gate.ents = [] then
        let r := m.nextFree
        r.2.done e xOK [(d 0, m.gtStatWord n), (d 1, m.gtCtWord n), (d 2, Config.freeWord r.1)]
      else m.done e xOK [(d 0, m.gtStatWord n), (d 1, m.gtCtWord n), (d 2, x.gate.ents.getD x.gateIdx 0)])))

/-- Stations ENABLED, and reserved slots in force (R250). -/
def Mach.stnsOn (m : Mach) : Nat := if m.hasSpine then cnt (fun p => decide ((m.stn p).st = .enabled)) (List.range 32) else 0
def Mach.spResvd (m : Mach) : Nat := pop (m.reg 0x80010) 32

/-- The capacity of a resource in 1/4096 B per refill tick (R250). -/
def Mach.capacity (m : Mach) (r : Nat) : Nat :=
  let c := if m.clk.mode = 0 then 4096 else if m.clk.mode = 1 then 3072 else 2048
  if r < 464 then (if (m.link (r / 2)).st = .up then (if (m.dir r).half then c / 2 else c) * 4096 else 0)
  else if r < 1024 then (if m.domLive ((r - 512) % 256 / 2) then c * 4096 else 0)
  else if (m.stn ((r - 1024) % 32)).st = .enabled then c * 4 * m.stnsOn * (32 - m.spResvd) else 0

/-- What a reservation charges to a resource, in 1/960 B per refill tick (R251). -/
def Resv.charge (v : Resv) (r : Nat) : Nat :=
  if !v.res.contains r then 0 else if 1024 ≤ r then v.rate * (300 / v.nfl) else v.rate * 60

/-- Whether a resource meets conditions (a) and (b) of R251 with the reservations `l`. -/
def Mach.resMeets (m : Mach) (l : List Resv) (r : Nat) : Bool :=
  let sum (p : Resv → Bool) : Nat := ((l.filter p).map (fun v => v.charge r)).foldl (· + ·) 0
  let c := m.capacity r
  let all := sum (fun _ => true)
  let gr := sum (fun v => v.tc == 1)
  decide (all * 65536 ≤ c * 960 * m.fld 0x200 8 5) &&
  (decide (1024 ≤ r) ||
   decide (((gr * 65536 : Nat) : Int) ≤ ((c * 960 : Nat) - ((all - gr) * 4096 : Nat) : Int) * (m.fld 0x200 0 5 : Nat)))

/-- The lowest resource of the ledger that fails (R253). -/
def Mach.failing (m : Mach) : Option Nat :=
  let l := m.adm.led
  let used := (l.map Resv.res).flatten
  (used.filter (fun r => !m.resMeets l r)).foldl (fun b r =>
    match b with
    | none => some r
    | some q => some (min q r)) none

/-- Whether shedding under R253 is in progress. -/
def Mach.shedding (m : Mach) : Bool := m.failing.isSome

/-- Rank of R253: the greater is shed first; among TC1 reservations RLVL 3 is kept longest. -/
def Resv.rank (v : Resv) : Nat := if v.tc = 3 then 0 else if v.tc = 2 then 1 else 2 + (3 - v.rlvl)

/-- The reservation on a resource that is shed next (R253). -/
def Adm.victim (a : Adm) (r : Nat) : Option Resv :=
  (a.led.filter (fun v => v.res.contains r)).foldl (fun b v =>
    match b with
    | none => some v
    | some u => if u.rank < v.rank ∨ (u.rank = v.rank ∧ u.age < v.age) then some v else b) none

/-- Change what a shaper takes at the next tick, at a powered NIU. -/
def Mach.setPend (m : Mach) (ep k : Nat) (f : Shaper → Shaper) : Mach :=
  if m.domLive (epTile ep) then m.modNiu ep (fun x => x.modShp ep k f) else m

/-- Shed one reservation because of resource `r` (R253): its record, count and events (R256, R329, R451). -/
def Mach.shed (m : Mach) (v : Resv) (r : Nat) : Mach :=
  let rec' : Word := mkf 64 63 1 1 ||| mkf 64 51 12 r ||| mkf 64 49 2 v.tc ||| mkf 64 47 2 v.rlvl ||| mkf 64 37 10 v.ep |||
    mkf 64 31 6 v.shp ||| mkf 64 15 16 v.flow.toNat ||| mkf 64 0 15 m.ftUs
  let m := { m with adm := { m.adm with led := m.adm.led.filter (fun u => u.age ≠ v.age) } }
  let m := if m.adm.brq.length < 64 then { m with adm := { m.adm with brq := m.adm.brq ++ [rec'] } } else m.orReg 0x208 (2 ^ 32)
  let m := m.addFld 0x208 48 16 1
  let m := m.setPend v.ep v.shp (fun s => { s with demoted := true, pend := some (1, 0, s.next.2.2) })
  let m := if m.domLive (epTile v.ep) then m.orReg (aSch v.ep 0x20) (2 ^ 3) else m
  (m.postEvt 0 7 0 r m.adm.brq.length).occur 9 0 7 r 0 1

/-- Shed while a resource fails (R253). -/
def Mach.recheck : Nat → Mach → Mach
  | 0, m => m
  | k + 1, m =>
    match m.failing with
    | none => m
    | some r =>
      match m.adm.victim r with
      | none => m
      | some v => (m.shed v r).recheck k

/-- ADMISSION_RECHECK (R253). -/
def execAdmissionRecheck (s : State) : Out := s.on (fun m => m.recheck 1024)

/-- The descriptor of ADM.RESV (R251). -/
def Mach.resvDesc (m : Mach) (e : Nat) (w : Word) : Resv × Nat :=
  let d := m.descWord e w 0
  let r := m.descWord e w 1
  let n := bf d 16 7
  let res := (List.range (min n 64)).map (fun i => bf (m.descWord e w (2 + i / 4)) (16 * (i % 4)) 16)
  (⟨d.extractLsb' 48 16, bf d 38 10, bf d 32 6, bf d 30 2, bf d 28 2, bf d 25 3, bf r 32 20, bf r 0 20, res, 0⟩, n)

/-- Why ADM.RESV ends with RANGE (R251). -/
def Mach.resvRange (m : Mach) (v : Resv) (n : Nat) : Bool :=
  let others := m.adm.led.filter (fun u => !(u.ep == v.ep && u.shp == v.shp))
  decide (515 < v.ep) || decide (v.tc = 0) || decide (n = 0 ∨ 64 < n) || decide (v.nfl = 0 ∨ 5 < v.nfl) ||
  v.res.any (fun r => !resOk r) || decide (v.rate = 0) || decide (v.tc ≠ ((m.niu v.ep).shaper v.ep v.shp).tc) ||
  decide (8 ≤ cnt (fun u => u.ep == v.ep) others) || decide (1024 ≤ others.length)

/-- The first listed resource on which a condition of R251 fails. A spine resource that the variant does not have is not tested: it ends
the instruction with ABSENT (R5). -/
def Mach.resvFails (m : Mach) (v : Resv) (led : List Resv) : Option Nat :=
  v.res.find? (fun r => (m.hasSpine || decide (r < 1024)) && !m.resMeets led r)

/-- ADM.RESV (R251, R360): RANGE, DENIED, ABSENT, BUSY in that order. -/
def execAdmResv (e : EngId) (s : State) : Out :=
  s.on (fun m => m.issue e 0x85 anyWord (fun w m =>
    let r := m.resvDesc e w
    let v := r.1
    m.status e false (decide ((e : Nat) = 0)) false (fun m => m.sadr e w (2 + (min 64 r.2 + 3) / 4) (fun m =>
      if m.resvRange v r.2 then m.endStatus e xRANGE []
      else
        let old := m.adm.find v.ep v.shp
        let v := { v with age := (old.map Resv.age).getD m.adm.age }
        let led := m.adm.led.filter (fun u => !(u.ep == v.ep && u.shp == v.shp)) ++ [v]
        match m.resvFails v led with
        | some r => m.endStatus e xDENIED [(wD w, BitVec.ofNat 64 r)]
        | none =>
          if !m.hasSpine && v.res.any (fun r => decide (1024 ≤ r)) then m.endStatus e xABSENT []
          else if m.shedding then m.endStatus e xBUSY []
          else
          let m := { m with adm := { m.adm with led := led, age := m.adm.age + (if old.isSome then 0 else 1) } }
          (m.setPend v.ep v.shp (fun s => { s with demoted := false, pend := some (2, v.rate, v.burst) })).done e xOK []))))

/-- ADM.FREE (R252, R360). -/
def execAdmFree (e : EngId) (s : State) : Out :=
  s.on (fun m => m.issue e 0x86 anyWord (fun w m =>
    m.status e false (decide ((e : Nat) = 0)) false (fun m =>
      match selShaper ((m.eng e).reg (wA w)) with
      | none => m.endStatus e xRANGE []
      | some (ep, k) =>
        if (m.adm.find ep k).isNone then m.endStatus e xSTATE []
        else if m.shedding then m.endStatus e xBUSY []
        else
          let m := { m with adm := { m.adm with led := m.adm.led.filter (fun u => !(u.ep == ep && u.shp == k)) } }
          (m.setPend ep k (fun s => { s with pend := some (1, s.next.2.1, s.next.2.2) })).done e xOK [])))

/-- A write to ADM_BRQ_POP (R256). -/
def Mach.brqPop (m : Mach) (v : Word) : Mach :=
  if bt v 0 then { m with adm := { m.adm with brq := m.adm.brq.drop 1 } } else m

/-- ADM_BRQ_POP (R256). -/
def execAdmBrqPop (v : Word) (priv : Bool) (mid : BitVec 16) (s : State) : Out :=
  s.hostWrite 0x218 v true priv mid (fun m => m.brqPop v)

end Sys2Proof.Machine
end

