-- ==== Sys2Proof/Machine/Router.lean ====
section
/-! DEFINITION. Routers (R157 to R163, R166, R169, R182, R484): flits that enter a VC buffer, credits, switch allocation
and what becomes of a flit that a router sends. -/

namespace Sys2Proof.Machine

/-- Width by FAILED mask and FORCE_HALF (R195): true for HALF. One failed slice gives FULL under FORCE_HALF too: the table of R195 asks
for it with no slice failed only, where R202 has both directions run HALF (DESIGN CHOICE, log entry 143). -/
def halfOf (fail : BitVec 9) (force : Bool) : Bool :=
  let k := pop fail 9
  if k = 0 then force else decide (2 ≤ k)

/-- FORCE_HALF and ERRMODE of a link (R202). -/
def Mach.forceHalf (m : Mach) (n : Nat) : Bool := bt (m.reg (aLinkCfg n)) 8
def Mach.errReplay (m : Mach) (n : Nat) : Bool := bt (m.reg (aLinkCfg n)) 0

/-- Whether a link carries flits (R198). -/
def Mach.linkUp (m : Mach) (n : Nat) : Bool := decide ((m.link n).st = .up)

/-- Return the credit of a flit that has left an input (R163): on the opposite direction's wires, or at once where that link
carries nothing. -/
def Mach.credit (m : Mach) (t inp vc : Nat) : Mach :=
  if 4 ≤ inp then m
  else match dirOut t inp, neighbour t inp with
    | some l, some u =>
      if m.linkUp (l / 2) then m.modDir l (fun d => { d with crd := d.crd ++ [vc] })
      else m.modOut (kVc u (opposite inp) vc) (fun o => { o with used := o.used - 1 })
    | _, _ => m

/-- Whether a head is that of a combine packet (R45). -/
def isComb (h : FlitBits) : Bool := hOpc h % 32 == 6

/-- Whether an opcode is in the table of R48. -/
def opKnown (o : Nat) : Bool := decide (1 ≤ o % 32 ∧ o % 32 ≤ 6)

/-- Whether a head is discarded as it enters a router: its opcode is reserved (R48), it has no route (R484), or it is a combine packet
of a group that this router does not know (R282); a member's own RED goes to the combine unit in any case (R287). -/
def Mach.lostIn (m : Mach) (t inp : Nat) (h : FlitBits) : Bool :=
  if !opKnown (hOpc h) then true
  else if isComb h then decide (inp < 4) && (m.node t (hGroup h)).isNone else decide (hLa h = 7)

/-- What a router records of a head that enters it (R48, R180, R282, R484). RED and RRS are not routed by a table: EPOCH_MISS does not
count them (DESIGN CHOICE, log entry 113). -/
def Mach.headSeen (m : Mach) (t inp : Nat) (h : FlitBits) : Mach :=
  let m := if isComb h || (m.imgOf (hEpoch h)).2 then m else (m.orReg (aTile t 0x10) 1).addFld (aTile t 0x18) 0 16 1
  if !m.lostIn t inp h then m
  else if isComb h || !opKnown (hOpc h) then m.occur 2 0 4 t 0 1
  else (m.orReg (aTile t 0x10) (2 ^ 3)).addFld (aTile t 0x18) 48 16 1

/-- A flit arrives at an input of a router (R158, R163, R484). -/
def Mach.flitIn (m : Mach) (t inp vc : Nat) (f : Flit) : Mach :=
  let k := kVc t inp vc
  let b := m.vc k
  let hd := if f.head then f.bits else b.hd
  let m := m.countRtr t 3 (some inp) (some (vcTc vc)) hd
  let lost := if f.head then m.lostIn t inp f.bits else b.drop
  let m := if f.head then m.headSeen t inp f.bits else m
  if lost then (m.modVc k (fun b => { b with drop := !f.last, hd := hd })).credit t inp vc
  else (m.freeReg t inp).modVc k (fun b => { b with drop := false, hd := hd, q := b.q ++ [f], t := b.t ++ [m.clk.cyc], inReg := true })

/-- The packet that a combine unit sends next to an output in a VC (R282, R290): copies for one output go in order, copies for
different outputs do not wait for each other. -/
def Mach.cbHead (m : Mach) (t out vc : Nat) : Option (Nat × CbOut) :=
  firstIdx (fun (r : CbOut) => r.out == out && vcOf r.hd == vc) (m.cbUnit t).outq

/-- The CB input's register is free again: its flit has left, or stands in the combine unit's buffers, which hold what this input sends
(R157, R293; DEDUCED, log entry 123). -/
def CbUnit.freeReg (u : CbUnit) : CbUnit := { u with outq := u.outq.map (fun r => { r with inReg := false }) }

/-- The first flit of a produced packet leaves through the CB input, and the packet's next flit enters its register (R157, R282). -/
def Mach.popCb (m : Mach) (t i : Nat) (r : CbOut) : Mach :=
  if r.fl.length ≤ 1 then m.modCbu t (fun u => { u with outq := dropAt u.outq i })
  else (m.countRtr t 3 (some 7) (some (vcTc (vcOf r.hd))) r.hd).modCbu t (fun u =>
    { u with outq := modAt (fun x => { x with fl := x.fl.drop 1, inReg := true }) u.freeReg.outq i })

/-- Take the first flit of an input VC: the next flit of a packet that waits outside the router follows it into the input's register, the
credit returns (R157, R158, R163). -/
def Mach.popVc (m : Mach) (t inp vc out : Nat) (f : Flit) : Mach :=
  let b := m.vc (kVc t inp vc)
  let m := if b.tail.isEmpty then m else (m.freeReg t inp).countRtr t 3 (some inp) (some (vcTc vc)) b.hd
  let m := m.modVc (kVc t inp vc) (fun b =>
    { b with q := b.q.drop 1 ++ b.tail.take 1, t := b.t.drop 1 ++ (b.tail.take 1).map (fun _ => m.clk.cyc), tail := b.tail.drop 1, out := if f.last then none else some out, wait := if f.last then 0 else b.wait,
               inReg := !b.tail.isEmpty || b.inReg && !(b.q.drop 1).isEmpty })
  m.credit t inp vc

/-- The output that the first flit of an input VC asks for (R159, R282). -/
def Mach.wantsOut (m : Mach) (t inp vc : Nat) : Option (Nat × Flit) :=
  let b := m.vc (kVc t inp vc)
  match b.q with
  | [] => none
  | f :: _ =>
    match b.out with
    | some o => some (o, f)
    | none => if isComb f.bits then some (7, f) else some (hLa f.bits, f)

/-- The code of a VC at a station (R204). -/
def stnCode (vc : Nat) : Nat := if vc % 6 < 4 then (if vc < 6 then 0 else 2) else (if vc < 6 then 1 else 3)

/-- The NIU of a local output that a flit goes to: the head's destination, or the one whose packet is in progress. -/
def Mach.localNiu (m : Mach) (t out vc : Nat) (f : Flit) : Nat :=
  if f.head then (if hDst f.bits < 512 then 4 * t + hDst f.bits % 4 else hDst f.bits)
  else
    let open' (n : Nat) : Bool := match ((m.niu n).ejFlits vc).getLast? with
      | some g => !g.last
      | none => false
    let c := 4 * t + 2 * (out - 4)
    if open' c then c else if open' (c + 1) then c + 1 else 512 + quadOf t

/-- Slots that one flit takes on a link direction, at the width its sender uses (R196, R197). -/
def Mach.slotsPer (m : Mach) (l : Nat) : Nat :=
  let d := m.dir l
  if (match d.lmap with
      | some (k, force) => halfOf k force
      | none => d.half) then 2 else 1

/-- Whether a link direction takes a flit of so many slots: the last one has been examined, or the receiver discards all that comes, and
the sender's replay buffer of 16 has room (R158, R192). -/
def LDir.takes (d : LDir) (k : Nat) : Bool := if d.nak then decide (d.sent.length + k ≤ 16) else d.sent.isEmpty

/-- The flit that stands in the receiver's input register, not examined yet: at full width it is there from the cycle in which it is
sent (R158, R189). -/
def LDir.inReg (d : LDir) : Option (Nat × Flit) :=
  match d.sent with
  | s :: _ => if d.nak = true ∨ d.half = true ∨ 12 ≤ s.tag then none else s.flit.map (fun f => (s.tag, f))
  | [] => none

/-- Whether an output can send a slot now: a link direction takes a flit when its last one has been examined, or while the receiver
discards all that comes, up to 16 (R158, R192; log entry 142). -/
def Mach.linkFree (m : Mach) (t out : Nat) : Bool :=
  if out < 4 then
    match dirOut t out with
    | none => true
    | some l => !m.linkUp (l / 2) || (m.dir l).takes (m.slotsPer l)
  else true

/-- Whether the VC downstream is free for a head, or has a credit for a data flit (R161, R163, R206). At a local output the VC holds 4
flits (R163), a head among them until the NIU takes it (R160; DEDUCED, log entry 27). A data flit whose head was lost with its link is
taken, to be discarded (R169). -/
def Mach.vcFree (m : Mach) (t out vc : Nat) (f : Flit) : Bool :=
  let o := m.outVc (kVc t out vc)
  if out < 4 then
    match dirOut t out with
    | none => true
    | some l => !m.linkUp (l / 2) || (if f.head then !o.busy && decide (o.used = 0) else !o.busy || decide (o.used < 4))
  else if out < 6 then
    if f.head then !o.busy && ((m.niu (m.localNiu t out vc f)).ejFlits vc).isEmpty
    else (m.niu (m.localNiu t out vc f)).ejRoom vc
  else if out = 6 then
    match spineOf t with
    | none => true
    | some p => decide ((m.stn p).st = .dead) || !f.head || (Tab.get dNil (m.stn p).entry (stnCode vc)).isEmpty
  else true

/-- Whether an output takes a flit now. -/
def Mach.outTakes (m : Mach) (t out vc : Nat) (f : Flit) : Bool := m.linkFree t out && m.vcFree t out vc f

/-- Put a flit on a link direction, with a credit that waits to be returned (R186, R197). At full width it is in the receiver's input
register at once: what stood there is in its VC buffer (R158). -/
def Mach.sendSlot (m : Mach) (l vc : Nat) (f : Flit) : Mach :=
  let two := m.slotsPer l = 2
  let m := if two ∨ (m.dir l).nak = true then m else m.freeReg (dirTo l) (dirInput l)
  m.modDir l (fun d =>
    let s1 : Slot := ⟨vc, f.head, d.crd.headD 15, 0, some f⟩
    let s2 : Slot := ⟨14, false, (d.crd.drop 1).headD 15, 0, some f⟩
    if two then { d with sent := d.sent ++ [s1, s2], crd := d.crd.drop 2 } else { d with sent := d.sent ++ [s1], crd := d.crd.drop 1 })

/-- A packet is lost at a link that carries nothing (R169, R451). -/
def Mach.deadDrop (m : Mach) (t out vc : Nat) (h : FlitBits) : Mach :=
  let m := (m.orReg (aTile t 0x10) (2 ^ 2)).addFld (aTile t 0x18) 32 16 1
  let m := m.countRtr t 8 none (some (vcTc vc)) h
  match dirOut t out with
  | none => m
  | some l => m.occur 3 2 2 (l / 2) (128 * (l % 2)) 1

/-- HOPS of a head that a router forwards (R159, R176). -/
def Mach.hop (m : Mach) (t : Nat) (h : FlitBits) : FlitBits × Mach :=
  if hHops h = 63 then (h, m)
  else
    let m := if hHops h = 62 then (m.orReg (aTile t 0x10) 2).addFld (aTile t 0x18) 16 16 1 else m
    (hSetHops h (hHops h + 1), m)

/-- The head of a cell's flits. -/
def hdOf (l : List Flit) : FlitBits := (l.head?.map Flit.bits).getD 0

/-- Count lost cells or flits in Eland, the first with head `h` (R212, R230). -/
def Mach.cellLost (m : Mach) (p k : Nat) (h : FlitBits) : Mach :=
  if k = 0 then m else ((m.orReg 0x80030 (2 ^ 3)).addFld 0x80038 0 32 k).count 5120 64 5 (some p) none k h

/-- A flit leaves a router through an output (R159, R169, R206, R282). At a DEAD station a packet is counted with its head: one that the
death cut has been counted with its station. Every flit discarded there sets CELL_LOST (R230, R231). -/
def Mach.sendOut (m : Mach) (t out vc : Nat) (f : Flit) (hd : FlitBits) : Mach :=
  if out < 4 then
    match dirOut t out, neighbour t out with
    | some l, some u =>
      if !m.linkUp (l / 2) then (if f.head then m.deadDrop t out vc f.bits else m)
      else if !f.head && !(m.outVc (kVc t out vc)).busy then m
      else
        let bits := if f.head && !isComb f.bits then hSetLa f.bits (m.la u (opposite out) (some (m.reportFrom t out)) f.bits) else f.bits
        (m.modOut (kVc t out vc) (fun o => { used := o.used + 1, busy := !f.last })).sendSlot l vc { f with bits := bits }
    | _, _ => if f.head then m.deadDrop t out vc f.bits else m
  else if out < 6 then
    (m.modOut (kVc t out vc) (fun o => { o with busy := !f.last })).modNiu (m.localNiu t out vc f) (fun x => x.pushEj vc f)
  else if out = 6 then
    match spineOf t with
    | none => m
    | some p =>
      if (m.stn p).st = .dead then (if f.head then m.cellLost p 1 hd else m.orReg 0x80030 (2 ^ 3))
      else m.modStn p (fun x => { x with entry := Tab.upd dNil x.entry (stnCode vc) (fun l => l ++ [f]) })
  else m

/-- A flit goes to the combine unit (R282): whole packets wait there for their own commands. -/
def Mach.toCb (m : Mach) (t inp vc : Nat) (f : Flit) : Mach :=
  m.modCbu t (fun u =>
    let k := inp * 12 + vc
    let fl := Tab.get dNil u.part k ++ [f]
    if !f.last then { u with part := Tab.set dNil u.part k fl }
    else
      let u := { u with part := Tab.set dNil u.part k [] }
      match Pkt.ofFlits fl with
      | some p => { u with inq := u.inq ++ [(inp, cnt (fun g => decide (g.bad ≠ 0)) fl, p)] }
      | none => u)

/-- One candidate of switch allocation: input, VC, flit. -/
abbrev Cand := Nat × Nat × Flit

/-- The inputs and VCs whose first flit asks for an output that takes it (R161, R162). -/
def Mach.cands (m : Mach) (t out : Nat) : List Cand :=
  ((List.range 7).map (fun inp => (List.range 12).filterMap (fun vc =>
    match m.wantsOut t inp vc with
    | some (o, f) => if o = out ∧ m.outTakes t out vc f = true then some (inp, vc, f) else none
    | none => none))).flatten ++
  (List.range 12).filterMap (fun vc =>
    ((m.cbHead t out vc).bind (fun r => r.2.fl.head?)).bind (fun f => if m.outTakes t out vc f then some (7, vc, f) else none))

/-- FCLK cycles that the head of a candidate has waited at its router. -/
def Mach.waited (m : Mach) (t out : Nat) (c : Cand) : Nat :=
  if c.1 = 7 then ((m.cbHead t out c.2.1).map (fun r => r.2.wait)).getD 0 else (m.vc (kVc t c.1 c.2.1)).wait

/-- The priority level of a candidate (R162), 0 first. -/
def Mach.level (m : Mach) (t out : Nat) (c : Cand) : Nat :=
  let l := vcLevel c.2.1
  let age := m.fld (aTile t 8) 16 8
  if l < 2 then l else if age ≠ 0 ∧ age * 16 ≤ m.waited t out c then 2 else 3

/-- Round robin among candidates: the input next after the last one granted, its lowest VC (DESIGN CHOICE: R162 orders inputs, not the
VCs of one input, log entry 154). After reset the last one granted is input 0, so that input 1 comes first (DESIGN CHOICE, log entry 6). -/
def rrCand (last : Nat) (l : List Cand) : Option Cand :=
  l.foldl (fun b c =>
    match b with
    | none => some c
    | some d => if (c.1 + 15 - last) % 8 < (d.1 + 15 - last) % 8 then some c else b) none

/-- Switch allocation for one output (R162): the winner, and whether it took a turn of the weighted round robin. -/
def Mach.winner (m : Mach) (t out : Nat) : Option (Cand × Bool) :=
  let cs := m.cands t out
  let lv := (cs.map (m.level t out)).foldl min 9
  let l := cs.filter (fun c => m.level t out c == lv)
  let rsp := l.filter (fun c => decide (6 ≤ c.2.1))
  let l := if rsp.isEmpty then l else rsp
  let a := m.arbOf (t * 8 + out)
  let gr := l.filter (fun c => vcGr c.2.1)
  let be := l.filter (fun c => !vcGr c.2.1)
  let w := max 1 (m.fld (aTile t 8) 0 4)
  let l := if lv ≠ 3 ∨ gr = [] ∨ be = [] then l else if a.gr < w then gr else be
  (rrCand a.last l).map (fun c => (c, decide (lv = 3)))

/-- Account for a grant (R162): the round of GR_W and BE_W grants starts again when both are used. A grant made while only one of the two
asks counts too, up to its weight (DESIGN CHOICE: R162 does not say, log entry 155). -/
def Mach.grant (m : Mach) (t out : Nat) (c : Cand) (wrr : Bool) : Mach :=
  let wg := max 1 (m.fld (aTile t 8) 0 4)
  let wb := max 1 (m.fld (aTile t 8) 4 4)
  m.modArb (t * 8 + out) (fun a =>
    let a := { a with last := c.1 }
    if !wrr then a
    else
      let g := if vcGr c.2.1 then min wg (a.gr + 1) else a.gr
      let b := if vcGr c.2.1 then a.be else min wb (a.be + 1)
      if wg ≤ g ∧ wb ≤ b then { a with gr := 0, be := 0 } else { a with gr := g, be := b })

/-- The heads that lose switch allocation to the flit of an input VC (R162), noted for the counters that count such cycles (R438). -/
def Mach.noteLost (m : Mach) (t out inp vc : Nat) : Mach :=
  if m.tele.owner.isEmpty then m
  else
    let l := (m.cands t out).filter (fun c => c.2.2.head && !(c.1 == inp && c.2.1 == vc))
    m.modTele (fun x => { x with lost := x.lost ++ l.map (fun c => (t, c.1, c.2.1, out)) })

/-- One flit through an output of a router (R159 to R162). -/
def Mach.switch (m : Mach) (t out : Nat) : Mach :=
  match m.winner t out with
  | none => m
  | some ((inp, vc, f), wrr) =>
    let cb := if inp = 7 then m.cbHead t out vc else none
    let hd := if f.head then f.bits else ((cb.map (fun r => r.2.hd)).getD (m.vc (kVc t inp vc)).hd)
    let m := (m.noteLost t out inp vc).grant t out (inp, vc, f) wrr
    let m := match cb with
      | some (i, r) => m.popCb t i r
      | none => m.popVc t inp vc out f
    if out = 7 then
      let m := m.countRtr t 1 (some 7) (some (vcTc vc)) hd
      (if f.head then m.countRtr t 2 (some 7) (some (vcTc vc)) f.bits else m).toCb t inp vc f
    else
      let r := if f.head then m.hop t f.bits else (f.bits, m)
      let f := { f with bits := r.1 }
      let m := r.2
      let hd := if f.head then f.bits else hd
      let m := m.countRtr t 1 (some out) (some (vcTc vc)) hd
      let m := if f.head then (m.countRtr t 2 (some out) (some (vcTc vc)) hd).mirror t 1 out vc f.bits else m
      m.sendOut t out vc f hd

/-- ROUTER_SWITCH (R159): the flit that wins an output of a powered router leaves through it. -/
def execRouterSwitch (t : Tile) (out : Port) (s : State) : Out :=
  s.on (fun m => if m.domLive t then m.switch t out else m)

end Sys2Proof.Machine
end

