-- ==== Sys2Proof/Machine/Link.lean ====
section
/-! DEFINITION. Links (R184 to R202): slots and their checks, replay, slice maps, training, exclusion, and the link
instructions (R355). -/

namespace Sys2Proof.Machine

/-- The position of data bit `i` in the 72-bit codeword (R185): positions from 1 that are no powers of two, ascending. -/
def dataPos (i : Nat) : Nat :=
  let p := if 4 ≤ i + 3 then i + 4 else i + 3
  let p := if 8 ≤ p then p + 1 else p
  let p := if 16 ≤ p then p + 1 else p
  let p := if 32 ≤ p then p + 1 else p
  if 64 ≤ p then p + 1 else p

/-- The syndrome of an error pattern on a slice, data on [63:0] and C7 to C0 on [71:64] (R185). -/
def syndrome (e : BitVec 72) : Nat :=
  let d := (List.range 64).foldl (fun s i => if bt e i then s ^^^ dataPos i else s) 0
  d ^^^ bf e 64 7

/-- What a check finds on a slice (R185). -/
inductive SliceRes where
  | clean | corr | unc
deriving DecidableEq, Repr

/-- The result of the check of an error pattern, and the data bits in error after correction (R185). -/
def sliceCheck (e : BitVec 72) : SliceRes × BitVec 64 :=
  let s := syndrome e
  let odd := pop e 72 % 2 = 1
  let d : BitVec 64 := e.extractLsb' 0 64
  if s = 0 ∧ ¬odd then (.clean, d)
  else if odd ∧ s ≤ 71 then
    (.corr, (List.range 64).foldl (fun d i => if dataPos i = s then d ^^^ BitVec.ofNat 64 (2 ^ i) else d) d)
  else (.unc, d)

/-- Healthy slices in ascending order, and the physical slice that carries word `w` (R195): in the second slot of a
half-width flit words 4 to 7 take the half-lanes. -/
def healthy (fail : BitVec 9) : List Nat := (List.range 9).filter (fun k => !bt fail k)
def sliceOf (fail : BitVec 9) (half : Bool) (w : Nat) : Nat :=
  (healthy fail).getD (if half then w % 4 else w) 8

/-- The words of a flit that a slot carries (R197). -/
def slotWords (half second : Bool) : List Nat := if !half then List.range 8 else if second then [4, 5, 6, 7] else [0, 1, 2, 3]

/-- The control word without its parity errors: TAG, H, CRD and RPT as received, whether NAK was set by the wires, and
whether there is a control error (R186, R190). -/
structure Ctl where
  tag : Nat
  h   : Bool
  crd : Nat
  rpt : Nat
  nak : Bool
  bad : Bool
deriving DecidableEq, Repr

/-- The control word of a slot through an error pattern (R186, R187, R190). -/
def ctlOf (s : Slot) (nak : Bool) (rpt : Nat) (e : BitVec 24) : Ctl :=
  let w : BitVec 24 := (mkf 24 20 4 s.tag ||| mkf 24 19 1 (b1 s.h) ||| mkf 24 15 4 s.crd ||| mkf 24 14 1 (b1 nak) ||| mkf 24 0 12 rpt) ^^^ e
  let p0 := (pop (e.extractLsb' 19 5) 5 + b1 (bt e 14) + b1 (bt e 13)) % 2
  let p1 := (pop (e.extractLsb' 15 4) 4 + b1 (bt e 12)) % 2
  let tag := bf w 20 4
  let h := bt w 19
  ⟨tag, h, bf w 15 4, bf w 0 12, bt w 14, decide (p0 = 1 ∨ p1 = 1) || (decide (13 ≤ tag) && h)⟩

/-- A report as its 12 wires carry it: the sender's three outputs other than the one that faces the receiver (R188). -/
def packRpt (r : BitVec 16) (facing : Nat) : Nat :=
  (((List.range 4).filter (fun d => d ≠ facing)).foldl (fun v d => v * 16 + 4 * bf r (2 * d) 2 + bf r (8 + 2 * d) 2) 0)
def unpackRpt (v facing : Nat) : BitVec 16 :=
  let ds := (List.range 4).filter (fun d => d ≠ facing)
  BitVec.ofNat 16 ((List.range 4).foldl (fun a d =>
    let k := match firstIdx (fun x => x == d) ds with
      | some (i, _) => v / 16 ^ (2 - i) % 16
      | none => 15
    a + k / 4 % 4 * 2 ^ (2 * d) + k % 4 * 2 ^ (8 + 2 * d)) 0)

/-- The FAILED mask of a direction (R195), with slices marked for which a new map is not yet in force. -/
def LDir.mask (d : LDir) : BitVec 9 := d.want.getD d.fail

/-- Give back the credits that a link's lost slots held: those in use are the flits downstream. No packet is in progress any more
(R161). -/
def Mach.resync (m : Mach) (l : Nat) : Mach :=
  let t := dirFrom l
  let out := opposite (dirInput l)
  (List.range 12).foldl (fun m vc => m.modOut (kVc t out vc) (fun _ => { used := (m.vc (kVc (dirTo l) (dirInput l) vc)).q.length, busy := false })) m

/-- The packets whose head is in a lost slot of a direction (R169). -/
def Mach.dropSent (m : Mach) (l : Nat) : Mach :=
  let lost := (m.dir l).sent.filter (fun s => s.h && decide (s.tag < 12))
  lost.foldl (fun m s =>
    match s.flit with
    | some f => m.deadDrop (dirFrom l) (opposite (dirInput l)) s.tag f.bits
    | none => m) m

/-- The slots of a direction without the flits that a VC's packet has there: idle slots with their credits. -/
def cutSlots (vc : Nat) : Bool → List Slot → List Slot
  | _, [] => []
  | on, s :: r =>
    if s.tag = vc ∨ (on = true ∧ s.tag = 14) then ⟨15, false, s.crd, 0, none⟩ :: cutSlots vc (decide (s.tag = vc)) r
    else s :: cutSlots vc false r

/-- Whether an input VC holds a packet of which flits are still to come, or has passed a part of it on. -/
def VcBuf.cut (b : VcBuf) : Bool :=
  match b.q.getLast? with
  | some f => !f.last || !b.tail.isEmpty
  | none => b.out.isSome || b.drop

/-- A packet whose rest is lost leaves no flit in any router (R191): from the input VC that waits for it on, its flits are discarded, their
credits returned as they are, and its VCs are free (R161; DEDUCED, log entry 49). `k` bounds the routers on its way. -/
def Mach.cutVc (t inp vc : Nat) (m : Mach) : Nat → Mach
  | 0 => m
  | k + 1 =>
    let b := m.vc (kVc t inp vc)
    if !b.cut then m
    else
      let m := each b.q (fun _ m => m.credit t inp vc) m
      let m := m.modVc (kVc t inp vc) (fun b => { VcBuf.empty with hd := b.hd })
      match b.out with
      | none => m
      | some o =>
        let m := m.modOut (kVc t o vc) (fun x => { x with busy := false })
        if o < 4 then
          match dirOut t o with
          | none => m
          | some l =>
            if !m.linkUp (l / 2) then m
            else
              let sent := cnt (fun s => decide (s.tag = vc)) (m.dir l).sent
              let m := m.modOut (kVc t o vc) (fun x => { x with used := x.used - sent })
              let m := m.modDir l (fun d =>
                { d with sent := cutSlots vc false d.sent, dvc := sf d.dvc vc 1 0,
                         half1 := match d.half1 with
                           | some h => if h.1 = vc then none else some h
                           | none => none })
              m.cutVc (dirTo l) (dirInput l) vc k
        else if o < 6 then
          let part (n : Nat) : Bool := match ((m.niu n).ejFlits vc).getLast? with
            | some g => !g.last
            | none => false
          ([4 * t + 2 * (o - 4), 4 * t + 2 * (o - 4) + 1, 512 + quadOf t].filter part).foldl (fun m n => m.modNiu n (fun x => x.clearEj vc)) m
        else if o = 6 then
          match spineOf t with
          | none => m
          | some p => m.modStn p (fun x => { x with entry := Tab.set dNil x.entry (stnCode vc) [] })
        else m.modCbu t (fun u => { u with part := Tab.set dNil u.part (inp * 12 + vc) [] })

/-- The packets that a direction has carried in part (R169, R191): lost, and counted where their heads left. One that the receiver discards
in any case has been counted. -/
def Mach.cutDir (m : Mach) (l : Nat) : Mach :=
  (List.range 12).foldl (fun m vc =>
    let b := m.vc (kVc (dirTo l) (dirInput l) vc)
    let m := if b.cut && !b.drop then m.deadDrop (dirFrom l) (opposite (dirInput l)) vc b.hd else m
    m.cutVc (dirTo l) (dirInput l) vc 256) m

/-- Empty a direction of a link that carries nothing any more, with the FAILED mask it keeps. -/
def Mach.clearDir (m : Mach) (l : Nat) : Mach :=
  (((m.dropSent l).cutDir l).modDir l (fun d => { LDir.init with fail := d.mask, half := d.half })).resync l

/-- A link becomes DEAD (R193, R198): recorded, and posted to the engine of its quadrant; a
LANE.MAP that waits for its new map ends with STATE. -/
def Mach.linkDie (m : Mach) (l : Nat) : Mach :=
  let n := l / 2
  let m := (m.modLink n (fun k => { k with st := .dead, incl := false }))
  let m := (m.clearDir (2 * n)).clearDir (2 * n + 1)
  let m := (m.finish (.laneMap (2 * n)) xSTATE).finish (.laneMap (2 * n + 1)) xSTATE
  (m.occur 5 0 2 n 0 1).postEvt (qeOf (quadOf (linkTile n))) 2 1 (2 + l % 2) n

/-- Record newly failed slices of a direction (R195, R451). -/
def Mach.slicesFail (m : Mach) (l : Nat) (new : BitVec 9) : Mach :=
  let n := l / 2
  ((List.range 9).filter (fun k => bt new k)).foldl (fun m k =>
    (m.occur 4 0 2 n (128 * (l % 2) + k) 1).postEvt (qeOf (quadOf (linkTile n))) 2 0 (l % 2 + 4 * k) n) m

/-- A receiver asks for a new slice map (R196): LREQ on the opposite direction. -/
def Mach.askMap (m : Mach) (l : Nat) : Mach :=
  match (m.dir l).want with
  | none => m
  | some k =>
    m.modDir (dirBack l) (fun d =>
      { d with sent := d.sent ++ [⟨12, false, d.crd.headD 15, k.toNat + 512 * b1 (m.forceHalf (l / 2)), none⟩], crd := d.crd.drop 1 })

/-- Mark slices of a direction failed (R195): they are recorded; the link dies where fewer than 4 stay healthy. -/
def Mach.markSlices (m : Mach) (l : Nat) (bad : BitVec 9) : Mach :=
  let d := m.dir l
  let k := d.mask ||| bad
  let new := bad &&& ~~~d.mask
  if new = 0 then m
  else
    let m := (m.slicesFail l new).modDir l (fun d => { d with want := some k })
    if 5 < pop k 9 then m.linkDie l else m.askMap l

/-- A slot fails its check (R190 to R193): NAK until the replay; a slot replayed eight times marks its slices, or kills the
link. -/
def Mach.slotFails (m : Mach) (l : Nat) (bad : BitVec 9) : Mach :=
  let d := m.dir l
  let all := d.bad ||| bad
  let m := m.modDir l (fun d => { d with nak := true, half1 := none, bad := all })
  if d.tries < 8 then m
  else if all = 0 ∨ 5 < pop (d.mask ||| all) 9 then m.linkDie l
  else (m.modDir l (fun d => { d with tries := 0, bad := 0 })).markSlices l all

/-- The slots of flits that are to be sent again under a map of another width (R197): whole flits, the credits of second slots that
fall away given back. -/
def reslot (half : Bool) : List Slot → List Slot × List Nat
  | [] => ([], [])
  | s :: r =>
    let x := reslot half r
    if s.tag = 14 then (x.1, (if s.crd < 12 then [s.crd] else []) ++ x.2)
    else if s.tag < 12 ∧ half = true then (s :: ⟨14, false, 15, 0, s.flit⟩ :: x.1, x.2)
    else (s :: x.1, x.2)

/-- How many of a direction's slots come before its sender's next slot (R192, R196): all, but during a replay the RPLY, and the two
slots of a flit that is half across. -/
def LDir.ahead (d : LDir) : Nat :=
  if !d.nak && decide (d.tries = 0) then d.sent.length
  else if (d.sent.map Slot.tag).headD 0 = 13 then 1
  else if d.half1.isSome then 2
  else 0

/-- A sender answers LREQ, or a change of FORCE_HALF, in its next slot with LMAP and two idle slots (R196). What a replay still has to
send follows under the new map; an LMAP sent again carries the argument of now, as RPT is always current (R192). -/
def Mach.sendMap (m : Mach) (l : Nat) (k : BitVec 9) (force : Bool) : Mach :=
  m.modDir l (fun d =>
    let c (i : Nat) : Nat := (d.crd.drop i).headD 15
    let rest := reslot (halfOf k force) ((d.sent.drop d.ahead).map (fun s => if s.tag = 12 ∧ s.h = true then { s with arg := k.toNat + 512 * b1 force } else s))
    { d with sent := d.sent.take d.ahead ++ [⟨12, true, c 0, k.toNat + 512 * b1 force, none⟩, ⟨15, false, c 1, 0, none⟩,
                       ⟨15, false, c 2, 0, none⟩] ++ rest.1,
             crd := rest.2 ++ d.crd.drop 3, lmap := some (k, force) })

/-- A receiver takes a new slice map (R196), and LANE.MAP ends. No bit of FAILED is cleared; with 6 or more the link is DEAD (R195). -/
def Mach.takeMap (m : Mach) (l : Nat) (k : BitVec 9) (force : Bool) : Mach :=
  let all := (m.dir l).fail ||| k
  let m := m.modDir l (fun d =>
    { d with fail := all, half := halfOf all force, lmap := if d.lmap = some (k, force) then none else d.lmap, want := if d.want = some k then none else d.want })
  if 5 < pop all 9 then m.linkDie l
  else if (m.dir l).want.isNone then m.finish (.laneMap l) xOK else m

/-- Take the credit of a slot that arrives on `l` (R186): the receiving router may use it toward the sender. -/
def Mach.takeCredit (m : Mach) (l crd : Nat) : Mach :=
  if 12 ≤ crd then m else m.modOut (kVc (dirTo l) (dirInput l) crd) (fun o => { o with used := o.used - 1 })

/-- Remove the slot just accepted from the replay buffer: it is confirmed (R192). A first half stays until its flit is
whole, its credit taken. -/
def Mach.confirm (m : Mach) (l k : Nat) : Mach :=
  m.modDir l (fun d =>
    let replayed := match d.sent with
      | s :: _ => decide (s.tag ≠ 13)
      | [] => true
    { d with sent := d.sent.drop k, tries := if replayed then 0 else d.tries, bad := if replayed then 0 else d.bad })

/-- Deliver a checked flit to its VC (R191): in CORRECT an uncorrectable head is discarded with the rest of its packet, an
uncorrectable word of a data flit stays marked. -/
def Mach.deliverFlit (m : Mach) (l vc : Nat) (f : Flit) : Mach :=
  let t := dirTo l
  let i := dirInput l
  let drop := if f.head then decide (f.bad ≠ 0) else bt (m.dir l).dvc vc
  if drop then
    let m := m.modDir l (fun d => { d with dvc := sf d.dvc vc 1 (b1 !f.last) })
    let m := if f.head then m.occur 3 0 2 (l / 2) (128 * (l % 2)) 1 else m
    m.credit t i vc
  else
    let m := if f.head then m.modDir l (fun d => { d with dvc := sf d.dvc vc 1 0 }) else m
    let m := if f.bad ≠ 0 then m.occur 3 1 2 (l / 2) (128 * (l % 2)) 1 else m
    m.flitIn t i vc f

/-- What the lane check of one slot finds (R191, R195): for each word carried its physical slice, the result, and the data
bits left in error. -/
def Mach.laneCheck (m : Mach) (l : Nat) (second : Bool) (f : Flit) (e : BitVec 648) : List (Nat × Nat × SliceRes × BitVec 64) :=
  let d := m.dir l
  (slotWords d.half second).map (fun w =>
    let p := sliceOf d.fail d.half w
    let r := sliceCheck (e.extractLsb' (72 * p) 72)
    (w, p, if bt f.bad w then .unc else r.1, r.2))

/-- The flit as the receiver re-encodes it after a check. -/
def reencode (f : Flit) (c : List (Nat × Nat × SliceRes × BitVec 64)) : Flit :=
  c.foldl (fun f r =>
    let f := { f with bits := f.bits ^^^ mkf 512 (64 * r.1) 64 r.2.2.2.toNat }
    if r.2.2.1 = .unc then { f with bad := f.bad ||| BitVec.ofNat 8 (2 ^ r.1) } else f) f

/-- A flit slot passes or fails its lane check (R189, R191, R195). -/
def Mach.flitSlot (m : Mach) (l : Nat) (c : Ctl) (f : Flit) (e : BitVec 648) : Mach :=
  let d := m.dir l
  let second := d.half1.isSome
  let f0 := match d.half1 with
    | some (_, g) => g
    | none => { f with head := c.h }
  let chk := m.laneCheck l second f0 e
  let dirty := chk.filter (fun r => decide (r.2.2.1 ≠ .clean))
  let nc := cnt (fun r => decide (r.2.2.1 = .corr)) chk
  let nu := cnt (fun r => decide (r.2.2.1 = .unc)) chk
  let m := m.modDir l (fun d => { d with errs := dirty.foldl (fun es r => modAt (· + 1) es r.2.1) d.errs })
  let m := if nc = 0 then m else m.addFld (aLinkCnt l) 16 16 nc
  if m.errReplay (l / 2) ∧ dirty ≠ [] then
    m.slotFails l (dirty.foldl (fun b r => b ||| BitVec.ofNat 9 (2 ^ r.2.1)) 0)
  else
    let m := if nu = 0 then m else m.addFld (aLinkCnt l) 32 16 nu
    let g := reencode f0 chk
    if d.half ∧ ¬second then
      m.modDir l (fun d => { d with half1 := some (c.tag, g), sent := modAt (fun (s : Slot) => { s with crd := 15 }) d.sent 0 })
    else
      let vc := match d.half1 with
        | some (v, _) => v
        | none => c.tag
      ((m.confirm l (if d.half then 2 else 1)).modDir l (fun d => { d with half1 := none })).deliverFlit l vc g

/-- The slot that a receiver examines next, put into the replay buffer first where the sender has nothing to send: an idle
slot with a waiting credit (R187, R192). -/
def Mach.nextSlot (m : Mach) (l : Nat) : Slot × Mach :=
  let d := m.dir l
  match d.sent, d.half1 with
  | _ :: s :: _, some _ => (s, m)
  | s :: _, _ => (s, m)
  | [], _ =>
    let s : Slot := ⟨15, false, d.crd.headD 15, 0, none⟩
    (s, m.modDir l (fun d => { d with sent := [s], crd := d.crd.drop 1 }))

/-- One slot arrives and is checked (R189 to R197). While the receiver drives NAK it discards what arrives. An error on the RPT wires
reaches reports only: the argument of a command is taken as sent, since such an error may change nothing but the choice among
permitted outputs (R188; DEDUCED, log entry 144). TAG and H as received code the slot (R187): a flit that arrives as a command or idle
slot is lost and the command is carried out; a slot without a flit that arrives with the code of one brings no flit, as its lanes carry
none that the spec describes (DESIGN CHOICE, log entry 157), and so does half of a flit out of its place. Lane errors of a slot with a
control error are not looked at: that slot counts as one with errors in its control word only (DESIGN CHOICE: R193 and R195 do not say,
log entry 156). -/
def Mach.receive (m : Mach) (l : Nat) (ctlErr : BitVec 24) (laneErr : BitVec 648) : Mach :=
  if (m.dir l).nak then m
  else
    let r := m.nextSlot l
    let s := r.1
    let m := r.2
    let facing := opposite (dirInput l)
    let cmd := decide (s.tag = 12 ∨ s.tag = 13)
    let wires := if cmd then s.arg else packRpt (m.report (dirFrom l) facing) facing
    let c := ctlOf s (m.dir (dirBack l)).nak wires ctlErr
    if c.bad then
      ((m.addFld (aLinkCnt l) 0 16 1).modDir (dirBack l) (fun d => { d with nak := true })).slotFails l 0
    else
      let m := if c.nak then m.modDir (dirBack l) (fun d => { d with nak := true }) else m
      let half := (m.dir l).half1.isSome
      let whole := (c.tag < 12 ∧ half = false) ∨ (c.tag = 14 ∧ half = true)
      match (if whole then s.flit else none) with
      | some f =>
        let was := (m.dir l).sent.length
        let m := m.flitSlot l c f laneErr
        let m := if c.tag < 12 ∧ (m.dir l).nak = false then m.takeCredit l c.crd else if (m.dir l).sent.length < was then m.takeCredit l c.crd else m
        if (m.dir l).nak then m else m.modDir l (fun d => { d with rpt := unpackRpt c.rpt facing })
      | none =>
        let m := ((m.confirm l (if half then 2 else 1)).modDir l (fun d => { d with half1 := none })).takeCredit l c.crd
        if c.tag = 12 ∧ c.h = false then m.sendMap (dirBack l) (BitVec.ofNat 9 wires) (wires / 512 % 2 == 1)
        else if c.tag = 12 then m.takeMap l (BitVec.ofNat 9 wires) (wires / 512 % 2 == 1)
        else if c.tag = 13 then m
        else m.modDir l (fun d => { d with rpt := unpackRpt c.rpt facing })

/-- LINK_SLOT_RECEIVE (R189). -/
def execLinkSlotReceive (d : LinkDir) (ctlErr : BitVec 24) (sliceErr : BitVec 648) (s : State) : Out :=
  s.on (fun m => if m.linkUp (d / 2) then m.receive d ctlErr sliceErr else m)

/-- NAK_RECEIVE (R192): the sender sends RPLY, and the slots not confirmed follow again. -/
def execNakReceive (d : LinkDir) (s : State) : Out :=
  s.on (fun m =>
    let l := d.val
    if !m.linkUp (l / 2) || !(m.dir l).nak then m
    else
      let m := m.modDir l (fun d =>
        { d with nak := false, half1 := none, tries := d.tries + 1, sent := if (d.sent.map Slot.tag).headD 0 = 13 then d.sent else ⟨13, false, 15, 0, none⟩ :: d.sent })
      (m.addFld (aLinkCnt l) 48 16 1).countRtr (dirTo l) 7 (some (dirInput l)) none 0)

/-- The command slot at the front of a direction, if it is one with this mark. -/
def LDir.command (d : LDir) (h : Bool) : Option Slot :=
  match d.sent with
  | s :: _ => if s.tag = 12 ∧ s.h = h ∧ d.nak = false then some s else none
  | [] => none

/-- LREQ_RECEIVE (R196): the sender of direction `d` takes LREQ from the opposite direction and answers with LMAP. -/
def execLreqReceive (d : LinkDir) (s : State) : Out :=
  s.on (fun m =>
    let l := d.val
    match (m.dir (dirBack l)).command false with
    | some c =>
      if m.linkUp (l / 2) then
        ((m.confirm (dirBack l) 1).takeCredit (dirBack l) c.crd).sendMap l (BitVec.ofNat 9 c.arg) (c.arg / 512 % 2 == 1)
      else m
    | none => m)

/-- LMAP_RECEIVE (R196): the receiver of direction `d` takes LMAP, and decodes under the new map. -/
def execLmapReceive (d : LinkDir) (s : State) : Out :=
  s.on (fun m =>
    let l := d.val
    match (m.dir l).command true with
    | some c =>
      if m.linkUp (l / 2) then ((m.confirm l 1).takeCredit l c.crd).takeMap l (BitVec.ofNat 9 c.arg) (c.arg / 512 % 2 == 1) else m
    | none => m)

/-- LREQ_REPEAT (R196): a receiver that has seen no LMAP asks again, every 16 FCLK cycles: not while FCLK stands still (R427). -/
def execLreqRepeat (d : LinkDir) (s : State) : Out :=
  s.on (fun m => if m.linkUp (d / 2) && !m.clk.fstop then m.askMap d else m)

/-- SLICE_THRESHOLD (R195): a slice has reached SLICE_THR errors in the window. -/
def execSliceThreshold (d : LinkDir) (slice : Slice) (s : State) : Out :=
  s.on (fun m =>
    let l := d.val
    let thr := m.fld (aLinkCfg (l / 2)) 16 8
    if m.linkUp (l / 2) ∧ thr ≠ 0 ∧ thr ≤ (m.dir l).errs.getD slice 0 ∧ bt (m.dir l).mask slice = false then
      m.markSlices l (BitVec.ofNat 9 (2 ^ slice.val))
    else m)

/-- A direction after training: its FAILED mask is rebuilt from what training found, and newly failed slices are recorded (R195, R199). -/
def Mach.trained (m : Mach) (l : Nat) (bad : BitVec 9) : Mach :=
  let new := bad &&& ~~~(m.dir l).mask
  ((m.slicesFail l new).modDir l (fun _ => { LDir.init with fail := bad, half := halfOf bad (m.forceHalf (l / 2)) })).resync l

/-- Whether a tile's domain is OFF, RAMP or INIT (R200). -/
def Mach.tileDown (m : Mach) (t : Nat) : Bool :=
  decide ((m.dom t).st = .off ∨ (m.dom t).st = .ramp ∨ (m.dom t).st = .init)

/-- The end of R375: a domain in INIT past step 5, none of whose links train any more, becomes ON in start-up (R372) and
FENCED otherwise, the always-on domain as any other (R387, R389), which completes DOM.ON (R393). -/
def Mach.settleDom (m : Mach) (d : Nat) : Mach :=
  let x := m.dom d
  let training := decide (d < 128) && (List.range 4).any (fun i =>
    match linkAt d i with
    | some n => decide ((m.link n).st = .train)
    | none => false)
  if x.st ≠ .init ∨ x.live = false ∨ training = true then m
  else if x.boot then m.modDom d (fun x => { x with st := .on, boot := false, alert := false, flt := false })
  else (m.modDom d (fun x => { x with st := .fenced, flt := false })).finish (.domOn d) xOK

/-- A link's training has ended: its two tiles may have finished their power-up. -/
def Mach.settleLink (m : Mach) (n : Nat) : Mach := (m.settleDom (linkTile n)).settleDom (linkTile2 n)

/-- LINK_TRAINING_DONE (R199, R200): each direction's FAILED mask is what training found; UP where the control wires were clean and
each direction keeps 4 slices; otherwise DEAD, or EXCL again for a training that LINK.INCL began. What it found is kept for the test
instruments (R478). Training counts FCLK cycles and does not end while FCLK stands still (R427). -/
def execLinkTrainingDone (n : LinkId) (fwd back : BitVec 9) (ctlBad : Bool) (s : State) : Out :=
  s.on (fun m =>
    let n := n.val
    let k := m.link n
    if k.st ≠ .train ∨ m.clk.fstop = true then m
    else
    let m := { m with test := { m.test with train := Tab.set dNoTrain m.test.train n (fwd, back, ctlBad) } }
    let m := (m.trained (2 * n) fwd).trained (2 * n + 1) back
    if !ctlBad && decide (pop fwd 9 ≤ 5 ∧ pop back 9 ≤ 5) then
      ((m.modLink n (fun k => { k with st := .up, incl := false })).finish (.train n) xOK).settleLink n
    else if k.incl then ((m.modLink n (fun k => { k with st := .excl, incl := false })).finish (.train n) xSTATE).settleLink n
    else
      let l := if ctlBad ∨ 5 < pop fwd 9 then 2 * n else 2 * n + 1
      (m.linkDie l).settleLink n)

/-- A link instruction (R343, R355). -/
def Mach.linkOp (m : Mach) (e : Nat) (w : Word) (act : Nat → Mach → Mach) : Mach :=
  let sel := selLink ((m.eng e).reg (wA w))
  m.status e false (match sel with
    | some n => inScope e (some (quadOf (linkTile n)))
    | none => true) false (fun m =>
    match sel with
    | some n => act n m
    | none => m.endStatus e xRANGE [])

/-- LINK.EXCL (R179, R355). -/
def execLinkExcl (e : EngId) (s : State) : Out :=
  s.on (fun m => m.issue e 0x43 anyWord (fun w m =>
    m.linkOp e w (fun n m =>
      if (m.link n).st = .excl then m.endStatus e xSTATE []
      else (m.modLink n (fun k => { k with pend := true })).done e xOK [])))

/-- LINK.INCL (R179, R200, R355). -/
def execLinkIncl (e : EngId) (s : State) : Out :=
  s.on (fun m => m.issue e 0x44 anyWord (fun w m =>
    m.linkOp e w (fun n m =>
      let k := m.link n
      if k.st = .dead ∨ k.st = .down ∨ k.st = .tied then m.endStatus e xSTATE []
      else if k.st = .excl then
        if m.tileDown (linkTile n) || m.tileDown (linkTile2 n) then m.endStatus e xSTATE []
        else (m.modLink n (fun k => { k with st := .train, incl := true, pend := false })).setWait e (.train n)
      else (m.modLink n (fun k => { k with pend := false })).done e xOK [])))

/-- LANE.MAP (R195, R355). -/
def execLaneMap (e : EngId) (s : State) : Out :=
  s.on (fun m => m.issue e 0x45 anyWord (fun w m =>
    m.linkOp e w (fun n m =>
      let b := (m.eng e).reg (wB w)
      let l := 2 * n + b1 (bt w 24)
      let bad : BitVec 9 := b.extractLsb' 0 9
      if bf b 9 55 ≠ 0 ∨ 5 < pop ((m.dir l).mask ||| bad) 9 then m.endStatus e xRANGE []
      else if !m.linkUp n then m.endStatus e xSTATE []
      else
        let new := bad &&& ~~~(m.dir l).mask
        if new = 0 then m.done e xOK []
        else (m.markSlices l bad).setWait e (.laneMap l))))

/-- A write of FORCE_HALF (R196, R202): each sender announces the map under the new setting. -/
def Mach.forceWrite (m : Mach) (n : Nat) (was : Bool) : Mach :=
  let now := m.forceHalf n
  if was = now ∨ m.linkUp n = false then m
  else (m.sendMap (2 * n) (m.dir (2 * n)).mask now).sendMap (2 * n + 1) (m.dir (2 * n + 1)).mask now

end Sys2Proof.Machine
end

