-- ==== Sys2Proof/Machine/Eland.lean ====
section
/-! DEFINITION. Eland (R203 to R230): the rotor, launches and stage 2, the exit stage, grid marks, stations, reserved slots,
and the spine instructions (R356). -/

namespace Sys2Proof.Machine

/-- Registers of Eland (R231). -/
def aSpEvt : Nat := 0x80030
def aSpLost : Nat := 0x80038
def aSpStn (p off : Nat) : Nat := 0x81000 + 0x40 * p + off

/-- Count at the spine's telemetry counters (R438, KIND 2). -/
def Mach.countSp (m : Mach) (code : Nat) (sel : Option Nat) (k : Nat) (h : FlitBits) : Mach :=
  if k = 0 then m else m.count 5120 64 code sel none k h

/-- Whether a station takes part as a port or for its node's queues (R227). -/
def StnSt.runs (s : StnSt) : Bool := decide (s = .enabled ∨ s = .closing)

/-- Cells of node `n` and cells toward port `o` that are past stage 2: in flight and in exit stages (R205, R209). -/
def exitCells (m : Mach) (p c : Nat) : List Nat :=
  ((Tab.get dNil (m.stn p).exit c).filter (fun r => r.1.last)).map (fun r => r.2.1)
def Mach.nodeUsed (m : Mach) (n : Nat) : Nat :=
  ((m.stn n).q.map (fun e => e.2.length)).foldl (· + ·) 0 + cnt (fun (c : Cell) => c.node == n) m.spine.flight +
  ((List.range 32).map (fun p => ((List.range 4).map (fun c => cnt (· == n) (exitCells m p c))).foldl (· + ·) 0)).foldl (· + ·) 0
def Mach.toward (m : Mach) (o c : Nat) : Nat :=
  cnt (fun (x : Cell) => x.out == o && x.code == c) m.spine.flight + (exitCells m o c).length

/-- The queue of a node for an output and code (R214). -/
def Mach.nodeQ (m : Mach) (n o c : Nat) : List Cell := Tab.get dNil (m.stn n).q (o * 4 + c)

/-- Whether node `n` admits a cell for a queue (R214). -/
def Mach.admits (m : Mach) (n o c : Nat) : Bool :=
  let w := m.reg 0x80008
  let gr := c % 2 = 0
  let q := (m.nodeQ n o c).length
  let u := m.nodeUsed n
  let a := if gr then bf w 0 3 else bf w 8 3
  decide (q * 8 < 2 ^ a * (2048 - u)) && (decide (2 ≤ c) || decide (u < 1984)) &&
  (if gr then decide (q < max 1 (bf w 16 8)) else decide (bf w 24 8 = 0 ∨ q < bf w 24 8))

/-- The choice between the REQ and the RSP code of each class, GR first (R208, R209). -/
def takeTurn (turn : BitVec 2) (ok : Nat → Bool) : Option Nat :=
  let cls (k : Nat) : Option Nat :=
    let a := if bt turn k then k + 2 else k
    let b := if bt turn k then k else k + 2
    if ok a then some a else if ok b then some b else none
  (cls 0).orElse (fun _ => cls 1)

/-- The turn bits after a cell of code `c` was served: the other message class is next. -/
def nextTurn (turn : BitVec 2) (c : Nat) : BitVec 2 := sf turn (c % 2) 1 (b1 (decide (c < 2)))

/-- The sideband word of a flit (R211), its parity bit last. -/
def sideWord (code out epoch nfl : Nat) (f : Flit) : BitVec 16 :=
  let w : BitVec 16 := mkf 16 14 2 code ||| mkf 16 13 1 (b1 f.head) ||| mkf 16 12 1 (b1 f.last) ||| mkf 16 7 5 out |||
    mkf 16 4 3 epoch ||| mkf 16 1 3 nfl
  w ||| mkf 16 0 1 (pop w 16 % 2)

/-- A cell as stage 1 carries it (R205, R211): OUT, EPOCH and NFL are copied at launch. -/
def mkCell (c o n born : Nat) (fl : List Flit) : Cell :=
  { flits := fl, side := fl.map (sideWord c o (hEpoch (hdOf fl)) (fl.length - 1)), code := c, out := o, node := n, born := born }

/-- EPOCH of a cell's sideband (R178, R211). -/
def Cell.epoch (c : Cell) : Nat := bf (c.side.headD 0) 4 3

/-- Whether a cell is discarded (R212): a sideband word fails its parity, or a word of its head is uncorrectable. -/
def Cell.broken (c : Cell) : Bool := c.side.any (fun w => pop w 16 % 2 == 1) || c.flits.any (fun f => f.head && decide (f.bad ≠ 0))

/-- A cell is discarded at node `n` and its location returned (R212, R451). -/
def Mach.cellGone (m : Mach) (n : Nat) (c : Cell) : Mach := (m.cellLost n 1 (hdOf c.flits)).occur 6 0 3 n 0 1

/-- Words marked uncorrectable in the data flits of a cell (R212). -/
def badWords (fl : List Flit) : Nat := (fl.map (fun f => if f.head then 0 else pop f.bad 8)).foldl (· + ·) 0

/-- A check of a cell's words at node `n` re-encodes the uncorrectable ones (R212). -/
def Mach.cellCheck (m : Mach) (n : Nat) (fl : List Flit) : Mach :=
  let k := badWords fl
  if k = 0 then m else ((m.orReg aSpEvt (2 ^ 4)).addFld aSpLost 32 16 k).occur 6 1 3 n 0 k

/-- The packet of an entry register, if all its flits are there (R208): its output port and flits. -/
def Mach.entryOf (m : Mach) (p c : Nat) : Option (Nat × List Flit) :=
  let fl := Tab.get dNil (m.stn p).entry c
  match fl, fl.getLast? with
  | f :: _, some l => if l.last then some (hSpn f.bits, fl) else none
  | _, _ => none

/-- Discard a packet from an entry register toward a DEAD station (R230). -/
def Mach.entryDead (m : Mach) (p : Nat) : Mach :=
  (List.range 4).foldl (fun m c =>
    match m.entryOf p c with
    | some (o, fl) =>
      if (m.stn o).st = .dead then (m.modStn p (fun x => { x with entry := Tab.set dNil x.entry c [] })).cellLost p 1 (hdOf fl) else m
    | none => m) m

/-- The slot indices that launches avoid (R222). -/
def Mach.avoids (m : Mach) (i : Nat) : Bool :=
  let w := m.reg 0x80010
  bt w i || (m.spine.pend && bt w (32 + i))

/-- The launch of port `i` in slot `s`, decided on the occupancy `m` of the start of the slot (R208, R214, R227). -/
def Mach.launch1 (m : Mach) (i s : Nat) (z : Mach) : Mach :=
  let n := (i + s) % 32
  if !(m.stn i).st.runs || (m.stn n).st ≠ .enabled then z
  else
    let may (c : Nat) : Bool := match m.entryOf i c with
      | some (o, _) => !m.avoids ((o + 32 - n) % 32)
      | none => false
    let adm (c : Nat) : Bool := match m.entryOf i c with
      | some (o, _) => m.admits n o c
      | none => false
    let no := (List.range 4).filter (fun c => may c && !adm c)
    let z := z.countSp 3 (some n) no.length (((no.head?.bind (fun c => m.entryOf i c)).map (fun r => hdOf r.2)).getD 0)
    match takeTurn (m.stn i).turnL (fun c => may c && adm c) with
    | none => z
    | some c =>
      match m.entryOf i c with
      | none => z
      | some (o, fl) =>
        let cell := mkCell c o n m.clk.cyc fl
        let z := z.modStn i (fun x => { x with entry := Tab.set dNil x.entry c [], turnL := nextTurn x.turnL c })
        if cell.broken then (z.countSp 1 (some i) 1 (hdOf fl)).cellGone n cell
        else
        let z := z.modStn n (fun x => { x with q := Tab.upd dNil x.q (o * 4 + c) (fun l => l ++ [cell]) })
        let u := z.nodeUsed n
        let q := (z.nodeQ n o c).length
        let z := if z.fld (aSpStn n 8) 0 12 < u then z.setFld (aSpStn n 8) 0 12 u else z
        let z := if z.fld (aSpStn n 8) 16 12 < q then z.setFld (aSpStn n 8) 16 12 q else z
        (z.countSp 1 (some i) 1 (hdOf fl)).cellCheck n fl

/-- The cell that node `j` sends in slot `s`, decided on the start of the slot (R209, R227). -/
def Mach.send1 (m : Mach) (j s : Nat) (z : Mach) : Mach :=
  let o := (j + s) % 32
  if !(m.stn j).st.runs || !(m.stn o).st.runs then z.countSp 4 (some j) 1 0
  else
    match takeTurn (Tab.get (fun _ => 0) (m.stn j).turnS o) (fun c => !(m.nodeQ j o c).isEmpty && decide (m.toward o c < 2)) with
    | none => z.countSp 4 (some j) 1 0
    | some c =>
      match m.nodeQ j o c with
      | [] => z
      | cell :: _ =>
        let z := z.modStn j (fun x => { x with q := Tab.upd dNil x.q (o * 4 + c) (fun l => l.drop 1), turnS := Tab.upd (fun _ => 0) x.turnS o (fun b => nextTurn b c) })
        if cell.broken then (z.countSp 4 (some j) 1 0).cellGone j cell
        else
        let z := z.modSpine (fun s => { s with flight := s.flight ++ [cell] })
        (z.countSp 2 (some j) 1 (hdOf cell.flits)).cellCheck j cell.flits

/-- The cells sent in the slot before reach their exit stages in this slot (R209). -/
def Mach.land (m : Mach) : Mach :=
  let fl := m.spine.flight
  fl.foldl (fun m (c : Cell) => m.modStn c.out (fun x =>
    { x with exit := Tab.upd dNil x.exit c.code (fun l => l ++ c.flits.map (fun f => (f, c.node, m.spine.lands))) }))
    (m.modSpine (fun s => { s with flight := [], lands := s.lands + 1 }))

/-- The connections of one slot (R208, R209): both stages decide on the start of the slot. -/
def Mach.connect (m : Mach) (s : Nat) : Mach :=
  let z := (List.range 32).foldl (fun z j => m.send1 j s z) m
  (List.range 32).foldl (fun z i => m.launch1 i s z) z

/-- A pending mask comes into force at a boundary at `t` ns (R222). -/
def Mach.applyMask (m : Mach) (t : Nat) : Mach :=
  if m.spine.pend ∧ m.fld 0x80018 0 64 ≤ t then
    (m.setReg 0x80010 (mkf 64 0 32 (m.fld 0x80010 32 32))).modSpine (fun s => { s with pend := false })
  else m


/-- Everything a station holds, counted as lost (R230): entry packets, its node's cells, its exit stage. Cells of its node that are past
stage 2 toward another port land there and pass, and count in Q of the node until then (DESIGN CHOICE: R230 speaks only of cells held by
the station, log entry 139). -/
def Mach.stnDrop (m : Mach) (p : Nat) : Mach :=
  let x := m.stn p
  let k := cnt (fun (e : Nat × List Flit) => !e.2.isEmpty) x.entry + (x.q.map (fun e => e.2.length)).foldl (· + ·) 0 +
    ((List.range 4).map (fun c => (exitCells m p c).length)).foldl (· + ·) 0
  let heads := x.entry.map (fun e => hdOf e.2) ++ (x.q.flatMap (fun e => e.2.map (fun c => hdOf c.flits))) ++ x.exit.flatMap (fun e => e.2.map (fun r => r.1.bits))
  (m.modStn p (fun x => { x with entry := [], q := [], exit := [] })).cellLost p k (heads.headD 0)

/-- Discard the cells toward port `p` at every other node, and those in flight to it (R230). -/
def Mach.towardDrop (m : Mach) (p : Nat) : Mach :=
  let m := (List.range 32).foldl (fun m n =>
    let mine (e : Nat × List Cell) : Bool := e.1 / 4 == p
    let k : Nat := (((m.stn n).q.filter mine).map (fun e => e.2.length)).foldl (· + ·) 0
    let heads := ((m.stn n).q.filter mine).flatMap (fun e => e.2.map (fun c => hdOf c.flits))
    if k = 0 then m else (m.modStn n (fun x => { x with q := x.q.filter (fun e => !mine e) })).cellLost n k (heads.headD 0)) m
  let k := cnt (fun (c : Cell) => c.out == p) m.spine.flight
  let heads := (m.spine.flight.filter (fun (c : Cell) => c.out == p)).map (fun c => hdOf c.flits)
  (m.modSpine (fun s => { s with flight := s.flight.filter (fun (c : Cell) => c.out ≠ p) })).cellLost p k (heads.headD 0)

/-- A station becomes DEAD (R230). A SP.PORT ON that has been asked for stays asked for (R229). A packet of which the exit stage has passed
a part to its router leaves no flit there (R161, R191; log entry 49). -/
def Mach.stnDie (m : Mach) (p : Nat) : Mach :=
  let m := (m.modStn p (fun x => { x with st := .dead, dying := false })).stnDrop p
  let m := (m.towardDrop p)
  let m := [3, 5, 9, 11].foldl (fun m vc => m.cutVc (spineTile p) 6 vc 256) m
  let m := (List.range 32).foldl (fun m i => m.entryDead i) m
  ((m.orReg aSpEvt (2 ^ 2)).occur 7 0 3 p 0 1).postEvt (qeOf (p / 8)) 3 0 0 p

/-- Stations whose domain has opened become DEAD (R230). -/
def Mach.stnsDie (m : Mach) : Mach := (List.range 32).foldl (fun m p => if (m.stn p).dying then m.stnDie p else m) m

/-- One slot start with slot index `s` (R207): stations whose domain has opened become DEAD (R230), landing, discards, a period
boundary for what waits for one (R229), then the connections unless the rotor holds them back: no node sends a cell then (R438). -/
def Mach.slotStart (m : Mach) (s : Nat) (quiet : Bool) : Mach :=
  let m := (List.range 32).foldl (fun m p => m.entryDead p) m.stnsDie.land
  let m := if s = 0 then (List.range 32).foldl (fun m p =>
      if (m.stn p).onReq then m.modStn p (fun x => { x with onDue := true }) else m) m
    else m
  if quiet then (List.range 32).foldl (fun m j => m.countSp 4 (some j) 1 0) m else m.connect s

/-- ROTOR_SLOT (R207, R219, R222): the next slot begins. A 4-cycle slot 31, and acquisition, launch and send nothing. While FCLK stands
still the rotor does (R427); without power in any spine domain only stations die. A pending mask is deferred while the keeper is FROZEN
(R268). -/
def execRotorSlot (s : State) : Out :=
  s.on (fun m =>
    if !m.hasSpine || m.clk.fstop then m
    else if !m.spineUp then m.stnsDie
    else
      let sl := (m.spine.slot + 1) % 32
      let m := m.modSpine (fun x => { x with slot := sl, abs := x.abs + 1 })
      let m := if sl = 0 then (m.countSp 6 none 1 0).modSpine (fun x => { x with corr := x.corrN, corrN := 0 }) else m
      let per := if m.clk.mode = 1 then 96 else 32
      let m := if m.spine.abs % per = 0 then m.modSpine (fun x => { x with cyc := 0 }) else m
      let m := if sl = 0 ∧ m.spine.lock ≠ .locked ∧ m.keep.st ≠ .frozen then m.applyMask m.ftNs else m
      let short := decide (sl = 31 ∧ m.spine.corr < 0)
      let m := if sl = 31 then m.modSpine (fun x => { x with corr := 0 }) else m
      m.slotStart sl (short || decide (m.spine.lock = .acq)))

/-- LOCK changes (R231): leaving LOCKED or SLEW is marked. -/
def Mach.setLock (m : Mach) (l : Lock) : Mach :=
  let was := m.spine.lock
  let m := m.modSpine (fun s => { s with lock := l })
  if (was = .locked ∨ was = .slew) ∧ l ≠ .locked ∧ l ≠ .slew then m.orReg aSpEvt 1 else m

/-- Marks stop while Fabric Time is not valid (R220): the rotor holds its phase. -/
def Mach.spineHold (m : Mach) : Mach := if m.spine.lock = .free ∨ m.hasSpine = false then m else m.setLock .hold

/-- The grid of the clock mode in ns (R217). -/
def gridNs (mode : Nat) : Nat := if mode = 0 then 50 else if mode = 1 then 200 else 100

/-- The grid boundary that FT has reached last or reaches in the next FCLK cycle, in ns, and whether its mark falls in this FCLK cycle:
the one in which FT reaches it, the one before or the one after (R217, R218). A boundary that is marked, or that a step or load has
passed, has no mark (R268). -/
def Mach.gridNow (m : Mach) : Nat :=
  (Keeper.tick (fclkUnits m.clk.mode) m.keep).ft / (gridNs m.clk.mode * 65536) * gridNs m.clk.mode
def Mach.gridDue (m : Mach) : Bool :=
  let b := m.gridNow * 65536
  decide (m.gridNow ≠ m.spine.mark) && (decide (m.keep.ft < b) || decide (m.ftAgo 1 < b) || decide (m.ftAgo 2 < b))

/-- The phase error at a mark (R218): FCLK cycles since the last period boundary that should meet it. -/
def Mach.phaseErr (m : Mach) : Int :=
  let g := if m.clk.mode = 1 then 480 else 160
  let c := m.spine.cyc % g
  if g / 2 ≤ c then (c : Int) - g else c

/-- GRID_MARK (R217 to R219, R222): at each grid boundary the phase error is read and decides; a mark during acquisition starts slot 0.
Without valid time there are no marks (R220). -/
def execGridMark (s : State) : Out :=
  s.on (fun m =>
    if !m.spineUp || m.clk.fstop || decide (m.keep.st ≠ .track) || !m.gridDue then m
    else
    let e := m.phaseErr
    let m := m.modSpine (fun x => { x with err := e, mark := m.gridNow })
    if m.spine.lock = .free ∨ m.spine.acqNext = true then (m.modSpine (fun x => { x with acqNext := false })).setLock .acq
    else if m.spine.lock = .acq then
      let m := if m.spine.seen then m.orReg aSpEvt 2 else m
      let m := (m.modSpine (fun x => { x with slot := 0, abs := 0, cyc := 0, corr := 0, corrN := 0, seen := true })).setLock .locked
      ((m.countSp 6 none 1 0).applyMask m.gridNow).slotStart 0 false
    else
      let m := m.modSpine (fun x => { x with corrN := if e.natAbs ≤ 1 ∨ 8 < e.natAbs then 0 else if 0 < e then 1 else -1 })
      let m := if m.spine.lock = .locked then m.applyMask m.gridNow else m
      if e.natAbs ≤ 1 then m.setLock .locked else if e.natAbs ≤ 8 then m.setLock .slew else m.setLock .acq)

/-- The exit register that passes a flit next (R210): RSP before REQ, the oldest flit first within a class, GR on a tie. -/
def Mach.exitNext (m : Mach) (p : Nat) : Option (Nat × Flit × Nat) :=
  let t := spineTile p
  let ready (c : Nat) : Option (Nat × Flit × Nat) :=
    match Tab.get dNil (m.stn p).exit c with
    | [] => none
    | (f, _, born) :: _ =>
      let b := m.vc (kVc t 6 ([3, 5, 9, 11].getD c 3))
      if (if f.head then b.q.isEmpty else decide (b.q.length < 4)) then some (c, f, born) else none
  let pair (a b : Nat) : Option (Nat × Flit × Nat) :=
    match ready a, ready b with
    | some x, some y => if y.2.2 < x.2.2 then some y else some x
    | some x, none => some x
    | none, y => y
  (pair 2 3).orElse (fun _ => pair 0 1)

/-- EXIT_STAGE_PASS (R210, R173): the exit stage passes one flit; a head takes SPH = 1 and its route at the exit router. -/
def execExitStagePass (p : Stn) (s : State) : Out :=
  s.on (fun m =>
    let p := p.val
    if !m.hasSpine || !(m.stn p).st.runs || (m.stn p).dying || !m.domLive (spineTile p) then m
    else match m.exitNext p with
      | none => m
      | some (c, f, _) =>
        let t := spineTile p
        let bits := if f.head then (let h := hSetSph f.bits true; hSetLa h (m.la t 6 none h)) else f.bits
        (m.modStn p (fun x => { x with exit := Tab.upd dNil x.exit c (fun l => l.drop 1) })).flitIn t 6 ([3, 5, 9, 11].getD c 3)
          { f with bits := bits })

/-- STATION_DEAD (R230). -/
def execStationDead (p : Stn) (s : State) : Out :=
  s.on (fun m => if !m.hasSpine || decide ((m.stn p).st = .dead) then m else m.stnDie p)

/-- SP.SCHED (R222, R356). -/
def execSpSched (e : EngId) (s : State) : Out :=
  s.on (fun m => m.issue e 0x50 anyWord (fun w m =>
    m.status e (!m.hasSpine) true true (fun m =>
      let a := (m.eng e).reg (wA w)
      let t := (m.eng e).reg (wB w)
      if bf a 32 32 ≠ 0 ∨ 8 < pop a 32 then m.endStatus e xRANGE []
      else if t.toNat < m.ftNs + 100 then m.endStatus e xLATE []
      else (((m.setFld 0x80010 32 32 (bf a 0 32)).setReg 0x80018 t).modSpine (fun s => { s with pend := true })).done e xOK [])))

/-- A spine port instruction (R343, R356). -/
def Mach.portOp (m : Mach) (e : Nat) (w : Word) (act : Nat → Mach → Mach) : Mach :=
  let p := bf w 24 5
  m.status e (!m.hasSpine) (inScope e (some (p / 8))) false (act p)

/-- SP.PORT OFF (R228, R356). -/
def execSpPortOff (e : EngId) (s : State) : Out :=
  s.on (fun m => m.issue e 0x51 (fun w => !bt w 42) (fun w m =>
    m.portOp e w (fun p m =>
      if bt m.rt.cur.spnOk p ∨ (m.rt.st ≠ .free ∧ bt m.rt.oth.spnOk p = true) then m.endStatus e xSTATE []
      else ((m.modStn p (fun x => { x with st := .closing })).setWait e (.portOff p)).startLimit e (wLimit w))))

/-- SP.PORT ON (R229, R356). -/
def execSpPortOn (e : EngId) (s : State) : Out :=
  s.on (fun m => m.issue e 0x51 (fun w => bt w 42) (fun w m =>
    m.portOp e w (fun p m =>
      if !m.domLive (128 + p / 8) then m.endStatus e xSTATE []
      else (m.modStn p (fun x => { x with onReq := true, onDue := false })).setWait e (.portOn p))))

/-- Whether a CLOSING station holds nothing and nothing is on its way to it (R228). -/
def Mach.stnEmpty (m : Mach) (p : Nat) : Bool :=
  let x := m.stn p
  x.entry.isEmpty && x.q.isEmpty && x.exit.isEmpty && !m.spine.flight.any (fun (c : Cell) => c.out == p || c.node == p) &&
  (List.range 32).all (fun n => (m.stn n).q.all (fun e => decide (e.1 / 4 ≠ p)) &&
    (List.range 4).all (fun c => !(exitCells m n c).contains p))

/-- STATION_DISABLED (R228). -/
def execStationDisabled (p : Stn) (s : State) : Out :=
  s.on (fun m =>
    if m.hasSpine ∧ (m.stn p).st = .closing ∧ m.stnEmpty p = true then
      (m.modStn p (fun x => { x with st := .disabled })).finish (.portOff p) xOK
    else m)

/-- STATION_ENABLE (R229): at the first period boundary after SP.PORT ON the station is ENABLED, its node buffer empty: a CLOSING one
is so from the first boundary at which it holds nothing, which also ends an SP.PORT OFF; an ENABLED one stays as it is (DEDUCED, log
entry 114). -/
def execStationEnable (p : Stn) (s : State) : Out :=
  s.on (fun m =>
    let x := m.stn p
    if m.hasSpine ∧ x.onReq = true ∧ x.onDue = true ∧ m.spine.slot = 0 ∧ (x.st = .closing → m.stnEmpty p = true) then
      let m := if x.st = .closing then m.finish (.portOff p) xOK else m
      (m.modStn p (fun x => { x with st := .enabled, onReq := false, onDue := false })).finish (.portOn p) xOK
    else m)

/-- SP.THRESH (R216, R356): the new values apply from its completion on. -/
def execSpThresh (e : EngId) (s : State) : Out :=
  s.on (fun m => m.issue e 0x52 anyWord (fun w m =>
    m.status e (!m.hasSpine) true true (fun m =>
      let a := (m.eng e).reg (wA w)
      if bf a 32 32 ≠ 0 ∨ bf a 11 5 ≠ 0 ∨ bf a 3 5 ≠ 0 ∨ bf a 0 3 = 7 ∨ bf a 8 3 = 7 then m.endStatus e xRANGE []
      else m.modEng e (fun x => { x with state := .waiting, wait := .config [a], limit := none }))))

end Sys2Proof.Machine
end

