-- ==== Sys2Proof/Machine/Epoch.lean ====
section
/-! DEFINITION. Route epochs (R177 to R181, R294): loading an image, changing epoch, counting the packets of an epoch,
retiring one, and the route instructions (R355). -/

namespace Sys2Proof.Machine

/-- Epochs of the packets that a router's input VCs hold (R178). -/
def Mach.vcEpochs (m : Mach) (t : Nat) : List Nat :=
  ((List.range 8).map (fun inp => (List.range 12).filterMap (fun vc =>
    let b := m.vc (kVc t inp vc)
    if b.q.isEmpty && b.tail.isEmpty then none else some (hEpoch b.hd)))).flatten

/-- The flits of a direction's slots with their VCs, and whether each goes in two halves (R197). -/
def slotFlits : List Slot → List (Nat × Flit × Bool)
  | [] => []
  | [s] => (s.flit.toList.filter (fun _ => decide (s.tag < 12))).map (fun f => (s.tag, f, false))
  | s :: b :: r =>
    (s.flit.toList.filter (fun _ => decide (s.tag < 12))).map (fun f => (s.tag, f, decide (b.tag = 14))) ++ slotFlits (b :: r)

/-- Whether the router that sends on VC `vc` of direction `l` still holds flits of the packet it is sending there. -/
def Mach.sendsStill (m : Mach) (l vc : Nat) : Bool :=
  let t := dirFrom l
  (List.range 8).any (fun inp =>
    let b := m.vc (kVc t inp vc)
    b.out == some (opposite (dirInput l)) && !(b.q.isEmpty && b.tail.isEmpty))

/-- Epochs of the packets of which one end of a link direction holds flits that are not in a VC (R158): at FULL width the receiver's
input register holds them, at HALF width the sender's output unit until both halves have crossed. A packet of which that router's VC
holds flits is not named again. -/
def Mach.linkEpochs (m : Mach) (l : Nat) (atSender : Bool) : List Nat :=
  let fl := slotFlits (m.dir l).sent
  (List.range 12).filterMap (fun vc =>
    let b := m.vc (kVc (dirTo l) (dirInput l) vc)
    match fl.filter (fun r => r.1 == vc && r.2.2 == atSender) with
    | [] => none
    | (_, f, _) :: _ =>
      if (if atSender then m.sendsStill l vc else !b.q.isEmpty) then none else some (hEpoch (if f.head then f.bits else b.hd)))

/-- Epochs of what a combine unit holds (R294). -/
def Mach.cbEpochs (m : Mach) (t : Nat) : List Nat :=
  let u := m.cbUnit t
  u.part.filterMap (fun e => e.2.head?.map (fun f => hEpoch f.bits)) ++ u.inq.map (fun r => hEpoch r.2.2.hd) ++
    u.outq.map (fun r => hEpoch r.hd) ++
    ((List.range 256).filterMap (fun g => (m.node t g).map (fun n => n.eps ++ n.held.map (fun r => hEpoch r.2.2.hd)))).flatten

/-- Epochs of every packet that a router and its combine unit hold (R178, R183). -/
def Mach.rtrEpochs (m : Mach) (t : Nat) : List Nat :=
  m.vcEpochs t ++ ((List.range 4).filterMap (fun d => (dirOut t d).map (fun l =>
    m.linkEpochs (dirBack l) false ++ m.linkEpochs l true))).flatten ++ m.cbEpochs t

/-- The head's epoch of a list of flits. -/
def flitsEpoch (l : List Flit) : Option Nat := l.head?.bind (fun f => if f.head then some (hEpoch f.bits) else none)

/-- Epochs of the cells and entry packets at a station, its exit stage counted (R178, R231); none once its domain has opened (R385). A cell
in flight counts at the station of its output (DESIGN CHOICE: the spec does not place it, log entry 140). -/
def Mach.stnEpochs (m : Mach) (p : Nat) : List Nat :=
  let x := m.stn p
  if x.dying then [] else
  x.entry.filterMap (fun e => flitsEpoch e.2) ++ (x.q.flatMap (fun e => e.2.map Cell.epoch)) ++
    x.exit.flatMap (fun e => e.2.filterMap (fun r => if r.1.head then some (hEpoch r.1.bits) else none)) ++
    (x.exit.filterMap (fun e => match e.2 with
      | (f, _, _) :: _ => if f.head then none else some (hEpoch (m.vc (kVc (spineTile p) 6 ([3, 5, 9, 11].getD e.1 3))).hd)
      | [] => none)) ++
    (m.spine.flight.filter (fun (c : Cell) => c.out == p)).map Cell.epoch

/-- Whether no router, combine unit or station holds a packet of an epoch (R178). -/
def Mach.epochGone (m : Mach) (e : Nat) : Bool :=
  (List.range 128).all (fun t => !(m.rtrEpochs t).contains e) && (List.range 32).all (fun p => !(m.stnEpochs p).contains e)

/-- Links that are pending exclusion. -/
def Mach.pendLinks (m : Mach) : List Nat := (m.links.map Prod.fst).dedup.filter (fun n => (m.link n).pend)

/-- Whether an image permits a link in either direction (R177); the SPN sections of routers without a spine port are ignored (R175). -/
def Mach.imgUses (m : Mach) (g : Img) (n : Nat) : Bool :=
  [(linkTile n, if n < 120 then 1 else 0), (linkTile2 n, if n < 120 then 3 else 2)].any (fun r =>
    (List.range 6).any (fun sec => m.hasSec r.1 sec && (List.range 128).any (fun i => bt (g.mask r.1 sec i) r.2)))

/-- Whether a combine tree crosses a link (R177). -/
def Mach.treeUses (m : Mach) (n : Nat) : Bool :=
  let a := linkTile n
  let b := linkTile2 n
  let d := if n < 120 then 1 else 0
  (List.range 256).any (fun g =>
    (match m.node a g with
     | some x => decide (x.up = d) || bt x.kids d
     | none => false) ||
    (match m.node b g with
     | some x => decide (x.up = opposite d) || bt x.kids (opposite d)
     | none => false))

/-- The lines of a route image that a quadrant's service NIU reads (R175, R355): the header, line 0, and the six lines of each of the
quadrant's 32 router records. -/
def imageLines (q : Nat) : List Nat :=
  0 :: ((List.range 128).filter (fun t => quadOf t == q)).flatMap (fun t => (List.range 6).map (fun s => 1 + 6 * t + s))

/-- Start the reads of an image (R355); every quadrant has a service NIU to make them. The spec gives the quadrants no order; `first` begins
(log entry 55). -/
def Mach.readImage (m : Mach) (first : Quad) (ep addr : Nat) : Mach :=
  let m := { m with img := { on := true, ser := m.img.ser + 1, ep := ep, addr := addr,
                             todo := (List.range 4).foldl (fun t q => Tab.set dNil t q (imageLines q)) [], out := 0, got := [], code := none } }
  each ((List.range 4).map (fun k => (first.val + k) % 4)) (fun k m => m.pumpImage k) m

/-- Whether every read of the image has been answered. -/
def ImgRead.whole (g : ImgRead) : Bool :=
  g.on && decide (g.out = 0) && (List.range 4).all (fun q => (Tab.get dNil g.todo q).isEmpty)

/-- The end of RT.LOAD once the image is whole (R176, R177, R355): a read that failed, then the checks; the image becomes NEXT. -/
def Mach.imageEnd (m : Mach) (e : Nat) : Mach :=
  let r := m.img
  let m := { m with img := { r with on := false, got := [] } }
  match r.code with
  | some c => (m.setFld (aEng e 0) 28 4 c).endStatus e xDENIED []
  | none =>
    let g := imgOfLines ((List.range 769).map (fun i => Tab.get (fun _ => 0) r.got i))
    if m.imgAbsent g then m.endStatus e xABSENT []
    else if m.imgBad g then m.endStatus e xRANGE []
    else ({ m with rt := { m.rt with oth := g, othE := (m.rt.curE + 1) % 8, st := .next } }).endStatus e xOK []

/-- RT.LOAD (R176, R177, R355): the token is held while the image is read. With no service NIU that could read it the instruction
ends with STATE, as an LDX does (R31; log entry 55). -/
def execRtLoad (e : EngId) (first : Quad) (s : State) : Out :=
  s.on (fun m => m.issue e 0x40 anyWord (fun w m =>
    let a := (m.eng e).reg (wA w)
    m.status e false true true (fun m =>
      if bf a 0 6 ≠ 0 then m.haltFault e xALIGN
      else if bt a 63 = false then m.endStatus e xRANGE []
      else if m.rt.st = .prev then m.endStatus e xSTATE []
      else if (m.imageNiu 0).isNone then m.endStatus e xSTATE []
      else (m.readImage first (bf a 48 10) (bf a 0 48)).setWait e .image)))

/-- RT.EPOCH (R177, R178, R355): NEXT becomes current, and its number is broadcast. -/
def execRtEpoch (e : EngId) (s : State) : Out :=
  s.on (fun m => m.issue e 0x41 anyWord (fun _ m =>
    m.status e false true true (fun m =>
      if m.rt.st ≠ .next ∨ m.pendLinks.any (fun n => m.imgUses m.rt.oth n || m.treeUses n) = true then m.endStatus e xSTATE []
      else ({ m with rt := { cur := m.rt.oth, curE := m.rt.othE, oth := m.rt.cur, othE := m.rt.curE, st := .prev, casting := true, reached := [] } }).done e xOK [])))

/-- RT.RETIRE (R178, R355). -/
def execRtRetire (e : EngId) (s : State) : Out :=
  s.on (fun m => m.issue e 0x42 anyWord (fun w m =>
    m.status e false true true (fun m =>
      if m.rt.st ≠ .prev then m.endStatus e xSTATE []
      else (m.setWait e .retire).startLimit e (wLimit w))))

/-- A pending exclusion takes effect (R179, R198): the link carries nothing any more. Training that is under way is given up: a
LINK.INCL that waits for it ends with STATE, and the tiles need not wait for it (DESIGN CHOICE, log entry 108). -/
def Mach.exclude (m : Mach) (n : Nat) : Mach :=
  let m := m.modLink n (fun _ => { st := .excl, pend := false, incl := false })
  let m := ((m.finish (.laneMap (2 * n)) xSTATE).finish (.laneMap (2 * n + 1)) xSTATE).finish (.train n) xSTATE
  ((m.clearDir (2 * n)).clearDir (2 * n + 1)).settleLink n

/-- EPOCH_SNAPSHOT (R178, R179): a snapshot without a packet of the PREV epoch ends RT.RETIRE, and pending links are
excluded. Snapshots are taken every 64 FCLK cycles: none while FCLK stands still (R427). -/
def execEpochSnapshot (s : State) : Out :=
  s.on (fun m =>
    if m.clk.fstop = true ∨ m.waiters .retire = [] ∨ m.rt.st ≠ .prev ∨ m.epochGone m.rt.othE = false then m
    else
      let m := m.finish .retire xOK
      let m := { m with rt := { m.rt with st := .free } }
      m.pendLinks.foldl (fun m n => m.exclude n) m)

/-- EPOCH_BROADCAST_ARRIVAL (R178): the unit stamps the new epoch from now on. -/
def execEpochBroadcastArrival (u : EpochUnit) (s : State) : Out :=
  s.on (fun m =>
    let k := match u with
      | .niu n => n.val
      | .combine t => 1024 + t.val
    if m.rt.casting && !m.rt.reached.contains k then { m with rt := { m.rt with reached := m.rt.reached ++ [k] } } else m)

end Sys2Proof.Machine
end

