-- ==== Sys2Proof/Machine/Combine.lean ====
section
/-! DEFINITION. In-fabric combining (R279 to R295): lane arithmetic, rounds at a node, the combine instructions (R361). -/

namespace Sys2Proof.Machine

/-- A binary floating-point format: exponent bits, fraction bits (R284). -/
structure Fmt where
  eb : Nat
  fb : Nat
deriving DecidableEq, Repr

def fp64 : Fmt := ⟨11, 52⟩
def fp32 : Fmt := ⟨8, 23⟩
def bf16 : Fmt := ⟨8, 7⟩

/-- Parts of a floating-point lane. -/
def Fmt.sign (f : Fmt) (v : Nat) : Bool := v / 2 ^ (f.eb + f.fb) % 2 == 1
def Fmt.exp (f : Fmt) (v : Nat) : Nat := v / 2 ^ f.fb % 2 ^ f.eb
def Fmt.frac (f : Fmt) (v : Nat) : Nat := v % 2 ^ f.fb
def Fmt.isNan (f : Fmt) (v : Nat) : Bool := f.exp v == 2 ^ f.eb - 1 && f.frac v != 0
def Fmt.isInf (f : Fmt) (v : Nat) : Bool := f.exp v == 2 ^ f.eb - 1 && f.frac v == 0

/-- The canonical quiet NaN, an infinity, and a zero (R284). -/
def Fmt.nan (f : Fmt) : Nat := (2 ^ f.eb - 1) * 2 ^ f.fb + 2 ^ (f.fb - 1)
def Fmt.inf (f : Fmt) (s : Bool) : Nat := b1 s * 2 ^ (f.eb + f.fb) + (2 ^ f.eb - 1) * 2 ^ f.fb

/-- The value of a finite lane in units of the least subnormal. -/
def Fmt.mag (f : Fmt) (v : Nat) : Nat :=
  if f.exp v = 0 then f.frac v else (2 ^ f.fb + f.frac v) * 2 ^ (f.exp v - 1)
def Fmt.val (f : Fmt) (v : Nat) : Int := if f.sign v then -(f.mag v : Int) else f.mag v

/-- Round a magnitude in units of the least subnormal to the format, to nearest, ties to even (R284). -/
def Fmt.round (f : Fmt) (s : Bool) (a : Nat) : Nat :=
  let sg := b1 s * 2 ^ (f.eb + f.fb)
  if a < 2 ^ f.fb then sg + a
  else
    let sh := Nat.log2 a - f.fb
    let q := a / 2 ^ sh
    let r := a % 2 ^ sh
    let up := decide (2 ^ sh < 2 * r) || (decide (2 * r = 2 ^ sh) && decide (0 < sh) && q % 2 == 1)
    let q := if up then q + 1 else q
    let e := if q = 2 ^ (f.fb + 1) then sh + 2 else sh + 1
    let q := if q = 2 ^ (f.fb + 1) then 2 ^ f.fb else q
    if 2 ^ f.eb - 1 ≤ e then f.inf s else sg + e * 2 ^ f.fb + (q - 2 ^ f.fb)

/-- SUM of two lanes (R284). -/
def Fmt.add (f : Fmt) (a b : Nat) : Nat :=
  if f.isNan a || f.isNan b || (f.isInf a && f.isInf b && f.sign a != f.sign b) then f.nan
  else if f.isInf a then f.inf (f.sign a)
  else if f.isInf b then f.inf (f.sign b)
  else
    let s := f.val a + f.val b
    if s = 0 then (if f.sign a && f.sign b then 2 ^ (f.eb + f.fb) else 0)
    else f.round (decide (s < 0)) s.natAbs

/-- The order of MIN and MAX on lanes that are not NaN: -0 below +0 (R284). -/
def Fmt.le (f : Fmt) (a b : Nat) : Bool :=
  let key (v : Nat) : Int := if f.sign v then -((v % 2 ^ (f.eb + f.fb) : Nat) : Int) - 1 else (v : Int)
  decide (key a ≤ key b)

/-- MIN and MAX of two lanes (R284): a NaN is ignored unless both are. -/
def Fmt.minmax (f : Fmt) (max : Bool) (a b : Nat) : Nat :=
  if f.isNan a && f.isNan b then f.nan
  else if f.isNan a then b
  else if f.isNan b then a
  else if f.le a b != max then a else b

/-- Whether an operation and a lane type form a legal pair (R283). -/
def pairOk (subop ctype : Nat) : Bool := decide (subop ≤ 5 ∧ ctype ≤ 4 ∧ (ctype ≤ 1 ∨ subop ≤ 2))

/-- Two's complement value of a 64-bit lane. -/
def s64 (v : Nat) : Int := sval 64 v

/-- One lane of a merge (R45, R283, R284). -/
def laneOp (subop ctype a b : Nat) : Nat :=
  if subop = 3 then a &&& b
  else if subop = 4 then a ||| b
  else if subop = 5 then a ^^^ b
  else
    let f := if ctype = 3 then fp32 else if ctype = 4 then bf16 else fp64
    if ctype ≤ 1 then
      if subop = 0 then (a + b) % 2 ^ 64
      else
        let le := if ctype = 0 then decide (a ≤ b) else decide (s64 a ≤ s64 b)
        if le != (subop == 2) then a else b
    else if subop = 0 then f.add a b
    else f.minmax (subop == 2) a b

/-- A merge of two vectors of `n` lanes, the lowest lane first. -/
def vecOp (subop ctype : Nat) : Nat → Nat → Nat → Nat
  | 0, _, _ => 0
  | n + 1, a, b =>
    let w := 2 ^ (8 * laneBytes ctype)
    laneOp subop ctype (a % w) (b % w) + w * vecOp subop ctype n (a / w) (b / w)

/-- The vector that a packet carries (R42, R50): INLINE up to 16 B, else its data flits. -/
def Pkt.vec (p : Pkt) : Nat :=
  let n := hLen p.hd
  (if n ≤ 16 then (hInline p.hd).toNat else (p.data.zipIdx.map (fun d => d.1.toNat * 2 ^ (512 * d.2))).foldl (· + ·) 0) % 2 ^ (8 * n)

/-- A packet with another vector (R289). -/
def Pkt.setVec (p : Pkt) (v : Nat) : Pkt :=
  if hLen p.hd ≤ 16 then { p with hd := hSetInline p.hd (BitVec.ofNat 128 v) }
  else { p with data := p.data.zipIdx.map (fun d => BitVec.ofNat 512 (v / 2 ^ (512 * d.2))) }

/-- Buffers that a node reserves (R293). -/
def CbNode.kidList (x : CbNode) : List Nat :=
  (if bt x.kids 3 then [0] else []) ++ (if bt x.kids 2 then [1] else []) ++ ((List.range 4).filter (fun k => bt x.loc k)).map (· + 2) ++
    (if bt x.kids 1 then [6] else []) ++ (if bt x.kids 0 then [7] else [])
def CbNode.bufs (x : CbNode) : Nat :=
  let f := max 1 (cdiv x.len 64)
  let c := x.kidList.length
  if x.arrival ∨ c = 1 then 2 * f else (c + 1) * f

/-- Node entries and buffers in use at a combine unit (R293, R297). -/
def Mach.cbNodes (m : Mach) (t : Nat) : List CbNode := (List.range 256).filterMap (fun g => m.node t g)
def Mach.cbBufs (m : Mach) (t : Nat) : Nat := ((m.cbNodes t).map CbNode.bufs).foldl (· + ·) 0

/-- Ticks of the group's timeout (R281, R291). -/
def CbNode.toTicks (x : CbNode) : Nat := (if x.tmo = 0 then 50 else x.tmo) * 5

/-- Registers of a combine unit (R297). -/
def Mach.cbEvt (m : Mach) (t bit : Nat) : Mach := m.orReg (aTile t 0x208) (2 ^ bit)
def Mach.cbCount (m : Mach) (t lo k : Nat) : Mach := m.addFld (aTile t 0x210) lo 16 k

/-- Queue a packet that the combine unit has produced for an output (R282, R290): its first flit enters the CB input's register
(R157). -/
def Mach.cbSend (m : Mach) (t out : Nat) (p : Pkt) : Mach :=
  (m.countRtr t 3 (some 7) (some (vcTc (vcOf p.hd))) p.hd).modCbu t (fun u =>
    { u with outq := u.freeReg.outq ++ [⟨out, p.hd, p.flits, 0, true⟩] })

/-- A produced packet's EPOCH is the combine unit's (R289). -/
def Mach.cbStamp (m : Mach) (t : Nat) (p : Pkt) : Pkt := { p with hd := hSetEpoch p.hd (m.epochOf (1024 + t)) }

/-- A result or an answer formed from a RED's head (R49, R289): its data goes with OK and PARTIAL only. -/
def resultOf (red : FlitBits) (status : Nat) (p : Pkt) : Pkt :=
  if status = sOK ∨ status = sPARTIAL then { rspPkt red status (hLen red) (hInline p.hd) p.data with bad := p.bad }
  else rspBare red status

/-- The mesh output of a contributor number, and the contributor number of a mesh input (R286). -/
def dirOfKid (k : Nat) : Nat := if k = 0 then 3 else if k = 1 then 2 else if k = 6 then 1 else 0
def kidOfDir (d : Nat) : Nat := if d = 3 then 0 else if d = 2 then 1 else if d = 1 then 6 else 7

/-- Forward a result (R290): to each child direction unchanged, to each local member whose RED is held as the answer of that
RED. -/
def Mach.cbForward (m : Mach) (t : Nat) (x : CbNode) (p : Pkt) : Mach :=
  let m := ([3, 2, 1, 0].filter (fun d => bt x.kids d)).foldl (fun m d => m.cbSend t d p) m
  ((List.range 4).filterMap (fun k => (x.reds.find? (fun r => r.1 == k + 2)).map (fun r => (k, r.2)))).foldl (fun m r =>
    m.cbSend t (niuPort (4 * t + r.1)) (m.cbStamp t (resultOf r.2 (hStatus p.hd) p))) m

/-- A node after a round: nothing held. -/
def CbNode.clear (x : CbNode) (st : CbSt) : CbNode :=
  { x with st := st, held := [], acc := none, merged := [], reds := [], status := 0, kept := none, eps := [], ticks := 0 }

/-- A node becomes FAILED, or IDLE (R288, R329). -/
def Mach.cbEnd (m : Mach) (t g : Nat) (x : CbNode) (ok : Bool) : Mach :=
  if ok then m.setNode t g (some (x.clear .idle))
  else ((m.setNode t g (some (x.clear .failed))).cbEvt t 1).postEvt (qeOf (quadOf t)) 4 0 t g

/-- Merge one contribution into a node's accumulator (R283, R286, R289): the head of the first in tree order is kept. -/
def CbNode.merge (x : CbNode) (k nbad : Nat) (p : Pkt) : CbNode :=
  let acc := match x.acc with
    | none => p
    | some a =>
      let n := x.len / laneBytes x.ctype
      let v := vecOp x.subop x.ctype n a.vec p.vec
      if x.merged.all (fun j => decide (k < j)) then p.setVec v else a.setVec v
  let bad := decide (nbad ≠ 0) || p.bad || hStatus p.hd == sPOISON
  let st := if bad || x.status == sPOISON then sPOISON else if hStatus p.hd = sPARTIAL ∨ x.status = sPARTIAL then sPARTIAL else sOK
  { x with acc := some { acc with bad := false }, merged := x.merged ++ [k], status := st, eps := x.eps ++ [hEpoch p.hd] }

/-- Count a merge at the combine unit (R289, R438). -/
def Mach.cbMerged (m : Mach) (t nbad : Nat) (p : Pkt) : Mach :=
  let m := m.countRtr t 9 none (some (hTc p.hd)) p.hd
  if nbad = 0 then m else (m.cbEvt t 4).cbCount t 48 nbad

/-- Merge the held contributions whose turn it is, or all of them in tree order when a round is cut short (R286, R291,
R292). -/
def Mach.cbMerge (m : Mach) (t : Nat) (x : CbNode) (all : Bool) : Nat → Mach × CbNode
  | 0 => (m, x)
  | fuel + 1 =>
    let left := x.kidList.filter (fun k => !x.merged.contains k)
    let here := left.filter (fun k => x.held.any (fun r => r.1 == k))
    let next := if x.arrival || all then here.head? else (left.head?).filter (fun k => here.contains k)
    match next with
    | none => (m, x)
    | some k =>
      match x.held.find? (fun r => r.1 == k) with
      | none => (m, x)
      | some (_, nbad, p) =>
        Mach.cbMerge (m.cbMerged t nbad p) t ({ x with held := x.held.filter (fun r => r.1 ≠ k) }.merge k nbad p) all fuel

/-- A node whose round is complete, or cut short, sends its partial result, or at the root produces the result (R288, R289,
R291). -/
def Mach.cbFinish (m : Mach) (t g : Nat) (x : CbNode) (cut : Bool) : Mach :=
  match x.acc with
  | none => m
  | some a =>
    let st := if x.status = sPOISON then sPOISON else if cut ∨ x.status = sPARTIAL then sPARTIAL else sOK
    if x.up = 7 then
      let r := m.cbStamp t (resultOf a.hd st a)
      (m.cbForward t x r).cbEnd t g x (decide (st = sOK))
    else
      let p := m.cbStamp t { a with hd := hSetStatus a.hd st }
      (m.cbSend t x.up p).setNode t g (some { x with st := .sent, held := [], acc := none, eps := [], kept := some p, ticks := 2 * x.toTicks })

/-- A contribution that a node takes (R286, R288): the first starts a round. -/
def Mach.cbTake (m : Mach) (t g : Nat) (x : CbNode) (k nbad : Nat) (p : Pkt) (red : Bool) : Mach :=
  let x := if x.st = .idle then { (x.clear .collect) with ticks := x.toTicks } else x
  let x := { x with held := x.held ++ [(k, nbad, p)], reds := if red then x.reds ++ [(k, p.hd)] else x.reds }
  let r := m.cbMerge t x false 8
  if x.kidList.all (fun j => r.2.merged.contains j) then r.1.cbFinish t g r.2 false else r.1.setNode t g (some r.2)

/-- Take the first packet of a kind that waits at a combine unit: its input, uncorrectable flits, itself. -/
def Mach.cbNext (m : Mach) (t : Nat) (kind : Nat → FlitBits → Bool) : Option (Nat × Nat × Pkt) × Mach :=
  match firstIdx (fun (r : Nat × Nat × Pkt) => kind r.1 r.2.2.hd) (m.cbUnit t).inq with
  | none => (none, m)
  | some (i, r) => (some r, m.modCbu t (fun u => { u with inq := dropAt u.inq i }))

/-- Whether a node has a contribution of this number in its current round. -/
def CbNode.has (x : CbNode) (k : Nat) : Bool := x.merged.contains k || x.held.any (fun r => r.1 == k)

/-- Why a member's RED is rejected, if it is (R287). -/
def CbNode.rejects (x : CbNode) (h : FlitBits) : Bool :=
  let k := hSrc h % 4
  !bt x.loc k || decide (hSubop h ≠ x.subop ∨ hCtype h ≠ x.ctype ∨ hLen h ≠ x.len ∨ hTc h ≠ x.tc) || x.has (k + 2) ||
  decide (x.st = .sent ∨ x.st = .failed)

/-- COMBINE_RED_ARRIVAL (R287, R288): a member's RED at its own node. -/
def execCombineRedArrival (t : Tile) (s : State) : Out :=
  s.on (fun m =>
    let t := t.val
    if !m.domLive t then m
    else match m.cbNext t (fun inp h => decide (inp = 4 ∨ inp = 5) && hOpc h == opRED) with
      | (none, _) => m
      | (some (_, nbad, p), m) =>
        let h := p.hd
        let g := hGroup h
        let reject (m : Mach) : Mach :=
          ((m.cbEvt t 2).cbCount t 16 1).cbSend t (niuPort (hSrc h)) (m.cbStamp t (resultOf h sPARTIAL p))
        match m.node t g with
        | none => reject m
        | some x => if x.rejects h then reject m else m.cbTake t g x (hSrc h % 4 + 2) nbad p true)

/-- A partial or a result is discarded (R287, R288). -/
def Mach.cbLate (m : Mach) (t : Nat) : Mach := (m.cbEvt t 3).cbCount t 32 1

/-- COMBINE_PARTIAL_ARRIVAL (R288): a child's partial result. -/
def execCombinePartialArrival (t : Tile) (s : State) : Out :=
  s.on (fun m =>
    let t := t.val
    if !m.domLive t then m
    else match m.cbNext t (fun inp h => decide (inp < 4) && hOpc h == opRED) with
      | (none, _) => m
      | (some (inp, nbad, p), m) =>
        let g := hGroup p.hd
        match m.node t g with
        | none => m.occur 2 0 4 t 0 1
        | some x =>
          let k := kidOfDir inp
          if x.st = .sent ∨ x.st = .failed ∨ x.kidList.contains k = false ∨ x.has k = true then m.cbLate t
          else m.cbTake t g x k nbad p false)

/-- COMBINE_RESULT_ARRIVAL (R288, R290): a round's result from the parent. -/
def execCombineResultArrival (t : Tile) (s : State) : Out :=
  s.on (fun m =>
    let t := t.val
    if !m.domLive t then m
    else match m.cbNext t (fun _ h => hOpc h == rspOf opRED) with
      | (none, _) => m
      | (some (_, _, p), m) =>
        let g := hGroup p.hd
        match m.node t g with
        | none => m.occur 2 0 4 t 0 1
        | some x =>
          if x.st = .failed then m.cbLate t
          else (m.cbForward t x p).cbEnd t g x (decide (x.st = .sent ∧ hStatus p.hd = sOK)))

/-- COLLECT_TIMEOUT (R291): what the round has collected is merged and goes on as PARTIAL. -/
def execCollectTimeout (t : Tile) (g : Group) (s : State) : Out :=
  s.on (fun m =>
    match m.node t g with
    | some x =>
      if m.domLive t = true ∧ x.st = .collect ∧ x.ticks = 0 then
        let r := ((m.cbEvt t 0).cbCount t 0 1).cbMerge t x true 8
        r.1.cbFinish t g r.2 true
      else m
    | none => m)

/-- SENT_TIMEOUT (R291): the partial result that the node sent is its subtree's result, and the node is FAILED. -/
def execSentTimeout (t : Tile) (g : Group) (s : State) : Out :=
  s.on (fun m =>
    match m.node t g with
    | some x =>
      if m.domLive t = true ∧ x.st = .sent ∧ x.ticks = 0 then
        let m := (m.cbEvt t 0).cbCount t 0 1
        match x.kept with
        | none => m.cbEnd t g x false
        | some p =>
          let st := if hStatus p.hd = sPOISON then sPOISON else sPARTIAL
          (m.cbForward t x (m.cbStamp t (resultOf p.hd st p))).cbEnd t g x false
      else m
    | none => m)

/-- The descriptor of CB.GROUP (R281): group number, nodes with their tiles. -/
def Mach.groupDesc (m : Mach) (e : Nat) (w : Word) : Nat × List (Nat × CbNode) :=
  let d := m.descWord e w 0
  (bf d 56 8, (List.range (min 128 (bf d 0 8))).map (fun i =>
    let r := m.descWord e w (i + 1)
    (bf r 57 7,
      { subop := bf d 52 4, ctype := bf d 49 3, arrival := bt d 48, tc := bf d 46 2, len := bf d 37 9, tmo := bf d 8 16, up := bf r 54 3,
        kids := r.extractLsb' 50 4, loc := r.extractLsb' 46 4, st := .idle, held := [], acc := none, merged := [], reds := [],
        status := 0, kept := none, eps := [], ticks := 0 })))

/-- Follow the UP pointers from a tile (R281). -/
def rootOf (l : List (Nat × CbNode)) : Nat → Nat → Option Nat
  | 0, _ => none
  | k + 1, t =>
    match l.find? (fun r => r.1 == t) with
    | none => none
    | some (_, x) => if x.up = 7 then some t else (neighbour t x.up).bind (rootOf l k)

/-- Whether the neighbour of a node in a direction is a node that satisfies `p`. -/
def kidMatch (l : List (Nat × CbNode)) (t d : Nat) (p : CbNode → Bool) : Bool :=
  match neighbour t d with
  | none => false
  | some u => l.any (fun r => r.1 == u && p r.2)

/-- Whether CB.GROUP ends with RANGE (R281). -/
def Mach.groupRange (m : Mach) (e : Nat) (w : Word) (l : List (Nat × CbNode)) : Bool :=
  let d := m.descWord e w 0
  let n := bf d 0 8
  let lanes := laneBytes (bf d 49 3)
  decide (n = 0 ∨ 128 < n) || decide (bf d 24 13 ≠ 0) || !pairOk (bf d 52 4) (bf d 49 3) ||
  decide (bf d 37 9 = 0 ∨ 256 < bf d 37 9 ∨ bf d 37 9 % lanes ≠ 0) ||
  (List.range (min 128 n)).any (fun i => decide (bf (m.descWord e w (i + 1)) 0 46 ≠ 0)) ||
  !(l.map Prod.fst).Nodup || decide (cnt (fun r => r.2.up == 7) l ≠ 1) ||
  l.any (fun r =>
    decide (4 ≤ r.2.up ∧ r.2.up ≠ 7) || r.2.kidList.isEmpty ||
    (decide (r.2.up < 4) && !kidMatch l r.1 r.2.up (fun x => bt x.kids (opposite r.2.up))) ||
    (List.range 4).any (fun d => bt r.2.kids d && !kidMatch l r.1 d (fun x => x.up == opposite d)) ||
    (rootOf l 129 r.1).isNone ||
    decide (32 ≤ (m.cbNodes r.1).length) || decide (256 < m.cbBufs r.1 + r.2.bufs))

/-- Whether CB.GROUP ends with STATE (R281). -/
def Mach.groupState (m : Mach) (g : Nat) (l : List (Nat × CbNode)) : Bool :=
  (List.range 128).any (fun t => (m.node t g).isSome) ||
  l.any (fun r =>
    !m.domLive r.1 || decide ((m.dom r.1).st = .fenced) || bt m.pwr.fence r.1 ||
    (decide (r.2.up < 4) && (match linkAt r.1 r.2.up with
      | none => true
      | some n => !m.linkUp n || (m.link n).pend)))

/-- CB.GROUP (R281, R361). -/
def execCbGroup (e : EngId) (s : State) : Out :=
  s.on (fun m => m.issue e 0x90 anyWord (fun w m =>
    m.status e (!m.hasCombine) true true (fun m => m.sadr e w (1 + min 128 (bf (m.descWord e w 0) 0 8)) (fun m =>
      let d := m.groupDesc e w
      if m.groupRange e w d.2 then m.endStatus e xRANGE []
      else if m.groupState d.1 d.2 then m.endStatus e xSTATE []
      else (d.2.foldl (fun m r => m.setNode r.1 d.1 (some r.2)) m).done e xOK []))))

/-- The tiles whose combine unit knows a group. -/
def Mach.cbTiles (m : Mach) (g : Nat) : List Nat := (List.range 128).filter (fun t => (m.node t g).isSome)

/-- CB.FREE (R295, R361). -/
def execCbFree (e : EngId) (s : State) : Out :=
  s.on (fun m => m.issue e 0x91 anyWord (fun w m =>
    m.status e (!m.hasCombine) true true (fun m =>
      let g := bf ((m.eng e).reg (wA w)) 0 8
      if m.cbTiles g = [] then m.endStatus e xSTATE []
      else (m.setWait e (.cbFree g)).startLimit e (wLimit w))))

/-- Whether a node is quiet (R295): IDLE or FAILED, no contribution held, no copy still to send. -/
def Mach.cbQuiet (m : Mach) (t g : Nat) : Bool :=
  let u := m.cbUnit t
  (match m.node t g with
   | some x => decide (x.st = .idle ∨ x.st = .failed) && x.held.isEmpty
   | none => true) &&
  !u.outq.any (fun r => hGroup r.hd == g) && !u.inq.any (fun r => hGroup r.2.2.hd == g)

/-- CB_FREE_COMPLETE (R295). -/
def execCbFreeComplete (g : Group) (s : State) : Out :=
  s.on (fun m =>
    let g := g.val
    let l := m.cbTiles g
    if m.waiters (.cbFree g) ≠ [] ∧ l.all (fun t => m.cbQuiet t g) = true then
      (l.foldl (fun m t => m.setNode t g none) m).finish (.cbFree g) xOK
    else m)

end Sys2Proof.Machine
end

