-- ==== Sys2Proof/Machine/Record.lean ====
section
/-! DEFINITION. Fault records and the error output (R452, R455, R456). -/

namespace Sys2Proof.Machine

/-- Registers of the fault unit (R461). -/
def aFltSum : Nat := 0xD0000
def aFltCfg : Nat := 0xD0008
def aFltErr : Nat := 0xD0010
def aFltSafe : Nat := 0xD0018

/-- A fault record. -/
def Mach.frec (m : Mach) (i : Nat) : Option FRec := Tab.get dNone m.flt.recs i
def Mach.setFrec (m : Mach) (i : Nat) (r : Option FRec) : Mach := m.modFlt (fun f => { f with recs := Tab.set dNone f.recs i r })

/-- Whether a class drives DWN_ERR_N (R455). -/
def Mach.errMask (m : Mach) (cls : Nat) : Bool := bt (m.reg aFltCfg) (32 + cls)

/-- Whether DWN_ERR_N pulses (R455). -/
def Mach.pulseMode (m : Mach) : Bool := bt (m.reg aFltCfg) 0

/-- DWN_ERR_N (R455, R459). -/
def Mach.errPin (m : Mach) : Bool :=
  if !m.pwr.aonUp || m.safe then false
  else if m.pulseMode then !m.flt.pulse && !bt (m.reg aFltErr) 0
  else !m.flt.recs.any (fun e => e.2.any (fun r => m.errMask r.cls))

/-- Whether a record stands for an occurrence (R452). -/
def FRec.same (r : FRec) (cls : Nat) (o : Occ) : Bool :=
  decide (r.cls = cls ∧ r.occ.kind = o.kind ∧ r.occ.lvl = o.lvl ∧ r.occ.loc = o.loc ∧ r.occ.sub = o.sub)

/-- Record occurrences that have reached the fault unit (R452): a matching record counts them; otherwise the lowest free record
takes them, posts a FAULT event, starts a pulse (R455) and may escalate (R456); with no free record they are lost. Every occurrence
sets its class's bit; under cause FU_PARITY no new record is made (R459). -/
def Mach.recordOcc (m : Mach) (cls : Nat) (o : Occ) : Mach :=
  if !m.pwr.aonUp then m
  else
    let m := m.orReg aFltSum (2 ^ (48 + cls))
    match lowest (fun i => (m.frec i).any (fun r => r.same cls o)) 64 with
    | some i =>
      match m.frec i with
      | some r => m.setFrec i (some { r with occ := { r.occ with n := min 255 (r.occ.n + o.n) } })
      | none => m
    | none =>
      match lowest (fun i => (m.frec i).isNone) 64 with
      | none => (m.orReg aFltSum (2 ^ 47)).addFld aFltSum 0 16 o.n
      | some i =>
        if m.safe && decide (m.flt.cause = 1) then m else
        let m := (m.setFrec i (some ⟨cls, { o with n := min 255 o.n }, BitVec.ofNat 64 m.ftNs⟩)).postEvt 0 8 o.kind i cls
        let m := if m.pulseMode && m.errMask cls then m.modFlt (fun f => { f with pulse := true }) else m
        if cls ≠ 0 ∧ bt (m.reg aFltCfg) (48 + cls) = true then m.enterSafe 4 cls else m

end Sys2Proof.Machine
end

