-- ==== Sys2Proof/Machine/Power.lean ====
section
/-! DEFINITION. What a power domain does (R366 to R398): opening and its effects (R385, R386), retries, feeds, protection,
and the DOM instructions (R357). -/

namespace Sys2Proof.Machine

/-- Registers and fields of a power domain (R397). -/
def Mach.pdEvt (m : Mach) (d bit : Nat) : Mach := m.orReg (aDom d 0x18) (2 ^ bit)
def Mach.pdCount (m : Mach) (d lo : Nat) : Mach := m.addFld (aDom d 0x20) lo 16 1
def Mach.pdRetry (m : Mach) (d : Nat) : Nat := m.fld (aDom d 0x08) 8 4

/-- Whether FEED_WARN is active (R378, R384). -/
def PDom.feedWarn (x : PDom) : Bool := x.warn || x.pgWarn

/-- Whether a leg is closed, so that the domain draws current (R367). -/
def PDom.closed (x : PDom) : Bool := decide (x.feed ≠ 0)

/-- Slices of a domain (R366). -/
def domSlices (d : Nat) : Nat := if d < 128 then 4 else if d < 132 then 32 else 8

/-- Tile-domain equivalents of inrush (R374). -/
def domInrush (d : Nat) : Nat := if d < 128 then 1 else if d < 132 then 8 else 2

/-- The NIUs of a tile domain: its four external ones, and the service NIU of a service tile (R33). -/
def domNius (t : Nat) : List Nat :=
  [4 * t, 4 * t + 1, 4 * t + 2, 4 * t + 3] ++ ((List.range 4).filter (fun q => serviceTile q == t)).map (fun q => 512 + q)

/-- The links of a tile. -/
def tileLinks (t : Nat) : List Nat := (List.range 4).filterMap (linkAt t)

/-- Every NIU number. -/
def allNius : List Nat := List.range 516

/-- An NIU without power: only its pins remain (R431). -/
def Niu.cleared (x : Niu) : Niu :=
  { Niu.init with rstN := x.rstN, abort := x.abort, incPin := x.incPin, ratPin := x.ratPin, spPin := x.spPin, spReq := x.spReq }

/-- Whether a register address belongs to a tile domain (R33, R317, R435). -/
def tileAddr (t a : Nat) : Bool :=
  decide (aTile t 0 ≤ a ∧ a < aTile t 0x1000) || decide (aNiu (4 * t) 0 ≤ a ∧ a < aNiu (4 * t) 0x4000) ||
  decide (0x400000 + t * 0x100 ≤ a ∧ a < 0x400100 + t * 0x100) ||
  decide (0x410000 + t * 0x400 ≤ a ∧ a < 0x410400 + t * 0x400) ||
  decide (0x440000 + t * 0x400 ≤ a ∧ a < 0x440400 + t * 0x400) ||
  (List.range 4).any (fun q => serviceTile q == t && decide (aNiu (512 + q) 0 ≤ a ∧ a < aNiu (512 + q) 0x8000))

/-- Whether a register address belongs to a spine domain: station registers, the quadrant engine, their counters and
samplers. -/
def spineAddr (q a : Nat) : Bool :=
  decide (0x81000 + q * 0x200 ≤ a ∧ a < 0x81200 + q * 0x200) || decide (aEng (q + 1) 0 ≤ a ∧ a < aEng (q + 1) 0x8000) ||
  (decide (0x430000 ≤ a ∧ a < 0x430800) && (a - 0x430000) / 0x20 / 8 % 4 == q) ||
  decide (0x431080 + q * 0x80 ≤ a ∧ a < 0x431100 + q * 0x80) || decide (0x460000 + q * 0x800 ≤ a ∧ a < 0x460800 + q * 0x800)

/-- The counter number or 8,192 + sampler number keys of `Tele.owner` and the like that a domain holds. -/
def domCtr (d k : Nat) : Bool :=
  if d < 128 then
    decide (8 * d ≤ k ∧ k < 8 * d + 8) || decide (1024 + 32 * d ≤ k ∧ k < 1056 + 32 * d) ||
    decide (8192 + 4 * d ≤ k ∧ k < 8196 + 4 * d)
  else if d < 132 then
    let q := d - 128
    (decide (5120 ≤ k ∧ k < 5184) && (k - 5120) / 8 % 4 == q) || decide (5188 + 4 * q ≤ k ∧ k < 5192 + 4 * q) ||
    decide (8704 + 8 * q ≤ k ∧ k < 8712 + 8 * q)
  else decide (5184 ≤ k ∧ k < 5188)

/-- Reset the registers that `p` names, and the counters and samplers of domain `d`. -/
def Mach.clearRegs (m : Mach) (d : Nat) (p : Nat → Bool) : Mach :=
  { m with regs := Tab.keep (fun a => !p a) m.regs,
           tele := { m.tele with owner := Tab.keep (fun k => !domCtr d k) m.tele.owner,
                                 wraps := Tab.keep (fun k => !domCtr d k) m.tele.wraps, rcnt := Tab.keep (fun k => k / 16 ≠ d) m.tele.rcnt } }

/-- Every engine that waits for something `p` holds of ends its command with status `st` (R346). -/
def Mach.finishIf (m : Mach) (p : Wait → Bool) (st : Nat) : Mach :=
  each (List.range 5) (fun e m =>
    if (m.eng e).state = .waiting ∧ p (m.eng e).wait = true then
      m.modEng e (fun x => { x with wait := .done st [], limit := none })
    else m) m

/-- A tile's links go DOWN (R198); an excluded one stays EXCL, and one that LINK.INCL was training is EXCL again (R200). Instructions
that wait on them end with STATE. -/
def Mach.linksDown (m : Mach) (t : Nat) : Mach :=
  (tileLinks t).foldl (fun m n =>
    if (m.link n).st = .excl then m
    else
      let m := m.modLink n (fun k => { k with st := if k.incl then .excl else .down, incl := false })
      let m := (m.clearDir (2 * n)).clearDir (2 * n + 1)
      ((m.finish (.train n) xSTATE).finish (.laneMap (2 * n)) xSTATE).finish (.laneMap (2 * n + 1)) xSTATE) m

/-- A tile domain loses its state (R431): router, links' receivers, NIUs, combine unit, registers, counters. What waited for
an NIU of the tile finds it gone. -/
def Mach.clearTile (m : Mach) (t : Nat) : Mach :=
  let m := (domNius t).foldl (fun m n => m.modNiu n Niu.cleared) m
  let m := { m with rin := Tab.keep (fun k => k / 96 ≠ t) m.rin, rout := Tab.keep (fun k => k / 96 ≠ t) m.rout,
                    arb := Tab.keep (fun k => k / 8 ≠ t) m.arb, cb := Tab.keep (fun k => k / 256 ≠ t) m.cb,
                    cbu := Tab.keep (fun k => k ≠ t) m.cbu }
  let m := ((m.linksDown t).clearRegs t (tileAddr t)).leftDrop (domNius t)
  m.finishIf (fun w => match w with
    | .pin n _ => (domNius t).contains n
    | .sync ep => epTile ep == t
    | _ => false) xOK

/-- An engine loses its state and is OFF, or comes up again; EVQ_DROP survives (R325, R329). -/
def Mach.clearEngine (m : Mach) (e : Nat) (st : EngSt) : Mach :=
  let k := m.fld (aEng e 0x58) 32 16
  let m := (m.withdraw e).releaseToken e
  let m := { m with regs := Tab.keep (fun a => !decide (aEng e 0 ≤ a ∧ a < aEng e 0x8000)) m.regs }
  (m.setFld (aEng e 0x58) 32 16 k).modEng e (fun x => { Eng.init with state := st, post := x.post })

/-- The rotor without power: at its next power-up it starts at slot 0 with LOCK = FREE (R219); LOCK leaves LOCKED or SLEW, which is
marked (R231). -/
def Mach.rotorOff (m : Mach) : Mach :=
  if m.spineUp then m
  else (m.setLock .free).modSpine (fun x =>
    { x with slot := 0, abs := 0, cyc := 0, lock := .free, err := 0, corr := 0, corrN := 0, seen := false, acqNext := false })

/-- A spine domain loses its state (R431): quadrant engine OFF, the turn bits of its stations, station registers, counters. What its
stations hold is lost at the next slot boundary (R230). -/
def Mach.clearSpine (m : Mach) (q : Nat) : Mach :=
  let k := m.fld (aEng (q + 1) 0x58) 32 16
  let m := (m.clearEngine (q + 1) .off).clearRegs (128 + q) (spineAddr q)
  let m := (List.range 8).foldl (fun m i => m.modStn (8 * q + i) (fun x => { x with turnL := 0, turnS := [] })) m
  (m.setFld (aEng (q + 1) 0x58) 32 16 k).rotorOff

/-- The switched logic of the always-on domain loses its state (R431): keeper, master engine, fault unit, twin unit, register
port, near window, mailboxes, admission ledger, mirror ring; transfers between it and other clocks are discarded (R433). -/
def Mach.clearAon (m : Mach) : Mach :=
  let m := (m.clearEngine 0 .idle).clearRegs 132 aonAddr
  { m with keep := Keeper.init, flt := FaultUnit.init, twin := Twin.init, rp := ⟨none, none, none, false, [], false⟩,
           adm := ⟨[], [], 0⟩, pchan := [], pwr := { m.pwr with aonUp := false },
           tele := { m.tele with rules := [], memEp := 0, mq := [], out := [] } }.spineHold

/-- A far access on its way to a domain that enters reset completes as R430 gives: a read with zero, a write ignored (R433). -/
def Mach.farDrop (m : Mach) (d : Nat) : Mach :=
  if m.rp.far.any (fun f => if d < 128 then tileAddr d f.a else if d < 132 then spineAddr (d - 128) f.a else aonAddr f.a) then
    (m.modRp (fun r => { r with far := none, pend := false })).answerFar 0 0
  else m

/-- The reset of a domain asserts (R431): everything that it holds is lost. -/
def Mach.domReset (m : Mach) (d : Nat) : Mach :=
  let m := (m.modDom d (fun x => { x with live := false })).farDrop d
  if d < 128 then m.clearTile d else if d < 132 then m.clearSpine (d - 128) else m.clearAon

/-- A domain opens (R385, R392): both legs, power-good, everything it held; its state is OFF. -/
def Mach.powerOff (m : Mach) (d : Nat) : Mach :=
  let m := m.modDom d (fun x =>
    { x with st := .off, feed := 0, pgood := false, warn := false, pgWarn := false, lim := 0, timer := false, left := none })
  (m.modPwr (fun p => { p with reqs := p.reqs.filter (fun k => k ≠ d) })).domReset d

/-- With the always-on reset every tile and spine domain is in reset (R432): those that have power wait in RAMP, their power-good up,
until it is released, and then initialize (DEDUCED, log entry 138). -/
def Mach.holdAll (m : Mach) : Mach :=
  (List.range 132).foldl (fun m d =>
    if (m.dom d).pgood then (m.modDom d (fun x => { x with st := .ramp })).domReset d else m) m

/-- Set or clear a tile's fence bit in the fence set and in every powered NIU (R103, R391, R393). -/
def Mach.setFence (m : Mach) (t v : Nat) : Mach :=
  let m := m.modPwr (fun p => { p with fence := sf p.fence t 1 v })
  allNius.foldl (fun m n =>
    if m.domLive (epTile n) then m.setFld (aNiu n (if t < 64 then 0x10 else 0x18)) (t % 64) 1 v else m) m

/-- Whether a request of the tracker has packets released to a tile (R104, R386). -/
def Trk.outTo (r : Trk) (t : Nat) : Bool := decide (r.dst = t ∧ r.seqs ≠ [])

/-- Whether a posted write is unretired at a tile (R104, R386). -/
def Pwb.outTo (w : Pwb) (t : Nat) : Bool := decide (w.dst = t ∧ w.rel = true)

/-- Whether an NIU has no unanswered request to a tile (R104). -/
def Niu.quietAt (x : Niu) (t : Nat) : Bool :=
  !x.trk.any (fun e => e.2.any (fun r => r.outTo t && x.unheard e.1 r)) && !x.pwb.any (fun e => e.2.any (fun w => w.outTo t))

/-- Whether every NIU reports QUIET for a tile; an unpowered one counts as quiet (R104). -/
def Mach.allQuiet (m : Mach) (t : Nat) : Bool :=
  m.nius.all (fun e => !m.domLive (epTile e.1) || e.2.quietAt t)

/-- The numbers of a flow that a later response does not find answered: it is a stray (R101, R386). -/
def Niu.forget (x : Niu) (f : BitVec 16) (seqs : List (BitVec 16)) : Niu :=
  { x with eoDone := x.eoDone.filter (fun q => !(decide (q.1 = f) && seqs.contains q.2)) }

/-- What the loss fence does at one source NIU (R386): unanswered requests to the tile are answered DOMAIN_OFF, unretired
posted writes retire and count in FENCED_DROP. -/
def Mach.lossAt (m : Mach) (n t : Nat) : Mach :=
  let x := m.niu n
  let m := x.trk.foldl (fun m e =>
    match e.2 with
    | some r =>
      if !r.outTo t || r.ans then m
      else
        let m := m.dropUid n r.uid
        if r.owner = .endpoint then (m.srcAnswer n false e.1 sDOMOFF).modNiu n (fun x => x.forget r.flow r.seqs)
        else (m.modNiu n (fun x => x.freeTrk e.1)).makerFails r.owner sDOMOFF
    | none => m) m
  x.pwb.foldl (fun m e =>
    match e.2 with
    | some w =>
      if !w.outTo t then m
      else
        let m := ((if w.eo then m.retireRec n w.flow [w.seq] else m).modNiu n (fun x => x.freePwb e.1)).dropUid n w.uid
        let m := m.addFld (aNiu n 0x38) 32 16 1
        (match w.owner with
         | .mirror i => (m.modTele (fun t => { t with out := t.out.erase i })).mirDone
         | _ => m)
    | none => m) m

/-- The loss fence of a tile (R386). -/
def Mach.lossFence (m : Mach) (t : Nat) : Mach :=
  let m := (m.setFence t 1).modDom t (fun x => { x with lossF := true })
  (m.nius.map Prod.fst).foldl (fun m n => if m.domLive (epTile n) then m.lossAt n t else m) m

/-- LOST_POSTED takes the counts of what a tile's NIUs had accepted and not finished (R71, R78, R155, R386): unretired posted writes, and
unanswered non-posted requests; the near-window register at 0x40. -/
def Mach.lostPosted (m : Mach) (t : Nat) : Mach :=
  let ws (n : Nat) : Nat := cnt (fun e : Nat × Option Pwb => e.2.any (fun w => decide (w.acc ≠ 0))) (m.niu n).pwb
  let rs (n : Nat) : Nat := cnt (fun e : Nat × Option Trk => e.2.any (fun r => !r.ans && !r.dead && decide (r.acc ≠ 0))) (m.niu n).trk
  let l := domNius t
  let w := (l.map ws).foldl (· + ·) 0
  let r := (l.map rs).foldl (· + ·) 0
  match l.find? (fun n => decide (ws n + rs n ≠ 0)) with
  | none => m
  | some n => ((m.addFld 0x40 0 32 w).addFld 0x40 32 16 r).setFld 0x40 48 10 n

/-- The sequencer asks for the ramps of the spine domains and then of the tile rows (R371), if it has not done so. -/
def Mach.askBoot (m : Mach) : Mach :=
  if m.pwr.phase = 2 then
    let l := [128, 129, 130, 131] ++ List.range 128
    (l.foldl (fun m d => m.modDom d (fun x => { x with boot := true })) m).modPwr (fun p => { p with phase := 3, reqs := p.reqs ++ l })
  else m

/-- A domain opens under R385 (`kind` 0 fast trip, 1 timer trip, 2 supply loss): the count of LOST_POSTED, the loss of its
state, the loss fence of a tile, DEAD stations of a spine domain (R230), the record, the event, the alert, and the retry or
the latch (R387). Start-up does not wait for an always-on domain that opens in it: the other domains are asked to ramp (R373). Waiting
DOM.DRAIN and DOM.FENCE end with OK (R394), DOM.ON with TIMEOUT at a latch (R393). -/
def Mach.openDom (m : Mach) (d kind : Nat) : Mach :=
  let m := if d < 128 then m.lostPosted d else m
  let m := m.powerOff d
  let m := if d < 128 then m.lossFence d else if d = 132 then m.holdAll.askBoot else m
  let m := if 128 ≤ d ∧ d < 132 ∧ m.hasSpine = true then
      (List.range 8).foldl (fun m i =>
        let p := 8 * (d - 128) + i
        let m := m.finish (.portOn p) xSTATE
        m.modStn p (fun x => { x with onReq := false, onDue := false, dying := decide (x.st ≠ .dead ∧ x.st ≠ .disabled) })) m
    else m
  let m := (m.pdEvt d kind).pdCount d 0
  let m := (m.modDom d (fun x => { x with alert := true, redo := false, boot := false, flt := true })).occur 12 kind (domLevel d) d 0 1
  let m := ((m.powerEvt d kind).finish (.drain d) xOK).finish (.fence d) xOK
  if (m.dom d).retries = 0 then
    (((m.modDom d (fun x => { x with latched := true })).pdEvt d 5).powerEvt d 4).finish (.domOn d) xTIMEOUT
  else m.modDom d (fun x => { x with retryP := true })

/-- Ask for the ramp of a domain (R374, R375): in order, state RAMP. -/
def Mach.askRamp (m : Mach) (d : Nat) : Mach :=
  (m.modDom d (fun x => { x with st := .ramp, retryP := false, latched := false })).modPwr
    (fun p => { p with reqs := p.reqs.filter (fun k => k ≠ d) ++ [d] })

/-- The validity of feed 1 (VFA) or 2 (VFB) (R369). -/
def Mach.feedOk (m : Mach) (k : Nat) : Bool := if k = 1 then m.pwr.feedA else if k = 2 then m.pwr.feedB else false

/-- The nominal voltage in mV that PWR_CFG.NOM names (R369, R398). -/
def Mach.nomMv (m : Mach) : Nat :=
  let c := m.fld 0xC4008 16 2
  if c = 1 then 700 else if c = 2 then 600 else 800

/-- Whether a voltage in 4 mV codes is below `p` percent of the nominal (R369). -/
def Mach.below (m : Mach) (v p : Nat) : Bool := decide (400 * v < p * m.nomMv)

/-- The voltage of feed 1 (VFA) or 2 (VFB) as last judged, and a judgement of it: below 97 % it is not valid (R369). -/
def Mach.feedVol (m : Mach) (k : Nat) : Nat := if k = 1 then m.pwr.volA else m.pwr.volB
def Mach.noteFeed (m : Mach) (k v : Nat) : Mach :=
  let bad := m.below v 97
  m.modPwr (fun p =>
    if k = 1 then { p with volA := v, feedA := p.feedA && !bad } else { p with volB := v, feedB := p.feedB && !bad })

/-- The ports of a tile domain are stopped (R83): a unit in part accepted is discarded, and its message abandoned (R77, R78). -/
def Mach.stopPorts (m : Mach) (d : Nat) : Mach :=
  if d < 128 then [4 * d, 4 * d + 1, 4 * d + 2, 4 * d + 3].foldl (fun m n => m.discardUnit n) m else m

/-- The outputs pw_warn and pw_alert_n (R368), and the status outputs of the domains (R464). -/
def Mach.pwWarn (m : Mach) : Bool := m.pwr.doms.any (fun e => e.2.feedWarn)
def Mach.pwAlertN (m : Mach) : Bool := !m.pwr.doms.any (fun e => e.2.alert)
def Mach.pwOn (m : Mach) (d : Nat) : Bool := m.pwr.porN && !decide ((m.dom d).st = .off ∨ (m.dom d).st = .ramp)
def Mach.pwTileWarn (m : Mach) (t : Nat) : Bool := m.pwr.porN && (m.dom t).feedWarn

/-- The feed that selection gives (R376): the forced one while valid, else VFA, else VFB. -/
def Mach.selFeed (m : Mach) (d : Nat) : Option Nat :=
  let k := (m.dom d).mode
  if k ≠ 0 ∧ m.feedOk k = true then some k
  else if m.pwr.feedA then some 1 else if m.pwr.feedB then some 2 else none

/-- Give up a forced feed (R376). -/
def Mach.forceLost (m : Mach) (d : Nat) : Mach :=
  if (m.dom d).mode = 0 then m else (m.modDom d (fun x => { x with mode := 0 })).pdEvt d 4

/-- A changeover (R377): the other leg closes, the feed is valid and FEED_WARN ends (R378, R384), CHANGEOVER is set and counted. -/
def Mach.changeover (m : Mach) (d k : Nat) : Mach :=
  ((m.modDom d (fun x => { x with feed := k, warn := false, pgWarn := x.pgWarn && !x.pgood })).pdEvt d 3).pdCount d 16

/-- Power-good falls while the domain is switched on (R384): FEED_WARN with the effects of R378, unless NOM_BLANK runs (R370). -/
def Mach.pgFall (m : Mach) (d : Nat) : Mach :=
  if (m.dom d).pgood then
    let m := ((m.modDom d (fun x => { x with pgood := false })).pdEvt d 7).pdCount d 32
    if m.pwr.blank then m else (m.modDom d (fun x => { x with pgWarn := true })).stopPorts d
  else m

/-- Take measured codes (R388). -/
def Mach.measure (m : Mach) (d : Nat) (v : Meas) : Mach :=
  m.modDom d (fun x => { x with peak := max x.peak v.current.toNat, minV := min x.minV v.rail.toNat })

/-- RAMP_ADMIT (R374, R375): the oldest request ramps where the inrush of the rails that still rise allows; while no feed is valid it
waits in RAMP with no leg closed. -/
def execRampAdmit (d : Dom) (s : State) : Out :=
  s.on (fun m =>
    let d := d.val
    let now := ((m.pwr.doms.filter (fun e => decide (e.2.st = .ramp) && e.2.closed && !e.2.pgood)).map (fun e => domInrush e.1)).foldl (· + ·) 0
    if m.pwr.reqs.head? ≠ some d ∨ 32 < now + domInrush d then m
    else match m.selFeed d with
      | none => m.modDom d (fun x => { x with st := .ramp })
      | some k =>
        let m := if (m.dom d).mode ≠ 0 ∧ (m.dom d).mode ≠ k then m.forceLost d else m
        (m.modDom d (fun x => { x with st := .ramp, feed := k })).modPwr (fun p => { p with reqs := p.reqs.drop 1 }))

/-- Whether no slice of a domain has been in the limit for 1 µs (R382, R383): 100 cycles of the AON clock, as the model counts them (log
entry 116). -/
def Mach.limQuiet (m : Mach) (d : Nat) : Bool :=
  let x := m.dom d
  decide (x.lim = 0) && (match x.left with
    | none => true
    | some t => decide (t + 100 ≤ m.clk.aon))

/-- POWER_GOOD_RISE (R369, R383): the rail at 95 % or more and no slice in the limit for 1 µs; the fault timer has reset, and a warning of
R384 ends unless the feed is below 94 %. -/
def execPowerGoodRise (d : Dom) (v : Meas) (s : State) : Out :=
  s.on (fun m =>
    let x := m.dom d
    if !x.closed || x.pgood || !m.limQuiet d || m.below v.rail.toNat 95 then m
    else
      let low := !m.feedOk x.feed && m.below (m.feedVol x.feed) 94
      (m.measure d v).modDom d (fun x => { x with pgood := true, timer := false, pgWarn := x.pgWarn && low }))

/-- POWER_GOOD_FALL (R369, R383, R384): the rail is below 90 %. -/
def execPowerGoodFall (d : Dom) (v : Meas) (s : State) : Out :=
  s.on (fun m => if (m.dom d).closed && (m.dom d).pgood && m.below v.rail.toNat 90 then (m.measure d v).pgFall d else m)

/-- DOMAIN_RESET_RELEASE (R375, R432): of a tile or spine domain, while the always-on reset is released. -/
def execDomainResetRelease (d : Dom) (s : State) : Out :=
  s.on (fun m =>
    if d.val < 132 ∧ m.pwr.aonUp = true ∧ (m.dom d).pgood = true ∧ (m.dom d).st = .ramp then
      m.modDom d (fun x => { x with st := .init })
    else m)

/-- An NIU of a tile that has initialized (R375, R80, R64, R103): its fence bits, ep_inc, ep_ratio and ep_sp_en. -/
def Mach.niuUp (m : Mach) (n : Nat) : Mach :=
  let f := m.pwr.fence
  let m := (m.setReg (aNiu n 0x10) (f.extractLsb' 0 64)).setReg (aNiu n 0x18) (f.extractLsb' 64 64)
  if 512 ≤ n then m
  else
    let m := m.modNiu n (fun x => { x with inc := x.incPin, ratio := x.ratPin, spEn := x.spPin, hold := true, relHold := false })
    if (m.niu n).ratio = 3 then m.occur 1 0 3 n 0 1 else m

/-- Links of a tile that has initialized begin training with every neighbour that is up (R199, R375). -/
def Mach.linksTrain (m : Mach) (t : Nat) : Mach :=
  (tileLinks t).foldl (fun m n =>
    if (m.link n).st = .down ∧ m.domLive (linkTile n) = true ∧ m.domLive (linkTile2 n) = true then
      m.modLink n (fun k => { k with st := .train })
    else m) m

/-- The start-up sequence is training once every domain of it has initialized (R371, R398). -/
def Mach.bootPhase (m : Mach) : Mach :=
  if m.pwr.phase = 3 ∧ m.pwr.doms.all (fun e => !e.2.boot || e.2.live) = true then m.modPwr (fun p => { p with phase := 4 }) else m

/-- DOMAIN_INIT_DONE (R375): initialization ends. A spine domain's stations are ENABLED in start-up (R371) and DISABLED
otherwise (R393), its quadrant engine IDLE with SRAM cleared (R314, R325). -/
def execDomainInitDone (d : Dom) (s : State) : Out :=
  s.on (fun m =>
    let d := d.val
    let x := m.dom d
    if x.st ≠ .init ∨ x.live = true then m
    else
      let m := m.modDom d (fun x => { x with live := true })
      let m :=
        if d < 128 then ((domNius d).foldl (fun m n => m.niuUp n) m).linksTrain d
        else if d < 132 then
          let m := (List.range 8).foldl (fun m i =>
            m.modStn (8 * (d - 128) + i) (fun _ => { Station.init with st := if x.boot then .enabled else .disabled })) m
          m.clearEngine (d - 127) .idle
        else m
      m.bootPhase.settleDom d)

/-- FEED_CHANGEOVER (R376, R377): the selected feed has fallen below 96 %. A forced feed is given up; the domain changes
over to the other feed if that is valid. -/
def execFeedChangeover (d : FeedAt) (s : State) : Out :=
  s.on (fun m =>
    let x := m.dom d.dom
    let k := 3 - x.feed
    if !x.closed || m.pwr.blank || !m.below d.volt.toNat 96 then m
    else
      let m := (m.noteFeed x.feed d.volt.toNat).forceLost d.dom
      if m.feedOk k then m.changeover d.dom k else m)

/-- FEED_RETURN (R376): under priority selection, a domain on VFB returns to VFA. -/
def execFeedReturn (d : Dom) (s : State) : Out :=
  s.on (fun m =>
    let x := m.dom d
    if x.mode = 0 ∧ x.feed = 2 ∧ m.pwr.feedA = true ∧ m.pwr.blank = false then m.changeover d 1 else m)

/-- Whether the selected feed, at voltage `v`, is below `p` percent and no changeover can be made (R378, R379). -/
def Mach.stuckFeed (m : Mach) (d v p : Nat) : Bool :=
  let x := m.dom d
  x.closed && !m.pwr.blank && m.below v p && !m.feedOk (3 - x.feed)

/-- FEED_WARN_RAISE (R378): the selected feed has fallen below 94 %, and no changeover can be made; the ports stop (R83).
A forced feed is given up (R376). -/
def execFeedWarnRaise (d : FeedAt) (s : State) : Out :=
  s.on (fun m =>
    if m.stuckFeed d.dom d.volt.toNat 94 then
      (((m.noteFeed (m.dom d.dom).feed d.volt.toNat).forceLost d.dom).modDom d.dom (fun x => { x with warn := true })).stopPorts d.dom
    else m)

/-- FEED_WARN_END (R378, R384): the selected feed is at 94 % or more again; a warning of R384 ends with it once power-good has returned.
A changeover ends a warning by itself. -/
def execFeedWarnEnd (d : FeedAt) (s : State) : Out :=
  s.on (fun m =>
    if !(m.dom d.dom).feedWarn || m.below d.volt.toNat 94 then m
    else (m.noteFeed (m.dom d.dom).feed d.volt.toNat).modDom d.dom (fun x =>
      { x with warn := false, pgWarn := x.pgWarn && !x.pgood }))

/-- FEED_VALIDITY_CHANGE (R369): FEEDA_OK or FEEDB_OK, the feed at 97 % or more, held for 1 µs, or below 97 %. In start-up
both valid end the qualification, and the always-on domain ramps (R371). -/
def execFeedValidityChange (b : Bool) (valid : FeedLevel) (s : State) : Out :=
  s.on (fun m =>
    if m.below valid.volt.toNat 97 = valid.valid then m
    else
    let m := m.modPwr (fun p =>
      if b then { p with feedB := valid.valid, volB := valid.volt.toNat } else { p with feedA := valid.valid, volA := valid.volt.toNat })
    if m.pwr.phase = 1 ∧ m.pwr.feedA = true ∧ m.pwr.feedB = true then
      (m.modDom 132 (fun x => { x with boot := true })).modPwr (fun p => { p with phase := 2, reqs := p.reqs ++ [132] })
    else m)

/-- The changeover of a forced domain that NOM_BLANK has held back (R370, R376): to its feed if that is still valid. -/
def Mach.feedAfter (m : Mach) (d : Nat) : Mach :=
  let x := m.dom d
  let m := if x.mode = 0 ∨ x.closed = false ∨ x.feed = x.mode then m
    else if m.feedOk x.mode then m.changeover d x.mode
    else m.forceLost d
  m.finish (.feed d) xOK

/-- NOM_BLANK_END (R370): changeovers that DOM.FEED has asked for in the meantime are made. -/
def execNomBlankEnd (s : State) : Out :=
  s.on (fun m => each (List.range 133) (fun d m => m.feedAfter d) (m.modPwr (fun p => { p with blank := false })))

/-- A write of PWR_CFG.NOM (R370). -/
def Mach.writePwrCfg (m : Mach) (v : Word) : Mach :=
  (m.setReg 0xC4008 (mkf 64 0 18 v.toNat)).modPwr (fun p => { p with blank := true })

/-- PWR_CFG_NOM_WRITE (R370, R398): an engine's write of PWR_CFG. -/
def execPwrCfgNomWrite (v : Word) (s : State) : Out := s.on (fun m => if m.pwr.aonUp then m.writePwrCfg v else m)

/-- A write to PD_CTL (R388, R397). -/
def Mach.clrMeas (m : Mach) (d : Nat) (v : Word) : Mach :=
  if bt v 0 then m.modDom d (fun x => { x with peak := 0, minV := 255 }) else m

/-- CLR_MEAS (R388). -/
def execClrMeas (d : Dom) (v : Word) (priv : Bool) (mid : BitVec 16) (s : State) : Out :=
  s.hostWrite (aDom d 0x10) v true priv mid (fun m => m.clrMeas d v)

/-- FAST_TRIP (R380). -/
def execFastTrip (d : Dom) (v : Meas) (s : State) : Out :=
  s.on (fun m => if (m.dom d).closed then (m.measure d v).openDom d 0 else m)

/-- SLICE_LIMIT_ENTER (R382, R383): the timer starts, power-good falls. -/
def execSliceLimitEnter (d : Dom) (slice : SwSlice) (v : Meas) (s : State) : Out :=
  s.on (fun m =>
    if !(m.dom d).closed || decide (domSlices d ≤ slice.val) then m
    else ((m.measure d v).modDom d (fun x => { x with lim := sf x.lim slice 1 1, timer := true })).pgFall d)

/-- SLICE_LIMIT_LEAVE (R382, R383): the 1 µs without a slice in the limit begins. -/
def execSliceLimitLeave (d : Dom) (slice : SwSlice) (s : State) : Out :=
  s.on (fun m => m.modDom d (fun x =>
    { x with lim := sf x.lim slice 1 0, left := if bt x.lim slice then some m.clk.aon else x.left }))

/-- TIMER_TRIP (R382): the fault timer expires; it has reset once no slice has been in the limit for 1 µs. -/
def execTimerTrip (d : Dom) (s : State) : Out :=
  s.on (fun m => if (m.dom d).closed && (m.dom d).timer && !m.limQuiet d then m.openDom d 1 else m)

/-- POWER_GOOD_DEADLINE (R375): no power-good in time, and no slice in the limit. -/
def execPowerGoodDeadline (d : Dom) (s : State) : Out :=
  s.on (fun m =>
    let x := m.dom d
    if x.st = .ramp ∧ x.closed = true ∧ x.pgood = false ∧ x.lim = 0 then m.openDom d 1 else m)

/-- RETRY_TIMER (R387): a retry starts, and uses one of RETRY_LEFT. -/
def execRetryTimer (d : Dom) (s : State) : Out :=
  s.on (fun m =>
    let x := m.dom d
    if x.st = .off ∧ x.retryP = true then
      (((m.askRamp d).modDom d (fun x => { x with retries := x.retries - 1 })).pdEvt d 6).powerEvt d 3
    else m)

/-- RETRY_RELOAD (R387). -/
def execRetryReload (d : Dom) (s : State) : Out :=
  s.on (fun m => if (m.dom d).pgood then m.modDom d (fun x => { x with retries := m.pdRetry d }) else m)

/-- Whether R322 stops an instruction on a domain: the quadrant engine of a spine domain runs or waits. -/
def Mach.engineBusy (m : Mach) (d : Nat) : Bool :=
  decide (128 ≤ d ∧ d < 132) && decide ((m.eng (d - 127)).state = .running ∨ (m.eng (d - 127)).state = .waiting)

/-- Whether a spine domain has a station of the named states. -/
def Mach.anyStn (m : Mach) (d : Nat) (p : StnSt → Bool) : Bool :=
  decide (128 ≤ d ∧ d < 132) && m.hasSpine && (List.range 8).any (fun i => p (m.stn (8 * (d - 128) + i)).st)

/-- A DOM instruction on domains 0 to `top` (R343, R357): scope, in which the always-on domain, 132, is the master's, then RANGE,
then its own act; while the AON clock stands still the engine waits with nothing done (R429). -/
def Mach.domOp (m : Mach) (e : Nat) (w : Word) (lim : Bool) (top : Nat) (act : Nat → Mach → Mach) : Mach :=
  let d := (m.eng e).reg (wA w)
  m.status e false (decide (132 < d.toNat) || inScope e (domQuad d.toNat)) false (fun m =>
    if top < d.toNat then m.endStatus e xRANGE []
    else if m.clk.astop then (let m := m.setWait e .aon
      if lim then m.startLimit e (wLimit w) else m)
    else act d.toNat m)

/-- DOM.DRAIN on a domain (R357, R390). -/
def Mach.doDrain (m : Mach) (e : Nat) (w : Word) (d : Nat) : Mach :=
  if (m.dom d).st ≠ .on ∨ m.engineBusy d = true ∨ m.anyStn d StnSt.runs = true then m.endStatus e xSTATE []
  else if d < 128 then (((m.modDom d (fun x => { x with st := .draining })).stopPorts d).setWait e (.drain d)).startLimit e (wLimit w)
  else (m.modDom d (fun x => { x with st := .drained })).done e xOK []

/-- DOM.FENCE on a domain (R357, R391). -/
def Mach.doFence (m : Mach) (e : Nat) (w : Word) (d : Nat) : Mach :=
  if (m.dom d).st ≠ .drained ∨ m.engineBusy d = true then m.endStatus e xSTATE []
  else if d < 128 then ((m.setFence d 1).setWait e (.fence d)).startLimit e (wLimit w)
  else (m.modDom d (fun x => { x with st := .fenced })).done e xOK []

/-- DOM.OFF on a domain (R357, R392): the alert ends where DOM.ON has been asked for since the opening (R385). -/
def Mach.doOff (m : Mach) (e : Nat) (d : Nat) : Mach :=
  if (m.dom d).st ≠ .fenced ∨ m.engineBusy d = true ∨ m.anyStn d (fun s => !decide (s = .disabled ∨ s = .dead)) = true then
    m.endStatus e xSTATE []
  else ((m.powerOff d).modDom d (fun x => { x with alert := x.alert && !x.redo, flt := false })).done e xOK []

/-- DOM.ON on a domain (R357, R393): a pending retry is cancelled, RETRY_LEFT reloaded (R387). -/
def Mach.doOn (m : Mach) (e : Nat) (w : Word) (d : Nat) : Mach :=
  if (m.dom d).st ≠ .off then m.endStatus e xSTATE []
  else (((m.askRamp d).modDom d (fun x => { x with retries := m.pdRetry d, boot := false, redo := true })).setWait e (.domOn d)).startLimit e (wLimit w)

/-- DOM.UNFENCE on a domain (R357, R393). -/
def Mach.doUnfence (m : Mach) (e : Nat) (d : Nat) : Mach :=
  if (m.dom d).st ≠ .drained ∧ (m.dom d).st ≠ .fenced then m.endStatus e xSTATE []
  else
    let m := if d < 128 then m.setFence d 0 else m
    (m.modDom d (fun x => { x with st := .on, lossF := false, alert := false })).done e xOK []

/-- DOM.FEED on a domain (R357, R376, R377); while NOM_BLANK runs no changeover is made, and the instruction waits (R370). -/
def Mach.doFeed (m : Mach) (e : Nat) (w : Word) (d : Nat) : Mach :=
  let k := bf w 24 2
  if k = 3 then m.endStatus e xRANGE []
  else if k ≠ 0 ∧ m.feedOk k = false then m.endStatus e xSTATE []
  else
    let x := m.dom d
    let m := m.modDom d (fun x => { x with mode := k })
    if k = 0 ∨ x.closed = false ∨ x.feed = k then m.done e xOK []
    else if m.pwr.blank then m.setWait e (.feed d)
    else (m.changeover d k).done e xOK []

/-- The PD_STAT word of a domain (R397). -/
def Mach.pdStat (m : Mach) (d : Nat) : Word :=
  let x := m.dom d
  mkf 64 56 8 x.peak ||| mkf 64 48 8 x.minV ||| mkf 64 44 4 x.retries ||| mkf 64 36 6 (pop x.lim 32) |||
  mkf 64 31 1 (b1 x.pgood) ||| mkf 64 30 1 (b1 x.feedWarn) ||| mkf 64 29 1 (b1 m.pwr.feedB) ||| mkf 64 28 1 (b1 m.pwr.feedA) |||
  mkf 64 26 2 x.feed ||| mkf 64 24 2 x.mode ||| mkf 64 23 1 (b1 x.latched) ||| mkf 64 22 1 (b1 x.retryP) |||
  mkf 64 21 1 (b1 x.lossF) ||| mkf 64 0 3 x.st.code

/-- DOM.STAT on a domain (R357). -/
def Mach.doStat (m : Mach) (e : Nat) (w : Word) (d : Nat) : Mach := m.done e xOK [(wD w, m.pdStat d)]

/-- DOM.DRAIN (R390). -/
def execDomDrain (e : EngId) (s : State) : Out :=
  s.on (fun m => m.issue e 0x60 anyWord (fun w m => m.domOp e w true 131 (fun d m => m.doDrain e w d)))

/-- DOM.FENCE (R391). -/
def execDomFence (e : EngId) (s : State) : Out :=
  s.on (fun m => m.issue e 0x61 anyWord (fun w m => m.domOp e w true 131 (fun d m => m.doFence e w d)))

/-- DOM.OFF (R392). -/
def execDomOff (e : EngId) (s : State) : Out :=
  s.on (fun m => m.issue e 0x62 anyWord (fun w m => m.domOp e w false 131 (fun d m => m.doOff e d)))

/-- DOM.ON (R393). -/
def execDomOn (e : EngId) (s : State) : Out :=
  s.on (fun m => m.issue e 0x63 anyWord (fun w m => m.domOp e w true 131 (fun d m => m.doOn e w d)))

/-- DOM.UNFENCE (R393). -/
def execDomUnfence (e : EngId) (s : State) : Out :=
  s.on (fun m => m.issue e 0x64 anyWord (fun w m => m.domOp e w false 131 (fun d m => m.doUnfence e d)))

/-- DOM.FEED (R376). -/
def execDomFeed (e : EngId) (s : State) : Out :=
  s.on (fun m => m.issue e 0x65 anyWord (fun w m => m.domOp e w false 132 (fun d m => m.doFeed e w d)))

/-- DOM.STAT (R357). -/
def execDomStat (e : EngId) (s : State) : Out :=
  s.on (fun m => m.issue e 0x66 anyWord (fun w m => m.domOp e w false 132 (fun d m => m.doStat e w d)))

/-- Whether a router's mesh and SPN input VCs hold no packet for another tile (R390). -/
def Mach.noTransit (m : Mach) (t : Nat) : Bool :=
  [0, 1, 2, 3, 6].all (fun inp => (List.range 12).all (fun vc =>
    let b := m.vc (kVc t inp vc)
    (b.q.isEmpty && b.tail.isEmpty) || hTile b.hd == t))

/-- Whether a combine unit holds no contribution and no copy still to send (R390). -/
def Mach.cbEmpty (m : Mach) (t : Nat) : Bool :=
  let u := m.cbUnit t
  u.part.isEmpty && u.inq.isEmpty && u.outq.isEmpty && (m.cbNodes t).all (fun x => x.held.isEmpty && x.acc.isNone)

/-- The drain condition of a tile domain (R390). -/
def Mach.drainMet (m : Mach) (t : Nat) : Bool :=
  (domNius t).all (fun n =>
    let x := m.niu n
    x.ingress.isEmpty && x.reqs.isEmpty && x.inj.isEmpty && x.pwb.isEmpty && x.trk.isEmpty && x.bars.isEmpty) &&
  m.noTransit t && m.cbEmpty t

/-- DOMAIN_DRAINED (R390). -/
def execDomainDrained (d : Dom) (s : State) : Out :=
  s.on (fun m =>
    if d.val < 128 ∧ (m.dom d).st = .draining ∧ m.drainMet d = true then
      (m.modDom d (fun x => { x with st := .drained })).finish (.drain d) xOK
    else m)

/-- The condition of a DOM.FENCE: the tile is drained and every NIU is quiet for it (R391). -/
def Mach.fenceMet (m : Mach) (t : Nat) : Bool := decide ((m.dom t).st = .drained) && m.allQuiet t

/-- DOMAIN_FENCED (R391): while a DOM.FENCE waits, every NIU has become quiet for the tile. -/
def execDomainFenced (d : Dom) (s : State) : Out :=
  s.on (fun m =>
    if d.val < 128 ∧ m.waiters (.fence d) ≠ [] ∧ m.fenceMet d = true then
      (m.modDom d (fun x => { x with st := .fenced })).finish (.fence d) xOK
    else m)

end Sys2Proof.Machine
end

