-- ==== Sys2Proof/Machine/Startup.lean ====
section
/-! DEFINITION. Instance reset and start-up (R368, R371 to R374, R431, R432, R485), and supply loss (R379). -/

namespace Sys2Proof.Machine

/-- Instance reset (R431): every domain is open and everything but the retention cells' owner, the pins, the clocks, the test
port and the numbering of free values is at its reset value. -/
def Mach.instReset (m : Mach) : Mach :=
  { Mach.reset with straps := m.straps, frees := m.frees, clk := m.clk, rt := { Mach.reset.rt with cur := Img.init m.straps.variant, oth := Img.init m.straps.variant }, nius := Tab.mapv dNiu (fun _ x => x.cleared) m.nius, test := { m.test with run := [], refus := [], train := [] } }

/-- Instance reset with the guard configuration (R300). -/
def State.instReset (s : State) : State := { s with m := s.m.instReset, guards := [] }

/-- POR_ASSERT (R368, R431). -/
def execPorAssert (s : State) : Out :=
  .next { s.instReset with m := s.instReset.m.modPwr (fun p => { p with porN := false }) }

/-- Whether EXTEST or CLAMP holds the instance in instance reset (R477). -/
def TestAcc.holds (t : TestAcc) : Bool := decide (t.tap = 3 ∨ t.tap = 4)

/-- STARTUP_T0 (R371): supplies are in range, the AON clock and FCLK run, pw_por_n is 1; the feeds are qualified. -/
def execStartupT0 (s : State) : Out :=
  s.on (fun m => if m.pwr.phase = 0 ∧ m.test.holds = false ∧ m.clk.fstop = false ∧ m.clk.astop = false then m.modPwr (fun p => { p with phase := 1, porN := true }) else m)

/-- AON_RESET_RELEASE (R371, R432, R485, R325): the always-on domain's logic starts from reset; the keeper is FREE and tp_ack
follows tp_flag; the master's post counter goes on (R333). In start-up the spine domains and then the tile rows are asked to ramp. -/
def execAonResetRelease (tpFlag : Bool) (s : State) : Out :=
  s.on (fun m =>
    let x := m.dom 132
    if x.st ≠ .ramp ∨ x.pgood = false then m
    else
      let m := (m.modDom 132 (fun x => { x with st := .init })).modPwr (fun p => { p with aonUp := true })
      let m := { m with keep := { Keeper.init with tpFlag := tpFlag, tpAck := tpFlag }, engs := Tab.upd dEng m.engs 0 (fun x => { Eng.init with post := x.post }) }
      m.askBoot)

/-- STARTUP_READY (R371, R373): pw_ready rises, MISSING counts the domains that are not ON, and the fault unit records
each of them. Start-up has waited for none: where the always-on reset is still to release, the other domains are asked to ramp now
(R373). -/
def execStartupReady (s : State) : Out :=
  s.on (fun m =>
    if m.pwr.ready ∨ m.pwr.phase < 2 then m
    else
      let m := m.askBoot
      let off := (List.range 133).filter (fun d => decide ((m.dom d).st ≠ .on))
      let m := m.modPwr (fun p => { p with ready := true, phase := 5, missing := off.length })
      let m := { m with nius := Tab.mapv dNiu (fun n x => if (m.dom (epTile n)).st = .on then { x with hold := x.hold && x.relHold } else x) m.nius }
      off.foldl (fun m d => (m.modDom d (fun x => { x with flt := true })).recordOcc 12 ⟨3, domLevel d, d, 0, 1⟩) m)

/-- SUPPLY_LOSS (R379): the selected feed has fallen below 88 % with no changeover possible: the domain opens; the always-on domain
takes the whole instance into instance reset. -/
def execSupplyLoss (d : FeedAt) (s : State) : Out :=
  .next (if s.m.test.scan || !s.m.stuckFeed d.dom d.volt.toNat 88 then s
    else if d.dom.val = 132 then s.instReset
    else { s with m := s.m.openDom d.dom 2 })

end Sys2Proof.Machine
end

