-- ==== Sys2Proof/Machine/Telemetry.lean ====
section
/-! DEFINITION. Counters, queue samplers and the mirror ring's configuration (R435 to R450, R363). -/

namespace Sys2Proof.Machine

/-- KIND of a counter number (R435). -/
def ctrKind (n : Nat) : Nat := if n < 1024 then 0 else if n < 5120 then 1 else if n < 5184 then 2 else 3

/-- The power domain of a counter (R435, R312). Of the 64 spine counters R435 places 8Q to 8Q + 7 in spine domain Q: counters 32 to 63 are
taken in the same order again (DESIGN CHOICE, log entry 159). -/
def ctrDom (n : Nat) : Nat :=
  if n < 1024 then n / 8
  else if n < 5120 then (n - 1024) / 32
  else if n < 5184 then 128 + (n - 5120) / 8 % 4
  else if n < 5188 then 132 else 127 + (n - 5184) / 4

/-- The power domain of a sampler (R441). -/
def smpDom (s : Nat) : Nat := if s < 512 then s / 4 else 128 + (s - 512) / 8

/-- Whether an event is one of packets or cells, so that PC_SNAP holds a head (R438, R440). -/
def packetEvent (kind code : Nat) : Bool :=
  match kind with
  | 0 => [1, 2, 3, 6, 8, 9].contains code
  | 1 => [1, 2, 3, 7, 8, 9, 10, 11, 12, 13, 14].contains code
  | 2 => [1, 2, 3, 5].contains code
  | _ => false

/-- Whether an engine event has an instruction (R438, R440). -/
def insnEvent (kind code : Nat) : Bool := decide (kind = 3) && [2, 4, 5].contains code

/-- The snapshot of a wrap (R440, R450): for an engine event the address `f` of an instruction that completes soon after. -/
def Mach.snapWord (m : Mach) (n : Nat) (h : FlitBits) (f : Word) : Word :=
  let code := m.fld (aCtr n + 8) 0 8
  let k := ctrKind n
  mkf 64 63 1 1 |||
  (if packetEvent k code then
     mkf 64 50 10 (hSrc h) ||| mkf 64 40 10 (hDst h) ||| mkf 64 38 2 (hTc h) ||| mkf 64 32 6 (hOpc h) ||| mkf 64 16 16 (hFlow h).toNat
   else if insnEvent k code then mkf 64 0 48 (bf f 0 48)
   else 0)

/-- Whom the SAMPLE events of a counter or sampler go to (R329): the engine that configured it. -/
def Mach.ownerOf (m : Mach) (k : Nat) : Nat := Tab.get dZero m.tele.owner k - 1
def Mach.setOwner (m : Mach) (k e : Nat) : Mach := m.modTele (fun t => { t with owner := Tab.set dZero t.owner k (e + 1) })

/-- The instruction whose address a snapshot holds (R440): the one that wrapped the counter, or one of the 3 that have completed since,
which the rule leaves open; where the wrapping instruction has not completed, it (log entry 21). -/
def Mach.snapPc (m : Mach) (n f : Nat) : Word :=
  let l := Tab.get dNil m.tele.wrapPc n
  l.getD (Config.freeNat f % l.length) (m.eng ((n - 5184) / 4)).pc

/-- COUNTER_WRAP (R436, R440). -/
def execCounterWrap (c : CtrId) (s : State) : Out :=
  s.on (fun m =>
    let n := c.val
    match Tab.get dNone m.tele.wraps n with
    | none => m
    | some h =>
      let a := aCtr n
      let pc := m.snapPc n m.frees
      let m := (m.modTele (fun t => { t with wraps := Tab.set dNone t.wraps n none, wrapPc := Tab.set dNil t.wrapPc n [] })).setFld a 63 1 1
      if !bt (m.reg (a + 8)) 62 then m
      else
        let k := m.fld (a + 8) 54 6
        let m := if k = 0 then m
          else
            let v := m.fld a 0 48
            (m.setFld a 0 48 (2 ^ 48 - 2 ^ k)).addCtr n v h
        let held := bt (m.reg (a + 16)) 63
        let m := if held then m else
          m.nextFree.2.setReg (a + 16) (m.snapWord n h pc)
        m.postEvt (m.ownerOf n) 11 0 (b1 held) n)

/-- The counter that a selector names, with its quadrant; none where the unit or index does not exist (R342, R343). -/
def ctrSel (v : Word) : Option (Nat × Option Nat) :=
  let u := bf v 16 12
  let i := bf v 0 6
  match bf v 28 4 with
  | 0 => if u < 128 ∧ i < 8 then some (8 * u + i, some (quadOf u)) else none
  | 1 => if u < 512 ∧ i < 8 then some (1024 + 8 * u + i, some (quadOf (u / 4))) else none
  | 2 => if u = 0 then some (5120 + i, some (i / 8 % 4)) else none
  | 3 => if u < 5 ∧ i < 4 then some (5184 + 4 * u + i, if u = 0 then none else some (u - 1)) else none
  | _ => none

/-- Bits of a counter selector that its format does not name (R342). -/
def ctrSelStray (v : Word) : Bool := decide (bf v 32 32 ≠ 0 ∨ bf v 6 10 ≠ 0)

/-- Whether PC.CFG names an absent unit (R439): judged from KIND and EVENT. -/
def Mach.ctrAbsent (m : Mach) (kind code : Nat) : Bool :=
  (decide (kind = 2) && !m.hasSpine) || (decide (kind = 0 ∧ code = 9) && !m.hasCombine) ||
  (decide (kind = 1 ∧ 8 ≤ code ∧ code ≤ 13) && !m.hasEo)

/-- The selectors that an event takes (R438): their number, none where the column is empty; nothing where the code is
reserved. -/
def eventSel (kind code : Nat) : Option (Option Nat) :=
  match kind with
  | 0 => if 1 ≤ code ∧ code ≤ 5 then some (some 8) else if code = 7 then some (some 4)
         else if code = 6 ∨ (8 ≤ code ∧ code ≤ 10) then some none else none
  | 1 => if code = 1 ∨ code = 2 ∨ code = 5 then some (some 64) else if 1 ≤ code ∧ code ≤ 15 then some none else none
  | 2 => if 1 ≤ code ∧ code ≤ 5 then some (some 32) else if code = 6 then some none else none
  | 3 => if 1 ≤ code ∧ code ≤ 5 then some none else none
  | _ => none

/-- Whether a configuration word is out of range for a counter kind (R437, R439). -/
def cfgRange (kind : Nat) (c : Word) : Bool :=
  bt c 60 || decide (bf c 48 6 ≠ 0 ∨ bf c 40 4 ≠ 0 ∨ bf c 8 24 ≠ 0 ∨ 47 < bf c 54 6) ||
  (match eventSel kind (bf c 0 8) with
   | none => true
   | some none => false
   | some (some k) => decide (bf c 32 8 ≠ 0xFF ∧ k ≤ bf c 32 8))

/-- Put a configuration in force (R437): LOAD sets the value and clears OVF and PC_SNAP. -/
def Mach.configCtr (m : Mach) (n e : Nat) (c : Word) : Mach :=
  let a := aCtr n
  let m := (m.setReg (a + 8) (sf c 61 1 0)).setOwner n e
  if !bt c 61 then m
  else
    let v := if bf c 54 6 = 0 then 0 else 2 ^ 48 - 2 ^ bf c 54 6
    ((m.setReg a (BitVec.ofNat 64 v)).setReg (a + 16) 0).modTele (fun t =>
      { t with wraps := Tab.set dNone t.wraps n none, wrapPc := Tab.set dNil t.wrapPc n [] })

/-- An instruction whose configuration comes into force when it completes (R363): its words are held until then. -/
def Mach.putConfig (m : Mach) (e : Nat) (ws : List Word) : Mach :=
  m.modEng e (fun x => { x with state := .waiting, wait := .config ws, limit := none })

/-- PC.CFG (R437, R439, R363). -/
def execPcCfg (e : EngId) (s : State) : Out :=
  s.on (fun m => m.issue e 0xC0 anyWord (fun w m =>
    let v := (m.eng e).reg (wA w)
    let c := (m.eng e).reg (wB w)
    let sel := ctrSel v
    let kind := bf v 28 4
    m.status e (m.ctrAbsent kind (bf c 0 8)) (match sel with
      | some (_, q) => inScope e q
      | none => true) false (fun m =>
      match sel with
      | none => m.endStatus e xRANGE []
      | some (n, _) =>
        if ctrSelStray v || cfgRange kind c then m.endStatus e xRANGE []
        else if !m.domLive (ctrDom n) then m.endStatus e xSTATE []
        else m.putConfig e [v, c])))

/-- PC.READ (R363, R436): the value and OVF of one cycle; a counter without power reads zero (R430). -/
def execPcRead (e : EngId) (s : State) : Out :=
  s.on (fun m => m.issue e 0xC1 anyWord (fun w m =>
    let v := (m.eng e).reg (wA w)
    let sel := ctrSel v
    m.status e (decide (bf v 28 4 = 2) && !m.hasSpine) (match sel with
      | some (_, q) => inScope e q
      | none => true) false (fun m =>
      match sel with
      | none => m.endStatus e xRANGE []
      | some (n, _) =>
        if ctrSelStray v then m.endStatus e xRANGE []
        else m.done e xOK [(wD w, if m.domLive (ctrDom n) then m.reg (aCtr n) else 0)])))

/-- Depth and age in FCLK cycles of the queue that a sampler watches (R441). -/
def Mach.queueOf (m : Mach) (s src qsel : Nat) : Nat × Nat :=
  let t := s / 4
  let age (l : List Nat) : Nat := match l with
    | [] => 0
    | b :: r => m.clk.cyc - r.foldl min b
  if src = 0 then
    let l := ((m.niu (4 * t + qsel / 64)).inj.filter (fun p => p.shp == qsel % 64)).map InjP.born
    (l.length, age l)
  else if src = 1 then
    let b := m.vc (kVc t (qsel / 16) (qsel % 16))
    (b.q.length, age b.t)
  else if src = 2 then
    let l := (m.niu (4 * t + qsel / 64)).inj.map InjP.born
    (l.length, age l)
  else
    let l := (m.nodeQ (s - 512) (qsel / 4) (qsel % 4)).map Cell.born
    (l.length, age l)

/-- FCLK cycles in whole ns at the increment of the clock mode (R261, R441). -/
def Mach.cycNs (m : Mach) (c : Nat) : Nat := c * fclkUnits m.clk.mode / 65536

/-- One sample (R443). -/
def Mach.sample (m : Mach) (s : Nat) : Mach :=
  let a := aSmp s
  let c0 := m.reg (a + 0x10)
  let c1 := m.reg (a + 0x18)
  let q := m.queueOf s (bf c0 44 2) (bf c0 32 8)
  let d := q.1
  let g := m.cycNs q.2
  let bin (x sh : Nat) : Nat := min 15 (x / 2 ^ sh)
  let db := bin d (bf c1 8 6)
  let gb := bin g (bf c1 0 6)
  let m := m.addFld (a + 0x20 + 8 * (db / 2)) (32 * (db % 2)) 32 1
  let m := m.addFld (a + 0x60 + 8 * (gb / 2)) (32 * (gb % 2)) 32 1
  let m := ((m.addFld a 32 32 1).setFld a 16 16 (min d 0xFFFF)).setFld a 0 16 (min g 0xFFFF)
  let m := m.setFld (a + 8) 32 16 (max (m.fld (a + 8) 32 16) (min d 0xFFFF))
  let m := m.setFld (a + 8) 0 32 (max (m.fld (a + 8) 0 32) (min g 0xFFFFFFFF))
  let thr := bf c1 32 16
  if 0 < thr ∧ thr ≤ d then m.postEvt (m.ownerOf (8192 + s)) 11 1 0 (6144 + s) else m

/-- Whether a sampler runs (R442): enabled, its domain powered. -/
def Mach.sampling (m : Mach) (s : Nat) : Bool := bt (m.reg (aSmp s + 0x10)) 63 && m.domLive (smpDom s)

/-- The PERIOD of a sampler, and its last boundary at or before the present FT (R443). -/
def Mach.smpPeriod (m : Mach) (s : Nat) : Nat := m.fld (aSmp s + 0x10) 0 32
def Mach.smpNow (m : Mach) (s : Nat) : Nat := m.ftNs / m.smpPeriod s * m.smpPeriod s

/-- SAMPLER_SAMPLE (R443): Fabric Time has reached a multiple of the sampler's PERIOD, once for each; paused while it is FROZEN
(R268). -/
def execSamplerSample (s : SmpId) (st : State) : Out :=
  st.on (fun m =>
    if m.sampling s = false ∨ m.keep.st = .frozen ∨ m.atMultiple (m.smpPeriod s) = false ∨
        m.smpNow s = Tab.get dZero m.tele.smpAt s then m
    else (m.sample s).modTele (fun t => { t with smpAt := Tab.set dZero t.smpAt s (m.smpNow s) }))

/-- The samplers that have been configured. -/
def Mach.samplers (m : Mach) : List Nat := (m.tele.owner.filter (fun e => decide (8192 ≤ e.1))).map (fun e => e.1 - 8192)

/-- A step or load of Fabric Time from `t0` to `t1` ns: each sampler with a period boundary passed samples once (R268). -/
def Mach.samplesJump (m : Mach) (t0 t1 : Nat) : Mach :=
  m.samplers.foldl (fun m s =>
    let p := m.smpPeriod s
    let m := if m.sampling s ∧ p ≠ 0 ∧ t0 / p < t1 / p then m.sample s else m
    m.modTele (fun t => { t with smpAt := Tab.set dZero t.smpAt s (t1 / p * p) })) m

/-- Whether a sampler descriptor is out of range (R441, R442). -/
def smpRange (w0 w1 : Word) : Bool :=
  let s := bf w0 48 10
  let src := bf w0 44 2
  let q := bf w0 32 8
  let p := bf w0 0 32
  decide (bf w0 58 4 ≠ 0 ∨ bf w0 46 2 ≠ 0 ∨ bf w0 40 4 ≠ 0 ∨ bf w1 48 16 ≠ 0 ∨ bf w1 14 18 ≠ 0 ∨ bf w1 6 2 ≠ 0) ||
  decide (543 < s ∨ p = 0 ∨ p % 20 ≠ 0) ||
  (if src = 3 then decide (s < 512 ∨ 127 < q)
   else decide (511 < s) ||
     (if src = 1 then decide (6 < q / 16 ∨ 11 < q % 16) else if src = 2 then decide (q % 64 ≠ 0) else false))

/-- CLR of a sampler descriptor (R442): counts, maxima and bins start again. -/
def Mach.clearSmp (m : Mach) (k : Nat) : Mach :=
  (List.range 16).foldl (fun m i => m.setReg (aSmp k + 0x20 + 8 * i) 0) ((m.setFld (aSmp k) 32 32 0).setReg (aSmp k + 8) 0)

/-- SMP.CFG (R442, R363). -/
def execSmpCfg (e : EngId) (s : State) : Out :=
  s.on (fun m => m.issue e 0xC2 anyWord (fun w m => m.sadr e w 2 (fun m =>
    let w0 := m.descWord e w 0
    let w1 := m.descWord e w 1
    let k := bf w0 48 10
    let absent := decide (512 ≤ k ∧ k < 544) && !m.hasSpine
    m.status e absent (if k < 544 then inScope e (domQuad (smpDom k)) else true) false (fun m =>
      if smpRange w0 w1 then m.endStatus e xRANGE []
      else if !m.domLive (smpDom k) then m.endStatus e xSTATE []
      else m.putConfig e [w0, w1]))))

/-- The configuration of a sampler comes into force (R442): CLR acts and reads as 0. -/
def Mach.configSmp (m : Mach) (e : Nat) (w0 w1 : Word) : Mach :=
  let k := bf w0 48 10
  let a := aSmp k
  let m := ((m.setReg (a + 0x10) (sf w0 62 1 0)).setReg (a + 0x18) w1).setOwner (8192 + k) e
  if bt w0 62 then m.clearSmp k else m

/-- Whether a mirror descriptor is out of range (R444). -/
def mirRange (w : Nat → Word) : Bool :=
  let size := bf (w 0) 57 5
  decide (bf (w 0) 48 9 ≠ 0 ∨ bf (w 1) 10 54 ≠ 0 ∨ size < 10 ∨ 20 < size ∨ 511 < bf (w 1) 0 10) ||
  decide (bf (w 0) 0 48 % (64 * 2 ^ size) ≠ 0) ||
  (List.range 16).any (fun r => decide (bf (w (2 + 3 * r)) 16 44 ≠ 0))

/-- The rules of a mirror descriptor are in force at every tile, the counts start again; what the old ring still held is
dropped (R444). -/
def Mach.configMir (m : Mach) (d : Nat → Word) : Mach :=
  let old (o : Owner) : Owner := match o with
    | .mirror i => .mirror (i + 2 ^ 21)
    | o => o
  let m := [512, 513, 514, 515].foldl (fun m n => m.modNiu n (fun x =>
    { x with pwb := Tab.mapv dNone (fun _ o => o.map (fun w => { w with owner := old w.owner })) x.pwb })) m
  let m := (((m.setReg aMirCfg (d 0)).setReg aMirProd 0).setReg aMirDone 0).setReg aMirCons 0
  m.modTele (fun t => { t with rules := (List.range 48).map (fun i => d (2 + i)), memEp := bf (d 1) 0 10, rcnt := [], mq := [], out := [] })

/-- A configuration comes into force as its instruction completes (R216, R363); what its domain has lost meanwhile stays lost. -/
def Mach.configDone (m : Mach) (e : Nat) (ws : List Word) : Mach :=
  let d (i : Nat) : Word := ws.getD i 0
  match wOpc (m.eng e).insn with
  | 0x52 => m.setReg 0x80008 (d 0)
  | 0xC0 =>
    match ctrSel (d 0) with
    | some (n, _) => if m.domLive (ctrDom n) then m.configCtr n e (d 1) else m
    | none => m
  | 0xC2 => if m.domLive (smpDom (bf (d 0) 48 10)) then m.configSmp e (d 0) (d 1) else m
  | _ => m.configMir d

/-- MIR.CFG (R444, R363). -/
def execMirCfg (e : EngId) (s : State) : Out :=
  s.on (fun m => m.issue e 0xC3 anyWord (fun w m =>
    let d := fun i => m.descWord e w i
    m.status e (!m.hasMirror) (decide ((e : Nat) = 0)) false (fun m => m.sadr e w 50 (fun m =>
      if mirRange d then m.endStatus e xRANGE []
      else m.putConfig e ((List.range 50).map d)))))

/-- A write of CONS (R449): a value above DONE is taken as DONE. -/
def Mach.writeCons (m : Mach) (v : Word) : Mach :=
  if !m.hasMirror then m
  else
    let done := m.fld aMirDone 0 21
    let cons := m.fld aMirCons 0 21
    let v := bf v 0 21
    m.setFld aMirCons 0 21 (if (done + 2 ^ 21 - cons) % 2 ^ 21 < (v + 2 ^ 21 - cons) % 2 ^ 21 then done else v)

/-- MIR_CONS_WRITE (R449). -/
def execMirConsWrite (v : Word) (priv : Bool) (mid : BitVec 16) (s : State) : Out :=
  s.hostWrite aMirCons v true priv mid (fun m => m.writeCons v)

end Sys2Proof.Machine
end

