-- ==== Sys2Proof/Machine/Keeper.lean ====
section
/-! DEFINITION. The time port and the time keeper (R257 to R266, R268). -/

namespace Sys2Proof.Machine

/-- Registers of the time keeper (R277, R474). -/
def aTimeStat : Nat := 0x100
def aTimeCfg : Nat := 0x108
def aTimeLast : Nat := 0x118
def aTimeErr : Nat := 0x120
def aTimeEvt : Nat := 0x128
def aTimeCnt : Nat := 0x130

/-- One bit through the CRC-8 of R260. -/
def crc8Step (r : BitVec 8) (b : Bool) : BitVec 8 := if r.msb == b then r <<< 1 else (r <<< 1) ^^^ 0x07#8

/-- The CRC-8 of the low `k` bits of a word, most significant first (R260). -/
def crc8 (w : Word) : Nat → BitVec 8 → BitVec 8
  | 0, r => r
  | k + 1, r => crc8 w k (crc8Step r (bt w k))

/-- Post a TIME event to the master (R266, R329). -/
def Mach.timeEvt (m : Mach) (kind : Nat) : Mach := m.postEvt 0 6 kind 0 m.keep.st.code

/-- Fabric Time leaves its valid state (R220): Eland receives no marks. -/
def Mach.timeState (m : Mach) (s : KSt) : Mach :=
  let m := m.modKeep (fun k => { k with st := s, slew := 0 })
  if s = .track then m else m.spineHold

/-- Fabric Time takes a new value at once (R268): one refill tick where a tick boundary is passed, samplers likewise, gate
positions anew; ticks, samples and marks then wait for the boundary that FT reaches next: the last one at or before it is passed. -/
def Mach.ftJump (m : Mach) (ft : Nat) : Mach :=
  let t0 := m.ftNs
  let m := m.modKeep (fun k => { k with ft := ft, slew := 0, ticked := ft / 65536 / 20 })
  let t1 := m.ftNs
  let m := if m.hasSpine then m.modSpine (fun x => { x with mark := m.ftNs / gridNs m.clk.mode * gridNs m.clk.mode }) else m
  let m := if t0 / 20 < t1 / 20 then m.refill else m
  (m.gatesJump).samplesJump t0 t1

/-- Enter HOLDOVER (R265, R266). -/
def Mach.holdover (m : Mach) : Mach :=
  (((m.timeState .holdover).orReg aTimeEvt (2 ^ 3)).occur 10 0 7 0 0 1).timeEvt 5

/-- SLEW_MAX and LOSS_US (R277). -/
def Mach.slewMax (m : Mach) : Nat := m.fld aTimeCfg 0 12
def Mach.lossUs (m : Mach) : Nat := max 1 (m.fld aTimeCfg 16 8)

/-- Whether no OK capture has arrived for LOSS_US µs of FCLK cycles (R265). -/
def Mach.captureLost (m : Mach) : Bool := decide (m.lossUs * usCycles m.clk.mode ≤ m.keep.idle)

/-- Note the action of R263 in TIME_STAT, and post the event of a state change with no action of its own. -/
def Mach.acted (m : Mach) (action : Nat) (changed : Bool) : Mach :=
  let m := m.setFld aTimeStat 8 3 action
  if changed then m.timeEvt 0 else m

/-- An OK capture is applied (R263, R264): the value in ns, and the FCLK cycles since its instant. -/
def Mach.applyTime (m : Mach) (v n : Nat) : Mach :=
  let k := m.keep
  let d : Int := (v : Int) - m.ftAgo n / 65536
  let now := v * 65536 + n * fclkUnits m.clk.mode
  let lim := m.slewMax
  let m := ((m.setReg aTimeLast (BitVec.ofNat 64 v)).setFld aTimeErr 32 32 (satInt 32 d)).addFld aTimeCnt 0 16 1
  let m := (m.setFld aTimeStat 16 2 0).modKeep (fun k => { k with idle := 0 })
  match k.st with
  | .free => (((m.timeState .track).ftJump now).orReg aTimeEvt (2 ^ 4)).acted 4 false |>.timeEvt 4
  | .frozen => m.modKeep (fun k => { k with shadow := now })
  | _ =>
    let changed := decide (k.st ≠ .track)
    if d.natAbs ≤ 1 then (m.timeState .track).acted 0 changed
    else if d.natAbs ≤ lim then ((m.timeState .track).modKeep (fun k => { k with slew := d * 65536 })).acted 1 changed
    else if 0 < d then
      (((((m.timeState .track).ftJump now).orReg aTimeEvt 2).addFld aTimeCnt 32 16 1).acted 2 false).timeEvt 2
    else
      let m := (m.timeState .frozen).modKeep (fun k => { k with shadow := now })
      ((((m.orReg aTimeEvt 4).addFld aTimeCnt 16 16 1).occur 10 1 7 0 0 1).acted 3 false).timeEvt 3

/-- TP_OFFER (R258 to R260): a toggle of tp_flag offers a value; `since` FCLK cycles have passed since its instant. The
acknowledge follows whatever the outcome. With a clock stopped, or before the always-on reset releases, no offer is taken. -/
def execTpOffer (time : Word) (crc : BitVec 8) (valid : Bool) (since : BitVec 16) (s : State) : Out :=
  s.on (fun m =>
    if !m.pwr.aonUp || m.clk.fstop || m.clk.astop then m
    else
      let m := m.modKeep (fun k => { k with tpFlag := !k.tpFlag, tpAck := !k.tpFlag })
      if crc8 time 64 0 ≠ crc then ((m.setFld aTimeStat 16 2 1).orReg aTimeEvt 1).addFld aTimeCnt 48 16 1
      else if !valid then
        let m := m.setFld aTimeStat 16 2 2
        if m.keep.st = .track ∨ m.keep.st = .frozen then m.holdover else m
      else m.applyTime time.toNat since.toNat)

/-- HOLDOVER_ENTRY (R265). -/
def execHoldoverEntry (s : State) : Out :=
  s.on (fun m => if (m.keep.st = .track ∨ m.keep.st = .frozen) ∧ m.captureLost = true then m.holdover else m)

/-- FREEZE_END (R264). -/
def execFreezeEnd (s : State) : Out :=
  s.on (fun m => if m.keep.st = .frozen ∧ m.keep.ft ≤ m.keep.shadow then (m.timeState .track).timeEvt 0 else m)

end Sys2Proof.Machine
end

