-- ==== Sys2Proof/Machine/Twin.lean ====
section
/-! DEFINITION. The twin link and the twin plane operations (R399 to R418): frames, records, heartbeats, failure, moves of flows
and the PL instructions (R362). -/

namespace Sys2Proof.Machine

/-- Fields of frame control (R407). -/
def fKind (c : BitVec 30) : Nat := bf c 26 4
def fSeq (c : BitVec 30) : Nat := bf c 18 8
def fAck (c : BitVec 30) : Nat := bf c 10 8
def fCrd (c : BitVec 30) : Nat := bf c 2 8
def fNak (c : BitVec 30) : Bool := bt c 1
def fUp (c : BitVec 30) : Bool := bt c 0

/-- The source record that an SREC record holds (R134, R408). -/
def rSrec (r : BitVec 128) : SRec :=
  { flow := rFlow r, seqs := [rSeq r], done := [], sub := bf r 76 6, etag := bf r 68 8, opc := bf r 62 6, inc := r.extractLsb' 54 8, addr := bf r 6 48 }

/-- The four records of a REC frame, empty slots left out (R408). -/
def frameRecs (d : BitVec 512) : List (BitVec 128) :=
  ((List.range 4).map (fun i => d.extractLsb' (128 * i) 128)).filter (fun r => decide (rType r ≠ 0))

/-- Drop the frames that an acknowledgement covers (R407). -/
def Twin.acked (x : Twin) (a : Nat) : Twin :=
  let left (f : TwFrame) : Bool := !decide ((a + 256 - f.seq) % 256 < 32)
  { x with unack := x.unack.filter left, again := x.again.filter left }

/-- Whether a port runs, so that its endpoint gets a notice (R415). -/
def Mach.portRuns (m : Mach) (n : Nat) : Bool := m.domLive (epTile n) && (m.niu n).runs

/-- The head of a message that the NIU itself delivers to MQUEUE 62 (R135, R404). -/
def Mach.ownHead (m : Mach) (n sub inl : Nat) : FlitBits :=
  mkf 512 256 128 inl ||| mkf 512 234 1 1 ||| mkf 512 228 6 62 ||| mkf 512 58 6 opMSG ||| mkf 512 56 2 3 |||
    mkf 512 50 1 (b1 m.straps.planeB) ||| mkf 512 27 10 n ||| mkf 512 11 16 (midOf (512 + quadOf (epTile n)) sub)

/-- Deliver a message of 16 B records of the NIU's own to its endpoint (R135, R404). -/
def Mach.deliver (m : Mach) (n sub : Nat) (l : List (BitVec 128)) : Mach :=
  match l with
  | [] => m
  | [r] => m.modNiu n (fun x => { x with ready := x.ready ++ [⟨.service, ⟨m.ownHead n sub r.toNat, [], false⟩, none, false, 16, none, none⟩] })
  | l =>
    let flit (k : Nat) : FlitBits := recFrame ((l.drop (4 * k)).map (fun r => (0, r)))
    let data := (List.range (cdiv l.length 4)).map flit
    m.modNiu n (fun x => { x with ready := x.ready ++ [⟨.service, ⟨m.ownHead n sub 0, data, false⟩, none, false, 16 * l.length, none, none⟩] })

/-- A plane notice (R404). -/
def Mach.noticeRec (m : Mach) (first last : Nat) (plane : Bool) (cause : Nat) : BitVec 128 :=
  mkf 128 112 16 first ||| mkf 128 96 16 last ||| mkf 128 95 1 (b1 plane) ||| mkf 128 92 3 cause ||| mkf 128 0 64 m.ftNs

/-- The SEQ that stands for a record's request: that of its first packet. -/
def SRec.first (r : SRec) : Nat := (r.seqs.headD 0).toNat

/-- A record of an uncertain set (R135). -/
def SRec.word (r : SRec) : BitVec 128 :=
  mkf 128 112 16 r.flow.toNat ||| mkf 128 96 16 r.first ||| mkf 128 88 8 r.etag ||| mkf 128 82 6 r.sub ||| mkf 128 76 6 r.opc |||
    mkf 128 68 8 r.inc.toNat ||| mkf 128 16 48 r.addr

/-- Insert a source record by FLOW, then SEQ (R135). -/
def SRec.insert (r : SRec) : List SRec → List SRec
  | [] => [r]
  | q :: t => if r.flow.toNat * 65536 + r.first < q.flow.toNat * 65536 + q.first then r :: q :: t else q :: SRec.insert r t

/-- Enter a packet's record: the packets of one message share the record of their request, and 272 requests have a record
(R134, R135). -/
def SRec.enter (r : SRec) (l : List SRec) : List SRec :=
  let same (q : SRec) : Bool :=
    decide (r.opc = opMSG ∧ q.opc = opMSG ∧ q.flow = r.flow ∧ q.sub = r.sub ∧ q.etag = r.etag ∧ q.done = [])
  if l.any same then l.map (fun q => if same q then { q with seqs := q.seqs ++ r.seqs } else q)
  else if 272 ≤ l.length then l
  else l ++ [r]

/-- Retire one packet: the record of its request goes with the last, and until then keeps the numbers of all (R134 to R136). -/
def SRec.retire (f : BitVec 16) (s : BitVec 16) (l : List SRec) : List SRec :=
  (l.map (fun q => if q.flow = f ∧ q.seqs.contains s = true then { q with done := q.done ++ [s] } else q)).filter (fun q =>
    q.seqs.any (fun k => !q.done.contains k))

/-- What a record does to the shadow tracker (R408, R410): nothing once the twin is dead. -/
def Mach.shadowRec (m : Mach) (r : BitVec 128) : Mach :=
  if m.twin.st = .dead ∨ 512 ≤ rEp r ∨ m.domLive (epTile (rEp r)) = false then m
  else if rType r = 1 then m.modNiu (rEp r) (fun x => { x with shadow := (rSrec r).enter x.shadow })
  else if rType r = 2 then
    m.modNiu (rEp r) (fun x => { x with shadow := SRec.retire (rFlow r) (rSeq r) x.shadow })
  else m

/-- The entry that a verdict of R126 leaves. -/
def Verdict.ent : Verdict → FlitBits
  | .accept e _ => e
  | .stale e => e
  | .again e => e
  | .late e _ => e
  | .resync e => e

/-- Apply an RXMARK record to a receive half under R126 and R127. -/
def Niu.applyMark (x : Niu) (f : BitVec 16) (seq : BitVec 16) (inc : Nat) (err : Bool) : Niu :=
  match x.entry f with
  | none => x
  | some e =>
    let h : FlitBits := mkf 512 168 8 inc ||| mkf 512 176 16 seq.toNat
    match rxWindow e.ent h false with
    | .stale _ => x
    | .accept g fresh => (x.setWindow f g fresh).rxMark f seq err
    | .again g => (x.setWindow f g false).rxMark f seq err
    | .late g fresh => x.setWindow f g fresh
    | .resync g => x.setWindow f g true

/-- The change that a record makes in the flow cache or the atomic result cache of one NIU (R408). -/
def Niu.applyRec (x : Niu) (n : Nat) (r : BitVec 128) : Niu :=
  let f := rFlow r
  let next := (rSeq r + 1).toNat
  match rType r with
  | 1 => x.setSend f (fun g => sf g 64 16 next)
  | 3 => x.applyMark f (rSeq r) (bf r 74 8) (bt r 73)
  | 4 => { x with atoms := (if 64 ≤ x.atoms.length then x.atoms.drop 1 else x.atoms) ++ [(f, rSeq r, r.extractLsb' 18 64)] }
  | 5 =>
    let x := if n = rEp r then x.setSend f (fun g => sf g 64 16 next) else x
    if n = bf r 72 10 then x.setRecv f (fun g => sf g 304 16 next) else x
  | 6 => x.setSend f (fun g => sf (sf (sf g 64 16 (rSeq r).toNat) 51 2 (bf r 80 2)) 43 8 (bf r 72 8))
  | _ => x

/-- Whether an NIU of this plane takes records (R410). -/
def Mach.takesRecs (m : Mach) (n : Nat) : Bool := decide (n < 512) && m.domLive (epTile n)

/-- Whether every entry that a record changes is at hand (R410). -/
def Mach.recReady (m : Mach) (r : BitVec 128) : Bool :=
  (recNius r).all (fun n => !m.takesRecs n || ((m.niu n).entry (rFlow r)).isSome)

/-- Apply a record to the entries and caches of its NIUs; what concerns an NIU without power is discarded (R410). -/
def Mach.applyRec (m : Mach) (r : BitVec 128) : Mach :=
  (if rType r = 4 then [rEp r] else (recNius r).dedup).foldl (fun m n =>
    if m.takesRecs n then m.modNiu n (fun x => x.applyRec n r) else m) m

/-- Move received frames on: a REC frame's records become the records next to be applied, a CTRL frame takes effect, a COPY
frame waits for its own step (R407, R410, R415, R417). `ctrl` is what CTRL frames do. -/
def Mach.twinAdvance (m : Mach) (ctrl : BitVec 512 → Mach → Mach) : Nat → Mach
  | 0 => m
  | k + 1 =>
    let x := m.twin
    if !x.rxq.isEmpty then m
    else match x.rx with
      | [] => m
      | f :: rest =>
        let m1 := m.modTwin (fun x => { x with rx := rest })
        if f.kind = 3 then m
        else if f.kind = 1 then (m1.modTwin (fun x => { x with rxq := frameRecs f.data, taken := some f.seq })).twinAdvance ctrl k
        else if f.kind = 4 then (ctrl f.data m1).twinAdvance ctrl k
        else m1.twinAdvance ctrl k

/-- Both planes enter DETACHING (R415). On the staying plane every running port's endpoint gets a notice, and the arriving
flows of every NIU wait. -/
def Mach.startMove (m : Mach) (op : Nat) (self opTo : Bool) (first last : Nat) : Mach :=
  let m := (m.modTwin (fun x => { x with op := op, opSelf := self, opTo := opTo, first := first, last := last })).twinState .detaching 0 0
  if opTo ≠ m.straps.planeB then m
  else
    let m := (List.range 512).foldl (fun m n => m.modNiu n (fun x => { x with arrive := true })) m
    let l := (List.range 512).filter (fun n => m.portRuns n)
    let m := l.foldl (fun m n =>
      (m.deliver n 0x3E [m.noticeRec first last opTo (if op = 3 then 2 else 1)]).modNiu n (fun x => { x with notice := true })) m
    (m.modTwin (fun x => { x with left := l })).moveCheck

/-- Where the plane of a flow can change with its number: the ends of the ranges set, and the home rule's (R402). -/
def Twin.edges (x : Twin) : List Nat :=
  [0, 0x8000] ++ (x.map.flatMap (fun r => [r.1, r.2.1 + 1])).filter (fun k => decide (k < 0xFFFE))

/-- Whether plane `p` carries every flow (R416). -/
def Mach.allOn (m : Mach) (p : Bool) : Bool := m.twin.edges.all (fun k => m.planeOf (BitVec.ofNat 16 k) == p)

/-- Turn down an operation that the twin has started (R416; log entry 17). -/
def Mach.refuseOp (m : Mach) : Mach := m.sendCtrl 8 0 0

/-- What a received CTRL frame does (R415 to R417; log entry 17): 1 an attach starts, 2 and 3 a move starts, 4 it has ended, 5 a
flush handshake is asked for, 7 an attach has ended, 6 a handshake has ended, which
FLUSH_HANDSHAKE_DONE takes up, 8 an operation of this plane's is turned down and ends with STATE. -/
def Mach.ctrlFrame (d : BitVec 512) (m : Mach) : Mach :=
  let c := Config.ctrlCode d
  let a := Config.ctrlA d
  let b := Config.ctrlB d
  let own := m.straps.planeB
  if c = 1 then
    if m.twin.st = .detached ∧ m.allOn (!own) = true then
      (m.modTwin (fun x => { x.allTo (!own) with op := 1, opSelf := false })).twinState .attaching 0 0
    else m.refuseOp
  else if c = 2 then if m.twin.st = .attached then m.startMove 2 false (a == 1) 0 0xFFFD else m.refuseOp
  else if c = 3 then if m.twin.st = .attached then m.startMove 3 false own a b else m.refuseOp
  else if c = 8 ∧ m.twin.op ≠ 0 ∧ m.twin.opSelf = true then
    ({ m with nius := Tab.mapv dNiu (fun _ x => { x with arrive := false }) m.nius }.twinState
      (if m.twin.op = 1 then .detached else .attached) 0 0).endTwinOp xSTATE
  else if c = 4 ∧ m.twin.st = .detaching then m.endMove
  else if c = 5 ∧ m.twin.st = .detaching then
    m.modTwin (fun x => { x with flushq := x.flushq ++ [(a, x.rid)] })
  else if c = 6 ∧ m.twin.st = .detaching then m.modTwin (fun x => { x with flushed := a :: x.flushed })
  else if c = 7 ∧ m.twin.st = .attaching then (m.modTwin (fun x => { x with op := 0 })).twinState .attached 0 0
  else m

/-- Take what has been received as far as it can be taken. -/
def Mach.advanceRx (m : Mach) : Mach := m.twinAdvance Mach.ctrlFrame 40

/-- PL.ATTACH completes with the acknowledgement of the last COPY frame (R417). -/
def Mach.attachCheck (m : Mach) : Mach :=
  let x := m.twin
  if x.st = .attaching ∧ x.op = 1 ∧ x.opSelf = true ∧ 0xFFFE ≤ x.sweep ∧ x.outq.all (fun f => f.1 ≠ 3) = true ∧
      x.unack.all (fun f => f.kind ≠ 3) = true then
    ((m.twinState .attached 0 0).sendCtrl 7 0 0).endTwinOp xOK
  else m

/-- TWIN_FRAME_RECEIVE (R407): a frame that fails its CRC sets LINK_ERR and asks for a resend; later frames are discarded until
it arrives. A NAK starts a resend of this plane's frames, unless one is under way (DEDUCED, log entry 126). A frame of an end whose link
is not trained carries nothing (log entry 17), but shows that the twin has power, so that tw_i_live toggles (R406; DEDUCED, log entry
137). -/
def execTwinFrameReceive (data : BitVec 512) (ctl : BitVec 30) (crc : BitVec 32) (s : State) : Out :=
  s.on (fun m =>
    if !m.pwr.aonUp then m
    else if twinCrc data ctl ≠ crc then
      if m.twin.trained then (m.orReg aTwEvt 4).modTwin (fun x => { x with nakOut := true }) else m
    else
    let m := m.modTwin (fun x => { x with live := true })
    if !m.twin.trained || !fUp ctl then m
    else
      let m := m.modTwin (fun x => { x.acked (fAck ctl) with crd := fCrd ctl })
      let m := if fNak ctl && !m.twin.unack.isEmpty && m.twin.again.isEmpty then (m.modTwin Twin.resend).addFld aTwCnt 48 16 1 else m
      let kind := fKind ctl
      let m :=
        if kind = 0 ∨ 5 ≤ kind then m
        else if fSeq ctl ≠ m.twin.rseq then
          if (fSeq ctl + 256 - m.twin.rseq) % 256 < 128 then m.modTwin (fun x => { x with nakOut := true }) else m
        else if 32 ≤ m.twin.rx.length + m.twin.hbIn.toList.length then m.modTwin (fun x => { x with nakOut := true })
        else m.modTwin (fun x =>
          let s := x.rseq
          let x := { x with rseq := (s + 1) % 256, nakOut := false }
          if kind = 2 then { x with hbIn := some (s, data) } else { x with rx := x.rx ++ [⟨s, kind, data⟩] })
      m.advanceRx.attachCheck)

/-- Apply the record next in order where it is of type `ty`: it waits while the entry that it changes is not at hand
(R408, R410). -/
def Mach.applyNext (m : Mach) (ty : Nat) : Mach :=
  match m.twin.rxq with
  | [] => m
  | r :: rest =>
    if rType r ≠ ty then m
    else if !m.recReady r then
      (recNius r).foldl (fun m n => if m.takesRecs n then m.wantEntry n (rFlow r) else m) m
    else
      let m := (m.shadowRec r).applyRec r
      (m.modTwin (fun x => { x with rxq := rest })).advanceRx

/-- SREC_APPLY (R408, R410). -/
def execSrecApply (s : State) : Out := s.on (fun m => m.applyNext 1)

/-- RETIRE_APPLY (R408). -/
def execRetireApply (s : State) : Out := s.on (fun m => m.applyNext 2)

/-- RXMARK_APPLY (R408, R126, R127). -/
def execRxmarkApply (s : State) : Out := s.on (fun m => m.applyNext 3)

/-- ATOM_APPLY (R408, R130). -/
def execAtomApply (s : State) : Out := s.on (fun m => m.applyNext 4)

/-- OREL_APPLY (R408). -/
def execOrelApply (s : State) : Out := s.on (fun m => m.applyNext 5)

/-- FSTATE_APPLY (R408). -/
def execFstateApply (s : State) : Out := s.on (fun m => m.applyNext 6)

/-- The cached copies of a flow's own entry, with their NIUs. -/
def Mach.copiesOf (m : Mach) (f : BitVec 16) : List (Nat × FlitBits) :=
  m.nius.filterMap (fun e =>
    if m.takesRecs e.1 then (e.2.entry f).bind (fun c => if c.dflt then none else some (e.1, c.ent)) else none)

/-- The state fields of the two halves of an entry (R125, R410): DST_INC, STATE and TX_SEQ; the receive half. -/
def sendState (from_ into : FlitBits) : FlitBits :=
  sf (sf (sf into 64 16 (eTxSeq from_).toNat) 51 2 (eState from_)) 43 8 (eDInc from_)
def recvState (from_ into : FlitBits) : FlitBits := sf into 256 256 (bf from_ 256 256)

/-- COPY_APPLY (R417): the state fields go into this plane's own entry of the flow, at its source's and its destination's NIU.
The numbers of these are those of the entry, read from a cache that holds it or else from the table. -/
def execCopyApply (s : State) : Out :=
  s.on (fun m =>
    match m.twin.rxq, m.twin.rx with
    | [], ⟨_, 3, d⟩ :: rest =>
      let f := d.extractLsb' 96 16
      let done (m : Mach) : Mach := (m.modTwin (fun x => { x with rx := rest })).advanceRx
      let want (m : Mach) (l : List Nat) : Mach := l.foldl (fun m n => if m.takesRecs n then m.wantEntry n f else m) m
      match m.copiesOf f with
      | [] =>
        let r := m.nextFree
        let g := Config.tableEntry r.1
        let l := [eSrc g, eDst g].filter (fun n => r.2.takesRecs n)
        if !m.tblEn || !eV g || l.isEmpty then done r.2 else want r.2 l
      | (_, g) :: _ =>
        let l := [eSrc g, eDst g].filter (fun n => m.takesRecs n)
        if !eV g then done m
        else if l.any (fun n => ((m.niu n).entry f).isNone) then want m l
        else
          let m := if m.takesRecs (eSrc g) then m.modNiu (eSrc g) (fun x => x.setSend f (sendState d)) else m
          done (if m.takesRecs (eDst g) then m.modNiu (eDst g) (fun x => x.setRecv f (recvState d)) else m)
    | _, _ => m)

/-- One flow of the sweep of PL.ATTACH (R417): a valid ORDERED or EXACTLY_ONCE entry sends a COPY frame, each half from the
NIU cache that holds it, or from the table. -/
def Mach.sweepOne (m : Mach) : Mach :=
  let x := m.twin
  if x.st ≠ .attaching ∨ x.op ≠ 1 ∨ x.opSelf = false ∨ 0xFFFE ≤ x.sweep ∨ x.recq ≠ [] ∨ x.recw ≠ [] ∨ x.outq ≠ [] ∨ 32 ≤ x.unack.length then m
  else
    let f : BitVec 16 := BitVec.ofNat 16 x.sweep
    let l := m.copiesOf f
    let src := (l.find? (fun e => eSrc e.2 == e.1)).map Prod.snd
    let dst := (l.find? (fun e => eDst e.2 == e.1)).map Prod.snd
    let r := m.nextFree
    let t := Config.tableEntry r.1
    let m1 := if src.isSome && dst.isSome then m else r.2
    let s := src.getD t
    let d := dst.getD t
    let any := (src.orElse (fun _ => dst)).getD t
    let m1 := m1.modTwin (fun x => { x with sweep := x.sweep + 1 })
    if m.tblEn && eV any && (eDmode any == 1 || eDmode any == 2) then
      let c : FlitBits := sf (recvState d (sendState s 0)) 96 16 f.toNat
      m1.modTwin (fun x => { x with outq := x.outq ++ [(3, c)] })
    else m1.attachCheck

/-- What the survivor takes of the records already received when the twin dies (R413): all that its caches hold entries for. The
others keep their place and wait for their entries. -/
def Mach.applyAll (m : Mach) : Mach :=
  let all := m.twin.rxq ++ ((m.twin.rx.filter (fun f => f.kind == 1)).flatMap (fun f => frameRecs f.data))
  let m := all.foldl Mach.shadowRec m
  let r := all.foldl (fun (a : List (BitVec 128) × Mach) r =>
    if a.2.recReady r then (a.1, a.2.applyRec r) else (a.1 ++ [r], a.2)) ([], m)
  r.2.modTwin (fun x => { x with rxq := r.1, rx := x.rx.filter (fun f => f.kind == 3) })

/-- The survivor's NIU hands over (R135, R413): its shadow tracker becomes the uncertain set; where its domain is ON it delivers
the notice, then the set. -/
def Mach.takeOver (m : Mach) (n : Nat) : Mach :=
  let set := (m.niu n).shadow.foldl (fun l r => r.insert l) []
  let m := m.modNiu n (fun x => { x with unc := set, shadow := [], arrive := false, notice := false })
  if (m.dom (epTile n)).st = .on then
    (m.deliver n 0x3E [m.noticeRec 0 0xFFFD m.straps.planeB 0]).deliver n 0x3F (set.map SRec.word)
  else m

/-- Declare the twin DEAD (R413). -/
def Mach.declareDead (m : Mach) (cause : Nat) : Mach :=
  let x := m.twin
  let own := m.straps.planeB
  let m := m.modTwin (fun x => { x with recq := [], recw := [], outq := [], hbDue := false, unack := [], again := [] })
  let m := m.applyAll
  let m := m.modTwin (fun x => { x.allTo own with cause := cause })
  let m := (List.range 512).foldl (fun m n => m.takeOver n) m
  let m := ((m.orReg aTwEvt 2).twinState .dead 1 cause).occur 13 1 7 0 cause 1
  m.endTwinOp (if x.op = 2 ∧ x.opSelf = true ∧ x.opTo = own then xOK else xSTATE)

/-- A unit that is ATTACHING or DETACHED goes DOWN under a condition of R412: the link has to train again, what waited to be sent
or acknowledged is given up, and PL.ATTACH ends with STATE (R400, R416). -/
def Mach.twinDown (m : Mach) : Mach :=
  ((m.modTwin (fun x => { x with trained := false, recq := [], recw := [], outq := [], hbDue := false, unack := [], again := [] })).twinState .down 0 0).endTwinOp xSTATE

/-- Whether the unit is in a state in which R412 applies in full. -/
def Twin.carrying (x : Twin) : Bool := decide (x.st = .attached ∨ x.st = .detaching)

/-- HB_SEND (R411): a heartbeat is due, in every state but DOWN. It is formed when the frame leaves (`Mach.hbFrame`); one that is still due
is the same one (DEDUCED, log entry 126). -/
def execHbSend (s : State) : Out :=
  s.on (fun m =>
    let x := m.twin
    if !m.pwr.aonUp || m.clk.astop || decide (x.st = .down) then m
    else m.modTwin (fun x => { x with hbDue := true }))

/-- SKEW_MAX and TIME_FOLLOW (R419). -/
def Mach.skewMax (m : Mach) : Nat := m.fld aTwCfg 0 16
def Mach.timeFollow (m : Mach) : Bool := bt (m.reg aTwCfg) 16

/-- The time that a heartbeat tells (R418): round trip, offset, SKEW, and the offer to the keeper. -/
def Mach.hbTime (m : Mach) (d : BitVec 512) : Mach :=
  let now : Int := m.ftNs
  let rtt : Int := now - bf d 64 64 - bf d 128 32
  let off : Int := (bf d 0 64 : Int) + rtt / 2 - now
  let m := m.modTwin (fun x => { x with rtt := rtt, offset := off, lastFt := bf d 0 64, lastAt := m.ftNs })
  let m :=
    if m.skewMax < off.natAbs then
      let e := if bt (m.reg aTwEvt) 4 then m else m.twinEvt 3 0
      e.orReg aTwEvt 16
    else m
  if m.timeFollow && bt d 174 && m.captureLost then m.applyTime (((bf d 0 64 : Int) + rtt / 2).toNat % 2 ^ 64) 0 else m

/-- HB_RECEIVE (R411, R412, R418). -/
def execHbReceive (s : State) : Out :=
  s.on (fun m =>
    match m.twin.hbIn with
    | none => m
    | some (_, d) =>
      let m := m.modTwin (fun x => { x with hbIn := none, missed := 0, twVar := bf d 168 4 })
      let m := m.hbTime d
      if !bt d 175 || m.twin.cfgBad then m
      else if m.twin.carrying then m.declareDead 1
      else if m.twin.st = .attaching ∨ m.twin.st = .detached then m.twinDown
      else m)

/-- A plane withdraws (R414): the safe state with cause TWIN_LINK, and FAILED = 1 from then on. -/
def Mach.withdrawPlane (m : Mach) : Mach :=
  if m.twin.wdrawn then m else (m.modTwin (fun x => { x with wdrawn := true })).enterSafe 2 0

/-- HB_MISSED (R411, R412, R414): a period has passed in which no HB frame passed its CRC; `live` says whether tw_i_live toggled in
the last 200 ns. -/
def execHbMissed (live : Bool) (s : State) : Out :=
  s.on (fun m =>
    if !m.pwr.aonUp || m.clk.astop then m
    else
    let m := m.modTwin (fun x => { x with live := live })
    if m.twin.st = .down ∨ m.twin.hbIn.isSome = true then m
    else
      let m := (m.modTwin (fun x => { x with missed := min 15 (x.missed + 1) })).addFld aTwCnt 32 16 1
      let k := m.twin.missed
      let b := m.straps.planeB
      let dead : Option Nat := if 4 ≤ k ∧ live = false then some 0 else if 4 ≤ k ∧ b = false then some 2 else none
      let leave := decide (3 ≤ k) && live && b
      if m.twin.cfgBad then m
      else if m.twin.carrying then
        match dead with
        | some c => m.declareDead c
        | none => if leave then m.withdrawPlane else m
      else if (m.twin.st = .attaching ∨ m.twin.st = .detached) ∧ (dead.isSome = true ∨ leave = true) then m.twinDown
      else m)

/-- Whether this plane carries every flow or none in the DETACHED state that a training leaves (R400; DESIGN CHOICE, log entry 127): a
fresh plane none beside one that is not, that one every flow; where neither is fresh, as before, and where that was part of the flows,
plane A every flow. -/
def Mach.wholeAt (m : Mach) (fresh : Bool) : Option Bool :=
  let x := m.twin
  if x.fresh then some false
  else if fresh then some true
  else if x.whole.isSome || m.allOn true || m.allOn false then x.whole
  else some (!m.straps.planeB)

/-- TWIN_LINK_TRAINED (R399, R401): with a twin of the other plane and the same variant the state is ATTACHED where both are
fresh, one that has declared its twin absent among them, and DETACHED otherwise. The plane map stays as it is (R402). -/
def execTwinLinkTrained (fresh : Bool) (variant : BitVec 4) (plane : Bool) (s : State) : Out :=
  s.on (fun m =>
    let x := m.twin
    if !m.pwr.aonUp || x.cfgBad || !(decide (x.st = .down) || decide (x.st = .dead)) then m
    else if plane = m.straps.planeB ∨ variant.toNat ≠ m.straps.variant then
      (m.modTwin (fun x => { x with cfgBad := true })).occur 13 0 7 0 x.cause 1
    else
      let m := m.modTwin (fun x =>
        { x with trained := true, fseq := 0, rseq := 0, unack := [], again := [], rx := [], taken := none, hbIn := none, hbDue := false, crd := 0, nakOut := false, missed := 0,
                 live := true })
      if x.fresh && fresh then (m.modTwin (fun x => { x with whole := none })).twinState .attached 0 0
      else (m.modTwin (fun x => { x with whole := m.wholeAt fresh })).twinState .detached 0 0)

/-- TWIN_ABSENT_TIMEOUT (R401). -/
def execTwinAbsentTimeout (s : State) : Out :=
  s.on (fun m => if m.pwr.ready ∧ m.twin.st = .down ∧ m.twin.cfgBad = false then m.declareDead 3 else m)

/-- NOTICE_ANSWERED (R405, R415): the endpoint's MAK of its notice ends the target request. -/
def execNoticeAnswered (ep : Ep) (s : State) : Out :=
  s.on (fun m =>
    let n := ep.val
    let x := m.niu n
    match lowest (fun k => (Tab.get dNone x.tt k).any (fun t => t.kind == .service && bf t.hd 11 6 == 0x3E) &&
        !x.treq.any (fun q => q.1 == k)) 256 with
    | none => m
    | some k => (m.modNiu n (fun x => { x with tt := Tab.set dNone x.tt k none })).noticeDone n)

/-- FLUSH_HANDSHAKE_DONE (R415): the leaving plane has ended the handshake of an endpoint that has answered its notice; the
endpoint's arriving flows are released, and the move ends with the last. -/
def execFlushHandshakeDone (ep : Ep) (s : State) : Out :=
  s.on (fun m =>
    let n := ep.val
    if m.twin.st = .detaching ∧ m.twin.opTo = m.straps.planeB ∧ m.twin.left.contains n = true ∧
        m.twin.flushed.contains n = true ∧ (m.niu n).notice = false then
      ((m.modNiu n (fun x => { x with arrive := false })).modTwin (fun x => { x with left := x.left.filter (fun k => k ≠ n) })).moveCheck
    else m)

/-- Whether a move to this plane has all that it waits for, every notice answered and every handshake ended (R341, R415). -/
def Mach.moveMet (m : Mach) : Bool :=
  let x := m.twin
  decide (x.st = .detaching ∧ x.opTo = m.straps.planeB) && x.left.all (fun n => x.flushed.contains n && !(m.niu n).notice)

/-- PL.DETACH (R362, R415, R416). -/
def execPlDetach (e : EngId) (s : State) : Out :=
  s.on (fun m => m.issue e 0xB0 anyWord (fun w m =>
    m.status e false (e.val == 0) false (fun m =>
      if m.twin.st ≠ .attached then m.endStatus e xSTATE []
      else
        let stay := if bt w 24 then m.straps.planeB else !m.straps.planeB
        let m := (m.setWait e .twin).startLimit e (wLimit w)
        (m.sendCtrl 2 (b1 stay) 0).startMove 2 true stay 0 0xFFFD)))

/-- PL.ATTACH (R362, R416, R417). -/
def execPlAttach (e : EngId) (s : State) : Out :=
  s.on (fun m => m.issue e 0xB1 anyWord (fun w m =>
    m.status e false (e.val == 0) false (fun m =>
      if m.twin.st ≠ .detached ∨ m.allOn m.straps.planeB = false then m.endStatus e xSTATE []
      else
        let m := (m.setWait e .twin).startLimit e (wLimit w)
        let m := m.modTwin (fun x => { x.allTo m.straps.planeB with op := 1, opSelf := true, sweep := 0 })
        (m.twinState .attaching 0 0).sendCtrl 1 0 0)))

/-- PL.MIGRATE (R362, R415, R416). -/
def execPlMigrate (e : EngId) (s : State) : Out :=
  s.on (fun m => m.issue e 0xB2 anyWord (fun w m =>
    m.status e false (e.val == 0) false (fun m =>
      let first := ((m.eng e).reg (wA w)).toNat
      let count := ((m.eng e).reg (wB w)).toNat
      if count = 0 ∨ 65536 < count ∨ 0xFFFD < first + count - 1 then m.endStatus e xRANGE []
      else if m.twin.st ≠ .attached then m.endStatus e xSTATE []
      else
        let m := (m.setWait e .twin).startLimit e (wLimit w)
        (m.sendCtrl 3 first (first + count - 1)).startMove 3 true (!m.straps.planeB) first (first + count - 1))))

end Sys2Proof.Machine
end

