-- ==== Sys2Proof/Machine/Clock.lean ====
section
/-! DEFINITION. Clock modes, clock monitors and event channels (R424 to R427, R463). -/

namespace Sys2Proof.Machine

/-- Registers of the clocks and crossings (R474). -/
def aClkStat : Nat := 0x20
def aHung : Nat := 0x30
def aXing : Nat := 0x38

/-- A change of FCLK frequency leads to acquisition (R219): at once where the rotor is locked, at the next mark otherwise. -/
def Mach.rotorLoses (m : Mach) : Mach :=
  if !m.hasSpine then m
  else match m.spine.lock with
    | .locked => m.setLock .acq
    | .slew => m.setLock .acq
    | .hold => m.modSpine (fun x => { x with acqNext := true })
    | _ => m

/-- CLOCK_MODE_CHANGE (R463, R261): a code of 0b11 is not taken. Another mode changes the keeper's increment, starts rotor
acquisition (R219) and the admission check (R253). -/
def execClockModeChange (code : BitVec 2) (s : State) : Out :=
  s.on (fun m =>
    if code = 3 then (if m.pwr.aonUp then m.orReg aClkStat 4 else m)
    else if code.toNat = m.clk.mode then m
    else
      let m := { m with clk := { m.clk with mode := code.toNat } }
      let m := if m.pwr.aonUp then m.addFld aClkStat 8 8 1 else m
      (m.rotorLoses).recheck 1024)

/-- FCLK_STOP_DETECT (R427, R451): the AON clock, which runs, finds FCLK stopped: the flag, its sticky bit, and an occurrence of
class 14, recorded in the always-on domain. -/
def execFclkStopDetect (s : State) : Out :=
  s.on (fun m =>
    if m.clk.fstop || m.clk.astop then m
    else
      let m := { m with clk := { m.clk with fstop := true } }
      if m.pwr.aonUp then (m.orReg aXing 4).recordOcc 14 ⟨0, 7, 0, 0, 1⟩ else m)

/-- AON_STOP_DETECT (R427): FCLK, which runs, finds the AON clock stopped. -/
def execAonStopDetect (s : State) : Out :=
  s.on (fun m =>
    if m.clk.astop || m.clk.fstop then m
    else
      let m := { m with clk := { m.clk with astop := true } }
      if m.pwr.aonUp then m.orReg aXing 8 else m)

/-- The transfer under way arrives, and the next one starts with what has come since (R424). -/
def Chan.next {α : Type} (c : Chan α) : Chan α := { fly := c.acc, acc := [], ovf := false, flyOvf := c.ovf }

/-- An overflow arrives with a transfer (R425, R434). -/
def Mach.chanOvf (m : Mach) (bit chan : Nat) (o : Bool) : Mach :=
  if o then (m.orReg aXing (2 ^ bit)).setFld aXing 16 8 chan else m

/-- EVENT_CHANNEL_TRANSFER (R424 to R426): toward AON the channel is a fault class, and every occurrence counts; toward FCLK it
is a domain, and the transfer posts one POWER event. Where a transfer carries events of several kinds the spec does not say which
the record names (log entry 2). A transfer waits while either clock stands still. -/
def execEventChannelTransfer (toAon : Bool) (chan : Dom) (s : State) : Out :=
  s.on (fun m =>
    let k := chan.val
    if m.clk.fstop || m.clk.astop || !m.pwr.aonUp then m
    else if toAon then
      let c := Tab.get dChan m.flt.chans k
      if c.fly.isEmpty then m
      else
        let m := m.modFlt (fun f => { f with chans := Tab.set dChan f.chans k c.next })
        c.fly.foldl (fun m o => m.recordOcc k o) (m.chanOvf 0 k c.flyOvf)
    else
      let c := Tab.get dChan m.pchan k
      match c.fly with
      | [] => m
      | a :: rest =>
        let m := ({ m with pchan := Tab.set dChan m.pchan k c.next }).chanOvf 1 k c.flyOvf
        if rest.all (fun b => b == a) then m.postEvt 0 10 a 0 k
        else
          let r := m.nextFree
          r.2.postEvt 0 10 (c.fly.getD (Config.freeNat r.1 % c.fly.length) a) 0 k)

end Sys2Proof.Machine
end

