-- ==== Sys2Proof/Machine/Fault.lean ====
section
/-! DEFINITION. Clearing fault records, entering, acting on and leaving the safe state, the error pulse (R451 to R460, R364). -/

namespace Sys2Proof.Machine

/-- PERSIST of a record, read from the live state (R451, R453). -/
def Mach.persists (m : Mach) (r : FRec) : Bool :=
  let k := r.occ.kind
  let l := r.occ.loc
  match r.cls with
  | 1 => true
  | 4 => bt (m.dir (2 * l + r.occ.sub / 128)).mask (r.occ.sub % 16)
  | 5 => decide ((m.link l).st = .dead)
  | 7 => decide ((m.stn l).st = .dead)
  | 10 => decide (m.keep.st = (if k = 0 then .holdover else .frozen))
  | 12 => (m.dom l).flt
  | 13 => decide (m.twin.st = .down ∨ m.twin.st = .dead)
  | 14 => m.clk.fstop
  | _ => false

/-- FLT.CLR of one record (R453, R364). -/
def Mach.clearOne (m : Mach) (e i : Nat) : Mach :=
  match (if i < 64 then m.frec i else none) with
  | none => m.endStatus e xRANGE []
  | some r => if m.persists r then m.endStatus e xSTATE [] else (m.setFrec i none).done e xOK []

/-- FLT.CLR with ALL (R453): what does not persist goes. -/
def Mach.clearAll (m : Mach) (e : Nat) : Mach :=
  let keep : Option FRec → Option FRec := fun o => o.bind (fun r => if m.persists r then some r else none)
  let recs := Tab.mapv dNone (fun _ o => keep o) m.flt.recs
  let m := m.modFlt (fun f => { f with recs := recs })
  if recs.isEmpty then m.done e xOK [] else m.endStatus e xSTATE []

/-- FLT.CLR of either form, master only; while the AON clock stands still its crossing waits (R422, R429). -/
def Mach.fltOp (m : Mach) (e : Nat) (act : Mach → Mach) : Mach :=
  m.status e false (e == 0) false (fun m => if m.clk.astop then m.setWait e .aon else act m)

/-- FLT.CLR (R453). -/
def execFltClr (e : EngId) (s : State) : Out :=
  s.on (fun m => m.issue e 0xE0 (fun w => !bt w 42) (fun w m =>
    m.fltOp e (fun m => m.clearOne e ((m.eng e).reg (wA w)).toNat)))

/-- FLT.CLR with ALL (R453). -/
def execFltClrAll (e : EngId) (s : State) : Out :=
  s.on (fun m => m.issue e 0xE0 (fun w => bt w 42) (fun _ m => m.fltOp e (fun m => m.clearAll e)))

/-- The safe state ends (R460): NIUs and the twin unit leave it; the cause and what stood at entry stay. -/
def Mach.leaveSafe (m : Mach) : Mach :=
  let m := m.modFlt (fun f => { f with safeA := false, safeB := false, safeC := false })
  { m.modTwin (fun x => { x with failed := false }) with nius := Tab.mapv dNiu (fun _ x => { x with safe := false }) m.nius }

/-- Whether an EXIT write ends the safe state (R460). -/
def Mach.mayLeave (m : Mach) : Bool :=
  m.safe && decide (m.flt.cause = 3 ∨ m.flt.cause = 4) && decide (m.flt.twin = 0 ∨ m.flt.twin = 1 ∨ m.flt.twin = 5)

/-- A write to FLT_SAFE (R456, R460, R461): ENTER before EXIT; an EXIT that ends nothing sets EXIT_REJ. -/
def Mach.writeSafe (m : Mach) (v : Word) : Mach :=
  let m := if bt v 60 then m.setFld aFltSafe 60 1 0 else m
  if bt v 62 then m.enterSafe 3 0
  else if bt v 61 then (if m.mayLeave then m.leaveSafe else m.setFld aFltSafe 60 1 1)
  else m

/-- FLT_SAFE_ENTER (R456). -/
def execFltSafeEnter (v : Word) (priv : Bool) (mid : BitVec 16) (s : State) : Out :=
  s.hostWrite aFltSafe v true priv mid (fun m => m.writeSafe v)

/-- FLT_SAFE_EXIT (R460). -/
def execFltSafeExit (v : Word) (priv : Bool) (mid : BitVec 16) (s : State) : Out :=
  s.hostWrite aFltSafe v true priv mid (fun m => m.writeSafe v)

/-- SAFE_STATE_ACT (R457): one unit acts on the broadcast. -/
def execSafeStateAct (u : SafeUnit) (s : State) : Out :=
  s.on (fun m =>
    if !m.safe then m
    else match u with
      | .niu n => if m.domLive (epTile n) then (m.modNiu n (fun x => { x with safe := true })).settleFlows n else m
      | .engine e => m.stopEngine e xSAFE
      | .spine => if m.hasSpine then (m.setReg 0x80010 0).modSpine (fun x => { x with pend := false }) else m
      | .twin => m.modTwin (fun x => { x with failed := true }))

/-- FU_PARITY_FAIL (R456): class 0 is seen (R452), without a record. -/
def execFuParityFail (s : State) : Out := s.on (fun m => if m.pwr.aonUp then (m.orReg aFltSum (2 ^ 48)).enterSafe 1 0 else m)

/-- ERR_PULSE_END (R455). -/
def execErrPulseEnd (s : State) : Out := s.on (fun m => m.modFlt (fun f => { f with pulse := false }))

end Sys2Proof.Machine
end

