-- ==== Sys2Proof/Machine/RegView.lean ====
section
/-! DEFINITION. What a register reads as: the stored word, or the live state that a read-only field shows (the register maps of
each chapter); which unit a register belongs to and whether it answers (R6, R325, R430). -/

namespace Sys2Proof.Machine

/-- A word with one bit for each number below 64 that satisfies `p`. -/
def bits64 (p : Nat → Bool) : Word := (List.range 64).foldl (fun w i => if p i then w ||| BitVec.ofNat 64 (2 ^ i) else w) 0

/-- Whether the request of a number is still being offered at the port: the unit in hand or an open message (R71). -/
def Niu.offered (x : Niu) (uid : Nat) : Bool := x.unit.any (fun u => u.uid == uid) || x.opens.any (fun u => u.uid == uid)

/-- ep_idle (R62): no request accepted at the port is undelivered or unanswered. -/
def Niu.idle (x : Niu) : Bool :=
  x.ingress.all (fun b => decide (b.kind = .barrier .ld ∨ b.kind = .barrier .st ∨ b.kind = .barrier .full) || x.offered b.uid) &&
  x.reqs.all (fun r => x.offered r.uid) && x.trk.all (fun e => e.2.all (fun t => decide (t.acc = 0))) &&
  x.pwb.all (fun e => e.2.all (fun w => decide (w.acc = 0)))

/-- The sub-endpoints with an open message (R92); bit 0 stands for the port outside shared-port mode. -/
def Niu.openSubs (x : Niu) : List Nat :=
  ((x.opens ++ x.unit.toList).filter PUnit.msg).map (fun u => if x.spEn then u.sub else 0)

/-- PORT_STAT (R92). -/
def Mach.portStat (m : Mach) (n : Nat) : Word :=
  let x := m.niu n
  mkf 64 32 8 x.inc.toNat ||| mkf 64 16 9 x.trk.length |||
  (x.openSubs.foldl (fun w i => w ||| mkf 64 (12 + i % 4) 1 1) 0) ||| mkf 64 8 4 x.gnt.toNat |||
  mkf 64 7 1 (b1 (!x.rstN)) ||| mkf 64 6 1 (b1 x.abort) ||| mkf 64 5 1 (b1 (m.epStop n)) |||
  mkf 64 4 1 (b1 (m.spFreeze n && decide (x.gnt = 0) && x.idle)) ||| mkf 64 3 1 (b1 x.idle) |||
  mkf 64 2 1 (b1 x.spEn) ||| mkf 64 0 2 x.ratio

/-- Whether a drain trigger of R100 is active. -/
def Mach.draining (m : Mach) (n : Nat) : Bool :=
  let x := m.niu n
  let d := m.dom (epTile n)
  x.devDrain ||
  x.bars.any (fun b => decide (b.kind ≠ .ld) && x.pwb.any (fun e => e.2.any (fun w => decide (w.acc ≠ 0 ∧ w.acc < b.acc)))) ||
  (!x.pwb.isEmpty && (x.abort || !x.rstN || decide (d.st = .draining) || d.feedWarn))

/-- NIU_STAT (R113). -/
def Mach.niuStat (m : Mach) (n : Nat) : Word :=
  let x := m.niu n
  mkf 64 50 9 x.tt.length ||| mkf 64 44 6 x.ctxs.length ||| mkf 64 37 7 x.storeUsed ||| mkf 64 32 5 x.pwb.length |||
  mkf 64 2 1 (b1 x.safe) ||| mkf 64 1 1 (b1 (m.draining n)) ||| mkf 64 0 1 (b1 (!x.fills.isEmpty))

/-- QUIET_LO and QUIET_HI (R104, R113): `hi` 0 or 1. -/
def Mach.quietWord (m : Mach) (n hi : Nat) : Word :=
  let f := m.reg (aNiu n (0x10 + 8 * hi))
  bits64 (fun i => bt f i && (m.niu n).quietAt (64 * hi + i))

/-- RTR_EPOCH (R183). -/
def Mach.rtrEpochWord (m : Mach) (t : Nat) : Word :=
  let r := m.rt
  let l := m.rtrEpochs t
  let free := decide (r.st = .free)
  let st := match r.st with
    | .free => 0
    | .next => 1
    | .prev => 2
  mkf 64 40 8 (if free then 0 else min 255 (cnt (· == r.othE) l)) ||| mkf 64 32 8 (min 255 (cnt (· == r.curE) l)) |||
  mkf 64 18 2 r.cur.mode1 ||| mkf 64 16 2 r.cur.mode0 ||| mkf 64 12 4 r.cur.thr ||| mkf 64 8 2 st |||
  mkf 64 4 3 (if free then 0 else r.othE) ||| mkf 64 0 3 r.curE

/-- RTR_OCC (R183). -/
def Mach.rtrOccWord (m : Mach) (t : Nat) : Word :=
  [0, 1, 2, 3].foldl (fun w d => w ||| mkf 64 (8 + 2 * d) 2 (m.fwdOf t d) ||| mkf 64 (2 * d) 2 (m.occOf t d)) 0

/-- LINK_STAT of the direction that arrives at input `d` of a tile (R201, R202); an outward-facing edge is TIED (R198). -/
def Mach.linkStatWord (m : Mach) (t d : Nat) : Word :=
  match dirOut t d with
  | none => 0
  | some o =>
    let l := dirBack o
    let x := m.dir l
    mkf 64 32 9 x.mask.toNat ||| mkf 64 10 1 (b1 x.half) |||
    mkf 64 9 1 (b1 (((healthy x.fail).take (if x.half then 4 else 8)).contains 8)) ||| mkf 64 0 3 (m.link (l / 2)).st.code

/-- LINK_CFG at input `d` of a tile (R202): its own at N and E, the neighbour's at S and W; at the mesh edge, where S or W has no
neighbour and R202 names no value, it reads 0 (DESIGN CHOICE, log entry 145). -/
def Mach.linkCfgWord (m : Mach) (t d a : Nat) : Word :=
  if d < 2 then m.reg a
  else match linkAt t d with
    | none => 0
    | some n => m.reg (aLinkCfg n)

/-- Whether every reserved slot is quiet (R222): no queue of a pair that it serves holds a cell. -/
def Mach.resvQuiet (m : Mach) : Bool :=
  (List.range 32).all (fun n => (m.stn n).q.all (fun e => !bt (m.reg 0x80010) ((e.1 / 4 + 32 - n) % 32)))

/-- SP_STAT (R231). -/
def Mach.spStatWord (m : Mach) : Word :=
  mkf 64 32 8 (satInt 8 m.spine.err) ||| mkf 64 16 5 m.spine.slot ||| mkf 64 8 1 (b1 m.resvQuiet) ||| mkf 64 0 3 m.spine.lock.code

/-- SP_STN (R231). -/
def Mach.spStnWord (m : Mach) : Word :=
  bits64 (fun i => if i < 32 then (m.stn i).st.runs else decide ((m.stn (i - 32)).st = .dead))

/-- SP_STN_STAT (R231). -/
def Mach.spStnStatWord (m : Mach) (p : Nat) : Word :=
  let l := m.stnEpochs p
  let x := m.stn p
  let full := (List.range 4).foldl (fun w c => if (m.entryOf p c).isSome then w ||| mkf 64 (4 + c) 1 1 else w) (0 : Word)
  let busy := (List.range 4).foldl (fun w c => if (Tab.get dNil x.exit c).isEmpty then w else w ||| mkf 64 (8 + c) 1 1) (0 : Word)
  mkf 64 52 12 (if m.rt.st = .free then 0 else cnt (· == m.rt.othE) l) ||| mkf 64 40 12 (cnt (· == m.rt.curE) l) |||
  mkf 64 16 12 (m.nodeUsed p) ||| busy ||| full ||| mkf 64 0 2 x.st.code

/-- TBL_HELD (R232, R487). -/
def Mach.tblHeld (m : Mach) : Bool :=
  !m.tblEn && (m.nius.any (fun e => e.2.fc.any (fun f => !f.dflt)) ||
    [512, 513, 514, 515].any (fun q => (m.niu q).pwb.any (fun e => e.2.any (fun w => match w.owner with
      | .writeBack _ _ => true
      | _ => false))))

/-- SCH_FC_STAT (R255). -/
def Mach.schFcStatWord (m : Mach) (n : Nat) : Word :=
  let x := m.niu n
  mkf 64 47 1 (b1 (x.reqs.any (fun r => r.inMiss && m.held.contains (qFlow r.hdr)))) |||
  mkf 64 40 4 (cnt Req.inMiss x.reqs) ||| mkf 64 32 6 (x.fc.length + x.fills.length) |||
  mkf 64 24 6 (cnt (fun e => x.locked e.flow) x.fc) ||| mkf 64 16 6 (cnt FcE.pinned x.fc) |||
  mkf 64 8 6 (cnt (fun e => e.dirtyS || e.dirtyR) x.fc) ||| mkf 64 0 6 (cnt (fun e => e.neg.isSome && !e.recv) x.fc)

/-- SCH_ACTIVE and SCH_BLOCK (R255). -/
def Mach.schActiveWord (m : Mach) (n : Nat) : Word := bits64 (fun k => (m.niu n).inj.any (fun p => p.shp == k))
def Mach.schBlockWord (m : Mach) (n : Nat) : Word :=
  bits64 (fun k => (m.niu n).inj.any (fun p => p.shp == k) && !((m.niu n).shaper n k).may)

/-- CB_STAT (R297). -/
def Mach.cbStatWord (m : Mach) (t : Nat) : Word :=
  let l := m.cbNodes t
  mkf 64 32 9 (m.cbBufs t) ||| mkf 64 8 6 (cnt (fun x => decide (x.st = .failed)) l) ||| mkf 64 0 6 l.length

/-- CB_FAILi (R297). -/
def Mach.cbFailWord (m : Mach) (t i : Nat) : Word :=
  bits64 (fun k => (m.node t (64 * i + k)).any (fun x => decide (x.st = .failed)))

/-- GD_STAT (R311); LOG_OVF is stored. -/
def State.gdStatWord (s : State) (n a : Nat) : Word :=
  let x := s.m.niu n
  mkf 64 32 17 (s.guard n).lock.toNat ||| mkf 64 31 1 (s.m.fld a 31 1) ||| mkf 64 24 4 x.gLog.length |||
  mkf 64 20 1 (b1 x.gSync.isSome) ||| mkf 64 10 10 (min 1023 x.gNew) ||| mkf 64 0 10 (min 1023 x.gOld)

/-- ENG_STAT (R336); XSTAT, SRAM_CE and the sticky bits are stored. -/
def Mach.engStatWord (m : Mach) (e : Nat) : Word :=
  let x := m.eng e
  m.reg (aEng e 0) ||| mkf 64 20 4 x.st ||| mkf 64 19 1 (b1 x.z) ||| mkf 64 18 1 (b1 x.n) ||| mkf 64 17 1 (b1 x.c) |||
  mkf 64 16 1 (b1 x.v) ||| mkf 64 7 1 (b1 (m.token == some e)) ||| mkf 64 0 3 x.state.code

/-- The mailbox words (R337): word 0 the header, 1 to 3 the data. -/
def Mach.mbxWord (m : Mach) (e k w : Nat) : Word :=
  match m.slot e k with
  | some v => v.extractLsb' (64 * w) 64
  | none => 0

/-- PWR_SEQ and PWR_SUM (R398). -/
def Mach.pwrSeqWord (m : Mach) : Word :=
  mkf 64 16 8 m.pwr.missing ||| mkf 64 8 1 (b1 m.pwr.ready) ||| mkf 64 0 3 m.pwr.phase
def Mach.pwrSumWord (m : Mach) : Word :=
  let n (p : PDom → Bool) : Nat := cnt (fun d => p (m.dom d)) (List.range 133)
  mkf 64 16 8 (n PDom.latched) ||| mkf 64 8 8 (n (fun x => decide (x.st = .off))) ||| mkf 64 0 8 (n PDom.feedWarn)

/-- TW_STAT (R419). -/
def Mach.twStatWord (m : Mach) : Word :=
  let x := m.twin
  mkf 64 32 10 (cnt (fun e => e.2.notice) m.nius) ||| mkf 64 20 4 (min 15 x.missed) ||| mkf 64 16 1 (b1 x.live) |||
  mkf 64 12 4 x.twVar ||| mkf 64 8 4 x.op ||| mkf 64 7 1 (b1 x.wdrawn) ||| mkf 64 6 1 (b1 m.straps.planeB) |||
  mkf 64 5 1 (b1 x.fresh) ||| mkf 64 3 2 x.cause ||| mkf 64 0 3 x.st.code

/-- TW_OFFSET (R419). -/
def Mach.twOffsetWord (m : Mach) : Word := mkf 64 32 32 (satInt 32 m.twin.offset) ||| mkf 64 16 16 (min 65535 m.twin.rtt.toNat)

/-- HUNG_TARGET (R434). -/
def Mach.hungWord (m : Mach) : Word :=
  match m.rp.hung with
  | none => 0
  | some (f, clk, seen) =>
    mkf 64 63 1 1 ||| mkf 64 62 1 (b1 m.rp.pend) ||| mkf 64 61 1 (b1 f.write.isSome) ||| mkf 64 60 1 (b1 f.priv) |||
    mkf 64 58 2 clk ||| mkf 64 57 1 (b1 seen) ||| mkf 64 0 24 f.a

/-- Fault records in use (R461). -/
def Mach.nrec (m : Mach) : Nat := cnt (fun i => (m.frec i).isSome) (List.range 64)

/-- FLT_SAFE (R461); EXIT_REJ is stored. -/
def Mach.fltSafeWord (m : Mach) : Word :=
  let f := m.flt
  mkf 64 63 1 (b1 m.safe) ||| mkf 64 60 1 (m.fld aFltSafe 60 1) ||| mkf 64 52 4 f.esc ||| mkf 64 48 3 f.twin |||
  mkf 64 16 32 f.us.toNat ||| mkf 64 0 3 f.cause

/-- FLT_REC_A and FLT_REC_B (R461). -/
def Mach.fltRecA (m : Mach) (i : Nat) : Word :=
  match m.frec i with
  | none => 0
  | some r =>
    mkf 64 63 1 1 ||| mkf 64 62 1 (b1 (m.persists r)) ||| mkf 64 52 4 r.cls ||| mkf 64 48 4 r.occ.kind |||
    mkf 64 45 3 r.occ.lvl ||| mkf 64 32 8 r.occ.n ||| mkf 64 24 8 r.occ.sub ||| mkf 64 0 16 r.occ.loc
def Mach.fltRecB (m : Mach) (i : Nat) : Word := ((m.frec i).map FRec.ft).getD 0

/-- The identification code (R475, R476). -/
def Mach.idcode (m : Mach) : Nat := m.straps.variant * 2 ^ 28 + 0x0512A6B

/-- INST_STAT (R475). -/
def Mach.instStatWord (m : Mach) : Word :=
  mkf 64 63 1 (b1 m.safe) ||| mkf 64 62 1 (b1 m.pwr.ready) ||| mkf 64 61 1 (b1 m.rp.hung.isSome) |||
  mkf 64 60 1 (b1 m.rp.far.isSome) ||| mkf 64 53 3 m.twin.st.code ||| mkf 64 48 2 m.keep.st.code ||| mkf 64 40 7 m.nrec |||
  [0, 1, 2, 3, 4].foldl (fun w e => w ||| mkf 64 (3 * e) 3 (m.eng e).state.code) 0

/-- IRQ_SUM (R475, R331), whose OR is rp_irq. -/
def Mach.irqSumWord (m : Mach) : Word :=
  [0, 1, 2, 3, 4].foldl (fun w e =>
    let r := m.reg (aEng e 0x58)
    if (r.extractLsb' 0 16 &&& r.extractLsb' 16 16 : BitVec 16) ≠ 0 ∧ (m.eng e).state ≠ .off then w ||| mkf 64 e 1 1 else w) 0

/-- ADM_STAT (R256); BREACHES and BRQ_OVF are stored. -/
def Mach.admStatWord (m : Mach) : Word :=
  m.reg 0x208 ||| mkf 64 31 1 (b1 m.shedding) ||| mkf 64 16 11 m.adm.led.length ||| mkf 64 0 7 m.adm.brq.length

/-- The slew still to apply in whole ns (R277). Of a slew with a fraction the number below or the one above shows: which is a free value
(DESIGN CHOICE: the spec gives no rounding, log entry 20). -/
def Keeper.slewNs (k : Keeper) : Int :=
  if k.slew % 65536 = 0 then k.slew / 65536 else k.slew / 65536 + b1 (Config.slewUp k.slew)

/-- TIME_ERR (R277): LAST_D is stored; SLEW_LEFT in whole ns (log entry 20). -/
def Mach.timeErrWord (m : Mach) : Word := m.reg aTimeErr ||| mkf 64 0 16 (satInt 16 m.keep.slewNs)

/-- The value of a register, nothing cleared. -/
def State.view (s : State) (l : RegLoc) (a : Nat) : Word :=
  let m := s.m
  match l.reg with
  | .capUnits => m.capUnits
  | .portStat => m.portStat l.i
  | .niuStat => m.niuStat l.i
  | .quietLo => m.quietWord l.i 0
  | .quietHi => m.quietWord l.i 1
  | .rtrEpoch => m.rtrEpochWord l.i
  | .rtrOcc => m.rtrOccWord l.i
  | .linkStat => m.linkStatWord l.i l.j
  | .linkCfg => m.linkCfgWord l.i l.j a
  | .spStat => m.spStatWord
  | .spStn => m.spStnWord
  | .spClosing => bits64 (fun i => decide (i < 32 ∧ (m.stn i).st = .closing))
  | .spStnStat => m.spStnStatWord l.i
  | .flowTbl => m.reg 0x48 ||| mkf 64 1 1 (b1 m.tblHeld)
  | .schFcStat => m.schFcStatWord l.i
  | .schActive => m.schActiveWord l.i
  | .schBlock => m.schBlockWord l.i
  | .admStat => m.admStatWord
  | .admBrq => m.adm.brq.head?.getD 0
  | .timeStat => m.reg aTimeStat ||| mkf 64 0 2 m.keep.st.code
  | .timeErr => m.timeErrWord
  | .gtStat => m.gtStatWord l.i
  | .gtCt => m.gtCtWord l.i
  | .gtStart => BitVec.ofNat 64 (m.niu l.i).gate.s
  | .gtPendAt => if (m.niu l.i).gateSt = 2 then BitVec.ofNat 64 (m.niu l.i).gateP.s else 0
  | .cbStat => m.cbStatWord l.i
  | .cbFail => m.cbFailWord l.i l.j
  | .gdStart => (s.guard l.i).start l.j
  | .gdEnd => (s.guard l.i).fin l.j
  | .gdRule01 => (s.guard l.i).rules l.j 0
  | .gdRule23 => (s.guard l.i).rules l.j 2
  | .gdCfg => mkf 64 0 1 (b1 (s.guard l.i).deny)
  | .gdStat => s.gdStatWord l.i a
  | .gdLog0 => ((m.niu l.i).gLog.head?.map (fun r => r.extractLsb' 0 64)).getD 0
  | .gdLog1 => ((m.niu l.i).gLog.head?.map (fun r => r.extractLsb' 64 64)).getD 0
  | .engStat => m.engStatWord l.i
  | .engPc => (m.eng l.i).pc
  | .engSramData => Memory.word (m.eng l.i).sram (8 * m.fld (aEng l.i 0x40) 3 13)
  | .mbxHdr => m.mbxWord l.i l.j 0
  | .mbxD => m.mbxWord l.i (l.j / 4) (l.j % 4 + 1)
  | .pdStat => m.pdStat l.i
  | .pwrSeq => m.pwrSeqWord
  | .pwrSum => m.pwrSumWord
  | .twStat => m.twStatWord
  | .twOffset => m.twOffsetWord
  | .twMap => bits64 (fun i => m.twin.mapOf (BitVec.ofNat 16 (64 * l.i + i)))
  | .hungTarget => m.hungWord
  | .xingStat => m.reg aXing ||| mkf 64 5 1 (b1 m.clk.astop) ||| mkf 64 4 1 (b1 m.clk.fstop)
  | .fltSum => m.reg aFltSum ||| mkf 64 40 7 m.nrec
  | .fltSafe => m.fltSafeWord
  | .fltRecA => m.fltRecA l.i
  | .fltRecB => m.fltRecB l.i
  | .devId => BitVec.ofNat 64 m.idcode
  | .instStat => m.instStatWord
  | .irqSum => m.irqSumWord
  | .clkStat => sf (m.reg aClkStat) 0 2 m.clk.mode
  | .ftNow => BitVec.ofNat 64 m.ftNs
  | _ => m.reg a

/-- Whether the unit of a register answers: present on the variant (R6), its domain live (R430), its engine not OFF (R325). -/
def Mach.answers (m : Mach) (l : RegLoc) : Bool :=
  match l.reg with
  | .portStat | .portSpCfg | .portSpWeight | .portEvt | .portDrop => m.domLive (epTile l.i)
  | .niuStat | .niuCfg | .fenceLo | .fenceHi | .quietLo | .quietHi | .niuEvt | .niuDrop | .niuCnt => m.domLive (epTile l.i)
  | .schFcStat | .schFcCnt | .schActive | .schBlock | .schEvt | .schBadCnt => m.domLive (epTile l.i)
  | .gtStat | .gtCt | .gtStart | .gtPendAt | .gtEvt | .gtCnt => m.domLive (epTile l.i)
  | .gdStart | .gdEnd | .gdRule01 | .gdRule23 | .gdCfg | .gdStat | .gdLog0 | .gdLog1 | .gdLogPop | .gdCnt => m.domLive (epTile l.i)
  | .rtrEpoch | .rtrCfg | .rtrEvt | .rtrCnt | .rtrOcc | .linkStat | .linkCfg | .linkCnt => m.domLive l.i
  | .cbStat | .cbEvt | .cbCnt | .cbFail => m.hasCombine && m.domLive l.i
  | .spStat | .spThresh | .spResv | .spResvAt | .spStn | .spClosing | .spEvt | .spLost => m.hasSpine
  | .spStnStat | .spStnPeak => m.hasSpine && m.domLive (128 + l.i / 8)
  | .engStat | .engPc | .engLaunch | .engArg0 | .engArg1 | .engStop | .engFault | .engFaultInsn | .engSramAddr | .engSramData
  | .engEvtIn | .engIrq => m.engLive l.i
  | .pcVal | .pcCfg | .pcSnap => (ctrKind l.i != 2 || m.hasSpine) && m.domLive (ctrDom l.i)
  | .smpStat | .smpMax | .smpCfg0 | .smpCfg1 | .smpHd | .smpHa => (decide (l.i < 512) || m.hasSpine) && m.domLive (smpDom l.i)
  | .mirCfg | .mirProd | .mirDone | .mirCons | .mirDrop => m.hasMirror
  | _ => true

/-- The lag of one read of FT_NOW in FCLK cycles (R267, R422): free between 2 cycles of the fastest RCLK, 1 ns each, and 5 FCLK cycles
with 6 cycles of the slowest, 40 ns each (log entry 10). -/
def Mach.ftLag (m : Mach) (k : Nat) : Nat :=
  let inc := fclkUnits m.clk.mode
  let low := (2 * 65536 + inc - 1) / inc
  let top := 5 + 240 * 65536 / inc
  low + Config.ftLag k % (top - low + 1)

/-- Read a register without clearing: its value, and the machine after it (a read of ENG_SRAM_DATA advances WORD, R336; a read
of FT_NOW takes a free value). An address with no register reads zero (R18). -/
def State.readReg (s : State) (a : Nat) : Word × Mach :=
  let a := a / 8 * 8
  match locate a with
  | none => (0, s.m)
  | some l =>
    if !s.m.answers l || s.m.aonDead a then (0, s.m)
    else match l.reg with
      | .engSramData => s.m.sramAccess l.i none
      | .ftNow =>
        let r := s.m.nextFree
        (BitVec.ofNat 64 (s.m.ftAgo (s.m.ftLag r.1) / 65536), r.2)
      | _ => (s.view l a, s.m)

end Sys2Proof.Machine
end

