-- ==== Sys2Proof/Machine/RegPort.lean ====
section
/-! DEFINITION. Writing registers under the access code of each field (R15, R319), clearing reads (R16), accesses at the register
port (R466 to R470), hung accesses (R428), RDREG and WRREG (R352). -/

namespace Sys2Proof.Machine

/-- What a write leaves in the stored word of a register (R15): RW and EO fields take the value (EO only from an engine), each
1 clears a W1C bit, other fields stay. -/
def writeFields (l : List RField) (engine : Bool) (old v : Word) : Word :=
  l.foldl (fun w f =>
    match f.acc with
    | .rw => sf w f.lo f.len (bf v f.lo f.len)
    | .eo => if engine then sf w f.lo f.len (bf v f.lo f.len) else w
    | .w1c => w &&& ~~~(mkf 64 f.lo f.len (bf v f.lo f.len))
    | _ => w) old

/-- A write of a counter's configuration by an engine (R319, R437): reserved bits are not kept (R18). -/
def Mach.writePcCfg (m : Mach) (eng : Option Nat) (n : Nat) (v : Word) : Mach :=
  match eng with
  | some e => m.configCtr n e (v &&& 0xEFC0F0FF000000FF#64)
  | none => m

/-- The bits of the two words of a sampler descriptor that are not reserved (R442, R18; log entry 91), CLR left out. -/
def smpMask0 : Word := 0x83FF30FFFFFFFFFF
def smpMask1 : Word := 0x0000FFFF00003F3F

/-- A write of SMP_CFG0 by an engine (R319, R442): CLR acts and reads as 0. -/
def Mach.writeSmp (m : Mach) (eng : Option Nat) (k a : Nat) (v : Word) : Mach :=
  match eng with
  | some e => (if bt v 62 then m.clearSmp k else m).setReg a (v &&& smpMask0) |>.setOwner (8192 + k) e
  | none => m

/-- A write of LINK_CFG (R202): it is RO in the registers for inputs S and W. -/
def Mach.writeLinkCfg (m : Mach) (t d a : Nat) (w : Word) : Mach :=
  if 2 ≤ d then m
  else match linkAt t d with
    | none => m.setReg a w
    | some n => (m.setReg a w).forceWrite n (m.forceHalf n)

/-- A write of PORT_SP_CFG (R91): when FREEZE returns to 0, all scores are zero. -/
def Mach.writeSpCfg (m : Mach) (n a : Nat) (w : Word) : Mach :=
  let was := m.spFreeze n
  let m := m.setReg a w
  if was && !m.spFreeze n then m.modNiu n (fun x => { x with scores := if x.scores.isEmpty then [] else [0, 0, 0, 0] }) else m

/-- A register write (R15, R319): `eng` is the engine that writes with WRREG, none for the host. An address with no register, and
a unit that does not answer, ignore it (R6, R18, R430). -/
def Mach.writeReg (m : Mach) (eng : Option Nat) (a : Nat) (v : Word) : Mach :=
  let a := a / 8 * 8
  match locate a with
  | none => m
  | some l =>
    if !m.answers l || m.aonDead a then m
    else
      let w := writeFields l.reg.fields eng.isSome (m.reg a) v
      match l.reg with
      | .engLaunch => m.launch l.i v
      | .engStop => m.engStop l.i v
      | .engEvtIn => m.evtIn l.i v
      | .engSramData => (m.sramAccess l.i (some v)).2
      | .mbxAck => m.mbxAck v
      | .admBrqPop => m.brqPop v
      | .gdLogPop => m.gdPop l.i v
      | .pdCtl => m.clrMeas l.i v
      | .mirCons => m.writeCons v
      | .fltSafe => m.writeSafe v
      | .hungTarget => if bt v 63 then m.modRp (fun r => { r with hung := none }) else m
      | .rpDeny => if bt v 63 then m.setReg 0x28 0 else m
      | .flowTbl => if eng.isSome then m.writeFlowTbl v else m
      | .pwrCfg => if eng.isSome then m.writePwrCfg v else m
      | .pcCfg => m.writePcCfg eng l.i v
      | .smpCfg0 => m.writeSmp eng l.i a v
      | .smpCfg1 => match eng with
        | some e => (m.setReg a (w &&& smpMask1)).setOwner (8192 + l.i) e
        | none => m
      | .mirCfg => if eng.isSome then m.setReg a (w &&& 0xFE00FFFFFFFFFFFF#64) else m
      | .linkCfg => m.writeLinkCfg l.i l.j a w
      | .portSpCfg => m.writeSpCfg l.i a w
      | .portSpWeight => if eng.isSome then (m.setReg a w).modNiu l.i (fun x => { x with scores := [] }) else m
      | _ => m.setReg a w

/-- Clear the RC fields of a register after a read at the register port (R16); a peak restarts from its present value. -/
def Mach.clearRc (m : Mach) (a : Nat) : Mach :=
  let a := a / 8 * 8
  match locate a with
  | none => m
  | some l =>
    if !m.answers l || m.aonDead a then m
    else match l.reg with
      | .spStnPeak =>
        let q := ((m.stn l.i).q.map (fun e => e.2.length)).foldl max 0
        (m.setFld a 0 12 (m.nodeUsed l.i)).setFld a 16 12 q
      | r => r.fields.foldl (fun m f => match f.acc with
        | .rc => m.setFld a f.lo f.len 0
        | _ => m) m

/-- A read at the register port (R15, R16): the value as it stood, then RC fields clear. -/
def State.portRead (s : State) (a : Nat) : Word × Mach :=
  let r := s.readReg a
  (r.1, r.2.clearRc a)

/-- Whether the register at an address is privileged (R469). -/
def addrPriv (a : Nat) : Bool := ((locate a).map (fun l => l.reg.priv)).getD false

/-- CLEARING_READ (R16, R467 to R470): a read at the register port, of any register. -/
def execClearingRead (a : BitVec 24) (priv : Bool) (mid : BitVec 16) (s : State) : Out :=
  s.onAll (fun s => s.hostAccess a.toNat none (addrPriv a.toNat) priv mid (fun s => s.portRead a.toNat))

/-- REGISTER_WRITE (R15, R467 to R470): a write at the register port, of any register. -/
def execRegisterWrite (a : BitVec 24) (v : Word) (priv : Bool) (mid : BitVec 16) (s : State) : Out :=
  s.onAll (fun s => s.hostAccess a.toNat (some v) (addrPriv a.toNat) priv mid (fun s => (0, s.m.writeReg none a.toNat v)))

/-- RP_FAR_ACCESS (R467 to R469): a far access is accepted; it crosses, and its response is a step of its own. -/
def execRpFarAccess (a : BitVec 24) (write : Option Word) (priv : Bool) (mid : BitVec 16) (s : State) : Out :=
  s.on (fun m =>
    let n := a.toNat
    if !m.pwr.aonUp || m.rp.far.isSome || !farAddr n then m
    else if n % 8 ≠ 0 then m.answer 2 0
    else if addrPriv n && !priv then (m.recordDeny n write.isSome mid).answer 1 0
    else m.modRp (fun r => { r with far := some ⟨n, write, priv, mid⟩, rsp := none, rspFar := false }))

/-- The outstanding far access is carried out whole, as one offered with no other outstanding is, and its response is presented (R468). -/
def State.farDone (s : State) (f : Far) : Mach :=
  ({ s with m := s.m.modRp (fun x => { x with far := none, pend := false }) }).carry f.a f.write (fun s =>
    match f.write with
    | none => s.portRead f.a
    | some v => (0, s.m.writeReg none f.a v))

/-- RP_FAR_RESPONSE (R468, R428): a far access whose crossing waits on a stopped clock does not complete. -/
def execRpFarResponse (s : State) : Out :=
  s.onAll (fun s =>
    match s.m.rp.far with
    | none => s.m
    | some f => if s.m.farStopped f.a then s.m else s.farDone f)

/-- HUNG_TARGET_RECORD (R428, R434): a record that is VALID is never overwritten. -/
def execHungTargetRecord (s : State) : Out :=
  s.on (fun m =>
    match m.rp.far, m.rp.hung with
    | some f, none => m.modRp (fun r => { r with hung := some (f, b1 (farAon f.a), m.farStopped f.a), pend := true })
    | _, _ => m)

/-- CLOCK_RESTART (R427, R428): the flag clears, and an access that waited on this clock completes. -/
def execClockRestart (aon : Bool) (s : State) : Out :=
  s.onAll (fun s =>
    let was := match s.m.rp.far with
      | some f => s.m.farStopped f.a
      | none => false
    let c := s.m.clk
    let s := { s with m := { s.m with clk := if aon then { c with astop := false } else { c with fstop := false } } }
    match s.m.rp.far with
    | some f => if was && !s.m.farStopped f.a then s.farDone f else s.m
    | none => s.m)

/-- RDREG's read, with the engine waiting for its completion (R352, R319). -/
def State.doRdreg (s : State) (e : Nat) (w : Word) : Mach :=
  let a := bf ((s.m.eng e).reg (wA w)) 0 24
  let r := ({ s with m := s.m.done e xOK [] }).readReg a
  r.2.modEng e (fun x => { x with wait := .done xOK [(wD w, r.1)] })

/-- WRREG's write, with the engine waiting for its completion (R352, R319). -/
def Mach.doWrreg (m : Mach) (e : Nat) (w : Word) : Mach :=
  (m.done e xOK []).writeReg (some e) (bf ((m.eng e).reg (wA w)) 0 24) ((m.eng e).reg (wB w))

/-- The writes that R319 denies: guard ranges (R309), and fields that an instruction owns on variants that have the unit. -/
def Mach.wrDenied (m : Mach) (a : Nat) : Bool :=
  decide (0x100000 ≤ a ∧ a < 0x180000 ∧ 0x600 ≤ a % 0x1000 ∧ a % 0x1000 < 0xF00) ||
  (match (locate a).map RegLoc.reg with
   | some .spResv | some .spResvAt | some .spStn => m.hasSpine
   | some .fenceLo | some .fenceHi => true
   | _ => false)

/-- RDREG (R352, R319): with a target that waits on a stopped AON clock the engine waits (R429). -/
def execRdreg (e : EngId) (s : State) : Out :=
  s.onS (fun s => s.issue e 0x24 anyWord (fun w s =>
    let a := bf ((s.m.eng e).reg (wA w)) 0 24
    { s with m :=
      s.m.status e false (decide (a < 0x10000) || inScope e (addrQuad a)) false (fun m =>
        if a % 8 ≠ 0 then m.haltFault e xALIGN
        else if farAon a && m.clk.astop then m.setWait e .aon else ({ s with m := m }).doRdreg e w) }))

/-- WRREG (R352, R319). -/
def execWrreg (e : EngId) (s : State) : Out :=
  s.on (fun m => m.issue e 0x25 anyWord (fun w m =>
    let a := bf ((m.eng e).reg (wA w)) 0 24
    m.status e false (inScope e (addrQuad a)) false (fun m =>
      if a % 8 ≠ 0 then m.haltFault e xALIGN
      else if m.wrDenied a then m.endStatus e xDENIED []
      else if farAon a && m.clk.astop then m.setWait e .aon else m.doWrreg e w)))

end Sys2Proof.Machine
end

