-- ==== Sys2Proof/Machine/Complete.lean ====
section
/-! DEFINITION. How a fabric instruction's completion reaches its engine (R346), and how one that waited for the AON clock goes
on (R429). -/

namespace Sys2Proof.Machine

/-- Carry out an instruction that has waited for the AON clock (R429). -/
def State.resumeAon (s : State) (e : Nat) : Mach :=
  let m := s.m
  let x := m.eng e
  let w := x.insn
  let r := x.reg (wA w)
  match wOpc w with
  | 0x24 => s.doRdreg e w
  | 0x25 => m.doWrreg e w
  | 0x60 => m.doDrain e w r.toNat
  | 0x61 => m.doFence e w r.toNat
  | 0x62 => m.doOff e r.toNat
  | 0x63 => m.doOn e w r.toNat
  | 0x64 => m.doUnfence e r.toNat
  | 0x65 => m.doFeed e w r.toNat
  | 0x66 => m.doStat e w r.toNat
  | 0xE0 => if bt w 42 then m.clearAll e else m.clearOne e r.toNat
  | _ => m

/-- The limit of the instruction goes on from its issue (R341), and a stop asked for in the meantime takes effect (R429). -/
def Mach.afterAon (m : Mach) (e : Nat) (old : Eng) : Mach :=
  let m := if (m.eng e).limit.isSome then m.modEng e (fun x => { x with limit := old.limit }) else m
  if old.stopReq then (m.modEng e (fun x => { x with stopReq := false })).stopEngine e xSTOPPED else m

/-- The completion of an RT.EPOCH: every unit stamps the new epoch (R178). -/
def Mach.epochDone (m : Mach) (w : Word) (st : Nat) : Mach :=
  if wOpc w = 0x41 ∧ st = xOK then { m with rt := { m.rt with casting := false, reached := [] } } else m

/-- FABRIC_INSTRUCTION_COMPLETION (R346): an instruction whose command has been carried out ends at its engine; FL.INV and FL.FLUSH
once their copies are gone (R240); SP.THRESH, PC.CFG, SMP.CFG and MIR.CFG as their configuration comes into force (R216, R363);
RT.LOAD once its image is read (R355); one that waited for the AON clock is carried out when that clock runs. -/
def execFabricInstructionCompletion (e : EngId) (s : State) : Out :=
  s.onAll (fun s =>
    let m := s.m
    let x := m.eng e
    if x.state ≠ .waiting then m
    else match x.wait with
      | .done st wr => (m.epochDone x.insn st).endStatus e st wr
      | .config ws => (m.configDone e ws).endStatus e xOK []
      | .flow f =>
        let hold := decide (wOpc x.insn = 0x71) && bt x.insn 42
        if m.flowSettled f hold then m.endStatus e xOK [] else m.dropAgain f hold
      | .image => if m.img.whole then m.imageEnd e else m
      | .aon => if m.clk.astop then m else (s.resumeAon e).afterAon e x
      | _ => m)

/-- Whether a waiting instruction's condition holds in this very cycle (R341): it then completes with OK, its limit notwithstanding. -/
def Mach.waitMet (m : Mach) (e : Nat) : Bool :=
  let x := m.eng e
  match x.wait with
  | .done _ _ => true
  | .config _ => true
  | .event _ mask => (x.findEvt mask).isSome
  | .time t => decide (t ≤ m.ftNs)
  | .sync ep => decide ((m.niu ep).gOld = 0)
  | .flow f => m.flowSettled f (decide (wOpc x.insn = 0x71) && bt x.insn 42)
  | .portOff p => decide ((m.stn p).st = .closing) && m.stnEmpty p
  | .cbFree g => (m.cbTiles g).all (fun t => m.cbQuiet t g)
  | .drain d => m.drainMet d
  | .fence d => m.fenceMet d
  | .twin => m.moveMet
  | _ => false

/-- INSTRUCTION_LIMIT_EXPIRY (R341): the limit of a waiting instruction has passed and its condition is not met in
that cycle; it ends with TIMEOUT, and what it has started goes on under its own rules. -/
def execInstructionLimitExpiry (e : EngId) (s : State) : Out :=
  s.on (fun m =>
    let x := m.eng e
    if x.state = .waiting ∧ x.limit = some 0 ∧ m.waitMet e = false then (m.withdraw e).endStatus e xTIMEOUT [] else m)

end Sys2Proof.Machine
end

