-- ==== Sys2Proof/Machine/Control.lean ====
section
/-! DEFINITION. Flow of control (R348, R349) and arithmetic (R351). -/

namespace Sys2Proof.Machine

/-- Take a jump: the space and endpoint of the program counter are kept (R348). -/
def Mach.jumpTo (m : Mach) (e t : Nat) : Mach :=
  (m.modEng e (fun x => { x with pc := sf x.pc 0 48 t })).completes e (m.eng e).pc

/-- A taken jump with its target check: a target that is not a multiple of 8 ends with ALIGN and no effect (R348). -/
def Mach.jump (m : Mach) (e t : Nat) (pre : Eng → Eng) : Mach :=
  if t % 8 ≠ 0 then m.haltFault e xALIGN else (m.modEng e pre).jumpTo e t

/-- NOP (R349). -/
def execNop (e : EngId) (s : State) : Out :=
  s.on (fun m => m.issue e 0x00 anyWord (fun _ m => m.stepPc e))

/-- HALT (R349): HALTED, ENG_PC keeps the next address, PEND[15] is set; no fault record. -/
def execHalt (e : EngId) (s : State) : Out :=
  s.on (fun m => m.issue e 0x01 anyWord (fun _ m =>
    ((m.stepPc e).modEng e (fun x => { x with state := .halted })).orReg (aEng e 0x58) (2 ^ 15)))

/-- JMP (R349). -/
def execJmp (e : EngId) (s : State) : Out :=
  s.on (fun m => m.issue e 0x02 anyWord (fun w m => m.jump e (jumpTarget (m.eng e) w) id))

/-- JCC (R349, R350): the target is checked only when the condition holds. -/
def execJcc (e : EngId) (s : State) : Out :=
  s.on (fun m => m.issue e 0x03 anyWord (fun w m =>
    if (m.eng e).cond (wD w) then m.jump e (jumpTarget (m.eng e) w) id else m.stepPc e))

/-- CALL (R349): g15 receives the address of the next instruction in the format of R315. -/
def execCall (e : EngId) (s : State) : Out :=
  s.on (fun m => m.issue e 0x04 anyWord (fun w m => m.jump e (jumpTarget (m.eng e) w) (fun x => x.setReg 15 x.nextPc)))

/-- RET (R349). -/
def execRet (e : EngId) (s : State) : Out :=
  s.on (fun m => m.issue e 0x05 anyWord (fun _ m => m.jump e (bf ((m.eng e).reg 15) 0 48) id))

/-- LOOP (R349): decrement; jump while not zero. With ALIGN the register stays undecremented (R348). -/
def execLoop (e : EngId) (s : State) : Out :=
  s.on (fun m => m.issue e 0x06 anyWord (fun w m =>
    let x := m.eng e
    let r := x.reg (wD w) - 1
    if r ≠ 0 then m.jump e (jumpTarget x w) (fun x => x.setReg (wD w) r)
    else (m.modEng e (fun x => x.setReg (wD w) r)).stepPc e))

/-- TRAP (R349). -/
def execTrap (e : EngId) (s : State) : Out :=
  s.on (fun m => m.issue e 0x07 anyWord (fun _ m => m.haltFault e xTRAP))

/-- An arithmetic instruction: a change of the engine's registers and flags, then the next instruction (R351). -/
def Mach.alu (m : Mach) (e opc : Nat) (f : Word → Eng → Eng) : Mach :=
  m.issue e opc anyWord (fun w m => (m.modEng e (f w)).stepPc e)

/-- The value MOVI writes (R351). -/
def moviVal (w old : Word) : Word :=
  if bf w 40 3 = 0 then BitVec.ofNat 64 (wImm w)
  else if bf w 40 3 = 2 then (w.extractLsb' 0 40).signExtend 64
  else sf old 40 24 (bf w 0 24)

/-- MOVI (R351). -/
def execMovi (e : EngId) (s : State) : Out :=
  s.on (fun m => m.alu e 0x10 (fun w x => x.setReg (wD w) (moviVal w (x.reg (wD w)))))

/-- MOV (R351). -/
def execMov (e : EngId) (s : State) : Out :=
  s.on (fun m => m.alu e 0x11 (fun w x => x.setReg (wD w) (x.reg (wA w))))

/-- ADD (R351). -/
def execAdd (e : EngId) (s : State) : Out :=
  s.on (fun m => m.alu e 0x12 (fun w x => (x.addFlags (x.reg (wA w)) (srcB x w)).setReg (wD w) (x.reg (wA w) + srcB x w)))

/-- SUB (R351). -/
def execSub (e : EngId) (s : State) : Out :=
  s.on (fun m => m.alu e 0x13 (fun w x => (x.subFlags (x.reg (wA w)) (srcB x w)).setReg (wD w) (x.reg (wA w) - srcB x w)))

/-- A logical operation: Z and N, the result written (R351). -/
def Eng.logic (x : Eng) (w r : Word) : Eng := (x.zn r).setReg (wD w) r

/-- AND (R351). -/
def execAnd (e : EngId) (s : State) : Out :=
  s.on (fun m => m.alu e 0x14 (fun w x => x.logic w (x.reg (wA w) &&& srcB x w)))

/-- OR (R351). -/
def execOr (e : EngId) (s : State) : Out :=
  s.on (fun m => m.alu e 0x15 (fun w x => x.logic w (x.reg (wA w) ||| srcB x w)))

/-- XOR (R351). -/
def execXor (e : EngId) (s : State) : Out :=
  s.on (fun m => m.alu e 0x16 (fun w x => x.logic w (x.reg (wA w) ^^^ srcB x w)))

/-- SHL (R351). -/
def execShl (e : EngId) (s : State) : Out :=
  s.on (fun m => m.alu e 0x17 (fun w x =>
    let k := bf (srcB x w) 0 6
    (x.shlFlags (x.reg (wA w)) k).setReg (wD w) (x.reg (wA w) <<< k)))

/-- SHR (R351). -/
def execShr (e : EngId) (s : State) : Out :=
  s.on (fun m => m.alu e 0x18 (fun w x =>
    let k := bf (srcB x w) 0 6
    (x.shrFlags (x.reg (wA w)) k (bt w 41)).setReg (wD w) (shrResult (x.reg (wA w)) k (bt w 41))))

/-- CMP (R351): as SUB with no register written. -/
def execCmp (e : EngId) (s : State) : Out :=
  s.on (fun m => m.alu e 0x19 (fun w x => x.subFlags (x.reg (wA w)) (srcB x w)))

/-- MIN (R351). -/
def execMin (e : EngId) (s : State) : Out :=
  s.on (fun m => m.alu e 0x1A (fun w x =>
    x.logic w (if below (bt w 41) (srcB x w) (x.reg (wA w)) then srcB x w else x.reg (wA w))))

/-- MAX (R351). -/
def execMax (e : EngId) (s : State) : Out :=
  s.on (fun m => m.alu e 0x1B (fun w x =>
    x.logic w (if below (bt w 41) (x.reg (wA w)) (srcB x w) then srcB x w else x.reg (wA w))))

end Sys2Proof.Machine
end

