-- ==== Sys2Proof/Machine/Test.lean ====
section
/-! DEFINITION. Test access (R462, R465, R476 to R478): the registers of the test port, the pins, the instruments, memory tests, scan
mode. -/

namespace Sys2Proof.Machine

/-- The instruction an opcode selects (R476): every opcode without one acts as BYPASS. -/
def tapOf (op : BitVec 8) : BitVec 8 := if [0x01#8, 0x02#8, 0x03#8, 0x04#8, 0x10#8].contains op then op else 0xFF

/-- The data registers between TDI and TDO (R476 to R478): bypass, IDCODE, boundary, the IEEE 1687 network. CLAMP selects the bypass
register (PRESUMED, IEEE 1149.1: log entry 101). -/
inductive TapReg where
  | bypass | idcode | boundary | network
deriving DecidableEq, Repr

def tapReg (op : BitVec 8) : TapReg :=
  if op = 0x01 then .idcode else if op = 0x02 ∨ op = 0x03 then .boundary else if op = 0x10 then .network else .bypass

/-- The register that an instruction has selected, once TCK has shifted bits of TDI through it: no row is a cycle of TCK, and between two
rows there may be any number of them, so it holds a free value (log entry 101). -/
def TestAcc.shifted (t : TestAcc) (f : Nat) : TestAcc :=
  match tapReg t.tap with
  | .bypass => { t with byp := bt (Config.freeWord f) 0 }
  | .idcode => { t with idr := Config.idShift f }
  | .boundary => { t with bnd := Config.boundary f }
  | .network => { t with sib := Config.segBits f }

/-- TDO (R476): the bit that leaves the selected register next. -/
def TestAcc.tdo (t : TestAcc) : Bool :=
  match tapReg t.tap with
  | .bypass => t.byp
  | .idcode => bt t.idr 0
  | .boundary => bt t.bnd (Config.bsNext % 1675)
  | .network => bt t.sib 0

/-- The inputs TCK, TMS, TDI and TRST_N, and those of manufacturing scan, SCAN_CLK, SCAN_EN, SCAN_RST_N and SCAN_SI[629:0] (R462): in
functional operation SCAN_CLK and SCAN_EN are 0, SCAN_RST_N is 1, and SCAN_SI has no effect (R465). -/
def Mach.tapIn (m : Mach) : BitVec 4 := Config.tapPins m.frees
def Mach.scanClk (m : Mach) : Bool := m.test.scan && bt (Config.scanIn m.frees) 632
def Mach.scanEn (m : Mach) : Bool := m.test.scan && bt (Config.scanIn m.frees) 631
def Mach.scanRstN (m : Mach) : Bool := !m.test.scan || bt (Config.scanIn m.frees) 630
def Mach.scanSi (m : Mach) : BitVec 630 := (Config.scanIn m.frees).extractLsb' 0 630

/-- SCAN_SO[629:0] (R465): 0 in functional operation; what the scan patterns put out is not described. -/
def Mach.scanSo (m : Mach) : BitVec 630 := if m.test.scan then Config.scanOut m.frees else 0

/-- The outputs that the boundary register drives, in the order of R462. -/
inductive OutSig where
  | twClk | twData (i : Nat) | twCtl (i : Nat) | twCrc (i : Nat) | twLive | tpAck | pwReady | pwWarn | pwAlertN
  | tileOn (t : Nat) | tileWarn (t : Nat) | spineOn (q : Nat) | errN | rpReady (far : Bool) | rpValid | rpData (i : Nat) | rpStatus (i : Nat)
  | rpIrq
deriving DecidableEq, Repr

/-- The number of an output among the instance's. -/
def OutSig.idx : OutSig → Nat
  | .twClk => 0
  | .twData i => 1 + i
  | .twCtl i => 513 + i
  | .twCrc i => 543 + i
  | .twLive => 575
  | .tpAck => 576
  | .pwReady => 577
  | .pwWarn => 578
  | .pwAlertN => 579
  | .tileOn t => 580 + t
  | .tileWarn t => 708 + t
  | .spineOn q => 836 + q
  | .errN => 840
  | .rpReady _ => 841
  | .rpValid => 842
  | .rpData i => 843 + i
  | .rpStatus i => 907 + i
  | .rpIrq => 909

/-- What the instance's own logic drives on an output (R259, R331, R368, R406, R407, R455, R464, R466). -/
def Mach.drives (m : Mach) : OutSig → Bool
  | .twClk => decide (m.clk.cyc % 4 < 2)
  | .twData i => bt m.twin.oData i
  | .twCtl i => bt m.twin.oCtl i
  | .twCrc i => bt m.twin.oCrc i
  | .twLive => m.twin.oLive
  | .tpAck => m.keep.tpAck
  | .pwReady => m.pwr.ready
  | .pwWarn => m.pwWarn
  | .pwAlertN => m.pwAlertN
  | .tileOn t => m.pwOn t
  | .tileWarn t => m.pwTileWarn t
  | .spineOn q => m.pwOn (128 + q)
  | .errN => m.errPin
  | .rpReady far => m.pwr.aonUp && !(m.rp.rsp.isSome && m.rp.rspFar) && !(far && m.rp.far.isSome)
  | .rpValid => m.rp.rsp.isSome
  | .rpData i => (m.rp.rsp.map (fun r => bt r.2 i)).getD false
  | .rpStatus i => (m.rp.rsp.map (fun r => r.1 / 2 ^ i % 2 == 1)).getD false
  | .rpIrq => m.irqSumWord != 0

/-- The inputs that have a cell in the boundary register (R462, R477), in the order of R462. -/
inductive InSig where
  | twClk | twData (i : Nat) | twCtl (i : Nat) | twCrc (i : Nat) | twLive | twPlane | tpClk | tpValid | tpTime (i : Nat) | tpCrc (i : Nat)
  | tpFlag | porN | fclk | aonClk | mode (i : Nat) | rpClk | rpReqValid | rpReqWrite | rpReqAddr (i : Nat) | rpReqWdata (i : Nat)
  | rpReqPriv | rpReqMid (i : Nat)
deriving DecidableEq, Repr

/-- The number of an input among the 1,675 signals: the 910 outputs come first. -/
def InSig.idx : InSig → Nat
  | .twClk => 910
  | .twData i => 911 + i
  | .twCtl i => 1423 + i
  | .twCrc i => 1453 + i
  | .twLive => 1485
  | .twPlane => 1486
  | .tpClk => 1487
  | .tpValid => 1488
  | .tpTime i => 1489 + i
  | .tpCrc i => 1553 + i
  | .tpFlag => 1561
  | .porN => 1562
  | .fclk => 1563
  | .aonClk => 1564
  | .mode i => 1565 + i
  | .rpClk => 1567
  | .rpReqValid => 1568
  | .rpReqWrite => 1569
  | .rpReqAddr i => 1570 + i
  | .rpReqWdata i => 1594 + i
  | .rpReqPriv => 1658
  | .rpReqMid i => 1659 + i

/-- The inputs whose level the state holds, with it; the level of any other is free. -/
def Mach.knownIns (m : Mach) : List (InSig × Bool) :=
  [(.twPlane, m.straps.planeB), (.tpFlag, m.keep.tpFlag), (.porN, m.pwr.porN), (.mode 0, m.clk.mode % 2 == 1), (.mode 1, m.clk.mode / 2 == 1)]

/-- The outputs of a bus. -/
def OutSig.bus (n : Nat) (f : Nat → OutSig) : List OutSig := (List.range n).map f

/-- Every output that has a cell, in the order of its number. -/
def OutSig.all : List OutSig :=
  List.flatten [[OutSig.twClk], OutSig.bus 512 OutSig.twData, OutSig.bus 30 OutSig.twCtl, OutSig.bus 32 OutSig.twCrc,
    [OutSig.twLive, OutSig.tpAck, OutSig.pwReady, OutSig.pwWarn, OutSig.pwAlertN], OutSig.bus 128 OutSig.tileOn,
    OutSig.bus 128 OutSig.tileWarn, OutSig.bus 4 OutSig.spineOn, [OutSig.errN, OutSig.rpReady false, OutSig.rpValid],
    OutSig.bus 64 OutSig.rpData, [OutSig.rpStatus 0, OutSig.rpStatus 1, OutSig.rpIrq]]

/-- The boundary register with the cells of the inputs at the levels of the pins, those the state does not hold at the levels in `free`. -/
def Mach.pinsIn (m : Mach) (old free : BitVec 1675) : BitVec 1675 :=
  m.knownIns.foldl (fun w p => sf w p.1.idx 1 (b1 p.2)) (sf free 0 910 (bf old 0 910))

/-- The boundary register with the cells of the outputs at the levels that the instance drives. -/
def Mach.pinsOut (m : Mach) (old : BitVec 1675) : BitVec 1675 := OutSig.all.foldl (fun w o => sf w o.idx 1 (b1 (m.drives o))) old

/-- What the register that an instruction selects captures (R476, R477): 0 in bypass, IDCODE; in the boundary register the cells of the
inputs take the pins, and with SAMPLE those of the outputs the levels that the instance drives. Under EXTEST these cells drive the
outputs and keep what they hold. -/
def TestAcc.capture (t : TestAcc) (m : Mach) (f : Nat) : TestAcc :=
  match tapReg t.tap with
  | .bypass => { t with byp := false }
  | .idcode => { t with idr := m.idcode }
  | .boundary =>
    let w := m.pinsIn t.bnd (Config.boundary f)
    { t with bnd := if t.tap = 2 then m.pinsOut w else w }
  | .network => t

/-- An output pin (R477): driven from its cell of the boundary register while EXTEST or CLAMP is the current instruction. -/
def Mach.outPin (m : Mach) (o : OutSig) : Bool := if m.test.holds then bt m.test.bnd o.idx else m.drives o

/-- TAP_INSTRUCTION_CHANGE (R476, R477): what the data registers held has been shifted, and the register selected now captures; EXTEST and
CLAMP hold the instance in instance reset, and when they are left start-up runs from a new t0 (R371). -/
def execTapInstructionChange (op : BitVec 8) (s : State) : Out :=
  s.onS (fun s =>
    let f := s.m.nextFree
    let t := { s.m.test.shifted f.1 with tap := tapOf op }.capture s.m f.1
    let was := s.m.test.holds
    let s := { s with m := { f.2 with test := t } }
    if t.holds && !was then s.instReset else s)

/-- What a domain's segment of the IEEE 1687 network shows (R478): junction temperature, the rail voltage in 4 mV codes, whether its
memory test runs and whether the last start request reads NOT_ALLOWED, and for each of its links what its last training found. -/
structure Segment where
  temp    : Nat
  volt    : Nat
  running : Bool
  refused : Bool
  links   : List (Nat × BitVec 9 × BitVec 9 × Bool)
deriving DecidableEq, Repr

def Mach.segment (m : Mach) (d : Nat) : Segment :=
  { temp := Config.dieTemp d m.clk.aon,
    volt := match (m.dom d).feed with
      | 1 => m.pwr.volA
      | 2 => m.pwr.volB
      | _ => 0,
    running := m.test.run.contains d, refused := m.test.refus.contains d,
    links := if 128 ≤ d then []
      else [0, 1, 2, 3].filterMap (fun i => (linkAt d i).map (fun n => (n, Tab.get dNoTrain m.test.train n))) }

/-- Whether a domain's segment is in the chain between TDI and TDO: bit 132 is the always-on domain's, bit 133 that of the always-on
instruments. -/
def Mach.inserted (m : Mach) (d : Nat) : Bool := decide (m.test.tap = 0x10) && bt m.test.sib d

/-- MEMORY_TEST_START (R478): through the network that INST_ACCESS selects; refused with NOT_ALLOWED unless the domain is
FENCED. -/
def execMemoryTestStart (d : Dom) (s : State) : Out :=
  s.on (fun m =>
    let t := m.test
    if t.tap ≠ 0x10 then m
    else if (m.dom d).st = .fenced then
      { m with test := { t with run := if t.run.contains d.val then t.run else t.run ++ [d.val], refus := t.refus.filter (fun k => k ≠ d.val) } }
    else { m with test := { t with refus := if t.refus.contains d.val then t.refus else t.refus ++ [d.val] } })

/-- A 64 B line of free words, and the machine after them. -/
def Mach.freeLine (m : Mach) : FlitBits × Mach :=
  (List.range 8).foldl (fun r i => (r.1 ||| mkf 512 (64 * i) 64 (Config.freeWord (r.2.frees)).toNat, { r.2 with frees := r.2.frees + 1 })) (0, m)

/-- A list whose elements a function replaces, drawing free values as it goes. -/
def freeList {α : Type} (f : α → Mach → α × Mach) : List α → Mach → List α × Mach
  | [], m => ([], m)
  | a :: l, m =>
    let r := f a m
    let q := freeList f l r.2
    (r.1 :: q.1, q.2)

/-- A flit, a packet, a cell and a flit of an exit stage whose contents are undefined. -/
def freeFlit (f : Flit) (m : Mach) : Flit × Mach := let r := m.freeLine
  ({ f with bits := r.1 }, r.2)
def freePkt (p : Pkt) (m : Mach) : Pkt × Mach :=
  let h := m.freeLine
  let d := freeList (fun _ m => m.freeLine) p.data h.2
  ({ p with hd := h.1, data := d.1 }, d.2)
def freeCell (c : Cell) (m : Mach) : Cell × Mach := let r := freeList freeFlit c.flits m
  ({ c with flits := r.1 }, r.2)

def freeExit (x : Flit × Nat × Nat) (m : Mach) : (Flit × Nat × Nat) × Mach := let r := freeFlit x.1 m
  ((r.1, x.2), r.2)

/-- A beat and a response of the response channel whose contents are undefined. -/
def freeBeat (m : Mach) : BeatBits × Mach := let r := m.freeLine
  (r.1.extractLsb' 0 256, r.2)
def freeRsp (p : Rsp) (m : Mach) : Rsp × Mach := let r := freeList (fun _ m => freeBeat m) p.beats m
  ({ p with beats := r.1 }, r.2)

/-- The flow cache and the atomic result cache of an NIU after a memory test (R478): their contents are undefined. -/
def Mach.scramble (m : Mach) (n : Nat) : Mach :=
  (m.niu n).fc.foldl (fun m e =>
    let r := m.freeLine
    r.2.modNiu n (fun x => x.modEntry e.flow (fun e => { e with ent := r.1 })))
    ((m.niu n).atoms.foldl (fun m i =>
      let r := m.freeLine
      r.2.modNiu n (fun x => { x with atoms := x.atoms.map (fun a => if a = i then (r.1.extractLsb' 0 16, r.1.extractLsb' 16 16, r.1.extractLsb' 64 64) else a) })) m)

/-- The other buffers of an NIU after a memory test: ingress buffer, flow-miss queue, injection spaces, packet store, what waits to be
presented, packets that reassembly contexts hold, the packets of a flow reset that keep their slots, beats on the two channels, ejection
VCs. -/
def Mach.scrambleBufs (m : Mach) (n : Nat) : Mach :=
  let x := m.niu n
  let i := freeList (fun (b : Beat) m => let r := m.freeLine
    ({ b with bits := r.1.extractLsb' 0 256 }, r.2)) x.ingress m
  let p := freeList (fun (p : InjP) m => let r := freePkt p.pkt m
    ({ p with pkt := r.1 }, r.2)) x.inj i.2
  let q := freeList (fun (p : RspP) m => let r := freePkt p.pkt m
    ({ p with pkt := r.1 }, r.2)) x.rspInj p.2
  let s := freeList freePkt x.store q.2
  let y := freeList (fun (p : Pres) m => let r := freePkt p.pkt m
    ({ p with pkt := r.1 }, r.2)) x.ready s.2
  let e := freeList (fun (v : Nat × List Flit) m => let r := freeList freeFlit v.2 m
    ((v.1, r.1), r.2)) x.ej y.2
  let c := freeList (fun (c : Ctx) m => let r := freeList freePkt c.pkts m
    ({ c with pkts := r.1 }, r.2)) x.ctxs e.2
  let o := freeList (fun (p : Pkt × Nat) m => let r := freePkt p.1 m
    ((r.1, p.2), r.2)) x.owed c.2
  let r := freeList (fun (q : Req) m => let r := freeList (fun _ m => freeBeat m) q.beats m
    ({ q with beats := r.1 }, r.2)) x.reqs o.2
  let a := freeList freeRsp x.rspq r.2
  let t := freeList (fun (t : Nat × List BeatBits) m => let r := freeList (fun _ m => freeBeat m) t.2 m
    ((t.1, r.1), r.2)) x.treq.toList a.2
  t.2.modNiu n (fun x =>
    { x with ingress := i.1, inj := p.1, rspInj := q.1, store := s.1, ready := y.1, ej := e.1, ctxs := c.1, owed := o.1, reqs := r.1,
             rspq := a.1, treq := t.1.head? })

/-- The packets that the nodes of a combine unit hold after a memory test (R293): contributions, accumulator, the result kept. -/
def Mach.scrambleNode (m : Mach) (t g : Nat) : Mach :=
  match m.node t g with
  | none => m
  | some x =>
    let h := freeList (fun (c : Nat × Nat × Pkt) m => let r := freePkt c.2.2 m
      ((c.1, c.2.1, r.1), r.2)) x.held m
    let a := freeList freePkt x.acc.toList h.2
    let k := freeList freePkt x.kept.toList a.2
    k.2.setNode t g (some { x with held := h.1, acc := a.1.head?, kept := k.1.head? })

/-- The replay buffer of a link direction after a memory test (R192): it lies with the sender (R27). -/
def Mach.scrambleDir (m : Mach) (l : Nat) : Mach :=
  let r := freeList (fun (s : Slot) m =>
    let r := freeList freeFlit s.flit.toList m
    ({ s with flit := r.1.head? }, r.2)) (m.dir l).sent m
  if r.1.isEmpty then m else r.2.modDir l (fun d => { d with sent := r.1 })

/-- The VC buffers of a router, its replay buffers, and the packets that its combine unit holds, after a memory test. -/
def Mach.scrambleRouter (m : Mach) (t : Nat) : Mach :=
  let m := (List.range 96).foldl (fun m k =>
    let r := freeList freeFlit (m.vc (96 * t + k)).q m
    if r.1.isEmpty then m else r.2.modVc (96 * t + k) (fun b => { b with q := r.1 })) m
  let r := freeList (fun (c : Nat × Nat × Pkt) m => let r := freePkt c.2.2 m
    ((c.1, c.2.1, r.1), r.2)) (m.cbUnit t).inq m
  let p := freeList (fun (v : Nat × List Flit) m => let r := freeList freeFlit v.2 m
    ((v.1, r.1), r.2)) (m.cbUnit t).part r.2
  let o := freeList (fun (c : CbOut) m => let r := freeList freeFlit c.fl m
    ({ c with fl := r.1 }, r.2)) (m.cbUnit t).outq p.2
  let m := if r.1.isEmpty && p.1.isEmpty && o.1.isEmpty then m
    else o.2.modCbu t (fun u => { u with inq := r.1, part := p.1, outq := o.1 })
  let m := (List.range 256).foldl (fun m g => m.scrambleNode t g) m
  ((List.range 4).filterMap (fun d => dirOut t d)).foldl Mach.scrambleDir m

/-- The buffers of a station after a memory test. -/
def Mach.scrambleStn (m : Mach) (p : Nat) : Mach :=
  let e := freeList (fun (v : Nat × List Flit) m => let r := freeList freeFlit v.2 m
    ((v.1, r.1), r.2)) (m.stn p).entry m
  let q := freeList (fun (v : Nat × List Cell) m => let r := freeList freeCell v.2 m
    ((v.1, r.1), r.2)) (m.stn p).q e.2
  let o := freeList (fun (v : Nat × List (Flit × Nat × Nat)) m => let r := freeList freeExit v.2 m
    ((v.1, r.1), r.2)) (m.stn p).exit q.2
  o.2.modStn p (fun x => { x with entry := e.1, q := q.1, exit := o.1 })

/-- The master's SRAM after a memory test. -/
def Mach.scrambleSram (m : Mach) : Mach :=
  (List.range 8192).foldl (fun m i =>
    { m with frees := m.frees + 1 }.modEng 0 (fun x => x.store (8 * i) (Config.freeWord m.frees))) m

/-- MEMORY_TEST_DONE (R478, R314): what the domain's buffers and SRAM held is undefined; the SRAM of a quadrant engine is cleared as at
power-up. -/
def execMemoryTestDone (d : Dom) (s : State) : Out :=
  s.on (fun m =>
    if !m.test.run.contains d.val then m
    else
      let m := { m with test := { m.test with run := m.test.run.filter (fun k => k ≠ d.val) } }
      if d.val < 128 then (domNius d).foldl (fun m n => (m.scramble n).scrambleBufs n) (m.scrambleRouter d.val)
      else if d.val < 132 then
        ((List.range 8).foldl (fun m i => m.scrambleStn (8 * (d.val - 128) + i)) m).modEng (d.val - 127) (fun x => { x with sram := [], bad := [], soft := [] })
      else m.scrambleSram)

/-- SCAN_MODE_CHANGE (R465): while it is 1 the instance performs no function. -/
def execScanModeChange (level : Bool) (s : State) : Out :=
  .next { s with m := { s.m with test := { s.m.test with scan := level } } }

end Sys2Proof.Machine
end

