-- ==== Sys2Proof/Machine/Dispatch.lean ====
section
/-! DEFINITION. One arm per command, each one direct call of its meaning. -/

namespace Sys2Proof.Machine

def exec (i : Instr) (s : State) : Host.Outcome State Fault Refusal :=
  match i with
  | .nop e => Sys2Proof.Machine.execNop e s
  | .halt e => Sys2Proof.Machine.execHalt e s
  | .jmp e => Sys2Proof.Machine.execJmp e s
  | .jcc e => Sys2Proof.Machine.execJcc e s
  | .call e => Sys2Proof.Machine.execCall e s
  | .ret e => Sys2Proof.Machine.execRet e s
  | .loop e => Sys2Proof.Machine.execLoop e s
  | .trap e => Sys2Proof.Machine.execTrap e s
  | .movi e => Sys2Proof.Machine.execMovi e s
  | .mov e => Sys2Proof.Machine.execMov e s
  | .add e => Sys2Proof.Machine.execAdd e s
  | .sub e => Sys2Proof.Machine.execSub e s
  | .and e => Sys2Proof.Machine.execAnd e s
  | .or e => Sys2Proof.Machine.execOr e s
  | .xor e => Sys2Proof.Machine.execXor e s
  | .shl e => Sys2Proof.Machine.execShl e s
  | .shr e => Sys2Proof.Machine.execShr e s
  | .cmp e => Sys2Proof.Machine.execCmp e s
  | .min e => Sys2Proof.Machine.execMin e s
  | .max e => Sys2Proof.Machine.execMax e s
  | .lds e => Sys2Proof.Machine.execLds e s
  | .sts e => Sys2Proof.Machine.execSts e s
  | .ldx e => Sys2Proof.Machine.execLdx e s
  | .stx e => Sys2Proof.Machine.execStx e s
  | .rdreg e => Sys2Proof.Machine.execRdreg e s
  | .wrreg e => Sys2Proof.Machine.execWrreg e s
  | .fenceE e => Sys2Proof.Machine.execFenceE e s
  | .ftget e => Sys2Proof.Machine.execFtget e s
  | .waitft e => Sys2Proof.Machine.execWaitft e s
  | .waitev e => Sys2Proof.Machine.execWaitev e s
  | .rtLoad e first => Sys2Proof.Machine.execRtLoad e first s
  | .rtEpoch e => Sys2Proof.Machine.execRtEpoch e s
  | .rtRetire e => Sys2Proof.Machine.execRtRetire e s
  | .linkExcl e => Sys2Proof.Machine.execLinkExcl e s
  | .linkIncl e => Sys2Proof.Machine.execLinkIncl e s
  | .laneMap e => Sys2Proof.Machine.execLaneMap e s
  | .spSched e => Sys2Proof.Machine.execSpSched e s
  | .spPortOff e => Sys2Proof.Machine.execSpPortOff e s
  | .spPortOn e => Sys2Proof.Machine.execSpPortOn e s
  | .spThresh e => Sys2Proof.Machine.execSpThresh e s
  | .domDrain e => Sys2Proof.Machine.execDomDrain e s
  | .domFence e => Sys2Proof.Machine.execDomFence e s
  | .domOff e => Sys2Proof.Machine.execDomOff e s
  | .domOn e => Sys2Proof.Machine.execDomOn e s
  | .domUnfence e => Sys2Proof.Machine.execDomUnfence e s
  | .domFeed e => Sys2Proof.Machine.execDomFeed e s
  | .domStat e => Sys2Proof.Machine.execDomStat e s
  | .flInv e => Sys2Proof.Machine.execFlInv e s
  | .flFlush e => Sys2Proof.Machine.execFlFlush e s
  | .flFlushHold e => Sys2Proof.Machine.execFlFlushHold e s
  | .flPin e => Sys2Proof.Machine.execFlPin e s
  | .flUnpin e => Sys2Proof.Machine.execFlUnpin e s
  | .shSet e => Sys2Proof.Machine.execShSet e s
  | .shGet e => Sys2Proof.Machine.execShGet e s
  | .gtLoad e => Sys2Proof.Machine.execGtLoad e s
  | .gtArm e => Sys2Proof.Machine.execGtArm e s
  | .gtStat e => Sys2Proof.Machine.execGtStat e s
  | .admResv e => Sys2Proof.Machine.execAdmResv e s
  | .admFree e => Sys2Proof.Machine.execAdmFree e s
  | .cbGroup e => Sys2Proof.Machine.execCbGroup e s
  | .cbFree e => Sys2Proof.Machine.execCbFree e s
  | .gdSet e => Sys2Proof.Machine.execGdSet e s
  | .gdSetDefault e => Sys2Proof.Machine.execGdSetDefault e s
  | .gdLock e => Sys2Proof.Machine.execGdLock e s
  | .gdSync e => Sys2Proof.Machine.execGdSync e s
  | .plDetach e => Sys2Proof.Machine.execPlDetach e s
  | .plAttach e => Sys2Proof.Machine.execPlAttach e s
  | .plMigrate e => Sys2Proof.Machine.execPlMigrate e s
  | .pcCfg e => Sys2Proof.Machine.execPcCfg e s
  | .pcRead e => Sys2Proof.Machine.execPcRead e s
  | .smpCfg e => Sys2Proof.Machine.execSmpCfg e s
  | .mirCfg e => Sys2Proof.Machine.execMirCfg e s
  | .post e => Sys2Proof.Machine.execPost e s
  | .irq e => Sys2Proof.Machine.execIrq e s
  | .fltClr e => Sys2Proof.Machine.execFltClr e s
  | .fltClrAll e => Sys2Proof.Machine.execFltClrAll e s
  | .cap e => Sys2Proof.Machine.execCap e s
  | .instructionLimitExpiry e => Sys2Proof.Machine.execInstructionLimitExpiry e s
  | .waitftComplete e => Sys2Proof.Machine.execWaitftComplete e s
  | .waitevRecord e => Sys2Proof.Machine.execWaitevRecord e s
  | .epochSnapshot => Sys2Proof.Machine.execEpochSnapshot s
  | .stationDisabled p => Sys2Proof.Machine.execStationDisabled p s
  | .stationEnable p => Sys2Proof.Machine.execStationEnable p s
  | .gdSyncComplete ep => Sys2Proof.Machine.execGdSyncComplete ep s
  | .domainDrained d => Sys2Proof.Machine.execDomainDrained d s
  | .domainFenced d => Sys2Proof.Machine.execDomainFenced d s
  | .cbFreeComplete g => Sys2Proof.Machine.execCbFreeComplete g s
  | .flowCopyDropped n flow => Sys2Proof.Machine.execFlowCopyDropped n flow s
  | .engLaunch e v priv mid => Sys2Proof.Machine.execEngLaunch e v priv mid s
  | .engStop e v priv mid => Sys2Proof.Machine.execEngStop e v priv mid s
  | .engEvtIn e v priv mid => Sys2Proof.Machine.execEngEvtIn e v priv mid s
  | .engSramAccess e write priv mid => Sys2Proof.Machine.execEngSramAccess e write priv mid s
  | .mbxAck v priv mid => Sys2Proof.Machine.execMbxAck v priv mid s
  | .admBrqPop v priv mid => Sys2Proof.Machine.execAdmBrqPop v priv mid s
  | .gdLogPop ep v priv mid => Sys2Proof.Machine.execGdLogPop ep v priv mid s
  | .clrMeas d v priv mid => Sys2Proof.Machine.execClrMeas d v priv mid s
  | .fltSafeEnter v priv mid => Sys2Proof.Machine.execFltSafeEnter v priv mid s
  | .fltSafeExit v priv mid => Sys2Proof.Machine.execFltSafeExit v priv mid s
  | .mirConsWrite v priv mid => Sys2Proof.Machine.execMirConsWrite v priv mid s
  | .flowTblWrite v => Sys2Proof.Machine.execFlowTblWrite v s
  | .pwrCfgNomWrite v => Sys2Proof.Machine.execPwrCfgNomWrite v s
  | .clearingRead a priv mid => Sys2Proof.Machine.execClearingRead a priv mid s
  | .registerWrite a v priv mid => Sys2Proof.Machine.execRegisterWrite a v priv mid s
  | .rpFarAccess a write priv mid => Sys2Proof.Machine.execRpFarAccess a write priv mid s
  | .rpFarResponse => Sys2Proof.Machine.execRpFarResponse s
  | .hungTargetRecord => Sys2Proof.Machine.execHungTargetRecord s
  | .reqHeaderBeat ep data last dbg sub => Sys2Proof.Machine.execReqHeaderBeat ep data last dbg sub s
  | .reqDataBeat ep data last sub => Sys2Proof.Machine.execReqDataBeat ep data last sub s
  | .barrierBeat ep kind sub => Sys2Proof.Machine.execBarrierBeat ep kind sub s
  | .barrierComplete ep => Sys2Proof.Machine.execBarrierComplete ep s
  | .epAbort ep level => Sys2Proof.Machine.execEpAbort ep level s
  | .epRstAssert ep => Sys2Proof.Machine.execEpRstAssert ep s
  | .epRstRelease ep inc => Sys2Proof.Machine.execEpRstRelease ep inc s
  | .epIncChange ep inc => Sys2Proof.Machine.execEpIncChange ep inc s
  | .spGrantChange ep req => Sys2Proof.Machine.execSpGrantChange ep req s
  | .starveLimitReached ep sub => Sys2Proof.Machine.execStarveLimitReached ep sub s
  | .rspBeatAccept ep => Sys2Proof.Machine.execRspBeatAccept ep s
  | .treqBeatAccept ep => Sys2Proof.Machine.execTreqBeatAccept ep s
  | .trspBeat ep data last => Sys2Proof.Machine.execTrspBeat ep data last s
  | .ingressTake ep => Sys2Proof.Machine.execIngressTake ep s
  | .flowFillResponse q => Sys2Proof.Machine.execFlowFillResponse q s
  | .packetRelease n => Sys2Proof.Machine.execPacketRelease n s
  | .retxDeadline n flow seq => Sys2Proof.Machine.execRetxDeadline n flow seq s
  | .packetEject ep vc => Sys2Proof.Machine.execPacketEject ep vc s
  | .targetPresent ep => Sys2Proof.Machine.execTargetPresent ep s
  | .responseArrival n vc => Sys2Proof.Machine.execResponseArrival n vc s
  | .reasmTimeout ep flow src msg => Sys2Proof.Machine.execReasmTimeout ep flow src msg s
  | .linkSlotReceive d ctlErr sliceErr => Sys2Proof.Machine.execLinkSlotReceive d ctlErr sliceErr s
  | .nakReceive d => Sys2Proof.Machine.execNakReceive d s
  | .lreqReceive d => Sys2Proof.Machine.execLreqReceive d s
  | .lmapReceive d => Sys2Proof.Machine.execLmapReceive d s
  | .sliceThreshold d slice => Sys2Proof.Machine.execSliceThreshold d slice s
  | .linkTrainingDone n fwd back ctlBad => Sys2Proof.Machine.execLinkTrainingDone n fwd back ctlBad s
  | .routerSwitch t out => Sys2Proof.Machine.execRouterSwitch t out s
  | .rotorSlot => Sys2Proof.Machine.execRotorSlot s
  | .exitStagePass p => Sys2Proof.Machine.execExitStagePass p s
  | .gridMark => Sys2Proof.Machine.execGridMark s
  | .stationDead p => Sys2Proof.Machine.execStationDead p s
  | .refillTick => Sys2Proof.Machine.execRefillTick s
  | .admissionRecheck => Sys2Proof.Machine.execAdmissionRecheck s
  | .gateTakeover ep => Sys2Proof.Machine.execGateTakeover ep s
  | .gateEntryChange ep => Sys2Proof.Machine.execGateEntryChange ep s
  | .tpOffer time crc valid since => Sys2Proof.Machine.execTpOffer time crc valid since s
  | .holdoverEntry => Sys2Proof.Machine.execHoldoverEntry s
  | .freezeEnd => Sys2Proof.Machine.execFreezeEnd s
  | .combineRedArrival t => Sys2Proof.Machine.execCombineRedArrival t s
  | .combinePartialArrival t => Sys2Proof.Machine.execCombinePartialArrival t s
  | .combineResultArrival t => Sys2Proof.Machine.execCombineResultArrival t s
  | .collectTimeout t g => Sys2Proof.Machine.execCollectTimeout t g s
  | .sentTimeout t g => Sys2Proof.Machine.execSentTimeout t g s
  | .twinFrameReceive data ctl crc => Sys2Proof.Machine.execTwinFrameReceive data ctl crc s
  | .srecApply => Sys2Proof.Machine.execSrecApply s
  | .retireApply => Sys2Proof.Machine.execRetireApply s
  | .rxmarkApply => Sys2Proof.Machine.execRxmarkApply s
  | .atomApply => Sys2Proof.Machine.execAtomApply s
  | .orelApply => Sys2Proof.Machine.execOrelApply s
  | .fstateApply => Sys2Proof.Machine.execFstateApply s
  | .copyApply => Sys2Proof.Machine.execCopyApply s
  | .hbSend => Sys2Proof.Machine.execHbSend s
  | .hbReceive => Sys2Proof.Machine.execHbReceive s
  | .hbMissed live => Sys2Proof.Machine.execHbMissed live s
  | .twinLinkTrained fresh variant plane => Sys2Proof.Machine.execTwinLinkTrained fresh variant plane s
  | .twinAbsentTimeout => Sys2Proof.Machine.execTwinAbsentTimeout s
  | .noticeAnswered ep => Sys2Proof.Machine.execNoticeAnswered ep s
  | .flushHandshakeDone ep => Sys2Proof.Machine.execFlushHandshakeDone ep s
  | .porAssert => Sys2Proof.Machine.execPorAssert s
  | .startupT0 => Sys2Proof.Machine.execStartupT0 s
  | .aonResetRelease tpFlag => Sys2Proof.Machine.execAonResetRelease tpFlag s
  | .startupReady => Sys2Proof.Machine.execStartupReady s
  | .rampAdmit d => Sys2Proof.Machine.execRampAdmit d s
  | .powerGoodRise d m => Sys2Proof.Machine.execPowerGoodRise d m s
  | .powerGoodFall d m => Sys2Proof.Machine.execPowerGoodFall d m s
  | .domainResetRelease d => Sys2Proof.Machine.execDomainResetRelease d s
  | .domainInitDone d => Sys2Proof.Machine.execDomainInitDone d s
  | .feedChangeover d => Sys2Proof.Machine.execFeedChangeover d s
  | .feedReturn d => Sys2Proof.Machine.execFeedReturn d s
  | .feedWarnRaise d => Sys2Proof.Machine.execFeedWarnRaise d s
  | .feedWarnEnd d => Sys2Proof.Machine.execFeedWarnEnd d s
  | .supplyLoss d => Sys2Proof.Machine.execSupplyLoss d s
  | .fastTrip d m => Sys2Proof.Machine.execFastTrip d m s
  | .sliceLimitEnter d slice m => Sys2Proof.Machine.execSliceLimitEnter d slice m s
  | .timerTrip d => Sys2Proof.Machine.execTimerTrip d s
  | .retryTimer d => Sys2Proof.Machine.execRetryTimer d s
  | .retryReload d => Sys2Proof.Machine.execRetryReload d s
  | .clockModeChange code => Sys2Proof.Machine.execClockModeChange code s
  | .fclkStopDetect => Sys2Proof.Machine.execFclkStopDetect s
  | .aonStopDetect => Sys2Proof.Machine.execAonStopDetect s
  | .clockRestart aon => Sys2Proof.Machine.execClockRestart aon s
  | .eventChannelTransfer toAon chan => Sys2Proof.Machine.execEventChannelTransfer toAon chan s
  | .fuParityFail => Sys2Proof.Machine.execFuParityFail s
  | .safeStateAct u => Sys2Proof.Machine.execSafeStateAct u s
  | .errPulseEnd => Sys2Proof.Machine.execErrPulseEnd s
  | .counterWrap c => Sys2Proof.Machine.execCounterWrap c s
  | .samplerSample k => Sys2Proof.Machine.execSamplerSample k s
  | .fetchResponse e => Sys2Proof.Machine.execFetchResponse e s
  | .fabricInstructionCompletion e => Sys2Proof.Machine.execFabricInstructionCompletion e s
  | .epochBroadcastArrival u => Sys2Proof.Machine.execEpochBroadcastArrival u s
  | .powerGoodDeadline d => Sys2Proof.Machine.execPowerGoodDeadline d s
  | .sliceLimitLeave d slice => Sys2Proof.Machine.execSliceLimitLeave d slice s
  | .feedValidityChange b valid => Sys2Proof.Machine.execFeedValidityChange b valid s
  | .nomBlankEnd => Sys2Proof.Machine.execNomBlankEnd s
  | .epStopHoldEnd ep => Sys2Proof.Machine.execEpStopHoldEnd ep s
  | .lreqRepeat d => Sys2Proof.Machine.execLreqRepeat d s
  | .tapInstructionChange op => Sys2Proof.Machine.execTapInstructionChange op s
  | .memoryTestStart d => Sys2Proof.Machine.execMemoryTestStart d s
  | .memoryTestDone d => Sys2Proof.Machine.execMemoryTestDone d s
  | .scanModeChange level => Sys2Proof.Machine.execScanModeChange level s

end Sys2Proof.Machine
end

