-- ==== Sys2Proof/Machine/Tick.lean ====
section
/-! DEFINITION. One FCLK cycle with no command waiting (log entry 3): what happens at a clock edge whatever is commanded. -/

namespace Sys2Proof.Machine

/-- A head that waits at a router: tile, input, VC, the output it asks for, its flit. -/
abbrev Waiting := Nat × Nat × Nat × Nat × Flit

/-- The head at the front of an input VC, by the VC's key. -/
def Mach.headAt (m : Mach) (k : Nat) : Option Waiting :=
  match m.wantsOut (k / 96) (k / 12 % 8) (k % 12) with
  | some (o, f) => if f.head then some (k / 96, k / 12 % 8, k % 12, o, f) else none
  | none => none

/-- The heads at the front of what the combine unit of a tile sends to its outputs. -/
def Mach.cbHeads (m : Mach) (t : Nat) : List Waiting :=
  if (m.cbUnit t).outq.isEmpty then []
  else (List.range 6).flatMap (fun out => (List.range 12).filterMap (fun vc =>
    ((m.cbHead t out vc).bind (fun r => r.2.fl.head?)).bind (fun f => if f.head then some (t, 7, vc, out, f) else none)))

/-- Cycles that routers count (R438, KIND 0): in which a head has lost switch allocation (R162), and in which one that has not waits for a
free VC or credit (R161). -/
def Mach.routerCycle (m : Mach) : Mach :=
  if m.tele.owner.isEmpty then m
  else
    let l := (m.rin.map Prod.fst).filterMap m.headAt ++ (m.cbu.map Prod.fst).flatMap m.cbHeads
    let beaten (w : Waiting) : Bool := m.tele.lost.contains (w.1, w.2.1, w.2.2.1, w.2.2.2.1)
    let lost := l.filter beaten
    let blocked := l.filter (fun w => !beaten w && !m.vcFree w.1 w.2.2.2.1 w.2.2.1 w.2.2.2.2)
    (List.range 128).foldl (fun m t =>
      let m := m.countCycle (ctrRouter t) 8 4 ((lost.filter (fun w => w.1 == t)).map (fun w => (some w.2.1, some (vcTc w.2.2.1), w.2.2.2.2.bits)))
      let m := m.countCycle (ctrRouter t) 8 5 ((blocked.filter (fun w => w.1 == t)).map (fun w => (some w.2.2.2.1, some (vcTc w.2.2.1), w.2.2.2.2.bits)))
      if m.domLive t then m.countRtr t 0x0A none none 0 else m) m

/-- Whether a head that has waited so many cycles is raised to level 3 now (R162, R438). -/
def Mach.rises (m : Mach) (t vc wait : Nat) : Bool :=
  let age := m.fld (aTile t 8) 16 8
  decide (age ≠ 0 ∧ wait + 1 = age * 16 ∧ 2 ≤ vcLevel vc)

/-- The head at the front of an input VC waits one more cycle (R162). `k` is the key of the VC. -/
def Mach.headCycle (m : Mach) (k : Nat) : Mach :=
  match m.headAt k with
  | none => m
  | some (t, _, vc, _, f) =>
    let n := if m.rises t vc (m.vc k).wait then m.countRtr t 6 none (some (vcTc vc)) f.bits else m
    n.modVc k (fun b => { b with wait := b.wait + 1 })

/-- The head at the front of what a combine unit sends to an output in a VC waits one more cycle (R162). -/
def Mach.cbHeadCycle (m : Mach) (t out vc : Nat) : Mach :=
  match m.cbHead t out vc with
  | none => m
  | some (i, r) =>
    match r.fl.head? with
    | none => m
    | some f =>
      if !f.head then m
      else
        let n := if m.rises t vc r.wait then m.countRtr t 6 none (some (vcTc vc)) f.bits else m
        n.modCbu t (fun u => { u with outq := modAt (fun x => { x with wait := x.wait + 1 }) u.outq i })

/-- Every combine unit with something to send. -/
def Mach.cbCycle (m : Mach) : Mach :=
  (m.cbu.map Prod.fst).foldl (fun m t =>
    if (m.cbUnit t).outq.isEmpty then m
    else (List.range 6).foldl (fun m out => (List.range 12).foldl (fun m vc => m.cbHeadCycle t out vc) m) m) m

/-- At the end of a cycle a flit that has not left its input register is written into its VC buffer, one of the CB input into the combine
unit's buffers (R159, R293), and the heads that lost in the cycle are counted. -/
def Mach.regsEnd (m : Mach) : Mach :=
  { m with rin := Tab.mapv dVc (fun _ b => { b with inReg := false }) m.rin, cbu := Tab.mapv dCbu (fun _ u => u.freeReg) m.cbu,
           tele := { m.tele with lost := [] } }

/-- What the counters of an NIU count per cycle (R438): cycles in which a shaper, or a closed gate, holds packets back, responses among
them. -/
def Mach.niuCycle (m : Mach) (n : Nat) : Mach :=
  if 512 ≤ n then m else
  let x := m.niu n
  let short := (List.range 64).filterMap (fun k =>
    match x.inj.find? (fun p => p.shp == k) with
    | some p => if (x.shaper n k).may then none else some (some k, none, p.pkt.hd)
    | none => none)
  let heads := (m.queueHeads n).map (fun q => q.2.pkt.hd) ++ [2, 1, 0].filterMap (fun tc => (m.rspHead n tc).map (fun r => r.2.pkt.hd))
  let shut := (heads.filter (fun h => decide (m.gateFor n h = .closed))).map (fun h => (none, some (hTc h), h))
  (m.countCycle (ctrNiu n) 8 5 short).countCycle (ctrNiu n) 8 6 shut

/-- What waits in an NIU for room elsewhere is tried again: missing entries, entries to be dropped (R237, R240), packets that the
end of a gate holds back (R272). -/
def Mach.niuRetry (m : Mach) (n : Nat) : Mach :=
  if !m.domLive (epTile n) then m
  else
    let m := ((m.niu n).fc.filter FcE.drop).foldl (fun m e => m.dropEntry n e.flow) m
    (m.settleFlows n).markShort n

/-- One FCLK cycle of an engine: prefetch (R316), its limit (R341), its counters (R438). -/
def Mach.engCycle (m : Mach) (e : Nat) : Mach :=
  let m := m.prefetch e
  let x := m.eng e
  let m := if x.state = .waiting then m.modEng e (fun x => { x with limit := x.limit.map (· - 1) }) else m
  let m := if x.state = .waiting then m.count (ctrEng e) 4 3 none none 1 0 else m
  if x.state = .waiting ∨ x.state = .running then m.count (ctrEng e) 4 1 none none 1 0 else m

/-- One cycle of the AON clock: tw_o_live toggles every 10 while the twin unit has power (R406). -/
def Mach.aonTick (m : Mach) : Mach :=
  let c := m.clk.aon + 1
  let m := { m with clk := { m.clk with aon := c, ph := 0 } }
  if c % 10 = 0 ∧ m.pwr.aonUp = true then m.modTwin (fun x => { x with oLive := !x.oLive }) else m

/-- FCLK cycle `c` ends: a frame of the twin link leaves at each edge of the frame clock, which is FCLK/4 (R406, R407), and with the
last FCLK cycle of an AON cycle that cycle ends. -/
def Mach.clockEnd (m : Mach) (c : Nat) : Mach :=
  let m := if c % 4 = 0 ∧ m.pwr.aonUp = true then m.twinEdge else m
  let m := { m with clk := { m.clk with cyc := c, ph := m.clk.ph + 1 } }
  if usCycles m.clk.mode / 100 ≤ m.clk.ph ∧ m.clk.astop = false then m.aonTick else m

/-- One FCLK cycle of the machine. -/
def Mach.tick (m : Mach) : Mach :=
  let m := ((m.rin.map Prod.fst).foldl Mach.headCycle m.routerCycle).regsEnd.cbCycle
  let m := if m.tele.owner.isEmpty then m else (m.nius.map Prod.fst).foldl Mach.niuCycle m
  let m := (m.nius.map Prod.fst).foldl Mach.niuRetry m
  let m := [0, 1, 2, 3].foldl (fun m q => m.pumpMirror q 8) m
  let m := [0, 1, 2, 3, 4].foldl Mach.engCycle m
  let m := if m.pwr.aonUp then (m.modKeep (Keeper.tick (fclkUnits m.clk.mode))).sweepOne else m
  let m := if m.spineUp then m.modSpine (fun s => { s with cyc := s.cyc + 1 }) else m
  let c := m.clk.cyc + 1
  let m := m.clockEnd c
  if c % 65536 = 0 then { m with dirs := Tab.mapv dDir (fun _ d => { d with errs := [0, 0, 0, 0, 0, 0, 0, 0, 0] }) m.dirs } else m

/-- A response at the register port is presented for one cycle (R466, R468): to the end of the cycle in hand, RCLK being no clock of the
model's (DESIGN CHOICE, log entry 158). -/
def Mach.rspEnd (m : Mach) : Mach := m.modRp (fun r => { r with rsp := none, rspFar := false })

/-- One FCLK cycle; while FCLK stands still one cycle of the AON clock, if that runs (R427). In scan mode nothing happens (R465). -/
def State.tick (s : State) : State :=
  if s.m.test.scan then s
  else if !s.m.clk.fstop then { s with m := s.m.rspEnd.tick }
  else if s.m.clk.astop then { s with m := s.m.rspEnd }
  else { s with m := s.m.rspEnd.aonTick }

end Sys2Proof.Machine
end

