-- ==== Sys2Proof/Safety.lean ====
section
/-! DEFINITION. The terms that claims are stated in: what an engine issues, what a command does to the machine and leaves alone,
and the canonical form of the guard configuration. -/

namespace Sys2Proof.Machine

/-- The addresses of the counters' registers (R450). -/
def ctrAddr (a : Nat) : Bool := decide (0x400000 ≤ a ∧ a < 0x440000)

/-- A machine without the tables that `Like` compares by what they read as, and without the wraps of its counters
and the heads noted for them. -/
def Mach.bare (m : Mach) : Mach :=
  { m with regs := [], engs := [], nius := [], rin := [], rout := [], arb := [], links := [], dirs := [], cb := [], cbu := [],
           tele := { m.tele with wraps := [], wrapPc := [], lost := [] }, pwr := { m.pwr with doms := [] }, spine := { m.spine with stn := [] } }

/-- Two machines differ in their performance counters only (R436 to R440): every other register and every unit reads the same,
and everything else is the same. -/
structure Mach.Like (a m : Mach) : Prop where
  reg    : ∀ k, ctrAddr k = false → a.reg k = m.reg k
  eng    : ∀ e, a.eng e = m.eng e
  niu    : ∀ n, a.niu n = m.niu n
  vc     : ∀ k, a.vc k = m.vc k
  outVc  : ∀ k, a.outVc k = m.outVc k
  arb    : ∀ k, a.arbOf k = m.arbOf k
  link   : ∀ n, a.link n = m.link n
  dir    : ∀ l, a.dir l = m.dir l
  node   : ∀ t g, a.node t g = m.node t g
  cbUnit : ∀ t, a.cbUnit t = m.cbUnit t
  dom    : ∀ d, a.dom d = m.dom d
  stn    : ∀ p, a.stn p = m.stn p
  bare   : a.bare = m.bare

/-- Engine `e` issues the word `w`, a defined instruction with opcode `opc` (R338, R339), outside scan mode. -/
def Issues (s : State) (e : Nat) (w : Word) (opc : Nat) : Prop :=
  s.m.test.scan = false ∧ s.m.fetch e = .word w ∧ wOpc w = opc ∧ legalWord w = true ∧ (hasStatus w = true ∨ wT w = false)

/-- The command answers a next state whose machine is `m`, the performance counters apart; the guards and the queue stay. -/
def Does (i : Instr) (s : State) (m : Mach) : Prop :=
  ∃ t, exec i s = .next t ∧ t.guards = s.guards ∧ t.pending = s.pending ∧ t.m.Like m

/-- Machine `a` has engine `x` in place `e`, and is like `m` in everything else. -/
def Mach.LikeAt (a : Mach) (e : Nat) (x : Eng) (m : Mach) : Prop := a.Like (m.modEng e (fun _ => x))

/-- As `Does`, where engine `e` becomes `x` and everything else becomes what it is in `m`. -/
def DoesAt (i : Instr) (s : State) (e : Nat) (x : Eng) (m : Mach) : Prop :=
  ∃ t, exec i s = .next t ∧ t.guards = s.guards ∧ t.pending = s.pending ∧ t.m.LikeAt e x m

/-- The register port takes an access to address `a` at once (R467, R468, R428), and the always-on domain answers where the register is
one of its far registers (R430). -/
def Takes (s : State) (a : Nat) : Prop :=
  s.m.test.scan = false ∧ s.m.pwr.aonUp = true ∧ a % 8 = 0 ∧ (farAddr a = true → s.m.rp.far = none ∧ s.m.farStopped a = false) ∧
  s.m.aonDead a = false

/-- What a write of `v` leaves of a register that held `old` (R15), field by field: RW and EO fields take the value, EO only from an
engine; each 1 clears its bit of a W1C field; the other fields, and the bits of none, stay. -/
def Written (l : List RField) (engine : Bool) (old v w : Word) : Prop :=
  (∀ f ∈ l, bf w f.lo f.len = match f.acc with
    | .rw => bf v f.lo f.len
    | .eo => bf (if engine then v else old) f.lo f.len
    | .w1c => bf (old &&& ~~~v) f.lo f.len
    | _ => bf old f.lo f.len) ∧
  ∀ i, (∀ f ∈ l, i < f.lo ∨ f.lo + f.len ≤ i) → bt w i = bt old i

/-- What a read at the register port leaves of a register that held `old` (R16): its RC fields are zero, every other bit stays. -/
def ReadCleared (l : List RField) (old w : Word) : Prop :=
  ∀ i, bt w i = (bt old i && l.all (fun f => !(decide (f.acc = .rc) && decide (f.lo ≤ i) && decide (i < f.lo + f.len))))

/-- The registers whose write acts on more than their own word, or which keep their word elsewhere. -/
def Reg.acts : Reg → Bool
  | .engLaunch | .engStop | .engEvtIn | .engSramData | .mbxAck | .admBrqPop | .gdLogPop | .pdCtl | .mirCons | .fltSafe | .hungTarget
  | .rpDeny | .flowTbl | .pwrCfg | .pcCfg | .smpCfg0 | .smpCfg1 | .mirCfg | .linkCfg | .portSpCfg | .portSpWeight => true
  | _ => false

/-- No unit answers at an address (R6, R18, R325, R430): it has no register, or its unit is absent, OFF or without power. -/
abbrev Silent (m : Mach) (a : Nat) : Prop := (locate a).all (fun l => !m.answers l) = true

/-- An engine that has moved past the instruction `w`. -/
def Eng.past (x : Eng) (w : Word) : Eng := { x with insn := w, pc := x.nextPc }

/-- An engine that waits for the completion of `w` with status `st` and results `wr` (R325, R346). -/
def Eng.awaits (x : Eng) (w : Word) (st : Nat) (wr : List (Nat × Word)) : Eng :=
  { x with insn := w, state := .waiting, wait := .done st wr, limit := none }

/-- Nothing at the NIU waits for an entry of its flow cache: no request, pin, mark, closing packet or copy to be resent. -/
structure Niu.Calm (y : Niu) : Prop where
  reqs  : y.reqs = []
  pins  : y.pins = []
  marks : y.marks = []
  close : ∀ r ∈ y.trk, ∀ t, r.2 = some t → t.close = false ∧ t.todo = []
  todo  : ∀ r ∈ y.pwb, ∀ u, r.2 = some u → u.todo = []

/-- Nothing waits for an entry of any flow cache, no FL.PIN either. -/
def Mach.Calm (m : Mach) : Prop := (∀ n, (m.niu n).Calm) ∧ ∀ d n f, (m.eng d).wait ≠ .pin n f

/-- The guard configuration keeps its canonical form. -/
def State.guardsWf (s : State) : Bool :=
  Tab.wf dGuard s.guards && s.guards.all (fun e => Tab.wf dW0 e.2.words)

end Sys2Proof.Machine
end

