-- ==== Sys2Proof/Certificates/Slice0/Obligations.lean ====
section
/-! DEFINITION. The statements for the provers. An engine row's clause says what the engine's next instruction does when it is
that row: its hypotheses are what the engine fetches and the operands; its conclusion is the engine and the machine after it,
everything not named staying as it was, the performance counters apart (`DoesAt`, `Does`). -/

open Sys2Proof Sys2Proof.Machine

/-- A step takes the command at the front of the queue and carries it out with the rest of the queue waiting; with none waiting one
FCLK cycle passes, or, while FCLK stands still, one cycle of the AON clock, in which nothing moves but the count of that clock and
tw_o_live (R406). The queue, and the cycle in place of idling, are the model's form (log entries 1 and 3). -/
def Obligations.QueueOrder : Prop :=
  (∀ (c : Instr) (s : State) (rest : List Instr), step { s with pending := c :: rest } = exec c { s with pending := rest }) ∧
  (∀ s : State, s.pending = [] → step s = .next s.tick ∧ s.tick.pending = [] ∧ s.tick.guards = s.guards ∧
    (s.m.clk.fstop = true → s.m.clk.astop = true → s.tick = s) ∧
    (s.m.clk.fstop = true → ∃ a p b, s.tick =
      { s with m := { s.m with clk := { s.m.clk with aon := a, ph := p }, twin := { s.m.twin with oLive := b } } }))

/-- Every command answers a next state and leaves the rest of the queue as it is: none is refused, and only a target response whose
TTAG is not in use ends in a fault. R76 forbids the endpoint such a response and gives the instance no effect for it; that the model
stops there is its own choice (log entry 22), as it is that a command whose condition does not hold changes nothing (log entry 13).
-/
def Obligations.EveryCommandCompletes : Prop :=
  (∀ (c : Instr) (s : State), (∀ ep d l, c ≠ .trspBeat ep d l) → ∃ t, exec c s = .next t ∧ t.pending = s.pending) ∧
  (∀ (ep : Ep) (d : BeatBits) (l : Bool) (s : State), (∃ t, exec (.trspBeat ep d l) s = .next t ∧ t.pending = s.pending) ∨
    (exec (.trspBeat ep d l) s = .fault .strayTargetResponse ∧
      Tab.get dNone (s.m.niu ep).tt (bf (((s.m.niu ep).trsp.map Prod.fst).getD d) 40 8) = none))

/-- With SCAN_MODE = 1 the instance performs no function (R465): of all commands only the end of scan mode and pw_por_n change
anything, and no clock edge does. That pw_por_n acts in scan mode, and that every other command and every clock edge changes nothing, is
the model's reading of R465 (log entry 96). -/
def Obligations.ScanMode : Prop :=
  ∀ s : State, s.m.test.scan = true →
    (∀ c : Instr, c ≠ .porAssert → (∀ b, c ≠ .scanModeChange b) → exec c s = .next s) ∧
    (∀ b, exec (.scanModeChange b) s = .next { s with m := { s.m with test := { s.m.test with scan := b } } }) ∧ s.tick = s

/-- The state after reset (R262, R300, R371, R389, R401, R461): every domain OFF, no domain's registers answering, the keeper FREE,
no guard configuration, the default routes in force, the twin DOWN, no fault record and no safe state, every register at the reset
value of its fields, no command waiting; the guard configuration, the register table and the always-on tables in canonical form. -/
def Obligations.ResetState : Prop :=
  let s := State.reset
  (∀ d, d < 133 → (s.m.dom d).st = .off ∧ s.m.domLive d = false) ∧ s.m.keep.st = .free ∧ s.m.keep.ft = 0 ∧
  (∀ n, s.guard n = ⟨[], false, 0⟩) ∧ s.m.rt.cur.lines = none ∧ s.m.rt.curE = 0 ∧ s.m.twin.st = .down ∧
  (∀ i, s.m.frec i = none) ∧ s.m.safe = false ∧ s.m.errPin = false ∧ s.m.pwr.ready = false ∧ s.pending = [] ∧
  (∀ a, s.m.reg a = regReset a) ∧ (∀ t g, s.m.node t g = none) ∧ (∀ n, (s.m.link n).st = .down) ∧
  (∀ p, (s.m.stn p).st = .enabled) ∧ (∀ e, (s.m.eng e).sram = []) ∧ Memory.wf [] = true ∧ s.guardsWf = true ∧
  Tab.wf regReset s.m.regs = true

/-- Locks hold (R300, R307): whatever a step does, short of instance reset, a lock bit that is set stays set, a locked region keeps its
four words, and a locked default policy stays as it is. Instance reset clears the guard configuration. -/
def Obligations.LocksHold : Prop :=
  (∀ s t : State, step s = .next t →
    (∀ rest, s.pending ≠ .porAssert :: rest) → (∀ v rest, s.pending ≠ .supplyLoss ⟨132, v⟩ :: rest) →
    (∀ op rest, s.pending = .tapInstructionChange op :: rest → op ≠ 3 ∧ op ≠ 4) →
    ∀ n, (∀ i, i < 17 → bt (s.guard n).lock i = true → bt (t.guard n).lock i = true) ∧
      (∀ r, r < 16 → bt (s.guard n).lock r = true →
        (t.guard n).start r = (s.guard n).start r ∧ (t.guard n).fin r = (s.guard n).fin r ∧
        ∀ k, k < 4 → (t.guard n).rules r k = (s.guard n).rules r k) ∧
      (bt (s.guard n).lock 16 = true → (t.guard n).deny = (s.guard n).deny)) ∧
  (∀ s t : State, exec .porAssert s = .next t → t.guards = [])

/-- The guard configuration keeps its canonical form in every step. -/
def Obligations.GuardFormKept : Prop :=
  ∀ s t : State, s.guardsWf = true → step s = .next t → t.guardsWf = true

/-- Words of the manual's worked example and of its rule on reserved bits (R338, R339): the opcode each has, whether it is a defined
instruction, its try bit. -/
def Obligations.DefinedWords : Prop :=
  (wOpc 0x3230000004000000#64 = 0x32 ∧ legalWord 0x3230000004000000#64 = true ∧ wD 0x3230000004000000#64 = 3) ∧
  (wOpc 0x1566043F00000001#64 = 0x15 ∧ legalWord 0x1566043F00000001#64 = true) ∧
  (wOpc 0x42000800000003E8#64 = 0x42 ∧ legalWord 0x42000800000003E8#64 = true ∧ wT 0x42000800000003E8#64 = true ∧
    wLimit 0x42000800000003E8#64 = 1000) ∧
  (wOpc 0x03600000000001A8#64 = 0x03 ∧ legalWord 0x03600000000001A8#64 = true ∧ wD 0x03600000000001A8#64 = 6) ∧
  (wOpc 0xD053000000000020#64 = 0xD0 ∧ legalWord 0xD053000000000020#64 = true) ∧
  legalWord 0x1566543F00000001#64 = false ∧ legalWord 0xFF00000000000000#64 = false

/-- CAP and CAP_UNITS (R3): in any state in which the engine issues CAP and the port takes the read, both give the same word. -/
def Obligations.CapAgrees : Prop :=
  ∀ (s : State) (e : EngId) (w : Word) (priv : Bool) (mid : BitVec 16), Issues s e w 0xF0 → Takes s 0x08 →
    ∃ t u, exec (.cap e) s = .next t ∧ exec (.clearingRead 0x08#24 priv mid) s = .next u ∧
      u.m.rp.rsp = some (0, (t.m.eng e).reg (wD w))

/-- A change of ep_inc while ep_rst_n = 1 (R81), at a port whose tile domain has power. -/
def Obligations.IncarnationChange : Prop :=
  ∀ (s : State) (ep : Ep) (inc : BitVec 8), s.m.test.scan = false → s.m.domLive (epTile ep) = true → (s.m.niu ep).rstN = true →
    (s.m.niu ep).incPin ≠ inc →
    ∃ t, exec (.epIncChange ep inc) s = .next t ∧ (t.m.niu ep).inc = (s.m.niu ep).inc ∧ bt (t.m.reg (aPort ep 0x18)) 8 = true ∧
      t.m.niu ep = { s.m.niu ep with incPin := inc } ∧ (∀ n, n ≠ ep.val → t.m.niu n = s.m.niu n) ∧
      (∀ a, a ≠ aPort ep 0x18 → t.m.reg a = s.m.reg a) ∧ t.m.reg (aPort ep 0x18) = s.m.reg (aPort ep 0x18) ||| 256 ∧
      t.guards = s.guards ∧ t.pending = s.pending

/-- The conditions of JCC (R350): a jump whose target is a multiple of 8 is taken exactly when its condition holds; the reserved
code 15 makes no instruction; after a try form, VS selects failure and VC success. -/
def Obligations.JumpConditions : Prop :=
  ∀ (s : State) (e : EngId) (w : Word),
    let x := s.m.eng e
    let tgt := if bt w 42 then bf (x.reg (wA w)) 0 48 else bf x.pc 40 8 * 2 ^ 40 + bf w 0 40
    let holds : Bool := match wD w with
      | 0 => x.z
      | 1 => !x.z
      | 2 => x.c
      | 3 => !x.c
      | 4 => x.n
      | 5 => !x.n
      | 6 => x.v
      | 7 => !x.v
      | 8 => x.c && !x.z
      | 9 => !x.c || x.z
      | 10 => x.n == x.v
      | 11 => x.n != x.v
      | 12 => !x.z && x.n == x.v
      | 13 => x.z || x.n != x.v
      | _ => true
    (Issues s e w 0x03 → tgt % 8 = 0 →
      DoesAt (.jcc e) s e (if holds then { x with insn := w, pc := sf x.pc 0 48 tgt } else x.past w) (s.m.readPc e)) ∧
    (wOpc w = 0x03 → wD w = 15 → legalWord w = false) ∧
    (∀ (m : Mach) (st : Nat) (wr : List (Nat × Word)), bt (m.eng e).insn 43 = true →
      ((m.endStatus e st wr).eng e).cond 6 = decide (st ≠ 0) ∧ ((m.endStatus e st wr).eng e).cond 7 = decide (st = 0))

/-- Flow of control (R348, R349): NOP, HALT, JMP, JCC, CALL, RET, LOOP, each taken and not taken. -/
def Obligations.FlowOfControl : Prop :=
  ∀ (s : State) (e : EngId) (w : Word),
    let x := s.m.eng e
    let tgt := if bt w 42 then bf (x.reg (wA w)) 0 48 else bf x.pc 40 8 * 2 ^ 40 + bf w 0 40
    (Issues s e w 0x00 → DoesAt (.nop e) s e (x.past w) (s.m.readPc e)) ∧
    (Issues s e w 0x01 →
      DoesAt (.halt e) s e { x.past w with state := .halted } ((s.m.readPc e).orReg (aEng e 0x58) (2 ^ 15))) ∧
    (Issues s e w 0x02 → tgt % 8 = 0 → DoesAt (.jmp e) s e { x with insn := w, pc := sf x.pc 0 48 tgt } (s.m.readPc e)) ∧
    (Issues s e w 0x03 → x.cond (wD w) = true → tgt % 8 = 0 →
      DoesAt (.jcc e) s e { x with insn := w, pc := sf x.pc 0 48 tgt } (s.m.readPc e)) ∧
    (Issues s e w 0x03 → x.cond (wD w) = false → DoesAt (.jcc e) s e (x.past w) (s.m.readPc e)) ∧
    (Issues s e w 0x04 → tgt % 8 = 0 →
      DoesAt (.call e) s e { x.setReg 15 x.nextPc with insn := w, pc := sf x.pc 0 48 tgt } (s.m.readPc e)) ∧
    (Issues s e w 0x05 → bf (x.reg 15) 0 48 % 8 = 0 →
      DoesAt (.ret e) s e { x with insn := w, pc := sf x.pc 0 48 (bf (x.reg 15) 0 48) } (s.m.readPc e)) ∧
    (Issues s e w 0x06 → x.reg (wD w) - 1 ≠ 0 → tgt % 8 = 0 →
      DoesAt (.loop e) s e { x.setReg (wD w) (x.reg (wD w) - 1) with insn := w, pc := sf x.pc 0 48 tgt } (s.m.readPc e)) ∧
    (Issues s e w 0x06 → x.reg (wD w) - 1 = 0 →
      DoesAt (.loop e) s e ((x.setReg (wD w) 0).past w) (s.m.readPc e))

/-- A jump taken to an address that is no multiple of 8 halts the engine with ALIGN (9) and changes no register (R348): JMP, JCC,
CALL, RET, LOOP; a load or store of SRAM at such an address does the same (R352). TRAP halts with code 12 (R349). What a halt with a
fault code leaves (R324, R331, R334, R345): state FAULT, no wait; ENG_FAULT.CODE and ENG_FAULT_INSN; ENG_IRQ.PEND[15]; the token
free if this engine held it; the fault record in slot 15 when the slot is free, with the post counter advanced, and otherwise the
mark that it is lost. That the fault record advances the post counter is the model's choice (log entry 29): R334 only takes the tag
from it. -/
def Obligations.EngineFaults : Prop :=
  (∀ (s : State) (e : EngId) (w : Word),
      let x := s.m.eng e
      let tgt := if bt w 42 then bf (x.reg (wA w)) 0 48 else bf x.pc 40 8 * 2 ^ 40 + bf w 0 40
      let halts (code : Nat) := ((s.m.readPc e).modEng e (fun x => { x with insn := w })).haltFault e code
      (Issues s e w 0x02 → tgt % 8 ≠ 0 → Does (.jmp e) s (halts 9)) ∧
      (Issues s e w 0x03 → x.cond (wD w) = true → tgt % 8 ≠ 0 → Does (.jcc e) s (halts 9)) ∧
      (Issues s e w 0x04 → tgt % 8 ≠ 0 → Does (.call e) s (halts 9)) ∧
      (Issues s e w 0x05 → bf (x.reg 15) 0 48 % 8 ≠ 0 → Does (.ret e) s (halts 9)) ∧
      (Issues s e w 0x06 → x.reg (wD w) - 1 ≠ 0 → tgt % 8 ≠ 0 → Does (.loop e) s (halts 9)) ∧
      (Issues s e w 0x07 → Does (.trap e) s (halts 12)) ∧
      (Issues s e w 0x20 → ((x.reg (wA w)).toNat + bf w 0 16) % 65536 % 8 ≠ 0 → Does (.lds e) s (halts 9)) ∧
      (Issues s e w 0x21 → ((x.reg (wA w)).toNat + bf w 0 16) % 65536 % 8 ≠ 0 → Does (.sts e) s (halts 9))) ∧
  (∀ (m : Mach) (e : EngId) (code : Nat), code < 16 →
      let x := m.eng e
      let t := m.haltFault e code
      (t.eng e).state = .fault ∧ (t.eng e).wait = .none ∧ (t.eng e).pc = x.pc ∧ (t.eng e).g = x.g ∧ (t.eng e).sram = x.sram ∧
      (t.eng e).evq = x.evq ∧ bf (t.reg (aEng e 0x30)) 0 4 = code ∧ t.reg (aEng e 0x38) = x.insn ∧
      bt (t.reg (aEng e 0x58)) 15 = true ∧ t.token ≠ some e.val ∧ (m.token ≠ some e.val → t.token = m.token) ∧
      (m.slot e 15 = none → ∃ r, t.slot e 15 = some r ∧ bf r 63 1 = 1 ∧ bf r 0 16 = x.post.toNat ∧
        r.extractLsb' 64 64 = x.pc ∧ r.extractLsb' 128 64 = x.insn ∧ (t.eng e).post = x.post + 1) ∧
      (m.slot e 15 ≠ none → t.slot e 15 = m.slot e 15 ∧ bt (t.reg (aEng e 0x30)) 8 = true))

/-- Arithmetic (R351): the result and the flags of MOVI, MOV, ADD, SUB, AND, OR, XOR, SHL, SHR, CMP, MIN and MAX. -/
def Obligations.Arithmetic : Prop :=
  ∀ (s : State) (e : EngId) (w : Word),
    let x := s.m.eng e
    let a := x.reg (wA w)
    let b := if bt w 42 then BitVec.ofNat 64 (bf w 0 32 <<< bf w 32 6) else x.reg (wB w)
    let k := bf b 0 6
    let sg := bt w 41
    let shr := if sg then a.sshiftRight k else a >>> k
    let mn := if (if sg then b.slt a else b.ult a) then b else a
    let mx := if (if sg then a.slt b else a.ult b) then b else a
    let imm : Word := if bf w 40 3 = 0 then BitVec.ofNat 64 (bf w 0 40)
      else if bf w 40 3 = 2 then (w.extractLsb' 0 40).signExtend 64 else sf (x.reg (wD w)) 40 24 (bf w 0 24)
    (Issues s e w 0x10 → DoesAt (.movi e) s e ((x.setReg (wD w) imm).past w) (s.m.readPc e)) ∧
    (Issues s e w 0x11 → DoesAt (.mov e) s e ((x.setReg (wD w) a).past w) (s.m.readPc e)) ∧
    (Issues s e w 0x12 → DoesAt (.add e) s e
      { (x.setReg (wD w) (a + b)).past w with z := decide (a + b = 0), n := (a + b).msb,
                                              c := decide (2 ^ 64 ≤ a.toNat + b.toNat),
                                              v := decide ((a + b).toInt ≠ a.toInt + b.toInt) } (s.m.readPc e)) ∧
    (Issues s e w 0x13 → DoesAt (.sub e) s e
      { (x.setReg (wD w) (a - b)).past w with z := decide (a - b = 0), n := (a - b).msb, c := decide (b.toNat ≤ a.toNat),
                                              v := decide ((a - b).toInt ≠ a.toInt - b.toInt) } (s.m.readPc e)) ∧
    (Issues s e w 0x14 → DoesAt (.and e) s e
      { (x.setReg (wD w) (a &&& b)).past w with z := decide (a &&& b = 0), n := (a &&& b).msb } (s.m.readPc e)) ∧
    (Issues s e w 0x15 → DoesAt (.or e) s e
      { (x.setReg (wD w) (a ||| b)).past w with z := decide (a ||| b = 0), n := (a ||| b).msb } (s.m.readPc e)) ∧
    (Issues s e w 0x16 → DoesAt (.xor e) s e
      { (x.setReg (wD w) (a ^^^ b)).past w with z := decide (a ^^^ b = 0), n := (a ^^^ b).msb } (s.m.readPc e)) ∧
    (Issues s e w 0x17 → DoesAt (.shl e) s e
      { (x.setReg (wD w) (a <<< k)).past w with z := decide (a <<< k = 0), n := (a <<< k).msb,
                                                c := decide (k ≠ 0) && a.getLsbD (64 - k) } (s.m.readPc e)) ∧
    (Issues s e w 0x18 → DoesAt (.shr e) s e
      { (x.setReg (wD w) shr).past w with z := decide (shr = 0), n := shr.msb,
                                          c := decide (k ≠ 0) && a.getLsbD (k - 1) } (s.m.readPc e)) ∧
    (Issues s e w 0x19 → DoesAt (.cmp e) s e
      { x.past w with z := decide (a - b = 0), n := (a - b).msb, c := decide (b.toNat ≤ a.toNat),
                      v := decide ((a - b).toInt ≠ a.toInt - b.toInt) } (s.m.readPc e)) ∧
    (Issues s e w 0x1A → DoesAt (.min e) s e
      { (x.setReg (wD w) mn).past w with z := decide (mn = 0), n := mn.msb } (s.m.readPc e)) ∧
    (Issues s e w 0x1B → DoesAt (.max e) s e
      { (x.setReg (wD w) mx).past w with z := decide (mx = 0), n := mx.msb } (s.m.readPc e))

/-- SRAM and the line buffer (R313, R316, R352): LDS, STS and FENCE.E; a word that is not correctable halts with SRAM_ECC (10), a
correctable one is counted in SRAM_CE; STS changes the eight bytes at its address and no other. -/
def Obligations.EngineMemory : Prop :=
  ∀ (s : State) (e : EngId) (w : Word),
    let x := s.m.eng e
    let a := ((x.reg (wA w)).toNat + bf w 0 16) % 65536
    (Issues s e w 0x20 → a % 8 = 0 → x.bad.contains a = false →
      DoesAt (.lds e) s e ((x.setReg (wD w) (Memory.word x.sram a)).past w) ((s.m.readPc e).readSram e a)) ∧
    (Issues s e w 0x20 → a % 8 = 0 → x.bad.contains a = true →
      Does (.lds e) s (((s.m.readPc e).modEng e (fun x => { x with insn := w })).haltFault e 10)) ∧
    (Issues s e w 0x21 → a % 8 = 0 →
      DoesAt (.sts e) s e
        { x.past w with sram := Memory.setWord x.sram a (x.reg (wB w)), bad := x.bad.filter (fun k => k ≠ a),
                        soft := x.soft.filter (fun k => k ≠ a) } (s.m.readPc e)) ∧
    (∀ m : Mach, x.soft.contains a = true → m.eng e = x → m.readSram e a = m.addFld (aEng e 0) 32 8 1) ∧
    (∀ m : Mach, x.soft.contains a = false → m.eng e = x → m.readSram e a = m) ∧
    Memory.word (Memory.setWord x.sram a (x.reg (wB w))) a = x.reg (wB w) ∧
    (∀ k, k < a ∨ a + 8 ≤ k → Memory.byte (Memory.setWord x.sram a (x.reg (wB w))) k = Memory.byte x.sram k) ∧
    (Issues s e w 0x26 → DoesAt (.fenceE e) s e { x.past w with lines := [], fetch := none } ((s.m.readPc e).dropFetch e))

/-- LDX and STX (R352, R353): with the address well formed, the service tile open, no earlier access unanswered and room at the
service NIU, one RD or WRA of 8 B or 64 B on the engine's fixed flow goes to the NIU and the engine waits for its answer. What a
service request is (R28, R51, R317): one packet at TC3 from shaper 0, UNORDERED, with the access's opcode, address, length and flow,
from the service NIU. That it takes the lowest free TAG is the model's choice (log entry 8). That the words of SRAM a store of 64 B
takes its data from count as reads of them, so that a correctable one is counted (R313), is read from the spec by inference (log
entry 115). -/
def Obligations.ChipMemory : Prop :=
  (∀ (s : State) (e : EngId) (w : Word) (q : Nat) (m : Mach),
      let x := s.m.eng e
      let a := x.reg (wA w)
      let line := decide (bf w 40 3 = 1)
      let size := if line then 64 else 8
      let data := if line then [x.line (bf w 24 16)] else []
      let inl : BitVec 128 := if line then 0 else BitVec.ofNat 128 (x.reg (wB w)).toNat
      bf a 0 48 % size = 0 → (line = true → bf w 24 16 % 8 = 0) → bt a 63 = true → bf a 48 10 < 516 → bf a 58 5 = 0 →
      s.m.serviceOf e = some q → s.m.accessOut e = false →
      (Issues s e w 0x22 →
        (s.m.readPc e).serviceReq q 0x01 (engSub e) (bf a 48 10) (bf a 0 48) size (engFlow e) 0 [] (.ldx e) = some m →
        DoesAt (.ldx e) s e { x with insn := w, state := .waiting, wait := .access } m) ∧
      (Issues s e w 0x23 → s.m.mirrors = false →
        (s.m.readPc e).serviceReq q 0x03 (engSub e) (bf a 48 10) (bf a 0 48) size (engFlow e) inl data (.stx e) = some m →
        DoesAt (.stx e) s e { x with insn := w, state := .waiting, wait := .access }
          (m.readWords e (bf w 24 16) (if line then 8 else 0)))) ∧
  (∀ (m t : Mach) (q opc sub dst addr len : Nat) (flow : BitVec 16) (inl : BitVec 128) (data : List FlitBits) (own : Owner),
      q < 516 → opc < 64 → opc ≠ opWRP → sub < 64 → dst < 1024 → addr < 2 ^ 48 → len < 512 → data.length < 8 →
      m.serviceReq q opc sub dst addr len flow inl data own = some t →
      ∃ p r k, (t.niu q).inj = (m.niu q).inj ++ [p] ∧ hOpc p.pkt.hd = opc ∧ hAddr p.pkt.hd = addr ∧ hLen p.pkt.hd = len ∧
        hFlow p.pkt.hd = flow ∧ hTc p.pkt.hd = 3 ∧ hDst p.pkt.hd = dst ∧ hSrc p.pkt.hd = q ∧ hDmode p.pkt.hd = 0 ∧
        hTag p.pkt.hd = k ∧ hInline p.pkt.hd = inl ∧ p.pkt.data = data ∧ p.shp = 0 ∧
        Tab.get dNone (m.niu q).trk k = none ∧ (∀ j, j < k → Tab.get dNone (m.niu q).trk j ≠ none) ∧
        Tab.get dNone (t.niu q).trk k = some r ∧ r.owner = own ∧ r.ordered = false ∧ r.flow = flow ∧
        (∀ n, n ≠ q → t.niu n = m.niu n))

/-- Time and events (R330, R354): FTGET, WAITFT and its end, WAITEV and its end, and what WAITEV refuses. That the engine's copy of Fabric
Time is the keeper's own value is read from the spec by inference (log entry 12). -/
def Obligations.TimeAndEvents : Prop :=
  ∀ (s : State) (e : EngId) (w : Word),
    let x := s.m.eng e
    let t := (x.reg (wA w)).toNat
    let mask : BitVec 16 := w.extractLsb' 24 16
    (Issues s e w 0x30 → DoesAt (.ftget e) s e ((x.setReg (wD w) (BitVec.ofNat 64 (s.m.readPc e).ftNs)).past w) (s.m.readPc e)) ∧
    (Issues s e w 0x31 → s.m.ftNs < t →
      DoesAt (.waitft e) s e { x with insn := w, state := .waiting, wait := .time t } (s.m.readPc e)) ∧
    (Issues s e w 0x31 → t ≤ s.m.ftNs →
      Does (.waitft e) s (((s.m.readPc e).modEng e (fun x => { x with insn := w })).endStatus e 4 [])) ∧
    (∀ u, s.m.test.scan = false → x.state = .waiting → x.wait = .time u → u ≤ s.m.ftNs →
      Does (.waitftComplete e) s (s.m.endStatus e 0 [])) ∧
    (Issues s e w 0x32 → mask ≠ 0 → bf w 37 3 = 0 → x.evq.all (fun r => !bt mask (bf r 60 4)) = true →
      DoesAt (.waitev e) s e { x with insn := w, state := .waiting, wait := .event (wD w) mask,
                                      limit := limitCycles (s.m.readPc e).clk.mode (bf w 0 24) } (s.m.readPc e)) ∧
    (Issues s e w 0x32 → (mask = 0 ∨ bf w 37 3 ≠ 0) →
      Does (.waitev e) s (((s.m.readPc e).modEng e (fun x => { x with insn := w })).endStatus e 3 [])) ∧
    (∀ p r q, Issues s e w 0x32 → bf w 37 3 = 0 → x.evq = p ++ r :: q →
      p.all (fun r => !bt mask (bf r 60 4)) = true → bt mask (bf r 60 4) = true →
      Does (.waitev e) s (((s.m.readPc e).modEng e (fun x => { x with insn := w, evq := p ++ q })).endStatus e 0 [(wD w, r)])) ∧
    (∀ d k p r q, s.m.test.scan = false → x.state = .waiting → x.wait = .event d k → x.evq = p ++ r :: q →
      p.all (fun r => !bt k (bf r 60 4)) = true → bt k (bf r 60 4) = true →
      Does (.waitevRecord e) s ((s.m.modEng e (fun x => { x with evq := p ++ q })).endStatus e 0 [(d, r)]))

/-- How a status instruction ends (R344, R345, R365): ST; on OK the registers of the row are written, the try form clears V and the
engine goes on; otherwise a try form sets V and goes on, and the plain form halts with its status as the fault code. The token is
free if this engine held it. A limit that passes ends the instruction with TIMEOUT (7) unless its condition is met in that cycle
(R341); a completion that has come back ends it with its status and results (R346). Results and capability (R3, R331, R333, R364):
POST writes its slot and advances the post counter; IRQ sets its pending bit; CAP returns CAP_UNITS. -/
def Obligations.StatusEnds : Prop :=
  (∀ (m : Mach) (e : EngId) (st : Nat) (wr : List (Nat × Word)),
      let x := m.eng e
      let free : Mach := { m with token := if m.token = some e.val then none else m.token }
      let y := ({ x with st := st, wait := .none, limit := none, state := .running } : Eng).setRegs wr
      (st = 0 → (m.endStatus e st wr).LikeAt e { y with v := if bt x.insn 43 then false else x.v, pc := x.nextPc } free) ∧
      (st ≠ 0 → bt x.insn 43 = true → (m.endStatus e st wr).LikeAt e { y with v := true, pc := x.nextPc } free) ∧
      (st ≠ 0 → bt x.insn 43 = false → (m.endStatus e st wr).Like ((free.modEng e (fun _ => y)).haltFault e st))) ∧
  (∀ (s : State) (e : EngId),
      let x := s.m.eng e
      s.m.test.scan = false → x.state = .waiting →
      (x.limit = some 0 → s.m.waitMet e = false → (∀ n, x.wait ≠ .sync n) → x.wait ≠ .image →
        Does (.instructionLimitExpiry e) s (s.m.endStatus e 7 [])) ∧
      (∀ n, x.limit = some 0 → x.wait = .sync n → (s.m.niu n).gOld ≠ 0 → (s.m.niu n).gSync = some e.val →
        Does (.instructionLimitExpiry e) s ((s.m.modNiu n (fun y => { y with gSync := none })).endStatus e 7 [])) ∧
      (x.limit = some 0 → s.m.waitMet e = true → Does (.instructionLimitExpiry e) s s.m) ∧
      (∀ st wr, x.wait = .done st wr → wOpc x.insn ≠ 0x41 → Does (.fabricInstructionCompletion e) s (s.m.endStatus e st wr)) ∧
      (x.wait = .done 0 [] → wOpc x.insn = 0x41 →
        Does (.fabricInstructionCompletion e) s
          (({ s.m with rt := { s.m.rt with casting := false, reached := [] } } : Mach).endStatus e 0 []))) ∧
  (∀ (s : State) (e : EngId) (w : Word),
      let x := s.m.eng e
      let k := bf w 0 4
      let nw := bf w 4 4
      let word (i r : Nat) := if i < nw then (x.reg r).toNat else 0
      let slot : BitVec 256 := BitVec.ofNat 256 (2 ^ 63 + (if bt w 42 then bf w 8 4 else x.st) * 2 ^ 20 + x.post.toNat +
        word 0 (wD w) * 2 ^ 64 + word 1 (wA w) * 2 ^ 128 + word 2 (wB w) * 2 ^ 192)
      (Issues s e w 0xD0 → k ≠ 15 → nw ≤ 3 → s.m.slot e k = none →
        Does (.post e) s ((((s.m.readPc e).setSlot e k (some slot)).modEng e (fun x => { x with insn := w, post := x.post + 1 })).endStatus
          e 0 [])) ∧
      (Issues s e w 0xD0 → k ≠ 15 → nw ≤ 3 → s.m.slot e k ≠ none →
        Does (.post e) s (((s.m.readPc e).modEng e (fun x => { x with insn := w })).endStatus e 5 [])) ∧
      (Issues s e w 0xD1 → DoesAt (.irq e) s e (x.past w) ((s.m.readPc e).orReg (aEng e 0x58) (2 ^ k))) ∧
      (Issues s e w 0xF0 → DoesAt (.cap e) s e ((x.setReg (wD w) (s.m.readPc e).capUnits).past w) (s.m.readPc e)))

/-- ENG_LAUNCH (R326, R328): a privileged write to an engine that is IDLE, HALTED or FAULT outside the safe state starts a program
at the address written: registers and flags cleared, g0 and g1 from ENG_ARG0 and ENG_ARG1, an empty line buffer, ENG_FAULT.CODE
zero. Otherwise LAUNCH_REJ (ENG_STAT bit 8) is set and nothing starts. ENG_STOP, ENG_EVT_IN and ENG_SRAM_DATA (R327, R329, R336): a
stop halts a RUNNING engine at its next instruction with STOPPED (13), and ends a waiting instruction as a limit would, then halts:
a plain form at its own address, a try form, with V set, at the next instruction (R327 does not say where the PC stands; the model's
choice, log entry 28, as it is that an instruction whose completion is on its way back counts as waiting); a HOST event (class 12)
is queued; an access reads or writes the word of SRAM that ENG_SRAM_ADDR names and advances WORD. MBX_ACK (R335, R337): a write that
names a VALID slot with its tag clears the slot; any other sets ACK_MISS. -/
def Obligations.EngineHostAccess : Prop :=
  (∀ (s : State) (e : EngId) (v : Word) (mid : BitVec 16),
      let x := s.m.eng e
      Takes s (aEng e 0x10) → s.m.engLive e = true →
      ((x.state = .idle ∨ x.state = .halted ∨ x.state = .fault) → s.m.safe = false →
        DoesAt (.engLaunch e v true mid) s e
          (({ x with g := [], z := false, n := false, c := false, v := false, pc := v, st := 0, state := .running, wait := .none,
                     limit := none, lines := [], fetch := none } : Eng).setRegs
            [(0, s.m.reg (aEng e 0x18)), (1, s.m.reg (aEng e 0x20))])
          (((s.m.dropFetch e).setFld (aEng e 0x30) 0 4 0).answerFar 0 0)) ∧
      ((x.state = .running ∨ x.state = .waiting ∨ s.m.safe = true) →
        Does (.engLaunch e v true mid) s ((s.m.orReg (aEng e 0) (2 ^ 8)).answerFar 0 0))) ∧
  (∀ (s : State) (e : EngId) (v : Word) (mid : BitVec 16),
      let x := s.m.eng e
      let a := 8 * s.m.fld (aEng e 0x40) 3 13
      s.m.engLive e = true →
      (∀ w, Takes s (aEng e 0x28) → bt v 0 = true → s.m.fetch e = .word w →
        Does (.engStop e v true mid) s (((s.m.modEng e (fun x => { x with insn := w })).haltFault e 13).answerFar 0 0)) ∧
      (Takes s (aEng e 0x28) → bt v 0 = true → x.state = .waiting → (x.wait = .aon → x.limit ≠ none) → (∀ n, x.wait ≠ .sync n) →
        x.wait ≠ .image → bt x.insn 43 = false →
        Does (.engStop e v true mid) s (((s.m.modEng e (fun x =>
          { x with st := 7, state := .running, wait := .none, limit := none })).haltFault e 13).answerFar 0 0)) ∧
      (∀ u, Takes s (aEng e 0x28) → bt v 0 = true → x.state = .waiting → (x.wait = .aon → x.limit ≠ none) → (∀ n, x.wait ≠ .sync n) →
        x.wait ≠ .image → bt x.insn 43 = true →
        (s.m.modEng e (fun x => { x with st := 7, state := .running, wait := .none, limit := none, v := true, pc := x.nextPc })).fetch e
          = .word u →
        Does (.engStop e v true mid) s (((s.m.modEng e (fun x =>
          { x with st := 7, state := .running, wait := .none, limit := none, v := true, pc := x.nextPc, insn := u })).haltFault e 13).answerFar
            0 0)) ∧
      (Takes s (aEng e 0x50) → x.evq.length < 32 →
        DoesAt (.engEvtIn e v true mid) s e
          { x with evq := x.evq ++ [BitVec.ofNat 64 (12 * 2 ^ 60 + s.m.ftUs % 2 ^ 24 * 2 ^ 32 + bf v 0 16)] } (s.m.answerFar 0 0)) ∧
      (Takes s (aEng e 0x50) → 32 ≤ x.evq.length →
        Does (.engEvtIn e v true mid) s ((s.m.orReg (aEng e 0) (2 ^ 9)).answerFar 0 0)) ∧
      (Takes s (aEng e 0x48) →
        Does (.engSramAccess e none true mid) s
          (((s.m.setFld (aEng e 0x40) 3 13 (a / 8 + 1)).readSram e a).answerFar 0 (Memory.word x.sram a))) ∧
      (Takes s (aEng e 0x48) →
        DoesAt (.engSramAccess e (some v) true mid) s e
          { x with sram := Memory.setWord x.sram a v, bad := x.bad.filter (fun k => k ≠ a), soft := x.soft.filter (fun k => k ≠ a) }
          ((s.m.setFld (aEng e 0x40) 3 13 (a / 8 + 1)).answerFar 0 0))) ∧
  (∀ (s : State) (v : Word) (mid : BitVec 16),
      let e := bf v 20 3
      let k := bf v 16 4
      Takes s 0x1A00 → bt v 23 = false →
      (∀ h, e < 5 → s.m.slot e k = some h → bf h 0 16 = bf v 0 16 →
        Does (.mbxAck v true mid) s ((s.m.setSlot e k none).answer 0 0)) ∧
      (∀ h, e < 5 → s.m.slot e k = some h → bf h 0 16 ≠ bf v 0 16 →
        Does (.mbxAck v true mid) s ((s.m.setFld 0x1A00 23 1 1).answer 0 0)) ∧
      ((e < 5 → s.m.slot e k = none) → Does (.mbxAck v true mid) s ((s.m.setFld 0x1A00 23 1 1).answer 0 0)))

/-- RDREG and WRREG (R319, R352): in scope and not denied, the register is read or written under its access codes and the engine
waits for the completion; an address in scope that is no multiple of 8 halts with ALIGN; what WRREG denies. Access codes (R15, R16) of
every register that answers, field by field: what a write from the host leaves, and a write with WRREG of the registers that do not act
on more than their own word (`Reg.acts`); a clearing read returns the value and leaves the RC fields zero. Where no unit answers, a read
returns zero and a write does nothing (R6, R18). Privilege at the register port (R469): an access to a privileged register without the
attribute is denied and changes nothing but the response and, where no record stands, RP_DENY; so for reads, writes and every host
write with a row of its own. A far register of the always-on domain reads as zero and ignores writes until that domain is live (R430).
-/
def Obligations.RegisterAccess : Prop :=
  (∀ (s : State) (e : EngId) (w : Word),
      let x := s.m.eng e
      let a := bf (x.reg (wA w)) 0 24
      let read := Issues s e w 0x24 ∧ a % 8 = 0 ∧ (a < 0x10000 ∨ inScope e (addrQuad a) = true) ∧ s.m.aonDead a = false ∧
        (farAon a = true → s.m.clk.astop = false)
      let write := Issues s e w 0x25 ∧ a % 8 = 0 ∧ inScope e (addrQuad a) = true ∧ s.m.aonDead a = false ∧
        (farAon a = true → s.m.clk.astop = false)
      (∀ l, read → locate a = some l → l.reg ≠ .ftNow → l.reg ≠ .engSramData → s.m.answers l = true →
        DoesAt (.rdreg e) s e
          (x.awaits w 0 [(wD w, ({ s with m := (s.m.readPc e).modEng e (fun x => x.awaits w 0 []) } : State).view l a)]) (s.m.readPc e)) ∧
      (read → Silent s.m a → DoesAt (.rdreg e) s e (x.awaits w 0 [(wD w, 0)]) (s.m.readPc e)) ∧
      (Issues s e w 0x24 → (a < 0x10000 ∨ inScope e (addrQuad a) = true) → a % 8 ≠ 0 →
        Does (.rdreg e) s (((s.m.readPc e).modEng e (fun x => { x with insn := w })).haltFault e 9)) ∧
      (Issues s e w 0x25 → inScope e (addrQuad a) = true → a % 8 ≠ 0 →
        Does (.wrreg e) s (((s.m.readPc e).modEng e (fun x => { x with insn := w })).haltFault e 9)) ∧
      (∀ l, write → s.m.wrDenied a = false → locate a = some l → l.reg.acts = false → s.m.answers l = true →
        ∃ t, exec (.wrreg e) s = .next t ∧ Written l.reg.fields true ((s.m.readPc e).reg a) (x.reg (wB w)) (t.m.reg a) ∧
          t.m.LikeAt e (x.awaits w 0 []) ((s.m.readPc e).setReg a (t.m.reg a)) ∧ t.guards = s.guards ∧ t.pending = s.pending) ∧
      (write → s.m.wrDenied a = false → Silent s.m a → DoesAt (.wrreg e) s e (x.awaits w 0 []) (s.m.readPc e)) ∧
      (Issues s e w 0x25 → a % 8 = 0 → inScope e (addrQuad a) = true →
        ((0x100000 ≤ a ∧ a < 0x180000 ∧ 0x600 ≤ a % 0x1000 ∧ a % 0x1000 < 0xF00) ∨ (∃ n, n < 516 ∧ (a = aNiu n 0x10 ∨ a = aNiu n 0x18)) ∨
          (s.m.hasSpine = true ∧ (a = 0x80010 ∨ a = 0x80018 ∨ a = 0x80020))) →
        Does (.wrreg e) s (((s.m.readPc e).modEng e (fun x => { x with insn := w })).endStatus e 6 []))) ∧
  (∀ (s : State) (l : RegLoc) (a : BitVec 24) (v : Word) (priv : Bool) (mid : BitVec 16),
      let n := a.toNat
      let old := s.m.reg n
      let own := l.reg = .flowTbl ∨ l.reg = .pwrCfg ∨ l.reg = .pcCfg ∨ l.reg = .smpCfg0 ∨ l.reg = .smpCfg1 ∨ l.reg = .mirCfg ∨
        l.reg = .linkCfg ∨ l.reg = .portSpCfg ∨ l.reg = .portSpWeight
      Takes s n → (addrPriv n = true → priv = true) →
      (locate n = some l → s.m.answers l = true → (l.reg.acts = false ∨ own) →
        ∃ t, exec (.registerWrite a v priv mid) s = .next t ∧ Written l.reg.fields false old v (t.m.reg n) ∧
          t.m.Like ((s.m.setReg n (t.m.reg n)).answerTo n 0 0) ∧ t.guards = s.guards ∧ t.pending = s.pending) ∧
      (locate n = some l → s.m.answers l = true → l.reg ≠ .ftNow → l.reg ≠ .engSramData → l.reg ≠ .spStnPeak →
        ∃ t, exec (.clearingRead a priv mid) s = .next t ∧ ReadCleared l.reg.fields old (t.m.reg n) ∧
          t.m.Like ((s.m.setReg n (t.m.reg n)).answerTo n 0 (s.view l n)) ∧ t.guards = s.guards ∧ t.pending = s.pending) ∧
      (Silent s.m n → Does (.registerWrite a v priv mid) s (s.m.answerTo n 0 0) ∧
        Does (.clearingRead a priv mid) s (s.m.answerTo n 0 0))) ∧
  (∀ (s : State) (e : EngId) (ep : Ep) (v : Word) (priv : Bool) (mid : BitVec 16),
      let arg := aEng e 0x18
      let cfg := aNiu ep 0x08
      let evt := aPort ep 0x18
      let drop := aPort ep 0x20
      (Takes s arg → s.m.engLive e = true →
        Does (.registerWrite (BitVec.ofNat 24 arg) v true mid) s ((s.m.setReg arg v).answerFar 0 0)) ∧
      (Takes s cfg → s.m.domLive (ep / 4) = true →
        Does (.registerWrite (BitVec.ofNat 24 cfg) v priv mid) s (s.m.answerFar 0 0)) ∧
      (Takes s evt → s.m.domLive (ep / 4) = true →
        Does (.registerWrite (BitVec.ofNat 24 evt) v priv mid) s ((s.m.setReg evt (s.m.reg evt &&& ~~~(v &&& 0x30F))).answerFar 0 0)) ∧
      (Takes s drop → s.m.domLive (ep / 4) = true →
        Does (.clearingRead (BitVec.ofNat 24 drop) priv mid) s ((s.m.setFld drop 0 16 0).answerFar 0 (s.m.reg drop))) ∧
      (Takes s 0x40 → bt (s.m.reg 0x28) 63 = false →
        Does (.clearingRead 0x40#24 false mid) s
          ((s.m.setReg 0x28 (BitVec.ofNat 64 (2 ^ 63 + mid.toNat * 2 ^ 32 + 0x40))).answer 1 0)) ∧
      (Takes s 0x40 → bt (s.m.reg 0x28) 63 = true → Does (.clearingRead 0x40#24 false mid) s (s.m.answer 1 0))) ∧
  (∀ (s : State) (a : BitVec 24) (v : Word) (priv : Bool) (mid : BitVec 16) (e : EngId) (ep : Ep) (d : Dom) (wr : Option Word),
      let open' := s.m.test.scan = false ∧ s.m.pwr.aonUp = true ∧ s.m.rp.far = none
      let denied (a : Nat) (write : Bool) : Mach := (if bt (s.m.reg 0x28) 63 = true then s.m
        else s.m.setReg 0x28 (BitVec.ofNat 64 (2 ^ 63 + b1 write * 2 ^ 62 + mid.toNat * 2 ^ 32 + a))).answer 1 0
      open' →
      (addrPriv a.toNat = true → a.toNat % 8 = 0 →
        Does (.registerWrite a v false mid) s (denied a.toNat true) ∧ Does (.clearingRead a false mid) s (denied a.toNat false)) ∧
      ((addrPriv a.toNat = true → priv = true) → a.toNat % 8 = 0 → s.m.farStopped a.toNat = false → s.m.aonDead a.toNat = true →
        Does (.registerWrite a v priv mid) s (s.m.answerTo a.toNat 0 0) ∧ Does (.clearingRead a priv mid) s (s.m.answerTo a.toNat 0 0)) ∧
      (addrPriv a.toNat = true → a.toNat % 8 = 0 → farAddr a.toNat = true →
        Does (.rpFarAccess a wr false mid) s (denied a.toNat wr.isSome)) ∧
      Does (.engLaunch e v false mid) s (denied (aEng e 0x10) true) ∧ Does (.engStop e v false mid) s (denied (aEng e 0x28) true) ∧
      Does (.engEvtIn e v false mid) s (denied (aEng e 0x50) true) ∧
      Does (.engSramAccess e wr false mid) s (denied (aEng e 0x48) wr.isSome) ∧ Does (.mbxAck v false mid) s (denied 0x1A00 true) ∧
      Does (.gdLogPop ep v false mid) s (denied (aGd ep 0x20) true) ∧ Does (.clrMeas d v false mid) s (denied (aDom d 0x10) true) ∧
      Does (.mirConsWrite v false mid) s (denied 0x480018 true) ∧ Does (.fltSafeEnter v false mid) s (denied 0xD0018 true) ∧
      Does (.fltSafeExit v false mid) s (denied 0xD0018 true))

/-- Far accesses (R467, R468, R427, R428): one at a time; a far access is accepted and held; its response comes with its effect, which
is that of the same access offered with no other outstanding, a read or a write of any register; one that waits on a stopped clock does
not answer, is recorded in HUNG_TARGET once, and is carried out and answered when that clock runs again. A write of the master's
ENG_ARG0 is given in full. -/
def Obligations.FarAccess : Prop :=
  ∀ (s : State) (a : BitVec 24) (wr : Option Word) (priv : Bool) (mid : BitVec 16) (f : Far),
    let offered (s : State) : State := { s with m := s.m.modRp (fun r => { r with far := none, pend := false }) }
    let whole (s : State) : Host.Outcome State Fault Refusal := match f.write with
      | none => exec (.clearingRead (BitVec.ofNat 24 f.a) f.priv f.mid) s
      | some v => exec (.registerWrite (BitVec.ofNat 24 f.a) v f.priv f.mid) s
    let stands := s.m.rp.far = some f ∧ s.m.pwr.aonUp = true ∧ farAddr f.a = true ∧ f.a % 8 = 0 ∧ (addrPriv f.a = true → f.priv = true)
    s.m.test.scan = false →
    (stands → s.m.farStopped f.a = false → exec .rpFarResponse s = whole (offered s)) ∧
    (stands → farAon f.a = false → s.m.clk.fstop = true →
      exec (.clockRestart false) s = whole (offered { s with m := { s.m with clk := { s.m.clk with fstop := false } } })) ∧
    (stands → farAon f.a = true → s.m.clk.astop = true →
      exec (.clockRestart true) s = whole (offered { s with m := { s.m with clk := { s.m.clk with astop := false } } })) ∧
    (s.m.pwr.aonUp = true → s.m.rp.far = none → farAddr a.toNat = true → a.toNat % 8 = 0 →
      (addrPriv a.toNat = true → priv = true) →
      Does (.rpFarAccess a wr priv mid) s
        { s.m with rp := { s.m.rp with far := some ⟨a.toNat, wr, priv, mid⟩, rsp := none, rspFar := false } }) ∧
    (s.m.rp.far ≠ none → Does (.rpFarAccess a wr priv mid) s s.m) ∧
    (s.m.rp.far = some f → s.m.farStopped f.a = true → Does .rpFarResponse s s.m) ∧
    (∀ v, s.m.rp.far = some f → s.m.farStopped f.a = false → f.a = aEng 0 0x18 → f.write = some v → s.m.engLive 0 = true →
      Does .rpFarResponse s
        (((s.m.setReg f.a v).modRp (fun r => { r with far := none, pend := false })).answerFar 0 0)) ∧
    (s.m.rp.far = some f → s.m.rp.hung = none →
      Does .hungTargetRecord s
        { s.m with rp := { s.m.rp with hung := some (f, if 0xC0000 ≤ f.a ∧ f.a < 0xF0000 then 1 else 0, s.m.farStopped f.a), pend := true } }) ∧
    (s.m.rp.hung ≠ none → Does .hungTargetRecord s s.m) ∧
    (s.m.rp.far = none → Does (.clockRestart false) s { s.m with clk := { s.m.clk with fstop := false } }) ∧
    (s.m.rp.far = none → Does (.clockRestart true) s { s.m with clk := { s.m.clk with astop := false } }) ∧
    (∀ v, s.m.rp.far = some f → f.a = aEng 0 0x18 → f.write = some v → s.m.clk.fstop = true → s.m.engLive 0 = true →
      Does (.clockRestart false) s
        (((({ s.m with clk := { s.m.clk with fstop := false } } : Mach).setReg f.a v).modRp
          (fun r => { r with far := none, pend := false })).answerFar 0 0))

/-- The time port (R259, R260, R263): an offer is acknowledged whatever the outcome. A value whose CRC does not match is counted and
changes no time. A value with tp_valid = 0 is marked SRC_INVALID; in TRACK and FROZEN the keeper then enters HOLDOVER (R265). The error
d is the value less the keeper's own value at the captured instant, in whole ns: that reading of R263 is the model's (log entry 42).
An OK value is applied by its error d: nothing for |d| ≤ 1, a slew up to SLEW_MAX, both of which end a HOLDOVER, and in FREE a
load. Large errors, holdover and the end of a freeze (R263, R264, R265): a forward error beyond SLEW_MAX steps Fabric Time, a backward one
freezes it at its value with the shadow running from the capture; without a capture for LOSS_US the keeper enters HOLDOVER; the
freeze ends when the shadow has reached the held value. -/
def Obligations.FabricTime : Prop :=
  (∀ (s : State) (time : Word) (crc : BitVec 8) (valid : Bool) (since : BitVec 16),
      s.m.test.scan = false → s.m.pwr.aonUp = true → s.m.clk.fstop = false → s.m.clk.astop = false →
      let k := { s.m.keep with tpFlag := !s.m.keep.tpFlag, tpAck := !s.m.keep.tpFlag }
      let el := since.toNat * fclkUnits s.m.clk.mode
      let d : Int := (time.toNat : Int) - (s.m.ftAgo since.toNat : Int) / 65536
      let lim := bf (s.m.reg aTimeCfg) 0 12
      let noted (m : Mach) (action : Nat) : Mach :=
        ((((m.setReg aTimeLast time).setFld aTimeErr 32 32 (satInt 32 d)).addFld aTimeCnt 0 16 1).setFld aTimeStat 16 2 0).setFld
          aTimeStat 8 3 action
      (crc8 time 64 0 ≠ crc →
        Does (.tpOffer time crc valid since) s
          (((({ s.m with keep := k } : Mach).setFld aTimeStat 16 2 1).orReg aTimeEvt 1).addFld aTimeCnt 48 16 1)) ∧
      (crc8 time 64 0 = crc → valid = false → (k.st = .track ∨ k.st = .frozen) →
        ∃ t, exec (.tpOffer time crc valid since) s = .next t ∧ t.m.keep = { k with st := .holdover, slew := 0 } ∧
          bf (t.m.reg aTimeStat) 16 2 = 2 ∧ t.guards = s.guards ∧ t.pending = s.pending) ∧
      (crc8 time 64 0 = crc → valid = false → (k.st = .free ∨ k.st = .holdover) →
        Does (.tpOffer time crc valid since) s (({ s.m with keep := k } : Mach).setFld aTimeStat 16 2 2)) ∧
      (crc8 time 64 0 = crc → valid = true → k.st = .track → d.natAbs ≤ 1 →
        Does (.tpOffer time crc valid since) s (noted { s.m with keep := { k with slew := 0, idle := 0 } } 0)) ∧
      (crc8 time 64 0 = crc → valid = true → k.st = .track → 1 < d.natAbs → d.natAbs ≤ lim →
        Does (.tpOffer time crc valid since) s (noted { s.m with keep := { k with slew := d * 65536, idle := 0 } } 1)) ∧
      (crc8 time 64 0 = crc → valid = true → k.st = .holdover → d.natAbs ≤ 1 ∨ d.natAbs ≤ lim →
        ∃ t, exec (.tpOffer time crc valid since) s = .next t ∧
          t.m.keep = { k with st := .track, slew := if d.natAbs ≤ 1 then 0 else d * 65536, idle := 0 } ∧
          t.m.reg aTimeLast = time ∧ t.m.fld aTimeStat 8 3 = (if d.natAbs ≤ 1 then 0 else 1)) ∧
      (crc8 time 64 0 = crc → valid = true → k.st = .frozen →
        ∃ t, exec (.tpOffer time crc valid since) s = .next t ∧
          t.m.keep = { k with idle := 0, shadow := time.toNat * 65536 + el }) ∧
      (crc8 time 64 0 = crc → valid = true → k.st = .free →
        ∃ t, exec (.tpOffer time crc valid since) s = .next t ∧
          t.m.keep = { k with st := .track, ft := time.toNat * 65536 + el, slew := 0, idle := 0,
                              ticked := (time.toNat * 65536 + el) / 65536 / 20 })) ∧
  (∀ (s : State) (time : Word) (crc : BitVec 8) (since : BitVec 16),
      let k := { s.m.keep with tpFlag := !s.m.keep.tpFlag, tpAck := !s.m.keep.tpFlag }
      let el := since.toNat * fclkUnits s.m.clk.mode
      let d : Int := (time.toNat : Int) - (s.m.ftAgo since.toNat : Int) / 65536
      let lim := bf (s.m.reg aTimeCfg) 0 12
      s.m.test.scan = false →
      (s.m.pwr.aonUp = true → s.m.clk.fstop = false → s.m.clk.astop = false → crc8 time 64 0 = crc →
        (k.st = .track ∨ k.st = .holdover) → 1 < d.natAbs → lim < d.natAbs →
        ∃ t, exec (.tpOffer time crc true since) s = .next t ∧
          t.m.keep = (if 0 < d then { k with st := .track, ft := time.toNat * 65536 + el, slew := 0, idle := 0,
                                                  ticked := (time.toNat * 65536 + el) / 65536 / 20 }
            else { k with st := .frozen, slew := 0, idle := 0, shadow := time.toNat * 65536 + el })) ∧
      ((s.m.keep.st = .track ∨ s.m.keep.st = .frozen) →
        max 1 (bf (s.m.reg aTimeCfg) 16 8) * usCycles s.m.clk.mode ≤ s.m.keep.idle →
        ∃ t, exec .holdoverEntry s = .next t ∧ t.m.keep = { s.m.keep with st := .holdover, slew := 0 }) ∧
      (s.m.keep.st = .free ∨ s.m.keep.st = .holdover ∨
          s.m.keep.idle < max 1 (bf (s.m.reg aTimeCfg) 16 8) * usCycles s.m.clk.mode →
        Does .holdoverEntry s s.m) ∧
      (s.m.keep.st = .frozen → s.m.keep.ft ≤ s.m.keep.shadow →
        Does .freezeEnd s (({ s.m with keep := { s.m.keep with st := .track, slew := 0 } } : Mach).postEvt 0 6 0 0 1)) ∧
      (s.m.keep.st = .frozen → s.m.keep.shadow < s.m.keep.ft → Does .freezeEnd s s.m))

/-- A posted event (R329): it is queued for an engine that is not OFF and has fewer than 32, marked lost in EVQ_OVF when the queue
is full, and counted in EVQ_DROP while the engine is OFF. -/
def Obligations.EventPosting : Prop :=
  ∀ (m : Mach) (e : EngId) (cls kind detail src : Nat),
    let x := m.eng e
    let r := BitVec.ofNat 64 (cls * 2 ^ 60 + kind * 2 ^ 56 + m.ftUs % 2 ^ 24 * 2 ^ 32 + detail * 2 ^ 16 + src)
    cls < 13 → kind < 16 → detail < 2 ^ 16 → src < 2 ^ 16 →
    (x.state ≠ .off → x.evq.length < 32 → (m.postEvt e cls kind detail src).LikeAt e { x with evq := x.evq ++ [r] } m) ∧
    (x.state ≠ .off → 32 ≤ x.evq.length → m.postEvt e cls kind detail src = m.orReg (aEng e 0) (2 ^ 9)) ∧
    (x.state = .off → m.postEvt e cls kind detail src = m.addFld (aEng e 0x58) 32 16 1)

/-- The gate list instructions (R271, R273, R274, R275) for an external endpoint in scope whose tile answers: GT.LOAD fills the
pending bank, GT.ARM sets its start time, GT.STAT returns the three words; the statuses that GT.LOAD and GT.ARM end with otherwise.
Takeover and the entry in force (R271, R275): at time t the entry is the first whose durations up to it pass (t - S) mod CT, the last
when none does. That the engine's copy of Fabric Time and the NIU's are the keeper's own value is read from the spec by inference (log
entry 12). -/
def Obligations.GateLists : Prop :=
  (∀ (s : State) (e : EngId) (w : Word) (n : Nat),
      let x := s.m.eng e
      let y := s.m.niu n
      let d (i : Nat) : Word := Memory.word x.sram ((bf w 24 16 + 8 * i) % 65536)
      let cnt := bf (d 0) 0 7
      let ct := bf (d 0) 32 32
      let now := s.m.ftNs
      let b := (x.reg (wB w)).toNat
      let fits := 1 ≤ cnt ∧ cnt ≤ 64 ∧ bf (d 0) 7 25 = 0 ∧ 64 ≤ ct ∧ ∀ i, i < cnt → bf (d (i + 1)) 35 29 = 0 ∧ 8 ≤ bf (d (i + 1)) 0 32
      let read := (s.m.readPc e).readWords e (bf w 24 16) (1 + min 64 cnt)
      let gone (m : Mach) (st : Nat) : Mach := (m.modEng e (fun x => { x with insn := w })).endStatus e st []
      (x.reg (wA w)).toNat = n → n < 512 → inScope e (some (quadOf (n / 4))) = true → s.m.domLive (n / 4) = true →
      (Issues s e w 0x82 → bf w 24 16 % 8 = 0 → fits → y.gateSt ≠ 2 →
        DoesAt (.gtLoad e) s e (x.awaits w 0 [])
          (read.modNiu n (fun y => { y with gateP := ⟨(List.range cnt).map (fun i => d (i + 1)), ct, 0⟩, gateSt := 1 }))) ∧
      (Issues s e w 0x82 → bf w 24 16 % 8 = 0 → fits → y.gateSt = 2 → Does (.gtLoad e) s (gone read 1)) ∧
      (Issues s e w 0x82 → bf w 24 16 % 8 = 0 → ¬ fits → Does (.gtLoad e) s (gone read 3)) ∧
      (Issues s e w 0x82 → bf w 24 16 % 8 ≠ 0 →
        Does (.gtLoad e) s (((s.m.readPc e).modEng e (fun x => { x with insn := w })).haltFault e 9)) ∧
      (Issues s e w 0x83 → (y.gateSt = 0 ∨ s.m.keep.st = .free ∨ s.m.keep.st = .frozen) → Does (.gtArm e) s (gone (s.m.readPc e) 1)) ∧
      (Issues s e w 0x83 → (s.m.keep.st = .track ∨ s.m.keep.st = .holdover) → y.gateSt = 2 → y.gateP.s < now + 100 →
        Does (.gtArm e) s (gone (s.m.readPc e) 5)) ∧
      (∀ k, Issues s e w 0x83 → y.gateSt ≠ 0 → (s.m.keep.st = .track ∨ s.m.keep.st = .holdover) →
        (y.gateSt = 2 → now + 100 ≤ y.gateP.s) → (k ≠ 0 → bt w 42 = true) →
        (∀ j, j < k → b + j * y.gateP.ct < now + 100) → now + 100 ≤ b + k * y.gateP.ct →
        DoesAt (.gtArm e) s e (x.awaits w 0 [])
          ((s.m.readPc e).modNiu n (fun y => { y with gateP := { y.gateP with s := b + k * y.gateP.ct }, gateSt := 2 }))) ∧
      (Issues s e w 0x83 → y.gateSt ≠ 0 → (s.m.keep.st = .track ∨ s.m.keep.st = .holdover) →
        (y.gateSt = 2 → now + 100 ≤ y.gateP.s) → bt w 42 = false → b < now + 100 →
        Does (.gtArm e) s (((((s.m.readPc e).modEng e (fun x => { x with insn := w })).addFld (aGt n 0x28) 16 16 1).orReg (aGt n 0x20) 1).endStatus
          e 4 [])) ∧
      (Issues s e w 0x84 → y.gate.ents ≠ [] →
        DoesAt (.gtStat e) s e (x.awaits w 0 [(wD w, (s.m.readPc e).gtStatWord n), ((wD w + 1) % 16, (s.m.readPc e).gtCtWord n),
          ((wD w + 2) % 16, y.gate.ents.getD y.gateIdx 0)]) (s.m.readPc e))) ∧
  (∀ (s : State) (e : EngId) (w : Word),
      let a := ((s.m.eng e).reg (wA w)).toNat
      let gone (m : Mach) (st : Nat) : Mach := (m.modEng e (fun x => { x with insn := w })).endStatus e st []
      (Issues s e w 0x82 → a < 516 → inScope e (some (quadOf (epTile a))) = false → Does (.gtLoad e) s (gone (s.m.readPc e) 6)) ∧
      (Issues s e w 0x83 → a < 516 → inScope e (some (quadOf (epTile a))) = false → Does (.gtArm e) s (gone (s.m.readPc e) 6)) ∧
      (Issues s e w 0x82 → 512 ≤ a → (a < 516 → inScope e (some (quadOf (epTile a))) = true) → bf w 24 16 % 8 = 0 →
        Does (.gtLoad e) s (gone ((s.m.readPc e).readWords e (bf w 24 16) (1 + min 64 (bf (s.m.descWord e w 0) 0 7))) 3)) ∧
      (Issues s e w 0x83 → 512 ≤ a → (a < 516 → inScope e (some (quadOf (epTile a))) = true) →
        Does (.gtArm e) s (gone (s.m.readPc e) 3))) ∧
  (∀ (s : State) (ep : Ep) (g : GateList) (i : Nat),
      let y := s.m.niu ep
      let t := s.m.ftNs
      let upTo (j : Nat) : Nat := ((g.ents.take (j + 1)).map (fun w => bf w 0 32)).sum
      s.m.test.scan = false → g.s ≤ t → 0 < g.ct → g.ents.length ≤ 64 → i < g.ents.length →
      (∀ j, j < i → upTo j ≤ (t - g.s) % g.ct) → ((t - g.s) % g.ct < upTo i ∨ i + 1 = g.ents.length) →
      (y.gateSt = 2 → y.gateP = g →
        Does (.gateTakeover ep) s ((s.m.modNiu ep (fun y =>
          { y with gate := g, gateP := ⟨[], 0, 0⟩, gateSt := 0, gateCyc := (t - g.s) / g.ct, gateIdx := i })).orReg (aGt ep 0x20) 2)) ∧
      (y.gate = g → s.m.keep.st ≠ .frozen → y.gateCyc = (t - g.s) / g.ct →
        Does (.gateEntryChange ep) s (s.m.modNiu ep (fun y => { y with gateIdx := i }))) ∧
      (y.gate = g → s.m.keep.st = .frozen → Does (.gateEntryChange ep) s s.m))

/-- One refill tick (R244, R268, R269): once at each multiple of 20 ns that Fabric Time reaches, every shaper of a powered NIU takes
its pending mode, rate and burst and then refills, up to its burst, and every deadline and timeout of a powered NIU or combine node
comes one tick nearer; nothing happens while Fabric Time is frozen, away from a multiple, or at one that has ticked. -/
def Obligations.RefillTick : Prop :=
  ∀ (s : State) (n k : Nat), s.m.test.scan = false →
    let a := (s.m.niu n).shaper n k
    let b : Shaper := match a.pend with
      | none => a
      | some (mode, rate, burst) =>
        { a with mode := mode, rate := rate, burst := burst, pend := none, tok := if mode ≠ 2 ∧ 0 < a.tok then 0 else a.tok }
    (s.m.keep.st = .frozen ∨ s.m.atMultiple 20 = false ∨ s.m.ftNs / 20 = s.m.keep.ticked → Does .refillTick s s.m) ∧
    (s.m.keep.st ≠ .frozen → s.m.atMultiple 20 = true → s.m.ftNs / 20 ≠ s.m.keep.ticked →
      ∃ t, exec .refillTick s = .next t ∧
        (n < 516 → s.m.domLive (epTile n) = true →
          (t.m.niu n).shaper n k =
            (if b.mode = 0 ∨ b.rate = 0 then b
             else { b with tok := if b.mode = 2 then max b.tok (min (b.tok + b.rate) (b.burst * 16 : Nat))
                                  else min (b.tok + b.rate) (b.burst * 16 : Nat) })) ∧
        (n < 516 → s.m.domLive (epTile n) = true →
          (t.m.niu n).ctxs = (s.m.niu n).ctxs.map (fun c => { c with ticks := c.ticks.map (· - 1) }) ∧
          (∀ j, Tab.get dNone (t.m.niu n).trk j = (Tab.get dNone (s.m.niu n).trk j).map (fun r => { r with ddl := r.ddl.map (· - 1) }) ∧
            Tab.get dNone (t.m.niu n).pwb j = (Tab.get dNone (s.m.niu n).pwb j).map (fun r => { r with ddl := r.ddl.map (· - 1) }))) ∧
        (∀ u g, g < 256 → t.m.node u g =
          (if s.m.domLive u = true then (s.m.node u g).map (fun x => { x with ticks := x.ticks - 1 }) else s.m.node u g)) ∧
        (s.m.domLive (epTile n) = false → t.m.niu n = s.m.niu n) ∧
        t.m.engs = s.m.engs ∧ t.m.regs = s.m.regs ∧ t.m.keep = { s.m.keep with ticked := s.m.ftNs / 20 } ∧ t.guards = s.guards ∧ t.pending = s.pending)

/-- Guard configuration (R305, R307): GD.SET writes one whole region that is not locked, or the default policy when that is not
locked; GD.LOCK sets lock bits and clears none; other regions and other guards stay. They do so for an endpoint whose tile has no power
too: the spec does not say so, the model reads it from R300 (log entry 18). GD.SYNC (R306): the accesses admitted so far
become the old ones; it completes when none of them is left. A read of the guard log is ended by popping its oldest record (R311).
-/
def Obligations.GuardInstructions : Prop :=
  (∀ (s : State) (e : EngId) (w : Word) (n : Nat),
      let x := s.m.eng e
      let d (i : Nat) : Word := Memory.word x.sram ((bf w 24 16 + 8 * i) % 65536)
      let r := bf w 0 4
      let g := s.guard n
      let b := x.reg (wB w)
      let keeps (t : State) (m : Mach) := (∀ k, k ≠ n → t.guard k = s.guard k) ∧ t.pending = s.pending ∧
        t.m.LikeAt e (x.awaits w 0 []) m
      let read := (s.m.readPc e).readWords e (bf w 24 16) 4
      (x.reg (wA w)).toNat = n → n < 512 → inScope e (some (quadOf (n / 4))) = true →
      (Issues s e w 0xA0 → bt w 42 = false → bf w 24 16 % 8 = 0 → gdDescOk (d 0) (d 1) = true → bt g.lock r = false →
        ∃ t, exec (.gdSet e) s = .next t ∧ keeps t read ∧ (t.guard n).start r = d 0 ∧ (t.guard n).fin r = d 1 ∧
          (t.guard n).rules r 0 = d 2 ∧ (t.guard n).rules r 2 = d 3 ∧ (t.guard n).lock = g.lock ∧ (t.guard n).deny = g.deny ∧
          (∀ k, k ≠ r → (t.guard n).start k = g.start k ∧ (t.guard n).fin k = g.fin k ∧ (t.guard n).rules k 0 = g.rules k 0 ∧
            (t.guard n).rules k 2 = g.rules k 2)) ∧
      (Issues s e w 0xA0 → bt w 42 = false → bf w 24 16 % 8 = 0 → gdDescOk (d 0) (d 1) = true → bt g.lock r = true →
        Does (.gdSet e) s ((read.modEng e (fun x => { x with insn := w })).endStatus e 1 [])) ∧
      (Issues s e w 0xA0 → bt w 42 = true → b.toNat < 2 → bt g.lock 16 = false →
        ∃ t, exec (.gdSetDefault e) s = .next t ∧ keeps t (s.m.readPc e) ∧ t.guard n = { g with deny := bt b 0 }) ∧
      (Issues s e w 0xA0 → bt w 42 = true → b.toNat < 2 → bt g.lock 16 = true →
        Does (.gdSetDefault e) s (((s.m.readPc e).modEng e (fun x => { x with insn := w })).endStatus e 1 [])) ∧
      (Issues s e w 0xA1 → bf w 0 17 ≠ 0 →
        ∃ t, exec (.gdLock e) s = .next t ∧ keeps t (s.m.readPc e) ∧ t.guard n = { g with lock := g.lock ||| w.extractLsb' 0 17 })) ∧
  (∀ (s : State) (e : EngId) (w : Word) (ep : Ep) (v : Word) (mid : BitVec 16),
      let x := s.m.eng e
      let y := s.m.niu ep
      s.m.domLive (ep / 4) = true →
      (Issues s e w 0xA2 → (x.reg (wA w)).toNat = ep.val → inScope e (some (quadOf (ep / 4))) = true → y.gSync = none →
        DoesAt (.gdSync e) s e { x with insn := w, state := .waiting, wait := .sync ep,
                                        limit := limitCycles (s.m.readPc e).clk.mode (bf w 0 24) }
          ((s.m.readPc e).modNiu ep (fun y =>
            { y with gOld := y.gOld + y.gNew, gNew := 0, gSer := y.gSer + 1, gSync := some e.val }))) ∧
      (s.m.test.scan = false → y.gSync = some e.val → y.gOld = 0 → x.wait = .sync ep →
        DoesAt (.gdSyncComplete ep) s e { x with wait := .done 0 [], limit := none }
          (s.m.modNiu ep (fun y => { y with gSync := none }))) ∧
      (s.m.test.scan = false → y.gSync ≠ none → y.gOld ≠ 0 → Does (.gdSyncComplete ep) s s.m) ∧
      (Takes s (aGd ep 0x20) → bt v 0 = true →
        Does (.gdLogPop ep v true mid) s ((s.m.modNiu ep (fun y => { y with gLog := y.gLog.drop 1 })).answerFar 0 0)))

/-- Route epochs (R175 to R179, R355): RT.LOAD has its image read, holds the token meanwhile, and puts the checked image into the
other slot as NEXT once it is whole, or ends with DENIED and the code of the first read that failed; RT.EPOCH makes NEXT current and
the old current PREV; RT.RETIRE waits; a snapshot without a packet of the PREV epoch frees the slot, ends RT.RETIRE and puts pending
links out of service. The epoch a unit stamps (R178): the old one until the broadcast reaches it, the new one from then on; with no
broadcast under way the current one. That the image is read by substitutes of service NIUs that have no power, in the order the command
names, is read from the spec by inference (log entry 55); that a pending link in training becomes EXCL at the snapshot is the model's
choice (log entry 108). -/
def Obligations.RouteEpochs : Prop :=
  (∀ (s : State) (e : EngId) (first : Quad) (w : Word),
      let x := s.m.eng e
      let r := s.m.rt
      let held := s.m.token = none ∨ s.m.token = some e.val
      (Issues s e w 0x40 → held → bf (x.reg (wA w)) 0 6 = 0 → bt (x.reg (wA w)) 63 = true → r.st ≠ .prev → s.m.imageNiu 0 ≠ none →
        DoesAt (.rtLoad e first) s e { x with insn := w, state := .waiting, wait := .image }
          (({ (s.m.readPc e) with token := some e.val } : Mach).readImage first (bf (x.reg (wA w)) 48 10) (bf (x.reg (wA w)) 0 48))) ∧
      (Issues s e w 0x40 → held → bf (x.reg (wA w)) 0 6 = 0 → bt (x.reg (wA w)) 63 = true → r.st = .prev →
        Does (.rtLoad e first) s
          ((({ (s.m.readPc e) with token := some e.val } : Mach).modEng e (fun x => { x with insn := w })).endStatus e 1 [])) ∧
      (s.m.test.scan = false → x.state = .waiting → x.wait = .image → s.m.img.whole = true →
        let g := imgOfLines ((List.range 769).map (fun i => Tab.get (fun _ => 0) s.m.img.got i))
        let m : Mach := { s.m with img := { s.m.img with on := false, got := [] } }
        (s.m.img.code = none → s.m.imgAbsent g = false → s.m.imgBad g = false →
          Does (.fabricInstructionCompletion e) s
            (({ m with rt := { r with oth := g, othE := (r.curE + 1) % 8, st := .next } } : Mach).endStatus e 0 [])) ∧
        (s.m.img.code = none → s.m.imgAbsent g = true → Does (.fabricInstructionCompletion e) s (m.endStatus e 2 [])) ∧
        (s.m.img.code = none → s.m.imgAbsent g = false → s.m.imgBad g = true → Does (.fabricInstructionCompletion e) s (m.endStatus e 3 [])) ∧
        (∀ c, s.m.img.code = some c → Does (.fabricInstructionCompletion e) s ((m.setFld (aEng e 0) 28 4 c).endStatus e 6 []))) ∧
      (s.m.test.scan = false → x.state = .waiting → x.wait = .image → s.m.img.whole = false → Does (.fabricInstructionCompletion e) s s.m) ∧
      (Issues s e w 0x41 → held → r.st = .next → s.m.pendLinks.any (fun n => s.m.imgUses r.oth n || s.m.treeUses n) = false →
        DoesAt (.rtEpoch e) s e (x.awaits w 0 [])
          { (s.m.readPc e) with token := some e.val, rt := { r with cur := r.oth, curE := r.othE, oth := r.cur, othE := r.curE, st := .prev, casting := true, reached := [] } }) ∧
      (Issues s e w 0x42 → held → r.st = .prev →
        DoesAt (.rtRetire e) s e { x with insn := w, state := .waiting, wait := .retire,
                                          limit := limitCycles (s.m.readPc e).clk.mode (bf w 0 24) } { (s.m.readPc e) with token := some e.val }) ∧
      (∀ n, s.m.test.scan = false → s.m.clk.fstop = false → x.state = .waiting → x.wait = .retire → r.st = .prev →
        s.m.epochGone r.othE = true →
        ∃ t, exec .epochSnapshot s = .next t ∧ t.m.rt = { r with st := .free } ∧ (t.m.eng e).wait = .done 0 [] ∧
          ((s.m.link n).pend = true → t.m.link n = ⟨.excl, false, false⟩) ∧
          ((s.m.link n).pend = false → t.m.link n = s.m.link n)) ∧
      (s.m.test.scan = false → (s.m.clk.fstop = true ∨ s.m.epochGone r.othE = false) → Does .epochSnapshot s s.m) ∧
      (∀ n : NiuId, s.m.test.scan = false → r.casting = true → r.reached.contains n.val = false →
        Does (.epochBroadcastArrival (.niu n)) s { s.m with rt := { r with reached := r.reached ++ [n.val] } }) ∧
      (∀ t : Tile, s.m.test.scan = false → r.casting = true → r.reached.contains (1024 + t.val) = false →
        Does (.epochBroadcastArrival (.combine t)) s { s.m with rt := { r with reached := r.reached ++ [1024 + t.val] } })) ∧
  (∀ (m : Mach) (u : Nat),
      (m.rt.casting = false → m.epochOf u = m.rt.curE) ∧
      (m.rt.casting = true → m.rt.reached.contains u = true → m.epochOf u = m.rt.curE) ∧
      (m.rt.casting = true → m.rt.reached.contains u = false → m.epochOf u = m.rt.othE))

/-- Link instructions (R179, R195, R200, R355) on a link in scope: LINK.EXCL marks it pending; LINK.INCL cancels the mark, or trains
an excluded link whose tiles are both up; LANE.MAP asks for a map without the slices named, on a direction that is UP. The end of
training (R199, R200): the link is UP with the FAILED masks found when the control wires were clean and both directions keep 4
slices; otherwise it is EXCL again when LINK.INCL began the training, and DEAD when not; the masks are those found in each case. The
width and map of a link direction by its failed slices (R195): full width with at most one failed slice and no forcing, half width
with two to five, and with none under FORCE_HALF. That FORCE_HALF leaves the width FULL with one failed slice is the model's choice
(log entry 143). What training found is kept for the test instruments (R478); training does not end while FCLK stands still (R427).
-/
def Obligations.LinkTraining : Prop :=
  (∀ (s : State) (e : EngId) (w : Word) (n : LinkId),
      let x := s.m.eng e
      let k := s.m.link n
      let l := 2 * n.val + b1 (bt w 24)
      let bad : BitVec 9 := (x.reg (wB w)).extractLsb' 0 9
      let mask := (s.m.dir l).mask
      (x.reg (wA w)).toNat = n.val → inScope e (some (quadOf (linkTile n))) = true →
      (Issues s e w 0x43 → k.st ≠ .excl →
        DoesAt (.linkExcl e) s e (x.awaits w 0 []) ((s.m.readPc e).modLink n (fun k => { k with pend := true }))) ∧
      (Issues s e w 0x43 → k.st = .excl →
        Does (.linkExcl e) s (((s.m.readPc e).modEng e (fun x => { x with insn := w })).endStatus e 1 [])) ∧
      (Issues s e w 0x44 → (k.st = .up ∨ k.st = .train) →
        DoesAt (.linkIncl e) s e (x.awaits w 0 []) ((s.m.readPc e).modLink n (fun k => { k with pend := false }))) ∧
      (Issues s e w 0x44 → k.st = .excl → s.m.tileDown (linkTile n) = false → s.m.tileDown (linkTile2 n) = false →
        DoesAt (.linkIncl e) s e { x with insn := w, state := .waiting, wait := .train n }
          ((s.m.readPc e).modLink n (fun _ => { st := .train, incl := true, pend := false }))) ∧
      (Issues s e w 0x44 → (k.st = .dead ∨ k.st = .down ∨ (k.st = .excl ∧ (s.m.tileDown (linkTile n) = true ∨ s.m.tileDown (linkTile2 n) = true))) →
        Does (.linkIncl e) s (((s.m.readPc e).modEng e (fun x => { x with insn := w })).endStatus e 1 [])) ∧
      (Issues s e w 0x45 → bf (x.reg (wB w)) 9 55 = 0 → k.st = .up → pop (mask ||| bad) 9 ≤ 5 → bad &&& ~~~mask ≠ 0 →
        ∃ t, exec (.laneMap e) s = .next t ∧ (t.m.eng e).state = .waiting ∧ (t.m.eng e).wait = .laneMap l ∧
          (t.m.dir l).want = some (mask ||| bad) ∧
          ((t.m.dir (dirBack l)).sent.getLast?.map (fun c => (c.tag, c.h, c.arg))) =
            some (12, false, (mask ||| bad).toNat + 512 * b1 ((s.m.readPc e).forceHalf n)) ∧
          (∀ j, j ≠ l → j ≠ dirBack l → t.m.dir j = (s.m.readPc e).dir j) ∧ (∀ j, t.m.link j = (s.m.readPc e).link j) ∧ (∀ j, t.m.niu j = (s.m.readPc e).niu j)) ∧
      (Issues s e w 0x45 → bf (x.reg (wB w)) 9 55 = 0 → k.st = .up → pop (mask ||| bad) 9 ≤ 5 → bad &&& ~~~mask = 0 →
        DoesAt (.laneMap e) s e (x.awaits w 0 []) (s.m.readPc e)) ∧
      (Issues s e w 0x45 → bf (x.reg (wB w)) 9 55 = 0 → k.st ≠ .up → pop (mask ||| bad) 9 ≤ 5 →
        Does (.laneMap e) s (((s.m.readPc e).modEng e (fun x => { x with insn := w })).endStatus e 1 [])) ∧
      (Issues s e w 0x45 → (bf (x.reg (wB w)) 9 55 ≠ 0 ∨ 5 < pop (mask ||| bad) 9) →
        Does (.laneMap e) s (((s.m.readPc e).modEng e (fun x => { x with insn := w })).endStatus e 3 []))) ∧
  (∀ (s : State) (n : LinkId) (fwd back : BitVec 9) (ctlBad : Bool),
      let k := s.m.link n
      let found (t : State) := (t.m.dir (2 * n)).fail = fwd ∧ (t.m.dir (2 * n + 1)).fail = back ∧
        Tab.get dNoTrain t.m.test.train n = (fwd, back, ctlBad)
      s.m.test.scan = false →
      ((k.st ≠ .train ∨ s.m.clk.fstop = true) → Does (.linkTrainingDone n fwd back ctlBad) s s.m) ∧
      (k.st = .train → s.m.clk.fstop = false → ctlBad = false → pop fwd 9 ≤ 5 → pop back 9 ≤ 5 →
        ∃ t, exec (.linkTrainingDone n fwd back ctlBad) s = .next t ∧ (t.m.link n).st = .up ∧ (t.m.link n).pend = k.pend ∧
          found t ∧ (t.m.dir (2 * n)).half = halfOf fwd (s.m.forceHalf n)) ∧
      (k.st = .train → s.m.clk.fstop = false → (ctlBad = true ∨ 5 < pop fwd 9 ∨ 5 < pop back 9) → k.incl = true →
        ∃ t, exec (.linkTrainingDone n fwd back ctlBad) s = .next t ∧ (t.m.link n).st = .excl ∧ found t) ∧
      (k.st = .train → s.m.clk.fstop = false → (ctlBad = true ∨ 5 < pop fwd 9 ∨ 5 < pop back 9) → k.incl = false →
        ∃ t, exec (.linkTrainingDone n fwd back ctlBad) s = .next t ∧ (t.m.link n).st = .dead ∧ found t)) ∧
  (∀ (k : BitVec 9) (force : Bool),
      (pop k 9 = 0 → halfOf k force = force) ∧ (pop k 9 = 1 → halfOf k force = false) ∧ (2 ≤ pop k 9 → halfOf k force = true))

/-- A slot that arrives clean on a link (R158, R186, R189 to R192, R197): at full width its flit stands in the input register for the VC
its TAG names, behind what that VC holds, its credit is taken, and the slot leaves the replay buffer; at half width the first slot of
a flit gives its credit and its half, and the second delivers the flit; an error in the control word starts NAK instead and the slot
stays. Replay and map changes (R192, R195, R196): NAK rewinds the sender behind an RPLY; LREQ is answered in the next slot with LMAP
and two idle slots; LMAP puts the new map in force at the receiver and clears no FAILED bit; LREQ is repeated while no LMAP has come
and FCLK runs (R427); a slice at its threshold is marked, and where that leaves fewer than four the link is DEAD. That the flits under
replay follow LMAP and its idle slots under the new map, and that an LMAP among them carries the argument of now, is the model's
choice (log entry 52). -/
def Obligations.LinkSlots : Prop :=
  (∀ (s : State) (l : LinkDir) (c : Slot) (rest : List Slot) (f : Flit) (ctlErr : BitVec 24) (sliceErr : BitVec 648),
      let d := s.m.dir l
      let t := dirTo l
      let i := dirInput l
      let k := kVc t i c.tag
      let credited (u : State) (v : Nat) := ∀ j, u.m.outVc j =
        (if v < 12 ∧ j = kVc t i v then { s.m.outVc j with used := (s.m.outVc j).used - 1 } else s.m.outVc j)
      let delivered (u : State) (k : Nat) (f : Flit) := (u.m.dir l).nak = false ∧
        (u.m.vc k).q = (s.m.vc k).q ++ [f] ∧ (u.m.vc k).inReg = true ∧
        (∀ j, j ≠ k → { u.m.vc j with inReg := (s.m.vc j).inReg } = s.m.vc j) ∧ (∀ j, j / 12 ≠ k / 12 → u.m.vc j = s.m.vc j) ∧
        (∀ j, j / 12 = k / 12 → j ≠ k → (u.m.vc j).inReg = false) ∧ (∀ j, u.m.eng j = s.m.eng j) ∧ (∀ j, u.m.niu j = s.m.niu j)
      let enters (vc : Nat) (f : Flit) : Prop :=
        if f.head then s.m.lostIn t i f.bits = false else bt d.dvc vc = false ∧ (s.m.vc (kVc t i vc)).drop = false
      s.m.test.scan = false → s.m.linkUp (l / 2) = true → d.nak = false →
      (d.half = true → d.half1 = none → d.sent = c :: rest → c.flit = some f → c.tag < 12 → c.crd < 16 → f.bad = 0 → c.h = f.head →
        (s.m.dir (dirBack l)).nak = false →
        ∃ u, exec (.linkSlotReceive l 0 0) s = .next u ∧ (u.m.dir l).half1 = some (c.tag, f) ∧
          (u.m.dir l).sent = { c with crd := 15 } :: rest ∧ credited u c.crd ∧ (∀ j, u.m.vc j = s.m.vc j)) ∧
      (∀ vc b p, d.half = true → d.half1 = some (vc, f) → d.sent = b :: c :: rest → c.flit = some p → c.tag = 14 → c.h = false →
        vc < 12 → c.crd < 16 → f.bad = 0 → (s.m.dir (dirBack l)).nak = false → enters vc f →
        ∃ u, exec (.linkSlotReceive l 0 0) s = .next u ∧ (u.m.dir l).half1 = none ∧ (u.m.dir l).sent = rest ∧ credited u c.crd ∧
          delivered u (kVc t i vc) f) ∧
      (d.half = false → d.half1 = none → d.sent = c :: rest →
      (c.flit = some f → c.tag < 12 → c.crd < 16 → f.bad = 0 → c.h = f.head → (s.m.dir (dirBack l)).nak = false → enters c.tag f →
        ∃ u, exec (.linkSlotReceive l 0 0) s = .next u ∧ (u.m.dir l).sent = rest ∧ credited u c.crd ∧ delivered u k f) ∧
      (c.tag < 12 → bt ctlErr 20 = true → bf ctlErr 21 3 = 0 → bf ctlErr 13 2 = 0 → bt ctlErr 19 = false → d.tries < 8 →
        ∃ u, exec (.linkSlotReceive l ctlErr sliceErr) s = .next u ∧ (u.m.dir l).nak = true ∧ (u.m.dir l).sent = d.sent ∧
          (∀ j, u.m.vc j = s.m.vc j) ∧ u.m.fld (aLinkCnt l) 0 16 = satAdd 16 (s.m.fld (aLinkCnt l) 0 16) 1))) ∧
  (∀ (s : State) (l : LinkDir) (c : Slot) (rest : List Slot) (slice : Slice),
      let d := s.m.dir l
      let b := s.m.dir (dirBack l)
      s.m.test.scan = false → s.m.linkUp (l / 2) = true →
      (d.nak = true → (d.sent.map Slot.tag).headD 0 ≠ 13 →
        Does (.nakReceive l) s ((s.m.modDir l (fun d =>
          { d with nak := false, half1 := none, tries := d.tries + 1, sent := ⟨13, false, 15, 0, none⟩ :: d.sent })).addFld
            (aLinkCnt l) 48 16 1)) ∧
      (b.sent = c :: rest → c.tag = 12 → c.h = false → b.nak = false → c.crd = 15 → d.crd = [] →
        ∃ u, exec (.lreqReceive l) s = .next u ∧ (u.m.dir (dirBack l)).sent = rest ∧
          (u.m.dir l).sent = d.sent.take d.ahead ++
            [⟨12, true, 15, c.arg % 1024, none⟩, ⟨15, false, 15, 0, none⟩, ⟨15, false, 15, 0, none⟩] ++
            (reslot (halfOf (BitVec.ofNat 9 c.arg) (c.arg / 512 % 2 == 1)) ((d.sent.drop d.ahead).map
              (fun x => if x.tag = 12 ∧ x.h = true then { x with arg := c.arg % 1024 } else x))).1 ∧
          (u.m.dir l).lmap = some (BitVec.ofNat 9 c.arg, c.arg / 512 % 2 == 1)) ∧
      (d.sent = c :: rest → c.tag = 12 → c.h = true → d.nak = false → pop (d.fail ||| BitVec.ofNat 9 c.arg) 9 ≤ 5 →
        ∃ u, exec (.lmapReceive l) s = .next u ∧ (u.m.dir l).sent = rest ∧ (u.m.dir l).fail = d.fail ||| BitVec.ofNat 9 c.arg ∧
          (u.m.dir l).half = halfOf (d.fail ||| BitVec.ofNat 9 c.arg) (c.arg / 512 % 2 == 1)) ∧
      (d.sent = c :: rest → c.tag = 12 → c.h = true → d.nak = false → 5 < pop (d.fail ||| BitVec.ofNat 9 c.arg) 9 →
        ∃ u, exec (.lmapReceive l) s = .next u ∧ (u.m.link (l / 2)).st = .dead) ∧
      ((d.want = none ∨ s.m.clk.fstop = true) → Does (.lreqRepeat l) s s.m) ∧
      (∀ k : BitVec 9, d.want = some k → s.m.clk.fstop = false → b.crd = [] →
        Does (.lreqRepeat l) s (s.m.modDir (dirBack l) (fun b =>
          { b with sent := b.sent ++ [⟨12, false, 15, k.toNat + 512 * b1 (s.m.forceHalf (l / 2)), none⟩] }))) ∧
      (s.m.fld (aLinkCfg (l / 2)) 16 8 ≠ 0 → s.m.fld (aLinkCfg (l / 2)) 16 8 ≤ d.errs.getD slice 0 → bt d.mask slice = false →
        pop (d.mask ||| BitVec.ofNat 9 (2 ^ slice.val)) 9 ≤ 5 →
        ∃ u, exec (.sliceThreshold l slice) s = .next u ∧ (u.m.dir l).want = some (d.mask ||| BitVec.ofNat 9 (2 ^ slice.val))) ∧
      (s.m.fld (aLinkCfg (l / 2)) 16 8 ≠ 0 → s.m.fld (aLinkCfg (l / 2)) 16 8 ≤ d.errs.getD slice 0 → bt d.mask slice = false →
        5 < pop (d.mask ||| BitVec.ofNat 9 (2 ^ slice.val)) 9 →
        ∃ u, exec (.sliceThreshold l slice) s = .next u ∧ (u.m.link (l / 2)).st = .dead ∧
          (u.m.dir l).fail = d.mask ||| BitVec.ofNat 9 (2 ^ slice.val)))

/-- A flit that wins an output of a powered router (R158, R159, R161, R163, R168, R169, R206): it leaves its input VC; over a link
it is the next slot sent on it, or at half width the next two, and uses a credit of its VC, a head with HOPS counted and the output
at the next router computed, while what stood in the receiver's input register is in its VC buffer; to a local output it joins its
VC at the NIU with HOPS counted; to a spine port it joins its class's entry buffer of the station, or is lost where the station is
DEAD; to the combine unit it joins the packet there, which waits for its command once it is whole. The model's choices: a data flit
whose head was lost with the link goes nowhere (log entry 49); the NIU takes a head out of its VC as data come (log entry 27); a
link direction takes a flit when its last one has been examined (log entry 142). Switch allocation (R162): the winner is a candidate
of the lowest priority level that any candidate has. -/
def Obligations.RouterSwitching : Prop :=
  (∀ (s : State) (t : Tile) (out : Port) (inp vc : Nat) (f : Flit) (b : Bool) (q : List Flit),
      let k := kVc t inp vc
      s.m.test.scan = false → s.m.domLive t = true → inp < 7 → vc < 12 → s.m.winner t out = some ((inp, vc, f), b) →
      (s.m.vc k).q = f :: q → (s.m.vc k).tail = [] →
      let g := hSetHops f.bits (min 63 (hHops f.bits + 1))
      (∀ l u, out.val < 4 → dirOut t out = some l → neighbour t out = some u → s.m.linkUp (l / 2) = true → s.m.slotsPer l = 1 →
        (∀ c, dirOut t inp = some c → c ≠ l) → f.head = true →
        ∃ v, exec (.routerSwitch t out) s = .next v ∧ (v.m.vc k).q = q ∧
          v.m.outVc (kVc t out vc) = ⟨(s.m.outVc (kVc t out vc)).used + 1, !f.last⟩ ∧
          (let next := if isComb f.bits then g else hSetLa g (s.m.la u (opposite out) (some (s.m.reportFrom t out)) g)
           (v.m.dir l).sent = (s.m.dir l).sent ++ [⟨vc, true, (s.m.dir l).crd.headD 15, 0, some { f with bits := next }⟩])) ∧
      (∀ l u, out.val < 4 → dirOut t out = some l → neighbour t out = some u → s.m.linkUp (l / 2) = true → s.m.slotsPer l = 1 →
        (∀ c, dirOut t inp = some c → c ≠ l) → f.head = false →
        ((s.m.outVc (kVc t out vc)).busy = false →
          ∃ v, exec (.routerSwitch t out) s = .next v ∧ (v.m.vc k).q = q ∧ v.m.dir l = s.m.dir l) ∧
        ((s.m.outVc (kVc t out vc)).busy = true →
        ∃ v, exec (.routerSwitch t out) s = .next v ∧ (v.m.vc k).q = q ∧
          (v.m.outVc (kVc t out vc)).used = (s.m.outVc (kVc t out vc)).used + 1 ∧ (v.m.outVc (kVc t out vc)).busy = !f.last ∧
          (v.m.dir l).sent = (s.m.dir l).sent ++ [⟨vc, false, (s.m.dir l).crd.headD 15, 0, some f⟩] ∧
          ((s.m.dir l).nak = false → ∀ j, j < 12 → (v.m.vc (kVc (dirTo l) (dirInput l) j)).inReg = false))) ∧
      (∀ l u, out.val < 4 → dirOut t out = some l → neighbour t out = some u → s.m.linkUp (l / 2) = true → s.m.slotsPer l = 2 →
        (∀ c, dirOut t inp = some c → c ≠ l) → (f.head = false → (s.m.outVc (kVc t out vc)).busy = true) →
        ∃ v, exec (.routerSwitch t out) s = .next v ∧ (v.m.vc k).q = q ∧
          v.m.outVc (kVc t out vc) = ⟨(s.m.outVc (kVc t out vc)).used + 1, !f.last⟩ ∧
          (let bits := if f.head = false then f.bits else if isComb f.bits then g
             else hSetLa g (s.m.la u (opposite out) (some (s.m.reportFrom t out)) g)
           (v.m.dir l).sent = (s.m.dir l).sent ++
             [⟨vc, f.head, (s.m.dir l).crd.headD 15, 0, some { f with bits := bits }⟩,
              ⟨14, false, ((s.m.dir l).crd.drop 1).headD 15, 0, some { f with bits := bits }⟩]) ∧
          (v.m.dir l).crd = (s.m.dir l).crd.drop 2) ∧
      (∀ p, out.val = 6 → spineOf t = some p →
        ((s.m.stn p).st ≠ .dead →
          ∃ v, exec (.routerSwitch t out) s = .next v ∧ (v.m.vc k).q = q ∧
            Tab.get dNil (v.m.stn p).entry (stnCode vc) =
              Tab.get dNil (s.m.stn p).entry (stnCode vc) ++ [if f.head then { f with bits := g } else f]) ∧
        ((s.m.stn p).st = .dead →
          ∃ v, exec (.routerSwitch t out) s = .next v ∧ (v.m.vc k).q = q ∧ v.m.stn p = s.m.stn p ∧ bt (v.m.reg 0x80030) 3 = true)) ∧
      ((out.val = 4 ∨ out.val = 5) → f.head = false →
        (∀ h ∈ Tab.get dNil (s.m.niu (s.m.localNiu t out vc f)).ej vc, h.head = true →
          Tab.get dNone (s.m.niu (s.m.localNiu t out vc f)).ejHd vc = none) →
        ∃ v, exec (.routerSwitch t out) s = .next v ∧ (v.m.vc k).q = q ∧
          (v.m.niu (s.m.localNiu t out vc f)).ejFlits vc = (s.m.niu (s.m.localNiu t out vc f)).ejFlits vc ++ [f]) ∧
      ((out.val = 4 ∨ out.val = 5) → f.head = true →
        ∃ v, exec (.routerSwitch t out) s = .next v ∧ (v.m.vc k).q = q ∧
          Tab.get dNil (v.m.niu (s.m.localNiu t out vc f)).ej vc =
            Tab.get dNil (s.m.niu (s.m.localNiu t out vc f)).ej vc ++ [{ f with bits := g }]) ∧
      (let part := Tab.get dNil (s.m.cbUnit t).part (inp * 12 + vc)
       (out.val = 7 → f.last = false →
        ∃ v, exec (.routerSwitch t out) s = .next v ∧ (v.m.vc k).q = q ∧ (v.m.cbUnit t).inq = (s.m.cbUnit t).inq ∧
          Tab.get dNil (v.m.cbUnit t).part (inp * 12 + vc) = part ++ [f]) ∧
       (out.val = 7 → f.last = true → f.head = true → part = [] →
        ∃ v, exec (.routerSwitch t out) s = .next v ∧ (v.m.vc k).q = q ∧
          (v.m.cbUnit t).inq = (s.m.cbUnit t).inq ++ [(inp, b1 (decide (f.bad ≠ 0)), ⟨f.bits, [], false⟩)]) ∧
       (∀ h r, out.val = 7 → f.last = true → part = h :: r → h.head = true →
        ∃ v, exec (.routerSwitch t out) s = .next v ∧ (v.m.vc k).q = q ∧ Tab.get dNil (v.m.cbUnit t).part (inp * 12 + vc) = [] ∧
          (v.m.cbUnit t).inq = (s.m.cbUnit t).inq ++ [(inp, cnt (fun x => decide (x.bad ≠ 0)) (h :: (r ++ [f])),
            ⟨h.bits, (r ++ [f]).map Flit.bits, (r ++ [f]).any (fun x => decide (x.bad ≠ 0))⟩)]))) ∧
  (∀ (m : Mach) (t out : Nat) (c : Cand) (b : Bool), m.winner t out = some (c, b) →
      c ∈ m.cands t out ∧ (∀ d ∈ m.cands t out, m.level t out c ≤ m.level t out d) ∧
      ((∃ d ∈ m.cands t out, m.level t out d = m.level t out c ∧ 6 ≤ d.2.1) → 6 ≤ c.2.1))

/-- The default tables (R164, R165): on the way from a local input to another tile there is an output, every output permitted leads
to a neighbour nearer the target, and no mask of a mesh input permits a turn that R164 forbids. The congestion code of a mesh output
(R166): by the credits in use, and 3 at an edge or where the link carries nothing. -/
def Obligations.DefaultRoutes : Prop :=
  (∀ (t g d : Nat), t < 128 → g < 128 → d < 4 →
      (t ≠ g → defaultMask t 4 g ≠ 0) ∧
      (∀ inp, inp < 6 → bt (defaultMask t inp g) d = true →
        ∃ u, neighbour t d = some u ∧ hopsLeft u g 1 + hopsLeft u g 0 + 1 = hopsLeft t g 1 + hopsLeft t g 0) ∧
      (∀ inp, inp < 4 → bt (defaultMask t inp g) d = true → turnOk (tileX t) inp d = true)) ∧
  (∀ (m : Mach) (t d : Nat),
      let u := m.inUse t d
      (m.outDead t d = true → m.occOf t d = 3) ∧
      (m.outDead t d = false → m.occOf t d = (if u ≤ 3 then 0 else if u ≤ 11 then 1 else if u ≤ 23 then 2 else 3)))

/-- The spine instructions (R216, R221, R222, R228, R229, R356) where the variant has Eland: SP.SCHED stores a pending mask and its
time, SP.THRESH the thresholds as it completes, SP.PORT opens a station's closing or asks for its enabling; the statuses of each;
without Eland each ends with ABSENT. That SP.PORT OFF takes a DISABLED or DEAD station to CLOSING, from where it becomes DISABLED,
is read from the spec by inference (log entry 60). -/
def Obligations.SpineInstructions : Prop :=
  ∀ (s : State) (e : EngId) (w : Word),
    let x := s.m.eng e
    let held := s.m.token = none ∨ s.m.token = some e.val
    let own : Mach := { (s.m.readPc e) with token := some e.val }
    let gone (st : Nat) (m : Mach) : Mach := (m.modEng e (fun x => { x with insn := w })).endStatus e st []
    let a := x.reg (wA w)
    let t := x.reg (wB w)
    let p := bf w 24 5
    let used := bt s.m.rt.cur.spnOk p = true ∨ (s.m.rt.st ≠ .free ∧ bt s.m.rt.oth.spnOk p = true)
    (Issues s e w 0x50 → s.m.hasSpine = true → held → bf a 32 32 = 0 → pop a 32 ≤ 8 → s.m.ftNs + 100 ≤ t.toNat →
      DoesAt (.spSched e) s e (x.awaits w 0 [])
        (((own.setFld 0x80010 32 32 (bf a 0 32)).setReg 0x80018 t).modSpine (fun y => { y with pend := true }))) ∧
    (Issues s e w 0x50 → s.m.hasSpine = true → held → bf a 32 32 = 0 → pop a 32 ≤ 8 → t.toNat < s.m.ftNs + 100 →
      Does (.spSched e) s (gone 4 own)) ∧
    (Issues s e w 0x50 → s.m.hasSpine = true → held → (bf a 32 32 ≠ 0 ∨ 8 < pop a 32) → Does (.spSched e) s (gone 3 own)) ∧
    (Issues s e w 0x52 → s.m.hasSpine = true → held → bf a 32 32 = 0 → bf a 11 5 = 0 → bf a 3 5 = 0 → bf a 0 3 ≠ 7 → bf a 8 3 ≠ 7 →
      DoesAt (.spThresh e) s e { x with insn := w, state := .waiting, wait := .config [a], limit := none } own) ∧
    (∀ v, s.m.test.scan = false → x.state = .waiting → x.wait = .config [v] → wOpc x.insn = 0x52 →
      Does (.fabricInstructionCompletion e) s ((s.m.setReg 0x80008 v).endStatus e 0 [])) ∧
    (Issues s e w 0x51 → s.m.hasSpine = true → bt w 42 = true → inScope e (some (p / 8)) = true → s.m.domLive (128 + p / 8) = true →
      DoesAt (.spPortOn e) s e { x with insn := w, state := .waiting, wait := .portOn p }
        ((s.m.readPc e).modStn p (fun y => { y with onReq := true, onDue := false }))) ∧
    (Issues s e w 0x51 → s.m.hasSpine = true → bt w 42 = true → inScope e (some (p / 8)) = true → s.m.domLive (128 + p / 8) = false →
      Does (.spPortOn e) s (gone 1 (s.m.readPc e))) ∧
    (Issues s e w 0x51 → s.m.hasSpine = true → bt w 42 = false → inScope e (some (p / 8)) = true → ¬ used →
      DoesAt (.spPortOff e) s e { x with insn := w, state := .waiting, wait := .portOff p,
                                         limit := limitCycles (s.m.readPc e).clk.mode (bf w 0 24) }
        ((s.m.readPc e).modStn p (fun y => { y with st := .closing }))) ∧
    (Issues s e w 0x51 → s.m.hasSpine = true → bt w 42 = false → inScope e (some (p / 8)) = true → used →
      Does (.spPortOff e) s (gone 1 (s.m.readPc e))) ∧
    (Issues s e w 0x50 → s.m.hasSpine = false → Does (.spSched e) s (gone 2 (s.m.readPc e))) ∧
    (Issues s e w 0x51 → s.m.hasSpine = false → bt w 42 = true → Does (.spPortOn e) s (gone 2 (s.m.readPc e))) ∧
    (Issues s e w 0x51 → s.m.hasSpine = false → bt w 42 = false → Does (.spPortOff e) s (gone 2 (s.m.readPc e))) ∧
    (Issues s e w 0x52 → s.m.hasSpine = false → Does (.spThresh e) s (gone 2 (s.m.readPc e)))

/-- A rotor slot (R207 to R209, R219) while FCLK runs and a spine domain has power, with no station DEAD and nothing in flight: the
port whose packet may go launches it into the node the slot joins it to; a node sends its oldest cell of the queue the slot serves;
during acquisition neither happens; a cell that fails its check at either point is discarded (R212). A cell in flight reaches its
exit stage in the next slot. At a slot 31 that is shortened nothing is launched or sent (R218). At slot 0 the correction found at
the last mark comes into force, a station asked for is due, and a rotor that is not LOCKED takes a pending mask whose time has come
(R222). A station whose domain has opened becomes DEAD, and a packet in an entry register toward a DEAD station is discarded (R230).
Grid marks (R218, R219, R222) while Fabric Time is in TRACK: the first one and one after a phase error beyond 8 begin acquisition,
the next one starts slot 0 with the rotor locked; a locked rotor takes its phase error, and slews for an error of 2 to 8; a pending
mask comes into force at the mark of its boundary. Without TRACK no mark acts (R220), and none while FCLK stands still or no spine
domain has power. Stations (R210, R228 to R230): a closing station that holds nothing becomes DISABLED and ends its SP.PORT OFF; one
asked for becomes ENABLED at a period boundary and ends its SP.PORT ON, where that a CLOSING one which holds cells is not enabled
until it is empty is the model's choice (log entry 114); a DEAD station holds nothing, and what it had passed on of a packet is gone
from its router's SPN inputs (log entry 49); the exit stage passes the flit at its front into the SPN input VC of its code. -/
def Obligations.SpineSlots : Prop :=
  (∀ (s : State) (i j c : Fin 32) (o : Nat) (fl : List Flit) (k : Cell) (q : List Cell),
      let sp := s.m.spine
      let sl := (sp.slot + 1) % 32
      let n := (i.val + sl) % 32
      let u := (j.val + sl) % 32
      let mask := s.m.reg 0x80010
      s.m.test.scan = false → s.m.hasSpine = true → s.m.clk.fstop = false → s.m.spineUp = true →
      (sl = 0 → (∀ p, (s.m.stn p).st ≠ .dead ∧ (s.m.stn p).dying = false) →
        ∃ t, exec .rotorSlot s = .next t ∧ t.m.spine.slot = 0 ∧ t.m.spine.corr = sp.corrN ∧ t.m.spine.corrN = 0 ∧
          t.m.spine.abs = sp.abs + 1 ∧ (∀ p, (t.m.stn p).st = (s.m.stn p).st) ∧
          (∀ p : Fin 32, (t.m.stn p).onDue = ((s.m.stn p).onReq || (s.m.stn p).onDue)) ∧
          (if sp.lock ≠ .locked ∧ s.m.keep.st ≠ .frozen ∧ sp.pend = true ∧ s.m.fld 0x80018 0 64 ≤ s.m.ftNs then
             t.m.spine.pend = false ∧ t.m.reg 0x80010 = mkf 64 0 32 (s.m.fld 0x80010 32 32)
           else t.m.spine.pend = sp.pend ∧ t.m.reg 0x80010 = mask)) ∧
      (∀ p : Fin 32, (s.m.stn p).dying = true →
        ∃ t, exec .rotorSlot s = .next t ∧ (t.m.stn p).st = .dead ∧ (t.m.stn p).dying = false ∧ (t.m.stn p).entry = [] ∧
          (t.m.stn p).q = [] ∧ (t.m.stn p).exit = []) ∧
      ((∀ p, (s.m.stn p).dying = false) → (s.m.stn o).st = .dead → c < 4 → s.m.entryOf i c = some (o, fl) →
        ∃ t, exec .rotorSlot s = .next t ∧ Tab.get dNil (t.m.stn i).entry c = [] ∧ bt (t.m.reg 0x80030) 3 = true ∧
          (∀ p, (t.m.stn p).st = (s.m.stn p).st)) ∧
      (sl ≠ 0 →
      ((sp.lock = .acq ∨ (sl = 31 ∧ sp.corr < 0)) → sp.flight = [] → (∀ p, (s.m.stn p).st ≠ .dead ∧ (s.m.stn p).dying = false) →
        Does .rotorSlot s (s.m.modSpine (fun y =>
          { y with slot := sl, abs := y.abs + 1, lands := y.lands + 1, corr := if sl = 31 then 0 else y.corr,
                   cyc := if (y.abs + 1) % (if s.m.clk.mode = 1 then 96 else 32) = 0 then 0 else y.cyc }))) ∧
      (sp.lock = .acq → sp.flight = [k] → (∀ p, (s.m.stn p).st ≠ .dead ∧ (s.m.stn p).dying = false) →
        ∃ t, exec .rotorSlot s = .next t ∧ t.m.spine.flight = [] ∧
          (t.m.stn k.out).exit = Tab.upd dNil (s.m.stn k.out).exit k.code (fun l => l ++ k.flits.map (fun f => (f, k.node, sp.lands + 1)))) ∧
      (sp.lock ≠ .acq → ¬ (sl = 31 ∧ sp.corr < 0) → sp.flight = [] → (∀ p, (s.m.stn p).st ≠ .dead ∧ (s.m.stn p).dying = false) → c < 4 →
        (s.m.stn i).st.runs = true → (s.m.stn n).st = .enabled → s.m.entryOf i c = some (o, fl) →
        (∀ d, d < 4 → d ≠ c.val → s.m.entryOf i d = none) → bt mask ((o + 32 - n) % 32) = false →
        (sp.pend = true → bt mask (32 + (o + 32 - n) % 32) = false) → s.m.admits n o c = true → (n + sl) % 32 ≠ o →
        ∃ t, exec .rotorSlot s = .next t ∧ t.m.spine.slot = sl ∧ Tab.get dNil (t.m.stn i).entry c = [] ∧
          t.m.nodeQ n o c = (if (mkCell c o n s.m.clk.cyc fl).broken then s.m.nodeQ n o c else
            s.m.nodeQ n o c ++ [mkCell c o n s.m.clk.cyc fl]) ∧
          (∀ a, t.m.eng a = s.m.eng a) ∧ (∀ a, t.m.vc a = s.m.vc a) ∧ (∀ a, t.m.niu a = s.m.niu a) ∧ (∀ a, t.m.dir a = s.m.dir a)) ∧
      (sp.lock ≠ .acq → ¬ (sl = 31 ∧ sp.corr < 0) → sp.flight = [] → (∀ p, (s.m.stn p).st ≠ .dead ∧ (s.m.stn p).dying = false) → c < 4 →
        (s.m.stn j).st.runs = true → (s.m.stn u).st.runs = true → s.m.nodeQ j u c = k :: q → k.out = u → k.code = c →
        (∀ d, d < 4 → d ≠ c.val → s.m.nodeQ j u d = []) → (exitCells s.m u c).length < 2 →
        ∃ t, exec .rotorSlot s = .next t ∧ (k ∈ t.m.spine.flight ↔ k.broken = false) ∧
          (t.m.nodeQ j u c = q ∨ ∃ z, t.m.nodeQ j u c = q ++ [z])))) ∧
  (∀ (s : State),
      let sp := s.m.spine
      let g : Nat := if s.m.clk.mode = 1 then 480 else 160
      let e : Int := if g / 2 ≤ sp.cyc % g then ((sp.cyc % g : Nat) : Int) - g else (sp.cyc % g : Nat)
      s.m.test.scan = false →
      (s.m.keep.st ≠ .track ∨ s.m.gridDue = false ∨ s.m.clk.fstop = true ∨ s.m.spineUp = false → Does .gridMark s s.m) ∧
      (s.m.clk.fstop = true ∨ s.m.hasSpine = false → Does .rotorSlot s s.m) ∧
      (s.m.clk.fstop = false → s.m.spineUp = true →
      (s.m.keep.st = .track → s.m.gridDue = true → sp.lock = .free →
        Does .gridMark s (s.m.modSpine (fun y => { y with err := e, mark := s.m.gridNow, lock := .acq, acqNext := false }))) ∧
      (s.m.keep.st = .track → s.m.gridDue = true → sp.lock = .acq → sp.acqNext = false →
        ∃ t, exec .gridMark s = .next t ∧ t.m.spine.lock = .locked ∧ t.m.spine.slot = 0 ∧ t.m.spine.cyc = 0 ∧ t.m.spine.err = e ∧ t.m.spine.mark = s.m.gridNow ∧
          t.m.spine.seen = true) ∧
      (s.m.keep.st = .track → s.m.gridDue = true → (sp.lock = .locked ∨ sp.lock = .slew) → sp.acqNext = false → sp.pend = false → e.natAbs ≤ 1 →
        Does .gridMark s (s.m.modSpine (fun y => { y with err := e, mark := s.m.gridNow, corrN := 0, lock := .locked }))) ∧
      (s.m.keep.st = .track → s.m.gridDue = true → (sp.lock = .locked ∨ sp.lock = .slew) → sp.acqNext = false → sp.pend = false →
        2 ≤ e.natAbs → e.natAbs ≤ 8 →
        Does .gridMark s (s.m.modSpine (fun y => { y with err := e, mark := s.m.gridNow, corrN := if 0 < e then 1 else -1, lock := .slew }))) ∧
      (s.m.keep.st = .track → s.m.gridDue = true → (sp.lock = .locked ∨ sp.lock = .slew) → sp.acqNext = false → sp.pend = false → 8 < e.natAbs →
        Does .gridMark s ((s.m.modSpine (fun y => { y with err := e, mark := s.m.gridNow, corrN := 0, lock := .acq })).orReg 0x80030 1)) ∧
      (s.m.keep.st = .track → s.m.gridDue = true → sp.lock = .locked → sp.acqNext = false → sp.pend = true → s.m.fld 0x80018 0 64 ≤ s.m.gridNow → e.natAbs ≤ 1 →
        Does .gridMark s ((s.m.setReg 0x80010 (mkf 64 0 32 (s.m.fld 0x80010 32 32))).modSpine (fun y =>
          { y with err := e, mark := s.m.gridNow, corrN := 0, lock := .locked, pend := false }))) ∧
      (s.m.keep.st = .track → s.m.gridDue = true → sp.lock = .locked → sp.acqNext = false → sp.pend = true → s.m.gridNow < s.m.fld 0x80018 0 64 → e.natAbs ≤ 1 →
        Does .gridMark s (s.m.modSpine (fun y => { y with err := e, mark := s.m.gridNow, corrN := 0, lock := .locked }))))) ∧
  (∀ (s : State) (p : Stn) (e : EngId) (f : Flit) (n born : Nat) (r : List (Flit × Nat × Nat)),
      let y := s.m.stn p
      let x := s.m.eng e
      let k := kVc (spineTile p) 6 3
      s.m.test.scan = false → s.m.hasSpine = true →
      (y.st = .closing → s.m.stnEmpty p = true → x.state = .waiting → x.wait = .portOff p →
        (∀ d, d ≠ e.val → (s.m.eng d).wait ≠ .portOff p) →
        DoesAt (.stationDisabled p) s e { x with wait := .done 0 [], limit := none } (s.m.modStn p (fun y => { y with st := .disabled }))) ∧
      (y.st ≠ .closing ∨ s.m.stnEmpty p = false → Does (.stationDisabled p) s s.m) ∧
      (y.onReq = true → y.onDue = true → s.m.spine.slot = 0 → (y.st = .disabled ∨ y.st = .dead) → x.state = .waiting → x.wait = .portOn p →
        (∀ d, d ≠ e.val → (s.m.eng d).wait ≠ .portOn p) →
        DoesAt (.stationEnable p) s e { x with wait := .done 0 [], limit := none }
          (s.m.modStn p (fun y => { y with st := .enabled, onReq := false, onDue := false }))) ∧
      (y.onReq = true → y.onDue = true → s.m.spine.slot = 0 → y.st = .closing → s.m.stnEmpty p = true → x.state = .waiting →
        x.wait = .portOn p → (∀ d, d ≠ e.val → (s.m.eng d).wait ≠ .portOn p) → (∀ d, (s.m.eng d).wait ≠ .portOff p) →
        DoesAt (.stationEnable p) s e { x with wait := .done 0 [], limit := none }
          (s.m.modStn p (fun y => { y with st := .enabled, onReq := false, onDue := false }))) ∧
      (y.onReq = false ∨ y.onDue = false ∨ s.m.spine.slot ≠ 0 ∨ (y.st = .closing ∧ s.m.stnEmpty p = false) →
        Does (.stationEnable p) s s.m) ∧
      (y.st ≠ .dead →
        ∃ t, exec (.stationDead p) s = .next t ∧ (t.m.stn p).st = .dead ∧ (t.m.stn p).entry = [] ∧ (t.m.stn p).q = [] ∧
          (t.m.stn p).exit = [] ∧ (∀ c ∈ t.m.spine.flight, c.out ≠ p.val) ∧
          (∀ c ∈ [3, 5, 9, 11], (s.m.vc (kVc (spineTile p) 6 c)).cut = true → (t.m.vc (kVc (spineTile p) 6 c)).q = []) ∧
          ((∀ c ∈ [3, 5, 9, 11], (s.m.vc (kVc (spineTile p) 6 c)).cut = false) →
            (∀ a, t.m.vc a = s.m.vc a) ∧ (∀ a, t.m.niu a = s.m.niu a))) ∧
      (y.st = .dead → Does (.stationDead p) s s.m) ∧
      (y.st.runs = true → y.dying = false → s.m.domLive (spineTile p) = true → Tab.get dNil y.exit 0 = (f, n, born) :: r → f.head = false →
        (∀ c, c = 1 ∨ c = 2 ∨ c = 3 → Tab.get dNil y.exit c = []) → (s.m.vc k).q.length < 4 → (s.m.vc k).drop = false →
        ∃ t, exec (.exitStagePass p) s = .next t ∧ Tab.get dNil (t.m.stn p).exit 0 = r ∧ (t.m.vc k).q = (s.m.vc k).q ++ [f] ∧
          (∀ a, a ≠ k → { t.m.vc a with inReg := (s.m.vc a).inReg } = s.m.vc a) ∧ (∀ a, a / 12 ≠ k / 12 → t.m.vc a = s.m.vc a)) ∧
      ((∀ c, Tab.get dNil y.exit c = []) → Does (.exitStagePass p) s s.m))

/-- The shaper instructions (R242, R245, R359, R360) at a powered NIU in scope: SH.SET takes TC, EXCESS and WT at once and MODE, RATE
and BURST at the next refill tick; SH.GET returns the config and state words; what SH.SET refuses. -/
def Obligations.ShaperInstructions : Prop :=
  ∀ (s : State) (e : EngId) (w : Word) (n k : Nat),
    let x := s.m.eng e
    let y := s.m.niu n
    let h := y.shaper n k
    let v := x.reg (wB w)
    let free := ∀ r ∈ s.m.adm.led, r.ep ≠ n ∨ r.shp ≠ k
    let gone (st : Nat) : Mach := ((s.m.readPc e).modEng e (fun x => { x with insn := w })).endStatus e st []
    n < 516 → k < 64 → (x.reg (wA w)).toNat = n * 2 ^ 48 + k → inScope e (some (quadOf (epTile n))) = true →
    s.m.domLive (epTile n) = true →
    (Issues s e w 0x80 → free → bf v 62 2 < 2 → bf v 50 8 ≠ 0 → (bf v 60 2 = 3 → bf v 62 2 = 1) → bf v 40 10 = 0 →
      (bf v 60 2 = h.tc ∨ y.inj = []) →
      DoesAt (.shSet e) s e (x.awaits w 0 []) ((s.m.readPc e).modNiu n (fun y => y.modShp n k (fun h =>
        { h with tc := bf v 60 2, excess := bt v 59, demoted := false, wt := bf v 50 8,
                 pend := some (bf v 62 2, bf v 20 20, bf v 0 20) })))) ∧
    (Issues s e w 0x80 → (bf v 62 2 = 3 ∨ (bf v 62 2 = 2 ∧ free) ∨ bf v 50 8 = 0 ∨ (bf v 60 2 = 3 ∧ bf v 62 2 = 0) ∨ bf v 40 10 ≠ 0) →
      Does (.shSet e) s (gone 3)) ∧
    (Issues s e w 0x80 → free → bf v 62 2 < 2 → bf v 50 8 ≠ 0 → (bf v 60 2 = 3 → bf v 62 2 = 1) → bf v 40 10 = 0 →
      bf v 60 2 ≠ h.tc → (∃ p ∈ y.inj, p.shp = k) → Does (.shSet e) s (gone 1)) ∧
    (Issues s e w 0x81 →
      DoesAt (.shGet e) s e (x.awaits w 0 [(wD w, h.config), ((wD w + 1) % 16, h.stateWord)]) (s.m.readPc e))

/-- The admission ledger (R251 to R253, R256, R360), at the master: ADM.RESV records a reservation that meets both conditions on
every resource, in place of one that its shaper had, and turns away one that does not, with the first resource that fails; what it
refuses otherwise, on a variant without Eland a spine resource; ADM.FREE removes one; a check that finds nothing failing sheds nothing; a
pop removes the oldest breach record. Shedding (R253): the recheck removes reservations one after the other until no resource fails,
each time of the failing resource with the lowest id the one of lowest precedence, leaves a breach record of each while the queue has
room, counts each, and makes each shaper STANDARD with RATE 0 and DEMOTED at the next tick. -/
def Obligations.Admission : Prop :=
  (∀ (s : State) (w : Word) (v : Resv) (n : Nat),
      let x := s.m.eng 0
      let adm := s.m.adm
      let led := adm.led.filter (fun u => !(u.ep == v.ep && u.shp == v.shp))
      let fresh := ∀ u ∈ adm.led, u.ep ≠ v.ep ∨ u.shp ≠ v.shp
      let old := adm.led.find? (fun u => u.ep == v.ep && u.shp == v.shp)
      let v' := { v with age := (old.map Resv.age).getD adm.age }
      let present (r : Nat) : Prop := s.m.hasSpine = true ∨ r < 1024
      let meets : Prop := ∀ r ∈ v.res, present r → s.m.resMeets (led ++ [v']) r = true
      let asks := Issues s 0 w 0x85 ∧ bf w 24 16 % 8 = 0 ∧ s.m.resvDesc 0 w = (v, n)
      let gone (m : Mach) (st : Nat) (wr : List (Nat × Word)) : Mach := (m.modEng 0 (fun x => { x with insn := w })).endStatus 0 st wr
      let read := (s.m.readPc 0).readWords 0 (bf w 24 16) (2 + (min 64 n + 3) / 4)
      let calm := s.m.failing = none ∧ s.m.domLive (epTile v.ep) = true
      (asks → calm → s.m.resvRange v n = false → meets → (∀ r ∈ v.res, present r) →
        DoesAt (.admResv 0) s 0 (x.awaits w 0 [])
          (({ read with adm := { adm with led := led ++ [v'], age := adm.age + if old.isSome then 0 else 1 } } : Mach).modNiu v.ep (fun y =>
            y.modShp v.ep v.shp (fun h => { h with demoted := false, pend := some (2, v.rate, v.burst) })))) ∧
      (∀ (r i : Nat), asks → s.m.resvRange v n = false → v.res[i]? = some r → present r → s.m.resMeets (led ++ [v']) r = false →
        (∀ j, j < i → ∀ q, v.res[j]? = some q → present q → s.m.resMeets (led ++ [v']) q = true) →
        Does (.admResv 0) s (gone read 6 [(wD w, BitVec.ofNat 64 r)])) ∧
      (asks → s.m.resvRange v n = true → Does (.admResv 0) s (gone read 3 [])) ∧
      (∀ r ∈ v.res, asks → s.m.resvRange v n = false → meets → ¬ present r → Does (.admResv 0) s (gone read 2 [])) ∧
      (asks → s.m.resvRange v n = false → meets → (∀ r ∈ v.res, present r) → s.m.failing ≠ none → Does (.admResv 0) s (gone read 5 [])) ∧
      (∀ e : EngId, e.val ≠ 0 → Issues s e w 0x85 →
        Does (.admResv e) s (((s.m.readPc e).modEng e (fun x => { x with insn := w })).endStatus e 6 [])) ∧
      (∀ u ∈ adm.led, Issues s 0 w 0x86 → calm → u.ep = v.ep → u.shp = v.shp → v.ep < 516 → v.shp < 64 →
        (x.reg (wA w)).toNat = v.ep * 2 ^ 48 + v.shp →
        DoesAt (.admFree 0) s 0 (x.awaits w 0 [])
          (({ (s.m.readPc 0) with adm := { adm with led := led } } : Mach).modNiu v.ep (fun y =>
            y.modShp v.ep v.shp (fun h => { h with pend := some (1, h.next.2.1, h.next.2.2) })))) ∧
      (Issues s 0 w 0x86 → fresh → v.ep < 516 → v.shp < 64 → (x.reg (wA w)).toNat = v.ep * 2 ^ 48 + v.shp →
        Does (.admFree 0) s (gone (s.m.readPc 0) 1 [])) ∧
      (∀ u ∈ adm.led, Issues s 0 w 0x86 → s.m.failing ≠ none → u.ep = v.ep → u.shp = v.shp → v.ep < 516 → v.shp < 64 →
        (x.reg (wA w)).toNat = v.ep * 2 ^ 48 + v.shp → Does (.admFree 0) s (gone (s.m.readPc 0) 5 [])) ∧
      (s.m.test.scan = false → s.m.failing = none → Does .admissionRecheck s s.m) ∧
      (∀ (z : Word) (mid : BitVec 16), Takes s 0x218 → bt z 0 = true →
        Does (.admBrqPop z true mid) s (({ s.m with adm := { adm with brq := adm.brq.drop 1 } } : Mach).answer 0 0))) ∧
  (∀ s : State,
      let adm := s.m.adm
      let rank (u : Resv) : Nat := if u.tc = 3 then 0 else if u.tc = 2 then 1 else 2 + (3 - u.rlvl)
      let left (l : List (Nat × Resv)) : List Resv := adm.led.filter (fun u => l.all (fun p => decide (p.2.age ≠ u.age)))
      let word (p : Nat × Resv) : Word := mkf 64 63 1 1 ||| mkf 64 51 12 p.1 ||| mkf 64 49 2 p.2.tc ||| mkf 64 47 2 p.2.rlvl |||
        mkf 64 37 10 p.2.ep ||| mkf 64 31 6 p.2.shp ||| mkf 64 15 16 p.2.flow.toNat ||| mkf 64 0 15 s.m.ftUs
      s.m.test.scan = false → adm.led.length ≤ 1024 →
      ∃ (t : State) (l : List (Nat × Resv)), exec .admissionRecheck s = .next t ∧
        (∀ i p, l[i]? = some p →
          let had := left (l.take i)
          p.2 ∈ had ∧ p.1 ∈ p.2.res ∧ s.m.resMeets had p.1 = false ∧
          (∀ u ∈ had, ∀ q ∈ u.res, s.m.resMeets had q = false → p.1 ≤ q) ∧
          (∀ u ∈ had, p.1 ∈ u.res → rank u < rank p.2 ∨ (rank u = rank p.2 ∧ u.age ≤ p.2.age))) ∧
        t.m.adm.led = left l ∧ (∀ u ∈ left l, ∀ q ∈ u.res, s.m.resMeets (left l) q = true) ∧ t.m.failing = none ∧
        t.m.adm.brq = adm.brq ++ (l.map word).take (64 - adm.brq.length) ∧
        (64 < adm.brq.length + l.length → l ≠ [] → bt (t.m.reg 0x208) 32 = true) ∧
        t.m.fld 0x208 48 16 = min 65535 (s.m.fld 0x208 48 16 + l.length) ∧
        (∀ p ∈ l, p.2.ep < 516 → p.2.shp < 64 → s.m.domLive (epTile p.2.ep) = true →
          let h := (t.m.niu p.2.ep).shaper p.2.ep p.2.shp
          h.demoted = true ∧ h.pend.map (fun q => (q.1, q.2.1)) = some (1, 0)) ∧ t.guards = s.guards ∧ t.pending = s.pending) ∧
  (∀ (s : State) (v : Resv) (r : Nat),
      s.m.test.scan = false → s.m.adm.led = [v] → v.res = [r] → s.m.resMeets [v] r = false → s.m.adm.brq.length < 64 →
      v.ep < 516 → s.m.domLive (epTile v.ep) = true →
      ∃ t, exec .admissionRecheck s = .next t ∧ t.m.adm.led = [] ∧
        t.m.adm.brq = s.m.adm.brq ++ [mkf 64 63 1 1 ||| mkf 64 51 12 r ||| mkf 64 49 2 v.tc ||| mkf 64 47 2 v.rlvl ||| mkf 64 37 10 v.ep |||
          mkf 64 31 6 v.shp ||| mkf 64 15 16 v.flow.toNat ||| mkf 64 0 15 s.m.ftUs] ∧
        (t.m.niu v.ep).shaper v.ep v.shp =
          { (s.m.niu v.ep).shaper v.ep v.shp with
              demoted := true, pend := some (1, 0, ((s.m.niu v.ep).shaper v.ep v.shp).next.2.2) })

/-- The flow instructions (R239, R240, R358): FL.INV and FL.FLUSH drop every copy that is unlocked and clean, FL.FLUSH with HOLD
holds the flow, FL.INV ends the hold; a dirty copy is written back first and stays until that retires; five holds are one too
many. -/
def Obligations.FlowInstructions : Prop :=
  ∀ (s : State) (e : EngId) (w : Word) (f : BitVec 16),
    let x := s.m.eng e
    let held := s.m.token = none ∨ s.m.token = some e.val
    let calm := s.m.Calm ∧ ∀ n, s.m.wbOut n f = false ∧
      (∀ p ∈ (s.m.niu n).inj, hFlow p.pkt.hd ≠ f) ∧ (∀ c ∈ (s.m.niu n).fc, c.flow = f → c.pinned = false)
    let clean := ∀ n, ∀ c ∈ (s.m.niu n).fc, c.flow = f → c.dirtyS = false ∧ c.dirtyR = false
    let waits : Eng := { x with insn := w, state := .waiting, wait := .flow f, limit := limitCycles s.m.clk.mode (bf w 0 24) }
    let dropped (t : State) : Prop := (∀ n, (t.m.niu n).entry f = none) ∧ (∀ n g, g ≠ f → (t.m.niu n).entry g = (s.m.niu n).entry g) ∧
      (∀ n, (t.m.niu n).pwb = (s.m.niu n).pwb) ∧ t.m.eng e = waits
    (x.reg (wA w)).toNat = f.toNat → f.toNat < 0xFFFE → held →
    (Issues s e w 0x70 → calm → ∃ t, exec (.flInv e) s = .next t ∧ dropped t ∧ t.m.held = (s.m.readPc e).held.erase f) ∧
    (Issues s e w 0x71 → bt w 42 = false → calm → clean → ∃ t, exec (.flFlush e) s = .next t ∧ dropped t ∧ t.m.held = (s.m.readPc e).held) ∧
    (Issues s e w 0x71 → bt w 42 = true → calm → clean → s.m.held.contains f = false → s.m.held.length < 4 →
      ∃ t, exec (.flFlushHold e) s = .next t ∧ dropped t ∧ t.m.held = (s.m.readPc e).held ++ [f]) ∧
    (Issues s e w 0x71 → bt w 42 = true → s.m.held.contains f = false → 4 ≤ s.m.held.length →
      Does (.flFlushHold e) s ((({ (s.m.readPc e) with token := some e.val } : Mach).modEng e (fun x => { x with insn := w })).endStatus e 5 [])) ∧
    (∀ n c, Issues s e w 0x71 → bt w 42 = false → calm → n < 516 → (s.m.niu n).fc = [c] → c.flow = f → c.dirtyS = true →
      c.dirtyR = false → c.dflt = false → c.drop = false → (∀ k, k ≠ n → (s.m.niu k).fc = []) → s.m.domLive (epTile (niuService n)) = true →
      s.m.serviceRoom (niuService n) true 1 = true →
      ∃ t, exec (.flFlush e) s = .next t ∧ (t.m.niu n).fc = [{ c with drop := true, wb := true, dirtyS := false, now := false }] ∧
        t.m.wbOut n f = true ∧ t.m.eng e = waits)

/-- A write of FLOW_TBL by an engine takes effect in every state (R232, R235, R487): EN, BASE and MEM_EP become what is written, and
nothing else changes where EN does not. Where EN changes, every entry of the other kind that stays cached is to be dropped, with its
write-back where EN becomes 0, and BASE and MEM_EP as they were serve those write-backs; an entry that is clean, not in use and not
pinned goes at once, and where no entry is of the other kind and nothing waits for one, every NIU stays as it is. -/
def Obligations.FlowTableWrite : Prop :=
  ∀ (s : State) (v : Word),
    let was := s.m.tblEn
    let wrote (m : Mach) : Mach := ((m.setFld 0x48 0 1 (bf v 0 1)).setFld 0x48 22 26 (bf v 22 26)).setFld 0x48 48 10 (bf v 48 10)
    s.m.test.scan = false →
    (was = bt v 0 → Does (.flowTblWrite v) s (wrote s.m)) ∧
    (was ≠ bt v 0 →
      ∃ t, exec (.flowTblWrite v) s = .next t ∧ t.m.tblEn = bt v 0 ∧ t.m.fld 0x48 22 26 = bf v 22 26 ∧ t.m.fld 0x48 48 10 = bf v 48 10 ∧
        t.m.tblOld = (if was then s.m.reg 0x48 else s.m.tblOld) ∧ t.guards = s.guards ∧ t.pending = s.pending ∧
        (∀ n, ∀ c ∈ (t.m.niu n).fc, c.dflt = !was → c.drop = true ∧ c.wb = was) ∧
        (s.m.Calm → ∀ n c, (s.m.niu n).entry c.flow = some c → c.dflt = !was → c.dirtyS = false → c.dirtyR = false → c.pinned = false →
          (s.m.niu n).inUse c.flow = false → s.m.wbOut n c.flow = false → (t.m.niu n).entry c.flow = none) ∧
        (s.m.Calm → (∀ n, ∀ c ∈ (s.m.niu n).fc, c.dflt = was ∧ c.drop = false) → ∀ n, t.m.niu n = s.m.niu n))

/-- Pinned entries and the table (R235, R239, R240, R358, R487) at a powered NIU in scope: FL.PIN completes at once where the entry
is cached or a default entry is formed, and waits where it must be filled; a seventeenth pin ends with RANGE; UNPIN releases; a copy
to be dropped goes once it is unlocked and written back; a write of FLOW_TBL that leaves EN changes only the register. A read that a
service NIU made returns (R316, R234, R486): a line enters the engine's line buffer, the oldest of four making room, which is the
model's choice (log entry 14: R316 gives no order of replacement); a line the engine needs halts it with FETCH when its status is
not OK; an entry of the flow table enters the cache, validated, and with any other status than OK nothing enters it and FILL_FAIL is
set. -/
def Obligations.FlowEntries : Prop :=
  (∀ (s : State) (e : EngId) (w : Word) (n : NiuId) (f : BitVec 16) (c : FcE),
      let x := s.m.eng e
      let y := s.m.niu n
      let named := (x.reg (wA w)).toNat = n.val ∧ (x.reg (wB w)).toNat = f.toNat ∧ f.toNat < 0xFFFE ∧
        inScope e (some (quadOf (epTile n))) = true ∧ s.m.domLive (epTile n) = true
      let room := y.pins.contains f = false ∧ y.pins.length < 16
      let absent := y.entry f = none ∧ y.fills.contains f = false ∧ s.m.held.contains f = false ∧ s.m.wbOut n f = false ∧
        y.fc.length + y.fills.length < 32
      (Issues s e w 0x72 → bt w 42 = false → named → room → y.entry f = some c →
        DoesAt (.flPin e) s e (x.awaits w 0 []) ((s.m.readPc e).modNiu n (fun y =>
          { y with fc := y.fc.map (fun g => if g.flow = f then { g with pinned := true } else g), pins := y.pins ++ [f] }))) ∧
      (Issues s e w 0x72 → bt w 42 = false → named → room → absent → s.m.tblEn = false → y.marks = [] →
        (∀ d, d ≠ e.val → (s.m.eng d).wait ≠ .pin n f) →
        DoesAt (.flPin e) s e (x.awaits w 0 []) ((s.m.readPc e).modNiu n (fun y =>
          { y with fc := y.fc ++ [{ s.m.defaultEntry n f with pinned := true, recv := false }], pins := y.pins ++ [f] }))) ∧
      (Issues s e w 0x72 → bt w 42 = false → named → room → absent → s.m.tblEn = true →
        s.m.domLive (epTile (niuService n)) = true → s.m.serviceRoom (niuService n) false 1 = true →
        ∃ t, exec (.flPin e) s = .next t ∧ t.m.eng e = { x with insn := w, state := .waiting, wait := .pin n f } ∧
          (t.m.niu n).fills = y.fills ++ [f] ∧ (t.m.niu n).pins = y.pins ++ [f]) ∧
      (Issues s e w 0x72 → bt w 42 = false → named → y.pins.contains f = false → 16 ≤ y.pins.length →
        Does (.flPin e) s (((s.m.readPc e).modEng e (fun x => { x with insn := w })).endStatus e 3 [])) ∧
      (Issues s e w 0x72 → bt w 42 = true → named →
        DoesAt (.flUnpin e) s e (x.awaits w 0 []) ((s.m.readPc e).modNiu n (fun y =>
          { y with fc := y.fc.map (fun g => if g.flow = f then { g with pinned := false } else g), pins := y.pins.erase f }))) ∧
      (s.m.test.scan = false → s.m.Calm → (∀ p ∈ y.inj, hFlow p.pkt.hd ≠ f) → y.entry f = some c → c.drop = true →
        c.dirtyS = false → c.dirtyR = false → c.pinned = false → s.m.wbOut n f = false →
        Does (.flowCopyDropped n f) s (s.m.modNiu n (fun y => { y with fc := y.fc.filter (fun g => g.flow ≠ f) }))) ∧
      (s.m.test.scan = false → s.m.Calm → y.entry f = some c → c.drop = false → Does (.flowCopyDropped n f) s s.m) ∧
      (∀ v : Word, s.m.test.scan = false → bt v 0 = s.m.tblEn →
        Does (.flowTblWrite v) s (((s.m.setFld 0x48 0 1 (bf v 0 1)).setFld 0x48 22 26 (bf v 22 26)).setFld 0x48 48 10 (bf v 48 10)))) ∧
  (∀ (s : State) (q : Quad) (vc : Vc) (p : Pkt) (t : Trk) (e : EngId) (line : Word) (n : NiuId) (f : BitVec 16),
      let sv := 512 + q.val
      let y := s.m.niu sv
      let x := s.m.eng e
      s.m.test.scan = false → bt (s.m.reg aMirCfg) 63 = false → y.ejected vc = some p → hOpc p.hd = rspOf opRD → p.bad = false →
      y.answeredBy p.hd = some t → (∀ (k : Quad) (v : Vc), (k < q ∨ (k = q ∧ v < vc)) → (s.m.niu (512 + k.val)).ejected v = none) →
      (t.owner = .fetch e (bf line 0 48) → x.fetch = some line → hStatus p.hd = 0 → x.state ≠ .running →
        DoesAt (.fetchResponse e) s e
          { x with fetch := none, lines := (x.lines ++ [(line, p.data.headD 0)]).drop (x.lines.length + 1 - 4) }
          (s.m.modNiu sv (fun y => (y.freeTrk (hTag p.hd)).takeEj (some vc.val)))) ∧
      (t.owner = .fetch e (bf line 0 48) → x.fetch = some line → hStatus p.hd = 0 →
        ∃ u, exec (.fetchResponse e) s = .next u ∧
          (u.m.eng e).lines = (x.lines ++ [(line, p.data.headD 0)]).drop (x.lines.length + 1 - 4)) ∧
      (t.owner = .fetch e (bf line 0 48) → x.fetch = some line → hStatus p.hd ≠ 0 → x.state = .running → bt x.pc 63 = true →
        sf x.pc 0 6 0 = line → ∃ u, exec (.fetchResponse e) s = .next u ∧ (u.m.eng e).state = .fault) ∧
      (t.owner = .fill n f → (s.m.niu n).fills.contains f = true → s.m.Calm → s.m.tblEn = true → hStatus p.hd = 0 →
        ∃ u, exec (.flowFillResponse q) s = .next u ∧ (u.m.niu n).fills = (s.m.niu n).fills.filter (fun g => g ≠ f) ∧
          (u.m.niu n).fc = (s.m.niu n).fc ++ [⟨f, p.data.headD 0, s.m.validate n (p.data.headD 0), true, false, false, false, false, false, false, false⟩]) ∧
      (t.owner = .fill n f → (s.m.niu n).fills.contains f = true → s.m.Calm → hStatus p.hd ≠ 0 →
        ∃ u, exec (.flowFillResponse q) s = .next u ∧ (u.m.niu n).fills = (s.m.niu n).fills.filter (fun g => g ≠ f) ∧
          (u.m.niu n).fc = (s.m.niu n).fc ∧ bt (u.m.reg (aSch n 0x20)) 4 = true))

/-- Combine groups (R281, R295, R361) at an engine that may take the token: CB.GROUP writes every node of a descriptor it accepts
and nothing else, CB.FREE waits until every node is quiet and then removes them. That a group on a variant without the unit ends
with ABSENT whatever SADR is, and that a misaligned SADR halts with ALIGN before the descriptor is read, is the order of the model's
reading (log entry 24). -/
def Obligations.CombineGroups : Prop :=
  ∀ (s : State) (e : EngId) (w : Word) (g : Group) (l : List (Nat × CbNode)),
    let x := s.m.eng e
    let own : Mach := { (s.m.readPc e) with token := some e.val }
    let gone (st : Nat) (m : Mach) : Mach := (m.modEng e (fun x => { x with insn := w })).endStatus e st []
    let read := own.readWords e (bf w 24 16) (1 + min 128 (bf (s.m.descWord e w 0) 0 8))
    let known := ∃ t, t < 128 ∧ s.m.node t g ≠ none
    let quiet := ∀ t, t < 128 → s.m.node t g ≠ none → s.m.cbQuiet t g = true
    (s.m.token = none ∨ s.m.token = some e.val) →
    (Issues s e w 0x90 → s.m.hasCombine = true → bf w 24 16 % 8 = 0 → s.m.groupDesc e w = (g.val, l) → s.m.groupRange e w l = false →
      s.m.groupState g l = false →
      ∃ t, exec (.cbGroup e) s = .next t ∧ t.m.eng e = x.awaits w 0 [] ∧ (∀ r ∈ l, t.m.node r.1 g = some r.2) ∧
        (∀ (u : Tile) (h : Group), (h ≠ g ∨ ∀ r ∈ l, r.1 ≠ u.val) → t.m.node u h = (s.m.readPc e).node u h) ∧
        (∀ k, t.m.niu k = (s.m.readPc e).niu k) ∧ (∀ k, t.m.vc k = (s.m.readPc e).vc k)) ∧
    (Issues s e w 0x90 → s.m.hasCombine = true → bf w 24 16 % 8 = 0 → s.m.groupDesc e w = (g.val, l) → s.m.groupRange e w l = true →
      Does (.cbGroup e) s (gone 3 read)) ∧
    (Issues s e w 0x90 → s.m.hasCombine = true → bf w 24 16 % 8 = 0 → s.m.groupDesc e w = (g.val, l) → s.m.groupRange e w l = false →
      s.m.groupState g l = true → Does (.cbGroup e) s (gone 1 read)) ∧
    (Issues s e w 0x90 → s.m.hasCombine = true → bf w 24 16 % 8 ≠ 0 →
      Does (.cbGroup e) s ((own.modEng e (fun x => { x with insn := w })).haltFault e 9)) ∧
    (Issues s e w 0x90 → s.m.hasCombine = false → Does (.cbGroup e) s (gone 2 (s.m.readPc e))) ∧
    (Issues s e w 0x91 → s.m.hasCombine = true → bf (x.reg (wA w)) 0 8 = g.val → known →
      DoesAt (.cbFree e) s e { x with insn := w, state := .waiting, wait := .cbFree g, limit := limitCycles (s.m.readPc e).clk.mode (bf w 0 24) }
        own) ∧
    (Issues s e w 0x91 → s.m.hasCombine = true → bf (x.reg (wA w)) 0 8 = g.val → ¬ known → Does (.cbFree e) s (gone 1 own)) ∧
    (s.m.test.scan = false → x.state = .waiting → x.wait = .cbFree g → quiet →
      ∃ t, exec (.cbFreeComplete g) s = .next t ∧ t.m.eng e = { x with wait := .done 0 [], limit := none } ∧
        (∀ u : Tile, t.m.node u g = none) ∧ (∀ (u : Tile) (h : Group), h ≠ g → t.m.node u h = s.m.node u h)) ∧
    (s.m.test.scan = false → ¬ quiet → Does (.cbFreeComplete g) s s.m)

/-- A round at a node (R282, R286 to R290), with one packet at the combine unit and none produced yet: a rejected RED is answered
with its own data as PARTIAL; under ARRIVAL a contribution is merged as it comes, under DETERMINISTIC it is held until its turn; a
forwarding node sends the partial result on and is SENT; a result with OK goes to the child and the node is IDLE; a FAILED node
discards it. The timeouts of a round (R291) at a powered tile: COLLECT sends what is merged with PARTIAL; SENT answers its own
subtree with the partial result it sent and is FAILED; neither acts before its ticks have passed. That a RED from a local input at a
router without the entry is rejected (log entry 63), and that a partial result from a router that is no child is counted LATE (log
entry 64), is read from the spec by inference. -/
def Obligations.CombineRounds : Prop :=
  (∀ (s : State) (t : Tile) (g : Group) (x : CbNode) (p : Pkt) (inp nbad d : Nat),
      let u := s.m.cbUnit t
      let h := p.hd
      let k := hSrc h % 4 + 2
      let sent (v : State) (out : Nat) (q : Pkt) : Prop :=
        (v.m.cbUnit t).outq = [⟨out, q.hd, q.flits, 0, true⟩] ∧ (v.m.cbUnit t).inq = []
      let passed : Pkt := s.m.cbStamp t { p with hd := hSetStatus h 0 }
      s.m.test.scan = false → s.m.domLive t = true → u.inq = [(inp, nbad, p)] → u.outq = [] → hGroup h = g.val →
      (hOpc h = opRED → (inp = 4 ∨ inp = 5) → (s.m.node t g = none ∨ (s.m.node t g = some x ∧ x.rejects h = true)) →
        ∃ v, exec (.combineRedArrival t) s = .next v ∧ sent v (niuPort (hSrc h)) (s.m.cbStamp t (resultOf h 13 p)) ∧
          v.m.node t g = s.m.node t g ∧ bt (v.m.reg (aTile t 0x208)) 2 = true) ∧
      (hOpc h = opRED → (inp = 4 ∨ inp = 5) → s.m.node t g = some x → x.rejects h = false → x.st = .idle → x.arrival = true →
        (∃ j ∈ x.kidList, j ≠ k) →
        ∃ v y, exec (.combineRedArrival t) s = .next v ∧ v.m.node t g = some y ∧ y.st = .collect ∧ y.merged = [k] ∧
          y.acc = some { p with bad := false } ∧ y.ticks = x.toTicks ∧ y.reds = [(k, h)] ∧ (v.m.cbUnit t).inq = []) ∧
      (hOpc h = opRED → (inp = 4 ∨ inp = 5) → s.m.node t g = some x → x.rejects h = false → x.st = .idle → x.arrival = false →
        (∃ j r, x.kidList = j :: r ∧ j ≠ k) →
        ∃ v y, exec (.combineRedArrival t) s = .next v ∧ v.m.node t g = some y ∧ y.st = .collect ∧ y.merged = [] ∧
          y.held = [(k, nbad, p)] ∧ y.ticks = x.toTicks ∧ y.reds = [(k, h)]) ∧
      (hOpc h = opRED → inp < 4 → s.m.node t g = some x → x.st = .idle → x.kidList = [kidOfDir inp] → x.has (kidOfDir inp) = false →
        x.up < 4 → nbad = 0 → p.bad = false → hStatus h = 0 →
        ∃ v y, exec (.combinePartialArrival t) s = .next v ∧ sent v x.up passed ∧ v.m.node t g = some y ∧ y.st = .sent ∧
          y.kept = some passed ∧ y.ticks = 2 * x.toTicks) ∧
      (hOpc h = rspOf opRED → s.m.node t g = some x → x.st = .sent → hStatus h = 0 → d < 4 → x.kids = BitVec.ofNat 4 (2 ^ d) → x.reds = [] →
        ∃ v, exec (.combineResultArrival t) s = .next v ∧ sent v d p ∧ v.m.node t g = some (x.clear .idle)) ∧
      (hOpc h = rspOf opRED → s.m.node t g = some x → x.st = .failed →
        Does (.combineResultArrival t) s
          (((s.m.modCbu t (fun u => { u with inq := [] })).orReg (aTile t 0x208) 8).addFld (aTile t 0x210) 32 16 1)) ∧
      (hOpc h = opRED → inp < 4 → s.m.node t g = some x → (x.st = .sent ∨ x.st = .failed) →
        Does (.combinePartialArrival t) s
          (((s.m.modCbu t (fun u => { u with inq := [] })).orReg (aTile t 0x208) 8).addFld (aTile t 0x210) 32 16 1))) ∧
  (∀ (s : State) (t : Tile) (g : Group) (x : CbNode) (a : Pkt) (d : Nat),
      let part : Pkt := s.m.cbStamp t { a with hd := hSetStatus a.hd 13 }
      let sent (v : State) (out : Nat) (q : Pkt) : Prop :=
        (v.m.cbUnit t).outq = [⟨out, q.hd, q.flits, 0, true⟩]
      s.m.test.scan = false → s.m.domLive t = true → s.m.node t g = some x → (s.m.cbUnit t).outq = [] →
      (x.st = .collect → x.ticks = 0 → x.held = [] → x.acc = some a → x.status ≠ 11 → x.up < 4 →
        ∃ v y, exec (.collectTimeout t g) s = .next v ∧ sent v x.up part ∧ v.m.node t g = some y ∧ y.st = .sent ∧ y.kept = some part ∧
          y.ticks = 2 * x.toTicks ∧ v.m.fld (aTile t 0x210) 0 16 = satAdd 16 (s.m.fld (aTile t 0x210) 0 16) 1) ∧
      (x.st = .sent → x.ticks = 0 → x.kept = some a → hStatus a.hd ≠ 11 → d < 4 → x.kids = BitVec.ofNat 4 (2 ^ d) → x.reds = [] →
        ∃ v, exec (.sentTimeout t g) s = .next v ∧ sent v d (s.m.cbStamp t (resultOf a.hd 13 a)) ∧
          v.m.node t g = some (x.clear .failed) ∧ bt (v.m.reg (aTile t 0x208)) 1 = true) ∧
      (x.ticks ≠ 0 ∨ x.st ≠ .collect → Does (.collectTimeout t g) s s.m) ∧
      (x.ticks ≠ 0 ∨ x.st ≠ .sent → Does (.sentTimeout t g) s s.m))

/-- Lane arithmetic (R283, R284): integer SUM wraps; every operation but a floating-point SUM is commutative and associative on the
lanes of its type, and a floating-point SUM is commutative; a NaN operand of SUM gives the canonical quiet NaN, and MIN and MAX
ignore one unless both are. -/
def Obligations.CombineLanes : Prop :=
  ∀ (subop ctype a b c : Nat),
    let n := 2 ^ (8 * laneBytes ctype)
    let f := if ctype = 3 then fp32 else if ctype = 4 then bf16 else fp64
    pairOk subop ctype = true → a < n → b < n → c < n →
    laneOp subop ctype a b < n ∧ laneOp subop ctype a b = laneOp subop ctype b a ∧
    (¬ (subop = 0 ∧ 2 ≤ ctype) →
      laneOp subop ctype (laneOp subop ctype a b) c = laneOp subop ctype a (laneOp subop ctype b c)) ∧
    (subop = 0 → ctype ≤ 1 → laneOp subop ctype a b = (a + b) % 2 ^ 64) ∧
    (subop = 0 → 2 ≤ ctype → f.isNan a = true → laneOp subop ctype a b = f.nan) ∧
    (1 ≤ subop → subop ≤ 2 → 2 ≤ ctype → f.isNan a = true → f.isNan b = false → laneOp subop ctype a b = b)

/-- The domain instructions (R357, R390 to R393) on a domain in scope while the AON clock runs: what each starts or does, in the
state it asks for, and the status it ends with in any other. The model's choices: DOM.ON puts a domain in RAMP from its request on
(log entry 67), and on a domain whose start-up ramp still waits it replaces that request (log entry 68); the turn bits of the
stations of a spine domain that DOM.OFF opens are zero (log entry 6). -/
def Obligations.DomainInstructions : Prop :=
  ∀ (s : State) (e : EngId) (w : Word) (d : Nat),
    let x := s.m.eng e
    let y := s.m.dom d
    let gone (st : Nat) : Mach := ((s.m.readPc e).modEng e (fun x => { x with insn := w })).endStatus e st []
    let waits (k : Wait) : Eng := { x with insn := w, state := .waiting, wait := k, limit := limitCycles s.m.clk.mode (bf w 0 24) }
    let spine := 128 ≤ d ∧ d < 132
    let busy := (s.m.eng (d - 127)).state = .running ∨ (s.m.eng (d - 127)).state = .waiting
    let parked := s.m.hasSpine = false ∨ ∀ p : Fin 32, p.val / 8 = d - 128 → (s.m.stn p).st = .disabled ∨ (s.m.stn p).st = .dead
    let still := spine ∧ ¬ busy ∧ parked
    (x.reg (wA w)).toNat = d → inScope e (domQuad d) = true → s.m.clk.astop = false →
    (Issues s e w 0x60 → d < 128 → y.st = .on → (∀ n, n / 4 = d → (s.m.niu n).unit = none) →
      DoesAt (.domDrain e) s e (waits (.drain d)) ((s.m.readPc e).modDom d (fun y => { y with st := .draining }))) ∧
    (Issues s e w 0x60 → d < 128 → y.st = .on →
      ∃ t, exec (.domDrain e) s = .next t ∧ t.m.dom d = { y with st := .draining } ∧ (t.m.eng e).wait = .drain d ∧
        (∀ n, n / 4 = d → (t.m.niu n).unit = none)) ∧
    (Issues s e w 0x60 → still → y.st = .on →
      DoesAt (.domDrain e) s e (x.awaits w 0 []) ((s.m.readPc e).modDom d (fun y => { y with st := .drained }))) ∧
    (Issues s e w 0x60 → d < 132 → (y.st ≠ .on ∨ (spine ∧ (busy ∨ ¬ parked))) → Does (.domDrain e) s (gone 1)) ∧
    (Issues s e w 0x61 → d < 128 → y.st = .drained → DoesAt (.domFence e) s e (waits (.fence d)) ((s.m.readPc e).setFence d 1)) ∧
    (Issues s e w 0x61 → spine → ¬ busy → y.st = .drained →
      DoesAt (.domFence e) s e (x.awaits w 0 []) ((s.m.readPc e).modDom d (fun y => { y with st := .fenced }))) ∧
    (Issues s e w 0x61 → d < 132 → (y.st ≠ .drained ∨ (spine ∧ busy)) → Does (.domFence e) s (gone 1)) ∧
    (Issues s e w 0x62 → d < 128 → y.st = .fenced → s.m.twin.left = [] →
      ∃ t, exec (.domOff e) s = .next t ∧ t.m.eng e = x.awaits w 0 [] ∧ t.m.pwr.fence = (s.m.readPc e).pwr.fence ∧
        t.m.dom d = { y with st := .off, feed := 0, pgood := false, warn := false, pgWarn := false, lim := 0, timer := false,
                             live := false, alert := y.alert && !y.redo, flt := false, left := none } ∧
        (∀ n ∈ domNius d, t.m.niu n = ((s.m.readPc e).niu n).cleared) ∧ (∀ k, k / 96 = d → t.m.vc k = VcBuf.empty) ∧
        (∀ n ∈ tileLinks d, (s.m.link n).st ≠ .excl → (t.m.link n).st = if (s.m.link n).incl then .excl else .down)) ∧
    (Issues s e w 0x62 → still → y.st = .fenced →
      ∃ t, exec (.domOff e) s = .next t ∧ t.m.eng e = x.awaits w 0 [] ∧ (t.m.dom d).st = .off ∧ (t.m.eng (d - 127)).state = .off ∧
        (∀ p, t.m.stn p = (if p / 8 = d - 128 then { s.m.stn p with turnL := 0, turnS := [] } else s.m.stn p))) ∧
    (Issues s e w 0x62 → d < 132 → (y.st ≠ .fenced ∨ (spine ∧ (busy ∨ ¬ parked))) → Does (.domOff e) s (gone 1)) ∧
    (Issues s e w 0x63 → d < 132 → y.st = .off →
      DoesAt (.domOn e) s e (waits (.domOn d)) (((s.m.readPc e).modDom d (fun y =>
        { y with st := .ramp, retryP := false, latched := false, retries := (s.m.readPc e).fld (aDom d 0x08) 8 4, boot := false,
                 redo := true })).modPwr
          (fun p => { p with reqs := p.reqs.filter (fun k => k ≠ d) ++ [d] }))) ∧
    (Issues s e w 0x63 → d < 132 → y.st ≠ .off → Does (.domOn e) s (gone 1)) ∧
    (Issues s e w 0x64 → d < 132 → (y.st = .drained ∨ y.st = .fenced) →
      DoesAt (.domUnfence e) s e (x.awaits w 0 [])
        ((if d < 128 then (s.m.readPc e).setFence d 0 else (s.m.readPc e)).modDom d (fun y => { y with st := .on, lossF := false, alert := false }))) ∧
    (Issues s e w 0x64 → d < 132 → y.st ≠ .drained → y.st ≠ .fenced → Does (.domUnfence e) s (gone 1)) ∧
    (Issues s e w 0x65 → d < 133 → bf w 24 2 = 0 →
      DoesAt (.domFeed e) s e (x.awaits w 0 []) ((s.m.readPc e).modDom d (fun y => { y with mode := 0 }))) ∧
    (∀ k, Issues s e w 0x65 → d < 133 → bf w 24 2 = k → (k = 1 ∨ k = 2) → s.m.feedOk k = true → y.feed ≠ 0 → y.feed ≠ k →
      s.m.pwr.blank = true →
      DoesAt (.domFeed e) s e { x with insn := w, state := .waiting, wait := .feed d }
        ((s.m.readPc e).modDom d (fun y => { y with mode := k }))) ∧
    (∀ k, Issues s e w 0x65 → d < 133 → bf w 24 2 = k → (k = 1 ∨ k = 2) → s.m.feedOk k = true → y.feed ≠ 0 → y.feed ≠ k →
      s.m.pwr.blank = false →
      DoesAt (.domFeed e) s e (x.awaits w 0 [])
        ((((s.m.readPc e).modDom d (fun y => { y with mode := k, feed := k, warn := false, pgWarn := y.pgWarn && !y.pgood })).orReg (aDom d 0x18) 8).addFld (aDom d 0x20) 16 16 1)) ∧
    (∀ k, Issues s e w 0x65 → d < 133 → bf w 24 2 = k → (k = 1 ∨ k = 2) → s.m.feedOk k = false → Does (.domFeed e) s (gone 1)) ∧
    (∀ k, Issues s e w 0x65 → d < 133 → bf w 24 2 = k → (k = 1 ∨ k = 2) → s.m.feedOk k = true → (y.feed = 0 ∨ y.feed = k) →
      DoesAt (.domFeed e) s e (x.awaits w 0 []) ((s.m.readPc e).modDom d (fun y => { y with mode := k }))) ∧
    (Issues s e w 0x65 → d < 133 → bf w 24 2 = 3 → Does (.domFeed e) s (gone 3)) ∧
    (Issues s e w 0x60 → d = 132 → Does (.domDrain e) s (gone 3)) ∧ (Issues s e w 0x61 → d = 132 → Does (.domFence e) s (gone 3)) ∧
    (Issues s e w 0x62 → d = 132 → Does (.domOff e) s (gone 3)) ∧ (Issues s e w 0x63 → d = 132 → Does (.domOn e) s (gone 3)) ∧
    (Issues s e w 0x64 → d = 132 → Does (.domUnfence e) s (gone 3)) ∧
    (Issues s e w 0x66 → d < 133 → DoesAt (.domStat e) s e (x.awaits w 0 [(wD w, (s.m.readPc e).pdStat d)]) (s.m.readPc e))

/-- The ends of the waits of DOM.DRAIN and DOM.FENCE (R390, R391, R394), and the parts of a power-up (R374, R375): the oldest
request ramps on a valid feed within the inrush limit; power-good; the release of reset; the end of initialization, after which the
always-on domain, like any other, is ON in start-up and FENCED after a retry (R372, R387). The 1 µs of R383 counted as 100 cycles of
the AON clock since the last slice left its limit is the model's choice (log entry 116), as are the zero registers and flags of an
engine (log entry 7) and the zero turn bits of a station (log entry 6) that come up. That a start-up domain is in RAMP with no
switch closed while neither feed is valid is read from the spec by inference (log entry 67). -/
def Obligations.DomainSteps : Prop :=
  ∀ (s : State) (e : EngId) (d : Dom) (v : Meas) (rest : List Nat),
    let x := s.m.eng e
    let y := s.m.dom d
    let only (k : Wait) := x.state = .waiting ∧ x.wait = k ∧ ∀ j, j ≠ e.val → (s.m.eng j).wait ≠ k
    s.m.test.scan = false →
    (d < 128 → y.st = .draining → s.m.drainMet d = true → only (.drain d) →
      DoesAt (.domainDrained d) s e { x with wait := .done 0 [], limit := none } (s.m.modDom d (fun y => { y with st := .drained }))) ∧
    (y.st ≠ .draining ∨ s.m.drainMet d = false → Does (.domainDrained d) s s.m) ∧
    (d < 128 → y.st = .drained → s.m.allQuiet d = true → only (.fence d) →
      DoesAt (.domainFenced d) s e { x with wait := .done 0 [], limit := none } (s.m.modDom d (fun y => { y with st := .fenced }))) ∧
    (y.st ≠ .drained ∨ s.m.allQuiet d = false ∨ (∀ j, (s.m.eng j).wait ≠ .fence d) → Does (.domainFenced d) s s.m) ∧
    (s.m.pwr.reqs = d.val :: rest → (∀ k, (s.m.dom k).st = .ramp → (s.m.dom k).feed = 0 ∨ (s.m.dom k).pgood = true) →
      Tab.wf dDom s.m.pwr.doms = true → y.mode = 0 → s.m.pwr.feedA = true →
      Does (.rampAdmit d) s ((s.m.modDom d (fun y => { y with st := .ramp, feed := 1 })).modPwr (fun p => { p with reqs := rest }))) ∧
    (s.m.pwr.reqs.head? ≠ some d.val → Does (.rampAdmit d) s s.m) ∧
    (s.m.pwr.reqs = d.val :: rest → (∀ k, (s.m.dom k).st = .ramp → (s.m.dom k).feed = 0 ∨ (s.m.dom k).pgood = true) →
      Tab.wf dDom s.m.pwr.doms = true → s.m.pwr.feedA = false → s.m.pwr.feedB = false →
      Does (.rampAdmit d) s (s.m.modDom d (fun y => { y with st := .ramp }))) ∧
    (y.feed ≠ 0 → y.pgood = false → y.lim = 0 → (∀ k, y.left = some k → k + 100 ≤ s.m.clk.aon) →
      95 * s.m.nomMv ≤ 400 * v.rail.toNat →
      Does (.powerGoodRise d v) s (s.m.modDom d (fun y =>
        { y with peak := max y.peak v.current.toNat, minV := min y.minV v.rail.toNat, pgood := true, timer := false,
                 pgWarn := y.pgWarn && !s.m.feedOk y.feed && decide (400 * s.m.feedVol y.feed < 94 * s.m.nomMv) }))) ∧
    (y.lim ≠ 0 ∨ (∃ k, y.left = some k ∧ s.m.clk.aon < k + 100) ∨ 400 * v.rail.toNat < 95 * s.m.nomMv →
      Does (.powerGoodRise d v) s s.m) ∧
    (d < 132 → s.m.pwr.aonUp = true → y.pgood = true → y.st = .ramp →
      Does (.domainResetRelease d) s (s.m.modDom d (fun y => { y with st := .init }))) ∧
    (s.m.pwr.aonUp = false ∨ y.pgood = false ∨ y.st ≠ .ramp → Does (.domainResetRelease d) s s.m) ∧
    (d < 128 → y.st = .init → y.live = false →
      ∃ t, exec (.domainInitDone d) s = .next t ∧ (t.m.dom d).live = true ∧
        (∀ n ∈ domNius d, t.m.reg (aNiu n 0x10) = s.m.pwr.fence.extractLsb' 0 64 ∧
          t.m.reg (aNiu n 0x18) = s.m.pwr.fence.extractLsb' 64 64) ∧
        (∀ n ∈ domNius d, n < 512 → (t.m.niu n).inc = (s.m.niu n).incPin ∧ (t.m.niu n).ratio = (s.m.niu n).ratPin ∧
          (t.m.niu n).hold = true) ∧
        (∀ n ∈ tileLinks d, (s.m.link n).st = .down → s.m.domLive (linkTile n) = true ∨ linkTile n = d →
          s.m.domLive (linkTile2 n) = true ∨ linkTile2 n = d → (t.m.link n).st = .train)) ∧
    (d.val = 132 → y.st = .init → y.live = false →
      ∃ t, exec (.domainInitDone d) s = .next t ∧ t.m.domLive 132 = true ∧ (t.m.dom 132).st = if y.boot then .on else .fenced) ∧
    (128 ≤ d.val → d < 132 → y.st = .init → y.live = false →
      ∃ t, exec (.domainInitDone d) s = .next t ∧ t.m.eng (d - 127) = { Eng.init with state := .idle, post := (s.m.eng (d - 127)).post } ∧
        (∀ i, i < 8 → t.m.stn (8 * (d - 128) + i) = { Station.init with st := if y.boot then .enabled else .disabled }))

/-- A trip or a supply loss opens a domain (R379, R380, R382, R385 to R387): it is OFF with no leg closed, the cause is marked, its
alert stands, a retry waits or the domain is latched; a tile's fence bit is set, the engine of a spine domain is OFF and its
stations that were not DISABLED are to be DEAD from the next slot on (R230), and with the always-on domain every other loses its
reset release. That the turn bits of those stations are zero is the model's choice (log entry 6). That a retry puts the domain in
RAMP from its request on is the model's choice (log entry 67), as is that a timer trip opens nothing once no slice has been in its
limit for 1 µs (log entry 71). -/
def Obligations.DomainOpening : Prop :=
  ∀ (s : State) (d : Dom) (v : Meas) (u : BitVec 8),
    let y := s.m.dom d
    let opened (t : State) (bit : Nat) : Prop :=
      (t.m.dom d).st = .off ∧ (t.m.dom d).feed = 0 ∧ (t.m.dom d).live = false ∧ (t.m.dom d).pgood = false ∧ (t.m.dom d).alert = true ∧
      bt (t.m.reg (aDom d 0x18)) bit = true ∧
      (y.retries = 0 → (t.m.dom d).latched = true) ∧ (y.retries ≠ 0 → (t.m.dom d).retryP = true) ∧
      (d < 128 → (t.m.dom d).lossF = true ∧ bt t.m.pwr.fence d = true ∧
        ∀ n ∈ tileLinks d, (s.m.link n).st ≠ .excl → (t.m.link n).st = if (s.m.link n).incl then .excl else .down) ∧
      (128 ≤ d.val → d.val < 132 → (t.m.eng (d - 127)).state = .off ∧
        (s.m.hasSpine = true → ∀ p : Fin 32, t.m.stn p = (if p.val / 8 = d - 128 then { s.m.stn p with
          turnL := 0, turnS := [], onReq := false, onDue := false, dying := decide ((s.m.stn p).st ≠ .dead ∧ (s.m.stn p).st ≠ .disabled) }
          else s.m.stn p))) ∧
      t.guards = s.guards ∧ t.pending = s.pending
    let held (t : State) : Prop := d.val = 132 → t.m.pwr.aonUp = false ∧ ∀ k, k < 132 → (s.m.dom k).pgood = true → (t.m.dom k).live = false
    s.m.test.scan = false →
    (y.feed ≠ 0 → ∃ t, exec (.fastTrip d v) s = .next t ∧ opened t 0 ∧ held t) ∧
    (y.feed ≠ 0 → y.timer = true → y.lim ≠ 0 → ∃ t, exec (.timerTrip d) s = .next t ∧ opened t 1 ∧ held t) ∧
    (y.st = .ramp → y.feed ≠ 0 → y.pgood = false → y.lim = 0 → ∃ t, exec (.powerGoodDeadline d) s = .next t ∧ opened t 1 ∧ held t) ∧
    (d.val < 132 → (y.feed = 1 ∨ y.feed = 2) → s.m.pwr.blank = false → s.m.feedOk (3 - y.feed) = false → 400 * u.toNat < 88 * s.m.nomMv →
      ∃ t, exec (.supplyLoss ⟨d, u⟩) s = .next t ∧ opened t 2) ∧
    (y.feed = 0 → Does (.fastTrip d v) s s.m ∧ Does (.timerTrip d) s s.m ∧ Does (.supplyLoss ⟨d, u⟩) s s.m) ∧
    (s.m.pwr.blank = true ∨ 88 * s.m.nomMv ≤ 400 * u.toNat ∨ s.m.feedOk (3 - y.feed) = true → Does (.supplyLoss ⟨d, u⟩) s s.m) ∧
    (y.timer = false ∨ s.m.limQuiet d = true → Does (.timerTrip d) s s.m) ∧
    (y.lim ≠ 0 → Does (.powerGoodDeadline d) s s.m) ∧
    (y.st = .off → y.retryP = true →
      ∃ t, exec (.retryTimer d) s = .next t ∧
        t.m.dom d = { y with st := .ramp, retryP := false, latched := false, retries := y.retries - 1 } ∧
        t.m.pwr.reqs = s.m.pwr.reqs.filter (fun k => k ≠ d.val) ++ [d.val] ∧ bt (t.m.reg (aDom d 0x18)) 6 = true) ∧
    (y.retryP = false → Does (.retryTimer d) s s.m) ∧
    (y.pgood = true →
      Does (.retryReload d) s (s.m.modDom d (fun y => { y with retries := s.m.fld (aDom d 0x08) 8 4 }))) ∧
    (y.pgood = false → Does (.retryReload d) s s.m)

/-- Feeds and protection of a domain (R369, R370, R376 to R378, R382 to R384, R388): a changeover when the selected feed has failed
and the other is valid, a return, the warnings, power-good, which falls below 90 %, and the slices in the limit, the measured codes.
That a row of one domain's feed also tells the voltage and the validity of the feed is the model's choice (log entry 125). -/
def Obligations.FeedsAndLimits : Prop :=
  ∀ (s : State) (d : Dom) (slice : SwSlice) (v : Meas) (u : BitVec 8) (b valid : Bool) (c : Word) (mid : BitVec 16),
    let y := s.m.dom d
    let p := s.m.pwr
    let nom : Nat := match s.m.fld 0xC4008 16 2 with
      | 1 => 700
      | 2 => 600
      | _ => 800
    let under (k : Nat) : Prop := 400 * u.toNat < k * nom
    let heard (k : Nat) : Mach := s.m.modPwr (fun p =>
      if k = 1 then { p with volA := u.toNat, feedA := p.feedA && decide (97 * nom ≤ 400 * u.toNat) }
      else { p with volB := u.toNat, feedB := p.feedB && decide (97 * nom ≤ 400 * u.toNat) })
    let still := d < 128 → ∀ n, n / 4 = d.val → (s.m.niu n).unit = none
    let others := ∀ k, k ≠ d.val → (s.m.dom k).mode = 0 ∨ (s.m.dom k).feed = 0 ∨ (s.m.dom k).feed = (s.m.dom k).mode
    let noWaits := ∀ j k, (s.m.eng j).wait ≠ .feed k
    let fell (m : Mach) : Mach :=
      ((m.modDom d (fun y => { y with pgood := false, pgWarn := if p.blank then y.pgWarn else true })).orReg (aDom d 0x18) 128).addFld (aDom d 0x20) 32 16 1
    let seen (m : Mach) : Mach := m.modDom d (fun y => { y with peak := max y.peak v.current.toNat, minV := min y.minV v.rail.toNat })
    let swap (m : Mach) (k : Nat) : Mach :=
      ((m.modDom d (fun y => { y with feed := k, warn := false, pgWarn := y.pgWarn && !y.pgood })).orReg (aDom d 0x18) 8).addFld (aDom d 0x20) 16 16 1
    s.m.test.scan = false →
    (y.feed = 1 → p.blank = false → under 96 → p.feedB = true → y.mode = 0 → Does (.feedChangeover ⟨d, u⟩) s (swap (heard 1) 2)) ∧
    (y.feed = 2 → p.blank = false → under 96 → p.feedA = true → y.mode = 2 →
      Does (.feedChangeover ⟨d, u⟩) s (swap (((heard 2).modDom d (fun y => { y with mode := 0 })).orReg (aDom d 0x18) 16) 1)) ∧
    (y.feed = 1 → p.blank = false → under 96 → p.feedB = false → y.mode = 0 → Does (.feedChangeover ⟨d, u⟩) s (heard 1)) ∧
    (y.feed = 1 → p.blank = false → under 96 → p.feedB = false → y.mode = 1 →
      Does (.feedChangeover ⟨d, u⟩) s (((heard 1).modDom d (fun y => { y with mode := 0 })).orReg (aDom d 0x18) 16)) ∧
    (p.blank = true ∨ y.feed = 0 ∨ ¬ under 96 → Does (.feedChangeover ⟨d, u⟩) s s.m) ∧
    (y.mode = 0 → y.feed = 2 → p.feedA = true → p.blank = false → Does (.feedReturn d) s (swap s.m 1)) ∧
    (y.mode ≠ 0 ∨ y.feed ≠ 2 ∨ p.feedA = false ∨ p.blank = true → Does (.feedReturn d) s s.m) ∧
    ((y.feed = 1 ∨ y.feed = 2) → p.blank = false → s.m.feedOk (3 - y.feed) = false → under 94 → y.mode = 0 → still →
      Does (.feedWarnRaise ⟨d, u⟩) s ((heard y.feed).modDom d (fun y => { y with warn := true }))) ∧
    ((y.feed = 1 ∨ y.feed = 2) → p.blank = false → s.m.feedOk (3 - y.feed) = false → under 94 →
      ∃ t, exec (.feedWarnRaise ⟨d, u⟩) s = .next t ∧ (t.m.dom d).warn = true ∧ (t.m.dom d).mode = 0 ∧
        (d < 128 → ∀ n, n / 4 = d.val → (t.m.niu n).unit = none)) ∧
    (p.blank = true ∨ y.feed = 0 ∨ s.m.feedOk (3 - y.feed) = true ∨ ¬ under 94 → Does (.feedWarnRaise ⟨d, u⟩) s s.m) ∧
    ((y.feed = 1 ∨ y.feed = 2) → (y.warn = true ∨ y.pgWarn = true) → ¬ under 94 →
      Does (.feedWarnEnd ⟨d, u⟩) s ((heard y.feed).modDom d (fun y => { y with warn := false, pgWarn := y.pgWarn && !y.pgood }))) ∧
    ((y.warn = false ∧ y.pgWarn = false) ∨ under 94 → Does (.feedWarnEnd ⟨d, u⟩) s s.m) ∧
    (p.phase ≠ 1 → (valid = true ↔ ¬ under 97) → Does (.feedValidityChange b ⟨valid, u⟩) s
      { s.m with pwr := if b then { p with feedB := valid, volB := u.toNat } else { p with feedA := valid, volA := u.toNat } }) ∧
    ((valid = true ↔ under 97) → Does (.feedValidityChange b ⟨valid, u⟩) s s.m) ∧
    (others → (y.mode = 0 ∨ y.feed = 0 ∨ y.feed = y.mode) → noWaits →
      Does .nomBlankEnd s { s.m with pwr := { p with blank := false } }) ∧
    (others → y.mode = 2 → y.feed = 1 → p.feedB = true → noWaits →
      Does .nomBlankEnd s (swap { s.m with pwr := { p with blank := false } } 2)) ∧
    (p.aonUp = true → Does (.pwrCfgNomWrite c) s
      { s.m.setReg 0xC4008 (mkf 64 0 18 c.toNat) with pwr := { p with blank := true } }) ∧
    (y.feed ≠ 0 → y.pgood = true → 400 * v.rail.toNat < 90 * nom → still → Does (.powerGoodFall d v) s (fell (seen s.m))) ∧
    (y.feed = 0 ∨ y.pgood = false ∨ 90 * nom ≤ 400 * v.rail.toNat → Does (.powerGoodFall d v) s s.m) ∧
    (y.feed ≠ 0 → slice.val < domSlices d → y.pgood = true → still →
      Does (.sliceLimitEnter d slice v) s (fell ((seen s.m).modDom d (fun y =>
        { y with lim := y.lim ||| BitVec.ofNat 32 (2 ^ slice.val), timer := true })))) ∧
    (y.feed ≠ 0 → slice.val < domSlices d → y.pgood = false →
      Does (.sliceLimitEnter d slice v) s ((seen s.m).modDom d (fun y =>
        { y with lim := y.lim ||| BitVec.ofNat 32 (2 ^ slice.val), timer := true }))) ∧
    (y.feed = 0 ∨ domSlices d ≤ slice.val → Does (.sliceLimitEnter d slice v) s s.m) ∧
    (y.lim.getLsbD slice = true → Does (.sliceLimitLeave d slice) s (s.m.modDom d (fun y =>
      { y with lim := y.lim &&& ~~~BitVec.ofNat 32 (2 ^ slice.val), left := some s.m.clk.aon }))) ∧
    (y.lim.getLsbD slice = false → Does (.sliceLimitLeave d slice) s s.m) ∧
    (Takes s (aDom d 0x10) → bt c 0 = true →
      Does (.clrMeas d c true mid) s ((s.m.modDom d (fun y => { y with peak := 0, minV := 255 })).answerFar 0 0)) ∧
    (Takes s (aDom d 0x10) → bt c 0 = false → Does (.clrMeas d c true mid) s (s.m.answerFar 0 0))

/-- Instance reset and start-up (R368, R371 to R373, R379, R431, R477): pw_por_n at 0 and a supply loss of the always-on domain
leave every domain open, every register at its reset value and no guard configuration; t0 with both clocks running, qualification,
the release of the always-on reset, after which the master's post counter goes on (R333), and pw_ready follow in order; pw_ready
ends the stop of a port for start-up, not the one after a release from port reset (R80). The zero registers and flags of the engines
after reset and release are the model's choice (log entry 7). -/
def Obligations.StartUp : Prop :=
  ∀ (s : State) (b : Bool) (flag : Bool) (u : BitVec 8),
    let p := s.m.pwr
    let fresh (t : State) : Prop := (∀ d, t.m.dom d = PDom.init) ∧ (∀ a, t.m.reg a = regReset a) ∧ t.guards = [] ∧
      t.m.pwr.aonUp = false ∧ t.m.pwr.ready = false ∧ t.m.pwr.phase = 0 ∧ t.m.engs = State.reset.m.engs ∧ t.m.straps = s.m.straps ∧
      t.m.frees = s.m.frees ∧ t.m.clk = s.m.clk ∧ t.pending = s.pending
    (∃ t, exec .porAssert s = .next t ∧ fresh t ∧ t.m.pwr.porN = false) ∧
    (s.m.test.scan = false → s.m.stuckFeed 132 u.toNat 88 = true → ∃ t, exec (.supplyLoss ⟨132, u⟩) s = .next t ∧ fresh t) ∧
    (s.m.test.scan = false → p.phase = 0 → s.m.test.tap ≠ 3 → s.m.test.tap ≠ 4 → s.m.clk.fstop = false → s.m.clk.astop = false →
      Does .startupT0 s { s.m with pwr := { p with phase := 1, porN := true } }) ∧
    (s.m.test.scan = false → p.phase ≠ 0 ∨ s.m.test.tap = 3 ∨ s.m.test.tap = 4 ∨ s.m.clk.fstop = true ∨ s.m.clk.astop = true →
      Does .startupT0 s s.m) ∧
    (s.m.test.scan = false → p.phase = 1 → (if b then p.feedA else p.feedB) = true → 97 * s.m.nomMv ≤ 400 * u.toNat →
      Does (.feedValidityChange b ⟨true, u⟩) s (({ s.m with pwr :=
        { p with feedA := true, feedB := true, phase := 2, reqs := p.reqs ++ [132],
                 volA := if b then p.volA else u.toNat, volB := if b then u.toNat else p.volB } } : Mach).modDom 132 (fun y =>
          { y with boot := true }))) ∧
    (s.m.test.scan = false → (s.m.dom 132).st = .ramp → (s.m.dom 132).pgood = true → p.phase = 2 →
      ∃ t, exec (.aonResetRelease flag) s = .next t ∧ (t.m.dom 132).st = .init ∧ t.m.pwr.aonUp = true ∧ t.m.pwr.phase = 3 ∧
        t.m.keep = { Keeper.init with tpFlag := flag, tpAck := flag } ∧ t.m.eng 0 = { Eng.init with post := (s.m.eng 0).post } ∧
        t.m.pwr.reqs = p.reqs ++ ([128, 129, 130, 131] ++ List.range 128) ∧ (∀ d, d < 132 → (t.m.dom d).boot = true)) ∧
    (s.m.test.scan = false → (s.m.dom 132).st ≠ .ramp ∨ (s.m.dom 132).pgood = false → Does (.aonResetRelease flag) s s.m) ∧
    (s.m.test.scan = false → p.ready = false → 2 ≤ p.phase →
      ∃ t, exec .startupReady s = .next t ∧ t.m.pwr.ready = true ∧ t.m.pwr.phase = 5 ∧
        t.m.pwr.missing = ((List.range 133).filter (fun d => decide ((s.m.dom d).st ≠ .on))).length ∧
        (∀ n, (s.m.dom (epTile n)).st = .on → (t.m.niu n).hold = ((s.m.niu n).hold && (s.m.niu n).relHold)) ∧
        (∀ n, (s.m.dom (epTile n)).st ≠ .on → (t.m.niu n).hold = (s.m.niu n).hold)) ∧
    (s.m.test.scan = false → p.ready = true → Does .startupReady s s.m)

/-- The twin instructions (R362, R402, R415 to R417), accepted from the master only: PL.DETACH and PL.MIGRATE start a move in
ATTACHED, with notices to every running port where this plane stays; PL.ATTACH starts the sweep in DETACHED where this plane
carries every flow; the statuses of each. -/
def Obligations.TwinInstructions : Prop :=
  ∀ (s : State) (e : EngId) (w : Word) (n : Nat),
    let x := s.m.eng 0
    let own := s.m.straps.planeB
    let a := (x.reg (wA w)).toNat
    let b := (x.reg (wB w)).toNat
    let gone (st : Nat) : Mach := ((s.m.readPc e).modEng e (fun x => { x with insn := w })).endStatus e st []
    let waits (t : State) : Prop := (t.m.eng 0).state = .waiting ∧ (t.m.eng 0).wait = .twin ∧ (t.m.eng 0).insn = w ∧
      (t.m.eng 0).limit = limitCycles s.m.clk.mode (bf w 0 24) ∧ (∀ j, j ≠ 0 → t.m.eng j = s.m.eng j)
    let moves (t : State) (op first last : Nat) (dst : Bool) : Prop :=
      t.m.twin.st = .detaching ∧ t.m.twin.op = op ∧ t.m.twin.opSelf = true ∧ t.m.twin.opTo = dst ∧ t.m.twin.first = first ∧
      t.m.twin.last = last ∧ t.m.twin.map = s.m.twin.map
    (Issues s 0 w 0xB0 → s.m.twin.st = .attached → bt w 24 = false →
      ∃ t, exec (.plDetach 0) s = .next t ∧ waits t ∧ moves t 2 0 0xFFFD (!own) ∧ (∀ k, t.m.niu k = (s.m.readPc 0).niu k)) ∧
    (Issues s 0 w 0xB0 → s.m.twin.st = .attached → bt w 24 = true → n < 512 → s.m.portRuns n = true →
      ∃ t, exec (.plDetach 0) s = .next t ∧ waits t ∧ moves t 2 0 0xFFFD own ∧
        t.m.twin.left = (List.range 512).filter (fun k => (s.m.readPc 0).portRuns k) ∧ (t.m.niu n).notice = true ∧ (t.m.niu n).arrive = true ∧
        (t.m.niu n).ready = ((s.m.readPc 0).niu n).ready ++
          [⟨.service, ⟨(s.m.readPc 0).ownHead n 0x3E ((s.m.readPc 0).noticeRec 0 0xFFFD own 1).toNat, [], false⟩, none, false, 16, none, none⟩]) ∧
    (Issues s 0 w 0xB2 → s.m.twin.st = .attached → b ≠ 0 → b ≤ 65536 → a + b ≤ 0xFFFE →
      ∃ t, exec (.plMigrate 0) s = .next t ∧ waits t ∧ moves t 3 a (a + b - 1) (!own)) ∧
    (Issues s 0 w 0xB2 → (b = 0 ∨ 65536 < b ∨ 0xFFFE < a + b) → e = 0 → Does (.plMigrate 0) s (gone 3)) ∧
    (Issues s 0 w 0xB1 → s.m.twin.st = .detached → s.m.allOn own = true →
      ∃ t, exec (.plAttach 0) s = .next t ∧ waits t ∧ t.m.twin.st = .attaching ∧ t.m.twin.op = 1 ∧ t.m.twin.opSelf = true ∧
        t.m.twin.sweep = 0 ∧ (∀ f, t.m.planeOf f = own)) ∧
    (Issues s e w 0xB0 → e = 0 → s.m.twin.st ≠ .attached → Does (.plDetach e) s (gone 1)) ∧
    (Issues s e w 0xB2 → b ≠ 0 → b ≤ 65536 → a + b ≤ 0xFFFE → e = 0 → s.m.twin.st ≠ .attached → Does (.plMigrate 0) s (gone 1)) ∧
    (Issues s e w 0xB1 → e = 0 → (s.m.twin.st ≠ .detached ∨ s.m.allOn own = false) → Does (.plAttach e) s (gone 1)) ∧
    (Issues s e w 0xB0 → e ≠ 0 → Does (.plDetach e) s (gone 6)) ∧
    (Issues s e w 0xB1 → e ≠ 0 → Does (.plAttach e) s (gone 6)) ∧
    (Issues s e w 0xB2 → e ≠ 0 → Does (.plMigrate e) s (gone 6))

/-- A frame of the twin link (R407): one that fails its CRC sets LINK_ERR and asks for a resend; the next one in order is taken,
whose records wait to be applied and whose heartbeat waits for its row; a later one is discarded and asked for again. The records of
the twin link (R408, R410, R417) where the entries they change are at hand: what each does to the shadow tracker, the halves of the
flow's entry and the atomic result cache; a row of another type than the next record does nothing. A COPY frame next to be taken
(R417): its state fields enter the flow's own entry at its source and at its destination. The model's choices (log entry 17): a
frame with UP = 0, or one of an end whose link is not trained, carries nothing; the first of four records lies lowest. That such a
frame shows a live twin is its choice too (log entry 137), and that each packet of a message has a RETIRE of its own, with the last
of which the shadow entry leaves (log entry 128). That the record of a message keeps the numbers of its packets is read from the
spec by inference (log entry 117). -/
def Obligations.TwinLink : Prop :=
  (∀ (s : State) (data : BitVec 512) (ctl : BitVec 30) (crc : BitVec 32),
      let x := s.m.twin
      let kind := fKind ctl
      s.m.test.scan = false → s.m.pwr.aonUp = true →
      (x.trained = false → twinCrc data ctl ≠ crc → Does (.twinFrameReceive data ctl crc) s s.m) ∧
      (x.trained = false → twinCrc data ctl = crc →
        Does (.twinFrameReceive data ctl crc) s { s.m with twin := { x with live := true } }) ∧
      (x.trained = true → twinCrc data ctl ≠ crc →
        Does (.twinFrameReceive data ctl crc) s { s.m.orReg 0xE0010 4 with twin := { x with nakOut := true } }) ∧
      (x.trained = true → twinCrc data ctl = crc → fUp ctl = true → kind = 1 → fSeq ctl = x.rseq → x.rx = [] → x.rxq = [] → frameRecs data ≠ [] →
        ∃ t, exec (.twinFrameReceive data ctl crc) s = .next t ∧ t.m.twin.rxq = frameRecs data ∧ t.m.twin.rseq = (x.rseq + 1) % 256 ∧
          t.m.twin.nakOut = false ∧ t.m.twin.map = x.map ∧ (∀ k, t.m.niu k = s.m.niu k)) ∧
      (x.trained = true → twinCrc data ctl = crc → fUp ctl = true → kind = 2 → fSeq ctl = x.rseq → x.rx = [] →
        ∃ t, exec (.twinFrameReceive data ctl crc) s = .next t ∧ t.m.twin.hbIn = some (x.rseq, data) ∧ t.m.twin.rseq = (x.rseq + 1) % 256) ∧
      (x.trained = true → twinCrc data ctl = crc → fUp ctl = true → 1 ≤ kind → kind < 5 → fSeq ctl ≠ x.rseq → x.rx = [] →
        ∃ t, exec (.twinFrameReceive data ctl crc) s = .next t ∧
          t.m.twin.nakOut = (x.nakOut || decide ((fSeq ctl + 256 - x.rseq) % 256 < 128)) ∧ t.m.twin.rseq = x.rseq ∧ t.m.twin.rx = [] ∧
          t.m.twin.rxq = x.rxq ∧ t.m.twin.hbIn = x.hbIn) ∧
      (x.trained = true → twinCrc data ctl = crc → fUp ctl = false →
        Does (.twinFrameReceive data ctl crc) s { s.m with twin := { x with live := true } })) ∧
  (∀ (s : State) (r : BitVec 128) (rest : List (BitVec 128)) (f : BitVec 16) (n d : Nat),
      let x := s.m.twin
      let seq := rSeq r
      let next := (seq + 1).toNat
      let took (m : Mach) : Mach := { m with twin := { x with rxq := rest } }
      let has (k : Nat) : Prop := k < 512 ∧ s.m.domLive (epTile k) = true ∧ (s.m.niu k).entry f ≠ none
      let ty := rType r
      let gone (q : SRec) : SRec := if q.flow = f ∧ q.seqs.contains seq = true then { q with done := q.done ++ [seq] } else q
      s.m.test.scan = false → x.rxq = r :: rest → x.rx = [] → rFlow r = f → rEp r = n →
      (ty = 1 → has n → x.st ≠ .dead → bf r 62 6 ≠ opMSG → (s.m.niu n).shadow.length < 272 →
        Does .srecApply s (took (s.m.modNiu n (fun y =>
          { y.setSend f (fun g => sf g 64 16 next) with shadow := y.shadow ++ [rSrec r] })))) ∧
      (∀ q : SRec, ty = 1 → has n → x.st ≠ .dead → bf r 62 6 = opMSG → (s.m.niu n).shadow = [q] → q.opc = opMSG → q.flow = f →
        q.sub = bf r 76 6 → q.etag = bf r 68 8 → q.done = [] →
        Does .srecApply s (took (s.m.modNiu n (fun y =>
          { y.setSend f (fun g => sf g 64 16 next) with shadow := [{ q with seqs := q.seqs ++ [seq] }] })))) ∧
      (ty = 2 → n < 512 → s.m.domLive (epTile n) = true → x.st ≠ .dead →
        Does .retireApply s (took (s.m.modNiu n (fun y =>
          { y with shadow := (y.shadow.map gone).filter (fun q => q.seqs.any (fun k => !q.done.contains k)) })))) ∧
      (ty = 3 → has n →
        Does .rxmarkApply s (took (s.m.modNiu n (fun y => y.applyMark f seq (bf r 74 8) (bt r 73))))) ∧
      (ty = 4 → n < 512 → s.m.domLive (epTile n) = true → (s.m.niu n).atoms.length < 64 →
        Does .atomApply s (took (s.m.modNiu n (fun y => { y with atoms := y.atoms ++ [(f, seq, r.extractLsb' 18 64)] })))) ∧
      (ty = 5 → bf r 72 10 = d → has n → has d → n ≠ d →
        Does .orelApply s (took ((s.m.modNiu n (fun y => y.setSend f (fun g => sf g 64 16 next))).modNiu d (fun y =>
          y.setRecv f (fun g => sf g 304 16 next))))) ∧
      (ty = 6 → has n →
        Does .fstateApply s (took (s.m.modNiu n (fun y => y.setSend f (fun g =>
          sf (sf (sf g 64 16 seq.toNat) 51 2 (bf r 80 2)) 43 8 (bf r 72 8)))))) ∧
      ((ty ≠ 1 → Does .srecApply s s.m) ∧ (ty ≠ 2 → Does .retireApply s s.m) ∧ (ty ≠ 3 → Does .rxmarkApply s s.m) ∧
        (ty ≠ 4 → Does .atomApply s s.m) ∧ (ty ≠ 5 → Does .orelApply s s.m) ∧ (ty ≠ 6 → Does .fstateApply s s.m))) ∧
  (∀ (s : State) (c g : FlitBits) (j k : Nat) (l : List (Nat × FlitBits)),
      let f := c.extractLsb' 96 16
      let has (n : Nat) : Prop := n < 512 ∧ s.m.domLive (epTile n) = true ∧ (s.m.niu n).entry f ≠ none
      s.m.test.scan = false → s.m.twin.rxq = [] →
      (s.m.twin.rx = [⟨j, 3, c⟩] → s.m.copiesOf f = (k, g) :: l → eV g = true → has (eSrc g) → has (eDst g) → eSrc g ≠ eDst g →
        Does .copyApply s { (s.m.modNiu (eSrc g) (fun y => y.setSend f (sendState c))).modNiu (eDst g) (fun y =>
          y.setRecv f (recvState c)) with twin := { s.m.twin with rx := [] } }) ∧
      (s.m.twin.rx = [] → Does .copyApply s s.m))

/-- Heartbeats (R411, R412, R414, R418): one is due in every state but DOWN and is formed as it leaves (log entry 126); one received
ends the count of missed ones and tells the round trip and the offset; FAILED, and missed heartbeats, make the twin DEAD, make plane
B withdraw, or take the unit to DOWN. The twin's training and its loss (R399, R401, R405, R413, R415): ATTACHED where both planes
are fresh, DETACHED otherwise; a configuration fault instead where the planes or variants do not fit; DEAD with cause ABSENT; the
end of a notice and of a flush handshake. The model's choices: a DEAD twin that trains again (log entry 81); which plane carries the
flows of DETACHED after a training, and that the map is kept where two fresh planes attach (log entry 127); FT_ECHO before a first
heartbeat, and that the sequences start again with the training (log entry 82); the order of frames on the link (log entries 17 and
126). -/
def Obligations.TwinStates : Prop :=
  (∀ (s : State) (d : BitVec 512) (q : Nat) (live : Bool),
      let x := s.m.twin
      let k := min 15 (x.missed + 1)
      let rtt : Int := (s.m.ftNs : Int) - bf d 64 64 - bf d 128 32
      let full := x.st = .attached ∨ x.st = .detaching
      s.m.test.scan = false → s.m.pwr.aonUp = true → s.m.clk.astop = false →
      (x.st = .down → Does .hbSend s s.m) ∧
      (x.st ≠ .down → Does .hbSend s { s.m with twin := { x with hbDue := true } }) ∧
      (let h := s.m.hbFrame
       bf h 0 64 = s.m.ftNs % 2 ^ 64 ∧ bt h 175 = (x.failed || x.wdrawn) ∧ bt h 174 = decide (s.m.keep.st = .track) ∧
         bt h 172 = s.m.straps.planeB ∧ bf h 160 8 = x.st.code ∧ bf h 176 16 = x.hbSeq % 65536 ∧ bf h 64 64 = x.lastFt % 2 ^ 64 ∧
         bf h 128 32 = (s.m.ftNs - x.lastAt) % 2 ^ 32) ∧
      (x.hbDue = true → x.again = [] → x.mayTx = true →
        let u := s.m.twinEdge.twin
        u.hbDue = false ∧ u.hbSeq = (x.hbSeq + 1) % 65536 ∧ u.unack = x.unack ++ [⟨x.fseq, 2, s.m.hbFrame, []⟩]) ∧
      (x.hbIn = none → Does .hbReceive s s.m) ∧
      (x.hbIn = some (q, d) → bt d 175 = false → s.m.timeFollow = false → ((bf d 0 64 : Int) + rtt / 2 - s.m.ftNs).natAbs ≤ s.m.skewMax →
        Does .hbReceive s { s.m with twin := { x with
          hbIn := none, missed := 0, twVar := bf d 168 4, rtt := rtt, offset := (bf d 0 64 : Int) + rtt / 2 - s.m.ftNs,
          lastFt := bf d 0 64, lastAt := s.m.ftNs } }) ∧
      (x.hbIn = some (q, d) → bt d 175 = true → s.m.timeFollow = false → x.cfgBad = false → full →
        ∃ t, exec .hbReceive s = .next t ∧ t.m.twin.st = .dead ∧ t.m.twin.cause = 1 ∧ (∀ f, t.m.planeOf f = s.m.straps.planeB)) ∧
      (x.hbIn = some (q, d) → bt d 175 = true → s.m.timeFollow = false → x.cfgBad = false → (x.st = .attaching ∨ x.st = .detached) →
        ∃ t, exec .hbReceive s = .next t ∧ t.m.twin.st = .down ∧ t.m.twin.trained = false ∧ t.m.twin.map = x.map) ∧
      (x.st ≠ .down → x.hbIn = none → k < 3 →
        Does (.hbMissed live) s (({ s.m with twin := { x with live := live, missed := k } } : Mach).addFld 0xE0018 32 16 1)) ∧
      (x.st = .down ∨ x.hbIn ≠ none → Does (.hbMissed live) s { s.m with twin := { x with live := live } }) ∧
      (full → x.hbIn = none → x.cfgBad = false → 4 ≤ k → (live = false ∨ s.m.straps.planeB = false) →
        ∃ t, exec (.hbMissed live) s = .next t ∧ t.m.twin.st = .dead ∧ t.m.twin.cause = (if live then 2 else 0) ∧
          (∀ f, t.m.planeOf f = s.m.straps.planeB)) ∧
      (full → x.hbIn = none → x.cfgBad = false → 3 ≤ k → live = true → s.m.straps.planeB = true → x.wdrawn = false → s.m.safe = false →
        ∃ t, exec (.hbMissed live) s = .next t ∧ t.m.twin.wdrawn = true ∧ t.m.safe = true ∧ t.m.flt.cause = 2 ∧ t.m.twin.st = x.st)) ∧
  (∀ (s : State) (fresh plane : Bool) (variant : BitVec 4) (ep : Ep) (k : Nat) (t0 : TT),
      let x := s.m.twin
      let y := s.m.niu ep
      s.m.test.scan = false →
      (s.m.pwr.aonUp = true → x.cfgBad = false → (x.st = .down ∨ x.st = .dead) → plane ≠ s.m.straps.planeB →
        variant.toNat = s.m.straps.variant →
        ∃ t, exec (.twinLinkTrained fresh variant plane) s = .next t ∧ t.m.twin.trained = true ∧
          t.m.twin.st = (if fresh && x.fresh then .attached else .detached) ∧ t.m.twin.map = x.map ∧ ((fresh && x.fresh) = true → ∀ f, t.m.planeOf f = x.mapOf f) ∧
          (x.fresh = true → fresh = false → ∀ f, t.m.planeOf f = !s.m.straps.planeB) ∧
          (x.fresh = false → fresh = true → ∀ f, t.m.planeOf f = s.m.straps.planeB) ∧
          (x.fresh = false → fresh = false → ∀ f, t.m.planeOf f =
            (if x.whole.isSome = true ∨ s.m.allOn true = true ∨ s.m.allOn false = true then s.m.planeOf f else false))) ∧
      (s.m.pwr.aonUp = true → x.cfgBad = false → (x.st = .down ∨ x.st = .dead) → (plane = s.m.straps.planeB ∨ variant.toNat ≠ s.m.straps.variant) →
        ∃ t, exec (.twinLinkTrained fresh variant plane) s = .next t ∧ t.m.twin = { x with cfgBad := true }) ∧
      (x.cfgBad = true → Does (.twinLinkTrained fresh variant plane) s s.m) ∧
      (s.m.pwr.ready = true → x.st = .down → x.cfgBad = false →
        ∃ t, exec .twinAbsentTimeout s = .next t ∧ t.m.twin.st = .dead ∧ t.m.twin.cause = 3 ∧ t.m.twin.recq = [] ∧
          (∀ f, t.m.planeOf f = s.m.straps.planeB) ∧
          (∀ n, n < 512 → (t.m.niu n).shadow = [] ∧ (t.m.niu n).arrive = false ∧ (t.m.niu n).notice = false)) ∧
      (s.m.pwr.ready = false ∨ x.st ≠ .down ∨ x.cfgBad = true → Does .twinAbsentTimeout s s.m) ∧
      (y.tt = [(k, some t0)] → k < 256 → t0.kind = .service → bf t0.hd 11 6 = 0x3E → y.treq = none → x.st ≠ .detaching →
        Does (.noticeAnswered ep) s (s.m.modNiu ep (fun y => { y with tt := [], notice := false }))) ∧
      (y.tt = [] → Does (.noticeAnswered ep) s s.m) ∧
      (x.st = .detaching → x.opTo = s.m.straps.planeB → x.left.contains ep.val = true → x.flushed.contains ep.val = true →
        y.notice = false → x.left.filter (fun n => n ≠ ep.val) ≠ [] →
        Does (.flushHandshakeDone ep) s { s.m.modNiu ep (fun y => { y with arrive := false }) with
          twin := { x with left := x.left.filter (fun n => n ≠ ep.val) } }) ∧
      (x.st ≠ .detaching ∨ x.flushed.contains ep.val = false ∨ y.notice = true → Does (.flushHandshakeDone ep) s s.m))

/-- Performance counters (R363, R436, R437, R439, R440): PC.CFG, once it completes, puts a configuration in force, PC.READ reads a
counter; the statuses they end with; a wrap marks OVF and, with SINT, reloads, keeps a snapshot and posts a SAMPLE event (class 11)
to the engine that configured the counter. Queue samplers (R268, R363, R442, R443): SMP.CFG puts a descriptor in force; a sample
counts one in a depth bin, one in an age bin and one in COUNT, updates the last and the largest values and posts a SAMPLE event at
the threshold; a sampler that is off or whose clock is FROZEN takes none. The model's choices: the snapshot of a packet event is the
head of the wrapping packet, and that of an engine event the address of one of the first instructions that complete from the wrap
on, which R440 leaves open (log entry 21); a PC.READ of a counter without power reads 0 and ends with OK (log entry 19); words of
the descriptor count as reads of SRAM (log entry 115). That SMP.CFG halts with ALIGN whatever unit or scope its descriptor names is
read from the spec by inference (log entry 24). -/
def Obligations.Counters : Prop :=
  (∀ (s : State) (e : EngId) (w : Word) (k : CtrId) (h : FlitBits),
      let x := s.m.eng e
      let v := x.reg (wA w)
      let c := x.reg (wB w)
      let gone (st : Nat) : Mach := ((s.m.readPc e).modEng e (fun x => { x with insn := w })).endStatus e st []
      let a := aCtr k
      let cfg := s.m.reg (a + 8)
      let o := s.m.ownerOf k
      let pre := bf cfg 54 6
      (∀ n q, Issues s e w 0xC0 → ctrSel v = some (n, q) → inScope e q = true → s.m.ctrAbsent (bf v 28 4) (bf c 0 8) = false →
        (ctrSelStray v = false → cfgRange (bf v 28 4) c = false → (s.m.readPc e).domLive (ctrDom n) = true →
          DoesAt (.pcCfg e) s e { x with insn := w, state := .waiting, wait := .config [v, c], limit := none } (s.m.readPc e)) ∧
        (ctrSelStray v = true ∨ cfgRange (bf v 28 4) c = true → Does (.pcCfg e) s (gone 3)) ∧
        (ctrSelStray v = false → cfgRange (bf v 28 4) c = false → (s.m.readPc e).domLive (ctrDom n) = false → Does (.pcCfg e) s (gone 1))) ∧
      (∀ ws, s.m.test.scan = false → x.state = .waiting → x.wait = .config ws →
        exec (.fabricInstructionCompletion e) s = .next { s with m := (s.m.configDone e ws).endStatus e 0 [] }) ∧
      (∀ n q v c, wOpc x.insn = 0xC0 → ctrSel v = some (n, q) → s.m.domLive (ctrDom n) = true →
        let t := s.m.configDone e [v, c]
        t.reg (aCtr n + 8) = c &&& ~~~0x2000000000000000#64 ∧ t.ownerOf n = e ∧ (∀ j, t.eng j = s.m.eng j) ∧
        (∀ r, r ≠ aCtr n → r ≠ aCtr n + 8 → r ≠ aCtr n + 16 → t.reg r = s.m.reg r) ∧
        (bt c 61 = true → t.reg (aCtr n + 16) = 0 ∧
          t.reg (aCtr n) = BitVec.ofNat 64 (if bf c 54 6 = 0 then 0 else 2 ^ 48 - 2 ^ bf c 54 6)) ∧
        (bt c 61 = false → t.reg (aCtr n) = s.m.reg (aCtr n) ∧ t.reg (aCtr n + 16) = s.m.reg (aCtr n + 16))) ∧
      (Issues s e w 0xC0 → s.m.ctrAbsent (bf v 28 4) (bf c 0 8) = true → Does (.pcCfg e) s (gone 2)) ∧
      (∀ n q, Issues s e w 0xC1 → ctrSel v = some (n, q) → inScope e q = true → (bf v 28 4 = 2 → s.m.hasSpine = true) →
        ctrSelStray v = false →
        DoesAt (.pcRead e) s e (x.awaits w 0 [(wD w, if (s.m.readPc e).domLive (ctrDom n) then (s.m.readPc e).reg (aCtr n) else 0)]) (s.m.readPc e)) ∧
      (∀ n q, Issues s e w 0xC1 → ctrSel v = some (n, q) → inScope e q = true → (bf v 28 4 = 2 → s.m.hasSpine = true) →
        ctrSelStray v = true → Does (.pcRead e) s (gone 3)) ∧
      (s.m.test.scan = false → Tab.get dNone s.m.tele.wraps k = none → Does (.counterWrap k) s s.m) ∧
      (s.m.test.scan = false → Tab.get dNone s.m.tele.wraps k = some h → bt cfg 62 = false →
        ∃ t, exec (.counterWrap k) s = .next t ∧ t.m.Like s.m ∧ t.m.reg a = s.m.reg a ||| 0x8000000000000000#64 ∧
          (∀ r, r ≠ a → t.m.reg r = s.m.reg r) ∧ Tab.get dNone t.m.tele.wraps k = none ∧ t.guards = s.guards ∧ t.pending = s.pending) ∧
      (s.m.test.scan = false → Tab.get dNone s.m.tele.wraps k = some h → bt cfg 62 = true → (s.m.eng o).state ≠ .off →
        (s.m.eng o).evq.length < 32 → (pre = 0 ∨ s.m.fld a 0 48 < 2 ^ pre) → pre < 48 →
        ∃ t, exec (.counterWrap k) s = .next t ∧ bt (t.m.reg a) 63 = true ∧ Tab.get dNone t.m.tele.wraps k = none ∧
          t.m.fld a 0 48 = (if pre = 0 then s.m.fld a 0 48 else 2 ^ 48 - 2 ^ pre + s.m.fld a 0 48) ∧
          (∀ r, r ≠ a → r ≠ a + 16 → t.m.reg r = s.m.reg r) ∧
          (bt (s.m.reg (a + 16)) 63 = true → t.m.reg (a + 16) = s.m.reg (a + 16)) ∧
          (bt (s.m.reg (a + 16)) 63 = false → packetEvent (ctrKind k) (bf cfg 0 8) = true →
            t.m.reg (a + 16) = BitVec.ofNat 64 (2 ^ 63 + hSrc h * 2 ^ 50 + hDst h * 2 ^ 40 + hTc h * 2 ^ 38 + hOpc h * 2 ^ 32 +
              (hFlow h).toNat * 2 ^ 16)) ∧
          (bt (s.m.reg (a + 16)) 63 = false → insnEvent (ctrKind k) (bf cfg 0 8) = true → Tab.get dNil s.m.tele.wrapPc k ≠ [] →
            ∃ p ∈ Tab.get dNil s.m.tele.wrapPc k, t.m.reg (a + 16) = BitVec.ofNat 64 (2 ^ 63 + bf p 0 48)) ∧
          (bt (s.m.reg (a + 16)) 63 = false → packetEvent (ctrKind k) (bf cfg 0 8) = false →
            insnEvent (ctrKind k) (bf cfg 0 8) = false → t.m.reg (a + 16) = 0x8000000000000000#64) ∧
          t.m.eng o = { s.m.eng o with evq := (s.m.eng o).evq ++
            [BitVec.ofNat 64 (11 * 2 ^ 60 + s.m.ftUs % 2 ^ 24 * 2 ^ 32 + b1 (bt (s.m.reg (a + 16)) 63) * 2 ^ 16 + k.val)] } ∧
          (∀ j, j ≠ o → t.m.eng j = s.m.eng j) ∧ t.guards = s.guards ∧ t.pending = s.pending)) ∧
  (∀ (s : State) (e : EngId) (w : Word) (k : SmpId),
      let x := s.m.eng e
      let w0 := s.m.descWord e w 0
      let w1 := s.m.descWord e w 1
      let j := bf w0 48 10
      let read := (s.m.readPc e).readWords e (bf w 24 16) 2
      let gone (st : Nat) : Mach := (read.modEng e (fun x => { x with insn := w })).endStatus e st []
      let a := aSmp k
      let c0 := s.m.reg (a + 0x10)
      let c1 := s.m.reg (a + 0x18)
      let per := bf c0 0 32
      let d := (s.m.queueOf k (bf c0 44 2) (bf c0 32 8)).1
      let g := s.m.cycNs (s.m.queueOf k (bf c0 44 2) (bf c0 32 8)).2
      let db := min 15 (d / 2 ^ bf c1 8 6)
      let gb := min 15 (g / 2 ^ bf c1 0 6)
      let o := s.m.ownerOf (8192 + k)
      (Issues s e w 0xC2 → wSadr w % 8 ≠ 0 → Does (.smpCfg e) s (((s.m.readPc e).modEng e (fun x => { x with insn := w })).haltFault e 9)) ∧
      (Issues s e w 0xC2 → wSadr w % 8 = 0 → (512 ≤ j → j < 544 → s.m.hasSpine = true) →
        (j < 544 → inScope e (domQuad (smpDom j)) = true) →
        (smpRange w0 w1 = true → Does (.smpCfg e) s (gone 3)) ∧
        (smpRange w0 w1 = false → s.m.domLive (smpDom j) = false → Does (.smpCfg e) s (gone 1)) ∧
        (smpRange w0 w1 = false → s.m.domLive (smpDom j) = true →
          DoesAt (.smpCfg e) s e { x with insn := w, state := .waiting, wait := .config [w0, w1], limit := none } read)) ∧
      (∀ w0 w1 : Word, wOpc x.insn = 0xC2 → s.m.domLive (smpDom (bf w0 48 10)) = true →
        let j := bf w0 48 10
        let t := s.m.configDone e [w0, w1]
        t.reg (aSmp j + 0x10) = w0 &&& ~~~0x4000000000000000#64 ∧ t.reg (aSmp j + 0x18) = w1 ∧ t.ownerOf (8192 + j) = e ∧
        (∀ i, t.eng i = s.m.eng i) ∧ (∀ r, (r < aSmp j ∨ aSmp j + 0xA0 ≤ r) → t.reg r = s.m.reg r) ∧
        (bt w0 62 = false → ∀ r, r ≠ aSmp j + 0x10 → r ≠ aSmp j + 0x18 → t.reg r = s.m.reg r) ∧
        (bt w0 62 = true → t.fld (aSmp j) 32 32 = 0 ∧ t.reg (aSmp j + 8) = 0 ∧ ∀ i, i < 16 → t.reg (aSmp j + 0x20 + 8 * i) = 0)) ∧
      (s.m.test.scan = false →
        s.m.sampling k = false ∨ s.m.keep.st = .frozen ∨ s.m.atMultiple per = false ∨ Tab.get dZero s.m.tele.smpAt k = s.m.ftNs / per * per →
        Does (.samplerSample k) s s.m) ∧
      (s.m.test.scan = false → s.m.sampling k = true → s.m.keep.st ≠ .frozen → s.m.atMultiple per = true →
        Tab.get dZero s.m.tele.smpAt k ≠ s.m.ftNs / per * per → (s.m.eng o).state ≠ .off →
        (s.m.eng o).evq.length < 32 →
        ∃ t, exec (.samplerSample k) s = .next t ∧
          t.m.fld (a + 0x20 + 8 * (db / 2)) (32 * (db % 2)) 32 =
            min (2 ^ 32 - 1) (s.m.fld (a + 0x20 + 8 * (db / 2)) (32 * (db % 2)) 32 + 1) ∧
          t.m.fld (a + 0x60 + 8 * (gb / 2)) (32 * (gb % 2)) 32 =
            min (2 ^ 32 - 1) (s.m.fld (a + 0x60 + 8 * (gb / 2)) (32 * (gb % 2)) 32 + 1) ∧
          t.m.reg a = BitVec.ofNat 64 (min (2 ^ 32 - 1) (s.m.fld a 32 32 + 1) * 2 ^ 32 + min d 0xFFFF * 2 ^ 16 + min g 0xFFFF) ∧
          Tab.get dZero t.m.tele.smpAt k = s.m.ftNs / per * per ∧
          t.m.fld (a + 8) 32 16 = max (s.m.fld (a + 8) 32 16) (min d 0xFFFF) ∧
          t.m.fld (a + 8) 0 32 = max (s.m.fld (a + 8) 0 32) (min g 0xFFFFFFFF) ∧
          (∀ r, r ≠ a → r ≠ a + 8 → r ≠ a + 0x20 + 8 * (db / 2) → r ≠ a + 0x60 + 8 * (gb / 2) → t.m.reg r = s.m.reg r) ∧
          t.m.eng o = { s.m.eng o with evq := (s.m.eng o).evq ++ if 0 < bf c1 32 16 ∧ bf c1 32 16 ≤ d then
            [BitVec.ofNat 64 (11 * 2 ^ 60 + 2 ^ 56 + s.m.ftUs % 2 ^ 24 * 2 ^ 32 + (6144 + k.val))] else [] } ∧
          (∀ i, i ≠ o → t.m.eng i = s.m.eng i) ∧ t.guards = s.guards ∧ t.pending = s.pending))

/-- The mirror ring (R363, R444, R446, R448, R449): MIR.CFG on the master puts the rules in force and starts every count again; the
statuses it ends with; a write of CONS above DONE is taken as DONE; a capture takes the next index or is counted as dropped. That a
full ring is judged before a full queue is the model's choice (log entry 121). That ABSENT and DENIED come before ALIGN is read from
the spec by inference (log entry 24). -/
def Obligations.MirrorRing : Prop :=
  ∀ (s : State) (e : EngId) (w v : Word) (mid : BitVec 16) (tile r pt out vc : Nat) (hd : FlitBits),
    let d := fun i => s.m.descWord e w i
    let gone (st : Nat) : Mach := ((s.m.readPc e).modEng e (fun x => { x with insn := w })).endStatus e st []
    let read := (s.m.readPc e).readWords e (bf w 24 16) 50
    let done := s.m.fld 0x480010 0 21
    let cons := s.m.fld 0x480018 0 21
    let prod := s.m.fld 0x480008 0 21
    let size := bf (s.m.reg 0x480000) 57 5
    let room := bt (s.m.reg 0x480000) 62 = true ∨ (prod + 2 ^ 21 - cons) % 2 ^ 21 < 2 ^ size
    (Issues s e w 0xC3 → wSadr w % 8 ≠ 0 → s.m.hasMirror = true → e.val = 0 →
      Does (.mirCfg e) s (((s.m.readPc e).modEng e (fun x => { x with insn := w })).haltFault e 9)) ∧
    (Issues s e w 0xC3 → s.m.hasMirror = false → Does (.mirCfg e) s (gone 2)) ∧
    (Issues s e w 0xC3 → s.m.hasMirror = true → e.val ≠ 0 → Does (.mirCfg e) s (gone 6)) ∧
    (Issues s e w 0xC3 → wSadr w % 8 = 0 → s.m.hasMirror = true → e.val = 0 → mirRange d = true →
      Does (.mirCfg e) s ((read.modEng e (fun x => { x with insn := w })).endStatus e 3 [])) ∧
    (Issues s e w 0xC3 → wSadr w % 8 = 0 → s.m.hasMirror = true → e.val = 0 → mirRange d = false →
      DoesAt (.mirCfg e) s e { s.m.eng e with insn := w, state := .waiting, wait := .config ((List.range 50).map d), limit := none }
        read) ∧
    (wOpc (s.m.eng e).insn = 0xC3 →
      let t := s.m.configDone e ((List.range 50).map d)
      t.reg 0x480000 = d 0 ∧ t.reg 0x480008 = 0 ∧ t.reg 0x480010 = 0 ∧ t.reg 0x480018 = 0 ∧ t.tele.memEp = bf (d 1) 0 10 ∧
      (∀ i, i < 48 → t.tele.rules.getD i 0 = d (2 + i)) ∧ t.tele.rcnt = [] ∧
      (∀ k, k ≠ 0x480000 → k ≠ 0x480008 → k ≠ 0x480010 → k ≠ 0x480018 → t.reg k = s.m.reg k) ∧
      (∀ j, t.eng j = s.m.eng j) ∧ (∀ j, (t.niu j).inj = (s.m.niu j).inj)) ∧
    (Takes s 0x480018 → s.m.hasMirror = true → (bf v 0 21 + 2 ^ 21 - cons) % 2 ^ 21 ≤ (done + 2 ^ 21 - cons) % 2 ^ 21 →
      Does (.mirConsWrite v true mid) s ((s.m.setFld 0x480018 0 21 (bf v 0 21)).answerFar 0 0)) ∧
    (Takes s 0x480018 → s.m.hasMirror = true → (done + 2 ^ 21 - cons) % 2 ^ 21 < (bf v 0 21 + 2 ^ 21 - cons) % 2 ^ 21 →
      Does (.mirConsWrite v true mid) s ((s.m.setFld 0x480018 0 21 done).answerFar 0 0)) ∧
    (Takes s 0x480018 → s.m.hasMirror = false → Does (.mirConsWrite v true mid) s (s.m.answerFar 0 0)) ∧
    (¬ room → (s.m.capture tile r pt out vc hd) = s.m.addFld 0x480020 32 32 1) ∧
    (room → 64 ≤ (Tab.get dNil s.m.tele.mq (quadOf tile)).length → s.m.capture tile r pt out vc hd = s.m.addFld 0x480020 0 32 1) ∧
    (room → (Tab.get dNil s.m.tele.mq (quadOf tile)).length < 64 →
      (s.m.capture tile r pt out vc hd).fld 0x480008 0 21 = (prod + 1) % 2 ^ 21)

/-- Fault records (R364, R424, R425, R451 to R453): FLT.CLR of one record and of all, on the master; occurrences that arrive with a
transfer count in the record that matches, or take the lowest free one and post a FAULT event (class 8), or are lost and counted.
DWN_ERR_N (R455, R459): 0 before the always-on reset releases and in the safe state; in LEVEL mode 0 while a record of a class in
ERR_MASK is held; in PULSE mode 0 in a pulse and else as SW_ASSERT says; the end of a pulse. With the cause FU_PARITY no new record
is made, and the occurrences of the records there are still counted (R459). That a transfer arrives and is acknowledged in one step
is the model's choice (log entry 23). That FLT.CLR waits while the AON clock stands still is read from the spec by inference (log
entry 76): R429 names RDREG, WRREG and DOM.* only. -/
def Obligations.FaultRecords : Prop :=
  (∀ (s : State) (e : EngId) (w : Word) (c : Dom) (o : Occ) (i : Nat) (r : FRec),
      let x := s.m.eng e
      let k := (x.reg (wA w)).toNat
      let gone (st : Nat) : Mach := ((s.m.readPc e).modEng e (fun x => { x with insn := w })).endStatus e st []
      let ch := Tab.get dChan s.m.flt.chans c
      let sum (m : Mach) : Mach := m.orReg 0xD0000 (2 ^ (48 + c.val))
      let ready := s.m.test.scan = false ∧ s.m.clk.fstop = false ∧ s.m.clk.astop = false ∧ s.m.pwr.aonUp = true ∧
        ch.fly = [o] ∧ ch.flyOvf = false
      let took : Mach := s.m.modFlt (fun f => { f with chans := Tab.set dChan f.chans c ⟨ch.acc, [], false, ch.ovf⟩ })
      (Issues s e w 0xE0 → e.val ≠ 0 → bt w 42 = false → Does (.fltClr e) s (gone 6)) ∧
      (Issues s e w 0xE0 → e.val ≠ 0 → bt w 42 = true → Does (.fltClrAll e) s (gone 6)) ∧
      (Issues s e w 0xE0 → e.val = 0 → bt w 42 = false → s.m.clk.astop = true →
        DoesAt (.fltClr e) s e { x with insn := w, state := .waiting, wait := .aon } (s.m.readPc e)) ∧
      (Issues s e w 0xE0 → e.val = 0 → bt w 42 = false → s.m.clk.astop = false →
        (64 ≤ k ∨ (s.m.readPc e).frec k = none → Does (.fltClr e) s (gone 3)) ∧
        (k < 64 → (s.m.readPc e).frec k = some r → (s.m.readPc e).persists r = true → Does (.fltClr e) s (gone 1)) ∧
        (k < 64 → (s.m.readPc e).frec k = some r → (s.m.readPc e).persists r = false → DoesAt (.fltClr e) s e (x.awaits w 0 []) ((s.m.readPc e).setFrec k none))) ∧
      (Issues s e w 0xE0 → e.val = 0 → bt w 42 = true → s.m.clk.astop = false →
        ((∀ p ∈ (s.m.readPc e).flt.recs, ∀ r, p.2 = some r → (s.m.readPc e).persists r = false) →
          DoesAt (.fltClrAll e) s e (x.awaits w 0 []) { (s.m.readPc e) with flt := { (s.m.readPc e).flt with recs := [] } }) ∧
        (Tab.wf dNone (s.m.readPc e).flt.recs = true → i < 64 → (s.m.readPc e).frec i = some r → (s.m.readPc e).persists r = true →
          ∃ t, exec (.fltClrAll e) s = .next t ∧ (t.m.eng e).st = 1 ∧
            ∀ j, t.m.frec j = ((s.m.readPc e).frec j).bind (fun q => if (s.m.readPc e).persists q then some q else none))) ∧
      (ready → i < 64 → s.m.frec i = some r → r.same c o = true → (∀ j q, j < i → s.m.frec j = some q → q.same c o = false) →
        Does (.eventChannelTransfer true c) s
          ((sum took).setFrec i (some { r with occ := { r.occ with n := min 255 (r.occ.n + o.n) } }))) ∧
      (ready → i < 64 → s.m.frec i = none → (∀ j q, j < 64 → s.m.frec j = some q → q.same c o = false) →
        (∀ j, j < i → s.m.frec j ≠ none) → s.m.pulseMode = false → (c.val = 0 ∨ bt (s.m.reg 0xD0008) (48 + c) = false) →
        (s.m.safe = false ∨ s.m.flt.cause ≠ 1) → (s.m.eng 0).state ≠ .off → (s.m.eng 0).evq.length < 32 →
        Does (.eventChannelTransfer true c) s
          (((sum took).setFrec i (some ⟨c, { o with n := min 255 o.n }, BitVec.ofNat 64 s.m.ftNs⟩)).modEng 0 (fun y => { y with
            evq := y.evq ++ [mkf 64 60 4 8 ||| mkf 64 56 4 o.kind ||| mkf 64 32 24 s.m.ftUs ||| mkf 64 16 16 i ||| mkf 64 0 16 c] }))) ∧
      (ready → i < 64 → s.m.frec i = none → (∀ j q, j < 64 → s.m.frec j = some q → q.same c o = false) →
        s.m.safe = true → s.m.flt.cause = 1 → Does (.eventChannelTransfer true c) s (sum took)) ∧
      (ready → (∀ j, j < 64 → ∃ q, s.m.frec j = some q ∧ q.same c o = false) →
        Does (.eventChannelTransfer true c) s (((sum took).orReg 0xD0000 (2 ^ 47)).addFld 0xD0000 0 16 o.n)) ∧
      (s.m.test.scan = false → (ch.fly = [] ∨ s.m.clk.fstop = true ∨ s.m.clk.astop = true ∨ s.m.pwr.aonUp = false) →
        Does (.eventChannelTransfer true c) s s.m)) ∧
  (∀ (s : State) (i : Nat) (r : FRec),
      let m := s.m
      (m.pwr.aonUp = false → m.errPin = false) ∧
      (m.safe = true → m.errPin = false) ∧
      (m.pwr.aonUp = true → m.safe = false → bt (m.reg 0xD0008) 0 = false → m.frec i = some r → bt (m.reg 0xD0008) (32 + r.cls) = true →
        m.errPin = false) ∧
      (m.pwr.aonUp = true → m.safe = false → bt (m.reg 0xD0008) 0 = false →
        (∀ p ∈ m.flt.recs, ∀ q, p.2 = some q → bt (m.reg 0xD0008) (32 + q.cls) = false) → m.errPin = true) ∧
      (m.pwr.aonUp = true → m.safe = false → bt (m.reg 0xD0008) 0 = true → m.flt.pulse = true → m.errPin = false) ∧
      (m.pwr.aonUp = true → m.safe = false → bt (m.reg 0xD0008) 0 = true → m.flt.pulse = false →
        m.errPin = !bt (m.reg 0xD0010) 0) ∧
      (m.test.scan = false → Does .errPulseEnd s { m with flt := { m.flt with pulse := false } }))

/-- The safe state (R456, R457, R460): what enters it and what it records, in triplicate; a parity failure of the fault unit sets its
class's bit (R452); how each unit acts on it; which EXIT write ends it. -/
def Obligations.SafeState : Prop :=
  ∀ (s : State) (v : Word) (mid : BitVec 16) (n : NiuId) (e : EngId) (w : Word),
    let m := s.m
    let entered (cause : Nat) : Mach := m.modFlt (fun f => { f with
      safeA := true, safeB := true, safeC := true, causeA := cause, causeB := cause, causeC := cause, esc := 0, twin := m.twin.st.code, us := BitVec.ofNat 32 m.ftUs })
    (Takes s 0xD0018 → bt v 62 = true → bt v 60 = false → m.safe = false → Does (.fltSafeEnter v true mid) s ((entered 3).answerFar 0 0)) ∧
    (Takes s 0xD0018 → bt v 62 = true → bt v 60 = false → m.safe = true → Does (.fltSafeEnter v true mid) s (m.answerFar 0 0)) ∧
    (m.test.scan = false → m.pwr.aonUp = true → m.safe = false → Does .fuParityFail s ((entered 1).orReg 0xD0000 (2 ^ 48))) ∧
    (m.test.scan = false → m.pwr.aonUp = true → m.safe = true → Does .fuParityFail s (m.orReg 0xD0000 (2 ^ 48))) ∧
    (m.test.scan = false → m.pwr.aonUp = false → Does .fuParityFail s m) ∧
    (Takes s 0xD0018 → bt v 62 = false → bt v 61 = true →
      (m.safe = true → (m.flt.cause = 3 ∨ m.flt.cause = 4) → (m.flt.twin = 0 ∨ m.flt.twin = 1 ∨ m.flt.twin = 5) → bt v 60 = false →
        ∃ t, exec (.fltSafeExit v true mid) s = .next t ∧ t.m.safe = false ∧ (∀ k, t.m.niu k = { m.niu k with safe := false }) ∧
          t.m.twin = { m.twin with failed := false } ∧ (∀ k, t.m.eng k = m.eng k) ∧ (∀ a, t.m.reg a = m.reg a) ∧
          t.m.flt = { m.flt with safeA := false, safeB := false, safeC := false } ∧ t.guards = s.guards ∧ t.pending = s.pending) ∧
      ((m.safe = false ∨ (m.flt.cause ≠ 3 ∧ m.flt.cause ≠ 4) ∨ (m.flt.twin ≠ 0 ∧ m.flt.twin ≠ 1 ∧ m.flt.twin ≠ 5)) →
        Does (.fltSafeExit v true mid) s ((m.setFld 0xD0018 60 1 1).answerFar 0 0))) ∧
    (∀ u, m.test.scan = false → m.safe = false → Does (.safeStateAct u) s m) ∧
    (m.test.scan = false → m.safe = true → m.domLive (epTile n) = true →
      (∃ t, exec (.safeStateAct (.niu n)) s = .next t ∧ (t.m.niu n).safe = true) ∧
      ((m.niu n).Calm → m.pinWaits n = [] → Does (.safeStateAct (.niu n)) s (m.modNiu n (fun x => { x with safe := true })))) ∧
    (m.test.scan = false → m.safe = true → m.domLive (epTile n) = false → Does (.safeStateAct (.niu n)) s m) ∧
    (m.test.scan = false → m.safe = true → m.fetch e = .word w →
      Does (.safeStateAct (.engine e)) s ((m.modEng e (fun x => { x with insn := w })).haltFault e 14)) ∧
    (m.test.scan = false → m.safe = true → m.hasSpine = true →
      Does (.safeStateAct .spine) s ((m.setReg 0x80010 0).modSpine (fun x => { x with pend := false }))) ∧
    (m.test.scan = false → m.safe = true → Does (.safeStateAct .twin) s { m with twin := { m.twin with failed := true } })

/-- The request channel (R67, R69 to R71, R87, R89): a header beat takes the lowest free TAG or posted write buffer entry; a data beat
belongs to the unit in hand or resumes the owner's open message; the last beat of the last unit accepts the request; a beat is refused
when the port is closed or has no place for it, and a wrong ep_req_last is a framing error: PROTO, the unit discarded and counted.
The lowest free TAG or entry is the model's choice (log entry 8), as it is that a framing error's beat is no last beat of a unit for a
handover (log entry 130). -/
def Obligations.PortRequests : Prop :=
  ∀ (s : State) (ep : Ep) (d : BeatBits) (last dbg : Bool) (sub : Sub) (o k : Nat) (u : Machine.PUnit),
    let n := ep.val
    let x := s.m.niu n
    let mine := x.owner = some o ∧ (x.spEn = true → o = sub.val)
    let isOpen := x.rstN = true ∧ x.abort = false ∧ s.m.epStop n = false ∧ x.ingress.length < 18
    let left := unitBeats d 0
    let total := dataBeats (qOpc d) (qSize d)
    let head := mine ∧ x.unit = none ∧ ∀ v ∈ x.opens, v.sub ≠ o
    let tagFree := k < 256 ∧ Tab.get dNone x.trk k = none ∧ ∀ j, j < k → Tab.get dNone x.trk j ≠ none
    let bufFree := x.devDrain = false ∧ k < 16 ∧ Tab.get dNone x.pwb k = none ∧ ∀ j, j < k → Tab.get dNone x.pwb j ≠ none
    let uid := x.uidNext
    let fresh := (∀ j t, Tab.get dNone x.trk j = some t → t.uid ≠ uid) ∧ (∀ j w, Tab.get dNone x.pwb j = some w → w.uid ≠ uid)
    let beat : Beat := ⟨.header, d, dbg, k, uid⟩
    let trk (acc : Nat) : Trk := ⟨uid, d, qFlow d, 0, [], 0, false, false, acc, .endpoint, false, none, false, false, none, 0, [], dbg⟩
    let pwb (acc : Nat) : Pwb := ⟨uid, qEtag d, false, qFlow d, 0, 0, false, false, acc, .endpoint, none, 0, []⟩
    let unit1 : Machine.PUnit := ⟨uid, o, 0, left, total - left, qOpc d == opMSG⟩
    let now := some s.m.clk.cyc
    let offered := s.m.modNiu n (fun x => { x with beatAt := now, beatEnd := false })
    s.m.test.scan = false →
    (head → isOpen → qPosted d = false → tagFree → left ≠ 0 → last = false →
      Does (.reqHeaderBeat ep d last dbg sub) s (s.m.modNiu n (fun x => { x with
        uidNext := uid + 1, trk := Tab.set dNone x.trk k (some (trk 0)), ingress := x.ingress ++ [beat], burst := x.burst + 1, unit := some unit1, beatAt := now, beatEnd := false }))) ∧
    (head → isOpen → qPosted d = true → bufFree → left ≠ 0 → last = false →
      Does (.reqHeaderBeat ep d last dbg sub) s (s.m.modNiu n (fun x => { x with
        uidNext := uid + 1, pwb := Tab.set dNone x.pwb k (some (pwb 0)), ingress := x.ingress ++ [beat], burst := x.burst + 1, unit := some unit1, beatAt := now, beatEnd := false }))) ∧
    (head → isOpen → qPosted d = false → tagFree → fresh → left = 0 → last = true →
      ∃ t, exec (.reqHeaderBeat ep d last dbg sub) s = .next t ∧
        let y := t.m.niu n
        y.ingress = x.ingress ++ [beat] ∧ y.unit = none ∧ y.accNext = x.accNext + 1 ∧ y.uidNext = uid + 1 ∧ y.burst = x.burst + 1 ∧ y.beatAt = now ∧ y.beatEnd = true ∧
          Tab.get dNone y.trk k = some (trk x.accNext) ∧ (∀ j, j ≠ k → Tab.get dNone y.trk j = Tab.get dNone x.trk j) ∧
          (∀ j, Tab.get dNone y.pwb j = Tab.get dNone x.pwb j) ∧ (∀ j, j ≠ n → t.m.niu j = s.m.niu j) ∧ t.guards = s.guards ∧
          t.pending = s.pending) ∧
    (head → isOpen → qPosted d = true → bufFree → fresh → left = 0 → last = true →
      ∃ t, exec (.reqHeaderBeat ep d last dbg sub) s = .next t ∧
        let y := t.m.niu n
        y.ingress = x.ingress ++ [beat] ∧ y.unit = none ∧ y.accNext = x.accNext + 1 ∧ y.uidNext = uid + 1 ∧ y.burst = x.burst + 1 ∧ y.beatAt = now ∧ y.beatEnd = true ∧
          Tab.get dNone y.pwb k = some (pwb x.accNext) ∧ (∀ j, j ≠ k → Tab.get dNone y.pwb j = Tab.get dNone x.pwb j) ∧
          (∀ j, Tab.get dNone y.trk j = Tab.get dNone x.trk j) ∧ (∀ j, j ≠ n → t.m.niu j = s.m.niu j) ∧ t.guards = s.guards ∧
          t.pending = s.pending) ∧
    (head → ((¬ isOpen) ∨ (qPosted d = false ∧ ∀ j, j < 256 → Tab.get dNone x.trk j ≠ none) ∨
        (qPosted d = true ∧ (x.devDrain = true ∨ ∀ j, j < 16 → Tab.get dNone x.pwb j ≠ none))) →
      Does (.reqHeaderBeat ep d last dbg sub) s offered) ∧
    ((∃ p, x.owner = some p ∧ x.spEn = true ∧ p ≠ sub.val) ∨ x.owner = none ∨ x.unit ≠ none →
      Does (.reqHeaderBeat ep d last dbg sub) s s.m) ∧
    (head → isOpen → qPosted d = false → tagFree → last ≠ decide (left = 0) →
      Does (.reqHeaderBeat ep d last dbg sub) s
        (((offered.orReg (aPort n 0x18) 512).modNiu n (fun x => { x with burst := x.burst + 1 })).addFld (aPort n 0x20) 0 16 1)) ∧
    (mine → isOpen → x.unit = some u → 1 < u.left → last = false →
      Does (.reqDataBeat ep d last sub) s (s.m.modNiu n (fun x => { x with
        ingress := x.ingress ++ [⟨.data, d, false, u.idx, u.uid⟩], burst := x.burst + 1, unit := some { u with left := u.left - 1 }, beatAt := now, beatEnd := false,
        opens := x.opens.filter (fun v => v.uid ≠ u.uid) }))) ∧
    (mine → isOpen → x.unit = some u → u.left = 1 → u.after ≠ 0 → last = true →
      Does (.reqDataBeat ep d last sub) s (s.m.modNiu n (fun x => { x with
        ingress := x.ingress ++ [⟨.data, d, false, u.idx, u.uid⟩], burst := x.burst + 1, unit := none, beatAt := now, beatEnd := true,
        opens := x.opens.filter (fun v => v.uid ≠ u.uid) ++ [{ u with left := 0 }] }))) ∧
    (mine → isOpen → x.unit = some u → u.left = 1 → u.after = 0 → last = true →
      (∀ j t, Tab.get dNone x.trk j = some t → t.uid = u.uid → t.hold = none) →
      (∀ j w, Tab.get dNone x.pwb j = some w → w.uid = u.uid → w.fail = false) →
      ∃ t, exec (.reqDataBeat ep d last sub) s = .next t ∧
        let y := t.m.niu n
        y.ingress = x.ingress ++ [⟨.data, d, false, u.idx, u.uid⟩] ∧ y.unit = none ∧ y.accNext = x.accNext + 1 ∧ y.burst = x.burst + 1 ∧ y.beatAt = now ∧ y.beatEnd = true ∧
          (∀ j, Tab.get dNone y.trk j = (Tab.get dNone x.trk j).map (fun r => if r.uid = u.uid then { r with acc := x.accNext } else r)) ∧
          (∀ j, Tab.get dNone y.pwb j = (Tab.get dNone x.pwb j).map (fun w => if w.uid = u.uid then { w with acc := x.accNext } else w)) ∧
          (∀ j, j ≠ n → t.m.niu j = s.m.niu j) ∧ t.guards = s.guards ∧ t.pending = s.pending) ∧
    (mine → isOpen → x.unit = none → x.opens.find? (fun v => v.sub == o) = some u → 1 < min 8 u.after → last = false →
      Does (.reqDataBeat ep d last sub) s (s.m.modNiu n (fun x => { x with
        ingress := x.ingress ++ [⟨.data, d, false, u.idx + 1, u.uid⟩], burst := x.burst + 1, beatAt := now, beatEnd := false,
        unit := some { u with idx := u.idx + 1, left := min 8 u.after - 1, after := u.after - min 8 u.after },
        opens := x.opens.filter (fun v => v.uid ≠ u.uid) }))) ∧
    (mine → isOpen → x.unit = some u → last ≠ decide (u.left = 1) →
      ∃ t, exec (.reqDataBeat ep d last sub) s = .next t ∧ (t.m.niu n).unit = none ∧ bt (t.m.reg (aPort n 0x18)) 9 = true ∧
        t.m.fld (aPort n 0x20) 0 16 = min 65535 (s.m.fld (aPort n 0x20) 0 16 + 1) ∧ (∀ b ∈ (t.m.niu n).ingress, b.uid ≠ u.uid) ∧
        t.guards = s.guards ∧ t.pending = s.pending) ∧
    (mine → x.unit = some u → ¬ isOpen → Does (.reqDataBeat ep d last sub) s offered) ∧
    (x.owner = none ∨ (x.unit = none ∧ x.opens = []) → Does (.reqDataBeat ep d last sub) s s.m)

/-- Barriers and the sideband of a port (R67, R70, R74, R77, R79 to R81, R87, R143, R144): a barrier beat is taken while fewer than
8 are outstanding, and is the last beat of its unit; barriers complete in order once their condition holds, each with a pulse of
ep_bar_done (R144) but for those whose condition is met in port reset (R146); ep_abort, port reset and its release, ep_inc, and the
end of the hold of ep_stop. The model's choices: a port with ep_ratio 0b11 captures no incarnation at the release (log entry 103); a
barrier whose condition holds at the release gives no pulse, one behind a barrier that still waits neither (log entry 131). -/
def Obligations.PortSideband : Prop :=
  ∀ (s : State) (ep : Ep) (kind : BarKind) (sub : Sub) (o : Nat) (b : Bar) (rest : List Bar) (u : Machine.PUnit) (level : Bool) (inc : BitVec 8),
    let n := ep.val
    let x := s.m.niu n
    let mine := x.owner = some o ∧ (x.spEn = true → o = sub.val)
    let isOpen := x.rstN = true ∧ x.abort = false ∧ s.m.epStop n = false ∧ x.ingress.length < 18
    s.m.test.scan = false →
    (mine → isOpen → x.unit = none → (∀ v ∈ x.opens, v.sub ≠ o) → x.bars.length < 8 →
      Does (.barrierBeat ep kind sub) s (s.m.modNiu n (fun x => { x with
        bars := x.bars ++ [⟨kind, o, x.accNext⟩], accNext := x.accNext + 1, burst := x.burst + 1, beatAt := some s.m.clk.cyc, beatEnd := true,
        ingress := x.ingress ++ [⟨.barrier kind, 0, false, o, 0⟩] }))) ∧
    (mine → x.unit = none → (∀ v ∈ x.opens, v.sub ≠ o) → (8 ≤ x.bars.length ∨ ¬ isOpen) →
      Does (.barrierBeat ep kind sub) s (s.m.modNiu n (fun x => { x with beatAt := some s.m.clk.cyc, beatEnd := false }))) ∧
    (mine → isOpen → x.unit = some u →
      ∃ t, exec (.barrierBeat ep kind sub) s = .next t ∧ (t.m.niu n).unit = none ∧ bt (t.m.reg (aPort n 0x18)) 9 = true ∧
        t.m.fld (aPort n 0x20) 0 16 = min 65535 (s.m.fld (aPort n 0x20) 0 16 + 1) ∧ (t.m.niu n).bars = x.bars) ∧
    (x.bars = b :: rest → x.barHolds b = true → x.runs = true →
      Does (.barrierComplete ep) s (s.m.modNiu n (fun x => { x with
        bars := rest, pulses := x.pulses + 1, barSub := if x.spEn then b.sub else 0 }))) ∧
    (x.bars = b :: rest → x.barHolds b = true → x.runs = false →
      Does (.barrierComplete ep) s (s.m.modNiu n (fun x => { x with bars := rest }))) ∧
    (x.bars = b :: rest → x.barHolds b = false → Does (.barrierComplete ep) s s.m) ∧
    (x.bars = [] → Does (.barrierComplete ep) s s.m) ∧
    (level = false ∨ x.abort = true ∨ x.unit = none →
      Does (.epAbort ep level) s (s.m.modNiu n (fun x => { x with abort := level }))) ∧
    (x.abort = false → x.unit = some u →
      ∃ t, exec (.epAbort ep true) s = .next t ∧ (t.m.niu n).abort = true ∧ (t.m.niu n).unit = none ∧
        t.m.fld (aPort n 0x20) 0 16 = min 65535 (s.m.fld (aPort n 0x20) 0 16 + 1)) ∧
    (x.rstN = false → Does (.epRstAssert ep) s s.m) ∧
    (x.rstN = true →
      ∃ t, exec (.epRstAssert ep) s = .next t ∧
        let y := t.m.niu n
        y.rstN = false ∧ y.unit = none ∧ y.opens = [] ∧ y.rspOut = none ∧ y.rspq = [] ∧ y.treq = none ∧ y.trsp = none ∧ y.gnt = 0 ∧
          (∀ i, y.scores.getD i 0 = 0) ∧ y.bars = x.bars ∧ y.inc = x.inc ∧ t.guards = s.guards ∧ t.pending = s.pending) ∧
    (x.rstN = true → Does (.epRstRelease ep inc) s s.m) ∧
    (x.rstN = false → x.ratio ≠ 3 → s.m.domLive (epTile n) = true →
      Does (.epRstRelease ep inc) s (s.m.modNiu n (fun x => { x with
        rstN := true, inc := inc, incPin := inc, hold := true, relHold := true, bars := x.bars.filter (fun b => !x.barHolds b) }))) ∧
    (x.rstN = false → x.ratio = 3 ∨ s.m.domLive (epTile n) = false →
      Does (.epRstRelease ep inc) s (s.m.modNiu n (fun x => { x with rstN := true, incPin := inc }))) ∧
    (x.rstN = true → x.incPin ≠ inc → s.m.domLive (epTile n) = true →
      Does (.epIncChange ep inc) s ((s.m.modNiu n (fun x => { x with incPin := inc })).orReg (aPort n 0x18) 256)) ∧
    (x.rstN = false ∨ x.incPin = inc ∨ s.m.domLive (epTile n) = false →
      Does (.epIncChange ep inc) s (s.m.modNiu n (fun x => { x with incPin := inc }))) ∧
    (s.m.clk.fstop = false → Does (.epStopHoldEnd ep) s (s.m.modNiu n (fun x => { x with hold := false }))) ∧
    (s.m.clk.fstop = true → Does (.epStopHoldEnd ep) s s.m)

/-- Shared-port arbitration (R87, R88, R90, R91): the grant passes to the winner of the weighted selection in a cycle in which the
last beat of one of the owner's units is accepted, the owner having withdrawn or its burst being over, or in which the owner neither
drives a beat nor requests; FREEZE takes it away, but not from an owner that offers a beat which ends no unit; a
starved sub-endpoint sets its flag and posts a PORT event. -/
def Obligations.SharedPort : Prop :=
  ∀ (s : State) (ep : Ep) (req : BitVec 4) (sub : Sub) (w : Nat) (sc : List Int),
    let n := ep.val
    let x := s.m.niu n
    let cfg := s.m.reg (aPort n 0x08)
    let held := (List.range 4).any (fun i => bt x.gnt i)
    let wants := (List.range 4).any (fun i => bt x.gnt i && bt req i)
    let others := (List.range 4).any (fun i => bt req i && !bt x.gnt i)
    let beats := x.beatAt.any (fun c => c / 2 ^ x.ratio == s.m.clk.cyc / 2 ^ x.ratio)
    let ends := beats = true ∧ x.beatEnd = true ∧ (wants = false ∨ (bf cfg 8 6 + 1 ≤ x.burst ∧ others = true))
    let idles := beats = false ∧ wants = false ∧ others = true
    let one := ∀ i j, bt x.gnt i = true → bt x.gnt j = true → i = j
    let keeps := Does (.spGrantChange ep req) s (s.m.modNiu n (fun x => { x with spReq := req }))
    let wts := if x.scores = [] then BitVec.ofNat 16 (s.m.fld (aPort n 0x10) 0 16) else x.wts
    let old := if x.scores = [] then [0, 0, 0, 0] else x.scores
    let cand := (List.range 4).filter (fun i => bt req i && !bt x.gnt i && decide (spWeight wts i ≠ 0))
    let q := niuQe n
    let starved := s.m.clk.fstop = false ∧ x.spEn = true ∧ x.runs = true ∧ bf cfg 16 16 ≠ 0 ∧ bt x.spReq sub = true ∧ spWeight x.wts sub ≠ 0 ∧ bt x.gnt sub = false
    s.m.test.scan = false →
    (x.spEn = false ∨ x.runs = false → Does (.spGrantChange ep req) s (s.m.modNiu n (fun x => { x with spReq := req }))) ∧
    (∃ t, exec (.spGrantChange ep req) s = .next t ∧ (t.m.niu n).spReq = req ∧ (∀ j, j ≠ n → t.m.niu j = s.m.niu j) ∧
      t.guards = s.guards ∧ t.pending = s.pending) ∧
    (x.spEn = true → x.runs = true → bt cfg 0 = true → x.unit = none → beats = true → x.beatEnd = false → keeps) ∧
    (x.spEn = true → x.runs = true → bt cfg 0 = true → x.unit = none → (beats = false ∨ x.beatEnd = true) →
      Does (.spGrantChange ep req) s (s.m.modNiu n (fun x => { x with spReq := req, gnt := 0 }))) ∧
    (x.spEn = true → x.runs = true → x.unit ≠ none → keeps) ∧
    (x.spEn = true → x.runs = true → bt cfg 0 = false → held = true → one → ¬ ends → ¬ idles → keeps) ∧
    (x.spEn = true → x.runs = true → bt cfg 0 = false → x.unit = none → one → (held = false ∨ ends ∨ idles) →
      spSelect old wts cand = (sc, some w) →
      Does (.spGrantChange ep req) s (s.m.modNiu n (fun x => { x with
        spReq := req, scores := sc, wts := wts, gnt := BitVec.ofNat 4 (2 ^ w), burst := 0,
        beatAt := some s.m.clk.cyc, beatEnd := false }))) ∧
    (x.spEn = true → x.runs = true → bt cfg 0 = false → cand = [] → keeps) ∧
    (starved → (s.m.eng q).state ≠ .off → (s.m.eng q).evq.length < 32 →
      Does (.starveLimitReached ep sub) s ((s.m.orReg (aPort n 0x18) (2 ^ sub.val)).modEng q (fun y => { y with
        evq := y.evq ++ [BitVec.ofNat 64 (s.m.ftUs % 2 ^ 24 * 2 ^ 32 + 2 ^ sub.val * 2 ^ 16 + n)] }))) ∧
    (¬ starved → Does (.starveLimitReached ep sub) s s.m) ∧
    (∀ v, (spSelect old wts cand).2 = some v → v ∈ cand)

/-- The response, target-request and target-response channels (R72, R75, R76, R79, R93, R102, R108, R112, R126, R127, R409): a TAG
is freed with the last beat of its response, and the place it stood in; nothing is presented in port reset; the store slot or
ejection VC of a request is freed with its last beat; a queue message's numbers are marked with its delivery (R126, R127); a target
response frees its TTAG and its packet enters the RSP injection space. A target response whose TTAG is not in use breaks R76; the
spec gives the instance no effect for it, and that the run stops there (strayTargetResponse) is the model's choice (log entry 22).
-/
def Obligations.PortAnswers : Prop :=
  ∀ (s : State) (ep : Ep) (d : BeatBits) (last : Bool) (r : Rsp) (i k : Nat) (beats : List BeatBits) (t0 : TT),
    let n := ep.val
    let x := s.m.niu n
    let key := bf d 40 8
    let ready := s.m.domLive (epTile n) = true ∧ x.runs = true ∧ x.rspInj.length < 32
    let st := if bf d 48 4 = 0 ∨ bf d 48 4 = 11 then bf d 48 4 else 10
    s.m.test.scan = false →
    (x.runs = false → Does (.rspBeatAccept ep) s s.m) ∧
    (x.runs = true → x.rspOut = some r → 1 < r.beats.length →
      Does (.rspBeatAccept ep) s (s.m.modNiu n (fun x => { x with rspOut := some { r with beats := r.beats.drop 1 } }))) ∧
    (x.runs = true → x.rspOut = some r → r.beats.length ≤ 1 →
      Does (.rspBeatAccept ep) s (s.m.modNiu n (fun x => { (x.freeTrk r.tag).takeEj r.vc with rspOut := none }))) ∧
    (x.runs = true → x.rspOut = none → x.nextRsp = some (i, r) → 1 < r.beats.length →
      Does (.rspBeatAccept ep) s (s.m.modNiu n (fun x => { x with
        rspOut := some { r with beats := r.beats.drop 1 }, rspq := dropAt x.rspq i }))) ∧
    (x.runs = true → x.rspOut = none → x.nextRsp = none → Does (.rspBeatAccept ep) s s.m) ∧
    (x.treq = none ∨ x.runs = false → Does (.treqBeatAccept ep) s s.m) ∧
    (x.runs = true → x.treq = some (k, beats) → 1 < beats.length →
      Does (.treqBeatAccept ep) s (s.m.modNiu n (fun x => { x with treq := some (k, beats.drop 1) }))) ∧
    (x.runs = true → x.treq = some (k, beats) → beats.length ≤ 1 → Tab.get dNone x.tt k = some t0 → (hQueue t0.hd = false ∨ t0.kind = .service) →
      Does (.treqBeatAccept ep) s (s.m.modNiu n (fun x => { (x.takeEj x.treqVc) with treq := none, treqVc := none, treqSlot := false }))) ∧
    (x.runs = true → x.treq = some (k, beats) → beats.length ≤ 1 → Tab.get dNone x.tt k = some t0 → hQueue t0.hd = true →
      t0.kind = .qmsg →
      ∃ t, exec (.treqBeatAccept ep) s = .next t ∧ (t.m.niu n).treq = none ∧ (t.m.niu n).treqSlot = false ∧
        (t.m.niu n).ctxOf t0.hd = none ∧ (t.m.niu n).tt = x.tt ∧ t.guards = s.guards ∧ t.pending = s.pending) ∧
    (∀ e, x.runs = true → x.treq = some (k, beats) → beats.length ≤ 1 → Tab.get dNone x.tt k = some t0 → hQueue t0.hd = true →
      (t0.kind = .plain ∨ t0.kind = .qmsg) → hDmode t0.hd = 2 → x.entry (hFlow t0.hd) = some e →
      ∃ t, exec (.treqBeatAccept ep) s = .next t ∧ (t.m.niu n).treq = none ∧
        (∀ q ∈ t0.seqs, (hFlow t0.hd, q) ∉ (t.m.niu n).eoPend ∧
          (seqDist (eTop e.ent) q ≤ 63 → (t.m.niu n).marked (hFlow t0.hd) q = true))) ∧
    (¬ ready → Does (.trspBeat ep d last) s s.m) ∧
    (ready → x.trsp = none → Tab.get dNone x.tt key = none → exec (.trspBeat ep d last) s = .fault .strayTargetResponse) ∧
    (ready → x.trsp = none → Tab.get dNone x.tt key = some t0 → last = false →
      Does (.trspBeat ep d last) s (s.m.modNiu n (fun x => { x with trsp := some (d, []) }))) ∧
    (∀ h l, ready → x.trsp = some (h, l) → Tab.get dNone x.tt (bf h 40 8) = some t0 → last = false →
      Does (.trspBeat ep d last) s (s.m.modNiu n (fun x => { x with trsp := some (h, l ++ [d]) }))) ∧
    (ready → x.trsp = none → last = true → Tab.get dNone x.tt key = some t0 → t0.kind = .plain → hDmode t0.hd ≠ 2 →
      ((hOpc t0.hd ≠ opRD ∧ hOpc t0.hd ≠ opATM) ∨ st ≠ 0) →
      ∃ t, exec (.trspBeat ep d last) s = .next t ∧ Tab.get dNone (t.m.niu n).tt key = none ∧
        (∀ j, j ≠ key → Tab.get dNone (t.m.niu n).tt j = Tab.get dNone x.tt j) ∧
        (t.m.niu n).rspInj = x.rspInj ++ [⟨none, [], false, rspBare t0.hd st⟩] ∧ t.guards = s.guards ∧ t.pending = s.pending)

/-- The source side of an NIU (R94, R96, R99 to R103, R119, R121, R129, R131, R157): the core takes the beat at the head of the
ingress buffer when it has a place for it; a selected packet is stamped with the flow's next sequence number and the epoch, and its
head enters the local port, or at a fence is not released; responses are matched by TAG, flow and sequence number; a response to the
endpoint keeps its ejection VC, or a store slot where it is early, until the channel takes it; an unmatched response is a stray, or
a duplicate where its request is one an answer was taken for; a copy whose deadline expires is read for another release, which takes
no new number, until the eighth; a flow that is not ACTIVE resends nothing, and one whose eighth copy expires enters ERROR. That the
reads go out in the same step where there is room for them is the model's form (log entry 13), and that the head of a posted write
carries TAG 0 its choice (log entry 104). -/
def Obligations.SourceSide : Prop :=
  ∀ (s : State) (ep : Ep) (b : Beat) (rest : List Beat) (e : FcE) (i k lvl : Nat) (p : InjP) (w : Pwb) (q : Pkt) (t0 : Trk) (vc : Vc)
    (f seq : BitVec 16),
    let n : NiuId := ⟨ep.val, Nat.lt_trans ep.isLt (by decide)⟩
    let x := s.m.niu ep
    let flow := qFlow b.bits
    let h := p.pkt.hd
    let g := q.hd
    let quiet := s.m.hasMirror = false ∨ bt (s.m.reg 0x480000) 63 = false
    let alone := x.rspInj = [] ∧ x.gate.ents = [] ∧ x.Calm ∧ s.m.pinWaits ep = [] ∧ s.m.yields ep = false
    let plain := ∀ q ∈ x.inj, q.fail = none ∧ q.mir = none
    let chosen := alone ∧ plain ∧ s.m.select ep = .req i k lvl ∧ x.inj[i]? = some p
    let vcq := s.m.modNiu ep (fun x => x.takeEj (some vc.val))
    let here := x.ejected vc = some q ∧ quiet ∧ ∀ r ∈ x.rspOut.toList ++ x.rspq, r.vc ≠ some vc.val
    let early := t0.ordered && x.early t0.flow t0.acc
    let room := s.m.mirrors = false ∨ s.m.recRoom = true
    s.m.test.scan = false →
    (x.ingress = [] → Does (.ingressTake ep) s s.m) ∧
    (∀ c, x.ingress = b :: rest → b.kind = .barrier c →
      Does (.ingressTake ep) s (s.m.modNiu ep (fun x => { x with ingress := rest }))) ∧
    (x.ingress = b :: rest → b.kind = .header → x.safe = false → s.m.tblEn = true → s.m.usable ep flow = none →
      ((x.entry flow).isSome = true ∨ x.fills.contains flow = true) →
      (cnt Req.inMiss x.reqs < 8 →
        Does (.ingressTake ep) s (s.m.modNiu ep (fun x => { x with
          ingress := rest, reqs := x.reqs ++ [⟨b.uid, b.bits, b.dbg, b.sub, b.sub, 0, 0, true, [], []⟩] }))) ∧
      (8 ≤ cnt Req.inMiss x.reqs → Does (.ingressTake ep) s s.m)) ∧
    (x.ingress = b :: rest → b.kind = .header → x.safe = false → s.m.tblEn = true → s.m.usable ep flow = some e → e.flow = flow →
      (∀ r ∈ x.reqs, r.inMiss = true → qFlow r.hdr ≠ flow) →
      (x.injRoom (eTc e.ent) = false → Does (.ingressTake ep) s s.m) ∧
      (x.injRoom (eTc e.ent) = true → s.m.sourceCheck ep b.bits e = none → qOpc b.bits ≠ opMSG → (∀ u ∈ x.unc, u.flow ≠ flow) →
        (∀ r ∈ x.inj, r.uid ≠ b.uid) →
        ∃ t, exec (.ingressTake ep) s = .next t ∧ (t.m.niu ep).ingress = rest ∧ (t.m.niu ep).inj = x.inj ++
          [{ uid := b.uid, pkt := ⟨s.m.formHead ep b.bits b.dbg e.ent (if qPosted b.bits then 0 else b.sub) 0 0, [], false⟩,
             need := unitBeats b.bits 0, shp := eShp e.ent, tag := b.sub, posted := qPosted b.bits, resend := false, close := false,
             dev := eDev e.ent, seq := none, short := false, mir := none, born := s.m.clk.cyc, fail := none }] ∧
          (e.dflt = false → t.m.fld (aSch ep 0x08) 32 32 = min (2 ^ 32 - 1) (s.m.fld (aSch ep 0x08) 32 32 + 1))) ∧
      (∀ st, x.injRoom (eTc e.ent) = true → s.m.sourceCheck ep b.bits e = some st →
        ∃ t, exec (.ingressTake ep) s = .next t ∧ (t.m.niu ep).ingress = rest ∧ (t.m.niu ep).inj = x.inj)) ∧
    (x.ingress = b :: rest → b.kind = .data → (∃ r ∈ x.inj, r.uid = b.uid ∧ r.need ≠ 0) →
      Does (.ingressTake ep) s (s.m.modNiu ep (fun x => { x with
        ingress := rest, inj := x.inj.map (fun p => if p.uid = b.uid ∧ p.need ≠ 0 then p.addBeat b.bits else p) }))) ∧
    (x.inj = [] → x.rspInj = [] → Does (.packetRelease n) s s.m) ∧
    (chosen → s.m.fenced ep (hTile h) = true → p.posted = true → Tab.get dNone x.pwb p.tag = some w → w.owner = .endpoint → w.acc ≠ 0 →
      hDmode h ≠ 2 →
      Does (.packetRelease n) s ((s.m.modNiu ep (fun x => { x with
        inj := x.inj.filter (fun r => r.uid ≠ p.uid), pwb := Tab.set dNone x.pwb p.tag none })).addFld (aNiu ep 0x38) 32 16 1)) ∧
    (chosen → s.m.fenced ep (hTile h) = false → bt (s.m.imgOf (s.m.epochOf ep)).1.unr (hTile h) = false → hDmode h = 0 → p.seq = none →
      p.resend = false → x.entry (hFlow h) = some e → quiet →
      ∃ t, exec (.packetRelease n) s = .next t ∧ (t.m.niu ep).inj = dropAt x.inj i ∧
        ((t.m.niu ep).entry (hFlow h)).map (fun e => eTxSeq e.ent) = some (eTxSeq e.ent + 1) ∧
        (hTile h = epTile ep →
          ∃ y, (t.m.vc (kVc (epTile ep) (niuPort ep) (vcOf y))).hd = y ∧ hSeq y = eTxSeq e.ent ∧ hEpoch y = s.m.epochOf ep % 8 ∧
            hFlow y = hFlow h ∧ hDst y = hDst h ∧ (t.m.vc (kVc (epTile ep) (niuPort ep) (vcOf y))).inReg = true)) ∧
    (x.ejected vc = none → Does (.responseArrival n vc) s s.m) ∧
    (here → opRsp (hOpc g) = true → hSrcInc g ≠ x.inc →
      Does (.responseArrival n vc) s ((vcq.addFld (aNiu ep 0x40) 0 16 1).orReg (aNiu ep 0x30) 4)) ∧
    (here → opRsp (hOpc g) = true → hSrcInc g = x.inc → hOpc g ≠ 0x22 → x.answeredBy g = none →
      (hDmode g ≠ 2 ∨ x.eoDone.contains (hFlow g, hSeq g) = false) →
      Does (.responseArrival n vc) s ((vcq.addFld (aNiu ep 0x40) 0 16 1).orReg (aNiu ep 0x30) 4)) ∧
    (here → opRsp (hOpc g) = true → hSrcInc g = x.inc → hOpc g ≠ 0x22 → x.answeredBy g = none → hDmode g = 2 →
      x.eoDone.contains (hFlow g, hSeq g) = true → Does (.responseArrival n vc) s vcq) ∧
    (here → hSrcInc g = x.inc → hOpc g = 0x22 → hStatus g = 0 → q.bad = false → hDmode g ≠ 2 →
      x.pwbOf g = some (k, w) → w.owner = .endpoint → plain →
      Does (.responseArrival n vc) s (vcq.modNiu ep (fun x => { x with
        pwb := Tab.set dNone x.pwb k none, inj := x.inj.filter (fun p => p.uid ≠ w.uid || p.close),
        reqs := x.reqs.filter (fun r => r.uid ≠ w.uid) }))) ∧
    (here → opRsp (hOpc g) = true → hSrcInc g = x.inc → hOpc g ≠ 0x22 → hStatus g = 0 → q.bad = false → hDmode g ≠ 2 →
      x.answeredBy g = some t0 → t0.owner = .endpoint → t0.ans = false → t0.dead = false → t0.eo = false → x.runs = true →
      opReq (qOpc t0.hdr) = true → plain → (early = true → x.storeUsed < 64) →
      ∃ t, exec (.responseArrival n vc) s = .next t ∧ (Tab.get dNone (t.m.niu ep).trk (hTag g)).map Trk.ans = some true ∧
        (t.m.niu ep).rspq = x.rspq ++ [⟨hTag g, t0.uid, t0.flow, t0.ordered, if early then none else some vc.val, early,
          rspHeader t0.hdr (qOpc t0.hdr + 32) 0 (hLen g) (hInline g) :: beatsOf q.data⟩]) ∧
    (x.expired f seq = none → Does (.retxDeadline n f seq) s s.m) ∧
    (∀ r, x.expired f seq = some r → x.entry f = some e → ¬ room → Does (.retxDeadline n f seq) s s.m) ∧
    (∀ r, room → x.expired f seq = some r → x.entry f = some e → eState e.ent = 0 → r.tries < 7 →
      s.m.fenced ep r.dst = false → bt (s.m.imgOf (s.m.epochOf ep)).1.unr r.dst = false →
      ∃ t, exec (.retxDeadline n f seq) s = .next t ∧
        (r.posted = true → (Tab.get dNone (t.m.niu ep).pwb r.place).map (fun w => (w.ddl, w.tries)) = some (none, r.tries + 1)) ∧
        (r.posted = false → (Tab.get dNone (t.m.niu ep).trk r.place).map (fun w => (w.ddl, w.tries)) = some (none, r.tries + 1)) ∧
        ((t.m.niu ep).entry f).map (fun e => (eState e.ent, eTxSeq e.ent)) = some (0, eTxSeq e.ent) ∧
        (t.m.niu ep).inj = x.inj ∧ t.guards = s.guards ∧ t.pending = s.pending ∧
        (∀ q, r.seqs = [q] → x.Calm → x.injRoom (eTc e.ent) = true → s.m.serviceRoom (niuService ep) false 2 = true →
          (f, q) ∈ (t.m.niu ep).rsv)) ∧
    (∀ r, room → x.expired f seq = some r → x.entry f = some e → eState e.ent = 0 → 7 ≤ r.tries →
      ∃ t, exec (.retxDeadline n f seq) s = .next t ∧ ((t.m.niu ep).entry f).map (fun e => eState e.ent) = some 1) ∧
    (∀ r, room → x.expired f seq = some r → x.entry f = some e → (eState e.ent = 1 ∨ eState e.ent = 2) →
      ∃ t, exec (.retxDeadline n f seq) s = .next t ∧ (t.m.niu ep).inj = x.inj ∧ (t.m.niu ep).rsv = x.rsv)

/-- The target side of an NIU (R98, R105, R106, R111, R112, R126, R131): the checks at arrival in their order; a receive half that
is used is the most recently used, and counts in HIT (R238, R255); the receive window of an EXACTLY_ONCE flow; presentation under a
TTAG, the place of the request taken until its last beat, or the answer of the guard or of a port in reset; a reassembly timeout.
The lowest free TTAG is the model's choice (log entry 8). -/
def Obligations.TargetSide : Prop :=
  ∀ (s : State) (ep : Ep) (vc : Vc) (p : Pkt) (e : FcE) (r : Pres) (c : Ctx) (k : Nat) (f : BitVec 16) (src : BitVec 10) (msg : BitVec 8),
    let n := ep.val
    let x := s.m.niu n
    let h := p.hd
    let quiet := s.m.hasMirror = false ∨ bt (s.m.reg 0x480000) 63 = false
    let here := x.ejected vc = some p ∧ (∀ r ∈ x.ready, r.vc ≠ some vc.val) ∧ x.treqVc ≠ some vc.val ∧ quiet ∧ opReq (hOpc h) = true ∧ hOpc h ≠ opRED ∧
      hMulti h = false ∧ hCloses h = false
    let answered (st : Nat) : Mach := s.m.modNiu n (fun x => { (x.clearEj vc) with rspInj := x.rspInj ++ [⟨none, [], false, rspBare h st⟩] })
    let role := s.m.recWaits n (hFlow h) = false ∧ x.entry (hFlow h) = some e ∧ eV e.ent = true ∧ eDst e.ent = n ∧ s.m.carries (hFlow h) = true
    let hit (m : Mach) : Mach :=
      let m := m.modNiu n (fun x => x.touch (hFlow h))
      if bt x.missEj vc = false ∧ e.dflt = false then m.addFld (aSch n 0x08) 32 32 1 else m
    let waiting : Pres := ⟨.plain, p, some vc.val, false, 0, none, none⟩
    let memory := hOpc h ≠ opMSG
    let next := x.store = [] ∧ x.ready = [r] ∧ r.kind = .plain ∧ r.mir = none ∧ r.adm = none ∧ hDmode r.pkt.hd = 0 ∧ r.pkt.bad = false
    let found := x.ctxs.find? (fun c => decide (c.src = src.toNat ∧ c.flow = f ∧ c.msg = msg.toNat)) = some c
    s.m.test.scan = false →
    (x.ejected vc = none → Does (.packetEject ep vc) s s.m) ∧
    (here → x.safe = true → x.rspInj.length < 32 → Does (.packetEject ep vc) s (answered 1)) ∧
    (here → x.safe = false → hDstInc h ≠ x.inc → x.rspInj.length < 32 → Does (.packetEject ep vc) s (answered 7)) ∧
    (here → (x.safe = true ∨ hDstInc h ≠ x.inc) → 32 ≤ x.rspInj.length → Does (.packetEject ep vc) s s.m) ∧
    (here → memory → x.safe = false → hDstInc h = x.inc → hDmode h = 0 →
      Does (.packetEject ep vc) s (s.m.modNiu n (fun x => { x with ready := x.ready ++ [waiting] }))) ∧
    (here → memory → x.safe = false → hDstInc h = x.inc → hDmode h = 1 → role →
      hSeq h = eNext e.ent → x.store = [] →
      Does (.packetEject ep vc) s (hit (s.m.modNiu n (fun x => { x with
        fc := x.fc.map (fun e => if e.flow = hFlow h then { e with ent := sf e.ent 304 16 (hSeq h + 1).toNat, dirtyR := true } else e),
        ready := x.ready ++ [waiting] })))) ∧
    (here → memory → x.safe = false → hDstInc h = x.inc → hDmode h = 1 → role →
      1 ≤ (hSeq h - eNext e.ent).toNat → (hSeq h - eNext e.ent).toNat < 64 → x.storeUsed < 64 →
      Does (.packetEject ep vc) s (hit (s.m.modNiu n (fun x => { (x.clearEj vc) with store := x.store ++ [p] })))) ∧
    (here → memory → x.safe = false → hDstInc h = x.inc → hDmode h = 2 → role →
      eRxState e.ent = true → hSrcInc h = eSInc e.ent → 1 ≤ (hSeq h - eTop e.ent).toNat → (hSeq h - eTop e.ent).toNat ≤ 64 →
      ∃ t, exec (.packetEject ep vc) s = .next t ∧ (t.m.niu n).ready = x.ready ++ [waiting] ∧
        ((t.m.niu n).entry (hFlow h)).map (fun e => eTop e.ent) = some (hSeq h) ∧
        ((t.m.niu n).entry (hFlow h)).map (fun e => eMap e.ent) = some (eMap e.ent <<< (hSeq h - eTop e.ent).toNat) ∧
        (hFlow h, hSeq h) ∈ (t.m.niu n).eoPend) ∧
    (here → memory → x.safe = false → hDstInc h = x.inc → hDmode h = 2 → role →
      eRxState e.ent = true → hSrcInc h = eSInc e.ent → 64 ≤ (eTop e.ent - hSeq h).toNat → (eTop e.ent - hSeq h).toNat ≤ 32767 →
      ∃ t, exec (.packetEject ep vc) s = .next t ∧ (t.m.niu n).ready = x.ready ∧ (t.m.niu n).rspInj = x.rspInj ∧
        (t.m.niu n).ejected vc = none) ∧
    (x.ready = [] → x.store = [] → Does (.targetPresent ep) s s.m) ∧
    (next → x.runs = true → x.treq ≠ none → Does (.targetPresent ep) s s.m) ∧
    (next → x.runs = true → x.treq = none → k < 256 → Tab.get dNone x.tt k = none → (∀ j, j < k → Tab.get dNone x.tt j ≠ none) →
      (s.guard n).check r.pkt.hd = none →
      ∃ t, exec (.targetPresent ep) s = .next t ∧ (t.m.niu n).ready = [] ∧
        (t.m.niu n).treq = some (k, treqBeats r.pkt.hd (hLen r.pkt.hd) k r.pkt.data) ∧
        (t.m.niu n).treqVc = r.vc ∧ (t.m.niu n).treqSlot = r.slot ∧ (t.m.niu n).ej = x.ej ∧
        Tab.get dNone (t.m.niu n).tt k = some ⟨.plain, r.pkt.hd, [x.gSer], [], false⟩ ∧
        (∀ j, j ≠ k → Tab.get dNone (t.m.niu n).tt j = Tab.get dNone x.tt j) ∧ (t.m.niu n).rspInj = x.rspInj) ∧
    (∀ d, next → x.runs = true → x.treq = none → k < 256 → Tab.get dNone x.tt k = none → (s.guard n).check r.pkt.hd = some d →
      x.rspInj.length < 32 →
      ∃ t, exec (.targetPresent ep) s = .next t ∧ (t.m.niu n).ready = [] ∧ (t.m.niu n).treq = none ∧
        (t.m.niu n).rspInj = x.rspInj ++ [⟨none, [], false, rspBare r.pkt.hd 9⟩] ∧
        t.m.fld (aGd n 0x28) 32 32 = min (2 ^ 32 - 1) (s.m.fld (aGd n 0x28) 32 32 + 1)) ∧
    (next → x.runs = false → (s.guard n).check r.pkt.hd = none → x.rspInj.length < 32 →
      ∃ t, exec (.targetPresent ep) s = .next t ∧ (t.m.niu n).ready = [] ∧
        (t.m.niu n).rspInj = x.rspInj ++ [⟨none, [], false, rspBare r.pkt.hd 10⟩]) ∧
    (x.ctxs = [] → Does (.reasmTimeout ep f src msg) s s.m) ∧
    (found → c.ticks ≠ some 0 → Does (.reasmTimeout ep f src msg) s s.m) ∧
    (found → c.ticks = some 0 → c.isOf c.hd = true →
      ∃ t, exec (.reasmTimeout ep f src msg) s = .next t ∧ bt (t.m.reg (aNiu n 0x30)) 3 = true ∧
        t.m.fld (aNiu n 0x40) 16 16 = min 65535 (s.m.fld (aNiu n 0x40) 16 16 + 1) ∧ (∀ d ∈ (t.m.niu n).ctxs, d.isOf c.hd = false) ∧
        (t.m.niu n).rspInj = x.rspInj)

/-- Clock modes, clock monitors and the event channel toward FCLK (R219, R261, R424, R427, R451, R463): a code of 0b11 is marked and
not taken; another mode is taken and counted; a stopped clock, found by the other while that runs, sets its flag, its sticky bit
and, for FCLK, a record of class 14; an arriving transfer posts one POWER event (class 10) to the master. The model's choices: the
record of FCLK_STOP is made at once (log entry 73); arrival and acknowledge are one step (log entry 23). -/
def Obligations.ClockEvents : Prop :=
  ∀ (s : State) (code : BitVec 2) (d : Dom) (k : Nat),
    let m := s.m
    let ch := Tab.get dChan m.pchan d
    let next : Mach := { m with pchan := Tab.set dChan m.pchan d ⟨ch.acc, [], false, ch.ovf⟩ }
    m.test.scan = false →
    (code = 3 → m.pwr.aonUp = true → Does (.clockModeChange code) s (m.orReg 0x20 4)) ∧
    (code ≠ 3 → code.toNat = m.clk.mode → Does (.clockModeChange code) s m) ∧
    (code ≠ 3 → code.toNat ≠ m.clk.mode → m.pwr.aonUp = true →
      ∃ t, exec (.clockModeChange code) s = .next t ∧ t.m.clk = { m.clk with mode := code.toNat } ∧
        t.m.fld 0x20 8 8 = min 255 (m.fld 0x20 8 8 + 1) ∧ t.m.keep = m.keep ∧
        (m.hasSpine = true → m.spine.lock = .locked → t.m.spine.lock = .acq) ∧ t.guards = s.guards ∧ t.pending = s.pending) ∧
    (m.clk.fstop = true ∨ m.clk.astop = true → Does .fclkStopDetect s m) ∧
    (m.clk.fstop = false → m.clk.astop = false → m.pwr.aonUp = true → m.safe = false → (∀ i q, i < 64 → m.frec i = some q → q.cls ≠ 14) →
      m.frec 0 = none → bt (m.reg 0xD0008) 62 = false → m.pulseMode = false →
      ∃ t, exec .fclkStopDetect s = .next t ∧ t.m.clk = { m.clk with fstop := true } ∧ t.m.reg 0x38 = m.reg 0x38 ||| 4 ∧
        t.m.frec 0 = some ⟨14, ⟨0, 7, 0, 0, 1⟩, BitVec.ofNat 64 m.ftNs⟩ ∧ bt (t.m.reg 0xD0000) 62 = true) ∧
    (m.clk.fstop = false → m.clk.astop = false → m.pwr.aonUp = false → Does .fclkStopDetect s { m with clk := { m.clk with fstop := true } }) ∧
    (m.clk.astop = true ∨ m.clk.fstop = true → Does .aonStopDetect s m) ∧
    (m.clk.astop = false → m.clk.fstop = false → m.pwr.aonUp = true →
      Does .aonStopDetect s (({ m with clk := { m.clk with astop := true } } : Mach).orReg 0x38 8)) ∧
    (m.clk.fstop = false → m.clk.astop = false → m.pwr.aonUp = true → ch.fly = [k] → ch.flyOvf = false → (m.eng 0).state ≠ .off →
      (m.eng 0).evq.length < 32 →
      Does (.eventChannelTransfer false d) s (next.modEng 0 (fun y => { y with
        evq := y.evq ++ [mkf 64 60 4 10 ||| mkf 64 56 4 k ||| mkf 64 32 24 m.ftUs ||| mkf 64 0 16 d] }))) ∧
    (m.clk.fstop = false → m.clk.astop = false → m.pwr.aonUp = true → ch.fly = [k] → ch.flyOvf = true →
      ∃ t, exec (.eventChannelTransfer false d) s = .next t ∧ bt (t.m.reg 0x38) 1 = true ∧ t.m.fld 0x38 16 8 = d.val) ∧
    (m.clk.fstop = true ∨ m.clk.astop = true ∨ m.pwr.aonUp = false ∨ ch.fly = [] → Does (.eventChannelTransfer false d) s m)

/-- Test access (R465, R476 to R478): the instruction an opcode selects, BYPASS where none; entering EXTEST or CLAMP puts the instance
into instance reset; the IDCODE register captures the identity word and the bypass register 0; a memory test starts on a FENCED
domain only and is refused elsewhere; after it what it tested is free, and the SRAM of a spine domain cleared; scan mode. What the
registers of the port hold after bits have been shifted is free (log entry 101); that MEMORY_TEST_START does nothing without
INST_ACCESS, and which buffers a test leaves free, are the model's choices (log entry 95). -/
def Obligations.TestAccess : Prop :=
  ∀ (s : State) (op : BitVec 8) (d : Dom) (b : Bool),
    let m := s.m
    let x := m.test
    let was := x.tap = 3 ∨ x.tap = 4
    let same (t : State) := (∀ k, t.m.dom k = m.dom k) ∧ (∀ a, t.m.reg a = m.reg a) ∧ (∀ k, t.m.niu k = m.niu k) ∧ t.m.test.run = x.run ∧
      t.m.test.refus = x.refus ∧ t.guards = s.guards ∧ t.pending = s.pending
    m.test.scan = false →
    (op = 1 ∨ op = 2 ∨ op = 16 → ∃ t, exec (.tapInstructionChange op) s = .next t ∧ t.m.test.tap = op ∧
      (op = 1 → t.m.test.idr = m.idcode) ∧ (op ≠ 1 → x.tap ≠ 1 → t.m.test.idr = x.idr) ∧
      (x.tap ≠ 16 → t.m.test.sib = x.sib) ∧ same t) ∧
    (op ≠ 1 → op ≠ 2 → op ≠ 3 → op ≠ 4 → op ≠ 16 → ∃ t, exec (.tapInstructionChange op) s = .next t ∧ t.m.test.tap = 255 ∧
      t.m.test.byp = false ∧ same t) ∧
    (op = 3 ∨ op = 4 → was → ∃ t, exec (.tapInstructionChange op) s = .next t ∧ t.m.test.tap = op ∧ same t) ∧
    (op = 3 ∨ op = 4 → ¬ was → ∃ t, exec (.tapInstructionChange op) s = .next t ∧ t.m.test.tap = op ∧
      (∀ k, t.m.dom k = PDom.init) ∧ (∀ a, t.m.reg a = regReset a) ∧ t.m.pwr.aonUp = false ∧ t.guards = [] ∧ t.pending = s.pending) ∧
    (x.tap = 16 → (m.dom d).st = .fenced → x.run.contains d.val = false →
      Does (.memoryTestStart d) s { m with test := { x with run := x.run ++ [d.val], refus := x.refus.filter (fun k => k ≠ d.val) } }) ∧
    (x.tap = 16 → (m.dom d).st ≠ .fenced → x.refus.contains d.val = false →
      Does (.memoryTestStart d) s { m with test := { x with refus := x.refus ++ [d.val] } }) ∧
    (x.tap ≠ 16 → Does (.memoryTestStart d) s m) ∧
    (x.run.contains d.val = false → Does (.memoryTestDone d) s m) ∧
    (x.run.contains d.val = true → 128 ≤ d.val → d.val < 132 →
      ∃ t, exec (.memoryTestDone d) s = .next t ∧ t.m.test.run = x.run.filter (fun k => k ≠ d.val) ∧
        t.m.eng (d - 127) = { m.eng (d - 127) with sram := [], bad := [], soft := [] } ∧ (∀ k, k ≠ d.val - 127 → t.m.eng k = m.eng k) ∧
        (∀ k, t.m.niu k = m.niu k) ∧ (∀ p, p < 8 * (d.val - 128) ∨ 8 * (d.val - 128) + 8 ≤ p → t.m.stn p = m.stn p) ∧
        t.guards = s.guards ∧ t.pending = s.pending) ∧
    (x.run.contains d.val = true → d.val = 132 →
      ∃ t, exec (.memoryTestDone d) s = .next t ∧ t.m.test.run = x.run.filter (fun k => k ≠ d.val) ∧ (t.m.eng 0).g = (m.eng 0).g ∧
        (t.m.eng 0).pc = (m.eng 0).pc ∧ (∀ k, k ≠ 0 → t.m.eng k = m.eng k) ∧ (∀ k, t.m.niu k = m.niu k) ∧
        t.guards = s.guards ∧ t.pending = s.pending) ∧
    (x.run.contains d.val = true → d.val < 128 →
      ∃ t, exec (.memoryTestDone d) s = .next t ∧ t.m.test.run.contains d.val = false ∧ (∀ k, t.m.eng k = m.eng k) ∧
        (∀ k, (t.m.niu k).fc.map FcE.flow = (m.niu k).fc.map FcE.flow) ∧ t.guards = s.guards ∧ t.pending = s.pending) ∧
    Does (.scanModeChange b) s { m with test := { x with scan := b } }
end

