-- ==== Sys2Proof/Laws/Tab.lean ====
section
/-! SUPPORT. The laws of tables and of the byte memory: a read after a write, writes elsewhere, the canonical form. -/

namespace Sys2Proof.Machine

variable {α : Type}

/-- The written key reads as the value written. -/
@[simp] theorem Tab.find_put (t : Tab α) (k : Nat) (v : α) : Tab.find (Tab.put t k v) k = some v := by
  induction t with
  | nil => simp [Tab.put, Tab.find]
  | cons e t ih =>
    simp only [Tab.put]
    split
    · simp [Tab.find]
    · split
      · simp [Tab.find]
      · rename_i h; simp [Tab.find, Ne.symm h, ih]

/-- Other keys read as before. -/
theorem Tab.find_put_ne (t : Tab α) {k i : Nat} (v : α) (h : i ≠ k) : Tab.find (Tab.put t k v) i = Tab.find t i := by
  induction t with
  | nil => simp [Tab.put, Tab.find, Ne.symm h]
  | cons e t ih =>
    simp only [Tab.put]
    split
    · simp [Tab.find, Ne.symm h]
    · split
      · rename_i hk; simp [Tab.find, ← hk, Ne.symm h]
      · simp only [Tab.find, ih]

/-- A key taken out is not listed. -/
@[simp] theorem Tab.find_del (t : Tab α) (k : Nat) : Tab.find (Tab.del t k) k = none := by
  induction t with
  | nil => rfl
  | cons e t ih =>
    unfold Tab.del at ih ⊢
    by_cases h : e.1 = k
    · simpa [List.filter_cons, h] using ih
    · simpa [List.filter_cons, h, Tab.find] using ih

/-- Taking a key out leaves the others. -/
theorem Tab.find_del_ne (t : Tab α) {k i : Nat} (hi : i ≠ k) : Tab.find (Tab.del t k) i = Tab.find t i := by
  induction t with
  | nil => rfl
  | cons e t ih =>
    unfold Tab.del at ih ⊢
    by_cases h : e.1 = k
    · simpa [List.filter_cons, h, Tab.find, Ne.symm hi] using ih
    · simp only [List.filter_cons, h, ne_eq, not_false_eq_true, decide_true, if_true, Tab.find, ih]

theorem Tab.rising_mono {t : Tab α} {lo lo' : Nat} (h : Tab.rising lo' t = true) (hl : lo ≤ lo') : Tab.rising lo t = true := by
  cases t with
  | nil => rfl
  | cons e t =>
    simp only [Tab.rising, Bool.and_eq_true, decide_eq_true_eq] at h ⊢
    exact ⟨by omega, h.2⟩

theorem Tab.rising_put {t : Tab α} {lo k : Nat} (v : α) (h : Tab.rising lo t = true) (hk : lo ≤ k) :
    Tab.rising lo (Tab.put t k v) = true := by
  induction t generalizing lo with
  | nil => simpa [Tab.put, Tab.rising] using hk
  | cons e t ih =>
    simp only [Tab.rising, Bool.and_eq_true, decide_eq_true_eq] at h
    simp only [Tab.put]
    split
    · simp only [Tab.rising, Bool.and_eq_true, decide_eq_true_eq]; exact ⟨hk, by omega, h.2⟩
    · split
      · rename_i he; simp only [Tab.rising, Bool.and_eq_true, decide_eq_true_eq]; exact ⟨hk, he ▸ h.2⟩
      · simp only [Tab.rising, Bool.and_eq_true, decide_eq_true_eq]; exact ⟨h.1, ih h.2 (by omega)⟩

theorem Tab.rising_filter {t : Tab α} {lo : Nat} (p : Nat × α → Bool) (h : Tab.rising lo t = true) :
    Tab.rising lo (t.filter p) = true := by
  induction t generalizing lo with
  | nil => rfl
  | cons e t ih =>
    simp only [Tab.rising, Bool.and_eq_true, decide_eq_true_eq] at h
    simp only [List.filter_cons]
    split
    · simp only [Tab.rising, Bool.and_eq_true, decide_eq_true_eq]; exact ⟨h.1, ih h.2⟩
    · exact Tab.rising_mono (ih h.2) (by omega)

theorem Tab.rising_map {t : Tab α} {lo : Nat} (f : Nat → α → α) (h : Tab.rising lo t = true) :
    Tab.rising lo (t.map (fun e => (e.1, f e.1 e.2))) = true := by
  induction t generalizing lo with
  | nil => rfl
  | cons e t ih =>
    simp only [Tab.rising, Bool.and_eq_true, decide_eq_true_eq, List.map_cons] at h ⊢
    exact ⟨h.1, ih h.2⟩

theorem Tab.mem_put {t : Tab α} {k : Nat} {v : α} {e : Nat × α} (h : e ∈ Tab.put t k v) : e = (k, v) ∨ e ∈ t := by
  induction t with
  | nil => simpa [Tab.put] using h
  | cons f t ih =>
    simp only [Tab.put] at h
    split at h
    · simpa using h
    · split at h
      · exact (List.mem_cons.1 h).imp id (List.mem_cons_of_mem _)
      · rcases List.mem_cons.1 h with h | h
        · exact .inr (h ▸ List.mem_cons_self)
        · exact (ih h).imp id (List.mem_cons_of_mem _)

/-- The keys of a table that rises from `lo` are at least `lo`. -/
theorem Tab.le_of_rising {t : Tab α} {lo : Nat} (h : Tab.rising lo t = true) {e : Nat × α} (he : e ∈ t) : lo ≤ e.1 := by
  induction t generalizing lo with
  | nil => cases he
  | cons x t ih =>
    simp only [Tab.rising, Bool.and_eq_true, decide_eq_true_eq] at h
    rcases List.mem_cons.1 he with rfl | hm
    · exact h.1
    · have := ih h.2 hm; omega

/-- In a rising table an entry is what its key reads as. -/
theorem Tab.find_of_mem {t : Tab α} {lo : Nat} (h : Tab.rising lo t = true) {e : Nat × α} (he : e ∈ t) :
    Tab.find t e.1 = some e.2 := by
  induction t generalizing lo with
  | nil => cases he
  | cons x t ih =>
    obtain ⟨j, v⟩ := x
    simp only [Tab.rising, Bool.and_eq_true, decide_eq_true_eq] at h
    rcases List.mem_cons.1 he with rfl | hm
    · simp [Tab.find]
    · have := Tab.le_of_rising h.2 hm
      rw [Tab.find, if_neg (by omega)]
      exact ih h.2 hm

theorem Tab.find_map (t : Tab α) (f : Nat → α → α) (k : Nat) :
    Tab.find (t.map (fun e => (e.1, f e.1 e.2))) k = (Tab.find t k).map (f k) := by
  induction t with
  | nil => rfl
  | cons e t ih =>
    simp only [List.map_cons, Tab.find]
    split
    · rename_i h; simp [h]
    · exact ih

theorem Tab.find_filter_key (t : Tab α) (p : Nat → Bool) (k : Nat) :
    Tab.find (t.filter (fun e => p e.1)) k = if p k then Tab.find t k else none := by
  induction t with
  | nil => simp [Tab.find]
  | cons e t ih =>
    simp only [List.filter_cons]
    by_cases hk : e.1 = k
    · subst hk
      by_cases hp : p e.1 = true
      · simp [hp, Tab.find]
      · simp [hp, Tab.find, ih]
    · by_cases hp : p e.1 = true
      · simp [hp, Tab.find, hk, ih]
      · simp [hp, Tab.find, hk, ih]

variable [DecidableEq α] {d : Nat → α}

theorem Tab.wf_iff {t : Tab α} : Tab.wf d t = true ↔ Tab.rising 0 t = true ∧ ∀ e ∈ t, e.2 ≠ d e.1 := by
  simp [Tab.wf, Tab.tidy, List.all_eq_true]

/-- A write keeps the canonical form. -/
theorem Tab.wf_set {t : Tab α} (h : Tab.wf d t = true) (k : Nat) (v : α) : Tab.wf d (Tab.set d t k v) = true := by
  rw [Tab.wf_iff] at h ⊢
  unfold Tab.set
  split
  · exact ⟨Tab.rising_filter _ h.1, fun e he => h.2 e (List.mem_filter.1 he).1⟩
  · rename_i hv
    refine ⟨Tab.rising_put v h.1 (Nat.zero_le k), fun e he => ?_⟩
    rcases Tab.mem_put he with rfl | he
    · exact hv
    · exact h.2 e he

theorem Tab.wf_upd {t : Tab α} (h : Tab.wf d t = true) (k : Nat) (f : α → α) : Tab.wf d (Tab.upd d t k f) = true :=
  Tab.wf_set h k _

theorem Tab.wf_keep {t : Tab α} (h : Tab.wf d t = true) (p : Nat → Bool) : Tab.wf d (Tab.keep p t) = true := by
  rw [Tab.wf_iff] at h ⊢
  exact ⟨Tab.rising_filter _ h.1, fun e he => h.2 e (List.mem_filter.1 he).1⟩

/-- What a key reads as after every listed entry was changed. -/
theorem Tab.get_mapv (t : Tab α) (f : Nat → α → α) (k : Nat) :
    Tab.get d (Tab.mapv d f t) k = ((Tab.find t k).map (f k)).getD (d k) := by
  unfold Tab.mapv
  simp only
  have h := Tab.find_filter_key (t.map (fun e => (e.1, f e.1 e.2)))
    (fun j => decide (Tab.get d (t.map (fun e => (e.1, f e.1 e.2))) j ≠ d j)) k
  unfold Tab.get at h ⊢
  rw [h]
  split
  · rw [Tab.find_map]
  · rename_i hn
    rw [Tab.find_map] at hn
    simp only [ne_eq, decide_not, Bool.not_eq_true', decide_eq_false_iff_not, not_not] at hn
    simp [hn]

/-- The same, where the change leaves the default alone. -/
theorem Tab.get_mapv_same (t : Tab α) (f : Nat → α → α) (k : Nat) (hd : f k (d k) = d k) :
    Tab.get d (Tab.mapv d f t) k = f k (Tab.get d t k) := by
  rw [Tab.get_mapv]
  unfold Tab.get
  cases Tab.find t k with
  | none => simp [hd]
  | some v => rfl

theorem Tab.wf_mapv {t : Tab α} (h : Tab.wf d t = true) (f : Nat → α → α) : Tab.wf d (Tab.mapv d f t) = true := by
  rw [Tab.wf_iff] at h ⊢
  have hr := Tab.rising_map f h.1
  refine ⟨Tab.rising_filter _ hr, fun e he => ?_⟩
  obtain ⟨hm, hp⟩ := List.mem_filter.1 he
  have hf := Tab.find_of_mem hr hm
  simpa [Tab.get, hf] using hp

/-- The key written reads as the value written. -/
@[simp] theorem Tab.get_set (t : Tab α) (k : Nat) (v : α) : Tab.get d (Tab.set d t k v) k = v := by
  unfold Tab.get Tab.set
  split
  · rename_i hv; simp [hv]
  · simp

/-- Every other key reads as before. -/
theorem Tab.get_set_ne (t : Tab α) {k i : Nat} (v : α) (hi : i ≠ k) : Tab.get d (Tab.set d t k v) i = Tab.get d t i := by
  unfold Tab.get Tab.set
  split
  · rw [Tab.find_del_ne t hi]
  · rw [Tab.find_put_ne t v hi]

@[simp] theorem Tab.get_upd (t : Tab α) (k : Nat) (f : α → α) : Tab.get d (Tab.upd d t k f) k = f (Tab.get d t k) :=
  Tab.get_set t k _

theorem Tab.get_upd_ne (t : Tab α) {k i : Nat} (f : α → α) (hi : i ≠ k) : Tab.get d (Tab.upd d t k f) i = Tab.get d t i :=
  Tab.get_set_ne t _ hi

/-- Writing a key that a selection leaves out does not show in it. -/
theorem Tab.keep_set (p : Nat → Bool) (t : Tab α) {k : Nat} (v : α) (hk : p k = false) :
    Tab.keep p (Tab.set d t k v) = Tab.keep p t := by
  have hput : ∀ t : Tab α, Tab.keep p (Tab.put t k v) = Tab.keep p t := by
    intro t
    induction t with
    | nil => simp [Tab.keep, Tab.put, hk]
    | cons e t ih =>
      obtain ⟨j, u⟩ := e
      simp only [Tab.put]
      split
      · simp [Tab.keep, hk]
      · split
        · subst_vars; simp [Tab.keep, hk]
        · simp only [Tab.keep, List.filter_cons] at ih ⊢; rw [ih]
  have hdel : ∀ t : Tab α, Tab.keep p (Tab.del t k) = Tab.keep p t := by
    intro t
    unfold Tab.keep Tab.del
    rw [List.filter_filter]
    congr 1
    funext e
    by_cases h : e.1 = k <;> simp [h, hk]
  unfold Tab.set
  split
  · exact hdel t
  · exact hput t

/-- Every memory operation keeps the canonical form. -/
theorem Memory.wf_setByte {m : Memory} (h : m.wf = true) (a : Nat) (b : BitVec 8) : (m.setByte a b).wf = true :=
  Tab.wf_set (d := Memory.blank) h a b

theorem Memory.wf_setBytes {m : Memory} (h : m.wf = true) (a n v : Nat) : (m.setBytes a n v).wf = true := by
  induction n generalizing m a v with
  | zero => exact h
  | succ n ih => exact ih (Memory.wf_setByte h a _) _ _

theorem Memory.wf_setWord {m : Memory} (h : m.wf = true) (a : Nat) (w : Word) : (m.setWord a w).wf = true :=
  Memory.wf_setBytes h a 8 _

/-- A byte reads as the one stored. -/
@[simp] theorem Memory.byte_setByte (m : Memory) (a : Nat) (b : BitVec 8) : (m.setByte a b).byte a = b :=
  Tab.get_set (d := Memory.blank) m a b

/-- Every other byte reads as before. -/
theorem Memory.byte_setByte_ne (m : Memory) {a i : Nat} (b : BitVec 8) (hi : i ≠ a) : (m.setByte a b).byte i = m.byte i :=
  Tab.get_set_ne (d := Memory.blank) m b hi

/-- A store of `n` bytes leaves every byte outside them. -/
theorem Memory.byte_setBytes_ne (m : Memory) {a n i : Nat} (v : Nat) (hi : i < a ∨ a + n ≤ i) :
    (m.setBytes a n v).byte i = m.byte i := by
  induction n generalizing m a v with
  | zero => rfl
  | succ n ih => rw [Memory.setBytes, ih _ _ (by omega), Memory.byte_setByte_ne _ _ (by omega)]

/-- A load of bytes that a store leaves reads as before. -/
theorem Memory.bytes_setBytes_ne (m : Memory) {a n b k : Nat} (v : Nat) (hd : b + k ≤ a ∨ a + n ≤ b) :
    (m.setBytes a n v).bytes b k = m.bytes b k := by
  induction k generalizing b with
  | zero => rfl
  | succ k ih => rw [Memory.bytes, Memory.bytes, Memory.byte_setBytes_ne m v (by omega), ih (by omega)]

/-- A load of the bytes just stored. -/
theorem Memory.bytes_setBytes (m : Memory) (a n v : Nat) : (m.setBytes a n v).bytes a n = v % 256 ^ n := by
  induction n generalizing m a v with
  | zero => simp [Memory.bytes, Nat.mod_one]
  | succ n ih =>
    rw [Memory.setBytes, Memory.bytes, ih, Memory.byte_setBytes_ne _ _ (by omega), Memory.byte_setByte]
    rw [Nat.pow_succ, Nat.mul_comm (256 ^ n) 256, Nat.mod_mul]
    simp

/-- A word reads as the one stored. -/
@[simp] theorem Memory.word_setWord (m : Memory) (a : Nat) (w : Word) : (m.setWord a w).word a = w := by
  unfold Memory.setWord Memory.word
  rw [Memory.bytes_setBytes]
  apply BitVec.eq_of_toNat_eq
  have : w.toNat < 2 ^ 64 := w.isLt
  simpa using this

/-- What holds of every listed entry and of every default holds of every entry of a table. -/
theorem Tab.get_key {α : Type} {d : Nat → α} {P : Nat → α → Prop} {t : Tab α} (hd : ∀ k, P k (d k)) (ht : ∀ p ∈ t, P p.1 p.2)
    (k : Nat) : P k (Tab.get d t k) := by
  unfold Tab.get
  cases h : Tab.find t k with
  | none => exact hd k
  | some v =>
    have : (k, v) ∈ t := by
      clear ht
      induction t with
      | nil => cases h
      | cons p t ih =>
        unfold Tab.find at h
        split at h
        · next hk => cases h; subst hk; exact List.mem_cons_self
        · exact List.mem_cons_of_mem _ (ih h)
    exact ht _ this

/-- The same of a property that does not depend on the key. -/
theorem Tab.get_all {α : Type} {d : Nat → α} {a : α} {P : α → Prop} {t : Tab α} (hd : ∀ k, d k = a) (ha : P a) (ht : ∀ p ∈ t, P p.2)
    (k : Nat) : P (Tab.get d t k) :=
  Tab.get_key (P := fun _ => P) (fun k => hd k ▸ ha) ht k

/-- The same for every entry but one. -/
theorem Tab.get_ne {α : Type} {d : Nat → α} {a : α} {P : α → Prop} {t : Tab α} {k : Nat} (hd : ∀ k, d k = a) (ha : P a)
    (ht : ∀ p ∈ t, p.1 ≠ k → P p.2) (j : Nat) (hj : j ≠ k) : P (Tab.get d t j) :=
  Tab.get_key (P := fun j x => j ≠ k → P x) (fun j _ => hd j ▸ ha) ht j hj

end Sys2Proof.Machine
end

