-- ==== Sys2Proof/Laws/Ops.lean ====
section
/-! SUPPORT. What each shared operation can do, said once: reading a unit after it was changed, counting, issuing, moving past an
instruction. -/

namespace Sys2Proof.Machine

@[simp] theorem Mach.eng_modEng (m : Mach) (e : Nat) (f : Eng → Eng) : (m.modEng e f).eng e = f (m.eng e) := Tab.get_upd _ _ _
theorem Mach.eng_modEng_ne (m : Mach) {e k : Nat} (f : Eng → Eng) (h : k ≠ e) : (m.modEng e f).eng k = m.eng k :=
  Tab.get_upd_ne _ _ h
@[simp] theorem Mach.niu_modNiu (m : Mach) (n : Nat) (f : Niu → Niu) : (m.modNiu n f).niu n = f (m.niu n) := Tab.get_upd _ _ _
theorem Mach.niu_modNiu_ne (m : Mach) {n k : Nat} (f : Niu → Niu) (h : k ≠ n) : (m.modNiu n f).niu k = m.niu k :=
  Tab.get_upd_ne _ _ h
@[simp] theorem Mach.reg_setReg (m : Mach) (a : Nat) (w : Word) : (m.setReg a w).reg a = w := Tab.get_set _ _ _
theorem Mach.reg_setReg_ne (m : Mach) {a b : Nat} (w : Word) (h : b ≠ a) : (m.setReg a w).reg b = m.reg b := Tab.get_set_ne _ _ h

/-- Answering at the register port presents that answer, far or near by the address, and changes the port alone. -/
theorem Mach.answerTo_eq (m : Mach) (a st : Nat) (v : Word) :
    m.answerTo a st v = m.modRp (fun r => { r with rsp := some (st, v), rspFar := farAddr a }) := by
  unfold Mach.answerTo
  cases farAddr a <;> rfl
@[simp] theorem Mach.answerTo_rsp (m : Mach) (a st : Nat) (v : Word) : (m.answerTo a st v).rp.rsp = some (st, v) := by
  simp [Mach.answerTo_eq, Mach.modRp]
@[simp] theorem Mach.answerTo_rspFar (m : Mach) (a st : Nat) (v : Word) : (m.answerTo a st v).rp.rspFar = farAddr a := by
  simp [Mach.answerTo_eq, Mach.modRp]

/-- An access that is carried out is always answered with OK; it reads zero and writes nothing where its domain is not live (R430). -/
theorem State.carry_dead (s : State) (a : Nat) (w : Option Word) (act : State → Word × Mach) (h : s.m.aonDead a = true) :
    s.carry a w act = s.m.answerTo a 0 0 := by simp [State.carry, h]
theorem State.carry_live (s : State) (a : Nat) (w : Option Word) (act : State → Word × Mach) (h : s.m.aonDead a = false) :
    s.carry a w act = (act s).2.answerTo a 0 (if w.isSome then 0 else (act s).1) := by simp [State.carry, h]
theorem State.carry_status (s : State) (a : Nat) (w : Option Word) (act : State → Word × Mach) :
    ∃ v, (s.carry a w act).rp.rsp = some (0, v) ∧ (s.carry a w act).rp.rspFar = farAddr a := by
  cases h : s.m.aonDead a
  · exact ⟨_, by rw [State.carry_live s a w act h]; exact ⟨Mach.answerTo_rsp .., Mach.answerTo_rspFar ..⟩⟩
  · exact ⟨_, by rw [State.carry_dead s a w act h]; exact ⟨Mach.answerTo_rsp .., Mach.answerTo_rspFar ..⟩⟩

/-- A flit that enters an ejection VC stands behind those of its packet, a head being taken by the NIU once only. -/
theorem Niu.ejFlits_pushEj (x : Niu) (vc : Nat) (f : Flit) (h : Tab.get dNone x.ejHd vc = none ∨ ∀ g ∈ Tab.get dNil x.ej vc, g.head = false) :
    (x.pushEj vc f).ejFlits vc = x.ejFlits vc ++ [f] := by
  unfold Niu.pushEj Niu.ejFlits
  rcases hl : Tab.get dNil x.ej vc with _ | ⟨g, _ | ⟨k, l⟩⟩
  · simp [Tab.get_set]
  · by_cases hg : g.head
    · rcases h with h | h
      · simp [hg, h, Tab.get_set]
      · have := h g (by rw [hl]; exact List.mem_cons_self)
        rw [hg] at this
        exact Bool.noConfusion this
    · simp [hg, Tab.get_set]
  · simp [Tab.get_set]

/-- An ejection VC that has been emptied holds nothing. -/
@[simp] theorem Niu.ejFlits_clearEj (x : Niu) (vc : Nat) : (x.clearEj vc).ejFlits vc = [] := by
  simp [Niu.clearEj, Niu.ejFlits, Tab.get_set]

/-- The registers of the counters lie in their range. -/
theorem ctrAddr_ctr {n : Nat} (h : n < 5204) : ctrAddr (aCtr n) = true := by
  unfold ctrAddr aCtr
  simp only [decide_eq_true_eq]
  split
  · omega
  · split
    · omega
    · split <;> omega

theorem Mach.Like.refl (m : Mach) : m.Like m := by constructor <;> intros <;> rfl
theorem Mach.Like.trans {a b c : Mach} (h : a.Like b) (k : b.Like c) : a.Like c :=
  ⟨fun i hi => (h.1 i hi).trans (k.1 i hi), fun i => (h.2 i).trans (k.2 i), fun i => (h.3 i).trans (k.3 i),
    fun i => (h.4 i).trans (k.4 i), fun i => (h.5 i).trans (k.5 i), fun i => (h.6 i).trans (k.6 i), fun i => (h.7 i).trans (k.7 i),
    fun i => (h.8 i).trans (k.8 i), fun i j => (h.9 i j).trans (k.9 i j), fun i => (h.10 i).trans (k.10 i),
    fun i => (h.11 i).trans (k.11 i), fun i => (h.12 i).trans (k.12 i), h.13.trans k.13⟩
theorem Mach.Like.symm {a b : Mach} (h : a.Like b) : b.Like a :=
  ⟨fun i hi => (h.1 i hi).symm, fun i => (h.2 i).symm, fun i => (h.3 i).symm,
    fun i => (h.4 i).symm, fun i => (h.5 i).symm, fun i => (h.6 i).symm, fun i => (h.7 i).symm,
    fun i => (h.8 i).symm, fun i j => (h.9 i j).symm, fun i => (h.10 i).symm,
    fun i => (h.11 i).symm, fun i => (h.12 i).symm, h.13.symm⟩

/-- A change of registers and wraps alone, which shows in counter registers only. -/
theorem Mach.Like.regs {a m : Mach} {r : Tab Word} {u : Tab (Option FlitBits)}
    (h : a = { m with regs := r, tele := { m.tele with wraps := u } })
    (hr : ∀ k, ctrAddr k = false → Tab.get regReset r k = m.reg k) : a.Like m := by
  subst h; exact { Mach.Like.refl m with reg := hr, bare := rfl }

/-- Adding to a counter changes counter registers and pending wraps only. -/
theorem Mach.addCtr_eq (m : Mach) {n : Nat} (hn : n < 5204) (k : Nat) (hd : FlitBits) :
    ∃ r w, m.addCtr n k hd = { m with regs := r, tele := { m.tele with wraps := w } } ∧
      ∀ a, ctrAddr a = false → Tab.get regReset r a = m.reg a := by
  have hk : ∀ (v : Word) (a : Nat), ctrAddr a = false → Tab.get regReset (Tab.set regReset m.regs (aCtr n) v) a = m.reg a := by
    intro v a ha
    refine Tab.get_set_ne _ _ ?_
    intro h
    rw [h, ctrAddr_ctr hn] at ha
    exact Bool.noConfusion ha
  simp only [Mach.addCtr, Mach.setFld, Mach.setReg, Mach.modTele]
  split
  · exact ⟨_, m.tele.wraps, rfl, hk _⟩
  · exact ⟨_, _, rfl, hk _⟩

/-- Counting changes counter registers and pending wraps only. -/
theorem Mach.count_eq (m : Mach) {base w : Nat} (hb : base + w ≤ 5204) (code : Nat) (sel tc : Option Nat) (k : Nat) (hd : FlitBits) :
    ∃ r u, m.count base w code sel tc k hd = { m with regs := r, tele := { m.tele with wraps := u } } ∧
      ∀ a, ctrAddr a = false → Tab.get regReset r a = m.reg a := by
  unfold Mach.count
  split
  · exact ⟨m.regs, m.tele.wraps, rfl, fun _ _ => rfl⟩
  · have h : ∀ (l : List Nat), (∀ i ∈ l, i < w) → ∀ m : Mach,
        ∃ r u, each l (fun i m => if m.ctrHit (base + i) code sel tc then m.addCtr (base + i) k hd else m) m =
          { m with regs := r, tele := { m.tele with wraps := u } } ∧
          ∀ a, ctrAddr a = false → Tab.get regReset r a = m.reg a := by
      intro l
      induction l with
      | nil => intro _ m; exact ⟨m.regs, m.tele.wraps, rfl, fun _ _ => rfl⟩
      | cons i l ih =>
        intro hl m
        simp only [each, List.foldl_cons]
        have hi : i < w := hl i List.mem_cons_self
        have hl' : ∀ j ∈ l, j < w := fun j hj => hl j (List.mem_cons_of_mem _ hj)
        split
        · obtain ⟨r, u, he, hk⟩ := m.addCtr_eq (show base + i < 5204 by omega) k hd
          obtain ⟨r', u', he', hk'⟩ := ih hl' (m.addCtr (base + i) k hd)
          refine ⟨r', u', ?_, ?_⟩
          · rw [each] at he'; rw [he', he]
          · intro a ha
            rw [hk' a ha, he]
            exact hk a ha
        · exact ih hl' m
    exact h _ (fun i hi => List.mem_range.1 hi) m

theorem Mach.like_addCtr (m : Mach) {n : Nat} (hn : n < 5204) (k : Nat) (hd : FlitBits) : (m.addCtr n k hd).Like m := by
  obtain ⟨r, u, h, hr⟩ := m.addCtr_eq hn k hd
  exact Mach.Like.regs h hr

theorem Mach.like_count (m : Mach) {base w : Nat} (hb : base + w ≤ 5204) (code : Nat) (sel tc : Option Nat) (k : Nat)
    (hd : FlitBits) : (m.count base w code sel tc k hd).Like m := by
  obtain ⟨r, u, h, hr⟩ := m.count_eq hb code sel tc k hd
  exact Mach.Like.regs h hr

/-- The completion of an instruction changes counters, and what those that have wrapped note, only. -/
theorem Mach.like_completes (m : Mach) {e : Nat} (he : e < 5) (pc : Word) : (m.completes e pc).Like m := by
  have h1 : (m.count (ctrEng e) 4 2 none none 1 0).Like m := m.like_count (by simp only [ctrEng]; omega) _ _ _ _ _
  have h2 : ∀ (l : List Nat) (a : Mach), (each l (fun i m =>
      if (Tab.get dNone m.tele.wraps (ctrEng e + i)).isNone then m
      else m.modTele (fun t => { t with wrapPc := Tab.upd dNil t.wrapPc (ctrEng e + i) (fun l => (l ++ [pc]).take 4) })) a).Like a := by
    intro l
    induction l with
    | nil => exact Mach.Like.refl
    | cons i l ih =>
      intro a
      refine (ih _).trans ?_
      beta_reduce
      split
      · exact Mach.Like.refl a
      · exact { Mach.Like.refl a with bare := rfl }
  unfold Mach.completes
  simp only
  split
  · exact h1
  · exact (h2 _ _).trans h1

/-- Issuing a defined word of the row. -/
theorem Mach.issue_word {s : State} {e opc : Nat} {w : Word} {sel : Word → Bool} (h : Issues s e w opc) (hs : sel w = true)
    (body : Word → Mach → Mach) :
    s.m.issue e opc sel body = body w ((s.m.readPc e).modEng e (fun x => { x with insn := w })) := by
  obtain ⟨-, hf, ho, hl, ht⟩ := h
  unfold Mach.issue
  rw [hf]
  simp only [ho, hs, and_self, or_true, if_true, hl, Bool.true_and, Bool.or_eq_true, Bool.not_eq_true']
  rw [if_pos ht]

/-- A command outside scan mode. -/
theorem State.on_eq {s : State} (h : s.m.test.scan = false) (f : Mach → Mach) : s.on f = .next { s with m := f s.m } := by
  simp [State.on, State.onAll, h]

/-- Moving past an instruction. -/
theorem Mach.stepPc_like (m : Mach) {e : Nat} (he : e < 5) : (m.stepPc e).Like (m.modEng e (fun x => { x with pc := x.nextPc })) :=
  Mach.like_completes _ he _

end Sys2Proof.Machine
end

