-- ==== Sys2Proof/Laws/Does.lean ====
section
/-! SUPPORT. How a machine that is like another stays so under the shared operations, and how a command that runs on the machine
gives `Does` and `DoesAt`. -/

namespace Sys2Proof.Machine

theorem Mach.Like.setReg {a m : Mach} (h : a.Like m) (k : Nat) (w : Word) : (a.setReg k w).Like (m.setReg k w) := by
  refine { h with reg := fun j hj => ?_, bare := h.bare }
  by_cases hk : j = k
  · subst hk; rw [Mach.reg_setReg, Mach.reg_setReg]
  · rw [Mach.reg_setReg_ne _ _ hk, Mach.reg_setReg_ne _ _ hk]; exact h.1 j hj

theorem Mach.Like.orReg {a m : Mach} (h : a.Like m) {k : Nat} (hk : ctrAddr k = false) (v : Nat) :
    (a.orReg k v).Like (m.orReg k v) := by
  unfold Mach.orReg; rw [h.1 k hk]; exact h.setReg _ _

theorem Mach.Like.setFld {a m : Mach} (h : a.Like m) {k : Nat} (hk : ctrAddr k = false) (lo len v : Nat) :
    (a.setFld k lo len v).Like (m.setFld k lo len v) := by
  unfold Mach.setFld; rw [h.1 k hk]; exact h.setReg _ _

theorem Mach.Like.addFld {a m : Mach} (h : a.Like m) {k : Nat} (hk : ctrAddr k = false) (lo len v : Nat) :
    (a.addFld k lo len v).Like (m.addFld k lo len v) := by
  unfold Mach.addFld Mach.fld; rw [h.1 k hk]; exact h.setFld hk _ _ _

theorem Mach.Like.count {a m : Mach} (h : a.Like m) {base w : Nat} (hb : base + w ≤ 5204)
    (code : Nat) (sel tc : Option Nat) (k : Nat) (hd : FlitBits) : (a.count base w code sel tc k hd).Like m :=
  (a.like_count hb code sel tc k hd).trans h

theorem Mach.Like.modEng {a m : Mach} (h : a.Like m) (e : Nat) (f : Eng → Eng) : (a.modEng e f).Like (m.modEng e f) := by
  refine { h with eng := fun k => ?_, bare := h.bare }
  by_cases hk : k = e
  · subst hk; rw [Mach.eng_modEng, Mach.eng_modEng, h.2]
  · rw [Mach.eng_modEng_ne _ _ hk, Mach.eng_modEng_ne _ _ hk]; exact h.2 k

theorem Mach.Like.modNiu {a m : Mach} (h : a.Like m) (e : Nat) (f : Niu → Niu) : (a.modNiu e f).Like (m.modNiu e f) := by
  refine { h with niu := fun k => ?_, bare := h.bare }
  by_cases hk : k = e
  · subst hk; rw [Mach.niu_modNiu, Mach.niu_modNiu, h.3]
  · rw [Mach.niu_modNiu_ne _ _ hk, Mach.niu_modNiu_ne _ _ hk]; exact h.3 k

/-- Two changes of one engine are one. -/
theorem Mach.modEng_twice (m : Mach) (e : Nat) (f g : Eng → Eng) : ((m.modEng e f).modEng e g).Like (m.modEng e (fun x => g (f x))) := by
  refine { Mach.Like.refl m with eng := fun k => ?_, bare := rfl }
  by_cases hk : k = e
  · subst hk; simp
  · simp only [Mach.eng_modEng_ne _ _ hk]

theorem Mach.LikeAt.refl (m : Mach) (e : Nat) : m.LikeAt e (m.eng e) m := by
  refine { Mach.Like.refl m with eng := fun k => ?_, bare := rfl }
  by_cases hk : k = e
  · subst hk; simp
  · rw [Mach.eng_modEng_ne _ _ hk]

/-- The engine itself. -/
theorem Mach.LikeAt.engine {a m : Mach} {e : Nat} {x : Eng} (h : a.LikeAt e x m) : a.eng e = x := by
  rw [h.eng, Mach.eng_modEng]

theorem Mach.LikeAt.mod {a m : Mach} {e : Nat} {x : Eng} (h : a.LikeAt e x m) (f : Eng → Eng) :
    (a.modEng e f).LikeAt e (f x) m :=
  (Mach.Like.modEng h e f).trans (m.modEng_twice e _ f)

theorem Mach.LikeAt.like {a b m : Mach} {e : Nat} {x : Eng} (h : a.LikeAt e x m) (hb : b.Like a) : b.LikeAt e x m := hb.trans h

theorem Mach.LikeAt.count {a m : Mach} {e : Nat} {x : Eng} (h : a.LikeAt e x m) {base w : Nat} (hb : base + w ≤ 5204)
    (code : Nat) (sel tc : Option Nat) (k : Nat) (hd : FlitBits) : (a.count base w code sel tc k hd).LikeAt e x m :=
  h.like (a.like_count hb code sel tc k hd)

theorem Mach.LikeAt.countEng {a m : Mach} {e : Nat} {x : Eng} (h : a.LikeAt e x m) (he : e < 5)
    (code : Nat) (sel tc : Option Nat) (k : Nat) (hd : FlitBits) : (a.count (ctrEng e) 4 code sel tc k hd).LikeAt e x m :=
  h.count (by simp only [ctrEng]; omega) code sel tc k hd

theorem Mach.LikeAt.stepPc {a m : Mach} {e : Nat} {x : Eng} (h : a.LikeAt e x m) (he : e < 5) :
    (a.stepPc e).LikeAt e { x with pc := x.nextPc } m := (h.mod _).like (Mach.like_completes _ he _)

/-- A change that keeps likeness and leaves the engines. -/
theorem Mach.LikeAt.upd {a m : Mach} {e : Nat} {x : Eng} (h : a.LikeAt e x m) (f : Mach → Mach)
    (hw : ∀ y : Mach, (f (y.modEng e (fun _ => x))).Like ((f y).modEng e (fun _ => x)))
    (hl : ∀ y z : Mach, y.Like z → (f y).Like (f z)) : (f a).LikeAt e x (f m) := (hl _ _ h).trans (hw m)

theorem Mach.LikeAt.setReg {a m : Mach} {e : Nat} {x : Eng} (h : a.LikeAt e x m) (k : Nat) (v : Word) :
    (a.setReg k v).LikeAt e x (m.setReg k v) :=
  h.upd (fun y => y.setReg k v) (fun _ => Mach.Like.refl _) (fun _ _ hl => hl.setReg k v)

theorem Mach.LikeAt.orReg {a m : Mach} {e : Nat} {x : Eng} (h : a.LikeAt e x m) {k : Nat} (hk : ctrAddr k = false) (v : Nat) :
    (a.orReg k v).LikeAt e x (m.orReg k v) :=
  h.upd (fun y => y.orReg k v) (fun _ => Mach.Like.refl _) (fun _ _ hl => hl.orReg hk v)

theorem Mach.LikeAt.setFld {a m : Mach} {e : Nat} {x : Eng} (h : a.LikeAt e x m) {k : Nat} (hk : ctrAddr k = false)
    (lo len v : Nat) : (a.setFld k lo len v).LikeAt e x (m.setFld k lo len v) :=
  h.upd (fun y => y.setFld k lo len v) (fun _ => Mach.Like.refl _) (fun _ _ hl => hl.setFld hk lo len v)

/-- A command that runs on the machine, outside scan mode. -/
theorem DoesAt.on {i : Instr} {s : State} {e : Nat} {x : Eng} {m : Mach} {f : Mach → Mach} (hx : exec i s = s.on f)
    (hs : s.m.test.scan = false) (h : (f s.m).LikeAt e x m) : DoesAt i s e x m :=
  ⟨_, hx.trans (State.on_eq hs f), rfl, rfl, h⟩

theorem Does.on {i : Instr} {s : State} {m : Mach} {f : Mach → Mach} (hx : exec i s = s.on f)
    (hs : s.m.test.scan = false) (h : (f s.m).Like m) : Does i s m :=
  ⟨_, hx.trans (State.on_eq hs f), rfl, rfl, h⟩

/-- The read of the instruction word leaves the engines alone. -/
@[simp] theorem Mach.eng_readSram (m : Mach) (e a k : Nat) : (m.readSram e a).eng k = m.eng k := by unfold Mach.readSram; split <;> rfl
/-- Reading words changes SRAM_CE only. -/
@[simp] theorem Mach.eng_readWords (m : Mach) (e a n k : Nat) : (m.readWords e a n).eng k = m.eng k := by
  unfold Mach.readWords
  generalize List.range n = l
  induction l generalizing m with
  | nil => rfl
  | cons i l ih => exact (ih _).trans (m.eng_readSram _ _ _)

/-- A read of words none of which is correctable changes nothing. -/
theorem Mach.readWords_clean (m : Mach) (e a n : Nat) (h : (m.eng e).soft = []) : m.readWords e a n = m := by
  unfold Mach.readWords
  generalize List.range n = l
  induction l with
  | nil => rfl
  | cons i l ih =>
    simp only [each, List.foldl_cons] at *
    rw [show m.readSram e ((a + 8 * i) % 65536) = m by unfold Mach.readSram; rw [h]; rfl]
    exact ih

@[simp] theorem Mach.eng_readPc (m : Mach) (e k : Nat) : (m.readPc e).eng k = m.eng k := by
  unfold Mach.readPc; split <;> simp

/-- An engine row that issues its word. -/
theorem DoesAt.issue {i : Instr} {s : State} {e opc : Nat} {w : Word} {x : Eng} {m : Mach} {sel : Word → Bool}
    {body : Word → Mach → Mach} (hx : exec i s = s.on (fun m => m.issue e opc sel body)) (h : Issues s e w opc)
    (hs : sel w = true)
    (hb : ∀ a : Mach, a.LikeAt e { s.m.eng e with insn := w } (s.m.readPc e) →
      a = (s.m.readPc e).modEng e (fun x => { x with insn := w }) →
      (body w a).LikeAt e x m) : DoesAt i s e x m := by
  refine DoesAt.on hx h.1 ?_
  rw [Mach.issue_word h hs]
  refine hb _ ?_ rfl
  have h := (Mach.LikeAt.refl (s.m.readPc e) e).mod (fun x => { x with insn := w })
  rwa [Mach.eng_readPc] at h

/-- An engine row that issues its word, as a change of the whole machine. -/
theorem Does.issue {i : Instr} {s : State} {e opc : Nat} {w : Word} {m : Mach} {sel : Word → Bool}
    {body : Word → Mach → Mach} (hx : exec i s = s.on (fun m => m.issue e opc sel body)) (h : Issues s e w opc)
    (hs : sel w = true) (hb : (body w ((s.m.readPc e).modEng e (fun x => { x with insn := w }))).Like m) : Does i s m := by
  refine Does.on hx h.1 ?_
  rw [Mach.issue_word h hs]
  exact hb

end Sys2Proof.Machine
end

