-- ==== Sys2Proof/Laws/Engine.lean ====
section
/-! SUPPORT. What the operations shared by the engine rows do to a machine that is like another: jumps, results of arithmetic, an
occurrence, the token, a halt with a fault code. -/

namespace Sys2Proof.Machine

/-- An engine's registers are no counters. -/
theorem ctrAddr_aEng (e : EngId) (o : Nat) (h : o < 0x10000) : ctrAddr (aEng e o) = false := by
  unfold ctrAddr aEng
  have := e.isLt
  simp
  omega

/-- A jump to a multiple of 8 (R348). -/
theorem Mach.LikeAt.jump {a m : Mach} {e : Nat} {x : Eng} (h : a.LikeAt e x m) (he : e < 5) (t : Nat) (ht : t % 8 = 0)
    (pre : Eng → Eng) : (a.jump e t pre).LikeAt e { pre x with pc := sf (pre x).pc 0 48 t } m := by
  simp only [Mach.jump, ht, ne_eq, not_true_eq_false, if_false, Mach.jumpTo]
  exact ((h.mod pre).mod _).like (Mach.like_completes _ he _)

/-- A jump to any other address ends with ALIGN and does nothing else (R348). -/
theorem Mach.jump_misaligned {m : Mach} (e t : Nat) (h : t % 8 ≠ 0) (pre : Eng → Eng) : m.jump e t pre = m.haltFault e 9 := by
  unfold Mach.jump
  rw [if_pos h]
  rfl

/-- An arithmetic row (R351): the engine's registers and flags change as `f` says, and the pc moves on. -/
theorem DoesAt.alu {i : Instr} {s : State} {e : EngId} {w : Word} {opc : Nat} (f : Word → Eng → Eng)
    (hx : exec i s = s.on (fun m => m.alu e opc f)) (h : Issues s e w opc) (x' : Eng)
    (hf : { f w { s.m.eng e with insn := w } with pc := (f w { s.m.eng e with insn := w }).nextPc } = x') :
    DoesAt i s e x' (s.m.readPc e) := by
  refine DoesAt.issue hx h rfl (fun a ha hh => ?_)
  rw [← hf]
  exact (ha.mod _).stepPc e.isLt

/-- Signed overflow of a sum and of a difference, from the signs and from the exact result (R351). -/
theorem overflow_add (a b : Word) :
    decide (a.msb = b.msb ∧ (a + b).msb ≠ a.msb) = decide ((a + b).toInt ≠ a.toInt + b.toInt) := by
  apply decide_eq_decide.2
  rw [BitVec.msb_eq_toInt, BitVec.msb_eq_toInt, BitVec.msb_eq_toInt, BitVec.toInt_add]
  have ha := BitVec.toInt_lt (x := a); have ha' := BitVec.le_toInt (x := a)
  have hb := BitVec.toInt_lt (x := b); have hb' := BitVec.le_toInt (x := b)
  simp only [Int.bmod] at *
  norm_num at *
  split <;> omega

theorem overflow_sub (a b : Word) :
    decide (a.msb ≠ b.msb ∧ (a - b).msb ≠ a.msb) = decide ((a - b).toInt ≠ a.toInt - b.toInt) := by
  apply decide_eq_decide.2
  rw [BitVec.msb_eq_toInt, BitVec.msb_eq_toInt, BitVec.msb_eq_toInt, BitVec.toInt_sub]
  have ha := BitVec.toInt_lt (x := a); have ha' := BitVec.le_toInt (x := a)
  have hb := BitVec.toInt_lt (x := b); have hb' := BitVec.le_toInt (x := b)
  simp only [Int.bmod] at *
  norm_num at *
  split <;> omega

/-- A privileged check that does not apply leaves the action alone (R344). -/
theorem Mach.status_free (m : Mach) (e : Nat) (act : Mach → Mach) : m.status e false true false act = act m := by
  simp [Mach.status, Mach.gate]

theorem Mach.Like.occur {a m : Mach} (h : a.Like m) (c k l o s n) : (a.occur c k l o s n).Like (m.occur c k l o s n) := by
  have hp : a.pwr.aonUp = m.pwr.aonUp :=
    show a.bare.pwr.aonUp = m.bare.pwr.aonUp from congrArg (fun y => y.pwr.aonUp) h.bare
  unfold Mach.occur
  rw [hp]
  split
  · exact { h with bare := congrArg (fun y : Mach =>
      y.modFlt (fun f => { f with chans := Tab.upd dChan f.chans c (Chan.pushes ⟨k, l, o, s, 1⟩ n) })) h.bare }
  · exact h

theorem Mach.Like.releaseToken {a m : Mach} (h : a.Like m) (e : Nat) : (a.releaseToken e).Like (m.releaseToken e) := by
  have ht : a.token = m.token := show a.bare.token = m.bare.token from congrArg Mach.token h.bare
  unfold Mach.releaseToken
  rw [ht]
  split
  · exact { h with bare := congrArg (fun y : Mach => { y with token := none }) h.bare }
  · exact h

theorem Mach.Like.faultRecord {a m : Mach} (h : a.Like m) (e : EngId) (c : Nat) : (a.faultRecord e c).Like (m.faultRecord e c) := by
  have hrp : a.rp = m.rp := show a.bare.rp = m.bare.rp from congrArg Mach.rp h.bare
  have hk : a.keep = m.keep := show a.bare.keep = m.bare.keep from congrArg Mach.keep h.bare
  have hs : a.slot e 15 = m.slot e 15 := by unfold Mach.slot; rw [hrp]
  have hf : a.ftNs = m.ftNs := by unfold Mach.ftNs; rw [hk]
  unfold Mach.faultRecord
  simp only [hs, h.eng, hf]
  split
  · refine Mach.Like.modEng ?_ _ _
    exact { h with bare := congrArg (fun y : Mach => y.setSlot e 15 _) h.bare }
  · exact h.orReg (ctrAddr_aEng e _ (by omega)) _

/-- A halt with a fault code (R331, R334, R345). -/
theorem Mach.Like.haltFault {a m : Mach} (h : a.Like m) (e : EngId) (c : Nat) : (a.haltFault e c).Like (m.haltFault e c) := by
  unfold Mach.haltFault
  generalize hf : (fun x : Eng => { x with state := .fault, wait := .none, limit := none, fetch := none, stopReq := false }) = f
  have h1 := (h.modEng e f).setFld (ctrAddr_aEng e 0x30 (by omega)) 0 4 c
  have h2 := (h1.setReg (aEng e 0x38) (((m.modEng e f).setFld (aEng e 0x30) 0 4 c).eng e).insn).orReg
    (ctrAddr_aEng e 0x58 (by omega)) (2 ^ 15)
  have h3 := (h2.releaseToken e).faultRecord e c
  rw [← h1.eng e] at h3
  simp only
  split
  · rw [← h1.eng e]; exact h3.occur _ _ _ _ _ _
  · split
    · rw [← h1.eng e]; exact h3.occur _ _ _ _ _ _
    · rw [← h1.eng e]; exact h3

end Sys2Proof.Machine
end

