-- ==== Sys2Proof/Laws/Route.lean ====
section
/-! SUPPORT. Two facts about routes: an epoch is gone where nothing is held anywhere, and an image that marks every tile UNREACH and
sets no mask bit is one that RT.LOAD takes. -/

namespace Sys2Proof.Machine

/-- No packet anywhere, so none of any epoch (R178). -/
theorem Mach.epochGone_empty {m : Mach} (e : Nat) (h1 : m.rin = []) (h2 : m.dirs = []) (h3 : m.cbu = []) (h4 : m.cb = [])
    (h5 : m.spine.stn = []) (h6 : m.spine.flight = []) : m.epochGone e = true := by
  have hv : ∀ t, m.rtrEpochs t = [] := by
    intro t
    have hl : ∀ l b, m.linkEpochs l b = [] := by
      intro l b
      simp [Mach.linkEpochs, Mach.dir, h2, Tab.get, Tab.find, dDir, LDir.init, slotFlits]
    simp [Mach.rtrEpochs, Mach.vcEpochs, hl, Mach.cbEpochs, Mach.vc, Mach.cbUnit, Mach.node, h1, h3, h4,
      Tab.get, Tab.find, dVc, dCbu, dNone, VcBuf.empty, CbUnit.init]
  have hs : ∀ p, m.stnEpochs p = [] := by
    intro p
    simp [Mach.stnEpochs, Mach.stn, h5, h6, Tab.get, Tab.find, dStn, Station.init]
  simp [Mach.epochGone, hv, hs]

/-- An image with every tile UNREACH and every mask zero breaks no condition of R176. -/
theorem Mach.imgBad_unreach {m : Mach} {h : FlitBits} {l : List FlitBits} (hl : ∀ x ∈ l, x = 0) (h1 : bf h 168 344 = 0)
    (h2 : ¬((imgOfLines (h :: l)).mode0 = 3 ∨ (imgOfLines (h :: l)).mode1 = 3 ∨ 10 ≤ (imgOfLines (h :: l)).thr))
    (h3 : ∀ i < 128, bt (imgOfLines (h :: l)).unr i = true) : m.imgBad (imgOfLines (h :: l)) = false := by
  have hz : ∀ k, l.getD k 0 = 0 := by
    intro k
    rw [List.getD_eq_getElem?_getD]
    cases hk : l[k]? with
    | none => rfl
    | some x => simpa using hl x (List.mem_of_getElem? hk)
  have hk : ∀ t sec i, (imgOfLines (h :: l)).mask t sec i = 0 := by
    intro t sec i
    simp only [Img.mask, imgOfLines]
    rw [show 1 + 6 * t + sec = (6 * t + sec) + 1 by omega, List.getD_cons_succ, hz]
    simp
  have hb : ∀ t sec, m.maskBad t sec 0 = false := by intro t sec; simp [Mach.maskBad, bt]
  have hd : ((imgOfLines (h :: l)).lines.getD []).headD 0 = h := rfl
  simp only [Mach.imgBad, hd, hk, hb, h1, h2, bt]
  simp
  intro t _ sec _ _ i hi
  have hu := h3 i hi
  rw [bt] at hu
  exact ⟨fun _ h => absurd (hu.symm.trans h) (by decide), by cases spineOf i <;> simp⟩

end Sys2Proof.Machine
end

