-- ==== Sys2Proof/Laws/State.lean ====
section
/-! SUPPORT. Reading a field or a unit of the machine after another was changed: one law per field and update, each true by
unfolding, so that no later proof unfolds a record update; then each unit after its own update. -/

namespace Sys2Proof.Machine

section fields
variable (m : Mach)

@[simp] theorem Mach.straps_modEng (e : Nat) (f : Eng → Eng) : (m.modEng e f).straps = m.straps := rfl
@[simp] theorem Mach.frees_modEng (e : Nat) (f : Eng → Eng) : (m.modEng e f).frees = m.frees := rfl
@[simp] theorem Mach.clk_modEng (e : Nat) (f : Eng → Eng) : (m.modEng e f).clk = m.clk := rfl
@[simp] theorem Mach.keep_modEng (e : Nat) (f : Eng → Eng) : (m.modEng e f).keep = m.keep := rfl
@[simp] theorem Mach.token_modEng (e : Nat) (f : Eng → Eng) : (m.modEng e f).token = m.token := rfl
@[simp] theorem Mach.rt_modEng (e : Nat) (f : Eng → Eng) : (m.modEng e f).rt = m.rt := rfl
@[simp] theorem Mach.spine_modEng (e : Nat) (f : Eng → Eng) : (m.modEng e f).spine = m.spine := rfl
@[simp] theorem Mach.adm_modEng (e : Nat) (f : Eng → Eng) : (m.modEng e f).adm = m.adm := rfl
@[simp] theorem Mach.held_modEng (e : Nat) (f : Eng → Eng) : (m.modEng e f).held = m.held := rfl
@[simp] theorem Mach.replay_modEng (e : Nat) (f : Eng → Eng) : (m.modEng e f).replay = m.replay := rfl
@[simp] theorem Mach.pwr_modEng (e : Nat) (f : Eng → Eng) : (m.modEng e f).pwr = m.pwr := rfl
@[simp] theorem Mach.flt_modEng (e : Nat) (f : Eng → Eng) : (m.modEng e f).flt = m.flt := rfl
@[simp] theorem Mach.pchan_modEng (e : Nat) (f : Eng → Eng) : (m.modEng e f).pchan = m.pchan := rfl
@[simp] theorem Mach.tele_modEng (e : Nat) (f : Eng → Eng) : (m.modEng e f).tele = m.tele := rfl
@[simp] theorem Mach.twin_modEng (e : Nat) (f : Eng → Eng) : (m.modEng e f).twin = m.twin := rfl
@[simp] theorem Mach.rp_modEng (e : Nat) (f : Eng → Eng) : (m.modEng e f).rp = m.rp := rfl
@[simp] theorem Mach.test_modEng (e : Nat) (f : Eng → Eng) : (m.modEng e f).test = m.test := rfl
@[simp] theorem Mach.img_modEng (e : Nat) (f : Eng → Eng) : (m.modEng e f).img = m.img := rfl
@[simp] theorem Mach.tblOld_modEng (e : Nat) (f : Eng → Eng) : (m.modEng e f).tblOld = m.tblOld := rfl
@[simp] theorem Mach.locl_modEng (e : Nat) (f : Eng → Eng) : (m.modEng e f).locl = m.locl := rfl
@[simp] theorem Mach.niu_modEng (e : Nat) (f : Eng → Eng) (i₁ : Nat) : (m.modEng e f).niu i₁ = m.niu i₁ := rfl
@[simp] theorem Mach.vc_modEng (e : Nat) (f : Eng → Eng) (i₁ : Nat) : (m.modEng e f).vc i₁ = m.vc i₁ := rfl
@[simp] theorem Mach.outVc_modEng (e : Nat) (f : Eng → Eng) (i₁ : Nat) : (m.modEng e f).outVc i₁ = m.outVc i₁ := rfl
@[simp] theorem Mach.arbOf_modEng (e : Nat) (f : Eng → Eng) (i₁ : Nat) : (m.modEng e f).arbOf i₁ = m.arbOf i₁ := rfl
@[simp] theorem Mach.link_modEng (e : Nat) (f : Eng → Eng) (i₁ : Nat) : (m.modEng e f).link i₁ = m.link i₁ := rfl
@[simp] theorem Mach.dir_modEng (e : Nat) (f : Eng → Eng) (i₁ : Nat) : (m.modEng e f).dir i₁ = m.dir i₁ := rfl
@[simp] theorem Mach.stn_modEng (e : Nat) (f : Eng → Eng) (i₁ : Nat) : (m.modEng e f).stn i₁ = m.stn i₁ := rfl
@[simp] theorem Mach.node_modEng (e : Nat) (f : Eng → Eng) (i₁ j₁ : Nat) : (m.modEng e f).node i₁ j₁ = m.node i₁ j₁ := rfl
@[simp] theorem Mach.cbUnit_modEng (e : Nat) (f : Eng → Eng) (i₁ : Nat) : (m.modEng e f).cbUnit i₁ = m.cbUnit i₁ := rfl
@[simp] theorem Mach.dom_modEng (e : Nat) (f : Eng → Eng) (i₁ : Nat) : (m.modEng e f).dom i₁ = m.dom i₁ := rfl
@[simp] theorem Mach.reg_modEng (e : Nat) (f : Eng → Eng) (i₁ : Nat) : (m.modEng e f).reg i₁ = m.reg i₁ := rfl
@[simp] theorem Mach.slot_modEng (e : Nat) (f : Eng → Eng) (i₁ j₁ : Nat) : (m.modEng e f).slot i₁ j₁ = m.slot i₁ j₁ := rfl
@[simp] theorem Mach.frec_modEng (e : Nat) (f : Eng → Eng) (i₁ : Nat) : (m.modEng e f).frec i₁ = m.frec i₁ := rfl

@[simp] theorem Mach.straps_modNiu (n : Nat) (f : Niu → Niu) : (m.modNiu n f).straps = m.straps := rfl
@[simp] theorem Mach.frees_modNiu (n : Nat) (f : Niu → Niu) : (m.modNiu n f).frees = m.frees := rfl
@[simp] theorem Mach.clk_modNiu (n : Nat) (f : Niu → Niu) : (m.modNiu n f).clk = m.clk := rfl
@[simp] theorem Mach.keep_modNiu (n : Nat) (f : Niu → Niu) : (m.modNiu n f).keep = m.keep := rfl
@[simp] theorem Mach.token_modNiu (n : Nat) (f : Niu → Niu) : (m.modNiu n f).token = m.token := rfl
@[simp] theorem Mach.rt_modNiu (n : Nat) (f : Niu → Niu) : (m.modNiu n f).rt = m.rt := rfl
@[simp] theorem Mach.spine_modNiu (n : Nat) (f : Niu → Niu) : (m.modNiu n f).spine = m.spine := rfl
@[simp] theorem Mach.adm_modNiu (n : Nat) (f : Niu → Niu) : (m.modNiu n f).adm = m.adm := rfl
@[simp] theorem Mach.held_modNiu (n : Nat) (f : Niu → Niu) : (m.modNiu n f).held = m.held := rfl
@[simp] theorem Mach.replay_modNiu (n : Nat) (f : Niu → Niu) : (m.modNiu n f).replay = m.replay := rfl
@[simp] theorem Mach.pwr_modNiu (n : Nat) (f : Niu → Niu) : (m.modNiu n f).pwr = m.pwr := rfl
@[simp] theorem Mach.flt_modNiu (n : Nat) (f : Niu → Niu) : (m.modNiu n f).flt = m.flt := rfl
@[simp] theorem Mach.pchan_modNiu (n : Nat) (f : Niu → Niu) : (m.modNiu n f).pchan = m.pchan := rfl
@[simp] theorem Mach.tele_modNiu (n : Nat) (f : Niu → Niu) : (m.modNiu n f).tele = m.tele := rfl
@[simp] theorem Mach.twin_modNiu (n : Nat) (f : Niu → Niu) : (m.modNiu n f).twin = m.twin := rfl
@[simp] theorem Mach.rp_modNiu (n : Nat) (f : Niu → Niu) : (m.modNiu n f).rp = m.rp := rfl
@[simp] theorem Mach.test_modNiu (n : Nat) (f : Niu → Niu) : (m.modNiu n f).test = m.test := rfl
@[simp] theorem Mach.img_modNiu (n : Nat) (f : Niu → Niu) : (m.modNiu n f).img = m.img := rfl
@[simp] theorem Mach.tblOld_modNiu (n : Nat) (f : Niu → Niu) : (m.modNiu n f).tblOld = m.tblOld := rfl
@[simp] theorem Mach.locl_modNiu (n : Nat) (f : Niu → Niu) : (m.modNiu n f).locl = m.locl := rfl
@[simp] theorem Mach.eng_modNiu (n : Nat) (f : Niu → Niu) (i₁ : Nat) : (m.modNiu n f).eng i₁ = m.eng i₁ := rfl
@[simp] theorem Mach.vc_modNiu (n : Nat) (f : Niu → Niu) (i₁ : Nat) : (m.modNiu n f).vc i₁ = m.vc i₁ := rfl
@[simp] theorem Mach.outVc_modNiu (n : Nat) (f : Niu → Niu) (i₁ : Nat) : (m.modNiu n f).outVc i₁ = m.outVc i₁ := rfl
@[simp] theorem Mach.arbOf_modNiu (n : Nat) (f : Niu → Niu) (i₁ : Nat) : (m.modNiu n f).arbOf i₁ = m.arbOf i₁ := rfl
@[simp] theorem Mach.link_modNiu (n : Nat) (f : Niu → Niu) (i₁ : Nat) : (m.modNiu n f).link i₁ = m.link i₁ := rfl
@[simp] theorem Mach.dir_modNiu (n : Nat) (f : Niu → Niu) (i₁ : Nat) : (m.modNiu n f).dir i₁ = m.dir i₁ := rfl
@[simp] theorem Mach.stn_modNiu (n : Nat) (f : Niu → Niu) (i₁ : Nat) : (m.modNiu n f).stn i₁ = m.stn i₁ := rfl
@[simp] theorem Mach.node_modNiu (n : Nat) (f : Niu → Niu) (i₁ j₁ : Nat) : (m.modNiu n f).node i₁ j₁ = m.node i₁ j₁ := rfl
@[simp] theorem Mach.cbUnit_modNiu (n : Nat) (f : Niu → Niu) (i₁ : Nat) : (m.modNiu n f).cbUnit i₁ = m.cbUnit i₁ := rfl
@[simp] theorem Mach.dom_modNiu (n : Nat) (f : Niu → Niu) (i₁ : Nat) : (m.modNiu n f).dom i₁ = m.dom i₁ := rfl
@[simp] theorem Mach.reg_modNiu (n : Nat) (f : Niu → Niu) (i₁ : Nat) : (m.modNiu n f).reg i₁ = m.reg i₁ := rfl
@[simp] theorem Mach.slot_modNiu (n : Nat) (f : Niu → Niu) (i₁ j₁ : Nat) : (m.modNiu n f).slot i₁ j₁ = m.slot i₁ j₁ := rfl
@[simp] theorem Mach.frec_modNiu (n : Nat) (f : Niu → Niu) (i₁ : Nat) : (m.modNiu n f).frec i₁ = m.frec i₁ := rfl

@[simp] theorem Mach.straps_modVc (k : Nat) (f : VcBuf → VcBuf) : (m.modVc k f).straps = m.straps := rfl
@[simp] theorem Mach.frees_modVc (k : Nat) (f : VcBuf → VcBuf) : (m.modVc k f).frees = m.frees := rfl
@[simp] theorem Mach.clk_modVc (k : Nat) (f : VcBuf → VcBuf) : (m.modVc k f).clk = m.clk := rfl
@[simp] theorem Mach.keep_modVc (k : Nat) (f : VcBuf → VcBuf) : (m.modVc k f).keep = m.keep := rfl
@[simp] theorem Mach.token_modVc (k : Nat) (f : VcBuf → VcBuf) : (m.modVc k f).token = m.token := rfl
@[simp] theorem Mach.rt_modVc (k : Nat) (f : VcBuf → VcBuf) : (m.modVc k f).rt = m.rt := rfl
@[simp] theorem Mach.spine_modVc (k : Nat) (f : VcBuf → VcBuf) : (m.modVc k f).spine = m.spine := rfl
@[simp] theorem Mach.adm_modVc (k : Nat) (f : VcBuf → VcBuf) : (m.modVc k f).adm = m.adm := rfl
@[simp] theorem Mach.held_modVc (k : Nat) (f : VcBuf → VcBuf) : (m.modVc k f).held = m.held := rfl
@[simp] theorem Mach.replay_modVc (k : Nat) (f : VcBuf → VcBuf) : (m.modVc k f).replay = m.replay := rfl
@[simp] theorem Mach.pwr_modVc (k : Nat) (f : VcBuf → VcBuf) : (m.modVc k f).pwr = m.pwr := rfl
@[simp] theorem Mach.flt_modVc (k : Nat) (f : VcBuf → VcBuf) : (m.modVc k f).flt = m.flt := rfl
@[simp] theorem Mach.pchan_modVc (k : Nat) (f : VcBuf → VcBuf) : (m.modVc k f).pchan = m.pchan := rfl
@[simp] theorem Mach.tele_modVc (k : Nat) (f : VcBuf → VcBuf) : (m.modVc k f).tele = m.tele := rfl
@[simp] theorem Mach.twin_modVc (k : Nat) (f : VcBuf → VcBuf) : (m.modVc k f).twin = m.twin := rfl
@[simp] theorem Mach.rp_modVc (k : Nat) (f : VcBuf → VcBuf) : (m.modVc k f).rp = m.rp := rfl
@[simp] theorem Mach.test_modVc (k : Nat) (f : VcBuf → VcBuf) : (m.modVc k f).test = m.test := rfl
@[simp] theorem Mach.img_modVc (k : Nat) (f : VcBuf → VcBuf) : (m.modVc k f).img = m.img := rfl
@[simp] theorem Mach.tblOld_modVc (k : Nat) (f : VcBuf → VcBuf) : (m.modVc k f).tblOld = m.tblOld := rfl
@[simp] theorem Mach.locl_modVc (k : Nat) (f : VcBuf → VcBuf) : (m.modVc k f).locl = m.locl := rfl
@[simp] theorem Mach.eng_modVc (k : Nat) (f : VcBuf → VcBuf) (i₁ : Nat) : (m.modVc k f).eng i₁ = m.eng i₁ := rfl
@[simp] theorem Mach.niu_modVc (k : Nat) (f : VcBuf → VcBuf) (i₁ : Nat) : (m.modVc k f).niu i₁ = m.niu i₁ := rfl
@[simp] theorem Mach.outVc_modVc (k : Nat) (f : VcBuf → VcBuf) (i₁ : Nat) : (m.modVc k f).outVc i₁ = m.outVc i₁ := rfl
@[simp] theorem Mach.arbOf_modVc (k : Nat) (f : VcBuf → VcBuf) (i₁ : Nat) : (m.modVc k f).arbOf i₁ = m.arbOf i₁ := rfl
@[simp] theorem Mach.link_modVc (k : Nat) (f : VcBuf → VcBuf) (i₁ : Nat) : (m.modVc k f).link i₁ = m.link i₁ := rfl
@[simp] theorem Mach.dir_modVc (k : Nat) (f : VcBuf → VcBuf) (i₁ : Nat) : (m.modVc k f).dir i₁ = m.dir i₁ := rfl
@[simp] theorem Mach.stn_modVc (k : Nat) (f : VcBuf → VcBuf) (i₁ : Nat) : (m.modVc k f).stn i₁ = m.stn i₁ := rfl
@[simp] theorem Mach.node_modVc (k : Nat) (f : VcBuf → VcBuf) (i₁ j₁ : Nat) : (m.modVc k f).node i₁ j₁ = m.node i₁ j₁ := rfl
@[simp] theorem Mach.cbUnit_modVc (k : Nat) (f : VcBuf → VcBuf) (i₁ : Nat) : (m.modVc k f).cbUnit i₁ = m.cbUnit i₁ := rfl
@[simp] theorem Mach.dom_modVc (k : Nat) (f : VcBuf → VcBuf) (i₁ : Nat) : (m.modVc k f).dom i₁ = m.dom i₁ := rfl
@[simp] theorem Mach.reg_modVc (k : Nat) (f : VcBuf → VcBuf) (i₁ : Nat) : (m.modVc k f).reg i₁ = m.reg i₁ := rfl
@[simp] theorem Mach.slot_modVc (k : Nat) (f : VcBuf → VcBuf) (i₁ j₁ : Nat) : (m.modVc k f).slot i₁ j₁ = m.slot i₁ j₁ := rfl
@[simp] theorem Mach.frec_modVc (k : Nat) (f : VcBuf → VcBuf) (i₁ : Nat) : (m.modVc k f).frec i₁ = m.frec i₁ := rfl

@[simp] theorem Mach.straps_modOut (k : Nat) (f : OutVc → OutVc) : (m.modOut k f).straps = m.straps := rfl
@[simp] theorem Mach.frees_modOut (k : Nat) (f : OutVc → OutVc) : (m.modOut k f).frees = m.frees := rfl
@[simp] theorem Mach.clk_modOut (k : Nat) (f : OutVc → OutVc) : (m.modOut k f).clk = m.clk := rfl
@[simp] theorem Mach.keep_modOut (k : Nat) (f : OutVc → OutVc) : (m.modOut k f).keep = m.keep := rfl
@[simp] theorem Mach.token_modOut (k : Nat) (f : OutVc → OutVc) : (m.modOut k f).token = m.token := rfl
@[simp] theorem Mach.rt_modOut (k : Nat) (f : OutVc → OutVc) : (m.modOut k f).rt = m.rt := rfl
@[simp] theorem Mach.spine_modOut (k : Nat) (f : OutVc → OutVc) : (m.modOut k f).spine = m.spine := rfl
@[simp] theorem Mach.adm_modOut (k : Nat) (f : OutVc → OutVc) : (m.modOut k f).adm = m.adm := rfl
@[simp] theorem Mach.held_modOut (k : Nat) (f : OutVc → OutVc) : (m.modOut k f).held = m.held := rfl
@[simp] theorem Mach.replay_modOut (k : Nat) (f : OutVc → OutVc) : (m.modOut k f).replay = m.replay := rfl
@[simp] theorem Mach.pwr_modOut (k : Nat) (f : OutVc → OutVc) : (m.modOut k f).pwr = m.pwr := rfl
@[simp] theorem Mach.flt_modOut (k : Nat) (f : OutVc → OutVc) : (m.modOut k f).flt = m.flt := rfl
@[simp] theorem Mach.pchan_modOut (k : Nat) (f : OutVc → OutVc) : (m.modOut k f).pchan = m.pchan := rfl
@[simp] theorem Mach.tele_modOut (k : Nat) (f : OutVc → OutVc) : (m.modOut k f).tele = m.tele := rfl
@[simp] theorem Mach.twin_modOut (k : Nat) (f : OutVc → OutVc) : (m.modOut k f).twin = m.twin := rfl
@[simp] theorem Mach.rp_modOut (k : Nat) (f : OutVc → OutVc) : (m.modOut k f).rp = m.rp := rfl
@[simp] theorem Mach.test_modOut (k : Nat) (f : OutVc → OutVc) : (m.modOut k f).test = m.test := rfl
@[simp] theorem Mach.img_modOut (k : Nat) (f : OutVc → OutVc) : (m.modOut k f).img = m.img := rfl
@[simp] theorem Mach.tblOld_modOut (k : Nat) (f : OutVc → OutVc) : (m.modOut k f).tblOld = m.tblOld := rfl
@[simp] theorem Mach.locl_modOut (k : Nat) (f : OutVc → OutVc) : (m.modOut k f).locl = m.locl := rfl
@[simp] theorem Mach.eng_modOut (k : Nat) (f : OutVc → OutVc) (i₁ : Nat) : (m.modOut k f).eng i₁ = m.eng i₁ := rfl
@[simp] theorem Mach.niu_modOut (k : Nat) (f : OutVc → OutVc) (i₁ : Nat) : (m.modOut k f).niu i₁ = m.niu i₁ := rfl
@[simp] theorem Mach.vc_modOut (k : Nat) (f : OutVc → OutVc) (i₁ : Nat) : (m.modOut k f).vc i₁ = m.vc i₁ := rfl
@[simp] theorem Mach.arbOf_modOut (k : Nat) (f : OutVc → OutVc) (i₁ : Nat) : (m.modOut k f).arbOf i₁ = m.arbOf i₁ := rfl
@[simp] theorem Mach.link_modOut (k : Nat) (f : OutVc → OutVc) (i₁ : Nat) : (m.modOut k f).link i₁ = m.link i₁ := rfl
@[simp] theorem Mach.dir_modOut (k : Nat) (f : OutVc → OutVc) (i₁ : Nat) : (m.modOut k f).dir i₁ = m.dir i₁ := rfl
@[simp] theorem Mach.stn_modOut (k : Nat) (f : OutVc → OutVc) (i₁ : Nat) : (m.modOut k f).stn i₁ = m.stn i₁ := rfl
@[simp] theorem Mach.node_modOut (k : Nat) (f : OutVc → OutVc) (i₁ j₁ : Nat) : (m.modOut k f).node i₁ j₁ = m.node i₁ j₁ := rfl
@[simp] theorem Mach.cbUnit_modOut (k : Nat) (f : OutVc → OutVc) (i₁ : Nat) : (m.modOut k f).cbUnit i₁ = m.cbUnit i₁ := rfl
@[simp] theorem Mach.dom_modOut (k : Nat) (f : OutVc → OutVc) (i₁ : Nat) : (m.modOut k f).dom i₁ = m.dom i₁ := rfl
@[simp] theorem Mach.reg_modOut (k : Nat) (f : OutVc → OutVc) (i₁ : Nat) : (m.modOut k f).reg i₁ = m.reg i₁ := rfl
@[simp] theorem Mach.slot_modOut (k : Nat) (f : OutVc → OutVc) (i₁ j₁ : Nat) : (m.modOut k f).slot i₁ j₁ = m.slot i₁ j₁ := rfl
@[simp] theorem Mach.frec_modOut (k : Nat) (f : OutVc → OutVc) (i₁ : Nat) : (m.modOut k f).frec i₁ = m.frec i₁ := rfl

@[simp] theorem Mach.straps_modArb (k : Nat) (f : Arb → Arb) : (m.modArb k f).straps = m.straps := rfl
@[simp] theorem Mach.frees_modArb (k : Nat) (f : Arb → Arb) : (m.modArb k f).frees = m.frees := rfl
@[simp] theorem Mach.clk_modArb (k : Nat) (f : Arb → Arb) : (m.modArb k f).clk = m.clk := rfl
@[simp] theorem Mach.keep_modArb (k : Nat) (f : Arb → Arb) : (m.modArb k f).keep = m.keep := rfl
@[simp] theorem Mach.token_modArb (k : Nat) (f : Arb → Arb) : (m.modArb k f).token = m.token := rfl
@[simp] theorem Mach.rt_modArb (k : Nat) (f : Arb → Arb) : (m.modArb k f).rt = m.rt := rfl
@[simp] theorem Mach.spine_modArb (k : Nat) (f : Arb → Arb) : (m.modArb k f).spine = m.spine := rfl
@[simp] theorem Mach.adm_modArb (k : Nat) (f : Arb → Arb) : (m.modArb k f).adm = m.adm := rfl
@[simp] theorem Mach.held_modArb (k : Nat) (f : Arb → Arb) : (m.modArb k f).held = m.held := rfl
@[simp] theorem Mach.replay_modArb (k : Nat) (f : Arb → Arb) : (m.modArb k f).replay = m.replay := rfl
@[simp] theorem Mach.pwr_modArb (k : Nat) (f : Arb → Arb) : (m.modArb k f).pwr = m.pwr := rfl
@[simp] theorem Mach.flt_modArb (k : Nat) (f : Arb → Arb) : (m.modArb k f).flt = m.flt := rfl
@[simp] theorem Mach.pchan_modArb (k : Nat) (f : Arb → Arb) : (m.modArb k f).pchan = m.pchan := rfl
@[simp] theorem Mach.tele_modArb (k : Nat) (f : Arb → Arb) : (m.modArb k f).tele = m.tele := rfl
@[simp] theorem Mach.twin_modArb (k : Nat) (f : Arb → Arb) : (m.modArb k f).twin = m.twin := rfl
@[simp] theorem Mach.rp_modArb (k : Nat) (f : Arb → Arb) : (m.modArb k f).rp = m.rp := rfl
@[simp] theorem Mach.test_modArb (k : Nat) (f : Arb → Arb) : (m.modArb k f).test = m.test := rfl
@[simp] theorem Mach.img_modArb (k : Nat) (f : Arb → Arb) : (m.modArb k f).img = m.img := rfl
@[simp] theorem Mach.tblOld_modArb (k : Nat) (f : Arb → Arb) : (m.modArb k f).tblOld = m.tblOld := rfl
@[simp] theorem Mach.locl_modArb (k : Nat) (f : Arb → Arb) : (m.modArb k f).locl = m.locl := rfl
@[simp] theorem Mach.eng_modArb (k : Nat) (f : Arb → Arb) (i₁ : Nat) : (m.modArb k f).eng i₁ = m.eng i₁ := rfl
@[simp] theorem Mach.niu_modArb (k : Nat) (f : Arb → Arb) (i₁ : Nat) : (m.modArb k f).niu i₁ = m.niu i₁ := rfl
@[simp] theorem Mach.vc_modArb (k : Nat) (f : Arb → Arb) (i₁ : Nat) : (m.modArb k f).vc i₁ = m.vc i₁ := rfl
@[simp] theorem Mach.outVc_modArb (k : Nat) (f : Arb → Arb) (i₁ : Nat) : (m.modArb k f).outVc i₁ = m.outVc i₁ := rfl
@[simp] theorem Mach.link_modArb (k : Nat) (f : Arb → Arb) (i₁ : Nat) : (m.modArb k f).link i₁ = m.link i₁ := rfl
@[simp] theorem Mach.dir_modArb (k : Nat) (f : Arb → Arb) (i₁ : Nat) : (m.modArb k f).dir i₁ = m.dir i₁ := rfl
@[simp] theorem Mach.stn_modArb (k : Nat) (f : Arb → Arb) (i₁ : Nat) : (m.modArb k f).stn i₁ = m.stn i₁ := rfl
@[simp] theorem Mach.node_modArb (k : Nat) (f : Arb → Arb) (i₁ j₁ : Nat) : (m.modArb k f).node i₁ j₁ = m.node i₁ j₁ := rfl
@[simp] theorem Mach.cbUnit_modArb (k : Nat) (f : Arb → Arb) (i₁ : Nat) : (m.modArb k f).cbUnit i₁ = m.cbUnit i₁ := rfl
@[simp] theorem Mach.dom_modArb (k : Nat) (f : Arb → Arb) (i₁ : Nat) : (m.modArb k f).dom i₁ = m.dom i₁ := rfl
@[simp] theorem Mach.reg_modArb (k : Nat) (f : Arb → Arb) (i₁ : Nat) : (m.modArb k f).reg i₁ = m.reg i₁ := rfl
@[simp] theorem Mach.slot_modArb (k : Nat) (f : Arb → Arb) (i₁ j₁ : Nat) : (m.modArb k f).slot i₁ j₁ = m.slot i₁ j₁ := rfl
@[simp] theorem Mach.frec_modArb (k : Nat) (f : Arb → Arb) (i₁ : Nat) : (m.modArb k f).frec i₁ = m.frec i₁ := rfl

@[simp] theorem Mach.straps_modLink (n : Nat) (f : Link → Link) : (m.modLink n f).straps = m.straps := rfl
@[simp] theorem Mach.frees_modLink (n : Nat) (f : Link → Link) : (m.modLink n f).frees = m.frees := rfl
@[simp] theorem Mach.clk_modLink (n : Nat) (f : Link → Link) : (m.modLink n f).clk = m.clk := rfl
@[simp] theorem Mach.keep_modLink (n : Nat) (f : Link → Link) : (m.modLink n f).keep = m.keep := rfl
@[simp] theorem Mach.token_modLink (n : Nat) (f : Link → Link) : (m.modLink n f).token = m.token := rfl
@[simp] theorem Mach.rt_modLink (n : Nat) (f : Link → Link) : (m.modLink n f).rt = m.rt := rfl
@[simp] theorem Mach.spine_modLink (n : Nat) (f : Link → Link) : (m.modLink n f).spine = m.spine := rfl
@[simp] theorem Mach.adm_modLink (n : Nat) (f : Link → Link) : (m.modLink n f).adm = m.adm := rfl
@[simp] theorem Mach.held_modLink (n : Nat) (f : Link → Link) : (m.modLink n f).held = m.held := rfl
@[simp] theorem Mach.replay_modLink (n : Nat) (f : Link → Link) : (m.modLink n f).replay = m.replay := rfl
@[simp] theorem Mach.pwr_modLink (n : Nat) (f : Link → Link) : (m.modLink n f).pwr = m.pwr := rfl
@[simp] theorem Mach.flt_modLink (n : Nat) (f : Link → Link) : (m.modLink n f).flt = m.flt := rfl
@[simp] theorem Mach.pchan_modLink (n : Nat) (f : Link → Link) : (m.modLink n f).pchan = m.pchan := rfl
@[simp] theorem Mach.tele_modLink (n : Nat) (f : Link → Link) : (m.modLink n f).tele = m.tele := rfl
@[simp] theorem Mach.twin_modLink (n : Nat) (f : Link → Link) : (m.modLink n f).twin = m.twin := rfl
@[simp] theorem Mach.rp_modLink (n : Nat) (f : Link → Link) : (m.modLink n f).rp = m.rp := rfl
@[simp] theorem Mach.test_modLink (n : Nat) (f : Link → Link) : (m.modLink n f).test = m.test := rfl
@[simp] theorem Mach.img_modLink (n : Nat) (f : Link → Link) : (m.modLink n f).img = m.img := rfl
@[simp] theorem Mach.tblOld_modLink (n : Nat) (f : Link → Link) : (m.modLink n f).tblOld = m.tblOld := rfl
@[simp] theorem Mach.locl_modLink (n : Nat) (f : Link → Link) : (m.modLink n f).locl = m.locl := rfl
@[simp] theorem Mach.eng_modLink (n : Nat) (f : Link → Link) (i₁ : Nat) : (m.modLink n f).eng i₁ = m.eng i₁ := rfl
@[simp] theorem Mach.niu_modLink (n : Nat) (f : Link → Link) (i₁ : Nat) : (m.modLink n f).niu i₁ = m.niu i₁ := rfl
@[simp] theorem Mach.vc_modLink (n : Nat) (f : Link → Link) (i₁ : Nat) : (m.modLink n f).vc i₁ = m.vc i₁ := rfl
@[simp] theorem Mach.outVc_modLink (n : Nat) (f : Link → Link) (i₁ : Nat) : (m.modLink n f).outVc i₁ = m.outVc i₁ := rfl
@[simp] theorem Mach.arbOf_modLink (n : Nat) (f : Link → Link) (i₁ : Nat) : (m.modLink n f).arbOf i₁ = m.arbOf i₁ := rfl
@[simp] theorem Mach.dir_modLink (n : Nat) (f : Link → Link) (i₁ : Nat) : (m.modLink n f).dir i₁ = m.dir i₁ := rfl
@[simp] theorem Mach.stn_modLink (n : Nat) (f : Link → Link) (i₁ : Nat) : (m.modLink n f).stn i₁ = m.stn i₁ := rfl
@[simp] theorem Mach.node_modLink (n : Nat) (f : Link → Link) (i₁ j₁ : Nat) : (m.modLink n f).node i₁ j₁ = m.node i₁ j₁ := rfl
@[simp] theorem Mach.cbUnit_modLink (n : Nat) (f : Link → Link) (i₁ : Nat) : (m.modLink n f).cbUnit i₁ = m.cbUnit i₁ := rfl
@[simp] theorem Mach.dom_modLink (n : Nat) (f : Link → Link) (i₁ : Nat) : (m.modLink n f).dom i₁ = m.dom i₁ := rfl
@[simp] theorem Mach.reg_modLink (n : Nat) (f : Link → Link) (i₁ : Nat) : (m.modLink n f).reg i₁ = m.reg i₁ := rfl
@[simp] theorem Mach.slot_modLink (n : Nat) (f : Link → Link) (i₁ j₁ : Nat) : (m.modLink n f).slot i₁ j₁ = m.slot i₁ j₁ := rfl
@[simp] theorem Mach.frec_modLink (n : Nat) (f : Link → Link) (i₁ : Nat) : (m.modLink n f).frec i₁ = m.frec i₁ := rfl

@[simp] theorem Mach.straps_modDir (l : Nat) (f : LDir → LDir) : (m.modDir l f).straps = m.straps := rfl
@[simp] theorem Mach.frees_modDir (l : Nat) (f : LDir → LDir) : (m.modDir l f).frees = m.frees := rfl
@[simp] theorem Mach.clk_modDir (l : Nat) (f : LDir → LDir) : (m.modDir l f).clk = m.clk := rfl
@[simp] theorem Mach.keep_modDir (l : Nat) (f : LDir → LDir) : (m.modDir l f).keep = m.keep := rfl
@[simp] theorem Mach.token_modDir (l : Nat) (f : LDir → LDir) : (m.modDir l f).token = m.token := rfl
@[simp] theorem Mach.rt_modDir (l : Nat) (f : LDir → LDir) : (m.modDir l f).rt = m.rt := rfl
@[simp] theorem Mach.spine_modDir (l : Nat) (f : LDir → LDir) : (m.modDir l f).spine = m.spine := rfl
@[simp] theorem Mach.adm_modDir (l : Nat) (f : LDir → LDir) : (m.modDir l f).adm = m.adm := rfl
@[simp] theorem Mach.held_modDir (l : Nat) (f : LDir → LDir) : (m.modDir l f).held = m.held := rfl
@[simp] theorem Mach.replay_modDir (l : Nat) (f : LDir → LDir) : (m.modDir l f).replay = m.replay := rfl
@[simp] theorem Mach.pwr_modDir (l : Nat) (f : LDir → LDir) : (m.modDir l f).pwr = m.pwr := rfl
@[simp] theorem Mach.flt_modDir (l : Nat) (f : LDir → LDir) : (m.modDir l f).flt = m.flt := rfl
@[simp] theorem Mach.pchan_modDir (l : Nat) (f : LDir → LDir) : (m.modDir l f).pchan = m.pchan := rfl
@[simp] theorem Mach.tele_modDir (l : Nat) (f : LDir → LDir) : (m.modDir l f).tele = m.tele := rfl
@[simp] theorem Mach.twin_modDir (l : Nat) (f : LDir → LDir) : (m.modDir l f).twin = m.twin := rfl
@[simp] theorem Mach.rp_modDir (l : Nat) (f : LDir → LDir) : (m.modDir l f).rp = m.rp := rfl
@[simp] theorem Mach.test_modDir (l : Nat) (f : LDir → LDir) : (m.modDir l f).test = m.test := rfl
@[simp] theorem Mach.img_modDir (l : Nat) (f : LDir → LDir) : (m.modDir l f).img = m.img := rfl
@[simp] theorem Mach.tblOld_modDir (l : Nat) (f : LDir → LDir) : (m.modDir l f).tblOld = m.tblOld := rfl
@[simp] theorem Mach.locl_modDir (l : Nat) (f : LDir → LDir) : (m.modDir l f).locl = m.locl := rfl
@[simp] theorem Mach.eng_modDir (l : Nat) (f : LDir → LDir) (i₁ : Nat) : (m.modDir l f).eng i₁ = m.eng i₁ := rfl
@[simp] theorem Mach.niu_modDir (l : Nat) (f : LDir → LDir) (i₁ : Nat) : (m.modDir l f).niu i₁ = m.niu i₁ := rfl
@[simp] theorem Mach.vc_modDir (l : Nat) (f : LDir → LDir) (i₁ : Nat) : (m.modDir l f).vc i₁ = m.vc i₁ := rfl
@[simp] theorem Mach.outVc_modDir (l : Nat) (f : LDir → LDir) (i₁ : Nat) : (m.modDir l f).outVc i₁ = m.outVc i₁ := rfl
@[simp] theorem Mach.arbOf_modDir (l : Nat) (f : LDir → LDir) (i₁ : Nat) : (m.modDir l f).arbOf i₁ = m.arbOf i₁ := rfl
@[simp] theorem Mach.link_modDir (l : Nat) (f : LDir → LDir) (i₁ : Nat) : (m.modDir l f).link i₁ = m.link i₁ := rfl
@[simp] theorem Mach.stn_modDir (l : Nat) (f : LDir → LDir) (i₁ : Nat) : (m.modDir l f).stn i₁ = m.stn i₁ := rfl
@[simp] theorem Mach.node_modDir (l : Nat) (f : LDir → LDir) (i₁ j₁ : Nat) : (m.modDir l f).node i₁ j₁ = m.node i₁ j₁ := rfl
@[simp] theorem Mach.cbUnit_modDir (l : Nat) (f : LDir → LDir) (i₁ : Nat) : (m.modDir l f).cbUnit i₁ = m.cbUnit i₁ := rfl
@[simp] theorem Mach.dom_modDir (l : Nat) (f : LDir → LDir) (i₁ : Nat) : (m.modDir l f).dom i₁ = m.dom i₁ := rfl
@[simp] theorem Mach.reg_modDir (l : Nat) (f : LDir → LDir) (i₁ : Nat) : (m.modDir l f).reg i₁ = m.reg i₁ := rfl
@[simp] theorem Mach.slot_modDir (l : Nat) (f : LDir → LDir) (i₁ j₁ : Nat) : (m.modDir l f).slot i₁ j₁ = m.slot i₁ j₁ := rfl
@[simp] theorem Mach.frec_modDir (l : Nat) (f : LDir → LDir) (i₁ : Nat) : (m.modDir l f).frec i₁ = m.frec i₁ := rfl

@[simp] theorem Mach.straps_modSpine (f : Spine → Spine) : (m.modSpine f).straps = m.straps := rfl
@[simp] theorem Mach.frees_modSpine (f : Spine → Spine) : (m.modSpine f).frees = m.frees := rfl
@[simp] theorem Mach.clk_modSpine (f : Spine → Spine) : (m.modSpine f).clk = m.clk := rfl
@[simp] theorem Mach.keep_modSpine (f : Spine → Spine) : (m.modSpine f).keep = m.keep := rfl
@[simp] theorem Mach.token_modSpine (f : Spine → Spine) : (m.modSpine f).token = m.token := rfl
@[simp] theorem Mach.rt_modSpine (f : Spine → Spine) : (m.modSpine f).rt = m.rt := rfl
@[simp] theorem Mach.adm_modSpine (f : Spine → Spine) : (m.modSpine f).adm = m.adm := rfl
@[simp] theorem Mach.held_modSpine (f : Spine → Spine) : (m.modSpine f).held = m.held := rfl
@[simp] theorem Mach.replay_modSpine (f : Spine → Spine) : (m.modSpine f).replay = m.replay := rfl
@[simp] theorem Mach.pwr_modSpine (f : Spine → Spine) : (m.modSpine f).pwr = m.pwr := rfl
@[simp] theorem Mach.flt_modSpine (f : Spine → Spine) : (m.modSpine f).flt = m.flt := rfl
@[simp] theorem Mach.pchan_modSpine (f : Spine → Spine) : (m.modSpine f).pchan = m.pchan := rfl
@[simp] theorem Mach.tele_modSpine (f : Spine → Spine) : (m.modSpine f).tele = m.tele := rfl
@[simp] theorem Mach.twin_modSpine (f : Spine → Spine) : (m.modSpine f).twin = m.twin := rfl
@[simp] theorem Mach.rp_modSpine (f : Spine → Spine) : (m.modSpine f).rp = m.rp := rfl
@[simp] theorem Mach.test_modSpine (f : Spine → Spine) : (m.modSpine f).test = m.test := rfl
@[simp] theorem Mach.img_modSpine (f : Spine → Spine) : (m.modSpine f).img = m.img := rfl
@[simp] theorem Mach.tblOld_modSpine (f : Spine → Spine) : (m.modSpine f).tblOld = m.tblOld := rfl
@[simp] theorem Mach.locl_modSpine (f : Spine → Spine) : (m.modSpine f).locl = m.locl := rfl
@[simp] theorem Mach.eng_modSpine (f : Spine → Spine) (i₁ : Nat) : (m.modSpine f).eng i₁ = m.eng i₁ := rfl
@[simp] theorem Mach.niu_modSpine (f : Spine → Spine) (i₁ : Nat) : (m.modSpine f).niu i₁ = m.niu i₁ := rfl
@[simp] theorem Mach.vc_modSpine (f : Spine → Spine) (i₁ : Nat) : (m.modSpine f).vc i₁ = m.vc i₁ := rfl
@[simp] theorem Mach.outVc_modSpine (f : Spine → Spine) (i₁ : Nat) : (m.modSpine f).outVc i₁ = m.outVc i₁ := rfl
@[simp] theorem Mach.arbOf_modSpine (f : Spine → Spine) (i₁ : Nat) : (m.modSpine f).arbOf i₁ = m.arbOf i₁ := rfl
@[simp] theorem Mach.link_modSpine (f : Spine → Spine) (i₁ : Nat) : (m.modSpine f).link i₁ = m.link i₁ := rfl
@[simp] theorem Mach.dir_modSpine (f : Spine → Spine) (i₁ : Nat) : (m.modSpine f).dir i₁ = m.dir i₁ := rfl
@[simp] theorem Mach.node_modSpine (f : Spine → Spine) (i₁ j₁ : Nat) : (m.modSpine f).node i₁ j₁ = m.node i₁ j₁ := rfl
@[simp] theorem Mach.cbUnit_modSpine (f : Spine → Spine) (i₁ : Nat) : (m.modSpine f).cbUnit i₁ = m.cbUnit i₁ := rfl
@[simp] theorem Mach.dom_modSpine (f : Spine → Spine) (i₁ : Nat) : (m.modSpine f).dom i₁ = m.dom i₁ := rfl
@[simp] theorem Mach.reg_modSpine (f : Spine → Spine) (i₁ : Nat) : (m.modSpine f).reg i₁ = m.reg i₁ := rfl
@[simp] theorem Mach.slot_modSpine (f : Spine → Spine) (i₁ j₁ : Nat) : (m.modSpine f).slot i₁ j₁ = m.slot i₁ j₁ := rfl
@[simp] theorem Mach.frec_modSpine (f : Spine → Spine) (i₁ : Nat) : (m.modSpine f).frec i₁ = m.frec i₁ := rfl

@[simp] theorem Mach.straps_modStn (p : Nat) (f : Station → Station) : (m.modStn p f).straps = m.straps := rfl
@[simp] theorem Mach.frees_modStn (p : Nat) (f : Station → Station) : (m.modStn p f).frees = m.frees := rfl
@[simp] theorem Mach.clk_modStn (p : Nat) (f : Station → Station) : (m.modStn p f).clk = m.clk := rfl
@[simp] theorem Mach.keep_modStn (p : Nat) (f : Station → Station) : (m.modStn p f).keep = m.keep := rfl
@[simp] theorem Mach.token_modStn (p : Nat) (f : Station → Station) : (m.modStn p f).token = m.token := rfl
@[simp] theorem Mach.rt_modStn (p : Nat) (f : Station → Station) : (m.modStn p f).rt = m.rt := rfl
@[simp] theorem Mach.adm_modStn (p : Nat) (f : Station → Station) : (m.modStn p f).adm = m.adm := rfl
@[simp] theorem Mach.held_modStn (p : Nat) (f : Station → Station) : (m.modStn p f).held = m.held := rfl
@[simp] theorem Mach.replay_modStn (p : Nat) (f : Station → Station) : (m.modStn p f).replay = m.replay := rfl
@[simp] theorem Mach.pwr_modStn (p : Nat) (f : Station → Station) : (m.modStn p f).pwr = m.pwr := rfl
@[simp] theorem Mach.flt_modStn (p : Nat) (f : Station → Station) : (m.modStn p f).flt = m.flt := rfl
@[simp] theorem Mach.pchan_modStn (p : Nat) (f : Station → Station) : (m.modStn p f).pchan = m.pchan := rfl
@[simp] theorem Mach.tele_modStn (p : Nat) (f : Station → Station) : (m.modStn p f).tele = m.tele := rfl
@[simp] theorem Mach.twin_modStn (p : Nat) (f : Station → Station) : (m.modStn p f).twin = m.twin := rfl
@[simp] theorem Mach.rp_modStn (p : Nat) (f : Station → Station) : (m.modStn p f).rp = m.rp := rfl
@[simp] theorem Mach.test_modStn (p : Nat) (f : Station → Station) : (m.modStn p f).test = m.test := rfl
@[simp] theorem Mach.img_modStn (p : Nat) (f : Station → Station) : (m.modStn p f).img = m.img := rfl
@[simp] theorem Mach.tblOld_modStn (p : Nat) (f : Station → Station) : (m.modStn p f).tblOld = m.tblOld := rfl
@[simp] theorem Mach.locl_modStn (p : Nat) (f : Station → Station) : (m.modStn p f).locl = m.locl := rfl
@[simp] theorem Mach.eng_modStn (p : Nat) (f : Station → Station) (i₁ : Nat) : (m.modStn p f).eng i₁ = m.eng i₁ := rfl
@[simp] theorem Mach.niu_modStn (p : Nat) (f : Station → Station) (i₁ : Nat) : (m.modStn p f).niu i₁ = m.niu i₁ := rfl
@[simp] theorem Mach.vc_modStn (p : Nat) (f : Station → Station) (i₁ : Nat) : (m.modStn p f).vc i₁ = m.vc i₁ := rfl
@[simp] theorem Mach.outVc_modStn (p : Nat) (f : Station → Station) (i₁ : Nat) : (m.modStn p f).outVc i₁ = m.outVc i₁ := rfl
@[simp] theorem Mach.arbOf_modStn (p : Nat) (f : Station → Station) (i₁ : Nat) : (m.modStn p f).arbOf i₁ = m.arbOf i₁ := rfl
@[simp] theorem Mach.link_modStn (p : Nat) (f : Station → Station) (i₁ : Nat) : (m.modStn p f).link i₁ = m.link i₁ := rfl
@[simp] theorem Mach.dir_modStn (p : Nat) (f : Station → Station) (i₁ : Nat) : (m.modStn p f).dir i₁ = m.dir i₁ := rfl
@[simp] theorem Mach.node_modStn (p : Nat) (f : Station → Station) (i₁ j₁ : Nat) : (m.modStn p f).node i₁ j₁ = m.node i₁ j₁ := rfl
@[simp] theorem Mach.cbUnit_modStn (p : Nat) (f : Station → Station) (i₁ : Nat) : (m.modStn p f).cbUnit i₁ = m.cbUnit i₁ := rfl
@[simp] theorem Mach.dom_modStn (p : Nat) (f : Station → Station) (i₁ : Nat) : (m.modStn p f).dom i₁ = m.dom i₁ := rfl
@[simp] theorem Mach.reg_modStn (p : Nat) (f : Station → Station) (i₁ : Nat) : (m.modStn p f).reg i₁ = m.reg i₁ := rfl
@[simp] theorem Mach.slot_modStn (p : Nat) (f : Station → Station) (i₁ j₁ : Nat) : (m.modStn p f).slot i₁ j₁ = m.slot i₁ j₁ := rfl
@[simp] theorem Mach.frec_modStn (p : Nat) (f : Station → Station) (i₁ : Nat) : (m.modStn p f).frec i₁ = m.frec i₁ := rfl

@[simp] theorem Mach.straps_setNode (t g : Nat) (v : Option CbNode) : (m.setNode t g v).straps = m.straps := rfl
@[simp] theorem Mach.frees_setNode (t g : Nat) (v : Option CbNode) : (m.setNode t g v).frees = m.frees := rfl
@[simp] theorem Mach.clk_setNode (t g : Nat) (v : Option CbNode) : (m.setNode t g v).clk = m.clk := rfl
@[simp] theorem Mach.keep_setNode (t g : Nat) (v : Option CbNode) : (m.setNode t g v).keep = m.keep := rfl
@[simp] theorem Mach.token_setNode (t g : Nat) (v : Option CbNode) : (m.setNode t g v).token = m.token := rfl
@[simp] theorem Mach.rt_setNode (t g : Nat) (v : Option CbNode) : (m.setNode t g v).rt = m.rt := rfl
@[simp] theorem Mach.spine_setNode (t g : Nat) (v : Option CbNode) : (m.setNode t g v).spine = m.spine := rfl
@[simp] theorem Mach.adm_setNode (t g : Nat) (v : Option CbNode) : (m.setNode t g v).adm = m.adm := rfl
@[simp] theorem Mach.held_setNode (t g : Nat) (v : Option CbNode) : (m.setNode t g v).held = m.held := rfl
@[simp] theorem Mach.replay_setNode (t g : Nat) (v : Option CbNode) : (m.setNode t g v).replay = m.replay := rfl
@[simp] theorem Mach.pwr_setNode (t g : Nat) (v : Option CbNode) : (m.setNode t g v).pwr = m.pwr := rfl
@[simp] theorem Mach.flt_setNode (t g : Nat) (v : Option CbNode) : (m.setNode t g v).flt = m.flt := rfl
@[simp] theorem Mach.pchan_setNode (t g : Nat) (v : Option CbNode) : (m.setNode t g v).pchan = m.pchan := rfl
@[simp] theorem Mach.tele_setNode (t g : Nat) (v : Option CbNode) : (m.setNode t g v).tele = m.tele := rfl
@[simp] theorem Mach.twin_setNode (t g : Nat) (v : Option CbNode) : (m.setNode t g v).twin = m.twin := rfl
@[simp] theorem Mach.rp_setNode (t g : Nat) (v : Option CbNode) : (m.setNode t g v).rp = m.rp := rfl
@[simp] theorem Mach.test_setNode (t g : Nat) (v : Option CbNode) : (m.setNode t g v).test = m.test := rfl
@[simp] theorem Mach.img_setNode (t g : Nat) (v : Option CbNode) : (m.setNode t g v).img = m.img := rfl
@[simp] theorem Mach.tblOld_setNode (t g : Nat) (v : Option CbNode) : (m.setNode t g v).tblOld = m.tblOld := rfl
@[simp] theorem Mach.locl_setNode (t g : Nat) (v : Option CbNode) : (m.setNode t g v).locl = m.locl := rfl
@[simp] theorem Mach.eng_setNode (t g : Nat) (v : Option CbNode) (i₁ : Nat) : (m.setNode t g v).eng i₁ = m.eng i₁ := rfl
@[simp] theorem Mach.niu_setNode (t g : Nat) (v : Option CbNode) (i₁ : Nat) : (m.setNode t g v).niu i₁ = m.niu i₁ := rfl
@[simp] theorem Mach.vc_setNode (t g : Nat) (v : Option CbNode) (i₁ : Nat) : (m.setNode t g v).vc i₁ = m.vc i₁ := rfl
@[simp] theorem Mach.outVc_setNode (t g : Nat) (v : Option CbNode) (i₁ : Nat) : (m.setNode t g v).outVc i₁ = m.outVc i₁ := rfl
@[simp] theorem Mach.arbOf_setNode (t g : Nat) (v : Option CbNode) (i₁ : Nat) : (m.setNode t g v).arbOf i₁ = m.arbOf i₁ := rfl
@[simp] theorem Mach.link_setNode (t g : Nat) (v : Option CbNode) (i₁ : Nat) : (m.setNode t g v).link i₁ = m.link i₁ := rfl
@[simp] theorem Mach.dir_setNode (t g : Nat) (v : Option CbNode) (i₁ : Nat) : (m.setNode t g v).dir i₁ = m.dir i₁ := rfl
@[simp] theorem Mach.stn_setNode (t g : Nat) (v : Option CbNode) (i₁ : Nat) : (m.setNode t g v).stn i₁ = m.stn i₁ := rfl
@[simp] theorem Mach.cbUnit_setNode (t g : Nat) (v : Option CbNode) (i₁ : Nat) : (m.setNode t g v).cbUnit i₁ = m.cbUnit i₁ := rfl
@[simp] theorem Mach.dom_setNode (t g : Nat) (v : Option CbNode) (i₁ : Nat) : (m.setNode t g v).dom i₁ = m.dom i₁ := rfl
@[simp] theorem Mach.reg_setNode (t g : Nat) (v : Option CbNode) (i₁ : Nat) : (m.setNode t g v).reg i₁ = m.reg i₁ := rfl
@[simp] theorem Mach.slot_setNode (t g : Nat) (v : Option CbNode) (i₁ j₁ : Nat) : (m.setNode t g v).slot i₁ j₁ = m.slot i₁ j₁ := rfl
@[simp] theorem Mach.frec_setNode (t g : Nat) (v : Option CbNode) (i₁ : Nat) : (m.setNode t g v).frec i₁ = m.frec i₁ := rfl

@[simp] theorem Mach.straps_modCbu (t : Nat) (f : CbUnit → CbUnit) : (m.modCbu t f).straps = m.straps := rfl
@[simp] theorem Mach.frees_modCbu (t : Nat) (f : CbUnit → CbUnit) : (m.modCbu t f).frees = m.frees := rfl
@[simp] theorem Mach.clk_modCbu (t : Nat) (f : CbUnit → CbUnit) : (m.modCbu t f).clk = m.clk := rfl
@[simp] theorem Mach.keep_modCbu (t : Nat) (f : CbUnit → CbUnit) : (m.modCbu t f).keep = m.keep := rfl
@[simp] theorem Mach.token_modCbu (t : Nat) (f : CbUnit → CbUnit) : (m.modCbu t f).token = m.token := rfl
@[simp] theorem Mach.rt_modCbu (t : Nat) (f : CbUnit → CbUnit) : (m.modCbu t f).rt = m.rt := rfl
@[simp] theorem Mach.spine_modCbu (t : Nat) (f : CbUnit → CbUnit) : (m.modCbu t f).spine = m.spine := rfl
@[simp] theorem Mach.adm_modCbu (t : Nat) (f : CbUnit → CbUnit) : (m.modCbu t f).adm = m.adm := rfl
@[simp] theorem Mach.held_modCbu (t : Nat) (f : CbUnit → CbUnit) : (m.modCbu t f).held = m.held := rfl
@[simp] theorem Mach.replay_modCbu (t : Nat) (f : CbUnit → CbUnit) : (m.modCbu t f).replay = m.replay := rfl
@[simp] theorem Mach.pwr_modCbu (t : Nat) (f : CbUnit → CbUnit) : (m.modCbu t f).pwr = m.pwr := rfl
@[simp] theorem Mach.flt_modCbu (t : Nat) (f : CbUnit → CbUnit) : (m.modCbu t f).flt = m.flt := rfl
@[simp] theorem Mach.pchan_modCbu (t : Nat) (f : CbUnit → CbUnit) : (m.modCbu t f).pchan = m.pchan := rfl
@[simp] theorem Mach.tele_modCbu (t : Nat) (f : CbUnit → CbUnit) : (m.modCbu t f).tele = m.tele := rfl
@[simp] theorem Mach.twin_modCbu (t : Nat) (f : CbUnit → CbUnit) : (m.modCbu t f).twin = m.twin := rfl
@[simp] theorem Mach.rp_modCbu (t : Nat) (f : CbUnit → CbUnit) : (m.modCbu t f).rp = m.rp := rfl
@[simp] theorem Mach.test_modCbu (t : Nat) (f : CbUnit → CbUnit) : (m.modCbu t f).test = m.test := rfl
@[simp] theorem Mach.img_modCbu (t : Nat) (f : CbUnit → CbUnit) : (m.modCbu t f).img = m.img := rfl
@[simp] theorem Mach.tblOld_modCbu (t : Nat) (f : CbUnit → CbUnit) : (m.modCbu t f).tblOld = m.tblOld := rfl
@[simp] theorem Mach.locl_modCbu (t : Nat) (f : CbUnit → CbUnit) : (m.modCbu t f).locl = m.locl := rfl
@[simp] theorem Mach.eng_modCbu (t : Nat) (f : CbUnit → CbUnit) (i₁ : Nat) : (m.modCbu t f).eng i₁ = m.eng i₁ := rfl
@[simp] theorem Mach.niu_modCbu (t : Nat) (f : CbUnit → CbUnit) (i₁ : Nat) : (m.modCbu t f).niu i₁ = m.niu i₁ := rfl
@[simp] theorem Mach.vc_modCbu (t : Nat) (f : CbUnit → CbUnit) (i₁ : Nat) : (m.modCbu t f).vc i₁ = m.vc i₁ := rfl
@[simp] theorem Mach.outVc_modCbu (t : Nat) (f : CbUnit → CbUnit) (i₁ : Nat) : (m.modCbu t f).outVc i₁ = m.outVc i₁ := rfl
@[simp] theorem Mach.arbOf_modCbu (t : Nat) (f : CbUnit → CbUnit) (i₁ : Nat) : (m.modCbu t f).arbOf i₁ = m.arbOf i₁ := rfl
@[simp] theorem Mach.link_modCbu (t : Nat) (f : CbUnit → CbUnit) (i₁ : Nat) : (m.modCbu t f).link i₁ = m.link i₁ := rfl
@[simp] theorem Mach.dir_modCbu (t : Nat) (f : CbUnit → CbUnit) (i₁ : Nat) : (m.modCbu t f).dir i₁ = m.dir i₁ := rfl
@[simp] theorem Mach.stn_modCbu (t : Nat) (f : CbUnit → CbUnit) (i₁ : Nat) : (m.modCbu t f).stn i₁ = m.stn i₁ := rfl
@[simp] theorem Mach.node_modCbu (t : Nat) (f : CbUnit → CbUnit) (i₁ j₁ : Nat) : (m.modCbu t f).node i₁ j₁ = m.node i₁ j₁ := rfl
@[simp] theorem Mach.dom_modCbu (t : Nat) (f : CbUnit → CbUnit) (i₁ : Nat) : (m.modCbu t f).dom i₁ = m.dom i₁ := rfl
@[simp] theorem Mach.reg_modCbu (t : Nat) (f : CbUnit → CbUnit) (i₁ : Nat) : (m.modCbu t f).reg i₁ = m.reg i₁ := rfl
@[simp] theorem Mach.slot_modCbu (t : Nat) (f : CbUnit → CbUnit) (i₁ j₁ : Nat) : (m.modCbu t f).slot i₁ j₁ = m.slot i₁ j₁ := rfl
@[simp] theorem Mach.frec_modCbu (t : Nat) (f : CbUnit → CbUnit) (i₁ : Nat) : (m.modCbu t f).frec i₁ = m.frec i₁ := rfl

@[simp] theorem Mach.straps_modDom (d : Nat) (f : PDom → PDom) : (m.modDom d f).straps = m.straps := rfl
@[simp] theorem Mach.frees_modDom (d : Nat) (f : PDom → PDom) : (m.modDom d f).frees = m.frees := rfl
@[simp] theorem Mach.clk_modDom (d : Nat) (f : PDom → PDom) : (m.modDom d f).clk = m.clk := rfl
@[simp] theorem Mach.keep_modDom (d : Nat) (f : PDom → PDom) : (m.modDom d f).keep = m.keep := rfl
@[simp] theorem Mach.token_modDom (d : Nat) (f : PDom → PDom) : (m.modDom d f).token = m.token := rfl
@[simp] theorem Mach.rt_modDom (d : Nat) (f : PDom → PDom) : (m.modDom d f).rt = m.rt := rfl
@[simp] theorem Mach.spine_modDom (d : Nat) (f : PDom → PDom) : (m.modDom d f).spine = m.spine := rfl
@[simp] theorem Mach.adm_modDom (d : Nat) (f : PDom → PDom) : (m.modDom d f).adm = m.adm := rfl
@[simp] theorem Mach.held_modDom (d : Nat) (f : PDom → PDom) : (m.modDom d f).held = m.held := rfl
@[simp] theorem Mach.replay_modDom (d : Nat) (f : PDom → PDom) : (m.modDom d f).replay = m.replay := rfl
@[simp] theorem Mach.flt_modDom (d : Nat) (f : PDom → PDom) : (m.modDom d f).flt = m.flt := rfl
@[simp] theorem Mach.pchan_modDom (d : Nat) (f : PDom → PDom) : (m.modDom d f).pchan = m.pchan := rfl
@[simp] theorem Mach.tele_modDom (d : Nat) (f : PDom → PDom) : (m.modDom d f).tele = m.tele := rfl
@[simp] theorem Mach.twin_modDom (d : Nat) (f : PDom → PDom) : (m.modDom d f).twin = m.twin := rfl
@[simp] theorem Mach.rp_modDom (d : Nat) (f : PDom → PDom) : (m.modDom d f).rp = m.rp := rfl
@[simp] theorem Mach.test_modDom (d : Nat) (f : PDom → PDom) : (m.modDom d f).test = m.test := rfl
@[simp] theorem Mach.img_modDom (d : Nat) (f : PDom → PDom) : (m.modDom d f).img = m.img := rfl
@[simp] theorem Mach.tblOld_modDom (d : Nat) (f : PDom → PDom) : (m.modDom d f).tblOld = m.tblOld := rfl
@[simp] theorem Mach.locl_modDom (d : Nat) (f : PDom → PDom) : (m.modDom d f).locl = m.locl := rfl
@[simp] theorem Mach.eng_modDom (d : Nat) (f : PDom → PDom) (i₁ : Nat) : (m.modDom d f).eng i₁ = m.eng i₁ := rfl
@[simp] theorem Mach.niu_modDom (d : Nat) (f : PDom → PDom) (i₁ : Nat) : (m.modDom d f).niu i₁ = m.niu i₁ := rfl
@[simp] theorem Mach.vc_modDom (d : Nat) (f : PDom → PDom) (i₁ : Nat) : (m.modDom d f).vc i₁ = m.vc i₁ := rfl
@[simp] theorem Mach.outVc_modDom (d : Nat) (f : PDom → PDom) (i₁ : Nat) : (m.modDom d f).outVc i₁ = m.outVc i₁ := rfl
@[simp] theorem Mach.arbOf_modDom (d : Nat) (f : PDom → PDom) (i₁ : Nat) : (m.modDom d f).arbOf i₁ = m.arbOf i₁ := rfl
@[simp] theorem Mach.link_modDom (d : Nat) (f : PDom → PDom) (i₁ : Nat) : (m.modDom d f).link i₁ = m.link i₁ := rfl
@[simp] theorem Mach.dir_modDom (d : Nat) (f : PDom → PDom) (i₁ : Nat) : (m.modDom d f).dir i₁ = m.dir i₁ := rfl
@[simp] theorem Mach.stn_modDom (d : Nat) (f : PDom → PDom) (i₁ : Nat) : (m.modDom d f).stn i₁ = m.stn i₁ := rfl
@[simp] theorem Mach.node_modDom (d : Nat) (f : PDom → PDom) (i₁ j₁ : Nat) : (m.modDom d f).node i₁ j₁ = m.node i₁ j₁ := rfl
@[simp] theorem Mach.cbUnit_modDom (d : Nat) (f : PDom → PDom) (i₁ : Nat) : (m.modDom d f).cbUnit i₁ = m.cbUnit i₁ := rfl
@[simp] theorem Mach.reg_modDom (d : Nat) (f : PDom → PDom) (i₁ : Nat) : (m.modDom d f).reg i₁ = m.reg i₁ := rfl
@[simp] theorem Mach.slot_modDom (d : Nat) (f : PDom → PDom) (i₁ j₁ : Nat) : (m.modDom d f).slot i₁ j₁ = m.slot i₁ j₁ := rfl
@[simp] theorem Mach.frec_modDom (d : Nat) (f : PDom → PDom) (i₁ : Nat) : (m.modDom d f).frec i₁ = m.frec i₁ := rfl

@[simp] theorem Mach.straps_modPwr (f : Power → Power) : (m.modPwr f).straps = m.straps := rfl
@[simp] theorem Mach.frees_modPwr (f : Power → Power) : (m.modPwr f).frees = m.frees := rfl
@[simp] theorem Mach.clk_modPwr (f : Power → Power) : (m.modPwr f).clk = m.clk := rfl
@[simp] theorem Mach.keep_modPwr (f : Power → Power) : (m.modPwr f).keep = m.keep := rfl
@[simp] theorem Mach.token_modPwr (f : Power → Power) : (m.modPwr f).token = m.token := rfl
@[simp] theorem Mach.rt_modPwr (f : Power → Power) : (m.modPwr f).rt = m.rt := rfl
@[simp] theorem Mach.spine_modPwr (f : Power → Power) : (m.modPwr f).spine = m.spine := rfl
@[simp] theorem Mach.adm_modPwr (f : Power → Power) : (m.modPwr f).adm = m.adm := rfl
@[simp] theorem Mach.held_modPwr (f : Power → Power) : (m.modPwr f).held = m.held := rfl
@[simp] theorem Mach.replay_modPwr (f : Power → Power) : (m.modPwr f).replay = m.replay := rfl
@[simp] theorem Mach.flt_modPwr (f : Power → Power) : (m.modPwr f).flt = m.flt := rfl
@[simp] theorem Mach.pchan_modPwr (f : Power → Power) : (m.modPwr f).pchan = m.pchan := rfl
@[simp] theorem Mach.tele_modPwr (f : Power → Power) : (m.modPwr f).tele = m.tele := rfl
@[simp] theorem Mach.twin_modPwr (f : Power → Power) : (m.modPwr f).twin = m.twin := rfl
@[simp] theorem Mach.rp_modPwr (f : Power → Power) : (m.modPwr f).rp = m.rp := rfl
@[simp] theorem Mach.test_modPwr (f : Power → Power) : (m.modPwr f).test = m.test := rfl
@[simp] theorem Mach.img_modPwr (f : Power → Power) : (m.modPwr f).img = m.img := rfl
@[simp] theorem Mach.tblOld_modPwr (f : Power → Power) : (m.modPwr f).tblOld = m.tblOld := rfl
@[simp] theorem Mach.locl_modPwr (f : Power → Power) : (m.modPwr f).locl = m.locl := rfl
@[simp] theorem Mach.eng_modPwr (f : Power → Power) (i₁ : Nat) : (m.modPwr f).eng i₁ = m.eng i₁ := rfl
@[simp] theorem Mach.niu_modPwr (f : Power → Power) (i₁ : Nat) : (m.modPwr f).niu i₁ = m.niu i₁ := rfl
@[simp] theorem Mach.vc_modPwr (f : Power → Power) (i₁ : Nat) : (m.modPwr f).vc i₁ = m.vc i₁ := rfl
@[simp] theorem Mach.outVc_modPwr (f : Power → Power) (i₁ : Nat) : (m.modPwr f).outVc i₁ = m.outVc i₁ := rfl
@[simp] theorem Mach.arbOf_modPwr (f : Power → Power) (i₁ : Nat) : (m.modPwr f).arbOf i₁ = m.arbOf i₁ := rfl
@[simp] theorem Mach.link_modPwr (f : Power → Power) (i₁ : Nat) : (m.modPwr f).link i₁ = m.link i₁ := rfl
@[simp] theorem Mach.dir_modPwr (f : Power → Power) (i₁ : Nat) : (m.modPwr f).dir i₁ = m.dir i₁ := rfl
@[simp] theorem Mach.stn_modPwr (f : Power → Power) (i₁ : Nat) : (m.modPwr f).stn i₁ = m.stn i₁ := rfl
@[simp] theorem Mach.node_modPwr (f : Power → Power) (i₁ j₁ : Nat) : (m.modPwr f).node i₁ j₁ = m.node i₁ j₁ := rfl
@[simp] theorem Mach.cbUnit_modPwr (f : Power → Power) (i₁ : Nat) : (m.modPwr f).cbUnit i₁ = m.cbUnit i₁ := rfl
@[simp] theorem Mach.reg_modPwr (f : Power → Power) (i₁ : Nat) : (m.modPwr f).reg i₁ = m.reg i₁ := rfl
@[simp] theorem Mach.slot_modPwr (f : Power → Power) (i₁ j₁ : Nat) : (m.modPwr f).slot i₁ j₁ = m.slot i₁ j₁ := rfl
@[simp] theorem Mach.frec_modPwr (f : Power → Power) (i₁ : Nat) : (m.modPwr f).frec i₁ = m.frec i₁ := rfl

@[simp] theorem Mach.straps_modTwin (f : Twin → Twin) : (m.modTwin f).straps = m.straps := rfl
@[simp] theorem Mach.frees_modTwin (f : Twin → Twin) : (m.modTwin f).frees = m.frees := rfl
@[simp] theorem Mach.clk_modTwin (f : Twin → Twin) : (m.modTwin f).clk = m.clk := rfl
@[simp] theorem Mach.keep_modTwin (f : Twin → Twin) : (m.modTwin f).keep = m.keep := rfl
@[simp] theorem Mach.token_modTwin (f : Twin → Twin) : (m.modTwin f).token = m.token := rfl
@[simp] theorem Mach.rt_modTwin (f : Twin → Twin) : (m.modTwin f).rt = m.rt := rfl
@[simp] theorem Mach.spine_modTwin (f : Twin → Twin) : (m.modTwin f).spine = m.spine := rfl
@[simp] theorem Mach.adm_modTwin (f : Twin → Twin) : (m.modTwin f).adm = m.adm := rfl
@[simp] theorem Mach.held_modTwin (f : Twin → Twin) : (m.modTwin f).held = m.held := rfl
@[simp] theorem Mach.replay_modTwin (f : Twin → Twin) : (m.modTwin f).replay = m.replay := rfl
@[simp] theorem Mach.pwr_modTwin (f : Twin → Twin) : (m.modTwin f).pwr = m.pwr := rfl
@[simp] theorem Mach.flt_modTwin (f : Twin → Twin) : (m.modTwin f).flt = m.flt := rfl
@[simp] theorem Mach.pchan_modTwin (f : Twin → Twin) : (m.modTwin f).pchan = m.pchan := rfl
@[simp] theorem Mach.tele_modTwin (f : Twin → Twin) : (m.modTwin f).tele = m.tele := rfl
@[simp] theorem Mach.rp_modTwin (f : Twin → Twin) : (m.modTwin f).rp = m.rp := rfl
@[simp] theorem Mach.test_modTwin (f : Twin → Twin) : (m.modTwin f).test = m.test := rfl
@[simp] theorem Mach.img_modTwin (f : Twin → Twin) : (m.modTwin f).img = m.img := rfl
@[simp] theorem Mach.tblOld_modTwin (f : Twin → Twin) : (m.modTwin f).tblOld = m.tblOld := rfl
@[simp] theorem Mach.locl_modTwin (f : Twin → Twin) : (m.modTwin f).locl = m.locl := rfl
@[simp] theorem Mach.eng_modTwin (f : Twin → Twin) (i₁ : Nat) : (m.modTwin f).eng i₁ = m.eng i₁ := rfl
@[simp] theorem Mach.niu_modTwin (f : Twin → Twin) (i₁ : Nat) : (m.modTwin f).niu i₁ = m.niu i₁ := rfl
@[simp] theorem Mach.vc_modTwin (f : Twin → Twin) (i₁ : Nat) : (m.modTwin f).vc i₁ = m.vc i₁ := rfl
@[simp] theorem Mach.outVc_modTwin (f : Twin → Twin) (i₁ : Nat) : (m.modTwin f).outVc i₁ = m.outVc i₁ := rfl
@[simp] theorem Mach.arbOf_modTwin (f : Twin → Twin) (i₁ : Nat) : (m.modTwin f).arbOf i₁ = m.arbOf i₁ := rfl
@[simp] theorem Mach.link_modTwin (f : Twin → Twin) (i₁ : Nat) : (m.modTwin f).link i₁ = m.link i₁ := rfl
@[simp] theorem Mach.dir_modTwin (f : Twin → Twin) (i₁ : Nat) : (m.modTwin f).dir i₁ = m.dir i₁ := rfl
@[simp] theorem Mach.stn_modTwin (f : Twin → Twin) (i₁ : Nat) : (m.modTwin f).stn i₁ = m.stn i₁ := rfl
@[simp] theorem Mach.node_modTwin (f : Twin → Twin) (i₁ j₁ : Nat) : (m.modTwin f).node i₁ j₁ = m.node i₁ j₁ := rfl
@[simp] theorem Mach.cbUnit_modTwin (f : Twin → Twin) (i₁ : Nat) : (m.modTwin f).cbUnit i₁ = m.cbUnit i₁ := rfl
@[simp] theorem Mach.dom_modTwin (f : Twin → Twin) (i₁ : Nat) : (m.modTwin f).dom i₁ = m.dom i₁ := rfl
@[simp] theorem Mach.reg_modTwin (f : Twin → Twin) (i₁ : Nat) : (m.modTwin f).reg i₁ = m.reg i₁ := rfl
@[simp] theorem Mach.slot_modTwin (f : Twin → Twin) (i₁ j₁ : Nat) : (m.modTwin f).slot i₁ j₁ = m.slot i₁ j₁ := rfl
@[simp] theorem Mach.frec_modTwin (f : Twin → Twin) (i₁ : Nat) : (m.modTwin f).frec i₁ = m.frec i₁ := rfl

@[simp] theorem Mach.straps_modKeep (f : Keeper → Keeper) : (m.modKeep f).straps = m.straps := rfl
@[simp] theorem Mach.frees_modKeep (f : Keeper → Keeper) : (m.modKeep f).frees = m.frees := rfl
@[simp] theorem Mach.clk_modKeep (f : Keeper → Keeper) : (m.modKeep f).clk = m.clk := rfl
@[simp] theorem Mach.token_modKeep (f : Keeper → Keeper) : (m.modKeep f).token = m.token := rfl
@[simp] theorem Mach.rt_modKeep (f : Keeper → Keeper) : (m.modKeep f).rt = m.rt := rfl
@[simp] theorem Mach.spine_modKeep (f : Keeper → Keeper) : (m.modKeep f).spine = m.spine := rfl
@[simp] theorem Mach.adm_modKeep (f : Keeper → Keeper) : (m.modKeep f).adm = m.adm := rfl
@[simp] theorem Mach.held_modKeep (f : Keeper → Keeper) : (m.modKeep f).held = m.held := rfl
@[simp] theorem Mach.replay_modKeep (f : Keeper → Keeper) : (m.modKeep f).replay = m.replay := rfl
@[simp] theorem Mach.pwr_modKeep (f : Keeper → Keeper) : (m.modKeep f).pwr = m.pwr := rfl
@[simp] theorem Mach.flt_modKeep (f : Keeper → Keeper) : (m.modKeep f).flt = m.flt := rfl
@[simp] theorem Mach.pchan_modKeep (f : Keeper → Keeper) : (m.modKeep f).pchan = m.pchan := rfl
@[simp] theorem Mach.tele_modKeep (f : Keeper → Keeper) : (m.modKeep f).tele = m.tele := rfl
@[simp] theorem Mach.twin_modKeep (f : Keeper → Keeper) : (m.modKeep f).twin = m.twin := rfl
@[simp] theorem Mach.rp_modKeep (f : Keeper → Keeper) : (m.modKeep f).rp = m.rp := rfl
@[simp] theorem Mach.test_modKeep (f : Keeper → Keeper) : (m.modKeep f).test = m.test := rfl
@[simp] theorem Mach.img_modKeep (f : Keeper → Keeper) : (m.modKeep f).img = m.img := rfl
@[simp] theorem Mach.tblOld_modKeep (f : Keeper → Keeper) : (m.modKeep f).tblOld = m.tblOld := rfl
@[simp] theorem Mach.locl_modKeep (f : Keeper → Keeper) : (m.modKeep f).locl = m.locl := rfl
@[simp] theorem Mach.eng_modKeep (f : Keeper → Keeper) (i₁ : Nat) : (m.modKeep f).eng i₁ = m.eng i₁ := rfl
@[simp] theorem Mach.niu_modKeep (f : Keeper → Keeper) (i₁ : Nat) : (m.modKeep f).niu i₁ = m.niu i₁ := rfl
@[simp] theorem Mach.vc_modKeep (f : Keeper → Keeper) (i₁ : Nat) : (m.modKeep f).vc i₁ = m.vc i₁ := rfl
@[simp] theorem Mach.outVc_modKeep (f : Keeper → Keeper) (i₁ : Nat) : (m.modKeep f).outVc i₁ = m.outVc i₁ := rfl
@[simp] theorem Mach.arbOf_modKeep (f : Keeper → Keeper) (i₁ : Nat) : (m.modKeep f).arbOf i₁ = m.arbOf i₁ := rfl
@[simp] theorem Mach.link_modKeep (f : Keeper → Keeper) (i₁ : Nat) : (m.modKeep f).link i₁ = m.link i₁ := rfl
@[simp] theorem Mach.dir_modKeep (f : Keeper → Keeper) (i₁ : Nat) : (m.modKeep f).dir i₁ = m.dir i₁ := rfl
@[simp] theorem Mach.stn_modKeep (f : Keeper → Keeper) (i₁ : Nat) : (m.modKeep f).stn i₁ = m.stn i₁ := rfl
@[simp] theorem Mach.node_modKeep (f : Keeper → Keeper) (i₁ j₁ : Nat) : (m.modKeep f).node i₁ j₁ = m.node i₁ j₁ := rfl
@[simp] theorem Mach.cbUnit_modKeep (f : Keeper → Keeper) (i₁ : Nat) : (m.modKeep f).cbUnit i₁ = m.cbUnit i₁ := rfl
@[simp] theorem Mach.dom_modKeep (f : Keeper → Keeper) (i₁ : Nat) : (m.modKeep f).dom i₁ = m.dom i₁ := rfl
@[simp] theorem Mach.reg_modKeep (f : Keeper → Keeper) (i₁ : Nat) : (m.modKeep f).reg i₁ = m.reg i₁ := rfl
@[simp] theorem Mach.slot_modKeep (f : Keeper → Keeper) (i₁ j₁ : Nat) : (m.modKeep f).slot i₁ j₁ = m.slot i₁ j₁ := rfl
@[simp] theorem Mach.frec_modKeep (f : Keeper → Keeper) (i₁ : Nat) : (m.modKeep f).frec i₁ = m.frec i₁ := rfl

@[simp] theorem Mach.straps_modTele (f : Tele → Tele) : (m.modTele f).straps = m.straps := rfl
@[simp] theorem Mach.frees_modTele (f : Tele → Tele) : (m.modTele f).frees = m.frees := rfl
@[simp] theorem Mach.clk_modTele (f : Tele → Tele) : (m.modTele f).clk = m.clk := rfl
@[simp] theorem Mach.keep_modTele (f : Tele → Tele) : (m.modTele f).keep = m.keep := rfl
@[simp] theorem Mach.token_modTele (f : Tele → Tele) : (m.modTele f).token = m.token := rfl
@[simp] theorem Mach.rt_modTele (f : Tele → Tele) : (m.modTele f).rt = m.rt := rfl
@[simp] theorem Mach.spine_modTele (f : Tele → Tele) : (m.modTele f).spine = m.spine := rfl
@[simp] theorem Mach.adm_modTele (f : Tele → Tele) : (m.modTele f).adm = m.adm := rfl
@[simp] theorem Mach.held_modTele (f : Tele → Tele) : (m.modTele f).held = m.held := rfl
@[simp] theorem Mach.replay_modTele (f : Tele → Tele) : (m.modTele f).replay = m.replay := rfl
@[simp] theorem Mach.pwr_modTele (f : Tele → Tele) : (m.modTele f).pwr = m.pwr := rfl
@[simp] theorem Mach.flt_modTele (f : Tele → Tele) : (m.modTele f).flt = m.flt := rfl
@[simp] theorem Mach.pchan_modTele (f : Tele → Tele) : (m.modTele f).pchan = m.pchan := rfl
@[simp] theorem Mach.twin_modTele (f : Tele → Tele) : (m.modTele f).twin = m.twin := rfl
@[simp] theorem Mach.rp_modTele (f : Tele → Tele) : (m.modTele f).rp = m.rp := rfl
@[simp] theorem Mach.test_modTele (f : Tele → Tele) : (m.modTele f).test = m.test := rfl
@[simp] theorem Mach.img_modTele (f : Tele → Tele) : (m.modTele f).img = m.img := rfl
@[simp] theorem Mach.tblOld_modTele (f : Tele → Tele) : (m.modTele f).tblOld = m.tblOld := rfl
@[simp] theorem Mach.locl_modTele (f : Tele → Tele) : (m.modTele f).locl = m.locl := rfl
@[simp] theorem Mach.eng_modTele (f : Tele → Tele) (i₁ : Nat) : (m.modTele f).eng i₁ = m.eng i₁ := rfl
@[simp] theorem Mach.niu_modTele (f : Tele → Tele) (i₁ : Nat) : (m.modTele f).niu i₁ = m.niu i₁ := rfl
@[simp] theorem Mach.vc_modTele (f : Tele → Tele) (i₁ : Nat) : (m.modTele f).vc i₁ = m.vc i₁ := rfl
@[simp] theorem Mach.outVc_modTele (f : Tele → Tele) (i₁ : Nat) : (m.modTele f).outVc i₁ = m.outVc i₁ := rfl
@[simp] theorem Mach.arbOf_modTele (f : Tele → Tele) (i₁ : Nat) : (m.modTele f).arbOf i₁ = m.arbOf i₁ := rfl
@[simp] theorem Mach.link_modTele (f : Tele → Tele) (i₁ : Nat) : (m.modTele f).link i₁ = m.link i₁ := rfl
@[simp] theorem Mach.dir_modTele (f : Tele → Tele) (i₁ : Nat) : (m.modTele f).dir i₁ = m.dir i₁ := rfl
@[simp] theorem Mach.stn_modTele (f : Tele → Tele) (i₁ : Nat) : (m.modTele f).stn i₁ = m.stn i₁ := rfl
@[simp] theorem Mach.node_modTele (f : Tele → Tele) (i₁ j₁ : Nat) : (m.modTele f).node i₁ j₁ = m.node i₁ j₁ := rfl
@[simp] theorem Mach.cbUnit_modTele (f : Tele → Tele) (i₁ : Nat) : (m.modTele f).cbUnit i₁ = m.cbUnit i₁ := rfl
@[simp] theorem Mach.dom_modTele (f : Tele → Tele) (i₁ : Nat) : (m.modTele f).dom i₁ = m.dom i₁ := rfl
@[simp] theorem Mach.reg_modTele (f : Tele → Tele) (i₁ : Nat) : (m.modTele f).reg i₁ = m.reg i₁ := rfl
@[simp] theorem Mach.slot_modTele (f : Tele → Tele) (i₁ j₁ : Nat) : (m.modTele f).slot i₁ j₁ = m.slot i₁ j₁ := rfl
@[simp] theorem Mach.frec_modTele (f : Tele → Tele) (i₁ : Nat) : (m.modTele f).frec i₁ = m.frec i₁ := rfl

@[simp] theorem Mach.straps_modFlt (f : FaultUnit → FaultUnit) : (m.modFlt f).straps = m.straps := rfl
@[simp] theorem Mach.frees_modFlt (f : FaultUnit → FaultUnit) : (m.modFlt f).frees = m.frees := rfl
@[simp] theorem Mach.clk_modFlt (f : FaultUnit → FaultUnit) : (m.modFlt f).clk = m.clk := rfl
@[simp] theorem Mach.keep_modFlt (f : FaultUnit → FaultUnit) : (m.modFlt f).keep = m.keep := rfl
@[simp] theorem Mach.token_modFlt (f : FaultUnit → FaultUnit) : (m.modFlt f).token = m.token := rfl
@[simp] theorem Mach.rt_modFlt (f : FaultUnit → FaultUnit) : (m.modFlt f).rt = m.rt := rfl
@[simp] theorem Mach.spine_modFlt (f : FaultUnit → FaultUnit) : (m.modFlt f).spine = m.spine := rfl
@[simp] theorem Mach.adm_modFlt (f : FaultUnit → FaultUnit) : (m.modFlt f).adm = m.adm := rfl
@[simp] theorem Mach.held_modFlt (f : FaultUnit → FaultUnit) : (m.modFlt f).held = m.held := rfl
@[simp] theorem Mach.replay_modFlt (f : FaultUnit → FaultUnit) : (m.modFlt f).replay = m.replay := rfl
@[simp] theorem Mach.pwr_modFlt (f : FaultUnit → FaultUnit) : (m.modFlt f).pwr = m.pwr := rfl
@[simp] theorem Mach.pchan_modFlt (f : FaultUnit → FaultUnit) : (m.modFlt f).pchan = m.pchan := rfl
@[simp] theorem Mach.tele_modFlt (f : FaultUnit → FaultUnit) : (m.modFlt f).tele = m.tele := rfl
@[simp] theorem Mach.twin_modFlt (f : FaultUnit → FaultUnit) : (m.modFlt f).twin = m.twin := rfl
@[simp] theorem Mach.rp_modFlt (f : FaultUnit → FaultUnit) : (m.modFlt f).rp = m.rp := rfl
@[simp] theorem Mach.test_modFlt (f : FaultUnit → FaultUnit) : (m.modFlt f).test = m.test := rfl
@[simp] theorem Mach.img_modFlt (f : FaultUnit → FaultUnit) : (m.modFlt f).img = m.img := rfl
@[simp] theorem Mach.tblOld_modFlt (f : FaultUnit → FaultUnit) : (m.modFlt f).tblOld = m.tblOld := rfl
@[simp] theorem Mach.locl_modFlt (f : FaultUnit → FaultUnit) : (m.modFlt f).locl = m.locl := rfl
@[simp] theorem Mach.eng_modFlt (f : FaultUnit → FaultUnit) (i₁ : Nat) : (m.modFlt f).eng i₁ = m.eng i₁ := rfl
@[simp] theorem Mach.niu_modFlt (f : FaultUnit → FaultUnit) (i₁ : Nat) : (m.modFlt f).niu i₁ = m.niu i₁ := rfl
@[simp] theorem Mach.vc_modFlt (f : FaultUnit → FaultUnit) (i₁ : Nat) : (m.modFlt f).vc i₁ = m.vc i₁ := rfl
@[simp] theorem Mach.outVc_modFlt (f : FaultUnit → FaultUnit) (i₁ : Nat) : (m.modFlt f).outVc i₁ = m.outVc i₁ := rfl
@[simp] theorem Mach.arbOf_modFlt (f : FaultUnit → FaultUnit) (i₁ : Nat) : (m.modFlt f).arbOf i₁ = m.arbOf i₁ := rfl
@[simp] theorem Mach.link_modFlt (f : FaultUnit → FaultUnit) (i₁ : Nat) : (m.modFlt f).link i₁ = m.link i₁ := rfl
@[simp] theorem Mach.dir_modFlt (f : FaultUnit → FaultUnit) (i₁ : Nat) : (m.modFlt f).dir i₁ = m.dir i₁ := rfl
@[simp] theorem Mach.stn_modFlt (f : FaultUnit → FaultUnit) (i₁ : Nat) : (m.modFlt f).stn i₁ = m.stn i₁ := rfl
@[simp] theorem Mach.node_modFlt (f : FaultUnit → FaultUnit) (i₁ j₁ : Nat) : (m.modFlt f).node i₁ j₁ = m.node i₁ j₁ := rfl
@[simp] theorem Mach.cbUnit_modFlt (f : FaultUnit → FaultUnit) (i₁ : Nat) : (m.modFlt f).cbUnit i₁ = m.cbUnit i₁ := rfl
@[simp] theorem Mach.dom_modFlt (f : FaultUnit → FaultUnit) (i₁ : Nat) : (m.modFlt f).dom i₁ = m.dom i₁ := rfl
@[simp] theorem Mach.reg_modFlt (f : FaultUnit → FaultUnit) (i₁ : Nat) : (m.modFlt f).reg i₁ = m.reg i₁ := rfl
@[simp] theorem Mach.slot_modFlt (f : FaultUnit → FaultUnit) (i₁ j₁ : Nat) : (m.modFlt f).slot i₁ j₁ = m.slot i₁ j₁ := rfl

@[simp] theorem Mach.straps_modRp (f : RegPort → RegPort) : (m.modRp f).straps = m.straps := rfl
@[simp] theorem Mach.frees_modRp (f : RegPort → RegPort) : (m.modRp f).frees = m.frees := rfl
@[simp] theorem Mach.clk_modRp (f : RegPort → RegPort) : (m.modRp f).clk = m.clk := rfl
@[simp] theorem Mach.keep_modRp (f : RegPort → RegPort) : (m.modRp f).keep = m.keep := rfl
@[simp] theorem Mach.token_modRp (f : RegPort → RegPort) : (m.modRp f).token = m.token := rfl
@[simp] theorem Mach.rt_modRp (f : RegPort → RegPort) : (m.modRp f).rt = m.rt := rfl
@[simp] theorem Mach.spine_modRp (f : RegPort → RegPort) : (m.modRp f).spine = m.spine := rfl
@[simp] theorem Mach.adm_modRp (f : RegPort → RegPort) : (m.modRp f).adm = m.adm := rfl
@[simp] theorem Mach.held_modRp (f : RegPort → RegPort) : (m.modRp f).held = m.held := rfl
@[simp] theorem Mach.replay_modRp (f : RegPort → RegPort) : (m.modRp f).replay = m.replay := rfl
@[simp] theorem Mach.pwr_modRp (f : RegPort → RegPort) : (m.modRp f).pwr = m.pwr := rfl
@[simp] theorem Mach.flt_modRp (f : RegPort → RegPort) : (m.modRp f).flt = m.flt := rfl
@[simp] theorem Mach.pchan_modRp (f : RegPort → RegPort) : (m.modRp f).pchan = m.pchan := rfl
@[simp] theorem Mach.tele_modRp (f : RegPort → RegPort) : (m.modRp f).tele = m.tele := rfl
@[simp] theorem Mach.twin_modRp (f : RegPort → RegPort) : (m.modRp f).twin = m.twin := rfl
@[simp] theorem Mach.test_modRp (f : RegPort → RegPort) : (m.modRp f).test = m.test := rfl
@[simp] theorem Mach.img_modRp (f : RegPort → RegPort) : (m.modRp f).img = m.img := rfl
@[simp] theorem Mach.tblOld_modRp (f : RegPort → RegPort) : (m.modRp f).tblOld = m.tblOld := rfl
@[simp] theorem Mach.locl_modRp (f : RegPort → RegPort) : (m.modRp f).locl = m.locl := rfl
@[simp] theorem Mach.eng_modRp (f : RegPort → RegPort) (i₁ : Nat) : (m.modRp f).eng i₁ = m.eng i₁ := rfl
@[simp] theorem Mach.niu_modRp (f : RegPort → RegPort) (i₁ : Nat) : (m.modRp f).niu i₁ = m.niu i₁ := rfl
@[simp] theorem Mach.vc_modRp (f : RegPort → RegPort) (i₁ : Nat) : (m.modRp f).vc i₁ = m.vc i₁ := rfl
@[simp] theorem Mach.outVc_modRp (f : RegPort → RegPort) (i₁ : Nat) : (m.modRp f).outVc i₁ = m.outVc i₁ := rfl
@[simp] theorem Mach.arbOf_modRp (f : RegPort → RegPort) (i₁ : Nat) : (m.modRp f).arbOf i₁ = m.arbOf i₁ := rfl
@[simp] theorem Mach.link_modRp (f : RegPort → RegPort) (i₁ : Nat) : (m.modRp f).link i₁ = m.link i₁ := rfl
@[simp] theorem Mach.dir_modRp (f : RegPort → RegPort) (i₁ : Nat) : (m.modRp f).dir i₁ = m.dir i₁ := rfl
@[simp] theorem Mach.stn_modRp (f : RegPort → RegPort) (i₁ : Nat) : (m.modRp f).stn i₁ = m.stn i₁ := rfl
@[simp] theorem Mach.node_modRp (f : RegPort → RegPort) (i₁ j₁ : Nat) : (m.modRp f).node i₁ j₁ = m.node i₁ j₁ := rfl
@[simp] theorem Mach.cbUnit_modRp (f : RegPort → RegPort) (i₁ : Nat) : (m.modRp f).cbUnit i₁ = m.cbUnit i₁ := rfl
@[simp] theorem Mach.dom_modRp (f : RegPort → RegPort) (i₁ : Nat) : (m.modRp f).dom i₁ = m.dom i₁ := rfl
@[simp] theorem Mach.reg_modRp (f : RegPort → RegPort) (i₁ : Nat) : (m.modRp f).reg i₁ = m.reg i₁ := rfl
@[simp] theorem Mach.frec_modRp (f : RegPort → RegPort) (i₁ : Nat) : (m.modRp f).frec i₁ = m.frec i₁ := rfl

@[simp] theorem Mach.straps_setSlot (e s : Nat) (v : Option (BitVec 256)) : (m.setSlot e s v).straps = m.straps := rfl
@[simp] theorem Mach.frees_setSlot (e s : Nat) (v : Option (BitVec 256)) : (m.setSlot e s v).frees = m.frees := rfl
@[simp] theorem Mach.clk_setSlot (e s : Nat) (v : Option (BitVec 256)) : (m.setSlot e s v).clk = m.clk := rfl
@[simp] theorem Mach.keep_setSlot (e s : Nat) (v : Option (BitVec 256)) : (m.setSlot e s v).keep = m.keep := rfl
@[simp] theorem Mach.token_setSlot (e s : Nat) (v : Option (BitVec 256)) : (m.setSlot e s v).token = m.token := rfl
@[simp] theorem Mach.rt_setSlot (e s : Nat) (v : Option (BitVec 256)) : (m.setSlot e s v).rt = m.rt := rfl
@[simp] theorem Mach.spine_setSlot (e s : Nat) (v : Option (BitVec 256)) : (m.setSlot e s v).spine = m.spine := rfl
@[simp] theorem Mach.adm_setSlot (e s : Nat) (v : Option (BitVec 256)) : (m.setSlot e s v).adm = m.adm := rfl
@[simp] theorem Mach.held_setSlot (e s : Nat) (v : Option (BitVec 256)) : (m.setSlot e s v).held = m.held := rfl
@[simp] theorem Mach.replay_setSlot (e s : Nat) (v : Option (BitVec 256)) : (m.setSlot e s v).replay = m.replay := rfl
@[simp] theorem Mach.pwr_setSlot (e s : Nat) (v : Option (BitVec 256)) : (m.setSlot e s v).pwr = m.pwr := rfl
@[simp] theorem Mach.flt_setSlot (e s : Nat) (v : Option (BitVec 256)) : (m.setSlot e s v).flt = m.flt := rfl
@[simp] theorem Mach.pchan_setSlot (e s : Nat) (v : Option (BitVec 256)) : (m.setSlot e s v).pchan = m.pchan := rfl
@[simp] theorem Mach.tele_setSlot (e s : Nat) (v : Option (BitVec 256)) : (m.setSlot e s v).tele = m.tele := rfl
@[simp] theorem Mach.twin_setSlot (e s : Nat) (v : Option (BitVec 256)) : (m.setSlot e s v).twin = m.twin := rfl
@[simp] theorem Mach.test_setSlot (e s : Nat) (v : Option (BitVec 256)) : (m.setSlot e s v).test = m.test := rfl
@[simp] theorem Mach.img_setSlot (e s : Nat) (v : Option (BitVec 256)) : (m.setSlot e s v).img = m.img := rfl
@[simp] theorem Mach.tblOld_setSlot (e s : Nat) (v : Option (BitVec 256)) : (m.setSlot e s v).tblOld = m.tblOld := rfl
@[simp] theorem Mach.locl_setSlot (e s : Nat) (v : Option (BitVec 256)) : (m.setSlot e s v).locl = m.locl := rfl
@[simp] theorem Mach.eng_setSlot (e s : Nat) (v : Option (BitVec 256)) (i₁ : Nat) : (m.setSlot e s v).eng i₁ = m.eng i₁ := rfl
@[simp] theorem Mach.niu_setSlot (e s : Nat) (v : Option (BitVec 256)) (i₁ : Nat) : (m.setSlot e s v).niu i₁ = m.niu i₁ := rfl
@[simp] theorem Mach.vc_setSlot (e s : Nat) (v : Option (BitVec 256)) (i₁ : Nat) : (m.setSlot e s v).vc i₁ = m.vc i₁ := rfl
@[simp] theorem Mach.outVc_setSlot (e s : Nat) (v : Option (BitVec 256)) (i₁ : Nat) : (m.setSlot e s v).outVc i₁ = m.outVc i₁ := rfl
@[simp] theorem Mach.arbOf_setSlot (e s : Nat) (v : Option (BitVec 256)) (i₁ : Nat) : (m.setSlot e s v).arbOf i₁ = m.arbOf i₁ := rfl
@[simp] theorem Mach.link_setSlot (e s : Nat) (v : Option (BitVec 256)) (i₁ : Nat) : (m.setSlot e s v).link i₁ = m.link i₁ := rfl
@[simp] theorem Mach.dir_setSlot (e s : Nat) (v : Option (BitVec 256)) (i₁ : Nat) : (m.setSlot e s v).dir i₁ = m.dir i₁ := rfl
@[simp] theorem Mach.stn_setSlot (e s : Nat) (v : Option (BitVec 256)) (i₁ : Nat) : (m.setSlot e s v).stn i₁ = m.stn i₁ := rfl
@[simp] theorem Mach.node_setSlot (e s : Nat) (v : Option (BitVec 256)) (i₁ j₁ : Nat) : (m.setSlot e s v).node i₁ j₁ = m.node i₁ j₁ := rfl
@[simp] theorem Mach.cbUnit_setSlot (e s : Nat) (v : Option (BitVec 256)) (i₁ : Nat) : (m.setSlot e s v).cbUnit i₁ = m.cbUnit i₁ := rfl
@[simp] theorem Mach.dom_setSlot (e s : Nat) (v : Option (BitVec 256)) (i₁ : Nat) : (m.setSlot e s v).dom i₁ = m.dom i₁ := rfl
@[simp] theorem Mach.reg_setSlot (e s : Nat) (v : Option (BitVec 256)) (i₁ : Nat) : (m.setSlot e s v).reg i₁ = m.reg i₁ := rfl
@[simp] theorem Mach.frec_setSlot (e s : Nat) (v : Option (BitVec 256)) (i₁ : Nat) : (m.setSlot e s v).frec i₁ = m.frec i₁ := rfl

@[simp] theorem Mach.straps_setReg (a : Nat) (w : Word) : (m.setReg a w).straps = m.straps := rfl
@[simp] theorem Mach.frees_setReg (a : Nat) (w : Word) : (m.setReg a w).frees = m.frees := rfl
@[simp] theorem Mach.clk_setReg (a : Nat) (w : Word) : (m.setReg a w).clk = m.clk := rfl
@[simp] theorem Mach.keep_setReg (a : Nat) (w : Word) : (m.setReg a w).keep = m.keep := rfl
@[simp] theorem Mach.token_setReg (a : Nat) (w : Word) : (m.setReg a w).token = m.token := rfl
@[simp] theorem Mach.rt_setReg (a : Nat) (w : Word) : (m.setReg a w).rt = m.rt := rfl
@[simp] theorem Mach.spine_setReg (a : Nat) (w : Word) : (m.setReg a w).spine = m.spine := rfl
@[simp] theorem Mach.adm_setReg (a : Nat) (w : Word) : (m.setReg a w).adm = m.adm := rfl
@[simp] theorem Mach.held_setReg (a : Nat) (w : Word) : (m.setReg a w).held = m.held := rfl
@[simp] theorem Mach.replay_setReg (a : Nat) (w : Word) : (m.setReg a w).replay = m.replay := rfl
@[simp] theorem Mach.pwr_setReg (a : Nat) (w : Word) : (m.setReg a w).pwr = m.pwr := rfl
@[simp] theorem Mach.flt_setReg (a : Nat) (w : Word) : (m.setReg a w).flt = m.flt := rfl
@[simp] theorem Mach.pchan_setReg (a : Nat) (w : Word) : (m.setReg a w).pchan = m.pchan := rfl
@[simp] theorem Mach.tele_setReg (a : Nat) (w : Word) : (m.setReg a w).tele = m.tele := rfl
@[simp] theorem Mach.twin_setReg (a : Nat) (w : Word) : (m.setReg a w).twin = m.twin := rfl
@[simp] theorem Mach.rp_setReg (a : Nat) (w : Word) : (m.setReg a w).rp = m.rp := rfl
@[simp] theorem Mach.test_setReg (a : Nat) (w : Word) : (m.setReg a w).test = m.test := rfl
@[simp] theorem Mach.img_setReg (a : Nat) (w : Word) : (m.setReg a w).img = m.img := rfl
@[simp] theorem Mach.tblOld_setReg (a : Nat) (w : Word) : (m.setReg a w).tblOld = m.tblOld := rfl
@[simp] theorem Mach.locl_setReg (a : Nat) (w : Word) : (m.setReg a w).locl = m.locl := rfl
@[simp] theorem Mach.eng_setReg (a : Nat) (w : Word) (i₁ : Nat) : (m.setReg a w).eng i₁ = m.eng i₁ := rfl
@[simp] theorem Mach.niu_setReg (a : Nat) (w : Word) (i₁ : Nat) : (m.setReg a w).niu i₁ = m.niu i₁ := rfl
@[simp] theorem Mach.vc_setReg (a : Nat) (w : Word) (i₁ : Nat) : (m.setReg a w).vc i₁ = m.vc i₁ := rfl
@[simp] theorem Mach.outVc_setReg (a : Nat) (w : Word) (i₁ : Nat) : (m.setReg a w).outVc i₁ = m.outVc i₁ := rfl
@[simp] theorem Mach.arbOf_setReg (a : Nat) (w : Word) (i₁ : Nat) : (m.setReg a w).arbOf i₁ = m.arbOf i₁ := rfl
@[simp] theorem Mach.link_setReg (a : Nat) (w : Word) (i₁ : Nat) : (m.setReg a w).link i₁ = m.link i₁ := rfl
@[simp] theorem Mach.dir_setReg (a : Nat) (w : Word) (i₁ : Nat) : (m.setReg a w).dir i₁ = m.dir i₁ := rfl
@[simp] theorem Mach.stn_setReg (a : Nat) (w : Word) (i₁ : Nat) : (m.setReg a w).stn i₁ = m.stn i₁ := rfl
@[simp] theorem Mach.node_setReg (a : Nat) (w : Word) (i₁ j₁ : Nat) : (m.setReg a w).node i₁ j₁ = m.node i₁ j₁ := rfl
@[simp] theorem Mach.cbUnit_setReg (a : Nat) (w : Word) (i₁ : Nat) : (m.setReg a w).cbUnit i₁ = m.cbUnit i₁ := rfl
@[simp] theorem Mach.dom_setReg (a : Nat) (w : Word) (i₁ : Nat) : (m.setReg a w).dom i₁ = m.dom i₁ := rfl
@[simp] theorem Mach.slot_setReg (a : Nat) (w : Word) (i₁ j₁ : Nat) : (m.setReg a w).slot i₁ j₁ = m.slot i₁ j₁ := rfl
@[simp] theorem Mach.frec_setReg (a : Nat) (w : Word) (i₁ : Nat) : (m.setReg a w).frec i₁ = m.frec i₁ := rfl

@[simp] theorem Mach.straps_orReg (a v : Nat) : (m.orReg a v).straps = m.straps := rfl
@[simp] theorem Mach.frees_orReg (a v : Nat) : (m.orReg a v).frees = m.frees := rfl
@[simp] theorem Mach.clk_orReg (a v : Nat) : (m.orReg a v).clk = m.clk := rfl
@[simp] theorem Mach.keep_orReg (a v : Nat) : (m.orReg a v).keep = m.keep := rfl
@[simp] theorem Mach.token_orReg (a v : Nat) : (m.orReg a v).token = m.token := rfl
@[simp] theorem Mach.rt_orReg (a v : Nat) : (m.orReg a v).rt = m.rt := rfl
@[simp] theorem Mach.spine_orReg (a v : Nat) : (m.orReg a v).spine = m.spine := rfl
@[simp] theorem Mach.adm_orReg (a v : Nat) : (m.orReg a v).adm = m.adm := rfl
@[simp] theorem Mach.held_orReg (a v : Nat) : (m.orReg a v).held = m.held := rfl
@[simp] theorem Mach.replay_orReg (a v : Nat) : (m.orReg a v).replay = m.replay := rfl
@[simp] theorem Mach.pwr_orReg (a v : Nat) : (m.orReg a v).pwr = m.pwr := rfl
@[simp] theorem Mach.flt_orReg (a v : Nat) : (m.orReg a v).flt = m.flt := rfl
@[simp] theorem Mach.pchan_orReg (a v : Nat) : (m.orReg a v).pchan = m.pchan := rfl
@[simp] theorem Mach.tele_orReg (a v : Nat) : (m.orReg a v).tele = m.tele := rfl
@[simp] theorem Mach.twin_orReg (a v : Nat) : (m.orReg a v).twin = m.twin := rfl
@[simp] theorem Mach.rp_orReg (a v : Nat) : (m.orReg a v).rp = m.rp := rfl
@[simp] theorem Mach.test_orReg (a v : Nat) : (m.orReg a v).test = m.test := rfl
@[simp] theorem Mach.img_orReg (a v : Nat) : (m.orReg a v).img = m.img := rfl
@[simp] theorem Mach.tblOld_orReg (a v : Nat) : (m.orReg a v).tblOld = m.tblOld := rfl
@[simp] theorem Mach.locl_orReg (a v : Nat) : (m.orReg a v).locl = m.locl := rfl
@[simp] theorem Mach.eng_orReg (a v : Nat) (i₁ : Nat) : (m.orReg a v).eng i₁ = m.eng i₁ := rfl
@[simp] theorem Mach.niu_orReg (a v : Nat) (i₁ : Nat) : (m.orReg a v).niu i₁ = m.niu i₁ := rfl
@[simp] theorem Mach.vc_orReg (a v : Nat) (i₁ : Nat) : (m.orReg a v).vc i₁ = m.vc i₁ := rfl
@[simp] theorem Mach.outVc_orReg (a v : Nat) (i₁ : Nat) : (m.orReg a v).outVc i₁ = m.outVc i₁ := rfl
@[simp] theorem Mach.arbOf_orReg (a v : Nat) (i₁ : Nat) : (m.orReg a v).arbOf i₁ = m.arbOf i₁ := rfl
@[simp] theorem Mach.link_orReg (a v : Nat) (i₁ : Nat) : (m.orReg a v).link i₁ = m.link i₁ := rfl
@[simp] theorem Mach.dir_orReg (a v : Nat) (i₁ : Nat) : (m.orReg a v).dir i₁ = m.dir i₁ := rfl
@[simp] theorem Mach.stn_orReg (a v : Nat) (i₁ : Nat) : (m.orReg a v).stn i₁ = m.stn i₁ := rfl
@[simp] theorem Mach.node_orReg (a v : Nat) (i₁ j₁ : Nat) : (m.orReg a v).node i₁ j₁ = m.node i₁ j₁ := rfl
@[simp] theorem Mach.cbUnit_orReg (a v : Nat) (i₁ : Nat) : (m.orReg a v).cbUnit i₁ = m.cbUnit i₁ := rfl
@[simp] theorem Mach.dom_orReg (a v : Nat) (i₁ : Nat) : (m.orReg a v).dom i₁ = m.dom i₁ := rfl
@[simp] theorem Mach.slot_orReg (a v : Nat) (i₁ j₁ : Nat) : (m.orReg a v).slot i₁ j₁ = m.slot i₁ j₁ := rfl
@[simp] theorem Mach.frec_orReg (a v : Nat) (i₁ : Nat) : (m.orReg a v).frec i₁ = m.frec i₁ := rfl

@[simp] theorem Mach.straps_setFld (a lo len v : Nat) : (m.setFld a lo len v).straps = m.straps := rfl
@[simp] theorem Mach.frees_setFld (a lo len v : Nat) : (m.setFld a lo len v).frees = m.frees := rfl
@[simp] theorem Mach.clk_setFld (a lo len v : Nat) : (m.setFld a lo len v).clk = m.clk := rfl
@[simp] theorem Mach.keep_setFld (a lo len v : Nat) : (m.setFld a lo len v).keep = m.keep := rfl
@[simp] theorem Mach.token_setFld (a lo len v : Nat) : (m.setFld a lo len v).token = m.token := rfl
@[simp] theorem Mach.rt_setFld (a lo len v : Nat) : (m.setFld a lo len v).rt = m.rt := rfl
@[simp] theorem Mach.spine_setFld (a lo len v : Nat) : (m.setFld a lo len v).spine = m.spine := rfl
@[simp] theorem Mach.adm_setFld (a lo len v : Nat) : (m.setFld a lo len v).adm = m.adm := rfl
@[simp] theorem Mach.held_setFld (a lo len v : Nat) : (m.setFld a lo len v).held = m.held := rfl
@[simp] theorem Mach.replay_setFld (a lo len v : Nat) : (m.setFld a lo len v).replay = m.replay := rfl
@[simp] theorem Mach.pwr_setFld (a lo len v : Nat) : (m.setFld a lo len v).pwr = m.pwr := rfl
@[simp] theorem Mach.flt_setFld (a lo len v : Nat) : (m.setFld a lo len v).flt = m.flt := rfl
@[simp] theorem Mach.pchan_setFld (a lo len v : Nat) : (m.setFld a lo len v).pchan = m.pchan := rfl
@[simp] theorem Mach.tele_setFld (a lo len v : Nat) : (m.setFld a lo len v).tele = m.tele := rfl
@[simp] theorem Mach.twin_setFld (a lo len v : Nat) : (m.setFld a lo len v).twin = m.twin := rfl
@[simp] theorem Mach.rp_setFld (a lo len v : Nat) : (m.setFld a lo len v).rp = m.rp := rfl
@[simp] theorem Mach.test_setFld (a lo len v : Nat) : (m.setFld a lo len v).test = m.test := rfl
@[simp] theorem Mach.img_setFld (a lo len v : Nat) : (m.setFld a lo len v).img = m.img := rfl
@[simp] theorem Mach.tblOld_setFld (a lo len v : Nat) : (m.setFld a lo len v).tblOld = m.tblOld := rfl
@[simp] theorem Mach.locl_setFld (a lo len v : Nat) : (m.setFld a lo len v).locl = m.locl := rfl
@[simp] theorem Mach.eng_setFld (a lo len v : Nat) (i₁ : Nat) : (m.setFld a lo len v).eng i₁ = m.eng i₁ := rfl
@[simp] theorem Mach.niu_setFld (a lo len v : Nat) (i₁ : Nat) : (m.setFld a lo len v).niu i₁ = m.niu i₁ := rfl
@[simp] theorem Mach.vc_setFld (a lo len v : Nat) (i₁ : Nat) : (m.setFld a lo len v).vc i₁ = m.vc i₁ := rfl
@[simp] theorem Mach.outVc_setFld (a lo len v : Nat) (i₁ : Nat) : (m.setFld a lo len v).outVc i₁ = m.outVc i₁ := rfl
@[simp] theorem Mach.arbOf_setFld (a lo len v : Nat) (i₁ : Nat) : (m.setFld a lo len v).arbOf i₁ = m.arbOf i₁ := rfl
@[simp] theorem Mach.link_setFld (a lo len v : Nat) (i₁ : Nat) : (m.setFld a lo len v).link i₁ = m.link i₁ := rfl
@[simp] theorem Mach.dir_setFld (a lo len v : Nat) (i₁ : Nat) : (m.setFld a lo len v).dir i₁ = m.dir i₁ := rfl
@[simp] theorem Mach.stn_setFld (a lo len v : Nat) (i₁ : Nat) : (m.setFld a lo len v).stn i₁ = m.stn i₁ := rfl
@[simp] theorem Mach.node_setFld (a lo len v : Nat) (i₁ j₁ : Nat) : (m.setFld a lo len v).node i₁ j₁ = m.node i₁ j₁ := rfl
@[simp] theorem Mach.cbUnit_setFld (a lo len v : Nat) (i₁ : Nat) : (m.setFld a lo len v).cbUnit i₁ = m.cbUnit i₁ := rfl
@[simp] theorem Mach.dom_setFld (a lo len v : Nat) (i₁ : Nat) : (m.setFld a lo len v).dom i₁ = m.dom i₁ := rfl
@[simp] theorem Mach.slot_setFld (a lo len v : Nat) (i₁ j₁ : Nat) : (m.setFld a lo len v).slot i₁ j₁ = m.slot i₁ j₁ := rfl
@[simp] theorem Mach.frec_setFld (a lo len v : Nat) (i₁ : Nat) : (m.setFld a lo len v).frec i₁ = m.frec i₁ := rfl

@[simp] theorem Mach.straps_addFld (a lo len v : Nat) : (m.addFld a lo len v).straps = m.straps := rfl
@[simp] theorem Mach.frees_addFld (a lo len v : Nat) : (m.addFld a lo len v).frees = m.frees := rfl
@[simp] theorem Mach.clk_addFld (a lo len v : Nat) : (m.addFld a lo len v).clk = m.clk := rfl
@[simp] theorem Mach.keep_addFld (a lo len v : Nat) : (m.addFld a lo len v).keep = m.keep := rfl
@[simp] theorem Mach.token_addFld (a lo len v : Nat) : (m.addFld a lo len v).token = m.token := rfl
@[simp] theorem Mach.rt_addFld (a lo len v : Nat) : (m.addFld a lo len v).rt = m.rt := rfl
@[simp] theorem Mach.spine_addFld (a lo len v : Nat) : (m.addFld a lo len v).spine = m.spine := rfl
@[simp] theorem Mach.adm_addFld (a lo len v : Nat) : (m.addFld a lo len v).adm = m.adm := rfl
@[simp] theorem Mach.held_addFld (a lo len v : Nat) : (m.addFld a lo len v).held = m.held := rfl
@[simp] theorem Mach.replay_addFld (a lo len v : Nat) : (m.addFld a lo len v).replay = m.replay := rfl
@[simp] theorem Mach.pwr_addFld (a lo len v : Nat) : (m.addFld a lo len v).pwr = m.pwr := rfl
@[simp] theorem Mach.flt_addFld (a lo len v : Nat) : (m.addFld a lo len v).flt = m.flt := rfl
@[simp] theorem Mach.pchan_addFld (a lo len v : Nat) : (m.addFld a lo len v).pchan = m.pchan := rfl
@[simp] theorem Mach.tele_addFld (a lo len v : Nat) : (m.addFld a lo len v).tele = m.tele := rfl
@[simp] theorem Mach.twin_addFld (a lo len v : Nat) : (m.addFld a lo len v).twin = m.twin := rfl
@[simp] theorem Mach.rp_addFld (a lo len v : Nat) : (m.addFld a lo len v).rp = m.rp := rfl
@[simp] theorem Mach.test_addFld (a lo len v : Nat) : (m.addFld a lo len v).test = m.test := rfl
@[simp] theorem Mach.img_addFld (a lo len v : Nat) : (m.addFld a lo len v).img = m.img := rfl
@[simp] theorem Mach.tblOld_addFld (a lo len v : Nat) : (m.addFld a lo len v).tblOld = m.tblOld := rfl
@[simp] theorem Mach.locl_addFld (a lo len v : Nat) : (m.addFld a lo len v).locl = m.locl := rfl
@[simp] theorem Mach.eng_addFld (a lo len v : Nat) (i₁ : Nat) : (m.addFld a lo len v).eng i₁ = m.eng i₁ := rfl
@[simp] theorem Mach.niu_addFld (a lo len v : Nat) (i₁ : Nat) : (m.addFld a lo len v).niu i₁ = m.niu i₁ := rfl
@[simp] theorem Mach.vc_addFld (a lo len v : Nat) (i₁ : Nat) : (m.addFld a lo len v).vc i₁ = m.vc i₁ := rfl
@[simp] theorem Mach.outVc_addFld (a lo len v : Nat) (i₁ : Nat) : (m.addFld a lo len v).outVc i₁ = m.outVc i₁ := rfl
@[simp] theorem Mach.arbOf_addFld (a lo len v : Nat) (i₁ : Nat) : (m.addFld a lo len v).arbOf i₁ = m.arbOf i₁ := rfl
@[simp] theorem Mach.link_addFld (a lo len v : Nat) (i₁ : Nat) : (m.addFld a lo len v).link i₁ = m.link i₁ := rfl
@[simp] theorem Mach.dir_addFld (a lo len v : Nat) (i₁ : Nat) : (m.addFld a lo len v).dir i₁ = m.dir i₁ := rfl
@[simp] theorem Mach.stn_addFld (a lo len v : Nat) (i₁ : Nat) : (m.addFld a lo len v).stn i₁ = m.stn i₁ := rfl
@[simp] theorem Mach.node_addFld (a lo len v : Nat) (i₁ j₁ : Nat) : (m.addFld a lo len v).node i₁ j₁ = m.node i₁ j₁ := rfl
@[simp] theorem Mach.cbUnit_addFld (a lo len v : Nat) (i₁ : Nat) : (m.addFld a lo len v).cbUnit i₁ = m.cbUnit i₁ := rfl
@[simp] theorem Mach.dom_addFld (a lo len v : Nat) (i₁ : Nat) : (m.addFld a lo len v).dom i₁ = m.dom i₁ := rfl
@[simp] theorem Mach.slot_addFld (a lo len v : Nat) (i₁ j₁ : Nat) : (m.addFld a lo len v).slot i₁ j₁ = m.slot i₁ j₁ := rfl
@[simp] theorem Mach.frec_addFld (a lo len v : Nat) (i₁ : Nat) : (m.addFld a lo len v).frec i₁ = m.frec i₁ := rfl

@[simp] theorem Mach.vc_modVc (k : Nat) (f : VcBuf → VcBuf) : (m.modVc k f).vc k = f (m.vc k) := Tab.get_upd _ _ _
@[simp] theorem Mach.outVc_modOut (k : Nat) (f : OutVc → OutVc) : (m.modOut k f).outVc k = f (m.outVc k) := Tab.get_upd _ _ _
@[simp] theorem Mach.arbOf_modArb (k : Nat) (f : Arb → Arb) : (m.modArb k f).arbOf k = f (m.arbOf k) := Tab.get_upd _ _ _
@[simp] theorem Mach.link_modLink (n : Nat) (f : Link → Link) : (m.modLink n f).link n = f (m.link n) := Tab.get_upd _ _ _
@[simp] theorem Mach.dir_modDir (l : Nat) (f : LDir → LDir) : (m.modDir l f).dir l = f (m.dir l) := Tab.get_upd _ _ _
@[simp] theorem Mach.stn_modStn (p : Nat) (f : Station → Station) : (m.modStn p f).stn p = f (m.stn p) := Tab.get_upd _ _ _
@[simp] theorem Mach.node_setNode (t g : Nat) (v : Option CbNode) : (m.setNode t g v).node t g = v := Tab.get_set _ _ _
@[simp] theorem Mach.cbUnit_modCbu (t : Nat) (f : CbUnit → CbUnit) : (m.modCbu t f).cbUnit t = f (m.cbUnit t) := Tab.get_upd _ _ _
@[simp] theorem Mach.dom_modDom (d : Nat) (f : PDom → PDom) : (m.modDom d f).dom d = f (m.dom d) := Tab.get_upd _ _ _
@[simp] theorem Mach.slot_setSlot (e s : Nat) (v : Option (BitVec 256)) : (m.setSlot e s v).slot e s = v := Tab.get_set _ _ _
@[simp] theorem Mach.frec_setFrec (i : Nat) (r : Option FRec) : (m.setFrec i r).frec i = r := Tab.get_set _ _ _
@[simp] theorem Mach.spine_modSpine (f : Spine → Spine) : (m.modSpine f).spine = f m.spine := rfl
@[simp] theorem Mach.pwr_modPwr (f : Power → Power) : (m.modPwr f).pwr = f m.pwr := rfl
@[simp] theorem Mach.twin_modTwin (f : Twin → Twin) : (m.modTwin f).twin = f m.twin := rfl
@[simp] theorem Mach.keep_modKeep (f : Keeper → Keeper) : (m.modKeep f).keep = f m.keep := rfl
@[simp] theorem Mach.tele_modTele (f : Tele → Tele) : (m.modTele f).tele = f m.tele := rfl
@[simp] theorem Mach.flt_modFlt (f : FaultUnit → FaultUnit) : (m.modFlt f).flt = f m.flt := rfl
@[simp] theorem Mach.rp_modRp (f : RegPort → RegPort) : (m.modRp f).rp = f m.rp := rfl

theorem Mach.vc_modVc_ne {k i : Nat} (f : VcBuf → VcBuf) (h : i ≠ k) : (m.modVc k f).vc i = m.vc i := Tab.get_upd_ne _ _ h
theorem Mach.outVc_modOut_ne {k i : Nat} (f : OutVc → OutVc) (h : i ≠ k) : (m.modOut k f).outVc i = m.outVc i := Tab.get_upd_ne _ _ h
theorem Mach.arbOf_modArb_ne {k i : Nat} (f : Arb → Arb) (h : i ≠ k) : (m.modArb k f).arbOf i = m.arbOf i := Tab.get_upd_ne _ _ h
theorem Mach.link_modLink_ne {k i : Nat} (f : Link → Link) (h : i ≠ k) : (m.modLink k f).link i = m.link i := Tab.get_upd_ne _ _ h
theorem Mach.dir_modDir_ne {k i : Nat} (f : LDir → LDir) (h : i ≠ k) : (m.modDir k f).dir i = m.dir i := Tab.get_upd_ne _ _ h
theorem Mach.stn_modStn_ne {k i : Nat} (f : Station → Station) (h : i ≠ k) : (m.modStn k f).stn i = m.stn i := Tab.get_upd_ne _ _ h
theorem Mach.cbUnit_modCbu_ne {k i : Nat} (f : CbUnit → CbUnit) (h : i ≠ k) : (m.modCbu k f).cbUnit i = m.cbUnit i := Tab.get_upd_ne _ _ h
theorem Mach.dom_modDom_ne {k i : Nat} (f : PDom → PDom) (h : i ≠ k) : (m.modDom k f).dom i = m.dom i := Tab.get_upd_ne _ _ h
theorem Mach.frec_setFrec_ne {k i : Nat} (f : Option FRec) (h : i ≠ k) : (m.setFrec k f).frec i = m.frec i := Tab.get_set_ne _ _ h

end fields

end Sys2Proof.Machine
end

