-- ==== Sys2Proof/WellFormed.lean ====
section
/-! DEFINITION. Which commands describe something the surroundings can do: operands inside the ranges the spec gives
them. An ill-formed term stands for nothing that happens at the block's boundary. -/

namespace Sys2Proof

/-- Slices of a domain's switch (R366). -/
def slicesOf (d : Dom) : Nat := if d.val < 128 then 4 else if d.val < 132 then 32 else 8

/-- Far addresses (R466). -/
def isFar (a : BitVec 24) : Bool := Machine.farAddr a.toNat

/-- Well-formed commands. -/
def Instr.wf : Instr → Bool
  | .rpFarAccess a _ _ _ => isFar a
  | .packetEject _ vc => decide (vc.val < 6)
  | .responseArrival _ vc => decide (6 ≤ vc.val)
  | .retxDeadline _ flow _ => decide (flow.toNat < 0xFFFE)
  | .sliceLimitEnter d slice _ => decide (slice.val < slicesOf d)
  | .sliceLimitLeave d slice => decide (slice.val < slicesOf d)
  | .twinLinkTrained _ variant _ => decide (1 ≤ variant.toNat ∧ variant.toNat ≤ 3)
  | .eventChannelTransfer toAon chan => !toAon || decide (chan.val < 16)
  | _ => true

end Sys2Proof
end

