-- ==== Sys2Proof/Tests/Slice0.lean ====
section
/-! SUPPORT. Tests. First the manual's worked examples and the refusals of ill-formed commands; then, for every statement that has
hypotheses, states and operands that meet them, clause by clause (`wit_<the statement>`). -/

set_option maxRecDepth 20000

namespace Sys2Proof.Tests

open Sys2Proof.Machine

/-- A word of an engine instruction (R338): opcode, D, A, B, and the rest. -/
def ins (opc d a b rest : Nat) : Word := BitVec.ofNat 64 (opc * 2 ^ 56 + d * 2 ^ 52 + a * 2 ^ 48 + b * 2 ^ 44 + rest)

/-- A domain that is ON and answers. -/
def onDom : PDom := { PDom.init with st := .on, feed := 1, pgood := true, live := true }

/-- The instance with every domain ON, its start-up over and Fabric Time in TRACK at 1 ms. -/
def up : Mach :=
  { Mach.reset with
      pwr := { Power.init with doms := (List.range 133).map (fun d => (d, onDom)), feedA := true, feedB := true, phase := 4, ready := true,
                               aonUp := true }
      keep := { Keeper.init with st := .track, ft := 1000000 * 65536 } }

/-- A state with this machine, no guard configured and no command waiting. -/
def st (m : Mach) : State := ⟨m, [], []⟩

/-- Engine `e` about to issue `w`, changed by `f`. -/
def eng (e : Nat) (w : Word) (f : Eng → Eng) (m : Mach) : Mach :=
  m.modEng e (fun x => f { x with state := .running, sram := Memory.setWord [] 0 w })

def run (w : Word) (g : Tab Word) (m : Mach) : State := st (eng 0 w (fun x => { x with g := g }) m)

/-- Words laid out in an engine's SRAM. -/
def desc (l : List Word) (a : Nat) (m : Memory) : Memory := (l.zipIdx).foldl (fun m p => Memory.setWord m (a + 8 * p.2) p.1) m

/-- Engine 0 about to issue `w`, with a descriptor at `a`. -/
def mk (w : Word) (g : Tab Word) (a : Nat) (l : List Word) (m : Mach) : State :=
  st ((eng 0 w (fun x => { x with g := g }) m).modEng 0 (fun x => { x with sram := desc l a x.sram }))

def fl (h l : Bool) (b : FlitBits) : Flit := ⟨h, l, b, 0⟩
def hdw (dst la opc tc : Nat) : FlitBits := mkf 512 27 10 dst ||| mkf 512 8 3 la ||| mkf 512 58 6 opc ||| mkf 512 56 2 tc

/-- The state after a command (the same state where it does not answer a next one). -/
def after (c : Instr) (s : State) : State := match exec c s with | .next t => t | _ => s

theorem crc_ne (a : BitVec 32) : a ≠ a + 1 := by
  intro h
  have h := congrArg BitVec.toNat h
  simp [BitVec.toNat_add] at h
  omega

/-- `Niu.Calm` as a test. -/
def isCalm (y : Niu) : Bool :=
  y.reqs.isEmpty && y.pins.isEmpty && y.marks.isEmpty && y.trk.all (fun r => r.2.all (fun t => !t.close && t.todo.isEmpty)) &&
    y.pwb.all (fun r => r.2.all (fun u => u.todo.isEmpty))

theorem calm {y : Niu} (h : isCalm y = true) : y.Calm := by
  simp only [isCalm, Bool.and_eq_true, List.isEmpty_iff, List.all_eq_true, Option.all_eq_true, Bool.not_eq_true'] at h
  exact ⟨h.1.1.1.1, h.1.1.1.2, h.1.1.2, h.1.2, h.2⟩

theorem calm_all {m : Mach} (h : ∀ p ∈ m.nius, isCalm p.2 = true) (n : Nat) : (m.niu n).Calm :=
  calm (Tab.get_all (d := dNiu) (a := Niu.init) (P := fun y => isCalm y = true) (fun _ => rfl) (by decide) h n)

/-- What holds of every listed NIU and of a fresh one. -/
theorem niu_all {m : Mach} {P : Niu → Prop} (h0 : P Niu.init) (h : ∀ p ∈ m.nius, P p.2) (n : Nat) : P (m.niu n) :=
  Tab.get_all (d := dNiu) (a := Niu.init) (fun _ => rfl) h0 h n

/-- What holds of every listed engine's wait and of no wait. -/
theorem wait_all {m : Mach} {P : Wait → Prop} (h0 : P Eng.init.wait) (h : ∀ p ∈ m.engs, P p.2.wait) (j : Nat) : P (m.eng j).wait :=
  Tab.get_all (d := dEng) (a := Eng.init) (P := fun x => P x.wait) (fun _ => rfl) h0 h j

def isPin : Wait → Bool | .pin _ _ => true | _ => false

theorem no_pin {m : Mach} (h : ∀ p ∈ m.engs, isPin p.2.wait = false) (d n : Nat) (f : BitVec 16) : (m.eng d).wait ≠ .pin n f := by
  have a := wait_all (P := fun w => isPin w = false) (by decide) h d
  intro e
  rw [e] at a
  cases a

/-- The image with every tile UNREACH and every mask zero is a good one. -/
theorem good_image {m : Mach} {l : List FlitBits} (h : l = 0xFFFFFFFFFFFFFFFFFFFFFFFFFFFFFFFF :: List.replicate 768 0) :
    m.imgBad (imgOfLines l) = false :=
  h ▸ Mach.imgBad_unreach (fun _ hx => List.eq_of_mem_replicate hx) (by decide +kernel) (by decide +kernel) (by decide +kernel)

def isFeed : Wait → Bool | .feed _ => true | _ => false

theorem no_feed {m : Mach} (h : ∀ p ∈ m.engs, isFeed p.2.wait = false) (j k : Nat) : (m.eng j).wait ≠ .feed k := by
  have a := wait_all (P := fun w => isFeed w = false) (by decide) h j
  intro e
  rw [e] at a
  cases a

/-! The manual's own examples. -/

/-- Encoding four instructions (after R365): the five words, their opcodes, and the word that ends with ILLEGAL. -/
theorem test_words :
    ([0x3230000004000000, 0x1566043F00000001, 0x42000800000003E8, 0x03600000000001A8, 0xD053000000000020] : List Word).map
        (fun w => (wOpc w, legalWord w)) = [(0x32, true), (0x15, true), (0x42, true), (0x03, true), (0xD0, true)] ∧
      legalWord 0x1566543F00000001#64 = false := by decide

/-- Candidate outputs (after R165): tile 18 to tile 54, router by router. -/
theorem test_candidates :
    [(18, 4), (19, 3), (20, 3), (21, 3), (37, 2), (53, 2)].map (fun r => up.candidates r.1 r.2 54 0) =
      [[0, 1], [0, 1], [1], [0], [0], [1]] := by decide +kernel

/-- The shaper of the rate changes (after R245). -/
def sh (mode rate : Nat) (tok : Int) : Shaper :=
  ⟨mode, if mode = 2 then 1 else 0, false, false, 1, 200, 80, tok, 0, some (mode, rate, 25)⟩

/-- Rate changes at the tick of FT 4,040 (after R245): the tokens before it and after it, 4,060 and 4,080. -/
theorem test_rate_change :
    [sh 1 80 (-120), sh 1 80 900, sh 2 80 900, sh 1 0 (-120)].map
        (fun k => [k.tok, k.tick.tok, k.tick.tick.tok, k.tick.tick.tick.tok]) =
      [[-120, -40, 40, 120], [900, 80, 160, 240], [900, 900, 900, 900], [-120, -120, -120, -120]] := by decide +kernel

/-- The guard of EP 446 and a 40 B write (after R313): MID 0x2345 is admitted, 0x2346 is refused with PERM, 0x2380 with NO_RULE. -/
theorem test_guard :
    [0x2345, 0x2346, 0x2380].map (fun mid =>
        ((⟨[(0, 0x800000007F200000), (1, 0x073000007F2FFFC0), (2, 0xFFC02340FFFF2345)], true, 0⟩ : Guard).check
          (mkf 512 58 6 3 ||| mkf 512 80 48 0x7F200C40 ||| mkf 512 37 9 40 ||| mkf 512 11 16 mid ||| mkf 512 51 2 1)).map
            (fun d => (d.reason, d.region, d.key))) =
      [none, some (4, 0, 0x7F200C40), some (3, 0, 0x7F200C40)] := by decide +kernel

/-- Encoding a head (after R50): words 0 and 1, with EPOCH and LA_PORT, which later stages fill in, still zero. -/
theorem test_head :
    (up.formHead 141 (mkf 256 58 6 3 ||| mkf 256 52 6 5 ||| mkf 256 22 15 40 ||| mkf 256 80 48 0x7F200C40 ||| mkf 256 64 16 0x213)
        false (mkf 512 0 1 1 ||| mkf 512 1 10 141 ||| mkf 512 11 10 446 ||| mkf 512 22 2 1 ||| mkf 512 24 2 1) 0 0 0).extractLsb' 0 128 =
      0x00007F200C400213#64 ++ (0x0D48450DF11A2900#64 ^^^ 0x0040000000000100#64) := by decide +kernel

/-- Shedding on one link (after R254): K (TC3), P (TC2), A, B and C (TC1 with RLVL 2, 0 and 1) reserve resource 104; B is shed first,
then C, then A. -/
def ledger (l : List (Nat × Nat × Nat)) : Adm :=
  ⟨l.map (fun (age, tc, rlvl) => ⟨0, 0, 1, tc, rlvl, 8, 300, 0, [104], age⟩), [], 5⟩

theorem test_shed_order :
    [[(1, 3, 0), (2, 2, 0), (3, 1, 2), (4, 1, 0), (5, 1, 1)], [(1, 3, 0), (2, 2, 0), (3, 1, 2), (5, 1, 1)],
      [(1, 3, 0), (2, 2, 0), (3, 1, 2)]].map (fun l => ((ledger l).victim 104).map (·.age)) = [some 4, some 5, some 3] := by decide

/-! Ill-formed commands are refused, one for each check. -/

theorem test_wf_far : (Instr.rpFarAccess 0x38#24 none true 0).wf = false := by decide
theorem test_wf_eject : (Instr.packetEject 5 6).wf = false := by decide
theorem test_wf_response : (Instr.responseArrival 5 5).wf = false := by decide
theorem test_wf_retx : (Instr.retxDeadline 5 0xFFFE#16 0).wf = false := by decide
theorem test_wf_limit_enter : (Instr.sliceLimitEnter 3 4 ⟨0, 0⟩).wf = false := by decide
theorem test_wf_limit_leave : (Instr.sliceLimitLeave 132 8).wf = false := by decide
theorem test_wf_variant : (Instr.twinLinkTrained true 0 true).wf = false := by decide
theorem test_wf_chan : (Instr.eventChannelTransfer true 16).wf = false := by decide

/-! The statements' hypotheses are met. -/

theorem wit_QueueOrder : (st up).pending = [] ∧ (st { up with clk := { up.clk with fstop := true } }).m.clk.fstop = true := by decide

theorem wit_EveryCommandCompletes : ∀ ep d l, Instr.porAssert ≠ .trspBeat ep d l := fun _ _ _ h => by cases h

theorem wit_ScanMode :
    (st { up with test := { up.test with scan := true } }).m.test.scan = true ∧ Instr.fclkStopDetect ≠ Instr.porAssert := by decide

/-- A state in which everything about endpoint 5's guard is locked. -/
def locked : Machine.State := ⟨up, [(5, ⟨[(0, 1)], true, 0x1FFFF⟩)], []⟩

theorem wit_LocksHold :
    (step locked = .next locked.tick ∧ locked.pending = [] ∧ bt (locked.guard 5).lock 0 = true ∧ bt (locked.guard 5).lock 16 = true) ∧
    (∃ t, exec .porAssert locked = .next t) := ⟨⟨rfl, rfl, by decide, by decide⟩, ⟨_, rfl⟩⟩

theorem wit_GuardFormKept : locked.guardsWf = true ∧ step locked = .next locked.tick := ⟨by decide, rfl⟩

namespace CapAgrees

def states : List Machine.State := [run (ins 0xF0 3 0 0 0) [] up]
def S (i : Nat) : Machine.State := states.getD i (st up)

/-- The hypotheses of `Obligations.CapAgrees` met, clause by clause. -/
theorem wit_CapAgrees :
    (Issues (S 0) 0 (0xF030000000000000#64) 240 ∧ Takes (S 0) 8) :=
  by and_intros <;> decide +kernel

end CapAgrees

namespace IncarnationChange

def states : List Machine.State := [st up]
def S (i : Nat) : Machine.State := states.getD i (st up)

/-- The hypotheses of `Obligations.IncarnationChange` met, clause by clause. -/
theorem wit_IncarnationChange :
    ((S 0).m.test.scan = false ∧ (S 0).m.domLive (epTile 511) = true ∧ ((S 0).m.niu 511).rstN = true ∧ ((S 0).m.niu 511).incPin ≠
    1#8 ∧ 0 ≠ 511) ∧
    ((S 0).m.test.scan = false ∧ (S 0).m.domLive (epTile 511) = true ∧ ((S 0).m.niu 511).rstN = true ∧ ((S 0).m.niu 511).incPin ≠
    1#8 ∧ 0 ≠ aPort 511 24) :=
  by and_intros <;> decide +kernel

end IncarnationChange

namespace JumpConditions

def states : List Machine.State := (List.range 15).flatMap (fun d => [run (ins 3 15 0 0 16) [] up, run (ins 3 d 0 0 16) [] up,
  run (ins 3 d 1 0 (2^42)) [(1, 24)] (up.modEng 0 (fun x => { x with z := true, n := true, v := false, c := true })), run (ins 3
  d 1 0 (2^42)) [(1, 24)] (up.modEng 0 (fun x => { x with z := false, n := true, v := true, c := true }))])
def all_m : List Mach :=
  [eng 0 (ins 0xB0 0 0 0 (2^43)) (fun x => { x with insn := ins 0xB0 0 0 0 (2^43), v := true }) up,
   eng 0 (ins 0xB0 0 0 0 (2^43)) (fun x => { x with insn := ins 0xB0 0 0 0 (2^43), v := false }) up]
def S (i : Nat) : Machine.State := states.getD i (st up)
def m_0 : Mach := all_m[0]'(by decide +kernel)

/-- The hypotheses of `Obligations.JumpConditions` met, clause by clause. -/
theorem wit_JumpConditions :
    (let x : Eng := (S 1).m.eng 0;
    let tgt : ℕ := if bt (0x300000000000010#64) 42 = true then bf (x.reg (wA 0x300000000000010#64)) 0 48 else bf x.pc 40 8 * 2 ^ 40 +
      bf (0x300000000000010#64) 0 40;
    Issues (S 1) 0 (0x300000000000010#64) 3 ∧ tgt % 8 = 0) ∧
    (wOpc 0x3F0000000000010#64 = 3 ∧ wD 0x3F0000000000010#64 = 15) ∧
    (bt (m_0.eng 0).insn 43 = true) :=
  by and_intros <;> decide +kernel

end JumpConditions

namespace FlowOfControl

def states : List Machine.State :=
  [run (ins 0 0 0 0 0) [] up,
   run (ins 1 0 0 0 0) [] up,
   run (ins 2 0 0 0 16) [] up,
   run (ins 3 1 0 0 16) [] up,
   run (ins 3 0 0 0 16) [] up,
   run (ins 4 0 2 0 (2^42)) [(2, 0xFFF8)] up,
   run (ins 5 0 0 0 0) [(15, 64)] up,
   run (ins 6 1 0 0 0) [(1, 3)] up,
   run (ins 6 1 0 0 0) [(1, 1)] up]
def S (i : Nat) : Machine.State := states.getD i (st up)

/-- The hypotheses of `Obligations.FlowOfControl` met, clause by clause. -/
theorem wit_FlowOfControl :
    (Issues (S 0) 0 (0#64) 0) ∧
    (Issues (S 1) 0 (0x100000000000000#64) 1) ∧
    (let x : Eng := (S 2).m.eng 0;
    let tgt : ℕ := if bt (0x200000000000010#64) 42 = true then bf (x.reg (wA 0x200000000000010#64)) 0 48 else bf x.pc 40 8 * 2 ^ 40 +
      bf (0x200000000000010#64) 0 40;
    Issues (S 2) 0 (0x200000000000010#64) 2 ∧ tgt % 8 = 0) ∧
    (let x : Eng := (S 3).m.eng 0;
    let tgt : ℕ := if bt (0x310000000000010#64) 42 = true then bf (x.reg (wA 0x310000000000010#64)) 0 48 else bf x.pc 40 8 * 2 ^ 40 +
      bf (0x310000000000010#64) 0 40;
    Issues (S 3) 0 (0x310000000000010#64) 3 ∧ x.cond (wD 0x310000000000010#64) = true ∧ tgt % 8 = 0) ∧
    (let x : Eng := (S 4).m.eng 0;
    Issues (S 4) 0 (0x300000000000010#64) 3 ∧ x.cond (wD 0x300000000000010#64) = false) ∧
    (let x : Eng := (S 5).m.eng 0;
    let tgt : ℕ := if bt (0x402040000000000#64) 42 = true then bf (x.reg (wA 0x402040000000000#64)) 0 48 else bf x.pc 40 8 * 2 ^ 40 +
      bf (0x402040000000000#64) 0 40;
    Issues (S 5) 0 (0x402040000000000#64) 4 ∧ tgt % 8 = 0) ∧
    (let x : Eng := (S 6).m.eng 0;
    Issues (S 6) 0 (0x500000000000000#64) 5 ∧ bf (x.reg 15) 0 48 % 8 = 0) ∧
    (let x : Eng := (S 7).m.eng 0;
    let tgt : ℕ := if bt (0x610000000000000#64) 42 = true then bf (x.reg (wA 0x610000000000000#64)) 0 48 else bf x.pc 40 8 * 2 ^ 40 +
      bf (0x610000000000000#64) 0 40;
    Issues (S 7) 0 (0x610000000000000#64) 6 ∧ x.reg (wD 0x610000000000000#64) - 1 ≠ 0 ∧ tgt % 8 = 0) ∧
    (let x : Eng := (S 8).m.eng 0;
    Issues (S 8) 0 (0x610000000000000#64) 6 ∧ x.reg (wD 0x610000000000000#64) - 1 = 0) :=
  by and_intros <;> decide +kernel

end FlowOfControl

namespace EngineFaults

def states : List Machine.State :=
  [run (ins 2 0 0 0 17) [] up,
   run (ins 3 1 0 0 17) [] up,
   run (ins 4 0 2 0 (2^42)) [(2, 0xFFF9)] up,
   run (ins 5 0 0 0 0) [(15, 65)] up,
   run (ins 6 1 0 0 4) [(1, 3)] up,
   run (ins 7 0 0 0 5) [] up,
   run (ins 0x20 1 2 0 0xFFFF) [(2,2)] up,
   run (ins 0x21 0 2 3 1) [] up]
def all_m : List Mach := [(run 0 [] up).m, { (run 0 [] up).m.setSlot 0 15 (some 1) with token := some 0 }]
def S (i : Nat) : Machine.State := states.getD i (st up)
def m_0 : Mach := all_m[0]'(by decide +kernel)
def m_1 : Mach := all_m[1]'(by decide +kernel)

/-- The hypotheses of `Obligations.EngineFaults` met, clause by clause. -/
theorem wit_EngineFaults :
    (let x : Eng := (S 0).m.eng 0;
    let tgt : ℕ := if bt (0x200000000000011#64) 42 = true then bf (x.reg (wA 0x200000000000011#64)) 0 48 else bf x.pc 40 8 * 2 ^ 40 +
      bf (0x200000000000011#64) 0 40;
    Issues (S 0) 0 (0x200000000000011#64) 2 ∧ tgt % 8 ≠ 0) ∧
    (let x : Eng := (S 1).m.eng 0;
    let tgt : ℕ := if bt (0x310000000000011#64) 42 = true then bf (x.reg (wA 0x310000000000011#64)) 0 48 else bf x.pc 40 8 * 2 ^ 40 +
      bf (0x310000000000011#64) 0 40;
    Issues (S 1) 0 (0x310000000000011#64) 3 ∧ x.cond (wD 0x310000000000011#64) = true ∧ tgt % 8 ≠ 0) ∧
    (let x : Eng := (S 2).m.eng 0;
    let tgt : ℕ := if bt (0x402040000000000#64) 42 = true then bf (x.reg (wA 0x402040000000000#64)) 0 48 else bf x.pc 40 8 * 2 ^ 40 +
      bf (0x402040000000000#64) 0 40;
    Issues (S 2) 0 (0x402040000000000#64) 4 ∧ tgt % 8 ≠ 0) ∧
    (let x : Eng := (S 3).m.eng 0;
    Issues (S 3) 0 (0x500000000000000#64) 5 ∧ bf (x.reg 15) 0 48 % 8 ≠ 0) ∧
    (let x : Eng := (S 4).m.eng 0;
    let tgt : ℕ := if bt (0x610000000000004#64) 42 = true then bf (x.reg (wA 0x610000000000004#64)) 0 48 else bf x.pc 40 8 * 2 ^ 40 +
      bf (0x610000000000004#64) 0 40;
    Issues (S 4) 0 (0x610000000000004#64) 6 ∧ x.reg (wD 0x610000000000004#64) - 1 ≠ 0 ∧ tgt % 8 ≠ 0) ∧
    (Issues (S 5) 0 (0x700000000000005#64) 7) ∧
    (let x : Eng := (S 6).m.eng 0;
    Issues (S 6) 0 (0x201200000000FFFF#64) 32 ∧ (BitVec.toNat (x.reg (wA 0x201200000000FFFF#64)) + bf (0x201200000000FFFF#64) 0 16)
    % 65536 % 8 ≠ 0) ∧
    (let x : Eng := (S 7).m.eng 0;
    Issues (S 7) 0 (0x2102300000000001#64) 33 ∧ (BitVec.toNat (x.reg (wA 0x2102300000000001#64)) + bf (0x2102300000000001#64) 0 16)
    % 65536 % 8 ≠ 0) ∧
    (9 < 16 ∧ m_0.token ≠ some 0) ∧
    (9 < 16 ∧ m_0.slot 0 15 = none) ∧
    (9 < 16 ∧ m_1.slot 0 15 ≠ none) :=
  by and_intros <;> decide +kernel

end EngineFaults

namespace Arithmetic

def prs : List (Word × Word) := [(3,5),(0x8000000000000000, 0x7FFFFFFFFFFFFFFF),(0xFFFFFFFFFFFFFFFF, 1), (0, 0)]
def states : List Machine.State := (List.range 12).flatMap (fun o => prs.flatMap (fun p => if o = 0 then [run (ins 0x10 4 0 0
  0x8000000005) [] up, run (ins 0x10 4 0 0 0x28000000005) [] up] else if o = 1 then [run (ins 0x11 4 1 0 0) [(1,p.1)] up] else
  [run (ins (0x10+o) (if o = 9 then 0 else 4) 1 2 0) [(1, p.1), (2, p.2)] up] ++ (if o = 8 ∨ o ≥ 10 then [run (ins (0x10+o) 4 1
  2 (2^41)) [(1, p.1), (2, p.2)] up] else [])))
def S (i : Nat) : Machine.State := states.getD i (st up)

/-- The hypotheses of `Obligations.Arithmetic` met, clause by clause. -/
theorem wit_Arithmetic :
    (Issues (S 0) 0 (0x1040008000000005#64) 16) ∧
    (Issues (S 8) 0 (0x1141000000000000#64) 17) ∧
    (Issues (S 12) 0 (0x1241200000000000#64) 18) ∧
    (Issues (S 16) 0 (0x1341200000000000#64) 19) ∧
    (Issues (S 20) 0 (0x1441200000000000#64) 20) ∧
    (Issues (S 24) 0 (0x1541200000000000#64) 21) ∧
    (Issues (S 28) 0 (0x1641200000000000#64) 22) ∧
    (Issues (S 32) 0 (0x1741200000000000#64) 23) ∧
    (Issues (S 36) 0 (0x1841200000000000#64) 24) ∧
    (Issues (S 44) 0 (0x1901200000000000#64) 25) ∧
    (Issues (S 48) 0 (0x1A41200000000000#64) 26) ∧
    (Issues (S 56) 0 (0x1B41200000000000#64) 27) :=
  by and_intros <;> decide +kernel

end Arithmetic

namespace EngineMemory

def states : List Machine.State :=
  [run (ins 0x20 1 2 0 8) [(2,8)] (up.modEng 0 (fun x => {x with soft := [16]})),
   run (ins 0x20 1 2 0 0xFFF8) [(2,8)] up,
   run (ins 0x20 1 2 0 8) [(2,8)] (up.modEng 0 (fun x => {x with bad := [16]})),
   run (ins 0x21 0 2 3 8) [(2,8), (3, 0x123456789ABCDEF0)] (up.modEng 0 (fun x => {x with bad := [16, 24]})),
   run (ins 0x26 0 0 0 0) [] (up.modEng 0 (fun x => {x with lines := [(0x8000000000000000, 5)], fetch := some 0x8000000000000040}))]
def all_m : List Mach := states.map (·.m)
def S (i : Nat) : Machine.State := states.getD i (st up)
def m_0 : Mach := all_m[0]'(by decide +kernel)

/-- The hypotheses of `Obligations.EngineMemory` met, clause by clause. -/
theorem wit_EngineMemory :
    (let x : Eng := (S 0).m.eng 0;
    let a : ℕ := (BitVec.toNat (x.reg (wA 0x2012000000000008#64)) + bf (0x2012000000000008#64) 0 16) % 65536;
    Issues (S 0) 0 (0x2012000000000008#64) 32 ∧ a % 8 = 0 ∧ x.bad.contains a = false) ∧
    (let x : Eng := (S 2).m.eng 0;
    let a : ℕ := (BitVec.toNat (x.reg (wA 0x2012000000000008#64)) + bf (0x2012000000000008#64) 0 16) % 65536;
    Issues (S 2) 0 (0x2012000000000008#64) 32 ∧ a % 8 = 0 ∧ x.bad.contains a = true) ∧
    (let x : Eng := (S 3).m.eng 0;
    let a : ℕ := (BitVec.toNat (x.reg (wA 0x2102300000000008#64)) + bf (0x2102300000000008#64) 0 16) % 65536;
    Issues (S 3) 0 (0x2102300000000008#64) 33 ∧ a % 8 = 0) ∧
    (let x : Eng := (S 0).m.eng 0;
    let a : ℕ := (BitVec.toNat (x.reg (wA 0x2012000000000008#64)) + bf (0x2012000000000008#64) 0 16) % 65536;
    x.soft.contains a = true ∧ m_0.eng 0 = x) ∧
    (let x : Eng := (S 0).m.eng 0;
    let a : ℕ := (BitVec.toNat (x.reg (wA 0xFF00000000000000#64)) + bf (0xFF00000000000000#64) 0 16) % 65536;
    x.soft.contains a = false ∧ m_0.eng 0 = x) ∧
    (let x : Eng := (S 0).m.eng 0;
    let a : ℕ := (BitVec.toNat (x.reg (wA 0x2012000000000008#64)) + bf (0x2012000000000008#64) 0 16) % 65536;
    0 < a ∨ a + 8 ≤ 0) ∧
    (Issues (S 4) 0 (0x2600000000000000#64) 38) :=
  by and_intros <;> decide +kernel

end EngineMemory

namespace ChipMemory

def states : List Machine.State :=
  [run (ins 0x22 3 1 0 0) [(1, 0x8005000000000010)] up,
   run (ins 0x22 0 1 0 (2^40 + 0x10 * 2^24)) [(1, 0x8005000000000040)] up,
   run (ins 0x23 0 1 2 0) [(1, 0x8005000000000010), (2, 77)] up,
   run (ins 0x23 0 1 0 (2^40 + 0x10 * 2^24)) [(1, 0x8203000000000040)] up]
def cand (s : Machine.State) : List Mach := Id.run do
  let e := 0
  let x := s.m.eng 0
  match s.m.fetch 0 with
  | .word w =>
      let a := x.reg (wA w)
      let line := decide (bf w 40 3 = 1)
      let size := if line then 64 else 8
      let data := if line then [x.line (bf w 24 16)] else []
      let inl : BitVec 128 := if line then 0 else BitVec.ofNat 128 (x.reg (wB w)).toNat
      return (s.m.serviceReq 512 0x01 (engSub e) (bf a 48 10) (bf a 0 48) size (engFlow e) 0 [] (.ldx e)).toList ++ (s.m.serviceReq 512 0x03 (engSub e) (bf a 48 10) (bf a 0 48) size (engFlow e) inl data (.stx e)).toList
  | _ => return []
def of_m (s : Machine.State) : List Mach := cand s
def all_m : List Mach := [up]
def all_t : List Mach := (up.serviceReq 515 3 1 515 (2^48-1) 64 0xFFFF 7 [5] (.ldx 1)).toList ++ (up.serviceReq 513 1 0 0 64 8
  0xFFFE 0 [] (.ldx 0)).toList
def all_data : List (List FlitBits) := [[], [5]]
def all_own : List Owner := [.ldx 1, .ldx 0]
def S (i : Nat) : Machine.State := states.getD i (st up)
def m_s_0_0 : Mach := (of_m (S 0))[0]'(by decide +kernel)
def m_s_2_1 : Mach := (of_m (S 2))[1]'(by decide +kernel)
def data_1 : List FlitBits := all_data[1]'(by decide +kernel)
def m_0 : Mach := all_m[0]'(by decide +kernel)
def own_0 : Owner := all_own[0]'(by decide +kernel)
def t_0 : Mach := all_t[0]'(by decide +kernel)

/-- The hypotheses of `Obligations.ChipMemory` met, clause by clause. -/
theorem wit_ChipMemory :
    (let x : Eng := (S 0).m.eng 0;
    let a : Word := x.reg (wA 0x2231000000000000#64);
    let line : Bool := decide (bf (0x2231000000000000#64) 40 3 = 1);
    let size : ℕ := if line = true then 64 else 8;
    bf a 0 48 % size = 0 ∧ (line = true → bf (0x2231000000000000#64) 24 16 % 8 = 0) ∧ bt a 63 = true ∧ bf a 48 10 < 516 ∧ bf a 58 5 = 0
    ∧ (S 0).m.serviceOf 0 = some 512 ∧ (S 0).m.accessOut 0 = false ∧ Issues (S 0) 0 (0x2231000000000000#64) 34 ∧
    ((S 0).m.readPc 0).serviceReq 512 1 (engSub 0) (bf a 48 10) (bf a 0 48) size (engFlow 0) 0 [] (Owner.ldx 0) = some m_s_0_0) ∧
    (let x : Eng := (S 2).m.eng 0;
    let a : Word := x.reg (wA 0x2301200000000000#64);
    let line : Bool := decide (bf (0x2301200000000000#64) 40 3 = 1);
    let size : ℕ := if line = true then 64 else 8;
    let data : List FlitBits := if line = true then [x.line (bf (0x2301200000000000#64) 24 16)] else [];
    let inl : BitVec 128 := if line = true then 0 else BitVec.ofNat 128 (BitVec.toNat (x.reg (wB 0x2301200000000000#64)));
    bf a 0 48 % size = 0 ∧ (line = true → bf (0x2301200000000000#64) 24 16 % 8 = 0) ∧ bt a 63 = true ∧ bf a 48 10 < 516 ∧ bf a 58 5 = 0
    ∧ (S 2).m.serviceOf 0 = some 512 ∧ (S 2).m.accessOut 0 = false ∧ Issues (S 2) 0 (0x2301200000000000#64) 35 ∧
    (S 2).m.mirrors = false ∧ ((S 2).m.readPc 0).serviceReq 512 3 (engSub 0) (bf a 48 10) (bf a 0 48) size (engFlow 0) inl data
    (Owner.stx 0) = some m_s_2_1) ∧
    (515 < 516 ∧ 3 < 64 ∧ 3 ≠ opWRP ∧ 1 < 64 ∧ 515 < 1024 ∧ 281474976710655 < 2 ^ 48 ∧ 64 < 512 ∧ data_1.length < 8 ∧
    m_0.serviceReq 515 3 1 515 281474976710655 64 (65535#16) (7#128) data_1 own_0 = some t_0) :=
  by and_intros <;> decide +kernel

end ChipMemory

namespace TimeAndEvents

def r1 : Word := 0x3000000000000001
def r2 : Word := 0xC000000000000002
def wa : Machine.State := st (up.modEng 0 (fun x =>
  { x with state := .waiting, wait := .time 1000000, insn := ins 0x31 0 1 0 0 }))
def wb : Machine.State := st (up.modEng 0 (fun x =>
  { x with state := .waiting, wait := .event 4 0x1000, insn := ins 0x32 4 0 0 (0x1000 * 2^24), evq := [r1, r2] }))
def states : List Machine.State :=
  [run (ins 0x30 3 0 0 0) [] up,
   run (ins 0x31 0 1 0 0) [(1, 1000001)] up,
   run (ins 0x31 0 1 0 0) [(1, 1000000)] up,
   run (ins 0x31 0 1 0 (2^43)) [(1, 1000000)] up,
   st (eng 0 (ins 0x32 4 0 0 (0x1000 * 2^24 + 5)) (fun x => { x with evq := [r1]}) up),
   st (eng 0 (ins 0x32 4 0 0 (0x1000 * 2^24 + 5)) (fun x => { x with evq := [r1, r2, r1]}) up),
   wa,
   wb,
   run (ins 0x32 4 0 0 5) [] up,
   run (ins 0x32 4 0 0 (0x2000 * 2^24)) [] up]
def all_p : List (List Word) := [[], [r1]]
def all_q : List (List Word) := [[], [r1]]
def S (i : Nat) : Machine.State := states.getD i (st up)
def p_1 : List (BitVec 64) := all_p[1]'(by decide +kernel)
def q_1 : List (BitVec 64) := all_q[1]'(by decide +kernel)
def q_0 : List (BitVec 64) := all_q[0]'(by decide +kernel)

/-- The hypotheses of `Obligations.TimeAndEvents` met, clause by clause. -/
theorem wit_TimeAndEvents :
    (Issues (S 0) 0 (0x3030000000000000#64) 48) ∧
    (let x : Eng := (S 1).m.eng 0;
    let t : ℕ := BitVec.toNat (x.reg (wA 0x3101000000000000#64));
    Issues (S 1) 0 (0x3101000000000000#64) 49 ∧ (S 1).m.ftNs < t) ∧
    (let x : Eng := (S 2).m.eng 0;
    let t : ℕ := BitVec.toNat (x.reg (wA 0x3101000000000000#64));
    Issues (S 2) 0 (0x3101000000000000#64) 49 ∧ t ≤ (S 2).m.ftNs) ∧
    (let x : Eng := (S 6).m.eng 0;
    (S 6).m.test.scan = false ∧ x.state = EngSt.waiting ∧ x.wait = Wait.time 1000000 ∧ 1000000 ≤ (S 6).m.ftNs) ∧
    (let x : Eng := (S 4).m.eng 0;
    let mask : BitVec 16 := BitVec.extractLsb' 24 16 0x3240001000000005#64;
    Issues (S 4) 0 (0x3240001000000005#64) 50 ∧ mask ≠ 0 ∧ bf (0x3240001000000005#64) 37 3 = 0 ∧ (x.evq.all fun (r : Word) => !bt
    mask (bf r 60 4)) = true) ∧
    (let mask : BitVec 16 := BitVec.extractLsb' 24 16 0x3240000000000005#64;
    Issues (S 8) 0 (0x3240000000000005#64) 50 ∧ (mask = 0 ∨ bf (0x3240000000000005#64) 37 3 ≠ 0)) ∧
    (let x : Eng := (S 5).m.eng 0;
    let mask : BitVec 16 := BitVec.extractLsb' 24 16 0x3240001000000005#64;
    Issues (S 5) 0 (0x3240001000000005#64) 50 ∧ bf (0x3240001000000005#64) 37 3 = 0 ∧ x.evq = p_1 ++ 0xC000000000000002#64 ::
    q_1 ∧ (p_1.all fun (r : BitVec 64) => !bt mask (bf r 60 4)) = true ∧ bt mask (bf (0xC000000000000002#64) 60 4) = true) ∧
    (let x : Eng := (S 7).m.eng 0;
    (S 7).m.test.scan = false ∧ x.state = EngSt.waiting ∧ x.wait = Wait.event 4 4096#16 ∧ x.evq = p_1 ++ 0xC000000000000002#64
    :: q_0 ∧ (p_1.all fun (r : BitVec 64) => !bt (4096#16) (bf r 60 4)) = true ∧ bt (4096#16) (bf (0xC000000000000002#64) 60
    4) = true) :=
  by and_intros <;> decide +kernel

end TimeAndEvents

namespace StatusEnds

def wt (w : Wait) (l : Option Nat) (i : Word) (m : Mach) : Mach := m.modEng 0 (fun x =>
  { x with state := .waiting, wait := w, limit := l, insn := i })
def all_m : List Mach :=
  [{ (run (ins 0xD0 0 0 0 0) [] up).m.modEng 0 (fun x => { x with insn := ins 0xD0 0 0 0 0 }) with token := some 0 },
   (run (ins 0xD0 0 0 0 (2^43)) [] up).m.modEng 0 (fun x => { x with insn := ins 0xD0 0 0 0 (2^43) })]
def all_wr : List (List (Nat × Word)) := [[], [(4, 7)]]
def states : List Machine.State :=
  [st (wt (.drain 3) (some 0) (ins 0x60 0 0 0 5)
     { up.modNiu 12 (fun x => { x with ingress := [⟨.header, 0, false, 0, 6⟩] }) with token := some 0 }),
   st ((wt (.sync 3) (some 0) (ins 0xA2 0 0 0 5) up).modNiu 3 (fun x => { x with gOld := 1, gSync := some 0 })),
   st (wt (.done 0 []) none (ins 0x40 0 0 0 0) up),
   st (wt (.done 1 [(4,7)]) none (ins 0x40 0 0 0 0) up),
   st { wt (.done 0 []) none (ins 0x41 0 0 0 0) up with token := some 0, rt := { up.rt with casting := true, reached := [3] } },
   st (wt (.done 0 []) (some 0) (ins 0x40 0 0 0 0) up),
   run (ins 0xD0 1 2 3 (3 * 16 + 14)) [(1, 5), (2, 6), (3, 7)] up,
   run (ins 0xD0 0 0 0 (2^42 + 7 * 256 + 4)) [] up,
   run (ins 0xD0 0 0 0 (2^42 + 7 * 256 + 4)) [] (up.setSlot 0 4 (some 1)),
   run (ins 0xD1 0 0 0 15) [] up,
   run (ins 0xF0 9 0 0 0) [] up]
def S (i : Nat) : Machine.State := states.getD i (st up)
def m_1 : Mach := all_m[1]'(by decide +kernel)
def m_0 : Mach := all_m[0]'(by decide +kernel)
def wr_0 : List (ℕ × Word) := all_wr[0]'(by decide +kernel)

/-- The hypotheses of `Obligations.StatusEnds` met, clause by clause. -/
theorem wit_StatusEnds :
    (let x : Eng := (S 0).m.eng 0;
    (∀ (n : ℕ), x.wait ≠ Wait.sync n) ∧ (S 0).m.test.scan = false ∧ x.state = EngSt.waiting ∧ x.limit = some 0 ∧ (S 0).m.waitMet 0 =
    false ∧ x.wait ≠ Wait.image) ∧
    (0 = 0) ∧
    (let x : Eng := m_1.eng 0;
    1 ≠ 0 ∧ bt x.insn 43 = true) ∧
    (let x : Eng := m_0.eng 0;
    1 ≠ 0 ∧ bt x.insn 43 = false) ∧
    (let x : Eng := (S 1).m.eng 0;
    (S 1).m.test.scan = false ∧ x.state = EngSt.waiting ∧ x.limit = some 0 ∧ x.wait = Wait.sync 3 ∧ ((S 1).m.niu 3).gOld ≠ 0 ∧
    ((S 1).m.niu 3).gSync = some 0) ∧
    (let x : Eng := (S 5).m.eng 0;
    (S 5).m.test.scan = false ∧ x.state = EngSt.waiting ∧ x.limit = some 0 ∧ (S 5).m.waitMet 0 = true) ∧
    (let x : Eng := (S 2).m.eng 0;
    (S 2).m.test.scan = false ∧ x.state = EngSt.waiting ∧ x.wait = Wait.done 0 wr_0 ∧ wOpc x.insn ≠ 65) ∧
    (let x : Eng := (S 4).m.eng 0;
    (S 4).m.test.scan = false ∧ x.state = EngSt.waiting ∧ x.wait = Wait.done 0 [] ∧ wOpc x.insn = 65) ∧
    (let k : ℕ := bf (0xD01230000000003E#64) 0 4;
    let nw : ℕ := bf (0xD01230000000003E#64) 4 4;
    Issues (S 6) 0 (0xD01230000000003E#64) 208 ∧ k ≠ 15 ∧ nw ≤ 3 ∧ (S 6).m.slot 0 k = none) ∧
    (let k : ℕ := bf (0xD000040000000704#64) 0 4;
    let nw : ℕ := bf (0xD000040000000704#64) 4 4;
    Issues (S 8) 0 (0xD000040000000704#64) 208 ∧ k ≠ 15 ∧ nw ≤ 3 ∧ (S 8).m.slot 0 k ≠ none) ∧
    (Issues (S 9) 0 (0xD10000000000000F#64) 209) ∧
    (Issues (S 10) 0 (0xF090000000000000#64) 240) :=
  ⟨by
    intro x
    exact ⟨(by intro n h; cases h), by decide +kernel⟩,
   by and_intros <;> decide +kernel⟩

end StatusEnds

namespace EngineHostAccess

def hlt (m : Mach) : Mach := m.modEng 4 (fun x =>
  { x with state := .halted, z := true, g := [(4, 4)], lines := [(5,5)], fetch := some 64 })
def states : List Machine.State :=
  [st (hlt (((up.setReg (aEng 4 0x18) 5).setReg (aEng 4 0x20) 6).setReg (aEng 4 0x30) 9)),
   run (ins 0 0 0 0 0) [] up,
   st { hlt up with flt := { up.flt with safeA := true, safeB := true } },
   st (up.modEng 4 (fun x => {x with state := .waiting, wait := .drain 3, insn := ins 0x60 0 0 0 5 })),
   st ((up.modEng 0 (fun x => {x with evq := List.replicate 32 5 })).setReg (aEng 0 0x40) (8 * 8191)),
   st ((up.modEng 4 (fun x => { x with sram := Memory.setWord [] 16 0xDEADBEEF, bad := [16] })).setReg (aEng 4 0x40) 16),
   st (up.setSlot 4 2 (some 7)),
   st (up.setSlot 4 2 (some 8)),
   st (up.modEng 4 (fun x => {x with state := .waiting, wait := .drain 3, insn := ins 0x60 0 0 0 (2^43 + 5) }))]
def S (i : Nat) : Machine.State := states.getD i (st up)

/-- The hypotheses of `Obligations.EngineHostAccess` met, clause by clause. -/
theorem wit_EngineHostAccess :
    (let x : Eng := (S 3).m.eng 4;
    (∀ (n : ℕ), x.wait ≠ Wait.sync n) ∧ (S 3).m.engLive 4 = true ∧ Takes (S 3) (aEng 4 40) ∧ bt (1#64) 0 = true ∧ x.state =
    EngSt.waiting ∧ (x.wait = Wait.aon → x.limit ≠ none) ∧ x.wait ≠ Wait.image ∧ bt x.insn 43 = false) ∧
    (let x : Eng := (S 8).m.eng 4;
    (∀ (n : ℕ), x.wait ≠ Wait.sync n) ∧ (S 8).m.engLive 4 = true ∧ Takes (S 8) (aEng 4 40) ∧ bt (1#64) 0 = true ∧ x.state =
    EngSt.waiting ∧ (x.wait = Wait.aon → x.limit ≠ none) ∧ x.wait ≠ Wait.image ∧ bt x.insn 43 = true ∧ ((S 8).m.modEng 4 fun (x : Eng)
    =>
    { g := x.g, z := x.z, n := x.n, c := x.c, v := true, pc := x.nextPc, st := 7, state := EngSt.running, wait := Wait.none,
      insn := x.insn, limit := none, sram := x.sram, bad := x.bad, soft := x.soft, evq := x.evq, lines := x.lines, fetch := x.fetch,
        post := x.post, stopReq := x.stopReq }).fetch
    4 = Fetch.word 0#64) ∧
    (let x : Eng := (S 0).m.eng 0;
    Takes (S 0) (aEng 0 16) ∧ (S 0).m.engLive 0 = true ∧ (x.state = EngSt.idle ∨ x.state = EngSt.halted ∨ x.state = EngSt.fault) ∧
    (S 0).m.safe = false) ∧
    (let x : Eng := (S 1).m.eng 0;
    Takes (S 1) (aEng 0 16) ∧ (S 1).m.engLive 0 = true ∧ (x.state = EngSt.running ∨ x.state = EngSt.waiting ∨ (S 1).m.safe = true)) ∧
    ((S 1).m.engLive 0 = true ∧ Takes (S 1) (aEng 0 40) ∧ bt (1#64) 0 = true ∧ (S 1).m.fetch 0 = Fetch.word 0#64) ∧
    (let x : Eng := (S 0).m.eng 0;
    (S 0).m.engLive 0 = true ∧ Takes (S 0) (aEng 0 80) ∧ x.evq.length < 32) ∧
    (let x : Eng := (S 4).m.eng 0;
    (S 4).m.engLive 0 = true ∧ Takes (S 4) (aEng 0 80) ∧ 32 ≤ x.evq.length) ∧
    ((S 0).m.engLive 0 = true ∧ Takes (S 0) (aEng 0 72)) ∧
    (let e : ℕ := bf (0x420007#64) 20 3;
    let k : ℕ := bf (0x420007#64) 16 4;
    Takes (S 6) 6656 ∧ bt (0x420007#64) 23 = false ∧ e < 5 ∧ (S 6).m.slot e k = some 7#256 ∧ bf (7#256) 0 16 = bf (0x420007#64) 0 16) ∧
    (let e : ℕ := bf (0x420007#64) 20 3;
    let k : ℕ := bf (0x420007#64) 16 4;
    Takes (S 7) 6656 ∧ bt (0x420007#64) 23 = false ∧ e < 5 ∧ (S 7).m.slot e k = some 8#256 ∧ bf (8#256) 0 16 ≠ bf (0x420007#64) 0 16) ∧
    (let e : ℕ := bf (64#64) 20 3;
    let k : ℕ := bf (64#64) 16 4;
    Takes (S 0) 6656 ∧ bt (64#64) 23 = false ∧ (e < 5 → (S 0).m.slot e k = none)) :=
  ⟨by
    intro x
    exact ⟨(by intro n h; cases h), by dsimp only [Takes]; decide +kernel⟩,
   by
    intro x
    exact ⟨(by intro n h; cases h), by dsimp only [Takes]; decide +kernel⟩,
   by and_intros <;> decide +kernel⟩

end EngineHostAccess

namespace RegisterAccess

def states : List Machine.State :=
  [run (ins 0x24 3 1 0 0) [(1, 0x38)] up,
   run (ins 0x24 3 1 0 0) [(1, 0x100018)] up,
   run (ins 0x24 3 1 0 0) [(1, 0x39)] up,
   run (ins 0x25 0 1 2 0) [(1, 0x39)] up,
   run (ins 0x25 0 1 2 0) [(1, BitVec.ofNat 64 (aNiu 5 8)), (2, 0xFFF5)] up,
   run (ins 0x25 0 1 2 0) [(1, BitVec.ofNat 64 (aNiu 5 0x10)), (2, 0xFFF5)] up,
   run (ins 0x25 0 1 2 (2^43)) [(1, BitVec.ofNat 64 (aNiu 5 0x10)), (2, 0xFFF5)] up,
   st (((up.setReg (aPort 5 0x18) 0x30F).setReg (aPort 5 0x20) 0x77)),
   st (up.setReg 0x28 0x8000000000000000),
   st (up.modDom 132 (fun d => { d with live := false })),
   run (ins 0x24 3 1 0 0) [(1, 0x60)] up,
   run (ins 0x24 3 1 0 0) [(1, BitVec.ofNat 64 (aPort 5 0x20))] (up.modDom 1 (fun d => { d with live := false })),
   run (ins 0x25 0 1 2 0) [(1, 0x60), (2, 5)] up,
   run (ins 0x25 0 1 2 0) [(1, BitVec.ofNat 64 (aPort 5 0x18)), (2, 5)] (up.setReg (aPort 5 0x18) 0x30F),
   run (ins 0x25 0 1 2 0) [(1, BitVec.ofNat 64 (aEng 0 0x58)), (2, 0x1234567800FF00FF)] (up.setReg (aEng 0 0x58) 0x8000F),
   run (ins 0x25 0 1 2 0) [(1, BitVec.ofNat 64 (aEng 0 0)), (2, 0xFFFFFFFFFFFFFFFF)] (up.setReg (aEng 0 0) 0x300),
   run (ins 0x25 0 1 2 0) [(1, BitVec.ofNat 64 (aCtr 3)), (2, 0xFFFFFFFFFFFFFFFF)] (up.setReg (aCtr 3) 0x8000000000000007),
   run (ins 0x25 0 1 2 0) [(1, 0x100E00), (2, 1)] up,
   run (ins 0x25 0 1 2 0) [(1, 0x80010), (2, 1)] up,
   st ((((((up.setReg 0x20 0x504).setReg (aEng 0 0x58) 0x5000000080FF).setReg (aEng 0 0) 0x500000300).setReg 0x48
     0x1000000000003).setReg 0x480000 0x8000000000000000).setReg (aCtr 9) 0x8000000000000005),
   st { up with straps := ⟨3, false⟩ }]
def all_a : List (BitVec 24) :=
  [0x40,
   0x60,
   0x20,
   0x48,
   0xC4008,
   0x480000,
   0x480020,
   0x80010,
   0x80038,
   0x208,
   BitVec.ofNat 24 (aCtr 9),
   BitVec.ofNat 24 (aCtr 9 + 8),
   BitVec.ofNat 24 (aSmp 3 + 0x10),
   BitVec.ofNat 24 (aSmp 3 + 0x18),
   0x100108,
   0x100118,
   0x100148,
   BitVec.ofNat 24 (aPort 5 8),
   BitVec.ofNat 24 (aPort 5 0x10),
   BitVec.ofNat 24 (aPort 5 0x18),
   BitVec.ofNat 24 (aPort 5 0x20),
   BitVec.ofNat 24 (aEng 0 0x58),
   BitVec.ofNat 24 (aEng 0 0x40),
   BitVec.ofNat 24 (aEng 0 0),
   BitVec.ofNat 24 (aEng 0 0x18),
   BitVec.ofNat 24 (aGd 5 8),
   0x100600,
   BitVec.ofNat 24 (aNiu 5 0x38),
   0xD0000,
   0xD0010,
   0x38,
   0x1000,
   0xE0008,
   BitVec.ofNat 24 (aEng 0 0x10),
   BitVec.ofNat 24 (aDom 3 0x10)]
def of_l (s : Machine.State) : List RegLoc := (((s.m.eng 0).reg 1 |> fun a => (locate (bf a 0 24)).toList) ++ all_a.flatMap
  (fun a => (locate a.toNat).toList)).dedup
def S (i : Nat) : Machine.State := states.getD i (st up)
def l_s_0_28 : RegLoc := (of_l (S 0))[28]'(by decide +kernel)
def l_s_4_0 : RegLoc := (of_l (S 4))[0]'(by decide +kernel)
def l_s_0_0 : RegLoc := (of_l (S 0))[0]'(by decide +kernel)

/-- The hypotheses of `Obligations.RegisterAccess` met, clause by clause. -/
theorem wit_RegisterAccess :
    (let x : Eng := (S 0).m.eng 0;
    let a : ℕ := bf (x.reg (wA 0x2431000000000000#64)) 0 24;
    (Issues (S 0) 0 (0x2431000000000000#64) 36 ∧ a % 8 = 0 ∧ (a < 65536 ∨ inScope 0 (addrQuad a) = true) ∧ (S 0).m.aonDead a =
    false ∧ (farAon a = true → (S 0).m.clk.astop = false)) ∧ locate a = some l_s_0_28 ∧ l_s_0_28.reg ≠ Reg.ftNow ∧
    l_s_0_28.reg ≠ Reg.engSramData ∧ (S 0).m.answers l_s_0_28 = true) ∧
    (let x : Eng := (S 10).m.eng 0;
    let a : ℕ := bf (x.reg (wA 0x2431000000000000#64)) 0 24;
    (Issues (S 10) 0 (0x2431000000000000#64) 36 ∧ a % 8 = 0 ∧ (a < 65536 ∨ inScope 0 (addrQuad a) = true) ∧ (S 10).m.aonDead a =
    false ∧ (farAon a = true → (S 10).m.clk.astop = false)) ∧ Silent (S 10).m a) ∧
    (let x : Eng := (S 2).m.eng 0;
    let a : ℕ := bf (x.reg (wA 0x2431000000000000#64)) 0 24;
    Issues (S 2) 0 (0x2431000000000000#64) 36 ∧ (a < 65536 ∨ inScope 0 (addrQuad a) = true) ∧ a % 8 ≠ 0) ∧
    (let x : Eng := (S 3).m.eng 0;
    let a : ℕ := bf (x.reg (wA 0x2501200000000000#64)) 0 24;
    Issues (S 3) 0 (0x2501200000000000#64) 37 ∧ inScope 0 (addrQuad a) = true ∧ a % 8 ≠ 0) ∧
    (let x : Eng := (S 4).m.eng 0;
    let a : ℕ := bf (x.reg (wA 0x2501200000000000#64)) 0 24;
    (Issues (S 4) 0 (0x2501200000000000#64) 37 ∧ a % 8 = 0 ∧ inScope 0 (addrQuad a) = true ∧ (S 4).m.aonDead a = false ∧ (farAon a
    = true → (S 4).m.clk.astop = false)) ∧ (S 4).m.wrDenied a = false ∧ locate a = some l_s_4_0 ∧ l_s_4_0.reg.acts = false
    ∧ (S 4).m.answers l_s_4_0 = true) ∧
    (let x : Eng := (S 12).m.eng 0;
    let a : ℕ := bf (x.reg (wA 0x2501200000000000#64)) 0 24;
    (Issues (S 12) 0 (0x2501200000000000#64) 37 ∧ a % 8 = 0 ∧ inScope 0 (addrQuad a) = true ∧ (S 12).m.aonDead a = false ∧ (farAon
    a = true → (S 12).m.clk.astop = false)) ∧ (S 12).m.wrDenied a = false ∧ Silent (S 12).m a) ∧
    (let x : Eng := (S 5).m.eng 0;
    let a : ℕ := bf (x.reg (wA 0x2501200000000000#64)) 0 24;
    Issues (S 5) 0 (0x2501200000000000#64) 37 ∧ a % 8 = 0 ∧ inScope 0 (addrQuad a) = true ∧ (1048576 ≤ a ∧ a < 1572864 ∧ 1536 ≤ a %
    4096 ∧ a % 4096 < 3840 ∨ (∃ n < 516, a = aNiu n 16 ∨ a = aNiu n 24) ∨ (S 5).m.hasSpine = true ∧ (a = 524304 ∨ a = 524312 ∨ a =
    524320))) ∧
    (let n : ℕ := (64#24).toNat;
    Takes (S 0) n ∧ (addrPriv n = true → true = true) ∧ locate n = some l_s_0_0 ∧ (S 0).m.answers l_s_0_0 = true ∧
    (l_s_0_0.reg.acts = false ∨ l_s_0_0.reg = Reg.flowTbl ∨ l_s_0_0.reg = Reg.pwrCfg ∨ l_s_0_0.reg = Reg.pcCfg ∨
    l_s_0_0.reg = Reg.smpCfg0 ∨ l_s_0_0.reg = Reg.smpCfg1 ∨ l_s_0_0.reg = Reg.mirCfg ∨ l_s_0_0.reg = Reg.linkCfg ∨
    l_s_0_0.reg = Reg.portSpCfg ∨ l_s_0_0.reg = Reg.portSpWeight)) ∧
    (let n : ℕ := (64#24).toNat;
    Takes (S 0) n ∧ (addrPriv n = true → true = true) ∧ locate n = some l_s_0_0 ∧ (S 0).m.answers l_s_0_0 = true ∧
    l_s_0_0.reg ≠ Reg.ftNow ∧ l_s_0_0.reg ≠ Reg.engSramData ∧ l_s_0_0.reg ≠ Reg.spStnPeak) ∧
    (let n : ℕ := (96#24).toNat;
    Takes (S 0) n ∧ (addrPriv n = true → false = true) ∧ Silent (S 0).m n) ∧
    (let arg : ℕ := aEng 0 24;
    Takes (S 0) arg ∧ (S 0).m.engLive 0 = true) ∧
    (let cfg : ℕ := aNiu 5 8;
    Takes (S 0) cfg ∧ (S 0).m.domLive (5 / 4) = true) ∧
    (let evt : ℕ := aPort 5 24;
    Takes (S 0) evt ∧ (S 0).m.domLive (5 / 4) = true) ∧
    (let drop : ℕ := aPort 5 32;
    Takes (S 0) drop ∧ (S 0).m.domLive (5 / 4) = true) ∧
    (Takes (S 0) 64 ∧ bt ((S 0).m.reg 40) 63 = false) ∧
    (Takes (S 8) 64 ∧ bt ((S 8).m.reg 40) 63 = true) ∧
    (((S 0).m.test.scan = false ∧ (S 0).m.pwr.aonUp = true ∧ (S 0).m.rp.far = none) ∧ addrPriv (64#24).toNat = true ∧ (64#24).toNat
    % 8 = 0) ∧
    (((S 9).m.test.scan = false ∧ (S 9).m.pwr.aonUp = true ∧ (S 9).m.rp.far = none) ∧ (addrPriv (0x480000#24).toNat = true → true =
    true) ∧ (0x480000#24).toNat % 8 = 0 ∧ (S 9).m.farStopped (0x480000#24).toNat = false ∧ (S 9).m.aonDead (0x480000#24).toNat = true) ∧
    (((S 0).m.test.scan = false ∧ (S 0).m.pwr.aonUp = true ∧ (S 0).m.rp.far = none) ∧ addrPriv (0xC4008#24).toNat = true ∧
    (0xC4008#24).toNat % 8 = 0 ∧ farAddr (0xC4008#24).toNat = true) :=
  by and_intros <;> decide +kernel

end RegisterAccess

namespace FarAccess

def f1 : Far := ⟨aEng 0 0x18, some 5, true, 9⟩
def rp1 (m : Mach) : Mach := { m with rp := { m.rp with far := some f1 } }
def rq (f : Far) : Mach := { (up.setReg (aPort 5 0x20) 0x77).setReg (aPort 5 0x18) 0xF with rp := { up.rp with far := some f } }
def states : List Machine.State :=
  [st up,
   st (rp1 up),
   st { rp1 up with clk := { up.clk with fstop := true } },
   st { up with clk := { up.clk with fstop := true, astop := true } },
   st { up with rp := { up.rp with far := some f1, hung := some (f1, 0, true)} },
   st ({rp1 up with rp := { (rp1 up).rp with far := some ⟨aDom 3 8, none, true, 9⟩ }}),
   st { rq ⟨aDom 3 8, some 7, true, 9⟩ with clk := { up.clk with astop := true } },
   st { rq ⟨aDom 3 8, none, true, 9⟩ with clk := { up.clk with astop := true } },
   st (rq ⟨aPort 5 0x20, none, false, 9⟩),
   st { rq ⟨aPort 5 0x20, none, false, 9⟩ with clk := { up.clk with fstop := true } },
   st (rq ⟨aPort 5 0x18, some 9, false, 9⟩)]
def all_f : List Far :=
  [f1,
   ⟨aDom 3 8, some 7, true, 9⟩,
   ⟨aPort 5 0x20, none, false, 9⟩,
   ⟨aPort 5 0x18, some 9, false, 9⟩,
   ⟨aDom 3 8, none, true, 9⟩]
def S (i : Nat) : Machine.State := states.getD i (st up)
def f_0 : Far := all_f[0]'(by decide +kernel)
def f_1 : Far := all_f[1]'(by decide +kernel)

/-- The hypotheses of `Obligations.FarAccess` met, clause by clause. -/
theorem wit_FarAccess :
    ((S 1).m.test.scan = false ∧ ((S 1).m.rp.far = some f_0 ∧ (S 1).m.pwr.aonUp = true ∧ farAddr f_0.a = true ∧ f_0.a %
    8 = 0 ∧ (addrPriv f_0.a = true → f_0.priv = true)) ∧ (S 1).m.farStopped f_0.a = false) ∧
    ((S 2).m.test.scan = false ∧ ((S 2).m.rp.far = some f_0 ∧ (S 2).m.pwr.aonUp = true ∧ farAddr f_0.a = true ∧ f_0.a %
    8 = 0 ∧ (addrPriv f_0.a = true → f_0.priv = true)) ∧ farAon f_0.a = false ∧ (S 2).m.clk.fstop = true) ∧
    ((S 6).m.test.scan = false ∧ ((S 6).m.rp.far = some f_1 ∧ (S 6).m.pwr.aonUp = true ∧ farAddr f_1.a = true ∧ f_1.a %
    8 = 0 ∧ (addrPriv f_1.a = true → f_1.priv = true)) ∧ farAon f_1.a = true ∧ (S 6).m.clk.astop = true) ∧
    ((S 0).m.test.scan = false ∧ (S 0).m.pwr.aonUp = true ∧ (S 0).m.rp.far = none ∧ farAddr (0x10018#24).toNat = true ∧
    (0x10018#24).toNat % 8 = 0 ∧ (addrPriv (0x10018#24).toNat = true → true = true)) ∧
    ((S 1).m.test.scan = false ∧ (S 1).m.rp.far ≠ none) ∧
    ((S 2).m.test.scan = false ∧ (S 2).m.rp.far = some f_0 ∧ (S 2).m.farStopped f_0.a = true) ∧
    ((S 1).m.test.scan = false ∧ (S 1).m.rp.far = some f_0 ∧ (S 1).m.farStopped f_0.a = false ∧ f_0.a = aEng 0 24 ∧
    f_0.write = some 5#64 ∧ (S 1).m.engLive 0 = true) ∧
    ((S 1).m.test.scan = false ∧ (S 1).m.rp.far = some f_0 ∧ (S 1).m.rp.hung = none) ∧
    ((S 4).m.test.scan = false ∧ (S 4).m.rp.hung ≠ none) ∧
    ((S 2).m.test.scan = false ∧ (S 2).m.rp.far = some f_0 ∧ f_0.a = aEng 0 24 ∧ f_0.write = some 5#64 ∧
    (S 2).m.clk.fstop = true ∧ (S 2).m.engLive 0 = true) :=
  by and_intros <;> decide +kernel

end FarAccess

namespace FabricTime

def kst (k : KSt) (ft : Nat) (f : Keeper → Keeper := id) : Machine.State := st
  (({ up with keep := f { up.keep with st := k, ft := ft * 65536 + 100, idle := 3 } } : Mach).setReg aTimeCfg (100 + 2 * 65536))
def states : List Machine.State :=
  [kst .track 1000,
   kst .frozen 1000 (fun k => { k with shadow := 70000000 }),
   kst .frozen 1000 (fun k => { k with shadow := 7000 }),
   kst .free 1000,
   kst .holdover 1000,
   kst .track 1000 (fun k => {k with idle := 100000})]
def S (i : Nat) : Machine.State := states.getD i (st up)

/-- The hypotheses of `Obligations.FabricTime` met, clause by clause. -/
theorem wit_FabricTime :
    ((S 0).m.test.scan = false ∧ (S 0).m.pwr.aonUp = true ∧ (S 0).m.clk.fstop = false ∧ (S 0).m.clk.astop = false ∧ crc8
    (1001#64) 64 0 ≠ 169#8) ∧
    (let k : Keeper := { (S 0).m.keep with tpFlag := !(S 0).m.keep.tpFlag, tpAck := !(S 0).m.keep.tpFlag };
    (S 0).m.test.scan = false ∧ (S 0).m.pwr.aonUp = true ∧ (S 0).m.clk.fstop = false ∧ (S 0).m.clk.astop = false ∧ crc8
    (1001#64) 64 0 = 174#8 ∧ false = false ∧ (k.st = KSt.track ∨ k.st = KSt.frozen)) ∧
    (let k : Keeper := { (S 3).m.keep with tpFlag := !(S 3).m.keep.tpFlag, tpAck := !(S 3).m.keep.tpFlag };
    (S 3).m.test.scan = false ∧ (S 3).m.pwr.aonUp = true ∧ (S 3).m.clk.fstop = false ∧ (S 3).m.clk.astop = false ∧ crc8
    (1001#64) 64 0 = 174#8 ∧ false = false ∧ (k.st = KSt.free ∨ k.st = KSt.holdover)) ∧
    (let k : Keeper := { (S 0).m.keep with tpFlag := !(S 0).m.keep.tpFlag, tpAck := !(S 0).m.keep.tpFlag };
    let d : ℤ := ↑(1001#64).toNat - ↑((S 0).m.ftAgo (0#16).toNat) / 65536;
    (S 0).m.test.scan = false ∧ (S 0).m.pwr.aonUp = true ∧ (S 0).m.clk.fstop = false ∧ (S 0).m.clk.astop = false ∧ crc8
    (1001#64) 64 0 = 174#8 ∧ true = true ∧ k.st = KSt.track ∧ d.natAbs ≤ 1) ∧
    (let k : Keeper := { (S 0).m.keep with tpFlag := !(S 0).m.keep.tpFlag, tpAck := !(S 0).m.keep.tpFlag };
    let d : ℤ := ↑(1001#64).toNat - ↑((S 0).m.ftAgo (3#16).toNat) / 65536;
    let lim : ℕ := bf ((S 0).m.reg aTimeCfg) 0 12;
    (S 0).m.test.scan = false ∧ (S 0).m.pwr.aonUp = true ∧ (S 0).m.clk.fstop = false ∧ (S 0).m.clk.astop = false ∧ crc8
    (1001#64) 64 0 = 174#8 ∧ true = true ∧ k.st = KSt.track ∧ 1 < d.natAbs ∧ d.natAbs ≤ lim) ∧
    (let k : Keeper := { (S 4).m.keep with tpFlag := !(S 4).m.keep.tpFlag, tpAck := !(S 4).m.keep.tpFlag };
    let d : ℤ := ↑(1001#64).toNat - ↑((S 4).m.ftAgo (0#16).toNat) / 65536;
    let lim : ℕ := bf ((S 4).m.reg aTimeCfg) 0 12;
    (S 4).m.test.scan = false ∧ (S 4).m.pwr.aonUp = true ∧ (S 4).m.clk.fstop = false ∧ (S 4).m.clk.astop = false ∧ crc8
    (1001#64) 64 0 = 174#8 ∧ true = true ∧ k.st = KSt.holdover ∧ (d.natAbs ≤ 1 ∨ d.natAbs ≤ lim)) ∧
    (let k : Keeper := { (S 1).m.keep with tpFlag := !(S 1).m.keep.tpFlag, tpAck := !(S 1).m.keep.tpFlag };
    (S 1).m.test.scan = false ∧ (S 1).m.pwr.aonUp = true ∧ (S 1).m.clk.fstop = false ∧ (S 1).m.clk.astop = false ∧ crc8
    (1001#64) 64 0 = 174#8 ∧ true = true ∧ k.st = KSt.frozen) ∧
    (let k : Keeper := { (S 3).m.keep with tpFlag := !(S 3).m.keep.tpFlag, tpAck := !(S 3).m.keep.tpFlag };
    (S 3).m.test.scan = false ∧ (S 3).m.pwr.aonUp = true ∧ (S 3).m.clk.fstop = false ∧ (S 3).m.clk.astop = false ∧ crc8
    (1001#64) 64 0 = 174#8 ∧ true = true ∧ k.st = KSt.free) ∧
    (let k : Keeper := { (S 0).m.keep with tpFlag := !(S 0).m.keep.tpFlag, tpAck := !(S 0).m.keep.tpFlag };
    let d : ℤ := ↑(1001#64).toNat - ↑((S 0).m.ftAgo (500#16).toNat) / 65536;
    let lim : ℕ := bf ((S 0).m.reg aTimeCfg) 0 12;
    (S 0).m.test.scan = false ∧ (S 0).m.pwr.aonUp = true ∧ (S 0).m.clk.fstop = false ∧ (S 0).m.clk.astop = false ∧ crc8
    (1001#64) 64 0 = 174#8 ∧ (k.st = KSt.track ∨ k.st = KSt.holdover) ∧ 1 < d.natAbs ∧ lim < d.natAbs) ∧
    ((S 5).m.test.scan = false ∧ ((S 5).m.keep.st = KSt.track ∨ (S 5).m.keep.st = KSt.frozen) ∧ max 1 (bf ((S 5).m.reg aTimeCfg)
    16 8) * usCycles (S 5).m.clk.mode ≤ (S 5).m.keep.idle) ∧
    ((S 0).m.test.scan = false ∧ ((S 0).m.keep.st = KSt.free ∨ (S 0).m.keep.st = KSt.holdover ∨ (S 0).m.keep.idle < max 1 (bf
    ((S 0).m.reg aTimeCfg) 16 8) * usCycles (S 0).m.clk.mode)) ∧
    ((S 1).m.test.scan = false ∧ (S 1).m.keep.st = KSt.frozen ∧ (S 1).m.keep.ft ≤ (S 1).m.keep.shadow) ∧
    ((S 2).m.test.scan = false ∧ (S 2).m.keep.st = KSt.frozen ∧ (S 2).m.keep.shadow < (S 2).m.keep.ft) :=
  by and_intros <;> decide +kernel

end FabricTime

namespace EventPosting

def all_m : List Mach :=
  [up.modEng 3 (fun x => { x with evq := [5] }),
   up.modEng 3 (fun x => { x with evq := List.replicate 32 5 }),
   up.modEng 3 (fun x => { x with state := .off })]
def m_0 : Mach := all_m[0]'(by decide +kernel)
def m_1 : Mach := all_m[1]'(by decide +kernel)
def m_2 : Mach := all_m[2]'(by decide +kernel)

/-- The hypotheses of `Obligations.EventPosting` met, clause by clause. -/
theorem wit_EventPosting :
    (let x : Eng := m_0.eng 3;
    0 < 13 ∧ 0 < 16 ∧ 0 < 2 ^ 16 ∧ 0 < 2 ^ 16 ∧ x.state ≠ EngSt.off ∧ x.evq.length < 32) ∧
    (let x : Eng := m_1.eng 3;
    0 < 13 ∧ 0 < 16 ∧ 0 < 2 ^ 16 ∧ 0 < 2 ^ 16 ∧ x.state ≠ EngSt.off ∧ 32 ≤ x.evq.length) ∧
    (let x : Eng := m_2.eng 3;
    0 < 13 ∧ 0 < 16 ∧ 0 < 2 ^ 16 ∧ 0 < 2 ^ 16 ∧ x.state = EngSt.off) :=
  by and_intros <;> decide +kernel

end EventPosting

namespace GateLists

def g1 : GateList := ⟨[100, 8 + 2^32, 200], 308, 999000⟩
def states : List Machine.State :=
  [mk (ins 0x82 0 1 0 (64 * 2^24)) [(1, 511)] 64 [2 + 64 * 2^32, 8, 100 + 5 * 2^32] (up.modNiu 511 (fun x =>
     { x with gateSt := 2 })),
   mk (ins 0x82 0 1 0 (64 * 2^24)) [(1, 511)] 64 [2 + 63 * 2^32, 8, 100 + 5 * 2^32] up,
   mk (ins 0x82 0 1 0 (64 * 2^24)) [(1, 511)] 64 [2 + 64 * 2^32, 8, 7 + 5 * 2^32] up,
   mk (ins 0x82 0 1 0 (64 * 2^24)) [(1, 511)] 64 [80 + 64 * 2^32, 8, 7 + 5 * 2^32] up,
   mk (ins 0x82 0 1 0 (65 * 2^24)) [(1, 511)] 64 [2 + 64 * 2^32, 8, 100 + 5 * 2^32] up,
   run (ins 0x83 0 1 2 0) [(1, 5), (2, 1000100)] up,
   run (ins 0x83 0 1 2 0) [(1, 5), (2, 1000100)]
     { up.modNiu 5 (fun x => { x with gateP := g1, gateSt := 1 }) with keep := { up.keep with st := .frozen } },
   run (ins 0x83 0 1 2 0) [(1, 5), (2, 1000100)]
     { up.modNiu 5 (fun x => { x with gateP := g1, gateSt := 1 }) with keep := Keeper.init },
   run (ins 0x83 0 1 2 0) [(1, 5), (2, 1000100)] (up.modNiu 5 (fun x => { x with gateP := { g1 with s := 1000099 }, gateSt := 2 })),
   st (eng 1 (ins 0x82 0 1 0 (64 * 2^24)) (fun x => { x with g := [(1, 511)] }) up),
   st (eng 1 (ins 0x83 0 1 0 0) (fun x => { x with g := [(1, 511)] }) up),
   mk (ins 0x82 0 1 0 (64 * 2^24)) [(1, 513)] 64 [2 + 64 * 2^32] up,
   mk (ins 0x82 0 1 0 (64 * 2^24)) [(1, 0x1000000000000)] 64 [] up,
   run (ins 0x83 0 1 2 0) [(1, 513)] up,
   run (ins 0x83 0 1 2 0) [(1, 516)] up,
   mk (ins 0x82 0 1 0 (64 * 2^24)) [(1, 511)] 64 [2 + 64 * 2^32, 8, 100 + 5 * 2^32] up,
   mk (ins 0x82 0 1 0 (64 * 2^24)) [(1, 0)] 64 ([64 + 1000 * 2^32] ++ List.replicate 64 8) up,
   mk (ins 0x82 0 1 0 (65472 * 2^24)) [(1, 0)] 65472 ([9 + 1000 * 2^32] ++ List.replicate 7 8) (up),
   run (ins 0x83 0 1 2 0) [(1, 5), (2, 1000100)] (up.modNiu 5 (fun x => { x with gateP := { g1 with s := 0 }, gateSt := 1 })),
   run (ins 0x83 0 1 2 (2^42)) [(1, 5), (2, 999500)] (up.modNiu 5 (fun x =>
     { x with gateP := { g1 with s := 2000000 }, gateSt := 2 })),
   run (ins 0x83 0 1 2 0) [(1, 5), (2, 1000099)] (up.modNiu 5 (fun x => { x with gateP := { g1 with s := 0 }, gateSt := 1 })),
   run (ins 0x84 15 1 0 0) [(1, 5)] (up.modNiu 5 (fun x => { x with gate := g1, gateIdx := 2 })),
   st (up.modNiu 5 (fun x => { x with gateP := g1, gateSt := 2 })),
   st (up.modNiu 5 (fun x => { x with gate := g1, gateCyc := 3 })),
   st ({ up.modNiu 5 (fun x => { x with gate := g1, gateCyc := 3 }) with keep := {up.keep with ft := 1000105 * 65536 }}),
   st ({ up.modNiu 5 (fun x => { x with gate := g1, gateCyc := 3 }) with keep := {up.keep with st := .frozen }})]
def all_g : List GateList := [g1]
def S (i : Nat) : Machine.State := states.getD i (st up)
def g_0 : GateList := all_g[0]'(by decide +kernel)

/-- The hypotheses of `Obligations.GateLists` met, clause by clause. -/
theorem wit_GateLists :
    (let x : Eng := (S 15).m.eng 0;
    let y : Niu := (S 15).m.niu 511;
    let d : ℕ → Word := fun i => x.sram.word ((bf (0x8201000040000000#64) 24 16 + 8 * i) % 65536);
    let cnt : ℕ := bf (d 0) 0 7;
    let ct : ℕ := bf (d 0) 32 32;
    BitVec.toNat (x.reg (wA 0x8201000040000000#64)) = 511 ∧ 511 < 512 ∧ inScope 0 (some (quadOf (511 / 4))) = true ∧ (S 15).m.domLive
    (511 / 4) = true ∧ Issues (S 15) 0 (0x8201000040000000#64) 130 ∧ bf (0x8201000040000000#64) 24 16 % 8 = 0 ∧ (1 ≤ cnt ∧ cnt ≤ 64
    ∧ bf (d 0) 7 25 = 0 ∧ 64 ≤ ct ∧ ∀ i < cnt, bf (d (i + 1)) 35 29 = 0 ∧ 8 ≤ bf (d (i + 1)) 0 32) ∧ y.gateSt ≠ 2) ∧
    (let x : Eng := (S 0).m.eng 0;
    let y : Niu := (S 0).m.niu 511;
    let d : ℕ → Word := fun i => x.sram.word ((bf (0x8201000040000000#64) 24 16 + 8 * i) % 65536);
    let cnt : ℕ := bf (d 0) 0 7;
    let ct : ℕ := bf (d 0) 32 32;
    BitVec.toNat (x.reg (wA 0x8201000040000000#64)) = 511 ∧ 511 < 512 ∧ inScope 0 (some (quadOf (511 / 4))) = true ∧ (S 0).m.domLive
    (511 / 4) = true ∧ Issues (S 0) 0 (0x8201000040000000#64) 130 ∧ bf (0x8201000040000000#64) 24 16 % 8 = 0 ∧ (1 ≤ cnt ∧ cnt ≤ 64 ∧
    bf (d 0) 7 25 = 0 ∧ 64 ≤ ct ∧ ∀ i < cnt, bf (d (i + 1)) 35 29 = 0 ∧ 8 ≤ bf (d (i + 1)) 0 32) ∧ y.gateSt = 2) ∧
    (let x : Eng := (S 1).m.eng 0;
    let d : ℕ → Word := fun i => x.sram.word ((bf (0x8201000040000000#64) 24 16 + 8 * i) % 65536);
    let cnt : ℕ := bf (d 0) 0 7;
    let ct : ℕ := bf (d 0) 32 32;
    BitVec.toNat (x.reg (wA 0x8201000040000000#64)) = 511 ∧ 511 < 512 ∧ inScope 0 (some (quadOf (511 / 4))) = true ∧ (S 1).m.domLive
    (511 / 4) = true ∧ Issues (S 1) 0 (0x8201000040000000#64) 130 ∧ bf (0x8201000040000000#64) 24 16 % 8 = 0 ∧ (¬(1 ≤ cnt ∧ cnt ≤ 64
    ∧ bf (d 0) 7 25 = 0 ∧ 64 ≤ ct ∧ ∀ i < cnt, bf (d (i + 1)) 35 29 = 0 ∧ 8 ≤ bf (d (i + 1)) 0 32))) ∧
    (let x : Eng := (S 4).m.eng 0;
    BitVec.toNat (x.reg (wA 0x8201000041000000#64)) = 511 ∧ 511 < 512 ∧ inScope 0 (some (quadOf (511 / 4))) = true ∧ (S 4).m.domLive
    (511 / 4) = true ∧ Issues (S 4) 0 (0x8201000041000000#64) 130 ∧ bf (0x8201000041000000#64) 24 16 % 8 ≠ 0) ∧
    (let x : Eng := (S 5).m.eng 0;
    let y : Niu := (S 5).m.niu 5;
    BitVec.toNat (x.reg (wA 0x8301200000000000#64)) = 5 ∧ 5 < 512 ∧ inScope 0 (some (quadOf (5 / 4))) = true ∧ (S 5).m.domLive (5 /
    4) = true ∧ Issues (S 5) 0 (0x8301200000000000#64) 131 ∧ (y.gateSt = 0 ∨ (S 5).m.keep.st = KSt.free ∨ (S 5).m.keep.st =
    KSt.frozen)) ∧
    (let x : Eng := (S 8).m.eng 0;
    let y : Niu := (S 8).m.niu 5;
    let now : ℕ := (S 8).m.ftNs;
    BitVec.toNat (x.reg (wA 0x8301200000000000#64)) = 5 ∧ 5 < 512 ∧ inScope 0 (some (quadOf (5 / 4))) = true ∧ (S 8).m.domLive (5 /
    4) = true ∧ Issues (S 8) 0 (0x8301200000000000#64) 131 ∧ ((S 8).m.keep.st = KSt.track ∨ (S 8).m.keep.st = KSt.holdover) ∧
    y.gateSt = 2 ∧ y.gateP.s < now + 100) ∧
    (let x : Eng := (S 18).m.eng 0;
    let y : Niu := (S 18).m.niu 5;
    let now : ℕ := (S 18).m.ftNs;
    let b : ℕ := BitVec.toNat (x.reg (wB 0x8301200000000000#64));
    BitVec.toNat (x.reg (wA 0x8301200000000000#64)) = 5 ∧ 5 < 512 ∧ inScope 0 (some (quadOf (5 / 4))) = true ∧ (S 18).m.domLive (5 /
    4) = true ∧ Issues (S 18) 0 (0x8301200000000000#64) 131 ∧ y.gateSt ≠ 0 ∧ ((S 18).m.keep.st = KSt.track ∨ (S 18).m.keep.st =
    KSt.holdover) ∧ (y.gateSt = 2 → now + 100 ≤ y.gateP.s) ∧ (0 ≠ 0 → bt (0x8301200000000000#64) 42 = true) ∧ (∀ j < 0, b + j *
    y.gateP.ct < now + 100) ∧ now + 100 ≤ b + 0 * y.gateP.ct) ∧
    (let x : Eng := (S 20).m.eng 0;
    let y : Niu := (S 20).m.niu 5;
    let now : ℕ := (S 20).m.ftNs;
    let b : ℕ := BitVec.toNat (x.reg (wB 0x8301200000000000#64));
    BitVec.toNat (x.reg (wA 0x8301200000000000#64)) = 5 ∧ 5 < 512 ∧ inScope 0 (some (quadOf (5 / 4))) = true ∧ (S 20).m.domLive (5 /
    4) = true ∧ Issues (S 20) 0 (0x8301200000000000#64) 131 ∧ y.gateSt ≠ 0 ∧ ((S 20).m.keep.st = KSt.track ∨ (S 20).m.keep.st =
    KSt.holdover) ∧ (y.gateSt = 2 → now + 100 ≤ y.gateP.s) ∧ bt (0x8301200000000000#64) 42 = false ∧ b < now + 100) ∧
    (let x : Eng := (S 21).m.eng 0;
    let y : Niu := (S 21).m.niu 5;
    BitVec.toNat (x.reg (wA 0x84F1000000000000#64)) = 5 ∧ 5 < 512 ∧ inScope 0 (some (quadOf (5 / 4))) = true ∧ (S 21).m.domLive (5 /
    4) = true ∧ Issues (S 21) 0 (0x84F1000000000000#64) 132 ∧ y.gate.ents ≠ []) ∧
    (let a : ℕ := BitVec.toNat (((S 9).m.eng 1).reg (wA 0x8201000040000000#64));
    Issues (S 9) 1 (0x8201000040000000#64) 130 ∧ a < 516 ∧ inScope 1 (some (quadOf (epTile a))) = false) ∧
    (let a : ℕ := BitVec.toNat (((S 10).m.eng 1).reg (wA 0x8301000000000000#64));
    Issues (S 10) 1 (0x8301000000000000#64) 131 ∧ a < 516 ∧ inScope 1 (some (quadOf (epTile a))) = false) ∧
    (let a : ℕ := BitVec.toNat (((S 11).m.eng 0).reg (wA 0x8201000040000000#64));
    Issues (S 11) 0 (0x8201000040000000#64) 130 ∧ 512 ≤ a ∧ (a < 516 → inScope 0 (some (quadOf (epTile a))) = true) ∧ bf
    (0x8201000040000000#64) 24 16 % 8 = 0) ∧
    (let a : ℕ := BitVec.toNat (((S 13).m.eng 0).reg (wA 0x8301200000000000#64));
    Issues (S 13) 0 (0x8301200000000000#64) 131 ∧ 512 ≤ a ∧ (a < 516 → inScope 0 (some (quadOf (epTile a))) = true)) ∧
    (let y : Niu := (S 22).m.niu 5;
    let t : ℕ := (S 22).m.ftNs;
    let upTo : ℕ → ℕ := fun j => (List.map (fun w => bf w 0 32) (List.take (j + 1) g_0.ents)).sum;
    (S 22).m.test.scan = false ∧ g_0.s ≤ t ∧ 0 < g_0.ct ∧ g_0.ents.length ≤ 64 ∧ 0 < g_0.ents.length ∧ (∀ j < 0, upTo
    j ≤ (t - g_0.s) % g_0.ct) ∧ ((t - g_0.s) % g_0.ct < upTo 0 ∨ 0 + 1 = g_0.ents.length) ∧ y.gateSt = 2 ∧ y.gateP =
    g_0) ∧
    (let y : Niu := (S 23).m.niu 5;
    let t : ℕ := (S 23).m.ftNs;
    let upTo : ℕ → ℕ := fun j => (List.map (fun w => bf w 0 32) (List.take (j + 1) g_0.ents)).sum;
    (S 23).m.test.scan = false ∧ g_0.s ≤ t ∧ 0 < g_0.ct ∧ g_0.ents.length ≤ 64 ∧ 0 < g_0.ents.length ∧ (∀ j < 0, upTo
    j ≤ (t - g_0.s) % g_0.ct) ∧ ((t - g_0.s) % g_0.ct < upTo 0 ∨ 0 + 1 = g_0.ents.length) ∧ y.gate = g_0 ∧
    (S 23).m.keep.st ≠ KSt.frozen ∧ y.gateCyc = (t - g_0.s) / g_0.ct) ∧
    (let y : Niu := (S 25).m.niu 5;
    let t : ℕ := (S 25).m.ftNs;
    let upTo : ℕ → ℕ := fun j => (List.map (fun w => bf w 0 32) (List.take (j + 1) g_0.ents)).sum;
    (S 25).m.test.scan = false ∧ g_0.s ≤ t ∧ 0 < g_0.ct ∧ g_0.ents.length ≤ 64 ∧ 0 < g_0.ents.length ∧ (∀ j < 0, upTo
    j ≤ (t - g_0.s) % g_0.ct) ∧ ((t - g_0.s) % g_0.ct < upTo 0 ∨ 0 + 1 = g_0.ents.length) ∧ y.gate = g_0 ∧
    (S 25).m.keep.st = KSt.frozen) :=
  by and_intros <;> decide +kernel

end GateLists

namespace RefillTick

def sh (n k : Nat) (h : Shaper) (m : Mach) : Mach := m.modNiu n (fun x => { x with shp := Tab.set (Shaper.init n) x.shp k h })
def h0 : Shaper := { Shaper.off with mode := 1, rate := 100, burst := 20, tok := 250, pend := none }
def states : List Machine.State :=
  [st (sh 5 3 h0 up),
   st (sh 5 3 { h0 with pend := some (2, 50, 1) } up),
   st (sh 5 3 { h0 with mode := 2, tok := -100 } up),
   st { up with keep := { up.keep with st := .frozen } },
   st (sh 5 3 {h0 with pend := some (0,0,0)} (up.modDom 1 (fun d => { d with live := false })))]
def S (i : Nat) : Machine.State := states.getD i (st up)

/-- The hypotheses of `Obligations.RefillTick` met, clause by clause. -/
theorem wit_RefillTick :
    ((S 3).m.test.scan = false ∧ ((S 3).m.keep.st = KSt.frozen ∨ (S 3).m.atMultiple 20 = false ∨ (S 3).m.ftNs / 20 =
    (S 3).m.keep.ticked)) ∧
    ((S 0).m.test.scan = false ∧ (S 0).m.keep.st ≠ KSt.frozen ∧ (S 0).m.atMultiple 20 = true ∧ (S 0).m.ftNs / 20 ≠
    (S 0).m.keep.ticked ∧ 5 < 516 ∧ (S 0).m.domLive (epTile 5) = true) ∧
    ((S 0).m.test.scan = false ∧ (S 0).m.keep.st ≠ KSt.frozen ∧ (S 0).m.atMultiple 20 = true ∧ (S 0).m.ftNs / 20 ≠
    (S 0).m.keep.ticked ∧ 0 < 256) ∧
    ((S 4).m.test.scan = false ∧ (S 4).m.keep.st ≠ KSt.frozen ∧ (S 4).m.atMultiple 20 = true ∧ (S 4).m.ftNs / 20 ≠
    (S 4).m.keep.ticked ∧ (S 4).m.domLive (epTile 5) = false) :=
  by and_intros <;> decide +kernel

end RefillTick

namespace GuardInstructions

def gd : Guard := ⟨[(0, 5)], false, 3⟩
def d4 : List Word := [0x8000000000000000, 0x0000000000000FC0, 7, 9]
def states : List Machine.State :=
  [mk (ins 0xA0 0 1 0 (64 * 2^24 + 15)) [(1, 511)] 64 d4 up,
   { mk (ins 0xA0 0 1 0 (64 * 2^24 + 0)) [(1, 5)] 64 d4 up with guards := [(5, gd), (6, gd)]},
   { mk (ins 0xA0 0 1 0 (64 * 2^24 + 2)) [(1, 5)] 64 d4 up with guards := [(5, gd), (6, gd)]},
   { run (ins 0xA0 0 1 2 (2^42)) [(1, 5), (2, 1)] up with guards := [(5, gd), (6, gd)]},
   { run (ins 0xA0 0 1 2 (2^42)) [(1, 5), (2, 1)] up with guards := [(5, { gd with lock := 0x10000 }), (6, gd)]},
   { run (ins 0xA1 0 1 0 0x10004) [(1, 5)] up with guards := [(5, gd), (6, gd)]},
   run (ins 0xA2 0 1 0 7) [(1, 5)] (up.modNiu 5 (fun x => { x with gNew := 3, gOld := 1 })),
   st ((up.modNiu 5 (fun x => { x with gSync := some 0, gLog := [5,6] })).modEng 0 (fun x =>
     { x with state := .waiting, wait := .sync 5, limit := some 4 })),
   st ((up.modNiu 5 (fun x => { x with gSync := some 0, gOld := 1 })).modEng 0 (fun x =>
     { x with state := .waiting, wait := .sync 5, limit := some 4 }))]
def S (i : Nat) : Machine.State := states.getD i (st up)

/-- The hypotheses of `Obligations.GuardInstructions` met, clause by clause. -/
theorem wit_GuardInstructions :
    (let x : Eng := (S 0).m.eng 0;
    let d : ℕ → Word := fun i => x.sram.word ((bf (0xA00100004000000F#64) 24 16 + 8 * i) % 65536);
    let r : ℕ := bf (0xA00100004000000F#64) 0 4;
    let g : Guard := (S 0).guard 511;
    BitVec.toNat (x.reg (wA 0xA00100004000000F#64)) = 511 ∧ 511 < 512 ∧ inScope 0 (some (quadOf (511 / 4))) = true ∧ Issues (S 0) 0
    (0xA00100004000000F#64) 160 ∧ bt (0xA00100004000000F#64) 42 = false ∧ bf (0xA00100004000000F#64) 24 16 % 8 = 0 ∧ gdDescOk (d
    0) (d 1) = true ∧ bt g.lock r = false ∧ 0 ≠ 511) ∧
    (let x : Eng := (S 0).m.eng 0;
    let d : ℕ → Word := fun i => x.sram.word ((bf (0xA00100004000000F#64) 24 16 + 8 * i) % 65536);
    let r : ℕ := bf (0xA00100004000000F#64) 0 4;
    let g : Guard := (S 0).guard 511;
    BitVec.toNat (x.reg (wA 0xA00100004000000F#64)) = 511 ∧ 511 < 512 ∧ inScope 0 (some (quadOf (511 / 4))) = true ∧ Issues (S 0) 0
    (0xA00100004000000F#64) 160 ∧ bt (0xA00100004000000F#64) 42 = false ∧ bf (0xA00100004000000F#64) 24 16 % 8 = 0 ∧ gdDescOk (d
    0) (d 1) = true ∧ bt g.lock r = false ∧ 0 ≠ r) ∧
    (let x : Eng := (S 1).m.eng 0;
    let d : ℕ → Word := fun i => x.sram.word ((bf (0xA001000040000000#64) 24 16 + 8 * i) % 65536);
    let r : ℕ := bf (0xA001000040000000#64) 0 4;
    let g : Guard := (S 1).guard 5;
    BitVec.toNat (x.reg (wA 0xA001000040000000#64)) = 5 ∧ 5 < 512 ∧ inScope 0 (some (quadOf (5 / 4))) = true ∧ Issues (S 1) 0
    (0xA001000040000000#64) 160 ∧ bt (0xA001000040000000#64) 42 = false ∧ bf (0xA001000040000000#64) 24 16 % 8 = 0 ∧ gdDescOk (d
    0) (d 1) = true ∧ bt g.lock r = true) ∧
    (let x : Eng := (S 3).m.eng 0;
    let g : Guard := (S 3).guard 5;
    let b : Word := x.reg (wB 0xA001240000000000#64);
    BitVec.toNat (x.reg (wA 0xA001240000000000#64)) = 5 ∧ 5 < 512 ∧ inScope 0 (some (quadOf (5 / 4))) = true ∧ Issues (S 3) 0
    (0xA001240000000000#64) 160 ∧ bt (0xA001240000000000#64) 42 = true ∧ BitVec.toNat b < 2 ∧ bt g.lock 16 = false ∧ 0 ≠ 5) ∧
    (let x : Eng := (S 4).m.eng 0;
    let g : Guard := (S 4).guard 5;
    let b : Word := x.reg (wB 0xA001240000000000#64);
    BitVec.toNat (x.reg (wA 0xA001240000000000#64)) = 5 ∧ 5 < 512 ∧ inScope 0 (some (quadOf (5 / 4))) = true ∧ Issues (S 4) 0
    (0xA001240000000000#64) 160 ∧ bt (0xA001240000000000#64) 42 = true ∧ BitVec.toNat b < 2 ∧ bt g.lock 16 = true) ∧
    (let x : Eng := (S 5).m.eng 0;
    BitVec.toNat (x.reg (wA 0xA101000000010004#64)) = 5 ∧ 5 < 512 ∧ inScope 0 (some (quadOf (5 / 4))) = true ∧ Issues (S 5) 0
    (0xA101000000010004#64) 161 ∧ bf (0xA101000000010004#64) 0 17 ≠ 0 ∧ 0 ≠ 5) ∧
    (let x : Eng := (S 6).m.eng 0;
    let y : Niu := (S 6).m.niu 5;
    (S 6).m.domLive (5 / 4) = true ∧ Issues (S 6) 0 (0xA201000000000007#64) 162 ∧ BitVec.toNat (x.reg (wA
    0xA201000000000007#64)) = 5 ∧ inScope 0 (some (quadOf (5 / 4))) = true ∧ y.gSync = none) ∧
    (let x : Eng := (S 7).m.eng 0;
    let y : Niu := (S 7).m.niu 5;
    (S 7).m.domLive (5 / 4) = true ∧ (S 7).m.test.scan = false ∧ y.gSync = some 0 ∧ y.gOld = 0 ∧ x.wait = Wait.sync 5) ∧
    (let y : Niu := (S 8).m.niu 5;
    (S 8).m.domLive (5 / 4) = true ∧ (S 8).m.test.scan = false ∧ y.gSync ≠ none ∧ y.gOld ≠ 0) ∧
    ((S 0).m.domLive (5 / 4) = true ∧ Takes (S 0) (aGd 5 32) ∧ bt (1#64) 0 = true) :=
  by and_intros <;> decide +kernel

end GuardInstructions

namespace RouteEpochs

def img : List FlitBits := 0xFFFFFFFFFFFFFFFFFFFFFFFFFFFFFFFF :: List.replicate 768 0
def nxt : Mach := { up with rt := { up.rt with oth := imgOfLines img, othE := 1, st := .next } }
def prv : Mach := { up with rt := { up.rt with oth := imgOfLines img, othE := 7, st := .prev } }
def whole (code : Option Nat) (b : Bool) : Machine.State := st
  ({ up with img := { ImgRead.init with on := true, got := if b then [(0, 0xFFFFFFFFFFFFFFFFFFFFFFFFFFFFFFFF)] else [(5, 0xFFFFFFFFFFFFFFFFFFFFFFFFFFFFFFFFFFFFFFFFFFFFF)], code := code } }.modEng
  0 (fun x => { x with state := .waiting, wait := .image }))
def ab : Machine.State := st
  { (whole none true).m with straps := ⟨3, false⟩, img := { (whole none true).m.img with got := [(0, mkf 512 166 2 1)] } }
def states : List Machine.State :=
  [whole none true,
   whole none false,
   whole (some 9) true,
   ab,
   st { (whole none true).m with img := { (whole none true).m.img with out := 1 } },
   run (ins 0x40 0 1 0 0) [(1, 0x8005000000000040)] { up with rt := { up.rt with st := .prev } },
   run (ins 0x40 0 1 0 0) [(1, 0x8005000000000040)] up,
   run (ins 0x40 0 1 0 0) [(1, 0x8005000000000000)] up,
   run (ins 0x40 0 1 0 0) [(1, 0x8000000000000040)] up,
   run (ins 0x41 0 0 0 0) [] nxt,
   run (ins 0x42 0 0 0 5) [] prv,
   st ((prv.modEng 0 (fun x => { x with state := .waiting, wait := .retire, limit := some 5})).modLink 7 (fun k =>
     { k with st := .up, pend := true })),
   st ((prv.modVc (kVc 3 1 2) (fun b => {b with q := [⟨true,true,mkf 512 53 3 7,0⟩], hd := mkf 512 53 3 7 }))),
   st { prv with rt := { prv.rt with casting := true, reached := [4] } }]
def all_m : List Mach := states.map (·.m)
def S (i : Nat) : Machine.State := states.getD i (st up)
def m_0 : Mach := all_m[0]'(by decide +kernel)
def m_13 : Mach := all_m[13]'(by decide +kernel)

/-- The hypotheses of `Obligations.RouteEpochs` met, clause by clause. -/
theorem wit_RouteEpochs :
    (let x : Eng := (S 0).m.eng 0;
    let g : Img := imgOfLines (List.map (fun i => Tab.get (fun _ => 0) (S 0).m.img.got i) (List.range 769));
    (S 0).m.imgBad g = false ∧ (S 0).m.test.scan = false ∧ x.state = EngSt.waiting ∧ x.wait = Wait.image ∧ (S 0).m.img.whole =
    true ∧ (S 0).m.img.code = none ∧ (S 0).m.imgAbsent g = false) ∧
    (let x : Eng := (S 11).m.eng 0;
    let r : Routes := (S 11).m.rt;
    (S 11).m.epochGone r.othE = true ∧ (S 11).m.test.scan = false ∧ (S 11).m.clk.fstop = false ∧ x.state = EngSt.waiting ∧ x.wait
    = Wait.retire ∧ r.st = OtherSt.prev ∧ ((S 11).m.link 7).pend = true) ∧
    (let x : Eng := (S 11).m.eng 0;
    let r : Routes := (S 11).m.rt;
    (S 11).m.epochGone r.othE = true ∧ (S 11).m.test.scan = false ∧ (S 11).m.clk.fstop = false ∧ x.state = EngSt.waiting ∧ x.wait
    = Wait.retire ∧ r.st = OtherSt.prev ∧ ((S 11).m.link 8).pend = false) ∧
    (let x : Eng := (S 6).m.eng 0;
    let r : Routes := (S 6).m.rt;
    Issues (S 6) 0 (0x4001000000000000#64) 64 ∧ ((S 6).m.token = none ∨ (S 6).m.token = some 0) ∧ bf (x.reg (wA
    0x4001000000000000#64)) 0 6 = 0 ∧ bt (x.reg (wA 0x4001000000000000#64)) 63 = true ∧ r.st ≠ OtherSt.prev ∧ (S 6).m.imageNiu 0 ≠
    none) ∧
    (let x : Eng := (S 5).m.eng 0;
    let r : Routes := (S 5).m.rt;
    Issues (S 5) 0 (0x4001000000000000#64) 64 ∧ ((S 5).m.token = none ∨ (S 5).m.token = some 0) ∧ bf (x.reg (wA
    0x4001000000000000#64)) 0 6 = 0 ∧ bt (x.reg (wA 0x4001000000000000#64)) 63 = true ∧ r.st = OtherSt.prev) ∧
    (let x : Eng := (S 3).m.eng 0;
    let g : Img := imgOfLines (List.map (fun i => Tab.get (fun _ => 0) (S 3).m.img.got i) (List.range 769));
    (S 3).m.test.scan = false ∧ x.state = EngSt.waiting ∧ x.wait = Wait.image ∧ (S 3).m.img.whole = true ∧ (S 3).m.img.code = none
    ∧ (S 3).m.imgAbsent g = true) ∧
    (let x : Eng := (S 1).m.eng 0;
    let g : Img := imgOfLines (List.map (fun i => Tab.get (fun _ => 0) (S 1).m.img.got i) (List.range 769));
    (S 1).m.test.scan = false ∧ x.state = EngSt.waiting ∧ x.wait = Wait.image ∧ (S 1).m.img.whole = true ∧ (S 1).m.img.code = none
    ∧ (S 1).m.imgAbsent g = false ∧ (S 1).m.imgBad g = true) ∧
    (let x : Eng := (S 2).m.eng 0;
    (S 2).m.test.scan = false ∧ x.state = EngSt.waiting ∧ x.wait = Wait.image ∧ (S 2).m.img.whole = true ∧ (S 2).m.img.code = some
    9) ∧
    (let x : Eng := (S 4).m.eng 0;
    (S 4).m.test.scan = false ∧ x.state = EngSt.waiting ∧ x.wait = Wait.image ∧ (S 4).m.img.whole = false) ∧
    (let r : Routes := (S 9).m.rt;
    Issues (S 9) 0 (0x4100000000000000#64) 65 ∧ ((S 9).m.token = none ∨ (S 9).m.token = some 0) ∧ r.st = OtherSt.next ∧
    ((S 9).m.pendLinks.any fun (n : ℕ) => (S 9).m.imgUses r.oth n || (S 9).m.treeUses n) = false) ∧
    (let r : Routes := (S 10).m.rt;
    Issues (S 10) 0 (0x4200000000000005#64) 66 ∧ ((S 10).m.token = none ∨ (S 10).m.token = some 0) ∧ r.st = OtherSt.prev) ∧
    (let r : Routes := (S 12).m.rt;
    (S 12).m.test.scan = false ∧ ((S 12).m.clk.fstop = true ∨ (S 12).m.epochGone r.othE = false)) ∧
    (let r : Routes := (S 13).m.rt;
    (S 13).m.test.scan = false ∧ r.casting = true ∧ r.reached.contains 0 = false) ∧
    (let r : Routes := (S 13).m.rt;
    (S 13).m.test.scan = false ∧ r.casting = true ∧ r.reached.contains (1024 + 5) = false) ∧
    (m_0.rt.casting = false) ∧
    (m_13.rt.casting = true ∧ m_13.rt.reached.contains 4 = true) ∧
    (m_13.rt.casting = true ∧ m_13.rt.reached.contains 5 = false) :=
  ⟨by
    intro x g
    exact ⟨good_image (by decide +kernel), by decide +kernel⟩,
   by
    intro x r
    exact ⟨Mach.epochGone_empty _ rfl rfl rfl rfl rfl rfl, by decide +kernel⟩,
   by
    intro x r
    exact ⟨Mach.epochGone_empty _ rfl rfl rfl rfl rfl rfl, by decide +kernel⟩,
   by and_intros <;> decide +kernel⟩

end RouteEpochs

namespace LinkTraining

def lk (n : Nat) (s : LinkSt) (m : Mach) : Mach := m.modLink n (fun k => { k with st := s })
def states : List Machine.State :=
  [run (ins 0x43 0 1 0 0) [(1, 231)] (lk 231 .up up),
   run (ins 0x43 0 1 0 0) [(1, 231)] (lk 231 .excl up),
   run (ins 0x44 0 1 0 0) [(1, 231)] ((lk 231 .up up).modLink 231 (fun k => { k with pend := true})),
   run (ins 0x44 0 1 0 0) [(1, 231)] (lk 231 .excl up),
   run (ins 0x44 0 1 0 0) [(1, 231)] (lk 231 .dead up),
   run (ins 0x44 0 1 0 0) [(1, 231)] (lk 231 .down up),
   run (ins 0x44 0 1 0 0) [(1, 231)] ((lk 231 .excl up).modDom 111 (fun d => {d with st := .off})),
   run (ins 0x45 0 1 2 0) [(1, 231), (2, 0x1F)] (lk 231 .up up),
   run (ins 0x45 0 1 2 (2^24)) [(1, 231), (2, 0x110)] ((lk 231 .up up).modDir 463 (fun d => { d with fail := 7 })),
   run (ins 0x45 0 1 2 0) [(1, 231), (2, 0x3F)] (lk 231 .up up),
   st (lk 231 .train up),
   run (ins 0x45 0 1 2 0) [(1, 231), (2, 0x1F)] up,
   run (ins 0x45 0 1 2 0) [(1, 231), (2, 0x21F)] (lk 231 .up up),
   run (ins 0x45 0 1 2 0) [(1, 231), (2, 0)] (lk 231 .up up),
   run (ins 0x45 0 1 2 (2^24)) [(1, 231), (2, 3)] ((lk 231 .up up).modDir 463 (fun d => { d with fail := 7 })),
   run (ins 0x44 0 1 0 0) [(1, 231)] ((lk 231 .excl up).modDom 127 (fun d => {d with st := .off})),
   st ((lk 231 .train up).modLink 231 (fun k => { k with incl := true})),
   st (up)]
def S (i : Nat) : Machine.State := states.getD i (st up)

/-- The hypotheses of `Obligations.LinkTraining` met, clause by clause. -/
theorem wit_LinkTraining :
    (let x : Eng := (S 0).m.eng 0;
    let k : Link := (S 0).m.link 231;
    BitVec.toNat (x.reg (wA 0x4301000000000000#64)) = 231 ∧ inScope 0 (some (quadOf (linkTile 231))) = true ∧ Issues (S 0) 0
    (0x4301000000000000#64) 67 ∧ k.st ≠ LinkSt.excl) ∧
    (let x : Eng := (S 1).m.eng 0;
    let k : Link := (S 1).m.link 231;
    BitVec.toNat (x.reg (wA 0x4301000000000000#64)) = 231 ∧ inScope 0 (some (quadOf (linkTile 231))) = true ∧ Issues (S 1) 0
    (0x4301000000000000#64) 67 ∧ k.st = LinkSt.excl) ∧
    (let x : Eng := (S 2).m.eng 0;
    let k : Link := (S 2).m.link 231;
    BitVec.toNat (x.reg (wA 0x4401000000000000#64)) = 231 ∧ inScope 0 (some (quadOf (linkTile 231))) = true ∧ Issues (S 2) 0
    (0x4401000000000000#64) 68 ∧ (k.st = LinkSt.up ∨ k.st = LinkSt.train)) ∧
    (let x : Eng := (S 3).m.eng 0;
    let k : Link := (S 3).m.link 231;
    BitVec.toNat (x.reg (wA 0x4401000000000000#64)) = 231 ∧ inScope 0 (some (quadOf (linkTile 231))) = true ∧ Issues (S 3) 0
    (0x4401000000000000#64) 68 ∧ k.st = LinkSt.excl ∧ (S 3).m.tileDown (linkTile 231) = false ∧ (S 3).m.tileDown (linkTile2 231) =
    false) ∧
    (let x : Eng := (S 4).m.eng 0;
    let k : Link := (S 4).m.link 231;
    BitVec.toNat (x.reg (wA 0x4401000000000000#64)) = 231 ∧ inScope 0 (some (quadOf (linkTile 231))) = true ∧ Issues (S 4) 0
    (0x4401000000000000#64) 68 ∧ (k.st = LinkSt.dead ∨ k.st = LinkSt.down ∨ k.st = LinkSt.excl ∧ ((S 4).m.tileDown (linkTile 231) =
    true ∨ (S 4).m.tileDown (linkTile2 231) = true))) ∧
    (let x : Eng := (S 7).m.eng 0;
    let k : Link := (S 7).m.link 231;
    let l : ℕ := 2 * 231 + b1 (bt (0x4501200000000000#64) 24);
    let bad : BitVec 9 := BitVec.extractLsb' 0 9 (x.reg (wB 0x4501200000000000#64));
    let mask : BitVec 9 := ((S 7).m.dir l).mask;
    BitVec.toNat (x.reg (wA 0x4501200000000000#64)) = 231 ∧ inScope 0 (some (quadOf (linkTile 231))) = true ∧ Issues (S 7) 0
    (0x4501200000000000#64) 69 ∧ bf (x.reg (wB 0x4501200000000000#64)) 9 55 = 0 ∧ k.st = LinkSt.up ∧ pop (mask ||| bad) 9 ≤ 5 ∧ bad
    &&& ~~~mask ≠ 0 ∧ 0 ≠ l ∧ 0 ≠ dirBack l) ∧
    (let x : Eng := (S 13).m.eng 0;
    let k : Link := (S 13).m.link 231;
    let l : ℕ := 2 * 231 + b1 (bt (0x4501200000000000#64) 24);
    let bad : BitVec 9 := BitVec.extractLsb' 0 9 (x.reg (wB 0x4501200000000000#64));
    let mask : BitVec 9 := ((S 13).m.dir l).mask;
    BitVec.toNat (x.reg (wA 0x4501200000000000#64)) = 231 ∧ inScope 0 (some (quadOf (linkTile 231))) = true ∧ Issues (S 13) 0
    (0x4501200000000000#64) 69 ∧ bf (x.reg (wB 0x4501200000000000#64)) 9 55 = 0 ∧ k.st = LinkSt.up ∧ pop (mask ||| bad) 9 ≤ 5 ∧ bad
    &&& ~~~mask = 0) ∧
    (let x : Eng := (S 11).m.eng 0;
    let k : Link := (S 11).m.link 231;
    let l : ℕ := 2 * 231 + b1 (bt (0x4501200000000000#64) 24);
    let bad : BitVec 9 := BitVec.extractLsb' 0 9 (x.reg (wB 0x4501200000000000#64));
    let mask : BitVec 9 := ((S 11).m.dir l).mask;
    BitVec.toNat (x.reg (wA 0x4501200000000000#64)) = 231 ∧ inScope 0 (some (quadOf (linkTile 231))) = true ∧ Issues (S 11) 0
    (0x4501200000000000#64) 69 ∧ bf (x.reg (wB 0x4501200000000000#64)) 9 55 = 0 ∧ k.st ≠ LinkSt.up ∧ pop (mask ||| bad) 9 ≤ 5) ∧
    (let x : Eng := (S 9).m.eng 0;
    let l : ℕ := 2 * 231 + b1 (bt (0x4501200000000000#64) 24);
    let bad : BitVec 9 := BitVec.extractLsb' 0 9 (x.reg (wB 0x4501200000000000#64));
    let mask : BitVec 9 := ((S 9).m.dir l).mask;
    BitVec.toNat (x.reg (wA 0x4501200000000000#64)) = 231 ∧ inScope 0 (some (quadOf (linkTile 231))) = true ∧ Issues (S 9) 0
    (0x4501200000000000#64) 69 ∧ (bf (x.reg (wB 0x4501200000000000#64)) 9 55 ≠ 0 ∨ 5 < pop (mask ||| bad) 9)) ∧
    (let k : Link := (S 0).m.link 231;
    (S 0).m.test.scan = false ∧ (k.st ≠ LinkSt.train ∨ (S 0).m.clk.fstop = true)) ∧
    (let k : Link := (S 10).m.link 231;
    (S 10).m.test.scan = false ∧ k.st = LinkSt.train ∧ (S 10).m.clk.fstop = false ∧ false = false ∧ pop (0#9) 9 ≤ 5 ∧ pop (31#9) 9 ≤
    5) ∧
    (let k : Link := (S 16).m.link 231;
    (S 16).m.test.scan = false ∧ k.st = LinkSt.train ∧ (S 16).m.clk.fstop = false ∧ (true = true ∨ 5 < pop (0#9) 9 ∨ 5 < pop (31#9)
    9) ∧ k.incl = true) ∧
    (let k : Link := (S 10).m.link 231;
    (S 10).m.test.scan = false ∧ k.st = LinkSt.train ∧ (S 10).m.clk.fstop = false ∧ (true = true ∨ 5 < pop (0#9) 9 ∨ 5 < pop (31#9)
    9) ∧ k.incl = false) ∧
    (pop (0#9) 9 = 0) ∧
    (pop (1#9) 9 = 1) ∧
    (2 ≤ pop (3#9) 9) :=
  by and_intros <;> decide +kernel

end LinkTraining

namespace LinkSlots

def hd (dst la opc tc : Nat) : FlitBits := mkf 512 27 10 dst ||| mkf 512 8 3 la ||| mkf 512 58 6 opc ||| mkf 512 56 2 tc
def lk : Mach := (up.modLink 0 (fun k => { k with st := .up}))
def f1 : Flit := fl true true (hd 9 1 1 1)
def f2 : Flit := fl false true 77
def s1 : Slot := ⟨2, true, 15, 0, some f1⟩
def s2 : Slot := ⟨3, false, 15, 0, some f2⟩
def lmx : Slot := ⟨12, true, 15, 0x3F, none⟩
def s14 : Slot := ⟨14, false, 3, 0, some f2⟩
def lq : Slot := ⟨12, false, 15, 0x203, none⟩
def lm : Slot := ⟨12, true, 15, 0x203, none⟩
def states : List Machine.State :=
  [st (lk.modDir 1 (fun d => { d with sent := [s1, s2] })),
   st (lk.modDir 1 (fun d => { d with sent := [s2] })),
   st (lk.modDir 1 (fun d => { d with sent := [s1], nak := true, tries := 1, half1 := none })),
   st (lk.modDir 1 (fun d => { d with sent := [lq, s1] })),
   st (lk.modDir 1 (fun d => { d with sent := [lm, s1] })),
   st (lk.modDir 1 (fun d => { d with sent := [lmx, s1] })),
   st (lk.modDir 1 (fun d => { d with want := some 3, errs := [0,0,0,0,0,0,0,0,9] })),
   st (lk.modDir 1 (fun d => { d with errs := [0,0,0,0,0,0,0,0,9] }) |>.setReg (aLinkCfg 0) (8 * 65536)),
   st (lk.modDir 1 (fun d => { d with fail := 0x1F, errs := [0,0,0,0,0,0,0,0,9] }) |>.setReg (aLinkCfg 0) (8 * 65536)),
   st ((lk.modDir 1 (fun d => { d with half := true, sent := [{ s1 with crd := 3 }] })).modOut (kVc (dirTo 1) (dirInput 1) 3) (fun
     o => { o with used := 2 })),
   st ((lk.modDir 1 (fun d => { d with half := true, half1 := some (2, f1), sent := [s2, s14] })).modOut (kVc (dirTo 1) (dirInput
     1) 3) (fun o => { o with used := 2 })),
   st ((lk.modDir 1 (fun d => { d with sent := [{ s1 with crd := 3 }] })).modOut (kVc (dirTo 1) (dirInput 1) 3) (fun o =>
     { o with used := 2 }))]
def all_b : List Slot := [s2]
def all_p : List Flit := [f2]
def all_c : List Slot := [s1,s2,lq,lm,lmx,s14,{ s1 with crd := 3 }]
def all_rest : List (List Slot) := [[], [s1], [s2], [s14]]
def all_f : List Flit := [f1, f2]
def S (i : Nat) : Machine.State := states.getD i (st up)
def c_6 : Slot := all_c[6]'(by decide +kernel)
def rest_0 : List Slot := all_rest[0]'(by decide +kernel)
def f_0 : Flit := all_f[0]'(by decide +kernel)
def b_0 : Slot := all_b[0]'(by decide +kernel)
def c_5 : Slot := all_c[5]'(by decide +kernel)
def p_0 : Flit := all_p[0]'(by decide +kernel)
def c_0 : Slot := all_c[0]'(by decide +kernel)
def rest_2 : List Slot := all_rest[2]'(by decide +kernel)
def c_2 : Slot := all_c[2]'(by decide +kernel)
def rest_1 : List Slot := all_rest[1]'(by decide +kernel)
def c_3 : Slot := all_c[3]'(by decide +kernel)
def c_4 : Slot := all_c[4]'(by decide +kernel)

/-- The hypotheses of `Obligations.LinkSlots` met, clause by clause. -/
theorem wit_LinkSlots :
    (let d : LDir := (S 9).m.dir 1;
    (S 9).m.test.scan = false ∧ (S 9).m.linkUp (1 / 2) = true ∧ d.nak = false ∧ d.half = true ∧ d.half1 = none ∧ d.sent = c_6 ::
    rest_0 ∧ c_6.flit = some f_0 ∧ c_6.tag < 12 ∧ c_6.crd < 16 ∧ f_0.bad = 0 ∧ c_6.h = f_0.head ∧
    ((S 9).m.dir (dirBack 1)).nak = false) ∧
    (let d : LDir := (S 10).m.dir 1;
    let t : ℕ := dirTo 1;
    let i : ℕ := dirInput 1;
    (S 10).m.test.scan = false ∧ (S 10).m.linkUp (1 / 2) = true ∧ d.nak = false ∧ d.half = true ∧ d.half1 = some (2, f_0) ∧
    d.sent = b_0 :: c_5 :: rest_0 ∧ c_5.flit = some p_0 ∧ c_5.tag = 14 ∧ c_5.h = false ∧ 2 < 12 ∧
    c_5.crd < 16 ∧ f_0.bad = 0 ∧ ((S 10).m.dir (dirBack 1)).nak = false ∧ ((fun (vc : ℕ) (f : Flit) => if f.head = true then
    (S 10).m.lostIn t i f.bits = false else bt d.dvc vc = false ∧ ((S 10).m.vc (kVc t i vc)).drop = false) 2 f_0) ∧ 0 ≠ kVc t i
    2) ∧
    (let d : LDir := (S 10).m.dir 1;
    let t : ℕ := dirTo 1;
    let i : ℕ := dirInput 1;
    (S 10).m.test.scan = false ∧ (S 10).m.linkUp (1 / 2) = true ∧ d.nak = false ∧ d.half = true ∧ d.half1 = some (2, f_0) ∧
    d.sent = b_0 :: c_5 :: rest_0 ∧ c_5.flit = some p_0 ∧ c_5.tag = 14 ∧ c_5.h = false ∧ 2 < 12 ∧
    c_5.crd < 16 ∧ f_0.bad = 0 ∧ ((S 10).m.dir (dirBack 1)).nak = false ∧ ((fun (vc : ℕ) (f : Flit) => if f.head = true then
    (S 10).m.lostIn t i f.bits = false else bt d.dvc vc = false ∧ ((S 10).m.vc (kVc t i vc)).drop = false) 2 f_0) ∧ 0 / 12 ≠ kVc
    t i 2 / 12) ∧
    (let d : LDir := (S 10).m.dir 1;
    let t : ℕ := dirTo 1;
    let i : ℕ := dirInput 1;
    (S 10).m.test.scan = false ∧ (S 10).m.linkUp (1 / 2) = true ∧ d.nak = false ∧ d.half = true ∧ d.half1 = some (2, f_0) ∧
    d.sent = b_0 :: c_5 :: rest_0 ∧ c_5.flit = some p_0 ∧ c_5.tag = 14 ∧ c_5.h = false ∧ 2 < 12 ∧
    c_5.crd < 16 ∧ f_0.bad = 0 ∧ ((S 10).m.dir (dirBack 1)).nak = false ∧ ((fun (vc : ℕ) (f : Flit) => if f.head = true then
    (S 10).m.lostIn t i f.bits = false else bt d.dvc vc = false ∧ ((S 10).m.vc (kVc t i vc)).drop = false) 2 f_0) ∧ 12 / 12 =
    kVc t i 2 / 12 ∧ 12 ≠ kVc t i 2) ∧
    (let d : LDir := (S 0).m.dir 1;
    let t : ℕ := dirTo 1;
    let i : ℕ := dirInput 1;
    let k : ℕ := kVc t i c_0.tag;
    (S 0).m.test.scan = false ∧ (S 0).m.linkUp (1 / 2) = true ∧ d.nak = false ∧ d.half = false ∧ d.half1 = none ∧ d.sent = c_0
    :: rest_2 ∧ c_0.flit = some f_0 ∧ c_0.tag < 12 ∧ c_0.crd < 16 ∧ f_0.bad = 0 ∧ c_0.h = f_0.head ∧
    ((S 0).m.dir (dirBack 1)).nak = false ∧ ((fun (vc : ℕ) (f : Flit) => if f.head = true then (S 0).m.lostIn t i f.bits = false
    else bt d.dvc vc = false ∧ ((S 0).m.vc (kVc t i vc)).drop = false) c_0.tag f_0) ∧ 0 ≠ k) ∧
    (let d : LDir := (S 0).m.dir 1;
    let t : ℕ := dirTo 1;
    let i : ℕ := dirInput 1;
    let k : ℕ := kVc t i c_0.tag;
    (S 0).m.test.scan = false ∧ (S 0).m.linkUp (1 / 2) = true ∧ d.nak = false ∧ d.half = false ∧ d.half1 = none ∧ d.sent = c_0
    :: rest_2 ∧ c_0.flit = some f_0 ∧ c_0.tag < 12 ∧ c_0.crd < 16 ∧ f_0.bad = 0 ∧ c_0.h = f_0.head ∧
    ((S 0).m.dir (dirBack 1)).nak = false ∧ ((fun (vc : ℕ) (f : Flit) => if f.head = true then (S 0).m.lostIn t i f.bits = false
    else bt d.dvc vc = false ∧ ((S 0).m.vc (kVc t i vc)).drop = false) c_0.tag f_0) ∧ 0 / 12 ≠ k / 12) ∧
    (let d : LDir := (S 0).m.dir 1;
    let t : ℕ := dirTo 1;
    let i : ℕ := dirInput 1;
    let k : ℕ := kVc t i c_0.tag;
    (S 0).m.test.scan = false ∧ (S 0).m.linkUp (1 / 2) = true ∧ d.nak = false ∧ d.half = false ∧ d.half1 = none ∧ d.sent = c_0
    :: rest_2 ∧ c_0.flit = some f_0 ∧ c_0.tag < 12 ∧ c_0.crd < 16 ∧ f_0.bad = 0 ∧ c_0.h = f_0.head ∧
    ((S 0).m.dir (dirBack 1)).nak = false ∧ ((fun (vc : ℕ) (f : Flit) => if f.head = true then (S 0).m.lostIn t i f.bits = false
    else bt d.dvc vc = false ∧ ((S 0).m.vc (kVc t i vc)).drop = false) c_0.tag f_0) ∧ 12 / 12 = k / 12 ∧ 12 ≠ k) ∧
    (let d : LDir := (S 0).m.dir 1;
    (S 0).m.test.scan = false ∧ (S 0).m.linkUp (1 / 2) = true ∧ d.nak = false ∧ d.half = false ∧ d.half1 = none ∧ d.sent = c_0
    :: rest_2 ∧ c_0.tag < 12 ∧ bt (0x100000#24) 20 = true ∧ bf (0x100000#24) 21 3 = 0 ∧ bf (0x100000#24) 13 2 = 0 ∧ bt (0x100000#24)
    19 = false ∧ d.tries < 8) ∧
    (let d : LDir := (S 2).m.dir 1;
    (S 2).m.test.scan = false ∧ (S 2).m.linkUp (1 / 2) = true ∧ d.nak = true ∧ (List.map Slot.tag d.sent).headD 0 ≠ 13) ∧
    (let d : LDir := (S 3).m.dir 0;
    let b : LDir := (S 3).m.dir (dirBack 0);
    (S 3).m.test.scan = false ∧ (S 3).m.linkUp (0 / 2) = true ∧ b.sent = c_2 :: rest_1 ∧ c_2.tag = 12 ∧ c_2.h =
    false ∧ b.nak = false ∧ c_2.crd = 15 ∧ d.crd = []) ∧
    (let d : LDir := (S 4).m.dir 1;
    (S 4).m.test.scan = false ∧ (S 4).m.linkUp (1 / 2) = true ∧ d.sent = c_3 :: rest_1 ∧ c_3.tag = 12 ∧ c_3.h = true
    ∧ d.nak = false ∧ pop (d.fail ||| BitVec.ofNat 9 c_3.arg) 9 ≤ 5) ∧
    (let d : LDir := (S 5).m.dir 1;
    (S 5).m.test.scan = false ∧ (S 5).m.linkUp (1 / 2) = true ∧ d.sent = c_4 :: rest_1 ∧ c_4.tag = 12 ∧ c_4.h = true
    ∧ d.nak = false ∧ 5 < pop (d.fail ||| BitVec.ofNat 9 c_4.arg) 9) ∧
    (let d : LDir := (S 0).m.dir 0;
    (S 0).m.test.scan = false ∧ (S 0).m.linkUp (0 / 2) = true ∧ (d.want = none ∨ (S 0).m.clk.fstop = true)) ∧
    (let d : LDir := (S 6).m.dir 1;
    let b : LDir := (S 6).m.dir (dirBack 1);
    (S 6).m.test.scan = false ∧ (S 6).m.linkUp (1 / 2) = true ∧ d.want = some 3#9 ∧ (S 6).m.clk.fstop = false ∧ b.crd = []) ∧
    (let d : LDir := (S 7).m.dir 1;
    (S 7).m.test.scan = false ∧ (S 7).m.linkUp (1 / 2) = true ∧ (S 7).m.fld (aLinkCfg (1 / 2)) 16 8 ≠ 0 ∧ (S 7).m.fld (aLinkCfg
    (1 / 2)) 16 8 ≤ d.errs.getD 8 0 ∧ bt d.mask 8 = false ∧ pop (d.mask ||| BitVec.ofNat 9 (2 ^ 8)) 9 ≤ 5) ∧
    (let d : LDir := (S 8).m.dir 1;
    (S 8).m.test.scan = false ∧ (S 8).m.linkUp (1 / 2) = true ∧ (S 8).m.fld (aLinkCfg (1 / 2)) 16 8 ≠ 0 ∧ (S 8).m.fld (aLinkCfg
    (1 / 2)) 16 8 ≤ d.errs.getD 8 0 ∧ bt d.mask 8 = false ∧ 5 < pop (d.mask ||| BitVec.ofNat 9 (2 ^ 8)) 9) :=
  by and_intros <;> decide +kernel

end LinkSlots

namespace RouterSwitching

def hd (dst la opc tc : Nat) : FlitBits := mkf 512 27 10 dst ||| mkf 512 8 3 la ||| mkf 512 58 6 opc ||| mkf 512 56 2 tc
def lk : Mach := (up.modLink 0 (fun k => { k with st := .up}))
def rsp : Mach := lk.modVc (kVc 0 4 8) (fun b => { b with q := [fl true true (hd 7 1 0x21 1)], hd := hd 7 1 0x21 1 })
def c8 : Cand := (4, 8, fl true true (hd 7 1 0x21 1))
def half (m : Mach) : Mach := (m.modDir 0 (fun d => { d with half := true, crd := [3, 4, 5] }))
def states : List Machine.State :=
  [st (half (lk.modVc (kVc 0 4 2) (fun b => { b with q := [fl true false (hd 7 1 1 1)], hd := hd 7 1 1 1 }))),
   st ((half (lk.modVc (kVc 0 4 2) (fun b => { b with q := [fl false true 5], out := some 1, hd := hd 7 1 1 1 }))).modOut (kVc 0 1
     2) (fun o => { o with busy := true })),
   st (lk.modVc (kVc 0 4 0) (fun b => { b with q := [fl true false (hd 1 4 6 3), fl false true 9], hd := hd 1 4 6 3 })),
   st
     { lk.modVc (kVc 0 4 0) (fun b => { b with q := [fl false true 9], out := some 7, hd := hd 1 4 6 3 }) with cbu := [(0,
                                               { CbUnit.init with part := [(48, [fl true false (hd 1 4 6 3),
                                                                  { fl false false 8 with bad := 1 }])] })] },
   st
     { lk.modVc (kVc 0 4 0) (fun b => { b with q := [fl false false 9, fl false true 9], out := some 7, hd := hd 1 4 6 3 }) with cbu := [(0, { CbUnit.init with part := [(48, [fl true false (hd 1 4 6 3)])] })] },
   st (lk.modVc (kVc 0 4 2) (fun b => { b with q := [fl false true 5, fl true true 6], out := some 1, hd := hd 7 1 1 1 })),
   st ((lk.modVc (kVc 0 4 2) (fun b => { b with q := [fl false true 5, fl true true 6], out := some 1, hd := hd 7 1 1 1 })).modOut
     (kVc 0 1 2) (fun o => { o with busy := true })),
   st (lk.modVc (kVc 0 0 2) (fun b => { b with q := [fl true true (hd 1 4 1 1)], hd := hd 1 4 1 1 })),
   st (lk.modVc (kVc 0 4 0) (fun b => { b with q := [fl true true (hd 1 4 6 3)], hd := hd 1 4 6 3 })),
   st (lk.modVc (kVc 0 4 2) (fun b => { b with q := [fl true true (hd 7 1 1 1)], hd := hd 7 1 1 1 })),
   st (lk.modVc (kVc (spineTile 0) 4 2) (fun b =>
     { b with q := [fl false true 5, fl true true 6], out := some 6, hd := hd 7 6 1 1 })),
   st ((lk.modStn 0 (fun y => { y with st := .dead })).modVc (kVc (spineTile 0) 4 2) (fun b =>
     { b with q := [fl false true 5, fl true true 6], out := some 6, hd := hd 7 6 1 1 })),
   st ((lk.modNiu 1 (fun x => { x with ej := [(2, [fl true false (hd 1 4 1 1)])] })).modVc (kVc 0 0 2) (fun b =>
     { b with q := [fl false true 5, fl true true 6], out := some 4, hd := hd 1 4 1 1 }))]
def win (s : Machine.State) : Nat × Nat × Nat × Nat × Flit × Bool := ((([(0, 1), (0, 4), (0, 7), (17, 6)] : List (Nat ×
  Nat)).filterMap (fun p => (s.m.winner p.1 p.2).map (fun w => (p.1, p.2, w.1.1, w.1.2.1, w.1.2.2, w.2))))).headD (0, 0, 0, 0,
  fl true true 0, false)
def of_f (s : Machine.State) : List Flit := [(win s).2.2.2.2.1]
def of_q (s : Machine.State) : List (List Flit) := [(s.m.vc (kVc (win s).1 (win s).2.2.1 (win s).2.2.2.1)).q.drop 1]
def prt (s : Machine.State) : List Flit := Tab.get dNil (s.m.cbUnit (win s).1).part ((win s).2.2.1 * 12 + (win s).2.2.2.1)
def of_h (s : Machine.State) : List Flit := (prt s).take 1
def of_r (s : Machine.State) : List (List Flit) := [(prt s).drop 1]
def all_m : List Mach := rsp :: states.map (·.m)
def all_c : List Cand := [c8, (4, 2, fl false true 5), (0, 2, fl true true (hd 1 4 1 1)), (4, 0, fl true true (hd 1 4 6 3))]
def S (i : Nat) : Machine.State := states.getD i (st up)
def f_s_9_0 : Flit := (of_f (S 9))[0]'(by decide +kernel)
def q_s_9_0 : List Flit := (of_q (S 9))[0]'(by decide +kernel)
def f_s_5_0 : Flit := (of_f (S 5))[0]'(by decide +kernel)
def q_s_5_0 : List Flit := (of_q (S 5))[0]'(by decide +kernel)
def f_s_6_0 : Flit := (of_f (S 6))[0]'(by decide +kernel)
def q_s_6_0 : List Flit := (of_q (S 6))[0]'(by decide +kernel)
def f_s_0_0 : Flit := (of_f (S 0))[0]'(by decide +kernel)
def q_s_0_0 : List Flit := (of_q (S 0))[0]'(by decide +kernel)
def f_s_10_0 : Flit := (of_f (S 10))[0]'(by decide +kernel)
def q_s_10_0 : List Flit := (of_q (S 10))[0]'(by decide +kernel)
def f_s_11_0 : Flit := (of_f (S 11))[0]'(by decide +kernel)
def q_s_11_0 : List Flit := (of_q (S 11))[0]'(by decide +kernel)
def f_s_12_0 : Flit := (of_f (S 12))[0]'(by decide +kernel)
def q_s_12_0 : List Flit := (of_q (S 12))[0]'(by decide +kernel)
def f_s_7_0 : Flit := (of_f (S 7))[0]'(by decide +kernel)
def q_s_7_0 : List Flit := (of_q (S 7))[0]'(by decide +kernel)
def f_s_2_0 : Flit := (of_f (S 2))[0]'(by decide +kernel)
def q_s_2_0 : List Flit := (of_q (S 2))[0]'(by decide +kernel)
def f_s_8_0 : Flit := (of_f (S 8))[0]'(by decide +kernel)
def q_s_8_0 : List Flit := (of_q (S 8))[0]'(by decide +kernel)
def f_s_3_0 : Flit := (of_f (S 3))[0]'(by decide +kernel)
def q_s_3_0 : List Flit := (of_q (S 3))[0]'(by decide +kernel)
def h_s_3_0 : Flit := (of_h (S 3))[0]'(by decide +kernel)
def r_s_3_0 : List Flit := (of_r (S 3))[0]'(by decide +kernel)
def m_0 : Mach := all_m[0]'(by decide +kernel)
def c_0 : Cand := all_c[0]'(by decide +kernel)

/-- The hypotheses of `Obligations.RouterSwitching` met, clause by clause. -/
theorem wit_RouterSwitching :
    (let k : ℕ := kVc 0 4 2;
    (S 9).m.test.scan = false ∧ (S 9).m.domLive 0 = true ∧ 4 < 7 ∧ 2 < 12 ∧ (S 9).m.winner 0 1 = some ((4, 2, f_s_9_0), true)
    ∧ ((S 9).m.vc k).q = f_s_9_0 :: q_s_9_0 ∧ ((S 9).m.vc k).tail = [] ∧ 1 < 4 ∧ dirOut 0 1 = some 0 ∧ neighbour 0 1 =
    some 1 ∧ (S 9).m.linkUp (0 / 2) = true ∧ (S 9).m.slotsPer 0 = 1 ∧ (∀ (c : ℕ), dirOut 0 4 = some c → c ≠ 0) ∧ f_s_9_0.head =
    true) ∧
    (let k : ℕ := kVc 0 4 2;
    (S 5).m.test.scan = false ∧ (S 5).m.domLive 0 = true ∧ 4 < 7 ∧ 2 < 12 ∧ (S 5).m.winner 0 1 = some ((4, 2, f_s_5_0), true)
    ∧ ((S 5).m.vc k).q = f_s_5_0 :: q_s_5_0 ∧ ((S 5).m.vc k).tail = [] ∧ 1 < 4 ∧ dirOut 0 1 = some 0 ∧ neighbour 0 1 =
    some 1 ∧ (S 5).m.linkUp (0 / 2) = true ∧ (S 5).m.slotsPer 0 = 1 ∧ (∀ (c : ℕ), dirOut 0 4 = some c → c ≠ 0) ∧ f_s_5_0.head =
    false ∧ ((S 5).m.outVc (kVc 0 1 2)).busy = false) ∧
    (let k : ℕ := kVc 0 4 2;
    (S 6).m.test.scan = false ∧ (S 6).m.domLive 0 = true ∧ 4 < 7 ∧ 2 < 12 ∧ (S 6).m.winner 0 1 = some ((4, 2, f_s_6_0), true)
    ∧ ((S 6).m.vc k).q = f_s_6_0 :: q_s_6_0 ∧ ((S 6).m.vc k).tail = [] ∧ 1 < 4 ∧ dirOut 0 1 = some 0 ∧ neighbour 0 1 =
    some 1 ∧ (S 6).m.linkUp (0 / 2) = true ∧ (S 6).m.slotsPer 0 = 1 ∧ (∀ (c : ℕ), dirOut 0 4 = some c → c ≠ 0) ∧ f_s_6_0.head =
    false ∧ ((S 6).m.outVc (kVc 0 1 2)).busy = true ∧ ((S 6).m.dir 0).nak = false ∧ 0 < 12) ∧
    (let k : ℕ := kVc 0 4 2;
    (S 0).m.test.scan = false ∧ (S 0).m.domLive 0 = true ∧ 4 < 7 ∧ 2 < 12 ∧ (S 0).m.winner 0 1 = some ((4, 2, f_s_0_0), true)
    ∧ ((S 0).m.vc k).q = f_s_0_0 :: q_s_0_0 ∧ ((S 0).m.vc k).tail = [] ∧ 1 < 4 ∧ dirOut 0 1 = some 0 ∧ neighbour 0 1 =
    some 1 ∧ (S 0).m.linkUp (0 / 2) = true ∧ (S 0).m.slotsPer 0 = 2 ∧ (∀ (c : ℕ), dirOut 0 4 = some c → c ≠ 0) ∧ (f_s_0_0.head
    = false → ((S 0).m.outVc (kVc 0 1 2)).busy = true)) ∧
    (let k : ℕ := kVc 17 4 2;
    (S 10).m.test.scan = false ∧ (S 10).m.domLive 17 = true ∧ 4 < 7 ∧ 2 < 12 ∧ (S 10).m.winner 17 6 = some ((4, 2, f_s_10_0),
    true) ∧ ((S 10).m.vc k).q = f_s_10_0 :: q_s_10_0 ∧ ((S 10).m.vc k).tail = [] ∧ 6 = 6 ∧ spineOf 17 = some 0 ∧
    ((S 10).m.stn 0).st ≠ StnSt.dead) ∧
    (let k : ℕ := kVc 17 4 2;
    (S 11).m.test.scan = false ∧ (S 11).m.domLive 17 = true ∧ 4 < 7 ∧ 2 < 12 ∧ (S 11).m.winner 17 6 = some ((4, 2, f_s_11_0),
    true) ∧ ((S 11).m.vc k).q = f_s_11_0 :: q_s_11_0 ∧ ((S 11).m.vc k).tail = [] ∧ 6 = 6 ∧ spineOf 17 = some 0 ∧
    ((S 11).m.stn 0).st = StnSt.dead) ∧
    (let k : ℕ := kVc 0 0 2;
    (S 12).m.test.scan = false ∧ (S 12).m.domLive 0 = true ∧ 0 < 7 ∧ 2 < 12 ∧ (S 12).m.winner 0 4 = some ((0, 2, f_s_12_0),
    true) ∧ ((S 12).m.vc k).q = f_s_12_0 :: q_s_12_0 ∧ ((S 12).m.vc k).tail = [] ∧ (4 = 4 ∨ 4 = 5) ∧ f_s_12_0.head =
    false ∧ (∀ h ∈ Tab.get dNil ((S 12).m.niu ((S 12).m.localNiu 0 4 2 f_s_12_0)).ej 2, h.head = true → Tab.get dNone
    ((S 12).m.niu ((S 12).m.localNiu 0 4 2 f_s_12_0)).ejHd 2 = none)) ∧
    (let k : ℕ := kVc 0 0 2;
    (S 7).m.test.scan = false ∧ (S 7).m.domLive 0 = true ∧ 0 < 7 ∧ 2 < 12 ∧ (S 7).m.winner 0 4 = some ((0, 2, f_s_7_0), true)
    ∧ ((S 7).m.vc k).q = f_s_7_0 :: q_s_7_0 ∧ ((S 7).m.vc k).tail = [] ∧ (4 = 4 ∨ 4 = 5) ∧ f_s_7_0.head = true) ∧
    (let k : ℕ := kVc 0 4 0;
    (S 2).m.test.scan = false ∧ (S 2).m.domLive 0 = true ∧ 4 < 7 ∧ 0 < 12 ∧ (S 2).m.winner 0 7 = some ((4, 0, f_s_2_0),
    false) ∧ ((S 2).m.vc k).q = f_s_2_0 :: q_s_2_0 ∧ ((S 2).m.vc k).tail = [] ∧ 7 = 7 ∧ f_s_2_0.last = false) ∧
    (let k : ℕ := kVc 0 4 0;
    let part : List Flit := Tab.get dNil ((S 8).m.cbUnit 0).part (4 * 12 + 0);
    (S 8).m.test.scan = false ∧ (S 8).m.domLive 0 = true ∧ 4 < 7 ∧ 0 < 12 ∧ (S 8).m.winner 0 7 = some ((4, 0, f_s_8_0),
    false) ∧ ((S 8).m.vc k).q = f_s_8_0 :: q_s_8_0 ∧ ((S 8).m.vc k).tail = [] ∧ 7 = 7 ∧ f_s_8_0.last = true ∧
    f_s_8_0.head = true ∧ part = []) ∧
    (let k : ℕ := kVc 0 4 0;
    let part : List Flit := Tab.get dNil ((S 3).m.cbUnit 0).part (4 * 12 + 0);
    (S 3).m.test.scan = false ∧ (S 3).m.domLive 0 = true ∧ 4 < 7 ∧ 0 < 12 ∧ (S 3).m.winner 0 7 = some ((4, 0, f_s_3_0),
    false) ∧ ((S 3).m.vc k).q = f_s_3_0 :: q_s_3_0 ∧ ((S 3).m.vc k).tail = [] ∧ 7 = 7 ∧ f_s_3_0.last = true ∧ part =
    h_s_3_0 :: r_s_3_0 ∧ h_s_3_0.head = true) ∧
    (m_0.winner 0 1 = some (c_0, true)) ∧
    (m_0.winner 0 1 = some (c_0, true) ∧ (∃ d ∈ m_0.cands 0 1, m_0.level 0 1 d = m_0.level 0 1 c_0 ∧ 6 ≤ d.2.1)) :=
  by and_intros <;> decide +kernel

end RouterSwitching

namespace DefaultRoutes

def all_m : List Mach :=
  [up,
   (up.modLink 0 (fun k => { k with st := .up})).modOut (kVc 0 1 2) (fun o => { o with used := 3 }),
   (up.modLink 0 (fun k => { k with st := .up})).modOut (kVc 0 1 11) (fun o => { o with used := 24 })]
def m_0 : Mach := all_m[0]'(by decide +kernel)
def m_1 : Mach := all_m[1]'(by decide +kernel)

/-- The hypotheses of `Obligations.DefaultRoutes` met, clause by clause. -/
theorem wit_DefaultRoutes :
    (0 < 128 ∧ 1 < 128 ∧ 0 < 4 ∧ 0 ≠ 1) ∧
    (0 < 128 ∧ 1 < 128 ∧ 1 < 4 ∧ 0 < 6 ∧ bt (defaultMask 0 0 1) 1 = true) ∧
    (0 < 128 ∧ 1 < 128 ∧ 1 < 4 ∧ 0 < 4 ∧ bt (defaultMask 0 0 1) 1 = true) ∧
    (m_0.outDead 0 0 = true) ∧
    (m_1.outDead 0 1 = false) :=
  by and_intros <;> decide +kernel

end DefaultRoutes

namespace SpineInstructions

def mm : Mach := { up with straps := ⟨3, false⟩, rt := { up.rt with cur := Img.init 3, oth := Img.init 3 } }
def nu : Mach := { up with rt := { up.rt with cur := { up.rt.cur with spnOk := 0 } } }
def states : List Machine.State :=
  [run (ins 0x50 0 1 2 0) [(1, 0x800000FF - 1), (2, 1000100)] up,
   run (ins 0x50 0 1 2 0) [(1, 0x80000001), (2, 1000099)] up,
   run (ins 0x50 0 1 2 0) [(1, 0x1FF), (2, 1000100)] up,
   run (ins 0x52 0 1 0 0) [(1, 0xFFFF0606)] up,
   run (ins 0x51 0 0 0 (2^42 + 31 * 2^24)) [] up,
   run (ins 0x51 0 0 0 (2^42 + 31 * 2^24)) [] (up.modDom 131 (fun d => { d with live := false })),
   run (ins 0x51 0 0 0 (31 * 2^24 + 4)) [] nu,
   run (ins 0x51 0 0 0 (31 * 2^24 + 4)) [] up,
   run (ins 0x51 0 0 0 (31 * 2^24 + 4)) [] { nu with rt := { nu.rt with st := .prev } },
   run (ins 0x50 0 1 2 0) [(1, 0x800000FF), (2, 1000100)] mm,
   run (ins 0x51 0 0 0 (2^42 + 31 * 2^24)) [] mm,
   run (ins 0x51 0 0 0 (31 * 2^24)) [] mm,
   run (ins 0x52 0 1 0 0) [(1, 0xFFFF0606)] mm,
   st (up.modEng 0 (fun x => { x with state := .waiting, wait := .config [5], insn := ins 0x52 0 1 0 0 }))]
def S (i : Nat) : Machine.State := states.getD i (st up)

/-- The hypotheses of `Obligations.SpineInstructions` met, clause by clause. -/
theorem wit_SpineInstructions :
    (let x : Eng := (S 0).m.eng 0;
    let a : Word := x.reg (wA 0x5001200000000000#64);
    let t : Word := x.reg (wB 0x5001200000000000#64);
    Issues (S 0) 0 (0x5001200000000000#64) 80 ∧ (S 0).m.hasSpine = true ∧ ((S 0).m.token = none ∨ (S 0).m.token = some 0) ∧ bf
    a 32 32 = 0 ∧ pop a 32 ≤ 8 ∧ (S 0).m.ftNs + 100 ≤ BitVec.toNat t) ∧
    (let x : Eng := (S 1).m.eng 0;
    let a : Word := x.reg (wA 0x5001200000000000#64);
    let t : Word := x.reg (wB 0x5001200000000000#64);
    Issues (S 1) 0 (0x5001200000000000#64) 80 ∧ (S 1).m.hasSpine = true ∧ ((S 1).m.token = none ∨ (S 1).m.token = some 0) ∧ bf
    a 32 32 = 0 ∧ pop a 32 ≤ 8 ∧ BitVec.toNat t < (S 1).m.ftNs + 100) ∧
    (let x : Eng := (S 2).m.eng 0;
    let a : Word := x.reg (wA 0x5001200000000000#64);
    Issues (S 2) 0 (0x5001200000000000#64) 80 ∧ (S 2).m.hasSpine = true ∧ ((S 2).m.token = none ∨ (S 2).m.token = some 0) ∧ (bf
    a 32 32 ≠ 0 ∨ 8 < pop a 32)) ∧
    (let x : Eng := (S 3).m.eng 0;
    let a : Word := x.reg (wA 0x5201000000000000#64);
    Issues (S 3) 0 (0x5201000000000000#64) 82 ∧ (S 3).m.hasSpine = true ∧ ((S 3).m.token = none ∨ (S 3).m.token = some 0) ∧ bf
    a 32 32 = 0 ∧ bf a 11 5 = 0 ∧ bf a 3 5 = 0 ∧ bf a 0 3 ≠ 7 ∧ bf a 8 3 ≠ 7) ∧
    (let x : Eng := (S 13).m.eng 0;
    (S 13).m.test.scan = false ∧ x.state = EngSt.waiting ∧ x.wait = Wait.config [5#64] ∧ wOpc x.insn = 82) ∧
    (let p : ℕ := bf (0x510004001F000000#64) 24 5;
    Issues (S 4) 0 (0x510004001F000000#64) 81 ∧ (S 4).m.hasSpine = true ∧ bt (0x510004001F000000#64) 42 = true ∧ inScope 0 (some
    (p / 8)) = true ∧ (S 4).m.domLive (128 + p / 8) = true) ∧
    (let p : ℕ := bf (0x510004001F000000#64) 24 5;
    Issues (S 5) 0 (0x510004001F000000#64) 81 ∧ (S 5).m.hasSpine = true ∧ bt (0x510004001F000000#64) 42 = true ∧ inScope 0 (some
    (p / 8)) = true ∧ (S 5).m.domLive (128 + p / 8) = false) ∧
    (let p : ℕ := bf (0x510000001F000004#64) 24 5;
    Issues (S 6) 0 (0x510000001F000004#64) 81 ∧ (S 6).m.hasSpine = true ∧ bt (0x510000001F000004#64) 42 = false ∧ inScope 0 (some
    (p / 8)) = true ∧ (¬(bt (S 6).m.rt.cur.spnOk p = true ∨ (S 6).m.rt.st ≠ OtherSt.free ∧ bt (S 6).m.rt.oth.spnOk p = true))) ∧
    (let p : ℕ := bf (0x510000001F000004#64) 24 5;
    Issues (S 7) 0 (0x510000001F000004#64) 81 ∧ (S 7).m.hasSpine = true ∧ bt (0x510000001F000004#64) 42 = false ∧ inScope 0 (some
    (p / 8)) = true ∧ (bt (S 7).m.rt.cur.spnOk p = true ∨ (S 7).m.rt.st ≠ OtherSt.free ∧ bt (S 7).m.rt.oth.spnOk p = true)) ∧
    (Issues (S 9) 0 (0x5001200000000000#64) 80 ∧ (S 9).m.hasSpine = false) ∧
    (Issues (S 10) 0 (0x510004001F000000#64) 81 ∧ (S 10).m.hasSpine = false ∧ bt (0x510004001F000000#64) 42 = true) ∧
    (Issues (S 11) 0 (0x510000001F000000#64) 81 ∧ (S 11).m.hasSpine = false ∧ bt (0x510000001F000000#64) 42 = false) ∧
    (Issues (S 12) 0 (0x5201000000000000#64) 82 ∧ (S 12).m.hasSpine = false) :=
  by and_intros <;> decide +kernel

end SpineInstructions

namespace SpineSlots

def sp (f : Spine → Spine) (m : Mach := up) : Machine.State := st (m.modSpine f)
def pk : List Flit := [fl true false (hdw 500 0 1 0 ||| mkf 512 3 5 9), fl false true 7]
def pkb : List Flit := pk.map (fun f => if f.head then { f with bad := 1 } else f)
def pkd : List Flit := pk.map (fun f => if f.head then f else { f with bad := 3 })
def c1 : Cell := mkCell 1 9 4 0 pk
def c2 : Cell := { c1 with side := [1, 2] }
def states : List Machine.State :=
  [sp (fun y => { y with lock := .acq, slot := 31, corrN := 1, corr := -1, pend := true }) (((up.modStn 31 (fun y =>
     { y with onReq := true })).setReg 0x80018 1000000).setReg 0x80010 0x100000001),
   sp (fun y => { y with lock := .locked, slot := 31, corrN := -1, pend := true }) ((up.setReg 0x80018 1000000).setReg 0x80010
     0x100000001),
   sp (fun y => { y with lock := .slew, slot := 31, pend := true }) ((up.setReg 0x80018 1000001).setReg 0x80010 0x100000001),
   sp (fun y => { y with lock := .locked, slot := 30, corr := -1 }),
   sp (fun y => { y with lock := .locked, slot := 30, corr := 1 }) (up.modStn 3 (fun y => { y with entry := [(1, pk)] })),
   sp (fun y => { y with lock := .locked, slot := 4, flight := [{ c1 with out := 31 }] }) (up.modStn 31 (fun y =>
     { y with dying := true, entry := [(1, pk)], q := [(37, [c1])], exit := [(0, [(fl false true 9, 4, 3)])] })),
   sp (fun y => { y with lock := .locked, slot := 4 }) ((up.modStn 9 (fun y => { y with st := .dead })).modStn 3 (fun y =>
     { y with entry := [(1, pk)] })),
   sp (fun y => { y with lock := .acq, slot := 4 }),
   sp (fun y => { y with lock := .acq, slot := 30, abs := 31, flight := [c1] }),
   sp (fun y => { y with lock := .acq, slot := 30, abs := 31, flight := [c2] }),
   sp (fun y => { y with lock := .locked, slot := 0 }) (up.modStn 3 (fun y => { y with entry := [(1, pk)] })),
   sp (fun y => { y with lock := .hold, slot := 4 }) (up.modStn 4 (fun y => { y with q := [(9 * 4 + 1, [c1])] })),
   sp (fun y => { y with lock := .locked, slot := 0 }) (up.modStn 3 (fun y => { y with entry := [(1, pkb)] })),
   sp (fun y => { y with lock := .locked, slot := 0 }) (up.modStn 3 (fun y => { y with entry := [(1, pkd)] })),
   sp (fun y => { y with lock := .hold, slot := 4 }) (up.modStn 4 (fun y => { y with q := [(9 * 4 + 1, [c2])] })),
   sp (fun y => { y with lock := .free }),
   sp (fun y => { y with lock := .acq, slot := 5 }),
   sp (fun y => { y with lock := .locked, cyc := 161 }),
   sp (fun y => { y with lock := .slew, cyc := 152 }),
   sp (fun y => { y with lock := .locked, cyc := 168 }),
   sp (fun y => { y with lock := .locked, cyc := 169 }),
   (sp (fun y => { y with lock := .locked, pend := true, cyc := 159}) ((up.setReg 0x80018 1000000).setReg 0x80010 (0x100000001))),
   st { up with keep := { up.keep with st := .holdover } },
   st ((up.modStn 31 (fun y => { y with st := .closing })).modEng 0 (fun x =>
     { x with state := .waiting, wait := .portOff 31, limit := some 4 })),
   st ((up.modStn 31 (fun y => { y with st := .dead, onReq := true, onDue := true })).modEng 0 (fun x =>
     { x with state := .waiting, wait := .portOn 31 })),
   st ((up.modStn 31 (fun y => { y with st := .closing, onReq := true, onDue := true })).modEng 0 (fun x =>
     { x with state := .waiting, wait := .portOn 31 })),
   st (up.modStn 31 (fun y => { y with exit := [(0, [(fl false true 9, 4, 3)])] })),
   st (up.modSpine (fun y => { y with flight := [c1, { c1 with out := 31 }] })),
   st { up with clk := { up.clk with fstop := true } },
   (sp (fun y => { y with lock := .locked, pend := true, cyc := 159}) ((up.setReg 0x80018 5000000).setReg 0x80010 (0x100000001))),
   st (up.modVc (kVc (spineTile 31) 6 3) (fun b => { b with q := [fl true false 5] }))]
def all_fl : List (List Flit) := [pk, pkb, pkd]
def all_k : List Cell := [c1, c2]
def all_q : List (List Cell) := [[]]
def all_f : List Flit := [fl false true 9]
def all_r : List (List (Flit × Nat × Nat)) := [[]]
def S (i : Nat) : Machine.State := states.getD i (st up)
def fl_0 : List Flit := all_fl[0]'(by decide +kernel)
def k_0 : Cell := all_k[0]'(by decide +kernel)
def q_0 : List Cell := all_q[0]'(by decide +kernel)
def f_0 : Flit := all_f[0]'(by decide +kernel)
def r_0 : List (Flit × ℕ × ℕ) := all_r[0]'(by decide +kernel)

/-- The hypotheses of `Obligations.SpineSlots` met, clause by clause. -/
theorem wit_SpineSlots :
    (let sp : Spine := (S 0).m.spine;
    let sl : ℕ := (sp.slot + 1) % 32;
    (∀ (p : ℕ), ((S 0).m.stn p).st ≠ StnSt.dead ∧ ((S 0).m.stn p).dying = false) ∧ (S 0).m.test.scan = false ∧ (S 0).m.hasSpine
    = true ∧ (S 0).m.clk.fstop = false ∧ (S 0).m.spineUp = true ∧ sl = 0) ∧
    ((∀ (p : ℕ), ((S 6).m.stn p).dying = false) ∧ (S 6).m.test.scan = false ∧ (S 6).m.hasSpine = true ∧ (S 6).m.clk.fstop = false
    ∧ (S 6).m.spineUp = true ∧ ((S 6).m.stn 9).st = StnSt.dead ∧ 1 < 4 ∧ (S 6).m.entryOf 3 1 = some (9, fl_0)) ∧
    (let sp : Spine := (S 3).m.spine;
    let sl : ℕ := (sp.slot + 1) % 32;
    (∀ (p : ℕ), ((S 3).m.stn p).st ≠ StnSt.dead ∧ ((S 3).m.stn p).dying = false) ∧ (S 3).m.test.scan = false ∧ (S 3).m.hasSpine
    = true ∧ (S 3).m.clk.fstop = false ∧ (S 3).m.spineUp = true ∧ sl ≠ 0 ∧ (sp.lock = Lock.acq ∨ sl = 31 ∧ sp.corr < 0) ∧ sp.flight
    = []) ∧
    (let sp : Spine := (S 8).m.spine;
    let sl : ℕ := (sp.slot + 1) % 32;
    (∀ (p : ℕ), ((S 8).m.stn p).st ≠ StnSt.dead ∧ ((S 8).m.stn p).dying = false) ∧ (S 8).m.test.scan = false ∧ (S 8).m.hasSpine
    = true ∧ (S 8).m.clk.fstop = false ∧ (S 8).m.spineUp = true ∧ sl ≠ 0 ∧ sp.lock = Lock.acq ∧ sp.flight = [k_0]) ∧
    (let sp : Spine := (S 4).m.spine;
    let sl : ℕ := (sp.slot + 1) % 32;
    let n : ℕ := (3 + sl) % 32;
    let mask : Word := (S 4).m.reg 524304;
    (∀ (p : ℕ), ((S 4).m.stn p).st ≠ StnSt.dead ∧ ((S 4).m.stn p).dying = false) ∧ (S 4).m.test.scan = false ∧ (S 4).m.hasSpine
    = true ∧ (S 4).m.clk.fstop = false ∧ (S 4).m.spineUp = true ∧ sl ≠ 0 ∧ sp.lock ≠ Lock.acq ∧ (¬(sl = 31 ∧ sp.corr < 0)) ∧
    sp.flight = [] ∧ 1 < 4 ∧ ((S 4).m.stn 3).st.runs = true ∧ ((S 4).m.stn n).st = StnSt.enabled ∧ (S 4).m.entryOf 3 1 = some (9,
    fl_0) ∧ (∀ d < 4, d ≠ 1 → (S 4).m.entryOf 3 d = none) ∧ bt mask ((9 + 32 - n) % 32) = false ∧ (sp.pend = true → bt mask (32 +
    (9 + 32 - n) % 32) = false) ∧ (S 4).m.admits n 9 1 = true ∧ (n + sl) % 32 ≠ 9) ∧
    (let sp : Spine := (S 11).m.spine;
    let sl : ℕ := (sp.slot + 1) % 32;
    let u : ℕ := (4 + sl) % 32;
    (∀ (p : ℕ), ((S 11).m.stn p).st ≠ StnSt.dead ∧ ((S 11).m.stn p).dying = false) ∧ (S 11).m.test.scan = false ∧
    (S 11).m.hasSpine = true ∧ (S 11).m.clk.fstop = false ∧ (S 11).m.spineUp = true ∧ sl ≠ 0 ∧ sp.lock ≠ Lock.acq ∧ (¬(sl = 31 ∧
    sp.corr < 0)) ∧ sp.flight = [] ∧ 1 < 4 ∧ ((S 11).m.stn 4).st.runs = true ∧ ((S 11).m.stn u).st.runs = true ∧ (S 11).m.nodeQ 4
    u 1 = k_0 :: q_0 ∧ k_0.out = u ∧ k_0.code = 1 ∧ (∀ d < 4, d ≠ 1 → (S 11).m.nodeQ 4 u d = []) ∧ (exitCells
    (S 11).m u 1).length < 2) ∧
    (let y : Station := (S 23).m.stn 31;
    let x : Eng := (S 23).m.eng 0;
    (∀ (d : ℕ), d ≠ 0 → ((S 23).m.eng d).wait ≠ Wait.portOff 31) ∧ (S 23).m.test.scan = false ∧ (S 23).m.hasSpine = true ∧ y.st =
    StnSt.closing ∧ (S 23).m.stnEmpty 31 = true ∧ x.state = EngSt.waiting ∧ x.wait = Wait.portOff 31) ∧
    (let y : Station := (S 24).m.stn 31;
    let x : Eng := (S 24).m.eng 0;
    (∀ (d : ℕ), d ≠ 0 → ((S 24).m.eng d).wait ≠ Wait.portOn 31) ∧ (S 24).m.test.scan = false ∧ (S 24).m.hasSpine = true ∧ y.onReq
    = true ∧ y.onDue = true ∧ (S 24).m.spine.slot = 0 ∧ (y.st = StnSt.disabled ∨ y.st = StnSt.dead) ∧ x.state = EngSt.waiting ∧ x.wait
    = Wait.portOn 31) ∧
    (let y : Station := (S 25).m.stn 31;
    let x : Eng := (S 25).m.eng 0;
    (∀ (d : ℕ), d ≠ 0 → ((S 25).m.eng d).wait ≠ Wait.portOn 31) ∧ (∀ (d : ℕ), ((S 25).m.eng d).wait ≠ Wait.portOff 31) ∧
    (S 25).m.test.scan = false ∧ (S 25).m.hasSpine = true ∧ y.onReq = true ∧ y.onDue = true ∧ (S 25).m.spine.slot = 0 ∧ y.st =
    StnSt.closing ∧ (S 25).m.stnEmpty 31 = true ∧ x.state = EngSt.waiting ∧ x.wait = Wait.portOn 31) ∧
    (let y : Station := (S 26).m.stn 31;
    let k : ℕ := kVc (spineTile 31) 6 3;
    (∀ (c : ℕ), c = 1 ∨ c = 2 ∨ c = 3 → Tab.get dNil y.exit c = []) ∧ (S 26).m.test.scan = false ∧ (S 26).m.hasSpine = true ∧
    y.st.runs = true ∧ y.dying = false ∧ (S 26).m.domLive (spineTile 31) = true ∧ Tab.get dNil y.exit 0 = (f_0, 4, 3) :: r_0 ∧
    f_0.head = false ∧ ((S 26).m.vc k).q.length < 4 ∧ ((S 26).m.vc k).drop = false ∧ 0 ≠ k) ∧
    (let y : Station := (S 26).m.stn 31;
    let k : ℕ := kVc (spineTile 31) 6 3;
    (∀ (c : ℕ), c = 1 ∨ c = 2 ∨ c = 3 → Tab.get dNil y.exit c = []) ∧ (S 26).m.test.scan = false ∧ (S 26).m.hasSpine = true ∧
    y.st.runs = true ∧ y.dying = false ∧ (S 26).m.domLive (spineTile 31) = true ∧ Tab.get dNil y.exit 0 = (f_0, 4, 3) :: r_0 ∧
    f_0.head = false ∧ ((S 26).m.vc k).q.length < 4 ∧ ((S 26).m.vc k).drop = false ∧ 0 / 12 ≠ k / 12) ∧
    (let y : Station := (S 0).m.stn 31;
    (∀ (c : ℕ), Tab.get dNil y.exit c = []) ∧ (S 0).m.test.scan = false ∧ (S 0).m.hasSpine = true) ∧
    ((S 5).m.test.scan = false ∧ (S 5).m.hasSpine = true ∧ (S 5).m.clk.fstop = false ∧ (S 5).m.spineUp = true ∧ ((S 5).m.stn
    31).dying = true) ∧
    ((S 22).m.test.scan = false ∧ ((S 22).m.keep.st ≠ KSt.track ∨ (S 22).m.gridDue = false ∨ (S 22).m.clk.fstop = true ∨
    (S 22).m.spineUp = false)) ∧
    ((S 28).m.test.scan = false ∧ ((S 28).m.clk.fstop = true ∨ (S 28).m.hasSpine = false)) ∧
    (let sp : Spine := (S 15).m.spine;
    (S 15).m.test.scan = false ∧ (S 15).m.clk.fstop = false ∧ (S 15).m.spineUp = true ∧ (S 15).m.keep.st = KSt.track ∧
    (S 15).m.gridDue = true ∧ sp.lock = Lock.free) ∧
    (let sp : Spine := (S 0).m.spine;
    (S 0).m.test.scan = false ∧ (S 0).m.clk.fstop = false ∧ (S 0).m.spineUp = true ∧ (S 0).m.keep.st = KSt.track ∧
    (S 0).m.gridDue = true ∧ sp.lock = Lock.acq ∧ sp.acqNext = false) ∧
    (let sp : Spine := (S 3).m.spine;
    let g : ℕ := if (S 3).m.clk.mode = 1 then 480 else 160;
    let e : ℤ := if g / 2 ≤ sp.cyc % g then ↑(sp.cyc % g) - ↑g else ↑(sp.cyc % g);
    (S 3).m.test.scan = false ∧ (S 3).m.clk.fstop = false ∧ (S 3).m.spineUp = true ∧ (S 3).m.keep.st = KSt.track ∧
    (S 3).m.gridDue = true ∧ (sp.lock = Lock.locked ∨ sp.lock = Lock.slew) ∧ sp.acqNext = false ∧ sp.pend = false ∧ e.natAbs ≤ 1) ∧
    (let sp : Spine := (S 18).m.spine;
    let g : ℕ := if (S 18).m.clk.mode = 1 then 480 else 160;
    let e : ℤ := if g / 2 ≤ sp.cyc % g then ↑(sp.cyc % g) - ↑g else ↑(sp.cyc % g);
    (S 18).m.test.scan = false ∧ (S 18).m.clk.fstop = false ∧ (S 18).m.spineUp = true ∧ (S 18).m.keep.st = KSt.track ∧
    (S 18).m.gridDue = true ∧ (sp.lock = Lock.locked ∨ sp.lock = Lock.slew) ∧ sp.acqNext = false ∧ sp.pend = false ∧ 2 ≤ e.natAbs ∧
    e.natAbs ≤ 8) ∧
    (let sp : Spine := (S 20).m.spine;
    let g : ℕ := if (S 20).m.clk.mode = 1 then 480 else 160;
    let e : ℤ := if g / 2 ≤ sp.cyc % g then ↑(sp.cyc % g) - ↑g else ↑(sp.cyc % g);
    (S 20).m.test.scan = false ∧ (S 20).m.clk.fstop = false ∧ (S 20).m.spineUp = true ∧ (S 20).m.keep.st = KSt.track ∧
    (S 20).m.gridDue = true ∧ (sp.lock = Lock.locked ∨ sp.lock = Lock.slew) ∧ sp.acqNext = false ∧ sp.pend = false ∧ 8 < e.natAbs) ∧
    (let sp : Spine := (S 1).m.spine;
    let g : ℕ := if (S 1).m.clk.mode = 1 then 480 else 160;
    let e : ℤ := if g / 2 ≤ sp.cyc % g then ↑(sp.cyc % g) - ↑g else ↑(sp.cyc % g);
    (S 1).m.test.scan = false ∧ (S 1).m.clk.fstop = false ∧ (S 1).m.spineUp = true ∧ (S 1).m.keep.st = KSt.track ∧
    (S 1).m.gridDue = true ∧ sp.lock = Lock.locked ∧ sp.acqNext = false ∧ sp.pend = true ∧ (S 1).m.fld 524312 0 64 ≤
    (S 1).m.gridNow ∧ e.natAbs ≤ 1) ∧
    (let sp : Spine := (S 29).m.spine;
    let g : ℕ := if (S 29).m.clk.mode = 1 then 480 else 160;
    let e : ℤ := if g / 2 ≤ sp.cyc % g then ↑(sp.cyc % g) - ↑g else ↑(sp.cyc % g);
    (S 29).m.test.scan = false ∧ (S 29).m.clk.fstop = false ∧ (S 29).m.spineUp = true ∧ (S 29).m.keep.st = KSt.track ∧
    (S 29).m.gridDue = true ∧ sp.lock = Lock.locked ∧ sp.acqNext = false ∧ sp.pend = true ∧ (S 29).m.gridNow < (S 29).m.fld 524312
    0 64 ∧ e.natAbs ≤ 1) ∧
    (let y : Station := (S 0).m.stn 31;
    (S 0).m.test.scan = false ∧ (S 0).m.hasSpine = true ∧ (y.st ≠ StnSt.closing ∨ (S 0).m.stnEmpty 31 = false)) ∧
    (let y : Station := (S 0).m.stn 31;
    (S 0).m.test.scan = false ∧ (S 0).m.hasSpine = true ∧ (y.onReq = false ∨ y.onDue = false ∨ (S 0).m.spine.slot ≠ 0 ∨ y.st =
    StnSt.closing ∧ (S 0).m.stnEmpty 31 = false)) ∧
    (let y : Station := (S 8).m.stn 31;
    (S 8).m.test.scan = false ∧ (S 8).m.hasSpine = true ∧ y.st ≠ StnSt.dead) ∧
    (let y : Station := (S 30).m.stn 31;
    (S 30).m.test.scan = false ∧ (S 30).m.hasSpine = true ∧ y.st ≠ StnSt.dead ∧ 3 ∈ [3, 5, 9, 11] ∧ ((S 30).m.vc (kVc (spineTile
    31) 6 3)).cut = true) ∧
    (let y : Station := (S 0).m.stn 31;
    (S 0).m.test.scan = false ∧ (S 0).m.hasSpine = true ∧ y.st ≠ StnSt.dead ∧ (∀ c ∈ [3, 5, 9, 11], ((S 0).m.vc (kVc (spineTile
    31) 6 c)).cut = false)) ∧
    (let y : Station := (S 24).m.stn 31;
    (S 24).m.test.scan = false ∧ (S 24).m.hasSpine = true ∧ y.st = StnSt.dead) :=
  ⟨by
    intro sp sl
    exact ⟨Tab.get_all (a := Station.init) (t := (S 0).m.spine.stn) (P := fun y => y.st ≠ .dead ∧
        y.dying = false) (fun _ => rfl) (by decide) (by decide +kernel), by decide +kernel⟩,
   by
    exact ⟨Tab.get_all (a := Station.init) (t := (S 6).m.spine.stn) (P :=
        fun y => y.dying = false) (fun _ => rfl) (by decide) (by decide +kernel), by decide +kernel⟩,
   by
    intro sp sl
    exact ⟨Tab.get_all (a := Station.init) (t := (S 3).m.spine.stn) (P := fun y => y.st ≠ .dead ∧
        y.dying = false) (fun _ => rfl) (by decide) (by decide +kernel), by decide +kernel⟩,
   by
    intro sp sl
    exact ⟨Tab.get_all (a := Station.init) (t := (S 8).m.spine.stn) (P := fun y => y.st ≠ .dead ∧
        y.dying = false) (fun _ => rfl) (by decide) (by decide +kernel), by decide +kernel⟩,
   by
    intro sp sl n mask
    exact ⟨Tab.get_all (a := Station.init) (t := (S 4).m.spine.stn) (P := fun y => y.st ≠ .dead ∧
        y.dying = false) (fun _ => rfl) (by decide) (by decide +kernel), by decide +kernel⟩,
   by
    intro sp sl u
    exact ⟨Tab.get_all (a := Station.init) (t := (S 11).m.spine.stn) (P := fun y => y.st ≠ .dead ∧
        y.dying = false) (fun _ => rfl) (by decide) (by decide +kernel), by decide +kernel⟩,
   by
    intro y x
    exact ⟨Tab.get_ne (d := dEng) (a := Eng.init) (t := (S 23).m.engs) (P :=
        fun x => x.wait ≠ Wait.portOff 31) (fun _ => rfl) (by decide) (by decide +kernel), by decide +kernel⟩,
   by
    intro y x
    exact ⟨Tab.get_ne (d := dEng) (a := Eng.init) (t := (S 24).m.engs) (P :=
        fun x => x.wait ≠ Wait.portOn 31) (fun _ => rfl) (by decide) (by decide +kernel), by decide +kernel⟩,
   by
    intro y x
    exact ⟨Tab.get_ne (d := dEng) (a := Eng.init) (t := (S 25).m.engs) (P :=
        fun x => x.wait ≠ Wait.portOn 31) (fun _ => rfl) (by decide) (by decide +kernel),
        wait_all (P := fun w => w ≠ Wait.portOff 31) (by decide) (by decide +kernel), by decide +kernel⟩,
   by
    intro y k
    exact ⟨(by rintro c (rfl | rfl | rfl) <;> decide +kernel), by decide +kernel⟩,
   by
    intro y k
    exact ⟨(by rintro c (rfl | rfl | rfl) <;> decide +kernel), by decide +kernel⟩,
   by
    intro y
    exact ⟨fun _ => rfl, by decide +kernel⟩,
   by and_intros <;> decide +kernel⟩

end SpineSlots

namespace ShaperInstructions

def v1 : Word := BitVec.ofNat 64 (1 * 2^62 + 3 * 2^60 + 2^59 + 255 * 2^50 + 1000 * 2^20 + 7)
def ep (n k : Nat) : Word := BitVec.ofNat 64 (n * 2^48 + k)
def rv : Resv := ⟨5, 5, 3, 1, 0, 1, 10, 10, [0], 0⟩
def pj : InjP := ⟨1, ⟨0,[],false⟩, 0, 3, 0, false, false, false, false, none, false, none, 0, none⟩
def states : List Machine.State :=
  [run (ins 0x80 0 1 2 0) [(1, ep 515 63), (2, v1)] up,
   run (ins 0x80 0 1 2 0) [(1, ep 5 3), (2, 0xC000000000000000 ||| v1)] up,
   run (ins 0x80 0 1 2 0) [(1, ep 5 3), (2, v1 ^^^ 0xC000000000000000)] up,
   run (ins 0x80 0 1 2 0) [(1, ep 5 3), (2, v1)] (up.modNiu 5 (fun y => { y with inj := [pj] })),
   run (ins 0x80 0 1 2 0) [(1, ep 5 3), (2, v1)] { up with adm := ⟨[rv],[],1⟩ },
   run (ins 0x81 15 1 0 0) [(1, ep 512 0)] up]
def S (i : Nat) : Machine.State := states.getD i (st up)

/-- The hypotheses of `Obligations.ShaperInstructions` met, clause by clause. -/
theorem wit_ShaperInstructions :
    (let x : Eng := (S 0).m.eng 0;
    let y : Niu := (S 0).m.niu 515;
    let h : Shaper := y.shaper 515 63;
    let v : Word := x.reg (wB 0x8001200000000000#64);
    515 < 516 ∧ 63 < 64 ∧ BitVec.toNat (x.reg (wA 0x8001200000000000#64)) = 515 * 2 ^ 48 + 63 ∧ inScope 0 (some (quadOf (epTile 515)))
    = true ∧ (S 0).m.domLive (epTile 515) = true ∧ Issues (S 0) 0 (0x8001200000000000#64) 128 ∧ (∀ r ∈ (S 0).m.adm.led, r.ep ≠
    515 ∨ r.shp ≠ 63) ∧ bf v 62 2 < 2 ∧ bf v 50 8 ≠ 0 ∧ (bf v 60 2 = 3 → bf v 62 2 = 1) ∧ bf v 40 10 = 0 ∧ (bf v 60 2 = h.tc ∨ y.inj =
    [])) ∧
    (let x : Eng := (S 1).m.eng 0;
    let v : Word := x.reg (wB 0x8001200000000000#64);
    5 < 516 ∧ 3 < 64 ∧ BitVec.toNat (x.reg (wA 0x8001200000000000#64)) = 5 * 2 ^ 48 + 3 ∧ inScope 0 (some (quadOf (epTile 5))) = true ∧
    (S 1).m.domLive (epTile 5) = true ∧ Issues (S 1) 0 (0x8001200000000000#64) 128 ∧ (bf v 62 2 = 3 ∨ (bf v 62 2 = 2 ∧ ∀ r ∈
    (S 1).m.adm.led, r.ep ≠ 5 ∨ r.shp ≠ 3) ∨ bf v 50 8 = 0 ∨ bf v 60 2 = 3 ∧ bf v 62 2 = 0 ∨ bf v 40 10 ≠ 0)) ∧
    (let x : Eng := (S 3).m.eng 0;
    let y : Niu := (S 3).m.niu 5;
    let h : Shaper := y.shaper 5 3;
    let v : Word := x.reg (wB 0x8001200000000000#64);
    5 < 516 ∧ 3 < 64 ∧ BitVec.toNat (x.reg (wA 0x8001200000000000#64)) = 5 * 2 ^ 48 + 3 ∧ inScope 0 (some (quadOf (epTile 5))) = true ∧
    (S 3).m.domLive (epTile 5) = true ∧ Issues (S 3) 0 (0x8001200000000000#64) 128 ∧ (∀ r ∈ (S 3).m.adm.led, r.ep ≠ 5 ∨ r.shp ≠
    3) ∧ bf v 62 2 < 2 ∧ bf v 50 8 ≠ 0 ∧ (bf v 60 2 = 3 → bf v 62 2 = 1) ∧ bf v 40 10 = 0 ∧ bf v 60 2 ≠ h.tc ∧ (∃ p ∈ y.inj, p.shp = 3)) ∧
    (let x : Eng := (S 5).m.eng 0;
    512 < 516 ∧ 0 < 64 ∧ BitVec.toNat (x.reg (wA 0x81F1000000000000#64)) = 512 * 2 ^ 48 + 0 ∧ inScope 0 (some (quadOf (epTile 512))) =
    true ∧ (S 5).m.domLive (epTile 512) = true ∧ Issues (S 5) 0 (0x81F1000000000000#64) 129) :=
  by and_intros <;> decide +kernel

end ShaperInstructions

namespace Admission

def d0 (tc ep sh nfl n : Nat) : Word := BitVec.ofNat 64 (7 * 2^48 + ep * 2^38 + sh * 2^32 + tc * 2^30 + nfl * 2^25 + n * 2^16)
def d1 (rate burst : Nat) : Word := BitVec.ofNat 64 (rate * 2^32 + burst)
def sh (n k : Nat) (h : Shaper) (m : Mach) : Mach := m.modNiu n (fun x => { x with shp := Tab.set (Shaper.init n) x.shp k h })
def b0 : Mach := (sh 5 3 { Shaper.off with tc := 1 } ((up.modLink 0 (fun k => { k with st := .up})).setReg 0x200 0x1010))
def vr (rate age : Nat) : Resv := ⟨7, 5, 3, 1, 0, 1, rate, 9, [0], age⟩
def vx : Resv := ⟨7, 7, 2, 1, 0, 1, 0xFFFFF, 9, [2], 3⟩
def states : List Machine.State :=
  [mk (ins 0x85 4 0 0 (64 * 2^24)) [] 64 [d0 1 5 3 1 1, d1 10 9, 0] b0,
   mk (ins 0x85 4 0 0 (64 * 2^24)) [] 64 [d0 1 5 3 1 1, d1 0xFFFFF 9, 0] b0,
   run (ins 0x86 0 1 0 0) [(1, BitVec.ofNat 64 (5 * 2^48 + 3))] { b0 with adm := ⟨[vr 10 0], [5, 6], 1⟩ },
   run (ins 0x86 0 1 0 0) [(1, BitVec.ofNat 64 (5 * 2^48 + 3))] b0,
   st { b0 with adm := ⟨[vr 0xFFFFF 0], [5], 1⟩},
   mk (ins 0x85 4 0 0 (64 * 2^24)) [] 64 [d0 1 5 3 1 1, d1 10 9, 0] { b0 with adm := ⟨[vr 9 4], [], 5⟩ },
   mk (ins 0x85 4 0 0 (64 * 2^24)) [] 64 [d0 0 5 3 1 1, d1 10 9, 0] b0,
   mk (ins 0x85 4 0 0 (64 * 2^24)) [] 64 [d0 1 5 3 1 2, d1 10 9, 1024 * 2^16] { b0 with straps := ⟨3, false⟩ },
   mk (ins 0x85 4 0 0 (64 * 2^24)) [] 64 [d0 1 5 3 1 1, d1 10 9, 0] { b0 with adm := ⟨[vx], [], 5⟩ },
   mk (ins 0x86 0 1 0 0) [(1, BitVec.ofNat 64 (5 * 2^48 + 3))] 64 [] { b0 with adm := ⟨[vr 9 3, vx], [], 5⟩ },
   st (eng 1 (ins 0x85 4 0 0 (64 * 2^24)) id b0),
   st
     { b0 with adm := ⟨[{ vr 0x80000 0 with tc := 3, shp := 1 }, { vr 0xFFFFF 1 with tc := 2, shp := 2 },
               { vr 0xFFFFF 2 with rlvl := 2 }, { vr 5 7 with shp := 9 }, vx], [], 9⟩},
   st { b0 with adm := ⟨[vr 0xFFFFF 0], List.replicate 64 5, 1⟩}]
def all_v : List Resv := [vr 10 0, { vr 10 0 with tc := 0 }, { vr 10 0 with res := [0, 1024] }, vr 0xFFFFF 0]
def S (i : Nat) : Machine.State := states.getD i (st up)
def v_0 : Resv := all_v[0]'(by decide +kernel)
def v_3 : Resv := all_v[3]'(by decide +kernel)
def v_1 : Resv := all_v[1]'(by decide +kernel)
def v_2 : Resv := all_v[2]'(by decide +kernel)
def led_2 : Resv := (S 2).m.adm.led[0]'(by decide +kernel)
def led_9 : Resv := (S 9).m.adm.led[0]'(by decide +kernel)

/-- The hypotheses of `Obligations.Admission` met, clause by clause. -/
theorem wit_Admission :
    (let adm : Adm := (S 0).m.adm;
    let led : List Resv := List.filter (fun u => !(u.ep == v_0.ep && u.shp == v_0.shp)) adm.led;
    let old : Option Resv := List.find? (fun u => u.ep == v_0.ep && u.shp == v_0.shp) adm.led;
    let v' : Resv :=
      { flow := v_0.flow, ep := v_0.ep, shp := v_0.shp, tc := v_0.tc, rlvl := v_0.rlvl, nfl := v_0.nfl, rate := v_0.rate,
        burst := v_0.burst, res := v_0.res, age := (Option.map Resv.age old).getD adm.age };
    (Issues (S 0) 0 (0x8540000040000000#64) 133 ∧ bf (0x8540000040000000#64) 24 16 % 8 = 0 ∧ (S 0).m.resvDesc 0
    0x8540000040000000#64 = (v_0, 1)) ∧ ((S 0).m.failing = none ∧ (S 0).m.domLive (epTile v_0.ep) = true) ∧
    (S 0).m.resvRange v_0 1 = false ∧ (∀ r ∈ v_0.res, (fun (r : ℕ) => (S 0).m.hasSpine = true ∨ r < 1024) r →
    (S 0).m.resMeets (led ++ [v']) r = true) ∧ (∀ r ∈ v_0.res, (fun (r : ℕ) => (S 0).m.hasSpine = true ∨ r < 1024) r)) ∧
    (let adm : Adm := (S 1).m.adm;
    let led : List Resv := List.filter (fun u => !(u.ep == v_3.ep && u.shp == v_3.shp)) adm.led;
    let old : Option Resv := List.find? (fun u => u.ep == v_3.ep && u.shp == v_3.shp) adm.led;
    let v' : Resv :=
      { flow := v_3.flow, ep := v_3.ep, shp := v_3.shp, tc := v_3.tc, rlvl := v_3.rlvl, nfl := v_3.nfl, rate := v_3.rate,
        burst := v_3.burst, res := v_3.res, age := (Option.map Resv.age old).getD adm.age };
    (Issues (S 1) 0 (0x8540000040000000#64) 133 ∧ bf (0x8540000040000000#64) 24 16 % 8 = 0 ∧ (S 1).m.resvDesc 0
    0x8540000040000000#64 = (v_3, 1)) ∧ (S 1).m.resvRange v_3 1 = false ∧ v_3.res[0]? = some 0 ∧ ((fun (r : ℕ) =>
    (S 1).m.hasSpine = true ∨ r < 1024) 0) ∧ (S 1).m.resMeets (led ++ [v']) 0 = false ∧ (∀ j < 0, ∀ (q : ℕ), v_3.res[j]? = some
    q → (fun (r : ℕ) => (S 1).m.hasSpine = true ∨ r < 1024) q → (S 1).m.resMeets (led ++ [v']) q = true)) ∧
    ((Issues (S 6) 0 (0x8540000040000000#64) 133 ∧ bf (0x8540000040000000#64) 24 16 % 8 = 0 ∧ (S 6).m.resvDesc 0
    0x8540000040000000#64 = (v_1, 1)) ∧ (S 6).m.resvRange v_1 1 = true) ∧
    (let adm : Adm := (S 7).m.adm;
    let led : List Resv := List.filter (fun u => !(u.ep == v_2.ep && u.shp == v_2.shp)) adm.led;
    let old : Option Resv := List.find? (fun u => u.ep == v_2.ep && u.shp == v_2.shp) adm.led;
    let v' : Resv :=
      { flow := v_2.flow, ep := v_2.ep, shp := v_2.shp, tc := v_2.tc, rlvl := v_2.rlvl, nfl := v_2.nfl, rate := v_2.rate,
        burst := v_2.burst, res := v_2.res, age := (Option.map Resv.age old).getD adm.age };
    1024 ∈ v_2.res ∧ (Issues (S 7) 0 (0x8540000040000000#64) 133 ∧ bf (0x8540000040000000#64) 24 16 % 8 = 0 ∧ (S 7).m.resvDesc
    0 0x8540000040000000#64 = (v_2, 2)) ∧ (S 7).m.resvRange v_2 2 = false ∧ (∀ r ∈ v_2.res, (fun (r : ℕ) =>
    (S 7).m.hasSpine = true ∨ r < 1024) r → (S 7).m.resMeets (led ++ [v']) r = true) ∧ (¬(fun (r : ℕ) => (S 7).m.hasSpine = true ∨
    r < 1024) 1024)) ∧
    (let adm : Adm := (S 8).m.adm;
    let led : List Resv := List.filter (fun u => !(u.ep == v_0.ep && u.shp == v_0.shp)) adm.led;
    let old : Option Resv := List.find? (fun u => u.ep == v_0.ep && u.shp == v_0.shp) adm.led;
    let v' : Resv :=
      { flow := v_0.flow, ep := v_0.ep, shp := v_0.shp, tc := v_0.tc, rlvl := v_0.rlvl, nfl := v_0.nfl, rate := v_0.rate,
        burst := v_0.burst, res := v_0.res, age := (Option.map Resv.age old).getD adm.age };
    (Issues (S 8) 0 (0x8540000040000000#64) 133 ∧ bf (0x8540000040000000#64) 24 16 % 8 = 0 ∧ (S 8).m.resvDesc 0
    0x8540000040000000#64 = (v_0, 1)) ∧ (S 8).m.resvRange v_0 1 = false ∧ (∀ r ∈ v_0.res, (fun (r : ℕ) =>
    (S 8).m.hasSpine = true ∨ r < 1024) r → (S 8).m.resMeets (led ++ [v']) r = true) ∧ (∀ r ∈ v_0.res, (fun (r : ℕ) =>
    (S 8).m.hasSpine = true ∨ r < 1024) r) ∧ (S 8).m.failing ≠ none) ∧
    (1 ≠ 0 ∧ Issues (S 10) 1 (0x8540000040000000#64) 133) ∧
    (let x : Eng := (S 2).m.eng 0;
    let adm : Adm := (S 2).m.adm;
    led_2 ∈ adm.led ∧ Issues (S 2) 0 (0x8601000000000000#64) 134 ∧ ((S 2).m.failing = none ∧ (S 2).m.domLive (epTile v_0.ep)
    = true) ∧ led_2.ep = v_0.ep ∧ led_2.shp = v_0.shp ∧ v_0.ep < 516 ∧ v_0.shp < 64 ∧ BitVec.toNat (x.reg (wA
    0x8601000000000000#64)) = v_0.ep * 2 ^ 48 + v_0.shp) ∧
    (let x : Eng := (S 3).m.eng 0;
    let adm : Adm := (S 3).m.adm;
    Issues (S 3) 0 (0x8601000000000000#64) 134 ∧ (∀ u ∈ adm.led, u.ep ≠ v_0.ep ∨ u.shp ≠ v_0.shp) ∧ v_0.ep < 516 ∧
    v_0.shp < 64 ∧ BitVec.toNat (x.reg (wA 0x8601000000000000#64)) = v_0.ep * 2 ^ 48 + v_0.shp) ∧
    (let x : Eng := (S 9).m.eng 0;
    let adm : Adm := (S 9).m.adm;
    led_9 ∈ adm.led ∧ Issues (S 9) 0 (0x8601000000000000#64) 134 ∧ (S 9).m.failing ≠ none ∧ led_9.ep = v_0.ep ∧ led_9.shp =
    v_0.shp ∧ v_0.ep < 516 ∧ v_0.shp < 64 ∧ BitVec.toNat (x.reg (wA 0x8601000000000000#64)) = v_0.ep * 2 ^ 48 +
    v_0.shp) ∧
    ((S 0).m.test.scan = false ∧ (S 0).m.failing = none) ∧
    (Takes (S 0) 536 ∧ bt (1#64) 0 = true) ∧
    (let adm : Adm := (S 0).m.adm;
    (S 0).m.test.scan = false ∧ adm.led.length ≤ 1024) ∧
    ((S 4).m.test.scan = false ∧ (S 4).m.adm.led = [v_3] ∧ v_3.res = [0] ∧ (S 4).m.resMeets [v_3] 0 = false ∧
    (S 4).m.adm.brq.length < 64 ∧ v_3.ep < 516 ∧ (S 4).m.domLive (epTile v_3.ep) = true) :=
  by and_intros <;> decide +kernel

end Admission

namespace FlowInstructions

def ce (f : BitVec 16) : FcE := ⟨f, mkf 512 0 1 1 ||| mkf 512 1 10 5, none, false, false, false, false, false, false, false,
  false⟩
def base : Mach := (((up.modNiu 5 (fun y => { y with fc := [ce 9, ce 8] })).modNiu 300 (fun y =>
  { y with fc := [ce 9] })).setReg 0x48 1)
def states : List Machine.State :=
  [run (ins 0x70 0 1 0 4) [(1, 9)] { base with held := [3, 9]},
   run (ins 0x71 0 1 0 0) [(1, 9)] base,
   run (ins 0x71 0 1 0 (2^42)) [(1, 9)] base,
   run (ins 0x71 0 1 0 (2^42)) [(1, 9)] { base with held := [1,2,3,4] },
   run (ins 0x71 0 1 0 7) [(1, 9)] ((up.modNiu 5 (fun y => { y with fc := [{ ce 9 with dirtyS := true }] })).setReg 0x48 1)]
def all_c : List FcE := [{ ce 9 with dirtyS := true }]
def S (i : Nat) : Machine.State := states.getD i (st up)
def c_0 : FcE := all_c[0]'(by decide +kernel)

/-- The hypotheses of `Obligations.FlowInstructions` met, clause by clause. -/
theorem wit_FlowInstructions :
    (let x : Eng := (S 0).m.eng 0;
    ((S 0).m.Calm ∧ ∀ (n : ℕ), (S 0).m.wbOut n 9#16 = false ∧ (∀ p ∈ ((S 0).m.niu n).inj, hFlow p.pkt.hd ≠ 9#16) ∧ ∀ c ∈
    ((S 0).m.niu n).fc, c.flow = 9#16 → c.pinned = false) ∧ BitVec.toNat (x.reg (wA 0x7001000000000004#64)) = (9#16).toNat ∧
    (9#16).toNat < 65534 ∧ ((S 0).m.token = none ∨ (S 0).m.token = some 0) ∧ Issues (S 0) 0 (0x7001000000000004#64) 112 ∧ 8#16 ≠
    9#16) ∧
    (let x : Eng := (S 1).m.eng 0;
    ((S 1).m.Calm ∧ ∀ (n : ℕ), (S 1).m.wbOut n 9#16 = false ∧ (∀ p ∈ ((S 1).m.niu n).inj, hFlow p.pkt.hd ≠ 9#16) ∧ ∀ c ∈
    ((S 1).m.niu n).fc, c.flow = 9#16 → c.pinned = false) ∧ (∀ (n : ℕ), ∀ c ∈ ((S 1).m.niu n).fc, c.flow = 9#16 → c.dirtyS = false ∧
    c.dirtyR = false) ∧ BitVec.toNat (x.reg (wA 0x7101000000000000#64)) = (9#16).toNat ∧ (9#16).toNat < 65534 ∧ ((S 1).m.token = none
    ∨ (S 1).m.token = some 0) ∧ Issues (S 1) 0 (0x7101000000000000#64) 113 ∧ bt (0x7101000000000000#64) 42 = false ∧ 8#16 ≠ 9#16) ∧
    (let x : Eng := (S 2).m.eng 0;
    ((S 2).m.Calm ∧ ∀ (n : ℕ), (S 2).m.wbOut n 9#16 = false ∧ (∀ p ∈ ((S 2).m.niu n).inj, hFlow p.pkt.hd ≠ 9#16) ∧ ∀ c ∈
    ((S 2).m.niu n).fc, c.flow = 9#16 → c.pinned = false) ∧ (∀ (n : ℕ), ∀ c ∈ ((S 2).m.niu n).fc, c.flow = 9#16 → c.dirtyS = false ∧
    c.dirtyR = false) ∧ BitVec.toNat (x.reg (wA 0x7101040000000000#64)) = (9#16).toNat ∧ (9#16).toNat < 65534 ∧ ((S 2).m.token = none
    ∨ (S 2).m.token = some 0) ∧ Issues (S 2) 0 (0x7101040000000000#64) 113 ∧ bt (0x7101040000000000#64) 42 = true ∧
    (S 2).m.held.contains 9#16 = false ∧ (S 2).m.held.length < 4 ∧ 8#16 ≠ 9#16) ∧
    (let x : Eng := (S 4).m.eng 0;
    ((S 4).m.Calm ∧ ∀ (n : ℕ), (S 4).m.wbOut n 9#16 = false ∧ (∀ p ∈ ((S 4).m.niu n).inj, hFlow p.pkt.hd ≠ 9#16) ∧ ∀ c ∈
    ((S 4).m.niu n).fc, c.flow = 9#16 → c.pinned = false) ∧ (∀ (k : ℕ), k ≠ 5 → ((S 4).m.niu k).fc = []) ∧ BitVec.toNat (x.reg (wA
    0x7101000000000007#64)) = (9#16).toNat ∧ (9#16).toNat < 65534 ∧ ((S 4).m.token = none ∨ (S 4).m.token = some 0) ∧ Issues
    (S 4) 0 (0x7101000000000007#64) 113 ∧ bt (0x7101000000000007#64) 42 = false ∧ 5 < 516 ∧ ((S 4).m.niu 5).fc = [c_0] ∧
    c_0.flow = 9#16 ∧ c_0.dirtyS = true ∧ c_0.dirtyR = false ∧ c_0.dflt = false ∧ c_0.drop = false ∧
    (S 4).m.domLive (epTile (niuService 5)) = true ∧ (S 4).m.serviceRoom (niuService 5) true 1 = true) ∧
    (let x : Eng := (S 3).m.eng 0;
    BitVec.toNat (x.reg (wA 0x7101040000000000#64)) = (9#16).toNat ∧ (9#16).toNat < 65534 ∧ ((S 3).m.token = none ∨ (S 3).m.token =
    some 0) ∧ Issues (S 3) 0 (0x7101040000000000#64) 113 ∧ bt (0x7101040000000000#64) 42 = true ∧ (S 3).m.held.contains 9#16 =
    false ∧ 4 ≤ (S 3).m.held.length) :=
  ⟨by
    intro x
    exact ⟨⟨⟨calm_all (by decide +kernel), no_pin (by decide +kernel)⟩, fun n => by
      have b := niu_all (m := (S 0).m) (P := fun y => y.pwb = []) (by decide) (by decide +kernel) (niuService n)
      exact ⟨by simp [Mach.wbOut, b], niu_all (P := fun y => (∀ p ∈ y.inj, hFlow p.pkt.hd ≠ 9#16) ∧ ∀ c ∈ y.fc,
          c.flow = 9#16 → c.pinned = false)
        (by decide) (by decide +kernel) n⟩⟩, by dsimp only [Issues]; decide +kernel⟩,
   by
    intro x
    exact ⟨⟨⟨calm_all (by decide +kernel), no_pin (by decide +kernel)⟩, fun n => by
      have b := niu_all (m := (S 1).m) (P := fun y => y.pwb = []) (by decide) (by decide +kernel) (niuService n)
      exact ⟨by simp [Mach.wbOut, b], niu_all (P := fun y => (∀ p ∈ y.inj, hFlow p.pkt.hd ≠ 9#16) ∧ ∀ c ∈ y.fc,
          c.flow = 9#16 → c.pinned = false)
        (by decide) (by decide +kernel) n⟩⟩, Tab.get_all (a := Niu.init) (t := (S 1).m.nius) (P := fun y => ∀ c ∈ y.fc,
            c.flow = 9#16 → c.dirtyS = false ∧ c.dirtyR = false) (fun _ => rfl) (by decide)
      (by decide +kernel), by dsimp only [Issues]; decide +kernel⟩,
   by
    intro x
    exact ⟨⟨⟨calm_all (by decide +kernel), no_pin (by decide +kernel)⟩, fun n => by
      have b := niu_all (m := (S 2).m) (P := fun y => y.pwb = []) (by decide) (by decide +kernel) (niuService n)
      exact ⟨by simp [Mach.wbOut, b], niu_all (P := fun y => (∀ p ∈ y.inj, hFlow p.pkt.hd ≠ 9#16) ∧ ∀ c ∈ y.fc,
          c.flow = 9#16 → c.pinned = false)
        (by decide) (by decide +kernel) n⟩⟩, Tab.get_all (a := Niu.init) (t := (S 2).m.nius) (P := fun y => ∀ c ∈ y.fc,
            c.flow = 9#16 → c.dirtyS = false ∧ c.dirtyR = false) (fun _ => rfl) (by decide)
      (by decide +kernel), by dsimp only [Issues]; decide +kernel⟩,
   by
    intro x
    exact ⟨⟨⟨calm_all (by decide +kernel), no_pin (by decide +kernel)⟩, fun n => by
      have b := niu_all (m := (S 4).m) (P := fun y => y.pwb = []) (by decide) (by decide +kernel) (niuService n)
      exact ⟨by simp [Mach.wbOut, b], niu_all (P := fun y => (∀ p ∈ y.inj, hFlow p.pkt.hd ≠ 9#16) ∧ ∀ c ∈ y.fc,
          c.flow = 9#16 → c.pinned = false)
        (by decide) (by decide +kernel) n⟩⟩, Tab.get_ne (a := Niu.init) (t := (S 4).m.nius) (P :=
            fun y => y.fc = []) (fun _ => rfl) (by decide) (by decide +kernel), by dsimp only [Issues]; decide +kernel⟩,
   by and_intros <;> decide +kernel⟩

end FlowInstructions

namespace FlowEntries

def ce (f : BitVec 16) : FcE := ⟨f, mkf 512 0 1 1 ||| mkf 512 1 10 5, none, false, false, false, false, false, false, false,
  false⟩
def w72 (u : Nat) : Word := ins 0x72 0 1 2 (u * 2^42)
def en (m : Mach) : Mach := m.setReg 0x48 1
def svc (own : Owner) (st : Nat) (m : Mach) : Mach := m.modNiu 512 (fun y =>
  { y with trk := [(0, some ⟨1, 0, 0xFFFE, 0, [0], 5, false, false, 1, own, false, none, false, false, none, 0, [], false⟩)],
           ej := [(6, [fl true false (hdw 512 5 0x21 3 ||| mkf 512 64 16 0xFFFE ||| mkf 512 148 4 st ||| mkf 512 46 3 1 ||| mkf 512 37 9 64), fl false true 0xABC])] })
def sp : Pkt := ⟨hdw 512 5 0x21 3 ||| mkf 512 64 16 0xFFFE ||| mkf 512 148 4 0 ||| mkf 512 46 3 1 ||| mkf 512 37 9 64, [0xABC],
  false⟩
def sp9 : Pkt := ⟨hdw 512 5 0x21 3 ||| mkf 512 64 16 0xFFFE ||| mkf 512 148 4 9 ||| mkf 512 46 3 1 ||| mkf 512 37 9 64, [0xABC],
  false⟩
def fetching (r : EngSt) (m : Mach) : Mach := m.modEng 0 (fun x =>
  { x with state := r, fetch := some 0x8005000000000040, pc := 0x8005000000000048, lines := [(1,1),(2,2),(3,3),(4,4)] })
def fil (st : Nat) : Mach := en (svc (.fill 5 9) st (up.modNiu 5 (fun y => { y with fills := [9, 8] })))
def states : List Machine.State :=
  [run (w72 0) [(1, 5), (2, 9)] (up.modNiu 5 (fun y => { y with fc := [ce 9]})),
   run (w72 0) [(1, 5), (2, 9)] up,
   run (w72 0) [(1, 5), (2, 9)] (en up),
   run (w72 0) [(1, 5), (2, 9)] (up.modNiu 5 (fun y => {y with pins := [1,2,3,4,5,6,7,8,10,11,12,13,14,15,16,17] })),
   run (w72 1) [(1, 5), (2, 9)] (up.modNiu 5 (fun y => {y with fc := [{ ce 9 with pinned := true}], pins := [9] })),
   st (up.modNiu 5 (fun y => { y with fc := [{ ce 9 with drop := true }]})),
   st (up.modNiu 5 (fun y => { y with fc := [{ ce 9 with drop := false }]})),
   st (fetching .waiting (svc (.fetch 0 0x40) 0 up)),
   st (fetching .running (svc (.fetch 0 0x40) 9 up)),
   st (fil 0),
   st (fil 9)]
def all_c : List FcE := [ce 9, { ce 9 with drop := true }, { ce 9 with pinned := true }]
def all_p : List Pkt := [sp, sp9]
def all_t : List Trk :=
  [⟨1, 0, 0xFFFE, 0, [0], 5, false, false, 1, .fetch 0 0x40, false, none, false, false, none, 0, [], false⟩,
   ⟨1, 0, 0xFFFE, 0, [0], 5, false, false, 1, .fill 5 9, false, none, false, false, none, 0, [], false⟩]
def S (i : Nat) : Machine.State := states.getD i (st up)
def c_0 : FcE := all_c[0]'(by decide +kernel)
def c_1 : FcE := all_c[1]'(by decide +kernel)
def p_0 : Pkt := all_p[0]'(by decide +kernel)
def t_0 : Trk := all_t[0]'(by decide +kernel)
def p_1 : Pkt := all_p[1]'(by decide +kernel)
def t_1 : Trk := all_t[1]'(by decide +kernel)

/-- The hypotheses of `Obligations.FlowEntries` met, clause by clause. -/
theorem wit_FlowEntries :
    (let x : Eng := (S 1).m.eng 0;
    let y : Niu := (S 1).m.niu 5;
    (∀ (d : ℕ), d ≠ 0 → ((S 1).m.eng d).wait ≠ Wait.pin 5 9#16) ∧ Issues (S 1) 0 (0x7201200000000000#64) 114 ∧ bt
    (0x7201200000000000#64) 42 = false ∧ (BitVec.toNat (x.reg (wA 0x7201200000000000#64)) = 5 ∧ BitVec.toNat (x.reg (wB
    0x7201200000000000#64)) = (9#16).toNat ∧ (9#16).toNat < 65534 ∧ inScope 0 (some (quadOf (epTile 5))) = true ∧ (S 1).m.domLive
    (epTile 5) = true) ∧ (y.pins.contains 9#16 = false ∧ y.pins.length < 16) ∧ (y.entry 9#16 = none ∧ y.fills.contains 9#16 = false ∧
    (S 1).m.held.contains 9#16 = false ∧ (S 1).m.wbOut 5 9#16 = false ∧ y.fc.length + y.fills.length < 32) ∧ (S 1).m.tblEn = false
    ∧ y.marks = []) ∧
    (let y : Niu := (S 5).m.niu 5;
    (S 5).m.Calm ∧ (S 5).m.test.scan = false ∧ (∀ p ∈ y.inj, hFlow p.pkt.hd ≠ 9#16) ∧ y.entry 9#16 = some c_1 ∧ c_1.drop =
    true ∧ c_1.dirtyS = false ∧ c_1.dirtyR = false ∧ c_1.pinned = false ∧ (S 5).m.wbOut 5 9#16 = false) ∧
    (let y : Niu := (S 0).m.niu 5;
    (S 0).m.Calm ∧ (S 0).m.test.scan = false ∧ y.entry 9#16 = some c_0 ∧ c_0.drop = false) ∧
    (let sv : ℕ := 512 + 0;
    let y : Niu := (S 9).m.niu sv;
    (S 9).m.Calm ∧ (S 9).m.test.scan = false ∧ bt ((S 9).m.reg aMirCfg) 63 = false ∧ y.ejected 6 = some p_0 ∧ hOpc p_0.hd
    = rspOf opRD ∧ p_0.bad = false ∧ y.answeredBy p_0.hd = some t_1 ∧ (∀ (k : Quad) (v : Vc), k < 0 ∨ k = 0 ∧ v < 6 →
    ((S 9).m.niu (512 + ↑k)).ejected ↑v = none) ∧ t_1.owner = Owner.fill 5 9#16 ∧ ((S 9).m.niu 5).fills.contains 9#16 = true ∧
    (S 9).m.tblEn = true ∧ hStatus p_0.hd = 0) ∧
    (let sv : ℕ := 512 + 0;
    let y : Niu := (S 10).m.niu sv;
    (S 10).m.Calm ∧ (S 10).m.test.scan = false ∧ bt ((S 10).m.reg aMirCfg) 63 = false ∧ y.ejected 6 = some p_1 ∧ hOpc
    p_1.hd = rspOf opRD ∧ p_1.bad = false ∧ y.answeredBy p_1.hd = some t_1 ∧ (∀ (k : Quad) (v : Vc), k < 0 ∨ k = 0 ∧ v <
    6 → ((S 10).m.niu (512 + ↑k)).ejected ↑v = none) ∧ t_1.owner = Owner.fill 5 9#16 ∧ ((S 10).m.niu 5).fills.contains 9#16 =
    true ∧ hStatus p_1.hd ≠ 0) ∧
    (let x : Eng := (S 0).m.eng 0;
    let y : Niu := (S 0).m.niu 5;
    Issues (S 0) 0 (0x7201200000000000#64) 114 ∧ bt (0x7201200000000000#64) 42 = false ∧ (BitVec.toNat (x.reg (wA
    0x7201200000000000#64)) = 5 ∧ BitVec.toNat (x.reg (wB 0x7201200000000000#64)) = (9#16).toNat ∧ (9#16).toNat < 65534 ∧ inScope 0
    (some (quadOf (epTile 5))) = true ∧ (S 0).m.domLive (epTile 5) = true) ∧ (y.pins.contains 9#16 = false ∧ y.pins.length < 16) ∧
    y.entry 9#16 = some c_0) ∧
    (let x : Eng := (S 2).m.eng 0;
    let y : Niu := (S 2).m.niu 5;
    Issues (S 2) 0 (0x7201200000000000#64) 114 ∧ bt (0x7201200000000000#64) 42 = false ∧ (BitVec.toNat (x.reg (wA
    0x7201200000000000#64)) = 5 ∧ BitVec.toNat (x.reg (wB 0x7201200000000000#64)) = (9#16).toNat ∧ (9#16).toNat < 65534 ∧ inScope 0
    (some (quadOf (epTile 5))) = true ∧ (S 2).m.domLive (epTile 5) = true) ∧ (y.pins.contains 9#16 = false ∧ y.pins.length < 16) ∧
    (y.entry 9#16 = none ∧ y.fills.contains 9#16 = false ∧ (S 2).m.held.contains 9#16 = false ∧ (S 2).m.wbOut 5 9#16 = false ∧
    y.fc.length + y.fills.length < 32) ∧ (S 2).m.tblEn = true ∧ (S 2).m.domLive (epTile (niuService 5)) = true ∧
    (S 2).m.serviceRoom (niuService 5) false 1 = true) ∧
    (let x : Eng := (S 3).m.eng 0;
    let y : Niu := (S 3).m.niu 5;
    Issues (S 3) 0 (0x7201200000000000#64) 114 ∧ bt (0x7201200000000000#64) 42 = false ∧ (BitVec.toNat (x.reg (wA
    0x7201200000000000#64)) = 5 ∧ BitVec.toNat (x.reg (wB 0x7201200000000000#64)) = (9#16).toNat ∧ (9#16).toNat < 65534 ∧ inScope 0
    (some (quadOf (epTile 5))) = true ∧ (S 3).m.domLive (epTile 5) = true) ∧ y.pins.contains 9#16 = false ∧ 16 ≤ y.pins.length) ∧
    (let x : Eng := (S 4).m.eng 0;
    Issues (S 4) 0 (0x7201240000000000#64) 114 ∧ bt (0x7201240000000000#64) 42 = true ∧ (BitVec.toNat (x.reg (wA
    0x7201240000000000#64)) = 5 ∧ BitVec.toNat (x.reg (wB 0x7201240000000000#64)) = (9#16).toNat ∧ (9#16).toNat < 65534 ∧ inScope 0
    (some (quadOf (epTile 5))) = true ∧ (S 4).m.domLive (epTile 5) = true)) ∧
    ((S 0).m.test.scan = false ∧ bt (0x400000#64) 0 = (S 0).m.tblEn) ∧
    (let sv : ℕ := 512 + 0;
    let y : Niu := (S 7).m.niu sv;
    let x : Eng := (S 7).m.eng 0;
    (S 7).m.test.scan = false ∧ bt ((S 7).m.reg aMirCfg) 63 = false ∧ y.ejected 6 = some p_0 ∧ hOpc p_0.hd = rspOf opRD ∧
    p_0.bad = false ∧ y.answeredBy p_0.hd = some t_0 ∧ (∀ (k : Quad) (v : Vc), k < 0 ∨ k = 0 ∧ v < 6 → ((S 7).m.niu (512 +
    ↑k)).ejected ↑v = none) ∧ t_0.owner = Owner.fetch 0 (bf (0x8005000000000040#64) 0 48) ∧ x.fetch = some 0x8005000000000040#64 ∧
    hStatus p_0.hd = 0 ∧ x.state ≠ EngSt.running) ∧
    (let sv : ℕ := 512 + 0;
    let y : Niu := (S 8).m.niu sv;
    let x : Eng := (S 8).m.eng 0;
    (S 8).m.test.scan = false ∧ bt ((S 8).m.reg aMirCfg) 63 = false ∧ y.ejected 6 = some p_1 ∧ hOpc p_1.hd = rspOf opRD ∧
    p_1.bad = false ∧ y.answeredBy p_1.hd = some t_0 ∧ (∀ (k : Quad) (v : Vc), k < 0 ∨ k = 0 ∧ v < 6 → ((S 8).m.niu (512 +
    ↑k)).ejected ↑v = none) ∧ t_0.owner = Owner.fetch 0 (bf (0x8005000000000040#64) 0 48) ∧ x.fetch = some 0x8005000000000040#64 ∧
    hStatus p_1.hd ≠ 0 ∧ x.state = EngSt.running ∧ bt x.pc 63 = true ∧ sf x.pc 0 6 0 = 0x8005000000000040#64) :=
  ⟨by
    intro x y
    exact ⟨Tab.get_ne (d := dEng) (a := Eng.init) (t := (S 1).m.engs) (P :=
        fun x => x.wait ≠ Wait.pin 5 9#16) (fun _ => rfl) (by decide) (by decide +kernel), by dsimp only [Issues]; decide +kernel⟩,
   by
    intro y
    exact ⟨⟨calm_all (by decide +kernel), no_pin (by decide +kernel)⟩, by decide +kernel⟩,
   by
    intro y
    exact ⟨⟨calm_all (by decide +kernel), no_pin (by decide +kernel)⟩, by decide +kernel⟩,
   by
    intro sv y
    exact ⟨⟨calm_all (by decide +kernel), no_pin (by decide +kernel)⟩, by decide +kernel⟩,
   by
    intro sv y
    exact ⟨⟨calm_all (by decide +kernel), no_pin (by decide +kernel)⟩, by decide +kernel⟩,
   by and_intros <;> decide +kernel⟩

end FlowEntries

namespace CombineGroups

def gd (g n : Nat) (sub : Nat := 0) : Word := BitVec.ofNat 64 (g * 2^56 + sub * 2^52 + 8 * 2^37 + n)
def n1 : Word := BitVec.ofNat 64 (5 * 2^57 + 7 * 2^54 + 2 * 2^50)
def n2 : Word := BitVec.ofNat 64 (6 * 2^57 + 3 * 2^54 + 9 * 2^46)
def lk : Mach := up.modLink 5 (fun k => { k with st := .up })
def s1 : Machine.State := mk (ins 0x90 0 0 0 (64 * 2^24)) [] 64 [gd 255 2, n1, n2] lk
def nd : CbNode := ((s1.m.groupDesc 0 (ins 0x90 0 0 0 (64 * 2^24))).2.headD (0,
  ⟨0,0,false,0,0,0,0,0,0,.idle,[],none,[],[],0,none,[],0⟩)).2
def states : List Machine.State :=
  [s1,
   mk (ins 0x90 0 0 0 (65 * 2^24)) [] 64 [gd 255 2, n1, n2] lk,
   mk (ins 0x90 0 0 0 (64 * 2^24)) [] 64 [gd 255 2 9, n1, n2] lk,
   mk (ins 0x90 0 0 0 (64 * 2^24)) [] 64 [gd 255 2, n1, n2] up,
   mk (ins 0x90 0 0 0 (64 * 2^24)) [] 64 [gd 255 2, n1, n2] { lk with straps := ⟨2, false⟩ },
   run (ins 0x91 0 1 0 6) [(1, 0xFF)] (up.setNode 5 255 (some nd)),
   run (ins 0x91 0 1 0 6) [(1, 0xFF)] up,
   st (((up.setNode 5 255 (some nd)).setNode 5 254 (some nd)).modEng 0 (fun x =>
     { x with state := .waiting, wait := .cbFree 255, limit := some 9 })),
   st (((up.setNode 5 255 (some {nd with st := .sent})).setNode 5 254 (some nd)).modEng 0 (fun x =>
     { x with state := .waiting, wait := .cbFree 255, limit := some 9 }))]
def of_l (s : Machine.State) : List (List (Nat × CbNode)) := [(s.m.groupDesc 0 (ins 0x90 0 0 0 (64 * 2^24))).2]
def S (i : Nat) : Machine.State := states.getD i (st up)
def l_s_0_0 : List (ℕ × CbNode) := (of_l (S 0))[0]'(by decide +kernel)
def l_s_2_0 : List (ℕ × CbNode) := (of_l (S 2))[0]'(by decide +kernel)
def l_s_3_0 : List (ℕ × CbNode) := (of_l (S 3))[0]'(by decide +kernel)
def kid_0 : Nat × CbNode := l_s_0_0[0]'(by decide +kernel)

/-- The hypotheses of `Obligations.CombineGroups` met, clause by clause. -/
theorem wit_CombineGroups :
    (((S 0).m.token = none ∨ (S 0).m.token = some 0) ∧ Issues (S 0) 0 (0x9000000040000000#64) 144 ∧ (S 0).m.hasCombine = true ∧
    bf (0x9000000040000000#64) 24 16 % 8 = 0 ∧ (S 0).m.groupDesc 0 0x9000000040000000#64 = (255, l_s_0_0) ∧
    (S 0).m.groupRange 0 (0x9000000040000000#64) l_s_0_0 = false ∧ (S 0).m.groupState 255 l_s_0_0 = false ∧ kid_0 ∈
    l_s_0_0) ∧
    (((S 0).m.token = none ∨ (S 0).m.token = some 0) ∧ Issues (S 0) 0 (0x9000000040000000#64) 144 ∧ (S 0).m.hasCombine = true ∧
    bf (0x9000000040000000#64) 24 16 % 8 = 0 ∧ (S 0).m.groupDesc 0 0x9000000040000000#64 = (255, l_s_0_0) ∧
    (S 0).m.groupRange 0 (0x9000000040000000#64) l_s_0_0 = false ∧ (S 0).m.groupState 255 l_s_0_0 = false ∧ (254 ≠ 255 ∨
    ∀ r ∈ l_s_0_0, r.1 ≠ 5)) ∧
    (((S 2).m.token = none ∨ (S 2).m.token = some 0) ∧ Issues (S 2) 0 (0x9000000040000000#64) 144 ∧ (S 2).m.hasCombine = true ∧
    bf (0x9000000040000000#64) 24 16 % 8 = 0 ∧ (S 2).m.groupDesc 0 0x9000000040000000#64 = (255, l_s_2_0) ∧
    (S 2).m.groupRange 0 (0x9000000040000000#64) l_s_2_0 = true) ∧
    (((S 3).m.token = none ∨ (S 3).m.token = some 0) ∧ Issues (S 3) 0 (0x9000000040000000#64) 144 ∧ (S 3).m.hasCombine = true ∧
    bf (0x9000000040000000#64) 24 16 % 8 = 0 ∧ (S 3).m.groupDesc 0 0x9000000040000000#64 = (255, l_s_3_0) ∧
    (S 3).m.groupRange 0 (0x9000000040000000#64) l_s_3_0 = false ∧ (S 3).m.groupState 255 l_s_3_0 = true) ∧
    (((S 1).m.token = none ∨ (S 1).m.token = some 0) ∧ Issues (S 1) 0 (0x9000000041000000#64) 144 ∧ (S 1).m.hasCombine = true ∧
    bf (0x9000000041000000#64) 24 16 % 8 ≠ 0) ∧
    (((S 4).m.token = none ∨ (S 4).m.token = some 0) ∧ Issues (S 4) 0 (0x9000000040000000#64) 144 ∧ (S 4).m.hasCombine = false) ∧
    (let x : Eng := (S 5).m.eng 0;
    ((S 5).m.token = none ∨ (S 5).m.token = some 0) ∧ Issues (S 5) 0 (0x9101000000000006#64) 145 ∧ (S 5).m.hasCombine = true ∧
    bf (x.reg (wA 0x9101000000000006#64)) 0 8 = 255 ∧ (∃ t < 128, (S 5).m.node t 255 ≠ none)) ∧
    (let x : Eng := (S 6).m.eng 0;
    ((S 6).m.token = none ∨ (S 6).m.token = some 0) ∧ Issues (S 6) 0 (0x9101000000000006#64) 145 ∧ (S 6).m.hasCombine = true ∧
    bf (x.reg (wA 0x9101000000000006#64)) 0 8 = 255 ∧ (¬∃ t < 128, (S 6).m.node t 255 ≠ none)) ∧
    (let x : Eng := (S 7).m.eng 0;
    ((S 7).m.token = none ∨ (S 7).m.token = some 0) ∧ (S 7).m.test.scan = false ∧ x.state = EngSt.waiting ∧ x.wait = Wait.cbFree
    255 ∧ (∀ t < 128, (S 7).m.node t 255 ≠ none → (S 7).m.cbQuiet t 255 = true) ∧ 254 ≠ 255) ∧
    (((S 8).m.token = none ∨ (S 8).m.token = some 0) ∧ (S 8).m.test.scan = false ∧ (¬∀ t < 128, (S 8).m.node t 255 ≠ none →
    (S 8).m.cbQuiet t 255 = true)) :=
  by and_intros <;> decide +kernel

end CombineGroups

namespace CombineRounds

def n0 : CbNode := ⟨0,0,true,0,8,0,7,0,3,.idle,[],none,[],[],0,none,[],0⟩
def rd (src opc st : Nat) (tc : Nat := 0) : FlitBits := hdw src 7 opc tc ||| mkf 512 17 10 src ||| mkf 512 133 8 9 ||| mkf 512
  37 9 8 ||| mkf 512 256 128 5 ||| mkf 512 148 4 st
def q (inp : Nat) (h : FlitBits) (m : Mach) : Mach := m.modCbu 5 (fun u => { u with inq := [(inp, 0, ⟨h, [], false⟩)] })
def states : List Machine.State :=
  [st (q 4 (rd 20 6 0) up),
   st (q 5 (rd 23 6 0) (up.setNode 5 9 (some n0))),
   st (q 4 (rd 20 6 0) (up.setNode 5 9 (some n0))),
   st (q 4 (rd 21 6 0) (up.setNode 5 9 (some { n0 with arrival := false }))),
   st (q 1 (rd 20 6 0) (up.setNode 5 9 (some { n0 with kids := 2, loc := 0, up := 3 }))),
   st (q 3 (rd 20 0x26 0) (up.setNode 5 9 (some { n0 with kids := 2, loc := 0, up := 3, st := .sent }))),
   st (q 3 (rd 20 0x26 0) (up.setNode 5 9 (some { n0 with st := .failed }))),
   st (q 1 (rd 20 6 0) (up.setNode 5 9 (some { n0 with st := .sent }))),
   st (up.setNode 5 9 (some { n0 with st := .collect, up := 3, acc := some ⟨rd 20 6 0, [], false⟩, merged := [2] })),
   st (up.setNode 5 9 (some { n0 with st := .sent, up := 3, kids := 1, kept := some ⟨rd 20 6 0, [], false⟩ })),
   st (up.setNode 5 9 (some { n0 with st := .sent, ticks := 4 }))]
def of_x (s : Machine.State) : List CbNode := (s.m.node 5 9).toList ++ [n0]
def of_p (s : Machine.State) : List Pkt := (s.m.cbUnit 5).inq.map (fun r => r.2.2)
def of_a (s : Machine.State) : List Pkt := ((s.m.node 5 9).bind (fun x => x.acc)).toList ++ ((s.m.node 5 9).bind (fun x =>
  x.kept)).toList ++ [⟨0,[],false⟩]
def S (i : Nat) : Machine.State := states.getD i (st up)
def p_s_0_0 : Pkt := (of_p (S 0))[0]'(by decide +kernel)
def x_s_0_0 : CbNode := (of_x (S 0))[0]'(by decide +kernel)
def p_s_2_0 : Pkt := (of_p (S 2))[0]'(by decide +kernel)
def x_s_2_0 : CbNode := (of_x (S 2))[0]'(by decide +kernel)
def p_s_3_0 : Pkt := (of_p (S 3))[0]'(by decide +kernel)
def x_s_3_0 : CbNode := (of_x (S 3))[0]'(by decide +kernel)
def p_s_4_0 : Pkt := (of_p (S 4))[0]'(by decide +kernel)
def x_s_4_0 : CbNode := (of_x (S 4))[0]'(by decide +kernel)
def p_s_5_0 : Pkt := (of_p (S 5))[0]'(by decide +kernel)
def x_s_5_0 : CbNode := (of_x (S 5))[0]'(by decide +kernel)
def p_s_6_0 : Pkt := (of_p (S 6))[0]'(by decide +kernel)
def x_s_6_0 : CbNode := (of_x (S 6))[0]'(by decide +kernel)
def p_s_7_0 : Pkt := (of_p (S 7))[0]'(by decide +kernel)
def x_s_7_0 : CbNode := (of_x (S 7))[0]'(by decide +kernel)
def x_s_8_0 : CbNode := (of_x (S 8))[0]'(by decide +kernel)
def a_s_8_0 : Pkt := (of_a (S 8))[0]'(by decide +kernel)
def x_s_9_0 : CbNode := (of_x (S 9))[0]'(by decide +kernel)
def a_s_9_0 : Pkt := (of_a (S 9))[0]'(by decide +kernel)
def x_s_1_0 : CbNode := (of_x (S 1))[0]'(by decide +kernel)

/-- The hypotheses of `Obligations.CombineRounds` met, clause by clause. -/
theorem wit_CombineRounds :
    (let u : CbUnit := (S 3).m.cbUnit 5;
    let h : FlitBits := p_s_3_0.hd;
    let k : ℕ := hSrc h % 4 + 2;
    (∃ (j : ℕ) (r : List ℕ), x_s_3_0.kidList = j :: r ∧ j ≠ k) ∧ (S 3).m.test.scan = false ∧ (S 3).m.domLive 5 = true ∧ u.inq =
    [(4, 0, p_s_3_0)] ∧ u.outq = [] ∧ hGroup h = 9 ∧ hOpc h = opRED ∧ (4 = 4 ∨ 4 = 5) ∧ (S 3).m.node 5 9 = some x_s_3_0 ∧
    x_s_3_0.rejects h = false ∧ x_s_3_0.st = CbSt.idle ∧ x_s_3_0.arrival = false) ∧
    (let u : CbUnit := (S 0).m.cbUnit 5;
    let h : FlitBits := p_s_0_0.hd;
    (S 0).m.test.scan = false ∧ (S 0).m.domLive 5 = true ∧ u.inq = [(4, 0, p_s_0_0)] ∧ u.outq = [] ∧ hGroup h = 9 ∧ hOpc h =
    opRED ∧ (4 = 4 ∨ 4 = 5) ∧ ((S 0).m.node 5 9 = none ∨ (S 0).m.node 5 9 = some x_s_0_0 ∧ x_s_0_0.rejects h = true)) ∧
    (let u : CbUnit := (S 2).m.cbUnit 5;
    let h : FlitBits := p_s_2_0.hd;
    let k : ℕ := hSrc h % 4 + 2;
    (S 2).m.test.scan = false ∧ (S 2).m.domLive 5 = true ∧ u.inq = [(4, 0, p_s_2_0)] ∧ u.outq = [] ∧ hGroup h = 9 ∧ hOpc h =
    opRED ∧ (4 = 4 ∨ 4 = 5) ∧ (S 2).m.node 5 9 = some x_s_2_0 ∧ x_s_2_0.rejects h = false ∧ x_s_2_0.st = CbSt.idle ∧
    x_s_2_0.arrival = true ∧ (∃ j ∈ x_s_2_0.kidList, j ≠ k)) ∧
    (let u : CbUnit := (S 4).m.cbUnit 5;
    let h : FlitBits := p_s_4_0.hd;
    (S 4).m.test.scan = false ∧ (S 4).m.domLive 5 = true ∧ u.inq = [(1, 0, p_s_4_0)] ∧ u.outq = [] ∧ hGroup h = 9 ∧ hOpc h =
    opRED ∧ 1 < 4 ∧ (S 4).m.node 5 9 = some x_s_4_0 ∧ x_s_4_0.st = CbSt.idle ∧ x_s_4_0.kidList = [kidOfDir 1] ∧
    x_s_4_0.has (kidOfDir 1) = false ∧ x_s_4_0.up < 4 ∧ 0 = 0 ∧ p_s_4_0.bad = false ∧ hStatus h = 0) ∧
    (let u : CbUnit := (S 5).m.cbUnit 5;
    let h : FlitBits := p_s_5_0.hd;
    (S 5).m.test.scan = false ∧ (S 5).m.domLive 5 = true ∧ u.inq = [(3, 0, p_s_5_0)] ∧ u.outq = [] ∧ hGroup h = 9 ∧ hOpc h =
    rspOf opRED ∧ (S 5).m.node 5 9 = some x_s_5_0 ∧ x_s_5_0.st = CbSt.sent ∧ hStatus h = 0 ∧ 1 < 4 ∧ x_s_5_0.kids =
    BitVec.ofNat 4 (2 ^ 1) ∧ x_s_5_0.reds = []) ∧
    (let u : CbUnit := (S 6).m.cbUnit 5;
    let h : FlitBits := p_s_6_0.hd;
    (S 6).m.test.scan = false ∧ (S 6).m.domLive 5 = true ∧ u.inq = [(3, 0, p_s_6_0)] ∧ u.outq = [] ∧ hGroup h = 9 ∧ hOpc h =
    rspOf opRED ∧ (S 6).m.node 5 9 = some x_s_6_0 ∧ x_s_6_0.st = CbSt.failed) ∧
    (let u : CbUnit := (S 7).m.cbUnit 5;
    let h : FlitBits := p_s_7_0.hd;
    (S 7).m.test.scan = false ∧ (S 7).m.domLive 5 = true ∧ u.inq = [(1, 0, p_s_7_0)] ∧ u.outq = [] ∧ hGroup h = 9 ∧ hOpc h =
    opRED ∧ 1 < 4 ∧ (S 7).m.node 5 9 = some x_s_7_0 ∧ (x_s_7_0.st = CbSt.sent ∨ x_s_7_0.st = CbSt.failed)) ∧
    ((S 8).m.test.scan = false ∧ (S 8).m.domLive 5 = true ∧ (S 8).m.node 5 9 = some x_s_8_0 ∧ ((S 8).m.cbUnit 5).outq = [] ∧
    x_s_8_0.st = CbSt.collect ∧ x_s_8_0.ticks = 0 ∧ x_s_8_0.held = [] ∧ x_s_8_0.acc = some a_s_8_0 ∧
    x_s_8_0.status ≠ 11 ∧ x_s_8_0.up < 4) ∧
    ((S 9).m.test.scan = false ∧ (S 9).m.domLive 5 = true ∧ (S 9).m.node 5 9 = some x_s_9_0 ∧ ((S 9).m.cbUnit 5).outq = [] ∧
    x_s_9_0.st = CbSt.sent ∧ x_s_9_0.ticks = 0 ∧ x_s_9_0.kept = some a_s_9_0 ∧ hStatus a_s_9_0.hd ≠ 11 ∧ 0 < 4
    ∧ x_s_9_0.kids = BitVec.ofNat 4 (2 ^ 0) ∧ x_s_9_0.reds = []) ∧
    ((S 1).m.test.scan = false ∧ (S 1).m.domLive 5 = true ∧ (S 1).m.node 5 9 = some x_s_1_0 ∧ ((S 1).m.cbUnit 5).outq = [] ∧
    (x_s_1_0.ticks ≠ 0 ∨ x_s_1_0.st ≠ CbSt.collect)) ∧
    ((S 1).m.test.scan = false ∧ (S 1).m.domLive 5 = true ∧ (S 1).m.node 5 9 = some x_s_1_0 ∧ ((S 1).m.cbUnit 5).outq = [] ∧
    (x_s_1_0.ticks ≠ 0 ∨ x_s_1_0.st ≠ CbSt.sent)) :=
  ⟨by
    intro u h k
    exact ⟨⟨_, _, rfl, by decide +kernel⟩, by decide +kernel⟩,
   by and_intros <;> decide +kernel⟩

end CombineRounds

namespace CombineLanes



/-- The hypotheses of `Obligations.CombineLanes` met, clause by clause. -/
theorem wit_CombineLanes :
    (let n : ℕ := 2 ^ (8 * laneBytes 0);
    pairOk 0 0 = true ∧ 0 < n ∧ 0 < n ∧ 0 < n ∧ (¬(0 = 0 ∧ 2 ≤ 0))) ∧
    (let n : ℕ := 2 ^ (8 * laneBytes 0);
    pairOk 0 0 = true ∧ 0 < n ∧ 0 < n ∧ 0 < n ∧ 0 = 0 ∧ 0 ≤ 1) ∧
    (let n : ℕ := 2 ^ (8 * laneBytes 2);
    let f : Fmt := if 2 = 3 then fp32 else if 2 = 4 then bf16 else fp64;
    pairOk 0 2 = true ∧ 18446744073709551615 < n ∧ 0 < n ∧ 0 < n ∧ 0 = 0 ∧ 2 ≤ 2 ∧ f.isNan 18446744073709551615 = true) ∧
    (let n : ℕ := 2 ^ (8 * laneBytes 2);
    let f : Fmt := if 2 = 3 then fp32 else if 2 = 4 then bf16 else fp64;
    pairOk 1 2 = true ∧ 18446744073709551615 < n ∧ 0 < n ∧ 0 < n ∧ 1 ≤ 1 ∧ 1 ≤ 2 ∧ 2 ≤ 2 ∧ f.isNan 18446744073709551615 = true ∧ f.isNan
    0 = false) :=
  by and_intros <;> decide +kernel

end CombineLanes

namespace DomainInstructions

def dm (d : Nat) (s : DSt) (m : Mach := up) : Mach := m.modDom d (fun y => { y with st := s, live := decide (s ≠ .off) })
def di (o d : Nat) (m : Mach) (r : Nat := 0) (dd : Nat := 0): Machine.State := run (ins o dd 1 0 r) [(1, BitVec.ofNat 64 d)] m
def dis (m : Mach) : Mach :=
  { m with spine := { m.spine with stn := (List.range 32).map (fun p => (p, { Station.init with st := .disabled })) } }
def bz (m : Mach) : Mach := m.modEng 4 (fun x => { x with state := .waiting })
def states : List Machine.State :=
  [di 0x60 127 up 5,
   di 0x60 131 (dis up),
   di 0x60 3 (dm 3 .off),
   di 0x61 127 (dm 127 .drained),
   di 0x61 131 (dis (dm 131 .drained)),
   di 0x61 3 up,
   di 0x62 127 ((dm 127 .fenced).modNiu 508 (fun x => { x with accNext := 4})),
   di 0x62 131 (dis (dm 131 .fenced)),
   di 0x62 3 up,
   di 0x63 131 ((dm 131 .off).modPwr (fun p => { p with reqs := [4, 131]})) 7,
   di 0x63 3 up,
   di 0x64 127 (dm 127 .fenced),
   di 0x64 131 (dm 131 .drained),
   di 0x64 3 up,
   di 0x65 132 up,
   di 0x65 132 up (2 * 2^24),
   di 0x65 132 (up.modDom 132 (fun y => { y with feed := 2 })) (1 * 2^24),
   di 0x65 132 { up with pwr := { up.pwr with blank := true } } (2 * 2^24),
   di 0x65 132 ({ up with pwr := { up.pwr with feedB := false }}) (2 * 2^24),
   di 0x66 132 up 0 15,
   di 0x65 132 up (3 * 2^24),
   di 0x65 132 up (1 * 2^24),
   di 0x65 132 (up.modDom 132 (fun y => { y with feed := 0 })) (2 * 2^24),
   di 0x60 132 up,
   di 0x61 132 up,
   di 0x62 132 up,
   di 0x63 132 up,
   di 0x64 132 up,
   di 0x60 131 up,
   di 0x60 131 (bz (dis up)),
   di 0x61 131 (bz (dm 131 .drained)),
   di 0x61 131 (dm 131 .drained),
   di 0x62 131 (dm 131 .fenced),
   di 0x62 131 (bz (dis (dm 131 .fenced))),
   di 0x60 131 { up with straps := ⟨3, false⟩ },
   di 0x62 131 ((dis (dm 131 .fenced)).modStn 27 (fun y => { y with st := .dead }))]
def S (i : Nat) : Machine.State := states.getD i (st up)

/-- The hypotheses of `Obligations.DomainInstructions` met, clause by clause. -/
theorem wit_DomainInstructions :
    (let x : Eng := (S 0).m.eng 0;
    let y : PDom := (S 0).m.dom 127;
    (∀ (n : ℕ), n / 4 = 127 → ((S 0).m.niu n).unit = none) ∧ BitVec.toNat (x.reg (wA 0x6001000000000005#64)) = 127 ∧ inScope 0
    (domQuad 127) = true ∧ (S 0).m.clk.astop = false ∧ Issues (S 0) 0 (0x6001000000000005#64) 96 ∧ 127 < 128 ∧ y.st = DSt.on) ∧
    (let x : Eng := (S 0).m.eng 0;
    let y : PDom := (S 0).m.dom 127;
    BitVec.toNat (x.reg (wA 0x6001000000000005#64)) = 127 ∧ inScope 0 (domQuad 127) = true ∧ (S 0).m.clk.astop = false ∧ Issues
    (S 0) 0 (0x6001000000000005#64) 96 ∧ 127 < 128 ∧ y.st = DSt.on ∧ 508 / 4 = 127) ∧
    (let x : Eng := (S 1).m.eng 0;
    let y : PDom := (S 1).m.dom 131;
    BitVec.toNat (x.reg (wA 0x6001000000000000#64)) = 131 ∧ inScope 0 (domQuad 131) = true ∧ (S 1).m.clk.astop = false ∧ Issues
    (S 1) 0 (0x6001000000000000#64) 96 ∧ ((128 ≤ 131 ∧ 131 < 132) ∧ ¬(((S 1).m.eng (131 - 127)).state = EngSt.running ∨
    ((S 1).m.eng (131 - 127)).state = EngSt.waiting) ∧ ((S 1).m.hasSpine = false ∨ ∀ (p : Fin 32), ↑p / 8 = 131 - 128 →
    ((S 1).m.stn ↑p).st = StnSt.disabled ∨ ((S 1).m.stn ↑p).st = StnSt.dead)) ∧ y.st = DSt.on) ∧
    (let x : Eng := (S 2).m.eng 0;
    let y : PDom := (S 2).m.dom 3;
    BitVec.toNat (x.reg (wA 0x6001000000000000#64)) = 3 ∧ inScope 0 (domQuad 3) = true ∧ (S 2).m.clk.astop = false ∧ Issues (S 2) 0
    (0x6001000000000000#64) 96 ∧ 3 < 132 ∧ (y.st ≠ DSt.on ∨ (128 ≤ 3 ∧ 3 < 132) ∧ ((((S 2).m.eng (3 - 127)).state = EngSt.running ∨
    ((S 2).m.eng (3 - 127)).state = EngSt.waiting) ∨ ¬((S 2).m.hasSpine = false ∨ ∀ (p : Fin 32), ↑p / 8 = 3 - 128 → ((S 2).m.stn
    ↑p).st = StnSt.disabled ∨ ((S 2).m.stn ↑p).st = StnSt.dead)))) ∧
    (let x : Eng := (S 3).m.eng 0;
    let y : PDom := (S 3).m.dom 127;
    BitVec.toNat (x.reg (wA 0x6101000000000000#64)) = 127 ∧ inScope 0 (domQuad 127) = true ∧ (S 3).m.clk.astop = false ∧ Issues
    (S 3) 0 (0x6101000000000000#64) 97 ∧ 127 < 128 ∧ y.st = DSt.drained) ∧
    (let x : Eng := (S 4).m.eng 0;
    let y : PDom := (S 4).m.dom 131;
    BitVec.toNat (x.reg (wA 0x6101000000000000#64)) = 131 ∧ inScope 0 (domQuad 131) = true ∧ (S 4).m.clk.astop = false ∧ Issues
    (S 4) 0 (0x6101000000000000#64) 97 ∧ (128 ≤ 131 ∧ 131 < 132) ∧ (¬(((S 4).m.eng (131 - 127)).state = EngSt.running ∨
    ((S 4).m.eng (131 - 127)).state = EngSt.waiting)) ∧ y.st = DSt.drained) ∧
    (let x : Eng := (S 5).m.eng 0;
    let y : PDom := (S 5).m.dom 3;
    BitVec.toNat (x.reg (wA 0x6101000000000000#64)) = 3 ∧ inScope 0 (domQuad 3) = true ∧ (S 5).m.clk.astop = false ∧ Issues (S 5) 0
    (0x6101000000000000#64) 97 ∧ 3 < 132 ∧ (y.st ≠ DSt.drained ∨ (128 ≤ 3 ∧ 3 < 132) ∧ (((S 5).m.eng (3 - 127)).state = EngSt.running
    ∨ ((S 5).m.eng (3 - 127)).state = EngSt.waiting))) ∧
    (let x : Eng := (S 6).m.eng 0;
    let y : PDom := (S 6).m.dom 127;
    BitVec.toNat (x.reg (wA 0x6201000000000000#64)) = 127 ∧ inScope 0 (domQuad 127) = true ∧ (S 6).m.clk.astop = false ∧ Issues
    (S 6) 0 (0x6201000000000000#64) 98 ∧ 127 < 128 ∧ y.st = DSt.fenced ∧ (S 6).m.twin.left = [] ∧ 508 ∈ domNius 127) ∧
    (let x : Eng := (S 6).m.eng 0;
    let y : PDom := (S 6).m.dom 127;
    BitVec.toNat (x.reg (wA 0x6201000000000000#64)) = 127 ∧ inScope 0 (domQuad 127) = true ∧ (S 6).m.clk.astop = false ∧ Issues
    (S 6) 0 (0x6201000000000000#64) 98 ∧ 127 < 128 ∧ y.st = DSt.fenced ∧ (S 6).m.twin.left = [] ∧ 12197 / 96 = 127) ∧
    (let x : Eng := (S 6).m.eng 0;
    let y : PDom := (S 6).m.dom 127;
    BitVec.toNat (x.reg (wA 0x6201000000000000#64)) = 127 ∧ inScope 0 (domQuad 127) = true ∧ (S 6).m.clk.astop = false ∧ Issues
    (S 6) 0 (0x6201000000000000#64) 98 ∧ 127 < 128 ∧ y.st = DSt.fenced ∧ (S 6).m.twin.left = [] ∧ 231 ∈ tileLinks 127 ∧
    ((S 6).m.link 231).st ≠ LinkSt.excl) ∧
    (let x : Eng := (S 7).m.eng 0;
    let y : PDom := (S 7).m.dom 131;
    BitVec.toNat (x.reg (wA 0x6201000000000000#64)) = 131 ∧ inScope 0 (domQuad 131) = true ∧ (S 7).m.clk.astop = false ∧ Issues
    (S 7) 0 (0x6201000000000000#64) 98 ∧ ((128 ≤ 131 ∧ 131 < 132) ∧ ¬(((S 7).m.eng (131 - 127)).state = EngSt.running ∨
    ((S 7).m.eng (131 - 127)).state = EngSt.waiting) ∧ ((S 7).m.hasSpine = false ∨ ∀ (p : Fin 32), ↑p / 8 = 131 - 128 →
    ((S 7).m.stn ↑p).st = StnSt.disabled ∨ ((S 7).m.stn ↑p).st = StnSt.dead)) ∧ y.st = DSt.fenced) ∧
    (let x : Eng := (S 8).m.eng 0;
    let y : PDom := (S 8).m.dom 3;
    BitVec.toNat (x.reg (wA 0x6201000000000000#64)) = 3 ∧ inScope 0 (domQuad 3) = true ∧ (S 8).m.clk.astop = false ∧ Issues (S 8) 0
    (0x6201000000000000#64) 98 ∧ 3 < 132 ∧ (y.st ≠ DSt.fenced ∨ (128 ≤ 3 ∧ 3 < 132) ∧ ((((S 8).m.eng (3 - 127)).state = EngSt.running
    ∨ ((S 8).m.eng (3 - 127)).state = EngSt.waiting) ∨ ¬((S 8).m.hasSpine = false ∨ ∀ (p : Fin 32), ↑p / 8 = 3 - 128 →
    ((S 8).m.stn ↑p).st = StnSt.disabled ∨ ((S 8).m.stn ↑p).st = StnSt.dead)))) ∧
    (let x : Eng := (S 9).m.eng 0;
    let y : PDom := (S 9).m.dom 131;
    BitVec.toNat (x.reg (wA 0x6301000000000007#64)) = 131 ∧ inScope 0 (domQuad 131) = true ∧ (S 9).m.clk.astop = false ∧ Issues
    (S 9) 0 (0x6301000000000007#64) 99 ∧ 131 < 132 ∧ y.st = DSt.off) ∧
    (let x : Eng := (S 10).m.eng 0;
    let y : PDom := (S 10).m.dom 3;
    BitVec.toNat (x.reg (wA 0x6301000000000000#64)) = 3 ∧ inScope 0 (domQuad 3) = true ∧ (S 10).m.clk.astop = false ∧ Issues (S 10)
    0 (0x6301000000000000#64) 99 ∧ 3 < 132 ∧ y.st ≠ DSt.off) ∧
    (let x : Eng := (S 11).m.eng 0;
    let y : PDom := (S 11).m.dom 127;
    BitVec.toNat (x.reg (wA 0x6401000000000000#64)) = 127 ∧ inScope 0 (domQuad 127) = true ∧ (S 11).m.clk.astop = false ∧ Issues
    (S 11) 0 (0x6401000000000000#64) 100 ∧ 127 < 132 ∧ (y.st = DSt.drained ∨ y.st = DSt.fenced)) ∧
    (let x : Eng := (S 13).m.eng 0;
    let y : PDom := (S 13).m.dom 3;
    BitVec.toNat (x.reg (wA 0x6401000000000000#64)) = 3 ∧ inScope 0 (domQuad 3) = true ∧ (S 13).m.clk.astop = false ∧ Issues (S 13)
    0 (0x6401000000000000#64) 100 ∧ 3 < 132 ∧ y.st ≠ DSt.drained ∧ y.st ≠ DSt.fenced) ∧
    (let x : Eng := (S 14).m.eng 0;
    BitVec.toNat (x.reg (wA 0x6501000000000000#64)) = 132 ∧ inScope 0 (domQuad 132) = true ∧ (S 14).m.clk.astop = false ∧ Issues
    (S 14) 0 (0x6501000000000000#64) 101 ∧ 132 < 133 ∧ bf (0x6501000000000000#64) 24 2 = 0) ∧
    (let x : Eng := (S 17).m.eng 0;
    let y : PDom := (S 17).m.dom 132;
    BitVec.toNat (x.reg (wA 0x6501000002000000#64)) = 132 ∧ inScope 0 (domQuad 132) = true ∧ (S 17).m.clk.astop = false ∧ Issues
    (S 17) 0 (0x6501000002000000#64) 101 ∧ 132 < 133 ∧ bf (0x6501000002000000#64) 24 2 = 2 ∧ (2 = 1 ∨ 2 = 2) ∧ (S 17).m.feedOk 2 =
    true ∧ y.feed ≠ 0 ∧ y.feed ≠ 2 ∧ (S 17).m.pwr.blank = true) ∧
    (let x : Eng := (S 15).m.eng 0;
    let y : PDom := (S 15).m.dom 132;
    BitVec.toNat (x.reg (wA 0x6501000002000000#64)) = 132 ∧ inScope 0 (domQuad 132) = true ∧ (S 15).m.clk.astop = false ∧ Issues
    (S 15) 0 (0x6501000002000000#64) 101 ∧ 132 < 133 ∧ bf (0x6501000002000000#64) 24 2 = 2 ∧ (2 = 1 ∨ 2 = 2) ∧ (S 15).m.feedOk 2 =
    true ∧ y.feed ≠ 0 ∧ y.feed ≠ 2 ∧ (S 15).m.pwr.blank = false) ∧
    (let x : Eng := (S 18).m.eng 0;
    BitVec.toNat (x.reg (wA 0x6501000002000000#64)) = 132 ∧ inScope 0 (domQuad 132) = true ∧ (S 18).m.clk.astop = false ∧ Issues
    (S 18) 0 (0x6501000002000000#64) 101 ∧ 132 < 133 ∧ bf (0x6501000002000000#64) 24 2 = 2 ∧ (2 = 1 ∨ 2 = 2) ∧ (S 18).m.feedOk 2 =
    false) ∧
    (let x : Eng := (S 21).m.eng 0;
    let y : PDom := (S 21).m.dom 132;
    BitVec.toNat (x.reg (wA 0x6501000001000000#64)) = 132 ∧ inScope 0 (domQuad 132) = true ∧ (S 21).m.clk.astop = false ∧ Issues
    (S 21) 0 (0x6501000001000000#64) 101 ∧ 132 < 133 ∧ bf (0x6501000001000000#64) 24 2 = 1 ∧ (1 = 1 ∨ 1 = 2) ∧ (S 21).m.feedOk 1 =
    true ∧ (y.feed = 0 ∨ y.feed = 1)) ∧
    (let x : Eng := (S 20).m.eng 0;
    BitVec.toNat (x.reg (wA 0x6501000003000000#64)) = 132 ∧ inScope 0 (domQuad 132) = true ∧ (S 20).m.clk.astop = false ∧ Issues
    (S 20) 0 (0x6501000003000000#64) 101 ∧ 132 < 133 ∧ bf (0x6501000003000000#64) 24 2 = 3) ∧
    (let x : Eng := (S 23).m.eng 0;
    BitVec.toNat (x.reg (wA 0x6001000000000000#64)) = 132 ∧ inScope 0 (domQuad 132) = true ∧ (S 23).m.clk.astop = false ∧ Issues
    (S 23) 0 (0x6001000000000000#64) 96 ∧ 132 = 132) ∧
    (let x : Eng := (S 24).m.eng 0;
    BitVec.toNat (x.reg (wA 0x6101000000000000#64)) = 132 ∧ inScope 0 (domQuad 132) = true ∧ (S 24).m.clk.astop = false ∧ Issues
    (S 24) 0 (0x6101000000000000#64) 97 ∧ 132 = 132) ∧
    (let x : Eng := (S 25).m.eng 0;
    BitVec.toNat (x.reg (wA 0x6201000000000000#64)) = 132 ∧ inScope 0 (domQuad 132) = true ∧ (S 25).m.clk.astop = false ∧ Issues
    (S 25) 0 (0x6201000000000000#64) 98 ∧ 132 = 132) ∧
    (let x : Eng := (S 26).m.eng 0;
    BitVec.toNat (x.reg (wA 0x6301000000000000#64)) = 132 ∧ inScope 0 (domQuad 132) = true ∧ (S 26).m.clk.astop = false ∧ Issues
    (S 26) 0 (0x6301000000000000#64) 99 ∧ 132 = 132) ∧
    (let x : Eng := (S 27).m.eng 0;
    BitVec.toNat (x.reg (wA 0x6401000000000000#64)) = 132 ∧ inScope 0 (domQuad 132) = true ∧ (S 27).m.clk.astop = false ∧ Issues
    (S 27) 0 (0x6401000000000000#64) 100 ∧ 132 = 132) ∧
    (let x : Eng := (S 19).m.eng 0;
    BitVec.toNat (x.reg (wA 0x66F1000000000000#64)) = 132 ∧ inScope 0 (domQuad 132) = true ∧ (S 19).m.clk.astop = false ∧ Issues
    (S 19) 0 (0x66F1000000000000#64) 102 ∧ 132 < 133) :=
  ⟨by
    intro x y
    exact ⟨fun n _ => niu_all (P := fun y => y.unit = none) (by decide) (by decide +kernel) n, by dsimp only [Issues]; decide +kernel⟩,
   by and_intros <;> decide +kernel⟩

end DomainInstructions

namespace DomainSteps

def dm (d : Nat) (s : DSt) (m : Mach := up) : Mach := m.modDom d (fun y => { y with st := s, live := decide (s ≠ .off) })
def wt (w : Wait) (m : Mach) : Mach := m.modEng 0 (fun x => { x with state := .waiting, wait := w, limit := some 7 })
def all_v : List Meas := [⟨5, 6⟩, ⟨5, 191⟩]
def offp (d : Nat) (m : Mach := up) : Mach := m.modDom d (fun _ => { PDom.init with st := .ramp })
def states : List Machine.State :=
  [st (wt (.drain 127) (dm 127 .draining)),
   st (wt (.fence 127) (dm 127 .drained)),
   st ((offp 127).modPwr (fun p => { p with reqs := [127, 3] })),
   st ((offp 127).modPwr (fun p => { p with reqs := [127, 3], feedA := false, feedB := false })),
   st (up.modDom 127 (fun y => { y with pgood := false, timer := true })),
   st (up.modDom 127 (fun y => { y with pgood := false, feed := 1 })),
   st (up.modDom 127 (fun y => { y with pgood := false, lim := 1 })),
   st (up.modDom 127 (fun y => {y with st := .ramp, live := false })),
   st (up.modDom 127 (fun y => {y with st := .ramp, live := false, pgood := false })),
   st ((up.modDom 127 (fun y => {y with st := .init, live := false })).modNiu 508 (fun x => { x with incPin := 3, ratPin := 2 })),
   st (up.modDom 131 (fun y => {y with st := .init, live := false })),
   st (up.modDom 131 (fun y => {y with st := .init, live := false, boot := true })),
   st ((up.modEng 0 id).modTele id |>.modNiu 0 (fun x =>
     { x with trk := [(0, some ⟨1, 0, 5, 0, [], 127, false, false, 1, .endpoint, false, none, false, false, none, 0, [], false⟩)] })
     |> dm 127 .drained),
   st (up.modDom 132 (fun y => {y with st := .init, live := false })),
   st (up.modDom 132 (fun y => {y with st := .init, live := false, boot := true }))]
def all_rest : List (List Nat) := [[3]]
def S (i : Nat) : Machine.State := states.getD i (st up)
def rest_0 : List ℕ := all_rest[0]'(by decide +kernel)
def v_1 : Meas := all_v[1]'(by decide +kernel)
def v_0 : Meas := all_v[0]'(by decide +kernel)

/-- The hypotheses of `Obligations.DomainSteps` met, clause by clause. -/
theorem wit_DomainSteps :
    (let x : Eng := (S 0).m.eng 0;
    let y : PDom := (S 0).m.dom 127;
    ((fun (k : Wait) => x.state = EngSt.waiting ∧ x.wait = k ∧ ∀ (j : ℕ), j ≠ 0 → ((S 0).m.eng j).wait ≠ k) (Wait.drain 127)) ∧
    (S 0).m.test.scan = false ∧ 127 < 128 ∧ y.st = DSt.draining ∧ (S 0).m.drainMet 127 = true) ∧
    (let x : Eng := (S 1).m.eng 0;
    let y : PDom := (S 1).m.dom 127;
    ((fun (k : Wait) => x.state = EngSt.waiting ∧ x.wait = k ∧ ∀ (j : ℕ), j ≠ 0 → ((S 1).m.eng j).wait ≠ k) (Wait.fence 127)) ∧
    (S 1).m.test.scan = false ∧ 127 < 128 ∧ y.st = DSt.drained ∧ (S 1).m.allQuiet 127 = true) ∧
    (let y : PDom := (S 0).m.dom 127;
    (y.st ≠ DSt.drained ∨ (S 0).m.allQuiet 127 = false ∨ ∀ (j : ℕ), ((S 0).m.eng j).wait ≠ Wait.fence 127) ∧ (S 0).m.test.scan =
    false) ∧
    (let y : PDom := (S 2).m.dom 127;
    (∀ (k : ℕ), ((S 2).m.dom k).st = DSt.ramp → ((S 2).m.dom k).feed = 0 ∨ ((S 2).m.dom k).pgood = true) ∧ (S 2).m.test.scan =
    false ∧ (S 2).m.pwr.reqs = 127 :: rest_0 ∧ Tab.wf dDom (S 2).m.pwr.doms = true ∧ y.mode = 0 ∧ (S 2).m.pwr.feedA = true) ∧
    ((∀ (k : ℕ), ((S 3).m.dom k).st = DSt.ramp → ((S 3).m.dom k).feed = 0 ∨ ((S 3).m.dom k).pgood = true) ∧ (S 3).m.test.scan =
    false ∧ (S 3).m.pwr.reqs = 127 :: rest_0 ∧ Tab.wf dDom (S 3).m.pwr.doms = true ∧ (S 3).m.pwr.feedA = false ∧
    (S 3).m.pwr.feedB = false) ∧
    (let y : PDom := (S 4).m.dom 127;
    (∀ (k : ℕ), y.left = some k → k + 100 ≤ (S 4).m.clk.aon) ∧ (S 4).m.test.scan = false ∧ y.feed ≠ 0 ∧ y.pgood = false ∧ y.lim = 0
    ∧ 95 * (S 4).m.nomMv ≤ 400 * v_1.rail.toNat) ∧
    (let y : PDom := (S 0).m.dom 131;
    (S 0).m.test.scan = false ∧ (y.st ≠ DSt.draining ∨ (S 0).m.drainMet 131 = false)) ∧
    ((S 0).m.test.scan = false ∧ (S 0).m.pwr.reqs.head? ≠ some 127) ∧
    (let y : PDom := (S 0).m.dom 127;
    (S 0).m.test.scan = false ∧ (y.lim ≠ 0 ∨ (∃ (k : ℕ), y.left = some k ∧ (S 0).m.clk.aon < k + 100) ∨ 400 * v_0.rail.toNat <
    95 * (S 0).m.nomMv)) ∧
    (let y : PDom := (S 7).m.dom 127;
    (S 7).m.test.scan = false ∧ 127 < 132 ∧ (S 7).m.pwr.aonUp = true ∧ y.pgood = true ∧ y.st = DSt.ramp) ∧
    (let y : PDom := (S 0).m.dom 127;
    (S 0).m.test.scan = false ∧ ((S 0).m.pwr.aonUp = false ∨ y.pgood = false ∨ y.st ≠ DSt.ramp)) ∧
    (let y : PDom := (S 9).m.dom 127;
    (S 9).m.test.scan = false ∧ 127 < 128 ∧ y.st = DSt.init ∧ y.live = false ∧ 508 ∈ domNius 127 ∧ 508 < 512) ∧
    (let y : PDom := (S 9).m.dom 127;
    (S 9).m.test.scan = false ∧ 127 < 128 ∧ y.st = DSt.init ∧ y.live = false ∧ 231 ∈ tileLinks 127 ∧ ((S 9).m.link 231).st =
    LinkSt.down ∧ ((S 9).m.domLive (linkTile 231) = true ∨ linkTile 231 = 127) ∧ ((S 9).m.domLive (linkTile2 231) = true ∨ linkTile2
    231 = 127)) ∧
    (let y : PDom := (S 13).m.dom 132;
    (S 13).m.test.scan = false ∧ 132 = 132 ∧ y.st = DSt.init ∧ y.live = false) ∧
    (let y : PDom := (S 10).m.dom 131;
    (S 10).m.test.scan = false ∧ 128 ≤ 131 ∧ 131 < 132 ∧ y.st = DSt.init ∧ y.live = false ∧ 0 < 8) :=
  ⟨by
    intro x y
    exact ⟨⟨by decide +kernel, by decide +kernel, Tab.get_ne (d := dEng) (a := Eng.init) (t := (S 0).m.engs) (P :=
        fun x => x.wait ≠ Wait.drain 127) (fun _ => rfl) (by decide) (by decide +kernel)⟩, by decide +kernel⟩,
   by
    intro x y
    exact ⟨⟨by decide +kernel, by decide +kernel, Tab.get_ne (d := dEng) (a := Eng.init) (t := (S 1).m.engs) (P :=
        fun x => x.wait ≠ Wait.fence 127) (fun _ => rfl) (by decide) (by decide +kernel)⟩, by decide +kernel⟩,
   by
    intro y
    exact ⟨.inl (by decide +kernel), by decide +kernel⟩,
   by
    intro y
    exact ⟨Tab.get_all (a := PDom.init) (t := (S 2).m.pwr.doms) (P :=
        fun y => y.st = .ramp → y.feed = 0 ∨ y.pgood = true) (fun _ => rfl) (by decide) (by decide +kernel), by decide +kernel⟩,
   by
    exact ⟨Tab.get_all (a := PDom.init) (t := (S 3).m.pwr.doms) (P :=
        fun y => y.st = .ramp → y.feed = 0 ∨ y.pgood = true) (fun _ => rfl) (by decide) (by decide +kernel), by decide +kernel⟩,
   by
    intro y
    exact ⟨(fun k h => nomatch (show y.left = none from by decide +kernel) ▸ h), by decide +kernel⟩,
   by and_intros <;> decide +kernel⟩

end DomainSteps

namespace DomainOpening

def mx (d : Nat) (f : PDom → PDom) (m : Mach := up) : Machine.State := st (((m.modDom d f).modStn 17 (fun y =>
  { y with st := .disabled, onReq := true, turnL := 1 })).modStn 18 (fun y => { y with st := .dead }))
def mo (f : PDom → PDom) : Machine.State := st ((up.modDom 127 f).modLink 119 (fun k => { k with st := .up }))
def states : List Machine.State :=
  [mo id,
   mo (fun y => { y with timer := true, retries := 0 }),
   mo (fun y => { y with st := .ramp, pgood := false }),
   st { up with pwr := { up.pwr with feedA := false, feedB := false } },
   mo (fun y => { y with feed := 0 }),
   mo (fun y => { y with lim := 3 }),
   mo (fun _ => { PDom.init with retryP := true, latched := false, retries := 2 }),
   mo (fun y => { y with retries := 0 }),
   mo (fun y => { y with timer := true, lim := 1 }),
   mo (fun y => { y with timer := true, lim := 1, retries := 0 }),
   mo (fun y => { y with st := .ramp, pgood := false, retries := 0 }),
   st
     { (up.modDom 127 (fun y => { y with retries := 0 })) with pwr := { (up.modDom 127 (fun y => { y with retries := 0 })).pwr with feedA := false, feedB := false } },
   mx 132 (fun y => { y with st := .ramp, pgood := false }) (up.modDom 3 (fun y => { y with pgood := false })),
   mx 132 (fun y => { y with timer := true, lim := 1, retries := 0 }) (up.modDom 3 (fun y => { y with pgood := false })),
   mx 130 (fun y => { y with timer := true, lim := 1, retries := 0 }),
   mx 130 (fun y => { y with timer := true, lim := 1, retries := 3 }),
   mx 132 (fun y => { y with timer := true, lim := 1, retries := 0 }),
   mx 132 (fun y => { y with timer := true, lim := 1 }) (up.modDom 3 (fun y => { y with pgood := false })),
   mx 130 (fun y => { y with st := .ramp, pgood := false }),
   mx 132 (fun y => { y with st := .ramp, pgood := false }),
   mx 132 (fun y => { y with st := .ramp, pgood := false, retries := 0 }),
   mx 130 (fun y => { y with st := .ramp, pgood := false, retries := 0 }),
   mx 130 (fun y => { y with retries := 0 }) { up with pwr := { up.pwr with feedA := false, feedB := false } }]
def S (i : Nat) : Machine.State := states.getD i (st up)

/-- The hypotheses of `Obligations.DomainOpening` met, clause by clause. -/
theorem wit_DomainOpening :
    (let y : PDom := (S 1).m.dom 127;
    (S 1).m.test.scan = false ∧ y.feed ≠ 0 ∧ y.retries = 0) ∧
    (let y : PDom := (S 0).m.dom 127;
    (S 0).m.test.scan = false ∧ y.feed ≠ 0 ∧ y.retries ≠ 0) ∧
    (let y : PDom := (S 0).m.dom 127;
    (S 0).m.test.scan = false ∧ y.feed ≠ 0 ∧ 127 < 128 ∧ 231 ∈ tileLinks 127 ∧ ((S 0).m.link 231).st ≠ LinkSt.excl) ∧
    (let y : PDom := (S 0).m.dom 130;
    (S 0).m.test.scan = false ∧ y.feed ≠ 0 ∧ 128 ≤ 130 ∧ 130 < 132 ∧ (S 0).m.hasSpine = true) ∧
    (let y : PDom := (S 0).m.dom 132;
    (S 0).m.test.scan = false ∧ y.feed ≠ 0 ∧ 132 = 132 ∧ 3 < 132 ∧ ((S 0).m.dom 3).pgood = true) ∧
    (let y : PDom := (S 9).m.dom 127;
    (S 9).m.test.scan = false ∧ y.feed ≠ 0 ∧ y.timer = true ∧ y.lim ≠ 0 ∧ y.retries = 0) ∧
    (let y : PDom := (S 8).m.dom 127;
    (S 8).m.test.scan = false ∧ y.feed ≠ 0 ∧ y.timer = true ∧ y.lim ≠ 0 ∧ y.retries ≠ 0) ∧
    (let y : PDom := (S 8).m.dom 127;
    (S 8).m.test.scan = false ∧ y.feed ≠ 0 ∧ y.timer = true ∧ y.lim ≠ 0 ∧ 127 < 128 ∧ 231 ∈ tileLinks 127 ∧ ((S 8).m.link 231).st ≠
    LinkSt.excl) ∧
    (let y : PDom := (S 14).m.dom 130;
    (S 14).m.test.scan = false ∧ y.feed ≠ 0 ∧ y.timer = true ∧ y.lim ≠ 0 ∧ 128 ≤ 130 ∧ 130 < 132 ∧ (S 14).m.hasSpine = true) ∧
    (let y : PDom := (S 13).m.dom 132;
    (S 13).m.test.scan = false ∧ y.feed ≠ 0 ∧ y.timer = true ∧ y.lim ≠ 0 ∧ 132 = 132 ∧ 4 < 132 ∧ ((S 13).m.dom 4).pgood = true) ∧
    (let y : PDom := (S 10).m.dom 127;
    (S 10).m.test.scan = false ∧ y.st = DSt.ramp ∧ y.feed ≠ 0 ∧ y.pgood = false ∧ y.lim = 0 ∧ y.retries = 0) ∧
    (let y : PDom := (S 2).m.dom 127;
    (S 2).m.test.scan = false ∧ y.st = DSt.ramp ∧ y.feed ≠ 0 ∧ y.pgood = false ∧ y.lim = 0 ∧ y.retries ≠ 0) ∧
    (let y : PDom := (S 2).m.dom 127;
    (S 2).m.test.scan = false ∧ y.st = DSt.ramp ∧ y.feed ≠ 0 ∧ y.pgood = false ∧ y.lim = 0 ∧ 127 < 128 ∧ 231 ∈ tileLinks 127 ∧
    ((S 2).m.link 231).st ≠ LinkSt.excl) ∧
    (let y : PDom := (S 18).m.dom 130;
    (S 18).m.test.scan = false ∧ y.st = DSt.ramp ∧ y.feed ≠ 0 ∧ y.pgood = false ∧ y.lim = 0 ∧ 128 ≤ 130 ∧ 130 < 132 ∧
    (S 18).m.hasSpine = true) ∧
    (let y : PDom := (S 12).m.dom 132;
    (S 12).m.test.scan = false ∧ y.st = DSt.ramp ∧ y.feed ≠ 0 ∧ y.pgood = false ∧ y.lim = 0 ∧ 132 = 132 ∧ 4 < 132 ∧ ((S 12).m.dom
    4).pgood = true) ∧
    (let y : PDom := (S 11).m.dom 127;
    (S 11).m.test.scan = false ∧ 127 < 132 ∧ (y.feed = 1 ∨ y.feed = 2) ∧ (S 11).m.pwr.blank = false ∧ (S 11).m.feedOk (3 - y.feed)
    = false ∧ 400 * (0#8).toNat < 88 * (S 11).m.nomMv ∧ y.retries = 0) ∧
    (let y : PDom := (S 3).m.dom 127;
    (S 3).m.test.scan = false ∧ 127 < 132 ∧ (y.feed = 1 ∨ y.feed = 2) ∧ (S 3).m.pwr.blank = false ∧ (S 3).m.feedOk (3 - y.feed) =
    false ∧ 400 * (0#8).toNat < 88 * (S 3).m.nomMv ∧ y.retries ≠ 0) ∧
    (let y : PDom := (S 3).m.dom 127;
    (S 3).m.test.scan = false ∧ 127 < 132 ∧ (y.feed = 1 ∨ y.feed = 2) ∧ (S 3).m.pwr.blank = false ∧ (S 3).m.feedOk (3 - y.feed) =
    false ∧ 400 * (0#8).toNat < 88 * (S 3).m.nomMv ∧ 127 < 128 ∧ 231 ∈ tileLinks 127 ∧ ((S 3).m.link 231).st ≠ LinkSt.excl) ∧
    (let y : PDom := (S 3).m.dom 130;
    (S 3).m.test.scan = false ∧ 130 < 132 ∧ (y.feed = 1 ∨ y.feed = 2) ∧ (S 3).m.pwr.blank = false ∧ (S 3).m.feedOk (3 - y.feed) =
    false ∧ 400 * (0#8).toNat < 88 * (S 3).m.nomMv ∧ 128 ≤ 130 ∧ 130 < 132 ∧ (S 3).m.hasSpine = true) ∧
    (let y : PDom := (S 4).m.dom 127;
    (S 4).m.test.scan = false ∧ y.feed = 0) ∧
    (let y : PDom := (S 0).m.dom 127;
    (S 0).m.test.scan = false ∧ ((S 0).m.pwr.blank = true ∨ 88 * (S 0).m.nomMv ≤ 400 * (0#8).toNat ∨ (S 0).m.feedOk (3 - y.feed)
    = true)) ∧
    (let y : PDom := (S 0).m.dom 127;
    (S 0).m.test.scan = false ∧ (y.timer = false ∨ (S 0).m.limQuiet 127 = true)) ∧
    (let y : PDom := (S 5).m.dom 127;
    (S 5).m.test.scan = false ∧ y.lim ≠ 0) ∧
    (let y : PDom := (S 6).m.dom 127;
    (S 6).m.test.scan = false ∧ y.st = DSt.off ∧ y.retryP = true) ∧
    (let y : PDom := (S 0).m.dom 127;
    (S 0).m.test.scan = false ∧ y.retryP = false) ∧
    (let y : PDom := (S 0).m.dom 127;
    (S 0).m.test.scan = false ∧ y.pgood = true) :=
  by and_intros <;> decide +kernel

end DomainOpening

namespace FeedsAndLimits

def all_v : List Meas := [⟨5, 6⟩]
def pw (f : Power → Power) (m : Mach := up) : Machine.State := st (m.modPwr f)
def dy (f : PDom → PDom) : Mach := up.modDom 127 f
def states : List Machine.State :=
  [pw (fun p => { p with feedA := false }),
   pw (fun p => { p with feedB := false }) (dy (fun y => { y with feed := 2, mode := 2 })),
   pw (fun p => { p with blank := true }),
   pw id (dy (fun y => { y with feed := 2 })),
   st up,
   pw (fun p => { p with feedA := false, feedB := false }),
   st (dy (fun y => { y with pgood := false })),
   st (dy (fun y => { y with feed := 0 })),
   pw (fun p => { p with feedB := false }) (dy (fun y => { y with mode := 1 })),
   st (dy (fun y => { y with warn := true })),
   pw (fun p => { p with blank := true }) (dy (fun y => { y with mode := 2 })),
   st (dy (fun y => { y with lim := 8 }))]
def S (i : Nat) : Machine.State := states.getD i (st up)
def v_0 : Meas := all_v[0]'(by decide +kernel)

/-- The hypotheses of `Obligations.FeedsAndLimits` met, clause by clause. -/
theorem wit_FeedsAndLimits :
    (let y : PDom := (S 5).m.dom 127;
    let p : Power := (S 5).m.pwr;
    let nom : ℕ := match (S 5).m.fld 802824 16 2 with | 1 => 700 | 2 => 600 | x => 800;
    (127 < 128 → ∀ (n : ℕ), n / 4 = 127 → ((S 5).m.niu n).unit = none) ∧ (S 5).m.test.scan = false ∧ (y.feed = 1 ∨ y.feed = 2) ∧
    p.blank = false ∧ (S 5).m.feedOk (3 - y.feed) = false ∧ (fun (k : ℕ) => 400 * (0#8).toNat < k * nom) 94 ∧ y.mode = 0) ∧
    (let y : PDom := (S 0).m.dom 127;
    (∀ (k : ℕ), k ≠ 127 → ((S 0).m.dom k).mode = 0 ∨ ((S 0).m.dom k).feed = 0 ∨ ((S 0).m.dom k).feed = ((S 0).m.dom k).mode) ∧
    (∀ (j k : ℕ), ((S 0).m.eng j).wait ≠ Wait.feed k) ∧ (S 0).m.test.scan = false ∧ (y.mode = 0 ∨ y.feed = 0 ∨ y.feed = y.mode)) ∧
    (let y : PDom := (S 10).m.dom 127;
    let p : Power := (S 10).m.pwr;
    (∀ (k : ℕ), k ≠ 127 → ((S 10).m.dom k).mode = 0 ∨ ((S 10).m.dom k).feed = 0 ∨ ((S 10).m.dom k).feed = ((S 10).m.dom k).mode)
    ∧ (∀ (j k : ℕ), ((S 10).m.eng j).wait ≠ Wait.feed k) ∧ (S 10).m.test.scan = false ∧ y.mode = 2 ∧ y.feed = 1 ∧ p.feedB = true) ∧
    (let y : PDom := (S 0).m.dom 127;
    let nom : ℕ := match (S 0).m.fld 802824 16 2 with | 1 => 700 | 2 => 600 | x => 800;
    (127 < 128 → ∀ (n : ℕ), n / 4 = 127 → ((S 0).m.niu n).unit = none) ∧ (S 0).m.test.scan = false ∧ y.feed ≠ 0 ∧ y.pgood = true ∧
    400 * v_0.rail.toNat < 90 * nom) ∧
    (let y : PDom := (S 0).m.dom 127;
    (127 < 128 → ∀ (n : ℕ), n / 4 = 127 → ((S 0).m.niu n).unit = none) ∧ (S 0).m.test.scan = false ∧ y.feed ≠ 0 ∧ 3 < domSlices 127
    ∧ y.pgood = true) ∧
    (let y : PDom := (S 0).m.dom 127;
    let p : Power := (S 0).m.pwr;
    let nom : ℕ := match (S 0).m.fld 802824 16 2 with | 1 => 700 | 2 => 600 | x => 800;
    (S 0).m.test.scan = false ∧ y.feed = 1 ∧ p.blank = false ∧ (fun (k : ℕ) => 400 * (0#8).toNat < k * nom) 96 ∧ p.feedB = true ∧
    y.mode = 0) ∧
    (let y : PDom := (S 1).m.dom 127;
    let p : Power := (S 1).m.pwr;
    let nom : ℕ := match (S 1).m.fld 802824 16 2 with | 1 => 700 | 2 => 600 | x => 800;
    (S 1).m.test.scan = false ∧ y.feed = 2 ∧ p.blank = false ∧ (fun (k : ℕ) => 400 * (0#8).toNat < k * nom) 96 ∧ p.feedA = true ∧
    y.mode = 2) ∧
    (let y : PDom := (S 5).m.dom 127;
    let p : Power := (S 5).m.pwr;
    let nom : ℕ := match (S 5).m.fld 802824 16 2 with | 1 => 700 | 2 => 600 | x => 800;
    (S 5).m.test.scan = false ∧ y.feed = 1 ∧ p.blank = false ∧ (fun (k : ℕ) => 400 * (0#8).toNat < k * nom) 96 ∧ p.feedB = false ∧
    y.mode = 0) ∧
    (let y : PDom := (S 8).m.dom 127;
    let p : Power := (S 8).m.pwr;
    let nom : ℕ := match (S 8).m.fld 802824 16 2 with | 1 => 700 | 2 => 600 | x => 800;
    (S 8).m.test.scan = false ∧ y.feed = 1 ∧ p.blank = false ∧ (fun (k : ℕ) => 400 * (0#8).toNat < k * nom) 96 ∧ p.feedB = false ∧
    y.mode = 1) ∧
    (let y : PDom := (S 0).m.dom 127;
    let p : Power := (S 0).m.pwr;
    let nom : ℕ := match (S 0).m.fld 802824 16 2 with | 1 => 700 | 2 => 600 | x => 800;
    (S 0).m.test.scan = false ∧ (p.blank = true ∨ y.feed = 0 ∨ ¬(fun (k : ℕ) => 400 * (193#8).toNat < k * nom) 96)) ∧
    (let y : PDom := (S 3).m.dom 127;
    let p : Power := (S 3).m.pwr;
    (S 3).m.test.scan = false ∧ y.mode = 0 ∧ y.feed = 2 ∧ p.feedA = true ∧ p.blank = false) ∧
    (let y : PDom := (S 0).m.dom 127;
    let p : Power := (S 0).m.pwr;
    (S 0).m.test.scan = false ∧ (y.mode ≠ 0 ∨ y.feed ≠ 2 ∨ p.feedA = false ∨ p.blank = true)) ∧
    (let y : PDom := (S 5).m.dom 127;
    let p : Power := (S 5).m.pwr;
    let nom : ℕ := match (S 5).m.fld 802824 16 2 with | 1 => 700 | 2 => 600 | x => 800;
    (S 5).m.test.scan = false ∧ (y.feed = 1 ∨ y.feed = 2) ∧ p.blank = false ∧ (S 5).m.feedOk (3 - y.feed) = false ∧ (fun (k : ℕ) =>
    400 * (0#8).toNat < k * nom) 94 ∧ 127 < 128 ∧ 508 / 4 = 127) ∧
    (let y : PDom := (S 0).m.dom 127;
    let p : Power := (S 0).m.pwr;
    let nom : ℕ := match (S 0).m.fld 802824 16 2 with | 1 => 700 | 2 => 600 | x => 800;
    (S 0).m.test.scan = false ∧ (p.blank = true ∨ y.feed = 0 ∨ (S 0).m.feedOk (3 - y.feed) = true ∨ ¬(fun (k : ℕ) => 400 *
    (0#8).toNat < k * nom) 94)) ∧
    (let y : PDom := (S 9).m.dom 127;
    let nom : ℕ := match (S 9).m.fld 802824 16 2 with | 1 => 700 | 2 => 600 | x => 800;
    (S 9).m.test.scan = false ∧ (y.feed = 1 ∨ y.feed = 2) ∧ (y.warn = true ∨ y.pgWarn = true) ∧ (¬(fun (k : ℕ) => 400 * (190#8).toNat
    < k * nom) 94)) ∧
    (let y : PDom := (S 0).m.dom 127;
    let nom : ℕ := match (S 0).m.fld 802824 16 2 with | 1 => 700 | 2 => 600 | x => 800;
    (S 0).m.test.scan = false ∧ (y.warn = false ∧ y.pgWarn = false ∨ (fun (k : ℕ) => 400 * (0#8).toNat < k * nom) 94)) ∧
    (let p : Power := (S 0).m.pwr;
    let nom : ℕ := match (S 0).m.fld 802824 16 2 with | 1 => 700 | 2 => 600 | x => 800;
    (S 0).m.test.scan = false ∧ p.phase ≠ 1 ∧ (false = true ↔ ¬(fun (k : ℕ) => 400 * (0#8).toNat < k * nom) 97)) ∧
    (let nom : ℕ := match (S 0).m.fld 802824 16 2 with | 1 => 700 | 2 => 600 | x => 800;
    (S 0).m.test.scan = false ∧ (true = true ↔ (fun (k : ℕ) => 400 * (0#8).toNat < k * nom) 97)) ∧
    (let p : Power := (S 0).m.pwr;
    (S 0).m.test.scan = false ∧ p.aonUp = true) ∧
    (let y : PDom := (S 6).m.dom 127;
    let nom : ℕ := match (S 6).m.fld 802824 16 2 with | 1 => 700 | 2 => 600 | x => 800;
    (S 6).m.test.scan = false ∧ (y.feed = 0 ∨ y.pgood = false ∨ 90 * nom ≤ 400 * v_0.rail.toNat)) ∧
    (let y : PDom := (S 6).m.dom 127;
    (S 6).m.test.scan = false ∧ y.feed ≠ 0 ∧ 3 < domSlices 127 ∧ y.pgood = false) ∧
    (let y : PDom := (S 0).m.dom 127;
    (S 0).m.test.scan = false ∧ (y.feed = 0 ∨ domSlices 127 ≤ 31)) ∧
    (let y : PDom := (S 11).m.dom 127;
    (S 11).m.test.scan = false ∧ y.lim.getLsbD 3 = true) ∧
    (let y : PDom := (S 0).m.dom 127;
    (S 0).m.test.scan = false ∧ y.lim.getLsbD 3 = false) ∧
    ((S 0).m.test.scan = false ∧ Takes (S 0) (aDom 127 16) ∧ bt (1#64) 0 = true) ∧
    ((S 0).m.test.scan = false ∧ Takes (S 0) (aDom 127 16) ∧ bt (0x3FFFE#64) 0 = false) :=
  ⟨by
    intro y p nom
    exact ⟨fun _ n _ => niu_all (P := fun y => y.unit = none) (by decide) (by decide +kernel) n, by decide +kernel⟩,
   by
    intro y
    exact ⟨Tab.get_ne (d := dDom) (a := PDom.init) (t := (S 0).m.pwr.doms) (P :=
        fun y => y.mode = 0 ∨ y.feed = 0 ∨ y.feed = y.mode) (fun _ => rfl) (by decide) (by decide +kernel),
        no_feed (by decide +kernel), by decide +kernel⟩,
   by
    intro y p
    exact ⟨Tab.get_ne (d := dDom) (a := PDom.init) (t := (S 10).m.pwr.doms) (P :=
        fun y => y.mode = 0 ∨ y.feed = 0 ∨ y.feed = y.mode) (fun _ => rfl) (by decide) (by decide +kernel),
        no_feed (by decide +kernel), by decide +kernel⟩,
   by
    intro y nom
    exact ⟨fun _ n _ => niu_all (P := fun y => y.unit = none) (by decide) (by decide +kernel) n, by decide +kernel⟩,
   by
    intro y
    exact ⟨fun _ n _ => niu_all (P := fun y => y.unit = none) (by decide) (by decide +kernel) n, by decide +kernel⟩,
   by and_intros <;> decide +kernel⟩

end FeedsAndLimits

namespace StartUp

def states : List Machine.State :=
  [st up,
   st { up with pwr := { up.pwr with feedA := false, feedB := false } },
   State.reset,
   st { Mach.reset with test := { Mach.reset.test with tap := 4 } },
   st (Mach.reset.modPwr (fun p => { p with phase := 1, feedB := true, feedA := true })),
   st ((Mach.reset.modPwr (fun p => { p with phase := 2, feedB := true, feedA := true })).modDom 132 (fun y =>
     { y with st := .ramp, pgood := true, feed := 1 })),
   st ((up.modPwr (fun p => { p with ready := false })).modDom 3 (fun y => { y with st := .fenced }) |>.modNiu 12 (fun x =>
     { x with hold := true }) |>.modNiu 16 (fun x => { x with hold := true }))]
def S (i : Nat) : Machine.State := states.getD i (st up)

/-- The hypotheses of `Obligations.StartUp` met, clause by clause. -/
theorem wit_StartUp :
    ((S 1).m.test.scan = false ∧ (S 1).m.stuckFeed 132 (0#8).toNat 88 = true) ∧
    (let p : Power := (S 2).m.pwr;
    (S 2).m.test.scan = false ∧ p.phase = 0 ∧ (S 2).m.test.tap ≠ 3 ∧ (S 2).m.test.tap ≠ 4 ∧ (S 2).m.clk.fstop = false ∧
    (S 2).m.clk.astop = false) ∧
    (let p : Power := (S 0).m.pwr;
    (S 0).m.test.scan = false ∧ (p.phase ≠ 0 ∨ (S 0).m.test.tap = 3 ∨ (S 0).m.test.tap = 4 ∨ (S 0).m.clk.fstop = true ∨
    (S 0).m.clk.astop = true)) ∧
    (let p : Power := (S 4).m.pwr;
    (S 4).m.test.scan = false ∧ p.phase = 1 ∧ (if false = true then p.feedA else p.feedB) = true ∧ 97 * (S 4).m.nomMv ≤ 400 *
    (195#8).toNat) ∧
    (let p : Power := (S 5).m.pwr;
    (S 5).m.test.scan = false ∧ ((S 5).m.dom 132).st = DSt.ramp ∧ ((S 5).m.dom 132).pgood = true ∧ p.phase = 2 ∧ 0 < 132) ∧
    ((S 0).m.test.scan = false ∧ (((S 0).m.dom 132).st ≠ DSt.ramp ∨ ((S 0).m.dom 132).pgood = false)) ∧
    (let p : Power := (S 6).m.pwr;
    (S 6).m.test.scan = false ∧ p.ready = false ∧ 2 ≤ p.phase ∧ ((S 6).m.dom (epTile 0)).st = DSt.on) ∧
    (let p : Power := (S 5).m.pwr;
    (S 5).m.test.scan = false ∧ p.ready = false ∧ 2 ≤ p.phase ∧ ((S 5).m.dom (epTile 0)).st ≠ DSt.on) ∧
    (let p : Power := (S 0).m.pwr;
    (S 0).m.test.scan = false ∧ p.ready = true) :=
  by and_intros <;> decide +kernel

end StartUp

namespace TwinInstructions

def tw (s : TwSt) (m : Mach := up) : Mach := { m with twin := { m.twin with st := s, trained := true } }
def few (m : Mach) : Mach := { m with pwr := { m.pwr with doms := [(3, onDom), (128, onDom), (132, onDom)] } }
def states : List Machine.State :=
  [run (ins 0xB0 0 0 0 5) [] (tw .attached),
   run (ins 0xB0 0 0 0 (2^24)) [] (few (tw .attached)),
   run (ins 0xB2 0 1 2 5) [(1, 10), (2, 0xFFF4)] (tw .attached),
   run (ins 0xB2 0 1 2 5) [(1, 10), (2, 0xFFF5)] (tw .attached),
   run (ins 0xB1 0 0 0 5) [] { tw .detached with twin := { (tw .detached).twin with map := [(0x8000, 0xFFFD, false)] } },
   run (ins 0xB0 0 0 0 5) [] up,
   run (ins 0xB1 0 0 0 5) [] up,
   run (ins 0xB2 0 1 2 5) [(1, 10), (2, 0xFFF4)] (tw .detached),
   st (eng 1 (ins 0xB0 0 0 0 5) id up),
   st (eng 1 (ins 0xB1 0 0 0 5) id up),
   st (eng 1 (ins 0xB2 0 1 2 5) id up)]
def S (i : Nat) : Machine.State := states.getD i (st up)

/-- The hypotheses of `Obligations.TwinInstructions` met, clause by clause. -/
theorem wit_TwinInstructions :
    (Issues (S 0) 0 (0xB000000000000005#64) 176 ∧ (S 0).m.twin.st = TwSt.attached ∧ bt (0xB000000000000005#64) 24 = false ∧ 1 ≠ 0) ∧
    (Issues (S 1) 0 (0xB000000001000000#64) 176 ∧ (S 1).m.twin.st = TwSt.attached ∧ bt (0xB000000001000000#64) 24 = true ∧ 12 <
    512 ∧ (S 1).m.portRuns 12 = true ∧ 1 ≠ 0) ∧
    (let x : Eng := (S 2).m.eng 0;
    let a : ℕ := BitVec.toNat (x.reg (wA 0xB201200000000005#64));
    let b : ℕ := BitVec.toNat (x.reg (wB 0xB201200000000005#64));
    Issues (S 2) 0 (0xB201200000000005#64) 178 ∧ (S 2).m.twin.st = TwSt.attached ∧ b ≠ 0 ∧ b ≤ 65536 ∧ a + b ≤ 65534 ∧ 1 ≠ 0) ∧
    (let x : Eng := (S 3).m.eng 0;
    let a : ℕ := BitVec.toNat (x.reg (wA 0xB201200000000005#64));
    let b : ℕ := BitVec.toNat (x.reg (wB 0xB201200000000005#64));
    Issues (S 3) 0 (0xB201200000000005#64) 178 ∧ (b = 0 ∨ 65536 < b ∨ 65534 < a + b) ∧ 0 = 0) ∧
    (let own : Bool := (S 4).m.straps.planeB;
    Issues (S 4) 0 (0xB100000000000005#64) 177 ∧ (S 4).m.twin.st = TwSt.detached ∧ (S 4).m.allOn own = true ∧ 1 ≠ 0) ∧
    (Issues (S 5) 0 (0xB000000000000005#64) 176 ∧ 0 = 0 ∧ (S 5).m.twin.st ≠ TwSt.attached) ∧
    (let x : Eng := (S 7).m.eng 0;
    let a : ℕ := BitVec.toNat (x.reg (wA 0xB201200000000005#64));
    let b : ℕ := BitVec.toNat (x.reg (wB 0xB201200000000005#64));
    Issues (S 7) 0 (0xB201200000000005#64) 178 ∧ b ≠ 0 ∧ b ≤ 65536 ∧ a + b ≤ 65534 ∧ 0 = 0 ∧ (S 7).m.twin.st ≠ TwSt.attached) ∧
    (let own : Bool := (S 6).m.straps.planeB;
    Issues (S 6) 0 (0xB100000000000005#64) 177 ∧ 0 = 0 ∧ ((S 6).m.twin.st ≠ TwSt.detached ∨ (S 6).m.allOn own = false)) ∧
    (Issues (S 8) 1 (0xB000000000000005#64) 176 ∧ 1 ≠ 0) ∧
    (Issues (S 9) 1 (0xB100000000000005#64) 177 ∧ 1 ≠ 0) ∧
    (Issues (S 10) 1 (0xB201200000000005#64) 178 ∧ 1 ≠ 0) :=
  by and_intros <;> decide +kernel

end TwinInstructions

namespace TwinLink

def tw (f : Twin → Twin) (m : Mach := up) : Mach :=
  { m with twin := f { m.twin with st := .attached, trained := true, rseq := 3 } }
def rec0 (ty n d : Nat) : BitVec 128 := mkf 128 124 4 ty ||| mkf 128 114 10 n ||| mkf 128 98 16 9 ||| mkf 128 82 16 5 ||| mkf
  128 72 10 d ||| (if ty = 3 then mkf 128 73 1 1 else 0)
def ce (f : BitVec 16) (n d : Nat) : FcE := ⟨f, mkf 512 0 1 1 ||| mkf 512 1 10 n ||| mkf 512 11 10 d ||| mkf 512 24 2 2, none,
  false, false, false, false, false, false, false, false⟩
def ents : Mach := (up.modNiu 5 (fun y => { y with fc := [ce 9 5 8] })).modNiu 8 (fun y => { y with fc := [ce 9 5 8] })
def cp : FlitBits := mkf 512 96 16 9 ||| mkf 512 0 64 77
def states : List Machine.State :=
  [st up,
   st (tw id),
   st (tw (fun x => { x with rxq := [rec0 1 5 0] }) ents),
   st (tw (fun x => { x with rxq := [rec0 2 5 0] }) (ents.modNiu 5 (fun y =>
     { y with shadow := [⟨9, [5], [], 0, 0, 0, 0, 0⟩, ⟨9, [6, 5], [], 0, 0, 0, 0, 0⟩] }))),
   st (tw (fun x => { x with rxq := [rec0 3 5 0] }) ents),
   st (tw (fun x => { x with rxq := [rec0 1 5 0 ||| mkf 128 62 6 5] }) (ents.modNiu 5 (fun y =>
     { y with shadow := [⟨9, [4], [], 0, 0, 5, 0, 0⟩] }))),
   st (tw (fun x => { x with rxq := [rec0 4 5 0] }) ents),
   st (tw (fun x => { x with rxq := [rec0 5 5 8] }) ents),
   st (tw (fun x => { x with rxq := [rec0 6 5 0] }) ents),
   st (tw (fun x => { x with rx := [⟨7, 3, cp⟩] }) ents)]
def all_rest : List (List (BitVec 128)) := [[]]
def of_l (s : Machine.State) : List (List (Nat × FlitBits)) := [(s.m.copiesOf 9).drop 1]
def all_q : List SRec := [⟨9, [4], [], 0, 0, 5, 0, 0⟩]
def S (i : Nat) : Machine.State := states.getD i (st up)
def rest_0 : List (BitVec 128) := all_rest[0]'(by decide +kernel)
def q_0 : SRec := all_q[0]'(by decide +kernel)
def l_s_9_0 : List (ℕ × FlitBits) := (of_l (S 9))[0]'(by decide +kernel)

/-- The hypotheses of `Obligations.TwinLink` met, clause by clause. -/
theorem wit_TwinLink :
    (let x : Twin := (S 0).m.twin;
    twinCrc 0x10000000000000000000000000000000#512 0x40C0001#30 ≠ twinCrc 0x10000000000000000000000000000000#512 0x40C0001#30 + 1
    ∧ (S 0).m.test.scan = false ∧ (S 0).m.pwr.aonUp = true ∧ x.trained = false) ∧
    (let x : Twin := (S 0).m.twin;
    twinCrc 0x10000000000000000000000000000000#512 0x40C0001#30 = twinCrc 0x10000000000000000000000000000000#512 0x40C0001#30 ∧
    (S 0).m.test.scan = false ∧ (S 0).m.pwr.aonUp = true ∧ x.trained = false) ∧
    (let x : Twin := (S 1).m.twin;
    twinCrc 0x10000000000000000000000000000000#512 0x40C0001#30 ≠ twinCrc 0x10000000000000000000000000000000#512 0x40C0001#30 + 1
    ∧ (S 1).m.test.scan = false ∧ (S 1).m.pwr.aonUp = true ∧ x.trained = true) ∧
    (let x : Twin := (S 1).m.twin;
    let kind : ℕ := fKind 0x40C0001#30;
    twinCrc 0x10000000000000000000000000000000#512 0x40C0001#30 = twinCrc 0x10000000000000000000000000000000#512 0x40C0001#30 ∧
    (S 1).m.test.scan = false ∧ (S 1).m.pwr.aonUp = true ∧ x.trained = true ∧ fUp 0x40C0001#30 = true ∧ kind = 1 ∧ fSeq 0x40C0001#30 =
    x.rseq ∧ x.rx = [] ∧ x.rxq = [] ∧ frameRecs 0x10000000000000000000000000000000#512 ≠ []) ∧
    (let x : Twin := (S 1).m.twin;
    let kind : ℕ := fKind 0x80C0001#30;
    twinCrc 0x10000000000000000000000000000000#512 0x80C0001#30 = twinCrc 0x10000000000000000000000000000000#512 0x80C0001#30 ∧
    (S 1).m.test.scan = false ∧ (S 1).m.pwr.aonUp = true ∧ x.trained = true ∧ fUp 0x80C0001#30 = true ∧ kind = 2 ∧ fSeq 0x80C0001#30
    = x.rseq ∧ x.rx = []) ∧
    (let x : Twin := (S 1).m.twin;
    let kind : ℕ := fKind 0x4100001#30;
    twinCrc 0x10000000000000000000000000000000#512 0x4100001#30 = twinCrc 0x10000000000000000000000000000000#512 0x4100001#30 ∧
    (S 1).m.test.scan = false ∧ (S 1).m.pwr.aonUp = true ∧ x.trained = true ∧ fUp 0x4100001#30 = true ∧ 1 ≤ kind ∧ kind < 5 ∧ fSeq
    0x4100001#30 ≠ x.rseq ∧ x.rx = []) ∧
    (let x : Twin := (S 1).m.twin;
    twinCrc 0x10000000000000000000000000000000#512 0x40C0000#30 = twinCrc 0x10000000000000000000000000000000#512 0x40C0000#30 ∧
    (S 1).m.test.scan = false ∧ (S 1).m.pwr.aonUp = true ∧ x.trained = true ∧ fUp 0x40C0000#30 = false) ∧
    (let x : Twin := (S 2).m.twin;
    let ty : ℕ := rType 0x10140024001400000000000000000000#128;
    (S 2).m.test.scan = false ∧ x.rxq = 0x10140024001400000000000000000000#128 :: rest_0 ∧ x.rx = [] ∧ rFlow
    0x10140024001400000000000000000000#128 = 9#16 ∧ rEp 0x10140024001400000000000000000000#128 = 5 ∧ ty = 1 ∧ ((fun (k : ℕ) => k
    < 512 ∧ (S 2).m.domLive (epTile k) = true ∧ ((S 2).m.niu k).entry 9#16 ≠ none) 5) ∧ x.st ≠ TwSt.dead ∧ bf
    (0x10140024001400000000000000000000#128) 62 6 ≠ opMSG ∧ ((S 2).m.niu 5).shadow.length < 272) ∧
    (let x : Twin := (S 5).m.twin;
    let ty : ℕ := rType 0x10140024001400014000000000000000#128;
    (S 5).m.test.scan = false ∧ x.rxq = 0x10140024001400014000000000000000#128 :: rest_0 ∧ x.rx = [] ∧ rFlow
    0x10140024001400014000000000000000#128 = 9#16 ∧ rEp 0x10140024001400014000000000000000#128 = 5 ∧ ty = 1 ∧ ((fun (k : ℕ) => k
    < 512 ∧ (S 5).m.domLive (epTile k) = true ∧ ((S 5).m.niu k).entry 9#16 ≠ none) 5) ∧ x.st ≠ TwSt.dead ∧ bf
    (0x10140024001400014000000000000000#128) 62 6 = opMSG ∧ ((S 5).m.niu 5).shadow = [q_0] ∧ q_0.opc = opMSG ∧
    q_0.flow = 9#16 ∧ q_0.sub = bf (0x10140024001400014000000000000000#128) 76 6 ∧ q_0.etag = bf
    (0x10140024001400014000000000000000#128) 68 8 ∧ q_0.done = []) ∧
    (let x : Twin := (S 3).m.twin;
    let ty : ℕ := rType 0x20140024001400000000000000000000#128;
    (S 3).m.test.scan = false ∧ x.rxq = 0x20140024001400000000000000000000#128 :: rest_0 ∧ x.rx = [] ∧ rFlow
    0x20140024001400000000000000000000#128 = 9#16 ∧ rEp 0x20140024001400000000000000000000#128 = 5 ∧ ty = 2 ∧ 5 < 512 ∧
    (S 3).m.domLive (epTile 5) = true ∧ x.st ≠ TwSt.dead) ∧
    (let x : Twin := (S 4).m.twin;
    let ty : ℕ := rType 0x30140024001402000000000000000000#128;
    (S 4).m.test.scan = false ∧ x.rxq = 0x30140024001402000000000000000000#128 :: rest_0 ∧ x.rx = [] ∧ rFlow
    0x30140024001402000000000000000000#128 = 9#16 ∧ rEp 0x30140024001402000000000000000000#128 = 5 ∧ ty = 3 ∧ ((fun (k : ℕ) => k
    < 512 ∧ (S 4).m.domLive (epTile k) = true ∧ ((S 4).m.niu k).entry 9#16 ≠ none) 5)) ∧
    (let x : Twin := (S 6).m.twin;
    let ty : ℕ := rType 0x40140024001400000000000000000000#128;
    (S 6).m.test.scan = false ∧ x.rxq = 0x40140024001400000000000000000000#128 :: rest_0 ∧ x.rx = [] ∧ rFlow
    0x40140024001400000000000000000000#128 = 9#16 ∧ rEp 0x40140024001400000000000000000000#128 = 5 ∧ ty = 4 ∧ 5 < 512 ∧
    (S 6).m.domLive (epTile 5) = true ∧ ((S 6).m.niu 5).atoms.length < 64) ∧
    (let x : Twin := (S 7).m.twin;
    let ty : ℕ := rType 0x50140024001408000000000000000000#128;
    (S 7).m.test.scan = false ∧ x.rxq = 0x50140024001408000000000000000000#128 :: rest_0 ∧ x.rx = [] ∧ rFlow
    0x50140024001408000000000000000000#128 = 9#16 ∧ rEp 0x50140024001408000000000000000000#128 = 5 ∧ ty = 5 ∧ bf
    (0x50140024001408000000000000000000#128) 72 10 = 8 ∧ ((fun (k : ℕ) => k < 512 ∧ (S 7).m.domLive (epTile k) = true ∧
    ((S 7).m.niu k).entry 9#16 ≠ none) 5) ∧ ((fun (k : ℕ) => k < 512 ∧ (S 7).m.domLive (epTile k) = true ∧ ((S 7).m.niu k).entry
    9#16 ≠ none) 8) ∧ 5 ≠ 8) ∧
    (let x : Twin := (S 8).m.twin;
    let ty : ℕ := rType 0x60140024001400000000000000000000#128;
    (S 8).m.test.scan = false ∧ x.rxq = 0x60140024001400000000000000000000#128 :: rest_0 ∧ x.rx = [] ∧ rFlow
    0x60140024001400000000000000000000#128 = 9#16 ∧ rEp 0x60140024001400000000000000000000#128 = 5 ∧ ty = 6 ∧ ((fun (k : ℕ) =>
    k < 512 ∧ (S 8).m.domLive (epTile k) = true ∧ ((S 8).m.niu k).entry 9#16 ≠ none) 5)) ∧
    (let x : Twin := (S 3).m.twin;
    let ty : ℕ := rType 0x20140024001400000000000000000000#128;
    (S 3).m.test.scan = false ∧ x.rxq = 0x20140024001400000000000000000000#128 :: rest_0 ∧ x.rx = [] ∧ rFlow
    0x20140024001400000000000000000000#128 = 9#16 ∧ rEp 0x20140024001400000000000000000000#128 = 5 ∧ ty ≠ 1) ∧
    (let x : Twin := (S 2).m.twin;
    let ty : ℕ := rType 0x10140024001400000000000000000000#128;
    (S 2).m.test.scan = false ∧ x.rxq = 0x10140024001400000000000000000000#128 :: rest_0 ∧ x.rx = [] ∧ rFlow
    0x10140024001400000000000000000000#128 = 9#16 ∧ rEp 0x10140024001400000000000000000000#128 = 5 ∧ ty ≠ 2) ∧
    (let x : Twin := (S 2).m.twin;
    let ty : ℕ := rType 0x10140024001400000000000000000000#128;
    (S 2).m.test.scan = false ∧ x.rxq = 0x10140024001400000000000000000000#128 :: rest_0 ∧ x.rx = [] ∧ rFlow
    0x10140024001400000000000000000000#128 = 9#16 ∧ rEp 0x10140024001400000000000000000000#128 = 5 ∧ ty ≠ 3) ∧
    (let x : Twin := (S 2).m.twin;
    let ty : ℕ := rType 0x10140024001400000000000000000000#128;
    (S 2).m.test.scan = false ∧ x.rxq = 0x10140024001400000000000000000000#128 :: rest_0 ∧ x.rx = [] ∧ rFlow
    0x10140024001400000000000000000000#128 = 9#16 ∧ rEp 0x10140024001400000000000000000000#128 = 5 ∧ ty ≠ 4) ∧
    (let x : Twin := (S 2).m.twin;
    let ty : ℕ := rType 0x10140024001400000000000000000000#128;
    (S 2).m.test.scan = false ∧ x.rxq = 0x10140024001400000000000000000000#128 :: rest_0 ∧ x.rx = [] ∧ rFlow
    0x10140024001400000000000000000000#128 = 9#16 ∧ rEp 0x10140024001400000000000000000000#128 = 5 ∧ ty ≠ 5) ∧
    (let x : Twin := (S 2).m.twin;
    let ty : ℕ := rType 0x10140024001400000000000000000000#128;
    (S 2).m.test.scan = false ∧ x.rxq = 0x10140024001400000000000000000000#128 :: rest_0 ∧ x.rx = [] ∧ rFlow
    0x10140024001400000000000000000000#128 = 9#16 ∧ rEp 0x10140024001400000000000000000000#128 = 5 ∧ ty ≠ 6) ∧
    (let f : BitVec 16 := BitVec.extractLsb' 96 16 0x900000000000000000000004D#512;
    (S 9).m.test.scan = false ∧ (S 9).m.twin.rxq = [] ∧ (S 9).m.twin.rx =
    [{ seq := 7, kind := 3, data := 0x900000000000000000000004D#512 }] ∧ (S 9).m.copiesOf f = (5, 0x200400B#512) :: l_s_9_0 ∧
    eV 0x200400B#512 = true ∧ ((fun (n : ℕ) => n < 512 ∧ (S 9).m.domLive (epTile n) = true ∧ ((S 9).m.niu n).entry f ≠ none) (eSrc
    0x200400B#512)) ∧ ((fun (n : ℕ) => n < 512 ∧ (S 9).m.domLive (epTile n) = true ∧ ((S 9).m.niu n).entry f ≠ none) (eDst
    0x200400B#512)) ∧ eSrc 0x200400B#512 ≠ eDst 0x200400B#512) ∧
    ((S 0).m.test.scan = false ∧ (S 0).m.twin.rxq = [] ∧ (S 0).m.twin.rx = []) :=
  ⟨by
    intro x
    exact ⟨crc_ne _, by decide +kernel⟩,
   by
    intro x
    exact ⟨rfl, by decide +kernel⟩,
   by
    intro x
    exact ⟨crc_ne _, by decide +kernel⟩,
   by
    intro x kind
    exact ⟨rfl, by decide +kernel⟩,
   by
    intro x kind
    exact ⟨rfl, by decide +kernel⟩,
   by
    intro x kind
    exact ⟨rfl, by decide +kernel⟩,
   by
    intro x
    exact ⟨rfl, by decide +kernel⟩,
   by and_intros <;> decide +kernel⟩

end TwinLink

namespace TwinStates

def tw (t : TwSt) (f : Twin → Twin) (m : Mach := up.setFld aTwCfg 16 1 0) : Mach :=
  { m with twin := f { m.twin with st := t, trained := true, rseq := 3 } }
def hb (failed : Nat) (ft : Nat) : BitVec 512 := mkf 512 0 64 ft ||| mkf 512 64 64 999000 ||| mkf 512 175 1 failed ||| mkf 512
  168 4 1
def dn : Machine.State := st { up with twin := { up.twin with map := [(0, 9, true)] } }
def states : List Machine.State :=
  [st up,
   dn,
   st (tw .attached id),
   st (tw .dead id),
   st (tw .attached (fun x => { x with hbDue := true, hbSeq := 65535, lastFt := 999000, lastAt := 999900 })),
   st (tw .detaching (fun x => { x with opTo := false, left := [5, 6], flushed := [5], op := 2, first := 0, last := 0xFFFD })
     (up.modNiu 5 (fun y => { y with arrive := true }))),
   st (tw .detached (fun x => { x with hbIn := some (6, hb 0 999500) })),
   st (tw .attached (fun x => { x with hbIn := some (6, hb 1 1000000) })),
   st (tw .detached (fun x => { x with hbIn := some (6, hb 1 1000000) })),
   st (tw .attached (fun x => { x with missed := 3 })),
   st (tw .attached (fun x => { x with missed := 3 }) { up with straps := ⟨1, true⟩ }),
   st (tw .attached (fun x => { x with missed := 2 }) { up with straps := ⟨1, true⟩ }),
   st { up with twin := { up.twin with cfgBad := true } },
   st { up with twin := { up.twin with fresh := false } },
   st (up.modNiu 5 (fun y =>
     { y with tt := [(3, some ⟨.service, hdw 5 0 5 3 ||| mkf 512 11 6 0x3E, [], [], false⟩)], notice := true })),
   st (tw .detaching (fun x => { x with opTo := false, left := [5, 6], op := 2, first := 0, last := 0xFFFD }) (up.modNiu 5 (fun y
     => { y with arrive := true })))]
def all_t0 : List TT := [⟨.service, hdw 5 0 5 3 ||| mkf 512 11 6 0x3E, [], [], false⟩]
def S (i : Nat) : Machine.State := states.getD i (st up)
def t0_0 : TT := all_t0[0]'(by decide +kernel)

/-- The hypotheses of `Obligations.TwinStates` met, clause by clause. -/
theorem wit_TwinStates :
    (let x : Twin := (S 0).m.twin;
    (S 0).m.test.scan = false ∧ (S 0).m.pwr.aonUp = true ∧ (S 0).m.clk.astop = false ∧ x.st = TwSt.down) ∧
    (let x : Twin := (S 4).m.twin;
    (S 4).m.test.scan = false ∧ (S 4).m.pwr.aonUp = true ∧ (S 4).m.clk.astop = false ∧ x.hbDue = true ∧ x.again = [] ∧ x.mayTx =
    true) ∧
    (let x : Twin := (S 0).m.twin;
    (S 0).m.test.scan = false ∧ (S 0).m.pwr.aonUp = true ∧ (S 0).m.clk.astop = false ∧ x.hbIn = none) ∧
    (let x : Twin := (S 6).m.twin;
    let rtt : ℤ := ↑(S 6).m.ftNs - ↑(bf (0x1000000000000000000000F3E5800000000000F404C#512) 64 64) - ↑(bf
      (0x1000000000000000000000F3E5800000000000F404C#512) 128 32);
    (S 6).m.test.scan = false ∧ (S 6).m.pwr.aonUp = true ∧ (S 6).m.clk.astop = false ∧ x.hbIn = some (6,
    0x1000000000000000000000F3E5800000000000F404C#512) ∧ bt (0x1000000000000000000000F3E5800000000000F404C#512) 175 = false
    ∧ (S 6).m.timeFollow = false ∧ (↑(bf (0x1000000000000000000000F3E5800000000000F404C#512) 0 64) + rtt / 2 -
    ↑(S 6).m.ftNs).natAbs ≤ (S 6).m.skewMax) ∧
    (let x : Twin := (S 7).m.twin;
    (S 7).m.test.scan = false ∧ (S 7).m.pwr.aonUp = true ∧ (S 7).m.clk.astop = false ∧ x.hbIn = some (6,
    0x81000000000000000000000F3E5800000000000F4240#512) ∧ bt (0x81000000000000000000000F3E5800000000000F4240#512) 175 =
    true ∧ (S 7).m.timeFollow = false ∧ x.cfgBad = false ∧ (x.st = TwSt.attached ∨ x.st = TwSt.detaching)) ∧
    (let x : Twin := (S 8).m.twin;
    (S 8).m.test.scan = false ∧ (S 8).m.pwr.aonUp = true ∧ (S 8).m.clk.astop = false ∧ x.hbIn = some (6,
    0x81000000000000000000000F3E5800000000000F4240#512) ∧ bt (0x81000000000000000000000F3E5800000000000F4240#512) 175 =
    true ∧ (S 8).m.timeFollow = false ∧ x.cfgBad = false ∧ (x.st = TwSt.attaching ∨ x.st = TwSt.detached)) ∧
    (let x : Twin := (S 2).m.twin;
    let k : ℕ := min 15 (x.missed + 1);
    (S 2).m.test.scan = false ∧ (S 2).m.pwr.aonUp = true ∧ (S 2).m.clk.astop = false ∧ x.st ≠ TwSt.down ∧ x.hbIn = none ∧ k < 3) ∧
    (let x : Twin := (S 0).m.twin;
    (S 0).m.test.scan = false ∧ (S 0).m.pwr.aonUp = true ∧ (S 0).m.clk.astop = false ∧ (x.st = TwSt.down ∨ x.hbIn ≠ none)) ∧
    (let x : Twin := (S 9).m.twin;
    let k : ℕ := min 15 (x.missed + 1);
    (S 9).m.test.scan = false ∧ (S 9).m.pwr.aonUp = true ∧ (S 9).m.clk.astop = false ∧ (x.st = TwSt.attached ∨ x.st =
    TwSt.detaching) ∧ x.hbIn = none ∧ x.cfgBad = false ∧ 4 ≤ k ∧ (false = false ∨ (S 9).m.straps.planeB = false)) ∧
    (let x : Twin := (S 10).m.twin;
    let k : ℕ := min 15 (x.missed + 1);
    (S 10).m.test.scan = false ∧ (S 10).m.pwr.aonUp = true ∧ (S 10).m.clk.astop = false ∧ (x.st = TwSt.attached ∨ x.st =
    TwSt.detaching) ∧ x.hbIn = none ∧ x.cfgBad = false ∧ 3 ≤ k ∧ true = true ∧ (S 10).m.straps.planeB = true ∧ x.wdrawn = false ∧
    (S 10).m.safe = false) ∧
    (let x : Twin := (S 0).m.twin;
    (S 0).m.test.scan = false ∧ (S 0).m.pwr.aonUp = true ∧ x.cfgBad = false ∧ (x.st = TwSt.down ∨ x.st = TwSt.dead) ∧ true ≠
    (S 0).m.straps.planeB ∧ (1#4).toNat = (S 0).m.straps.variant ∧ (true && x.fresh) = true) ∧
    (let x : Twin := (S 0).m.twin;
    (S 0).m.test.scan = false ∧ (S 0).m.pwr.aonUp = true ∧ x.cfgBad = false ∧ (x.st = TwSt.down ∨ x.st = TwSt.dead) ∧ true ≠
    (S 0).m.straps.planeB ∧ (1#4).toNat = (S 0).m.straps.variant ∧ x.fresh = true ∧ false = false) ∧
    (let x : Twin := (S 13).m.twin;
    (S 13).m.test.scan = false ∧ (S 13).m.pwr.aonUp = true ∧ x.cfgBad = false ∧ (x.st = TwSt.down ∨ x.st = TwSt.dead) ∧ true ≠
    (S 13).m.straps.planeB ∧ (1#4).toNat = (S 13).m.straps.variant ∧ x.fresh = false ∧ true = true) ∧
    (let x : Twin := (S 13).m.twin;
    (S 13).m.test.scan = false ∧ (S 13).m.pwr.aonUp = true ∧ x.cfgBad = false ∧ (x.st = TwSt.down ∨ x.st = TwSt.dead) ∧ true ≠
    (S 13).m.straps.planeB ∧ (1#4).toNat = (S 13).m.straps.variant ∧ x.fresh = false ∧ false = false) ∧
    (let x : Twin := (S 0).m.twin;
    (S 0).m.test.scan = false ∧ (S 0).m.pwr.aonUp = true ∧ x.cfgBad = false ∧ (x.st = TwSt.down ∨ x.st = TwSt.dead) ∧ (false =
    (S 0).m.straps.planeB ∨ (1#4).toNat ≠ (S 0).m.straps.variant)) ∧
    (let x : Twin := (S 12).m.twin;
    (S 12).m.test.scan = false ∧ x.cfgBad = true) ∧
    (let x : Twin := (S 0).m.twin;
    (S 0).m.test.scan = false ∧ (S 0).m.pwr.ready = true ∧ x.st = TwSt.down ∧ x.cfgBad = false ∧ 5 < 512) ∧
    (let x : Twin := (S 2).m.twin;
    (S 2).m.test.scan = false ∧ ((S 2).m.pwr.ready = false ∨ x.st ≠ TwSt.down ∨ x.cfgBad = true)) ∧
    (let x : Twin := (S 14).m.twin;
    let y : Niu := (S 14).m.niu 5;
    (S 14).m.test.scan = false ∧ y.tt = [(3, some t0_0)] ∧ 3 < 256 ∧ t0_0.kind = TKind.service ∧ bf t0_0.hd 11 6 = 62 ∧
    y.treq = none ∧ x.st ≠ TwSt.detaching) ∧
    (let y : Niu := (S 0).m.niu 5;
    (S 0).m.test.scan = false ∧ y.tt = []) ∧
    (let x : Twin := (S 5).m.twin;
    let y : Niu := (S 5).m.niu 5;
    (S 5).m.test.scan = false ∧ x.st = TwSt.detaching ∧ x.opTo = (S 5).m.straps.planeB ∧ x.left.contains 5 = true ∧
    x.flushed.contains 5 = true ∧ y.notice = false ∧ List.filter (fun (n : ℕ) => decide (n ≠ 5)) x.left ≠ []) ∧
    (let x : Twin := (S 0).m.twin;
    let y : Niu := (S 0).m.niu 5;
    (S 0).m.test.scan = false ∧ (x.st ≠ TwSt.detaching ∨ x.flushed.contains 5 = false ∨ y.notice = true)) :=
  by and_intros <;> decide +kernel

end TwinStates

namespace Counters

def sel (kind j k : Nat) : Word := BitVec.ofNat 64 (kind * 2^28 + j * 2^16 + k)
def cf (ev : Nat) : Word := BitVec.ofNat 64 (2^63 + 0xFF * 2^32 + ev)
def own (m : Mach) : Mach := { m with tele := { m.tele with owner := [(8, 1), (8192, 2)] } }
def wr (m : Mach) : Mach := { (own m) with tele := { (own m).tele with wraps := [(8, some (hdw 5 4 1 1))] } }
def wp (m : Mach) : Mach := m.modTele (fun x => { x with wraps := [(5184, some 0)], wrapPc := [(5184, [64, 72])] })
def smpw0 (j : Nat) (clr : Nat) : Word := BitVec.ofNat 64 (2^63 + clr * 2^62 + j * 2^48 + 100)
def cfd (o : Nat) (k : Wait) : Machine.State := st (up.modEng 0 (fun x =>
  { x with insn := ins o 0 1 2 0, state := .waiting, wait := k }))
def states : List Machine.State :=
  [run (ins 0xC0 0 1 2 0) [(1, sel 0 1 0), (2, cf 3)] up,
   run (ins 0xC0 0 1 2 0) [(1, sel 0 1 0), (2, cf 3 ||| (0x2000000000000000) ||| (3 <<< 54))] up,
   run (ins 0xC0 0 1 2 0) [(1, sel 0 1 0 ||| 0x8000000000000000), (2, cf 3)] up,
   run (ins 0xC0 0 1 2 0) [(1, sel 0 1 0), (2, cf 3)] (up.modDom 1 (fun d => { d with live := false })),
   run (ins 0xC0 0 1 2 0) [(1, sel 2 1 0), (2, cf 3)] { up with straps := ⟨3, false⟩ },
   run (ins 0xC1 4 1 0 0) [(1, sel 0 1 0)] up,
   run (ins 0xC1 4 1 0 0) [(1, sel 0 1 0 ||| 0x8000000000000000)] up,
   st up,
   cfd 0xC0 (.config [sel 0 1 0, cf 3]),
   cfd 0xC2 .none,
   st (wr up),
   st (wr ((up.setReg (aCtr 8 + 8) (0x4000000000000000 ||| cf 3 ||| (3 <<< 54))).setReg (aCtr 8) 5)),
   st (wr (((up.setReg (aCtr 8 + 8) (0x4000000000000000 ||| cf 0x0C)).setReg (aCtr 8) 5).setReg (aCtr 8 + 16) 0x8000000000000000)),
   st (wr (((up.setReg (aCtr 8 + 8) (0x4000000000000000 ||| cf 0x0C)).setReg (aCtr 8) 5))),
   st (wr (((up.setReg (aCtr 8 + 8) (0x4000000000000000 ||| cf 7)).setReg (aCtr 8) 5))),
   run (ins 0xC2 0 0 0 (65 * 2^24)) [] up,
   mk (ins 0xC2 0 0 0 (64 * 2^24)) [] 64 [smpw0 5 1, 0] up,
   mk (ins 0xC2 0 0 0 (64 * 2^24)) [] 64 [smpw0 5 0, 0] up,
   mk (ins 0xC2 0 0 0 (64 * 2^24)) [] 64 [smpw0 544 0, 0xFFFFFFFFFFFFFFFF] up,
   mk (ins 0xC2 0 0 0 (64 * 2^24)) [] 64 [smpw0 5 0, 0] (up.modDom 1 (fun d => { d with live := false })),
   st ((own up).setReg (aSmp 0 + 0x10) (smpw0 0 0)),
   st (((own up).setReg (aSmp 0 + 0x10) (smpw0 0 0)).setReg (aSmp 0 + 0x18) (1 <<< 32) |>.modNiu 0 (fun y =>
     { y with inj := [⟨1, ⟨0,[],false⟩, 0, 3, 0, false, false, false, false, none, false, none, 0, none⟩] })),
   st (wp (wr (((up.setReg (aCtr 5184 + 8) (0x4000000000000000 ||| cf 4)).setReg (aCtr 5184) 5))))]
def all_ws : List (List Word) := [[sel 0 1 0, cf 3]]
def sl (s : Machine.State) : Nat × Option Nat := ((if (s.m.eng 0).state = .waiting then none else ctrSel ((s.m.eng 0).reg
  1)).orElse (fun _ => ctrSel (sel 0 1 0))).getD (0, none)
def of_q (s : Machine.State) : List (Option Nat) := [(sl s).2]
def S (i : Nat) : Machine.State := states.getD i (st up)
def q_s_0_0 : Option ℕ := (of_q (S 0))[0]'(by decide +kernel)
def q_s_2_0 : Option ℕ := (of_q (S 2))[0]'(by decide +kernel)
def q_s_3_0 : Option ℕ := (of_q (S 3))[0]'(by decide +kernel)
def ws_0 : List Word := all_ws[0]'(by decide +kernel)
def q_s_8_0 : Option ℕ := (of_q (S 8))[0]'(by decide +kernel)
def q_s_5_0 : Option ℕ := (of_q (S 5))[0]'(by decide +kernel)
def q_s_6_0 : Option ℕ := (of_q (S 6))[0]'(by decide +kernel)

/-- The hypotheses of `Obligations.Counters` met, clause by clause. -/
theorem wit_Counters :
    (let x : Eng := (S 0).m.eng 0;
    let v : Word := x.reg (wA 0xC001200000000000#64);
    let c : Word := x.reg (wB 0xC001200000000000#64);
    Issues (S 0) 0 (0xC001200000000000#64) 192 ∧ ctrSel v = some (8, q_s_0_0) ∧ inScope 0 q_s_0_0 = true ∧
    (S 0).m.ctrAbsent (bf v 28 4) (bf c 0 8) = false ∧ ctrSelStray v = false ∧ cfgRange (bf v 28 4) c = false ∧ ((S 0).m.readPc
    0).domLive (ctrDom 8) = true) ∧
    (let x : Eng := (S 2).m.eng 0;
    let v : Word := x.reg (wA 0xC001200000000000#64);
    let c : Word := x.reg (wB 0xC001200000000000#64);
    Issues (S 2) 0 (0xC001200000000000#64) 192 ∧ ctrSel v = some (8, q_s_2_0) ∧ inScope 0 q_s_2_0 = true ∧
    (S 2).m.ctrAbsent (bf v 28 4) (bf c 0 8) = false ∧ (ctrSelStray v = true ∨ cfgRange (bf v 28 4) c = true)) ∧
    (let x : Eng := (S 3).m.eng 0;
    let v : Word := x.reg (wA 0xC001200000000000#64);
    let c : Word := x.reg (wB 0xC001200000000000#64);
    Issues (S 3) 0 (0xC001200000000000#64) 192 ∧ ctrSel v = some (8, q_s_3_0) ∧ inScope 0 q_s_3_0 = true ∧
    (S 3).m.ctrAbsent (bf v 28 4) (bf c 0 8) = false ∧ ctrSelStray v = false ∧ cfgRange (bf v 28 4) c = false ∧ ((S 3).m.readPc
    0).domLive (ctrDom 8) = false) ∧
    (let x : Eng := (S 8).m.eng 0;
    (S 8).m.test.scan = false ∧ x.state = EngSt.waiting ∧ x.wait = Wait.config ws_0) ∧
    (let x : Eng := (S 8).m.eng 0;
    wOpc x.insn = 192 ∧ ctrSel 0x10000#64 = some (8, q_s_8_0) ∧ (S 8).m.domLive (ctrDom 8) = true ∧ 0 ≠ aCtr 8 ∧ 0 ≠ aCtr 8 + 8 ∧ 0
    ≠ aCtr 8 + 16) ∧
    (let x : Eng := (S 8).m.eng 0;
    wOpc x.insn = 192 ∧ ctrSel 0x10000#64 = some (8, q_s_8_0) ∧ (S 8).m.domLive (ctrDom 8) = true ∧ bt (0xA0C000FF00000003#64) 61
    = true) ∧
    (let x : Eng := (S 8).m.eng 0;
    wOpc x.insn = 192 ∧ ctrSel 0x10000#64 = some (8, q_s_8_0) ∧ (S 8).m.domLive (ctrDom 8) = true ∧ bt (0x800000FF00000003#64) 61
    = false) ∧
    (let x : Eng := (S 4).m.eng 0;
    let v : Word := x.reg (wA 0xC001200000000000#64);
    let c : Word := x.reg (wB 0xC001200000000000#64);
    Issues (S 4) 0 (0xC001200000000000#64) 192 ∧ (S 4).m.ctrAbsent (bf v 28 4) (bf c 0 8) = true) ∧
    (let x : Eng := (S 5).m.eng 0;
    let v : Word := x.reg (wA 0xC141000000000000#64);
    Issues (S 5) 0 (0xC141000000000000#64) 193 ∧ ctrSel v = some (8, q_s_5_0) ∧ inScope 0 q_s_5_0 = true ∧ (bf v 28 4 = 2
    → (S 5).m.hasSpine = true) ∧ ctrSelStray v = false) ∧
    (let x : Eng := (S 6).m.eng 0;
    let v : Word := x.reg (wA 0xC141000000000000#64);
    Issues (S 6) 0 (0xC141000000000000#64) 193 ∧ ctrSel v = some (8, q_s_6_0) ∧ inScope 0 q_s_6_0 = true ∧ (bf v 28 4 = 2
    → (S 6).m.hasSpine = true) ∧ ctrSelStray v = true) ∧
    ((S 0).m.test.scan = false ∧ Tab.get dNone (S 0).m.tele.wraps 8 = none) ∧
    (let a : ℕ := aCtr 8;
    let cfg : Word := (S 10).m.reg (a + 8);
    (S 10).m.test.scan = false ∧ Tab.get dNone (S 10).m.tele.wraps 8 = some 0x500000028000400#512 ∧ bt cfg 62 = false ∧ 0 ≠ a) ∧
    (let a : ℕ := aCtr 8;
    let cfg : Word := (S 11).m.reg (a + 8);
    let o : ℕ := (S 11).m.ownerOf 8;
    let pre : ℕ := bf cfg 54 6;
    (S 11).m.test.scan = false ∧ Tab.get dNone (S 11).m.tele.wraps 8 = some 0x500000028000400#512 ∧ bt cfg 62 = true ∧
    ((S 11).m.eng o).state ≠ EngSt.off ∧ ((S 11).m.eng o).evq.length < 32 ∧ (pre = 0 ∨ (S 11).m.fld a 0 48 < 2 ^ pre) ∧ pre < 48 ∧
    0 ≠ a ∧ 0 ≠ a + 16) ∧
    (let a : ℕ := aCtr 8;
    let cfg : Word := (S 12).m.reg (a + 8);
    let o : ℕ := (S 12).m.ownerOf 8;
    let pre : ℕ := bf cfg 54 6;
    (S 12).m.test.scan = false ∧ Tab.get dNone (S 12).m.tele.wraps 8 = some 0x500000028000400#512 ∧ bt cfg 62 = true ∧
    ((S 12).m.eng o).state ≠ EngSt.off ∧ ((S 12).m.eng o).evq.length < 32 ∧ (pre = 0 ∨ (S 12).m.fld a 0 48 < 2 ^ pre) ∧ pre < 48 ∧
    bt ((S 12).m.reg (a + 16)) 63 = true) ∧
    (let a : ℕ := aCtr 8;
    let cfg : Word := (S 11).m.reg (a + 8);
    let o : ℕ := (S 11).m.ownerOf 8;
    let pre : ℕ := bf cfg 54 6;
    (S 11).m.test.scan = false ∧ Tab.get dNone (S 11).m.tele.wraps 8 = some 0x500000028000400#512 ∧ bt cfg 62 = true ∧
    ((S 11).m.eng o).state ≠ EngSt.off ∧ ((S 11).m.eng o).evq.length < 32 ∧ (pre = 0 ∨ (S 11).m.fld a 0 48 < 2 ^ pre) ∧ pre < 48 ∧
    bt ((S 11).m.reg (a + 16)) 63 = false ∧ packetEvent (ctrKind 8) (bf cfg 0 8) = true) ∧
    (let a : ℕ := aCtr 5184;
    let cfg : Word := (S 22).m.reg (a + 8);
    let o : ℕ := (S 22).m.ownerOf 5184;
    let pre : ℕ := bf cfg 54 6;
    (S 22).m.test.scan = false ∧ Tab.get dNone (S 22).m.tele.wraps 5184 = some 0#512 ∧ bt cfg 62 = true ∧ ((S 22).m.eng o).state ≠
    EngSt.off ∧ ((S 22).m.eng o).evq.length < 32 ∧ (pre = 0 ∨ (S 22).m.fld a 0 48 < 2 ^ pre) ∧ pre < 48 ∧ bt ((S 22).m.reg (a +
    16)) 63 = false ∧ insnEvent (ctrKind 5184) (bf cfg 0 8) = true ∧ Tab.get dNil (S 22).m.tele.wrapPc 5184 ≠ []) ∧
    (let a : ℕ := aCtr 8;
    let cfg : Word := (S 13).m.reg (a + 8);
    let o : ℕ := (S 13).m.ownerOf 8;
    let pre : ℕ := bf cfg 54 6;
    (S 13).m.test.scan = false ∧ Tab.get dNone (S 13).m.tele.wraps 8 = some 0x500000028000400#512 ∧ bt cfg 62 = true ∧
    ((S 13).m.eng o).state ≠ EngSt.off ∧ ((S 13).m.eng o).evq.length < 32 ∧ (pre = 0 ∨ (S 13).m.fld a 0 48 < 2 ^ pre) ∧ pre < 48 ∧
    bt ((S 13).m.reg (a + 16)) 63 = false ∧ packetEvent (ctrKind 8) (bf cfg 0 8) = false ∧ insnEvent (ctrKind 8) (bf cfg 0 8) = false) ∧
    (let a : ℕ := aCtr 8;
    let cfg : Word := (S 11).m.reg (a + 8);
    let o : ℕ := (S 11).m.ownerOf 8;
    let pre : ℕ := bf cfg 54 6;
    (S 11).m.test.scan = false ∧ Tab.get dNone (S 11).m.tele.wraps 8 = some 0x500000028000400#512 ∧ bt cfg 62 = true ∧
    ((S 11).m.eng o).state ≠ EngSt.off ∧ ((S 11).m.eng o).evq.length < 32 ∧ (pre = 0 ∨ (S 11).m.fld a 0 48 < 2 ^ pre) ∧ pre < 48 ∧
    1 ≠ o) ∧
    (Issues (S 15) 0 (0xC200000041000000#64) 194 ∧ wSadr 0xC200000041000000#64 % 8 ≠ 0) ∧
    (let w0 : Word := (S 18).m.descWord 0 (0xC200000040000000#64) 0;
    let w1 : Word := (S 18).m.descWord 0 (0xC200000040000000#64) 1;
    let j : ℕ := bf w0 48 10;
    Issues (S 18) 0 (0xC200000040000000#64) 194 ∧ wSadr 0xC200000040000000#64 % 8 = 0 ∧ (512 ≤ j → j < 544 → (S 18).m.hasSpine =
    true) ∧ (j < 544 → inScope 0 (domQuad (smpDom j)) = true) ∧ smpRange w0 w1 = true) ∧
    (let w0 : Word := (S 19).m.descWord 0 (0xC200000040000000#64) 0;
    let w1 : Word := (S 19).m.descWord 0 (0xC200000040000000#64) 1;
    let j : ℕ := bf w0 48 10;
    Issues (S 19) 0 (0xC200000040000000#64) 194 ∧ wSadr 0xC200000040000000#64 % 8 = 0 ∧ (512 ≤ j → j < 544 → (S 19).m.hasSpine =
    true) ∧ (j < 544 → inScope 0 (domQuad (smpDom j)) = true) ∧ smpRange w0 w1 = false ∧ (S 19).m.domLive (smpDom j) = false) ∧
    (let w0 : Word := (S 16).m.descWord 0 (0xC200000040000000#64) 0;
    let w1 : Word := (S 16).m.descWord 0 (0xC200000040000000#64) 1;
    let j : ℕ := bf w0 48 10;
    Issues (S 16) 0 (0xC200000040000000#64) 194 ∧ wSadr 0xC200000040000000#64 % 8 = 0 ∧ (512 ≤ j → j < 544 → (S 16).m.hasSpine =
    true) ∧ (j < 544 → inScope 0 (domQuad (smpDom j)) = true) ∧ smpRange w0 w1 = false ∧ (S 16).m.domLive (smpDom j) = true) ∧
    (let x : Eng := (S 9).m.eng 0;
    let j : ℕ := bf (0x8005000000000064#64) 48 10;
    wOpc x.insn = 194 ∧ (S 9).m.domLive (smpDom (bf (0x8005000000000064#64) 48 10)) = true ∧ (0 < aSmp j ∨ aSmp j + 160 ≤ 0)) ∧
    (let x : Eng := (S 9).m.eng 0;
    let j : ℕ := bf (0x8005000000000064#64) 48 10;
    wOpc x.insn = 194 ∧ (S 9).m.domLive (smpDom (bf (0x8005000000000064#64) 48 10)) = true ∧ bt (0x8005000000000064#64) 62 = false ∧
    0 ≠ aSmp j + 16 ∧ 0 ≠ aSmp j + 24) ∧
    (let x : Eng := (S 9).m.eng 0;
    wOpc x.insn = 194 ∧ (S 9).m.domLive (smpDom (bf (0xC005000000000064#64) 48 10)) = true ∧ bt (0xC005000000000064#64) 62 = true
    ∧ 0 < 16) ∧
    (let a : ℕ := aSmp 0;
    let c0 : Word := (S 0).m.reg (a + 16);
    let per : ℕ := bf c0 0 32;
    (S 0).m.test.scan = false ∧ ((S 0).m.sampling 0 = false ∨ (S 0).m.keep.st = KSt.frozen ∨ (S 0).m.atMultiple per = false ∨
    Tab.get dZero (S 0).m.tele.smpAt 0 = (S 0).m.ftNs / per * per)) ∧
    (let a : ℕ := aSmp 0;
    let c0 : Word := (S 20).m.reg (a + 16);
    let c1 : Word := (S 20).m.reg (a + 24);
    let per : ℕ := bf c0 0 32;
    let d : ℕ := ((S 20).m.queueOf 0 (bf c0 44 2) (bf c0 32 8)).1;
    let g : ℕ := (S 20).m.cycNs ((S 20).m.queueOf 0 (bf c0 44 2) (bf c0 32 8)).2;
    let db : ℕ := min 15 (d / 2 ^ bf c1 8 6);
    let gb : ℕ := min 15 (g / 2 ^ bf c1 0 6);
    let o : ℕ := (S 20).m.ownerOf (8192 + 0);
    (S 20).m.test.scan = false ∧ (S 20).m.sampling 0 = true ∧ (S 20).m.keep.st ≠ KSt.frozen ∧ (S 20).m.atMultiple per = true ∧
    Tab.get dZero (S 20).m.tele.smpAt 0 ≠ (S 20).m.ftNs / per * per ∧ ((S 20).m.eng o).state ≠ EngSt.off ∧ ((S 20).m.eng
    o).evq.length < 32 ∧ 0 ≠ a ∧ 0 ≠ a + 8 ∧ 0 ≠ a + 32 + 8 * (db / 2) ∧ 0 ≠ a + 96 + 8 * (gb / 2)) ∧
    (let a : ℕ := aSmp 0;
    let c0 : Word := (S 20).m.reg (a + 16);
    let per : ℕ := bf c0 0 32;
    let o : ℕ := (S 20).m.ownerOf (8192 + 0);
    (S 20).m.test.scan = false ∧ (S 20).m.sampling 0 = true ∧ (S 20).m.keep.st ≠ KSt.frozen ∧ (S 20).m.atMultiple per = true ∧
    Tab.get dZero (S 20).m.tele.smpAt 0 ≠ (S 20).m.ftNs / per * per ∧ ((S 20).m.eng o).state ≠ EngSt.off ∧ ((S 20).m.eng
    o).evq.length < 32 ∧ 0 ≠ o) :=
  by and_intros <;> decide +kernel

end Counters

namespace MirrorRing

def dd : List Word := [0x9400000000000000, 511] ++ List.replicate 48 0
def states : List Machine.State :=
  [mk (ins 0xC3 0 0 0 (64 * 2^24)) [] 64 dd up |> (fun s => st (s.m.modEng 0 (fun x =>
     { x with insn := ins 0xC3 0 0 0 (64 * 2^24) }))),
   mk (ins 0xC3 0 0 0 (64 * 2^24)) [] 64 dd up,
   run (ins 0xC3 0 0 0 (65 * 2^24)) [] up,
   run (ins 0xC3 0 0 0 (64 * 2^24)) [] { up with straps := ⟨2, false⟩ },
   st (eng 1 (ins 0xC3 0 0 0 (64 * 2^24)) id up),
   mk (ins 0xC3 0 0 0 (64 * 2^24)) [] 64 [0xFFFFFFFFFFFFFFFF, 0xFFFFFFFFFFFFFFFF] up,
   st ((((up.setReg 0x480000 (6 <<< 57)).setReg 0x480008 70).setReg 0x480010 6).setReg 0x480018 6),
   st ((((up.setReg 0x480000 (6 <<< 57)).setReg 0x480008 70).setReg 0x480010 60).setReg 0x480018 7),
   st
     { ((up.setReg 0x480000 (6 <<< 57)).setReg 0x480008 10) with tele := { up.tele with mq := [(0, List.replicate 64 (5, ⟨0,[],false⟩))] } }]
def S (i : Nat) : Machine.State := states.getD i (st up)

/-- The hypotheses of `Obligations.MirrorRing` met, clause by clause. -/
theorem wit_MirrorRing :
    (Issues (S 2) 0 (0xC300000041000000#64) 195 ∧ wSadr 0xC300000041000000#64 % 8 ≠ 0 ∧ (S 2).m.hasMirror = true ∧ 0 = 0) ∧
    (Issues (S 3) 0 (0xC300000040000000#64) 195 ∧ (S 3).m.hasMirror = false) ∧
    (Issues (S 4) 1 (0xC300000040000000#64) 195 ∧ (S 4).m.hasMirror = true ∧ 1 ≠ 0) ∧
    (let d : ℕ → Word := fun i => (S 5).m.descWord 0 (0xC300000040000000#64) i;
    Issues (S 5) 0 (0xC300000040000000#64) 195 ∧ wSadr 0xC300000040000000#64 % 8 = 0 ∧ (S 5).m.hasMirror = true ∧ 0 = 0 ∧
    mirRange d = true) ∧
    (let d : ℕ → Word := fun i => (S 0).m.descWord 0 (0xC300000040000000#64) i;
    Issues (S 0) 0 (0xC300000040000000#64) 195 ∧ wSadr 0xC300000040000000#64 % 8 = 0 ∧ (S 0).m.hasMirror = true ∧ 0 = 0 ∧
    mirRange d = false) ∧
    (wOpc ((S 0).m.eng 0).insn = 195 ∧ 0 < 48) ∧
    (wOpc ((S 0).m.eng 0).insn = 195 ∧ 0 ≠ 4718592 ∧ 0 ≠ 4718600 ∧ 0 ≠ 4718608 ∧ 0 ≠ 4718616) ∧
    (let done : ℕ := (S 6).m.fld 4718608 0 21;
    let cons : ℕ := (S 6).m.fld 4718616 0 21;
    Takes (S 6) 4718616 ∧ (S 6).m.hasMirror = true ∧ (bf (6#64) 0 21 + 2 ^ 21 - cons) % 2 ^ 21 ≤ (done + 2 ^ 21 - cons) % 2 ^ 21) ∧
    (let done : ℕ := (S 0).m.fld 4718608 0 21;
    let cons : ℕ := (S 0).m.fld 4718616 0 21;
    Takes (S 0) 4718616 ∧ (S 0).m.hasMirror = true ∧ (done + 2 ^ 21 - cons) % 2 ^ 21 < (bf (7#64) 0 21 + 2 ^ 21 - cons) % 2 ^ 21) ∧
    (Takes (S 3) 4718616 ∧ (S 3).m.hasMirror = false) ∧
    (let cons : ℕ := (S 6).m.fld 4718616 0 21;
    let prod : ℕ := (S 6).m.fld 4718600 0 21;
    let size : ℕ := bf ((S 6).m.reg 4718592) 57 5;
    ¬(bt ((S 6).m.reg 4718592) 62 = true ∨ (prod + 2 ^ 21 - cons) % 2 ^ 21 < 2 ^ size)) ∧
    (let cons : ℕ := (S 8).m.fld 4718616 0 21;
    let prod : ℕ := (S 8).m.fld 4718600 0 21;
    let size : ℕ := bf ((S 8).m.reg 4718592) 57 5;
    (bt ((S 8).m.reg 4718592) 62 = true ∨ (prod + 2 ^ 21 - cons) % 2 ^ 21 < 2 ^ size) ∧ 64 ≤ (Tab.get dNil (S 8).m.tele.mq (quadOf
    3)).length) ∧
    (let cons : ℕ := (S 0).m.fld 4718616 0 21;
    let prod : ℕ := (S 0).m.fld 4718600 0 21;
    let size : ℕ := bf ((S 0).m.reg 4718592) 57 5;
    (bt ((S 0).m.reg 4718592) 62 = true ∨ (prod + 2 ^ 21 - cons) % 2 ^ 21 < 2 ^ size) ∧ (Tab.get dNil (S 0).m.tele.mq (quadOf
    3)).length < 64) :=
  by and_intros <;> decide +kernel

end MirrorRing

namespace FaultRecords

def oc : Occ := ⟨1, 3, 7, 9, 2⟩
def rc (c : Nat) (o : Occ := oc) : FRec := ⟨c, o, 5⟩
def rcs (l : Tab (Option FRec)) (m : Mach := up) : Mach := m.modFlt (fun f => { f with recs := l })
def ch (m : Mach) : Mach := m.modFlt (fun f => { f with chans := [(3, ⟨[oc], [], false, false⟩)] })
def cf (v : Nat) (m : Mach) : Mach := m.setReg 0xD0008 (BitVec.ofNat 64 v)
def states : List Machine.State :=
  [st (eng 1 (ins 0xE0 0 1 0 0) id up),
   st (eng 1 (ins 0xE0 0 0 0 (2^42)) id up),
   run (ins 0xE0 0 1 0 0) [(1, 63)] { up with clk := { up.clk with astop := true } },
   run (ins 0xE0 0 1 0 0) [(1, 64)] up,
   run (ins 0xE0 0 1 0 0) [(1, 63)] (rcs [(63, some (rc 3))]),
   run (ins 0xE0 0 1 0 0) [(1, 63)] (rcs [(63, some (rc 14 ⟨0, 7, 0, 0, 1⟩))] { up with clk := { up.clk with fstop := false } }),
   run (ins 0xE0 0 0 0 (2^42)) [] (rcs [(2, some (rc 3)), (63, some (rc 3))]),
   run (ins 0xE0 0 0 0 (2^42)) [] (rcs [(2, some (rc 3)), (63, some (rc 12 ⟨0,5,4,0,1⟩))] (up.modDom 4 (fun d =>
     { d with flt := true, latched := true, st := .off }))),
   run (ins 0xE0 0 1 0 0) [(1, 63)] (rcs [(63, some (rc 12 ⟨0,5,4,0,1⟩))] (up.modDom 4 (fun d =>
     { d with flt := true, latched := true, st := .off }))),
   st (ch (rcs [(5, some (rc 3))])),
   st (ch (rcs [(0, some (rc 4))])),
   st (ch (rcs ((List.range 64).map (fun i => (i, some (rc 4)))))),
   st up,
   st { up with pwr := { up.pwr with aonUp := false } },
   st { up with flt := { up.flt with safeA := true, safeB := true } },
   st (cf (2^35) (rcs [(5, some (rc 3))])),
   st (cf 0 (rcs [(5, some (rc 3))])),
   st (cf 1 (up.modFlt (fun f => { f with pulse := true }))),
   st (cf 1 up),
   st ((ch up).modFlt (fun f => { f with safeA := true, safeB := true, causeA := 1, causeB := 1 }))]
def all_o : List Occ := [oc]
def of_r (s : Machine.State) : List FRec := (s.m.flt.recs.filterMap Prod.snd).take 3 ++ [rc 3]
def S (i : Nat) : Machine.State := states.getD i (st up)
def r_s_8_0 : FRec := (of_r (S 8))[0]'(by decide +kernel)
def r_s_4_0 : FRec := (of_r (S 4))[0]'(by decide +kernel)
def r_s_7_1 : FRec := (of_r (S 7))[1]'(by decide +kernel)
def o_0 : Occ := all_o[0]'(by decide +kernel)
def r_s_9_0 : FRec := (of_r (S 9))[0]'(by decide +kernel)

/-- The hypotheses of `Obligations.FaultRecords` met, clause by clause. -/
theorem wit_FaultRecords :
    (let ch : Chan Occ := Tab.get dChan (S 9).m.flt.chans 3;
    (∀ (j : ℕ) (q : FRec), j < 5 → (S 9).m.frec j = some q → q.same 3 o_0 = false) ∧ ((S 9).m.test.scan = false ∧
    (S 9).m.clk.fstop = false ∧ (S 9).m.clk.astop = false ∧ (S 9).m.pwr.aonUp = true ∧ ch.fly = [o_0] ∧ ch.flyOvf = false) ∧ 5
    < 64 ∧ (S 9).m.frec 5 = some r_s_9_0 ∧ r_s_9_0.same 3 o_0 = true) ∧
    (let ch : Chan Occ := Tab.get dChan (S 10).m.flt.chans 3;
    (∀ (j : ℕ) (q : FRec), j < 64 → (S 10).m.frec j = some q → q.same 3 o_0 = false) ∧ ((S 10).m.test.scan = false ∧
    (S 10).m.clk.fstop = false ∧ (S 10).m.clk.astop = false ∧ (S 10).m.pwr.aonUp = true ∧ ch.fly = [o_0] ∧ ch.flyOvf = false)
    ∧ 1 < 64 ∧ (S 10).m.frec 1 = none ∧ (∀ j < 1, (S 10).m.frec j ≠ none) ∧ (S 10).m.pulseMode = false ∧ (3 = 0 ∨ bt
    ((S 10).m.reg 851976) (48 + 3) = false) ∧ ((S 10).m.safe = false ∨ (S 10).m.flt.cause ≠ 1) ∧ ((S 10).m.eng 0).state ≠
    EngSt.off ∧ ((S 10).m.eng 0).evq.length < 32) ∧
    (let ch : Chan Occ := Tab.get dChan (S 19).m.flt.chans 3;
    (∀ (j : ℕ) (q : FRec), j < 64 → (S 19).m.frec j = some q → q.same 3 o_0 = false) ∧ ((S 19).m.test.scan = false ∧
    (S 19).m.clk.fstop = false ∧ (S 19).m.clk.astop = false ∧ (S 19).m.pwr.aonUp = true ∧ ch.fly = [o_0] ∧ ch.flyOvf = false)
    ∧ 0 < 64 ∧ (S 19).m.frec 0 = none ∧ (S 19).m.safe = true ∧ (S 19).m.flt.cause = 1) ∧
    (Issues (S 0) 1 (0xE001000000000000#64) 224 ∧ 1 ≠ 0 ∧ bt (0xE001000000000000#64) 42 = false) ∧
    (Issues (S 1) 1 (0xE000040000000000#64) 224 ∧ 1 ≠ 0 ∧ bt (0xE000040000000000#64) 42 = true) ∧
    (Issues (S 2) 0 (0xE001000000000000#64) 224 ∧ 0 = 0 ∧ bt (0xE001000000000000#64) 42 = false ∧ (S 2).m.clk.astop = true) ∧
    (let x : Eng := (S 3).m.eng 0;
    let k : ℕ := BitVec.toNat (x.reg (wA 0xE001000000000000#64));
    Issues (S 3) 0 (0xE001000000000000#64) 224 ∧ 0 = 0 ∧ bt (0xE001000000000000#64) 42 = false ∧ (S 3).m.clk.astop = false ∧ (64
    ≤ k ∨ ((S 3).m.readPc 0).frec k = none)) ∧
    (let x : Eng := (S 8).m.eng 0;
    let k : ℕ := BitVec.toNat (x.reg (wA 0xE001000000000000#64));
    Issues (S 8) 0 (0xE001000000000000#64) 224 ∧ 0 = 0 ∧ bt (0xE001000000000000#64) 42 = false ∧ (S 8).m.clk.astop = false ∧ k <
    64 ∧ ((S 8).m.readPc 0).frec k = some r_s_8_0 ∧ ((S 8).m.readPc 0).persists r_s_8_0 = true) ∧
    (let x : Eng := (S 4).m.eng 0;
    let k : ℕ := BitVec.toNat (x.reg (wA 0xE001000000000000#64));
    Issues (S 4) 0 (0xE001000000000000#64) 224 ∧ 0 = 0 ∧ bt (0xE001000000000000#64) 42 = false ∧ (S 4).m.clk.astop = false ∧ k <
    64 ∧ ((S 4).m.readPc 0).frec k = some r_s_4_0 ∧ ((S 4).m.readPc 0).persists r_s_4_0 = false) ∧
    (Issues (S 6) 0 (0xE000040000000000#64) 224 ∧ 0 = 0 ∧ bt (0xE000040000000000#64) 42 = true ∧ (S 6).m.clk.astop = false ∧ (∀ p
    ∈ ((S 6).m.readPc 0).flt.recs, ∀ (r : FRec), p.2 = some r → ((S 6).m.readPc 0).persists r = false)) ∧
    (Issues (S 7) 0 (0xE000040000000000#64) 224 ∧ 0 = 0 ∧ bt (0xE000040000000000#64) 42 = true ∧ (S 7).m.clk.astop = false ∧
    Tab.wf dNone ((S 7).m.readPc 0).flt.recs = true ∧ 63 < 64 ∧ ((S 7).m.readPc 0).frec 63 = some r_s_7_1 ∧ ((S 7).m.readPc
    0).persists r_s_7_1 = true) ∧
    (let ch : Chan Occ := Tab.get dChan (S 11).m.flt.chans 3;
    ((S 11).m.test.scan = false ∧ (S 11).m.clk.fstop = false ∧ (S 11).m.clk.astop = false ∧ (S 11).m.pwr.aonUp = true ∧ ch.fly =
    [o_0] ∧ ch.flyOvf = false) ∧ (∀ j < 64, ∃ (q : FRec), (S 11).m.frec j = some q ∧ q.same 3 o_0 = false)) ∧
    (let ch : Chan Occ := Tab.get dChan (S 0).m.flt.chans 3;
    (S 0).m.test.scan = false ∧ (ch.fly = [] ∨ (S 0).m.clk.fstop = true ∨ (S 0).m.clk.astop = true ∨ (S 0).m.pwr.aonUp = false)) ∧
    (let m : Mach := (S 13).m;
    m.pwr.aonUp = false) ∧
    (let m : Mach := (S 14).m;
    m.safe = true) ∧
    (let m : Mach := (S 4).m;
    m.pwr.aonUp = true ∧ m.safe = false ∧ bt (m.reg 851976) 0 = false ∧ m.frec 63 = some r_s_4_0 ∧ bt (m.reg 851976) (32 +
    r_s_4_0.cls) = true) ∧
    (let m : Mach := (S 0).m;
    m.pwr.aonUp = true ∧ m.safe = false ∧ bt (m.reg 851976) 0 = false ∧ (∀ p ∈ m.flt.recs, ∀ (q : FRec), p.2 = some q → bt (m.reg
    851976) (32 + q.cls) = false)) ∧
    (let m : Mach := (S 17).m;
    m.pwr.aonUp = true ∧ m.safe = false ∧ bt (m.reg 851976) 0 = true ∧ m.flt.pulse = true) ∧
    (let m : Mach := (S 18).m;
    m.pwr.aonUp = true ∧ m.safe = false ∧ bt (m.reg 851976) 0 = true ∧ m.flt.pulse = false) ∧
    (let m : Mach := (S 0).m;
    m.test.scan = false) :=
  ⟨by
    intro ch
    exact ⟨fun j q hj h => (by decide +kernel : ∀ j < 5, ∀ q ∈ (S 9).m.frec j, q.same 3 o_0 = false) j hj q h, by decide +kernel⟩,
   by
    intro ch
    exact ⟨fun j q hj h => (by decide +kernel : ∀ j < 64, ∀ q ∈ (S 10).m.frec j, q.same 3 o_0 = false) j hj q h, by decide +kernel⟩,
   by
    intro ch
    exact ⟨fun j q hj h => (by decide +kernel : ∀ j < 64, ∀ q ∈ (S 19).m.frec j, q.same 3 o_0 = false) j hj q h, by decide +kernel⟩,
   by and_intros <;> decide +kernel⟩

end FaultRecords

namespace SafeState

def safe (m : Mach := up) (c t : Nat) : Mach := m.modFlt (fun f =>
  { f with safeA := true, safeB := true, safeC := true, causeA := c, causeB := c, causeC := c, twin := t })
def states : List Machine.State :=
  [st up,
   st { up with pwr := { up.pwr with aonUp := false } },
   st (safe up 3 0),
   st (safe (up.modNiu 5 (fun y => {y with safe := true })) 4 5),
   st (safe up 1 0),
   run (ins 0 0 0 0 0) [] (safe up 3 0),
   st (safe (up.modDom 1 (fun d => { d with live := false })) 3 3),
   st (safe ((up.setReg 0x80010 0x300000003).modSpine (fun x => { x with pend := true })) 3 0)]
def S (i : Nat) : Machine.State := states.getD i (st up)

/-- The hypotheses of `Obligations.SafeState` met, clause by clause. -/
theorem wit_SafeState :
    (let m : Mach := (S 2).m;
    (m.niu 5).Calm ∧ m.test.scan = false ∧ m.safe = true ∧ m.domLive (epTile 5) = true ∧ m.pinWaits 5 = []) ∧
    (let m : Mach := (S 0).m;
    Takes (S 0) 851992 ∧ bt (0x4000000000000000#64) 62 = true ∧ bt (0x4000000000000000#64) 60 = false ∧ m.safe = false) ∧
    (let m : Mach := (S 2).m;
    Takes (S 2) 851992 ∧ bt (0x4000000000000000#64) 62 = true ∧ bt (0x4000000000000000#64) 60 = false ∧ m.safe = true) ∧
    (let m : Mach := (S 0).m;
    m.test.scan = false ∧ m.pwr.aonUp = true ∧ m.safe = false) ∧
    (let m : Mach := (S 2).m;
    m.test.scan = false ∧ m.pwr.aonUp = true ∧ m.safe = true) ∧
    (let m : Mach := (S 1).m;
    m.test.scan = false ∧ m.pwr.aonUp = false) ∧
    (let m : Mach := (S 2).m;
    Takes (S 2) 851992 ∧ bt (0x2000000000000000#64) 62 = false ∧ bt (0x2000000000000000#64) 61 = true ∧ m.safe = true ∧ (m.flt.cause
    = 3 ∨ m.flt.cause = 4) ∧ (m.flt.twin = 0 ∨ m.flt.twin = 1 ∨ m.flt.twin = 5) ∧ bt (0x2000000000000000#64) 60 = false) ∧
    (let m : Mach := (S 0).m;
    Takes (S 0) 851992 ∧ bt (0x2000000000000000#64) 62 = false ∧ bt (0x2000000000000000#64) 61 = true ∧ (m.safe = false ∨
    m.flt.cause ≠ 3 ∧ m.flt.cause ≠ 4 ∨ m.flt.twin ≠ 0 ∧ m.flt.twin ≠ 1 ∧ m.flt.twin ≠ 5)) ∧
    (let m : Mach := (S 6).m;
    m.test.scan = false ∧ m.safe = true ∧ m.domLive (epTile 5) = false) ∧
    (let m : Mach := (S 5).m;
    m.test.scan = false ∧ m.safe = true ∧ m.fetch 0 = Fetch.word 0#64) ∧
    (let m : Mach := (S 2).m;
    m.test.scan = false ∧ m.safe = true ∧ m.hasSpine = true) :=
  ⟨by
    intro m
    exact ⟨calm (by decide +kernel), by decide +kernel⟩,
   by and_intros <;> decide +kernel⟩

end SafeState

namespace PortRequests

def hb (opc size : Nat) : BeatBits := mkf 256 58 6 opc ||| mkf 256 22 15 size ||| mkf 256 64 16 9
def pt (f : Niu → Niu) (m : Mach := up) : Machine.State := st (m.modNiu 511 f)
def tr (uid : Nat) : Trk := ⟨uid, hb 1 64, 9, 0, [], 0, false, false, 0, .endpoint, false, none, false, false, none, 0, [], false⟩
def pw (uid : Nat) : Pwb := ⟨uid, 0, false, 9, 0, 0, false, false, 0, .endpoint, none, 0, []⟩
def un (left after : Nat) (msg : Bool := false) : Machine.PUnit := ⟨7, 0, 0, left, after, msg⟩
def states : List Machine.State :=
  [st up,
   pt (fun x => { x with abort := true }),
   pt (fun x => { x with trk := (List.range 256).map (fun k => (k, some (tr 9))) }),
   pt (fun x => { x with pwb := (List.range 16).map (fun k => (k, some (pw 9))) }),
   pt (fun x =>
     { x with unit := some (un 2 0), trk := [(0, some (tr 7))], uidNext := 8, ingress := [⟨.header, hb 3 64, false, 0, 7⟩] }),
   pt (fun x => { x with unit := some (un 1 8 true), trk := [(0, some (tr 7))], uidNext := 8 }),
   pt (fun x => { x with unit := some (un 1 0), trk := [(0, some (tr 7))], uidNext := 8 }),
   pt (fun x => { x with opens := [un 0 8 true], trk := [(0, some (tr 7))], uidNext := 8 }),
   pt (fun x => { x with abort := true, unit := some (un 2 0) }),
   pt (fun x =>
     { x with unit := some (un 2 0), uidNext := 8, ingress := [⟨.header, hb 3 64, false, 0, 6⟩, ⟨.header, hb 3 64, false, 0, 7⟩] }),
   pt (fun x => { x with spEn := true, gnt := 8, trk := [(0, some (tr 3))], pwb := [(0, some (pw 2))], uidNext := 8 })]
def of_u (s : Machine.State) : List Machine.PUnit := (s.m.niu 511).unit.toList ++ (s.m.niu 511).opens ++ [un 0 0]
def S (i : Nat) : Machine.State := states.getD i (st up)
def u_s_4_0 : Machine.PUnit := (of_u (S 4))[0]'(by decide +kernel)
def u_s_5_0 : Machine.PUnit := (of_u (S 5))[0]'(by decide +kernel)
def u_s_6_0 : Machine.PUnit := (of_u (S 6))[0]'(by decide +kernel)
def u_s_7_0 : Machine.PUnit := (of_u (S 7))[0]'(by decide +kernel)
def u_s_9_0 : Machine.PUnit := (of_u (S 9))[0]'(by decide +kernel)
def u_s_8_0 : Machine.PUnit := (of_u (S 8))[0]'(by decide +kernel)

/-- The hypotheses of `Obligations.PortRequests` met, clause by clause. -/
theorem wit_PortRequests :
    (let n : ℕ := 511;
    let x : Niu := (S 0).m.niu n;
    let left : ℕ := unitBeats (0x90400000010000000#256) 0;
    let uid : ℕ := x.uidNext;
    ((∀ (j : ℕ) (t : Trk), Tab.get dNone x.trk j = some t → t.uid ≠ uid) ∧ ∀ (j : ℕ) (w : Pwb), Tab.get dNone x.pwb j = some w → w.uid ≠
    uid) ∧ (S 0).m.test.scan = false ∧ ((x.owner = some 0 ∧ (x.spEn = true → 0 = 0)) ∧ x.unit = none ∧ ∀ v ∈ x.opens, v.sub ≠ 0) ∧
    (x.rstN = true ∧ x.abort = false ∧ (S 0).m.epStop n = false ∧ x.ingress.length < 18) ∧ qPosted 0x90400000010000000#256 = false ∧
    (0 < 256 ∧ Tab.get dNone x.trk 0 = none ∧ ∀ j < 0, Tab.get dNone x.trk j ≠ none) ∧ left = 0 ∧ true = true ∧ 1 ≠ 0) ∧
    (let n : ℕ := 511;
    let x : Niu := (S 0).m.niu n;
    let left : ℕ := unitBeats (0x90400000010000000#256) 0;
    let uid : ℕ := x.uidNext;
    ((∀ (j : ℕ) (t : Trk), Tab.get dNone x.trk j = some t → t.uid ≠ uid) ∧ ∀ (j : ℕ) (w : Pwb), Tab.get dNone x.pwb j = some w → w.uid ≠
    uid) ∧ (S 0).m.test.scan = false ∧ ((x.owner = some 0 ∧ (x.spEn = true → 0 = 0)) ∧ x.unit = none ∧ ∀ v ∈ x.opens, v.sub ≠ 0) ∧
    (x.rstN = true ∧ x.abort = false ∧ (S 0).m.epStop n = false ∧ x.ingress.length < 18) ∧ qPosted 0x90400000010000000#256 = false ∧
    (0 < 256 ∧ Tab.get dNone x.trk 0 = none ∧ ∀ j < 0, Tab.get dNone x.trk j ≠ none) ∧ left = 0 ∧ true = true ∧ 0 ≠ n) ∧
    (let n : ℕ := 511;
    let x : Niu := (S 0).m.niu n;
    let left : ℕ := unitBeats (0x90800000002000000#256) 0;
    let uid : ℕ := x.uidNext;
    ((∀ (j : ℕ) (t : Trk), Tab.get dNone x.trk j = some t → t.uid ≠ uid) ∧ ∀ (j : ℕ) (w : Pwb), Tab.get dNone x.pwb j = some w → w.uid ≠
    uid) ∧ (S 0).m.test.scan = false ∧ ((x.owner = some 0 ∧ (x.spEn = true → 0 = 0)) ∧ x.unit = none ∧ ∀ v ∈ x.opens, v.sub ≠ 0) ∧
    (x.rstN = true ∧ x.abort = false ∧ (S 0).m.epStop n = false ∧ x.ingress.length < 18) ∧ qPosted 0x90800000002000000#256 = true ∧
    (x.devDrain = false ∧ 0 < 16 ∧ Tab.get dNone x.pwb 0 = none ∧ ∀ j < 0, Tab.get dNone x.pwb j ≠ none) ∧ left = 0 ∧ true = true ∧ 1 ≠
    0) ∧
    (let n : ℕ := 511;
    let x : Niu := (S 0).m.niu n;
    let left : ℕ := unitBeats (0x90800000002000000#256) 0;
    let uid : ℕ := x.uidNext;
    ((∀ (j : ℕ) (t : Trk), Tab.get dNone x.trk j = some t → t.uid ≠ uid) ∧ ∀ (j : ℕ) (w : Pwb), Tab.get dNone x.pwb j = some w → w.uid ≠
    uid) ∧ (S 0).m.test.scan = false ∧ ((x.owner = some 0 ∧ (x.spEn = true → 0 = 0)) ∧ x.unit = none ∧ ∀ v ∈ x.opens, v.sub ≠ 0) ∧
    (x.rstN = true ∧ x.abort = false ∧ (S 0).m.epStop n = false ∧ x.ingress.length < 18) ∧ qPosted 0x90800000002000000#256 = true ∧
    (x.devDrain = false ∧ 0 < 16 ∧ Tab.get dNone x.pwb 0 = none ∧ ∀ j < 0, Tab.get dNone x.pwb j ≠ none) ∧ left = 0 ∧ true = true ∧ 0 ≠
    n) ∧
    (let n : ℕ := 511;
    let x : Niu := (S 6).m.niu n;
    (∀ (j : ℕ) (t : Trk), Tab.get dNone x.trk j = some t → t.uid = u_s_6_0.uid → t.hold = none) ∧ (∀ (j : ℕ) (w : Pwb), Tab.get
    dNone x.pwb j = some w → w.uid = u_s_6_0.uid → w.fail = false) ∧ (S 6).m.test.scan = false ∧ (x.owner = some 0 ∧ (x.spEn =
    true → 0 = 0)) ∧ (x.rstN = true ∧ x.abort = false ∧ (S 6).m.epStop n = false ∧ x.ingress.length < 18) ∧ x.unit = some u_s_6_0
    ∧ u_s_6_0.left = 1 ∧ u_s_6_0.after = 0 ∧ true = true ∧ 0 ≠ n) ∧
    (let n : ℕ := 511;
    let x : Niu := (S 0).m.niu n;
    let left : ℕ := unitBeats (0x90C00000010000000#256) 0;
    (S 0).m.test.scan = false ∧ ((x.owner = some 0 ∧ (x.spEn = true → 0 = 0)) ∧ x.unit = none ∧ ∀ v ∈ x.opens, v.sub ≠ 0) ∧ (x.rstN =
    true ∧ x.abort = false ∧ (S 0).m.epStop n = false ∧ x.ingress.length < 18) ∧ qPosted 0x90C00000010000000#256 = false ∧ (0 < 256
    ∧ Tab.get dNone x.trk 0 = none ∧ ∀ j < 0, Tab.get dNone x.trk j ≠ none) ∧ left ≠ 0 ∧ false = false) ∧
    (let n : ℕ := 511;
    let x : Niu := (S 0).m.niu n;
    let left : ℕ := unitBeats (0x90800000010000000#256) 0;
    (S 0).m.test.scan = false ∧ ((x.owner = some 0 ∧ (x.spEn = true → 0 = 0)) ∧ x.unit = none ∧ ∀ v ∈ x.opens, v.sub ≠ 0) ∧ (x.rstN =
    true ∧ x.abort = false ∧ (S 0).m.epStop n = false ∧ x.ingress.length < 18) ∧ qPosted 0x90800000010000000#256 = true ∧
    (x.devDrain = false ∧ 0 < 16 ∧ Tab.get dNone x.pwb 0 = none ∧ ∀ j < 0, Tab.get dNone x.pwb j ≠ none) ∧ left ≠ 0 ∧ false = false) ∧
    (let n : ℕ := 511;
    let x : Niu := (S 1).m.niu n;
    (S 1).m.test.scan = false ∧ ((x.owner = some 0 ∧ (x.spEn = true → 0 = 0)) ∧ x.unit = none ∧ ∀ v ∈ x.opens, v.sub ≠ 0) ∧ (¬(x.rstN
    = true ∧ x.abort = false ∧ (S 1).m.epStop n = false ∧ x.ingress.length < 18) ∨ (qPosted 0x90400000010000000#256 = false ∧ ∀ j <
    256, Tab.get dNone x.trk j ≠ none) ∨ qPosted 0x90400000010000000#256 = true ∧ (x.devDrain = true ∨ ∀ j < 16, Tab.get dNone x.pwb j
    ≠ none))) ∧
    (let n : ℕ := 511;
    let x : Niu := (S 4).m.niu n;
    (S 4).m.test.scan = false ∧ ((∃ (p : ℕ), x.owner = some p ∧ x.spEn = true ∧ p ≠ 0) ∨ x.owner = none ∨ x.unit ≠ none)) ∧
    (let n : ℕ := 511;
    let x : Niu := (S 0).m.niu n;
    let left : ℕ := unitBeats (0x90400000010000000#256) 0;
    (S 0).m.test.scan = false ∧ ((x.owner = some 0 ∧ (x.spEn = true → 0 = 0)) ∧ x.unit = none ∧ ∀ v ∈ x.opens, v.sub ≠ 0) ∧ (x.rstN =
    true ∧ x.abort = false ∧ (S 0).m.epStop n = false ∧ x.ingress.length < 18) ∧ qPosted 0x90400000010000000#256 = false ∧ (0 < 256
    ∧ Tab.get dNone x.trk 0 = none ∧ ∀ j < 0, Tab.get dNone x.trk j ≠ none) ∧ false ≠ decide (left = 0)) ∧
    (let n : ℕ := 511;
    let x : Niu := (S 4).m.niu n;
    (S 4).m.test.scan = false ∧ (x.owner = some 0 ∧ (x.spEn = true → 0 = 0)) ∧ (x.rstN = true ∧ x.abort = false ∧ (S 4).m.epStop n =
    false ∧ x.ingress.length < 18) ∧ x.unit = some u_s_4_0 ∧ 1 < u_s_4_0.left ∧ false = false) ∧
    (let n : ℕ := 511;
    let x : Niu := (S 5).m.niu n;
    (S 5).m.test.scan = false ∧ (x.owner = some 0 ∧ (x.spEn = true → 0 = 0)) ∧ (x.rstN = true ∧ x.abort = false ∧ (S 5).m.epStop n =
    false ∧ x.ingress.length < 18) ∧ x.unit = some u_s_5_0 ∧ u_s_5_0.left = 1 ∧ u_s_5_0.after ≠ 0 ∧ true = true) ∧
    (let n : ℕ := 511;
    let x : Niu := (S 7).m.niu n;
    (S 7).m.test.scan = false ∧ (x.owner = some 0 ∧ (x.spEn = true → 0 = 0)) ∧ (x.rstN = true ∧ x.abort = false ∧ (S 7).m.epStop n =
    false ∧ x.ingress.length < 18) ∧ x.unit = none ∧ List.find? (fun (v : Machine.PUnit) => v.sub == 0) x.opens = some u_s_7_0 ∧ 1
    < min 8 u_s_7_0.after ∧ false = false) ∧
    (let n : ℕ := 511;
    let x : Niu := (S 4).m.niu n;
    (S 4).m.test.scan = false ∧ (x.owner = some 0 ∧ (x.spEn = true → 0 = 0)) ∧ (x.rstN = true ∧ x.abort = false ∧ (S 4).m.epStop n =
    false ∧ x.ingress.length < 18) ∧ x.unit = some u_s_4_0 ∧ true ≠ decide (u_s_4_0.left = 1)) ∧
    (let n : ℕ := 511;
    let x : Niu := (S 9).m.niu n;
    (S 9).m.test.scan = false ∧ (x.owner = some 0 ∧ (x.spEn = true → 0 = 0)) ∧ (x.rstN = true ∧ x.abort = false ∧ (S 9).m.epStop n =
    false ∧ x.ingress.length < 18) ∧ x.unit = some u_s_9_0 ∧ true ≠ decide (u_s_9_0.left = 1)) ∧
    (let n : ℕ := 511;
    let x : Niu := (S 8).m.niu n;
    (S 8).m.test.scan = false ∧ (x.owner = some 0 ∧ (x.spEn = true → 0 = 0)) ∧ x.unit = some u_s_8_0 ∧ (¬(x.rstN = true ∧ x.abort
    = false ∧ (S 8).m.epStop n = false ∧ x.ingress.length < 18))) ∧
    (let n : ℕ := 511;
    let x : Niu := (S 0).m.niu n;
    (S 0).m.test.scan = false ∧ (x.owner = none ∨ x.unit = none ∧ x.opens = [])) :=
  ⟨by
    intro n x left uid
    exact ⟨⟨(by intro j t h; cases h), (by intro j w h; cases h)⟩, by decide +kernel⟩,
   by
    intro n x left uid
    exact ⟨⟨(by intro j t h; cases h), (by intro j w h; cases h)⟩, by decide +kernel⟩,
   by
    intro n x left uid
    exact ⟨⟨(by intro j t h; cases h), (by intro j w h; cases h)⟩, by decide +kernel⟩,
   by
    intro n x left uid
    exact ⟨⟨(by intro j t h; cases h), (by intro j w h; cases h)⟩, by decide +kernel⟩,
   by
    intro n x
    exact ⟨Tab.get_all (d := dNone) (a := none) (t := x.trk) (P := fun (o : Option Trk) => ∀ t ∈ o,
        t.uid = u_s_6_0.uid → t.hold = none) (fun _ => rfl) (by decide) (by decide +kernel), (by intro j w h; cases h),
        by decide +kernel⟩,
   by and_intros <;> decide +kernel⟩

end PortRequests

namespace PortSideband

def pt (f : Niu → Niu) (m : Mach := up) : Machine.State := st (m.modNiu 511 f)
def hb (opc size : Nat) : BeatBits := mkf 256 58 6 opc ||| mkf 256 22 15 size ||| mkf 256 64 16 9
def tr (uid : Nat) : Trk := ⟨uid, hb 1 64, 9, 0, [], 0, false, false, 1, .endpoint, false, none, false, false, none, 0, [], false⟩
def un (left after : Nat) (msg : Bool := false) : Machine.PUnit := ⟨7, 0, 0, left, after, msg⟩
def states : List Machine.State :=
  [st up,
   st { up with clk := { up.clk with fstop := true } },
   pt (fun x => { x with bars := List.replicate 8 ⟨.ld, 0, 1⟩ }),
   pt (fun x => { x with unit := some (un 2 0) }),
   pt (fun x => { x with bars := [⟨.ld, 0, 5⟩, ⟨.st, 0, 6⟩] }),
   pt (fun x => { x with rstN := false, bars := [⟨.ld, 0, 5⟩, ⟨.st, 0, 6⟩] }),
   pt (fun x => { x with bars := [⟨.ld, 0, 5⟩], trk := [(0, some (tr 1))] }),
   pt (fun x => { x with abort := true }),
   pt (fun x => { x with rstN := false }),
   pt (fun x => { x with rstN := false, ratio := 3 }),
   st ((up.modDom 127 (fun d => { d with live := false })).modNiu 511 (fun x => { x with rstN := false })),
   pt (fun x =>
     { x with rspOut := some ⟨0,1,9,false,some 8,false,[1]⟩, trk := [(0, some (tr 1))], bars := [⟨.ld, 0, 5⟩], scores := [3,4,5,6],
              gnt := 1, opens := [un 0 8 true], treq := some (3, [1]) }),
   pt (fun x => { x with spEn := true, gnt := 4 })]
def of_b (s : Machine.State) : List Bar := (s.m.niu 511).bars.take 1 ++ [⟨.ld, 0, 1⟩]
def of_rest (s : Machine.State) : List (List Bar) := [(s.m.niu 511).bars.drop 1]
def of_u (s : Machine.State) : List Machine.PUnit := (s.m.niu 511).unit.toList ++ [un 0 0]
def S (i : Nat) : Machine.State := states.getD i (st up)
def u_s_3_0 : Machine.PUnit := (of_u (S 3))[0]'(by decide +kernel)
def b_s_2_0 : Bar := (of_b (S 2))[0]'(by decide +kernel)
def rest_s_2_0 : List Bar := (of_rest (S 2))[0]'(by decide +kernel)
def b_s_5_0 : Bar := (of_b (S 5))[0]'(by decide +kernel)
def rest_s_5_0 : List Bar := (of_rest (S 5))[0]'(by decide +kernel)
def b_s_6_0 : Bar := (of_b (S 6))[0]'(by decide +kernel)
def rest_s_6_0 : List Bar := (of_rest (S 6))[0]'(by decide +kernel)

/-- The hypotheses of `Obligations.PortSideband` met, clause by clause. -/
theorem wit_PortSideband :
    (let n : ℕ := 511;
    let x : Niu := (S 0).m.niu n;
    (S 0).m.test.scan = false ∧ (x.owner = some 0 ∧ (x.spEn = true → 0 = 0)) ∧ (x.rstN = true ∧ x.abort = false ∧ (S 0).m.epStop n =
    false ∧ x.ingress.length < 18) ∧ x.unit = none ∧ (∀ v ∈ x.opens, v.sub ≠ 0) ∧ x.bars.length < 8) ∧
    (let n : ℕ := 511;
    let x : Niu := (S 2).m.niu n;
    (S 2).m.test.scan = false ∧ (x.owner = some 0 ∧ (x.spEn = true → 0 = 0)) ∧ x.unit = none ∧ (∀ v ∈ x.opens, v.sub ≠ 0) ∧ (8 ≤
    x.bars.length ∨ ¬(x.rstN = true ∧ x.abort = false ∧ (S 2).m.epStop n = false ∧ x.ingress.length < 18))) ∧
    (let n : ℕ := 511;
    let x : Niu := (S 3).m.niu n;
    (S 3).m.test.scan = false ∧ (x.owner = some 0 ∧ (x.spEn = true → 0 = 0)) ∧ (x.rstN = true ∧ x.abort = false ∧ (S 3).m.epStop n =
    false ∧ x.ingress.length < 18) ∧ x.unit = some u_s_3_0) ∧
    (let n : ℕ := 511;
    let x : Niu := (S 2).m.niu n;
    (S 2).m.test.scan = false ∧ x.bars = b_s_2_0 :: rest_s_2_0 ∧ x.barHolds b_s_2_0 = true ∧ x.runs = true) ∧
    (let n : ℕ := 511;
    let x : Niu := (S 5).m.niu n;
    (S 5).m.test.scan = false ∧ x.bars = b_s_5_0 :: rest_s_5_0 ∧ x.barHolds b_s_5_0 = true ∧ x.runs = false) ∧
    (let n : ℕ := 511;
    let x : Niu := (S 6).m.niu n;
    (S 6).m.test.scan = false ∧ x.bars = b_s_6_0 :: rest_s_6_0 ∧ x.barHolds b_s_6_0 = false) ∧
    (let n : ℕ := 511;
    let x : Niu := (S 0).m.niu n;
    (S 0).m.test.scan = false ∧ x.bars = []) ∧
    (let n : ℕ := 511;
    let x : Niu := (S 0).m.niu n;
    (S 0).m.test.scan = false ∧ (false = false ∨ x.abort = true ∨ x.unit = none)) ∧
    (let n : ℕ := 511;
    let x : Niu := (S 3).m.niu n;
    (S 3).m.test.scan = false ∧ x.abort = false ∧ x.unit = some u_s_3_0) ∧
    (let n : ℕ := 511;
    let x : Niu := (S 5).m.niu n;
    (S 5).m.test.scan = false ∧ x.rstN = false ∧ x.ratio ≠ 3 ∧ (S 5).m.domLive (epTile n) = true) ∧
    (let n : ℕ := 511;
    let x : Niu := (S 9).m.niu n;
    (S 9).m.test.scan = false ∧ x.rstN = false ∧ (x.ratio = 3 ∨ (S 9).m.domLive (epTile n) = false)) ∧
    (let n : ℕ := 511;
    let x : Niu := (S 0).m.niu n;
    (S 0).m.test.scan = false ∧ x.rstN = true ∧ x.incPin ≠ 1#8 ∧ (S 0).m.domLive (epTile n) = true) ∧
    (let n : ℕ := 511;
    let x : Niu := (S 0).m.niu n;
    (S 0).m.test.scan = false ∧ (x.rstN = false ∨ x.incPin = 0#8 ∨ (S 0).m.domLive (epTile n) = false)) ∧
    ((S 0).m.test.scan = false ∧ (S 0).m.clk.fstop = false) ∧
    ((S 1).m.test.scan = false ∧ (S 1).m.clk.fstop = true) :=
  by and_intros <;> decide +kernel

end PortSideband

namespace SharedPort

def pt (f : Niu → Niu) (c : Nat := 0) (m : Mach := up) : Machine.State := st ((m.modNiu 511 f).setReg (aPort 511 8)
  (BitVec.ofNat 64 c))
def states : List Machine.State :=
  [pt id,
   pt (fun x => { x with spEn := true, ratio := 3 }),
   pt (fun x => { x with spEn := true, rstN := false }),
   pt (fun x => { x with spEn := true, gnt := 1 }) 1,
   pt (fun x => { x with spEn := true, gnt := 1, unit := some ⟨7,0,0,1,0,false⟩ }),
   pt (fun x => { x with spEn := true, gnt := 1, burst := 2 }) 0x800,
   pt (fun x => { x with spEn := true, gnt := 1, burst := 9 }) 0x800,
   pt (fun x => { x with spEn := true, gnt := 0, scores := [] }) 0x800,
   pt (fun x => { x with spEn := true, gnt := 0, wts := 0 }) 0x800,
   pt (fun x => { x with spEn := true, spReq := 8, wts := 0x1111 }) 0x10000,
   pt (fun x => { x with spEn := true, spReq := 8, wts := 0x0111 }) 0x10000,
   pt (fun x => { x with spEn := true, gnt := 1, beatAt := some 0 }) 1,
   pt (fun x => { x with spEn := true, gnt := 1, beatAt := some 0, beatEnd := true }) 1,
   pt (fun x => { x with spEn := true, spReq := 8, wts := 0x1111 }) 0x10000 { up with clk := { up.clk with fstop := true } }]
def pq (s : Machine.State) (req : BitVec 4) : List Int :=
    let x := s.m.niu 511
    let wts := if x.scores = [] then BitVec.ofNat 16 (s.m.fld (aPort 511 0x10) 0 16) else x.wts
    let old := if x.scores = [] then [0, 0, 0, 0] else x.scores
    let cand := (List.range 4).filter (fun i => bt req i && !bt x.gnt i && decide (spWeight wts i ≠ 0))
    (spSelect old wts cand).1
def of_sc (s : Machine.State) : List (List Int) := ([0, 1, 3, 8, 15].map (pq s)).dedup
def S (i : Nat) : Machine.State := states.getD i (st up)
def sc_s_5_0 : List ℤ := (of_sc (S 5))[0]'(by decide +kernel)

/-- The hypotheses of `Obligations.SharedPort` met, clause by clause. -/
theorem wit_SharedPort :
    (let n : ℕ := 511;
    let x : Niu := (S 4).m.niu n;
    let cfg : Word := (S 4).m.reg (aPort n 8);
    let held : Bool := (List.range 4).any fun i => bt x.gnt i;
    let wants : Bool := (List.range 4).any fun i => bt x.gnt i && bt (0#4) i;
    let others : Bool := (List.range 4).any fun i => bt (0#4) i && !bt x.gnt i;
    let beats : Bool := Option.any (fun c => c / 2 ^ x.ratio == (S 4).m.clk.cyc / 2 ^ x.ratio) x.beatAt;
    (∀ (i j : ℕ), bt x.gnt i = true → bt x.gnt j = true → i = j) ∧ (S 4).m.test.scan = false ∧ x.spEn = true ∧ x.runs = true ∧ bt cfg
    0 = false ∧ held = true ∧ (¬(beats = true ∧ x.beatEnd = true ∧ (wants = false ∨ bf cfg 8 6 + 1 ≤ x.burst ∧ others = true))) ∧
    (¬(beats = false ∧ wants = false ∧ others = true))) ∧
    (let n : ℕ := 511;
    let x : Niu := (S 5).m.niu n;
    let cfg : Word := (S 5).m.reg (aPort n 8);
    let held : Bool := (List.range 4).any fun i => bt x.gnt i;
    let wants : Bool := (List.range 4).any fun i => bt x.gnt i && bt (8#4) i;
    let others : Bool := (List.range 4).any fun i => bt (8#4) i && !bt x.gnt i;
    let beats : Bool := Option.any (fun c => c / 2 ^ x.ratio == (S 5).m.clk.cyc / 2 ^ x.ratio) x.beatAt;
    let wts : BitVec 16 := if x.scores = [] then BitVec.ofNat 16 ((S 5).m.fld (aPort n 16) 0 16) else x.wts;
    let old : List ℤ := if x.scores = [] then [0, 0, 0, 0] else x.scores;
    let cand : List ℕ := List.filter (fun i => bt (8#4) i && !bt x.gnt i && decide (spWeight wts i ≠ 0)) (List.range 4);
    (∀ (i j : ℕ), bt x.gnt i = true → bt x.gnt j = true → i = j) ∧ (S 5).m.test.scan = false ∧ x.spEn = true ∧ x.runs = true ∧ bt cfg
    0 = false ∧ x.unit = none ∧ (held = false ∨ beats = true ∧ x.beatEnd = true ∧ (wants = false ∨ bf cfg 8 6 + 1 ≤ x.burst ∧ others =
    true) ∨ beats = false ∧ wants = false ∧ others = true) ∧ spSelect old wts cand = (sc_s_5_0, some 3)) ∧
    (let n : ℕ := 511;
    let x : Niu := (S 0).m.niu n;
    (S 0).m.test.scan = false ∧ (x.spEn = false ∨ x.runs = false)) ∧
    (let n : ℕ := 511;
    (S 0).m.test.scan = false ∧ 0 ≠ n) ∧
    (let n : ℕ := 511;
    let x : Niu := (S 11).m.niu n;
    let cfg : Word := (S 11).m.reg (aPort n 8);
    let beats : Bool := Option.any (fun c => c / 2 ^ x.ratio == (S 11).m.clk.cyc / 2 ^ x.ratio) x.beatAt;
    (S 11).m.test.scan = false ∧ x.spEn = true ∧ x.runs = true ∧ bt cfg 0 = true ∧ x.unit = none ∧ beats = true ∧ x.beatEnd = false) ∧
    (let n : ℕ := 511;
    let x : Niu := (S 3).m.niu n;
    let cfg : Word := (S 3).m.reg (aPort n 8);
    let beats : Bool := Option.any (fun c => c / 2 ^ x.ratio == (S 3).m.clk.cyc / 2 ^ x.ratio) x.beatAt;
    (S 3).m.test.scan = false ∧ x.spEn = true ∧ x.runs = true ∧ bt cfg 0 = true ∧ x.unit = none ∧ (beats = false ∨ x.beatEnd = true)) ∧
    (let n : ℕ := 511;
    let x : Niu := (S 4).m.niu n;
    (S 4).m.test.scan = false ∧ x.spEn = true ∧ x.runs = true ∧ x.unit ≠ none) ∧
    (let n : ℕ := 511;
    let x : Niu := (S 4).m.niu n;
    let cfg : Word := (S 4).m.reg (aPort n 8);
    let wts : BitVec 16 := if x.scores = [] then BitVec.ofNat 16 ((S 4).m.fld (aPort n 16) 0 16) else x.wts;
    let cand : List ℕ := List.filter (fun i => bt (0#4) i && !bt x.gnt i && decide (spWeight wts i ≠ 0)) (List.range 4);
    (S 4).m.test.scan = false ∧ x.spEn = true ∧ x.runs = true ∧ bt cfg 0 = false ∧ cand = []) ∧
    (let n : ℕ := 511;
    let x : Niu := (S 9).m.niu n;
    let cfg : Word := (S 9).m.reg (aPort n 8);
    let q : ℕ := niuQe n;
    (S 9).m.test.scan = false ∧ ((S 9).m.clk.fstop = false ∧ x.spEn = true ∧ x.runs = true ∧ bf cfg 16 16 ≠ 0 ∧ bt x.spReq 3 = true
    ∧ spWeight x.wts 3 ≠ 0 ∧ bt x.gnt 3 = false) ∧ ((S 9).m.eng q).state ≠ EngSt.off ∧ ((S 9).m.eng q).evq.length < 32) ∧
    (let n : ℕ := 511;
    let x : Niu := (S 0).m.niu n;
    let cfg : Word := (S 0).m.reg (aPort n 8);
    (S 0).m.test.scan = false ∧ (¬((S 0).m.clk.fstop = false ∧ x.spEn = true ∧ x.runs = true ∧ bf cfg 16 16 ≠ 0 ∧ bt x.spReq 3 =
    true ∧ spWeight x.wts 3 ≠ 0 ∧ bt x.gnt 3 = false))) ∧
    (let n : ℕ := 511;
    let x : Niu := (S 0).m.niu n;
    let wts : BitVec 16 := if x.scores = [] then BitVec.ofNat 16 ((S 0).m.fld (aPort n 16) 0 16) else x.wts;
    let old : List ℤ := if x.scores = [] then [0, 0, 0, 0] else x.scores;
    let cand : List ℕ := List.filter (fun i => bt (1#4) i && !bt x.gnt i && decide (spWeight wts i ≠ 0)) (List.range 4);
    (S 0).m.test.scan = false ∧ (spSelect old wts cand).2 = some 0) :=
  ⟨by
    intro n x cfg held wants others beats
    exact ⟨by
      intro i j hi hj
      rw [show x.gnt = 1#4 from by decide +kernel] at hi hj
      simp [bt] at hi hj
      omega, by decide +kernel⟩,
   by
    intro n x cfg held wants others beats wts old cand
    exact ⟨by
      intro i j hi hj
      rw [show x.gnt = 1#4 from by decide +kernel] at hi hj
      simp [bt] at hi hj
      omega, by decide +kernel⟩,
   by and_intros <;> decide +kernel⟩

end SharedPort

namespace PortAnswers

def pt (f : Niu → Niu) (m : Mach := up) : Machine.State := st (m.modNiu 511 f)
def rs (b : List BeatBits) : Rsp := ⟨3, 1, 9, false, some 8, false, b⟩
def trk1 : Trk := ⟨1, 0, 9, 0, [0], 0, false, false, 1, .endpoint, true, none, false, false, none, 0, [], false⟩
def t1 : TT := ⟨.plain, hdw 511 4 2 0 ||| mkf 512 17 10 4, [0], [], false⟩
def tq : TT := ⟨.qmsg, hdw 511 4 5 0 ||| mkf 512 17 10 4 ||| mkf 512 64 16 9, [0], [], false⟩
def tqe : TT := ⟨.qmsg, hdw 511 4 5 0 ||| mkf 512 17 10 4 ||| mkf 512 64 16 9 ||| mkf 512 51 2 2, [0], [5, 6], false⟩
def ce : FcE := ⟨9, mkf 512 0 1 1 ||| mkf 512 273 16 6, none, false, false, false, false, false, false, false, false⟩
def ta : TT := ⟨.plain, mkf 512 58 6 opATM ||| mkf 512 51 2 2, [0], [], false⟩
def cx : Ctx := ⟨4, 9, 0, false, 1, some 1, tq.hd, [], [], [], 1, none, 1, false, none⟩
def states : List Machine.State :=
  [st up,
   pt (fun x => { x with ratio := 3 }),
   pt (fun x => { x with ratio := 3, treq := some (5, [1,2]), tt := [(5, some t1)] }),
   pt (fun x => { x with rstN := false }),
   pt (fun x => { x with rspOut := some (rs [1, 2]), trk := [(3, some trk1)] }),
   pt (fun x => { x with rspOut := some (rs [1]), trk := [(3, some trk1)] }),
   pt (fun x => { x with rspq := [rs [1,2]], trk := [(3, some trk1)] }),
   pt (fun x => { x with treq := some (5, [1,2]), tt := [(5, some t1)] }),
   pt (fun x => { x with treq := some (5, [1]), tt := [(5, some t1)] }),
   pt (fun x => { x with treq := some (5, [1]), tt := [(5, some tq)], ctxs := [cx] }),
   pt (fun x =>
     { x with treq := some (5, [1]), tt := [(5, some tqe)], ctxs := [{ cx with hd := tqe.hd }], fc := [ce], eoPend := [(9, 5), (9, 6)] }),
   pt (fun x => { x with tt := [(0, some t1), (255, some t1)] }),
   pt (fun x => { x with trsp := some (0, [1]), tt := [(0, some t1)] }),
   pt (fun x => { x with tt := [(255, some ta)] }) { up with twin := { up.twin with st := .attached, recw := [(0, 0)] } },
   pt (fun x => { x with treq := some (5, [1]), tt := [(5, some t1)], treqVc := some 2, ej := [(2, [fl true true 5])] })]
def of_r (s : Machine.State) : List Rsp := (s.m.niu 511).rspOut.toList ++ (s.m.niu 511).rspq ++ [rs []]
def all_beats : List (List BeatBits) := [[1,2],[1]]
def all_t0 : List TT := [t1, tq, tqe, ta]
def all_l : List (List BeatBits) := [[1], []]
def all_e : List FcE := [ce]
def S (i : Nat) : Machine.State := states.getD i (st up)
def r_s_4_0 : Rsp := (of_r (S 4))[0]'(by decide +kernel)
def r_s_5_0 : Rsp := (of_r (S 5))[0]'(by decide +kernel)
def r_s_6_0 : Rsp := (of_r (S 6))[0]'(by decide +kernel)
def beats_0 : List BeatBits := all_beats[0]'(by decide +kernel)
def beats_1 : List BeatBits := all_beats[1]'(by decide +kernel)
def t0_0 : TT := all_t0[0]'(by decide +kernel)
def t0_1 : TT := all_t0[1]'(by decide +kernel)
def t0_2 : TT := all_t0[2]'(by decide +kernel)
def e_0 : FcE := all_e[0]'(by decide +kernel)
def l_0 : List BeatBits := all_l[0]'(by decide +kernel)

/-- The hypotheses of `Obligations.PortAnswers` met, clause by clause. -/
theorem wit_PortAnswers :
    (let n : ℕ := 511;
    let x : Niu := (S 1).m.niu n;
    (S 1).m.test.scan = false ∧ x.runs = false) ∧
    (let n : ℕ := 511;
    let x : Niu := (S 4).m.niu n;
    (S 4).m.test.scan = false ∧ x.runs = true ∧ x.rspOut = some r_s_4_0 ∧ 1 < r_s_4_0.beats.length) ∧
    (let n : ℕ := 511;
    let x : Niu := (S 5).m.niu n;
    (S 5).m.test.scan = false ∧ x.runs = true ∧ x.rspOut = some r_s_5_0 ∧ r_s_5_0.beats.length ≤ 1) ∧
    (let n : ℕ := 511;
    let x : Niu := (S 6).m.niu n;
    (S 6).m.test.scan = false ∧ x.runs = true ∧ x.rspOut = none ∧ x.nextRsp = some (0, r_s_6_0) ∧ 1 < r_s_6_0.beats.length) ∧
    (let n : ℕ := 511;
    let x : Niu := (S 0).m.niu n;
    (S 0).m.test.scan = false ∧ x.runs = true ∧ x.rspOut = none ∧ x.nextRsp = none) ∧
    (let n : ℕ := 511;
    let x : Niu := (S 0).m.niu n;
    (S 0).m.test.scan = false ∧ (x.treq = none ∨ x.runs = false)) ∧
    (let n : ℕ := 511;
    let x : Niu := (S 7).m.niu n;
    (S 7).m.test.scan = false ∧ x.runs = true ∧ x.treq = some (5, beats_0) ∧ 1 < beats_0.length) ∧
    (let n : ℕ := 511;
    let x : Niu := (S 8).m.niu n;
    (S 8).m.test.scan = false ∧ x.runs = true ∧ x.treq = some (5, beats_1) ∧ beats_1.length ≤ 1 ∧ Tab.get dNone x.tt 5 = some
    t0_0 ∧ (hQueue t0_0.hd = false ∨ t0_0.kind = TKind.service)) ∧
    (let n : ℕ := 511;
    let x : Niu := (S 9).m.niu n;
    (S 9).m.test.scan = false ∧ x.runs = true ∧ x.treq = some (5, beats_1) ∧ beats_1.length ≤ 1 ∧ Tab.get dNone x.tt 5 = some
    t0_1 ∧ hQueue t0_1.hd = true ∧ t0_1.kind = TKind.qmsg) ∧
    (let n : ℕ := 511;
    let x : Niu := (S 10).m.niu n;
    (S 10).m.test.scan = false ∧ x.runs = true ∧ x.treq = some (5, beats_1) ∧ beats_1.length ≤ 1 ∧ Tab.get dNone x.tt 5 = some
    t0_2 ∧ hQueue t0_2.hd = true ∧ (t0_2.kind = TKind.plain ∨ t0_2.kind = TKind.qmsg) ∧ hDmode t0_2.hd = 2 ∧ x.entry
    (hFlow t0_2.hd) = some e_0 ∧ 5#16 ∈ t0_2.seqs ∧ seqDist (eTop e_0.ent) 5#16 ≤ 63) ∧
    (let n : ℕ := 511;
    let x : Niu := (S 1).m.niu n;
    (S 1).m.test.scan = false ∧ (¬((S 1).m.domLive (epTile n) = true ∧ x.runs = true ∧ x.rspInj.length < 32))) ∧
    (let n : ℕ := 511;
    let x : Niu := (S 0).m.niu n;
    let key : ℕ := bf (0#256) 40 8;
    (S 0).m.test.scan = false ∧ ((S 0).m.domLive (epTile n) = true ∧ x.runs = true ∧ x.rspInj.length < 32) ∧ x.trsp = none ∧ Tab.get
    dNone x.tt key = none) ∧
    (let n : ℕ := 511;
    let x : Niu := (S 11).m.niu n;
    let key : ℕ := bf (0#256) 40 8;
    (S 11).m.test.scan = false ∧ ((S 11).m.domLive (epTile n) = true ∧ x.runs = true ∧ x.rspInj.length < 32) ∧ x.trsp = none ∧
    Tab.get dNone x.tt key = some t0_0 ∧ false = false) ∧
    (let n : ℕ := 511;
    let x : Niu := (S 12).m.niu n;
    (S 12).m.test.scan = false ∧ ((S 12).m.domLive (epTile n) = true ∧ x.runs = true ∧ x.rspInj.length < 32) ∧ x.trsp = some (0#256,
    l_0) ∧ Tab.get dNone x.tt (bf (0#256) 40 8) = some t0_0 ∧ false = false) ∧
    (let n : ℕ := 511;
    let x : Niu := (S 11).m.niu n;
    let key : ℕ := bf (0#256) 40 8;
    let st : ℕ := if bf (0#256) 48 4 = 0 ∨ bf (0#256) 48 4 = 11 then bf (0#256) 48 4 else 10;
    (S 11).m.test.scan = false ∧ ((S 11).m.domLive (epTile n) = true ∧ x.runs = true ∧ x.rspInj.length < 32) ∧ x.trsp = none ∧ true
    = true ∧ Tab.get dNone x.tt key = some t0_0 ∧ t0_0.kind = TKind.plain ∧ hDmode t0_0.hd ≠ 2 ∧ (hOpc t0_0.hd ≠ opRD ∧
    hOpc t0_0.hd ≠ opATM ∨ st ≠ 0) ∧ 1 ≠ key) :=
  by and_intros <;> decide +kernel

end PortAnswers

namespace SourceSide

def hb (opc size : Nat) : BeatBits := mkf 256 58 6 opc ||| mkf 256 22 15 size ||| mkf 256 64 16 9
def ce (dm st : Nat) (neg : Option Nat := none) : FcE := ⟨9, mkf 512 0 1 1 ||| mkf 512 1 10 5 ||| mkf 512 11 10 6 ||| mkf 512 24
  2 dm ||| mkf 512 51 2 st ||| mkf 512 64 16 77 ||| mkf 512 36 7 8, neg, false, false, false, false, false, false, false, false⟩
def en : Mach := up.setReg 0x48 1
def pt (f : Niu → Niu) (m : Mach := en) : Machine.State := st (m.modNiu 5 f)
def bt1 (k : BeatKind) (opc : Nat := 1) : Beat := ⟨k, hb opc 8, false, 3, 7⟩
def rq : Req := ⟨2, hb 1 8, false, 4, 4, 0, 0, true, [], []⟩
def pj (opc : Nat) (dst : Nat := 6) : InjP := ⟨7, ⟨hdw dst 0 opc 0 ||| mkf 512 64 16 9 ||| mkf 512 37 9 8, [], false⟩, 0, 0, 3,
  opc == 2, false, false, false, none, false, none, 0, none⟩
def tr (own : Owner := .endpoint) : Trk := ⟨7, hb 1 8, 9, 0, [77], 1, false, false, 1, own, false, none, false, false, none, 0,
  [], false⟩
def pwb : Pwb := ⟨7, 0, false, 9, 0, 1, false, false, 1, .endpoint, none, 0, []⟩
def rsp (opc inc st : Nat) (seq : Nat := 77) : FlitBits := hdw 5 4 opc 0 ||| mkf 512 64 16 9 ||| mkf 512 168 8 inc ||| mkf 512
  148 4 st ||| mkf 512 152 8 3 ||| mkf 512 176 16 seq ||| mkf 512 37 9 8
def ej (h : FlitBits) (x : Niu) : Niu := { x with ej := [(8, [fl true true h])] }
def states : List Machine.State :=
  [st en,
   pt (fun x => { x with ingress := [bt1 (.barrier .ld), bt1 .data] }),
   pt (fun x => { x with ingress := [bt1 .header], fills := [9] }),
   pt (fun x => { x with ingress := [bt1 .header], fills := [9], reqs := List.replicate 8 { rq with hdr := 0 } }),
   pt (fun x => { x with ingress := [bt1 .header], fc := [ce 0 0], inj := List.replicate 44 (pj 1) }),
   pt (fun x => { x with ingress := [bt1 .header], fc := [ce 0 0], trk := [(3, some (tr))] }),
   pt (fun x => { x with ingress := [bt1 .header], fc := [ce 0 0 (some 2)], trk := [(3, some (tr))] }),
   pt (fun x => { x with ingress := [bt1 .data 0], inj := [{ pj 3 with need := 2 }] }),
   pt (fun x => { x with inj := [pj 2], pwb := [(3, some pwb)], fc := [ce 0 0] }) (en.setReg (aNiu 5 0x10) 2),
   pt (fun x => { x with inj := [pj 1], fc := [ce 0 0], trk := [(3, some { tr with seqs := [] })] }),
   pt (fun x => { x with inj := [pj 1 12], fc := [ce 0 0], trk := [(3, some { tr with seqs := [] })] }),
   pt (ej (rsp 0x21 4 0)),
   pt (ej (rsp 0x21 0 0)),
   pt (fun x => { ej (rsp 0x22 0 0 0) x with pwb := [(3, some { pwb with rel := true })] }),
   pt (fun x => { ej (rsp 0x21 0 0) x with trk := [(3, some tr)] }),
   pt (fun x => { x with fc := [ce 2 0], trk := [(3, some { tr with eo := true, ddl := some 0, tries := 7 })] }),
   pt (fun x => { x with fc := [ce 2 1], trk := [(3, some { tr with eo := true, ddl := some 0, tries := 2 })] }),
   pt (fun x => { x with fc := [ce 2 2], trk := [(3, some { tr with eo := true, ddl := some 0, tries := 2 })] }),
   pt (fun x =>
     { ej (rsp 0x21 0 0) x with trk := [(3, some { tr with ordered := true, acc := 5 }), (4, some { tr with ordered := true, acc := 2 })] }),
   pt (fun x => { x with fc := [ce 2 0], trk := [(3, some { tr with eo := true, ddl := some 0, tries := 2 })] }),
   pt (fun x =>
     { x with fc := [ce 2 0], pwb := [(3, some { pwb with rel := true, eo := true, ddl := some 0, seq := 77, tries := 2 })] }),
   pt (fun x => { x with fc := [ce 2 0], trk := [(3, some { tr with eo := true, ddl := some 0, tries := 2 })] })
     { en with twin := { en.twin with st := .attached, recw := [(0, 0)] } },
   pt (fun x => { ej (rsp 0x21 0 0 ||| mkf 512 51 2 2) x with eoDone := [(9, 77)] }),
   pt (fun x => ej (rsp 0x21 0 0 ||| mkf 512 51 2 2) x)]
def of_b (s : Machine.State) : List Beat := (s.m.niu 5).ingress.take 1 ++ [bt1 .header]
def of_rest (s : Machine.State) : List (List Beat) := [(s.m.niu 5).ingress.drop 1]
def of_e (s : Machine.State) : List FcE := (s.m.niu 5).fc ++ [ce 0 0]
def all_c : List BarKind := [.ld]
def of_p (s : Machine.State) : List InjP := (s.m.niu 5).inj.take 1 ++ [pj 1]
def of_w_Pwb (s : Machine.State) : List Pwb := ((s.m.niu 5).pwb.filterMap Prod.snd).take 1 ++ [pwb]
def of_q (s : Machine.State) : List Pkt := ((s.m.niu 5).ejected 8).toList ++ [⟨0, [], false⟩]
def of_t0 (s : Machine.State) : List Trk := ((s.m.niu 5).trk.filterMap Prod.snd).take 1 ++ [tr]
def of_r (s : Machine.State) : List Late := ((s.m.niu 5).expired 9 77).toList
def S (i : Nat) : Machine.State := states.getD i (st up)
def b_s_1_0 : Beat := (of_b (S 1))[0]'(by decide +kernel)
def rest_s_1_0 : List Beat := (of_rest (S 1))[0]'(by decide +kernel)
def c_0 : BarKind := all_c[0]'(by decide +kernel)
def b_s_2_0 : Beat := (of_b (S 2))[0]'(by decide +kernel)
def rest_s_2_0 : List Beat := (of_rest (S 2))[0]'(by decide +kernel)
def b_s_3_0 : Beat := (of_b (S 3))[0]'(by decide +kernel)
def rest_s_3_0 : List Beat := (of_rest (S 3))[0]'(by decide +kernel)
def b_s_4_0 : Beat := (of_b (S 4))[0]'(by decide +kernel)
def rest_s_4_0 : List Beat := (of_rest (S 4))[0]'(by decide +kernel)
def e_s_4_0 : FcE := (of_e (S 4))[0]'(by decide +kernel)
def b_s_5_0 : Beat := (of_b (S 5))[0]'(by decide +kernel)
def rest_s_5_0 : List Beat := (of_rest (S 5))[0]'(by decide +kernel)
def e_s_5_0 : FcE := (of_e (S 5))[0]'(by decide +kernel)
def b_s_6_0 : Beat := (of_b (S 6))[0]'(by decide +kernel)
def rest_s_6_0 : List Beat := (of_rest (S 6))[0]'(by decide +kernel)
def e_s_6_0 : FcE := (of_e (S 6))[0]'(by decide +kernel)
def b_s_7_0 : Beat := (of_b (S 7))[0]'(by decide +kernel)
def rest_s_7_0 : List Beat := (of_rest (S 7))[0]'(by decide +kernel)
def p_s_8_0 : InjP := (of_p (S 8))[0]'(by decide +kernel)
def w_Pwb_s_8_0 : Pwb := (of_w_Pwb (S 8))[0]'(by decide +kernel)
def p_s_4_0 : InjP := (of_p (S 4))[0]'(by decide +kernel)
def q_s_11_0 : Pkt := (of_q (S 11))[0]'(by decide +kernel)
def q_s_12_0 : Pkt := (of_q (S 12))[0]'(by decide +kernel)
def q_s_22_0 : Pkt := (of_q (S 22))[0]'(by decide +kernel)
def q_s_13_0 : Pkt := (of_q (S 13))[0]'(by decide +kernel)
def w_Pwb_s_13_0 : Pwb := (of_w_Pwb (S 13))[0]'(by decide +kernel)
def q_s_14_0 : Pkt := (of_q (S 14))[0]'(by decide +kernel)
def t0_s_14_0 : Trk := (of_t0 (S 14))[0]'(by decide +kernel)
def r_s_21_0 : Late := (of_r (S 21))[0]'(by decide +kernel)
def e_s_21_0 : FcE := (of_e (S 21))[0]'(by decide +kernel)
def r_s_20_0 : Late := (of_r (S 20))[0]'(by decide +kernel)
def e_s_20_0 : FcE := (of_e (S 20))[0]'(by decide +kernel)
def r_s_19_0 : Late := (of_r (S 19))[0]'(by decide +kernel)
def e_s_19_0 : FcE := (of_e (S 19))[0]'(by decide +kernel)
def r_s_15_0 : Late := (of_r (S 15))[0]'(by decide +kernel)
def e_s_15_0 : FcE := (of_e (S 15))[0]'(by decide +kernel)
def r_s_16_0 : Late := (of_r (S 16))[0]'(by decide +kernel)
def e_s_16_0 : FcE := (of_e (S 16))[0]'(by decide +kernel)

/-- The hypotheses of `Obligations.SourceSide` met, clause by clause. -/
theorem wit_SourceSide :
    (let x : Niu := (S 8).m.niu 5;
    let h : FlitBits := p_s_8_0.pkt.hd;
    ((x.rspInj = [] ∧ x.gate.ents = [] ∧ x.Calm ∧ (S 8).m.pinWaits 5 = [] ∧ (S 8).m.yields 5 = false) ∧ (∀ q ∈ x.inj, q.fail = none
    ∧ q.mir = none) ∧ (S 8).m.select 5 = Sel.req 0 0 0 ∧ x.inj[0]? = some p_s_8_0) ∧ (S 8).m.test.scan = false ∧
    (S 8).m.fenced 5 (hTile h) = true ∧ p_s_8_0.posted = true ∧ Tab.get dNone x.pwb p_s_8_0.tag = some w_Pwb_s_8_0 ∧
    w_Pwb_s_8_0.owner = Owner.endpoint ∧ w_Pwb_s_8_0.acc ≠ 0 ∧ hDmode h ≠ 2) ∧
    (let x : Niu := (S 4).m.niu 5;
    let h : FlitBits := p_s_4_0.pkt.hd;
    ((x.rspInj = [] ∧ x.gate.ents = [] ∧ x.Calm ∧ (S 4).m.pinWaits 5 = [] ∧ (S 4).m.yields 5 = false) ∧ (∀ q ∈ x.inj, q.fail = none
    ∧ q.mir = none) ∧ (S 4).m.select 5 = Sel.req 0 0 0 ∧ x.inj[0]? = some p_s_4_0) ∧ (S 4).m.test.scan = false ∧
    (S 4).m.fenced 5 (hTile h) = false ∧ bt ((S 4).m.imgOf ((S 4).m.epochOf 5)).1.unr (hTile h) = false ∧ hDmode h = 0 ∧
    p_s_4_0.seq = none ∧ p_s_4_0.resend = false ∧ x.entry (hFlow h) = some e_s_4_0 ∧ ((S 4).m.hasMirror = false ∨ bt
    ((S 4).m.reg 4718592) 63 = false) ∧ hTile h = epTile 5) ∧
    (let x : Niu := (S 19).m.niu 5;
    x.Calm ∧ (S 19).m.test.scan = false ∧ ((S 19).m.mirrors = false ∨ (S 19).m.recRoom = true) ∧ x.expired 9#16 77#16 = some
    r_s_19_0 ∧ x.entry 9#16 = some e_s_19_0 ∧ eState e_s_19_0.ent = 0 ∧ r_s_19_0.tries < 7 ∧ (S 19).m.fenced 5
    r_s_19_0.dst = false ∧ bt ((S 19).m.imgOf ((S 19).m.epochOf 5)).1.unr r_s_19_0.dst = false ∧ r_s_19_0.seqs =
    [77#16] ∧ x.injRoom (eTc e_s_19_0.ent) = true ∧ (S 19).m.serviceRoom (niuService 5) false 2 = true) ∧
    (let x : Niu := (S 0).m.niu 5;
    (S 0).m.test.scan = false ∧ x.ingress = []) ∧
    (let x : Niu := (S 1).m.niu 5;
    (S 1).m.test.scan = false ∧ x.ingress = b_s_1_0 :: rest_s_1_0 ∧ b_s_1_0.kind = BeatKind.barrier c_0) ∧
    (let x : Niu := (S 2).m.niu 5;
    let flow : BitVec 16 := qFlow b_s_2_0.bits;
    (S 2).m.test.scan = false ∧ x.ingress = b_s_2_0 :: rest_s_2_0 ∧ b_s_2_0.kind = BeatKind.header ∧ x.safe = false ∧
    (S 2).m.tblEn = true ∧ (S 2).m.usable 5 flow = none ∧ ((x.entry flow).isSome = true ∨ x.fills.contains flow = true) ∧ cnt
    Req.inMiss x.reqs < 8) ∧
    (let x : Niu := (S 3).m.niu 5;
    let flow : BitVec 16 := qFlow b_s_3_0.bits;
    (S 3).m.test.scan = false ∧ x.ingress = b_s_3_0 :: rest_s_3_0 ∧ b_s_3_0.kind = BeatKind.header ∧ x.safe = false ∧
    (S 3).m.tblEn = true ∧ (S 3).m.usable 5 flow = none ∧ ((x.entry flow).isSome = true ∨ x.fills.contains flow = true) ∧ 8 ≤ cnt
    Req.inMiss x.reqs) ∧
    (let x : Niu := (S 4).m.niu 5;
    let flow : BitVec 16 := qFlow b_s_4_0.bits;
    (S 4).m.test.scan = false ∧ x.ingress = b_s_4_0 :: rest_s_4_0 ∧ b_s_4_0.kind = BeatKind.header ∧ x.safe = false ∧
    (S 4).m.tblEn = true ∧ (S 4).m.usable 5 flow = some e_s_4_0 ∧ e_s_4_0.flow = flow ∧ (∀ r ∈ x.reqs, r.inMiss = true →
    qFlow r.hdr ≠ flow) ∧ x.injRoom (eTc e_s_4_0.ent) = false) ∧
    (let x : Niu := (S 5).m.niu 5;
    let flow : BitVec 16 := qFlow b_s_5_0.bits;
    (S 5).m.test.scan = false ∧ x.ingress = b_s_5_0 :: rest_s_5_0 ∧ b_s_5_0.kind = BeatKind.header ∧ x.safe = false ∧
    (S 5).m.tblEn = true ∧ (S 5).m.usable 5 flow = some e_s_5_0 ∧ e_s_5_0.flow = flow ∧ (∀ r ∈ x.reqs, r.inMiss = true →
    qFlow r.hdr ≠ flow) ∧ x.injRoom (eTc e_s_5_0.ent) = true ∧ (S 5).m.sourceCheck 5 b_s_5_0.bits e_s_5_0 = none ∧ qOpc
    b_s_5_0.bits ≠ opMSG ∧ (∀ u ∈ x.unc, u.flow ≠ flow) ∧ (∀ r ∈ x.inj, r.uid ≠ b_s_5_0.uid) ∧ e_s_5_0.dflt = false) ∧
    (let x : Niu := (S 6).m.niu 5;
    let flow : BitVec 16 := qFlow b_s_6_0.bits;
    (S 6).m.test.scan = false ∧ x.ingress = b_s_6_0 :: rest_s_6_0 ∧ b_s_6_0.kind = BeatKind.header ∧ x.safe = false ∧
    (S 6).m.tblEn = true ∧ (S 6).m.usable 5 flow = some e_s_6_0 ∧ e_s_6_0.flow = flow ∧ (∀ r ∈ x.reqs, r.inMiss = true →
    qFlow r.hdr ≠ flow) ∧ x.injRoom (eTc e_s_6_0.ent) = true ∧ (S 6).m.sourceCheck 5 b_s_6_0.bits e_s_6_0 = some 2) ∧
    (let x : Niu := (S 7).m.niu 5;
    (S 7).m.test.scan = false ∧ x.ingress = b_s_7_0 :: rest_s_7_0 ∧ b_s_7_0.kind = BeatKind.data ∧ (∃ r ∈ x.inj, r.uid
    = b_s_7_0.uid ∧ r.need ≠ 0)) ∧
    (let x : Niu := (S 0).m.niu 5;
    (S 0).m.test.scan = false ∧ x.inj = [] ∧ x.rspInj = []) ∧
    (let x : Niu := (S 0).m.niu 5;
    (S 0).m.test.scan = false ∧ x.ejected 8 = none) ∧
    (let x : Niu := (S 11).m.niu 5;
    let g : FlitBits := q_s_11_0.hd;
    (S 11).m.test.scan = false ∧ (x.ejected 8 = some q_s_11_0 ∧ ((S 11).m.hasMirror = false ∨ bt ((S 11).m.reg 4718592) 63 =
    false) ∧ ∀ r ∈ x.rspOut.toList ++ x.rspq, r.vc ≠ some 8) ∧ opRsp (hOpc g) = true ∧ hSrcInc g ≠ x.inc) ∧
    (let x : Niu := (S 12).m.niu 5;
    let g : FlitBits := q_s_12_0.hd;
    (S 12).m.test.scan = false ∧ (x.ejected 8 = some q_s_12_0 ∧ ((S 12).m.hasMirror = false ∨ bt ((S 12).m.reg 4718592) 63 =
    false) ∧ ∀ r ∈ x.rspOut.toList ++ x.rspq, r.vc ≠ some 8) ∧ opRsp (hOpc g) = true ∧ hSrcInc g = x.inc ∧ hOpc g ≠ 34 ∧ x.answeredBy g
    = none ∧ (hDmode g ≠ 2 ∨ x.eoDone.contains (hFlow g, hSeq g) = false)) ∧
    (let x : Niu := (S 22).m.niu 5;
    let g : FlitBits := q_s_22_0.hd;
    (S 22).m.test.scan = false ∧ (x.ejected 8 = some q_s_22_0 ∧ ((S 22).m.hasMirror = false ∨ bt ((S 22).m.reg 4718592) 63 =
    false) ∧ ∀ r ∈ x.rspOut.toList ++ x.rspq, r.vc ≠ some 8) ∧ opRsp (hOpc g) = true ∧ hSrcInc g = x.inc ∧ hOpc g ≠ 34 ∧ x.answeredBy g
    = none ∧ hDmode g = 2 ∧ x.eoDone.contains (hFlow g, hSeq g) = true) ∧
    (let x : Niu := (S 13).m.niu 5;
    let g : FlitBits := q_s_13_0.hd;
    (S 13).m.test.scan = false ∧ (x.ejected 8 = some q_s_13_0 ∧ ((S 13).m.hasMirror = false ∨ bt ((S 13).m.reg 4718592) 63 =
    false) ∧ ∀ r ∈ x.rspOut.toList ++ x.rspq, r.vc ≠ some 8) ∧ hSrcInc g = x.inc ∧ hOpc g = 34 ∧ hStatus g = 0 ∧ q_s_13_0.bad =
    false ∧ hDmode g ≠ 2 ∧ x.pwbOf g = some (3, w_Pwb_s_13_0) ∧ w_Pwb_s_13_0.owner = Owner.endpoint ∧ (∀ q ∈ x.inj, q.fail =
    none ∧ q.mir = none)) ∧
    (let x : Niu := (S 14).m.niu 5;
    let g : FlitBits := q_s_14_0.hd;
    let early : Bool := t0_s_14_0.ordered && x.early t0_s_14_0.flow t0_s_14_0.acc;
    (S 14).m.test.scan = false ∧ (x.ejected 8 = some q_s_14_0 ∧ ((S 14).m.hasMirror = false ∨ bt ((S 14).m.reg 4718592) 63 =
    false) ∧ ∀ r ∈ x.rspOut.toList ++ x.rspq, r.vc ≠ some 8) ∧ opRsp (hOpc g) = true ∧ hSrcInc g = x.inc ∧ hOpc g ≠ 34 ∧ hStatus g = 0 ∧
    q_s_14_0.bad = false ∧ hDmode g ≠ 2 ∧ x.answeredBy g = some t0_s_14_0 ∧ t0_s_14_0.owner = Owner.endpoint ∧
    t0_s_14_0.ans = false ∧ t0_s_14_0.dead = false ∧ t0_s_14_0.eo = false ∧ x.runs = true ∧ opReq (qOpc
    t0_s_14_0.hdr) = true ∧ (∀ q ∈ x.inj, q.fail = none ∧ q.mir = none) ∧ (early = true → x.storeUsed < 64)) ∧
    (let x : Niu := (S 0).m.niu 5;
    (S 0).m.test.scan = false ∧ x.expired 9#16 77#16 = none) ∧
    (let x : Niu := (S 21).m.niu 5;
    (S 21).m.test.scan = false ∧ x.expired 9#16 77#16 = some r_s_21_0 ∧ x.entry 9#16 = some e_s_21_0 ∧ (¬((S 21).m.mirrors
    = false ∨ (S 21).m.recRoom = true))) ∧
    (let x : Niu := (S 20).m.niu 5;
    (S 20).m.test.scan = false ∧ ((S 20).m.mirrors = false ∨ (S 20).m.recRoom = true) ∧ x.expired 9#16 77#16 = some r_s_20_0
    ∧ x.entry 9#16 = some e_s_20_0 ∧ eState e_s_20_0.ent = 0 ∧ r_s_20_0.tries < 7 ∧ (S 20).m.fenced 5 r_s_20_0.dst
    = false ∧ bt ((S 20).m.imgOf ((S 20).m.epochOf 5)).1.unr r_s_20_0.dst = false ∧ r_s_20_0.posted = true) ∧
    (let x : Niu := (S 19).m.niu 5;
    (S 19).m.test.scan = false ∧ ((S 19).m.mirrors = false ∨ (S 19).m.recRoom = true) ∧ x.expired 9#16 77#16 = some r_s_19_0
    ∧ x.entry 9#16 = some e_s_19_0 ∧ eState e_s_19_0.ent = 0 ∧ r_s_19_0.tries < 7 ∧ (S 19).m.fenced 5 r_s_19_0.dst
    = false ∧ bt ((S 19).m.imgOf ((S 19).m.epochOf 5)).1.unr r_s_19_0.dst = false ∧ r_s_19_0.posted = false) ∧
    (let x : Niu := (S 15).m.niu 5;
    (S 15).m.test.scan = false ∧ ((S 15).m.mirrors = false ∨ (S 15).m.recRoom = true) ∧ x.expired 9#16 77#16 = some r_s_15_0
    ∧ x.entry 9#16 = some e_s_15_0 ∧ eState e_s_15_0.ent = 0 ∧ 7 ≤ r_s_15_0.tries) ∧
    (let x : Niu := (S 16).m.niu 5;
    (S 16).m.test.scan = false ∧ ((S 16).m.mirrors = false ∨ (S 16).m.recRoom = true) ∧ x.expired 9#16 77#16 = some r_s_16_0
    ∧ x.entry 9#16 = some e_s_16_0 ∧ (eState e_s_16_0.ent = 1 ∨ eState e_s_16_0.ent = 2)) :=
  ⟨by
    intro x h
    exact ⟨⟨⟨by decide +kernel, by decide +kernel, calm (by decide +kernel), by decide +kernel⟩, by decide +kernel⟩, by decide +kernel⟩,
   by
    intro x h
    exact ⟨⟨⟨by decide +kernel, by decide +kernel, calm (by decide +kernel), by decide +kernel⟩, by decide +kernel⟩, by decide +kernel⟩,
   by
    intro x
    exact ⟨calm (by decide +kernel), by decide +kernel⟩,
   by and_intros <;> decide +kernel⟩

end SourceSide

namespace TargetSide

def ce (rx : Nat) : FcE := ⟨9, mkf 512 0 1 1 ||| mkf 512 1 10 6 ||| mkf 512 11 10 5 ||| mkf 512 256 1 rx ||| mkf 512 273 16 100
  ||| mkf 512 304 16 100 ||| mkf 512 320 64 3, none, false, false, false, false, false, false, false, false⟩
def pt (f : Niu → Niu) (m : Mach := up) : Machine.State := st (m.modNiu 5 f)
def rqh (dm seq inc : Nat) (opc : Nat := 1) : FlitBits := hdw 5 4 opc 0 ||| mkf 512 64 16 9 ||| mkf 512 51 2 dm ||| mkf 512 176
  16 seq ||| mkf 512 160 8 inc ||| mkf 512 37 9 8 ||| mkf 512 17 10 6
def ej (h : FlitBits) (x : Niu) : Niu := { x with ej := [(2, [fl true true h])] }
def r1 : Pres := ⟨.plain, ⟨rqh 0 0 0, [], false⟩, none, true, 0, none, none⟩
def cx : Ctx := ⟨6, 9, 3, true, 1, none, (hdw 5 4 5 0 ||| mkf 512 64 16 9 ||| mkf 512 17 10 6 ||| mkf 512 248 8 3 ||| mkf 512
  228 6 63 ), [], [], [], 1, none, 0, false, some 0⟩
def full : List RspP := List.replicate 32 ⟨none, [], false, ⟨0, [], false⟩⟩
def deny : Machine.State := { pt (fun x => { x with ready := [r1] }) with guards := [(5, ⟨[], true, 0⟩)] }
def states : List Machine.State :=
  [st up,
   pt (fun x => { x with ready := [r1], ratio := 3 }),
   pt (fun x => { ej (rqh 0 0 0) x with safe := true }),
   pt (fun x => ej (rqh 0 0 7) x),
   pt (fun x => { ej (rqh 0 0 7) x with rspInj := full }),
   pt (ej (rqh 0 0 0)),
   pt (fun x => { ej (rqh 1 100 0) x with fc := [ce 0] }),
   pt (fun x => { ej (rqh 1 101 0) x with fc := [ce 0] }),
   pt (fun x => { ej (rqh 1 163 0) x with fc := [ce 0] }),
   pt (fun x => { ej (rqh 2 101 0) x with fc := [ce 1] }),
   pt (fun x => { ej (rqh 2 164 0) x with fc := [ce 1] }),
   pt (fun x => { ej (rqh 2 36 0) x with fc := [ce 1] }),
   pt (fun x => { ej (rqh 2 (65536 + 100 - 32767) 0) x with fc := [ce 1] }),
   pt (fun x => { x with ready := [r1], treq := some (1, [1]) }),
   pt (fun x => { x with ready := [r1], tt := [(0, some ⟨.plain, 0, [], [], false⟩)] }),
   deny,
   pt (fun x => { x with ready := [r1], rstN := false }),
   pt (fun x => { x with ctxs := [cx] }),
   pt (fun x => { x with ctxs := [cx, { cx with msg := 4 }] }),
   pt (fun x => { x with ctxs := [{ cx with ticks := some 1 }] })]
def of_p (s : Machine.State) : List Pkt := ((s.m.niu 5).ejected 2).toList ++ [⟨0, [], false⟩]
def of_e (s : Machine.State) : List FcE := (s.m.niu 5).fc ++ [ce 0]
def of_r (s : Machine.State) : List Pres := (s.m.niu 5).ready ++ [r1]
def of_c (s : Machine.State) : List Ctx := (s.m.niu 5).ctxs ++ [cx]
def of_d (s : Machine.State) : List Denial := ((s.guard 5).check r1.pkt.hd).toList
def S (i : Nat) : Machine.State := states.getD i (st up)
def p_s_2_0 : Pkt := (of_p (S 2))[0]'(by decide +kernel)
def p_s_3_0 : Pkt := (of_p (S 3))[0]'(by decide +kernel)
def p_s_4_0 : Pkt := (of_p (S 4))[0]'(by decide +kernel)
def p_s_5_0 : Pkt := (of_p (S 5))[0]'(by decide +kernel)
def p_s_6_0 : Pkt := (of_p (S 6))[0]'(by decide +kernel)
def e_s_6_0 : FcE := (of_e (S 6))[0]'(by decide +kernel)
def p_s_7_0 : Pkt := (of_p (S 7))[0]'(by decide +kernel)
def e_s_7_0 : FcE := (of_e (S 7))[0]'(by decide +kernel)
def p_s_9_0 : Pkt := (of_p (S 9))[0]'(by decide +kernel)
def e_s_9_0 : FcE := (of_e (S 9))[0]'(by decide +kernel)
def p_s_11_0 : Pkt := (of_p (S 11))[0]'(by decide +kernel)
def e_s_11_0 : FcE := (of_e (S 11))[0]'(by decide +kernel)
def r_s_13_0 : Pres := (of_r (S 13))[0]'(by decide +kernel)
def r_s_14_0 : Pres := (of_r (S 14))[0]'(by decide +kernel)
def r_s_15_0 : Pres := (of_r (S 15))[0]'(by decide +kernel)
def d_s_15_0 : Denial := (of_d (S 15))[0]'(by decide +kernel)
def r_s_1_0 : Pres := (of_r (S 1))[0]'(by decide +kernel)
def c_s_19_0 : Ctx := (of_c (S 19))[0]'(by decide +kernel)
def c_s_17_0 : Ctx := (of_c (S 17))[0]'(by decide +kernel)
def c_s_18_0 : Ctx := (of_c (S 18))[0]'(by decide +kernel)

/-- The hypotheses of `Obligations.TargetSide` met, clause by clause. -/
theorem wit_TargetSide :
    (let n : ℕ := 5;
    let x : Niu := (S 0).m.niu n;
    (S 0).m.test.scan = false ∧ x.ejected 2 = none) ∧
    (let n : ℕ := 5;
    let x : Niu := (S 2).m.niu n;
    let h : FlitBits := p_s_2_0.hd;
    (S 2).m.test.scan = false ∧ (x.ejected 2 = some p_s_2_0 ∧ (∀ r ∈ x.ready, r.vc ≠ some 2) ∧ x.treqVc ≠ some 2 ∧
    ((S 2).m.hasMirror = false ∨ bt ((S 2).m.reg 4718592) 63 = false) ∧ opReq (hOpc h) = true ∧ hOpc h ≠ opRED ∧ hMulti h = false ∧
    hCloses h = false) ∧ x.safe = true ∧ x.rspInj.length < 32) ∧
    (let n : ℕ := 5;
    let x : Niu := (S 3).m.niu n;
    let h : FlitBits := p_s_3_0.hd;
    (S 3).m.test.scan = false ∧ (x.ejected 2 = some p_s_3_0 ∧ (∀ r ∈ x.ready, r.vc ≠ some 2) ∧ x.treqVc ≠ some 2 ∧
    ((S 3).m.hasMirror = false ∨ bt ((S 3).m.reg 4718592) 63 = false) ∧ opReq (hOpc h) = true ∧ hOpc h ≠ opRED ∧ hMulti h = false ∧
    hCloses h = false) ∧ x.safe = false ∧ hDstInc h ≠ x.inc ∧ x.rspInj.length < 32) ∧
    (let n : ℕ := 5;
    let x : Niu := (S 4).m.niu n;
    let h : FlitBits := p_s_4_0.hd;
    (S 4).m.test.scan = false ∧ (x.ejected 2 = some p_s_4_0 ∧ (∀ r ∈ x.ready, r.vc ≠ some 2) ∧ x.treqVc ≠ some 2 ∧
    ((S 4).m.hasMirror = false ∨ bt ((S 4).m.reg 4718592) 63 = false) ∧ opReq (hOpc h) = true ∧ hOpc h ≠ opRED ∧ hMulti h = false ∧
    hCloses h = false) ∧ (x.safe = true ∨ hDstInc h ≠ x.inc) ∧ 32 ≤ x.rspInj.length) ∧
    (let n : ℕ := 5;
    let x : Niu := (S 5).m.niu n;
    let h : FlitBits := p_s_5_0.hd;
    (S 5).m.test.scan = false ∧ (x.ejected 2 = some p_s_5_0 ∧ (∀ r ∈ x.ready, r.vc ≠ some 2) ∧ x.treqVc ≠ some 2 ∧
    ((S 5).m.hasMirror = false ∨ bt ((S 5).m.reg 4718592) 63 = false) ∧ opReq (hOpc h) = true ∧ hOpc h ≠ opRED ∧ hMulti h = false ∧
    hCloses h = false) ∧ hOpc h ≠ opMSG ∧ x.safe = false ∧ hDstInc h = x.inc ∧ hDmode h = 0) ∧
    (let n : ℕ := 5;
    let x : Niu := (S 6).m.niu n;
    let h : FlitBits := p_s_6_0.hd;
    (S 6).m.test.scan = false ∧ (x.ejected 2 = some p_s_6_0 ∧ (∀ r ∈ x.ready, r.vc ≠ some 2) ∧ x.treqVc ≠ some 2 ∧
    ((S 6).m.hasMirror = false ∨ bt ((S 6).m.reg 4718592) 63 = false) ∧ opReq (hOpc h) = true ∧ hOpc h ≠ opRED ∧ hMulti h = false ∧
    hCloses h = false) ∧ hOpc h ≠ opMSG ∧ x.safe = false ∧ hDstInc h = x.inc ∧ hDmode h = 1 ∧ ((S 6).m.recWaits n (hFlow h) = false ∧
    x.entry (hFlow h) = some e_s_6_0 ∧ eV e_s_6_0.ent = true ∧ eDst e_s_6_0.ent = n ∧ (S 6).m.carries (hFlow h) = true)
    ∧ hSeq h = eNext e_s_6_0.ent ∧ x.store = []) ∧
    (let n : ℕ := 5;
    let x : Niu := (S 7).m.niu n;
    let h : FlitBits := p_s_7_0.hd;
    (S 7).m.test.scan = false ∧ (x.ejected 2 = some p_s_7_0 ∧ (∀ r ∈ x.ready, r.vc ≠ some 2) ∧ x.treqVc ≠ some 2 ∧
    ((S 7).m.hasMirror = false ∨ bt ((S 7).m.reg 4718592) 63 = false) ∧ opReq (hOpc h) = true ∧ hOpc h ≠ opRED ∧ hMulti h = false ∧
    hCloses h = false) ∧ hOpc h ≠ opMSG ∧ x.safe = false ∧ hDstInc h = x.inc ∧ hDmode h = 1 ∧ ((S 7).m.recWaits n (hFlow h) = false ∧
    x.entry (hFlow h) = some e_s_7_0 ∧ eV e_s_7_0.ent = true ∧ eDst e_s_7_0.ent = n ∧ (S 7).m.carries (hFlow h) = true)
    ∧ 1 ≤ (hSeq h - eNext e_s_7_0.ent).toNat ∧ (hSeq h - eNext e_s_7_0.ent).toNat < 64 ∧ x.storeUsed < 64) ∧
    (let n : ℕ := 5;
    let x : Niu := (S 9).m.niu n;
    let h : FlitBits := p_s_9_0.hd;
    (S 9).m.test.scan = false ∧ (x.ejected 2 = some p_s_9_0 ∧ (∀ r ∈ x.ready, r.vc ≠ some 2) ∧ x.treqVc ≠ some 2 ∧
    ((S 9).m.hasMirror = false ∨ bt ((S 9).m.reg 4718592) 63 = false) ∧ opReq (hOpc h) = true ∧ hOpc h ≠ opRED ∧ hMulti h = false ∧
    hCloses h = false) ∧ hOpc h ≠ opMSG ∧ x.safe = false ∧ hDstInc h = x.inc ∧ hDmode h = 2 ∧ ((S 9).m.recWaits n (hFlow h) = false ∧
    x.entry (hFlow h) = some e_s_9_0 ∧ eV e_s_9_0.ent = true ∧ eDst e_s_9_0.ent = n ∧ (S 9).m.carries (hFlow h) = true)
    ∧ eRxState e_s_9_0.ent = true ∧ hSrcInc h = eSInc e_s_9_0.ent ∧ 1 ≤ (hSeq h - eTop e_s_9_0.ent).toNat ∧ (hSeq h -
    eTop e_s_9_0.ent).toNat ≤ 64) ∧
    (let n : ℕ := 5;
    let x : Niu := (S 11).m.niu n;
    let h : FlitBits := p_s_11_0.hd;
    (S 11).m.test.scan = false ∧ (x.ejected 2 = some p_s_11_0 ∧ (∀ r ∈ x.ready, r.vc ≠ some 2) ∧ x.treqVc ≠ some 2 ∧
    ((S 11).m.hasMirror = false ∨ bt ((S 11).m.reg 4718592) 63 = false) ∧ opReq (hOpc h) = true ∧ hOpc h ≠ opRED ∧ hMulti h = false
    ∧ hCloses h = false) ∧ hOpc h ≠ opMSG ∧ x.safe = false ∧ hDstInc h = x.inc ∧ hDmode h = 2 ∧ ((S 11).m.recWaits n (hFlow h) = false
    ∧ x.entry (hFlow h) = some e_s_11_0 ∧ eV e_s_11_0.ent = true ∧ eDst e_s_11_0.ent = n ∧ (S 11).m.carries (hFlow h) =
    true) ∧ eRxState e_s_11_0.ent = true ∧ hSrcInc h = eSInc e_s_11_0.ent ∧ 64 ≤ (eTop e_s_11_0.ent - hSeq h).toNat ∧
    (eTop e_s_11_0.ent - hSeq h).toNat ≤ 32767) ∧
    (let n : ℕ := 5;
    let x : Niu := (S 0).m.niu n;
    (S 0).m.test.scan = false ∧ x.ready = [] ∧ x.store = []) ∧
    (let n : ℕ := 5;
    let x : Niu := (S 13).m.niu n;
    (S 13).m.test.scan = false ∧ (x.store = [] ∧ x.ready = [r_s_13_0] ∧ r_s_13_0.kind = TKind.plain ∧ r_s_13_0.mir =
    none ∧ r_s_13_0.adm = none ∧ hDmode r_s_13_0.pkt.hd = 0 ∧ r_s_13_0.pkt.bad = false) ∧ x.runs = true ∧ x.treq ≠ none) ∧
    (let n : ℕ := 5;
    let x : Niu := (S 14).m.niu n;
    (S 14).m.test.scan = false ∧ (x.store = [] ∧ x.ready = [r_s_14_0] ∧ r_s_14_0.kind = TKind.plain ∧ r_s_14_0.mir =
    none ∧ r_s_14_0.adm = none ∧ hDmode r_s_14_0.pkt.hd = 0 ∧ r_s_14_0.pkt.bad = false) ∧ x.runs = true ∧ x.treq = none ∧
    1 < 256 ∧ Tab.get dNone x.tt 1 = none ∧ (∀ j < 1, Tab.get dNone x.tt j ≠ none) ∧ ((S 14).guard n).check r_s_14_0.pkt.hd =
    none ∧ 0 ≠ 1) ∧
    (let n : ℕ := 5;
    let x : Niu := (S 15).m.niu n;
    (S 15).m.test.scan = false ∧ (x.store = [] ∧ x.ready = [r_s_15_0] ∧ r_s_15_0.kind = TKind.plain ∧ r_s_15_0.mir =
    none ∧ r_s_15_0.adm = none ∧ hDmode r_s_15_0.pkt.hd = 0 ∧ r_s_15_0.pkt.bad = false) ∧ x.runs = true ∧ x.treq = none ∧
    0 < 256 ∧ Tab.get dNone x.tt 0 = none ∧ ((S 15).guard n).check r_s_15_0.pkt.hd = some d_s_15_0 ∧ x.rspInj.length < 32) ∧
    (let n : ℕ := 5;
    let x : Niu := (S 1).m.niu n;
    (S 1).m.test.scan = false ∧ (x.store = [] ∧ x.ready = [r_s_1_0] ∧ r_s_1_0.kind = TKind.plain ∧ r_s_1_0.mir = none ∧
    r_s_1_0.adm = none ∧ hDmode r_s_1_0.pkt.hd = 0 ∧ r_s_1_0.pkt.bad = false) ∧ x.runs = false ∧ ((S 1).guard n).check
    r_s_1_0.pkt.hd = none ∧ x.rspInj.length < 32) ∧
    (let n : ℕ := 5;
    let x : Niu := (S 0).m.niu n;
    (S 0).m.test.scan = false ∧ x.ctxs = []) ∧
    (let n : ℕ := 5;
    let x : Niu := (S 19).m.niu n;
    (S 19).m.test.scan = false ∧ (List.find? (fun (c : Ctx) => decide (c.src = (6#10).toNat ∧ c.flow = 9#16 ∧ c.msg = (3#8).toNat))
    x.ctxs = some c_s_19_0) ∧ c_s_19_0.ticks ≠ some 0) ∧
    (let n : ℕ := 5;
    let x : Niu := (S 17).m.niu n;
    (S 17).m.test.scan = false ∧ (List.find? (fun (c : Ctx) => decide (c.src = (6#10).toNat ∧ c.flow = 9#16 ∧ c.msg = (3#8).toNat))
    x.ctxs = some c_s_17_0) ∧ c_s_17_0.ticks = some 0 ∧ c_s_17_0.isOf c_s_17_0.hd = true) ∧
    (let n : ℕ := 5;
    let x : Niu := (S 18).m.niu n;
    (S 18).m.test.scan = false ∧ (List.find? (fun (c : Ctx) => decide (c.src = (6#10).toNat ∧ c.flow = 9#16 ∧ c.msg = (3#8).toNat))
    x.ctxs = some c_s_18_0) ∧ c_s_18_0.ticks = some 0 ∧ c_s_18_0.isOf c_s_18_0.hd = true) :=
  by and_intros <;> decide +kernel

end TargetSide

namespace ClockEvents

def states : List Machine.State :=
  [st up,
   st { up with clk := { up.clk with mode := 1 }, spine := { up.spine with lock := .locked } },
   st { up with clk := { up.clk with fstop := true } },
   st { up with clk := { up.clk with astop := true } },
   st { up with pwr := { up.pwr with aonUp := false } },
   st { up with pchan := [(127, ⟨[2], [], false, false⟩)] },
   st { up with pchan := [(127, ⟨[2], [3], false, true⟩)] }]
def S (i : Nat) : Machine.State := states.getD i (st up)

/-- The hypotheses of `Obligations.ClockEvents` met, clause by clause. -/
theorem wit_ClockEvents :
    (let m : Mach := (S 0).m;
    (∀ (i : ℕ) (q : FRec), i < 64 → m.frec i = some q → q.cls ≠ 14) ∧ m.test.scan = false ∧ m.clk.fstop = false ∧ m.clk.astop = false ∧
    m.pwr.aonUp = true ∧ m.safe = false ∧ m.frec 0 = none ∧ bt (m.reg 851976) 62 = false ∧ m.pulseMode = false) ∧
    (let m : Mach := (S 0).m;
    m.test.scan = false ∧ 3#2 = 3 ∧ m.pwr.aonUp = true) ∧
    (let m : Mach := (S 0).m;
    m.test.scan = false ∧ 0#2 ≠ 3 ∧ (0#2).toNat = m.clk.mode) ∧
    (let m : Mach := (S 0).m;
    m.test.scan = false ∧ 1#2 ≠ 3 ∧ (1#2).toNat ≠ m.clk.mode ∧ m.pwr.aonUp = true) ∧
    (let m : Mach := (S 1).m;
    m.test.scan = false ∧ 0#2 ≠ 3 ∧ (0#2).toNat ≠ m.clk.mode ∧ m.pwr.aonUp = true ∧ m.hasSpine = true ∧ m.spine.lock = Lock.locked) ∧
    (let m : Mach := (S 2).m;
    m.test.scan = false ∧ (m.clk.fstop = true ∨ m.clk.astop = true)) ∧
    (let m : Mach := (S 4).m;
    m.test.scan = false ∧ m.clk.fstop = false ∧ m.clk.astop = false ∧ m.pwr.aonUp = false) ∧
    (let m : Mach := (S 2).m;
    m.test.scan = false ∧ (m.clk.astop = true ∨ m.clk.fstop = true)) ∧
    (let m : Mach := (S 5).m;
    let ch : Chan ℕ := Tab.get dChan m.pchan 127;
    m.test.scan = false ∧ m.clk.fstop = false ∧ m.clk.astop = false ∧ m.pwr.aonUp = true ∧ ch.fly = [2] ∧ ch.flyOvf = false ∧ (m.eng
    0).state ≠ EngSt.off ∧ (m.eng 0).evq.length < 32) ∧
    (let m : Mach := (S 6).m;
    let ch : Chan ℕ := Tab.get dChan m.pchan 127;
    m.test.scan = false ∧ m.clk.fstop = false ∧ m.clk.astop = false ∧ m.pwr.aonUp = true ∧ ch.fly = [2] ∧ ch.flyOvf = true) ∧
    (let m : Mach := (S 0).m;
    let ch : Chan ℕ := Tab.get dChan m.pchan 127;
    m.test.scan = false ∧ (m.clk.fstop = true ∨ m.clk.astop = true ∨ m.pwr.aonUp = false ∨ ch.fly = [])) :=
  ⟨by
    intro m
    exact ⟨(by intro i q _ h; cases h), by decide +kernel⟩,
   by and_intros <;> decide +kernel⟩

end ClockEvents

namespace TestAccess

def te (t : BitVec 8) (r f : List Nat) (m : Mach := up) : Machine.State := st
  { m with test := { m.test with tap := t, run := r, refus := f } }
def states : List Machine.State :=
  [te 1 [] [],
   te 3 [] [],
   te 16 [] [] (up.modDom 127 (fun d => { d with st := .fenced })),
   te 16 [] [],
   te 1 [127] [],
   te 1 [128] [] (up.modEng 1 (fun x => { x with sram := [(3, 4)], bad := [8] })),
   te 1 [132] [],
   te 1 [127] [] (up.modNiu 508 (fun y => { y with fc := [⟨9, 5, none, false, false, false, false, false, false, false, false⟩] }))]
def S (i : Nat) : Machine.State := states.getD i (st up)

/-- The hypotheses of `Obligations.TestAccess` met, clause by clause. -/
theorem wit_TestAccess :
    (let m : Mach := (S 0).m;
    m.test.scan = false ∧ (1#8 = 1 ∨ 1#8 = 2 ∨ 1#8 = 16) ∧ 1#8 = 1) ∧
    (let m : Mach := (S 1).m;
    let x : TestAcc := m.test;
    m.test.scan = false ∧ (2#8 = 1 ∨ 2#8 = 2 ∨ 2#8 = 16) ∧ 2#8 ≠ 1 ∧ x.tap ≠ 1) ∧
    (let m : Mach := (S 0).m;
    let x : TestAcc := m.test;
    m.test.scan = false ∧ (1#8 = 1 ∨ 1#8 = 2 ∨ 1#8 = 16) ∧ x.tap ≠ 16) ∧
    (let m : Mach := (S 0).m;
    m.test.scan = false ∧ 0#8 ≠ 1 ∧ 0#8 ≠ 2 ∧ 0#8 ≠ 3 ∧ 0#8 ≠ 4 ∧ 0#8 ≠ 16) ∧
    (let m : Mach := (S 1).m;
    let x : TestAcc := m.test;
    m.test.scan = false ∧ (3#8 = 3 ∨ 3#8 = 4) ∧ (x.tap = 3 ∨ x.tap = 4)) ∧
    (let m : Mach := (S 0).m;
    let x : TestAcc := m.test;
    m.test.scan = false ∧ (3#8 = 3 ∨ 3#8 = 4) ∧ (¬(x.tap = 3 ∨ x.tap = 4))) ∧
    (let m : Mach := (S 2).m;
    let x : TestAcc := m.test;
    m.test.scan = false ∧ x.tap = 16 ∧ (m.dom 127).st = DSt.fenced ∧ x.run.contains 127 = false) ∧
    (let m : Mach := (S 2).m;
    let x : TestAcc := m.test;
    m.test.scan = false ∧ x.tap = 16 ∧ (m.dom 128).st ≠ DSt.fenced ∧ x.refus.contains 128 = false) ∧
    (let m : Mach := (S 0).m;
    let x : TestAcc := m.test;
    m.test.scan = false ∧ x.run.contains 127 = false) ∧
    (let m : Mach := (S 5).m;
    let x : TestAcc := m.test;
    m.test.scan = false ∧ x.run.contains 128 = true ∧ 128 ≤ 128 ∧ 128 < 132 ∧ 0 ≠ 128 - 127) ∧
    (let m : Mach := (S 5).m;
    let x : TestAcc := m.test;
    m.test.scan = false ∧ x.run.contains 128 = true ∧ 128 ≤ 128 ∧ 128 < 132 ∧ (8 < 8 * (128 - 128) ∨ 8 * (128 - 128) + 8 ≤ 8)) ∧
    (let m : Mach := (S 6).m;
    let x : TestAcc := m.test;
    m.test.scan = false ∧ x.run.contains 132 = true ∧ 132 = 132 ∧ 1 ≠ 0) ∧
    (let m : Mach := (S 4).m;
    let x : TestAcc := m.test;
    m.test.scan = false ∧ x.run.contains 127 = true ∧ 127 < 128) :=
  by and_intros <;> decide +kernel

end TestAccess

namespace FlowTableWrite

def ce (f : BitVec 16) (d : Bool) : FcE := ⟨f, mkf 512 0 1 1 ||| mkf 512 1 10 5, none, false, d, false, false, false, false,
  false, false⟩
def on (f : Niu → Niu) : Machine.State := st ((up.setReg 0x48 1).modNiu 5 f)
def off (f : Niu → Niu) : Machine.State := st (up.modNiu 5 f)
def states : List Machine.State :=
  [st up,
   on id,
   on (fun y => { y with fc := [ce 9 false] }),
   off (fun y => { y with fc := [ce 9 true] }),
   on (fun y => { y with fc := [ce 9 true] }),
   off (fun y => { y with fc := [ce 9 false] }),
   on (fun y => { y with fc := [{ ce 9 false with dirtyS := true }, { ce 8 false with pinned := true }], pins := [8] })]
def all_c : List FcE := [ce 9 false, ce 9 true]
def S (i : Nat) : Machine.State := states.getD i (st up)
def c_0 : FcE := all_c[0]'(by decide +kernel)
def fc_6 : FcE := ((after (Instr.flowTblWrite 0x12345678000#64) (S 6)).m.niu 5).fc[0]'(by decide +kernel)

/-- The hypotheses of `Obligations.FlowTableWrite` met, clause by clause. -/
theorem wit_FlowTableWrite :
    (let was : Bool := (S 2).m.tblEn;
    (S 2).m.Calm ∧ (S 2).m.test.scan = false ∧ was ≠ bt (0x12345678000#64) 0 ∧ ((S 2).m.niu 5).entry c_0.flow = some c_0 ∧
    c_0.dflt = !was ∧ c_0.dirtyS = false ∧ c_0.dirtyR = false ∧ c_0.pinned = false ∧ ((S 2).m.niu 5).inUse
    c_0.flow = false ∧ (S 2).m.wbOut 5 c_0.flow = false) ∧
    (let was : Bool := (S 0).m.tblEn;
    (S 0).m.Calm ∧ (∀ (n : ℕ), ∀ c ∈ ((S 0).m.niu n).fc, c.dflt = was ∧ c.drop = false) ∧ (S 0).m.test.scan = false ∧ was ≠ bt
    (0xF012345678001#64) 0) ∧
    (let was : Bool := (S 0).m.tblEn;
    (S 0).m.test.scan = false ∧ was = bt (0x12345678000#64) 0) ∧
    (let was : Bool := (S 6).m.tblEn;
    (S 6).m.test.scan = false ∧ was ≠ bt (0x12345678000#64) 0 ∧ fc_6 ∈ ((after (Instr.flowTblWrite 0x12345678000#64) (S 6)).m.niu
    5).fc ∧ fc_6.dflt = !was) :=
  ⟨by
    intro was
    exact ⟨⟨calm_all (by decide +kernel), no_pin (by decide +kernel)⟩, by decide +kernel⟩,
   by
    intro was
    exact ⟨⟨calm_all (by decide +kernel), no_pin (by decide +kernel)⟩, niu_all (P := fun y => ∀ c ∈ y.fc, c.dflt = was ∧
        c.drop = false) (fun _ h => nomatch h) (by decide +kernel), by decide +kernel⟩,
   by and_intros <;> decide +kernel⟩

end FlowTableWrite

end Sys2Proof.Tests
end

/-! PROOFS. CAP and the read of CAP_UNITS (O8): both give the word that the straps fix, which neither the fetch of the instruction
nor the read of the register changes. -/

namespace Sys2Proof.Machine

/-! ## The word of CAP_UNITS -/

/-- R2, R3: the word depends on the variant alone. -/
theorem Mach.capUnits_congr {a m : Mach} (h : a.straps = m.straps) : a.capUnits = m.capUnits := by
  unfold Mach.capUnits Mach.hasSpine Mach.hasMirror Mach.hasCombine Mach.hasEo
  rw [h]

@[simp] theorem Mach.capUnits_modEng (m : Mach) (e : Nat) (f : Eng → Eng) : (m.modEng e f).capUnits = m.capUnits :=
  Mach.capUnits_congr (m.straps_modEng e f)

/-- R313: reading an SRAM word counts a corrected error at most. -/
@[simp] theorem Mach.straps_readSram (m : Mach) (e a : Nat) : (m.readSram e a).straps = m.straps := by
  unfold Mach.readSram
  split <;> rfl

@[simp] theorem Mach.straps_readPc (m : Mach) (e : Nat) : (m.readPc e).straps = m.straps := by
  unfold Mach.readPc
  split
  · rfl
  · exact m.straps_readSram _ _

@[simp] theorem Mach.capUnits_readPc (m : Mach) (e : Nat) : (m.readPc e).capUnits = m.capUnits :=
  Mach.capUnits_congr (m.straps_readPc e)

/-! ## CAP -/

@[simp] theorem Eng.reg_setReg (x : Eng) (i : Nat) (w : Word) : (x.setReg i w).reg i = w := Tab.get_set _ _ _

@[simp] theorem Eng.reg_past (x : Eng) (w : Word) (i : Nat) : (x.past w).reg i = x.reg i := rfl

/-- R3, R364: CAP writes the word to its register and moves past itself. -/
theorem DoesAt.cap {s : State} {e : EngId} {w : Word} (h : Issues s e w 0xF0) :
    DoesAt (.cap e) s e (((s.m.eng e).setReg (wD w) s.m.capUnits).past w) (s.m.readPc e) := by
  refine DoesAt.issue rfl h rfl (fun a ha haeq => ?_)
  have hcap : a.capUnits = s.m.capUnits := by simp [haeq]
  rw [hcap]
  exact (ha.mod _).stepPc e.isLt

/-! ## An access that the register port takes -/

/-- R467 to R469: an access taken at once and not refused is carried out, and answered with OK. -/
theorem State.hostAccess_takes {s : State} {a : Nat} (h : Takes s a) (w : Option Word) {pr priv : Bool}
    (hp : (pr && !priv) = false) (mid : BitVec 16) (act : State → Word × Mach) :
    s.hostAccess a w pr priv mid act = (act s).2.answerTo a 0 (if w.isSome then 0 else (act s).1) := by
  obtain ⟨-, hup, hal, hfar, hlive⟩ := h
  rw [← State.carry_live s a w act hlive]
  unfold State.hostAccess
  cases hf : farAddr a with
  | false => simp [hup, hal, hp]
  | true =>
    obtain ⟨hnone, hrun⟩ := hfar hf
    simp [hup, hal, hp, hnone, hrun]

/-- A read that the port takes, of a register that is not privileged, presents the register's word. -/
theorem exec_clearingRead_takes {s : State} {a : BitVec 24} (h : Takes s a.toNat) (hp : addrPriv a.toNat = false) (priv : Bool)
    (mid : BitVec 16) : ∃ u, exec (.clearingRead a priv mid) s = .next u ∧ u.m.rp.rsp = some (0, (s.readReg a.toNat).1) := by
  refine ⟨_, State.on_eq h.1 (fun _ => s.hostAccess a.toNat none (addrPriv a.toNat) priv mid (fun s => s.portRead a.toNat)), ?_⟩
  rw [State.hostAccess_takes h none (by rw [hp]; rfl)]
  exact Mach.answerTo_rsp ..

/-- R2, R474: CAP_UNITS at 0x08 of the near window always answers with the word. -/
theorem State.readReg_capUnits (s : State) : (s.readReg 0x08).1 = s.m.capUnits := by
  have hloc : locate 0x08 = some ⟨.capUnits, 0, 0⟩ := rfl
  have hnear : s.m.aonDead 0x08 = false := rfl
  unfold State.readReg
  simp only [Nat.reduceDiv, Nat.reduceMul, hloc, hnear]
  rfl

/-- Settles O8: CAP leaves the word in its register and the port answers the read with it. -/
theorem capAgrees : Obligations.CapAgrees := by
  intro s e w priv mid hissue htakes
  obtain ⟨t, ht, -, -, hlike⟩ := DoesAt.cap hissue
  obtain ⟨u, hu, hrsp⟩ := exec_clearingRead_takes (a := 0x08#24) htakes rfl priv mid
  refine ⟨t, u, ht, hu, ?_⟩
  calc u.m.rp.rsp = some (0, (s.readReg 0x08).1) := hrsp
    _ = some (0, s.m.capUnits) := by rw [State.readReg_capUnits]
    _ = some (0, (t.m.eng e).reg (wD w)) := by rw [hlike.engine, Eng.reg_past, Eng.reg_setReg]

end Sys2Proof.Machine

/-! PROOFS. A change of ep_inc outside port reset (O9): the pin takes the new value, INC_IGN is set, and nothing else moves. -/

namespace Sys2Proof.Machine

/-! ## Setting bits of a register -/

@[simp] theorem Mach.reg_orReg (m : Mach) (a v : Nat) : (m.orReg a v).reg a = m.reg a ||| BitVec.ofNat 64 v := m.reg_setReg _ _

theorem Mach.reg_orReg_ne (m : Mach) {a b : Nat} (v : Nat) (h : b ≠ a) : (m.orReg a v).reg b = m.reg b := m.reg_setReg_ne _ h

theorem bt_or {n : Nat} (a b : BitVec n) (i : Nat) : bt (a ||| b) i = (bt a i || bt b i) := BitVec.getLsbD_or

/-! ## EP_INC_CHANGE -/

/-- The machine after a change of ep_inc that R81 leaves uncaptured: the new pin, and INC_IGN of PORT_EVT. -/
def Mach.ignoreInc (m : Mach) (ep : Ep) (inc : BitVec 8) : Mach :=
  (m.modNiu ep (fun x => { x with incPin := inc })).orReg (aPort ep 0x18) (2 ^ 8)

@[simp] theorem Mach.niu_ignoreInc (m : Mach) (ep : Ep) (inc : BitVec 8) :
    (m.ignoreInc ep inc).niu ep = { m.niu ep with incPin := inc } := by
  rw [Mach.ignoreInc, Mach.niu_orReg, Mach.niu_modNiu]

theorem Mach.niu_ignoreInc_ne (m : Mach) {ep : Ep} {n : Nat} (inc : BitVec 8) (h : n ≠ ep.val) :
    (m.ignoreInc ep inc).niu n = m.niu n := by
  rw [Mach.ignoreInc, Mach.niu_orReg, Mach.niu_modNiu_ne _ _ h]

@[simp] theorem Mach.reg_ignoreInc (m : Mach) (ep : Ep) (inc : BitVec 8) :
    (m.ignoreInc ep inc).reg (aPort ep 0x18) = m.reg (aPort ep 0x18) ||| 256 := by
  rw [Mach.ignoreInc, Mach.reg_orReg, Mach.reg_modNiu]
  rfl

theorem Mach.reg_ignoreInc_ne (m : Mach) {ep : Ep} {a : Nat} (inc : BitVec 8) (h : a ≠ aPort ep 0x18) :
    (m.ignoreInc ep inc).reg a = m.reg a := by
  rw [Mach.ignoreInc, Mach.reg_orReg_ne _ _ h, Mach.reg_modNiu]

/-- R81: a change outside port reset, at a port whose tile domain is live, is not captured. -/
theorem exec_epIncChange_ignored {s : State} {ep : Ep} {inc : BitVec 8} (hscan : s.m.test.scan = false)
    (hlive : s.m.domLive (epTile ep) = true) (hrst : (s.m.niu ep).rstN = true) (hinc : (s.m.niu ep).incPin ≠ inc) :
    exec (.epIncChange ep inc) s = .next { s with m := s.m.ignoreInc ep inc } := by
  have hignored : ((s.m.niu ep).rstN && (s.m.niu ep).incPin != inc && s.m.domLive (epTile ep)) = true := by
    simp [hlive, hrst, hinc]
  change execEpIncChange ep inc s = _
  rw [execEpIncChange, State.on_eq hscan]
  simp only [hignored, if_true, Mach.ignoreInc]

/-- Settles O9: the one state that the change leads to, read unit by unit and register by register. -/
theorem incarnationChange : Obligations.IncarnationChange := by
  intro s ep inc hscan hlive hrst hinc
  have hstands : ((s.m.ignoreInc ep inc).niu ep).inc = (s.m.niu ep).inc := by rw [Mach.niu_ignoreInc]
  have hincIgn : bt ((s.m.ignoreInc ep inc).reg (aPort ep 0x18)) 8 = true := by
    have hbit : bt (256 : Word) 8 = true := by decide
    rw [Mach.reg_ignoreInc, bt_or, hbit, Bool.or_true]
  exact ⟨_, exec_epIncChange_ignored hscan hlive hrst hinc, hstands, hincIgn, s.m.niu_ignoreInc ep inc,
    fun _ hn => s.m.niu_ignoreInc_ne inc hn, fun _ ha => s.m.reg_ignoreInc_ne inc ha, s.m.reg_ignoreInc ep inc, rfl, rfl⟩

end Sys2Proof.Machine

/-! PROOFS. The conditions of JCC (O10): the jump is taken on the table's condition, the reserved code is no instruction, and V tells
how a try form ended. -/

namespace Sys2Proof.Machine

/-! ## JCC -/

/-- R348, R349: with its condition true, JCC jumps to a target that is a multiple of 8. -/
theorem DoesAt.jcc_taken {s : State} {e : EngId} {w : Word} (h : Issues s e w 0x03) (hcond : (s.m.eng e).cond (wD w) = true)
    (htgt : jumpTarget (s.m.eng e) w % 8 = 0) :
    DoesAt (.jcc e) s e { s.m.eng e with insn := w, pc := sf (s.m.eng e).pc 0 48 (jumpTarget (s.m.eng e) w) } (s.m.readPc e) := by
  refine DoesAt.issue rfl h rfl (fun a ha _ => ?_)
  have htaken : (a.eng e).cond (wD w) = true := by rw [ha.engine]; exact hcond
  have hsame : jumpTarget (a.eng e) w = jumpTarget (s.m.eng e) w := by rw [ha.engine]; rfl
  rw [if_pos htaken, hsame]
  exact ha.jump e.isLt _ htgt id

/-- R349: with its condition false, JCC moves past itself, whatever its target. -/
theorem DoesAt.jcc_past {s : State} {e : EngId} {w : Word} (h : Issues s e w 0x03) (hcond : (s.m.eng e).cond (wD w) = false) :
    DoesAt (.jcc e) s e ((s.m.eng e).past w) (s.m.readPc e) := by
  refine DoesAt.issue rfl h rfl (fun a ha _ => ?_)
  have hnot : ¬ (a.eng e).cond (wD w) = true := by rw [ha.engine]; exact Bool.eq_false_iff.1 hcond
  rw [if_neg hnot]
  exact ha.stepPc e.isLt

theorem wD_lt (w : Word) : wD w < 16 := (w.extractLsb' 52 4).isLt

/-- R339, R350: condition code 15 is reserved. -/
theorem legalWord_jcc_reserved {w : Word} (hopc : wOpc w = 0x03) (hd : wD w = 15) : legalWord w = false := by
  have hused : usedBits w = none := by simp only [usedBits, hopc, hd, if_true]
  simp only [legalWord, hused]

/-- R350: the condition code of a JCC that is issued is one of the table's fifteen. -/
theorem Issues.jcc_code {s : State} {e : Nat} {w : Word} (h : Issues s e w 0x03) : wD w < 15 := by
  obtain ⟨-, -, hopc, hlegal, -⟩ := h
  have hne : wD w ≠ 15 := fun hd => by simp [legalWord_jcc_reserved hopc hd] at hlegal
  have := wD_lt w
  omega

/-! ## The flag V after a try form -/

theorem Mach.eng_stepPc (m : Mach) {e : Nat} (he : e < 5) : (m.stepPc e).eng e = { m.eng e with pc := (m.eng e).nextPc } := by
  rw [(m.stepPc_like he).eng, Mach.eng_modEng]

theorem Mach.eng_countEng (m : Mach) {e : Nat} (he : e < 5) (code : Nat) (sel tc : Option Nat) (k : Nat) (hd : FlitBits) (i : Nat) :
    (m.count (ctrEng e) 4 code sel tc k hd).eng i = m.eng i :=
  (m.like_count (by simp only [ctrEng]; omega) code sel tc k hd).eng i

/-- R344: a try form that ends with OK clears V, and one that ends with another status sets it. -/
theorem Mach.v_endStatus_try (m : Mach) {e : Nat} (he : e < 5) (st : Nat) (wr : List (Nat × Word))
    (htry : bt (m.eng e).insn 43 = true) : ((m.endStatus e st wr).eng e).v = decide (st ≠ 0) := by
  unfold Mach.endStatus
  by_cases hst : st = xOK
  · subst hst
    simp only [htry, if_true, Mach.eng_stepPc _ he, Mach.eng_modEng]
    rfl
  · have hne : decide (st ≠ 0) = true := decide_eq_true hst
    simp only [htry, hst, if_true, if_false, Mach.eng_stepPc _ he, Mach.eng_countEng _ he, Mach.eng_modEng, hne]

@[simp] theorem Eng.cond_vs (x : Eng) : x.cond 6 = x.v := rfl

@[simp] theorem Eng.cond_vc (x : Eng) : x.cond 7 = !x.v := rfl

/-- Settles O10: the model's condition is the table's, code by code. -/
theorem jumpConditions : Obligations.JumpConditions := by
  intro s e w x tgt holds
  refine ⟨fun hissue htgt => ?_, legalWord_jcc_reserved, fun m st wr htry => ?_⟩
  · have hcond : x.cond (wD w) = holds := by
      have hcode := hissue.jcc_code
      simp only [holds]
      generalize wD w = d at hcode
      interval_cases d <;> rfl
    cases hholds : holds with
    | true => exact DoesAt.jcc_taken hissue (hcond.trans hholds) htgt
    | false => exact DoesAt.jcc_past hissue (hcond.trans hholds)
  · have hv := m.v_endStatus_try e.isLt st wr htry
    constructor
    · rw [Eng.cond_vs, hv]
    · rw [Eng.cond_vc, hv, decide_not, Bool.not_not]

end Sys2Proof.Machine

/-! PROOFS. What a command can do to a state, said once (O5, O6, O2, O3): outside scan mode it changes the machine, or one guard as
the guard's locks allow, or it is the global reset of R368; the queue behind it stays. -/

namespace Sys2Proof.Machine

/-! ## What the locks of a guard allow -/

/-- R307: guard `g` may become `h`. -/
structure Guard.Allows (g h : Guard) : Prop where
  lock  : ∀ i, bt g.lock i = true → bt h.lock i = true
  words : ∀ k, bt g.lock (k / 4) = true → Tab.get dW0 h.words k = Tab.get dW0 g.words k
  deny  : bt g.lock 16 = true → h.deny = g.deny

theorem Guard.Allows.refl (g : Guard) : g.Allows g := ⟨fun _ h => h, fun _ _ => rfl, fun _ => rfl⟩

theorem Guard.Allows.trans {a b c : Guard} (h : a.Allows b) (k : b.Allows c) : a.Allows c where
  lock i hi := k.lock i (h.lock i hi)
  words i hi := (k.words i (h.lock _ hi)).trans (h.words i hi)
  deny hi := (k.deny (h.lock _ hi)).trans (h.deny hi)

/-- The four words of region `r` written. -/
def Guard.setRegion (g : Guard) (r : Nat) (d : Nat → Word) : Guard :=
  { g with words := (List.range 4).foldl (fun t i => Tab.set dW0 t (4 * r + i) (d i)) g.words }

theorem Tab.get_writes_ne {α : Type} [DecidableEq α] {z : Nat → α} (d : Nat → α) (b : Nat) {k : Nat} (l : List Nat)
    (h : ∀ i ∈ l, k ≠ b + i) (t : Tab α) : Tab.get z (l.foldl (fun t i => Tab.set z t (b + i) (d i)) t) k = Tab.get z t k := by
  induction l generalizing t with
  | nil => rfl
  | cons i l ih =>
    rw [List.foldl_cons, ih (fun j hj => h j (List.mem_cons_of_mem _ hj)), Tab.get_set_ne _ _ (h i List.mem_cons_self)]

theorem Tab.wf_writes {α : Type} [DecidableEq α] {z : Nat → α} (d : Nat → α) (b : Nat) (l : List Nat) {t : Tab α}
    (h : Tab.wf z t = true) : Tab.wf z (l.foldl (fun t i => Tab.set z t (b + i) (d i)) t) = true := by
  induction l generalizing t with
  | nil => exact h
  | cons i l ih => exact ih (Tab.wf_set h _ _)

/-- R305: a region that is not locked may be written. -/
theorem Guard.allows_setRegion {g : Guard} {r : Nat} (h : bt g.lock r = false) (d : Nat → Word) : g.Allows (g.setRegion r d) where
  lock _ hi := hi
  words k hk := by
    refine Tab.get_writes_ne d (4 * r) _ (fun i hi hki => ?_) _
    have hi4 : i < 4 := List.mem_range.1 hi
    rw [show k / 4 = r by omega, h] at hk
    cases hk
  deny _ := rfl

theorem Guard.allows_setDeny {g : Guard} (h : bt g.lock 16 = false) (b : Bool) : g.Allows { g with deny := b } where
  lock _ hi := hi
  words _ _ := rfl
  deny hi := by rw [h] at hi; cases hi

theorem Guard.allows_addLock (g : Guard) (k : BitVec 17) : g.Allows { g with lock := g.lock ||| k } where
  lock i hi := by rw [bt_or, hi, Bool.true_or]
  words _ _ := rfl
  deny _ := rfl

/-! ## What a command leaves of the guards and the queue -/

/-- `t` may follow `s` short of global reset: the queue stays, each guard changes as its locks allow, and the guard configuration
keeps its form. -/
structure State.Follows (s t : State) : Prop where
  pending : t.pending = s.pending
  guard   : ∀ n, (s.guard n).Allows (t.guard n)
  form    : s.guardsWf = true → t.guardsWf = true

theorem State.Follows.refl (s : State) : s.Follows s := ⟨rfl, fun _ => .refl _, id⟩

theorem State.Follows.trans {a b c : State} (h : a.Follows b) (k : b.Follows c) : a.Follows c :=
  ⟨k.pending.trans h.pending, fun n => (h.guard n).trans (k.guard n), fun hw => k.form (h.form hw)⟩

/-- A change of the machine alone. -/
theorem State.follows_mach (s : State) (m : Mach) : s.Follows { s with m := m } := ⟨rfl, fun _ => .refl _, id⟩

theorem State.guardsWf_iff {s : State} :
    s.guardsWf = true ↔ Tab.wf dGuard s.guards = true ∧ ∀ e ∈ s.guards, Tab.wf dW0 e.2.words = true := by
  simp [State.guardsWf, List.all_eq_true]

theorem Tab.mem_of_find {α : Type} {t : Tab α} {k : Nat} {v : α} (h : Tab.find t k = some v) : (k, v) ∈ t := by
  induction t with
  | nil => cases h
  | cons e t ih =>
    obtain ⟨j, u⟩ := e
    rw [Tab.find] at h
    split at h
    next hj => cases h; subst hj; exact List.mem_cons_self
    next => exact List.mem_cons_of_mem _ (ih h)

/-- Each guard of a configuration in canonical form is in canonical form itself. -/
theorem State.wf_words {s : State} (h : s.guardsWf = true) (n : Nat) : Tab.wf dW0 (s.guard n).words = true := by
  rw [State.guard, Tab.get]
  cases hf : Tab.find s.guards n with
  | none => rfl
  | some g => exact (State.guardsWf_iff.1 h).2 _ (Tab.mem_of_find hf)

theorem Tab.mem_set {α : Type} [DecidableEq α] {d : Nat → α} {t : Tab α} {k : Nat} {v : α} {e : Nat × α}
    (h : e ∈ Tab.set d t k v) : e = (k, v) ∨ e ∈ t := by
  rw [Tab.set] at h
  split at h
  · exact .inr (List.mem_filter.1 h).1
  · exact Tab.mem_put h

/-- One guard changed as its locks allow, its words kept in canonical form. -/
theorem State.follows_setGuard {s : State} {n : Nat} {f : Guard → Guard} (hf : (s.guard n).Allows (f (s.guard n)))
    (hw : Tab.wf dW0 (s.guard n).words = true → Tab.wf dW0 (f (s.guard n)).words = true) : s.Follows (s.setGuard n f) where
  pending := rfl
  guard k := by
    by_cases hk : k = n
    · subst hk
      rw [show (s.setGuard k f).guard k = f (s.guard k) from Tab.get_upd ..]
      exact hf
    · rw [show (s.setGuard n f).guard k = s.guard k from Tab.get_upd_ne _ _ hk]
      exact .refl _
  form hs := by
    refine State.guardsWf_iff.2 ⟨Tab.wf_upd (State.guardsWf_iff.1 hs).1 _ _, fun e he => ?_⟩
    rcases Tab.mem_set he with rfl | he
    · exact hw (State.wf_words hs n)
    · exact (State.guardsWf_iff.1 hs).2 e he

/-- Issuing an instruction (R315, R339) adds nothing to what its meaning does to the guards and the queue. -/
theorem State.follows_issue {s : State} (e opc : Nat) (sel : Word → Bool) {body : Word → State → State}
    (hb : ∀ w u, State.Follows u (body w u)) : s.Follows (s.issue e opc sel body) := by
  unfold State.issue
  split
  · split
    · dsimp only
      split
      · exact (s.follows_mach _).trans (hb _ _)
      · exact s.follows_mach _
    · exact .refl s
  · exact s.follows_mach _

/-! ## The commands that change the guard configuration -/

/-- Outside scan mode the command answers a state that may follow; in scan mode it changes nothing. -/
def CmdFollows (c : Instr) (s : State) : Prop :=
  ∃ t, exec c s = .next (if s.m.test.scan then s else t) ∧ s.Follows t

theorem CmdFollows.mach {c : Instr} {s : State} (m : Mach)
    (h : exec c s = .next (if s.m.test.scan then s else { s with m := m })) : CmdFollows c s := ⟨_, h, s.follows_mach m⟩

theorem follows_gdSet (e : EngId) (s : State) : CmdFollows (.gdSet e) s := by
  refine ⟨_, rfl, State.follows_issue _ _ _ fun w u => ?_⟩
  dsimp only
  cases u.m.gate e false (gdScope e ((u.m.eng e).reg (wA w))) false with
  | some st => exact u.follows_mach _
  | none =>
    by_cases hal : wSadr w % 8 ≠ 0
    · rw [if_pos hal]; exact u.follows_mach _
    rw [if_neg hal]
    generalize u.m.readWords e (wSadr w) 4 = m
    cases gdEp ((u.m.eng e).reg (wA w)) with
    | none => exact u.follows_mach _
    | some ep =>
      dsimp only
      generalize m.descWord e w = d
      by_cases hok : (!gdDescOk (d 0) (d 1)) = true
      · rw [if_pos hok]; exact u.follows_mach _
      rw [if_neg hok]
      by_cases hlock : bt (State.guard { u with m := m } ep).lock (bf w 0 4) = true
      · rw [if_pos hlock]; exact u.follows_mach _
      rw [if_neg hlock]
      have hset : State.Follows { u with m := m } (State.setGuard { u with m := m } ep (fun g => g.setRegion (bf w 0 4) d)) :=
        State.follows_setGuard (Guard.allows_setRegion (Bool.eq_false_iff.2 hlock) d) (Tab.wf_writes d _ _)
      exact ((u.follows_mach m).trans hset).trans (State.follows_mach _ _)

theorem follows_gdSetDefault (e : EngId) (s : State) : CmdFollows (.gdSetDefault e) s := by
  refine ⟨_, rfl, State.follows_issue _ _ _ fun w u => ?_⟩
  dsimp only
  cases u.m.gate e false (gdScope e ((u.m.eng e).reg (wA w))) false with
  | some st => exact u.follows_mach _
  | none =>
    cases gdEp ((u.m.eng e).reg (wA w)) with
    | none => exact u.follows_mach _
    | some ep =>
      dsimp only
      by_cases hb : 2 ≤ ((u.m.eng e).reg (wB w)).toNat
      · rw [if_pos hb]; exact u.follows_mach _
      rw [if_neg hb]
      by_cases hlock : bt (u.guard ep).lock 16 = true
      · rw [if_pos hlock]; exact u.follows_mach _
      rw [if_neg hlock]
      exact (State.follows_setGuard (Guard.allows_setDeny (Bool.eq_false_iff.2 hlock) _) id).trans (State.follows_mach _ _)

theorem follows_gdLock (e : EngId) (s : State) : CmdFollows (.gdLock e) s := by
  refine ⟨_, rfl, State.follows_issue _ _ _ fun w u => ?_⟩
  dsimp only
  cases u.m.gate e false (gdScope e ((u.m.eng e).reg (wA w))) false with
  | some st => exact u.follows_mach _
  | none =>
    cases gdEp ((u.m.eng e).reg (wA w)) with
    | none => exact u.follows_mach _
    | some ep =>
      dsimp only
      by_cases hk : bf w 0 17 = 0
      · rw [if_pos hk]; exact u.follows_mach _
      rw [if_neg hk]
      exact (State.follows_setGuard (Guard.allows_addLock _ _) id).trans (State.follows_mach _ _)

theorem follows_rdreg (e : EngId) (s : State) : CmdFollows (.rdreg e) s :=
  ⟨_, rfl, State.follows_issue _ _ _ fun _ u => u.follows_mach _⟩

/-! ## Instance reset -/

/-- The commands that can put the whole chip into global reset (R368, R379, R477). -/
def resets : Instr → Bool
  | .porAssert => true
  | .supplyLoss d => decide (d.dom.val = 132)
  | .tapInstructionChange op => decide (op = 3 ∨ op = 4)
  | _ => false

@[simp] theorem tap_capture (t : TestAcc) (m : Mach) (f : Nat) : (t.capture m f).tap = t.tap := by
  unfold TestAcc.capture
  split <;> rfl

/-- EXTEST and CLAMP have the opcodes 3 and 4 (R476). -/
theorem tapOf_holds {op : BitVec 8} (h : tapOf op = 3 ∨ tapOf op = 4) : op = 3 ∨ op = 4 := by
  unfold tapOf at h
  split at h
  · exact h
  · rcases h with h | h <;> cases h

/-- A supply loss outside the always-on domain opens one domain (R379). -/
theorem follows_supplyLoss {d : FeedAt} (h : d.dom.val ≠ 132) (s : State) : CmdFollows (.supplyLoss d) s := by
  refine ⟨if (!s.m.stuckFeed d.dom d.volt.toNat 88) = true then s else { s with m := s.m.openDom d.dom 2 }, ?_, ?_⟩
  · change execSupplyLoss d s = _
    rw [execSupplyLoss, if_neg h]
    cases s.m.test.scan <;> rfl
  · split
    · exact .refl s
    · exact s.follows_mach _

/-- An instruction of the test port other than EXTEST and CLAMP changes the test port alone. -/
theorem follows_tapInstructionChange {op : BitVec 8} (h : ¬(op = 3 ∨ op = 4)) (s : State) :
    CmdFollows (.tapInstructionChange op) s := by
  refine ⟨_, rfl, ?_⟩
  dsimp only
  split
  · next hholds =>
    simp only [TestAcc.holds, tap_capture, Bool.and_eq_true, decide_eq_true_eq] at hholds
    exact absurd (tapOf_holds hholds.1) h
  · exact s.follows_mach _

/-! ## Every command -/

/-- The commands with an answer of their own form: scan mode does not hold them, or they can stop the run (R76). -/
def special : Instr → Bool
  | .porAssert | .scanModeChange _ | .trspBeat .. => true
  | _ => false

theorem cmdFollows {c : Instr} (hr : resets c = false) (hx : special c = false) (s : State) : CmdFollows c s := by
  cases c
  case gdSet e => exact follows_gdSet e s
  case gdSetDefault e => exact follows_gdSetDefault e s
  case gdLock e => exact follows_gdLock e s
  case rdreg e => exact follows_rdreg e s
  case supplyLoss d => exact follows_supplyLoss (of_decide_eq_false hr) s
  case tapInstructionChange op => exact follows_tapInstructionChange (of_decide_eq_false hr) s
  case porAssert => cases hx
  case scanModeChange => cases hx
  case trspBeat => cases hx
  all_goals exact CmdFollows.mach _ rfl

/-- A command that can reset ends as any other or with no guard configuration. -/
theorem exec_resets {c : Instr} (hr : resets c = true) (hx : special c = false) (s : State) :
    ∃ t, exec c s = .next (if s.m.test.scan then s else t) ∧ t.pending = s.pending ∧ (s.Follows t ∨ t.guards = []) := by
  cases c
  case supplyLoss d =>
    refine ⟨if s.m.stuckFeed d.dom d.volt.toNat 88 then s.instReset else s, ?_, ?_, ?_⟩
    · change execSupplyLoss d s = _
      rw [execSupplyLoss, if_pos (of_decide_eq_true hr)]
      cases s.m.test.scan <;> cases s.m.stuckFeed d.dom d.volt.toNat 88 <;> rfl
    · split <;> rfl
    · split
      · exact .inr rfl
      · exact .inl (.refl s)
  case tapInstructionChange op =>
    refine ⟨_, rfl, ?_⟩
    dsimp only
    split
    · exact ⟨rfl, .inr rfl⟩
    · exact ⟨rfl, .inl (s.follows_mach _)⟩
  case porAssert => cases hx
  all_goals cases hr

/-- A target response is taken or stops the run, the latter where its TTAG is not in use (R76). -/
theorem exec_trspBeat (ep : Ep) (d : BeatBits) (l : Bool) (s : State) :
    (∃ m, exec (.trspBeat ep d l) s = .next (if s.m.test.scan then s else { s with m := m })) ∨
    (exec (.trspBeat ep d l) s = .fault .strayTargetResponse ∧ s.m.test.scan = false ∧
      Tab.get dNone (s.m.niu ep).tt (bf (((s.m.niu ep).trsp.map Prod.fst).getD d) 40 8) = none) := by
  change (∃ m, execTrspBeat ep d l s = _) ∨ (execTrspBeat ep d l s = _ ∧ _)
  unfold execTrspBeat
  dsimp only
  cases hscan : s.m.test.scan with
  | true => exact .inl ⟨s.m, rfl⟩
  | false =>
    by_cases hc : (false || !s.m.domLive (epTile ep) || !(s.m.niu ep).runs || !(s.m.niu ep).rspRoom) = true
    · rw [if_pos hc]; exact .inl ⟨s.m, rfl⟩
    rw [if_neg hc]
    cases ht : Tab.get dNone (s.m.niu ep).tt (bf (((s.m.niu ep).trsp.map Prod.fst).getD d) 40 8) with
    | none => exact .inr ⟨rfl, rfl, rfl⟩
    | some t => cases l <;> exact .inl ⟨_, rfl⟩

/-! ## The statements about every command -/

/-- A command that can stop the run is a target response. -/
theorem exec_completes {c : Instr} (hc : ∀ ep d l, c ≠ .trspBeat ep d l) (s : State) :
    ∃ t, exec c s = .next t ∧ t.pending = s.pending := by
  cases hx : special c with
  | true =>
    cases c
    case porAssert => exact ⟨_, rfl, rfl⟩
    case scanModeChange => exact ⟨_, rfl, rfl⟩
    case trspBeat ep d l => exact absurd rfl (hc ep d l)
    all_goals cases hx
  | false =>
    cases hr : resets c with
    | false =>
      obtain ⟨t, ht, hf⟩ := cmdFollows hr hx s
      refine ⟨_, ht, ?_⟩
      split
      · rfl
      · exact hf.pending
    | true =>
      obtain ⟨t, ht, hp, -⟩ := exec_resets hr hx s
      refine ⟨_, ht, ?_⟩
      split
      · rfl
      · exact hp

/-- Settles O2: every command's answer, a stray target response apart. -/
theorem everyCommandCompletes : Obligations.EveryCommandCompletes := by
  refine ⟨fun c s hc => exec_completes hc s, fun ep d l s => ?_⟩
  rcases exec_trspBeat ep d l s with ⟨m, h⟩ | ⟨h, -, hnone⟩
  · refine .inl ⟨_, h, ?_⟩
    split <;> rfl
  · exact .inr ⟨h, hnone⟩

/-- In scan mode a command other than pw_por_n and the end of scan mode changes nothing. -/
theorem exec_scan {c : Instr} (hp : c ≠ .porAssert) (hc : ∀ b, c ≠ .scanModeChange b) {s : State} (hs : s.m.test.scan = true) :
    exec c s = .next s := by
  cases hx : special c with
  | true =>
    cases c
    case porAssert => exact absurd rfl hp
    case scanModeChange b => exact absurd rfl (hc b)
    case trspBeat ep d l =>
      rcases exec_trspBeat ep d l s with ⟨m, h⟩ | ⟨-, h, -⟩
      · rw [h, if_pos hs]
      · rw [hs] at h; cases h
    all_goals cases hx
  | false =>
    cases hr : resets c with
    | false =>
      obtain ⟨t, ht, -⟩ := cmdFollows hr hx s
      rw [ht, if_pos hs]
    | true =>
      obtain ⟨t, ht, -⟩ := exec_resets hr hx s
      rw [ht, if_pos hs]

/-- Settles O3: scan mode holds every command but two, and the clock edges. -/
theorem scanMode : Obligations.ScanMode := by
  intro s hs
  refine ⟨fun c hp hc => exec_scan hp hc hs, fun b => rfl, ?_⟩
  rw [State.tick, if_pos hs]

/-! ## Every step -/

/-- A clock edge changes the machine alone. -/
theorem State.tick_follows (s : State) : s.Follows s.tick := by
  unfold State.tick
  split
  · exact .refl s
  split
  · exact s.follows_mach _
  split
  · exact s.follows_mach _
  · exact s.follows_mach _

/-- What a command's next state can be. -/
theorem exec_next {c : Instr} {s t : State} (h : exec c s = .next t) : s.Follows t ∨ resets c = true ∧ t.guards = [] := by
  have hscan {u : State} (ht : s.Follows u ∨ resets c = true ∧ u.guards = [])
      (hu : exec c s = .next (if s.m.test.scan then s else u)) : s.Follows t ∨ resets c = true ∧ t.guards = [] := by
    rw [hu] at h
    cases h
    split
    · exact .inl (.refl s)
    · exact ht
  cases hx : special c with
  | true =>
    cases c
    case porAssert => cases h; exact .inr ⟨rfl, rfl⟩
    case scanModeChange => cases h; exact .inl (s.follows_mach _)
    case trspBeat ep d l =>
      rcases exec_trspBeat ep d l s with ⟨m, hm⟩ | ⟨hf, -⟩
      · exact hscan (.inl (s.follows_mach m)) hm
      · rw [hf] at h; cases h
    all_goals cases hx
  | false =>
    rcases Bool.eq_false_or_eq_true (resets c) with hr | hr
    · obtain ⟨u, hu, -, hf⟩ := exec_resets hr hx s
      exact hscan (hf.imp id (fun hg => ⟨hr, hg⟩)) hu
    · obtain ⟨u, hu, hf⟩ := cmdFollows hr hx s
      exact hscan (.inl hf) hu

/-- What a step's next state can be: no reset, or one that the command at the front of the queue asks for. -/
theorem step_next {s t : State} (h : step s = .next t) :
    (∀ n, (s.guard n).Allows (t.guard n)) ∧ (s.guardsWf = true → t.guardsWf = true) ∨
      ∃ c rest, s.pending = c :: rest ∧ resets c = true ∧ t.guards = [] := by
  unfold step at h
  split at h
  · cases h
    exact .inl ⟨s.tick_follows.guard, s.tick_follows.form⟩
  · next c rest hp =>
    rcases exec_next h with hf | ⟨hr, hg⟩
    · exact .inl ⟨hf.guard, hf.form⟩
    · exact .inr ⟨c, rest, hp, hr, hg⟩

/-- Settles O6: a step keeps the form or leaves no guard configuration. -/
theorem guardFormKept : Obligations.GuardFormKept := by
  intro s t hwf h
  rcases step_next h with ⟨-, hf⟩ | ⟨-, -, -, -, hg⟩
  · exact hf hwf
  · rw [State.guardsWf, hg]; rfl

/-- A locked region keeps its four words. -/
theorem Guard.Allows.region {g h : Guard} (hgh : g.Allows h) {r : Nat} (hr : bt g.lock r = true) :
    h.start r = g.start r ∧ h.fin r = g.fin r ∧ ∀ k, k < 4 → h.rules r k = g.rules r k := by
  have hw (i : Nat) (hi : i < 4) : Tab.get dW0 h.words (4 * r + i) = Tab.get dW0 g.words (4 * r + i) :=
    hgh.words _ (by rwa [show (4 * r + i) / 4 = r by omega])
  refine ⟨hw 0 (by omega), hw 1 (by omega), fun k hk => ?_⟩
  have := hw (2 + k / 2) (by omega)
  rwa [← Nat.add_assoc] at this

/-- Settles O5: short of global reset each guard changes as its locks allow. -/
theorem locksHold : Obligations.LocksHold := by
  refine ⟨fun s t h hpor hloss htap n => ?_, fun s t h => ?_⟩
  · rcases step_next h with ⟨hallow, -⟩ | ⟨c, rest, hp, hr, -⟩
    · exact ⟨fun i _ => (hallow n).lock i, fun r _ hr => (hallow n).region hr, (hallow n).deny⟩
    · cases c
      case porAssert => exact absurd hp (hpor rest)
      case supplyLoss d =>
        obtain ⟨dom, v⟩ := d
        obtain rfl : dom = 132 := Fin.ext (of_decide_eq_true hr)
        exact absurd hp (hloss v rest)
      case tapInstructionChange op =>
        obtain ⟨h3, h4⟩ := htap op rest hp
        exact (of_decide_eq_true hr : op = 3 ∨ op = 4).elim (absurd · h3) (absurd · h4)
      all_goals cases hr
  · cases h; rfl

end Sys2Proof.Machine

/-! PROOFS. The laws of bit fields: what a field reads as after a write to it, to another, and in a word put together of fields. -/

namespace Sys2Proof.Machine

variable {n : Nat}

/-- A field is known by its bits. -/
theorem testBit_bf (w : BitVec n) (lo len i : Nat) : (bf w lo len).testBit i = (decide (i < len) && bt w (lo + i)) := by
  rw [bf, BitVec.testBit_toNat, BitVec.getLsbD_extractLsb', bt]

theorem bf_lt (w : BitVec n) (lo len : Nat) : bf w lo len < 2 ^ len := (w.extractLsb' lo len).isLt

/-- Two words agree in a field when they agree in its bits. -/
theorem bf_congr {k : Nat} {a : BitVec n} {b : BitVec k} {la lb len : Nat} (h : ∀ i < len, bt a (la + i) = bt b (lb + i)) :
    bf a la len = bf b lb len := by
  refine Nat.eq_of_testBit_eq fun i => ?_
  rw [testBit_bf, testBit_bf]
  by_cases hi : i < len
  · rw [h i hi]
  · simp [hi]

theorem bt_eq_of_bf_eq {k : Nat} {a : BitVec n} {b : BitVec k} {lo len : Nat} (h : bf a lo len = bf b lo len) {i : Nat} (hi : i < len) :
    bt a (lo + i) = bt b (lo + i) := by
  have := congrArg (fun x => x.testBit i) h
  simpa only [testBit_bf, hi, decide_true, Bool.true_and] using this

theorem bt_sf (w : BitVec n) {lo len : Nat} (h : lo + len ≤ n) (v i : Nat) :
    bt (sf w lo len v) i = if lo ≤ i ∧ i < lo + len then v.testBit (i - lo) else bt w i := by
  unfold sf bt
  rw [BitVec.getLsbD_or, BitVec.getLsbD_and, BitVec.getLsbD_not, BitVec.getLsbD_ofNat, BitVec.getLsbD_ofNat,
    Nat.testBit_shiftLeft, Nat.testBit_shiftLeft, Nat.testBit_two_pow_sub_one, Nat.testBit_mod_two_pow]
  by_cases hin : i < n
  · by_cases hlo : lo ≤ i
    · by_cases hhi : i < lo + len
      · have h1 : i - lo < len := by omega
        simp [hin, hlo, hhi, h1]
      · have h1 : ¬ i - lo < len := by omega
        simp [hin, hlo, hhi, h1]
    · simp [hin, hlo]
  · have hw : w.getLsbD i = false := BitVec.getLsbD_of_ge _ _ (by omega)
    have : ¬ (lo ≤ i ∧ i < lo + len) := by omega
    simp [hin, this, hw]

/-- The field written reads as the value written. -/
theorem bf_sf (w : BitVec n) {lo len : Nat} (h : lo + len ≤ n) (v : Nat) : bf (sf w lo len v) lo len = v % 2 ^ len := by
  refine Nat.eq_of_testBit_eq fun i => ?_
  rw [testBit_bf, bt_sf w h, Nat.testBit_mod_two_pow]
  by_cases hi : i < len
  · simp [hi]
  · simp [hi]

/-- A field that does not meet the one written stays. -/
theorem bf_sf_ne (w : BitVec n) {lo len : Nat} (h : lo + len ≤ n) (v : Nat) {l k : Nat} (hd : l + k ≤ lo ∨ lo + len ≤ l) :
    bf (sf w lo len v) l k = bf w l k :=
  bf_congr fun i hi => by rw [bt_sf w h, if_neg (by omega)]

theorem bt_sf_ne (w : BitVec n) {lo len : Nat} (h : lo + len ≤ n) (v : Nat) {i : Nat} (hd : i < lo ∨ lo + len ≤ i) :
    bt (sf w lo len v) i = bt w i := by rw [bt_sf w h, if_neg (by omega)]

theorem bf_or (a b : BitVec n) (lo len : Nat) : bf (a ||| b) lo len = bf a lo len ||| bf b lo len := by
  refine Nat.eq_of_testBit_eq fun i => ?_
  rw [Nat.testBit_or, testBit_bf, testBit_bf, testBit_bf, bt_or, Bool.and_or_distrib_left]

theorem bt_mkf {lo len : Nat} (h : lo + len ≤ n) (v i : Nat) :
    bt (mkf n lo len v) i = (decide (lo ≤ i) && decide (i < lo + len) && v.testBit (i - lo)) := by
  unfold mkf bt
  rw [BitVec.getLsbD_ofNat, Nat.testBit_shiftLeft, Nat.testBit_mod_two_pow]
  by_cases hin : i < n
  · by_cases hlo : lo ≤ i
    · have : (i - lo < len) = (i < lo + len) := by simp only [eq_iff_iff]; omega
      simp [hin, hlo, this]
    · simp [hlo]
  · have : ¬ i < lo + len := by omega
    simp [hin, this]

/-- A field put into a word under construction reads as its value. -/
theorem bf_mkf {lo len : Nat} (h : lo + len ≤ n) (v : Nat) : bf (mkf n lo len v) lo len = v % 2 ^ len := by
  refine Nat.eq_of_testBit_eq fun i => ?_
  rw [testBit_bf, bt_mkf h, Nat.testBit_mod_two_pow]
  by_cases hi : i < len
  · simp [hi]
  · simp [hi]

/-- The other fields read zero. -/
theorem bf_mkf_ne {lo len : Nat} (h : lo + len ≤ n) (v : Nat) {l k : Nat} (hd : l + k ≤ lo ∨ lo + len ≤ l) :
    bf (mkf n lo len v) l k = 0 := by
  refine Nat.eq_of_testBit_eq fun i => ?_
  rw [testBit_bf, bt_mkf h, Nat.zero_testBit]
  by_cases hi : i < k
  · have : ¬ (lo ≤ l + i ∧ l + i < lo + len) := by omega
    simp only [not_and] at this
    by_cases hlo : lo ≤ l + i
    · simp [this hlo]
    · simp [hlo]
  · simp [hi]

/-- The bits of a mask are those of its number. -/
theorem bt_ofNat (k i : Nat) : bt (BitVec.ofNat n k) i = (decide (i < n) && k.testBit i) := by
  rw [bt, BitVec.getLsbD_ofNat]

theorem bt_ofNat_two_pow {k : Nat} (h : k < n) (i : Nat) : bt (BitVec.ofNat n (2 ^ k)) i = decide (i = k) := by
  rw [bt_ofNat, Nat.testBit_two_pow]
  by_cases hi : i = k
  · subst hi; simp [h]
  · simp [hi, Ne.symm hi]

theorem bt_eq_bf (w : BitVec n) (i : Nat) : bt w i = decide (bf w i 1 = 1) := by
  have h := testBit_bf w i 1 0
  have hlt := bf_lt w i 1
  simp only [Nat.lt_one_iff, decide_true, Bool.true_and, Nat.add_zero] at h
  rw [← h, Nat.testBit_zero]
  congr 1
  simp only [eq_iff_iff]
  omega

end Sys2Proof.Machine

/-! PROOFS. The engine's own rows (O11 to O14): flow of control and its faults, arithmetic, SRAM and the line buffer. -/

namespace Sys2Proof.Machine

/-! ## Flow of control -/

/-- The machine in which an engine's row acts: the word at the program counter has been read and stands in the engine. -/
def Mach.issued (m : Mach) (e : Nat) (w : Word) : Mach := (m.readPc e).modEng e (fun x => { x with insn := w })

@[simp] theorem Mach.eng_issued (m : Mach) (e : Nat) (w : Word) : (m.issued e w).eng e = { m.eng e with insn := w } := by
  rw [Mach.issued, Mach.eng_modEng, Mach.eng_readPc]

/-- An engine row whose meaning leaves the machine that its statement names. -/
theorem Does.row {i : Instr} {s : State} {e opc : Nat} {w : Word} {m : Mach} {body : Word → Mach → Mach}
    (hx : exec i s = s.on (fun m => m.issue e opc anyWord body)) (h : Issues s e w opc) (hb : body w (s.m.issued e w) = m) :
    Does i s m := Does.issue hx h rfl (by rw [← hb]; exact .refl _)

/-- Settles O11: each row taken, with its target a multiple of 8, and not taken. -/
theorem flowOfControl : Obligations.FlowOfControl := by
  intro s e w x tgt
  refine ⟨fun h => ?_, fun h => ?_, fun h ht => ?_, fun h hc ht => DoesAt.jcc_taken h hc ht, fun h hc => DoesAt.jcc_past h hc,
    fun h ht => ?_, fun h ht => ?_, fun h hr ht => ?_, fun h hr => ?_⟩
  · exact DoesAt.issue rfl h rfl (fun a ha _ => ha.stepPc e.isLt)
  · exact DoesAt.issue rfl h rfl (fun a ha _ => ((ha.stepPc e.isLt).mod _).orReg (ctrAddr_aEng e _ (by omega)) _)
  · refine DoesAt.issue rfl h rfl (fun a ha _ => ?_)
    rw [ha.engine]
    exact ha.jump e.isLt _ ht id
  · refine DoesAt.issue rfl h rfl (fun a ha _ => ?_)
    rw [ha.engine]
    exact ha.jump e.isLt _ ht _
  · refine DoesAt.issue rfl h rfl (fun a ha _ => ?_)
    rw [ha.engine]
    exact ha.jump e.isLt _ ht id
  · refine DoesAt.issue rfl h rfl (fun a ha _ => ?_)
    have hgo : (a.eng e).reg (wD w) - 1 ≠ 0 := by rw [ha.engine]; exact hr
    dsimp only
    rw [if_pos hgo, ha.engine]
    exact ha.jump e.isLt _ ht _
  · refine DoesAt.issue rfl h rfl (fun a ha _ => ?_)
    have hzero : (a.eng e).reg (wD w) - 1 = 0 := by rw [ha.engine]; exact hr
    dsimp only
    rw [if_neg (not_not_intro hzero), hzero]
    exact (ha.mod _).stepPc e.isLt

/-! ## A halt with a fault code -/

/-- Reporting a fault occurrence changes the fault unit alone. -/
theorem Mach.occur_eq (m : Mach) (c k l o s n : Nat) : ∃ f, m.occur c k l o s n = m.modFlt f := by
  unfold Mach.occur
  split
  · exact ⟨_, rfl⟩
  · exact ⟨id, rfl⟩

/-- The engine, its fault registers and its pending bit at a halt, before the fault record (R324, R331). -/
def Mach.halting (m : Mach) (e code : Nat) : Mach :=
  ((((m.modEng e (fun x => { x with state := .fault, wait := .none, limit := none, fetch := none, stopReq := false })).setFld
    (aEng e 0x30) 0 4 code).setReg (aEng e 0x38) (m.eng e).insn).orReg (aEng e 0x58) (2 ^ 15)).releaseToken e

/-- A halt is that, the fault record, and at most an occurrence at the fault unit. -/
theorem Mach.haltFault_eq (m : Mach) (e code : Nat) : ∃ f, m.haltFault e code = ((m.halting e code).faultRecord e code).modFlt f := by
  have hinsn : (((m.modEng e (fun x => { x with state := .fault, wait := .none, limit := none, fetch := none, stopReq := false })).setFld
    (aEng e 0x30) 0 4 code).eng e).insn = (m.eng e).insn := by rw [Mach.eng_setFld, Mach.eng_modEng]
  unfold Mach.haltFault
  dsimp only
  rw [hinsn]
  change ∃ f, (if code = 10 then ((m.halting e code).faultRecord e code).occur 15 0 3 e 0 1
    else if code = 11 then ((m.halting e code).faultRecord e code).occur 15 1 3 e 0 1 else (m.halting e code).faultRecord e code) = _
  split
  · exact Mach.occur_eq ..
  split
  · exact Mach.occur_eq ..
  · exact ⟨id, rfl⟩

theorem Mach.releaseToken_eq (m : Mach) (e : Nat) :
    m.releaseToken e = { m with token := if m.token = some e then none else m.token } := by
  unfold Mach.releaseToken
  split <;> rfl

@[simp] theorem Mach.eng_releaseToken (m : Mach) (e k : Nat) : (m.releaseToken e).eng k = m.eng k := by
  rw [Mach.releaseToken_eq]; rfl

@[simp] theorem Mach.reg_releaseToken (m : Mach) (e a : Nat) : (m.releaseToken e).reg a = m.reg a := by
  rw [Mach.releaseToken_eq]; rfl

@[simp] theorem Mach.slot_releaseToken (m : Mach) (e k i : Nat) : (m.releaseToken e).slot k i = m.slot k i := by
  rw [Mach.releaseToken_eq]; rfl

@[simp] theorem Mach.eng_halting (m : Mach) (e code : Nat) : (m.halting e code).eng e =
    { m.eng e with state := .fault, wait := .none, limit := none, fetch := none, stopReq := false } := by
  simp [Mach.halting]

@[simp] theorem Mach.slot_halting (m : Mach) (e code k i : Nat) : (m.halting e code).slot k i = m.slot k i := by
  simp [Mach.halting]

@[simp] theorem Mach.token_halting (m : Mach) (e code : Nat) :
    (m.halting e code).token = if m.token = some e then none else m.token := by
  rw [Mach.halting, Mach.releaseToken_eq]; rfl

theorem aEng_ne {e a b : Nat} (h : a ≠ b) : aEng e a ≠ aEng e b := by unfold aEng; omega

/-- A field of a word made from a number. -/
theorem bf_ofNat {n k lo len : Nat} (hk : k < 2 ^ n) : bf (BitVec.ofNat n k) lo len = k / 2 ^ lo % 2 ^ len := by
  rw [bf, BitVec.extractLsb'_toNat, BitVec.toNat_ofNat, Nat.mod_eq_of_lt hk, Nat.shiftRight_eq_div_pow]

theorem extract_eq {n len : Nat} {r : BitVec n} {lo : Nat} {w : BitVec len} (h : bf r lo len = w.toNat) : r.extractLsb' lo len = w :=
  BitVec.eq_of_toNat_eq h

/-- The header of a fault record: VALID, its length, the code, the tag (R334). -/
def faultHdr (code : Nat) (post : BitVec 16) : Nat := 2 ^ 63 + 2 ^ 24 + (if code ≤ 14 then code else 15) * 2 ^ 20 + post.toNat

/-- The fault record of an engine that halts (R334). -/
def faultRec (m : Mach) (e code : Nat) : BitVec 256 :=
  BitVec.ofNat 256 (faultHdr code (m.eng e).post + (m.eng e).pc.toNat * 2 ^ 64 + (m.eng e).insn.toNat * 2 ^ 128 + m.ftNs * 2 ^ 192)

/-- The record's VALID bit, its tag, the program counter and the word (R334). -/
theorem faultRec_fields (m : Mach) (e code : Nat) :
    bf (faultRec m e code) 63 1 = 1 ∧ bf (faultRec m e code) 0 16 = (m.eng e).post.toNat ∧
    (faultRec m e code).extractLsb' 64 64 = (m.eng e).pc ∧ (faultRec m e code).extractLsb' 128 64 = (m.eng e).insn := by
  have hpost := (m.eng e).post.isLt
  have hpc := (m.eng e).pc.isLt
  have hinsn := (m.eng e).insn.isLt
  have hft : m.ftNs < 2 ^ 64 := Nat.mod_lt _ (by decide)
  have hcode : (if code ≤ 14 then code else 15) ≤ 15 := by split <;> omega
  have hlt : faultHdr code (m.eng e).post + (m.eng e).pc.toNat * 2 ^ 64 + (m.eng e).insn.toNat * 2 ^ 128 + m.ftNs * 2 ^ 192 < 2 ^ 256 := by
    unfold faultHdr; omega
  refine ⟨?_, ?_, extract_eq ?_, extract_eq ?_⟩ <;>
  · rw [faultRec, bf_ofNat hlt, faultHdr]
    omega

/-- The fault record goes into slot 15 where the slot is free (R334). -/
theorem Mach.faultRecord_free {m : Mach} {e : Nat} (code : Nat) (h : m.slot e 15 = none) :
    m.faultRecord e code = (m.setSlot e 15 (some (faultRec m e code))).modEng e (fun x => { x with post := x.post + 1 }) := by
  unfold Mach.faultRecord
  rw [h]
  rfl

/-- Otherwise it is marked as lost. -/
theorem Mach.faultRecord_lost {m : Mach} {e : Nat} (code : Nat) (h : m.slot e 15 ≠ none) :
    m.faultRecord e code = m.orReg (aEng e 0x30) (2 ^ 8) := by
  unfold Mach.faultRecord
  rw [Option.isNone_eq_false_iff.2 (Option.isSome_iff_ne_none.2 h)]
  rfl

/-- What the fault record leaves of the engine. -/
theorem Mach.eng_faultRecord (m : Mach) (e code : Nat) :
    ∃ p, (m.faultRecord e code).eng e = { m.eng e with post := p } ∧ (m.slot e 15 = none → p = (m.eng e).post + 1) := by
  by_cases h : m.slot e 15 = none
  · rw [Mach.faultRecord_free code h]
    exact ⟨_, by rw [Mach.eng_modEng, Mach.eng_setSlot], fun _ => rfl⟩
  · rw [Mach.faultRecord_lost code h]
    exact ⟨_, rfl, fun h' => absurd h' h⟩

@[simp] theorem Mach.token_faultRecord (m : Mach) (e code : Nat) : (m.faultRecord e code).token = m.token := by
  by_cases h : m.slot e 15 = none
  · rw [Mach.faultRecord_free code h]; rfl
  · rw [Mach.faultRecord_lost code h]; rfl

/-- What the fault record leaves of the registers: it may mark itself lost. -/
theorem Mach.reg_faultRecord (m : Mach) (e code a : Nat) : (m.faultRecord e code).reg a = m.reg a ∨
    a = aEng e 0x30 ∧ (m.faultRecord e code).reg a = m.reg a ||| 256 := by
  by_cases h : m.slot e 15 = none
  · rw [Mach.faultRecord_free code h]; exact .inl rfl
  · rw [Mach.faultRecord_lost code h]
    by_cases ha : a = aEng e 0x30
    · subst ha; exact .inr ⟨rfl, Mach.reg_orReg ..⟩
    · exact .inl (Mach.reg_orReg_ne _ _ ha)

/-- The registers of an engine that halts (R331, R334). -/
theorem Mach.reg_halting (m : Mach) (e code : Nat) :
    bf ((m.halting e code).reg (aEng e 0x30)) 0 4 = code % 16 ∧ (m.halting e code).reg (aEng e 0x38) = (m.eng e).insn ∧
    bt ((m.halting e code).reg (aEng e 0x58)) 15 = true := by
  unfold Mach.halting
  simp only [Mach.reg_releaseToken]
  refine ⟨?_, ?_, ?_⟩
  · rw [Mach.reg_orReg_ne _ _ (aEng_ne (by decide)), Mach.reg_setReg_ne _ _ (aEng_ne (by decide)), Mach.setFld, Mach.reg_setReg]
    exact bf_sf _ (by decide) _
  · rw [Mach.reg_orReg_ne _ _ (aEng_ne (by decide)), Mach.reg_setReg]
  · rw [Mach.reg_orReg, bt_or, bt_ofNat_two_pow (by decide)]
    simp

/-- What a halt with a fault code leaves (R324, R331, R334, R345). -/
theorem Mach.haltFault_leaves (m : Mach) (e : EngId) {code : Nat} (hcode : code < 16) :
    let x := m.eng e
    let t := m.haltFault e code
    (t.eng e).state = .fault ∧ (t.eng e).wait = .none ∧ (t.eng e).pc = x.pc ∧ (t.eng e).g = x.g ∧ (t.eng e).sram = x.sram ∧
    (t.eng e).evq = x.evq ∧ bf (t.reg (aEng e 0x30)) 0 4 = code ∧ t.reg (aEng e 0x38) = x.insn ∧
    bt (t.reg (aEng e 0x58)) 15 = true ∧ t.token ≠ some e.val ∧ (m.token ≠ some e.val → t.token = m.token) ∧
    (m.slot e 15 = none → ∃ r, t.slot e 15 = some r ∧ bf r 63 1 = 1 ∧ bf r 0 16 = x.post.toNat ∧
      r.extractLsb' 64 64 = x.pc ∧ r.extractLsb' 128 64 = x.insn ∧ (t.eng e).post = x.post + 1) ∧
    (m.slot e 15 ≠ none → t.slot e 15 = m.slot e 15 ∧ bt (t.reg (aEng e 0x30)) 8 = true) := by
  intro x t
  obtain ⟨f, hf⟩ := m.haltFault_eq e code
  obtain ⟨p, heng, hpost⟩ := (m.halting e code).eng_faultRecord e code
  obtain ⟨hcodeReg, hinsnReg, hpend⟩ := m.reg_halting e code
  have hlost (a : Nat) := (m.halting e code).reg_faultRecord e code a
  rw [Mach.eng_halting] at heng hpost
  rw [Mach.slot_halting] at hpost
  have ht : t = ((m.halting e code).faultRecord e code).modFlt f := hf
  clear_value t
  subst ht
  simp only [Mach.eng_modFlt, Mach.reg_modFlt, Mach.token_modFlt, Mach.slot_modFlt, heng, Mach.token_faultRecord, Mach.token_halting]
  refine ⟨trivial, trivial, rfl, rfl, rfl, rfl, ?_, ?_, ?_, ?_, ?_, fun hnone => ?_, fun hsome => ?_⟩
  · rw [Nat.mod_eq_of_lt hcode] at hcodeReg
    rcases hlost (aEng e 0x30) with h | ⟨-, h⟩
    · rw [h, hcodeReg]
    · rw [h, bf_or, hcodeReg]
      exact Nat.or_zero code
  · rcases hlost (aEng e 0x38) with h | ⟨h, -⟩
    · rw [h, hinsnReg]
    · exact absurd h (aEng_ne (by decide))
  · rcases hlost (aEng e 0x58) with h | ⟨h, -⟩
    · rw [h, hpend]
    · exact absurd h (aEng_ne (by decide))
  · split
    · nofun
    · assumption
  · intro h
    rw [if_neg h]
  · have hfields := faultRec_fields (m.halting e code) e code
    rw [Mach.eng_halting] at hfields
    obtain ⟨hvalid, htag, hpc, hinsn⟩ := hfields
    refine ⟨_, ?_, hvalid, htag, hpc, hinsn, hpost hnone⟩
    rw [Mach.faultRecord_free code ((m.slot_halting e code e 15).trans hnone), Mach.slot_modEng, Mach.slot_setSlot]
  · rw [Mach.faultRecord_lost code (by rwa [Mach.slot_halting])]
    refine ⟨(m.slot_halting e code e 15), ?_⟩
    rw [Mach.reg_orReg, bt_or, bt_ofNat_two_pow (by decide)]
    simp

/-! ## Faults of the engine's rows -/

/-- Settles O12: each row with its faulty operand, and what a halt leaves. -/
theorem engineFaults : Obligations.EngineFaults := by
  refine ⟨fun s e w => ?_, fun m e code hcode => m.haltFault_leaves e hcode⟩
  intro x tgt halts
  refine ⟨fun h ht => ?_, fun h hc ht => ?_, fun h ht => ?_, fun h ht => ?_, fun h hr ht => ?_, fun h => ?_, fun h ha => ?_,
    fun h ha => ?_⟩
  · refine Does.row rfl h ?_
    rw [Mach.eng_issued]
    exact Mach.jump_misaligned _ _ ht _
  · refine Does.row rfl h ?_
    rw [Mach.eng_issued, if_pos (by exact hc)]
    exact Mach.jump_misaligned _ _ ht _
  · refine Does.row rfl h ?_
    rw [Mach.eng_issued]
    exact Mach.jump_misaligned _ _ ht _
  · refine Does.row rfl h ?_
    rw [Mach.eng_issued]
    exact Mach.jump_misaligned _ _ ht _
  · refine Does.row rfl h ?_
    dsimp only
    rw [Mach.eng_issued, if_pos (by exact hr)]
    exact Mach.jump_misaligned _ _ ht _
  · exact Does.row rfl h rfl
  · refine Does.row rfl h ?_
    dsimp only
    rw [Mach.eng_issued, if_pos (by exact ha)]
    rfl
  · refine Does.row rfl h ?_
    dsimp only
    rw [Mach.eng_issued, if_pos (by exact ha)]
    rfl

/-! ## Arithmetic -/

/-- The second operand (R351). -/
theorem srcB_eq (x : Eng) (w : Word) :
    srcB x w = if bt w 42 then BitVec.ofNat 64 (bf w 0 32 <<< bf w 32 6) else x.reg (wB w) := rfl

/-- Settles O13: each row's result and flags; the overflow of a sum and of a difference, which the model takes from the signs, is that of
the exact result. -/
theorem arithmetic : Obligations.Arithmetic := by
  intro s e w x a b k sg shr mn mx imm
  have hcarry (c : Bool) : (if k = 0 then false else c) = (decide (k ≠ 0) && c) := by
    by_cases hk : k = 0 <;> simp [hk]
  refine ⟨fun h => ?_, fun h => ?_, fun h => ?_, fun h => ?_, fun h => ?_, fun h => ?_, fun h => ?_, fun h => ?_, fun h => ?_,
    fun h => ?_, fun h => ?_, fun h => ?_⟩
  · exact DoesAt.alu _ rfl h _ rfl
  · exact DoesAt.alu _ rfl h _ rfl
  · rw [← overflow_add]; exact DoesAt.alu _ rfl h _ rfl
  · rw [← overflow_sub]; exact DoesAt.alu _ rfl h _ rfl
  · exact DoesAt.alu _ rfl h _ rfl
  · exact DoesAt.alu _ rfl h _ rfl
  · exact DoesAt.alu _ rfl h _ rfl
  · rw [← hcarry]; exact DoesAt.alu _ rfl h _ rfl
  · rw [← hcarry]; exact DoesAt.alu _ rfl h _ rfl
  · rw [← overflow_sub]; exact DoesAt.alu _ rfl h _ rfl
  · exact DoesAt.alu _ rfl h _ rfl
  · exact DoesAt.alu _ rfl h _ rfl

/-! ## SRAM -/

theorem Mach.LikeAt.addFld {a m : Mach} {e : Nat} {x : Eng} (h : a.LikeAt e x m) {k : Nat} (hk : ctrAddr k = false)
    (lo len v : Nat) : (a.addFld k lo len v).LikeAt e x (m.addFld k lo len v) :=
  h.upd (fun y => y.addFld k lo len v) (fun _ => Mach.Like.refl _) (fun _ _ hl => hl.addFld hk lo len v)

/-- The read of an SRAM word by an engine with the same correctable words (R313). -/
theorem Mach.LikeAt.readSram {a m : Mach} {e : EngId} {x : Eng} (h : a.LikeAt e x m) (hx : x.soft = (m.eng e).soft) (k : Nat) :
    (a.readSram e k).LikeAt e x (m.readSram e k) := by
  unfold Mach.readSram
  rw [h.engine, hx]
  split
  · exact h.addFld (ctrAddr_aEng e 0 (by omega)) _ _ _
  · exact h

/-- A request for a line that engine `e` will not take (R316). -/
def staleReq (e : Nat) (o : Option Trk) : Option Trk :=
  o.map (fun r =>
    match r.owner with
    | .fetch k _ => if k = e then { r with owner := .fetch e (2 ^ 48) } else r
    | _ => r)

/-- The requests for lines that an engine has out are marked as stale (R316). -/
def Mach.staleFetch (m : Mach) (e : Nat) : Mach :=
  each [512, 513, 514, 515] (fun n m => m.modNiu n (fun x => { x with trk := Tab.mapv dNone (fun _ => staleReq e) x.trk })) m

theorem Mach.dropFetch_eq (m : Mach) (e : Nat) :
    m.dropFetch e = (m.modEng e (fun x => { x with lines := [], fetch := none })).staleFetch e := rfl

theorem Mach.modNiu_modEng (m : Mach) (e n : Nat) (f : Eng → Eng) (g : Niu → Niu) :
    (m.modEng e f).modNiu n g = (m.modNiu n g).modEng e f := rfl

theorem Mach.staleFetch_modEng (m : Mach) (e k : Nat) (f : Eng → Eng) : (m.modEng e f).staleFetch k = (m.staleFetch k).modEng e f := by
  simp only [Mach.staleFetch, each, List.foldl_cons, List.foldl_nil, Mach.modNiu_modEng]

theorem Mach.Like.staleFetch {a m : Mach} (h : a.Like m) (e : Nat) : (a.staleFetch e).Like (m.staleFetch e) :=
  (((h.modNiu 512 _).modNiu 513 _).modNiu 514 _).modNiu 515 _

/-- An empty line buffer, and no line asked for (R316). -/
theorem Mach.LikeAt.dropFetch {a m : Mach} {e : Nat} {x : Eng} (h : a.LikeAt e x m) :
    (a.dropFetch e).LikeAt e { x with lines := [], fetch := none } (m.dropFetch e) := by
  rw [Mach.dropFetch_eq, Mach.dropFetch_eq]
  have hm : (m.modEng e (fun x => { x with lines := [], fetch := none })).modEng e (fun _ => { x with lines := [], fetch := none }) |>.Like
      (m.modEng e (fun _ => { x with lines := [], fetch := none })) := m.modEng_twice e _ _
  refine Mach.LikeAt.upd (m := m.modEng e (fun x => { x with lines := [], fetch := none })) ?_ (fun y => y.staleFetch e)
    (fun y => by rw [Mach.staleFetch_modEng]; exact .refl _) (fun _ _ hl => hl.staleFetch e)
  exact (h.mod _).trans hm.symm

/-- Settles O14: each row at an aligned address, the reads of SRAM, and the memory after a store. -/
theorem engineMemory : Obligations.EngineMemory := by
  intro s e w x a
  refine ⟨fun h hal hbad => ?_, fun h hal hbad => ?_, fun h hal => ?_, fun m hsoft hm => ?_, fun m hsoft hm => ?_,
    Memory.word_setWord .., fun k hk => Memory.byte_setBytes_ne _ _ hk, fun h => ?_⟩
  · refine DoesAt.issue rfl h rfl (fun b hb _ => ?_)
    have haddr : sramAddr (b.eng e) w = a := by rw [hb.engine]; rfl
    have hok : ¬ (b.eng e).bad.contains a = true := by rw [hb.engine, Bool.eq_false_iff.1 hbad |> Bool.eq_false_iff.2]; decide
    dsimp only
    rw [haddr, if_neg (not_not_intro hal), if_neg hok]
    exact ((hb.readSram (by rw [Mach.eng_readPc]) a).mod _).stepPc e.isLt
  · refine Does.row rfl h ?_
    dsimp only
    rw [Mach.eng_issued, if_neg (not_not_intro (by exact hal)), if_pos (by exact hbad)]
    rfl
  · refine DoesAt.issue rfl h rfl (fun b hb _ => ?_)
    have haddr : sramAddr (b.eng e) w = a := by rw [hb.engine]; rfl
    dsimp only
    rw [haddr, if_neg (not_not_intro hal)]
    exact (hb.mod _).stepPc e.isLt
  · rw [Mach.readSram, hm, if_pos hsoft]
  · rw [Mach.readSram, hm, hsoft]; rfl
  · exact DoesAt.issue rfl h rfl (fun b hb _ => hb.dropFetch.stepPc e.isLt)

end Sys2Proof.Machine

/-! PROOFS. How an instruction with a status ends (O17), and the ends of the waits for time and events (O16). -/

namespace Sys2Proof.Machine

/-! ## Ends of instructions -/

/-- A command that runs on the machine and leaves the machine that its statement names. -/
theorem Does.run {i : Instr} {s : State} {m : Mach} {f : Mach → Mach} (hx : exec i s = s.on f) (hs : s.m.test.scan = false)
    (h : f s.m = m) : Does i s m := Does.on hx hs (by rw [h]; exact .refl m)

theorem Does.of_exec {i : Instr} {s : State} {m : Mach} (h : exec i s = .next { s with m := m }) : Does i s m :=
  ⟨_, h, rfl, rfl, .refl m⟩

/-- A change of a unit counts by its value at the unit alone. -/
theorem Mach.modEng_congr {m : Mach} {e : Nat} {f g : Eng → Eng} (h : f (m.eng e) = g (m.eng e)) : m.modEng e f = m.modEng e g := by
  unfold Mach.modEng Tab.upd
  rw [show f (Tab.get dEng m.engs e) = g (Tab.get dEng m.engs e) from h]

theorem Mach.modNiu_congr {m : Mach} {n : Nat} {f g : Niu → Niu} (h : f (m.niu n) = g (m.niu n)) : m.modNiu n f = m.modNiu n g := by
  unfold Mach.modNiu Tab.upd
  rw [show f (Tab.get dNiu m.nius n) = g (Tab.get dNiu m.nius n) from h]

theorem Mach.Like.stepPc {a m : Mach} (h : a.Like m) {e : Nat} (he : e < 5) : (a.stepPc e).Like (m.stepPc e) :=
  ((a.stepPc_like he).trans (h.modEng e _)).trans (m.stepPc_like he).symm

theorem Mach.Like.countEng {a m : Mach} (h : a.Like m) {e : Nat} (he : e < 5) (code : Nat) (sel tc : Option Nat) (k : Nat)
    (hd : FlitBits) : (a.count (ctrEng e) 4 code sel tc k hd).Like (m.count (ctrEng e) 4 code sel tc k hd) :=
  (a.like_count (by simp only [ctrEng]; omega) code sel tc k hd).trans
    (h.trans (m.like_count (by simp only [ctrEng]; omega) code sel tc k hd).symm)

/-- An instruction ends alike on machines that are alike (R344). -/
theorem Mach.Like.endStatus {a m : Mach} (h : a.Like m) (e : EngId) (st : Nat) (wr : List (Nat × Word)) :
    (a.endStatus e st wr).Like (m.endStatus e st wr) := by
  have hregs := ((h.releaseToken e).modEng e (fun x => { x with st := st, wait := .none, limit := none, state := .running })).modEng e
    (fun x => x.setRegs wr)
  unfold Mach.endStatus
  dsimp only
  rw [h.eng]
  by_cases hst : st = xOK
  · rw [if_pos hst, if_pos hst]
    exact (hregs.modEng e _).stepPc e.isLt
  rw [if_neg hst, if_neg hst]
  by_cases ht : bt (m.eng e).insn 43 = true
  · rw [if_pos ht, if_pos ht]
    exact ((hregs.modEng e _).countEng e.isLt ..).stepPc e.isLt
  · rw [if_neg ht, if_neg ht]
    exact hregs.haltFault e st

theorem Eng.setRegs_eq (x : Eng) (l : List (Nat × Word)) : ∃ g, x.setRegs l = { x with g := g } := by
  unfold Eng.setRegs
  induction l generalizing x with
  | nil => exact ⟨x.g, rfl⟩
  | cons p l ih =>
    obtain ⟨g, hg⟩ := ih (x.setReg p.1 p.2)
    exact ⟨g, hg⟩

/-- The engine of an instruction that has ended with a status, before what V and the program counter make of it (R344). -/
def Eng.ended (x : Eng) (st : Nat) (wr : List (Nat × Word)) : Eng :=
  ({ x with st := st, wait := .none, limit := none, state := .running } : Eng).setRegs wr

@[simp] theorem Eng.ended_v (x : Eng) (st : Nat) (wr : List (Nat × Word)) : (x.ended st wr).v = x.v := by
  obtain ⟨g, hg⟩ := ({ x with st := st, wait := .none, limit := none, state := .running } : Eng).setRegs_eq wr
  rw [Eng.ended, hg]

@[simp] theorem Eng.ended_nextPc (x : Eng) (st : Nat) (wr : List (Nat × Word)) : (x.ended st wr).nextPc = x.nextPc := by
  obtain ⟨g, hg⟩ := ({ x with st := st, wait := .none, limit := none, state := .running } : Eng).setRegs_eq wr
  rw [Eng.ended, hg]
  rfl

/-- The token is free if engine `e` held it (R345). -/
def Mach.freed (m : Mach) (e : Nat) : Mach := { m with token := if m.token = some e then none else m.token }

theorem Mach.freed_ended (m : Mach) (e st : Nat) (wr : List (Nat × Word)) :
    (((m.releaseToken e).modEng e (fun x => { x with st := st, wait := .none, limit := none, state := .running })).modEng e
      (fun x => x.setRegs wr)).LikeAt e ((m.eng e).ended st wr) (m.freed e) := by
  rw [Mach.releaseToken_eq]
  exact ((Mach.LikeAt.refl (m.freed e) e).mod _).mod _

/-- R344: on OK the try form clears V, and the engine goes on. -/
theorem Mach.endStatus_ok (m : Mach) (e : EngId) (wr : List (Nat × Word)) :
    (m.endStatus e 0 wr).LikeAt e
      { (m.eng e).ended 0 wr with v := if bt (m.eng e).insn 43 then false else (m.eng e).v, pc := (m.eng e).nextPc } (m.freed e) := by
  have h := ((m.freed_ended e 0 wr).mod (fun x => { x with v := if bt (m.eng e).insn 43 then false else x.v })).stepPc e.isLt
  rw [Eng.ended_v] at h
  rw [← Eng.ended_nextPc (m.eng e) 0 wr]
  exact h

/-- R344: with any other status the try form sets V, and the engine goes on. -/
theorem Mach.endStatus_try (m : Mach) (e : EngId) {st : Nat} (hst : st ≠ xOK) (ht : bt (m.eng e).insn 43 = true)
    (wr : List (Nat × Word)) :
    (m.endStatus e st wr).LikeAt e { (m.eng e).ended st wr with v := true, pc := (m.eng e).nextPc } (m.freed e) := by
  unfold Mach.endStatus
  dsimp only
  rw [if_neg hst, if_pos ht, ← Eng.ended_nextPc (m.eng e) st wr]
  exact (((m.freed_ended e st wr).mod _).countEng e.isLt ..).stepPc e.isLt

/-- R344: with any other status the plain form halts. -/
theorem Mach.endStatus_plain (m : Mach) (e : EngId) {st : Nat} (hst : st ≠ xOK) (ht : bt (m.eng e).insn 43 = false)
    (wr : List (Nat × Word)) :
    (m.endStatus e st wr).Like (((m.freed e).modEng e (fun _ => (m.eng e).ended st wr)).haltFault e st) := by
  unfold Mach.endStatus
  dsimp only
  rw [if_neg hst, if_neg (Bool.eq_false_iff.1 ht)]
  exact (m.freed_ended e st wr).haltFault e st

/-! ## Limits and completions -/

/-- A limit that has passed at a wait whose condition is not met (R341). -/
theorem Does.limitExpiry {s : State} {e : EngId} (hs : s.m.test.scan = false) (hst : (s.m.eng e).state = .waiting)
    (hl : (s.m.eng e).limit = some 0) (hmet : s.m.waitMet e = false) :
    Does (.instructionLimitExpiry e) s ((s.m.withdraw e).endStatus e 7 []) := by
  refine Does.run rfl hs ?_
  rw [if_pos ⟨hst, hl, hmet⟩]
  rfl

/-- What an instruction has asked for is taken back for a GD.SYNC and an image alone. -/
theorem Mach.withdraw_of_wait {m : Mach} {e : Nat} (hsync : ∀ n, (m.eng e).wait ≠ .sync n) (himg : (m.eng e).wait ≠ .image) :
    m.withdraw e = m := by
  unfold Mach.withdraw
  split
  · next h => exact absurd h himg
  · next n h => exact absurd h (hsync n)
  · rfl

theorem Mach.withdraw_sync {m : Mach} {e n : Nat} (h : (m.eng e).wait = .sync n) (hg : (m.niu n).gSync = some e) :
    m.withdraw e = m.modNiu n (fun y => { y with gSync := none }) := by
  unfold Mach.withdraw
  rw [h]
  exact Mach.modNiu_congr (by rw [if_pos hg])

/-- R346: a completion that has come back. -/
theorem Does.completion {s : State} {e : EngId} {st : Nat} {wr : List (Nat × Word)} (hs : s.m.test.scan = false)
    (hst : (s.m.eng e).state = .waiting) (hw : (s.m.eng e).wait = .done st wr) :
    Does (.fabricInstructionCompletion e) s ((s.m.epochDone (s.m.eng e).insn st).endStatus e st wr) := by
  refine Does.of_exec ?_
  change execFabricInstructionCompletion e s = _
  rw [execFabricInstructionCompletion, State.onAll, hs]
  dsimp only
  rw [if_neg (not_not_intro hst), hw]
  rfl

/-! ## Results and interrupts -/

@[simp] theorem Mach.slot_readSram (m : Mach) (e a k i : Nat) : (m.readSram e a).slot k i = m.slot k i := by
  unfold Mach.readSram
  split <;> rfl

@[simp] theorem Mach.slot_readPc (m : Mach) (e k i : Nat) : (m.readPc e).slot k i = m.slot k i := by
  unfold Mach.readPc
  split <;> simp

@[simp] theorem Mach.slot_issued (m : Mach) (e : Nat) (w : Word) (k i : Nat) : (m.issued e w).slot k i = m.slot k i := by
  rw [Mach.issued, Mach.slot_modEng, Mach.slot_readPc]

theorem Mach.setSlot_modEng (m : Mach) (e k i : Nat) (f : Eng → Eng) (v : Option (BitVec 256)) :
    (m.modEng e f).setSlot k i v = (m.setSlot k i v).modEng e f := rfl

/-- The word in hand is none of what POST writes. -/
theorem postSlot_insn (x : Eng) (v w : Word) : postSlot { x with insn := v } w = postSlot x w := rfl

/-- R333: POST into a free slot. -/
theorem Does.post {s : State} {e : EngId} {w : Word} (h : Issues s e w 0xD0) (hk : bf w 0 4 ≠ 15) (hn : bf w 4 4 ≤ 3)
    (hfree : s.m.slot e (bf w 0 4) = none) :
    Does (.post e) s ((((s.m.readPc e).setSlot e (bf w 0 4) (some (postSlot (s.m.eng e) w))).modEng e
      (fun x => { x with insn := w, post := x.post + 1 })).endStatus e 0 []) := by
  refine Does.issue rfl h rfl ?_
  change (Mach.status (s.m.issued e w) e false true false _).Like _
  rw [Mach.status_free]
  dsimp only
  have hok : ¬ (bf w 0 4 = 15 ∨ 3 < bf w 4 4) := by omega
  have hnot : ¬ ((s.m.issued e w).slot e (bf w 0 4)).isSome = true := by rw [Mach.slot_issued, hfree]; decide
  rw [if_neg hok, if_neg hnot, Mach.eng_issued, postSlot_insn, Mach.issued, Mach.setSlot_modEng]
  exact Mach.Like.endStatus (Mach.modEng_twice _ e _ _) e 0 []

/-- R333: POST into a slot that is taken. -/
theorem Does.post_busy {s : State} {e : EngId} {w : Word} (h : Issues s e w 0xD0) (hk : bf w 0 4 ≠ 15) (hn : bf w 4 4 ≤ 3)
    (htaken : s.m.slot e (bf w 0 4) ≠ none) : Does (.post e) s ((s.m.issued e w).endStatus e 5 []) := by
  refine Does.row rfl h ?_
  rw [Mach.status_free]
  dsimp only
  have hok : ¬ (bf w 0 4 = 15 ∨ 3 < bf w 4 4) := by omega
  rw [if_neg hok, Mach.slot_issued, if_pos (Option.isSome_iff_ne_none.2 htaken)]
  rfl

/-- Settles O17: the ends by status, by limit and by completion, and the rows of results. -/
theorem statusEnds : Obligations.StatusEnds := by
  refine ⟨fun m e st wr => ?_, fun s e => ?_, fun s e w => ?_⟩
  · exact ⟨fun hst => hst ▸ m.endStatus_ok e wr, fun hst ht => m.endStatus_try e hst ht wr, fun hst ht => m.endStatus_plain e hst ht wr⟩
  · intro x hs hst
    refine ⟨fun hl hmet hsync himg => ?_, fun n hl hw hold hg => ?_, fun hl hmet => ?_, fun st wr hw ho => ?_, fun hw ho => ?_⟩
    · have h := Does.limitExpiry hs hst hl hmet
      rwa [Mach.withdraw_of_wait hsync himg] at h
    · have hmet : s.m.waitMet e = false := by
        rw [Mach.waitMet, show (s.m.eng e).wait = .sync n from hw]
        exact decide_eq_false hold
      have h := Does.limitExpiry hs hst hl hmet
      rwa [Mach.withdraw_sync hw hg] at h
    · refine Does.run rfl hs ?_
      rw [if_neg (fun hc => by rw [hmet] at hc; exact Bool.noConfusion hc.2.2)]
    · have h := Does.completion hs hst hw
      rwa [Mach.epochDone, if_neg (fun hc => ho hc.1)] at h
    · have h := Does.completion hs hst hw
      rwa [Mach.epochDone, if_pos ⟨ho, rfl⟩] at h
  · refine ⟨fun h hk hn hfree => Does.post h hk hn hfree, fun h hk hn htaken => Does.post_busy h hk hn htaken, fun h => ?_, fun h => ?_⟩
    · exact DoesAt.issue rfl h rfl (fun a ha _ => (ha.orReg (ctrAddr_aEng e 0x58 (by omega)) _).stepPc e.isLt)
    · rw [Mach.capUnits_readPc]
      exact DoesAt.cap h

/-! ## Lists searched for their first match -/

theorem firstIdx_append {α : Type} {p : α → Bool} {l : List α} (h : l.all (fun x => !p x) = true) {r : α} (hr : p r = true)
    (q : List α) : firstIdx p (l ++ r :: q) = some (l.length, r) := by
  induction l with
  | nil => simp [firstIdx, hr]
  | cons x l ih =>
    simp only [List.all_cons, Bool.and_eq_true, Bool.not_eq_true'] at h
    simp [firstIdx, h.1, ih h.2]

theorem firstIdx_none {α : Type} {p : α → Bool} {l : List α} (h : l.all (fun x => !p x) = true) : firstIdx p l = none := by
  induction l with
  | nil => rfl
  | cons x l ih =>
    simp only [List.all_cons, Bool.and_eq_true, Bool.not_eq_true'] at h
    simp [firstIdx, h.1, ih h.2]

theorem dropAt_append {α : Type} (l : List α) (r : α) (q : List α) : dropAt (l ++ r :: q) l.length = l ++ q := by
  induction l with
  | nil => rfl
  | cons x l ih => simp [dropAt, ih]

/-! ## Time and events -/

@[simp] theorem Mach.keep_readSram (m : Mach) (e a : Nat) : (m.readSram e a).keep = m.keep := by
  unfold Mach.readSram
  split <;> rfl

@[simp] theorem Mach.keep_readPc (m : Mach) (e : Nat) : (m.readPc e).keep = m.keep := by
  unfold Mach.readPc
  split <;> simp

theorem Mach.ftNs_congr {a m : Mach} (h : a.keep = m.keep) : a.ftNs = m.ftNs := by rw [Mach.ftNs, Mach.ftNs, h]

@[simp] theorem Mach.ftNs_issued (m : Mach) (e : Nat) (w : Word) : (m.issued e w).ftNs = m.ftNs :=
  Mach.ftNs_congr (by rw [Mach.issued, Mach.keep_modEng, Mach.keep_readPc])

theorem Mach.LikeAt.setWait {a m : Mach} {e : Nat} {x : Eng} (h : a.LikeAt e x m) (w : Wait) :
    (a.setWait e w).LikeAt e { x with state := .waiting, wait := w } m := h.mod _

/-- The oldest record of the mask leaves the queue, and the instruction ends with it (R330). -/
theorem Mach.takeEvt_append {m : Mach} {e d : Nat} {p q : List Word} {r : Word} (h : (m.eng e).evq = p ++ r :: q) :
    m.takeEvt e d p.length r = (m.modEng e (fun x => { x with evq := p ++ q })).endStatus e 0 [(d, r)] := by
  unfold Mach.takeEvt
  rw [Mach.modEng_congr (g := fun x => { x with evq := p ++ q }) (by rw [h, dropAt_append])]
  rfl

/-- WAITEV with a mask and no reserved bit (R354). -/
theorem waitev_mask {w : Word} (hr : bf w 37 3 = 0) {r : Word}
    (hm : bt (w.extractLsb' 24 16) (bf r 60 4) = true) : ¬ (w.extractLsb' 24 16 = 0 ∨ bf w 37 3 ≠ 0) := by
  rintro (h0 | h0)
  · rw [h0] at hm
    simp [bt] at hm
  · exact h0 hr

/-- Settles O16: each row, and the end of each wait. -/
theorem timeAndEvents : Obligations.TimeAndEvents := by
  intro s e w x t mask
  have heng : (s.m.issued e w).eng e = { x with insn := w } := s.m.eng_issued e w
  refine ⟨fun h => ?_, fun h ht => ?_, fun h ht => ?_, fun u hs hst hw hu => ?_, fun h hm hr hall => ?_, fun h hbad => ?_,
    fun p r q h hr hq hp hhit => ?_, fun d k p r q hs hst hw hq hp hhit => ?_⟩
  · refine DoesAt.issue rfl h rfl (fun a ha heq => ?_)
    have hft : a.ftNs = (s.m.readPc e).ftNs := by rw [heq]; rfl
    rw [hft]
    exact (ha.mod _).stepPc e.isLt
  · refine DoesAt.issue rfl h rfl (fun a ha heq => ?_)
    have hft : a.ftNs = s.m.ftNs := by rw [heq]; exact s.m.ftNs_issued e w
    have hnot : ¬ ((a.eng e).reg (wA w)).toNat ≤ a.ftNs := by rw [ha.engine, hft]; exact Nat.not_le.2 ht
    rw [Mach.status_free]
    dsimp only
    rw [if_neg hnot, ha.engine]
    exact ha.setWait (.time t)
  · refine Does.row rfl h ?_
    rw [Mach.status_free]
    dsimp only
    rw [Mach.ftNs_issued, heng, if_pos (by exact ht)]
    rfl
  · refine Does.of_exec ?_
    change execWaitftComplete e s = _
    rw [execWaitftComplete, State.on_eq hs]
    dsimp only
    rw [show (s.m.eng e).wait = .time u from hw]
    dsimp only
    rw [if_pos ⟨hst, hu⟩]
    rfl
  · refine DoesAt.issue rfl h rfl (fun a ha heq => ?_)
    have hok : ¬ (mask = 0 ∨ bf w 37 3 ≠ 0) := by rintro (h0 | h0) <;> contradiction
    have hnone : (a.eng e).findEvt mask = none := by rw [ha.engine]; exact firstIdx_none hall
    have hclk : a.clk = (s.m.readPc e).clk := by rw [heq]; rfl
    rw [Mach.status_free]
    dsimp only
    rw [if_neg hok, hnone]
    dsimp only
    rw [Mach.startLimit, Mach.setWait, Mach.clk_modEng, hclk]
    exact (ha.setWait _).mod _
  · refine Does.row rfl h ?_
    rw [Mach.status_free]
    dsimp only
    rw [if_pos hbad]
    rfl
  · refine Does.issue rfl h rfl ?_
    change (Mach.status (s.m.issued e w) e false true false _).Like _
    have hsome : ((s.m.issued e w).eng e).findEvt mask = some (p.length, r) := by
      rw [heng]
      exact (congrArg _ hq).trans (firstIdx_append hp hhit q)
    have hevq : ((s.m.issued e w).eng e).evq = p ++ r :: q := by rw [heng]; exact hq
    rw [Mach.status_free]
    dsimp only
    rw [if_neg (waitev_mask hr hhit), hsome]
    dsimp only
    rw [Mach.takeEvt_append hevq]
    exact Mach.Like.endStatus (Mach.modEng_twice _ e _ _) e 0 _
  · have hsome : (s.m.eng e).findEvt k = some (p.length, r) := (congrArg _ hq).trans (firstIdx_append hp hhit q)
    refine Does.of_exec ?_
    change execWaitevRecord e s = _
    rw [execWaitevRecord, State.on_eq hs]
    dsimp only
    rw [show (s.m.eng e).wait = .event d k from hw]
    dsimp only
    rw [if_neg (not_not_intro hst), hsome]
    dsimp only
    rw [Mach.takeEvt_append hq]

end Sys2Proof.Machine

/-! PROOFS. Chip memory (O15): the request that LDX and STX put at the service NIU, and what a service request is. -/

namespace Sys2Proof.Machine

/-! ## The machine in which a row acts -/

theorem Mach.readSram_eq (m : Mach) (e a : Nat) : m.readSram e a = { m with regs := (m.readSram e a).regs } := by
  unfold Mach.readSram
  split <;> rfl

/-- Reading the word at the program counter changes registers alone (R313). -/
theorem Mach.readPc_eq (m : Mach) (e : Nat) : m.readPc e = { m with regs := (m.readPc e).regs } := by
  unfold Mach.readPc
  split
  · rfl
  · exact m.readSram_eq e _

/-- A row acts on a machine that differs from the one before in registers and engines alone. -/
theorem Mach.issued_eq (m : Mach) (e : Nat) (w : Word) :
    m.issued e w = { m with regs := (m.issued e w).regs, engs := (m.issued e w).engs } := by
  unfold Mach.issued
  rw [m.readPc_eq e]
  rfl

@[simp] theorem Mach.serviceOf_issued (m : Mach) (e k : Nat) (w : Word) : (m.issued e w).serviceOf k = m.serviceOf k := by
  rw [Mach.issued_eq]; rfl

@[simp] theorem Mach.accessOut_issued (m : Mach) (e k : Nat) (w : Word) : (m.issued e w).accessOut k = m.accessOut k := by
  rw [Mach.issued_eq]; rfl

@[simp] theorem Mach.mirrors_issued (m : Mach) (e : Nat) (w : Word) : (m.issued e w).mirrors = m.mirrors := by
  rw [Mach.issued_eq]; rfl

/-! ## Service requests -/

/-- The lowest number that satisfies a condition. -/
theorem lowest_eq_some {p : Nat → Bool} {n k : Nat} : lowest p n = some k ↔ p k = true ∧ k < n ∧ ∀ j, j < k → p j = false := by
  rw [lowest, List.find?_range_eq_some]
  simp only [List.mem_range, Bool.not_eq_true']

/-- The head of a service request (R28, R51, R317). -/
def serviceHd (m : Mach) (q k opc sub dst addr len : Nat) (flow : BitVec 16) (inl : BitVec 128) (data : List FlitBits) : FlitBits :=
  mkf 512 256 128 inl.toNat ||| mkf 512 152 8 k ||| mkf 512 80 48 addr ||| mkf 512 64 16 flow.toNat ||| mkf 512 58 6 opc |||
  mkf 512 56 2 3 ||| mkf 512 50 1 (b1 m.straps.planeB) ||| mkf 512 46 3 data.length ||| mkf 512 37 9 len ||| mkf 512 27 10 dst |||
  mkf 512 11 16 (midOf q sub)

/-- A part of a field put into a word under construction. -/
theorem bf_mkf_part {n lo len : Nat} (h : lo + len ≤ n) (v : Nat) {l k : Nat} (hl : lo ≤ l) (hk : l + k ≤ lo + len) :
    bf (mkf n lo len v) l k = v / 2 ^ (l - lo) % 2 ^ k := by
  refine Nat.eq_of_testBit_eq fun i => ?_
  rw [testBit_bf, bt_mkf h, Nat.testBit_mod_two_pow, Nat.testBit_div_two_pow]
  by_cases hi : i < k
  · have h1 : lo ≤ l + i := by omega
    have h2 : l + i < lo + len := by omega
    simp [hi, h1, h2, show l + i - lo = i + (l - lo) by omega]
  · simp [hi]

theorem serviceHd_fields (m : Mach) {q k opc sub dst addr len : Nat} (flow : BitVec 16) (inl : BitVec 128) (data : List FlitBits)
    (hq : q < 516) (hk : k < 256) (hopc : opc < 64) (hsub : sub < 64) (hdst : dst < 1024) (haddr : addr < 2 ^ 48) (hlen : len < 512) :
    let h := serviceHd m q k opc sub dst addr len flow inl data
    hOpc h = opc ∧ hAddr h = addr ∧ hLen h = len ∧ hFlow h = flow ∧ hTc h = 3 ∧ hDst h = dst ∧ hSrc h = q ∧ hDmode h = 0 ∧
    hTag h = k ∧ hInline h = inl := by
  have hmid : midOf q sub / 2 ^ 6 % 2 ^ 10 = q := by unfold midOf; omega
  intro h
  refine ⟨?_, ?_, ?_, extract_eq ?_, ?_, ?_, ?_, ?_, ?_, extract_eq ?_⟩
  · simp [h, hOpc, serviceHd, bf_or, bf_mkf, bf_mkf_ne]; omega
  · simp [h, hAddr, serviceHd, bf_or, bf_mkf, bf_mkf_ne]; omega
  · simp [h, hLen, serviceHd, bf_or, bf_mkf, bf_mkf_ne]; omega
  · simp [h, serviceHd, bf_or, bf_mkf, bf_mkf_ne]; omega
  · simp [h, hTc, serviceHd, bf_or, bf_mkf, bf_mkf_ne]
  · simp [h, hDst, serviceHd, bf_or, bf_mkf, bf_mkf_ne]; omega
  · simp [h, hSrc, serviceHd, bf_or, bf_mkf_part, bf_mkf_ne]; omega
  · simp [h, hDmode, serviceHd, bf_or, bf_mkf_ne]
  · simp [h, hTag, serviceHd, bf_or, bf_mkf, bf_mkf_ne]; omega
  · simp [h, serviceHd, bf_or, bf_mkf, bf_mkf_ne]; omega

/-- A service request that waits for an answer takes the lowest free TAG; its packet joins the injection space, and its record the
tracker (R28, R52; log entry 8). -/
theorem Mach.serviceReq_tag {m t : Mach} {q opc sub dst addr len : Nat} {flow : BitVec 16} {inl : BitVec 128} {data : List FlitBits}
    {own : Owner} (hopc : opc ≠ opWRP) (h : m.serviceReq q opc sub dst addr len flow inl data own = some t) :
    ∃ k p r, k < 256 ∧ Tab.get dNone (m.niu q).trk k = none ∧ (∀ j, j < k → Tab.get dNone (m.niu q).trk j ≠ none) ∧
      p.pkt = ⟨serviceHd m q k opc sub dst addr len flow inl data, data, false⟩ ∧ p.shp = 0 ∧
      r.owner = own ∧ r.ordered = false ∧ r.flow = flow ∧
      t = m.modNiu q (fun x => { x with uidNext := x.uidNext + 1, accNext := x.accNext + 1, inj := x.inj ++ [p],
                                        trk := Tab.set dNone x.trk k (some r) }) := by
  unfold Mach.serviceReq at h
  rw [decide_eq_false hopc] at h
  simp only [Bool.false_eq_true, if_false] at h
  by_cases hlive : m.domLive (epTile q) = true
  · rw [if_pos hlive] at h
    cases hk : lowest (fun k => (Tab.get dNone (m.niu q).trk k).isNone) 256 with
    | none => rw [hk] at h; cases h
    | some k =>
      obtain ⟨hfree, hlt, hlow⟩ := lowest_eq_some.1 hk
      simp only [hk] at h
      split at h
      · cases h
      · cases h
        refine ⟨k, _, _, hlt, Option.isNone_iff_eq_none.1 hfree, fun j hj hn => ?_, rfl, rfl, ?_, ?_, ?_, rfl⟩
        · have := hlow j hj
          rw [hn] at this
          cases this
        all_goals rfl
  · rw [if_neg hlive] at h
    cases h

theorem Mach.serviceReq_modEng (m : Mach) (e : Nat) (f : Eng → Eng) (q opc sub dst addr len : Nat) (flow : BitVec 16)
    (inl : BitVec 128) (data : List FlitBits) (own : Owner) :
    (m.modEng e f).serviceReq q opc sub dst addr len flow inl data own =
      (m.serviceReq q opc sub dst addr len flow inl data own).map (fun t => t.modEng e f) := by
  simp only [Mach.serviceReq, Mach.niu_modEng, Mach.straps_modEng, Mach.clk_modEng, Mach.modNiu_modEng,
    show (m.modEng e f).domLive = m.domLive from rfl]
  split
  · rfl
  · by_cases hfull : 48 ≤ (m.niu q).inj.length
    · simp only [hfull, if_true]; rfl
    · simp only [hfull, if_false]; rfl

/-! ## LDX and STX -/

/-- An access that is well formed, to an open service tile, with no earlier one unanswered (R352, R353): the request is made, and the engine
waits for its answer. -/
theorem Mach.chipAccess_request {m n : Mach} {e q : Nat} {w : Word} {store : Bool}
    (hal : bf ((m.eng e).reg (wA w)) 0 48 % (if bf w 40 3 = 1 then 64 else 8) = 0) (hsadr : bf w 40 3 = 1 → wSadr w % 8 = 0)
    (hspace : bt ((m.eng e).reg (wA w)) 63 = true) (hep : bf ((m.eng e).reg (wA w)) 48 10 < 516)
    (hz : bf ((m.eng e).reg (wA w)) 58 5 = 0) (hq : m.serviceOf e = some q) (hout : m.accessOut e = false)
    (hstore : store = true → m.mirrors = false)
    (hreq : m.serviceReq q (if store then opWRA else opRD) (engSub e) (bf ((m.eng e).reg (wA w)) 48 10)
      (bf ((m.eng e).reg (wA w)) 0 48) (if bf w 40 3 = 1 then 64 else 8) (engFlow e)
      (if store ∧ ¬ bf w 40 3 = 1 then BitVec.ofNat 128 ((m.eng e).reg (wB w)).toNat else 0)
      (if store ∧ bf w 40 3 = 1 then [(m.eng e).line (wSadr w)] else []) (if store then Owner.stx e else Owner.ldx e) = some n) :
    m.chipAccess e w store = (n.readWords e (wSadr w) (if store ∧ bf w 40 3 = 1 then 8 else 0)).setWait e .access := by
  have hentry (d a : Nat) (hs : store = true) : m.entryStore d a = false := by
    rw [Mach.entryStore, hstore hs]; rfl
  have hfault : ¬ (bf ((m.eng e).reg (wA w)) 0 48 % (if bf w 40 3 = 1 then 64 else 8) ≠ 0 ∨
      (bf w 40 3 = 1 ∧ wSadr w % 8 ≠ 0)) := by
    rintro (h | ⟨hl, h⟩)
    · exact h hal
    · exact h (hsadr hl)
  have hrange : ¬ (bt ((m.eng e).reg (wA w)) 63 = false ∨ 515 < bf ((m.eng e).reg (wA w)) 48 10 ∨
      bf ((m.eng e).reg (wA w)) 58 5 ≠ 0) := by
    rintro (h | h | h)
    · rw [hspace] at h; cases h
    · omega
    · exact h hz
  have hgo : ¬ (m.accessOut e || (store && m.entryStore (bf ((m.eng e).reg (wA w)) 48 10) (bf ((m.eng e).reg (wA w)) 0 48) &&
      !m.recRoom)) = true := by
    cases store with
    | false => simp [hout]
    | true => simp [hout, hentry _ _ rfl]
  unfold Mach.chipAccess
  dsimp only
  rw [if_neg hfault, Mach.status_free]
  rw [if_neg hrange, hq]
  dsimp only
  rw [if_neg hgo, hreq]
  cases store with
  | false => rfl
  | true =>
    obtain ⟨_, _, _, _, _, _, _, _, _, _, _, hn⟩ := Mach.serviceReq_tag (by decide) hreq
    have hnone (d a : Nat) : n.entryStore d a = false := by
      have hmir : n.mirrors = m.mirrors := by rw [hn]; rfl
      rw [Mach.entryStore, hmir, hstore rfl]; rfl
    have hsame (d a : Nat) (l : Bool) (f : FlitBits) : n.entryWritten d a l f = n := by
      rw [Mach.entryWritten, hnone]; rfl
    simp only [if_true, hsame]

/-- The line of SRAM is read from the SRAM alone. -/
theorem Eng.line_insn (x : Eng) (w : Word) (a : Nat) : ({ x with insn := w } : Eng).line a = x.line a := rfl

/-- The reads of SRAM words by an engine with the same correctable words. -/
theorem Mach.LikeAt.readWords {a m : Mach} {e : EngId} {x : Eng} (h : a.LikeAt e x m) (hx : x.soft = (m.eng e).soft) (k n : Nat) :
    (a.readWords e k n).LikeAt e x (m.readWords e k n) := by
  unfold Mach.readWords
  generalize List.range n = l
  induction l generalizing a m with
  | nil => exact h
  | cons i l ih => exact ih (h.readSram hx _) (by rw [hx, Mach.eng_readSram])

/-- Settles O15: the two rows, and the packet and record of a service request. -/
theorem chipMemory : Obligations.ChipMemory := by
  refine ⟨fun s e w q m => ?_, fun m t q opc sub dst addr len flow inl data own hq hopc hne hsub hdst haddr hlen hdata h => ?_⟩
  · intro x a line size data inl hal hsadr hspace hep hz hq hout
    have heng : (s.m.issued e w).eng e = { x with insn := w } := s.m.eng_issued e w
    have hreads (o : Nat) (ho : o ≠ opWRP) (i : BitVec 128) (d : List FlitBits) (own : Owner)
        (hreq : (s.m.readPc e).serviceReq q o (engSub e) (bf a 48 10) (bf a 0 48) size (engFlow e) i d own = some m) :
        (s.m.issued e w).serviceReq q o (engSub e) (bf a 48 10) (bf a 0 48) size (engFlow e) i d own =
          some (m.modEng e (fun x => { x with insn := w })) ∧ (m.modEng e (fun x => { x with insn := w })).LikeAt e { x with insn := w } m := by
      obtain ⟨_, _, _, _, _, _, _, _, _, _, _, hm⟩ := Mach.serviceReq_tag ho hreq
      have heng : m.eng e = x := by rw [hm, Mach.eng_modNiu, Mach.eng_readPc]
      refine ⟨by rw [Mach.issued, Mach.serviceReq_modEng, hreq]; rfl, ?_⟩
      have h := (Mach.LikeAt.refl m e).mod (fun x => { x with insn := w })
      rwa [heng] at h
    have hsize : size = if bf w 40 3 = 1 then 64 else 8 := by simp only [size, line, decide_eq_true_eq]
    have hlineSadr : bf w 40 3 = 1 → wSadr w % 8 = 0 := fun hl => hsadr (decide_eq_true hl)
    refine ⟨fun h hreq => ?_, fun h hmir hreq => ?_⟩
    · obtain ⟨hsome, hlike⟩ := hreads _ (by decide) _ _ _ hreq
      refine DoesAt.issue rfl h rfl (fun b _ hb => ?_)
      obtain rfl : b = s.m.issued e w := hb
      rw [hsize] at hal hsome
      have hacc : (s.m.issued e w).chipAccess e w false = ((m.modEng e (fun x => { x with insn := w })).readWords e (wSadr w)
          (if false = true ∧ bf w 40 3 = 1 then 8 else 0)).setWait e .access := by
        refine Mach.chipAccess_request ?_ hlineSadr ?_ ?_ ?_ ((s.m.serviceOf_issued e e w).trans hq)
          ((s.m.accessOut_issued e e w).trans hout) nofun ?_
        all_goals rw [heng]
        · exact hal
        · exact hspace
        · exact hep
        · exact hz
        · exact hsome
      rw [hacc, if_neg (by simp)]
      exact hlike.setWait _
    · have hinl : inl = if true = true ∧ ¬ bf w 40 3 = 1 then BitVec.ofNat 128 (x.reg (wB w)).toNat else 0 := by
        simp only [inl, line, decide_eq_true_eq, true_and, ite_not]
      have hdata : data = if true = true ∧ bf w 40 3 = 1 then [x.line (wSadr w)] else [] := by
        simp only [data, line, decide_eq_true_eq, true_and]
        rfl
      have hcount : (if line = true then 8 else 0) = if true = true ∧ bf w 40 3 = 1 then 8 else 0 := by
        simp only [line, decide_eq_true_eq, true_and]
      obtain ⟨hsome, hlike⟩ := hreads _ (by decide) _ _ _ hreq
      refine DoesAt.issue rfl h rfl (fun b _ hb => ?_)
      obtain rfl : b = s.m.issued e w := hb
      rw [hsize] at hal hsome
      rw [hinl, hdata] at hsome
      have hacc : (s.m.issued e w).chipAccess e w true = ((m.modEng e (fun x => { x with insn := w })).readWords e (wSadr w)
          (if true = true ∧ bf w 40 3 = 1 then 8 else 0)).setWait e .access := by
        refine Mach.chipAccess_request ?_ hlineSadr ?_ ?_ ?_ ((s.m.serviceOf_issued e e w).trans hq)
          ((s.m.accessOut_issued e e w).trans hout) (fun _ => (s.m.mirrors_issued e w).trans hmir) ?_
        all_goals rw [heng]
        · exact hal
        · exact hspace
        · exact hep
        · exact hz
        · exact hsome
      rw [hacc, hcount]
      have hsoft : x.soft = (m.eng e).soft := by
        obtain ⟨_, _, _, _, _, _, _, _, _, _, _, hm⟩ := Mach.serviceReq_tag (by decide) hreq
        rw [hm, Mach.eng_modNiu, Mach.eng_readPc]
      exact (hlike.readWords (e := e) hsoft (wSadr w) (if true = true ∧ bf w 40 3 = 1 then 8 else 0)).setWait .access
  · obtain ⟨k, p, r, hk, hfree, hlow, hpkt, hshp, hown, hord, hflow, ht⟩ := Mach.serviceReq_tag hne h
    obtain ⟨h1, h2, h3, h4, h5, h6, h7, h8, h9, h10⟩ :=
      serviceHd_fields m flow inl data hq hk hopc hsub hdst haddr hlen
    refine ⟨p, r, k, ?_, ?_, ?_, ?_, ?_, ?_, ?_, ?_, ?_, ?_, ?_, ?_, hshp, hfree, hlow, ?_, hown, hord, hflow, ?_⟩
    · rw [ht, Mach.niu_modNiu]
    · rw [hpkt]; exact h1
    · rw [hpkt]; exact h2
    · rw [hpkt]; exact h3
    · rw [hpkt]; exact h4
    · rw [hpkt]; exact h5
    · rw [hpkt]; exact h6
    · rw [hpkt]; exact h7
    · rw [hpkt]; exact h8
    · rw [hpkt]; exact h9
    · rw [hpkt]; exact h10
    · rw [hpkt]
    · rw [ht, Mach.niu_modNiu]; simp
    · intro n hn
      rw [ht, Mach.niu_modNiu_ne _ _ hn]

end Sys2Proof.Machine

/-! PROOFS. The register port: the engine rows that are host writes of their own (O18), and far accesses (O20). -/

namespace Sys2Proof.Machine

/-! ## Rules of the register port -/

theorem Mach.answerTo_far (m : Mach) {a : Nat} (h : farAddr a = true) (st : Nat) (v : Word) : m.answerTo a st v = m.answerFar st v := by
  rw [Mach.answerTo, h]; rfl

theorem Mach.answerTo_near (m : Mach) {a : Nat} (h : farAddr a = false) (st : Nat) (v : Word) : m.answerTo a st v = m.answer st v := by
  rw [Mach.answerTo, h]; rfl

theorem farAddr_aEng (e : EngId) {o : Nat} (h : o < 0x10000) : farAddr (aEng e o) = true := by
  have := e.isLt
  unfold farAddr aEng
  exact decide_eq_true (by omega)

theorem Mach.Like.modRp {a m : Mach} (h : a.Like m) (f : RegPort → RegPort) : (a.modRp f).Like (m.modRp f) :=
  { h with bare := congrArg (fun y : Mach => y.modRp f) h.bare }

theorem Mach.Like.answer {a m : Mach} (h : a.Like m) (st : Nat) (v : Word) : (a.answer st v).Like (m.answer st v) := h.modRp _

theorem Mach.Like.answerFar {a m : Mach} (h : a.Like m) (st : Nat) (v : Word) : (a.answerFar st v).Like (m.answerFar st v) :=
  (h.answer st v).modRp _

theorem Mach.LikeAt.answerFar {a m : Mach} {e : Nat} {x : Eng} (h : a.LikeAt e x m) (st : Nat) (v : Word) :
    (a.answerFar st v).LikeAt e x (m.answerFar st v) :=
  h.upd (fun y => y.answerFar st v) (fun _ => .refl _) (fun _ _ hl => hl.answerFar st v)

/-- A host access that the port takes is carried out and answered with OK (R467 to R469). -/
theorem exec_hostAccess {i : Instr} {s : State} {a : Nat} {w : Option Word} {pr priv : Bool} {mid : BitVec 16}
    {act : State → Word × Mach} (hx : exec i s = s.onAll (fun s => s.hostAccess a w pr priv mid act)) (ht : Takes s a)
    (hp : (pr && !priv) = false) : exec i s = .next { s with m := (act s).2.answerTo a 0 (if w.isSome then 0 else (act s).1) } := by
  rw [hx, State.onAll, ht.1]
  exact congrArg (fun m => Host.Outcome.next { s with m := m }) (State.hostAccess_takes ht w hp mid act)

/-- A privileged host write at a far register. -/
theorem Does.hostWrite_far {i : Instr} {s : State} {a : Nat} {v : Word} {mid : BitVec 16} {act : Mach → Mach} {m : Mach}
    (hx : exec i s = s.hostWrite a v true true mid act) (ht : Takes s a) (hfar : farAddr a = true) (hm : (act s.m).Like m) :
    Does i s (m.answerFar 0 0) :=
  ⟨_, exec_hostAccess hx ht rfl, rfl, rfl, by rw [Mach.answerTo_far _ hfar]; exact hm.answerFar 0 0⟩

theorem DoesAt.hostWrite_far {i : Instr} {s : State} {e a : Nat} {v : Word} {mid : BitVec 16} {act : Mach → Mach} {x : Eng} {m : Mach}
    (hx : exec i s = s.hostWrite a v true true mid act) (ht : Takes s a) (hfar : farAddr a = true) (hm : (act s.m).LikeAt e x m) :
    DoesAt i s e x (m.answerFar 0 0) :=
  ⟨_, exec_hostAccess hx ht rfl, rfl, rfl, by rw [Mach.answerTo_far _ hfar]; exact hm.answerFar 0 0⟩

/-- A privileged host write at a near register. -/
theorem Does.hostWrite_near {i : Instr} {s : State} {a : Nat} {v : Word} {mid : BitVec 16} {act : Mach → Mach} {m : Mach}
    (hx : exec i s = s.hostWrite a v true true mid act) (ht : Takes s a) (hfar : farAddr a = false) (hm : act s.m = m) :
    Does i s (m.answer 0 0) :=
  ⟨_, exec_hostAccess hx ht rfl, rfl, rfl, by rw [Mach.answerTo_near _ hfar, hm]; exact .refl _⟩

theorem exec_engLaunch (e : EngId) (v : Word) (priv : Bool) (mid : BitVec 16) (s : State) :
    exec (.engLaunch e v priv mid) s = s.hostWrite (aEng e 0x10) v true priv mid (fun m => m.launch e v) := rfl

theorem exec_engStop (e : EngId) (v : Word) (priv : Bool) (mid : BitVec 16) (s : State) :
    exec (.engStop e v priv mid) s = s.hostWrite (aEng e 0x28) v true priv mid (fun m => m.engStop e v) := rfl

theorem exec_engEvtIn (e : EngId) (v : Word) (priv : Bool) (mid : BitVec 16) (s : State) :
    exec (.engEvtIn e v priv mid) s = s.hostWrite (aEng e 0x50) v true priv mid (fun m => m.evtIn e v) := rfl

theorem exec_engSramAccess (e : EngId) (w : Option Word) (priv : Bool) (mid : BitVec 16) (s : State) :
    exec (.engSramAccess e w priv mid) s =
      s.onAll (fun s => s.hostAccess (aEng e 0x48) w true priv mid (fun s => s.m.sramAccess e w)) := rfl

theorem exec_mbxAck (v : Word) (priv : Bool) (mid : BitVec 16) (s : State) :
    exec (.mbxAck v priv mid) s = s.hostWrite 0x1A00 v true priv mid (fun m => m.mbxAck v) := rfl

/-! ## Launch and stop -/

/-- R328: outside the safe state an engine that is IDLE, HALTED or FAULT starts the program. -/
theorem Mach.launch_starts {m : Mach} {e : EngId} (hlive : m.engLive e = true)
    (hst : (m.eng e).state = .idle ∨ (m.eng e).state = .halted ∨ (m.eng e).state = .fault) (hsafe : m.safe = false) (v : Word) :
    (m.launch e v).LikeAt e
      (({ m.eng e with g := [], z := false, n := false, c := false, v := false, pc := v, st := 0, state := .running, wait := .none,
                       limit := none, lines := [], fetch := none } : Eng).setRegs
        [(0, m.reg (aEng e 0x18)), (1, m.reg (aEng e 0x20))])
      ((m.dropFetch e).setFld (aEng e 0x30) 0 4 0) := by
  have hstart : m.launch e v = ((m.dropFetch e).modEng e (fun x =>
      ({ x with g := [], z := false, n := false, c := false, v := false, pc := v, st := 0, state := .running, wait := .none,
                limit := none } : Eng).setRegs [(0, m.reg (aEng e 0x18)), (1, m.reg (aEng e 0x20))])).setFld (aEng e 0x30) 0 4 0 := by
    unfold Mach.launch
    rw [hlive, hsafe]
    rcases hst with h | h | h <;> rw [h] <;> rfl
  rw [hstart]
  exact ((Mach.LikeAt.refl m e).dropFetch.mod _).setFld (ctrAddr_aEng e _ (by omega)) 0 4 0

/-- R328: otherwise the launch is turned away. -/
theorem Mach.launch_rejected {m : Mach} {e : EngId} (hlive : m.engLive e = true)
    (h : (m.eng e).state = .running ∨ (m.eng e).state = .waiting ∨ m.safe = true) (v : Word) :
    m.launch e v = m.orReg (aEng e 0) (2 ^ 8) := by
  have hoff : (m.eng e).state ≠ .off := by
    intro hoff
    rw [Mach.engLive, hoff] at hlive
    cases hlive
  unfold Mach.launch
  rw [hlive]
  rcases h with h | h | h
  · rw [h]; rfl
  · rw [h]; rfl
  · rw [h]
    cases hst : (m.eng e).state with
    | off => exact absurd hst hoff
    | _ => rfl

theorem Mach.fetch_running {m : Mach} {e : Nat} {w : Word} (h : m.fetch e = .word w) : (m.eng e).state = .running := by
  unfold Mach.fetch at h
  by_contra hst
  rw [if_pos hst] at h
  cases h

theorem Mach.Like.fetch {a m : Mach} (h : a.Like m) (e : Nat) : a.fetch e = m.fetch e := by
  have hserve : a.serviceOf e = m.serviceOf e := by
    have hp : a.pwr.fence = m.pwr.fence :=
      show a.bare.pwr.fence = m.bare.pwr.fence from congrArg (fun y : Mach => y.pwr.fence) h.bare
    unfold Mach.serviceOf
    rw [hp]
  unfold Mach.fetch
  rw [h.eng, hserve]

theorem Mach.atBoundary_word {m : Mach} {e : Nat} {w : Word} (h : m.fetch e = .word w) :
    m.atBoundary e = m.modEng e (fun x => { x with insn := w }) := by
  unfold Mach.atBoundary
  rw [h]

/-- A stop takes effect at once but at an engine that waits for the AON clock without a limit (R327, R429). -/
theorem Mach.engStop_now {m : Mach} {e : Nat} {v : Word} (hv : bt v 0 = true) (hlive : m.engLive e = true)
    (hnow : (m.eng e).state = .waiting → (m.eng e).wait = .aon → (m.eng e).limit ≠ none) : m.engStop e v = m.stopEngine e 13 := by
  unfold Mach.engStop
  rw [hv, hlive]
  by_cases hw : (m.eng e).state = .waiting ∧ (m.eng e).wait = .aon ∧ (m.eng e).limit = none
  · exact absurd hw.2.2 (hnow hw.1 hw.2.1)
  · simp only [hw, if_false]
    rfl

/-- R327: a running engine halts at the instruction it would issue next. -/
theorem Mach.stopEngine_running {m : Mach} {e : Nat} {w : Word} (h : m.fetch e = .word w) (code : Nat) :
    m.stopEngine e code = (m.modEng e (fun x => { x with insn := w })).haltFault e code := by
  unfold Mach.stopEngine
  rw [Mach.fetch_running h, Mach.atBoundary_word h]

/-- R327: a waiting instruction of plain form ends as its limit would end it, at its own address. -/
theorem Mach.stopEngine_plain {m : Mach} {e : Nat} (hst : (m.eng e).state = .waiting) (hw : m.withdraw e = m)
    (ht : bt (m.eng e).insn 43 = false) (code : Nat) :
    m.stopEngine e code =
      (m.modEng e (fun x => { x with st := 7, state := .running, wait := .none, limit := none })).haltFault e code := by
  unfold Mach.stopEngine
  rw [hst, hw]
  dsimp only
  rw [if_neg (by rw [Mach.eng_modEng, wT, ht]; exact Bool.false_ne_true)]
  rfl

/-- R327: one of try form ends with V set, at the next instruction. -/
theorem Mach.stopEngine_try {m : Mach} {e : EngId} {u : Word} (hst : (m.eng e).state = .waiting) (hw : m.withdraw e = m)
    (ht : bt (m.eng e).insn 43 = true)
    (hu : (m.modEng e (fun x => { x with st := 7, state := .running, wait := .none, limit := none, v := true, pc := x.nextPc })).fetch e
      = .word u) (code : Nat) :
    (m.stopEngine e code).Like ((m.modEng e (fun x =>
      { x with st := 7, state := .running, wait := .none, limit := none, v := true, pc := x.nextPc, insn := u })).haltFault e code) := by
  have hlike : ((((m.modEng e (fun x => { x with st := xTIMEOUT, state := .running, wait := .none, limit := none })).modEng e
      (fun x => { x with v := true })).count (ctrEng e) 4 5 none none 1 0).stepPc e).Like
      (m.modEng e (fun x => { x with st := 7, state := .running, wait := .none, limit := none, v := true, pc := x.nextPc })) := by
    have h := ((((Mach.LikeAt.refl m e).mod (fun x => { x with st := xTIMEOUT, state := .running, wait := .none, limit := none })).mod
      (fun x => { x with v := true })).countEng e.isLt 5 none none 1 0).stepPc e.isLt
    exact h.trans (by rw [Mach.modEng_congr rfl]; exact .refl _)
  unfold Mach.stopEngine
  rw [hst, hw]
  dsimp only
  rw [if_pos (by rw [Mach.eng_modEng, wT, ht]), Mach.atBoundary_word ((hlike.fetch e).trans hu)]
  exact ((hlike.modEng e _).trans (m.modEng_twice e _ _)).haltFault e code

/-! ## Events, the SRAM window, the mailboxes -/

/-- Two fields of a word put together below bit 64. -/
theorem ofNat_or_ofNat {n i a b : Nat} (h : b < 2 ^ i) : BitVec.ofNat n (a <<< i) ||| BitVec.ofNat n b = BitVec.ofNat n (a * 2 ^ i + b) := by
  rw [← BitVec.ofNat_or, ← Nat.shiftLeft_add_eq_or_of_lt h, Nat.shiftLeft_eq]

/-- An event record with KIND and DETAIL zero (R329). -/
theorem evtWord_eq (cls us src : Nat) (hc : cls < 2 ^ 4) (hs : src < 2 ^ 16) :
    (mkf 64 60 4 cls ||| mkf 64 56 4 0 ||| mkf 64 32 24 us ||| mkf 64 16 16 0 ||| mkf 64 0 16 src : Word) =
      BitVec.ofNat 64 (cls * 2 ^ 60 + us % 2 ^ 24 * 2 ^ 32 + src) := by
  have hzero (lo len : Nat) : mkf 64 lo len 0 = 0 := by simp [mkf]
  have hus : us % 2 ^ 24 < 2 ^ 24 := Nat.mod_lt _ (by decide)
  rw [hzero, hzero, show (0 : Word) = 0#64 from rfl, BitVec.or_zero, BitVec.or_zero]
  unfold mkf
  rw [BitVec.or_assoc, Nat.mod_eq_of_lt hs, Nat.shiftLeft_zero, ofNat_or_ofNat (by omega), ofNat_or_ofNat (by omega), Nat.mod_eq_of_lt hc,
    Nat.add_assoc]

/-- R329: an event for an engine that is not OFF and has room. -/
theorem Mach.postEvt_queued {m : Mach} {e : Nat} (hoff : (m.eng e).state ≠ .off) (hroom : (m.eng e).evq.length < 32)
    (cls kind detail src : Nat) :
    m.postEvt e cls kind detail src = m.modEng e (fun x =>
      { x with evq := x.evq ++
                [mkf 64 60 4 cls ||| mkf 64 56 4 kind ||| mkf 64 32 24 m.ftUs ||| mkf 64 16 16 detail ||| mkf 64 0 16 src] }) := by
  unfold Mach.postEvt
  rw [if_neg hoff, if_pos hroom]

/-- R329: an event for an engine whose queue is full is marked lost. -/
theorem Mach.postEvt_full {m : Mach} {e : Nat} (hoff : (m.eng e).state ≠ .off) (hfull : 32 ≤ (m.eng e).evq.length)
    (cls kind detail src : Nat) : m.postEvt e cls kind detail src = m.orReg (aEng e 0) (2 ^ 9) := by
  unfold Mach.postEvt
  rw [if_neg hoff, if_neg (by omega)]

theorem Mach.engLive_on {m : Mach} {e : Nat} (h : m.engLive e = true) : (m.eng e).state ≠ .off := by
  rw [Mach.engLive, Bool.and_eq_true, decide_eq_true_eq] at h
  exact h.1

/-- R335: an acknowledge of the tag that a slot holds. -/
theorem Mach.mbxAck_hit {m : Mach} {v : Word} {h : BitVec 256} (h23 : bt v 23 = false) (he : bf v 20 3 < 5)
    (hs : m.slot (bf v 20 3) (bf v 16 4) = some h) (ht : bf h 0 16 = bf v 0 16) :
    m.mbxAck v = m.setSlot (bf v 20 3) (bf v 16 4) none := by
  unfold Mach.mbxAck
  simp only [h23, Bool.false_eq_true, if_false, he, if_true, hs, ht]

/-- R335: any other sets ACK_MISS. -/
theorem Mach.mbxAck_miss {m : Mach} {v : Word} (h23 : bt v 23 = false)
    (h : ∀ r, bf v 20 3 < 5 → m.slot (bf v 20 3) (bf v 16 4) = some r → bf r 0 16 ≠ bf v 0 16) :
    m.mbxAck v = m.setFld 0x1A00 23 1 1 := by
  unfold Mach.mbxAck
  simp only [h23, Bool.false_eq_true, if_false]
  by_cases he : bf v 20 3 < 5
  · cases hs : m.slot (bf v 20 3) (bf v 16 4) with
    | none => simp only [he, if_true]
    | some r => simp only [he, if_true, h r he hs, if_false]
  · simp only [he, if_false]

/-- Settles O18: launch, stop, HOST events, the SRAM window and the mailbox acknowledge. -/
theorem engineHostAccess : Obligations.EngineHostAccess := by
  refine ⟨fun s e v mid => ?_, fun s e v mid => ?_, fun s v mid => ?_⟩
  · intro x ht hlive
    have hfar : farAddr (aEng e 0x10) = true := farAddr_aEng e (by omega)
    refine ⟨fun hst hsafe => ?_, fun h => ?_⟩
    · exact DoesAt.hostWrite_far (exec_engLaunch ..) ht hfar (Mach.launch_starts hlive hst hsafe v)
    · exact Does.hostWrite_far (exec_engLaunch ..) ht hfar (by rw [Mach.launch_rejected hlive h]; exact .refl _)
  · intro x a hlive
    have hoff : (s.m.eng e).state ≠ .off := Mach.engLive_on hlive
    refine ⟨fun w ht hv hw => ?_, fun ht hv hst haon hsync himg hplain => ?_, fun u ht hv hst haon hsync himg htry hu => ?_,
      fun ht hroom => ?_, fun ht hfull => ?_, fun ht => ?_, fun ht => ?_⟩
    · refine Does.hostWrite_far (exec_engStop ..) ht (farAddr_aEng e (by omega)) ?_
      rw [Mach.engStop_now hv hlive (fun hwait => by rw [Mach.fetch_running hw] at hwait; cases hwait), Mach.stopEngine_running hw]
      exact .refl _
    · refine Does.hostWrite_far (exec_engStop ..) ht (farAddr_aEng e (by omega)) ?_
      rw [Mach.engStop_now hv hlive (fun _ => haon), Mach.stopEngine_plain hst (Mach.withdraw_of_wait hsync himg) hplain]
      exact .refl _
    · refine Does.hostWrite_far (exec_engStop ..) ht (farAddr_aEng e (by omega)) ?_
      rw [Mach.engStop_now hv hlive (fun _ => haon)]
      exact Mach.stopEngine_try hst (Mach.withdraw_of_wait hsync himg) htry hu 13
    · refine DoesAt.hostWrite_far (exec_engEvtIn ..) ht (farAddr_aEng e (by omega)) ?_
      rw [Mach.evtIn, if_pos hlive, Mach.postEvt_queued hoff hroom, evtWord_eq _ _ _ (by decide) (bf_lt v 0 16)]
      exact (Mach.LikeAt.refl s.m e).mod _
    · refine Does.hostWrite_far (exec_engEvtIn ..) ht (farAddr_aEng e (by omega)) ?_
      rw [Mach.evtIn, if_pos hlive, Mach.postEvt_full hoff hfull]
      exact .refl _
    · have hrun := exec_hostAccess (exec_engSramAccess e none true mid s) ht rfl
      rw [Mach.answerTo_far _ (farAddr_aEng e (by omega))] at hrun
      refine ⟨_, hrun, rfl, rfl, ?_⟩
      rw [Mach.sramAccess, hlive]
      exact .refl _
    · have hrun := exec_hostAccess (exec_engSramAccess e (some v) true mid s) ht rfl
      rw [Mach.answerTo_far _ (farAddr_aEng e (by omega))] at hrun
      refine ⟨_, hrun, rfl, rfl, ?_⟩
      rw [Mach.sramAccess, hlive]
      exact ((Mach.LikeAt.refl (s.m.setFld (aEng e 0x40) 3 13 (a / 8 + 1)) e).mod _).answerFar 0 0
  · intro e k ht h23
    refine ⟨fun h he hs htag => ?_, fun h he hs htag => ?_, fun hnone => ?_⟩
    · exact Does.hostWrite_near (exec_mbxAck ..) ht rfl (Mach.mbxAck_hit h23 he hs htag)
    · refine Does.hostWrite_near (exec_mbxAck ..) ht rfl (Mach.mbxAck_miss h23 (fun r _ hr => ?_))
      rw [show s.m.slot (bf v 20 3) (bf v 16 4) = some h from hs] at hr
      cases hr
      exact htag
    · refine Does.hostWrite_near (exec_mbxAck ..) ht rfl (Mach.mbxAck_miss h23 (fun r he hr => ?_))
      rw [show s.m.slot (bf v 20 3) (bf v 16 4) = none from hnone he] at hr
      cases hr

end Sys2Proof.Machine

/-! PROOFS. Far accesses (O20): one at a time, each with the effect of the whole access. -/

namespace Sys2Proof.Machine

/-! ## Writes of registers -/

/-- A register that answers and acts on its own word alone takes what its fields' access codes leave (R15). -/
theorem Mach.writeReg_word {m : Mach} {a : Nat} {l : RegLoc} (hal : a % 8 = 0) (hloc : locate a = some l)
    (hans : m.answers l = true) (hdead : m.aonDead a = false) (hacts : l.reg.acts = false) (eng : Option Nat) (v : Word) :
    m.writeReg eng a v = m.setReg a (writeFields l.reg.fields eng.isSome (m.reg a) v) := by
  obtain ⟨r, i, j⟩ := l
  have ha : a / 8 * 8 = a := by omega
  unfold Mach.writeReg
  simp only [ha, hloc, hans, hdead, Bool.not_true, Bool.or_false, Bool.false_eq_true, if_false]
  cases r
  case engLaunch | engStop | engEvtIn | engSramData | mbxAck | admBrqPop | gdLogPop | pdCtl | mirCons | fltSafe | hungTarget | rpDeny |
    flowTbl | pwrCfg | pcCfg | smpCfg0 | smpCfg1 | mirCfg | linkCfg | portSpCfg | portSpWeight => cases hacts
  all_goals rfl

/-- A field that is the whole word. -/
theorem sf_whole (w v : Word) : sf w 0 64 (bf v 0 64) = v := by
  refine BitVec.eq_of_getLsbD_eq fun i hi => ?_
  have h := bt_sf w (lo := 0) (len := 64) (by decide) (bf v 0 64) i
  rw [if_pos (by omega), testBit_bf] at h
  simpa [bt, hi] using h

/-! ## Far accesses -/

/-- A far access that may be carried out: one stands, the port is up, its address is a far register's, and it is not denied. -/
structure Stands (s : State) (f : Far) : Prop where
  far  : s.m.rp.far = some f
  up   : s.m.pwr.aonUp = true
  addr : farAddr f.a = true
  al   : f.a % 8 = 0
  priv : addrPriv f.a = true → f.priv = true

/-- The state in which no far access stands. -/
def State.offered (s : State) : State := { s with m := s.m.modRp (fun r => { r with far := none, pend := false }) }

/-- The access `f` offered at the port, a read or a write of any register. -/
def Far.whole (f : Far) (s : State) : Host.Outcome State Fault Refusal :=
  match f.write with
  | none => exec (.clearingRead (BitVec.ofNat 24 f.a) f.priv f.mid) s
  | some v => exec (.registerWrite (BitVec.ofNat 24 f.a) v f.priv f.mid) s

theorem farAddr_lt {a : Nat} (h : farAddr a = true) : a < 2 ^ 24 := by
  simp only [farAddr, decide_eq_true_eq] at h
  omega

/-- With no far access outstanding and its clock running, the access is carried out whole at once (R467, R468). -/
theorem State.hostAccess_offered {s : State} {f : Far} (h : Stands s f) (hrun : s.m.farStopped f.a = false)
    (act : State → Word × Mach) :
    s.offered.hostAccess f.a f.write (addrPriv f.a) f.priv f.mid act = s.offered.carry f.a f.write act := by
  have hup : s.offered.m.pwr.aonUp = true := h.up
  have hnone : s.offered.m.rp.far = none := rfl
  have hstop : s.offered.m.farStopped f.a = false := hrun
  have hpriv : (addrPriv f.a && !f.priv) = false := by
    cases hp : addrPriv f.a with
    | false => rfl
    | true => rw [h.priv hp]; rfl
  unfold State.hostAccess
  simp [hup, hnone, h.addr, h.al, hpriv, hstop]

/-- The response of a far access is that of the whole access (R468). -/
theorem Far.whole_eq {s : State} {f : Far} (h : Stands s f) (hs : s.m.test.scan = false) (hrun : s.m.farStopped f.a = false) :
    f.whole s.offered = .next { s with m := s.farDone f } := by
  have hscan : s.offered.m.test.scan = false := hs
  have ha : (BitVec.ofNat 24 f.a).toNat = f.a := by
    rw [BitVec.toNat_ofNat]; exact Nat.mod_eq_of_lt (farAddr_lt h.addr)
  unfold Far.whole State.farDone
  rw [show ({ s with m := s.m.modRp (fun x => { x with far := none, pend := false }) } : State) = s.offered from rfl]
  cases hw : f.write with
  | none =>
    have hacc := State.hostAccess_offered h hrun (fun s => s.portRead f.a)
    rw [hw] at hacc
    change execClearingRead _ _ _ _ = _
    rw [execClearingRead, State.onAll, hscan, ha, hacc]
    rfl
  | some v =>
    have hacc := State.hostAccess_offered h hrun (fun s => (0, s.m.writeReg none f.a v))
    rw [hw] at hacc
    change execRegisterWrite _ _ _ _ _ = _
    rw [execRegisterWrite, State.onAll, hscan, ha, hacc]
    rfl

/-- RP_FAR_RESPONSE answers the access that stands. -/
theorem exec_rpFarResponse {s : State} {f : Far} (hs : s.m.test.scan = false) (hf : s.m.rp.far = some f) :
    exec .rpFarResponse s = .next { s with m := if s.m.farStopped f.a then s.m else s.farDone f } := by
  change execRpFarResponse s = _
  rw [execRpFarResponse, State.onAll, hs, hf]
  rfl

/-- The state with one clock running again. -/
def State.restarted (s : State) (aon : Bool) : State :=
  { s with m := { s.m with clk := if aon then { s.m.clk with astop := false } else { s.m.clk with fstop := false } } }

/-- CLOCK_RESTART carries out an access that waited on the clock (R427, R428). -/
theorem exec_clockRestart {s : State} (aon : Bool) (hs : s.m.test.scan = false) :
    exec (.clockRestart aon) s = .next { s with m := match s.m.rp.far with
      | some f => if s.m.farStopped f.a && !(s.restarted aon).m.farStopped f.a then (s.restarted aon).farDone f else (s.restarted aon).m
      | none => (s.restarted aon).m } := by
  change execClockRestart aon s = _
  rw [execClockRestart, State.onAll, hs]
  dsimp only
  cases s.m.rp.far <;> rfl

/-- A write of the master's ENG_ARG0, carried out as a far access. -/
theorem State.farDone_arg {s : State} {f : Far} {v : Word} (ha : f.a = aEng 0 0x18) (hw : f.write = some v)
    (hlive : s.m.engLive 0 = true) :
    s.farDone f = ((s.m.setReg f.a v).modRp (fun r => { r with far := none, pend := false })).answerFar 0 0 := by
  obtain ⟨a, w, p, mid⟩ := f
  dsimp only at ha hw
  subst ha hw
  have hdom : s.offered.m.domLive 132 = true := by
    rw [Mach.engLive, Bool.and_eq_true] at hlive
    exact hlive.2
  have hdead : s.offered.m.aonDead (aEng 0 0x18) = false := by rw [Mach.aonDead, hdom, Bool.not_true, Bool.and_false]
  have hword : s.offered.m.writeReg none (aEng 0 0x18) v = s.offered.m.setReg (aEng 0 0x18) v := by
    rw [Mach.writeReg_word (m := s.offered.m) (l := ⟨.engArg0, 0, 0⟩) rfl rfl hlive hdead rfl]
    exact congrArg _ (sf_whole _ v)
  unfold State.farDone
  rw [show ({ s with m := s.m.modRp (fun x => { x with far := none, pend := false }) } : State) = s.offered from rfl,
    State.carry_live _ _ _ _ hdead]
  dsimp only
  rw [hword, Mach.answerTo_far _ rfl]
  rfl

/-- Settles O20: acceptance, the answer as the whole access, hung accesses and the restart of a clock. -/
theorem farAccess : Obligations.FarAccess := by
  intro s a wr priv mid f offered whole stands hs
  have hstands (h : stands) : Stands s f := ⟨h.1, h.2.1, h.2.2.1, h.2.2.2.1, h.2.2.2.2⟩
  refine ⟨fun h hrun => ?_, fun h haon hstop => ?_, fun h haon hstop => ?_, fun hup hnone hfar hal hpriv => ?_, fun hsome => ?_,
    fun hf hstop => ?_, fun v hf hrun ha hw hlive => ?_, fun hf hh => ?_, fun hh => ?_, fun hnone => ?_, fun hnone => ?_,
    fun v hf ha hw hstop hlive => ?_⟩
  · rw [exec_rpFarResponse hs h.1, hrun]
    exact (Far.whole_eq (hstands h) hs hrun).symm
  · have hst := hstands h
    have hwas : s.m.farStopped f.a = true := by rw [Mach.farStopped, haon]; exact hstop
    have hnow : (s.restarted false).m.farStopped f.a = false := by rw [Mach.farStopped, haon]; rfl
    rw [exec_clockRestart false hs, h.1]
    dsimp only
    rw [hwas, hnow]
    exact (Far.whole_eq (s := s.restarted false) ⟨hst.far, hst.up, hst.addr, hst.al, hst.priv⟩ hs hnow).symm
  · have hst := hstands h
    have hwas : s.m.farStopped f.a = true := by rw [Mach.farStopped, haon]; exact hstop
    have hnow : (s.restarted true).m.farStopped f.a = false := by rw [Mach.farStopped, haon]; rfl
    rw [exec_clockRestart true hs, h.1]
    dsimp only
    rw [hwas, hnow]
    exact (Far.whole_eq (s := s.restarted true) ⟨hst.far, hst.up, hst.addr, hst.al, hst.priv⟩ hs hnow).symm
  · have hok : (addrPriv a.toNat && !priv) = false := by
      cases hp : addrPriv a.toNat with
      | false => rfl
      | true => rw [hpriv hp]; rfl
    refine Does.of_exec ?_
    change execRpFarAccess a wr priv mid s = _
    rw [execRpFarAccess, State.on_eq hs]
    simp [hup, hnone, hfar, hal, hok, Mach.modRp]
  · refine Does.of_exec ?_
    change execRpFarAccess a wr priv mid s = _
    rw [execRpFarAccess, State.on_eq hs]
    simp [Option.isSome_iff_ne_none.2 hsome]
  · refine Does.of_exec ?_
    rw [exec_rpFarResponse hs hf, hstop]
    rfl
  · refine Does.of_exec ?_
    rw [exec_rpFarResponse hs hf, hrun]
    exact congrArg (fun m => Host.Outcome.next { s with m := m }) (State.farDone_arg ha hw hlive)
  · refine Does.of_exec ?_
    change execHungTargetRecord s = _
    rw [execHungTargetRecord, State.on_eq hs, hf, hh]
    simp [Mach.modRp, b1, farAon]
  · refine Does.of_exec ?_
    change execHungTargetRecord s = _
    rw [execHungTargetRecord, State.on_eq hs]
    obtain ⟨u, hu⟩ := Option.ne_none_iff_exists'.1 hh
    rw [hu]
    cases s.m.rp.far <;> rfl
  · refine Does.of_exec ?_
    rw [exec_clockRestart false hs, hnone]
    rfl
  · refine Does.of_exec ?_
    rw [exec_clockRestart true hs, hnone]
    rfl
  · have haon : farAon f.a = false := by rw [ha]; rfl
    have hwas : s.m.farStopped f.a = true := by rw [Mach.farStopped, haon]; exact hstop
    have hnow : (s.restarted false).m.farStopped f.a = false := by rw [Mach.farStopped, haon]; rfl
    refine Does.of_exec ?_
    rw [exec_clockRestart false hs, hf]
    dsimp only
    rw [hwas, hnow]
    exact congrArg (fun m => Host.Outcome.next { s with m := m }) (State.farDone_arg (s := s.restarted false) ha hw hlive)

end Sys2Proof.Machine

/-! PROOFS. Access codes of the registers (O19), field by field: what a write and a clearing read leave. -/

namespace Sys2Proof.Machine

/-! ## Fields of a register -/

/-- Two fields of a register that do not meet. -/
abbrev RField.Apart (f g : RField) : Prop := f.lo + f.len ≤ g.lo ∨ g.lo + g.len ≤ f.lo

/-- Whether bit `i` lies in the field. -/
abbrev RField.Has (f : RField) (i : Nat) : Prop := f.lo ≤ i ∧ i < f.lo + f.len

/-- What a write leaves of one bit under an access code (R15). -/
def Acc.bit (a : Acc) (engine old v : Bool) : Bool :=
  match a with
  | .rw => v
  | .eo => if engine then v else old
  | .w1c => old && !v
  | _ => old

/-- A write at one field. -/
def writeField (engine : Bool) (v : Word) (w : Word) (f : RField) : Word :=
  match f.acc with
  | .rw => sf w f.lo f.len (bf v f.lo f.len)
  | .eo => if engine then sf w f.lo f.len (bf v f.lo f.len) else w
  | .w1c => w &&& ~~~(mkf 64 f.lo f.len (bf v f.lo f.len))
  | _ => w

theorem writeFields_eq (l : List RField) (engine : Bool) (old v : Word) :
    writeFields l engine old v = l.foldl (writeField engine v) old := rfl

theorem bt_and_not (a b : Word) (i : Nat) : bt (a &&& ~~~b) i = (bt a i && !bt b i) := by
  unfold bt
  rw [BitVec.getLsbD_and, BitVec.getLsbD_not]
  by_cases hi : i < 64
  · simp [hi]
  · simp [BitVec.getLsbD_of_ge a i (by omega)]

/-- A write at one field, bit by bit. -/
theorem bt_writeField {f : RField} (hf : f.lo + f.len ≤ 64) (engine : Bool) (v w : Word) (i : Nat) :
    (f.Has i → bt (writeField engine v w f) i = f.acc.bit engine (bt w i) (bt v i)) ∧
    (¬ f.Has i → bt (writeField engine v w f) i = bt w i) := by
  have hset : bt (sf w f.lo f.len (bf v f.lo f.len)) i = if f.Has i then bt v i else bt w i := by
    rw [bt_sf w hf, testBit_bf]
    unfold RField.Has
    by_cases h : f.lo ≤ i ∧ i < f.lo + f.len
    · rw [if_pos h, if_pos h, decide_eq_true (by omega), Bool.true_and, show f.lo + (i - f.lo) = i by omega]
    · rw [if_neg h, if_neg h]
  have hclr : bt (w &&& ~~~(mkf 64 f.lo f.len (bf v f.lo f.len))) i = if f.Has i then bt w i && !bt v i else bt w i := by
    rw [bt_and_not, bt_mkf hf, testBit_bf]
    unfold RField.Has
    by_cases h : f.lo ≤ i ∧ i < f.lo + f.len
    · rw [if_pos h, decide_eq_true h.1, decide_eq_true h.2, decide_eq_true (by omega), show f.lo + (i - f.lo) = i by omega]
      simp
    · rw [if_neg h]
      rcases not_and_or.1 h with h | h <;> simp [h]
  unfold writeField Acc.bit
  cases f.acc <;> cases engine <;> refine ⟨fun h => ?_, fun h => ?_⟩ <;> simp [hset, hclr, h]

theorem bt_writeFields_out {l : List RField} (hl : ∀ f ∈ l, f.lo + f.len ≤ 64) (engine : Bool) (v w : Word) {i : Nat}
    (h : ∀ f ∈ l, ¬ f.Has i) : bt (l.foldl (writeField engine v) w) i = bt w i := by
  induction l generalizing w with
  | nil => rfl
  | cons f l ih =>
    rw [List.foldl_cons, ih (fun g hg => hl g (List.mem_cons_of_mem _ hg)) _ (fun g hg => h g (List.mem_cons_of_mem _ hg))]
    exact (bt_writeField (hl f List.mem_cons_self) engine v w i).2 (h f List.mem_cons_self)

theorem bt_writeFields_in {l : List RField} (hl : ∀ f ∈ l, f.lo + f.len ≤ 64) (hd : l.Pairwise RField.Apart) (engine : Bool) (v w : Word)
    {f : RField} (hf : f ∈ l) {i : Nat} (hi : f.Has i) :
    bt (l.foldl (writeField engine v) w) i = f.acc.bit engine (bt w i) (bt v i) := by
  induction l generalizing w with
  | nil => cases hf
  | cons g l ih =>
    obtain ⟨hg, hd⟩ := List.pairwise_cons.1 hd
    have hl' : ∀ f ∈ l, f.lo + f.len ≤ 64 := fun f hf => hl f (List.mem_cons_of_mem _ hf)
    rw [List.foldl_cons]
    rcases List.mem_cons.1 hf with rfl | hmem
    · rw [bt_writeFields_out hl' engine v _ (fun k hk hki => ?_)]
      · exact (bt_writeField (hl f List.mem_cons_self) engine v w i).1 hi
      · have := hg k hk
        unfold RField.Apart at this
        unfold RField.Has at hi hki
        omega
    · rw [ih hl' hd _ hmem, (bt_writeField (hl g List.mem_cons_self) engine v w i).2 (fun hgi => ?_)]
      have := hg f hmem
      unfold RField.Apart at this
      unfold RField.Has at hi hgi
      omega

/-- The fields of a register lie in its word and do not meet. -/
theorem Reg.fields_apart (r : Reg) : r.fields.Pairwise RField.Apart ∧ ∀ f ∈ r.fields, f.lo + f.len ≤ 64 := by

  cases r <;> decide

/-- What a write leaves of a register is what its access codes say (R15). -/
theorem written_writeFields (r : Reg) (engine : Bool) (old v : Word) :
    Written r.fields engine old v (writeFields r.fields engine old v) := by
  obtain ⟨hd, hl⟩ := r.fields_apart
  refine ⟨fun f hf => ?_, fun i hi => ?_⟩
  · have hbits (i : Nat) (hi : i < f.len) : bt (writeFields r.fields engine old v) (f.lo + i) =
        f.acc.bit engine (bt old (f.lo + i)) (bt v (f.lo + i)) :=
      bt_writeFields_in hl hd engine v old hf ⟨by omega, by omega⟩
    unfold Acc.bit at hbits
    cases hacc : f.acc <;> rw [hacc] at hbits
    case eo => cases engine <;> exact bf_congr hbits
    case w1c => exact bf_congr fun i hi => by rw [hbits i hi, bt_and_not]
    all_goals exact bf_congr hbits
  · exact bt_writeFields_out hl engine v old (fun f hf hfi => by have := hi f hf; unfold RField.Has at hfi; omega)

/-- A register whose fields only an engine writes stays at a write from the host. -/
theorem written_engineOnly {l : List RField} (h : ∀ f ∈ l, f.acc ≠ .rw ∧ f.acc ≠ .w1c) (old v : Word) : Written l false old v old := by
  refine ⟨fun f hf => ?_, fun _ _ => rfl⟩
  obtain ⟨hrw, hw1c⟩ := h f hf
  cases hacc : f.acc <;> simp_all

/-- ... and its word is kept as it is. -/
theorem writeFields_engineOnly {l : List RField} (h : ∀ f ∈ l, f.acc ≠ .rw ∧ f.acc ≠ .w1c) (old v : Word) :
    writeFields l false old v = old := by
  rw [writeFields_eq]
  induction l with
  | nil => rfl
  | cons f l ih =>
    have hf : writeField false v old f = old := by
      obtain ⟨hrw, hw1c⟩ := h f List.mem_cons_self
      unfold writeField
      cases hacc : f.acc <;> simp_all
    rw [List.foldl_cons, hf, ih (fun g hg => h g (List.mem_cons_of_mem _ hg))]

/-! ## Clearing reads -/

/-- One field of a register cleared by a read. -/
def clearField (a : Nat) (m : Mach) (f : RField) : Mach :=
  match f.acc with
  | .rc => m.setFld a f.lo f.len 0
  | _ => m

theorem Mach.setReg_twice (m : Mach) (a : Nat) (v w : Word) : ((m.setReg a v).setReg a w).Like (m.setReg a w) := by
  refine { Mach.Like.refl m with reg := fun k _ => ?_, bare := rfl }
  by_cases hk : k = a
  · subst hk; rw [Mach.reg_setReg, Mach.reg_setReg]
  · rw [Mach.reg_setReg_ne _ _ hk, Mach.reg_setReg_ne _ _ hk, Mach.reg_setReg_ne _ _ hk]

theorem Mach.setReg_self (m : Mach) (a : Nat) : (m.setReg a (m.reg a)).Like m := by
  refine { Mach.Like.refl m with reg := fun k _ => ?_, bare := rfl }
  by_cases hk : k = a
  · subst hk; rw [Mach.reg_setReg]
  · rw [Mach.reg_setReg_ne _ _ hk]

/-- Clearing fields changes the register's word alone, and in it the bits of the RC fields (R16). -/
theorem clearFields_eq {l : List RField} (hl : ∀ f ∈ l, f.lo + f.len ≤ 64) (a : Nat) (m : Mach) :
    ReadCleared l (m.reg a) ((l.foldl (clearField a) m).reg a) ∧
    (l.foldl (clearField a) m).Like (m.setReg a ((l.foldl (clearField a) m).reg a)) := by
  induction l generalizing m with
  | nil => exact ⟨fun i => by simp, (m.setReg_self a).symm⟩
  | cons f l ih =>
    obtain ⟨hbits, hlike⟩ := ih (fun g hg => hl g (List.mem_cons_of_mem _ hg)) (clearField a m f)
    have hf := hl f List.mem_cons_self
    rw [List.foldl_cons]
    have hone (i : Nat) : bt ((clearField a m f).reg a) i =
        (bt (m.reg a) i && !(decide (f.acc = .rc) && decide (f.lo ≤ i) && decide (i < f.lo + f.len))) := by
      unfold clearField
      split
      · next hacc =>
        rw [Mach.setFld, Mach.reg_setReg, bt_sf _ hf, Nat.zero_testBit, hacc]
        by_cases h1 : f.lo ≤ i <;> by_cases h2 : i < f.lo + f.len <;> simp [h1, h2]
      · next hacc => simp [show f.acc ≠ .rc from hacc]
    refine ⟨fun i => ?_, hlike.trans ?_⟩
    · rw [hbits i, hone i, List.all_cons, Bool.and_assoc]
    · unfold clearField
      split
      · exact m.setReg_twice a _ _
      · exact .refl _

/-- A clearing read of a register that answers (R16); the peak of a station starts again instead. -/
theorem Mach.clearRc_eq {m : Mach} {a : Nat} {l : RegLoc} (hal : a % 8 = 0) (hloc : locate a = some l)
    (hans : m.answers l = true) (hdead : m.aonDead a = false) (hpeak : l.reg ≠ .spStnPeak) :
    m.clearRc a = l.reg.fields.foldl (clearField a) m := by
  obtain ⟨r, i, j⟩ := l
  have ha : a / 8 * 8 = a := by omega
  unfold Mach.clearRc
  simp only [ha, hloc, hans, hdead, Bool.not_true, Bool.or_false, Bool.false_eq_true, if_false]
  cases r
  case spStnPeak => exact absurd rfl hpeak
  all_goals rfl

/-! ## The register port's own writes and reads -/

theorem Mach.Like.answerTo {a m : Mach} (h : a.Like m) (n st : Nat) (v : Word) : (a.answerTo n st v).Like (m.answerTo n st v) := by
  rw [Mach.answerTo_eq, Mach.answerTo_eq]
  exact h.modRp _

@[simp] theorem Mach.reg_answerTo (m : Mach) (n st : Nat) (v : Word) (k : Nat) : (m.answerTo n st v).reg k = m.reg k := by
  rw [Mach.answerTo_eq, Mach.reg_modRp]

/-- The registers that an engine writes and that act on more than their own word, or keep only part of it. -/
def Reg.own (r : Reg) : Prop :=
  r = .flowTbl ∨ r = .pwrCfg ∨ r = .pcCfg ∨ r = .smpCfg0 ∨ r = .smpCfg1 ∨ r = .mirCfg ∨ r = .linkCfg ∨ r = .portSpCfg ∨ r = .portSpWeight

theorem Reg.own_fields {r : Reg} (h : r.own) : ∀ f ∈ r.fields, f.acc ≠ .rw ∧ f.acc ≠ .w1c := by
  rcases h with h | h | h | h | h | h | h | h | h <;> subst h <;> decide

/-- A word written again as it stands changes no setting of a link or a shared port. -/
theorem Mach.reg_setReg_self (m : Mach) (a k : Nat) : (m.setReg a (m.reg a)).reg k = m.reg k := by
  by_cases hk : k = a
  · subst hk; rw [Mach.reg_setReg]
  · rw [Mach.reg_setReg_ne _ _ hk]

/-- The host changes none of these registers (R15): nothing happens, or the word is written as it stands. -/
theorem Mach.writeReg_own {m : Mach} {a : Nat} {l : RegLoc} (hal : a % 8 = 0) (hloc : locate a = some l)
    (hans : m.answers l = true) (hdead : m.aonDead a = false) (hown : l.reg.own) (v : Word) :
    m.writeReg none a v = m ∨ m.writeReg none a v = m.setReg a (m.reg a) := by
  have hkeep := writeFields_engineOnly (Reg.own_fields hown) (m.reg a) v
  obtain ⟨r, i, j⟩ := l
  have ha : a / 8 * 8 = a := by omega
  unfold Mach.writeReg
  simp only [ha, hloc, hans, hdead, Bool.not_true, Bool.or_false, Bool.false_eq_true, if_false, Option.isSome_none]
  rw [show writeFields r.fields false (m.reg a) v = m.reg a from hkeep]
  rcases hown with h | h | h | h | h | h | h | h | h <;> dsimp only at h <;> subst h <;> dsimp only
  case inr.inr.inr.inr.inr.inr.inl =>
    unfold Mach.writeLinkCfg
    split
    · exact .inl rfl
    split
    · exact .inr rfl
    · next n _ =>
      have hsame : (m.setReg a (m.reg a)).forceHalf n = m.forceHalf n := by rw [Mach.forceHalf, Mach.reg_setReg_self]; rfl
      unfold Mach.forceWrite
      dsimp only
      rw [if_pos (.inl hsame.symm)]
      exact .inr rfl
  case inr.inr.inr.inr.inr.inr.inr.inl =>
    have hsame : (m.setReg a (m.reg a)).spFreeze i = m.spFreeze i := by rw [Mach.spFreeze, Mach.reg_setReg_self]; rfl
    unfold Mach.writeSpCfg
    dsimp only
    rw [hsame, Bool.and_not_self]
    exact .inr rfl
  all_goals exact .inl rfl

theorem exec_registerWrite (a : BitVec 24) (v : Word) (priv : Bool) (mid : BitVec 16) (s : State) :
    exec (.registerWrite a v priv mid) s = s.onAll (fun s => s.hostAccess a.toNat (some v) (addrPriv a.toNat) priv mid
      (fun s => (0, s.m.writeReg none a.toNat v))) := rfl

theorem exec_clearingRead (a : BitVec 24) (priv : Bool) (mid : BitVec 16) (s : State) :
    exec (.clearingRead a priv mid) s = s.onAll (fun s => s.hostAccess a.toNat none (addrPriv a.toNat) priv mid
      (fun s => s.portRead a.toNat)) := rfl

theorem priv_ok {p q : Bool} (h : p = true → q = true) : (p && !q) = false := by
  cases p <;> simp_all

/-- A write that the port takes. -/
theorem exec_registerWrite_takes {s : State} {a : BitVec 24} {priv : Bool} (h : Takes s a.toNat)
    (hp : addrPriv a.toNat = true → priv = true) (v : Word) (mid : BitVec 16) :
    exec (.registerWrite a v priv mid) s = .next { s with m := (s.m.writeReg none a.toNat v).answerTo a.toNat 0 0 } :=
  exec_hostAccess (exec_registerWrite a v priv mid s) h (priv_ok hp)

/-- A read that the port takes. -/
theorem exec_clearingRead_takes' {s : State} {a : BitVec 24} {priv : Bool} (h : Takes s a.toNat)
    (hp : addrPriv a.toNat = true → priv = true) (mid : BitVec 16) :
    exec (.clearingRead a priv mid) s =
      .next { s with m := (s.portRead a.toNat).2.answerTo a.toNat 0 (s.portRead a.toNat).1 } :=
  exec_hostAccess (exec_clearingRead a priv mid s) h (priv_ok hp)

/-- A read of a register that answers, but for the two whose read changes more, gives its word and changes nothing. -/
theorem State.readReg_view {s : State} {a : Nat} {l : RegLoc} (hal : a % 8 = 0) (hloc : locate a = some l)
    (hans : s.m.answers l = true) (hdead : s.m.aonDead a = false) (hft : l.reg ≠ .ftNow) (hdata : l.reg ≠ .engSramData) :
    s.readReg a = (s.view l a, s.m) := by
  obtain ⟨r, i, j⟩ := l
  have ha : a / 8 * 8 = a := by omega
  unfold State.readReg
  simp only [ha, hloc, hans, hdead, Bool.not_true, Bool.or_false, Bool.false_eq_true, if_false]

/-- Where no unit answers, a read gives zero and changes nothing (R6, R18). -/
theorem State.readReg_silent {s : State} {a : Nat} (hal : a % 8 = 0) (h : Silent s.m a) : s.readReg a = (0, s.m) := by
  have ha : a / 8 * 8 = a := by omega
  unfold State.readReg
  unfold Silent at h
  simp only [ha]
  cases hloc : locate a with
  | none => rfl
  | some l =>
    rw [hloc] at h
    have hans : (!s.m.answers l) = true := h
    simp only [hans, Bool.true_or, if_true]

theorem Mach.writeReg_silent {m : Mach} {a : Nat} (hal : a % 8 = 0) (h : Silent m a) (eng : Option Nat) (v : Word) :
    m.writeReg eng a v = m := by
  have ha : a / 8 * 8 = a := by omega
  unfold Mach.writeReg
  unfold Silent at h
  simp only [ha]
  cases hloc : locate a with
  | none => rfl
  | some l =>
    rw [hloc] at h
    have hans : (!m.answers l) = true := h
    simp only [hans, Bool.true_or, if_true]

theorem Mach.clearRc_silent {m : Mach} {a : Nat} (hal : a % 8 = 0) (h : Silent m a) : m.clearRc a = m := by
  have ha : a / 8 * 8 = a := by omega
  unfold Mach.clearRc
  unfold Silent at h
  simp only [ha]
  cases hloc : locate a with
  | none => rfl
  | some l =>
    rw [hloc] at h
    have hans : (!m.answers l) = true := h
    simp only [hans, Bool.true_or, if_true]

/-- What a write from the host leaves of a register that answers (R15). -/
theorem registerWrite_leaves {s : State} {a : BitVec 24} {l : RegLoc} {priv : Bool} (h : Takes s a.toNat)
    (hp : addrPriv a.toNat = true → priv = true) (hloc : locate a.toNat = some l) (hans : s.m.answers l = true)
    (hkind : l.reg.acts = false ∨ l.reg.own) (v : Word) (mid : BitVec 16) :
    ∃ t, exec (.registerWrite a v priv mid) s = .next t ∧ Written l.reg.fields false (s.m.reg a.toNat) v (t.m.reg a.toNat) ∧
      t.m.Like ((s.m.setReg a.toNat (t.m.reg a.toNat)).answerTo a.toNat 0 0) ∧ t.guards = s.guards ∧ t.pending = s.pending := by
  obtain ⟨-, -, hal, -, hdead⟩ := id h
  have hown (ho : l.reg.own) : (s.m.writeReg none a.toNat v).reg a.toNat = s.m.reg a.toNat ∧ (s.m.writeReg none a.toNat v).Like s.m := by
    rcases Mach.writeReg_own hal hloc hans hdead ho v with h | h <;> rw [h]
    · exact ⟨rfl, .refl _⟩
    · exact ⟨s.m.reg_setReg_self _ _, s.m.setReg_self _⟩
  refine ⟨_, exec_registerWrite_takes h hp v mid, ?_, ?_, rfl, rfl⟩
  · rw [Mach.reg_answerTo]
    rcases hkind with hacts | ho
    · rw [Mach.writeReg_word hal hloc hans hdead hacts, Mach.reg_setReg]
      exact written_writeFields l.reg false _ v
    · rw [(hown ho).1]
      exact written_engineOnly (Reg.own_fields ho) _ v
  · rw [Mach.reg_answerTo]
    refine Mach.Like.answerTo ?_ _ _ _
    rcases hkind with hacts | ho
    · rw [Mach.writeReg_word hal hloc hans hdead hacts, Mach.reg_setReg]
      exact .refl _
    · rw [(hown ho).1]
      exact (hown ho).2.trans (s.m.setReg_self _).symm

/-- What a read at the port gives, and leaves of a register that answers (R16). -/
theorem clearingRead_leaves {s : State} {a : BitVec 24} {l : RegLoc} {priv : Bool} (h : Takes s a.toNat)
    (hp : addrPriv a.toNat = true → priv = true) (hloc : locate a.toNat = some l) (hans : s.m.answers l = true)
    (hft : l.reg ≠ .ftNow) (hdata : l.reg ≠ .engSramData) (hpeak : l.reg ≠ .spStnPeak) (mid : BitVec 16) :
    ∃ t, exec (.clearingRead a priv mid) s = .next t ∧ ReadCleared l.reg.fields (s.m.reg a.toNat) (t.m.reg a.toNat) ∧
      t.m.Like ((s.m.setReg a.toNat (t.m.reg a.toNat)).answerTo a.toNat 0 (s.view l a.toNat)) ∧ t.guards = s.guards ∧
      t.pending = s.pending := by
  obtain ⟨-, -, hal, -, hdead⟩ := id h
  have hread : s.portRead a.toNat = (s.view l a.toNat, l.reg.fields.foldl (clearField a.toNat) s.m) := by
    rw [State.portRead, State.readReg_view hal hloc hans hdead hft hdata]
    exact congrArg _ (Mach.clearRc_eq hal hloc hans hdead hpeak)
  obtain ⟨hcleared, hlike⟩ := clearFields_eq l.reg.fields_apart.2 a.toNat s.m
  refine ⟨_, exec_clearingRead_takes' h hp mid, ?_, ?_, rfl, rfl⟩
  · rw [hread, Mach.reg_answerTo]
    exact hcleared
  · rw [hread, Mach.reg_answerTo]
    exact hlike.answerTo _ _ _

/-- Where no unit answers, a write does nothing and a read gives zero (R6, R18). -/
theorem access_silent {s : State} {a : BitVec 24} {priv : Bool} (h : Takes s a.toNat) (hp : addrPriv a.toNat = true → priv = true)
    (hsil : Silent s.m a.toNat) (v : Word) (mid : BitVec 16) :
    Does (.registerWrite a v priv mid) s (s.m.answerTo a.toNat 0 0) ∧ Does (.clearingRead a priv mid) s (s.m.answerTo a.toNat 0 0) := by
  obtain ⟨-, -, hal, -, -⟩ := id h
  refine ⟨Does.of_exec ?_, Does.of_exec ?_⟩
  · rw [exec_registerWrite_takes h hp v mid, Mach.writeReg_silent hal hsil]
  · rw [exec_clearingRead_takes' h hp mid, State.portRead, State.readReg_silent hal hsil]
    dsimp only
    rw [Mach.clearRc_silent hal hsil]

end Sys2Proof.Machine

/-! PROOFS. RDREG and WRREG, and what the register port denies (O19). -/

namespace Sys2Proof.Machine

/-! ## Where the registers stand -/

/-- The registers of an NIU (R113, R317, R473). -/
theorem locate_aNiu {n o : Nat} (hn : n < 516) (ho : o < 0x48) (ho8 : o % 8 = 0) :
    locate (aNiu n o) = (niuReg o).map (fun r => ⟨r, n, 0⟩) := by
  unfold aNiu
  by_cases hx : n < 512
  · rw [if_pos hx]
    unfold locate
    dsimp only
    rw [show (0x200000 + n * 0x1000 + o) / 8 * 8 = 0x200000 + n * 0x1000 + o by omega, if_neg (by omega), if_neg (by omega), if_neg (by omega),
      if_neg (by omega), if_neg (by omega), if_neg (by omega), if_neg (by omega), if_neg (by omega), if_neg (by omega), if_neg (by omega),
      if_pos (by omega), show (0x200000 + n * 0x1000 + o) % 0x1000 = o by omega, if_pos ho,
      show (0x200000 + n * 0x1000 + o - 0x200000) / 0x1000 = n by omega]
  · rw [if_neg hx]
    unfold locate engReg
    dsimp only
    rw [show (0x18000 + (n - 511) * 0x10000 + o) / 8 * 8 = 0x18000 + (n - 511) * 0x10000 + o by omega, if_neg (by omega), if_pos (by omega),
      show (0x18000 + (n - 511) * 0x10000 + o) % 0x10000 = 0x8000 + o by omega, if_neg (by omega), if_neg (by omega), if_neg (by omega),
      if_pos (by omega), Nat.add_sub_cancel_left, show 511 + ((0x18000 + (n - 511) * 0x10000 + o) / 0x10000 - 1) = n by omega]

/-- The port registers (R92). -/
theorem locate_aPort {n o : Nat} (hn : n < 512) (ho : o < 0x28) (ho8 : o % 8 = 0) :
    locate (aPort n o) =
      (pick [.portStat, .portSpCfg, .portSpWeight, .portEvt, .portDrop] o).map (fun r => ⟨r, n, 0⟩) := by
  unfold aPort locate
  dsimp only
  rw [show (0x200800 + n * 0x1000 + o) / 8 * 8 = 0x200800 + n * 0x1000 + o by omega, if_neg (by omega), if_neg (by omega), if_neg (by omega),
    if_neg (by omega), if_neg (by omega), if_neg (by omega), if_neg (by omega), if_neg (by omega), if_neg (by omega), if_neg (by omega),
    if_pos (by omega), show (0x200800 + n * 0x1000 + o) % 0x1000 = 0x800 + o by omega, if_neg (by omega), if_neg (by omega),
    if_pos (by omega), Nat.add_sub_cancel_left, show (0x200800 + n * 0x1000 + o - 0x200000) / 0x1000 = n by omega]

/-- An engine's registers (R336). -/
theorem locate_aEng (e : EngId) {o : Nat} (ho : o < 0x60) (ho8 : o % 8 = 0) :
    locate (aEng e o) = (pick [.engStat, .engPc, .engLaunch, .engArg0, .engArg1, .engStop, .engFault, .engFaultInsn, .engSramAddr,
      .engSramData, .engEvtIn, .engIrq] o).map (fun r => ⟨r, e, 0⟩) := by
  have := e.isLt
  have ha : aEng e o = 0x10000 + e * 0x10000 + o := rfl
  unfold locate engReg
  dsimp only
  rw [ha, show (0x10000 + e * 0x10000 + o) / 8 * 8 = 0x10000 + e * 0x10000 + o by omega, if_neg (by omega), if_pos (by omega),
    show (0x10000 + e * 0x10000 + o) % 0x10000 = o by omega, if_pos ho, show (0x10000 + e * 0x10000 + o) / 0x10000 - 1 = e by omega]

/-! ## RDREG and WRREG -/

theorem Tab.put_put {α : Type} (t : Tab α) (k : Nat) (v w : α) : Tab.put (Tab.put t k v) k w = Tab.put t k w := by
  induction t with
  | nil => simp [Tab.put]
  | cons e t ih =>
    by_cases h1 : k < e.1
    · simp [Tab.put, h1]
    by_cases h2 : e.1 = k
    · simp [Tab.put, h2]
    · simp [Tab.put, h1, Ne.symm h2, ih]

/-- Two changes of an engine, neither of which leaves it as after reset, are one. -/
theorem Mach.modEng_modEng {m : Mach} {e : Nat} {f g : Eng → Eng} (h1 : f (m.eng e) ≠ Eng.init) (h2 : g (f (m.eng e)) ≠ Eng.init) :
    (m.modEng e f).modEng e g = m.modEng e (fun x => g (f x)) := by
  have hput (t : Tab Eng) (x : Eng) (hx : x ≠ Eng.init) : Tab.set dEng t e x = Tab.put t e x := if_neg hx
  have hget : Tab.get dEng (Tab.put m.engs e (f (m.eng e))) e = f (m.eng e) := by
    rw [← hput _ _ h1]
    exact Tab.get_set ..
  have htab : Tab.upd dEng (Tab.upd dEng m.engs e f) e g = Tab.upd dEng m.engs e (fun x => g (f x)) := by
    unfold Tab.upd
    change Tab.set dEng (Tab.set dEng m.engs e (f (m.eng e))) e (g (Tab.get dEng (Tab.set dEng m.engs e (f (m.eng e))) e)) =
      Tab.set dEng m.engs e (g (f (m.eng e)))
    rw [hput _ _ h1, hget, hput _ _ h2, hput _ _ h2, Tab.put_put]
  unfold Mach.modEng
  rw [htab]

/-- Which registers answer depends on the variant, the domains and which engines are on. -/
theorem Mach.answers_congr {m : Mach} {r : Tab Word} {g : Tab Eng} (h : ∀ e, ({ m with regs := r, engs := g } : Mach).engLive e = m.engLive e)
    (l : RegLoc) : ({ m with regs := r, engs := g } : Mach).answers l = m.answers l := by
  obtain ⟨reg, i, j⟩ := l
  unfold Mach.answers
  cases reg
  case engStat | engPc | engLaunch | engArg0 | engArg1 | engStop | engFault | engFaultInsn | engSramAddr | engSramData | engEvtIn | engIrq =>
    exact h i
  all_goals rfl

/-- The machine in which an engine waits for the completion of an instruction with a register access. -/
def Mach.waits (m : Mach) (e : Nat) (w : Word) : Mach := (m.issued e w).done e xOK []

theorem Mach.waits_eq {m : Mach} {e : Nat} {w : Word} (h : m.fetch e = .word w) :
    m.waits e w = (m.readPc e).modEng e (fun x => x.awaits w 0 []) := by
  refine Mach.modEng_modEng ?_ ?_
  · rw [Mach.eng_readPc]
    intro hinit
    have hidle : (m.eng e).state = .idle := congrArg Eng.state hinit
    rw [Mach.fetch_running h] at hidle
    cases hidle
  · intro hinit
    have := congrArg Eng.state hinit
    cases this

theorem Mach.waits_frame (m : Mach) (e : Nat) (w : Word) :
    m.waits e w = { m with regs := (m.waits e w).regs, engs := (m.waits e w).engs } := by
  unfold Mach.waits
  rw [m.issued_eq e w]
  rfl

theorem Mach.engLive_waits {m : Mach} {e : Nat} {w : Word} (h : m.fetch e = .word w) (k : Nat) :
    (m.waits e w).engLive k = m.engLive k := by
  have hdom (d : Nat) : (m.waits e w).domLive d = m.domLive d := by rw [m.waits_frame e w]; rfl
  rw [Mach.engLive, Mach.engLive, hdom, m.waits_eq h]
  by_cases hk : k = e
  · subst hk
    rw [Mach.eng_modEng, Mach.fetch_running h]
    rfl
  · rw [Mach.eng_modEng_ne _ _ hk, Mach.eng_readPc]

theorem Mach.answers_waits {m : Mach} {e : Nat} {w : Word} (h : m.fetch e = .word w) (l : RegLoc) :
    (m.waits e w).answers l = m.answers l := by
  have hl := Mach.engLive_waits h
  rw [m.waits_frame e w] at hl ⊢
  exact Mach.answers_congr hl l

theorem Mach.silent_waits {m : Mach} {e a : Nat} {w : Word} (h : m.fetch e = .word w) (hs : Silent m a) : Silent (m.waits e w) a := by
  unfold Silent at hs ⊢
  cases hloc : locate a with
  | none => rfl
  | some l =>
    rw [hloc] at hs
    exact (congrArg (!·) (Mach.answers_waits h l)).trans hs

theorem Mach.aonDead_waits (m : Mach) (e a : Nat) (w : Word) : (m.waits e w).aonDead a = m.aonDead a := by
  rw [m.waits_frame e w]; rfl

/-- An instruction whose meaning reads the guards is issued as any other (R315, R339). -/
theorem State.issue_word {s : State} {e opc : Nat} {w : Word} {sel : Word → Bool} (h : Issues s e w opc) (hs : sel w = true)
    (body : Word → State → State) : s.issue e opc sel body = body w { s with m := s.m.issued e w } := by
  obtain ⟨-, hf, ho, hl, ht⟩ := h
  unfold State.issue
  rw [hf]
  simp only [ho, hs, and_self, or_true, if_true, hl, Bool.true_and, Bool.or_eq_true, Bool.not_eq_true']
  rw [if_pos ht]
  rfl

/-- What RDREG in scope leaves (R352, R429). -/
def State.rdregged (s : State) (e : Nat) (w : Word) : Mach :=
  let a := bf ((s.m.eng e).reg (wA w)) 0 24
  let r := ({ s with m := s.m.waits e w }).readReg a
  if a % 8 ≠ 0 then (s.m.issued e w).haltFault e 9
  else if farAon a && s.m.clk.astop then (s.m.issued e w).setWait e .aon
  else r.2.modEng e (fun x => { x with wait := .done xOK [(wD w, r.1)] })

/-- RDREG in scope (R352). -/
theorem exec_rdreg {s : State} {e : EngId} {w : Word} (h : Issues s e w 0x24)
    (hscope : bf ((s.m.eng e).reg (wA w)) 0 24 < 0x10000 ∨ inScope e (addrQuad (bf ((s.m.eng e).reg (wA w)) 0 24)) = true) :
    exec (.rdreg e) s = .next { s with m := s.rdregged e w } := by
  have hsc : (decide (bf ((s.m.eng e).reg (wA w)) 0 24 < 0x10000) || inScope e (addrQuad (bf ((s.m.eng e).reg (wA w)) 0 24))) = true := by
    rw [Bool.or_eq_true, decide_eq_true_eq]
    exact hscope
  have hreg : ((s.m.issued e w).eng e).reg (wA w) = (s.m.eng e).reg (wA w) := by rw [Mach.eng_issued]; rfl
  have hclk : (s.m.issued e w).clk = s.m.clk := by rw [Mach.issued_eq]
  change execRdreg e s = _
  rw [execRdreg, State.onS, h.1, State.issue_word h rfl]
  dsimp only
  rw [hreg, hsc, Mach.status_free, hclk]
  simp only [State.doRdreg, hreg]
  rfl

/-- What WRREG in scope leaves (R319, R352, R429). -/
def Mach.wrregged (m : Mach) (e : Nat) (w : Word) : Mach :=
  let a := bf ((m.eng e).reg (wA w)) 0 24
  if a % 8 ≠ 0 then (m.issued e w).haltFault e 9
  else if m.wrDenied a then (m.issued e w).endStatus e 6 []
  else if farAon a && m.clk.astop then (m.issued e w).setWait e .aon
  else (m.waits e w).writeReg (some e) a ((m.eng e).reg (wB w))

/-- WRREG in scope (R352). -/
theorem exec_wrreg {s : State} {e : EngId} {w : Word} (h : Issues s e w 0x25)
    (hscope : inScope e (addrQuad (bf ((s.m.eng e).reg (wA w)) 0 24)) = true) :
    exec (.wrreg e) s = .next { s with m := s.m.wrregged e w } := by
  have hreg (i : Nat) : ((s.m.issued e w).eng e).reg i = (s.m.eng e).reg i := by rw [Mach.eng_issued]; rfl
  have hclk : (s.m.issued e w).clk = s.m.clk := by rw [Mach.issued_eq]
  have hden (k : Nat) : (s.m.issued e w).wrDenied k = s.m.wrDenied k := by rw [Mach.issued_eq]; rfl
  change execWrreg e s = _
  rw [execWrreg, State.on_eq h.1, Mach.issue_word h rfl]
  refine congrArg (fun m => Host.Outcome.next { s with m := m }) ?_
  dsimp only
  rw [← Mach.issued, hreg, hscope, Mach.status_free]
  simp only [Mach.doWrreg, hreg, hclk, hden]
  rfl

/-- The writes that R319 denies: the guard ranges, the fences, and the reserved slots and stations of a spine. -/
theorem Mach.wrDenied_of {m : Mach} {a : Nat}
    (h : (0x100000 ≤ a ∧ a < 0x180000 ∧ 0x600 ≤ a % 0x1000 ∧ a % 0x1000 < 0xF00) ∨ (∃ n, n < 516 ∧ (a = aNiu n 0x10 ∨ a = aNiu n 0x18)) ∨
      (m.hasSpine = true ∧ (a = 0x80010 ∨ a = 0x80018 ∨ a = 0x80020))) : m.wrDenied a = true := by
  unfold Mach.wrDenied
  rw [Bool.or_eq_true]
  rcases h with h | ⟨n, hn, rfl | rfl⟩ | ⟨hs, rfl | rfl | rfl⟩
  · exact .inl (decide_eq_true h)
  · rw [locate_aNiu hn (by decide) (by decide)]
    exact .inr rfl
  · rw [locate_aNiu hn (by decide) (by decide)]
    exact .inr rfl
  all_goals exact .inr hs

/-- WRREG of a register that may be written, with the engine waiting for its completion. -/
theorem Mach.wrregged_writes {m : Mach} {e : Nat} {w : Word} (hal : bf ((m.eng e).reg (wA w)) 0 24 % 8 = 0)
    (hclk : farAon (bf ((m.eng e).reg (wA w)) 0 24) = true → m.clk.astop = false)
    (hden : m.wrDenied (bf ((m.eng e).reg (wA w)) 0 24) = false) :
    m.wrregged e w = (m.waits e w).writeReg (some e) (bf ((m.eng e).reg (wA w)) 0 24) ((m.eng e).reg (wB w)) := by
  have hstop : (farAon (bf ((m.eng e).reg (wA w)) 0 24) && m.clk.astop) = false := by
    cases hf : farAon (bf ((m.eng e).reg (wA w)) 0 24) with
    | false => rfl
    | true => exact hclk hf
  dsimp only [Mach.wrregged]
  rw [if_neg (not_not_intro hal), hden, hstop]
  rfl

theorem Mach.waits_likeAt {m : Mach} {e : Nat} {w : Word} : (m.waits e w).LikeAt e ((m.eng e).awaits w 0 []) (m.readPc e) := by
  have h := ((Mach.LikeAt.refl (m.readPc e) e).mod (fun x => { x with insn := w })).mod
    (fun x => { x with state := .waiting, wait := .done xOK [], limit := none })
  rwa [Mach.eng_readPc] at h

/-- RDREG and WRREG (R319, R352). -/
theorem rdreg_wrreg (s : State) (e : EngId) (w : Word) :
    let x := s.m.eng e
    let a := bf (x.reg (wA w)) 0 24
    let read := Issues s e w 0x24 ∧ a % 8 = 0 ∧ (a < 0x10000 ∨ inScope e (addrQuad a) = true) ∧ s.m.aonDead a = false ∧
      (farAon a = true → s.m.clk.astop = false)
    let write := Issues s e w 0x25 ∧ a % 8 = 0 ∧ inScope e (addrQuad a) = true ∧ s.m.aonDead a = false ∧
      (farAon a = true → s.m.clk.astop = false)
    (∀ l, read → locate a = some l → l.reg ≠ .ftNow → l.reg ≠ .engSramData → s.m.answers l = true →
      DoesAt (.rdreg e) s e
        (x.awaits w 0 [(wD w, ({ s with m := (s.m.readPc e).modEng e (fun x => x.awaits w 0 []) } : State).view l a)]) (s.m.readPc e)) ∧
    (read → Silent s.m a → DoesAt (.rdreg e) s e (x.awaits w 0 [(wD w, 0)]) (s.m.readPc e)) ∧
    (Issues s e w 0x24 → (a < 0x10000 ∨ inScope e (addrQuad a) = true) → a % 8 ≠ 0 →
      Does (.rdreg e) s (((s.m.readPc e).modEng e (fun x => { x with insn := w })).haltFault e 9)) ∧
    (Issues s e w 0x25 → inScope e (addrQuad a) = true → a % 8 ≠ 0 →
      Does (.wrreg e) s (((s.m.readPc e).modEng e (fun x => { x with insn := w })).haltFault e 9)) ∧
    (∀ l, write → s.m.wrDenied a = false → locate a = some l → l.reg.acts = false → s.m.answers l = true →
      ∃ t, exec (.wrreg e) s = .next t ∧ Written l.reg.fields true ((s.m.readPc e).reg a) (x.reg (wB w)) (t.m.reg a) ∧
        t.m.LikeAt e (x.awaits w 0 []) ((s.m.readPc e).setReg a (t.m.reg a)) ∧ t.guards = s.guards ∧ t.pending = s.pending) ∧
    (write → s.m.wrDenied a = false → Silent s.m a → DoesAt (.wrreg e) s e (x.awaits w 0 []) (s.m.readPc e)) ∧
    (Issues s e w 0x25 → a % 8 = 0 → inScope e (addrQuad a) = true →
      ((0x100000 ≤ a ∧ a < 0x180000 ∧ 0x600 ≤ a % 0x1000 ∧ a % 0x1000 < 0xF00) ∨ (∃ n, n < 516 ∧ (a = aNiu n 0x10 ∨ a = aNiu n 0x18)) ∨
        (s.m.hasSpine = true ∧ (a = 0x80010 ∨ a = 0x80018 ∨ a = 0x80020))) →
      Does (.wrreg e) s (((s.m.readPc e).modEng e (fun x => { x with insn := w })).endStatus e 6 [])) := by
  intro x a read write
  have hread (v : Word) (h : read) (hr : ({ s with m := s.m.waits e w } : State).readReg a = (v, s.m.waits e w)) :
      DoesAt (.rdreg e) s e (x.awaits w 0 [(wD w, v)]) (s.m.readPc e) := by
    obtain ⟨hi, hal, hscope, -, hclk⟩ := h
    have hstop : (farAon a && s.m.clk.astop) = false := by
      cases hf : farAon a with
      | false => rfl
      | true => exact hclk hf
    refine ⟨_, exec_rdreg hi hscope, rfl, rfl, ?_⟩
    dsimp only [State.rdregged]
    rw [if_neg (not_not_intro hal), hstop, hr]
    exact s.m.waits_likeAt.mod (fun x => { x with wait := .done xOK [(wD w, v)] })
  have hwrite (h : write) (hden : s.m.wrDenied a = false) := Mach.wrregged_writes h.2.1 h.2.2.2.2 hden
  have hdead : (s.m.waits e w).aonDead a = s.m.aonDead a := s.m.aonDead_waits e a w
  refine ⟨fun l h hloc hft hdata hans => ?_, fun h hsil => ?_, fun h hscope hal => ?_, fun h hscope hal => ?_,
    fun l h hden hloc hacts hans => ?_, fun h hden hsil => ?_, fun h hal hscope hd => ?_⟩
  · have hf := h.1.2.1
    refine hread _ h ?_
    rw [State.readReg_view h.2.1 hloc ((Mach.answers_waits hf l).trans hans) (hdead.trans h.2.2.2.1) hft hdata, Mach.waits_eq hf]
  · exact hread _ h (State.readReg_silent h.2.1 (Mach.silent_waits h.1.2.1 hsil))
  · refine Does.of_exec ((exec_rdreg h hscope).trans ?_)
    rw [State.rdregged, if_pos hal]
    rfl
  · refine Does.of_exec ((exec_wrreg h hscope).trans ?_)
    rw [Mach.wrregged, if_pos hal]
    rfl
  · have hf := h.1.2.1
    rw [exec_wrreg h.1 h.2.2.1, hwrite h hden, Mach.writeReg_word h.2.1 hloc ((Mach.answers_waits hf l).trans hans) (hdead.trans h.2.2.2.1) hacts]
    refine ⟨_, rfl, ?_, ?_, rfl, rfl⟩
    · rw [Mach.reg_setReg]
      exact written_writeFields l.reg true _ _
    · rw [Mach.reg_setReg]
      exact s.m.waits_likeAt.setReg a _
  · refine ⟨_, exec_wrreg h.1 h.2.2.1, rfl, rfl, ?_⟩
    rw [hwrite h hden, Mach.writeReg_silent h.2.1 (Mach.silent_waits h.1.2.1 hsil)]
    exact s.m.waits_likeAt
  · refine Does.of_exec ((exec_wrreg h hscope).trans ?_)
    rw [Mach.wrregged, if_neg (not_not_intro hal), Mach.wrDenied_of hd]
    rfl

/-! ## What the register port denies -/

/-- The record of a denied access (R469, R474). -/
theorem denyWord_eq (write : Bool) (mid : BitVec 16) {a : Nat} (ha : a < 2 ^ 24) :
    (mkf 64 63 1 1 ||| mkf 64 62 1 (b1 write) ||| mkf 64 32 16 mid.toNat ||| mkf 64 0 24 a : Word) =
      BitVec.ofNat 64 (2 ^ 63 + b1 write * 2 ^ 62 + mid.toNat * 2 ^ 32 + a) := by
  have hmid := mid.isLt
  have hb : b1 write < 2 ^ 1 := by cases write <;> decide
  unfold mkf
  rw [Nat.mod_eq_of_lt hb, Nat.mod_eq_of_lt hmid, Nat.mod_eq_of_lt ha, Nat.shiftLeft_zero, BitVec.or_assoc, BitVec.or_assoc,
    ofNat_or_ofNat (by omega), ofNat_or_ofNat (by omega), ofNat_or_ofNat (by omega)]
  congr 1
  omega

/-- The machine after a denied access. -/
def Mach.denied (m : Mach) (mid : BitVec 16) (a : Nat) (write : Bool) : Mach :=
  (if bt (m.reg 0x28) 63 = true then m
    else m.setReg 0x28 (BitVec.ofNat 64 (2 ^ 63 + b1 write * 2 ^ 62 + mid.toNat * 2 ^ 32 + a))).answer 1 0

theorem Mach.recordDeny_answer (m : Mach) (mid : BitVec 16) {a : Nat} (write : Bool) (ha : a < 2 ^ 24) :
    (m.recordDeny a write mid).answer 1 0 = m.denied mid a write := by
  rw [Mach.recordDeny, denyWord_eq write mid ha, Mach.denied]

/-- An access without the privilege that its register asks for (R469). -/
theorem State.hostAccess_denied {s : State} {a : Nat} {w : Option Word} {pr : Bool} {mid : BitVec 16} {act : State → Word × Mach}
    (hup : s.m.pwr.aonUp = true) (hfar : farAddr a = true → s.m.rp.far = none) (hal : a % 8 = 0) (ha : a < 2 ^ 24) (hp : pr = true) :
    s.hostAccess a w pr false mid act = s.m.denied mid a w.isSome := by
  have hfree : (farAddr a && s.m.rp.far.isSome) = false := by
    cases hf : farAddr a with
    | false => rfl
    | true => rw [hfar hf]; rfl
  rw [← Mach.recordDeny_answer _ _ _ ha]
  unfold State.hostAccess
  simp only [hup, hfree, hal, hp, Bool.not_true, Bool.or_self, Bool.false_eq_true, if_false, ne_eq, not_true_eq_false, Bool.not_false,
    Bool.and_self, if_true]

theorem Does.denied {i : Instr} {s : State} {a : Nat} {w : Option Word} {pr : Bool} {mid : BitVec 16} {act : State → Word × Mach}
    (hx : exec i s = s.onAll (fun s => s.hostAccess a w pr false mid act))
    (ho : s.m.test.scan = false ∧ s.m.pwr.aonUp = true ∧ (farAddr a = true → s.m.rp.far = none)) (hal : a % 8 = 0) (ha : a < 2 ^ 24) (hp : pr = true) :
    Does i s (s.m.denied mid a w.isSome) := by
  obtain ⟨hs, hup, hfar⟩ := ho
  refine Does.of_exec ?_
  rw [hx, State.onAll, hs, State.hostAccess_denied hup hfar hal ha hp]
  rfl

/-- A far register of the always-on domain before that is live (R430). -/
theorem State.hostAccess_dead {s : State} {a : Nat} {w : Option Word} {pr priv : Bool} {mid : BitVec 16} {act : State → Word × Mach}
    (hup : s.m.pwr.aonUp = true) (hfar : s.m.rp.far = none) (hal : a % 8 = 0) (hp : (pr && !priv) = false)
    (hstop : s.m.farStopped a = false) (hdead : s.m.aonDead a = true) : s.hostAccess a w pr priv mid act = s.m.answerTo a 0 0 := by
  rw [← State.carry_dead s a w act hdead]
  unfold State.hostAccess
  simp [hup, hfar, hal, hp, hstop]

theorem exec_gdLogPop (ep : Ep) (v : Word) (priv : Bool) (mid : BitVec 16) (s : State) :
    exec (.gdLogPop ep v priv mid) s = s.hostWrite (aGd ep 0x20) v true priv mid (fun m => m.gdPop ep v) := rfl

theorem exec_clrMeas (d : Dom) (v : Word) (priv : Bool) (mid : BitVec 16) (s : State) :
    exec (.clrMeas d v priv mid) s = s.hostWrite (aDom d 0x10) v true priv mid (fun m => m.clrMeas d v) := rfl

theorem exec_mirConsWrite (v : Word) (priv : Bool) (mid : BitVec 16) (s : State) :
    exec (.mirConsWrite v priv mid) s = s.hostWrite aMirCons v true priv mid (fun m => m.writeCons v) := rfl

theorem exec_fltSafeEnter (v : Word) (priv : Bool) (mid : BitVec 16) (s : State) :
    exec (.fltSafeEnter v priv mid) s = s.hostWrite aFltSafe v true priv mid (fun m => m.writeSafe v) := rfl

theorem exec_fltSafeExit (v : Word) (priv : Bool) (mid : BitVec 16) (s : State) :
    exec (.fltSafeExit v priv mid) s = s.hostWrite aFltSafe v true priv mid (fun m => m.writeSafe v) := rfl

theorem bt_and {n : Nat} (a b : BitVec n) (i : Nat) : bt (a &&& b) i = (bt a i && bt b i) := by
  rw [bt, BitVec.getLsbD_and]; rfl

/-- A write of PORT_EVT clears the flags it names (R92). -/
theorem writeFields_portEvt (w v : Word) : writeFields Reg.portEvt.fields false w v = w &&& ~~~(v &&& 0x30F) := by
  have hmask : (0x30F : Word) = mkf 64 9 1 (2 ^ 1 - 1) ||| mkf 64 8 1 (2 ^ 1 - 1) ||| mkf 64 0 4 (2 ^ 4 - 1) := by decide
  have h9 (k i : Nat) := bt_mkf (n := 64) (lo := 9) (len := 1) (by decide) k i
  have h8 (k i : Nat) := bt_mkf (n := 64) (lo := 8) (len := 1) (by decide) k i
  have h0 (k i : Nat) := bt_mkf (n := 64) (lo := 0) (len := 4) (by decide) k i
  refine BitVec.eq_of_getLsbD_eq fun i _ => ?_
  change bt (((w &&& ~~~(mkf 64 9 1 (bf v 9 1))) &&& ~~~(mkf 64 8 1 (bf v 8 1))) &&& ~~~(mkf 64 0 4 (bf v 0 4))) i =
    bt (w &&& ~~~(v &&& 0x30F)) i
  rw [hmask]
  rw [bt_and_not, bt_and_not, bt_and_not, bt_and_not, bt_and]
  simp only [bt_or, h9, h8, h0, testBit_bf, Nat.testBit_two_pow_sub_one]
  by_cases i9 : i = 9
  · subst i9; simp
  by_cases i8 : i = 8
  · subst i8; simp
  by_cases i4 : i < 4
  · simp [i4, show ¬ 9 ≤ i by omega, show ¬ 8 ≤ i by omega]
  rcases Nat.lt_or_ge i 8 with h | h
  · simp [i4, show ¬ 9 ≤ i by omega, show ¬ 8 ≤ i by omega]
  · simp [i4, show ¬ i < 10 by omega, show ¬ i < 9 by omega]

/-- Settles O19: the instructions, the access codes at the port, four registers in full, and what is denied. -/
theorem registerAccess : Obligations.RegisterAccess := by
  refine ⟨rdreg_wrreg, fun s l a v priv mid => ?_, fun s e ep v priv mid => ?_, fun s a v priv mid e ep d wr => ?_⟩
  · intro n old own ht hp
    exact ⟨fun hloc hans hkind => registerWrite_leaves ht hp hloc hans hkind v mid,
      fun hloc hans hft hdata hpeak => clearingRead_leaves ht hp hloc hans hft hdata hpeak mid, fun hsil => access_silent ht hp hsil v mid⟩
  · intro arg cfg evt drop
    have hep := ep.isLt
    have htile : epTile ep = ep / 4 := if_pos hep
    rw [← htile]
    have hnear {a : Nat} (h : a < 2 ^ 24) : (BitVec.ofNat 24 a).toNat = a := by
      rw [BitVec.toNat_ofNat, Nat.mod_eq_of_lt h]
    have he := e.isLt
    have harg : (BitVec.ofNat 24 arg).toNat = arg := hnear (by simp only [arg, aEng]; omega)
    have hcfg : (BitVec.ofNat 24 cfg).toNat = cfg := hnear (by simp only [cfg, aNiu, if_pos hep]; omega)
    have hevt : (BitVec.ofNat 24 evt).toNat = evt := hnear (by simp only [evt, aPort]; omega)
    have hdrop : (BitVec.ofNat 24 drop).toNat = drop := hnear (by simp only [drop, aPort]; omega)
    have hfar {a : Nat} (h : 0x200000 ≤ a ∧ a < 0x500000) : farAddr a = true := decide_eq_true (by omega)
    refine ⟨fun ht hlive => ?_, fun ht hlive => ?_, fun ht hlive => ?_, fun ht hlive => ?_, fun ht hbit => ?_, fun ht hbit => ?_⟩
    · have hloc : locate arg = some ⟨.engArg0, e, 0⟩ := locate_aEng e (by decide) (by decide)
      obtain ⟨-, -, hal, -, hdead⟩ := id ht
      refine Does.of_exec ?_
      rw [exec_registerWrite_takes (by rw [harg]; exact ht) (fun _ => rfl), harg, Mach.answerTo_far _ (farAddr_aEng e (by omega)),
        Mach.writeReg_word hal hloc hlive hdead rfl]
      exact congrArg (fun w => Host.Outcome.next { s with m := (s.m.setReg arg w).answerFar 0 0 }) (sf_whole _ v)
    · have hloc : locate cfg = some ⟨.niuCfg, ep, 0⟩ := locate_aNiu (by omega) (by decide) (by decide)
      obtain ⟨-, -, hal, -, hdead⟩ := id ht
      have hans : s.m.answers ⟨.niuCfg, ep, 0⟩ = true := hlive
      have hp : addrPriv cfg = true → priv = true := by rw [addrPriv, hloc]; nofun
      refine ⟨_, exec_registerWrite_takes (by rw [hcfg]; exact ht) (by rw [hcfg]; exact hp) v mid, rfl, rfl, ?_⟩
      rw [hcfg, Mach.answerTo_far _ (hfar (by simp only [cfg, aNiu, if_pos hep]; omega)), Mach.writeReg_word hal hloc hans hdead rfl]
      exact (s.m.setReg_self cfg).answerFar 0 0
    · have hloc : locate evt = some ⟨.portEvt, ep, 0⟩ := locate_aPort ep.isLt (by decide) (by decide)
      obtain ⟨-, -, hal, -, hdead⟩ := id ht
      have hans : s.m.answers ⟨.portEvt, ep, 0⟩ = true := hlive
      have hp : addrPriv evt = true → priv = true := by rw [addrPriv, hloc]; nofun
      refine Does.of_exec ?_
      rw [exec_registerWrite_takes (by rw [hevt]; exact ht) (by rw [hevt]; exact hp), hevt,
        Mach.answerTo_far _ (hfar (by simp only [evt, aPort]; omega)), Mach.writeReg_word hal hloc hans hdead rfl]
      exact congrArg (fun w => Host.Outcome.next { s with m := (s.m.setReg evt w).answerFar 0 0 }) (writeFields_portEvt _ v)
    · have hloc : locate drop = some ⟨.portDrop, ep, 0⟩ := locate_aPort ep.isLt (by decide) (by decide)
      obtain ⟨-, -, hal, -, hdead⟩ := id ht
      have hans : s.m.answers ⟨.portDrop, ep, 0⟩ = true := hlive
      have hp : addrPriv drop = true → priv = true := by rw [addrPriv, hloc]; nofun
      refine Does.of_exec ?_
      rw [exec_clearingRead_takes' (by rw [hdrop]; exact ht) (by rw [hdrop]; exact hp), hdrop,
        Mach.answerTo_far _ (hfar (by simp only [drop, aPort]; omega)), State.portRead,
        State.readReg_view hal hloc hans hdead nofun nofun]
      dsimp only
      rw [Mach.clearRc_eq hal hloc hans hdead nofun]
      rfl
    all_goals
      obtain ⟨hs, hup, -, -, -⟩ := ht
      have h := Does.denied (exec_clearingRead 0x40#24 false mid s) ⟨hs, hup, nofun⟩ rfl (by decide) rfl
      rw [Mach.denied, hbit] at h
    · rw [if_neg Bool.false_ne_true, show b1 (none : Option Word).isSome * 2 ^ 62 = 0 from rfl, Nat.add_zero] at h
      exact h
    · exact h
  · intro open' denied ho
    have hd (a : Nat) (w : Bool) : denied a w = s.m.denied mid a w := rfl
    clear_value denied
    have h24 := a.isLt
    have he := e.isLt
    have hep := ep.isLt
    have hdom := d.isLt
    simp only [hd]
    have hop (a : Nat) : s.m.test.scan = false ∧ s.m.pwr.aonUp = true ∧ (farAddr a = true → s.m.rp.far = none) :=
      ⟨ho.1, ho.2.1, fun _ => ho.2.2⟩
    refine ⟨fun hp hal => ⟨?_, ?_⟩, fun hp hal hstop hdead => ⟨?_, ?_⟩, fun hp hal hfar => ?_, ?_, ?_, ?_, ?_, ?_, ?_, ?_, ?_, ?_, ?_⟩
    · exact (Does.denied (exec_registerWrite ..) (hop _) hal h24 hp :)
    · exact (Does.denied (exec_clearingRead ..) (hop _) hal h24 hp :)
    · refine Does.of_exec ?_
      rw [exec_registerWrite, State.onAll, ho.1, State.hostAccess_dead ho.2.1 ho.2.2 hal (priv_ok hp) hstop hdead]
      rfl
    · refine Does.of_exec ?_
      rw [exec_clearingRead, State.onAll, ho.1, State.hostAccess_dead ho.2.1 ho.2.2 hal (priv_ok hp) hstop hdead]
      rfl
    · refine Does.of_exec ?_
      change execRpFarAccess a wr false mid s = _
      rw [execRpFarAccess, State.on_eq ho.1, ← Mach.recordDeny_answer _ _ _ h24]
      simp [ho.2.1, ho.2.2, hfar, hal, hp]
    · exact (Does.denied (exec_engLaunch ..) (hop _) (by unfold aEng; omega) (by unfold aEng; omega) rfl :)
    · exact (Does.denied (exec_engStop ..) (hop _) (by unfold aEng; omega) (by unfold aEng; omega) rfl :)
    · exact (Does.denied (exec_engEvtIn ..) (hop _) (by unfold aEng; omega) (by unfold aEng; omega) rfl :)
    · exact (Does.denied (exec_engSramAccess ..) (hop _) (by unfold aEng; omega) (by unfold aEng; omega) rfl :)
    · exact (Does.denied (exec_mbxAck ..) (hop _) (by decide) (by decide) rfl :)
    · exact (Does.denied (exec_gdLogPop ..) (hop _) (by unfold aGd; omega) (by unfold aGd; omega) rfl :)
    · exact (Does.denied (exec_clrMeas ..) (hop _) (by unfold aDom; omega) (by unfold aDom; omega) rfl :)
    · exact (Does.denied (exec_mirConsWrite ..) (hop _) (by decide) (by decide) rfl :)
    · exact (Does.denied (exec_fltSafeEnter ..) (hop _) (by decide) (by decide) rfl :)
    · exact (Does.denied (exec_fltSafeExit ..) (hop _) (by decide) (by decide) rfl :)

end Sys2Proof.Machine

/-! PROOFS. The state after reset (O4), the words of the manual's example (O7), posted events (O22), and the cycle with no command
waiting, in which a response at the register port goes too (O1). -/

namespace Sys2Proof.Machine

/-- A state in which both clocks stand still and the register port presents a response. -/
def stoppedPort : State :=
  { State.reset with m := { Mach.reset with clk := { Mach.reset.clk with fstop := true, astop := true },
                                            rp := { Mach.reset.rp with rsp := some (0, 0) } } }

/-- Refutes O1: with both clocks standing still and no command waiting, a response at the register port is presented no more after the
step (R466, R468), so that the state does not stay as it is. -/
theorem not_queueOrder : ¬ Obligations.QueueOrder := by
  rintro ⟨-, h⟩
  obtain ⟨-, -, -, hstay, -⟩ := h stoppedPort rfl
  have hrsp : stoppedPort.tick.m.rp.rsp = stoppedPort.m.rp.rsp := congrArg (fun s : State => s.m.rp.rsp) (hstay rfl rfl)
  cases hrsp

/-- Settles O4: each part of the reset state is what its definition says. -/
theorem resetState : Obligations.ResetState := by
  unfold Obligations.ResetState
  exact ⟨fun _ _ => ⟨rfl, rfl⟩, rfl, rfl, fun _ => rfl, rfl, rfl, rfl, fun _ => rfl, rfl, rfl, rfl, rfl, fun _ => rfl, fun _ _ => rfl,
    fun _ => rfl, fun _ => rfl, fun _ => rfl, rfl, rfl, rfl⟩

/-- Settles O7: each word decodes as the manual says. -/
theorem definedWords : Obligations.DefinedWords := by
  unfold Obligations.DefinedWords
  decide

/-- An event record of any kind (R329). -/
theorem evtRecord_eq {cls kind detail src : Nat} (us : Nat) (hc : cls < 13) (hk : kind < 16) (hd : detail < 2 ^ 16) (hs : src < 2 ^ 16) :
    (mkf 64 60 4 cls ||| mkf 64 56 4 kind ||| mkf 64 32 24 us ||| mkf 64 16 16 detail ||| mkf 64 0 16 src : Word) =
      BitVec.ofNat 64 (cls * 2 ^ 60 + kind * 2 ^ 56 + us % 2 ^ 24 * 2 ^ 32 + detail * 2 ^ 16 + src) := by
  have hus : us % 2 ^ 24 < 2 ^ 24 := Nat.mod_lt _ (by decide)
  unfold mkf
  rw [Nat.mod_eq_of_lt (show cls < 2 ^ 4 by omega), Nat.mod_eq_of_lt (show kind < 2 ^ 4 by omega), Nat.mod_eq_of_lt hd,
    Nat.mod_eq_of_lt hs, Nat.shiftLeft_zero, BitVec.or_assoc, BitVec.or_assoc, BitVec.or_assoc, ofNat_or_ofNat (by omega),
    ofNat_or_ofNat (by omega), ofNat_or_ofNat (by omega), ofNat_or_ofNat (by omega), Nat.add_assoc, Nat.add_assoc, Nat.add_assoc]

/-- Settles O22: queued, marked lost, or counted. -/
theorem eventPosting : Obligations.EventPosting := by
  intro m e cls kind detail src x r hc hk hd hs
  refine ⟨fun hoff hroom => ?_, fun hoff hfull => Mach.postEvt_full hoff hfull _ _ _ _, fun hoff => ?_⟩
  · rw [Mach.postEvt_queued hoff hroom, evtRecord_eq _ hc hk hd hs]
    exact (Mach.LikeAt.refl m e).mod _
  · rw [Mach.postEvt, if_pos hoff]

end Sys2Proof.Machine

/-! PROOFS. The guard instructions and the guard log (O25). -/

namespace Sys2Proof.Machine

/-! ## What a row acts on -/

/-- The machine in which a row acts, as the engine and the machine around it. -/
theorem Mach.issued_likeAt (m : Mach) (e : Nat) (w : Word) : (m.issued e w).LikeAt e { m.eng e with insn := w } (m.readPc e) := by
  have h := (Mach.LikeAt.refl (m.readPc e) e).mod (fun x => { x with insn := w })
  rwa [Mach.eng_readPc] at h

theorem Mach.LikeAt.done {a m : Mach} {e : Nat} {x : Eng} (h : a.LikeAt e x m) (st : Nat) (wr : List (Nat × Word)) :
    (a.done e st wr).LikeAt e { x with state := .waiting, wait := .done st wr, limit := none } m := h.mod _

theorem Mach.LikeAt.modNiu {a m : Mach} {e : Nat} {x : Eng} (h : a.LikeAt e x m) (n : Nat) (f : Niu → Niu) :
    (a.modNiu n f).LikeAt e x (m.modNiu n f) :=
  h.upd (fun y => y.modNiu n f) (fun _ => .refl _) (fun _ _ hl => hl.modNiu n f)

/-- The descriptor's words have been read. -/
theorem Mach.issued_readWords_likeAt (m : Mach) (e : EngId) (w : Word) (a n : Nat) :
    ((m.issued e w).readWords e a n).LikeAt e { m.eng e with insn := w } ((m.readPc e).readWords e a n) :=
  (m.issued_likeAt e w).readWords (by rw [Mach.eng_readPc]) a n

/-- ... which is the machine whose words were read before the word was noted. -/
theorem Mach.issued_readWords_like (m : Mach) (e : EngId) (w : Word) (a n : Nat) :
    ((m.issued e w).readWords e a n).Like (((m.readPc e).readWords e a n).modEng e (fun x => { x with insn := w })) := by
  have h := m.issued_readWords_likeAt e w a n
  rwa [Mach.LikeAt, Mach.modEng_congr (g := fun x => { x with insn := w }) (by rw [Mach.eng_readWords, Mach.eng_readPc])] at h

/-! ## The guard configuration -/

@[simp] theorem State.guard_setGuard (s : State) (n : Nat) (f : Guard → Guard) : (s.setGuard n f).guard n = f (s.guard n) := Tab.get_upd ..

theorem State.guard_setGuard_ne (s : State) {n k : Nat} (f : Guard → Guard) (h : k ≠ n) : (s.setGuard n f).guard k = s.guard k :=
  Tab.get_upd_ne _ _ h

/-- The words of a region written, and those of the others (R305). -/
theorem Guard.words_setRegion (g : Guard) (r : Nat) (d : Nat → Word) (k : Nat) :
    Tab.get dW0 (g.setRegion r d).words k = if k / 4 = r then d (k % 4) else Tab.get dW0 g.words k := by
  have hlist : List.range 4 = [0, 1, 2, 3] := rfl
  simp only [Guard.setRegion, hlist, List.foldl]
  by_cases hk : k / 4 = r
  · rw [if_pos hk]
    have hi : k % 4 < 4 := Nat.mod_lt _ (by decide)
    obtain ⟨i, hi4, rfl⟩ : ∃ i, i < 4 ∧ k = 4 * r + i := ⟨k % 4, hi, by omega⟩
    rw [show (4 * r + i) % 4 = i by omega]
    match i, hi4 with
    | 0, _ => rw [Tab.get_set_ne _ _ (by omega), Tab.get_set_ne _ _ (by omega), Tab.get_set_ne _ _ (by omega), Tab.get_set]
    | 1, _ => rw [Tab.get_set_ne _ _ (by omega), Tab.get_set_ne _ _ (by omega), Tab.get_set]
    | 2, _ => rw [Tab.get_set_ne _ _ (by omega), Tab.get_set]
    | 3, _ => rw [Tab.get_set]
  · rw [if_neg hk, Tab.get_set_ne _ _ (by omega), Tab.get_set_ne _ _ (by omega), Tab.get_set_ne _ _ (by omega),
      Tab.get_set_ne _ _ (by omega)]

/-- The region written reads as its descriptor (R305, R310). -/
theorem Guard.region_setRegion (g : Guard) (r : Nat) (d : Nat → Word) :
    (g.setRegion r d).start r = d 0 ∧ (g.setRegion r d).fin r = d 1 ∧ (g.setRegion r d).rules r 0 = d 2 ∧
    (g.setRegion r d).rules r 2 = d 3 := by
  refine ⟨?_, ?_, ?_, ?_⟩
  · rw [Guard.start, Guard.words_setRegion, if_pos (by omega), show 4 * r % 4 = 0 by omega]
  · rw [Guard.fin, Guard.words_setRegion, if_pos (by omega), show (4 * r + 1) % 4 = 1 by omega]
  · rw [Guard.rules, Guard.words_setRegion, if_pos (by omega), show (4 * r + 2 + 0 / 2) % 4 = 2 by omega]
  · rw [Guard.rules, Guard.words_setRegion, if_pos (by omega), show (4 * r + 2 + 2 / 2) % 4 = 3 by omega]

/-- The other regions stay. -/
theorem Guard.region_setRegion_ne (g : Guard) {r k : Nat} (h : k ≠ r) (d : Nat → Word) :
    (g.setRegion r d).start k = g.start k ∧ (g.setRegion r d).fin k = g.fin k ∧ (g.setRegion r d).rules k 0 = g.rules k 0 ∧
    (g.setRegion r d).rules k 2 = g.rules k 2 := by
  refine ⟨?_, ?_, ?_, ?_⟩
  · rw [Guard.start, Guard.words_setRegion, if_neg (by omega), Guard.start]
  · rw [Guard.fin, Guard.words_setRegion, if_neg (by omega), Guard.fin]
  · rw [Guard.rules, Guard.words_setRegion, if_neg (by omega), Guard.rules]
  · rw [Guard.rules, Guard.words_setRegion, if_neg (by omega), Guard.rules]

theorem Guard.lock_setRegion (g : Guard) (r : Nat) (d : Nat → Word) : (g.setRegion r d).lock = g.lock := rfl

theorem Guard.deny_setRegion (g : Guard) (r : Nat) (d : Nat → Word) : (g.setRegion r d).deny = g.deny := rfl

/-- The selector of an external endpoint in scope (R343). -/
theorem gd_selects {e n : Nat} {v : Word} (hv : v.toNat = n) (hn : n < 512) (hs : inScope e (some (quadOf (n / 4))) = true) :
    gdScope e v = true ∧ gdEp v = some n := by
  have hsel : selEp v = some n := by
    rw [selEp, selRange, if_pos ⟨by omega, by omega⟩, hv]
  refine ⟨?_, ?_⟩
  · rw [gdScope, hsel]
    dsimp only
    rw [epQuad, epTile, if_pos hn]
    exact hs
  · rw [gdEp, selRange, if_pos ⟨by omega, by omega⟩, hv]

theorem Mach.gate_open (m : Mach) (e : Nat) : m.gate e false true false = none := rfl

/-- A guard instruction outside scan mode. -/
theorem exec_guardRow {i : Instr} {s : State} {e opc : Nat} {w : Word} {sel : Word → Bool} {body : Word → State → State}
    (hx : exec i s = s.onS (fun s => s.issue e opc sel body)) (h : Issues s e w opc) (hs : sel w = true) :
    exec i s = .next (body w { s with m := s.m.issued e w }) := by
  rw [hx, State.onS, h.1, State.issue_word h hs]
  rfl

theorem Mach.reg_eng_issued (m : Mach) (e : Nat) (w : Word) (i : Nat) : ((m.issued e w).eng e).reg i = (m.eng e).reg i := by
  rw [Mach.eng_issued]; rfl

/-- The descriptor word `i` of an instruction (R340). -/
def descOf (m : Mach) (e : Nat) (w : Word) (i : Nat) : Word := Memory.word (m.eng e).sram ((wSadr w + 8 * i) % 65536)

theorem Mach.descWord_read (m : Mach) (e : Nat) (w : Word) (a n : Nat) :
    ((m.issued e w).readWords e a n).descWord e w = descOf m e w := by
  funext i
  rw [Mach.descWord, Mach.eng_readWords, Mach.eng_issued]
  rfl

section rows
variable {s : State} {e : EngId} {w : Word} {n : Nat}

/-- GD.SET of a region in range and not locked (R305). -/
theorem exec_gdSet (h : Issues s e w 0xA0) (hsel : bt w 42 = false) (hsc : gdScope e ((s.m.eng e).reg (wA w)) = true)
    (hep : gdEp ((s.m.eng e).reg (wA w)) = some n) (hal : wSadr w % 8 = 0)
    (hok : gdDescOk (descOf s.m e w 0) (descOf s.m e w 1) = true) :
    exec (.gdSet e) s = .next (if bt (s.guard n).lock (bf w 0 4) = true
      then { s with m := ((s.m.issued e w).readWords e (wSadr w) 4).endStatus e 1 [] }
      else { s.setGuard n (fun g => g.setRegion (bf w 0 4) (descOf s.m e w)) with
             m := ((s.m.issued e w).readWords e (wSadr w) 4).done e 0 [] }) := by
  rw [exec_guardRow rfl h (show (!bt w 42) = true by rw [hsel]; rfl)]
  dsimp only
  simp only [Mach.reg_eng_issued, hsc, Mach.gate_open, hal, hep, Mach.descWord_read, hok, ne_eq, not_true_eq_false, if_false,
    Bool.not_true, Bool.false_eq_true]
  generalize (s.m.issued e w).readWords e (wSadr w) 4 = m
  generalize descOf s.m e w = d
  refine congrArg Host.Outcome.next ?_
  by_cases hl : bt (s.guard n).lock (bf w 0 4) = true
  · rw [if_pos hl]; exact if_pos hl
  · rw [if_neg hl]; exact if_neg hl

/-- GD.SET of the default policy (R305). -/
theorem exec_gdSetDefault (h : Issues s e w 0xA0) (hsel : bt w 42 = true) (hsc : gdScope e ((s.m.eng e).reg (wA w)) = true)
    (hep : gdEp ((s.m.eng e).reg (wA w)) = some n) (hb : ((s.m.eng e).reg (wB w)).toNat < 2) :
    exec (.gdSetDefault e) s = .next (if bt (s.guard n).lock 16 = true then { s with m := (s.m.issued e w).endStatus e 1 [] }
      else { s.setGuard n (fun g => { g with deny := bt ((s.m.eng e).reg (wB w)) 0 }) with m := (s.m.issued e w).done e 0 [] }) := by
  rw [exec_guardRow rfl h hsel]
  dsimp only
  rw [Mach.reg_eng_issued, Mach.reg_eng_issued, hsc, Mach.gate_open, hep]
  dsimp only
  rw [if_neg (by omega)]
  refine congrArg Host.Outcome.next ?_
  by_cases hl : bt (s.guard n).lock 16 = true
  · rw [if_pos hl]; exact if_pos hl
  · rw [if_neg hl]; exact if_neg hl

/-- GD.LOCK (R307). -/
theorem exec_gdLock (h : Issues s e w 0xA1) (hsc : gdScope e ((s.m.eng e).reg (wA w)) = true)
    (hep : gdEp ((s.m.eng e).reg (wA w)) = some n) (hk : bf w 0 17 ≠ 0) :
    exec (.gdLock e) s = .next { s.setGuard n (fun g => { g with lock := g.lock ||| w.extractLsb' 0 17 }) with
      m := (s.m.issued e w).done e 0 [] } := by
  rw [exec_guardRow rfl h rfl]
  dsimp only
  rw [Mach.reg_eng_issued, hsc, Mach.gate_open, hep]
  dsimp only
  rw [if_neg hk, show BitVec.ofNat 17 (bf w 0 17) = w.extractLsb' 0 17 from BitVec.eq_of_toNat_eq (by rw [BitVec.toNat_ofNat, Nat.mod_eq_of_lt (bf_lt w 0 17)]; rfl)]
  rfl

end rows

/-- R306: none of the old accesses is left. -/
theorem exec_gdSyncComplete_done {s : State} {ep : Ep} {e : Nat} (hs : s.m.test.scan = false) (hsync : (s.m.niu ep).gSync = some e)
    (hold : (s.m.niu ep).gOld = 0) : exec (.gdSyncComplete ep) s = .next
      { s with m := (s.m.modNiu ep (fun y => { y with gSync := none })).modEng e (fun x =>
                      if x.wait = .sync ep then { x with wait := .done xOK [], limit := none } else x) } := by
  change execGdSyncComplete ep s = _
  rw [execGdSyncComplete, State.on_eq hs, hsync]
  dsimp only
  rw [if_pos hold]

/-- R306: one is left. -/
theorem exec_gdSyncComplete_waits {s : State} {ep : Ep} (hs : s.m.test.scan = false) (hold : (s.m.niu ep).gOld ≠ 0) :
    exec (.gdSyncComplete ep) s = .next { s with m := s.m } := by
  change execGdSyncComplete ep s = _
  rw [execGdSyncComplete, State.on_eq hs]
  cases (s.m.niu ep).gSync with
  | none => rfl
  | some k => exact congrArg (fun m => Host.Outcome.next { s with m := m }) (if_neg hold)

/-- Settles O25: the rows on the configuration, GD.SYNC and its end, and the pop of the log. -/
theorem guardInstructions : Obligations.GuardInstructions := by
  refine ⟨fun s e w n => ?_, fun s e w ep v mid => ?_⟩
  · intro x d r g b keeps read hv hn hscope
    obtain ⟨hsc, hep⟩ := gd_selects hv hn hscope
    have hkeeps (f : Guard → Guard) {a m : Mach} (h : a.LikeAt e (x.awaits w 0 []) m) : keeps { s.setGuard n f with m := a } m :=
      ⟨fun k hk => s.guard_setGuard_ne f hk, rfl, h⟩
    have hd (i : Nat) : d i = descOf s.m e w i := rfl
    have hset (f : Guard → Guard) (a : Mach) : State.guard { s.setGuard n f with m := a } n = f g := s.guard_setGuard n f
    refine ⟨fun h hsel hal hok hlock => ?_, fun h hsel hal hok hlock => ?_, fun h hsel hb hlock => ?_, fun h hsel hb hlock => ?_,
      fun h hk => ?_⟩
    · have hx := exec_gdSet h hsel hsc hep hal hok
      rw [if_neg (Bool.eq_false_iff.1 hlock)] at hx
      obtain ⟨h0, h1, h2, h3⟩ := g.region_setRegion r (descOf s.m e w)
      refine ⟨_, hx, hkeeps _ ((s.m.issued_readWords_likeAt e w _ 4).done 0 []), ?_⟩
      rw [hset, hd, hd, hd, hd]
      exact ⟨h0, h1, h2, h3, g.lock_setRegion r _, g.deny_setRegion r _, fun k hk => g.region_setRegion_ne hk _⟩
    · have hx := exec_gdSet h hsel hsc hep hal hok
      rw [if_pos hlock] at hx
      refine ⟨_, hx, rfl, rfl, ?_⟩
      exact (s.m.issued_readWords_like e w _ 4).endStatus e 1 []
    · have hx := exec_gdSetDefault h hsel hsc hep hb
      rw [if_neg (Bool.eq_false_iff.1 hlock)] at hx
      exact ⟨_, hx, hkeeps _ ((s.m.issued_likeAt e w).done 0 []), hset _ _⟩
    · have hx := exec_gdSetDefault h hsel hsc hep hb
      rw [if_pos hlock] at hx
      exact Does.of_exec hx
    · exact ⟨_, exec_gdLock h hsc hep hk, hkeeps _ ((s.m.issued_likeAt e w).done 0 []), hset _ _⟩
  · intro x y hlive
    have htile : epTile ep = ep / 4 := if_pos ep.isLt
    refine ⟨fun h hv hscope hsync => ?_, fun hs hsync hold hw => ?_, fun hs hsync hold => ?_, fun ht hb => ?_⟩
    · obtain ⟨hsc, hep⟩ := gd_selects hv ep.isLt hscope
      refine DoesAt.issue rfl h rfl (fun a ha haeq => ?_)
      obtain rfl : a = s.m.issued e w := haeq
      have hlive' : (s.m.issued e w).domLive (epTile ep) = true := by rw [htile, Mach.issued_eq]; exact hlive
      have hfree : ((s.m.issued e w).niu ep).gSync = none := by rw [Mach.issued_eq]; exact hsync
      have hclk : (s.m.issued e w).clk = (s.m.readPc e).clk := rfl
      dsimp only
      rw [Mach.reg_eng_issued, hsc, Mach.status_free, hep]
      dsimp only
      rw [hlive', hfree, Bool.not_true, if_neg Bool.false_ne_true, Option.isSome_none, if_neg Bool.false_ne_true, Mach.startLimit,
        Mach.setWait, Mach.clk_modEng, Mach.clk_modNiu, hclk]
      exact ((ha.modNiu ep _).mod _).mod _
    · refine ⟨_, exec_gdSyncComplete_done hs hsync hold, rfl, rfl, ?_⟩
      have hend : (if x.wait = .sync ep then { x with wait := .done xOK [], limit := none } else x) =
          { x with wait := .done 0 [], limit := none } := if_pos hw
      rw [← hend]
      exact (Mach.LikeAt.refl (s.m.modNiu ep (fun y => { y with gSync := none })) e).mod
        (fun x => if x.wait = .sync ep then { x with wait := .done xOK [], limit := none } else x)
    · exact Does.of_exec (exec_gdSyncComplete_waits hs hold)
    · refine Does.hostWrite_far (exec_gdLogPop ..) ht (decide_eq_true (by have := ep.isLt; unfold aGd; omega)) ?_
      rw [Mach.gdPop, hb, htile, hlive]
      exact .refl _

end Sys2Proof.Machine

/-! PROOFS. One refill tick (O24). -/

namespace Sys2Proof.Machine

/-! ## A run of changes -/

/-- What each change of a run leaves alone, the run leaves alone. -/
theorem foldl_leaves {α β γ : Type} (π : α → γ) {f : α → β → α} (h : ∀ a b, π (f a b) = π a) (l : List β) (a : α) :
    π (l.foldl f a) = π a := by
  induction l generalizing a with
  | nil => rfl
  | cons b l ih => rw [List.foldl_cons, ih, h]

/-- A key that no entry of a table has reads as the default. -/
theorem Tab.find_none_of_key {α : Type} {t : Tab α} {k : Nat} (h : k ∉ t.map Prod.fst) : Tab.find t k = none := by
  induction t with
  | nil => rfl
  | cons e t ih =>
    rw [List.map_cons, List.mem_cons, not_or] at h
    rw [Tab.find, if_neg (Ne.symm h.1), ih h.2]

/-- Changes of NIUs, each once: an NIU of the list changes, every other stays. -/
theorem Mach.niu_foldl_modNiu (f : Nat → Niu → Niu) {l : List Nat} (hl : l.Nodup) (m : Mach) (n : Nat) :
    (l.foldl (fun m n => m.modNiu n (f n)) m).niu n = if n ∈ l then f n (m.niu n) else m.niu n := by
  induction l generalizing m with
  | nil => rfl
  | cons k l ih =>
    obtain ⟨hk, hl⟩ := List.nodup_cons.1 hl
    rw [List.foldl_cons, ih hl]
    by_cases hn : n = k
    · subst hn
      rw [if_neg hk, if_pos List.mem_cons_self, Mach.niu_modNiu]
    · rw [Mach.niu_modNiu_ne _ _ hn]
      simp only [List.mem_cons, hn, false_or]

/-- ... and nothing else changes. -/
theorem Mach.foldl_modNiu_eq (f : Nat → Niu → Niu) (l : List Nat) (m : Mach) :
    l.foldl (fun m n => m.modNiu n (f n)) m = { m with nius := (l.foldl (fun m n => m.modNiu n (f n)) m).nius } := by
  induction l generalizing m with
  | nil => rfl
  | cons k l ih => rw [List.foldl_cons, ih]; rfl

/-! ## One tick of an NIU -/

theorem Shaper.tick_eq (a : Shaper) :
    let b : Shaper := match a.pend with
      | none => a
      | some (mode, rate, burst) =>
        { a with mode := mode, rate := rate, burst := burst, pend := none, tok := if mode ≠ 2 ∧ 0 < a.tok then 0 else a.tok }
    a.tick = if b.mode = 0 ∨ b.rate = 0 then b
      else { b with tok := if b.mode = 2 then max b.tok (min (b.tok + b.rate) (b.burst * 16 : Nat))
                           else min (b.tok + b.rate) (b.burst * 16 : Nat) } := by
  intro b
  change (if b.mode = 0 ∨ b.rate = 0 then b
    else if b.mode = 2 then { b with tok := max b.tok (min (b.tok + b.rate) (b.burst * 16 : Nat)) }
    else { b with tok := min (b.tok + b.rate) (b.burst * 16 : Nat) }) = _
  by_cases h0 : b.mode = 0 ∨ b.rate = 0
  · rw [if_pos h0, if_pos h0]
  rw [if_neg h0, if_neg h0]
  by_cases h2 : b.mode = 2
  · rw [if_pos h2, if_pos h2]
  · rw [if_neg h2, if_neg h2]

/-- A shaper that is off stays as it is. -/
theorem Shaper.tick_off : Shaper.off.tick = Shaper.off := by decide

/-- Every shaper of an NIU ticks (R244). -/
theorem Niu.shaper_tick (x : Niu) (n k : Nat) : (x.tick n).shaper n k = (x.shaper n k).tick := by
  have hmap : Tab.get (dShp n) (Tab.mapv (dShp n) (fun _ k => k.tick) x.shp) k = ((Tab.find x.shp k).map Shaper.tick).getD (dShp n k) :=
    Tab.get_mapv x.shp (fun _ k => k.tick) k
  have hget : x.shaper n k = (Tab.find x.shp k).getD (dShp n k) := rfl
  unfold Niu.tick Niu.shaper at *
  dsimp only
  rw [hget]
  by_cases hsvc : 512 ≤ n ∧ (Tab.find x.shp 0).isNone = true
  · obtain ⟨hn, hnone⟩ := hsvc
    rw [if_pos ⟨hn, hnone⟩]
    by_cases hk : k = 0
    · subst hk
      rw [Tab.get_upd, hmap, Option.isNone_iff_eq_none.1 hnone]
      rfl
    · have hoff : dShp n k = Shaper.off := if_neg (fun h => hk h.2)
      rw [Tab.get_upd_ne _ _ hk, hmap, hoff]
      cases Tab.find x.shp k with
      | none => exact Shaper.tick_off.symm
      | some v => rfl
  · rw [if_neg hsvc, hmap]
    cases hf : Tab.find x.shp k with
    | some v => rfl
    | none =>
      have hoff : dShp n k = Shaper.off := if_neg (fun h => hsvc ⟨h.1, by rw [← h.2, hf]; rfl⟩)
      rw [hoff]
      exact Shaper.tick_off.symm

/-- The deadlines of the tracker and of the posted write buffer come one tick nearer (R269). -/
theorem Niu.tick_trk (x : Niu) (n j : Nat) : Tab.get dNone (x.tick n).trk j =
    (Tab.get dNone x.trk j).map (fun r => { r with ddl := r.ddl.map (· - 1) }) :=
  Tab.get_mapv_same (d := dNone) x.trk (fun _ (o : Option Trk) => o.map (fun (u : Trk) => { u with ddl := ddlTick u.ddl })) j rfl

theorem Niu.tick_pwb (x : Niu) (n j : Nat) : Tab.get dNone (x.tick n).pwb j =
    (Tab.get dNone x.pwb j).map (fun r => { r with ddl := r.ddl.map (· - 1) }) :=
  Tab.get_mapv_same (d := dNone) x.pwb (fun _ (o : Option Pwb) => o.map (fun (u : Pwb) => { u with ddl := ddlTick u.ddl })) j rfl

/-- An NIU as after reset, outside the service tiles, ticks to itself. -/
theorem Niu.tick_init {n : Nat} (h : n < 512) : Niu.init.tick n = Niu.init := by
  simp only [Niu.tick, show ¬ 512 ≤ n by omega, false_and, if_false]
  rfl

/-! ## One tick of the machine -/

/-- The NIUs that a refill tick visits. -/
def Mach.ticking (m : Mach) : List Nat :=
  (((m.nius.map Prod.fst).dedup) ++ [512, 513, 514, 515].filter (fun n => !((m.nius.map Prod.fst).dedup).contains n)).filter
    (fun n => m.domLive (epTile n))

theorem Mach.ticking_nodup (m : Mach) : m.ticking.Nodup := by
  refine List.Nodup.filter _ (List.nodup_append'.2 ⟨List.nodup_dedup _, List.Nodup.filter _ (by decide), ?_⟩)
  intro n hn hf
  have := (List.mem_filter.1 hf).2
  rw [List.contains_iff_mem.2 hn] at this
  cases this

theorem Mach.mem_ticking (m : Mach) (n : Nat) :
    n ∈ m.ticking ↔ (n ∈ m.nius.map Prod.fst ∨ n ∈ [512, 513, 514, 515]) ∧ m.domLive (epTile n) = true := by
  unfold Mach.ticking
  rw [List.mem_filter, List.mem_append, List.mem_dedup, List.mem_filter]
  by_cases h : n ∈ m.nius.map Prod.fst
  · simp [h]
  · simp [h]

/-- A refill tick, as the NIUs and combine nodes after it. -/
theorem Mach.refill_eq (m : Mach) : m.refill =
    { m with nius := (m.ticking.foldl (fun m n => m.modNiu n (Niu.tick n)) m).nius,
             cb := Tab.mapv dNone (fun k o => if m.domLive (k / 256) then o.map CbNode.tick else o) m.cb } := by
  have h := congrArg (fun a : Mach => { a with cb := Tab.mapv dNone (fun k o => if a.domLive (k / 256) then o.map CbNode.tick else o) a.cb })
    (Mach.foldl_modNiu_eq Niu.tick m.ticking m)
  exact h.trans rfl

/-- An NIU without power does not tick. -/
theorem Mach.niu_refill_dead {m : Mach} {n : Nat} (h : m.domLive (epTile n) = false) : m.refill.niu n = m.niu n := by
  have hn : n ∉ m.ticking := by rw [Mach.mem_ticking, h]; exact fun hc => Bool.noConfusion hc.2
  rw [Mach.refill_eq]
  exact (Mach.niu_foldl_modNiu _ m.ticking_nodup m n).trans (if_neg hn)

/-- A powered one ticks. -/
theorem Mach.niu_refill_live {m : Mach} {n : Nat} (hn : n < 516) (h : m.domLive (epTile n) = true) :
    m.refill.niu n = (m.niu n).tick n := by
  rw [Mach.refill_eq]
  refine (Mach.niu_foldl_modNiu _ m.ticking_nodup m n).trans ?_
  by_cases hmem : n ∈ m.ticking
  · exact if_pos hmem
  rw [if_neg hmem]
  rw [Mach.mem_ticking, h] at hmem
  simp only [and_true, not_or, List.mem_cons, List.not_mem_nil, or_false] at hmem
  have hinit : m.niu n = Niu.init := by
    rw [Mach.niu, Tab.get, Tab.find_none_of_key hmem.1]
    rfl
  rw [hinit, Niu.tick_init (by omega)]

/-- The combine nodes of a powered tile tick (R291). -/
theorem Mach.node_refill (m : Mach) {u g : Nat} (hg : g < 256) :
    m.refill.node u g = if m.domLive u = true then (m.node u g).map CbNode.tick else m.node u g := by
  rw [Mach.refill_eq]
  have hkey : (u * 256 + g) / 256 = u := by omega
  have h := Tab.get_mapv_same (d := dNone) m.cb (fun k (o : Option CbNode) => if m.domLive (k / 256) then o.map CbNode.tick else o)
    (u * 256 + g) (by split <;> rfl)
  refine h.trans ?_
  rw [hkey]
  rfl

/-- What a refill tick leaves. -/
theorem Mach.refill_leaves (m : Mach) : m.refill.engs = m.engs ∧ m.refill.regs = m.regs ∧ m.refill.keep = m.keep := by
  rw [Mach.refill_eq]
  exact ⟨rfl, rfl, rfl⟩

/-- Settles O24: no tick, and one tick of each unit. -/
theorem refillTick : Obligations.RefillTick := by
  intro s n k hs a b
  refine ⟨fun h => Does.of_exec ?_, fun hst hat htick => ?_⟩
  · change execRefillTick s = _
    rw [execRefillTick, State.on_eq hs]
    rw [if_pos h]
  have hrun : exec .refillTick s = .next { s with m := s.m.refill.modKeep (fun k => { k with ticked := s.m.ftNs / 20 }) } := by
    change execRefillTick s = _
    rw [execRefillTick, State.on_eq hs]
    rw [if_neg (by simp only [hst, hat, htick, or_self, not_false_eq_true, Bool.true_eq_false])]
  obtain ⟨hengs, hregs, hkeep⟩ := s.m.refill_leaves
  refine ⟨_, hrun, fun hn hlive => ?_, fun hn hlive => ?_, fun u g hg => s.m.node_refill hg, fun hdead => Mach.niu_refill_dead hdead,
    hengs, hregs, congrArg (fun k : Keeper => { k with ticked := s.m.ftNs / 20 }) hkeep, rfl, rfl⟩
  · have hniu := Mach.niu_refill_live hn hlive
    rw [Mach.niu_modKeep, hniu, Niu.shaper_tick]
    exact Shaper.tick_eq _
  · have hniu := Mach.niu_refill_live hn hlive
    rw [Mach.niu_modKeep, hniu]
    exact ⟨rfl, fun j => ⟨(s.m.niu n).tick_trk n j, (s.m.niu n).tick_pwb n j⟩⟩

end Sys2Proof.Machine

/-! PROOFS. The time port and the states of the Fabric Time keeper (O21). -/

namespace Sys2Proof.Machine

/-! ## What leaves the keeper alone -/

section keeper
variable (m : Mach)

@[simp] theorem Mach.keep_postEvt (e cls kind detail src : Nat) : (m.postEvt e cls kind detail src).keep = m.keep := by
  unfold Mach.postEvt
  split
  · rfl
  split <;> rfl

@[simp] theorem Mach.keep_occur (c k l o s n : Nat) : (m.occur c k l o s n).keep = m.keep := by
  obtain ⟨f, hf⟩ := m.occur_eq c k l o s n
  rw [hf]
  rfl

@[simp] theorem Mach.keep_timeEvt (k : Nat) : (m.timeEvt k).keep = m.keep := m.keep_postEvt ..

@[simp] theorem Mach.keep_acted (a : Nat) (c : Bool) : (m.acted a c).keep = m.keep := by
  cases c
  · rfl
  · exact Mach.keep_timeEvt ..

@[simp] theorem Mach.keep_setLock (l : Lock) : (m.setLock l).keep = m.keep := by
  unfold Mach.setLock
  dsimp only
  split <;> rfl

@[simp] theorem Mach.keep_spineHold : m.spineHold.keep = m.keep := by
  unfold Mach.spineHold
  split
  · rfl
  · exact m.keep_setLock _

/-- A change of the keeper's state ends the slew (R220, R263). -/
@[simp] theorem Mach.keep_timeState (k : KSt) : (m.timeState k).keep = { m.keep with st := k, slew := 0 } := by
  unfold Mach.timeState
  dsimp only
  split
  · rfl
  · rw [Mach.keep_spineHold]; rfl

@[simp] theorem Mach.keep_gatePlace (n : Nat) : (m.gatePlace n).keep = m.keep := by
  unfold Mach.gatePlace
  dsimp only
  split
  · rfl
  split
  · rfl
  split <;> rfl

@[simp] theorem Mach.keep_gateTake (n : Nat) : (m.gateTake n).keep = m.keep := by
  unfold Mach.gateTake
  dsimp only
  split <;> rfl

@[simp] theorem Mach.keep_gatesJump : m.gatesJump.keep = m.keep :=
  foldl_leaves Mach.keep (fun _ _ => by rw [Mach.keep_gateTake, Mach.keep_gatePlace]) _ _

@[simp] theorem Mach.keep_sample (k : Nat) : (m.sample k).keep = m.keep := by
  unfold Mach.sample
  dsimp only
  split
  · rw [Mach.keep_postEvt]; rfl
  · rfl

@[simp] theorem Mach.keep_samplesJump (a b : Nat) : (m.samplesJump a b).keep = m.keep := by
  refine foldl_leaves Mach.keep (fun m k => ?_) _ _
  dsimp only
  split
  · rw [Mach.keep_modTele, Mach.keep_sample]
  · rfl

/-- A jump of Fabric Time: the value, no slew, and the last refill tick at or before it (R268). -/
@[simp] theorem Mach.keep_ftJump (ft : Nat) : (m.ftJump ft).keep = { m.keep with ft := ft, slew := 0, ticked := ft / 65536 / 20 } := by
  unfold Mach.ftJump
  dsimp only
  rw [Mach.keep_samplesJump, Mach.keep_gatesJump]
  have hspine (a : Mach) (c : Bool) (f : Spine → Spine) : (if c = true then a.modSpine f else a).keep = a.keep := by cases c <;> rfl
  split
  · rw [(Mach.refill_leaves _).2.2, hspine]; rfl
  · rw [hspine]; rfl

end keeper

/-- A posted event changes no register but the engine's counts of lost ones. -/
theorem Mach.reg_postEvt (m : Mach) (e cls kind detail src : Nat) {a : Nat} (h1 : a ≠ aEng e 0x58) (h2 : a ≠ aEng e 0) :
    (m.postEvt e cls kind detail src).reg a = m.reg a := by
  unfold Mach.postEvt
  split
  · exact Mach.reg_setReg_ne _ _ h1
  split
  · rfl
  · exact Mach.reg_setReg_ne _ _ h2

/-! ## A value that is taken -/

/-- What an OK capture notes before it acts (R263, R277). -/
def Mach.captured (m : Mach) (v : Word) (d : Int) : Mach :=
  ((((m.setReg aTimeLast v).setFld aTimeErr 32 32 (satInt 32 d)).addFld aTimeCnt 0 16 1).setFld aTimeStat 16 2 0).modKeep
    (fun k => { k with idle := 0 })

/-- The error of a capture (log entry 42). -/
def Mach.timeError (m : Mach) (v : Word) (n : Nat) : Int := (v.toNat : Int) - (m.ftAgo n : Int) / 65536

/-- The value of a capture carried to now, in 2^-16 ns. -/
def Mach.timeNow (m : Mach) (v : Word) (n : Nat) : Nat := v.toNat * 65536 + n * fclkUnits m.clk.mode

section applied
variable {m : Mach} {v : Word} {n : Nat}

theorem Mach.applyTime_free (h : m.keep.st = .free) : m.applyTime v.toNat n =
    (((((m.captured v (m.timeError v n)).timeState .track).ftJump (m.timeNow v n)).orReg aTimeEvt (2 ^ 4)).acted 4 false).timeEvt 4 := by
  unfold Mach.applyTime
  dsimp only
  rw [h, BitVec.ofNat_toNat, BitVec.setWidth_eq]
  rfl

theorem Mach.applyTime_frozen (h : m.keep.st = .frozen) : m.applyTime v.toNat n =
    (m.captured v (m.timeError v n)).modKeep (fun k => { k with shadow := m.timeNow v n }) := by
  unfold Mach.applyTime
  dsimp only
  rw [h, BitVec.ofNat_toNat, BitVec.setWidth_eq]
  rfl

/-- In TRACK and HOLDOVER the action depends on the error (R263). -/
def Mach.byError (m : Mach) (v : Word) (n : Nat) (changed : Bool) : Mach :=
  let c := m.captured v (m.timeError v n)
  if (m.timeError v n).natAbs ≤ 1 then (c.timeState .track).acted 0 changed
  else if (m.timeError v n).natAbs ≤ m.slewMax then
    ((c.timeState .track).modKeep (fun k => { k with slew := m.timeError v n * 65536 })).acted 1 changed
  else if 0 < m.timeError v n then
    (((((c.timeState .track).ftJump (m.timeNow v n)).orReg aTimeEvt 2).addFld aTimeCnt 32 16 1).acted 2 false).timeEvt 2
  else
    ((((((c.timeState .frozen).modKeep (fun k => { k with shadow := m.timeNow v n })).orReg aTimeEvt 4).addFld aTimeCnt 16 16 1).occur
      10 1 7 0 0 1).acted 3 false).timeEvt 3

theorem Mach.applyTime_track (h : m.keep.st = .track) : m.applyTime v.toNat n = m.byError v n false := by
  unfold Mach.applyTime
  dsimp only
  rw [h, BitVec.ofNat_toNat, BitVec.setWidth_eq]
  rfl

theorem Mach.applyTime_holdover (h : m.keep.st = .holdover) : m.applyTime v.toNat n = m.byError v n true := by
  unfold Mach.applyTime
  dsimp only
  rw [h, BitVec.ofNat_toNat, BitVec.setWidth_eq]
  rfl

end applied

/-! ## What stays of the keeper's own registers -/

@[simp] theorem Mach.reg_occur (m : Mach) (c k l o s n a : Nat) : (m.occur c k l o s n).reg a = m.reg a := by
  obtain ⟨f, hf⟩ := m.occur_eq c k l o s n
  rw [hf]
  rfl

theorem Mach.reg_timeState (m : Mach) (k : KSt) {a : Nat} (h : a ≠ aSpEvt) : (m.timeState k).reg a = m.reg a := by
  unfold Mach.timeState Mach.spineHold Mach.setLock
  dsimp only
  split
  · rfl
  split
  · rfl
  split
  · exact Mach.reg_setReg_ne _ _ h
  · rfl

/-- The capture register holds the value, the status field the source's state, once a value is taken. -/
theorem Mach.reg_captured (m : Mach) (v : Word) (d : Int) : (m.captured v d).reg aTimeLast = v := by
  unfold Mach.captured Mach.addFld Mach.setFld
  rw [Mach.reg_modKeep, Mach.reg_setReg_ne _ _ (by decide), Mach.reg_setReg_ne _ _ (by decide), Mach.reg_setReg_ne _ _ (by decide),
    Mach.reg_setReg]

theorem Mach.fld_acted (m : Mach) (a : Nat) (c : Bool) : (m.acted a c).fld aTimeStat 8 3 = a % 8 := by
  have hset : (m.setFld aTimeStat 8 3 a).fld aTimeStat 8 3 = a % 8 := by
    exact (congrArg (fun w => bf w 8 3) (Mach.reg_setReg ..)).trans (bf_sf _ (by decide) _)
  cases c with
  | false => exact hset
  | true =>
    rw [← hset, Mach.fld, Mach.fld]
    exact congrArg (fun w => bf w 8 3) (Mach.reg_postEvt _ _ _ _ _ _ (by decide) (by decide))

theorem Mach.reg_acted (m : Mach) (a : Nat) (c : Bool) : (m.acted a c).reg aTimeLast = m.reg aTimeLast := by
  have hset : (m.setFld aTimeStat 8 3 a).reg aTimeLast = m.reg aTimeLast := Mach.reg_setReg_ne _ _ (by decide)
  cases c with
  | false => exact hset
  | true => exact (Mach.reg_postEvt _ _ _ _ _ _ (by decide) (by decide)).trans hset

/-- The end of a valid source (R265): the keeper holds over. -/
theorem Mach.keep_holdover (m : Mach) : m.holdover.keep = { m.keep with st := .holdover, slew := 0 } := by
  unfold Mach.holdover
  rw [Mach.keep_timeEvt, Mach.keep_occur, Mach.keep_orReg, Mach.keep_timeState]

theorem Mach.reg_holdover (m : Mach) : m.holdover.reg aTimeStat = m.reg aTimeStat := by
  unfold Mach.holdover Mach.timeEvt
  rw [Mach.reg_postEvt _ _ _ _ _ _ (by decide) (by decide), Mach.reg_occur, Mach.orReg, Mach.reg_setReg_ne _ _ (by decide),
    Mach.reg_timeState _ _ (by decide)]

/-! ## The time port -/

/-- The flags of the time port after an offer, which is acknowledged whatever the outcome (R259). -/
def Mach.tpTaken (m : Mach) : Mach := { m with keep := { m.keep with tpFlag := !m.keep.tpFlag, tpAck := !m.keep.tpFlag } }

/-- What an offer leaves (R260, R263, R265). -/
def Mach.tpOffered (m : Mach) (time : Word) (crc : BitVec 8) (valid : Bool) (n : Nat) : Mach :=
  if crc8 time 64 0 ≠ crc then ((m.tpTaken.setFld aTimeStat 16 2 1).orReg aTimeEvt 1).addFld aTimeCnt 48 16 1
  else if valid = false then
    if m.keep.st = .track ∨ m.keep.st = .frozen then (m.tpTaken.setFld aTimeStat 16 2 2).holdover else m.tpTaken.setFld aTimeStat 16 2 2
  else m.tpTaken.applyTime time.toNat n

theorem exec_tpOffer {s : State} (hs : s.m.test.scan = false) (hup : s.m.pwr.aonUp = true) (hf : s.m.clk.fstop = false)
    (ha : s.m.clk.astop = false) (time : Word) (crc : BitVec 8) (valid : Bool) (since : BitVec 16) :
    exec (.tpOffer time crc valid since) s = .next { s with m := s.m.tpOffered time crc valid since.toNat } := by
  change execTpOffer time crc valid since s = _
  rw [execTpOffer, State.on_eq hs, hup, hf, ha]
  refine congrArg (fun m => Host.Outcome.next { s with m := m }) ?_
  cases valid <;> rfl

section offered
variable {m : Mach} {time : Word} {crc : BitVec 8} {n : Nat}

theorem Mach.tpOffered_invalid (hc : crc8 time 64 0 = crc) (h : m.keep.st = .track ∨ m.keep.st = .frozen) :
    m.tpOffered time crc false n = (m.tpTaken.setFld aTimeStat 16 2 2).holdover := by
  rw [Mach.tpOffered, if_neg (not_not_intro hc), if_pos rfl, if_pos h]

theorem Mach.tpOffered_invalid_idle (hc : crc8 time 64 0 = crc) (h : m.keep.st = .free ∨ m.keep.st = .holdover) :
    m.tpOffered time crc false n = m.tpTaken.setFld aTimeStat 16 2 2 := by
  rw [Mach.tpOffered, if_neg (not_not_intro hc), if_pos rfl, if_neg]
  rcases h with h | h <;> rw [h] <;> simp

theorem Mach.tpOffered_valid (hc : crc8 time 64 0 = crc) : m.tpOffered time crc true n = m.tpTaken.applyTime time.toNat n := by
  rw [Mach.tpOffered, if_neg (not_not_intro hc), if_neg Bool.noConfusion]

end offered

/-! ## What each action leaves of the keeper -/

section byError
variable {m : Mach} {v : Word} {n : Nat}

theorem Mach.byError_small (h : (m.timeError v n).natAbs ≤ 1) (c : Bool) :
    m.byError v n c = ((m.captured v (m.timeError v n)).timeState .track).acted 0 c := if_pos h

theorem Mach.byError_slew (h1 : ¬ (m.timeError v n).natAbs ≤ 1) (h2 : (m.timeError v n).natAbs ≤ m.slewMax) (c : Bool) :
    m.byError v n c = (((m.captured v (m.timeError v n)).timeState .track).modKeep
      (fun k => { k with slew := m.timeError v n * 65536 })).acted 1 c := (if_neg h1).trans (if_pos h2)

/-- Beyond SLEW_MAX Fabric Time steps forward, or is frozen (R263, R264). -/
theorem Mach.keep_byError_large (h1 : ¬ (m.timeError v n).natAbs ≤ 1) (h2 : ¬ (m.timeError v n).natAbs ≤ m.slewMax) (c : Bool) :
    (m.byError v n c).keep =
      if 0 < m.timeError v n then { m.keep with st := .track, ft := m.timeNow v n, slew := 0, idle := 0,
                                                ticked := m.timeNow v n / 65536 / 20 }
      else { m.keep with st := .frozen, slew := 0, idle := 0, shadow := m.timeNow v n } := by
  unfold Mach.byError
  dsimp only
  rw [if_neg h1, if_neg h2]
  split
  · rw [Mach.keep_timeEvt, Mach.keep_acted, Mach.keep_addFld, Mach.keep_orReg, Mach.keep_ftJump, Mach.keep_timeState]
    rfl
  · rw [Mach.keep_timeEvt, Mach.keep_acted, Mach.keep_occur, Mach.keep_addFld, Mach.keep_orReg, Mach.keep_modKeep, Mach.keep_timeState]
    rfl

/-- The end of a HOLDOVER by a small error (R263). -/
theorem Mach.byError_ends (h : (m.timeError v n).natAbs ≤ 1 ∨ (m.timeError v n).natAbs ≤ m.slewMax) (c : Bool) :
    (m.byError v n c).keep =
      { m.keep with st := .track, slew := if (m.timeError v n).natAbs ≤ 1 then 0 else m.timeError v n * 65536, idle := 0 } ∧
    (m.byError v n c).reg aTimeLast = v ∧
    (m.byError v n c).fld aTimeStat 8 3 = if (m.timeError v n).natAbs ≤ 1 then 0 else 1 := by
  by_cases h1 : (m.timeError v n).natAbs ≤ 1
  · rw [Mach.byError_small h1, Mach.keep_acted, Mach.keep_timeState, Mach.reg_acted, Mach.fld_acted, if_pos h1, if_pos h1,
      Mach.reg_timeState _ _ (by decide), Mach.reg_captured]
    exact ⟨rfl, rfl, rfl⟩
  · rw [Mach.byError_slew h1 (h.resolve_left h1), Mach.keep_acted, Mach.keep_modKeep, Mach.keep_timeState, Mach.reg_acted, Mach.fld_acted,
      if_neg h1, if_neg h1, Mach.reg_modKeep, Mach.reg_timeState _ _ (by decide), Mach.reg_captured]
    exact ⟨rfl, rfl, rfl⟩

end byError

/-- Settles O21: each outcome of an offer, the loss of the source, and the end of a freeze. -/
theorem fabricTime : Obligations.FabricTime := by
  refine ⟨fun s time crc valid since hs hup hf ha => ?_, fun s time crc since => ?_⟩
  · intro k el d lim noted
    have hrun := exec_tpOffer hs hup hf ha time crc
    refine ⟨fun hc => Does.of_exec ?_, fun hc hv hst => ?_, fun hc hv hst => ?_, fun hc hv hst hd => ?_, fun hc hv hst h1 hd => ?_,
      fun hc hv hst hd => ?_, fun hc hv hst => ?_, fun hc hv hst => ?_⟩
    · rw [hrun, Mach.tpOffered, if_pos hc]
      rfl
    all_goals subst hv
    · refine ⟨_, hrun .., ?_, ?_, rfl, rfl⟩
      · rw [Mach.tpOffered_invalid hc hst, Mach.keep_holdover]
        rfl
      · rw [Mach.tpOffered_invalid hc hst, Mach.reg_holdover, Mach.setFld, Mach.reg_setReg]
        exact bf_sf _ (by decide) _
    · refine Does.of_exec ?_
      rw [hrun, Mach.tpOffered_invalid_idle hc hst]
      rfl
    · refine Does.of_exec ?_
      have hd' : (s.m.tpTaken.timeError time since.toNat).natAbs ≤ 1 := hd
      have hst' : s.m.tpTaken.keep.st = .track := hst
      have hk : ({ k with slew := 0, idle := 0 } : Keeper) = { k with st := .track, slew := 0, idle := 0 } := by rw [← hst]
      rw [hrun, Mach.tpOffered_valid hc, Mach.applyTime_track hst', Mach.byError_small hd', hk]
      rfl
    · refine Does.of_exec ?_
      have h1' : ¬ (s.m.tpTaken.timeError time since.toNat).natAbs ≤ 1 := Nat.not_le.2 h1
      have hst' : s.m.tpTaken.keep.st = .track := hst
      have hd' : (s.m.tpTaken.timeError time since.toNat).natAbs ≤ s.m.tpTaken.slewMax := hd
      have hk : ({ k with slew := d * 65536, idle := 0 } : Keeper) = { k with st := .track, slew := d * 65536, idle := 0 } := by
        rw [← hst]
      rw [hrun, Mach.tpOffered_valid hc, Mach.applyTime_track hst', Mach.byError_slew h1' hd', hk]
      rfl
    · refine ⟨_, hrun .., ?_⟩
      have hst' : s.m.tpTaken.keep.st = .holdover := hst
      rw [Mach.tpOffered_valid hc, Mach.applyTime_holdover hst']
      have herr : s.m.tpTaken.timeError time since.toNat = d := rfl
      have hmax : s.m.tpTaken.slewMax = lim := rfl
      have h := Mach.byError_ends (m := s.m.tpTaken) (v := time) (n := since.toNat) (by rw [herr, hmax]; exact hd) true
      rw [herr] at h
      exact h
    · refine ⟨_, hrun .., ?_⟩
      have hst' : s.m.tpTaken.keep.st = .frozen := hst
      rw [Mach.tpOffered_valid hc, Mach.applyTime_frozen hst']
      rfl
    · refine ⟨_, hrun .., ?_⟩
      have hst' : s.m.tpTaken.keep.st = .free := hst
      rw [Mach.tpOffered_valid hc, Mach.applyTime_free hst', Mach.keep_timeEvt, Mach.keep_acted, Mach.keep_orReg, Mach.keep_ftJump,
        Mach.keep_timeState]
      rfl
  · intro k el d lim hs
    refine ⟨fun hup hf ha hc hst h1 hlim => ?_, fun hst hlost => ?_, fun h => ?_, fun hst hle => ?_, fun hst hlt => ?_⟩
    · have h1' : ¬ (s.m.tpTaken.timeError time since.toNat).natAbs ≤ 1 := Nat.not_le.2 h1
      have h2' : ¬ (s.m.tpTaken.timeError time since.toNat).natAbs ≤ s.m.tpTaken.slewMax := Nat.not_le.2 hlim
      refine ⟨_, exec_tpOffer hs hup hf ha time crc true since, ?_⟩
      rw [Mach.tpOffered_valid hc]
      have hst' : s.m.tpTaken.keep.st = .track ∨ s.m.tpTaken.keep.st = .holdover := hst
      rcases hst' with hst | hst
      · rw [Mach.applyTime_track hst]
        exact Mach.keep_byError_large h1' h2' false
      · rw [Mach.applyTime_holdover hst]
        exact Mach.keep_byError_large h1' h2' true
    · have hlost' : s.m.captureLost = true := decide_eq_true hlost
      refine ⟨_, State.on_eq hs _, ?_⟩
      rw [if_pos ⟨hst, hlost'⟩, Mach.keep_holdover]
    · refine Does.of_exec ?_
      change execHoldoverEntry s = _
      rw [execHoldoverEntry, State.on_eq hs, if_neg]
      rintro ⟨hst, hlost⟩
      have hlost' := of_decide_eq_true hlost
      rcases h with h | h | h
      · rw [h] at hst; simp at hst
      · rw [h] at hst; simp at hst
      · exact absurd hlost' (Nat.not_le.2 h)
    · refine Does.of_exec ?_
      change execFreezeEnd s = _
      rw [execFreezeEnd, State.on_eq hs, if_pos ⟨hst, hle⟩]
      rfl
    · refine Does.of_exec ?_
      change execFreezeEnd s = _
      rw [execFreezeEnd, State.on_eq hs, if_neg (fun h => absurd h.2 (Nat.not_le.2 hlt))]

end Sys2Proof.Machine

/-! PROOFS. The gate list instructions, takeover and the entry in force (O23). -/

namespace Sys2Proof.Machine

/-! ## The rows -/

theorem selEp_some {v : Word} {n : Nat} (hv : v.toNat = n) (hn : n < 516) : selEp v = some n := by
  rw [selEp, selRange, if_pos ⟨by omega, by omega⟩, hv]

theorem epScope_some {e n : Nat} {v : Word} (hv : v.toNat = n) (hn : n < 516) : epScope e v = inScope e (some (quadOf (epTile n))) := by
  rw [epScope, selEp_some hv hn]
  rfl

/-- A gate list instruction for an external endpoint in scope. -/
theorem Mach.gateOp_acts {m : Mach} {e n : Nat} {w : Word} (hv : ((m.eng e).reg (wA w)).toNat = n) (hn : n < 512)
    (hs : inScope e (some (quadOf (n / 4))) = true) (act : Nat → Mach → Mach) : m.gateOp e w act = act n m := by
  have htile : epTile n = n / 4 := if_pos hn
  unfold Mach.gateOp
  dsimp only
  rw [epScope_some hv (by omega), htile, hs, Mach.status_free, selEp_some hv (by omega)]
  dsimp only
  rw [if_pos hn]

/-- For the endpoints above, and for no endpoint, it ends with RANGE (R343). -/
theorem Mach.gateOp_range {m : Mach} {e : Nat} {w : Word} (hv : 512 ≤ ((m.eng e).reg (wA w)).toNat)
    (hs : epScope e ((m.eng e).reg (wA w)) = true) (act : Nat → Mach → Mach) : m.gateOp e w act = m.endStatus e 3 [] := by
  unfold Mach.gateOp
  dsimp only
  rw [hs, Mach.status_free]
  cases hsel : selEp ((m.eng e).reg (wA w)) with
  | none => rfl
  | some n =>
    dsimp only
    rw [if_neg]
    · rfl
    · unfold selEp selRange at hsel
      split at hsel
      · cases hsel; omega
      · cases hsel

/-- An endpoint out of scope (R320). -/
theorem Mach.status_denied (m : Mach) (e : Nat) (act : Mach → Mach) : m.status e false false false act = m.endStatus e 6 [] := rfl

theorem epScope_out {e n : Nat} {v : Word} (hv : v.toNat = n) (hs : n < 516 → inScope e (some (quadOf (epTile n))) = true) :
    epScope e v = true := by
  by_cases hn : n < 516
  · rw [epScope_some hv hn, hs hn]
  · rw [epScope, selEp, selRange, if_neg (by omega)]

/-! ## GT.LOAD -/

/-- Whether a list's header and entries are in range (R271). -/
def gateFits (d : Nat → Word) : Prop :=
  1 ≤ bf (d 0) 0 7 ∧ bf (d 0) 0 7 ≤ 64 ∧ bf (d 0) 7 25 = 0 ∧ 64 ≤ bf (d 0) 32 32 ∧
    ∀ i, i < bf (d 0) 0 7 → bf (d (i + 1)) 35 29 = 0 ∧ 8 ≤ bf (d (i + 1)) 0 32

/-- The machine in which GT.LOAD acts: the words of its list have been read. -/
def Mach.gateRead (m : Mach) (e : Nat) (w : Word) : Mach :=
  (m.issued e w).readWords e (wSadr w) (1 + min 64 (bf (descOf m e w 0) 0 7))

theorem Mach.descWord_issued (m : Mach) (e : Nat) (w : Word) : (m.issued e w).descWord e w = descOf m e w := by
  funext i
  rw [Mach.descWord, Mach.eng_issued]
  rfl

theorem Mach.descWord_gateRead (m : Mach) (e : Nat) (w : Word) : (m.gateRead e w).descWord e w = descOf m e w := m.descWord_read e w _ _

theorem Mach.reg_eng_gateRead (m : Mach) (e : Nat) (w : Word) (i : Nat) : ((m.gateRead e w).eng e).reg i = (m.eng e).reg i := by
  rw [Mach.gateRead, Mach.eng_readWords, Mach.reg_eng_issued]

/-- Reading words changes registers alone (R313). -/
theorem Mach.readWords_eq (m : Mach) (e a n : Nat) : m.readWords e a n = { m with regs := (m.readWords e a n).regs } := by
  unfold Mach.readWords
  generalize List.range n = l
  induction l generalizing m with
  | nil => rfl
  | cons i l ih =>
    have hsram (r : Tab Word) : ({ m.readSram e ((a + 8 * i) % 65536) with regs := r } : Mach) = { m with regs := r } := by
      rw [m.readSram_eq]
    exact (ih (m.readSram e ((a + 8 * i) % 65536))).trans (hsram _)

theorem Mach.gateRead_eq (m : Mach) (e : Nat) (w : Word) :
    m.gateRead e w = { m with regs := (m.gateRead e w).regs, engs := (m.gateRead e w).engs } := by
  unfold Mach.gateRead
  rw [Mach.readWords_eq, m.issued_eq e w]

/-- The list of a descriptor (R271). -/
theorem Mach.gateDesc_fits {m : Mach} {e : Nat} {w : Word} {d : Nat → Word} (hd : m.descWord e w = d) (hf : gateFits d) :
    m.gateDesc e w = some ⟨(List.range (bf (d 0) 0 7)).map (fun i => d (i + 1)), bf (d 0) 32 32, 0⟩ := by
  obtain ⟨h1, h64, h7, hct, hall⟩ := hf
  have hents : ((List.range (bf (d 0) 0 7)).map (fun i => d (i + 1))).all (fun w => decide (bf w 35 29 = 0 ∧ 8 ≤ bf w 0 32)) = true := by
    simp only [List.all_map, List.all_eq_true, List.mem_range, Function.comp_apply, decide_eq_true_eq]
    exact hall
  unfold Mach.gateDesc
  simp only [hd]
  rw [Nat.min_eq_left h64, if_pos ⟨h1, h64, h7, hct, hents⟩]

theorem Mach.gateDesc_none {m : Mach} {e : Nat} {w : Word} {d : Nat → Word} (hd : m.descWord e w = d) (hf : ¬ gateFits d) :
    m.gateDesc e w = none := by
  unfold Mach.gateDesc
  simp only [hd]
  refine if_neg fun ⟨h1, h64, h7, hct, hents⟩ => hf ⟨h1, h64, h7, hct, ?_⟩
  rw [Nat.min_eq_left h64] at hents
  simpa only [List.all_map, List.all_eq_true, List.mem_range, Function.comp_apply, decide_eq_true_eq] using hents

/-- What GT.LOAD does with the list read, at endpoint `n`. -/
def Mach.gateFill (e : Nat) (w : Word) (n : Nat) (m : Mach) : Mach :=
  match m.gateDesc e w with
  | none => m.endStatus e xRANGE []
  | some g =>
    if (m.niu n).gateSt = 2 then m.endStatus e xSTATE []
    else if !m.domLive (epTile n) then m.done e xOK []
    else (m.modNiu n (fun x => { x with gateP := g, gateSt := 1 })).done e xOK []

def Mach.gateLoad (m : Mach) (e : Nat) (w : Word) : Mach := m.gateOp e w (Mach.gateFill e w)

/-- What GT.LOAD in scope does. -/
def Mach.gateLoads (m : Mach) (e : Nat) (w : Word) : Mach :=
  if wSadr w % 8 ≠ 0 then (m.issued e w).haltFault e xALIGN else (m.gateRead e w).gateLoad e w

theorem exec_gtLoad {s : State} {e : EngId} {w : Word} (h : Issues s e w 0x82) (hs : epScope e ((s.m.eng e).reg (wA w)) = true) :
    exec (.gtLoad e) s = .next { s with m := s.m.gateLoads e w } := by
  change execGtLoad e s = _
  rw [execGtLoad, State.on_eq h.1, Mach.issue_word h rfl]
  refine congrArg (fun m => Host.Outcome.next { s with m := m }) ?_
  rw [← Mach.issued, Mach.reg_eng_issued, hs, Mach.status_free, Mach.descWord_issued, Mach.sadr, Mach.gateLoads, Mach.gateRead,
    Mach.gateLoad]
  refine if_congr Iff.rfl rfl (congrArg _ (funext fun n => funext fun m => ?_))
  unfold Mach.gateFill
  cases m.gateDesc e w <;> rfl

/-! ## GT.ARM and GT.STAT -/

/-- The start time is the first at or after 100 ns from now that is a whole number of cycles from the one asked for (R274). -/
theorem armTime_eq {align : Bool} {base ct now k : Nat} (hk : k ≠ 0 → align = true) (hbefore : ∀ j, j < k → base + j * ct < now + 100)
    (hat : now + 100 ≤ base + k * ct) : armTime align base ct now = some (base + k * ct) := by
  unfold armTime
  by_cases hk0 : k = 0
  · subst hk0
    rw [if_pos (show now + 100 ≤ base by omega), Nat.zero_mul]
    rfl
  have hb := hbefore 0 (Nat.pos_of_ne_zero hk0)
  have hprev := hbefore (k - 1) (by omega)
  have hmul : k * ct = (k - 1) * ct + ct := by
    rw [← Nat.succ_mul, Nat.succ_eq_add_one, Nat.sub_add_cancel (Nat.pos_of_ne_zero hk0)]
  have hdiv : cdiv (now + 100 - base) ct = k := by
    unfold cdiv
    refine Nat.div_eq_of_lt_le ?_ ?_
    · omega
    · rw [Nat.succ_mul]; omega
  rw [if_neg (by omega), if_pos (hk hk0), hdiv]

theorem armTime_late {base ct now : Nat} (h : base < now + 100) : armTime false base ct now = none := by
  rw [armTime, if_neg (by omega), if_neg Bool.false_ne_true]

/-! ## Takeover and the entry in force -/

/-- The end of entry `j`, counted from the start of the cycle (R271). -/
def GateList.upTo (g : GateList) (j : Nat) : Nat := ((g.ents.take (j + 1)).map (fun w => bf w 0 32)).sum

theorem GateList.entryAt_reaches (g : GateList) (pos : Nat) {i : Nat} (hi : i < g.ents.length) (hpast : ∀ j, j < i → g.upTo j ≤ pos)
    (hin : pos < g.upTo i ∨ i + 1 = g.ents.length) (k c : Nat) (hc : c ≤ i) (hk : i - c < k) : g.entryAt pos k c = i := by
  induction k generalizing c with
  | zero => omega
  | succ k ih =>
    rw [GateList.entryAt]
    have hsum : ((g.ents.take (c + 1)).map (fun w => bf w 0 32)).foldl (· + ·) 0 = g.upTo c := List.sum_eq_foldl.symm
    rw [hsum]
    by_cases hci : c = i
    · subst hci
      rw [if_neg]
      rintro ⟨h1, h2⟩
      rcases hin with h | h <;> omega
    · rw [if_pos ⟨hpast c (by omega), by omega⟩]
      exact ih (c + 1) (by omega) (by omega)

/-- The cycle and the entry of a list at a time (R271). -/
theorem GateList.at_eq {g : GateList} {t i : Nat} (hi : i < g.ents.length) (hlen : g.ents.length ≤ 64)
    (hpast : ∀ j, j < i → g.upTo j ≤ (t - g.s) % g.ct) (hin : (t - g.s) % g.ct < g.upTo i ∨ i + 1 = g.ents.length) :
    g.at t = ((t - g.s) / g.ct, i) := by
  rw [GateList.at, g.entryAt_reaches _ hi hpast hin 64 0 (Nat.zero_le _) (by omega)]

/-! ## The statement -/

/-- The machine in which a row acts differs in registers and engines alone. -/
theorem Mach.niu_issued (m : Mach) (e : Nat) (w : Word) (n : Nat) : (m.issued e w).niu n = m.niu n := by rw [Mach.issued_eq]; rfl

theorem Mach.niu_readPc (m : Mach) (e n : Nat) : (m.readPc e).niu n = m.niu n := by rw [Mach.readPc_eq]; rfl

theorem Mach.domLive_issued (m : Mach) (e : Nat) (w : Word) (d : Nat) : (m.issued e w).domLive d = m.domLive d := by
  rw [Mach.issued_eq]; rfl

theorem Mach.keep_issued (m : Mach) (e : Nat) (w : Word) : (m.issued e w).keep = m.keep := by rw [Mach.issued_eq]

theorem Mach.niu_gateRead (m : Mach) (e : Nat) (w : Word) (n : Nat) : (m.gateRead e w).niu n = m.niu n := by
  unfold Mach.niu
  rw [Mach.gateRead_eq]

theorem Mach.domLive_gateRead (m : Mach) (e : Nat) (w : Word) (d : Nat) : (m.gateRead e w).domLive d = m.domLive d := by
  unfold Mach.domLive Mach.dom
  rw [Mach.gateRead_eq]

theorem Mach.gateRead_likeAt (m : Mach) (e : EngId) (w : Word) :
    (m.gateRead e w).LikeAt e { m.eng e with insn := w }
      ((m.readPc e).readWords e (bf w 24 16) (1 + min 64 (bf (descOf m e w 0) 0 7))) := m.issued_readWords_likeAt e w _ _

theorem Mach.gateRead_like (m : Mach) (e : EngId) (w : Word) :
    (m.gateRead e w).Like (((m.readPc e).readWords e (bf w 24 16) (1 + min 64 (bf (descOf m e w 0) 0 7))).modEng e
      (fun x => { x with insn := w })) := m.issued_readWords_like e w _ _

/-- GT.LOAD for an endpoint that answers. -/
theorem gtLoad_acts {s : State} {e : EngId} {w : Word} {n : Nat} (hv : ((s.m.eng e).reg (wA w)).toNat = n) (hn : n < 512)
    (hsc : inScope e (some (quadOf (n / 4))) = true) (hlive : s.m.domLive (n / 4) = true) :
    let d := descOf s.m e w
    let read := (s.m.readPc e).readWords e (bf w 24 16) (1 + min 64 (bf (d 0) 0 7))
    let gone (m : Mach) (st : Nat) : Mach := (m.modEng e (fun x => { x with insn := w })).endStatus e st []
    Issues s e w 0x82 → 
    (wSadr w % 8 = 0 → gateFits d → (s.m.niu n).gateSt ≠ 2 → DoesAt (.gtLoad e) s e ((s.m.eng e).awaits w 0 [])
      (read.modNiu n (fun y =>
        { y with gateP := ⟨(List.range (bf (d 0) 0 7)).map (fun i => d (i + 1)), bf (d 0) 32 32, 0⟩, gateSt := 1 }))) ∧
    (wSadr w % 8 = 0 → gateFits d → (s.m.niu n).gateSt = 2 → Does (.gtLoad e) s (gone read 1)) ∧
    (wSadr w % 8 = 0 → ¬ gateFits d → Does (.gtLoad e) s (gone read 3)) ∧
    (wSadr w % 8 ≠ 0 → Does (.gtLoad e) s ((s.m.issued e w).haltFault e 9)) := by
  intro d read gone h
  have htile : epTile n = n / 4 := if_pos hn
  have hrun := exec_gtLoad h (by rw [epScope_some hv (by omega), htile]; exact hsc)
  have hlive' : (s.m.gateRead e w).domLive (epTile n) = true := by rw [htile, Mach.domLive_gateRead]; exact hlive
  have hniu := s.m.niu_gateRead e w n
  have hd := s.m.descWord_gateRead e w
  have hload (g : GateList) (hg : (s.m.gateRead e w).gateDesc e w = some g) : (s.m.gateRead e w).gateLoad e w =
      if (s.m.niu n).gateSt = 2 then (s.m.gateRead e w).endStatus e 1 []
      else ((s.m.gateRead e w).modNiu n (fun x => { x with gateP := g, gateSt := 1 })).done e 0 [] := by
    rw [Mach.gateLoad, Mach.gateOp_acts (by rw [Mach.reg_eng_gateRead]; exact hv) hn hsc, Mach.gateFill, hg]
    dsimp only
    rw [hniu, hlive']
    rfl
  refine ⟨fun hal hf hst => ?_, fun hal hf hst => ?_, fun hal hf => ?_, fun hal => ?_⟩
  · refine ⟨_, hrun, rfl, rfl, ?_⟩
    rw [Mach.gateLoads, if_neg (not_not_intro hal), hload _ (Mach.gateDesc_fits hd hf), if_neg hst]
    exact ((s.m.gateRead_likeAt e w).modNiu n _).done 0 []
  · refine ⟨_, hrun, rfl, rfl, ?_⟩
    rw [Mach.gateLoads, if_neg (not_not_intro hal), hload _ (Mach.gateDesc_fits hd hf), if_pos hst]
    exact (s.m.gateRead_like e w).endStatus e 1 []
  · refine ⟨_, hrun, rfl, rfl, ?_⟩
    rw [Mach.gateLoads, if_neg (not_not_intro hal), Mach.gateLoad,
      Mach.gateOp_acts (by rw [Mach.reg_eng_gateRead]; exact hv) hn hsc, Mach.gateFill, Mach.gateDesc_none hd hf]
    exact (s.m.gateRead_like e w).endStatus e 3 []
  · refine Does.of_exec (hrun.trans ?_)
    rw [Mach.gateLoads, if_pos hal]
    rfl

/-- What GT.ARM does at endpoint `n`. -/
def Mach.gateArm (e : Nat) (w : Word) (n : Nat) (m : Mach) : Mach :=
  if (m.niu n).gateSt = 0 ∨ m.keep.st = .free ∨ m.keep.st = .frozen then m.endStatus e xSTATE []
  else if (m.niu n).gateSt = 2 ∧ (m.niu n).gateP.s < m.ftNs + 100 then m.endStatus e xBUSY []
  else match armTime (bt w 42) ((m.eng e).reg (wB w)).toNat (m.niu n).gateP.ct m.ftNs with
    | none => ((m.addFld (aGt n 0x28) 16 16 1).orReg (aGt n 0x20) 1).endStatus e xLATE []
    | some t => (m.modNiu n (fun x => { x with gateP := { x.gateP with s := t }, gateSt := 2 })).done e xOK []

theorem exec_gtArm {s : State} {e : EngId} {w : Word} (h : Issues s e w 0x83) :
    exec (.gtArm e) s = .next { s with m := (s.m.issued e w).gateOp e w (Mach.gateArm e w) } := by
  change execGtArm e s = _
  rw [execGtArm, State.on_eq h.1, Mach.issue_word h rfl]
  refine congrArg (fun m => Host.Outcome.next { s with m := m }) (congrArg (Mach.gateOp _ e w) (funext fun n => funext fun m => ?_))
  unfold Mach.gateArm
  refine if_congr Iff.rfl rfl (if_congr Iff.rfl rfl ?_)
  cases armTime (bt w 42) ((m.eng e).reg (wB w)).toNat (m.niu n).gateP.ct m.ftNs <;> rfl

theorem DoesAt.of_exec {i : Instr} {s : State} {a : Mach} {e : Nat} {x : Eng} {m : Mach} (hx : exec i s = .next { s with m := a })
    (h : a.LikeAt e x m) : DoesAt i s e x m := ⟨_, hx, rfl, rfl, h⟩

theorem Keeper.runs {st : KSt} (h : st = .track ∨ st = .holdover) : ¬ (st = .free ∨ st = .frozen) := by
  rcases h with h | h <;> simp [h]

/-- GT.ARM for an endpoint in scope (R274). -/
theorem gtArm_acts {s : State} {e : EngId} {w : Word} {n : Nat} (hv : ((s.m.eng e).reg (wA w)).toNat = n) (hn : n < 512)
    (hsc : inScope e (some (quadOf (n / 4))) = true) (h : Issues s e w 0x83) :
    let x := s.m.eng e
    let y := s.m.niu n
    let now := s.m.ftNs
    let b := (x.reg (wB w)).toNat
    ((y.gateSt = 0 ∨ s.m.keep.st = .free ∨ s.m.keep.st = .frozen) → Does (.gtArm e) s ((s.m.issued e w).endStatus e 1 [])) ∧
    ((s.m.keep.st = .track ∨ s.m.keep.st = .holdover) → y.gateSt = 2 → y.gateP.s < now + 100 →
      Does (.gtArm e) s ((s.m.issued e w).endStatus e 5 [])) ∧
    (∀ k, y.gateSt ≠ 0 → (s.m.keep.st = .track ∨ s.m.keep.st = .holdover) →
      (y.gateSt = 2 → now + 100 ≤ y.gateP.s) → (k ≠ 0 → bt w 42 = true) →
      (∀ j, j < k → b + j * y.gateP.ct < now + 100) → now + 100 ≤ b + k * y.gateP.ct →
      DoesAt (.gtArm e) s e (x.awaits w 0 [])
        ((s.m.readPc e).modNiu n (fun y => { y with gateP := { y.gateP with s := b + k * y.gateP.ct }, gateSt := 2 }))) ∧
    (y.gateSt ≠ 0 → (s.m.keep.st = .track ∨ s.m.keep.st = .holdover) →
      (y.gateSt = 2 → now + 100 ≤ y.gateP.s) → bt w 42 = false → b < now + 100 →
      Does (.gtArm e) s ((((s.m.issued e w).addFld (aGt n 0x28) 16 16 1).orReg (aGt n 0x20) 1).endStatus e 4 [])) := by
  intro x y now b
  have hrun := exec_gtArm h
  rw [Mach.gateOp_acts (by rw [Mach.reg_eng_issued]; exact hv) hn hsc, Mach.gateArm, Mach.niu_issued, Mach.keep_issued,
    Mach.reg_eng_issued, show (s.m.issued e w).ftNs = now by rw [Mach.issued_eq]; rfl] at hrun
  refine ⟨fun hst => ?_, fun hk hst hs => ?_, fun k hst hk hs hal hbefore hat => ?_, fun hst hk hs hal hlate => ?_⟩
  · rw [if_pos hst] at hrun
    exact Does.of_exec hrun
  · rw [if_neg (by rintro (h0 | h0); exacts [absurd (hst.symm.trans h0) (by decide), Keeper.runs hk h0]), if_pos ⟨hst, hs⟩] at hrun
    exact Does.of_exec hrun
  · rw [if_neg (by rintro (h0 | h0); exacts [hst h0, Keeper.runs hk h0]), if_neg (fun ⟨h2, hb⟩ => absurd (hs h2) (Nat.not_le.2 hb)),
      armTime_eq hal hbefore hat] at hrun
    have hct : (s.m.readPc e).modNiu n (fun z => { z with gateP := { z.gateP with s := b + k * y.gateP.ct }, gateSt := 2 }) =
        (s.m.readPc e).modNiu n (fun z => { z with gateP := { z.gateP with s := b + k * z.gateP.ct }, gateSt := 2 }) :=
      Mach.modNiu_congr (by rw [Mach.niu_readPc])
    rw [← hct]
    exact DoesAt.of_exec hrun (((s.m.issued_likeAt e w).modNiu n _).done 0 [])
  · rw [if_neg (by rintro (h0 | h0); exacts [hst h0, Keeper.runs hk h0]), if_neg (fun ⟨h2, hb⟩ => absurd (hs h2) (Nat.not_le.2 hb)),
      hal, armTime_late hlate] at hrun
    exact Does.of_exec hrun

/-- GT.STAT for an endpoint that answers and has an active list (R275). -/
theorem gtStat_acts {s : State} {e : EngId} {w : Word} {n : Nat} (hv : ((s.m.eng e).reg (wA w)).toNat = n) (hn : n < 512)
    (hsc : inScope e (some (quadOf (n / 4))) = true) (hlive : s.m.domLive (n / 4) = true) (h : Issues s e w 0x84)
    (hents : (s.m.niu n).gate.ents ≠ []) :
    DoesAt (.gtStat e) s e ((s.m.eng e).awaits w 0 [(wD w, (s.m.readPc e).gtStatWord n), ((wD w + 1) % 16, (s.m.readPc e).gtCtWord n),
      ((wD w + 2) % 16, (s.m.niu n).gate.ents.getD (s.m.niu n).gateIdx 0)]) (s.m.readPc e) := by
  refine DoesAt.issue rfl h rfl (fun a ha haeq => ?_)
  obtain rfl : a = s.m.issued e w := haeq
  have htile : epTile n = n / 4 := if_pos hn
  have hd : wD w < 16 := (w.extractLsb' 52 4).isLt
  rw [Mach.gateOp_acts (by rw [Mach.reg_eng_issued]; exact hv) hn hsc]
  dsimp only
  rw [Mach.niu_issued, htile, Mach.domLive_issued, hlive, if_neg (by decide), if_neg hents]
  have hstat : (s.m.issued e w).gtStatWord n = (s.m.readPc e).gtStatWord n := by
    unfold Mach.gtStatWord; rw [Mach.niu_issued, Mach.niu_readPc, Mach.keep_issued, Mach.keep_readPc]
  have hct : (s.m.issued e w).gtCtWord n = (s.m.readPc e).gtCtWord n := by
    unfold Mach.gtCtWord; rw [Mach.niu_issued, Mach.niu_readPc]
  rw [hstat, hct, Nat.add_zero, Nat.mod_eq_of_lt hd]
  exact ha.done 0 _

/-- Out of scope, and for an endpoint above 511 (R343, R360). -/
theorem gateRows_refused (s : State) (e : EngId) (w : Word) :
    let a := ((s.m.eng e).reg (wA w)).toNat
    let gone (m : Mach) (st : Nat) : Mach := (m.modEng e (fun x => { x with insn := w })).endStatus e st []
    (Issues s e w 0x82 → a < 516 → inScope e (some (quadOf (epTile a))) = false → Does (.gtLoad e) s (gone (s.m.readPc e) 6)) ∧
    (Issues s e w 0x83 → a < 516 → inScope e (some (quadOf (epTile a))) = false → Does (.gtArm e) s (gone (s.m.readPc e) 6)) ∧
    (Issues s e w 0x82 → 512 ≤ a → (a < 516 → inScope e (some (quadOf (epTile a))) = true) → bf w 24 16 % 8 = 0 →
      Does (.gtLoad e) s (gone ((s.m.readPc e).readWords e (bf w 24 16) (1 + min 64 (bf (s.m.descWord e w 0) 0 7))) 3)) ∧
    (Issues s e w 0x83 → 512 ≤ a → (a < 516 → inScope e (some (quadOf (epTile a))) = true) →
      Does (.gtArm e) s (gone (s.m.readPc e) 3)) := by
  intro a gone
  have hout {v : Word} (hv : v.toNat < 516) (hs : inScope e (some (quadOf (epTile v.toNat))) = false) : epScope e v = false :=
    (epScope_some rfl hv).trans hs
  refine ⟨fun h ha hs => ?_, fun h ha hs => ?_, fun h ha hs hal => ?_, fun h ha hs => ?_⟩
  · refine Does.row rfl h ?_
    rw [Mach.reg_eng_issued, hout ha hs, Mach.status_denied]
    rfl
  · refine Does.of_exec ((exec_gtArm h).trans ?_)
    unfold Mach.gateOp
    dsimp only
    rw [Mach.reg_eng_issued, hout ha hs, Mach.status_denied]
    rfl
  · have hsc : epScope e ((s.m.eng e).reg (wA w)) = true := epScope_out rfl hs
    refine ⟨_, exec_gtLoad h hsc, rfl, rfl, ?_⟩
    have hal' : wSadr w % 8 = 0 := hal
    rw [Mach.gateLoads, if_neg (not_not_intro hal'), Mach.gateLoad, Mach.gateOp_range (by rw [Mach.reg_eng_gateRead]; exact ha)
      (by rw [Mach.reg_eng_gateRead]; exact hsc)]
    exact (s.m.gateRead_like e w).endStatus e 3 []
  · refine Does.of_exec ((exec_gtArm h).trans ?_)
    rw [Mach.gateOp_range (by rw [Mach.reg_eng_issued]; exact ha) (by rw [Mach.reg_eng_issued]; exact epScope_out rfl hs)]
    rfl

/-- A change that leaves an NIU as it is. -/
theorem Mach.like_modNiu_self {m : Mach} {n : Nat} {f : Niu → Niu} (h : f (m.niu n) = m.niu n) : m.Like (m.modNiu n f) := by
  refine { Mach.Like.refl m with niu := fun k => ?_, bare := rfl }
  by_cases hk : k = n
  · rw [hk, Mach.niu_modNiu, h]
  · rw [Mach.niu_modNiu_ne m f hk]

/-- Takeover, and the entry in force at the keeper's time (R271, R275). -/
theorem gateSteps (s : State) (ep : Ep) (g : GateList) (i : Nat) (hs : s.m.test.scan = false) (hstart : g.s ≤ s.m.ftNs)
    (hlen : g.ents.length ≤ 64) (hi : i < g.ents.length) (hpast : ∀ j, j < i → g.upTo j ≤ (s.m.ftNs - g.s) % g.ct)
    (hin : (s.m.ftNs - g.s) % g.ct < g.upTo i ∨ i + 1 = g.ents.length) :
    let y := s.m.niu ep
    (y.gateSt = 2 → y.gateP = g →
      Does (.gateTakeover ep) s ((s.m.modNiu ep (fun y =>
        { y with gate := g, gateP := ⟨[], 0, 0⟩, gateSt := 0, gateCyc := (s.m.ftNs - g.s) / g.ct, gateIdx := i })).orReg (aGt ep 0x20) 2)) ∧
    (y.gate = g → s.m.keep.st ≠ .frozen → y.gateCyc = (s.m.ftNs - g.s) / g.ct →
      Does (.gateEntryChange ep) s (s.m.modNiu ep (fun y => { y with gateIdx := i }))) ∧
    (y.gate = g → s.m.keep.st = .frozen → Does (.gateEntryChange ep) s s.m) := by
  intro y
  have hat : g.at s.m.ftNs = ((s.m.ftNs - g.s) / g.ct, i) := GateList.at_eq hi hlen hpast hin
  have hplace (hg : y.gate = g) (hcyc : y.gateCyc = (s.m.ftNs - g.s) / g.ct) :
      (s.m.gatePlace ep).Like (s.m.modNiu ep (fun y => { y with gateIdx := i })) := by
    have hg' : (s.m.niu ep).gate = g := hg
    have hcyc' : (s.m.niu ep).gateCyc = (s.m.ftNs - g.s) / g.ct := hcyc
    have hents : ¬ (g.ents = [] ∨ s.m.ftNs < g.s) := by
      rintro (h | h)
      · rw [h] at hi; exact Nat.not_lt_zero _ hi
      · omega
    rw [Mach.gatePlace]
    dsimp only
    rw [hg', if_neg hents, hat, hcyc', if_neg (Nat.lt_irrefl _)]
    by_cases hidx : i = (s.m.niu ep).gateIdx
    · rw [if_pos (by rw [hidx])]
      exact Mach.like_modNiu_self (by rw [hidx])
    · rw [if_neg (fun h => hidx (Prod.ext_iff.1 h).2)]
      rw [Mach.modNiu_congr (g := fun y => { y with gateIdx := i }) (by rw [← hcyc'])]
      exact .refl _
  refine ⟨fun hst hg => ?_, fun hg hk hcyc => ?_, fun _ hk => ?_⟩
  · have hg' : (s.m.niu ep).gateP = g := hg
    refine Does.on (f := fun m => m.gateTake ep) rfl hs ?_
    rw [Mach.gateTake]
    dsimp only
    rw [if_pos ⟨hst, by rw [hg']; exact hstart⟩, hg', hat, Mach.modNiu_congr (g := fun y =>
      { y with gate := g, gateP := ⟨[], 0, 0⟩, gateSt := 0, gateCyc := (s.m.ftNs - g.s) / g.ct, gateIdx := i })
      (by rw [hg']; rfl)]
    exact .refl _
  · refine Does.on (f := fun m => if m.keep.st = .frozen then m else m.gatePlace ep) rfl hs ?_
    rw [if_neg hk]
    exact hplace hg hcyc
  · refine Does.on (f := fun m => if m.keep.st = .frozen then m else m.gatePlace ep) rfl hs ?_
    rw [if_pos hk]
    exact .refl _

/-- Settles O23: GT.LOAD, GT.ARM and GT.STAT, what refuses them, and the entry that Fabric Time gives. -/
theorem gateLists : Obligations.GateLists := by
  refine ⟨fun s e w n => ?_, gateRows_refused, fun s ep g i => ?_⟩
  · intro x y d cnt ct now b fits read gone hv hn hsc hlive
    have hload := gtLoad_acts hv hn hsc hlive (w := w)
    have harm := gtArm_acts hv hn hsc (w := w)
    refine ⟨fun h hal hf hst => (hload h).1 hal hf hst, fun h hal hf hst => (hload h).2.1 hal hf hst,
      fun h hal hf => (hload h).2.2.1 hal hf, fun h hal => (hload h).2.2.2 hal, fun h => (harm h).1, fun h => (harm h).2.1,
      fun k h => (harm h).2.2.1 k, fun h => (harm h).2.2.2, fun h hents => gtStat_acts hv hn hsc hlive h hents⟩
  · intro y t upTo hs hstart _ hlen hi hpast hin
    exact gateSteps s ep g i hs hstart hlen hi hpast hin

end Sys2Proof.Machine

/-! PROOFS. SH.SET and SH.GET (O33). -/

namespace Sys2Proof.Machine

theorem bf_eq_div (w : Word) (lo len : Nat) : bf w lo len = w.toNat / 2 ^ lo % 2 ^ len := by
  rw [bf, BitVec.extractLsb'_toNat, Nat.shiftRight_eq_div_pow]

theorem selShaper_some {v : Word} {n k : Nat} (hv : v.toNat = n * 2 ^ 48 + k) (hn : n < 516) (hk : k < 64) :
    selShaper v = some (n, k) := by
  have hep : bf v 48 10 = n := by rw [bf_eq_div, hv]; omega
  have hshp : bf v 0 6 = k := by rw [bf_eq_div, hv]; omega
  have htop : bf v 58 6 = 0 := by rw [bf_eq_div, hv]; omega
  have hmid : bf v 6 42 = 0 := by rw [bf_eq_div, hv]; omega
  rw [selShaper, hep, hshp, if_pos ⟨hn, htop, hmid⟩]

/-- A shaper instruction for a shaper in scope. -/
theorem Mach.shaperOp_acts {m : Mach} {e n k : Nat} {w : Word} (hv : ((m.eng e).reg (wA w)).toNat = n * 2 ^ 48 + k) (hn : n < 516)
    (hk : k < 64) (hs : inScope e (some (quadOf (epTile n))) = true) (act : Nat → Nat → Mach → Mach) : m.shaperOp e w act = act n k m := by
  unfold Mach.shaperOp
  dsimp only
  rw [selShaper_some hv hn hk]
  dsimp only [epQuad]
  rw [hs, Mach.status_free]

/-- No reservation is bound to the shaper. -/
theorem Adm.find_none {a : Adm} {n k : Nat} (h : ∀ r ∈ a.led, r.ep ≠ n ∨ r.shp ≠ k) : a.find n k = none := by
  rw [Adm.find, List.find?_eq_none]
  intro r hr hb
  rw [Bool.and_eq_true, beq_iff_eq, beq_iff_eq] at hb
  exact (h r hr).elim (absurd hb.1) (absurd hb.2)

/-- What SH.SET refuses with RANGE, by the mode and the descriptor (R245). -/
theorem Mach.shSetFails_range {m : Mach} {n k : Nat} {v : Word}
    (h : bf v 62 2 = 3 ∨ (bf v 62 2 = 2 ∧ ∀ r ∈ m.adm.led, r.ep ≠ n ∨ r.shp ≠ k) ∨ bf v 50 8 = 0 ∨ (bf v 60 2 = 3 ∧ bf v 62 2 = 0) ∨
      bf v 40 10 ≠ 0) : m.shSetFails n k v = some 3 := by
  unfold Mach.shSetFails
  rcases h with h | ⟨h, hfree⟩ | h | h | h
  · simp [h, xRANGE]
  · simp [h, Adm.find_none hfree, xRANGE]
  · simp [h, xRANGE]
  · simp [h, xRANGE]
  · simp [h, xRANGE]

/-- A descriptor in range, of a shaper without a reservation, is refused only for its traffic class (R245). -/
theorem Mach.shSetFails_tc {m : Mach} {n k : Nat} {v : Word} (hfree : ∀ r ∈ m.adm.led, r.ep ≠ n ∨ r.shp ≠ k) (hmode : bf v 62 2 < 2)
    (hwt : bf v 50 8 ≠ 0) (htc : bf v 60 2 = 3 → bf v 62 2 = 1) (hrsv : bf v 40 10 = 0) :
    m.shSetFails n k v = if bf v 60 2 ≠ ((m.niu n).shaper n k).tc ∧ (m.niu n).inj.any (fun p => p.shp == k) = true then some 1 else none := by
  have h0 : ¬ (bf v 60 2 = 3 ∧ bf v 62 2 = 0) := fun ⟨h3, hz⟩ => by rw [htc h3] at hz; exact absurd hz (by decide)
  have h2 : bf v 62 2 ≠ 2 := by omega
  have h3 : bf v 62 2 ≠ 3 := by omega
  unfold Mach.shSetFails
  simp only [Adm.find_none hfree, h0, h2, h3, hwt, hrsv, xSTATE, ne_eq, not_true, decide_false, Bool.or_false, Bool.false_eq_true, if_false,
    Option.isSome_none, or_false]

/-- What SH.SET does to shaper `k` of NIU `n`. -/
def Mach.shapes (m : Mach) (e : Nat) (w : Word) (n k : Nat) : Mach :=
  let v := (m.eng e).reg (wB w)
  match m.shSetFails n k v with
  | some st => m.endStatus e st []
  | none =>
    if !m.domLive (epTile n) then m.done e xOK []
    else (m.modNiu n (fun x => x.modShp n k (fun s =>
      { s with tc := bf v 60 2, excess := bt v 59, demoted := false, wt := bf v 50 8,
               pend := some (bf v 62 2, bf v 20 20, bf v 0 20) }))).done e xOK []

theorem exec_shSet {s : State} {e : EngId} {w : Word} (h : Issues s e w 0x80) :
    exec (.shSet e) s = .next { s with m := (s.m.issued e w).shaperOp e w (fun n k m => m.shapes e w n k) } := by
  change execShSet e s = _
  rw [execShSet, State.on_eq h.1, Mach.issue_word h rfl]
  refine congrArg (fun m => Host.Outcome.next { s with m := m })
    (congrArg (Mach.shaperOp _ e w) (funext fun n => funext fun k => funext fun m => ?_))
  unfold Mach.shapes
  generalize (m.eng e).reg (wB w) = v
  cases h : m.shSetFails n k v <;> simp only [h]

theorem Mach.shapes_refused {m : Mach} {e n k st : Nat} {w : Word} (h : m.shSetFails n k ((m.eng e).reg (wB w)) = some st) :
    m.shapes e w n k = m.endStatus e st [] := by
  unfold Mach.shapes
  dsimp only
  rw [h]

theorem Mach.shapes_acts {m : Mach} {e n k : Nat} {w v : Word} (hv : (m.eng e).reg (wB w) = v) (h : m.shSetFails n k v = none)
    (hlive : m.domLive (epTile n) = true) :
    m.shapes e w n k = (m.modNiu n (fun x => x.modShp n k (fun s =>
      { s with tc := bf v 60 2, excess := bt v 59, demoted := false, wt := bf v 50 8,
               pend := some (bf v 62 2, bf v 20 20, bf v 0 20) }))).done e xOK [] := by
  unfold Mach.shapes
  dsimp only
  rw [hv, h, hlive]
  rfl

/-- What an engine row does in the machine in which its word has been read. -/
theorem exec_issue {i : Instr} {s : State} {e opc : Nat} {w : Word} {body : Word → Mach → Mach}
    (hx : exec i s = s.on (fun m => m.issue e opc anyWord body)) (h : Issues s e w opc) :
    exec i s = .next { s with m := body w (s.m.issued e w) } := by
  rw [hx, State.on_eq h.1, Mach.issue_word h rfl]
  rfl

theorem Mach.adm_issued (m : Mach) (e : Nat) (w : Word) : (m.issued e w).adm = m.adm := by rw [Mach.issued_eq]

/-- Settles O33: SH.SET by what it refuses, and SH.GET. -/
theorem shaperInstructions : Obligations.ShaperInstructions := by
  intro s e w n k x y h v free gone hn hk hv hsc hlive
  have hv' : (((s.m.issued e w).eng e).reg (wA w)).toNat = n * 2 ^ 48 + k := by rw [Mach.reg_eng_issued]; exact hv
  have hlive' : (s.m.issued e w).domLive (epTile n) = true := by rw [Mach.domLive_issued, hlive]
  have hb : ((s.m.issued e w).eng e).reg (wB w) = v := s.m.reg_eng_issued e w _
  have hniu : (s.m.issued e w).niu n = y := s.m.niu_issued e w n
  have hled : (s.m.issued e w).adm = s.m.adm := s.m.adm_issued e w
  have hset (i : Issues s e w 0x80) : exec (.shSet e) s = .next { s with m := (s.m.issued e w).shapes e w n k } := by
    rw [exec_shSet i, Mach.shaperOp_acts hv' hn hk hsc]
  have hend {st : Nat} (i : Issues s e w 0x80) (ho : (s.m.issued e w).shSetFails n k v = some st) : Does (.shSet e) s (gone st) :=
    Does.of_exec ((hset i).trans (by rw [Mach.shapes_refused (by rw [hb]; exact ho)]; rfl))
  refine ⟨fun i hf hmode hwt htc hrsv hinj => ?_, fun i hbad => ?_, fun i hf hmode hwt htc hrsv hne hin => ?_, fun i => ?_⟩
  · have ho := Mach.shSetFails_tc (m := s.m.issued e w) (n := n) (k := k) (by rw [hled]; exact hf) hmode hwt htc hrsv
    rw [hniu, if_neg (by rintro ⟨hne, hany⟩; exact hinj.elim hne (fun h0 => by rw [h0, List.any_nil] at hany; exact Bool.false_ne_true hany))] at ho
    refine DoesAt.of_exec (hset i) ?_
    rw [Mach.shapes_acts hb ho hlive']
    exact (((s.m.issued_likeAt e w).modNiu n _).done 0 [])
  · exact hend i (Mach.shSetFails_range (by rw [hled]; exact hbad))
  · have ho := Mach.shSetFails_tc (m := s.m.issued e w) (n := n) (k := k) (by rw [hled]; exact hf) hmode hwt htc hrsv
    obtain ⟨p, hp, hpk⟩ := hin
    rw [hniu, if_pos ⟨hne, List.any_eq_true.2 ⟨p, hp, by rw [hpk, beq_self_eq_true]⟩⟩] at ho
    exact hend i ho
  · refine DoesAt.issue rfl i rfl (fun a ha haeq => ?_)
    obtain rfl : a = s.m.issued e w := haeq
    rw [Mach.shaperOp_acts hv' hn hk hsc]
    dsimp only
    rw [hniu, Mach.domLive_issued, hlive]
    exact ha.done 0 _

end Sys2Proof.Machine

/-! PROOFS. The default routes lead nearer the target, and the congestion code (O30). -/

namespace Sys2Proof.Machine

/-- The directions a default table offers before the turns are looked at (R165). -/
def defaultDirs (t inp g : Nat) : List Nat :=
  let e0 : Int := (tileX g : Int) - (tileX t : Int)
  let e1 : Int := (tileY g : Int) - (tileY t : Int)
  let v := if e1 > 0 then 0 else 2
  let odd := tileX t % 2 = 1
  if e0 = 0 then (if e1 ≠ 0 then [v] else [])
  else if e0 > 0 then
    if e1 = 0 then [1]
    else (if inp = 3 ∧ ¬odd then [] else [v]) ++ (if tileX g % 2 = 1 ∨ e0 ≠ 1 then [1] else [])
  else 3 :: (if e1 ≠ 0 ∧ ¬odd then [v] else [])

theorem testBit_foldl_or (l : List Nat) (a d : Nat) :
    (l.foldl (fun a d => a ||| 2 ^ d) a).testBit d = (a.testBit d || decide (d ∈ l)) := by
  induction l generalizing a with
  | nil => simp
  | cons b l ih =>
    rw [List.foldl_cons, ih, Nat.testBit_or, Nat.testBit_two_pow, Bool.or_assoc]
    congr 1
    by_cases hb : b = d
    · simp [hb]
    · simp [hb, Ne.symm hb]

/-- A mask offers a direction when the list does and the turn is permitted. -/
theorem bt_defaultMask {t inp g d : Nat} (hd : d < 4) :
    bt (defaultMask t inp g) d = true ↔ d ∈ defaultDirs t inp g ∧ (4 ≤ inp ∨ turnOk (tileX t) inp d = true) := by
  have hmask : defaultMask t inp g = BitVec.ofNat 4 (((defaultDirs t inp g).filter (fun d => decide (4 ≤ inp) || turnOk (tileX t) inp d)).foldl
    (fun a d => a ||| 2 ^ d) 0) := rfl
  rw [hmask, bt_ofNat, testBit_foldl_or, Nat.zero_testBit, Bool.false_or, Bool.and_eq_true, decide_eq_true_eq, decide_eq_true_eq,
    List.mem_filter, Bool.or_eq_true, decide_eq_true_eq]
  exact and_iff_right hd

/-- Which way the target lies, for each direction offered. -/
theorem defaultDirs_nearer {t inp g d : Nat} (h : d ∈ defaultDirs t inp g) :
    (d = 0 ∧ tileY t < tileY g) ∨ (d = 1 ∧ tileX t < tileX g) ∨ (d = 2 ∧ tileY g < tileY t) ∨ (d = 3 ∧ tileX g < tileX t) := by
  unfold defaultDirs at h
  dsimp only at h
  have hv {e1 : Int} (he : e1 ≠ 0) : (0 < e1 ∧ (if e1 > 0 then 0 else 2) = 0) ∨ (e1 < 0 ∧ (if e1 > 0 then 0 else 2) = 2) := by
    by_cases hp : e1 > 0
    · exact .inl ⟨hp, if_pos hp⟩
    · exact .inr ⟨by omega, if_neg hp⟩
  by_cases h1 : (tileY g : Int) - (tileY t : Int) = 0
  · simp only [h1, ne_eq, not_true, if_false, if_true, false_and] at h
    split at h
    · exact absurd h List.not_mem_nil
    · split at h
      · rw [List.mem_singleton] at h; omega
      · rw [List.mem_singleton] at h; omega
  · have hv := hv h1
    generalize (if (tileY g : Int) - (tileY t : Int) > 0 then 0 else 2) = v at h hv
    simp only [h1, ne_eq, not_false_eq_true, if_true, if_false, true_and] at h
    split at h
    · rw [List.mem_singleton] at h; omega
    · split at h
      · rw [List.mem_append] at h
        rcases h with h | h
        · split at h
          · exact absurd h List.not_mem_nil
          · rw [List.mem_singleton] at h; omega
        · split at h
          · rw [List.mem_singleton] at h; omega
          · exact absurd h List.not_mem_nil
      · rw [List.mem_cons] at h
        rcases h with h | h
        · omega
        · split at h
          · rw [List.mem_singleton] at h; omega
          · exact absurd h List.not_mem_nil

/-- From a local input some direction is offered, unless the target is here. -/
theorem defaultDirs_local {t g : Nat} (h : t ≠ g) : ∃ d, d < 4 ∧ d ∈ defaultDirs t 4 g := by
  have hpos : tileX g ≠ tileX t ∨ tileY g ≠ tileY t := by unfold tileX tileY; omega
  have hv : (if (tileY g : Int) - (tileY t : Int) > 0 then 0 else 2) < 4 := by split <;> omega
  unfold defaultDirs
  dsimp only
  generalize (if (tileY g : Int) - (tileY t : Int) > 0 then 0 else 2) = v at hv ⊢
  by_cases h0 : (tileX g : Int) - (tileX t : Int) = 0
  · rw [if_pos h0, if_pos (by omega)]
    exact ⟨v, hv, List.mem_singleton_self v⟩
  rw [if_neg h0]
  by_cases hp : (tileX g : Int) - (tileX t : Int) > 0
  · rw [if_pos hp]
    by_cases h1 : (tileY g : Int) - (tileY t : Int) = 0
    · exact ⟨1, by omega, by rw [if_pos h1]; exact List.mem_singleton_self 1⟩
    · exact ⟨v, hv, by rw [if_neg h1, if_neg (by omega)]; exact List.mem_append_left _ (List.mem_singleton_self v)⟩
  · exact ⟨3, by omega, by rw [if_neg hp]; exact List.mem_cons_self⟩

theorem hopsLeft_x (t g : Nat) : hopsLeft t g 1 = max (t % 16) (g % 16) - min (t % 16) (g % 16) := rfl

theorem hopsLeft_y (t g : Nat) : hopsLeft t g 0 = max (t / 16) (g / 16) - min (t / 16) (g / 16) := rfl

/-- A step in a direction the target lies in leads to a neighbour nearer it. -/
theorem neighbour_nearer {t g d : Nat} (ht : t < 128) (hg : g < 128)
    (h : (d = 0 ∧ tileY t < tileY g) ∨ (d = 1 ∧ tileX t < tileX g) ∨ (d = 2 ∧ tileY g < tileY t) ∨ (d = 3 ∧ tileX g < tileX t)) :
    ∃ u, neighbour t d = some u ∧ hopsLeft u g 1 + hopsLeft u g 0 + 1 = hopsLeft t g 1 + hopsLeft t g 0 := by
  rw [hopsLeft_x, hopsLeft_y]
  unfold tileX tileY at h
  rcases h with ⟨rfl, h⟩ | ⟨rfl, h⟩ | ⟨rfl, h⟩ | ⟨rfl, h⟩
  · exact ⟨t + 16, if_pos (show t / 16 < 7 by omega), by rw [hopsLeft_x, hopsLeft_y]; omega⟩
  · exact ⟨t + 1, if_pos (show t % 16 < 15 by omega), by rw [hopsLeft_x, hopsLeft_y]; omega⟩
  · exact ⟨t - 16, if_pos (show 16 ≤ t by omega), by rw [hopsLeft_x, hopsLeft_y]; omega⟩
  · exact ⟨t - 1, if_pos (show 0 < t % 16 by omega), by rw [hopsLeft_x, hopsLeft_y]; omega⟩

/-- Settles O30: every direction of a default mask leads nearer the target by a permitted turn. -/
theorem defaultRoutes : Obligations.DefaultRoutes := by
  refine ⟨fun t g d ht hg hd => ⟨fun hne => ?_, fun inp _ hb => ?_, fun inp hinp hb => ?_⟩, fun m t d => ⟨fun h => ?_, fun h => ?_⟩⟩
  · obtain ⟨k, hk, hmem⟩ := defaultDirs_local hne
    intro hz
    have hb := (bt_defaultMask hk).2 ⟨hmem, .inl (Nat.le_refl 4)⟩
    rw [hz] at hb
    exact Bool.false_ne_true ((BitVec.getLsbD_zero (w := 4)).symm.trans hb)
  · exact neighbour_nearer ht hg (defaultDirs_nearer ((bt_defaultMask hd).1 hb).1)
  · exact ((bt_defaultMask hd).1 hb).2.resolve_left (by omega)
  · rw [Mach.occOf]
    exact if_pos h
  · rw [Mach.occOf]
    exact if_neg (by rw [h]; exact Bool.false_ne_true)

end Sys2Proof.Machine

/-! PROOFS. The arithmetic of the combine unit's lanes (O39). -/

namespace Sys2Proof.Machine

/-! ## The smaller or larger of two lanes by a key -/

/-- The lane with the smaller key, or with the larger one. -/
def pickBy (key : Nat → Int) (larger : Bool) (a b : Nat) : Nat := if decide (key a ≤ key b) != larger then a else b

theorem pickBy_false (key : Nat → Int) (a b : Nat) : pickBy key false a b = if key a ≤ key b then a else b := by simp [pickBy]

theorem pickBy_true (key : Nat → Int) (a b : Nat) : pickBy key true a b = if key a ≤ key b then b else a := by
  by_cases h : key a ≤ key b <;> simp [pickBy, h]

theorem pickBy_mem (key : Nat → Int) (larger : Bool) (a b : Nat) : pickBy key larger a b = a ∨ pickBy key larger a b = b := by
  unfold pickBy
  split
  · exact .inl rfl
  · exact .inr rfl

theorem pickBy_comm {key : Nat → Int} {a b : Nat} (h : key a = key b → a = b) (larger : Bool) :
    pickBy key larger a b = pickBy key larger b a := by
  by_cases heq : key a = key b
  · rw [h heq]
  cases larger with
  | false =>
    rw [pickBy_false, pickBy_false]
    split_ifs <;> omega
  | true =>
    rw [pickBy_true, pickBy_true]
    split_ifs <;> omega

theorem pickBy_assoc (key : Nat → Int) (larger : Bool) (a b c : Nat) :
    pickBy key larger (pickBy key larger a b) c = pickBy key larger a (pickBy key larger b c) := by
  cases larger with
  | false =>
    simp only [pickBy_false]
    split_ifs <;> omega
  | true =>
    simp only [pickBy_true]
    split_ifs <;> omega

/-! ## Floating-point lanes -/

/-- A lane put together of a sign, an exponent and a fraction. -/
theorem Fmt.lane_lt (f : Fmt) {s e r : Nat} (hs : s ≤ 1) (he : e < 2 ^ f.eb) (hr : r < 2 ^ f.fb) :
    s * 2 ^ (f.eb + f.fb) + e * 2 ^ f.fb + r < 2 ^ (f.eb + f.fb + 1) := by
  have hlow : (e + 1) * 2 ^ f.fb ≤ 2 ^ f.eb * 2 ^ f.fb := Nat.mul_le_mul_right _ he
  have hsign : s * 2 ^ (f.eb + f.fb) ≤ 1 * 2 ^ (f.eb + f.fb) := Nat.mul_le_mul_right _ hs
  rw [← Nat.pow_add, Nat.add_mul] at hlow
  rw [Nat.pow_succ]
  omega

theorem b1_le (b : Bool) : b1 b ≤ 1 := by cases b <;> decide

theorem Fmt.nan_lt (f : Fmt) (hf : 1 ≤ f.fb) : f.nan < 2 ^ (f.eb + f.fb + 1) := by
  have h := f.lane_lt (s := 0) (e := 2 ^ f.eb - 1) (r := 2 ^ (f.fb - 1)) (by omega) (by have := Nat.two_pow_pos f.eb; omega)
    (Nat.pow_lt_pow_right (by decide) (by omega))
  rwa [Nat.zero_mul, Nat.zero_add] at h

theorem Fmt.inf_lt (f : Fmt) (s : Bool) : f.inf s < 2 ^ (f.eb + f.fb + 1) :=
  f.lane_lt (r := 0) (b1_le s) (by have := Nat.two_pow_pos f.eb; omega) (Nat.two_pow_pos _)

theorem Fmt.isNan_nan (f : Fmt) (hf : 1 ≤ f.fb) : f.isNan f.nan = true := by
  have hr : 2 ^ (f.fb - 1) < 2 ^ f.fb := Nat.pow_lt_pow_right (by decide) (by omega)
  have hfrac : f.frac f.nan = 2 ^ (f.fb - 1) := by
    rw [Fmt.frac, Fmt.nan, Nat.mul_comm, Nat.mul_add_mod, Nat.mod_eq_of_lt hr]
  have hexp : f.exp f.nan = 2 ^ f.eb - 1 := by
    rw [Fmt.exp, Fmt.nan, Nat.mul_comm, Nat.mul_add_div (Nat.two_pow_pos _), Nat.div_eq_of_lt hr, Nat.add_zero,
      Nat.mod_eq_of_lt (by have := Nat.two_pow_pos f.eb; omega)]
  rw [Fmt.isNan, hfrac, hexp, beq_self_eq_true, Bool.true_and, bne_iff_ne]
  exact (Nat.two_pow_pos _).ne'

/-- The significand that rounding keeps. -/
theorem quot_log2_le {a fb : Nat} (h : 2 ^ fb ≤ a) : a / 2 ^ (Nat.log2 a - fb) < 2 ^ (fb + 1) := by
  have ha : a ≠ 0 := by have := Nat.two_pow_pos fb; omega
  have hlog : fb ≤ Nat.log2 a := (Nat.le_log2 ha).2 h
  rw [Nat.div_lt_iff_lt_mul (Nat.two_pow_pos _), ← Nat.pow_add, show fb + 1 + (Nat.log2 a - fb) = Nat.log2 a + 1 by omega]
  exact Nat.lt_log2_self

theorem Fmt.round_lt (f : Fmt) (s : Bool) (a : Nat) : f.round s a < 2 ^ (f.eb + f.fb + 1) := by
  unfold Fmt.round
  dsimp only
  by_cases ha : a < 2 ^ f.fb
  · rw [if_pos ha]
    have h := f.lane_lt (s := b1 s) (e := 0) (b1_le s) (Nat.two_pow_pos _) ha
    rwa [Nat.zero_mul, Nat.add_zero] at h
  rw [if_neg ha]
  have hq := quot_log2_le (Nat.le_of_not_lt ha)
  generalize Nat.log2 a - f.fb = sh at hq ⊢
  generalize (decide (2 ^ sh < 2 * (a % 2 ^ sh)) || decide (2 * (a % 2 ^ sh) = 2 ^ sh) && decide (0 < sh) && a / 2 ^ sh % 2 == 1) = up
  generalize hup : (if up = true then a / 2 ^ sh + 1 else a / 2 ^ sh) = q
  have hq2 : q ≤ 2 ^ (f.fb + 1) := by rw [← hup]; split <;> omega
  generalize he' : (if q = 2 ^ (f.fb + 1) then sh + 2 else sh + 1) = e
  split
  · exact f.inf_lt s
  · refine f.lane_lt (b1_le s) (by omega) ?_
    have hpos := Nat.two_pow_pos f.fb
    rw [Nat.pow_succ] at hq2 ⊢
    split <;> omega

theorem Fmt.add_lt (f : Fmt) (hf : 1 ≤ f.fb) (a b : Nat) : f.add a b < 2 ^ (f.eb + f.fb + 1) := by
  have hsign : 2 ^ (f.eb + f.fb) < 2 ^ (f.eb + f.fb + 1) := Nat.pow_lt_pow_right (by decide) (by omega)
  unfold Fmt.add
  dsimp only
  split_ifs
  · exact f.nan_lt hf
  · exact f.inf_lt _
  · exact f.inf_lt _
  · exact hsign
  · exact Nat.two_pow_pos _
  · exact f.round_lt _ _

theorem Fmt.add_comm (f : Fmt) (a b : Nat) : f.add a b = f.add b a := by
  have hbad : (f.isNan a || f.isNan b || (f.isInf a && f.isInf b && f.sign a != f.sign b)) =
      (f.isNan b || f.isNan a || (f.isInf b && f.isInf a && f.sign b != f.sign a)) := by
    rw [Bool.or_comm (f.isNan a), Bool.and_comm (f.isInf a), bne_comm]
  unfold Fmt.add
  rw [hbad, Int.add_comm (f.val a), Bool.and_comm (f.sign a)]
  by_cases hb : (f.isNan b || f.isNan a || (f.isInf b && f.isInf a && f.sign b != f.sign a)) = true
  · rw [if_pos hb, if_pos hb]
  rw [if_neg hb, if_neg hb]
  cases ha : f.isInf a with
  | false => cases f.isInf b <;> rfl
  | true =>
    cases hi : f.isInf b with
    | false => rfl
    | true =>
      have hs : f.sign a = f.sign b := by
        simp only [ha, hi, Bool.or_eq_true, Bool.and_true, not_or, Bool.true_and, bne_iff_ne, not_not] at hb
        exact hb.2.symm
      rw [hs]

/-- The order of MIN and MAX (R284). -/
def Fmt.key (f : Fmt) (v : Nat) : Int := if f.sign v then -((v % 2 ^ (f.eb + f.fb) : Nat) : Int) - 1 else (v : Int)

theorem Fmt.key_inj (f : Fmt) {a b : Nat} (ha : a < 2 ^ (f.eb + f.fb + 1)) (hb : b < 2 ^ (f.eb + f.fb + 1)) (h : f.key a = f.key b) :
    a = b := by
  unfold Fmt.key Fmt.sign at h
  rw [Nat.pow_succ] at ha hb
  generalize 2 ^ (f.eb + f.fb) = W at h ha hb
  have hda := Nat.div_add_mod a W
  have hdb := Nat.div_add_mod b W
  have hqa : a / W < 2 := Nat.div_lt_of_lt_mul ha
  have hqb : b / W < 2 := Nat.div_lt_of_lt_mul hb
  rw [Nat.mod_eq_of_lt hqa, Nat.mod_eq_of_lt hqb] at h
  simp only [beq_iff_eq] at h
  split_ifs at h with h1 h2 h2
  · rw [← hda, ← hdb, h1, h2]; omega
  · omega
  · omega
  · omega

/-- MIN and MAX by the key, a NaN ignored unless both are. -/
theorem Fmt.minmax_eq (f : Fmt) (mx : Bool) (a b : Nat) : f.minmax mx a b =
    if f.isNan a then (if f.isNan b then f.nan else b) else if f.isNan b then a else pickBy f.key mx a b := by
  unfold Fmt.minmax
  cases f.isNan a <;> cases f.isNan b <;> rfl

theorem Fmt.minmax_lt (f : Fmt) (hf : 1 ≤ f.fb) (mx : Bool) {a b : Nat} (ha : a < 2 ^ (f.eb + f.fb + 1)) (hb : b < 2 ^ (f.eb + f.fb + 1)) :
    f.minmax mx a b < 2 ^ (f.eb + f.fb + 1) := by
  rw [f.minmax_eq]
  split_ifs
  · exact f.nan_lt hf
  · exact hb
  · exact ha
  · rcases pickBy_mem f.key mx a b with h | h <;> rw [h] <;> assumption

theorem Fmt.minmax_comm (f : Fmt) (mx : Bool) {a b : Nat} (ha : a < 2 ^ (f.eb + f.fb + 1)) (hb : b < 2 ^ (f.eb + f.fb + 1)) :
    f.minmax mx a b = f.minmax mx b a := by
  rw [f.minmax_eq, f.minmax_eq, pickBy_comm (f.key_inj ha hb)]
  cases f.isNan a <;> cases f.isNan b <;> rfl

theorem Fmt.minmax_assoc (f : Fmt) (hf : 1 ≤ f.fb) (mx : Bool) (a b c : Nat) :
    f.minmax mx (f.minmax mx a b) c = f.minmax mx a (f.minmax mx b c) := by
  have hnan := f.isNan_nan hf
  have hpick {a b : Nat} (ha : f.isNan a = false) (hb : f.isNan b = false) : f.isNan (pickBy f.key mx a b) = false := by
    rcases pickBy_mem f.key mx a b with h | h <;> rw [h] <;> assumption
  simp only [f.minmax_eq]
  cases ha : f.isNan a <;> cases hb : f.isNan b <;> cases hc : f.isNan c <;>
    simp [ha, hb, hc, hnan, hpick, pickBy_assoc]

/-! ## The lanes of each type -/

/-- The order of integer lanes, unsigned and signed (R283). -/
def intKey (ctype v : Nat) : Int := if ctype = 0 then (v : Int) else s64 v

theorem intKey_inj {ctype a b : Nat} (ha : a < 2 ^ 64) (hb : b < 2 ^ 64) (h : intKey ctype a = intKey ctype b) : a = b := by
  unfold intKey s64 sval at h
  split at h
  · omega
  · split_ifs at h <;> omega

/-- The format of a lane type (R284). -/
def laneFmt (ctype : Nat) : Fmt := if ctype = 3 then fp32 else if ctype = 4 then bf16 else fp64

theorem laneFmt_width {ctype : Nat} (h2 : 2 ≤ ctype) (h4 : ctype ≤ 4) :
    2 ^ ((laneFmt ctype).eb + (laneFmt ctype).fb + 1) = 2 ^ (8 * laneBytes ctype) ∧ 1 ≤ (laneFmt ctype).fb := by
  interval_cases ctype <;> decide

theorem laneOp_sum {ctype a b : Nat} (h : ctype ≤ 1) : laneOp 0 ctype a b = (a + b) % 2 ^ 64 := by
  simp [laneOp, h]

theorem laneOp_pick {subop ctype a b : Nat} (h : ctype ≤ 1) (h1 : 1 ≤ subop) (h2 : subop ≤ 2) :
    laneOp subop ctype a b = pickBy (intKey ctype) (subop == 2) a b := by
  unfold laneOp pickBy intKey
  rw [if_neg (by omega), if_neg (by omega), if_neg (by omega)]
  dsimp only
  rw [if_pos h, if_neg (by omega)]
  by_cases h0 : ctype = 0
  · simp only [h0, if_true, Int.ofNat_le]
  · simp only [h0, if_false]

theorem laneOp_fsum {ctype a b : Nat} (h : 2 ≤ ctype) : laneOp 0 ctype a b = (laneFmt ctype).add a b := by
  have : ¬ ctype ≤ 1 := by omega
  simp [laneOp, this, laneFmt]

theorem laneOp_fpick {subop ctype a b : Nat} (h : 2 ≤ ctype) (h1 : 1 ≤ subop) (h2 : subop ≤ 2) :
    laneOp subop ctype a b = (laneFmt ctype).minmax (subop == 2) a b := by
  unfold laneOp
  rw [if_neg (by omega), if_neg (by omega), if_neg (by omega)]
  dsimp only
  rw [if_neg (by omega), if_neg (by omega), laneFmt]

/-- The bitwise lanes (R283). -/
theorem laneOp_bits {subop ctype a b : Nat} (h : 3 ≤ subop) (h5 : subop ≤ 5) :
    laneOp subop ctype a b = if subop = 3 then a &&& b else if subop = 4 then a ||| b else a ^^^ b := by
  interval_cases subop <;> rfl

/-- The result is a lane. -/
theorem laneOp_lt {subop ctype a b : Nat} (h : pairOk subop ctype = true) (ha : a < 2 ^ (8 * laneBytes ctype))
    (hb : b < 2 ^ (8 * laneBytes ctype)) : laneOp subop ctype a b < 2 ^ (8 * laneBytes ctype) := by
  obtain ⟨h5, h4, hpair⟩ := of_decide_eq_true h
  by_cases h3 : 3 ≤ subop
  · rw [laneOp_bits h3 h5]
    split_ifs
    · exact Nat.and_lt_two_pow a hb
    · exact Nat.or_lt_two_pow ha hb
    · exact Nat.xor_lt_two_pow ha hb
  by_cases hint : ctype ≤ 1
  · have hw : laneBytes ctype = 8 := if_pos (by omega)
    rw [hw] at ha hb ⊢
    by_cases h0 : subop = 0
    · rw [h0, laneOp_sum hint]
      exact Nat.mod_lt _ (by decide)
    · rw [laneOp_pick hint (by omega) (by omega)]
      rcases pickBy_mem (intKey ctype) (subop == 2) a b with h | h <;> rw [h] <;> assumption
  · obtain ⟨hw, hf⟩ := laneFmt_width (ctype := ctype) (by omega) h4
    rw [← hw] at ha hb ⊢
    by_cases h0 : subop = 0
    · rw [h0, laneOp_fsum (by omega)]
      exact Fmt.add_lt _ hf a b
    · rw [laneOp_fpick (by omega) (by omega) (by omega)]
      exact Fmt.minmax_lt _ hf _ ha hb

theorem laneOp_comm {subop ctype a b : Nat} (h : pairOk subop ctype = true) (ha : a < 2 ^ (8 * laneBytes ctype))
    (hb : b < 2 ^ (8 * laneBytes ctype)) : laneOp subop ctype a b = laneOp subop ctype b a := by
  obtain ⟨h5, h4, hpair⟩ := of_decide_eq_true h
  by_cases h3 : 3 ≤ subop
  · rw [laneOp_bits h3 h5, laneOp_bits h3 h5, Nat.and_comm, Nat.or_comm, Nat.xor_comm]
  by_cases hint : ctype ≤ 1
  · have hw : laneBytes ctype = 8 := if_pos (by omega)
    rw [hw] at ha hb
    by_cases h0 : subop = 0
    · rw [h0, laneOp_sum hint, laneOp_sum hint, Nat.add_comm]
    · rw [laneOp_pick hint (by omega) (by omega), laneOp_pick hint (by omega) (by omega), pickBy_comm (intKey_inj ha hb)]
  · obtain ⟨hw, hf⟩ := laneFmt_width (ctype := ctype) (by omega) h4
    rw [← hw] at ha hb
    by_cases h0 : subop = 0
    · rw [h0, laneOp_fsum (by omega), laneOp_fsum (by omega), Fmt.add_comm]
    · rw [laneOp_fpick (by omega) (by omega) (by omega), laneOp_fpick (by omega) (by omega) (by omega), Fmt.minmax_comm _ _ ha hb]

theorem laneOp_assoc {subop ctype a b c : Nat} (h : pairOk subop ctype = true) (hsum : ¬ (subop = 0 ∧ 2 ≤ ctype)) :
    laneOp subop ctype (laneOp subop ctype a b) c = laneOp subop ctype a (laneOp subop ctype b c) := by
  obtain ⟨h5, h4, hpair⟩ := of_decide_eq_true h
  by_cases h3 : 3 ≤ subop
  · simp only [laneOp_bits h3 h5]
    split_ifs
    · exact Nat.and_assoc a b c
    · exact Nat.or_assoc a b c
    · exact Nat.xor_assoc a b c
  by_cases hint : ctype ≤ 1
  · by_cases h0 : subop = 0
    · simp only [h0, laneOp_sum hint, Nat.mod_add_mod, Nat.add_mod_mod, Nat.add_assoc]
    · simp only [laneOp_pick hint (show 1 ≤ subop by omega) (show subop ≤ 2 by omega), pickBy_assoc]
  · obtain ⟨-, hf⟩ := laneFmt_width (ctype := ctype) (by omega) h4
    simp only [laneOp_fpick (show 2 ≤ ctype by omega) (show 1 ≤ subop by omega) (show subop ≤ 2 by omega), Fmt.minmax_assoc _ hf]

/-- Settles O39: the lanes by their three kinds, a sum, a choice by a key, and bits. -/
theorem combineLanes : Obligations.CombineLanes := by
  intro subop ctype a b c n f h ha hb hc
  refine ⟨laneOp_lt h ha hb, laneOp_comm h ha hb, laneOp_assoc h, fun h0 hint => ?_, fun h0 hfp hn => ?_, fun h1 h2 hfp hn hb => ?_⟩
  · rw [h0, laneOp_sum hint]
  · rw [h0, laneOp_fsum hfp, Fmt.add]
    exact if_pos (by rw [show (laneFmt ctype).isNan a = true from hn]; rfl)
  · rw [laneOp_fpick hfp h1 h2, Fmt.minmax_eq, if_pos (show (laneFmt ctype).isNan a = true from hn), if_neg]
    rw [show (laneFmt ctype).isNan b = false from hb]
    exact Bool.false_ne_true

end Sys2Proof.Machine

/-! PROOFS. SP.SCHED, SP.THRESH and SP.PORT (O31). -/

namespace Sys2Proof.Machine

/-! ## Rows that hold the token, and rows of an absent unit -/

/-- The machine in which a row acts that has taken the token (R324, R344). -/
def Mach.owned (m : Mach) (e : Nat) (w : Word) : Mach := { m.issued e w with token := some e }

theorem Mach.status_owned {m : Mach} {e : Nat} {w : Word} (h : m.token = none ∨ m.token = some e) (act : Mach → Mach) :
    (m.issued e w).status e false true true act = act (m.owned e w) := by
  have ht : (m.issued e w).token = m.token := by rw [Mach.issued_eq]
  unfold Mach.status Mach.gate
  rw [ht]
  rcases h with h | h <;> rw [h]
  · rfl
  · simp only [bne_self_eq_false, Bool.and_false, Bool.not_true, Bool.false_eq_true, if_false, if_true]
    rfl

theorem Mach.status_absent (m : Mach) (e : Nat) (scope wide : Bool) (act : Mach → Mach) :
    m.status e true scope wide act = m.endStatus e 2 [] := rfl

theorem Mach.owned_likeAt (m : Mach) (e : Nat) (w : Word) :
    (m.owned e w).LikeAt e { m.eng e with insn := w } { (m.readPc e) with token := some e } := by
  have h := (Mach.LikeAt.refl { (m.readPc e) with token := some e } e).mod (fun x => { x with insn := w })
  rwa [show Mach.eng { (m.readPc e) with token := some e } e = m.eng e from m.eng_readPc e e] at h

theorem Mach.reg_eng_owned (m : Mach) (e : Nat) (w : Word) (i : Nat) : ((m.owned e w).eng e).reg i = (m.eng e).reg i := m.reg_eng_issued e w i

theorem Mach.Like.modStn {a m : Mach} (h : a.Like m) (p : Nat) (f : Station → Station) : (a.modStn p f).Like (m.modStn p f) := by
  refine { h with stn := fun k => ?_, bare := h.bare }
  by_cases hk : k = p
  · subst hk; simp [h.stn]
  · rw [Mach.stn_modStn_ne _ _ hk, Mach.stn_modStn_ne _ _ hk, h.stn]

theorem Mach.LikeAt.modStn {a m : Mach} {e : Nat} {x : Eng} (h : a.LikeAt e x m) (p : Nat) (f : Station → Station) :
    (a.modStn p f).LikeAt e x (m.modStn p f) := h.upd (fun y => y.modStn p f) (fun _ => .refl _) (fun _ _ hl => hl.modStn p f)

theorem Mach.Like.spinePend {a m : Mach} (h : a.Like m) :
    (a.modSpine (fun y => { y with pend := true })).Like (m.modSpine (fun y => { y with pend := true })) :=
  { h with bare := congrArg (fun y : Mach => y.modSpine (fun y => { y with pend := true })) h.bare }

/-- A configuration that comes into force ends its instruction (R346). -/
theorem Does.configured {s : State} {e : EngId} {ws : List Word} (hs : s.m.test.scan = false) (hst : (s.m.eng e).state = .waiting)
    (hw : (s.m.eng e).wait = .config ws) : Does (.fabricInstructionCompletion e) s ((s.m.configDone e ws).endStatus e 0 []) := by
  refine Does.of_exec ?_
  change execFabricInstructionCompletion e s = _
  rw [execFabricInstructionCompletion, State.onAll, hs]
  dsimp only
  rw [if_neg (not_not_intro hst), hw]
  rfl

/-! ## The instructions -/

theorem Mach.hasSpine_issued (m : Mach) (e : Nat) (w : Word) : (m.issued e w).hasSpine = m.hasSpine := by rw [Mach.issued_eq]; rfl

theorem Mach.ftNs_owned (m : Mach) (e : Nat) (w : Word) : (m.owned e w).ftNs = m.ftNs := by rw [Mach.owned, Mach.issued_eq]; rfl

theorem Mach.rt_issued (m : Mach) (e : Nat) (w : Word) : (m.issued e w).rt = m.rt := by rw [Mach.issued_eq]

/-- A spine port instruction in scope where the variant has Eland. -/
theorem Mach.portOp_acts {m : Mach} {e : Nat} {w : Word} (hsp : m.hasSpine = true) (hs : inScope e (some (bf w 24 5 / 8)) = true)
    (act : Nat → Mach → Mach) : m.portOp e w act = act (bf w 24 5) m := by
  unfold Mach.portOp
  dsimp only
  rw [hsp, hs]
  exact m.status_free e _

theorem Mach.portOp_absent {m : Mach} {e : Nat} {w : Word} (hsp : m.hasSpine = false) (act : Nat → Mach → Mach) :
    m.portOp e w act = m.endStatus e 2 [] := by
  unfold Mach.portOp
  dsimp only
  rw [hsp]
  rfl

/-- Settles O31: each instruction by what it finds, and each without Eland. -/
theorem spineInstructions : Obligations.SpineInstructions := by
  intro s e w x held own gone a t p used
  have hhas := s.m.hasSpine_issued e w
  have hstat (hsp : s.m.hasSpine = true) (hh : held) (act : Mach → Mach) :
      (s.m.issued e w).status e (!(s.m.issued e w).hasSpine) true true act = act (s.m.owned e w) := by
    rw [hhas, hsp]
    exact Mach.status_owned hh act
  have habs (hsp : s.m.hasSpine = false) (act : Mach → Mach) :
      (s.m.issued e w).status e (!(s.m.issued e w).hasSpine) true true act = (s.m.issued e w).endStatus e 2 [] := by
    rw [hhas, hsp]
    rfl
  have ha : ((s.m.owned e w).eng e).reg (wA w) = a := s.m.reg_eng_owned e w _
  have ht : ((s.m.owned e w).eng e).reg (wB w) = t := s.m.reg_eng_owned e w _
  refine ⟨fun h hsp hh h0 hpop hlate => ?_, fun h hsp hh h0 hpop hlate => ?_, fun h hsp hh hbad => ?_, fun h hsp hh h1 h2 h3 h4 h5 => ?_,
    fun v hs hst hw hop => ?_, fun h hsp hon hsc hlive => ?_, fun h hsp hon hsc hlive => ?_, fun h hsp hon hsc hused => ?_,
    fun h hsp hon hsc hused => ?_, fun h hsp => ?_, fun h hsp hon => ?_, fun h hsp hon => ?_, fun h hsp => ?_⟩
  · refine DoesAt.issue rfl h rfl (fun b _ hb => ?_)
    obtain rfl : b = s.m.issued e w := hb
    rw [hstat hsp hh]
    dsimp only
    rw [ha, ht, Mach.ftNs_owned, if_neg (by rintro (h | h) <;> omega), if_neg (by omega)]
    have hregs := ((s.m.owned_likeAt e w).setFld (k := 0x80010) (by decide) 32 32 (bf a 0 32)).setReg 0x80018 t
    exact (hregs.upd (fun y => y.modSpine (fun y => { y with pend := true })) (fun _ => .refl _) (fun _ _ hl => hl.spinePend)).done 0 []
  · refine Does.row rfl h ?_
    rw [hstat hsp hh]
    dsimp only
    rw [ha, ht, Mach.ftNs_owned, if_neg (by rintro (h | h) <;> omega), if_pos hlate]
    rfl
  · refine Does.row rfl h ?_
    rw [hstat hsp hh]
    dsimp only
    rw [ha, if_pos hbad]
    rfl
  · refine DoesAt.issue rfl h rfl (fun b _ hb => ?_)
    obtain rfl : b = s.m.issued e w := hb
    rw [hstat hsp hh]
    dsimp only
    rw [ha, if_neg (by rintro (h | h | h | h | h) <;> contradiction)]
    exact (s.m.owned_likeAt e w).mod _
  · have hconf : s.m.configDone e [v] = s.m.setReg 0x80008 v := by
      unfold Mach.configDone
      rw [show wOpc (s.m.eng e).insn = 0x52 from hop]
      rfl
    rw [← hconf]
    exact Does.configured hs hst hw
  · refine DoesAt.issue rfl h hon (fun b hb hbeq => ?_)
    obtain rfl : b = s.m.issued e w := hbeq
    rw [Mach.portOp_acts (hhas.trans hsp) hsc]
    rw [Mach.domLive_issued, show s.m.domLive (128 + bf w 24 5 / 8) = true from hlive, if_neg (by decide)]
    exact (hb.modStn _ _).setWait _
  · refine Does.issue rfl h hon ?_
    rw [← Mach.issued, Mach.portOp_acts (hhas.trans hsp) hsc]
    rw [Mach.domLive_issued, show s.m.domLive (128 + bf w 24 5 / 8) = false from hlive]
    exact .refl _
  · refine DoesAt.issue rfl h (by rw [hon]; rfl) (fun b hb hbeq => ?_)
    obtain rfl : b = s.m.issued e w := hbeq
    rw [Mach.portOp_acts (hhas.trans hsp) hsc]
    rw [Mach.rt_issued, if_neg hused]
    exact ((hb.modStn _ _).setWait _).mod _
  · refine Does.issue rfl h (by rw [hon]; rfl) ?_
    rw [← Mach.issued, Mach.portOp_acts (hhas.trans hsp) hsc]
    rw [Mach.rt_issued, if_pos hused]
    exact .refl _
  · refine Does.row rfl h ?_
    rw [habs hsp]
    rfl
  · refine Does.issue rfl h hon ?_
    rw [← Mach.issued, Mach.portOp_absent (hhas.trans hsp)]
    exact .refl _
  · refine Does.issue rfl h (by rw [hon]; rfl) ?_
    rw [← Mach.issued, Mach.portOp_absent (hhas.trans hsp)]
    exact .refl _
  · refine Does.row rfl h ?_
    rw [habs hsp]
    rfl

end Sys2Proof.Machine

/-! PROOFS. CB.GROUP and CB.FREE (O37). -/

namespace Sys2Proof.Machine

/-! ## The end of a wait -/

/-- A change of each of a list of engines. -/
theorem Mach.eng_foldl_modEng (f : Eng → Eng) {l : List Nat} (hl : l.Nodup) (m : Mach) (k : Nat) :
    (l.foldl (fun m e => m.modEng e f) m).eng k = if k ∈ l then f (m.eng k) else m.eng k := by
  induction l generalizing m with
  | nil => simp
  | cons a l ih =>
    obtain ⟨ha, hl⟩ := List.nodup_cons.1 hl
    rw [List.foldl_cons, ih hl]
    by_cases hk : k = a
    · subst hk
      rw [if_neg ha, Mach.eng_modEng, if_pos List.mem_cons_self]
    · rw [Mach.eng_modEng_ne _ _ hk]
      simp only [List.mem_cons, hk, false_or]

/-- The engines that wait for `w` have its end, the others stay. -/
theorem Mach.eng_finish (m : Mach) (w : Wait) (st k : Nat) : (m.finish w st).eng k =
    if k < 5 ∧ (m.eng k).state = .waiting ∧ (m.eng k).wait = w then { m.eng k with wait := .done st [], limit := none } else m.eng k := by
  have hl : (m.waiters w).Nodup := List.Nodup.filter _ List.nodup_range
  unfold Mach.finish each
  rw [Mach.eng_foldl_modEng _ hl]
  refine if_congr ?_ rfl rfl
  rw [Mach.waiters, List.mem_filter, List.mem_range, decide_eq_true_eq]

theorem Mach.finish_eq (m : Mach) (w : Wait) (st : Nat) : m.finish w st = { m with engs := (m.finish w st).engs } := by
  unfold Mach.finish each
  generalize m.waiters w = l
  induction l generalizing m with
  | nil => rfl
  | cons a l ih => exact ih (m.modEng a _)

theorem Mach.mem_waiters {m : Mach} {w : Wait} {e : EngId} (hst : (m.eng e).state = .waiting) (hw : (m.eng e).wait = w) : m.waiters w ≠ [] :=
  List.ne_nil_of_mem (List.mem_filter.2 ⟨List.mem_range.2 e.isLt, decide_eq_true ⟨hst, hw⟩⟩)

/-! ## The nodes of a group -/

theorem Mach.node_setNode_ne (m : Mach) {t g u h : Nat} (v : Option CbNode) (hne : u * 256 + h ≠ t * 256 + g) :
    (m.setNode t g v).node u h = m.node u h := Tab.get_set_ne _ v hne

/-- Nodes of one group written at a list of tiles. -/
theorem Mach.node_foldl_setNode {α : Type} (tile : α → Nat) (v : α → Option CbNode) {g : Nat} (l : List α) (m : Mach) {u h : Nat}
    (hne : ∀ r ∈ l, u * 256 + h ≠ tile r * 256 + g) : (l.foldl (fun m r => m.setNode (tile r) g (v r)) m).node u h = m.node u h := by
  induction l generalizing m with
  | nil => rfl
  | cons a l ih =>
    rw [List.foldl_cons, ih _ (fun r hr => hne r (List.mem_cons_of_mem a hr)), Mach.node_setNode_ne _ _ (hne a List.mem_cons_self)]

theorem Mach.node_foldl_setNode_mem {α : Type} (tile : α → Nat) (v : α → Option CbNode) {g : Nat} {l : List α} (hl : (l.map tile).Nodup)
    (m : Mach) {r : α} (hr : r ∈ l) : (l.foldl (fun m r => m.setNode (tile r) g (v r)) m).node (tile r) g = v r := by
  induction l generalizing m with
  | nil => exact absurd hr List.not_mem_nil
  | cons a l ih =>
    rw [List.map_cons, List.nodup_cons] at hl
    rw [List.foldl_cons]
    rcases List.mem_cons.1 hr with rfl | hr
    · rw [Mach.node_foldl_setNode tile v l _ fun q hq heq => hl.1 (List.mem_map.2 ⟨q, hq, by omega⟩), Mach.node_setNode]
    · exact ih hl.2 _ hr

theorem Mach.foldl_setNode_leaves {α γ : Type} (π : Mach → γ) (h : ∀ (m : Mach) (t g : Nat) v, π (m.setNode t g v) = π m) (tile : α → Nat)
    (v : α → Option CbNode) (g : Nat) (l : List α) (m : Mach) : π (l.foldl (fun m r => m.setNode (tile r) g (v r)) m) = π m :=
  foldl_leaves (f := fun (m : Mach) r => m.setNode (tile r) g (v r)) π (fun _ _ => h _ _ _ _) l m

/-! ## The descriptor -/

/-- The machine in which CB.GROUP acts: the words of its descriptor have been read. -/
def Mach.ownRead (m : Mach) (e : Nat) (w : Word) (n : Nat) : Mach := (m.owned e w).readWords e (wSadr w) n

theorem Mach.ownRead_eq (m : Mach) (e : Nat) (w : Word) (n : Nat) : m.ownRead e w n =
    { m with regs := (m.ownRead e w n).regs, engs := (m.ownRead e w n).engs, token := some e } := by
  have howned : m.owned e w = { m with regs := (m.issued e w).regs, engs := (m.issued e w).engs, token := some e } := by
    unfold Mach.owned; rw [m.issued_eq e w]
  unfold Mach.ownRead
  rw [Mach.readWords_eq, howned]

theorem Mach.eng_ownRead (m : Mach) (e : Nat) (w : Word) (n : Nat) : (m.ownRead e w n).eng e = { m.eng e with insn := w } := by
  rw [Mach.ownRead, Mach.eng_readWords]
  exact m.eng_issued e w

theorem Mach.descWord_ownRead (m : Mach) (e : Nat) (w : Word) (n : Nat) : (m.ownRead e w n).descWord e w = m.descWord e w := by
  funext i
  rw [Mach.descWord, Mach.eng_ownRead]
  rfl

/-- What CB.GROUP reads of a machine. -/
theorem Mach.groupDesc_congr {a m : Mach} {e : Nat} {w : Word} (hd : a.descWord e w = m.descWord e w) : a.groupDesc e w = m.groupDesc e w := by
  unfold Mach.groupDesc
  rw [hd]

theorem Mach.groupRange_congr {a m : Mach} {e : Nat} {w : Word} (hd : a.descWord e w = m.descWord e w) (hcb : a.cb = m.cb)
    (l : List (Nat × CbNode)) : a.groupRange e w l = m.groupRange e w l := by
  have hnodes (t : Nat) : a.cbNodes t = m.cbNodes t := by unfold Mach.cbNodes Mach.node; rw [hcb]
  unfold Mach.groupRange Mach.cbBufs
  simp only [hd, hnodes]

theorem Mach.groupState_congr {a m : Mach} (hcb : a.cb = m.cb) (hpwr : a.pwr = m.pwr) (hlinks : a.links = m.links) (g : Nat)
    (l : List (Nat × CbNode)) : a.groupState g l = m.groupState g l := by
  unfold Mach.groupState Mach.node Mach.linkUp Mach.link Mach.domLive Mach.dom
  rw [hcb, hpwr, hlinks]

theorem Mach.nodup_of_groupRange {m : Mach} {e : Nat} {w : Word} {l : List (Nat × CbNode)} (h : m.groupRange e w l = false) :
    (l.map Prod.fst).Nodup := by
  unfold Mach.groupRange at h
  dsimp only at h
  obtain ⟨h, -⟩ := Bool.or_eq_false_iff.1 h
  obtain ⟨h, -⟩ := Bool.or_eq_false_iff.1 h
  obtain ⟨-, h⟩ := Bool.or_eq_false_iff.1 h
  rwa [Bool.not_eq_false', decide_eq_true_eq] at h

/-! ## The instructions -/

theorem Mach.hasCombine_issued (m : Mach) (e : Nat) (w : Word) : (m.issued e w).hasCombine = m.hasCombine := by rw [Mach.issued_eq]; rfl

/-- CB.GROUP with its descriptor read (R281, R361). -/
def Mach.groups (m : Mach) (e g : Nat) (l : List (Nat × CbNode)) (range state : Bool) : Mach :=
  if range then m.endStatus e xRANGE []
  else if state then m.endStatus e xSTATE []
  else (l.foldl (fun m r => m.setNode r.1 g (some r.2)) m).done e xOK []

theorem exec_cbGroup {s : State} {e : EngId} {w : Word} {g : Nat} {l : List (Nat × CbNode)} (h : Issues s e w 0x90)
    (hc : s.m.hasCombine = true) (ht : s.m.token = none ∨ s.m.token = some e.val) (hal : wSadr w % 8 = 0)
    (hd : s.m.groupDesc e w = (g, l)) {a : Mach} (ha : s.m.ownRead e w (1 + min 128 (bf (s.m.descWord e w 0) 0 8)) = a) :
    exec (.cbGroup e) s = .next { s with m := a.groups e g l (s.m.groupRange e w l) (s.m.groupState g l) } := by
  have hdesc : (s.m.owned e w).descWord e w = s.m.descWord e w := by
    funext i
    rw [Mach.descWord, show (s.m.owned e w).eng e = _ from s.m.eng_issued e w]
    rfl
  have hread := s.m.descWord_ownRead e w (1 + min 128 (bf (s.m.descWord e w 0) 0 8))
  have hframe := s.m.ownRead_eq e w (1 + min 128 (bf (s.m.descWord e w 0) 0 8))
  rw [exec_issue (i := .cbGroup e) rfl h, Mach.hasCombine_issued, hc, Bool.not_true, Mach.status_owned ht, hdesc, Mach.sadr,
    if_neg (not_not_intro hal), ← Mach.ownRead, ha]
  rw [ha] at hread hframe
  dsimp only
  rw [Mach.groupDesc_congr hread, hd, Mach.groupRange_congr hread (by rw [hframe]),
    Mach.groupState_congr (by rw [hframe]) (by rw [hframe]) (by rw [hframe])]
  rfl

theorem Mach.ownRead_likeAt (m : Mach) (e : EngId) (w : Word) (n : Nat) : (m.ownRead e w n).LikeAt e { m.eng e with insn := w }
    (Mach.readWords { (m.readPc e) with token := some e.val } e (wSadr w) n) :=
  (m.owned_likeAt e w).readWords (by rw [show Mach.eng { (m.readPc e) with token := some e.val } e = m.eng e from m.eng_readPc e e]) _ n

theorem Mach.ownRead_like (m : Mach) (e : EngId) (w : Word) (n : Nat) : (m.ownRead e w n).Like
    ((Mach.readWords { (m.readPc e) with token := some e.val } e (wSadr w) n).modEng e (fun x => { x with insn := w })) := by
  have h := m.ownRead_likeAt e w n
  rwa [Mach.LikeAt, Mach.modEng_congr (g := fun x => { x with insn := w }) (by
    rw [Mach.eng_readWords, show Mach.eng { (m.readPc e) with token := some e.val } e = m.eng e from m.eng_readPc e e])] at h

/-- CB.GROUP that is accepted writes the nodes of its descriptor and nothing else. -/
theorem cbGroup_accepts {s : State} {e : EngId} {w : Word} {g : Group} {l : List (Nat × CbNode)} (h : Issues s e w 0x90)
    (hc : s.m.hasCombine = true) (ht : s.m.token = none ∨ s.m.token = some e.val) (hal : wSadr w % 8 = 0)
    (hd : s.m.groupDesc e w = (g.val, l)) (hr : s.m.groupRange e w l = false) (hst : s.m.groupState g l = false) :
    ∃ t, exec (.cbGroup e) s = .next t ∧ t.m.eng e = (s.m.eng e).awaits w 0 [] ∧ (∀ r ∈ l, t.m.node r.1 g = some r.2) ∧
      (∀ (u : Tile) (h : Group), (h ≠ g ∨ ∀ r ∈ l, r.1 ≠ u.val) → t.m.node u h = (s.m.readPc e).node u h) ∧
      (∀ k, t.m.niu k = (s.m.readPc e).niu k) ∧ (∀ k, t.m.vc k = (s.m.readPc e).vc k) := by
  have hnodup := Mach.nodup_of_groupRange hr
  have hrun := exec_cbGroup h hc ht hal hd rfl
  rw [hr, hst] at hrun
  have heng := s.m.eng_ownRead e w (1 + min 128 (bf (s.m.descWord e w 0) 0 8))
  have hframe := s.m.ownRead_eq e w (1 + min 128 (bf (s.m.descWord e w 0) 0 8))
  generalize s.m.ownRead e w (1 + min 128 (bf (s.m.descWord e w 0) 0 8)) = a at hrun heng hframe
  have hpc := s.m.readPc_eq e
  refine ⟨_, hrun, ?_, fun r hmem => ?_, fun u h hne => ?_, fun k => ?_, fun k => ?_⟩
  · have heng' : (l.foldl (fun m r => m.setNode r.1 g (some r.2)) a).eng e = { s.m.eng e with insn := w } :=
      (Mach.foldl_setNode_leaves (fun m => m.eng e) (fun _ _ _ _ => rfl) (fun r : Nat × CbNode => r.1) (fun r => some r.2) g l a).trans heng
    exact (Mach.eng_modEng _ _ _).trans (by rw [heng']; rfl)
  · exact Mach.node_foldl_setNode_mem (fun r : Nat × CbNode => r.1) (fun r => some r.2) hnodup a hmem
  · refine (Mach.node_foldl_setNode (fun r : Nat × CbNode => r.1) (fun r => some r.2) l a (fun r hmem heq => ?_)).trans ?_
    · have hh := h.isLt
      have hg := g.isLt
      rcases hne with hne | hne
      · exact hne (Fin.ext (by omega))
      · exact hne r hmem (by omega)
    · rw [hframe, hpc]
      rfl
  · refine (Mach.foldl_setNode_leaves (fun m => m.niu k) (fun _ _ _ _ => rfl) (fun r : Nat × CbNode => r.1) (fun r => some r.2) g l a).trans ?_
    rw [hframe, hpc]
    rfl
  · refine (Mach.foldl_setNode_leaves (fun m => m.vc k) (fun _ _ _ _ => rfl) (fun r : Nat × CbNode => r.1) (fun r => some r.2) g l a).trans ?_
    rw [hframe, hpc]
    rfl

theorem Mach.cbTiles_ne_nil {m : Mach} {g : Nat} : m.cbTiles g ≠ [] ↔ ∃ t, t < 128 ∧ m.node t g ≠ none := by
  rw [Mach.cbTiles, ne_eq, List.filter_eq_nil_iff]
  simp [Option.ne_none_iff_isSome]

theorem Mach.cbTiles_quiet {m : Mach} {g : Nat} :
    (m.cbTiles g).all (fun t => m.cbQuiet t g) = true ↔ ∀ t, t < 128 → m.node t g ≠ none → m.cbQuiet t g = true := by
  simp only [Mach.cbTiles, List.all_eq_true, List.mem_filter, List.mem_range, Option.ne_none_iff_isSome, and_imp]

/-- The end of CB.FREE removes the group's nodes and no other (R295). -/
theorem cbFree_completes {s : State} {e : EngId} {g : Group} (hs : s.m.test.scan = false) (hst : (s.m.eng e).state = .waiting)
    (hw : (s.m.eng e).wait = .cbFree g) (hq : ∀ t, t < 128 → s.m.node t g ≠ none → s.m.cbQuiet t g = true) :
    ∃ t, exec (.cbFreeComplete g) s = .next t ∧ t.m.eng e = { s.m.eng e with wait := .done 0 [], limit := none } ∧
      (∀ u : Tile, t.m.node u g = none) ∧ (∀ (u : Tile) (h : Group), h ≠ g → t.m.node u h = s.m.node u h) := by
  have heng : ((s.m.cbTiles g).foldl (fun m t => m.setNode t g none) s.m).eng e = s.m.eng e :=
    Mach.foldl_setNode_leaves (fun m => m.eng e) (fun _ _ _ _ => rfl) (fun t : Nat => t) (fun _ => none) g (s.m.cbTiles g) s.m
  have hrun : exec (.cbFreeComplete g) s =
      .next { s with m := ((s.m.cbTiles g).foldl (fun m t => m.setNode t g none) s.m).finish (.cbFree g) 0 } := by
    change execCbFreeComplete g s = _
    rw [execCbFreeComplete, State.on_eq hs]
    dsimp only
    rw [if_pos ⟨Mach.mem_waiters hst hw, Mach.cbTiles_quiet.2 hq⟩]
    rfl
  have hg := g.isLt
  refine ⟨_, hrun, ?_, fun u => ?_, fun u h hne => ?_⟩
  · change Mach.eng (Mach.finish _ _ _) e = _
    rw [Mach.eng_finish, heng, if_pos ⟨e.isLt, hst, hw⟩]
  · change Mach.node (Mach.finish _ _ _) u g = _
    rw [Mach.finish_eq]
    by_cases hu : u.val ∈ s.m.cbTiles g
    · exact Mach.node_foldl_setNode_mem (fun t : Nat => t) (fun _ => none)
        (by rw [List.map_id']; exact List.Nodup.filter _ List.nodup_range) s.m hu
    · refine (Mach.node_foldl_setNode (fun t : Nat => t) (fun _ => none) _ s.m
        (fun r hr heq => hu (by rwa [show u.val = r by omega]))).trans ?_
      rw [Mach.cbTiles, List.mem_filter, List.mem_range] at hu
      cases hn : s.m.node u g with
      | none => rfl
      | some x => exact absurd ⟨u.isLt, by rw [hn]; rfl⟩ hu
  · change Mach.node (Mach.finish _ _ _) u h = _
    rw [Mach.finish_eq]
    refine Mach.node_foldl_setNode (fun t : Nat => t) (fun _ => none) _ s.m (fun r _ heq => hne (Fin.ext ?_))
    have hh := h.isLt
    omega

/-- Settles O37: CB.GROUP by its descriptor, CB.FREE and its end. -/
theorem combineGroups : Obligations.CombineGroups := by
  intro s e w g l x own gone read known quiet ht
  have hcomb := s.m.hasCombine_issued e w
  have hstat (hc : s.m.hasCombine = true) (act : Mach → Mach) :
      (s.m.issued e w).status e (!(s.m.issued e w).hasCombine) true true act = act (s.m.owned e w) := by
    rw [hcomb, hc]
    exact Mach.status_owned ht act
  have hread (st : Nat) : ((s.m.ownRead e w (1 + min 128 (bf (s.m.descWord e w 0) 0 8))).endStatus e st []).Like (gone st read) :=
    (s.m.ownRead_like e w _).endStatus e st []
  have hg : ((s.m.owned e w).eng e).reg (wA w) = x.reg (wA w) := s.m.reg_eng_owned e w _
  have htiles : (s.m.owned e w).cbTiles g = s.m.cbTiles g := by
    unfold Mach.cbTiles Mach.node Mach.owned
    rw [s.m.issued_eq e w]
  refine ⟨fun h hc hal hd hr hst => cbGroup_accepts h hc ht hal hd hr hst, fun h hc hal hd hr => ?_, fun h hc hal hd hr hst => ?_,
    fun h hc hal => ?_, fun h hc => ?_, fun h hc hgr hk => ?_, fun h hc hgr hk => ?_,
    fun hs hst hw hq => cbFree_completes hs hst hw hq, fun hs hq => ?_⟩
  · have hrun := exec_cbGroup h hc ht hal hd rfl
    rw [hr] at hrun
    exact ⟨_, hrun, rfl, rfl, hread 3⟩
  · have hrun := exec_cbGroup h hc ht hal hd rfl
    rw [hr, hst] at hrun
    exact ⟨_, hrun, rfl, rfl, hread 1⟩
  · have hal' : wSadr w % 8 ≠ 0 := hal
    refine Does.row rfl h ?_
    rw [hstat hc, Mach.sadr, if_pos hal']
    rfl
  · refine Does.row rfl h ?_
    rw [hcomb, hc]
    rfl
  · refine DoesAt.issue rfl h rfl (fun b _ hb => ?_)
    obtain rfl : b = s.m.issued e w := hb
    rw [hstat hc, hg, hgr]
    dsimp only
    rw [htiles, if_neg (Mach.cbTiles_ne_nil.2 hk)]
    exact ((s.m.owned_likeAt e w).setWait _).mod _
  · refine Does.row rfl h ?_
    rw [hstat hc, hg, hgr]
    dsimp only
    rw [htiles, if_pos (by rw [← not_not (a := s.m.cbTiles g = [])]; exact fun hn => hk (Mach.cbTiles_ne_nil.1 hn))]
    rfl
  · refine Does.of_exec ?_
    change execCbFreeComplete g s = _
    rw [execCbFreeComplete, State.on_eq hs]
    dsimp only
    rw [if_neg (fun ⟨_, hall⟩ => hq (Mach.cbTiles_quiet.1 hall))]

end Sys2Proof.Machine

/-! PROOFS. The test port, memory tests and scan mode (O59). -/

namespace Sys2Proof.Machine

/-! ## The test port -/

theorem tapOf_known {op : BitVec 8} (h : op = 1 ∨ op = 2 ∨ op = 3 ∨ op = 4 ∨ op = 16) : tapOf op = op := by
  rcases h with rfl | rfl | rfl | rfl | rfl <;> rfl

theorem tapOf_unknown {op : BitVec 8} (h1 : op ≠ 1) (h2 : op ≠ 2) (h3 : op ≠ 3) (h4 : op ≠ 4) (h16 : op ≠ 16) : tapOf op = 255 := by
  refine if_neg ?_
  simp only [List.contains_eq_mem, List.mem_cons, List.not_mem_nil, or_false, decide_eq_true_eq]
  rintro (h | h | h | h | h) <;> contradiction

/-- What the test port holds as a new instruction is selected. -/
def Mach.tapNext (m : Mach) (op : BitVec 8) : TestAcc := { m.test.shifted m.frees with tap := tapOf op }.capture m m.frees

/-- A change of instruction that does not begin to hold the chip in global reset. -/
theorem exec_tap {s : State} {op : BitVec 8} (hs : s.m.test.scan = false) (hh : ((s.m.tapNext op).holds && !s.m.test.holds) = false) :
    exec (.tapInstructionChange op) s = .next { s with m := { s.m with frees := s.m.frees + 1, test := s.m.tapNext op } } := by
  change execTapInstructionChange op s = _
  rw [execTapInstructionChange, State.onS, hs]
  exact congrArg Host.Outcome.next (if_neg (by rw [← Bool.not_eq_true] at hh; exact hh))

theorem exec_tap_reset {s : State} {op : BitVec 8} (hs : s.m.test.scan = false) (hh : ((s.m.tapNext op).holds && !s.m.test.holds) = true) :
    exec (.tapInstructionChange op) s =
      .next (State.instReset { s with m := { s.m with frees := s.m.frees + 1, test := s.m.tapNext op } }) := by
  change execTapInstructionChange op s = _
  rw [execTapInstructionChange, State.onS, hs]
  exact congrArg Host.Outcome.next (if_pos hh)

/-- Shifting changes the register between TDI and TDO alone. -/
theorem TestAcc.shifted_keeps (t : TestAcc) (f : Nat) : (t.shifted f).tap = t.tap ∧ (t.shifted f).run = t.run ∧
    (t.shifted f).refus = t.refus ∧ (tapReg t.tap ≠ .idcode → (t.shifted f).idr = t.idr) ∧
    (tapReg t.tap ≠ .network → (t.shifted f).sib = t.sib) := by
  unfold TestAcc.shifted
  cases tapReg t.tap with
  | bypass | boundary => exact ⟨rfl, rfl, rfl, fun _ => rfl, fun _ => rfl⟩
  | idcode => exact ⟨rfl, rfl, rfl, fun h => absurd rfl h, fun _ => rfl⟩
  | network => exact ⟨rfl, rfl, rfl, fun _ => rfl, fun h => absurd rfl h⟩

/-- IDCODE captures the identity word (R476). -/
def TestAcc.withIdr (t : TestAcc) (v : BitVec 32) : TestAcc := { t with idr := v }

theorem TestAcc.withIdr_keeps (t : TestAcc) (v : BitVec 32) : (t.withIdr v).tap = t.tap ∧ (t.withIdr v).run = t.run ∧
    (t.withIdr v).refus = t.refus ∧ (t.withIdr v).sib = t.sib := ⟨rfl, rfl, rfl, rfl⟩

theorem TestAcc.withIdr_idr (t : TestAcc) (v : BitVec 32) : (t.withIdr v).idr = v := rfl

theorem TestAcc.capture_idcode {t : TestAcc} (h : tapReg t.tap = .idcode) (m : Mach) (f : Nat) : t.capture m f = t.withIdr m.idcode := by
  unfold TestAcc.capture
  rw [h]
  rfl

theorem TestAcc.capture_keeps (t : TestAcc) (m : Mach) (f : Nat) : (t.capture m f).tap = t.tap ∧ (t.capture m f).run = t.run ∧
    (t.capture m f).refus = t.refus ∧ (tapReg t.tap ≠ .idcode → (t.capture m f).idr = t.idr) ∧ (t.capture m f).sib = t.sib := by
  by_cases hid : tapReg t.tap = .idcode
  · obtain ⟨htap, hrun, href, hsib⟩ := t.withIdr_keeps m.idcode
    rw [TestAcc.capture_idcode hid]
    exact ⟨htap, hrun, href, fun h => absurd hid h, hsib⟩
  · unfold TestAcc.capture
    revert hid
    cases tapReg t.tap with
    | bypass | boundary | network => exact fun _ => ⟨rfl, rfl, rfl, fun _ => rfl, rfl⟩
    | idcode => exact fun h => absurd rfl h

theorem Mach.tapNext_keeps (m : Mach) (op : BitVec 8) :
    (m.tapNext op).tap = tapOf op ∧ (m.tapNext op).run = m.test.run ∧ (m.tapNext op).refus = m.test.refus := by
  obtain ⟨-, hrun, href, -, -⟩ := m.test.shifted_keeps m.frees
  obtain ⟨htap, hrun', href', -, -⟩ := TestAcc.capture_keeps { m.test.shifted m.frees with tap := tapOf op } m m.frees
  exact ⟨htap, hrun'.trans hrun, href'.trans href⟩

theorem Mach.tapNext_idr (m : Mach) {op : BitVec 8} (hop : tapReg (tapOf op) ≠ .idcode) (hx : tapReg m.test.tap ≠ .idcode) :
    (m.tapNext op).idr = m.test.idr :=
  ((TestAcc.capture_keeps { m.test.shifted m.frees with tap := tapOf op } m m.frees).2.2.2.1 hop).trans
    ((m.test.shifted_keeps m.frees).2.2.2.1 hx)

theorem Mach.tapNext_sib (m : Mach) (op : BitVec 8) (hx : tapReg m.test.tap ≠ .network) : (m.tapNext op).sib = m.test.sib :=
  (TestAcc.capture_keeps { m.test.shifted m.frees with tap := tapOf op } m m.frees).2.2.2.2.trans
    ((m.test.shifted_keeps m.frees).2.2.2.2 hx)

theorem tapReg_ne_idcode {op : BitVec 8} (h : op ≠ 1) : tapReg op ≠ .idcode := by
  unfold tapReg
  rw [if_neg h]
  split_ifs <;> simp

theorem tapReg_ne_network {op : BitVec 8} (h : op ≠ 16) : tapReg op ≠ .network := by
  unfold tapReg
  split_ifs <;> simp_all

theorem Mach.tapNext_holds (m : Mach) (op : BitVec 8) : (m.tapNext op).holds = decide (tapOf op = 3 ∨ tapOf op = 4) := by
  rw [TestAcc.holds, (m.tapNext_keeps op).1]

/-! ## Free values -/

/-- What no step of a fold changes, the fold leaves. -/
theorem foldl_keeps {α β γ : Type} (π : α → γ) (f : α → β → α) (l : List β) (a : α) (h : ∀ a b, π (f a b) = π a) :
    π (l.foldl f a) = π a := foldl_leaves π h l a

section
variable {γ : Type} {π : Mach → γ} (hπ : ∀ (m : Mach) (k : Nat), π { m with frees := k } = π m)
include hπ

/-- Drawing a line of free words changes the numbering of free values alone. -/
theorem freeLine_leaves (m : Mach) : π m.freeLine.2 = π m := by
  unfold Mach.freeLine
  exact foldl_keeps (fun r : FlitBits × Mach => π r.2) _ _ _ (fun _ _ => hπ _ _)

omit hπ in
theorem freeList_leaves {α : Type} {f : α → Mach → α × Mach} (h : ∀ a m, π (f a m).2 = π m) (l : List α) (m : Mach) :
    π (freeList f l m).2 = π m := by
  induction l generalizing m with
  | nil => rfl
  | cons a l ih => exact (ih _).trans (h a m)

theorem freeFlit_leaves (f : Flit) (m : Mach) : π (freeFlit f m).2 = π m := freeLine_leaves hπ m

theorem freePkt_leaves (p : Pkt) (m : Mach) : π (freePkt p m).2 = π m :=
  (freeList_leaves (fun _ m => freeLine_leaves hπ m) p.data _).trans (freeLine_leaves hπ m)

theorem freeCell_leaves (c : Cell) (m : Mach) : π (freeCell c m).2 = π m := freeList_leaves (freeFlit_leaves hπ) c.flits m

theorem freeExit_leaves (x : Flit × Nat × Nat) (m : Mach) : π (freeExit x m).2 = π m := freeFlit_leaves hπ x.1 m

theorem freeBeat_leaves (m : Mach) : π (freeBeat m).2 = π m := freeLine_leaves hπ m

theorem freeRsp_leaves (p : Rsp) (m : Mach) : π (freeRsp p m).2 = π m := freeList_leaves (fun _ m => freeBeat_leaves hπ m) p.beats m

/-- ... as do the lists of flits, packets and beats whose contents are undefined. -/
theorem freeFlits_leaves (l : List Flit) (m : Mach) : π (freeList freeFlit l m).2 = π m := freeList_leaves (freeFlit_leaves hπ) l m

theorem freePkts_leaves (l : List Pkt) (m : Mach) : π (freeList freePkt l m).2 = π m := freeList_leaves (freePkt_leaves hπ) l m

theorem freeBeats_leaves (l : List BeatBits) (m : Mach) : π (freeList (fun _ m => freeBeat m) l m).2 = π m :=
  freeList_leaves (fun _ m => freeBeat_leaves hπ m) l m

/-! ## What a memory test leaves -/

theorem scrambleStn_leaves (m : Mach) (p : Nat) (hstn : ∀ (m : Mach) f, π (m.modStn p f) = π m) : π (m.scrambleStn p) = π m := by
  unfold Mach.scrambleStn
  dsimp only
  refine (hstn _ _).trans ((freeList_leaves ?_ _ _).trans ((freeList_leaves ?_ _ _).trans (freeList_leaves ?_ _ _)))
  · exact fun v m => freeList_leaves (freeExit_leaves hπ) v.2 m
  · exact fun v m => freeList_leaves (freeCell_leaves hπ) v.2 m
  · exact fun v m => freeFlits_leaves hπ v.2 m

theorem scrambleSram_leaves (m : Mach) (hstore : ∀ (m : Mach) a v, π (m.modEng 0 (fun x => x.store a v)) = π m) : π m.scrambleSram = π m := by
  unfold Mach.scrambleSram
  exact foldl_keeps π _ _ _ (fun m i => (hstore _ _ _).trans (hπ _ _))

theorem scrambleNode_leaves (hnode : ∀ (m : Mach) t g v, π (m.setNode t g v) = π m) (m : Mach) (t g : Nat) : π (m.scrambleNode t g) = π m := by
  unfold Mach.scrambleNode
  split
  · rfl
  · dsimp only
    refine (hnode _ _ _ _).trans ((freePkts_leaves hπ _ _).trans ((freePkts_leaves hπ _ _).trans (freeList_leaves ?_ _ _)))
    exact fun c m => freePkt_leaves hπ c.2.2 m

theorem scrambleDir_leaves (hdir : ∀ (m : Mach) l f, π (m.modDir l f) = π m) (m : Mach) (l : Nat) : π (m.scrambleDir l) = π m := by
  unfold Mach.scrambleDir
  dsimp only
  split
  · rfl
  · refine (hdir _ _ _).trans (freeList_leaves ?_ _ _)
    exact fun v m => freeFlits_leaves hπ v.flit.toList m

theorem scrambleRouter_leaves (hvc : ∀ (m : Mach) k f, π (m.modVc k f) = π m) (hcbu : ∀ (m : Mach) t f, π (m.modCbu t f) = π m)
    (hnode : ∀ (m : Mach) t g v, π (m.setNode t g v) = π m) (hdir : ∀ (m : Mach) l f, π (m.modDir l f) = π m) (m : Mach) (t : Nat) :
    π (m.scrambleRouter t) = π m := by
  unfold Mach.scrambleRouter
  dsimp only
  refine (foldl_keeps π _ _ _ (scrambleDir_leaves hπ hdir)).trans
    ((foldl_keeps π _ _ _ (fun m g => scrambleNode_leaves hπ hnode m t g)).trans ?_)
  have hvcs : π ((List.range 96).foldl (fun m k =>
      if (freeList freeFlit (m.vc (96 * t + k)).q m).1.isEmpty = true then m
      else (freeList freeFlit (m.vc (96 * t + k)).q m).2.modVc (96 * t + k)
        (fun b => { b with q := (freeList freeFlit (m.vc (96 * t + k)).q m).1 })) m) = π m := by
    refine foldl_keeps π _ _ _ (fun m k => ?_)
    split
    · rfl
    · exact (hvc _ _ _).trans (freeFlits_leaves hπ _ _)
  split
  · exact hvcs
  · refine (hcbu _ _ _).trans ((freeList_leaves ?_ _ _).trans ((freeList_leaves ?_ _ _).trans ((freeList_leaves ?_ _ _).trans hvcs)))
    · exact fun c m => freeFlits_leaves hπ c.fl m
    · exact fun v m => freeFlits_leaves hπ v.2 m
    · exact fun c m => freePkt_leaves hπ c.2.2 m

theorem scramble_leaves (hniu : ∀ (m : Mach) n f, (∀ x : Niu, (f x).fc.map FcE.flow = x.fc.map FcE.flow) → π (m.modNiu n f) = π m)
    (m : Mach) (n : Nat) : π (m.scramble n) = π m := by
  unfold Mach.scramble
  refine (foldl_keeps π _ _ _ (fun m e => ?_)).trans (foldl_keeps π _ _ _ (fun m i => ?_))
  · refine (hniu _ _ _ (fun x => ?_)).trans (freeLine_leaves hπ m)
    rw [Niu.modEntry, List.map_map]
    refine List.map_congr_left fun g _ => ?_
    rw [Function.comp_apply]
    split <;> rfl
  · refine (hniu _ _ _ ?_).trans (freeLine_leaves hπ m)
    exact fun _ => rfl

theorem scrambleBufs_leaves (hniu : ∀ (m : Mach) n f, (∀ x : Niu, (f x).fc.map FcE.flow = x.fc.map FcE.flow) → π (m.modNiu n f) = π m)
    (m : Mach) (n : Nat) : π (m.scrambleBufs n) = π m := by
  unfold Mach.scrambleBufs
  dsimp only
  refine (hniu _ _ _ ?niu).trans <| (freeList_leaves ?treq _ _).trans <| (freeList_leaves (freeRsp_leaves hπ) _ _).trans <|
    (freeList_leaves ?reqs _ _).trans <| (freeList_leaves ?owed _ _).trans <| (freeList_leaves ?ctxs _ _).trans <|
    (freeList_leaves ?ej _ _).trans <| (freeList_leaves ?ready _ _).trans <| (freePkts_leaves hπ _ _).trans <|
    (freeList_leaves ?rspInj _ _).trans <| (freeList_leaves ?inj _ _).trans <| freeList_leaves ?ingress _ _
  case niu => exact fun _ => rfl
  case treq => exact fun t m => freeBeats_leaves hπ t.2 m
  case reqs => exact fun q m => freeBeats_leaves hπ q.beats m
  case owed => exact fun p m => freePkt_leaves hπ p.1 m
  case ctxs => exact fun c m => freePkts_leaves hπ c.pkts m
  case ej => exact fun v m => freeFlits_leaves hπ v.2 m
  case ready => exact fun p m => freePkt_leaves hπ p.pkt m
  case rspInj => exact fun p m => freePkt_leaves hπ p.pkt m
  case inj => exact fun p m => freePkt_leaves hπ p.pkt m
  case ingress => exact fun _ m => freeLine_leaves hπ m
end

theorem TestAcc.capture_bypass {t : TestAcc} (h : tapReg t.tap = .bypass) (m : Mach) (f : Nat) : (t.capture m f).byp = false := by
  unfold TestAcc.capture
  rw [h]

/-- What every change of instruction keeps that does not begin to hold the chip in global reset. -/
theorem tap_same {s : State} {op : BitVec 8} (hs : s.m.test.scan = false) (hh : ((s.m.tapNext op).holds && !s.m.test.holds) = false) :
    ∃ t, exec (.tapInstructionChange op) s = .next t ∧ t.m.test = s.m.tapNext op ∧
      (∀ k, t.m.dom k = s.m.dom k) ∧ (∀ a, t.m.reg a = s.m.reg a) ∧ (∀ k, t.m.niu k = s.m.niu k) ∧ t.m.test.run = s.m.test.run ∧
      t.m.test.refus = s.m.test.refus ∧ t.guards = s.guards ∧ t.pending = s.pending := by
  obtain ⟨-, hrun, href⟩ := s.m.tapNext_keeps op
  exact ⟨_, exec_tap hs hh, rfl, fun _ => rfl, fun _ => rfl, fun _ => rfl, hrun, href, rfl, rfl⟩

/-- What a memory test that has run leaves of the machine (R478). -/
def Mach.tested (m : Mach) (d : Nat) : Mach :=
  if d < 128 then (domNius d).foldl (fun m n => (m.scramble n).scrambleBufs n) (m.scrambleRouter d)
  else if d < 132 then ((List.range 8).foldl (fun m i => m.scrambleStn (8 * (d - 128) + i)) m).modEng (d - 127) (fun x => { x with sram := [], bad := [], soft := [] })
  else m.scrambleSram

/-- The domain's test runs no more. -/
def Mach.testOver (m : Mach) (d : Nat) : Mach := { m with test := { m.test with run := m.test.run.filter (fun k => k ≠ d) } }

theorem exec_memoryTestDone {s : State} {d : Dom} (hs : s.m.test.scan = false) (hrun : s.m.test.run.contains d.val = true) :
    exec (.memoryTestDone d) s = .next { s with m := (s.m.testOver d).tested d } := by
  change execMemoryTestDone d s = _
  rw [execMemoryTestDone, State.on_eq hs]
  dsimp only
  rw [hrun, if_neg (by decide)]
  rfl

section
variable {γ : Type} {π : Mach → γ} {m : Mach} {d : Nat}

/-- What the stations' test of a spine domain leaves. -/
theorem scrambleStns_leaves (hπ : ∀ (m : Mach) k, π { m with frees := k } = π m) (m : Mach) (q : Nat)
    (hstn : ∀ (m : Mach) p f, 8 * q ≤ p → p < 8 * q + 8 → π (m.modStn p f) = π m) :
    π ((List.range 8).foldl (fun m i => m.scrambleStn (8 * q + i)) m) = π m := by
  have hsub (l : List Nat) (hl : ∀ i ∈ l, i < 8) (m : Mach) : π (l.foldl (fun m i => m.scrambleStn (8 * q + i)) m) = π m := by
    induction l generalizing m with
    | nil => rfl
    | cons i l ih =>
      have hi := hl i List.mem_cons_self
      rw [List.foldl_cons, ih (fun j hj => hl j (List.mem_cons_of_mem i hj)),
        scrambleStn_leaves hπ m _ (fun m f => hstn m _ f (by omega) (by omega))]
  exact hsub _ (fun i hi => List.mem_range.1 hi) m

/-- The test of a spine domain leaves all but its stations and the SRAM of its engine. -/
theorem Mach.tested_spine (h128 : 128 ≤ d) (h132 : d < 132) (hπ : ∀ (m : Mach) k, π { m with frees := k } = π m)
    (heng : ∀ (m : Mach) f, π (m.modEng (d - 127) f) = π m)
    (hstn : ∀ (m : Mach) p f, 8 * (d - 128) ≤ p → p < 8 * (d - 128) + 8 → π (m.modStn p f) = π m) : π (m.tested d) = π m := by
  rw [Mach.tested, if_neg (by omega), if_pos h132, heng, scrambleStns_leaves hπ m _ hstn]

theorem Mach.tested_spine_eng (h128 : 128 ≤ d) (h132 : d < 132) :
    (m.tested d).eng (d - 127) = { m.eng (d - 127) with sram := [], bad := [], soft := [] } := by
  rw [Mach.tested, if_neg (by omega), if_pos h132, Mach.eng_modEng,
    scrambleStns_leaves (π := fun a => a.eng (d - 127)) (fun _ _ => rfl) m (d - 128) (fun _ _ _ _ _ => rfl)]

/-- The test of the always-on domain leaves all but the master's SRAM. -/
theorem Mach.tested_aon (h132 : 132 ≤ d) (hπ : ∀ (m : Mach) k, π { m with frees := k } = π m)
    (hstore : ∀ (m : Mach) a v, π (m.modEng 0 (fun x => x.store a v)) = π m) : π (m.tested d) = π m := by
  rw [Mach.tested, if_neg (by omega), if_neg (by omega), scrambleSram_leaves hπ m hstore]

/-- The test of a tile leaves all but the contents of its buffers. -/
theorem Mach.tested_tile (h128 : d < 128) (hπ : ∀ (m : Mach) k, π { m with frees := k } = π m)
    (hvc : ∀ (m : Mach) k f, π (m.modVc k f) = π m) (hcbu : ∀ (m : Mach) t f, π (m.modCbu t f) = π m)
    (hnode : ∀ (m : Mach) t g v, π (m.setNode t g v) = π m) (hdir : ∀ (m : Mach) l f, π (m.modDir l f) = π m)
    (hniu : ∀ (m : Mach) n f, (∀ x : Niu, (f x).fc.map FcE.flow = x.fc.map FcE.flow) → π (m.modNiu n f) = π m) : π (m.tested d) = π m := by
  rw [Mach.tested, if_pos h128]
  exact (foldl_keeps π _ _ _ (fun m n => (scrambleBufs_leaves hπ hniu _ n).trans (scramble_leaves hπ hniu m n))).trans
    (scrambleRouter_leaves hπ hvc hcbu hnode hdir m d)
end

theorem Mach.flows_modNiu (m : Mach) (n k : Nat) (f : Niu → Niu) (hf : ∀ x : Niu, (f x).fc.map FcE.flow = x.fc.map FcE.flow) :
    ((m.modNiu n f).niu k).fc.map FcE.flow = (m.niu k).fc.map FcE.flow := by
  by_cases hk : k = n
  · rw [hk, Mach.niu_modNiu, hf]
  · rw [Mach.niu_modNiu_ne _ _ hk]

/-- Settles O59: the instruction selected and captured, the memory tests by the domain they run in, scan mode. -/
theorem testAccess : Obligations.TestAccess := by
  intro s op d b m x was same hs
  have hnh (h3 : tapOf op ≠ 3) (h4 : tapOf op ≠ 4) : ((m.tapNext op).holds && !m.test.holds) = false := by
    rw [Mach.tapNext_holds, decide_eq_false (by tauto), Bool.false_and]
  have hwas : m.test.holds = decide was := rfl
  refine ⟨fun hop => ?_, fun h1 h2 h3 h4 h16 => ?_, fun hop hw => ?_, fun hop hw => ?_, fun ht hd hr => ?_, fun ht hd hr => ?_, fun ht => ?_,
    fun hr => ?_, fun hr h128 h132 => ?_, fun hr h132 => ?_, fun hr h128 => ?_, ⟨_, rfl, rfl, rfl, .refl _⟩⟩
  · have hknown : tapOf op = op := tapOf_known (by tauto)
    obtain ⟨t, hrun, htest, hsame⟩ := tap_same hs (hnh (by rw [hknown]; rintro rfl; revert hop; decide) (by rw [hknown]; rintro rfl; revert hop; decide))
    refine ⟨t, hrun, ?_, fun h1 => ?_, fun h1 hx => ?_, fun hx => ?_, hsame⟩
    · rw [htest, (m.tapNext_keeps op).1, hknown]
    · rw [htest, Mach.tapNext, TestAcc.capture_idcode (by rw [h1]; rfl), TestAcc.withIdr_idr]
    · rw [htest]
      exact m.tapNext_idr (by rw [hknown]; exact tapReg_ne_idcode h1) (tapReg_ne_idcode hx)
    · rw [htest]
      exact m.tapNext_sib op (tapReg_ne_network hx)
  · have hunknown := tapOf_unknown h1 h2 h3 h4 h16
    obtain ⟨t, hrun, htest, hsame⟩ := tap_same hs (hnh (by rw [hunknown]; decide) (by rw [hunknown]; decide))
    refine ⟨t, hrun, ?_, ?_, hsame⟩
    · rw [htest, (m.tapNext_keeps op).1, hunknown]
    · rw [htest, Mach.tapNext, TestAcc.capture_bypass (by rw [hunknown]; rfl)]
  · obtain ⟨t, hrun, htest, hsame⟩ := tap_same (op := op) hs (by rw [hwas, decide_eq_true hw, Bool.not_true, Bool.and_false])
    exact ⟨t, hrun, by rw [htest, (m.tapNext_keeps op).1, tapOf_known (by tauto)], hsame⟩
  · have hknown : tapOf op = op := tapOf_known (by tauto)
    refine ⟨_, exec_tap_reset hs ?_, (m.tapNext_keeps op).1.trans hknown, fun _ => rfl, fun _ => rfl, rfl, rfl, rfl⟩
    rw [Mach.tapNext_holds, hknown, decide_eq_true hop, hwas, decide_eq_false hw]
    rfl
  · refine Does.of_exec ?_
    change execMemoryTestStart d s = _
    rw [execMemoryTestStart, State.on_eq hs]
    dsimp only
    rw [if_neg (not_not_intro ht), if_pos hd, show s.m.test.run.contains d.val = false from hr]
    rfl
  · refine Does.of_exec ?_
    change execMemoryTestStart d s = _
    rw [execMemoryTestStart, State.on_eq hs]
    dsimp only
    rw [if_neg (not_not_intro ht), if_neg hd, show s.m.test.refus.contains d.val = false from hr]
    rfl
  · refine Does.of_exec ?_
    change execMemoryTestStart d s = _
    rw [execMemoryTestStart, State.on_eq hs]
    exact congrArg (fun a => Host.Outcome.next { s with m := a }) (if_pos ht)
  · refine Does.of_exec ?_
    change execMemoryTestDone d s = _
    rw [execMemoryTestDone, State.on_eq hs, show s.m.test.run.contains d.val = false from hr]
    rfl
  · have hleft {γ : Type} (π : Mach → γ) (hπ : ∀ (m : Mach) k, π { m with frees := k } = π m)
        (heng : ∀ (m : Mach) f, π (m.modEng (d.val - 127) f) = π m)
        (hstn : ∀ (m : Mach) p f, 8 * (d.val - 128) ≤ p → p < 8 * (d.val - 128) + 8 → π (m.modStn p f) = π m) :=
      Mach.tested_spine (m := m.testOver d) h128 h132 hπ heng hstn
    refine ⟨_, exec_memoryTestDone hs hr, ?_, ?_, fun k hk => ?_, fun k => ?_, fun p hp => ?_, rfl, rfl⟩
    · exact hleft (fun a => a.test.run) (fun _ _ => rfl) (fun _ _ => rfl) (fun _ _ _ _ _ => rfl)
    · exact Mach.tested_spine_eng h128 h132
    · exact hleft (fun a => a.eng k) (fun _ _ => rfl) (fun a f => Mach.eng_modEng_ne a f hk) (fun _ _ _ _ _ => rfl)
    · exact hleft (fun a => a.niu k) (fun _ _ => rfl) (fun _ _ => rfl) (fun _ _ _ _ _ => rfl)
    · exact hleft (fun a => a.stn p) (fun _ _ => rfl) (fun _ _ => rfl) (fun a q f h1 h2 => Mach.stn_modStn_ne a f (by omega))
  · have hleft {γ : Type} (π : Mach → γ) (hπ : ∀ (m : Mach) k, π { m with frees := k } = π m)
        (hstore : ∀ (m : Mach) a v, π (m.modEng 0 (fun x => x.store a v)) = π m) :=
      Mach.tested_aon (m := m.testOver d) (d := d.val) (by omega) hπ hstore
    refine ⟨_, exec_memoryTestDone hs hr, ?_, ?_, ?_, fun k hk => ?_, fun k => ?_, rfl, rfl⟩
    · exact hleft (fun a => a.test.run) (fun _ _ => rfl) (fun _ _ _ => rfl)
    · exact hleft (fun a => (a.eng 0).g) (fun _ _ => rfl) (fun a _ _ => by rw [Mach.eng_modEng]; rfl)
    · exact hleft (fun a => (a.eng 0).pc) (fun _ _ => rfl) (fun a _ _ => by rw [Mach.eng_modEng]; rfl)
    · exact hleft (fun a => a.eng k) (fun _ _ => rfl) (fun a _ _ => Mach.eng_modEng_ne a _ hk)
    · exact hleft (fun a => a.niu k) (fun _ _ => rfl) (fun _ _ _ => rfl)
  · refine ⟨_, exec_memoryTestDone hs hr, ?_, fun k => ?_, fun k => ?_, rfl, rfl⟩
    · have hleft : ((m.testOver d).tested d).test.run = x.run.filter (fun k => k ≠ d.val) :=
        Mach.tested_tile (π := fun a => a.test.run) h128 (fun _ _ => rfl) (fun _ _ _ => rfl) (fun _ _ _ => rfl)
          (fun _ _ _ _ => rfl) (fun _ _ _ => rfl) (fun _ _ _ _ => rfl)
      change ((m.testOver d).tested d).test.run.contains d.val = false
      rw [hleft]
      simp
    · exact Mach.tested_tile (π := fun a => a.eng k) h128 (fun _ _ => rfl) (fun _ _ _ => rfl) (fun _ _ _ => rfl)
        (fun _ _ _ _ => rfl) (fun _ _ _ => rfl) (fun _ _ _ _ => rfl)
    · exact Mach.tested_tile (π := fun a => (a.niu k).fc.map FcE.flow) h128 (fun _ _ => rfl) (fun _ _ _ => rfl) (fun _ _ _ => rfl)
        (fun _ _ _ _ => rfl) (fun _ _ _ => rfl) (fun a n f hf => a.flows_modNiu n k f hf)

end Sys2Proof.Machine

/-! PROOFS. Clock modes, clock monitors and the event channels toward FCLK (O58). -/

namespace Sys2Proof.Machine

/-! ## What shared operations leave -/

section
variable {γ : Type} {π : Mach → γ}

/-- An event changes its engine, or one of its two registers. -/
theorem Mach.postEvt_leaves (m : Mach) (e cls kind detail src : Nat) (heng : ∀ (m : Mach) f, π (m.modEng e f) = π m)
    (hreg : ∀ (m : Mach) a w, a = aEng e 0x58 ∨ a = aEng e 0 → π (m.setReg a w) = π m) : π (m.postEvt e cls kind detail src) = π m := by
  unfold Mach.postEvt
  dsimp only
  split
  · exact hreg _ _ _ (.inl rfl)
  split
  · exact heng _ _
  · exact hreg _ _ _ (.inr rfl)

theorem Mach.occur_leaves (m : Mach) (c k l o s n : Nat) (hflt : ∀ (m : Mach) f, π (m.modFlt f) = π m) : π (m.occur c k l o s n) = π m := by
  unfold Mach.occur
  split
  · exact hflt _ _
  · rfl

theorem Mach.setPend_leaves (m : Mach) (ep k : Nat) (f : Shaper → Shaper) (hniu : ∀ (m : Mach) n f, π (m.modNiu n f) = π m) :
    π (m.setPend ep k f) = π m := by
  unfold Mach.setPend
  split
  · exact hniu _ _ _
  · rfl

/-- The registers that shedding writes (R256, R329). -/
def shedReg (a : Nat) : Prop := a = 0x208 ∨ (∃ n, a = aSch n 0x20) ∨ a = aEng 0 0x58 ∨ a = aEng 0 0

variable (hadm : ∀ (m : Mach) a, π { m with adm := a } = π m) (hniu : ∀ (m : Mach) n f, π (m.modNiu n f) = π m)
  (heng : ∀ (m : Mach) f, π (m.modEng 0 f) = π m) (hflt : ∀ (m : Mach) f, π (m.modFlt f) = π m)
  (hreg : ∀ (m : Mach) a w, shedReg a → π (m.setReg a w) = π m)
include hadm hniu heng hflt hreg

theorem Mach.shed_leaves (m : Mach) (v : Resv) (r : Nat) : π (m.shed v r) = π m := by
  have h208 (m : Mach) (w : Word) : π (m.setReg 0x208 w) = π m := hreg _ _ _ (.inl rfl)
  unfold Mach.shed
  dsimp only
  rw [Mach.occur_leaves _ _ _ _ _ _ _ hflt,
    Mach.postEvt_leaves _ _ _ _ _ _ heng (fun _ _ _ h => hreg _ _ _ (h.elim (fun h => .inr (.inr (.inl h))) (fun h => .inr (.inr (.inr h)))))]
  have hmark (a b : Mach) (h : π b = π a) : π (if b.domLive (epTile v.ep) = true then b.orReg (aSch v.ep 0x20) (2 ^ 3) else b) = π a := by
    split
    · exact (hreg _ _ _ (.inr (.inl ⟨v.ep, rfl⟩))).trans h
    · exact h
  refine hmark m _ ?_
  rw [Mach.setPend_leaves _ _ _ _ hniu]
  refine (h208 _ _).trans ?_
  split
  · exact hadm m _
  · exact (h208 _ _).trans (hadm m _)

/-- The recheck of the ledger changes the ledger, shapers, the master and its registers (R253). -/
theorem Mach.recheck_leaves (k : Nat) (m : Mach) : π (m.recheck k) = π m := by
  induction k generalizing m with
  | zero => rfl
  | succ k ih =>
    unfold Mach.recheck
    cases m.failing with
    | none => rfl
    | some r =>
      dsimp only
      cases m.adm.victim r with
      | none => rfl
      | some v => exact (ih _).trans (Mach.shed_leaves hadm hniu heng hflt hreg m v r)
end

/-- None of the clocks' and crossings' registers is among them. -/
theorem ne_of_shedReg {a k : Nat} (h : shedReg a) (hk : k < 0x200) : k ≠ a := by
  rintro rfl
  rcases h with h | ⟨n, h⟩ | h | h
  · omega
  · unfold aSch at h; split at h <;> omega
  · unfold aEng at h; omega
  · unfold aEng at h; omega

theorem Mach.setLock_leaves {γ : Type} {π : Mach → γ} (m : Mach) (l : Lock) (hspine : ∀ (m : Mach) f, π (m.modSpine f) = π m)
    (hreg : ∀ (m : Mach) w, π (m.setReg aSpEvt w) = π m) : π (m.setLock l) = π m := by
  unfold Mach.setLock
  dsimp only
  split
  · exact (hreg _ _).trans (hspine _ _)
  · exact hspine _ _

theorem Mach.lock_setLock (m : Mach) (l : Lock) : (m.setLock l).spine.lock = l := by
  unfold Mach.setLock
  dsimp only
  split <;> rfl

theorem Mach.rotorLoses_leaves {γ : Type} {π : Mach → γ} (m : Mach) (hspine : ∀ (m : Mach) f, π (m.modSpine f) = π m)
    (hreg : ∀ (m : Mach) w, π (m.setReg aSpEvt w) = π m) : π m.rotorLoses = π m := by
  unfold Mach.rotorLoses
  split
  · rfl
  cases m.spine.lock with
  | locked | slew => exact Mach.setLock_leaves m .acq hspine hreg
  | hold => exact hspine _ _
  | free | acq => rfl

theorem Mach.rotorLoses_locked {m : Mach} (hsp : m.hasSpine = true) (hl : m.spine.lock = .locked) : m.rotorLoses.spine.lock = .acq := by
  unfold Mach.rotorLoses
  rw [hsp, hl]
  exact m.lock_setLock .acq

/-! ## Clock modes -/

/-- A field that counts (R15). -/
theorem Mach.fld_addFld (m : Mach) (a : Nat) {lo len : Nat} (h : lo + len ≤ 64) (k : Nat) :
    (m.addFld a lo len k).fld a lo len = min (m.fld a lo len + k) (2 ^ len - 1) := by
  have hpos := Nat.two_pow_pos len
  rw [Mach.addFld, Mach.setFld, Mach.fld, Mach.reg_setReg, bf_sf _ h, satAdd, Nat.mod_eq_of_lt (by omega)]

/-- The machine with another mode in force, before the ledger is checked again. -/
def Mach.modeTaken (m : Mach) (code : BitVec 2) : Mach :=
  (Mach.addFld { m with clk := { m.clk with mode := code.toNat } } aClkStat 8 8 1).rotorLoses

theorem clockModeChange_takes {s : State} {code : BitVec 2} (hs : s.m.test.scan = false) (h3 : code ≠ 3) (hne : code.toNat ≠ s.m.clk.mode)
    (hup : s.m.pwr.aonUp = true) : ∃ t, exec (.clockModeChange code) s = .next t ∧ t.m.clk = { s.m.clk with mode := code.toNat } ∧
      t.m.fld 0x20 8 8 = min 255 (s.m.fld 0x20 8 8 + 1) ∧ t.m.keep = s.m.keep ∧
      (s.m.hasSpine = true → s.m.spine.lock = .locked → t.m.spine.lock = .acq) ∧ t.guards = s.guards ∧ t.pending = s.pending := by
  have hrun : exec (.clockModeChange code) s = .next { s with m := (s.m.modeTaken code).recheck 1024 } := by
    change execClockModeChange code s = _
    rw [execClockModeChange, State.on_eq hs]
    dsimp only
    rw [if_neg h3, if_neg hne, hup]
    rfl
  refine ⟨_, hrun, ?_, ?_, ?_, fun hsp hl => ?_, rfl, rfl⟩
  · refine (Mach.recheck_leaves (π := Mach.clk) (fun _ _ => rfl) (fun _ _ _ => rfl) (fun _ _ => rfl) (fun _ _ => rfl)
      (fun _ _ _ _ => rfl) 1024 _).trans ?_
    exact Mach.rotorLoses_leaves (π := Mach.clk) _ (fun _ _ => rfl) (fun _ _ => rfl)
  · have hreg : ((s.m.modeTaken code).recheck 1024).reg 0x20 =
        (Mach.addFld { s.m with clk := { s.m.clk with mode := code.toNat } } aClkStat 8 8 1).reg 0x20 :=
      (Mach.recheck_leaves (π := fun m => m.reg 0x20) (fun _ _ => rfl) (fun _ _ _ => rfl) (fun _ _ => rfl) (fun _ _ => rfl)
        (fun m a w ha => m.reg_setReg_ne w (ne_of_shedReg ha (by decide))) 1024 _).trans
      (Mach.rotorLoses_leaves (π := fun m => m.reg 0x20) _ (fun _ _ => rfl) (fun m w => m.reg_setReg_ne w (by decide)))
    change bf (((s.m.modeTaken code).recheck 1024).reg 0x20) 8 8 = _
    rw [hreg, Nat.min_comm]
    exact Mach.fld_addFld _ aClkStat (by decide) 1
  · refine (Mach.recheck_leaves (π := Mach.keep) (fun _ _ => rfl) (fun _ _ _ => rfl) (fun _ _ => rfl) (fun _ _ => rfl)
      (fun _ _ _ _ => rfl) 1024 _).trans ?_
    exact Mach.rotorLoses_leaves (π := Mach.keep) _ (fun _ _ => rfl) (fun _ _ => rfl)
  · refine (congrArg Spine.lock (Mach.recheck_leaves (π := Mach.spine) (fun _ _ => rfl) (fun _ _ _ => rfl) (fun _ _ => rfl)
      (fun _ _ => rfl) (fun _ _ _ _ => rfl) 1024 _)).trans ?_
    exact Mach.rotorLoses_locked hsp hl

/-! ## Fault records -/

/-- An occurrence that no record matches takes the lowest free record, posts its event, and does no more where its class neither pulses
nor escalates (R452). -/
theorem Mach.recordOcc_new {m : Mach} {cls : Nat} {o : Occ} (hup : m.pwr.aonUp = true) (hsafe : m.safe = false)
    (hno : ∀ i q, i < 64 → m.frec i = some q → q.cls ≠ cls) (hfree : m.frec 0 = none) (hesc : bt (m.reg 0xD0008) (48 + cls) = false)
    (hpulse : m.pulseMode = false) : m.recordOcc cls o =
      ((m.orReg aFltSum (2 ^ (48 + cls))).setFrec 0 (some ⟨cls, { o with n := min 255 o.n }, BitVec.ofNat 64 m.ftNs⟩)).postEvt 0 8 o.kind 0 cls := by
  have hmatch : lowest (fun i => ((m.orReg aFltSum (2 ^ (48 + cls))).frec i).any (fun r => r.same cls o)) 64 = none := by
    rw [lowest, List.find?_eq_none]
    intro i hi
    rw [Mach.frec_orReg]
    cases hf : m.frec i with
    | none => exact Bool.false_ne_true
    | some q =>
      have := hno i q (List.mem_range.1 hi) hf
      simp [FRec.same, this]
  have hlow : lowest (fun i => ((m.orReg aFltSum (2 ^ (48 + cls))).frec i).isNone) 64 = some 0 := by
    rw [lowest_eq_some]
    exact ⟨by rw [Mach.frec_orReg, hfree]; rfl, by decide, fun j hj => absurd hj (Nat.not_lt_zero j)⟩
  have hcfg {a v : Nat} (hv : a ≠ aFltCfg) : (m.orReg a v).reg aFltCfg = m.reg aFltCfg := m.reg_orReg_ne v (Ne.symm hv)
  have hkeep (b : Mach) (hb : b.reg aFltCfg = m.reg aFltCfg) : b.pulseMode = false ∧ bt (b.reg aFltCfg) (48 + cls) = false := by
    unfold Mach.pulseMode at hpulse ⊢
    rw [hb]
    exact ⟨hpulse, hesc⟩
  have hpost : ∀ b : Mach, (b.postEvt 0 8 o.kind 0 cls).reg aFltCfg = b.reg aFltCfg := fun b => b.reg_postEvt 0 8 o.kind 0 cls (by decide) (by decide)
  unfold Mach.recordOcc
  rw [hup]
  dsimp only
  rw [hmatch, hlow, show (m.orReg aFltSum (2 ^ (48 + cls))).safe = false from hsafe]
  dsimp only
  obtain ⟨hp, he⟩ := hkeep (((m.orReg aFltSum (2 ^ (48 + cls))).setFrec 0
    (some ⟨cls, { o with n := min 255 o.n }, BitVec.ofNat 64 m.ftNs⟩)).postEvt 0 8 o.kind 0 cls) ((hpost _).trans (hcfg (by decide)))
  rw [show (m.orReg aFltSum (2 ^ (48 + cls))).ftNs = m.ftNs from rfl, hp, Bool.false_and, Bool.false_and,
    if_neg Bool.false_ne_true, if_neg Bool.false_ne_true]
  rw [Bool.not_true, if_neg Bool.false_ne_true]
  refine if_neg ?_
  rintro ⟨-, h⟩
  rw [he] at h
  exact Bool.false_ne_true h

/-- FCLK is found stopped, with no other record of its class: one of class 14 in the lowest place (R427, R451). -/
theorem fclkStopDetect_records {s : State} (hs : s.m.test.scan = false) (hf : s.m.clk.fstop = false) (ha : s.m.clk.astop = false)
    (hup : s.m.pwr.aonUp = true) (hsafe : s.m.safe = false) (hno : ∀ i q, i < 64 → s.m.frec i = some q → q.cls ≠ 14)
    (hfree : s.m.frec 0 = none) (hesc : bt (s.m.reg 0xD0008) 62 = false) (hpulse : s.m.pulseMode = false) :
    ∃ t, exec .fclkStopDetect s = .next t ∧ t.m.clk = { s.m.clk with fstop := true } ∧ t.m.reg 0x38 = s.m.reg 0x38 ||| 4 ∧
      t.m.frec 0 = some ⟨14, ⟨0, 7, 0, 0, 1⟩, BitVec.ofNat 64 s.m.ftNs⟩ ∧ bt (t.m.reg 0xD0000) 62 = true := by
  have hcfg : (Mach.orReg { s.m with clk := { s.m.clk with fstop := true } } aXing 4).reg 0xD0008 = s.m.reg 0xD0008 :=
    Mach.reg_orReg_ne _ _ (by decide)
  have hrun : exec .fclkStopDetect s =
      .next { s with m := (Mach.orReg { s.m with clk := { s.m.clk with fstop := true } } aXing 4).recordOcc 14 ⟨0, 7, 0, 0, 1⟩ } := by
    change execFclkStopDetect s = _
    rw [execFclkStopDetect, State.on_eq hs]
    dsimp only
    rw [hf, ha, hup]
    rfl
  have hrec := Mach.recordOcc_new (m := Mach.orReg { s.m with clk := { s.m.clk with fstop := true } } aXing 4) (cls := 14) (o := ⟨0, 7, 0, 0, 1⟩)
    hup hsafe hno hfree (by rw [hcfg]; exact hesc) (by unfold Mach.pulseMode at hpulse ⊢; rw [show aFltCfg = 0xD0008 from rfl, hcfg]; exact hpulse)
  rw [hrec] at hrun
  have hreg {k : Nat} (h1 : k ≠ aEng 0 0x58) (h2 : k ≠ aEng 0 0) (b : Mach) : (b.postEvt 0 8 0 0 14).reg k = b.reg k :=
    b.reg_postEvt 0 8 0 0 14 h1 h2
  refine ⟨_, hrun, ?_, ?_, ?_, ?_⟩
  · exact Mach.postEvt_leaves (π := Mach.clk) _ _ _ _ _ _ (fun _ _ => rfl) (fun _ _ _ _ => rfl)
  · refine (hreg (by decide) (by decide) _).trans ?_
    refine (Mach.reg_orReg_ne _ _ (by decide)).trans ?_
    exact Mach.reg_orReg _ _ _
  · refine (Mach.postEvt_leaves (π := fun m => m.frec 0) _ _ _ _ _ _ (fun _ _ => rfl) (fun _ _ _ _ => rfl)).trans ?_
    exact Mach.frec_setFrec _ _ _
  · refine (congrArg (fun w => bt w 62) (hreg (by decide) (by decide) _)).trans ?_
    refine (congrArg (fun w => bt w 62) (Mach.reg_orReg _ _ _)).trans ?_
    dsimp only
    rw [bt_or, bt_ofNat_two_pow (by decide)]
    exact Bool.or_true _

/-! ## Transfers toward FCLK -/

/-- A transfer of one event toward FCLK (R424, R426). -/
theorem exec_transfer {s : State} {d : Dom} {k : Nat} (hs : s.m.test.scan = false) (hf : s.m.clk.fstop = false) (ha : s.m.clk.astop = false)
    (hup : s.m.pwr.aonUp = true) (hfly : (Tab.get dChan s.m.pchan d).fly = [k]) : exec (.eventChannelTransfer false d) s =
      .next { s with m := (Mach.chanOvf { s.m with pchan := Tab.set dChan s.m.pchan d (Tab.get dChan s.m.pchan d).next } 1 d
        (Tab.get dChan s.m.pchan d).flyOvf).postEvt 0 10 k 0 d } := by
  change execEventChannelTransfer false d s = _
  rw [execEventChannelTransfer, State.on_eq hs]
  dsimp only
  rw [hf, ha, hup, hfly]
  rfl

/-- Settles O58: clock modes, the monitors of the two clocks, and the transfers toward FCLK. -/
theorem clockEvents : Obligations.ClockEvents := by
  intro s code d k m ch next hs
  refine ⟨fun h3 hup => ?_, fun h3 heq => ?_, fun h3 hne hup => clockModeChange_takes hs h3 hne hup, fun hstop => ?_,
    fun hf ha hup hsafe hno hfree hesc hpulse => fclkStopDetect_records hs hf ha hup hsafe hno hfree hesc hpulse, fun hf ha hup => ?_,
    fun hstop => ?_, fun ha hf hup => ?_, fun hf ha hup hfly hovf hoff hroom => ?_, fun hf ha hup hfly hovf => ?_, fun hwait => ?_⟩
  · refine Does.of_exec ?_
    change execClockModeChange code s = _
    rw [execClockModeChange, State.on_eq hs]
    dsimp only
    rw [if_pos h3, show s.m.pwr.aonUp = true from hup]
    rfl
  · refine Does.of_exec ?_
    change execClockModeChange code s = _
    rw [execClockModeChange, State.on_eq hs]
    exact congrArg (fun a => Host.Outcome.next { s with m := a }) ((if_neg h3).trans (if_pos heq))
  · refine Does.of_exec ?_
    change execFclkStopDetect s = _
    rw [execFclkStopDetect, State.on_eq hs]
    exact congrArg (fun a => Host.Outcome.next { s with m := a }) (if_pos (Bool.or_eq_true_iff.2 hstop))
  · refine Does.of_exec ?_
    change execFclkStopDetect s = _
    rw [execFclkStopDetect, State.on_eq hs]
    dsimp only
    rw [show s.m.clk.fstop = false from hf, show s.m.clk.astop = false from ha, show s.m.pwr.aonUp = false from hup]
    rfl
  · refine Does.of_exec ?_
    change execAonStopDetect s = _
    rw [execAonStopDetect, State.on_eq hs]
    exact congrArg (fun a => Host.Outcome.next { s with m := a }) (if_pos (Bool.or_eq_true_iff.2 hstop))
  · refine Does.of_exec ?_
    change execAonStopDetect s = _
    rw [execAonStopDetect, State.on_eq hs]
    dsimp only
    rw [show s.m.clk.fstop = false from hf, show s.m.clk.astop = false from ha, show s.m.pwr.aonUp = true from hup]
    rfl
  · refine Does.of_exec ((exec_transfer hs hf ha hup hfly).trans ?_)
    have hnext : Mach.chanOvf { s.m with pchan := Tab.set dChan s.m.pchan d (Tab.get dChan s.m.pchan d).next } 1 d
        (Tab.get dChan s.m.pchan d).flyOvf = next := by
      rw [show (Tab.get dChan s.m.pchan d).flyOvf = false from hovf]
      rfl
    rw [hnext, Mach.postEvt_queued (m := next) hoff hroom, show (mkf 64 16 16 0 : Word) = 0#64 by decide, BitVec.or_zero]
    rfl
  · refine ⟨_, exec_transfer hs hf ha hup hfly, ?_, ?_⟩
    · refine (congrArg (fun w => bt w 1) (Mach.reg_postEvt _ 0 10 k 0 d (by decide) (by decide))).trans ?_
      rw [show (Tab.get dChan s.m.pchan d).flyOvf = true from hovf]
      refine (congrArg (fun w => bt w 1) (Mach.reg_setReg _ _ _)).trans ?_
      dsimp only
      rw [bt_sf_ne _ (by decide) _ (.inl (by decide))]
      refine (congrArg (fun w => bt w 1) (Mach.reg_orReg _ _ _)).trans ?_
      rw [bt_or, bt_ofNat_two_pow (by decide)]
      exact Bool.or_true _
    · refine (congrArg (fun w => bf w 16 8) (Mach.reg_postEvt _ 0 10 k 0 d (by decide) (by decide))).trans ?_
      rw [show (Tab.get dChan s.m.pchan d).flyOvf = true from hovf]
      refine (congrArg (fun w => bf w 16 8) (Mach.reg_setReg _ _ _)).trans ?_
      have hd := d.isLt
      rw [bf_sf _ (by decide), Nat.mod_eq_of_lt (by omega)]
  · refine Does.of_exec ?_
    change execEventChannelTransfer false d s = _
    rw [execEventChannelTransfer, State.on_eq hs]
    refine congrArg (fun a => Host.Outcome.next { s with m := a }) ?_
    dsimp only
    by_cases hw : (s.m.clk.fstop || s.m.clk.astop || !s.m.pwr.aonUp) = true
    · rw [if_pos hw]
    · rw [if_neg hw, if_neg Bool.false_ne_true]
      have hfly : (Tab.get dChan s.m.pchan d).fly = [] := by
        simp only [Bool.or_eq_true, Bool.not_eq_true', not_or, Bool.not_eq_true, Bool.not_eq_false] at hw
        obtain ⟨⟨h1, h2⟩, h3⟩ := hw
        rcases hwait with h | h | h | h
        · exact absurd (h1.symm.trans h) Bool.false_ne_true
        · exact absurd (h2.symm.trans h) Bool.false_ne_true
        · exact absurd (h.symm.trans h3) Bool.false_ne_true
        · exact h
      rw [hfly]

end Sys2Proof.Machine

/-! PROOFS. Instance reset and the start-up sequence (O44). -/

namespace Sys2Proof.Machine

/-! ## What shared operations leave -/

section
variable {γ : Type} {π : Mach → γ}

/-- The registers that a fault record writes, and those of its event (R452). -/
def recordReg (a : Nat) : Prop := a = aFltSum ∨ a = aEng 0 0x58 ∨ a = aEng 0 0

theorem Mach.enterSafe_leaves (m : Mach) (c e : Nat) (hflt : ∀ (m : Mach) f, π (m.modFlt f) = π m) : π (m.enterSafe c e) = π m := by
  unfold Mach.enterSafe
  split
  · rfl
  · exact hflt _ _

/-- An occurrence at the fault unit changes that unit, the master and their registers. -/
theorem Mach.recordOcc_leaves (m : Mach) (cls : Nat) (o : Occ) (heng : ∀ (m : Mach) f, π (m.modEng 0 f) = π m)
    (hflt : ∀ (m : Mach) f, π (m.modFlt f) = π m) (hreg : ∀ (m : Mach) a w, recordReg a → π (m.setReg a w) = π m) :
    π (m.recordOcc cls o) = π m := by
  have hsum (m : Mach) (w : Word) : π (m.setReg aFltSum w) = π m := hreg _ _ _ (.inl rfl)
  have hpost (m : Mach) (k i c : Nat) : π (m.postEvt 0 8 k i c) = π m :=
    Mach.postEvt_leaves _ _ _ _ _ _ heng (fun _ _ _ h => hreg _ _ _ (.inr h))
  unfold Mach.recordOcc
  split
  · rfl
  dsimp only
  cases lowest (fun i => ((m.orReg aFltSum (2 ^ (48 + cls))).frec i).any (fun r => r.same cls o)) 64 with
  | some i =>
    dsimp only
    cases (m.orReg aFltSum (2 ^ (48 + cls))).frec i with
    | some r => exact (hflt _ _).trans (hsum _ _)
    | none => exact hsum _ _
  | none =>
    dsimp only
    cases lowest (fun i => ((m.orReg aFltSum (2 ^ (48 + cls))).frec i).isNone) 64 with
    | none => exact (hsum _ _).trans ((hsum _ _).trans (hsum _ _))
    | some i =>
      dsimp only
      split
      · exact hsum _ _
      have hnew : π (((m.orReg aFltSum (2 ^ (48 + cls))).setFrec i (some ⟨cls, { o with n := min 255 o.n },
          BitVec.ofNat 64 (m.orReg aFltSum (2 ^ (48 + cls))).ftNs⟩)).postEvt 0 8 o.kind i cls) = π m :=
        (hpost _ _ _ _).trans ((hflt _ _).trans (hsum _ _))
      split
      · split
        · exact (Mach.enterSafe_leaves _ _ _ hflt).trans ((hflt _ _).trans hnew)
        · exact (hflt _ _).trans hnew
      · split
        · exact (Mach.enterSafe_leaves _ _ _ hflt).trans hnew
        · exact hnew

theorem Mach.askBoot_leaves (m : Mach) (hdom : ∀ (m : Mach) d, π (m.modDom d (fun x => { x with boot := true })) = π m)
    (hpwr : ∀ (m : Mach) l, π (m.modPwr (fun p => { p with phase := 3, reqs := p.reqs ++ l })) = π m) : π m.askBoot = π m := by
  unfold Mach.askBoot
  split
  · exact (hpwr _ _).trans (foldl_keeps π _ _ _ hdom)
  · rfl
end

/-! ## The domains asked to ramp -/

/-- A field that `boot` does not change, after the request for the ramps. -/
theorem Mach.dom_askBoot {γ : Type} (f : PDom → γ) (hf : ∀ x : PDom, f { x with boot := true } = f x) (m : Mach) (d : Nat) :
    f (m.askBoot.dom d) = f (m.dom d) := by
  refine Mach.askBoot_leaves (π := fun m => f (m.dom d)) m (fun m k => ?_) (fun _ _ => rfl)
  by_cases hk : d = k
  · subst hk
    exact (congrArg f (m.dom_modDom d _)).trans (hf _)
  · exact congrArg f (m.dom_modDom_ne _ hk)

/-- The domains of a list are asked to ramp. -/
def Mach.boots (m : Mach) (l : List Nat) : Mach := l.foldl (fun m d => m.modDom d (fun x => { x with boot := true })) m

theorem Mach.boot_boots (l : List Nat) (m : Mach) {d : Nat} (h : d ∈ l ∨ (m.dom d).boot = true) : ((m.boots l).dom d).boot = true := by
  induction l generalizing m with
  | nil => exact h.resolve_left List.not_mem_nil
  | cons a l ih =>
    refine ih (m.modDom a (fun x => { x with boot := true })) ?_
    by_cases ha : d = a
    · subst ha
      exact .inr (by rw [Mach.dom_modDom])
    · rw [Mach.dom_modDom_ne _ _ ha]
      rcases h with h | h
      · exact .inl ((List.mem_cons.1 h).resolve_left ha)
      · exact .inr h

theorem Mach.reqs_boots (l : List Nat) (m : Mach) : (m.boots l).pwr.reqs = m.pwr.reqs := foldl_keeps (fun m : Mach => m.pwr.reqs) _ _ _ (fun _ _ => rfl)

theorem Mach.askBoot_phase2 {m : Mach} (h : m.pwr.phase = 2) : m.askBoot =
    (m.boots ([128, 129, 130, 131] ++ List.range 128)).modPwr
      (fun p => { p with phase := 3, reqs := p.reqs ++ ([128, 129, 130, 131] ++ List.range 128) }) := by
  unfold Mach.askBoot
  rw [if_pos h]
  rfl

/-- The sequencer's phase and requests once it has asked. -/
theorem Mach.pwr_asked (m : Mach) (l : List Nat) : (m.modPwr (fun p => { p with phase := 3, reqs := p.reqs ++ l })).pwr.phase = 3 ∧
    (m.modPwr (fun p => { p with phase := 3, reqs := p.reqs ++ l })).pwr.reqs = m.pwr.reqs ++ l ∧
    ∀ d, (m.modPwr (fun p => { p with phase := 3, reqs := p.reqs ++ l })).dom d = m.dom d := ⟨rfl, rfl, fun _ => rfl⟩

/-- Who is asked, in order (R371). -/
theorem mem_bootList {d : Nat} (h : d < 132) : d ∈ [128, 129, 130, 131] ++ List.range 128 := by
  rw [List.mem_append, List.mem_range]
  by_cases hd : d < 128
  · exact .inr hd
  · have : d = 128 ∨ d = 129 ∨ d = 130 ∨ d = 131 := by omega
    exact .inl (by simpa using this)

/-! ## The release of the always-on reset -/

/-- The always-on domain as its reset releases (R371, R485). -/
def Mach.released (m : Mach) (flag : Bool) : Mach :=
  { (m.modDom 132 (fun x => { x with st := .init })).modPwr (fun p => { p with aonUp := true }) with
    keep := { Keeper.init with tpFlag := flag, tpAck := flag }, engs := Tab.upd dEng m.engs 0 (fun x => { Eng.init with post := x.post }) }

theorem aonResetRelease_releases {s : State} {flag : Bool} (hs : s.m.test.scan = false) (hst : (s.m.dom 132).st = .ramp)
    (hgood : (s.m.dom 132).pgood = true) (hph : s.m.pwr.phase = 2) :
    ∃ t, exec (.aonResetRelease flag) s = .next t ∧ (t.m.dom 132).st = .init ∧ t.m.pwr.aonUp = true ∧ t.m.pwr.phase = 3 ∧
      t.m.keep = { Keeper.init with tpFlag := flag, tpAck := flag } ∧ t.m.eng 0 = { Eng.init with post := (s.m.eng 0).post } ∧
      t.m.pwr.reqs = s.m.pwr.reqs ++ ([128, 129, 130, 131] ++ List.range 128) ∧ (∀ d, d < 132 → (t.m.dom d).boot = true) := by
  have hrun : exec (.aonResetRelease flag) s = .next { s with m := (s.m.released flag).askBoot } := by
    change execAonResetRelease flag s = _
    rw [execAonResetRelease, State.on_eq hs]
    dsimp only
    rw [if_neg (by rw [hst, hgood]; rintro (h | h); exacts [h rfl, Bool.false_ne_true h.symm])]
    rfl
  have hph' : (s.m.released flag).pwr.phase = 2 := hph
  have hdom : (s.m.released flag).dom 132 = { s.m.dom 132 with st := .init } :=
    Mach.dom_modDom s.m 132 (fun x => { x with st := .init })
  have heng : (s.m.released flag).eng 0 = { Eng.init with post := (s.m.eng 0).post } :=
    Tab.get_upd s.m.engs 0 (fun x => { Eng.init with post := x.post })
  have hboots := Mach.askBoot_phase2 hph'
  have hfields : (s.m.released flag).pwr.aonUp = true ∧ (s.m.released flag).pwr.reqs = s.m.pwr.reqs ∧
      (s.m.released flag).keep = { Keeper.init with tpFlag := flag, tpAck := flag } := ⟨rfl, rfl, rfl⟩
  generalize s.m.released flag = a at hdom heng hboots hfields hrun
  obtain ⟨hup, hreqs, hkeep⟩ := hfields
  refine ⟨_, hrun, ?_, ?_, ?_, ?_, ?_, ?_, fun d hd => ?_⟩
  · exact (Mach.dom_askBoot PDom.st (fun _ => rfl) a 132).trans (congrArg PDom.st hdom)
  · exact (Mach.askBoot_leaves (π := fun m => m.pwr.aonUp) a (fun _ _ => rfl) (fun _ _ => rfl)).trans hup
  · change a.askBoot.pwr.phase = 3
    rw [hboots, (Mach.pwr_asked _ _).1]
  · exact (Mach.askBoot_leaves (π := Mach.keep) a (fun _ _ => rfl) (fun _ _ => rfl)).trans hkeep
  · exact (Mach.askBoot_leaves (π := fun m => m.eng 0) a (fun _ _ => rfl) (fun _ _ => rfl)).trans heng
  · change a.askBoot.pwr.reqs = _
    rw [hboots, (Mach.pwr_asked _ _).2.1, Mach.reqs_boots, hreqs]
  · change (a.askBoot.dom d).boot = true
    rw [hboots, (Mach.pwr_asked _ _).2.2]
    exact a.boot_boots _ (.inl (mem_bootList hd))

/-! ## pw_ready -/

/-- The domains that pw_ready finds without power are marked and recorded (R373). -/
def Mach.missed (m : Mach) (l : List Nat) : Mach :=
  l.foldl (fun m d => (m.modDom d (fun x => { x with flt := true })).recordOcc 12 ⟨3, domLevel d, d, 0, 1⟩) m

theorem Mach.missed_leaves {γ : Type} {π : Mach → γ} (m : Mach) (l : List Nat) (hdom : ∀ (m : Mach) d f, π (m.modDom d f) = π m)
    (heng : ∀ (m : Mach) f, π (m.modEng 0 f) = π m) (hflt : ∀ (m : Mach) f, π (m.modFlt f) = π m)
    (hreg : ∀ (m : Mach) a w, recordReg a → π (m.setReg a w) = π m) : π (m.missed l) = π m :=
  foldl_keeps π _ _ _ (fun _ _ => (Mach.recordOcc_leaves _ _ _ heng hflt hreg).trans (hdom _ _ _))

/-- pw_ready rises: the ports of powered tiles that start-up has stopped go on (R80, R371). -/
def Mach.readied (m : Mach) (missing : Nat) : Mach :=
  { m.modPwr (fun p => { p with ready := true, phase := 5, missing := missing }) with
    nius := Tab.mapv dNiu (fun n x => if (m.dom (epTile n)).st = .on then { x with hold := x.hold && x.relHold } else x) m.nius }

theorem Mach.niu_readied (m : Mach) (k n : Nat) : (m.readied k).niu n =
    if (m.dom (epTile n)).st = .on then { m.niu n with hold := (m.niu n).hold && (m.niu n).relHold } else m.niu n :=
  Tab.get_mapv_same (d := dNiu) m.nius (fun n x => if (m.dom (epTile n)).st = .on then { x with hold := x.hold && x.relHold } else x) n
    (by split <;> rfl)

/-- The domains without power (R373). -/
def Mach.offDoms (m : Mach) : List Nat := (List.range 133).filter (fun d => decide ((m.dom d).st ≠ .on))

theorem startupReady_rises {s : State} (hs : s.m.test.scan = false) (hr : s.m.pwr.ready = false) (hph : 2 ≤ s.m.pwr.phase) :
    ∃ t, exec .startupReady s = .next t ∧ t.m.pwr.ready = true ∧ t.m.pwr.phase = 5 ∧
      t.m.pwr.missing = ((List.range 133).filter (fun d => decide ((s.m.dom d).st ≠ .on))).length ∧
      (∀ n, (s.m.dom (epTile n)).st = .on → (t.m.niu n).hold = ((s.m.niu n).hold && (s.m.niu n).relHold)) ∧
      (∀ n, (s.m.dom (epTile n)).st ≠ .on → (t.m.niu n).hold = (s.m.niu n).hold) := by
  have hst (d : Nat) : (s.m.askBoot.dom d).st = (s.m.dom d).st := Mach.dom_askBoot PDom.st (fun _ => rfl) s.m d
  have hniu (n : Nat) : s.m.askBoot.niu n = s.m.niu n := Mach.askBoot_leaves (π := fun m => m.niu n) s.m (fun _ _ => rfl) (fun _ _ => rfl)
  have hrun : exec .startupReady s =
      .next { s with m := (s.m.askBoot.readied s.m.askBoot.offDoms.length).missed s.m.askBoot.offDoms } := by
    change execStartupReady s = _
    rw [execStartupReady, State.on_eq hs]
    dsimp only
    rw [if_neg (by rw [hr]; rintro (h | h); exacts [Bool.false_ne_true h, absurd h (Nat.not_lt.2 hph)])]
    rfl
  have hoff : s.m.askBoot.offDoms = s.m.offDoms := by unfold Mach.offDoms; simp only [hst]
  rw [hoff] at hrun
  change ∃ t : State, _ ∧ _ ∧ _ ∧ t.m.pwr.missing = s.m.offDoms.length ∧ _
  generalize s.m.askBoot = a at hst hniu hrun
  generalize s.m.offDoms = l at hrun ⊢
  have hpwr {γ : Type} (f : Power → γ) (hf : ∀ p doms, f { p with doms := doms } = f p) :
      f ((a.readied l.length).missed l).pwr = f (a.readied l.length).pwr :=
    Mach.missed_leaves (π := fun m => f m.pwr) _ _ (fun _ _ _ => hf _ _) (fun _ _ => rfl) (fun _ _ => rfl) (fun _ _ _ _ => rfl)
  have hleft (n : Nat) : ((a.readied l.length).missed l).niu n = (a.readied l.length).niu n :=
    Mach.missed_leaves (π := fun m => m.niu n) _ _ (fun _ _ _ => rfl) (fun _ _ => rfl) (fun _ _ => rfl) (fun _ _ _ _ => rfl)
  refine ⟨_, hrun, hpwr Power.ready (fun _ _ => rfl), hpwr Power.phase (fun _ _ => rfl), hpwr Power.missing (fun _ _ => rfl),
    fun n hn => ?_, fun n hn => ?_⟩
  · refine (congrArg Niu.hold (hleft n)).trans ?_
    rw [Mach.niu_readied, hst, if_pos hn, hniu]
  · refine (congrArg Niu.hold (hleft n)).trans ?_
    rw [Mach.niu_readied, hst, if_neg hn, hniu]

/-! ## The statement -/

/-- Both feeds valid end the qualification (R371). -/
theorem feedValidity_qualifies {s : State} {b : Bool} {u : BitVec 8} (hs : s.m.test.scan = false) (hph : s.m.pwr.phase = 1)
    (hother : (if b then s.m.pwr.feedA else s.m.pwr.feedB) = true) (hu : 97 * s.m.nomMv ≤ 400 * u.toNat) :
    Does (.feedValidityChange b ⟨true, u⟩) s (Mach.modDom { s.m with pwr :=
      { s.m.pwr with feedA := true, feedB := true, phase := 2, reqs := s.m.pwr.reqs ++ [132],
                     volA := if b then s.m.pwr.volA else u.toNat, volB := if b then u.toNat else s.m.pwr.volB } } 132 (fun y =>
        { y with boot := true })) := by
  refine Does.of_exec ?_
  change execFeedValidityChange b ⟨true, u⟩ s = _
  rw [execFeedValidityChange, State.on_eq hs]
  have hbelow : s.m.below u.toNat 97 = false := decide_eq_false (Nat.not_lt.2 hu)
  refine congrArg (fun a => Host.Outcome.next { s with m := a }) ?_
  dsimp only
  rw [hbelow, if_neg Bool.false_ne_true]
  cases b with
  | true =>
    have hA : s.m.pwr.feedA = true := hother
    rw [if_pos ⟨hph, hA, rfl⟩]
    simp only [if_true]
    rw [← hA]
    rfl
  | false =>
    have hB : s.m.pwr.feedB = true := hother
    rw [if_pos ⟨hph, rfl, hB⟩]
    simp only [Bool.false_eq_true, if_false]
    rw [← hB]
    rfl

/-- Settles O44: global reset, then the steps of start-up in order. -/
theorem startUp : Obligations.StartUp := by
  intro s b flag u p fresh
  refine ⟨?_, fun hs hstuck => ?_, fun hs hph h3 h4 hf ha => ?_, fun hs hwait => ?_, fun hs hph ho hu => feedValidity_qualifies hs hph ho hu,
    fun hs hst hg hph => aonResetRelease_releases hs hst hg hph, fun hs hwait => ?_, fun hs hr hph => startupReady_rises hs hr hph,
    fun hs hr => ?_⟩
  · exact ⟨_, rfl, ⟨fun _ => rfl, fun _ => rfl, rfl, rfl, rfl, rfl, rfl, rfl, rfl, rfl, rfl⟩, rfl⟩
  · have hrun : exec (.supplyLoss ⟨132, u⟩) s = .next s.instReset := by
      change execSupplyLoss ⟨132, u⟩ s = _
      rw [execSupplyLoss]
      refine congrArg Host.Outcome.next ((if_neg ?_).trans (if_pos rfl))
      rw [hs, show s.m.stuckFeed (132 : Dom) u.toNat 88 = true from hstuck]
      exact Bool.false_ne_true
    exact ⟨_, hrun, fun _ => rfl, fun _ => rfl, rfl, rfl, rfl, rfl, rfl, rfl, rfl, rfl, rfl⟩
  · refine Does.of_exec ?_
    change execStartupT0 s = _
    rw [execStartupT0, State.on_eq hs]
    refine congrArg (fun a => Host.Outcome.next { s with m := a }) (if_pos ?_)
    exact ⟨hph, decide_eq_false (by rintro (h | h) <;> contradiction), hf, ha⟩
  · refine Does.of_exec ?_
    change execStartupT0 s = _
    rw [execStartupT0, State.on_eq hs]
    refine congrArg (fun a => Host.Outcome.next { s with m := a }) (if_neg ?_)
    rintro ⟨h1, h2, h3, h4⟩
    have h2' : ¬ (s.m.test.tap = 3 ∨ s.m.test.tap = 4) := of_decide_eq_false h2
    rcases hwait with h | h | h | h | h
    · exact h h1
    · exact h2' (.inl h)
    · exact h2' (.inr h)
    · rw [h] at h3; exact Bool.false_ne_true h3.symm
    · rw [h] at h4; exact Bool.false_ne_true h4.symm
  · refine Does.of_exec ?_
    change execAonResetRelease flag s = _
    rw [execAonResetRelease, State.on_eq hs]
    exact congrArg (fun a => Host.Outcome.next { s with m := a }) (if_pos hwait)
  · refine Does.of_exec ?_
    change execStartupReady s = _
    rw [execStartupReady, State.on_eq hs]
    refine congrArg (fun a => Host.Outcome.next { s with m := a }) (if_pos ?_)
    exact .inl hr

end Sys2Proof.Machine

/-! PROOFS. A write of FLOW_TBL (O60): a write-back that goes out on the way makes another entry one in use. -/

namespace Sys2Proof.Machine

/-- A clean entry of `flow`, one of the table or a default one. -/
def tableEntry (flow : BitVec 16) (dirty : Bool) : FcE :=
  ⟨flow, 0, none, false, false, false, dirty, false, false, false, false⟩

/-- The service NIU of the master's quadrant, powered, with a dirty entry of flow 1 and a clean one of flow 0xFFFF, while EN = 1. -/
def twoEntries : State :=
  { State.reset with m := { Mach.reset with
      regs := [(0x48, 1)]
      nius := [(512, { Niu.init with fc := [tableEntry 1 true, tableEntry 0xFFFF false] })]
      pwr := { Power.init with doms := [(19, { PDom.init with st := .on, live := true })] } } }

theorem calm_init : Niu.init.Calm :=
  ⟨rfl, rfl, rfl, fun _ h => (nomatch h), fun _ h => (nomatch h)⟩

theorem twoEntries_calm : twoEntries.m.Calm := by
  refine ⟨fun n => ?_, fun d n f h => nomatch h⟩
  by_cases hn : 512 = n
  · subst hn
    exact ⟨rfl, rfl, rfl, fun _ h => (nomatch h), fun _ h => (nomatch h)⟩
  · have h : twoEntries.m.niu n = Niu.init := by simp [Mach.niu, Tab.get, Tab.find, twoEntries, hn, dNiu]
    rw [h]
    exact calm_init

set_option maxRecDepth 20000 in
/-- The entry of flow 0xFFFF is still cached after EN has become 0. -/
theorem twoEntries_kept : ((twoEntries.m.writeFlowTbl 0).niu 512).entry (tableEntry 0xFFFF false).flow ≠ none := by
  decide +kernel

theorem exec_flowTblWrite {s : State} (hs : s.m.test.scan = false) (v : Word) :
    exec (.flowTblWrite v) s = .next { s with m := s.m.writeFlowTbl v } := by
  change execFlowTblWrite v s = _
  rw [execFlowTblWrite, State.on_eq hs]

/-- Refutes O60: EN becomes 0 while the service NIU caches two entries, nothing waits and neither is in use. The write-back of the dirty
one is a packet of flow 0xFFFF in the service NIU's injection space (R317), so that the clean entry of flow 0xFFFF is in use by the time
it is looked at, and does not go. -/
theorem not_flowTableWrite : ¬ Obligations.FlowTableWrite := by
  intro h
  obtain ⟨-, h⟩ := h twoEntries 0 rfl
  obtain ⟨t, ht, -, -, -, -, -, -, -, hgone, -⟩ := h (by decide +kernel)
  rw [exec_flowTblWrite (s := twoEntries) rfl] at ht
  have ht := Host.Outcome.next.inj ht
  subst ht
  have hcached : (twoEntries.m.niu 512).entry (tableEntry 0xFFFF false).flow = some (tableEntry 0xFFFF false) := by decide +kernel
  have hgone := hgone twoEntries_calm 512 _ hcached
  have hfree : (twoEntries.m.niu 512).inUse (tableEntry 0xFFFF false).flow = false := by decide +kernel
  have hgone := hgone (by decide +kernel) rfl rfl rfl hfree (by decide +kernel)
  dsimp only at hgone
  exact twoEntries_kept hgone

end Sys2Proof.Machine

/-! PROOFS. Fault records: FLT.CLR, occurrences that arrive, and DWN_ERR_N (O50). -/

namespace Sys2Proof.Machine

/-! ## FLT.CLR -/

theorem Mach.Like.modFlt {a m : Mach} (h : a.Like m) (f : FaultUnit → FaultUnit) : (a.modFlt f).Like (m.modFlt f) :=
  { h with bare := congrArg (fun y : Mach => y.modFlt f) h.bare }

theorem Mach.LikeAt.modFlt {a m : Mach} {e : Nat} {x : Eng} (h : a.LikeAt e x m) (f : FaultUnit → FaultUnit) :
    (a.modFlt f).LikeAt e x (m.modFlt f) := h.upd (fun y => y.modFlt f) (fun _ => .refl _) (fun _ _ hl => hl.modFlt f)

section
variable {m : Mach} {e : Nat}

theorem Mach.fltOp_denied (h : e ≠ 0) (act : Mach → Mach) : m.fltOp e act = m.endStatus e 6 [] := by
  have : (e == 0) = false := beq_eq_false_iff_ne.2 h
  unfold Mach.fltOp
  rw [this]
  rfl

theorem Mach.fltOp_waits (he : e = 0) (h : m.clk.astop = true) (act : Mach → Mach) : m.fltOp e act = m.setWait e .aon := by
  subst he
  exact (m.status_free 0 _).trans (if_pos h)

theorem Mach.fltOp_acts (he : e = 0) (h : m.clk.astop = false) (act : Mach → Mach) : m.fltOp e act = act m := by
  subst he
  exact (m.status_free 0 _).trans (if_neg (by rw [h]; exact Bool.false_ne_true))
end

theorem Mach.clk_issued (m : Mach) (e : Nat) (w : Word) : (m.issued e w).clk = m.clk := by rw [Mach.issued_eq]

theorem Mach.flt_issued (m : Mach) (e : Nat) (w : Word) : (m.issued e w).flt = (m.readPc e).flt := by rw [Mach.issued_eq, Mach.readPc_eq]

theorem Mach.frec_issued (m : Mach) (e : Nat) (w : Word) (i : Nat) : (m.issued e w).frec i = (m.readPc e).frec i := by
  unfold Mach.frec
  rw [Mach.flt_issued]

theorem Mach.persists_issued (m : Mach) (e : Nat) (w : Word) (r : FRec) : (m.issued e w).persists r = (m.readPc e).persists r := by
  rw [Mach.issued_eq, Mach.readPc_eq]
  rfl

/-- The records that stay at an FLT.CLR with ALL (R453). -/
def Mach.kept (m : Mach) (o : Option FRec) : Option FRec := o.bind (fun r => if m.persists r then some r else none)

theorem Mach.kept_issued (m : Mach) (e : Nat) (w : Word) : (m.issued e w).kept = (m.readPc e).kept := by
  funext o
  unfold Mach.kept
  simp only [Mach.persists_issued]

/-- The machine in which the records that do not persist are gone. -/
def Mach.cleared (m : Mach) : Mach := m.modFlt (fun f => { f with recs := Tab.mapv dNone (fun _ o => m.kept o) m.flt.recs })

theorem Mach.clearAll_eq (m : Mach) (e : Nat) :
    m.clearAll e = if m.cleared.flt.recs.isEmpty then m.cleared.done e xOK [] else m.cleared.endStatus e xSTATE [] := rfl

theorem Mach.frec_cleared (m : Mach) (i : Nat) : m.cleared.frec i = m.kept (m.frec i) :=
  Tab.get_mapv_same (d := dNone) m.flt.recs (fun _ o => m.kept o) i rfl

/-- Where each listed value is changed to the default, none stays listed. -/
theorem Tab.mapv_eq_nil {α : Type} [DecidableEq α] {d : Nat → α} {t : Tab α} {f : Nat → α → α} (h : ∀ p ∈ t, f p.1 p.2 = d p.1) :
    Tab.mapv d f t = [] := by
  unfold Tab.mapv
  rw [List.filter_eq_nil_iff]
  intro p hp hne
  have hall := Tab.get_key (d := d) (P := fun k v => v = d k) (t := t.map (fun e => (e.1, f e.1 e.2))) (fun _ => rfl)
    (fun q hq => by obtain ⟨a, ha, rfl⟩ := List.mem_map.1 hq; exact h a ha) p.1
  exact of_decide_eq_true hne hall

theorem Mach.cleared_of_none {m : Mach} (h : ∀ p ∈ m.flt.recs, ∀ r, p.2 = some r → m.persists r = false) :
    m.cleared = m.modFlt (fun f => { f with recs := [] }) := by
  unfold Mach.cleared
  rw [Tab.mapv_eq_nil (fun p hp => ?_)]
  cases hr : p.2 with
  | none => rfl
  | some r => exact if_neg (by rw [h p hp r hr]; exact Bool.false_ne_true)

section
variable {γ : Type} {π : Mach → γ} (heng : ∀ (m : Mach) e f, π (m.modEng e f) = π m) (hreg : ∀ (m : Mach) a w, π (m.setReg a w) = π m)
  (htok : ∀ (m : Mach) t, π { m with token := t } = π m) (hslot : ∀ (m : Mach) e i v, π (m.setSlot e i v) = π m)
  (hocc : ∀ (m : Mach) c k l o s n, π (m.occur c k l o s n) = π m)
include heng hreg htok hslot hocc

/-- A halt changes the engine, its registers, the token and slot 15, and counts at the fault unit. -/
theorem Mach.haltFault_keeps (m : Mach) (e code : Nat) : π (m.haltFault e code) = π m := by
  have hrel (m : Mach) : π (m.releaseToken e) = π m := by rw [Mach.releaseToken_eq]; exact htok m _
  have hrec (m : Mach) : π (m.faultRecord e code) = π m := by
    by_cases h : m.slot e 15 = none
    · rw [Mach.faultRecord_free code h]
      exact (heng _ _ _).trans (hslot _ _ _ _)
    · rw [Mach.faultRecord_lost code h]
      exact hreg _ _ _
  have hhalt : π ((m.halting e code).faultRecord e code) = π m :=
    (hrec _).trans ((hrel _).trans ((hreg _ _ _).trans ((hreg _ _ _).trans ((hreg _ _ _).trans (heng _ _ _)))))
  have hinsn : (((m.modEng e (fun x => { x with state := .fault, wait := .none, limit := none, fetch := none, stopReq := false })).setFld
    (aEng e 0x30) 0 4 code).eng e).insn = (m.eng e).insn := by rw [Mach.eng_setFld, Mach.eng_modEng]
  unfold Mach.haltFault
  dsimp only
  rw [hinsn]
  change π (if code = 10 then ((m.halting e code).faultRecord e code).occur 15 0 3 e 0 1
    else if code = 11 then ((m.halting e code).faultRecord e code).occur 15 1 3 e 0 1 else (m.halting e code).faultRecord e code) = _
  split
  · exact (hocc _ _ _ _ _ _ _).trans hhalt
  split
  · exact (hocc _ _ _ _ _ _ _).trans hhalt
  · exact hhalt
end

theorem Mach.frec_occur (m : Mach) (c k l o s n i : Nat) : (m.occur c k l o s n).frec i = m.frec i := by
  unfold Mach.occur
  split <;> rfl

theorem Mach.st_haltFault (m : Mach) (e code : Nat) : ((m.haltFault e code).eng e).st = (m.eng e).st := by
  obtain ⟨f, hf⟩ := m.haltFault_eq e code
  obtain ⟨p, heng, -⟩ := (m.halting e code).eng_faultRecord e code
  rw [hf, Mach.eng_modFlt, heng, Mach.eng_halting]

theorem Eng.ended_st (x : Eng) (st : Nat) (wr : List (Nat × Word)) : (x.ended st wr).st = st := by
  obtain ⟨g, hg⟩ := ({ x with st := st, wait := .none, limit := none, state := .running } : Eng).setRegs_eq wr
  rw [Eng.ended, hg]

theorem Mach.Like.frec {a m : Mach} (h : a.Like m) (i : Nat) : a.frec i = m.frec i :=
  show a.bare.frec i = m.bare.frec i from congrArg (fun y : Mach => y.frec i) h.bare

/-- The end of an instruction with a status other than OK: its ST, and the fault records as they were (R344). -/
theorem Mach.endStatus_leaves (m : Mach) (e : EngId) {st : Nat} (hst : st ≠ xOK) (wr : List (Nat × Word)) :
    ((m.endStatus e st wr).eng e).st = st ∧ ∀ i, (m.endStatus e st wr).frec i = m.frec i := by
  cases ht : bt (m.eng e).insn 43 with
  | true =>
    have h := m.endStatus_try e hst ht wr
    exact ⟨(congrArg Eng.st h.engine).trans (Eng.ended_st _ _ _), fun i => h.frec i⟩
  | false =>
    have h := m.endStatus_plain e hst ht wr
    refine ⟨(congrArg Eng.st (h.eng e)).trans ((Mach.st_haltFault _ _ _).trans ?_), fun i => (h.frec i).trans ?_⟩
    · rw [Mach.eng_modEng]
      exact Eng.ended_st _ _ _
    · exact Mach.haltFault_keeps (π := fun m => m.frec i) (fun _ _ _ => rfl) (fun _ _ _ => rfl) (fun _ _ => rfl) (fun _ _ _ _ => rfl)
        (fun m c k l o s n => m.frec_occur c k l o s n i) _ e st

/-- A record persists, so that an FLT.CLR with ALL ends with STATE and leaves those that do (R453). -/
theorem Mach.clearAll_state {m : Mach} (e : EngId) {i : Nat} {r : FRec} (hr : m.frec i = some r) (hp : m.persists r = true) :
    ((m.clearAll e).eng e).st = 1 ∧ ∀ j, (m.clearAll e).frec j = m.kept (m.frec j) := by
  have hne : m.cleared.flt.recs.isEmpty = false := by
    refine Bool.eq_false_iff.2 fun h => ?_
    have hkept : m.cleared.frec i = some r := by
      rw [Mach.frec_cleared, hr]
      exact if_pos hp
    rw [Mach.frec, List.isEmpty_iff.1 h] at hkept
    cases hkept
  rw [Mach.clearAll_eq, hne, if_neg Bool.false_ne_true]
  obtain ⟨hst, hfrec⟩ := m.cleared.endStatus_leaves e (st := xSTATE) (by decide) []
  exact ⟨hst, fun j => (hfrec j).trans (m.frec_cleared j)⟩

/-! ## Occurrences that arrive -/

/-- The machine once the transfer is taken, and its class's bit set. -/
def Mach.seen (m : Mach) (c : Nat) : Mach := m.orReg aFltSum (2 ^ (48 + c))

theorem Mach.frec_seen (m : Mach) (c i : Nat) : (m.seen c).frec i = m.frec i := Mach.frec_orReg _ _ _ _

section
variable {m : Mach} {c i : Nat} {o : Occ}

theorem Mach.lowest_same (hno : ∀ j q, j < 64 → m.frec j = some q → q.same c o = false) :
    lowest (fun i => ((m.seen c).frec i).any (fun r => r.same c o)) 64 = none := by
  rw [lowest, List.find?_eq_none]
  intro j hj
  rw [Mach.frec_seen]
  cases hq : m.frec j with
  | none => exact Bool.false_ne_true
  | some q =>
    have := hno j q (List.mem_range.1 hj) hq
    simp [this]

theorem Mach.lowest_free (hi : i < 64) (hfree : m.frec i = none) (hlow : ∀ j, j < i → m.frec j ≠ none) :
    lowest (fun i => ((m.seen c).frec i).isNone) 64 = some i := by
  rw [lowest_eq_some]
  simp only [Mach.frec_seen]
  exact ⟨by rw [hfree]; rfl, hi, fun j hj => Option.isNone_eq_false_iff.2 (Option.isSome_iff_ne_none.2 (hlow j hj))⟩

variable (hup : m.pwr.aonUp = true)
include hup

/-- The lowest record of an occurrence counts it (R452). -/
theorem Mach.recordOcc_counts {r : FRec} (hi : i < 64) (hr : m.frec i = some r) (hs : r.same c o = true)
    (hlow : ∀ j q, j < i → m.frec j = some q → q.same c o = false) :
    m.recordOcc c o = (m.seen c).setFrec i (some { r with occ := { r.occ with n := min 255 (r.occ.n + o.n) } }) := by
  have hfind : lowest (fun i => ((m.seen c).frec i).any (fun r => r.same c o)) 64 = some i := by
    rw [lowest_eq_some]
    simp only [Mach.frec_seen]
    refine ⟨by rw [hr]; exact hs, hi, fun j hj => ?_⟩
    cases hq : m.frec j with
    | none => rfl
    | some q => exact hlow j q hj hq
  unfold Mach.recordOcc
  rw [hup]
  dsimp only
  rw [← Mach.seen, hfind]
  dsimp only
  rw [Mach.frec_seen, hr]
  rfl

/-- With no record free an occurrence is lost (R452). -/
theorem Mach.recordOcc_lost (hno : ∀ j q, j < 64 → m.frec j = some q → q.same c o = false) (hfull : ∀ j, j < 64 → m.frec j ≠ none) :
    m.recordOcc c o = ((m.seen c).orReg aFltSum (2 ^ 47)).addFld aFltSum 0 16 o.n := by
  have hfree : lowest (fun i => ((m.seen c).frec i).isNone) 64 = none := by
    rw [lowest, List.find?_eq_none]
    intro j hj
    rw [Mach.frec_seen, Option.isNone_iff_eq_none]
    exact hfull j (List.mem_range.1 hj)
  unfold Mach.recordOcc
  rw [hup]
  dsimp only
  rw [← Mach.seen, Mach.lowest_same hno, hfree]
  rfl

variable (hno : ∀ j q, j < 64 → m.frec j = some q → q.same c o = false) (hi : i < 64) (hfree : m.frec i = none)
include hno hi hfree

/-- With the cause FU_PARITY no new record is made (R459). -/
theorem Mach.recordOcc_parity (hs : m.safe = true) (hc : m.flt.cause = 1) : m.recordOcc c o = m.seen c := by
  have hlow : (lowest (fun i => ((m.seen c).frec i).isNone) 64).isSome := by
    rw [lowest, List.find?_isSome]
    exact ⟨i, List.mem_range.2 hi, by rw [Mach.frec_seen, hfree]; rfl⟩
  obtain ⟨j, hj⟩ := Option.isSome_iff_exists.1 hlow
  have hold : ((m.seen c).safe && decide ((m.seen c).flt.cause = 1)) = true := by
    change (m.safe && decide (m.flt.cause = 1)) = true
    rw [hs, hc]
    rfl
  unfold Mach.recordOcc
  rw [hup]
  dsimp only
  rw [← Mach.seen, Mach.lowest_same hno, hj]
  dsimp only
  rw [hold]
  rfl

/-- The lowest free record takes an occurrence that none matches, and does no more where its class neither pulses nor escalates (R452). -/
theorem Mach.recordOcc_takes (hlow : ∀ j, j < i → m.frec j ≠ none) (hs : m.safe = false ∨ m.flt.cause ≠ 1) (hpulse : m.pulseMode = false)
    (hesc : c = 0 ∨ bt (m.reg aFltCfg) (48 + c) = false) : m.recordOcc c o =
      ((m.seen c).setFrec i (some ⟨c, { o with n := min 255 o.n }, BitVec.ofNat 64 m.ftNs⟩)).postEvt 0 8 o.kind i c := by
  have hnew : ((m.seen c).safe && decide ((m.seen c).flt.cause = 1)) = false := by
    change (m.safe && decide (m.flt.cause = 1)) = false
    rcases hs with h | h
    · rw [h]; rfl
    · rw [decide_eq_false h, Bool.and_false]
  have hcfg : (((m.seen c).setFrec i (some ⟨c, { o with n := min 255 o.n }, BitVec.ofNat 64 m.ftNs⟩)).postEvt 0 8 o.kind i c).reg aFltCfg =
      m.reg aFltCfg := (Mach.reg_postEvt _ _ _ _ _ _ (by decide) (by decide)).trans (m.reg_orReg_ne _ (by decide))
  unfold Mach.recordOcc
  rw [hup]
  dsimp only
  rw [← Mach.seen, Mach.lowest_same hno, Mach.lowest_free hi hfree hlow]
  dsimp only
  rw [hnew, show (m.seen c).ftNs = m.ftNs from rfl]
  unfold Mach.pulseMode at hpulse ⊢
  rw [hcfg, hpulse, Bool.false_and, if_neg Bool.false_ne_true, if_neg Bool.false_ne_true, Bool.not_true, if_neg Bool.false_ne_true, hcfg]
  refine if_neg ?_
  rintro ⟨hc, hb⟩
  rcases hesc with h | h
  · exact hc h
  · exact Bool.false_ne_true (h.symm.trans hb)
end

/-- A transfer of one occurrence toward the AON clock (R424). -/
theorem exec_transferAon {s : State} {c : Dom} {o : Occ} (hs : s.m.test.scan = false) (hf : s.m.clk.fstop = false)
    (ha : s.m.clk.astop = false) (hup : s.m.pwr.aonUp = true) (hfly : (Tab.get dChan s.m.flt.chans c).fly = [o])
    (hovf : (Tab.get dChan s.m.flt.chans c).flyOvf = false) : exec (.eventChannelTransfer true c) s = .next { s with
      m := (s.m.modFlt (fun f => { f with chans := Tab.set dChan f.chans c (Tab.get dChan s.m.flt.chans c).next })).recordOcc c o } := by
  change execEventChannelTransfer true c s = _
  rw [execEventChannelTransfer, State.on_eq hs]
  dsimp only
  rw [hf, ha, hup, hfly, hovf]
  rfl

/-- A record that is held is listed. -/
theorem Mach.mem_recs {m : Mach} {i : Nat} {r : FRec} (h : m.frec i = some r) : (i, some r) ∈ m.flt.recs := by
  have := Tab.get_key (d := dNone) (P := fun k v => v = none ∨ (k, v) ∈ m.flt.recs) (t := m.flt.recs) (fun _ => .inl rfl)
    (fun p hp => .inr hp) i
  rw [show Tab.get dNone m.flt.recs i = some r from h] at this
  exact this.resolve_left (Option.some_ne_none r)

/-- Settles O50: FLT.CLR, the occurrences that arrive, and DWN_ERR_N. -/
theorem faultRecords : Obligations.FaultRecords := by
  refine ⟨?_, ?_⟩
  · intro s e w c o i r x k gone ch sum ready took
    have hk' : (((s.m.issued e w).eng e).reg (wA w)).toNat = k := congrArg BitVec.toNat (s.m.reg_eng_issued e w _)
    have hclk : (s.m.issued e w).clk.astop = s.m.clk.astop := congrArg Clocks.astop (s.m.clk_issued e w)
    have hat (i : Nat) : (s.m.issued e w).frec i = (s.m.readPc e).frec i := s.m.frec_issued e w i
    have hpers (r : FRec) : (s.m.issued e w).persists r = (s.m.readPc e).persists r := s.m.persists_issued e w r
    have hone (he : e.val = 0) (hrun : s.m.clk.astop = false) (act : Mach → Mach) : (s.m.issued e w).fltOp e act = act (s.m.issued e w) :=
      Mach.fltOp_acts he (hclk.trans hrun) act
    have hexec (hr : ready) : exec (.eventChannelTransfer true c) s = .next { s with m := took.recordOcc c o } := by
      obtain ⟨hs, hf, ha, hup, hfly, hovf⟩ := hr
      exact exec_transferAon hs hf ha hup hfly hovf
    refine ⟨fun h he h42 => ?_, fun h he h42 => ?_, fun h he h42 hstop => ?_, fun h he h42 hrun => ⟨fun hbad => ?_, fun hlt hr hp => ?_, fun hlt hr hp => ?_⟩,
      fun h he h42 hrun => ⟨fun hall => ?_, fun _ hi hr hp => ?_⟩, fun hready hi hr hsame hlow => ?_,
      fun hready hi hfree hno hlow hpulse hesc hsafe hoff hroom => ?_, fun hready hi hfree hno hsafe hcause => ?_, fun hready hall => ?_,
      fun hs hwait => ?_⟩
    · refine Does.issue rfl h (by rw [h42]; rfl) ?_
      rw [← Mach.issued, Mach.fltOp_denied he]
      exact .refl _
    · refine Does.issue rfl h h42 ?_
      rw [← Mach.issued, Mach.fltOp_denied he]
      exact .refl _
    · refine DoesAt.issue rfl h (by rw [h42]; rfl) (fun b hb hbeq => ?_)
      obtain rfl : b = s.m.issued e w := hbeq
      rw [Mach.fltOp_waits he (hclk.trans hstop)]
      exact hb.setWait _
    · refine Does.issue rfl h (by rw [h42]; rfl) ?_
      rw [← Mach.issued, hone he hrun, hk']
      have hnone : (if k < 64 then (s.m.issued e w).frec k else none) = none := by
        rcases hbad with hge | hnone
        · exact if_neg (by omega)
        · rw [hat, hnone, ite_self]
      rw [Mach.clearOne, hnone]
      exact .refl _
    · refine Does.issue rfl h (by rw [h42]; rfl) ?_
      rw [← Mach.issued, hone he hrun, hk']
      rw [Mach.clearOne, if_pos hlt, hat, hr]
      dsimp only
      rw [hpers, hp]
      exact .refl _
    · refine DoesAt.issue rfl h (by rw [h42]; rfl) (fun b hb hbeq => ?_)
      obtain rfl : b = s.m.issued e w := hbeq
      rw [hone he hrun, hk', Mach.clearOne, if_pos hlt, hat, hr]
      dsimp only
      rw [hpers, hp, if_neg Bool.false_ne_true]
      exact (hb.modFlt _).done 0 []
    · refine DoesAt.issue rfl h h42 (fun b hb hbeq => ?_)
      obtain rfl : b = s.m.issued e w := hbeq
      have hcl : (s.m.issued e w).cleared = (s.m.issued e w).modFlt (fun f => { f with recs := [] }) :=
        Mach.cleared_of_none (fun p hp r hr => by
          rw [Mach.flt_issued] at hp
          exact (hpers r).trans (hall p hp r hr))
      rw [hone he hrun, Mach.clearAll_eq, hcl]
      exact (hb.modFlt _).done 0 []
    · obtain ⟨hst, hfrec⟩ := Mach.clearAll_state (m := s.m.issued e w) e ((hat i).trans hr) ((hpers r).trans hp)
      rw [Mach.kept_issued] at hfrec
      refine ⟨{ s with m := (s.m.issued e w).clearAll e }, ?_, hst, fun j => (hfrec j).trans (congrArg _ (hat j))⟩
      rw [← hone he hrun (fun m => m.clearAll e)]
      change execFltClrAll e s = _
      rw [execFltClrAll, State.on_eq h.1, Mach.issue_word h h42]
      rfl
    · refine Does.of_exec ((hexec hready).trans ?_)
      rw [Mach.recordOcc_counts (m := took) hready.2.2.2.1 hi hr hsame hlow]
      rfl
    · refine Does.of_exec ((hexec hready).trans ?_)
      rw [Mach.recordOcc_takes (m := took) hready.2.2.2.1 hno hi hfree hlow hsafe hpulse (hesc.imp_left id)]
      have hroom' : (((took.seen c).setFrec i (some ⟨c, { o with n := min 255 o.n }, BitVec.ofNat 64 took.ftNs⟩)).eng 0).evq.length < 32 := hroom
      rw [Mach.postEvt_queued (m := (took.seen c).setFrec i _) hoff hroom']
      rfl
    · refine Does.of_exec ((hexec hready).trans ?_)
      rw [Mach.recordOcc_parity (m := took) hready.2.2.2.1 hno hi hfree hsafe hcause]
      rfl
    · refine Does.of_exec ((hexec hready).trans ?_)
      rw [Mach.recordOcc_lost (m := took) hready.2.2.2.1 (fun j q hj hq => ?_) (fun j hj => ?_)]
      · rfl
      · obtain ⟨q', hq', hne⟩ := hall j hj
        obtain rfl : q' = q := Option.some.inj (hq'.symm.trans hq)
        exact hne
      · obtain ⟨q, hq, -⟩ := hall j hj
        exact ne_of_eq_of_ne hq (Option.some_ne_none q)
    · refine Does.of_exec ?_
      change execEventChannelTransfer true c s = _
      rw [execEventChannelTransfer, State.on_eq hs]
      refine congrArg (fun a => Host.Outcome.next { s with m := a }) ?_
      dsimp only
      by_cases hw : (s.m.clk.fstop || s.m.clk.astop || !s.m.pwr.aonUp) = true
      · rw [if_pos hw]
      · have hfly : (Tab.get dChan s.m.flt.chans c).fly = [] := by
          refine hwait.resolve_right fun h => hw ?_
          rcases h with h | h | h <;> rw [h]
          · rfl
          · rw [Bool.or_true]; rfl
          · exact Bool.or_true _
        rw [if_neg hw, if_pos rfl, hfly]
        rfl
  · intro s i r m
    have hmodes (hup : m.pwr.aonUp = true) (hs : m.safe = false) : m.errPin =
        if m.pulseMode then !m.flt.pulse && !bt (m.reg aFltErr) 0 else !m.flt.recs.any (fun e => e.2.any (fun r => m.errMask r.cls)) := by
      rw [Mach.errPin, hup, hs]
      rfl
    refine ⟨fun h => ?_, fun h => ?_, fun hup hs hmode hr hmask => ?_, fun hup hs hmode hno => ?_, fun hup hs hmode hp => ?_,
      fun hup hs hmode hp => ?_, fun hs => Does.on (f := fun m => m.modFlt (fun f => { f with pulse := false })) rfl hs (.refl _)⟩
    · rw [Mach.errPin, h]; rfl
    · rw [Mach.errPin, h, Bool.or_true]; rfl
    · rw [hmodes hup hs, show m.pulseMode = false from hmode, if_neg Bool.false_ne_true, Bool.not_eq_false', List.any_eq_true]
      refine ⟨(i, some r), Mach.mem_recs hr, ?_⟩
      exact hmask
    · rw [hmodes hup hs, show m.pulseMode = false from hmode, if_neg Bool.false_ne_true, Bool.not_eq_true', List.any_eq_false]
      intro p hp
      cases hq : p.2 with
      | none => exact Bool.false_ne_true
      | some q => exact Bool.eq_false_iff.1 (hno p hp q hq)
    · rw [hmodes hup hs, show m.pulseMode = true from hmode, if_pos rfl, hp]
      rfl
    · rw [hmodes hup hs, show m.pulseMode = true from hmode, if_pos rfl, hp]
      rfl

end Sys2Proof.Machine

/-! PROOFS. Shared-port arbitration (O54). -/

namespace Sys2Proof.Machine

/-! ## The weighted selection -/

/-- The better of two places, the earlier one where they are as good. -/
def better (sc : List Int) (b : Option Nat) (i : Nat) : Option Nat :=
  match b with
  | none => some i
  | some j => if sc.getD j 0 < sc.getD i 0 then some i else b

theorem foldl_better_mem (sc : List Int) (l : List Nat) (b : Option Nat) {v : Nat} (h : l.foldl (better sc) b = some v) :
    v ∈ l ∨ b = some v := by
  induction l generalizing b with
  | nil => exact .inr h
  | cons i l ih =>
    rcases ih _ h with hv | hv
    · exact .inl (List.mem_cons_of_mem _ hv)
    · unfold better at hv
      split at hv
      · exact .inl (by simp [Option.some.inj hv])
      · split at hv
        · exact .inl (by simp [Option.some.inj hv])
        · exact .inr hv

theorem spSelect_eq (scores : List Int) (wts : BitVec 16) (cand : List Nat) :
    (spSelect scores wts cand).2 = cand.foldl (better ((List.range 4).map (fun i => (scores.getD i 0) +
      (if cand.contains i then (spWeight wts i : Int) else 0)))) none := by
  unfold spSelect
  dsimp only
  rw [← show better ((List.range 4).map (fun i => (scores.getD i 0) + (if cand.contains i then (spWeight wts i : Int) else 0))) = _ from rfl]
  split
  · next h => exact h.symm
  · next h => exact h.symm

/-- The winner is a candidate (R88). -/
theorem spSelect_mem {scores : List Int} {wts : BitVec 16} {cand : List Nat} {v : Nat} (h : (spSelect scores wts cand).2 = some v) :
    v ∈ cand := by
  rw [spSelect_eq] at h
  exact (foldl_better_mem _ _ _ h).resolve_right nofun

/-! ## Grants -/

/-- Whether the grant may pass at the end of this port cycle (R87, R91). -/
def Mach.handover (m : Mach) (n : Nat) (req : BitVec 4) : Bool :=
  let x := m.niu n
  match lowest (fun i => bt x.gnt i) 4 with
  | none => true
  | some i =>
    let others := (List.range 4).any (fun i => bt req i && !bt x.gnt i)
    if m.beatNow n then x.beatEnd && (!bt req i || (decide (m.spBurst n ≤ x.burst) && others)) else !bt req i && others

/-- The weights in force at a change of the grant, and the scores. -/
def Mach.spWeights (m : Mach) (n : Nat) : BitVec 16 :=
  if (m.niu n).scores.isEmpty then BitVec.ofNat 16 (m.fld (aPort n 0x10) 0 16) else (m.niu n).wts
def Niu.spScores (x : Niu) : List Int := if x.scores.isEmpty then [0, 0, 0, 0] else x.scores

/-- The sub-endpoints that the grant may pass to. -/
def Mach.spCand (m : Mach) (n : Nat) (req : BitVec 4) : List Nat :=
  (List.range 4).filter (fun i => bt req i && !bt (m.niu n).gnt i && decide (spWeight (m.spWeights n) i ≠ 0))

/-- The requests are taken, and the grant stays. -/
def Mach.spAsk (m : Mach) (n : Nat) (req : BitVec 4) : Mach := m.modNiu n (fun x => { x with spReq := req })

/-- The grant after a change of the requests (R87, R88, R91). -/
def Mach.spGrant (m : Mach) (n : Nat) (req : BitVec 4) : Mach :=
  let x := m.niu n
  if !x.spEn || !x.runs then m.spAsk n req
  else if m.spFreeze n then m.modNiu n (fun y => { y with spReq := req, gnt := if x.unit.isNone && (!m.beatNow n || x.beatEnd) then 0 else y.gnt })
  else if x.unit.isSome || !m.handover n req then m.spAsk n req
  else
    match spSelect x.spScores (m.spWeights n) (m.spCand n req) with
    | (_, none) => m.spAsk n req
    | (sc, some w) =>
      m.modNiu n (fun y => { y with spReq := req, scores := sc, wts := m.spWeights n, gnt := BitVec.ofNat 4 (2 ^ w), burst := 0, beatAt := some m.clk.cyc, beatEnd := false })

theorem exec_spGrantChange {s : State} (hs : s.m.test.scan = false) (ep : Ep) (req : BitVec 4) :
    exec (.spGrantChange ep req) s = .next { s with m := s.m.spGrant ep req } := by
  change execSpGrantChange ep req s = _
  rw [execSpGrantChange, State.on_eq hs]
  rfl

section
variable {m : Mach} {n : Nat} (req : BitVec 4)

theorem Mach.spGrant_off (h : (m.niu n).spEn = false ∨ (m.niu n).runs = false) : m.spGrant n req = m.spAsk n req := by
  unfold Mach.spGrant
  dsimp only
  rcases h with h | h
  · rw [h]; rfl
  · rw [h, Bool.not_false, Bool.or_true]; rfl

theorem Mach.niu_spGrant (m : Mach) (n : Nat) (req : BitVec 4) :
    ((m.spGrant n req).niu n).spReq = req ∧ ∀ j, j ≠ n → (m.spGrant n req).niu j = m.niu j := by
  have hmod (f : Niu → Niu) (hf : (f (m.niu n)).spReq = req) :
      ((m.modNiu n f).niu n).spReq = req ∧ ∀ j, j ≠ n → (m.modNiu n f).niu j = m.niu j :=
    ⟨by rw [Mach.niu_modNiu]; exact hf, fun j hj => m.niu_modNiu_ne f hj⟩
  unfold Mach.spGrant
  dsimp only
  split
  · exact hmod _ rfl
  split
  · exact hmod _ rfl
  split
  · exact hmod _ rfl
  split
  · exact hmod _ rfl
  · exact hmod _ rfl

variable (hen : (m.niu n).spEn = true) (hrun : (m.niu n).runs = true)
include hen hrun

/-- Under FREEZE the grant goes to none at the end of a unit, or where no beat is offered (R91). -/
theorem Mach.spGrant_frozen (hf : m.spFreeze n = true) : m.spGrant n req = m.modNiu n (fun y =>
    { y with spReq := req, gnt := if (m.niu n).unit.isNone && (!m.beatNow n || (m.niu n).beatEnd) then 0 else y.gnt }) := by
  unfold Mach.spGrant
  dsimp only
  rw [hen, hrun, hf]
  rfl

theorem Mach.spGrant_keeps (hf : m.spFreeze n = false) (h : (m.niu n).unit ≠ none ∨ m.handover n req = false ∨ m.spCand n req = []) :
    m.spGrant n req = m.spAsk n req := by
  unfold Mach.spGrant
  dsimp only
  rw [hen, hrun, hf]
  refine (if_neg (by decide)).trans ((if_neg (by decide)).trans ?_)
  split
  · rfl
  · next hpass =>
    rw [Bool.or_eq_true, not_or, Bool.not_eq_true, Bool.not_eq_true, Bool.not_eq_false', Option.isSome_eq_false_iff, Option.isNone_iff_eq_none] at hpass
    obtain ⟨hunit, hhand⟩ := hpass
    rcases h with h | h | h
    · exact absurd hunit h
    · exact absurd (hhand.symm.trans h) (by decide)
    · rw [h]
      rfl

theorem Mach.spGrant_passes (hf : m.spFreeze n = false) (hunit : (m.niu n).unit = none) (hhand : m.handover n req = true) {sc : List Int}
    {w : Nat} (hsel : spSelect (m.niu n).spScores (m.spWeights n) (m.spCand n req) = (sc, some w)) : m.spGrant n req =
      m.modNiu n (fun y => { y with spReq := req, scores := sc, wts := m.spWeights n, gnt := BitVec.ofNat 4 (2 ^ w), burst := 0, beatAt := some m.clk.cyc, beatEnd := false }) := by
  unfold Mach.spGrant
  dsimp only
  rw [hen, hrun, hf, hunit, hhand, hsel]
  rfl
end

/-- One sub-endpoint at most is granted. -/
def Niu.oneGrant (x : Niu) : Prop := ∀ i j, bt x.gnt i = true → bt x.gnt j = true → i = j

/-- The owner requests: what any granted sub-endpoint says. -/
theorem Niu.any_granted {x : Niu} (h : x.oneGrant) {i : Nat} (hi : lowest (fun i => bt x.gnt i) 4 = some i) (req : BitVec 4) :
    (List.range 4).any (fun i => bt x.gnt i && bt req i) = bt req i := by
  obtain ⟨hg, hlt, -⟩ := lowest_eq_some.1 hi
  rw [Bool.eq_iff_iff, List.any_eq_true]
  constructor
  · rintro ⟨j, -, hj⟩
    rw [Bool.and_eq_true] at hj
    rw [h i j hg hj.1]
    exact hj.2
  · intro hreq
    exact ⟨i, List.mem_range.2 hlt, by rw [hg, hreq]; rfl⟩

theorem Niu.any_gnt (x : Niu) : (List.range 4).any (fun i => bt x.gnt i) = (lowest (fun i => bt x.gnt i) 4).isSome := by
  rw [Bool.eq_iff_iff, lowest, List.find?_isSome, List.any_eq_true]

/-- The grant may pass where there is no owner, at the end of the owner's last unit, and where the owner neither drives nor requests. -/
theorem Mach.handover_iff {m : Mach} {n : Nat} (h : (m.niu n).oneGrant) (req : BitVec 4) :
    let x := m.niu n
    let wants := (List.range 4).any (fun i => bt x.gnt i && bt req i)
    let others := (List.range 4).any (fun i => bt req i && !bt x.gnt i)
    m.handover n req = true ↔ (List.range 4).any (fun i => bt x.gnt i) = false ∨
      (m.beatNow n = true ∧ x.beatEnd = true ∧ (wants = false ∨ (m.spBurst n ≤ x.burst ∧ others = true))) ∨
      (m.beatNow n = false ∧ wants = false ∧ others = true) := by
  intro x wants others
  unfold Mach.handover
  dsimp only
  rw [Niu.any_gnt]
  cases hown : lowest (fun i => bt (m.niu n).gnt i) 4 with
  | none => simp
  | some i =>
    have hw : wants = bt req i := Niu.any_granted h hown req
    rw [hw]
    cases hb : m.beatNow n with
    | true => simp [x, others]
    | false => simp [x, others]

/-- Settles O54: the grant by what the port offers and requests, and the starved sub-endpoint. -/
theorem sharedPort : Obligations.SharedPort := by
  intro s ep req sub w sc n x cfg held wants others beats ends idles one keeps wts old cand q starved hs
  have hdoes {m : Mach} (h : s.m.spGrant n req = m) : Does (.spGrantChange ep req) s m := by
    subst h
    exact Does.of_exec (exec_spGrantChange hs ep req)
  have hsc : (s.m.niu n).spScores = old ∧ s.m.spWeights n = wts := by
    have h : (x.scores.isEmpty = true) = (x.scores = []) := propext List.isEmpty_iff
    exact ⟨by simp only [Niu.spScores, old, h, x], by simp only [Mach.spWeights, wts, h, x]⟩
  obtain ⟨hold, hwts⟩ := hsc
  have hcand : s.m.spCand n req = cand := by rw [Mach.spCand, hwts]
  refine ⟨fun h => hdoes (Mach.spGrant_off req h), ?_, fun hen hrun hf hu hb he => hdoes ?_, fun hen hrun hf hu hb => hdoes ?_, fun hen hrun hu => ?_,
    fun hen hrun hf hh hone hends hidles => hdoes ?_, fun hen hrun hf hu hone hpass hsel => hdoes ?_, fun hen hrun hf hc => hdoes ?_,
    fun hstarve hoff hroom => ?_, fun hno => ?_, fun v hv => spSelect_mem hv⟩
  · obtain ⟨hreq, hrest⟩ := s.m.niu_spGrant n req
    exact ⟨_, exec_spGrantChange hs ep req, hreq, hrest, rfl, rfl⟩
  · rw [Mach.spGrant_frozen req hen hrun hf, show (s.m.niu n).unit = none from hu, show s.m.beatNow n = true from hb,
      show (s.m.niu n).beatEnd = false from he]
    rfl
  · have hends : ((s.m.niu n).unit.isNone && (!s.m.beatNow n || (s.m.niu n).beatEnd)) = true := by
      rw [show (s.m.niu n).unit = none from hu]
      rcases hb with hb | he
      · rw [show s.m.beatNow n = false from hb]; rfl
      · rw [show (s.m.niu n).beatEnd = true from he, Bool.or_true]; rfl
    rw [Mach.spGrant_frozen req hen hrun hf, hends]
    rfl
  · cases hf : s.m.spFreeze n with
    | true =>
      refine hdoes ((Mach.spGrant_frozen req hen hrun hf).trans ?_)
      rw [Option.isNone_eq_false_iff.2 (Option.isSome_iff_ne_none.2 (show (s.m.niu n).unit ≠ none from hu))]
      rfl
    | false => exact hdoes (Mach.spGrant_keeps req hen hrun hf (.inl hu))
  · refine Mach.spGrant_keeps req hen hrun hf (.inr (.inl (Bool.eq_false_iff.2 fun hhand => ?_)))
    rcases (Mach.handover_iff hone req).1 hhand with h | h | h
    · exact Bool.false_ne_true (h.symm.trans hh)
    · exact hends h
    · exact hidles h
  · rw [← hold, ← hwts, ← hcand] at hsel
    rw [← hwts]
    exact Mach.spGrant_passes req hen hrun hf hu ((Mach.handover_iff hone req).2 hpass) hsel
  · exact Mach.spGrant_keeps req hen hrun hf (.inr (.inr (hcand.trans hc)))
  · refine Does.of_exec ?_
    change execStarveLimitReached ep sub s = _
    rw [execStarveLimitReached, State.on_eq hs]
    refine congrArg (fun a => Host.Outcome.next { s with m := a }) ((if_pos hstarve).trans ?_)
    have hlt := ep.isLt
    have hsub : 2 ^ sub.val < 2 ^ 16 := Nat.pow_lt_pow_right (by decide) (Nat.lt_of_lt_of_le sub.isLt (by decide))
    rw [Mach.postEvt_queued (m := s.m.orReg (aPort n 0x18) (2 ^ sub.val)) hoff hroom, evtRecord_eq _ (by decide) (by decide) hsub (by omega)]
    rw [Nat.zero_mul, Nat.zero_mul, Nat.zero_add]
    rfl
  · refine Does.of_exec ?_
    change execStarveLimitReached ep sub s = _
    rw [execStarveLimitReached, State.on_eq hs]
    exact congrArg (fun a => Host.Outcome.next { s with m := a }) (if_neg hno)

end Sys2Proof.Machine

/-! PROOFS. The mirror ring: MIR.CFG, captures and CONS (O49). -/

namespace Sys2Proof.Machine

/-! ## What shared operations leave -/

/-- A request of a service NIU changes that NIU alone. -/
theorem Mach.serviceReq_eq {m t : Mach} {q opc sub dst addr len : Nat} {flow : BitVec 16} {inl : BitVec 128} {data : List FlitBits}
    {own : Owner} (h : m.serviceReq q opc sub dst addr len flow inl data own = some t) : ∃ f, t = m.modNiu q f := by
  unfold Mach.serviceReq at h
  dsimp only at h
  split at h
  · cases h
  · split at h
    · cases h
    · exact ⟨_, (Option.some.inj h).symm⟩

theorem Mach.pumpMirror_leaves {γ : Type} {π : Mach → γ} (hniu : ∀ (m : Mach) n f, π (m.modNiu n f) = π m)
    (htele : ∀ (m : Mach) f, π (m.modTele f) = π m) (q k : Nat) (m : Mach) : π (m.pumpMirror q k) = π m := by
  induction k generalizing m with
  | zero => rfl
  | succ k ih =>
    unfold Mach.pumpMirror
    split
    · rfl
    · dsimp only
      split
      · rfl
      · next h =>
        obtain ⟨f, rfl⟩ := Mach.serviceReq_eq h
        exact (ih _).trans ((htele _ _).trans (hniu _ _ _))

/-! ## Configuration -/

/-- The words of a configuration's list. -/
theorem getD_map_range {α : Type} (d : Nat → α) (z : α) {i n : Nat} (h : i < n) : ((List.range n).map d).getD i z = d i := by
  simp [List.getD, h]

theorem Mach.configDone_mir {m : Mach} {e : Nat} (h : wOpc (m.eng e).insn = 0xC3) (ws : List Word) :
    m.configDone e ws = m.configMir (fun i => ws.getD i 0) := by
  unfold Mach.configDone
  rw [h]
  rfl

/-- The machine in which what the old ring still held is dropped (R444). -/
def Mach.ringDropped (m : Mach) : Mach :=
  [512, 513, 514, 515].foldl (fun m n => m.modNiu n (fun x => { x with pwb := Tab.mapv dNone (fun _ o => o.map (fun w => { w with owner := match w.owner with | .mirror i => .mirror (i + 2 ^ 21) | o => o })) x.pwb })) m

theorem Mach.configMir_eq (m : Mach) (d : Nat → Word) : m.configMir d =
    ((((m.ringDropped.setReg aMirCfg (d 0)).setReg aMirProd 0).setReg aMirDone 0).setReg aMirCons 0).modTele
      (fun t => { t with rules := (List.range 48).map (fun i => d (2 + i)), memEp := bf (d 1) 0 10, rcnt := [], mq := [], out := [] }) := rfl

theorem Mach.ringDropped_leaves {γ : Type} {π : Mach → γ} (h : ∀ (m : Mach) n f, (∀ x, (f x : Niu).inj = x.inj) → π (m.modNiu n f) = π m)
    (m : Mach) : π m.ringDropped = π m := foldl_keeps π _ _ _ (fun _ _ => h _ _ _ (fun _ => rfl))

/-- What a mirror configuration that comes into force leaves (R444). -/
theorem Mach.configMir_leaves (m : Mach) (d : Nat → Word) :
    let t := m.configMir d
    t.reg 0x480000 = d 0 ∧ t.reg 0x480008 = 0 ∧ t.reg 0x480010 = 0 ∧ t.reg 0x480018 = 0 ∧
    (∀ k, k ≠ 0x480000 → k ≠ 0x480008 → k ≠ 0x480010 → k ≠ 0x480018 → t.reg k = m.reg k) ∧
    (∀ j, t.eng j = m.eng j) ∧ (∀ j, (t.niu j).inj = (m.niu j).inj) := by
  have hreg (k : Nat) : m.ringDropped.reg k = m.reg k := Mach.ringDropped_leaves (π := fun m => m.reg k) (fun _ _ _ _ => rfl) m
  have heng (j : Nat) : m.ringDropped.eng j = m.eng j := Mach.ringDropped_leaves (π := fun m => m.eng j) (fun _ _ _ _ => rfl) m
  have hinj (j : Nat) : (m.ringDropped.niu j).inj = (m.niu j).inj := by
    refine Mach.ringDropped_leaves (π := fun m => (m.niu j).inj) (fun m n f hf => ?_) m
    by_cases hj : j = n
    · subst hj
      exact (congrArg Niu.inj (m.niu_modNiu j f)).trans (hf _)
    · exact congrArg Niu.inj (m.niu_modNiu_ne f hj)
  rw [Mach.configMir_eq]
  generalize m.ringDropped = a at hreg heng hinj
  simp only [Mach.reg_modTele, Mach.eng_modTele, Mach.eng_setReg, Mach.niu_modTele, Mach.niu_setReg, heng, hinj, implies_true, and_true]
  refine ⟨?_, ?_, ?_, Mach.reg_setReg _ _ _, fun k h0 h1 h2 h3 => ?_⟩
  · rw [Mach.reg_setReg_ne _ _ (by decide), Mach.reg_setReg_ne _ _ (by decide), Mach.reg_setReg_ne _ _ (by decide)]
    exact Mach.reg_setReg _ _ _
  · rw [Mach.reg_setReg_ne _ _ (by decide), Mach.reg_setReg_ne _ _ (by decide)]
    exact Mach.reg_setReg _ _ _
  · rw [Mach.reg_setReg_ne _ _ (by decide)]
    exact Mach.reg_setReg _ _ _
  · exact (Mach.reg_setReg_ne _ _ h3).trans ((Mach.reg_setReg_ne _ _ h2).trans ((Mach.reg_setReg_ne _ _ h1).trans
      ((Mach.reg_setReg_ne _ _ h0).trans (hreg k))))

/-! ## Captures -/

/-- A capture that finds room in the ring and in the queue takes the next index (R448). -/
theorem Mach.capture_takes {m : Mach} {tile : Nat} (r pt out vc : Nat) (hd : FlitBits)
    (hroom : ¬ (bt (m.reg aMirCfg) 62 = false ∧ 2 ^ bf (m.reg aMirCfg) 57 5 ≤ (m.fld aMirProd 0 21 + 2 ^ 21 - m.fld aMirCons 0 21) % 2 ^ 21))
    (hq : (Tab.get dNil m.tele.mq (quadOf tile)).length < 64) :
    (m.capture tile r pt out vc hd).fld aMirProd 0 21 = (m.fld aMirProd 0 21 + 1) % 2 ^ 21 := by
  unfold Mach.capture
  dsimp only
  rw [if_neg hroom, if_neg (by omega)]
  refine (Mach.pumpMirror_leaves (π := fun m => m.fld aMirProd 0 21) (fun _ _ _ => rfl) (fun _ _ => rfl) _ 64 _).trans ?_
  rw [Mach.mirDone, Mach.setFld, Mach.fld, Mach.reg_setReg_ne _ _ (by decide), Mach.reg_modTele, Mach.setFld, Mach.reg_setReg,
    bf_sf _ (by decide), Nat.mod_mod]

/-- The words of a descriptor have been read (R313, R340). -/
theorem Mach.readWords_issued (m : Mach) (e : EngId) (w : Word) (a n : Nat) :
    ((m.issued e w).readWords e a n).LikeAt e { m.eng e with insn := w } ((m.readPc e).readWords e a n) := by
  have h := (Mach.LikeAt.refl (m.readPc e) e).mod (fun x => { x with insn := w })
  rw [Mach.eng_readPc] at h
  exact h.readWords (by rw [Mach.eng_readPc]) a n

theorem Mach.LikeAt.like_modEng {a m : Mach} {e : Nat} {x : Eng} {f : Eng → Eng} (h : a.LikeAt e x m) (hf : f (m.eng e) = x) :
    a.Like (m.modEng e f) := by
  subst hf
  rwa [Mach.LikeAt, Mach.modEng_congr (f := fun _ => f (m.eng e)) (g := f) rfl] at h

/-- A write of CONS above DONE is taken as DONE (R449). -/
theorem Mach.writeCons_eq {m : Mach} (hm : m.hasMirror = true) (v : Word) : m.writeCons v = m.setFld aMirCons 0 21
    (if (m.fld 0x480010 0 21 + 2 ^ 21 - m.fld 0x480018 0 21) % 2 ^ 21 < (bf v 0 21 + 2 ^ 21 - m.fld 0x480018 0 21) % 2 ^ 21
      then m.fld 0x480010 0 21 else bf v 0 21) := by
  rw [Mach.writeCons, hm]
  rfl

/-- Settles O49: the configuration, CONS, and captures. -/
theorem mirrorRing : Obligations.MirrorRing := by
  intro s e w v mid tile r pt out vc hd d gone read done cons prod size room
  have hmir : (s.m.issued e w).hasMirror = s.m.hasMirror := by rw [Mach.issued_eq]; rfl
  have hdesc : (s.m.issued e w).descWord e w = d := s.m.descWord_issued e w
  have hfull : ¬ room ↔ bt (s.m.reg aMirCfg) 62 = false ∧ 2 ^ size ≤ (prod + 2 ^ 21 - cons) % 2 ^ 21 := by
    rw [← Bool.not_eq_true, ← Nat.not_lt]
    exact not_or
  refine ⟨fun h hal hm he => ?_, fun h hm => ?_, fun h hm he => ?_, fun h hal hm he hr => ?_, fun h hal hm he hr => ?_, fun hop => ?_,
    fun ht hm hle => ?_, fun ht hm hlt => ?_, fun ht hm => ?_, fun hroom => ?_, fun hroom hq => ?_, fun hroom hq => ?_⟩
  · refine Does.row rfl h ?_
    rw [hmir, hm, decide_eq_true he, Bool.not_true, Mach.status_free, Mach.sadr, if_pos hal]
    rfl
  · refine Does.row rfl h ?_
    rw [hmir, hm]
    rfl
  · refine Does.row rfl h ?_
    rw [hmir, hm, decide_eq_false he]
    rfl
  · refine Does.issue rfl h rfl ?_
    rw [← Mach.issued, hmir, hm, decide_eq_true he, Bool.not_true, Mach.status_free, Mach.sadr, if_neg (by omega)]
    rw [hdesc, if_pos hr]
    refine ((s.m.readWords_issued e w _ 50).like_modEng ?_).endStatus e 3 []
    rw [Mach.eng_readWords, Mach.eng_readPc]
  · refine DoesAt.issue rfl h rfl (fun b _ hb => ?_)
    obtain rfl : b = s.m.issued e w := hb
    rw [hmir, hm, decide_eq_true he, Bool.not_true, Mach.status_free, Mach.sadr, if_neg (by omega), hdesc, hr]
    exact (s.m.readWords_issued e w _ 50).mod _
  · obtain ⟨h0, h1, h2, h3, hreg, heng, hinj⟩ := s.m.configMir_leaves (fun i => ((List.range 50).map d).getD i 0)
    have hd (i : Nat) (hi : i < 50) : ((List.range 50).map d).getD i 0 = d i := getD_map_range d 0 hi
    have hconf : s.m.configDone e ((List.range 50).map d) = s.m.configMir (fun i => ((List.range 50).map d).getD i 0) :=
      Mach.configDone_mir hop _
    intro t
    rw [show t = s.m.configMir (fun i => ((List.range 50).map d).getD i 0) from hconf]
    refine ⟨h0.trans (hd 0 (by decide)), h1, h2, h3, congrArg (fun x => bf x 0 10) (hd 1 (by decide)), fun i hi => ?_, rfl, hreg, heng, hinj⟩
    exact (getD_map_range (fun i => ((List.range 50).map d).getD (2 + i) 0) 0 hi).trans (hd (2 + i) (by omega))
  · refine Does.hostWrite_far (exec_mirConsWrite v true mid s) ht rfl ?_
    rw [Mach.writeCons_eq hm, if_neg (Nat.not_lt.2 hle)]
    exact .refl _
  · refine Does.hostWrite_far (exec_mirConsWrite v true mid s) ht rfl ?_
    rw [Mach.writeCons_eq hm, if_pos hlt]
    exact .refl _
  · refine Does.hostWrite_far (exec_mirConsWrite v true mid s) ht rfl ?_
    rw [Mach.writeCons, hm]
    exact .refl _
  · rw [Mach.capture]
    exact if_pos (hfull.1 hroom)
  · rw [Mach.capture]
    exact (if_neg (mt hfull.2 (not_not_intro hroom))).trans (if_pos hq)
  · exact Mach.capture_takes r pt out vc hd (mt hfull.2 (not_not_intro hroom)) hq

end Sys2Proof.Machine

/-! PROOFS. The frame of the flow operations: what the requests of service NIUs, the flow cache and the flow-miss queue leave as it is. A
projection of the machine that satisfies `FlowFrame` is left alone by all of them. -/

namespace Sys2Proof.Machine

/-- An NIU without what the flow operations change: its requests, packets, trackers, flow cache and the places they take. -/
def Niu.outer (x : Niu) : Niu :=
  { x with uidNext := 0, accNext := 0, reqs := [], inj := [], rsv := [], pwb := [], trk := [], rspq := [], msgIds := [], fc := [], fills := [], ej := [], ejHd := [], eoPend := [], eoDone := [], rxBad := [], missEj := 0, heldEj := 0, marks := [], unc := [] }

/-- The registers the flow operations write: marks and counts of the schedulers, counts and discards of the ports. -/
def flowReg (a : Nat) : Prop := ∃ n, a = aSch n 0x08 ∨ a = aSch n 0x20 ∨ a = aNiu n 0x38

/-- What a projection must stand for the flow operations to leave it alone. -/
structure FlowFrame {γ : Type} (π : Mach → γ) : Prop where
  niu  : ∀ (m : Mach) n f, (∀ x, (f x : Niu).outer = x.outer) → π (m.modNiu n f) = π m
  done : ∀ (m : Mach) w st, π (m.finish w st) = π m
  reg  : ∀ (m : Mach) a w, flowReg a → π (m.setReg a w) = π m
  like : ∀ a m : Mach, a.Like m → π a = π m
  twin : ∀ (m : Mach) f, π (m.modTwin f) = π m
  free : ∀ (m : Mach) k, π { m with frees := k } = π m

theorem Niu.outer_takeEj (x : Niu) (vc : Option Nat) : (x.takeEj vc).outer = x.outer := by cases vc <;> rfl

theorem Niu.outer_rxMark (x : Niu) (f seq : BitVec 16) (err : Bool) : (x.rxMark f seq err).outer = x.outer := by
  unfold Niu.rxMark
  split
  · rfl
  · dsimp only
    split <;> rfl

theorem Niu.outer_makeMarks (x : Niu) (f : BitVec 16) : (x.makeMarks f).outer = x.outer := by
  unfold Niu.makeMarks
  dsimp only
  exact foldl_keeps Niu.outer _ _ x (fun x k => x.outer_rxMark f k.2.1 k.2.2)

theorem Niu.outer_modTrk (x : Niu) (k : Nat) (f : Trk → Trk) : (x.modTrk k f).outer = x.outer := rfl
theorem Niu.outer_modPwb (x : Niu) (k : Nat) (f : Pwb → Pwb) : (x.modPwb k f).outer = x.outer := rfl
theorem Niu.outer_touched (x : Niu) (f : BitVec 16) (g : FcE → FcE) : ((x.touch f).modEntry f g).outer = x.outer := rfl

/-- A tracker or buffer entry, after its flow's entry has become the most recently used. -/
theorem Niu.outer_ite (b : Bool) (x : Niu) (f : BitVec 16) (g : FcE → FcE) (k : Nat) (u : Pwb → Pwb) (v : Trk → Trk) :
    (if b then ((x.touch f).modEntry f g).modPwb k u else ((x.touch f).modEntry f g).modTrk k v).outer = x.outer := by
  split
  · exact (Niu.outer_modPwb _ _ _).trans (x.outer_touched f g)
  · exact (Niu.outer_modTrk _ _ _).trans (x.outer_touched f g)

/-- Beats, place in the flow-miss queue and open message of a request are gone. -/
def Niu.dropUid (uid : Nat) (x : Niu) : Niu :=
  { x with ingress := x.ingress.filter (fun b => b.uid ≠ uid), reqs := x.reqs.filter (fun r => r.uid ≠ uid), opens := x.opens.filter (fun u => u.uid ≠ uid) }

/-- The TAG or buffer entry of a request that has been forgotten is freed, or waits for its closing packet. -/
def Mach.forgotten (m : Mach) (n uid : Nat) : Mach :=
  match lowest (fun k => (Tab.get dNone (m.niu n).trk k).any (fun t => t.uid == uid)) 256 with
  | some k =>
    match Tab.get dNone (m.niu n).trk k with
    | none => m
    | some t =>
      if t.seqs.isEmpty then m.modNiu n (fun x => x.freeTrk k)
      else (m.modNiu n (fun x => x.modTrk k (fun t => { t with dead := true, close := true, ans := false, hold := none }))).pumpClose n
  | none =>
    match lowest (fun k => (Tab.get dNone (m.niu n).pwb k).any (fun w => w.uid == uid)) 16 with
    | some k => m.modNiu n (fun x => x.freePwb k)
    | none => m

namespace FlowFrame
variable {γ : Type} {π : Mach → γ} (h : FlowFrame π) {m : Mach} {v : γ}
include h

theorem mod {n : Nat} {f : Niu → Niu} (hf : ∀ x, (f x).outer = x.outer) (hm : π m = v) : π (m.modNiu n f) = v := (h.niu m n f hf).trans hm

theorem mod_ite {b : Prop} [Decidable b] {n : Nat} {f : Niu → Niu} (hf : ∀ x, (f x).outer = x.outer) (hm : π m = v) :
    π (if b then m.modNiu n f else m) = v := by
  split
  · exact h.mod hf hm
  · exact hm

theorem wrp (n : Nat) (w : Word) (hm : π m = v) : π (m.setReg (aSch n 0x08) w) = v := (h.reg _ _ _ ⟨n, .inl rfl⟩).trans hm
theorem mark (n : Nat) (w : Word) (hm : π m = v) : π (m.setReg (aSch n 0x20) w) = v := (h.reg _ _ _ ⟨n, .inr (.inl rfl)⟩).trans hm
theorem drops (n : Nat) (w : Word) (hm : π m = v) : π (m.setReg (aNiu n 0x38) w) = v := (h.reg _ _ _ ⟨n, .inr (.inr rfl)⟩).trans hm

theorem count (m : Mach) (n code : Nat) (sel tc : Option Nat) (k : Nat) (hd : FlitBits) : π (m.countNiu n code sel tc k hd) = π m := by
  unfold Mach.countNiu
  split
  · exact h.like _ _ (m.like_count (by simp only [ctrNiu]; omega) _ _ _ _ _)
  · rfl

theorem serviceReq {t : Mach} {q opc sub dst addr len : Nat} {flow : BitVec 16} {inl : BitVec 128} {data : List FlitBits}
    {own : Owner} (hreq : m.serviceReq q opc sub dst addr len flow inl data own = some t) : π t = π m := by
  unfold Mach.serviceReq at hreq
  dsimp only at hreq
  split at hreq
  · cases hreq
  · split at hreq
    · cases hreq
    · obtain rfl := Option.some.inj hreq
      refine h.niu _ _ _ (fun x => ?_)
      split <;> rfl

/-! ## Answers at a source -/

theorem retireRec (m : Mach) (n : Nat) (f : BitVec 16) (seqs : List (BitVec 16)) : π (m.retireRec n f seqs) = π m := by
  refine foldl_keeps π _ _ _ (fun m q => ?_)
  unfold Mach.mirrorRec
  split
  · unfold Mach.pushRec
    dsimp only
    exact h.twin m _
  · rfl

theorem answeredEo (m : Mach) (n : Nat) (f : BitVec 16) (seqs : List (BitVec 16)) : π (m.answeredEo n f seqs) = π m := by
  unfold Mach.answeredEo
  exact h.mod (fun _ => rfl) (h.retireRec _ _ _ _)

theorem freeUnheard (m : Mach) (n k : Nat) (t : Trk) : π (m.freeUnheard n k t) = π m := by
  unfold Mach.freeUnheard
  refine h.mod (fun _ => rfl) ?_
  split
  · exact h.answeredEo _ _ _ _
  · rfl

theorem rspCode (m : Mach) (opc : Nat) : π (m.rspCode opc).2 = π m := by
  unfold Mach.rspCode
  split
  · rfl
  · exact h.free _ _

theorem respond (m : Mach) (n k st size : Nat) (inl : BitVec 128) (data : List FlitBits) (vc : Option Nat) :
    π (m.respond n k st size inl data vc) = π m := by
  unfold Mach.respond
  split
  · rfl
  · split
    · exact h.mod (fun x => x.outer_takeEj vc) (h.freeUnheard _ _ _ _)
    · dsimp only
      refine h.mod (fun x => Niu.outer_takeEj (x.modTrk k _) _) ?_
      split
      · exact (h.answeredEo _ _ _ _).trans (h.rspCode _ _)
      · exact h.rspCode _ _

theorem srcAnswer (m : Mach) (n : Nat) (posted : Bool) (k st : Nat) : π (m.srcAnswer n posted k st) = π m := by
  unfold Mach.srcAnswer
  dsimp only
  split
  · split
    · rfl
    · split
      · exact h.mod (fun _ => rfl) rfl
      · split
        · exact h.drops _ _ (h.mod (fun _ => rfl) rfl)
        · exact h.drops _ _ (h.mod (fun _ => rfl) rfl)
  · split
    · rfl
    · split
      · exact h.freeUnheard _ _ _ _
      · split
        · exact h.mod (fun _ => rfl) rfl
        · exact h.respond _ _ _ _ _ _ _ _

/-! ## The flow cache -/

theorem writeBack {t : Mach} {n : Nat} {e : FcE} (hw : m.writeBack n e = some t) : π t = π m := by
  have hhalf {m t : Mach} {lo : Nat} (hm : (m.serviceReq (niuService n) opWRP 1 (bf m.tblRead 48 10)
      (bf m.tblRead 22 26 * 2 ^ 22 + 64 * e.flow.toNat + lo / 8) 32 0xFFFF 0 [BitVec.ofNat 512 (bf e.ent lo 256)] (.writeBack n e.flow)).map
        (fun m => m.addFld (aSch n 0x08) 0 16 1) = some t) : π t = π m := by
    obtain ⟨b, hb, rfl⟩ := Option.map_eq_some_iff.1 hm
    exact h.wrp _ _ (h.serviceReq hb)
  unfold Mach.writeBack at hw
  dsimp only at hw
  split at hw
  · obtain rfl := Option.some.inj hw; rfl
  · split at hw
    · cases hw
    · next b hb =>
      have h1 : π b = π m := by
        split at hb
        · exact hhalf hb
        · obtain rfl := Option.some.inj hb; rfl
      split at hw
      · exact (hhalf hw).trans h1
      · obtain rfl := Option.some.inj hw; exact h1

theorem makeRoom {t : Mach} {n : Nat} (hr : m.makeRoom n = some t) : π t = π m := by
  unfold Mach.makeRoom at hr
  dsimp only at hr
  split at hr
  · obtain rfl := Option.some.inj hr; rfl
  · split at hr
    · cases hr
    · obtain ⟨b, hb, rfl⟩ := Option.map_eq_some_iff.1 hr
      exact h.mod (fun _ => rfl) (h.writeBack hb)

theorem newEntry (m : Mach) (n : Nat) (e : FcE) : π (m.newEntry n e) = π m := by
  unfold Mach.newEntry
  exact (h.done _ _ _).trans (h.mod (fun x => Niu.outer_makeMarks { x with fc := x.fc ++ [e] } _) rfl)

theorem wantEntry (m : Mach) (n : Nat) (f : BitVec 16) : π (m.wantEntry n f) = π m := by
  have hwait (m : Mach) (b : Bool) : π (if b then m else m.orReg (aSch n 0x20) 2) = π m := by
    split
    · rfl
    · exact h.mark _ _ rfl
  unfold Mach.wantEntry
  dsimp only
  split
  · rfl
  split
  · split
    · exact hwait _ _
    · next hr => exact (h.newEntry _ _ _).trans (h.makeRoom hr)
  · split
    · exact hwait _ _
    · next hr =>
      split
      · rfl
      · next hs => exact (h.count _ _ _ _ _ _ _).trans (h.wrp _ _ (h.mod (fun _ => rfl) ((h.serviceReq hs).trans (h.makeRoom hr))))

/-! ## The flow-miss queue -/

theorem resubmit (m : Mach) (n : Nat) (b : BeatBits) : π (m.resubmit n b).2 = π m := by
  unfold Mach.resubmit
  dsimp only
  split
  · exact h.mod (fun _ => rfl) rfl
  · split
    · rfl
    · exact (h.count _ _ _ _ _ _ _).trans (h.mod (fun _ => rfl) rfl)

theorem startReq (m : Mach) (n : Nat) (r : Req) (e : FcE) : π (m.startReq n r e) = π m := by
  unfold Mach.startReq
  dsimp only
  split
  · refine (h.srcAnswer _ _ _ _ _).trans ?_
    refine h.mod (fun _ => rfl) ?_
    refine h.mod (fun x => x.outer_ite _ _ _ _ _ _) ?_
    split
    · exact h.mark _ _ rfl
    · rfl
  · unfold Mach.inject
    dsimp only
    refine h.mod_ite (fun _ => rfl) ?_
    refine h.mod (fun _ => rfl) ?_
    refine h.mod (fun _ => rfl) ?_
    refine h.mod (fun x => x.outer_ite _ _ _ _ _ _) ?_
    refine h.mod (fun _ => rfl) ?_
    refine h.mod_ite (fun _ => rfl) ?_
    exact h.resubmit _ _ _

theorem leaveMiss {t : Mach} {n : Nat} (hl : m.leaveMiss n = some t) : π t = π m := by
  unfold Mach.leaveMiss at hl
  obtain ⟨r, -, hr⟩ := List.exists_of_findSome?_eq_some hl
  dsimp only at hr
  split at hr
  · cases hr
  · split at hr
    · obtain rfl := Option.some.inj hr
      exact h.startReq _ _ _ _
    · split at hr
      · cases hr
      · split at hr
        · obtain rfl := Option.some.inj hr
          exact h.startReq _ _ _ _
        · cases hr

theorem advanceMiss (n k : Nat) (m : Mach) : π (m.advanceMiss n k) = π m := by
  induction k generalizing m with
  | zero => rfl
  | succ k ih =>
    have hwant (l : List (BitVec 16)) (m : Mach) : π (l.foldl (fun m f => m.wantEntry n f) m) = π m :=
      foldl_keeps π _ _ _ (fun m f => h.wantEntry m n f)
    have hreqs (l : List Req) (m : Mach) : π (l.foldl (fun m r => m.wantEntry n (qFlow r.hdr)) m) = π m :=
      foldl_keeps π _ _ _ (fun m r => h.wantEntry m n _)
    unfold Mach.advanceMiss
    dsimp only
    split
    · exact (hwant _ _).trans (hreqs _ _)
    · next hl => exact (ih _).trans ((h.leaveMiss hl).trans ((hwant _ _).trans (hreqs _ _)))

/-! ## Closing packets, copies and dropped entries -/

theorem pumpClose (m : Mach) (n : Nat) : π (m.pumpClose n) = π m := by
  unfold Mach.pumpClose
  refine foldl_keeps π _ _ _ (fun m q => ?_)
  split
  · exact h.wantEntry _ _ _
  · split
    · unfold Mach.closePacket
      exact h.mod (fun _ => rfl) rfl
    · rfl

theorem readCopy {t : Mach} {n : Nat} {f seq : BitVec 16} {e : FcE} (hr : m.readCopy n f seq e = some t) : π t = π m := by
  unfold Mach.readCopy at hr
  dsimp only at hr
  split at hr
  · cases hr
  · obtain rfl := Option.some.inj hr
    refine h.mod (fun _ => rfl) (foldl_keeps π _ _ _ (fun m g => ?_))
    cases hs : m.serviceReq (niuService n) opRD 1 (bf m.tblRead 48 10) (eReplay e.ent * 4096 + g.1) g.2 0xFFFF 0 [] (.replayRead n f seq) with
    | none => rfl
    | some b => exact h.serviceReq hs

theorem readCopies (n : Nat) (posted : Bool) (k : Nat) (f : BitVec 16) (e : FcE) (l : List (BitVec 16)) (m : Mach) :
    π (m.readCopies n posted k f e l) = π m := by
  induction l generalizing m with
  | nil => rfl
  | cons q l ih =>
    unfold Mach.readCopies
    split
    · rfl
    · next hr =>
      refine (ih _).trans (h.mod (fun x => ?_) (h.readCopy hr))
      split <;> rfl

theorem pumpReads (m : Mach) (n : Nat) : π (m.pumpReads n) = π m := by
  unfold Mach.pumpReads
  refine foldl_keeps π _ _ _ (fun m r => ?_)
  split
  · exact h.wantEntry _ _ _
  · exact h.readCopies _ _ _ _ _ _ _

theorem settleFlows (m : Mach) (n : Nat) : π (m.settleFlows n) = π m :=
  (h.pumpReads _ _).trans ((h.pumpClose _ _).trans (h.advanceMiss _ _ _))

theorem dropEntry (m : Mach) (n : Nat) (f : BitVec 16) : π (m.dropEntry n f) = π m := by
  unfold Mach.dropEntry
  dsimp only
  split
  · rfl
  · split
    · rfl
    · split
      · rfl
      · next e _ _ _ b hb =>
        have hb' : π b = π m := by
          split at hb
          · exact h.writeBack hb
          · obtain rfl := Option.some.inj hb; rfl
        split
        · exact h.mod (fun _ => rfl) hb'
        · split
          · exact (h.wantEntry _ _ _).trans (h.mod (fun _ => rfl) (h.mod (fun _ => rfl) hb'))
          · exact h.mod (fun _ => rfl) (h.mod (fun _ => rfl) hb')

theorem dropInj (m : Mach) (n : Nat) (out : InjP → Bool) : π (m.dropInj n out) = π m := by
  unfold Mach.dropInj
  exact h.mod (fun _ => rfl) (foldl_keeps π _ _ _ (fun m p => h.retireRec _ _ _ _))

/-- The end of an abandoned request, once its beats, its place in the flow-miss queue and its open message are gone. -/
theorem abandon (m : Mach) (n uid : Nat) :
    π (m.abandon n uid) = π ((m.dropInj n (fun p => p.uid == uid && !p.close)).modNiu n (Niu.dropUid uid)) := by
  change π (Mach.forgotten ((m.dropInj n (fun p => p.uid == uid && !p.close)).modNiu n (Niu.dropUid uid)) n uid) = _
  generalize Mach.modNiu _ n (Niu.dropUid uid) = b
  unfold Mach.forgotten
  split
  · split
    · rfl
    · split
      · exact h.mod (fun _ => rfl) rfl
      · exact (h.pumpClose _ _).trans (h.mod (fun _ => rfl) rfl)
  · split
    · exact h.mod (fun _ => rfl) rfl
    · rfl

/-- What neither the beats nor the messages of a request concern is left by its end. -/
theorem abandon_keeps {n uid : Nat} (hf : ∀ m : Mach, π (m.modNiu n (Niu.dropUid uid)) = π m) (m : Mach) : π (m.abandon n uid) = π m :=
  (h.abandon m n uid).trans ((hf _).trans (h.dropInj _ _ _))

end FlowFrame

/-! ## Projections -/

/-- A part of one NIU that the flow operations do not change. -/
theorem FlowFrame.ofNiu {β : Type} (k : Nat) (g : Niu → β) (hg : ∀ x y : Niu, x.outer = y.outer → g x = g y) :
    FlowFrame (fun m => g (m.niu k)) where
  niu m n f hf := by
    by_cases hk : k = n
    · subst hk
      exact (congrArg g (m.niu_modNiu k f)).trans (hg _ _ (hf _))
    · exact congrArg g (m.niu_modNiu_ne f hk)
  done m w st := by rw [Mach.finish_eq]; rfl
  reg _ _ _ _ := rfl
  like _ _ hl := congrArg g (hl.niu k)
  twin _ _ := rfl
  free _ _ := rfl

theorem FlowFrame.dom (d : Nat) : FlowFrame (fun m => m.dom d) where
  niu _ _ _ _ := rfl
  done m w st := by rw [Mach.finish_eq]; rfl
  reg _ _ _ _ := rfl
  like _ _ hl := hl.dom d
  twin _ _ := rfl
  free _ _ := rfl

theorem FlowFrame.keyReg {a : Nat} (hc : ctrAddr a = false) (ha : ¬ flowReg a) : FlowFrame (fun m => m.reg a) where
  niu _ _ _ _ := rfl
  done m w st := by rw [Mach.finish_eq]; rfl
  reg m b w hb := m.reg_setReg_ne w (fun h => ha (h ▸ hb))
  like _ _ hl := hl.reg a hc
  twin _ _ := rfl
  free _ _ := rfl

/-! ## Discarded units -/

/-- The unit a port is in the middle of, after another's or this one's has been discarded (R70). -/
theorem Mach.unit_discardUnit (m : Mach) (n k : Nat) : ((m.discardUnit n).niu k).unit = if k = n then none else (m.niu k).unit := by
  unfold Mach.discardUnit
  split
  · next hu =>
    split
    · next hk => rw [hk, hu]
    · rfl
  · next u hu =>
    rw [Mach.niu_addFld]
    split
    · next hk => rw [hk, Mach.niu_modNiu]
    · next hk =>
      rw [Mach.niu_modNiu_ne _ _ hk]
      exact (FlowFrame.ofNiu k Niu.unit (fun _ _ h => congrArg Niu.unit h :)).abandon_keeps
        (fun m => congrArg Niu.unit (m.niu_modNiu_ne (Niu.dropUid u.uid) hk)) m

theorem Mach.dom_discardUnit (m : Mach) (n d : Nat) : (m.discardUnit n).dom d = m.dom d := by
  unfold Mach.discardUnit
  split
  · rfl
  · rw [Mach.dom_addFld, Mach.dom_modNiu]
    exact (FlowFrame.dom d).abandon_keeps (fun _ => rfl) m

theorem Mach.discardUnit_of_none {m : Mach} {n : Nat} (h : (m.niu n).unit = none) : m.discardUnit n = m := by
  rw [Mach.discardUnit, h]

/-- The ports of tile `d` are in the middle of no unit (R83). -/
def Mach.idlePorts (m : Mach) (d : Nat) : Prop := d < 128 → ∀ n, n / 4 = d → (m.niu n).unit = none

theorem Mach.stopPorts_idle {m : Mach} {d : Nat} (h : m.idlePorts d) : m.stopPorts d = m := by
  unfold Mach.stopPorts
  split
  · next hd =>
    have hn (k : Nat) (hk : k < 4) : (m.niu (4 * d + k)).unit = none := h hd _ (by omega)
    have h0 : (m.niu (4 * d)).unit = none := h hd _ (by omega)
    simp only [List.foldl_cons, List.foldl_nil, Mach.discardUnit_of_none h0, Mach.discardUnit_of_none (hn 1 (by omega)),
      Mach.discardUnit_of_none (hn 2 (by omega)), Mach.discardUnit_of_none (hn 3 (by omega))]
  · rfl

theorem Mach.dom_stopPorts (m : Mach) (d k : Nat) : (m.stopPorts d).dom k = m.dom k := by
  unfold Mach.stopPorts
  split
  · exact foldl_keeps (fun m : Mach => m.dom k) _ _ _ (fun m n => m.dom_discardUnit n k)
  · rfl

/-- After their ports have stopped, those of a tile are in the middle of no unit (R83). -/
theorem Mach.idlePorts_stopPorts (m : Mach) (d : Nat) : (m.stopPorts d).idlePorts d := by
  intro hd n hn
  unfold Mach.stopPorts
  rw [if_pos hd]
  simp only [List.foldl_cons, List.foldl_nil, Mach.unit_discardUnit]
  have : n = 4 * d ∨ n = 4 * d + 1 ∨ n = 4 * d + 2 ∨ n = 4 * d + 3 := by omega
  rcases this with h | h | h | h <;> simp [h]

end Sys2Proof.Machine

/-! PROOFS. Feeds, warnings, power-good, current limits and measurements of a domain (O43). -/

namespace Sys2Proof.Machine

/-! ## Changes of one domain -/

theorem Mach.Like.modDom {a m : Mach} (h : a.Like m) (d : Nat) (f : PDom → PDom) : (a.modDom d f).Like (m.modDom d f) := by
  refine { h with dom := fun k => ?_, bare := h.bare }
  by_cases hk : k = d
  · subst hk
    rw [Mach.dom_modDom, Mach.dom_modDom, h.dom]
  · rw [Mach.dom_modDom_ne _ _ hk, Mach.dom_modDom_ne _ _ hk, h.dom]

/-- One change after another. -/
theorem Mach.modDom_modDom (m : Mach) (d : Nat) (f g : PDom → PDom) : ((m.modDom d f).modDom d g).Like (m.modDom d (fun y => g (f y))) := by
  refine { Mach.Like.refl m with dom := fun k => ?_, bare := rfl }
  by_cases hk : k = d
  · subst hk
    simp only [Mach.dom_modDom]
  · simp only [Mach.dom_modDom_ne _ _ hk]

theorem Mach.like_modDom_self {m : Mach} {d : Nat} {f : PDom → PDom} (h : f (m.dom d) = m.dom d) : (m.modDom d f).Like m := by
  refine { Mach.Like.refl m with dom := fun k => ?_, bare := rfl }
  by_cases hk : k = d
  · rw [hk, Mach.dom_modDom, h]
  · rw [Mach.dom_modDom_ne m f hk]

theorem Mach.modDom_congr {m : Mach} {d : Nat} {f g : PDom → PDom} (h : f (m.dom d) = g (m.dom d)) : m.modDom d f = m.modDom d g := by
  unfold Mach.modDom
  unfold Mach.dom at h
  unfold Tab.upd
  rw [h]

theorem ctrAddr_aDom (d : Dom) {o : Nat} (h : o < 0x40) : ctrAddr (aDom d o) = false := by
  have := d.isLt
  unfold ctrAddr aDom
  simp
  omega

theorem farAddr_aDom (d : Dom) {o : Nat} (h : o < 0x40) : farAddr (aDom d o) = true := by
  have := d.isLt
  unfold farAddr aDom
  simp
  omega

/-! ## Feeds -/

/-- The nominal voltage (R369). -/
theorem Mach.nomMv_eq (m : Mach) : m.nomMv = (match m.fld 0xC4008 16 2 with | 1 => 700 | 2 => 600 | _ => 800) := by
  unfold Mach.nomMv
  generalize m.fld 0xC4008 16 2 = c
  rcases c with _ | _ | _ | c <;> rfl

/-- What the measurement of a feed's voltage leaves (R369). -/
def Mach.heard (m : Mach) (k u : Nat) : Mach :=
  m.modPwr (fun p =>
    if k = 1 then { p with volA := u, feedA := p.feedA && decide (97 * m.nomMv ≤ 400 * u) }
    else { p with volB := u, feedB := p.feedB && decide (97 * m.nomMv ≤ 400 * u) })

theorem Mach.dom_heard (m : Mach) (k u d : Nat) : (m.heard k u).dom d = m.dom d := by
  unfold Mach.heard Mach.modPwr Mach.dom
  dsimp only
  split <;> rfl

theorem Mach.not_below (m : Mach) (v p : Nat) : (!m.below v p) = decide (p * m.nomMv ≤ 400 * v) := by
  unfold Mach.below
  rw [← decide_not]
  exact decide_eq_decide.2 Nat.not_lt

theorem Mach.noteFeed_eq (m : Mach) (k u : Nat) : m.noteFeed k u = m.heard k u := by
  unfold Mach.noteFeed Mach.heard
  simp only [Mach.not_below]

theorem Mach.forceLost_priority {m : Mach} {d : Nat} (h : (m.dom d).mode = 0) : m.forceLost d = m := if_pos h

theorem Mach.forceLost_forced {m : Mach} {d : Nat} (h : (m.dom d).mode ≠ 0) :
    m.forceLost d = (m.modDom d (fun y => { y with mode := 0 })).orReg (aDom d 0x18) 16 := if_neg h

theorem Mach.mode_forceLost (m : Mach) (d : Nat) : ((m.forceLost d).dom d).mode = 0 := by
  by_cases h : (m.dom d).mode = 0
  · rw [Mach.forceLost_priority h, h]
  · rw [Mach.forceLost_forced h, Mach.dom_orReg, Mach.dom_modDom]

/-- A selected feed below 94 % from which no changeover can be made, before the ports stop (R378). -/
def Mach.warned (m : Mach) (d u : Nat) : Mach := ((m.heard (m.dom d).feed u).forceLost d).modDom d (fun y => { y with warn := true })

/-- A selected feed that has fallen below 96 % (R376, R377). -/
def Mach.feedLow (m : Mach) (d u : Nat) : Mach :=
  if ((m.heard (m.dom d).feed u).forceLost d).feedOk (3 - (m.dom d).feed) then
    ((m.heard (m.dom d).feed u).forceLost d).changeover d (3 - (m.dom d).feed)
  else (m.heard (m.dom d).feed u).forceLost d

theorem exec_feedChangeover {s : State} {d : Dom} {u : BitVec 8} (hs : s.m.test.scan = false) :
    exec (.feedChangeover ⟨d, u⟩) s = .next { s with m :=
      if !(s.m.dom d).closed || s.m.pwr.blank || !s.m.below u.toNat 96 then s.m else s.m.feedLow d u.toNat } := by
  change execFeedChangeover ⟨d, u⟩ s = _
  rw [execFeedChangeover, State.on_eq hs]
  dsimp only
  rw [Mach.noteFeed_eq]
  rfl

theorem Mach.feedLow_eq {m : Mach} {d k : Nat} (hf : (m.dom d).feed = k) (u : Nat) : m.feedLow d u =
    if ((m.heard k u).forceLost d).feedOk (3 - k) then ((m.heard k u).forceLost d).changeover d (3 - k)
    else (m.heard k u).forceLost d := by
  subst hf
  rfl

/-- No leg can take over from a feed below its limit (R378, R379). -/
theorem Mach.stuckFeed_iff {m : Mach} {d v p : Nat} : m.stuckFeed d v p = true ↔
    (m.dom d).feed ≠ 0 ∧ m.pwr.blank = false ∧ m.below v p = true ∧ m.feedOk (3 - (m.dom d).feed) = false := by
  unfold Mach.stuckFeed PDom.closed
  simp [and_assoc]

/-- A fold whose steps change nothing, but for one. -/
theorem foldl_fixed {α : Type} {f : α → Nat → α} {a : α} {l : List Nat} (h : ∀ k ∈ l, f a k = a) : l.foldl f a = a := by
  induction l with
  | nil => rfl
  | cons k l ih => rw [List.foldl_cons, h k List.mem_cons_self]; exact ih (fun j hj => h j (List.mem_cons_of_mem _ hj))

theorem foldl_range_one {α : Type} {f : α → Nat → α} {a b : α} {d n : Nat} (hd : d < n) (hpre : ∀ k, k ≠ d → f a k = a) (hat : f a d = b)
    (hpost : ∀ k, k ≠ d → f b k = b) : (List.range n).foldl f a = b := by
  induction n with
  | zero => omega
  | succ n ih =>
    rw [List.range_succ, List.foldl_append, List.foldl_cons, List.foldl_nil]
    by_cases hn : d = n
    · subst hn
      rw [foldl_fixed (fun k hk => hpre k (Nat.ne_of_lt (List.mem_range.1 hk))), hat]
    · rw [ih (by omega), hpost n (Ne.symm hn)]

theorem Mach.finish_none {m : Mach} {w : Wait} (h : ∀ j, (m.eng j).wait ≠ w) (st : Nat) : m.finish w st = m := by
  have : m.waiters w = [] := List.filter_eq_nil_iff.2 (fun e _ he => h e (of_decide_eq_true he).2)
  unfold Mach.finish
  rw [this]
  rfl

/-- A domain whose feed is the one that selection gives, with nobody waiting for it (R370). -/
theorem Mach.feedAfter_fixed {m : Mach} {d : Nat} (h : (m.dom d).mode = 0 ∨ (m.dom d).feed = 0 ∨ (m.dom d).feed = (m.dom d).mode)
    (hw : ∀ j, (m.eng j).wait ≠ .feed d) : m.feedAfter d = m := by
  unfold Mach.feedAfter
  dsimp only
  have hclosed : (m.dom d).feed = 0 → (m.dom d).closed = false := fun hf => decide_eq_false (not_not_intro hf)
  rw [if_pos (h.imp_right (Or.imp_left hclosed))]
  exact Mach.finish_none hw _

theorem Mach.feedAfter_held {m : Mach} {d k : Nat} (hm : (m.dom d).mode = k) (hk : k ≠ 0) (hf : (m.dom d).feed ≠ 0) (hne : (m.dom d).feed ≠ k)
    (hok : m.feedOk k = true) (hw : ∀ j, (m.eng j).wait ≠ .feed d) : m.feedAfter d = m.changeover d k := by
  subst hm
  unfold Mach.feedAfter
  dsimp only
  rw [if_neg (by rintro (h | h | h); exacts [hk h, of_decide_eq_false h hf, hne h]), hok]
  exact Mach.finish_none (m := m.changeover d (m.dom d).mode) hw _

theorem Does.nomBlankEnd {s : State} {m : Mach} (hs : s.m.test.scan = false)
    (h : (List.range 133).foldl (fun m d => m.feedAfter d) (s.m.modPwr (fun p => { p with blank := false })) = m) : Does .nomBlankEnd s m := by
  subst h
  refine Does.of_exec ?_
  change execNomBlankEnd s = _
  rw [execNomBlankEnd, State.on_eq hs]
  rfl

/-! ## Power-good and limits -/

/-- The measured codes have been taken (R388). -/
theorem Mach.measure_eq (m : Mach) (d : Nat) (v : Meas) :
    m.measure d v = m.modDom d (fun y => { y with peak := max y.peak v.current.toNat, minV := min y.minV v.rail.toNat }) := rfl

theorem sf_one {n : Nat} (x : BitVec n) {i : Nat} (hi : i < n) : sf x i 1 1 = x ||| BitVec.ofNat n (2 ^ i) := by
  refine BitVec.eq_of_getLsbD_eq fun k hk => ?_
  have h := bt_sf x (lo := i) (len := 1) (by omega) 1 k
  have h2 := bt_ofNat_two_pow hi k
  unfold bt at h h2
  rw [h, BitVec.getLsbD_or, h2]
  by_cases hki : k = i
  · subst hki; simp
  · rw [if_neg (by omega), decide_eq_false hki, Bool.or_false]

theorem sf_zero {n : Nat} (x : BitVec n) {i : Nat} (hi : i < n) : sf x i 1 0 = x &&& ~~~BitVec.ofNat n (2 ^ i) := by
  refine BitVec.eq_of_getLsbD_eq fun k hk => ?_
  have h := bt_sf x (lo := i) (len := 1) (by omega) 0 k
  have h2 := bt_ofNat_two_pow hi k
  unfold bt at h h2
  rw [h, BitVec.getLsbD_and, BitVec.getLsbD_not, h2]
  by_cases hki : k = i
  · subst hki; simp
  · rw [if_neg (by omega), decide_eq_false hki]
    simp [hk]

/-- A bit that is clear stays so. -/
theorem sf_zero_self {n : Nat} {x : BitVec n} {i : Nat} (hi : i < n) (h : x.getLsbD i = false) : sf x i 1 0 = x := by
  refine BitVec.eq_of_getLsbD_eq fun k hk => ?_
  have hb := bt_sf x (lo := i) (len := 1) (by omega) 0 k
  unfold bt at hb
  rw [hb]
  by_cases hki : k = i
  · subst hki; simp [h]
  · rw [if_neg (by omega)]

/-- The machine in which power-good has fallen (R384). -/
def Mach.fell (m : Mach) (d : Nat) : Mach :=
  ((m.modDom d (fun y => { y with pgood := false, pgWarn := if m.pwr.blank then y.pgWarn else true })).orReg (aDom d 0x18) 128).addFld (aDom d 0x20) 32 16 1

theorem Mach.pgFall_up {m : Mach} {d : Dom} (hg : (m.dom d).pgood = true) (hi : m.idlePorts d) : (m.pgFall d).Like (m.fell d) := by
  unfold Mach.pgFall Mach.fell
  rw [hg, if_pos rfl]
  dsimp only
  split
  · next hb =>
    have hb : m.pwr.blank = true := hb
    rw [hb]
    exact .refl _
  · next hb =>
    have hb : m.pwr.blank = false := Bool.eq_false_iff.2 hb
    have hstop (a : Mach) (ha : a.nius = m.nius) : a.stopPorts d = a :=
      Mach.stopPorts_idle (fun hd n hn => by unfold Mach.niu; rw [ha]; exact hi hd n hn)
    rw [hb, hstop]
    case ha => rfl
    exact ((m.modDom_modDom d (fun y => { y with pgood := false }) (fun y => { y with pgWarn := true })).orReg
      (ctrAddr_aDom d (by decide)) 128).addFld (ctrAddr_aDom d (by decide)) 32 16 1

theorem Mach.pgFall_down {m : Mach} {d : Nat} (hg : (m.dom d).pgood = false) : m.pgFall d = m := by
  unfold Mach.pgFall
  rw [hg]
  rfl

theorem exec_powerGoodFall {s : State} {d : Dom} {v : Meas} (hs : s.m.test.scan = false) : exec (.powerGoodFall d v) s =
    .next { s with m := if (s.m.dom d).closed && (s.m.dom d).pgood && s.m.below v.rail.toNat 90 then (s.m.measure d v).pgFall d else s.m } := by
  change execPowerGoodFall d v s = _
  rw [execPowerGoodFall, State.on_eq hs]

/-- A slice in its limit, before power-good falls (R382). -/
def Mach.limited (m : Mach) (d : Dom) (slice : SwSlice) (v : Meas) : Mach :=
  (m.measure d v).modDom d (fun y => { y with lim := y.lim ||| BitVec.ofNat 32 (2 ^ slice.val), timer := true })

/-- What a slice that enters its limit does (R382, R383). -/
def Mach.limEnter (m : Mach) (d : Dom) (slice : SwSlice) (v : Meas) : Mach :=
  if !(m.dom d).closed || decide (domSlices d ≤ slice.val) then m else (m.limited d slice v).pgFall d

theorem exec_sliceLimitEnter {s : State} {d : Dom} {slice : SwSlice} {v : Meas} (hs : s.m.test.scan = false) :
    exec (.sliceLimitEnter d slice v) s = .next { s with m := s.m.limEnter d slice v } := by
  change execSliceLimitEnter d slice v s = _
  rw [execSliceLimitEnter, State.on_eq hs]
  unfold Mach.limEnter Mach.limited
  simp only [sf_one _ slice.isLt]

theorem exec_sliceLimitLeave {s : State} {d : Dom} {slice : SwSlice} (hs : s.m.test.scan = false) :
    exec (.sliceLimitLeave d slice) s = .next { s with m := s.m.modDom d (fun y =>
      { y with lim := sf y.lim slice 1 0, left := if bt y.lim slice then some s.m.clk.aon else y.left }) } := by
  change execSliceLimitLeave d slice s = _
  rw [execSliceLimitLeave, State.on_eq hs]

/-- A feed's validity and voltage as they are found (R369). -/
def Mach.judged (m : Mach) (b valid : Bool) (u : Nat) : Mach :=
  m.modPwr (fun p => if b then { p with feedB := valid, volB := u } else { p with feedA := valid, volA := u })

theorem exec_feedJudged {s : State} {b valid : Bool} {u : BitVec 8} (hs : s.m.test.scan = false) (hph : s.m.pwr.phase ≠ 1) :
    exec (.feedValidityChange b ⟨valid, u⟩) s =
      .next { s with m := if s.m.below u.toNat 97 = valid then s.m else s.m.judged b valid u.toNat } := by
  change execFeedValidityChange b ⟨valid, u⟩ s = _
  rw [execFeedValidityChange, State.on_eq hs]
  refine congrArg (fun a => Host.Outcome.next { s with m := a }) ?_
  dsimp only
  refine if_congr Iff.rfl rfl ?_
  cases b with
  | true => exact if_neg (fun h => hph h.1)
  | false => exact if_neg (fun h => hph h.1)

/-- A warning ends with the feed at 94 % or more (R378, R384). -/
def Mach.unwarned (m : Mach) (d u : Nat) : Mach :=
  (m.heard (m.dom d).feed u).modDom d (fun y => { y with warn := false, pgWarn := y.pgWarn && !y.pgood })

theorem exec_feedWarnEnd {s : State} {d : Dom} {u : BitVec 8} (hs : s.m.test.scan = false) : exec (.feedWarnEnd ⟨d, u⟩) s =
    .next { s with m := if !(s.m.dom d).feedWarn || s.m.below u.toNat 94 then s.m else s.m.unwarned d u.toNat } := by
  change execFeedWarnEnd ⟨d, u⟩ s = _
  rw [execFeedWarnEnd, State.on_eq hs]
  dsimp only
  rw [Mach.noteFeed_eq]
  rfl

/-- Settles O43: each row in the cases of its feed, its power-good and its slices, and NOM_BLANK's end by the one domain that it held. -/
theorem feedsAndLimits : Obligations.FeedsAndLimits := by
  intro s d slice v u b valid c mid y p nom under heard still others noWaits fell seen swap hs
  have hnom : nom = s.m.nomMv := (s.m.nomMv_eq).symm
  have hheard (k : Nat) : heard k = s.m.heard k u.toNat := by
    unfold Mach.heard
    rw [← hnom]
  have hlow {k : Nat} : under k ↔ s.m.below u.toNat k = true := by
    unfold Mach.below
    rw [decide_eq_true_iff, ← hnom]
  have hhigh {k : Nat} (h : ¬ under k) : s.m.below u.toNat k = false := Bool.eq_false_iff.2 (mt hlow.2 h)
  clear_value nom
  have hact (hf : y.feed ≠ 0) (hb : p.blank = false) (h96 : under 96) : exec (.feedChangeover ⟨d, u⟩) s = .next { s with m := s.m.feedLow d u.toNat } := by
    rw [exec_feedChangeover hs, show (s.m.dom d).closed = true from decide_eq_true hf, show s.m.pwr.blank = false from hb, hlow.1 h96]
    rfl
  refine ⟨fun hf hb h96 hB hm => Does.of_exec ((hact (by omega) hb h96).trans ?_), fun hf hb h96 hA hm => Does.of_exec ((hact (by omega) hb h96).trans ?_),
    fun hf hb h96 hB hm => Does.of_exec ((hact (by omega) hb h96).trans ?_), fun hf hb h96 hB hm => Does.of_exec ((hact (by omega) hb h96).trans ?_),
    fun h => Does.of_exec ((exec_feedChangeover hs).trans ?_),
    fun hm hf hA hb => Does.run rfl hs ?_, fun h => Does.run rfl hs ?_, fun hf hb hok h94 hm hst => Does.run rfl hs ?_, fun hf hb hok h94 => ?_,
    fun h => Does.run rfl hs ?_, fun hf hw h94 => Does.of_exec ((exec_feedWarnEnd hs).trans (congrArg (fun a => Host.Outcome.next { s with m := a }) ?_)),
    fun h => Does.of_exec ((exec_feedWarnEnd hs).trans (congrArg (fun a => Host.Outcome.next { s with m := a }) ?_)),
    fun hph hv => Does.of_exec ((exec_feedJudged hs hph).trans (congrArg (fun a => Host.Outcome.next { s with m := a }) ?_)), fun hv => ?_,
    fun hoth hm hno => ?_, fun hoth hm hf hB hno => ?_, fun hup => Does.run rfl hs ?_,
    fun hf hg hr hst => ⟨_, exec_powerGoodFall hs, rfl, rfl, ?_⟩, fun h => Does.of_exec ((exec_powerGoodFall hs).trans ?_),
    fun hf hsl hg hst => ⟨_, exec_sliceLimitEnter hs, rfl, rfl, ?_⟩, fun hf hsl hg => ⟨_, exec_sliceLimitEnter hs, rfl, rfl, ?_⟩, fun h => Does.of_exec ((exec_sliceLimitEnter hs).trans ?_),
    fun hl => ⟨_, exec_sliceLimitLeave hs, rfl, rfl, ?_⟩, fun hl => ⟨_, exec_sliceLimitLeave hs, rfl, rfl, ?_⟩, fun ht hc => ?_, fun ht hc => ?_⟩
  · rw [Mach.feedLow_eq (k := 1) hf, Mach.forceLost_priority (m := s.m.heard 1 u.toNat) hm, if_pos (show (s.m.heard 1 u.toNat).feedOk 2 = true from hB), hheard]
    rfl
  · rw [Mach.feedLow_eq (k := 2) hf, Mach.forceLost_forced (m := s.m.heard 2 u.toNat) (by rw [show ((s.m.heard 2 u.toNat).dom d).mode = 2 from hm]; decide)]
    rw [hheard]
    exact congrArg (fun a => Host.Outcome.next { s with m := a }) (if_pos hA)
  · rw [Mach.feedLow_eq (k := 1) hf, Mach.forceLost_priority (m := s.m.heard 1 u.toNat) hm, hheard]
    exact congrArg (fun a => Host.Outcome.next { s with m := a }) (if_neg (Bool.eq_false_iff.1 (show (s.m.heard 1 u.toNat).feedOk 2 = false from hB)))
  · rw [Mach.feedLow_eq (k := 1) hf, Mach.forceLost_forced (m := s.m.heard 1 u.toNat) (by rw [show ((s.m.heard 1 u.toNat).dom d).mode = 1 from hm]; decide)]
    rw [hheard]
    exact congrArg (fun a => Host.Outcome.next { s with m := a }) (if_neg (Bool.eq_false_iff.1 (show s.m.pwr.feedB = false from hB)))
  · refine congrArg (fun a => Host.Outcome.next { s with m := a }) (if_pos ?_)
    rcases h with h | h | h
    · rw [show s.m.pwr.blank = true from h, Bool.or_true]; rfl
    · rw [show (s.m.dom d).closed = false from decide_eq_false (not_not_intro h)]; rfl
    · rw [hhigh h, Bool.not_false, Bool.or_true]
  · exact if_pos ⟨hm, hf, hA, hb⟩
  · refine if_neg ?_
    rintro ⟨h1, h2, h3, h4⟩
    rcases h with h | h | h | h
    · exact h h1
    · exact h h2
    · exact Bool.false_ne_true (h.symm.trans h3)
    · exact Bool.false_ne_true (h4.symm.trans h)
  · refine (if_pos (Mach.stuckFeed_iff.2 ⟨show y.feed ≠ 0 by omega, hb, hlow.1 h94, hok⟩)).trans ?_
    rw [Mach.noteFeed_eq, Mach.forceLost_priority (m := s.m.heard (s.m.dom d).feed u.toNat) (d := d) (by rw [Mach.dom_heard]; exact hm), hheard]
    exact Mach.stopPorts_idle hst
  · have hrun : exec (.feedWarnRaise ⟨d, u⟩) s = .next { s with m := (s.m.warned d u.toNat).stopPorts d } := by
      change execFeedWarnRaise ⟨d, u⟩ s = _
      rw [execFeedWarnRaise, State.on_eq hs]
      dsimp only
      rw [if_pos (Mach.stuckFeed_iff.2 ⟨show y.feed ≠ 0 by omega, hb, hlow.1 h94, hok⟩), Mach.noteFeed_eq]
      rfl
    refine ⟨_, hrun, ?_, ?_, Mach.idlePorts_stopPorts _ _⟩
    · refine (congrArg PDom.warn (Mach.dom_stopPorts _ _ _)).trans ?_
      rw [Mach.warned, Mach.dom_modDom]
    · refine (congrArg PDom.mode (Mach.dom_stopPorts _ _ _)).trans ?_
      rw [Mach.warned, Mach.dom_modDom]
      exact Mach.mode_forceLost _ _
  · refine if_neg fun hst => ?_
    obtain ⟨h1, h2, h3, h4⟩ := Mach.stuckFeed_iff.1 hst
    rcases h with h | h | h | h
    · exact Bool.false_ne_true (h2.symm.trans h)
    · exact h1 h
    · exact Bool.false_ne_true (h4.symm.trans h)
    · exact h (hlow.2 h3)
  · refine (if_neg ?_).trans ?_
    · unfold PDom.feedWarn
      rw [hhigh h94, Bool.or_false, Bool.not_eq_true', Bool.or_eq_false_iff]
      rintro ⟨h1, h2⟩
      rcases hw with h | h
      · exact Bool.false_ne_true (h1.symm.trans h)
      · exact Bool.false_ne_true (h2.symm.trans h)
    · rw [hheard]
      rfl
  · refine if_pos ?_
    rcases h with ⟨h1, h2⟩ | h
    · unfold PDom.feedWarn
      rw [show (s.m.dom d).warn = false from h1, show (s.m.dom d).pgWarn = false from h2]; rfl
    · rw [hlow.1 h, Bool.or_true]
  · have hne : s.m.below u.toNat 97 ≠ valid := by
      intro h
      cases hvb : valid with
      | true => exact hv.1 hvb (hlow.2 (h.trans hvb))
      | false => exact Bool.false_ne_true (hvb.symm.trans (hv.2 (fun hu => Bool.false_ne_true ((h.trans hvb).symm.trans (hlow.1 hu)))))
    refine (if_neg hne).trans ?_
    cases b <;> rfl
  · refine Does.of_exec ?_
    change execFeedValidityChange b ⟨valid, u⟩ s = _
    rw [execFeedValidityChange, State.on_eq hs]
    refine congrArg (fun a => Host.Outcome.next { s with m := a }) (if_pos ?_)
    cases hvb : valid with
    | true => exact hlow.1 (hv.1 hvb)
    | false => exact hhigh (fun hu => Bool.false_ne_true (hvb.symm.trans (hv.2 hu)))
  · refine Does.nomBlankEnd hs (foldl_fixed fun k _ => Mach.feedAfter_fixed ?_ (fun j => hno j k))
    by_cases hk : k = d.val
    · subst hk; exact hm
    · exact hoth k hk
  · have hne {j : Nat} (hj : 1 ≠ j) : (Mach.dom { s.m with pwr := { p with blank := false } } d).feed ≠ j := by
      rw [show (Mach.dom { s.m with pwr := { p with blank := false } } d).feed = 1 from hf]
      exact hj
    have hdom (a : Mach) (k : Nat) (hk : k ≠ d.val) : (a.changeover d 2).dom k = a.dom k := Mach.dom_modDom_ne _ _ hk
    refine Does.nomBlankEnd hs (foldl_range_one d.isLt (fun k hk => Mach.feedAfter_fixed (hoth k hk) (fun j => hno j k))
      (Mach.feedAfter_held (m := s.m.modPwr _) hm (by decide) (hne (by decide)) (hne (by decide)) hB (fun j => hno j d))
      (fun k hk => Mach.feedAfter_fixed ?_ (fun j => hno j k)))
    have hk' : (swap { s.m with pwr := { p with blank := false } } 2).dom k = s.m.dom k := hdom _ k hk
    rw [hk']
    exact hoth k hk
  · exact if_pos hup
  · have hr' : s.m.below v.rail.toNat 90 = true := decide_eq_true (by rw [← hnom]; exact hr)
    dsimp only
    rw [show (s.m.dom d).closed = true from decide_eq_true hf, show (s.m.dom d).pgood = true from hg, hr']
    refine (Mach.pgFall_up (m := s.m.measure d v) ?_ hst).trans (.refl _)
    rw [Mach.measure_eq, Mach.dom_modDom]
    exact hg
  · refine congrArg (fun a => Host.Outcome.next { s with m := a }) (if_neg ?_)
    rw [Bool.and_eq_true, Bool.and_eq_true]
    rintro ⟨⟨h1, h2⟩, h3⟩
    rcases h with h | h | h
    · exact of_decide_eq_true h1 h
    · exact Bool.false_ne_true (h.symm.trans h2)
    · have h3 := of_decide_eq_true h3
      rw [← hnom] at h3
      omega
  · dsimp only
    rw [Mach.limEnter, show (s.m.dom d).closed = true from decide_eq_true hf, decide_eq_false (show ¬ domSlices d ≤ slice.val by omega)]
    refine (Mach.pgFall_up (m := s.m.limited d slice v) ?_ hst).trans (.refl _)
    rw [Mach.limited, Mach.dom_modDom, Mach.measure_eq, Mach.dom_modDom]
    exact hg
  · have hdown : (s.m.limited d slice v).pgFall d = s.m.limited d slice v := Mach.pgFall_down (by
      rw [Mach.limited, Mach.dom_modDom, Mach.measure_eq, Mach.dom_modDom]
      exact hg)
    dsimp only
    rw [Mach.limEnter, show (s.m.dom d).closed = true from decide_eq_true hf, decide_eq_false (show ¬ domSlices d ≤ slice.val by omega),
      hdown]
    exact .refl _
  · refine congrArg (fun a => Host.Outcome.next { s with m := a }) (if_pos ?_)
    rcases h with h | h
    · rw [show (s.m.dom d).closed = false from decide_eq_false (not_not_intro h)]; rfl
    · rw [decide_eq_true h, Bool.or_true]
  · dsimp only
    rw [Mach.modDom_congr (g := fun y => { y with lim := y.lim &&& ~~~BitVec.ofNat 32 (2 ^ slice.val), left := some s.m.clk.aon })]
    · exact .refl _
    · rw [sf_zero _ slice.isLt, if_pos (show bt (s.m.dom d).lim slice = true from hl)]
  · refine Mach.like_modDom_self ?_
    rw [sf_zero_self slice.isLt hl, if_neg (by rw [show bt (s.m.dom d).lim slice = false from hl]; exact Bool.false_ne_true)]
  · refine Does.hostWrite_far (exec_clrMeas d c true mid s) ht (farAddr_aDom d (by decide)) ?_
    rw [Mach.clrMeas, if_pos hc]
    exact .refl _
  · refine Does.hostWrite_far (exec_clrMeas d c true mid s) ht (farAddr_aDom d (by decide)) ?_
    rw [Mach.clrMeas, if_neg (by rw [hc]; exact Bool.false_ne_true)]
    exact .refl _

end Sys2Proof.Machine

/-! PROOFS. The safe state: what enters it, what each unit does in it, and its end (O51). -/

namespace Sys2Proof.Machine

/-! ## An NIU at which nothing waits -/

theorem Mach.advanceMiss_calm {m : Mach} {n : Nat} (hc : (m.niu n).Calm) (hp : m.pinWaits n = []) (k : Nat) : m.advanceMiss n k = m := by
  cases k with
  | zero => rfl
  | succ k =>
    have hleave : m.leaveMiss n = none := by
      unfold Mach.leaveMiss
      simp only [hc.reqs, List.findSome?_nil]
    simp only [Mach.advanceMiss, hc.reqs, List.filter_nil, List.foldl_nil, hc.pins, hp, hc.marks, List.map_nil, List.append_nil, hleave]

theorem Mach.pumpClose_calm {m : Mach} {n : Nat} (hc : (m.niu n).Calm) : m.pumpClose n = m := by
  have howe : (m.niu n).trk.filterMap (fun p => p.2.bind (fun t => if t.close then some (p.1, t) else none)) = [] := by
    rw [List.filterMap_eq_nil_iff]
    intro p hp
    cases ht : p.2 with
    | none => rfl
    | some t => exact if_neg (Bool.eq_false_iff.1 (hc.close p hp t ht).1)
  unfold Mach.pumpClose
  rw [howe]
  rfl

theorem Mach.pumpReads_calm {m : Mach} {n : Nat} (hc : (m.niu n).Calm) : m.pumpReads n = m := by
  have htrk : (m.niu n).trk.filterMap (fun p => p.2.bind (fun t => if t.todo.isEmpty then none else some (false, p.1, t.flow, t.todo))) = [] := by
    rw [List.filterMap_eq_nil_iff]
    intro p hp
    cases ht : p.2 with
    | none => rfl
    | some t => exact if_pos (List.isEmpty_iff.2 (hc.close p hp t ht).2)
  have hpwb : (m.niu n).pwb.filterMap (fun p => p.2.bind (fun w => if w.todo.isEmpty then none else some (true, p.1, w.flow, w.todo))) = [] := by
    rw [List.filterMap_eq_nil_iff]
    intro p hp
    cases hw : p.2 with
    | none => rfl
    | some w => exact if_pos (List.isEmpty_iff.2 (hc.todo p hp w hw))
  unfold Mach.pumpReads
  dsimp only
  rw [htrk, hpwb]
  rfl

theorem Mach.settleFlows_calm {m : Mach} {n : Nat} (hc : (m.niu n).Calm) (hp : m.pinWaits n = []) : m.settleFlows n = m := by
  rw [Mach.settleFlows, Mach.advanceMiss_calm hc hp, Mach.pumpClose_calm hc, Mach.pumpReads_calm hc]

theorem Mach.safe_settleFlows (m : Mach) (n k : Nat) : ((m.settleFlows n).niu k).safe = (m.niu k).safe :=
  (FlowFrame.ofNiu k Niu.safe (fun x y h => show x.outer.safe = y.outer.safe from congrArg Niu.safe h)).settleFlows m n

/-! ## Entry and end -/

/-- The machine once the safe state has been entered (R456). -/
def Mach.entered (m : Mach) (cause : Nat) : Mach :=
  m.modFlt (fun f => { f with safeA := true, safeB := true, safeC := true, causeA := cause, causeB := cause, causeC := cause, esc := 0, twin := m.twin.st.code, us := BitVec.ofNat 32 m.ftUs })

theorem Mach.enterSafe_first {m : Mach} (h : m.safe = false) (c : Nat) : m.enterSafe c 0 = m.entered c := if_neg (Bool.eq_false_iff.1 h)

theorem Mach.enterSafe_again {m : Mach} (h : m.safe = true) (c : Nat) : m.enterSafe c 0 = m := if_pos h

theorem Mach.writeSafe_enter {m : Mach} {v : Word} (h62 : bt v 62 = true) (h60 : bt v 60 = false) : m.writeSafe v = m.enterSafe 3 0 := by
  rw [Mach.writeSafe, h60, h62]
  rfl

theorem Mach.writeSafe_leave {m : Mach} {v : Word} (h62 : bt v 62 = false) (h61 : bt v 61 = true) (h60 : bt v 60 = false)
    (hl : m.mayLeave = true) : m.writeSafe v = m.leaveSafe := by
  rw [Mach.writeSafe, h60, h62, h61]
  exact if_pos hl

theorem Mach.mayLeave_iff {m : Mach} : m.mayLeave = true ↔
    m.safe = true ∧ (m.flt.cause = 3 ∨ m.flt.cause = 4) ∧ (m.flt.twin = 0 ∨ m.flt.twin = 1 ∨ m.flt.twin = 5) := by
  unfold Mach.mayLeave
  rw [Bool.and_eq_true, Bool.and_eq_true, decide_eq_true_iff, decide_eq_true_iff, and_assoc]

/-- A field written twice. -/
theorem sf_sf_same {n : Nat} (w : BitVec n) {lo len : Nat} (h : lo + len ≤ n) (u v : Nat) : sf (sf w lo len u) lo len v = sf w lo len v := by
  refine BitVec.eq_of_getLsbD_eq fun k _ => ?_
  have h1 := bt_sf (sf w lo len u) h v k
  have h2 := bt_sf w h v k
  have h3 := bt_sf w h u k
  unfold bt at h1 h2 h3
  rw [h1, h2]
  split
  · rfl
  · next hk => rw [h3, if_neg hk]

theorem Mach.setFld_setFld (m : Mach) (a : Nat) {lo len : Nat} (h : lo + len ≤ 64) (u v : Nat) :
    ((m.setFld a lo len u).setFld a lo len v).Like (m.setFld a lo len v) := by
  refine { Mach.Like.refl m with reg := fun k _ => ?_, bare := rfl }
  by_cases hk : k = a
  · subst hk
    simp only [Mach.setFld, Mach.reg_setReg]
    exact sf_sf_same _ h u v
  · simp only [Mach.setFld, Mach.reg_setReg_ne _ _ hk]

/-- An EXIT that ends nothing sets EXIT_REJ (R460). -/
theorem Mach.writeSafe_rejected {m : Mach} {v : Word} (h62 : bt v 62 = false) (h61 : bt v 61 = true) (hl : m.mayLeave = false) :
    (m.writeSafe v).Like (m.setFld 0xD0018 60 1 1) := by
  rw [Mach.writeSafe, h62, h61]
  cases h60 : bt v 60 with
  | true =>
    have : (m.setFld aFltSafe 60 1 0).mayLeave = false := hl
    rw [if_pos rfl, if_neg Bool.false_ne_true, if_pos rfl, this]
    exact m.setFld_setFld _ (by decide) 0 1
  | false =>
    rw [if_neg Bool.false_ne_true, if_neg Bool.false_ne_true, if_pos rfl, hl]
    exact .refl _

/-- What the end of the safe state leaves (R460). -/
theorem Mach.leaveSafe_leaves (m : Mach) : m.leaveSafe.safe = false ∧ (∀ k, m.leaveSafe.niu k = { m.niu k with safe := false }) ∧
    m.leaveSafe.twin = { m.twin with failed := false } ∧ (∀ k, m.leaveSafe.eng k = m.eng k) ∧ (∀ a, m.leaveSafe.reg a = m.reg a) ∧
    m.leaveSafe.flt = { m.flt with safeA := false, safeB := false, safeC := false } :=
  ⟨rfl, fun k => Tab.get_mapv_same (d := dNiu) m.nius (fun _ x => { x with safe := false }) k rfl, rfl, fun _ => rfl, fun _ => rfl, rfl⟩

/-- What a unit does on the broadcast (R457). -/
def Mach.safeAct (m : Mach) : SafeUnit → Mach
  | .niu n => if m.domLive (epTile n) then (m.modNiu n (fun x => { x with safe := true })).settleFlows n else m
  | .engine e => m.stopEngine e xSAFE
  | .spine => if m.hasSpine then (m.setReg 0x80010 0).modSpine (fun x => { x with pend := false }) else m
  | .twin => m.modTwin (fun x => { x with failed := true })

theorem exec_safeStateAct {s : State} (hs : s.m.test.scan = false) (u : SafeUnit) :
    exec (.safeStateAct u) s = .next { s with m := if !s.m.safe then s.m else s.m.safeAct u } := by
  change execSafeStateAct u s = _
  rw [execSafeStateAct, State.on_eq hs]
  cases u <;> rfl

theorem exec_safeStateAct_safe {s : State} {u : SafeUnit} {a : Mach} (hs : s.m.test.scan = false) (hsafe : s.m.safe = true)
    (ha : s.m.safeAct u = a) : exec (.safeStateAct u) s = .next { s with m := a } := by
  rw [exec_safeStateAct hs, hsafe, Bool.not_true, if_neg Bool.false_ne_true, ha]

/-- Settles O51: each row in and outside the safe state; an NIU's queue goes on at once, which changes nothing where nothing waits. -/
theorem safeState : Obligations.SafeState := by
  intro s v mid n e w m entered
  have hin (c : Nat) : m.entered c = entered c := rfl
  refine ⟨fun ht h62 h60 hs => ?_, fun ht h62 h60 hs => ?_, fun hs hup hsafe => ?_, fun hs hup hsafe => ?_, fun hs hup => ?_,
    fun ht h62 h61 => ⟨fun hsafe hc htw h60 => ?_, fun hno => ?_⟩, fun u hs hsafe => ?_, fun hs hsafe hlive => ⟨?_, fun hc hp => ?_⟩,
    fun hs hsafe hlive => ?_, fun hs hsafe hf => ?_, fun hs hsafe hsp => ?_, fun hs hsafe => ?_⟩
  · refine Does.hostWrite_far (exec_fltSafeEnter v true mid s) ht rfl ?_
    rw [Mach.writeSafe_enter h62 h60, Mach.enterSafe_first hs]
    exact .refl _
  · refine Does.hostWrite_far (exec_fltSafeEnter v true mid s) ht rfl ?_
    rw [Mach.writeSafe_enter h62 h60, Mach.enterSafe_again hs]
    exact .refl _
  · refine Does.of_exec ?_
    change execFuParityFail s = _
    rw [execFuParityFail, State.on_eq hs]
    refine congrArg (fun a => Host.Outcome.next { s with m := a }) ((if_pos hup).trans ?_)
    exact Mach.enterSafe_first (m := s.m.orReg aFltSum (2 ^ 48)) hsafe 1
  · refine Does.of_exec ?_
    change execFuParityFail s = _
    rw [execFuParityFail, State.on_eq hs]
    refine congrArg (fun a => Host.Outcome.next { s with m := a }) ((if_pos hup).trans ?_)
    exact Mach.enterSafe_again (m := s.m.orReg aFltSum (2 ^ 48)) hsafe 1
  · refine Does.of_exec ?_
    change execFuParityFail s = _
    rw [execFuParityFail, State.on_eq hs]
    exact congrArg (fun a => Host.Outcome.next { s with m := a }) (if_neg (Bool.eq_false_iff.1 hup))
  · have hrun := exec_hostAccess (exec_fltSafeExit v true mid s) ht rfl
    dsimp only at hrun
    rw [Mach.writeSafe_leave h62 h61 h60 (Mach.mayLeave_iff.2 ⟨hsafe, hc, htw⟩), Mach.answerTo_far _ rfl] at hrun
    obtain ⟨hoff, hniu, htwin, heng, hreg, hflt⟩ := s.m.leaveSafe_leaves
    generalize s.m.leaveSafe = b at hrun hoff hniu htwin heng hreg hflt
    exact ⟨_, hrun, hoff, hniu, htwin, heng, hreg, hflt, rfl, rfl⟩
  · refine Does.hostWrite_far (exec_fltSafeExit v true mid s) ht rfl (Mach.writeSafe_rejected h62 h61 ?_)
    refine Bool.eq_false_iff.2 fun hl => ?_
    obtain ⟨h1, h2, h3⟩ := Mach.mayLeave_iff.1 hl
    rcases hno with h | ⟨ha, hb⟩ | ⟨ha, hb, hc⟩
    · exact Bool.false_ne_true (h.symm.trans h1)
    · exact h2.elim ha hb
    · exact h3.elim ha (fun h => h.elim hb hc)
  · refine Does.of_exec ((exec_safeStateAct hs u).trans ?_)
    rw [show s.m.safe = false from hsafe, Bool.not_false, if_pos rfl]
  · refine ⟨_, exec_safeStateAct_safe hs hsafe (if_pos hlive), ?_⟩
    dsimp only
    rw [Mach.safe_settleFlows, Mach.niu_modNiu]
  · refine Does.of_exec (exec_safeStateAct_safe hs hsafe ((if_pos hlive).trans (Mach.settleFlows_calm ?_ hp)))
    rw [Mach.niu_modNiu]
    exact ⟨hc.reqs, hc.pins, hc.marks, hc.close, hc.todo⟩
  · exact Does.of_exec (exec_safeStateAct_safe hs hsafe (if_neg (Bool.eq_false_iff.1 hlive)))
  · exact Does.of_exec (exec_safeStateAct_safe hs hsafe (Mach.stopEngine_running hf xSAFE))
  · exact Does.of_exec (exec_safeStateAct_safe hs hsafe (if_pos hsp))
  · exact Does.of_exec (exec_safeStateAct_safe hs hsafe rfl)

end Sys2Proof.Machine

/-! PROOFS. The domain instructions as changes of the machine in which their word has been read (R357, R390 to R393): the rules that the
statements about them share. -/

namespace Sys2Proof.Machine

/-! ## Changes of domains, fences and limits -/

theorem Mach.LikeAt.modDom {a m : Mach} {e : Nat} {x : Eng} (h : a.LikeAt e x m) (d : Nat) (f : PDom → PDom) :
    (a.modDom d f).LikeAt e x (m.modDom d f) := h.upd (fun y => y.modDom d f) (fun _ => .refl _) (fun _ _ hl => hl.modDom d f)

/-- A change of the power unit that leaves its domains and does not look at them. -/
theorem Mach.Like.modPwr {a m : Mach} (h : a.Like m) (f : Power → Power) (hd : ∀ p, (f p).doms = p.doms)
    (hf : ∀ p l, { f { p with doms := l } with doms := [] } = { f p with doms := [] }) : (a.modPwr f).Like (m.modPwr f) := by
  have hone (y : Mach) : (y.modPwr f).bare = { y.bare with pwr := { f y.bare.pwr with doms := [] } } := by
    have : ({ f { y.pwr with doms := [] } with doms := [] } : Power) = { f y.pwr with doms := [] } := hf y.pwr []
    simp only [Mach.bare, Mach.modPwr, this]
  have hdom (y : Mach) (k : Nat) : (y.modPwr f).dom k = y.dom k := congrArg (fun t => Tab.get dDom t k) (hd y.pwr)
  refine { h with dom := fun k => ?_, bare := ?_ }
  · rw [hdom, hdom, h.dom]
  · rw [hone, hone, h.bare]

theorem Mach.LikeAt.modPwr {a m : Mach} {e : Nat} {x : Eng} (h : a.LikeAt e x m) (f : Power → Power) (hd : ∀ p, (f p).doms = p.doms)
    (hf : ∀ p l, { f { p with doms := l } with doms := [] } = { f p with doms := [] }) : (a.modPwr f).LikeAt e x (m.modPwr f) :=
  h.upd (fun y => y.modPwr f) (fun _ => .refl _) (fun _ _ hl => hl.modPwr f hd hf)

theorem Mach.Like.domLive {a m : Mach} (h : a.Like m) (d : Nat) : a.domLive d = m.domLive d := congrArg PDom.live (h.dom d)

/-- The registers of an NIU are no counters. -/
theorem ctrAddr_aNiu {n o : Nat} (hn : n < 516) (ho : o < 0x1000) : ctrAddr (aNiu n o) = false := by
  unfold ctrAddr aNiu
  split <;> simp <;> omega

theorem Mach.Like.foldl {α : Type} {f : Mach → α → Mach} {l : List α} {a m : Mach} (h : a.Like m)
    (hf : ∀ k ∈ l, ∀ a m : Mach, a.Like m → (f a k).Like (f m k)) : (l.foldl f a).Like (l.foldl f m) := by
  induction l generalizing a m with
  | nil => exact h
  | cons k l ih => exact ih (hf k (.head _) a m h) (fun j hj => hf j (.tail _ hj))

theorem mem_allNius {n : Nat} : n ∈ allNius ↔ n < 516 := List.mem_range

/-- One NIU's fence bit of a tile. -/
def Mach.fenceAt (t v : Nat) (m : Mach) (n : Nat) : Mach :=
  if m.domLive (epTile n) then m.setFld (aNiu n (if t < 64 then 0x10 else 0x18)) (t % 64) 1 v else m

theorem Mach.setFence_eq (m : Mach) (t v : Nat) :
    m.setFence t v = allNius.foldl (Mach.fenceAt t v) (m.modPwr (fun p => { p with fence := sf p.fence t 1 v })) := rfl

theorem Mach.Like.setFence {a m : Mach} (h : a.Like m) (t v : Nat) : (a.setFence t v).Like (m.setFence t v) := by
  rw [Mach.setFence_eq, Mach.setFence_eq]
  have hall : ∀ n ∈ allNius, n < 516 := fun n => mem_allNius.1
  generalize allNius = l at hall ⊢
  refine Mach.Like.foldl (h.modPwr (fun p => { p with fence := sf p.fence t 1 v }) (fun _ => rfl) (fun _ _ => rfl)) (fun n hn a m hl => ?_)
  have hc : ctrAddr (aNiu n (if t < 64 then 0x10 else 0x18)) = false := ctrAddr_aNiu (hall n hn) (by split <;> decide)
  unfold Mach.fenceAt
  rw [hl.domLive]
  split
  · exact hl.setFld hc _ _ _
  · exact hl

theorem Mach.setFence_modEng (m : Mach) (e : Nat) (f : Eng → Eng) (t v : Nat) : (m.modEng e f).setFence t v = (m.setFence t v).modEng e f := by
  rw [Mach.setFence_eq, Mach.setFence_eq]
  generalize allNius = l
  refine (List.foldl_hom (fun y : Mach => y.modEng e f) (g₁ := Mach.fenceAt t v) (g₂ := Mach.fenceAt t v)
    (init := m.modPwr (fun p => { p with fence := sf p.fence t 1 v })) (fun y n => ?_))
  unfold Mach.fenceAt
  rw [show (y.modEng e f).domLive (epTile n) = y.domLive (epTile n) from rfl]
  split <;> rfl

theorem Mach.LikeAt.setFence {a m : Mach} {e : Nat} {x : Eng} (h : a.LikeAt e x m) (t v : Nat) : (a.setFence t v).LikeAt e x (m.setFence t v) :=
  h.upd (fun y => y.setFence t v) (fun y => by rw [Mach.setFence_modEng]; exact .refl _) (fun _ _ hl => hl.setFence t v)

theorem Mach.Like.clk {a m : Mach} (h : a.Like m) : a.clk = m.clk :=
  show a.bare.clk = m.bare.clk by rw [h.bare]

theorem Mach.LikeAt.startLimit {a m : Mach} {e : Nat} {x : Eng} (h : a.LikeAt e x m) (units : Nat) :
    (a.startLimit e units).LikeAt e { x with limit := limitCycles m.clk.mode units } m := by
  have hclk : a.clk = m.clk := Mach.Like.clk (m := m.modEng e (fun _ => x)) h
  unfold Mach.startLimit
  rw [hclk]
  exact h.mod _

/-! ## Scope and the running AON clock -/

section
variable {m : Mach} {e d top : Nat} {w : Word} (hd : ((m.eng e).reg (wA w)).toNat = d) (hs : inScope e (domQuad d) = true)
include hd hs

theorem Mach.domOp_acts (hle : d ≤ top) (ha : m.clk.astop = false) (lim : Bool) (act : Nat → Mach → Mach) :
    m.domOp e w lim top act = act d m := by
  unfold Mach.domOp
  dsimp only
  rw [hd, hs, Bool.or_true, Mach.status_free, if_neg (by omega), ha, if_neg Bool.false_ne_true]

theorem Mach.domOp_range (hlt : top < d) (lim : Bool) (act : Nat → Mach → Mach) : m.domOp e w lim top act = m.endStatus e 3 [] := by
  unfold Mach.domOp
  dsimp only
  rw [hd, hs, Bool.or_true, Mach.status_free, if_pos hlt]
  rfl
end

/-! ## What stops an instruction on a spine domain -/

theorem Mach.engineBusy_iff {m : Mach} {d : Nat} : m.engineBusy d = true ↔
    (128 ≤ d ∧ d < 132) ∧ ((m.eng (d - 127)).state = .running ∨ (m.eng (d - 127)).state = .waiting) := by
  unfold Mach.engineBusy
  rw [Bool.and_eq_true, decide_eq_true_eq, decide_eq_true_eq]

/-- Whether the stations of a spine domain are DISABLED or DEAD. -/
def Mach.parked (m : Mach) (d : Nat) : Prop :=
  m.hasSpine = false ∨ ∀ p : Fin 32, p.val / 8 = d - 128 → (m.stn p).st = .disabled ∨ (m.stn p).st = .dead

theorem StnSt.runs_iff (x : StnSt) : x.runs = true ↔ ¬ (x = .disabled ∨ x = .dead) := by cases x <;> decide

theorem Mach.anyStn_runs {m : Mach} {d : Nat} : m.anyStn d StnSt.runs = true ↔ (128 ≤ d ∧ d < 132) ∧ ¬ m.parked d := by
  unfold Mach.anyStn Mach.parked
  rw [Bool.and_eq_true, Bool.and_eq_true, decide_eq_true_eq, List.any_eq_true, and_assoc]
  refine and_congr_right (fun hd => ?_)
  rw [not_or, Bool.not_eq_false, not_forall]
  refine and_congr_right (fun _ => ⟨fun ⟨i, hi, hr⟩ => ?_, fun ⟨p, hp⟩ => ?_⟩)
  · have hi := List.mem_range.1 hi
    refine ⟨⟨8 * (d - 128) + i, by omega⟩, fun hp => (StnSt.runs_iff _).1 hr (hp ?_)⟩
    show (8 * (d - 128) + i) / 8 = d - 128
    omega
  · obtain ⟨hq, hst⟩ := Classical.not_imp.1 hp
    refine ⟨p.val % 8, List.mem_range.2 (Nat.mod_lt _ (by decide)), (StnSt.runs_iff _).2 ?_⟩
    rwa [show 8 * (d - 128) + p.val % 8 = p.val by omega]

theorem Mach.anyStn_off (m : Mach) (d : Nat) : m.anyStn d (fun s => !decide (s = .disabled ∨ s = .dead)) = m.anyStn d StnSt.runs :=
  congrArg (m.anyStn d) (funext fun s => by cases s <;> decide)

/-- What R322 and R357 ask of a domain before it is drained or switched off. -/
def Mach.stopped (m : Mach) (d : Nat) : Prop := m.engineBusy d = false ∧ m.anyStn d StnSt.runs = false

theorem Mach.stopped_tile {m : Mach} {d : Nat} (h : d < 128) : m.stopped d :=
  ⟨Bool.eq_false_iff.2 (fun hb => by have := (Mach.engineBusy_iff.1 hb).1; omega),
   Bool.eq_false_iff.2 (fun hb => by have := (Mach.anyStn_runs.1 hb).1; omega)⟩

/-! ## The acts of the instructions -/

section
variable {m : Mach} {e d : Nat} {w : Word}

theorem Mach.doDrain_state (h : (m.dom d).st ≠ .on ∨ m.engineBusy d = true ∨ m.anyStn d StnSt.runs = true) :
    m.doDrain e w d = m.endStatus e 1 [] := if_pos h

theorem Mach.doDrain_tile (hst : (m.dom d).st = .on) (hd : d < 128) : m.doDrain e w d =
    (((m.modDom d (fun y => { y with st := .draining })).stopPorts d).setWait e (.drain d)).startLimit e (wLimit w) := by
  obtain ⟨hb, ha⟩ := Mach.stopped_tile (m := m) hd
  unfold Mach.doDrain
  rw [if_neg (by rw [hst, hb, ha]; simp), if_pos hd]

theorem Mach.doDrain_spine (hst : (m.dom d).st = .on) (hd : 128 ≤ d) (hs : m.stopped d) : m.doDrain e w d =
    (m.modDom d (fun y => { y with st := .drained })).done e 0 [] := by
  unfold Mach.doDrain
  rw [if_neg (by rw [hst, hs.1, hs.2]; simp), if_neg (by omega)]
  rfl

theorem Mach.doFence_state (h : (m.dom d).st ≠ .drained ∨ m.engineBusy d = true) : m.doFence e w d = m.endStatus e 1 [] := if_pos h

theorem Mach.doFence_tile (hst : (m.dom d).st = .drained) (hd : d < 128) :
    m.doFence e w d = ((m.setFence d 1).setWait e (.fence d)).startLimit e (wLimit w) := by
  unfold Mach.doFence
  rw [if_neg (by rw [hst, (Mach.stopped_tile (m := m) hd).1]; simp), if_pos hd]

theorem Mach.doFence_spine (hst : (m.dom d).st = .drained) (hd : 128 ≤ d) (hs : m.engineBusy d = false) :
    m.doFence e w d = (m.modDom d (fun y => { y with st := .fenced })).done e 0 [] := by
  unfold Mach.doFence
  rw [if_neg (by rw [hst, hs]; simp), if_neg (by omega)]
  rfl

theorem Mach.doOff_state (h : (m.dom d).st ≠ .fenced ∨ m.engineBusy d = true ∨ m.anyStn d StnSt.runs = true) :
    m.doOff e d = m.endStatus e 1 [] := by
  unfold Mach.doOff
  rw [Mach.anyStn_off]
  exact if_pos h

/-- What DOM.OFF does to a FENCED domain, short of the completion. -/
def Mach.switchedOff (m : Mach) (d : Nat) : Mach := (m.powerOff d).modDom d (fun y => { y with alert := y.alert && !y.redo, flt := false })

theorem Mach.doOff_opens (hst : (m.dom d).st = .fenced) (hs : m.stopped d) : m.doOff e d = (m.switchedOff d).done e 0 [] := by
  unfold Mach.doOff
  rw [Mach.anyStn_off, if_neg (by rw [hst, hs.1, hs.2]; simp)]
  rfl

theorem Mach.doOn_state (h : (m.dom d).st ≠ .off) : m.doOn e w d = m.endStatus e 1 [] := if_pos h

theorem Mach.doUnfence_state (h : (m.dom d).st ≠ .drained ∧ (m.dom d).st ≠ .fenced) : m.doUnfence e d = m.endStatus e 1 [] := if_pos h

theorem Mach.doUnfence_on (h : (m.dom d).st = .drained ∨ (m.dom d).st = .fenced) : m.doUnfence e d =
    ((if d < 128 then m.setFence d 0 else m).modDom d (fun y => { y with st := .on, lossF := false, alert := false })).done e 0 [] :=
  if_neg (fun hn => h.elim hn.1 hn.2)

theorem Mach.doFeed_range (hk : bf w 24 2 = 3) : m.doFeed e w d = m.endStatus e 3 [] := if_pos hk

theorem Mach.doFeed_state {k : Nat} (hk : bf w 24 2 = k) (h : k = 1 ∨ k = 2) (hf : m.feedOk k = false) :
    m.doFeed e w d = m.endStatus e 1 [] := by
  unfold Mach.doFeed
  dsimp only
  rw [hk, if_neg (by omega), if_pos ⟨by omega, hf⟩]
  rfl

/-- DOM.FEED that selects a feed which the domain does not ask to be changed to. -/
theorem Mach.doFeed_stays {k : Nat} (hk : bf w 24 2 = k) (h3 : k ≠ 3) (hf : k ≠ 0 → m.feedOk k = true)
    (h : k = 0 ∨ (m.dom d).feed = 0 ∨ (m.dom d).feed = k) :
    m.doFeed e w d = (m.modDom d (fun y => { y with mode := k })).done e 0 [] := by
  unfold Mach.doFeed
  dsimp only
  rw [hk, if_neg h3, if_neg (by rintro ⟨h0, hb⟩; rw [hf h0] at hb; exact Bool.false_ne_true hb.symm), if_pos ?_]
  · rfl
  · refine h.imp id (Or.imp (fun h0 => ?_) id)
    rw [PDom.closed, h0]
    rfl

theorem Mach.doFeed_changes {k : Nat} (hk : bf w 24 2 = k) (h : k = 1 ∨ k = 2) (hf : m.feedOk k = true) (h0 : (m.dom d).feed ≠ 0)
    (hne : (m.dom d).feed ≠ k) : m.doFeed e w d =
      if m.pwr.blank then (m.modDom d (fun y => { y with mode := k })).setWait e (.feed d)
      else ((m.modDom d (fun y => { y with mode := k })).changeover d k).done e 0 [] := by
  unfold Mach.doFeed
  dsimp only
  rw [hk, if_neg (by omega), if_neg (by rw [hf]; simp), if_neg (by simp [PDom.closed, h0, hne]; omega)]
  rfl
end

end Sys2Proof.Machine

/-! PROOFS. What the end of a link's traffic leaves alone (R169, R191), and a tile whose links go DOWN and whose state is lost (R198,
R385, R431). -/

namespace Sys2Proof.Machine

/-! ## Packets that a link has carried in part -/

/-- A change of a link direction that leaves the mask it reads with, and asks for no new map. -/
def KeepsMask (f : LDir → LDir) : Prop := ∀ d, (f d).mask = d.mask ∧ (d.want = none → (f d).want = none)

/-- A property of the machine that a link's loss of its slots and of the packets it has carried in part does not touch. -/
structure CutFrame (P : Mach → Prop) : Prop where
  reg  : ∀ m a w, P m → P (m.setReg a w)
  tele : ∀ m f, P m → P (m.modTele f)
  flt  : ∀ m f, P m → P (m.modFlt f)
  dir  : ∀ m l f, KeepsMask f → P m → P (m.modDir l f)
  out  : ∀ m k f, P m → P (m.modOut k f)
  stn  : ∀ m p c, P m → P (m.modStn p (fun x => { x with entry := Tab.set dNil x.entry c [] }))
  cbu  : ∀ m t f, P m → P (m.modCbu t f)
  vc   : ∀ m k, (m.vc k).cut = true → P m → P (m.modVc k (fun b => { VcBuf.empty with hd := b.hd }))
  niu  : ∀ m n vc, P m → P (m.modNiu n (fun x => x.clearEj vc))

namespace CutFrame
variable {P : Mach → Prop} (h : CutFrame P) {m : Mach}
include h

theorem addCtr (n k : Nat) (hd : FlitBits) (hm : P m) : P (m.addCtr n k hd) := by
  have hs : P (m.setFld (aCtr n) 0 48 (m.fld (aCtr n) 0 48 + k)) := h.reg _ _ _ hm
  unfold Mach.addCtr
  dsimp only
  split
  · exact hs
  · exact h.tele _ _ hs

theorem count (base w code : Nat) (sel tc : Option Nat) (k : Nat) (hd : FlitBits) (hm : P m) : P (m.count base w code sel tc k hd) := by
  unfold Mach.count
  split
  · exact hm
  · refine List.foldlRecOn _ _ hm (fun m hm i _ => ?_)
    dsimp only
    split
    · exact h.addCtr _ _ _ hm
    · exact hm

theorem occur (c k l o s n : Nat) (hm : P m) : P (m.occur c k l o s n) := by
  unfold Mach.occur
  split
  · exact h.flt _ _ hm
  · exact hm

theorem deadDrop (t out vc : Nat) (hd : FlitBits) (hm : P m) : P (m.deadDrop t out vc hd) := by
  have hr : P ((m.orReg (aTile t 0x10) (2 ^ 2)).addFld (aTile t 0x18) 32 16 1) := h.reg _ _ _ (h.reg _ _ _ hm)
  have hc := h.count (ctrRouter t) 8 8 none (some (vcTc vc)) 1 hd hr
  unfold Mach.deadDrop Mach.countRtr
  dsimp only
  split
  · exact hc
  · exact h.occur _ _ _ _ _ _ hc

theorem credit (t inp vc : Nat) (hm : P m) : P (m.credit t inp vc) := by
  unfold Mach.credit
  split
  · exact hm
  split
  · split
    · exact h.dir _ _ _ (fun _ => ⟨rfl, id⟩) hm
    · exact h.out _ _ _ hm
  · exact hm

theorem dropSent (l : Nat) (hm : P m) : P (m.dropSent l) := by
  refine List.foldlRecOn _ _ hm (fun m hm s _ => ?_)
  split
  · exact h.deadDrop _ _ _ _ hm
  · exact hm

theorem resync (l : Nat) (hm : P m) : P (m.resync l) := List.foldlRecOn _ _ hm (fun m hm _ _ => h.out m _ _ hm)

end CutFrame

/-- A flit passed to the ejection VCs of local output `o`: what a packet that is cut leaves there is cleared. -/
def Mach.cutEj (m : Mach) (t o vc : Nat) : Mach :=
  let part (n : Nat) : Bool := match ((m.niu n).ejFlits vc).getLast? with
    | some g => !g.last
    | none => false
  ([4 * t + 2 * (o - 4), 4 * t + 2 * (o - 4) + 1, 512 + quadOf t].filter part).foldl (fun m n => m.modNiu n (fun x => x.clearEj vc)) m

theorem CutFrame.cutEj {P : Mach → Prop} (h : CutFrame P) {m : Mach} (t o vc : Nat) (hm : P m) : P (m.cutEj t o vc) :=
  List.foldlRecOn _ _ hm (fun m hm n _ => h.niu m n vc hm)

theorem Mach.vc_credit (m : Mach) (t inp vc k : Nat) : (m.credit t inp vc).vc k = m.vc k := by
  unfold Mach.credit
  split
  · rfl
  split
  · split <;> rfl
  · rfl

/-- An input VC cleared, the credits of what it held returned. -/
def Mach.clearVc (m : Mach) (t inp vc : Nat) : Mach :=
  (each (m.vc (kVc t inp vc)).q (fun _ m => m.credit t inp vc) m).modVc (kVc t inp vc) (fun b => { VcBuf.empty with hd := b.hd })

theorem CutFrame.clearVc {P : Mach → Prop} (h : CutFrame P) {m : Mach} (t inp vc : Nat) (hb : (m.vc (kVc t inp vc)).cut = true) (hm : P m) :
    P (m.clearVc t inp vc) := by
  have hvc : (each (m.vc (kVc t inp vc)).q (fun _ m => m.credit t inp vc) m).vc (kVc t inp vc) = m.vc (kVc t inp vc) :=
    foldl_keeps (fun m : Mach => m.vc (kVc t inp vc)) _ _ _ (fun m _ => m.vc_credit t inp vc _)
  exact h.vc _ _ (by rw [hvc]; exact hb) (List.foldlRecOn _ _ hm (fun m hm _ _ => h.credit t inp vc hm))

/-- A cut that starts with a VC that it clears leaves what holds from then on. -/
theorem CutFrame.cutVc_succ {P : Mach → Prop} (h : CutFrame P) {k vc : Nat} (hk : ∀ (m : Mach) t inp, P m → P (Mach.cutVc t inp vc m k)) {m : Mach}
    {t inp : Nat} (hb : (m.vc (kVc t inp vc)).cut = true) (hm : P (m.clearVc t inp vc)) : P (Mach.cutVc t inp vc m (k + 1)) := by
  rw [Mach.cutVc]
  dsimp only
  rw [hb, Bool.not_true, if_neg Bool.false_ne_true]
  split
  · exact hm
  next o _ =>
    have hfree := h.out _ (kVc t o vc) (fun x => { x with busy := false }) hm
    split
    · split
      · exact hfree
      · split
        · exact hfree
        · exact hk _ _ _ (h.dir _ _ _ (fun _ => ⟨rfl, id⟩) (h.out _ _ _ hfree))
    · split
      · exact h.cutEj t o vc hfree
      · split
        · split
          · exact hfree
          · exact h.stn _ _ _ hfree
        · exact h.cbu _ _ _ hfree

theorem Mach.cutVc_of_whole {m : Mach} {t inp vc : Nat} (hb : (m.vc (kVc t inp vc)).cut = false) (k : Nat) : Mach.cutVc t inp vc m k = m := by
  cases k with
  | zero => rfl
  | succ k =>
    rw [Mach.cutVc]
    dsimp only
    rw [hb, Bool.not_false, if_pos rfl]

theorem CutFrame.cutVc {P : Mach → Prop} (h : CutFrame P) (k : Nat) {m : Mach} (t inp vc : Nat) (hm : P m) :
    P (Mach.cutVc t inp vc m k) := by
  induction k generalizing m t inp with
  | zero => exact hm
  | succ k ih =>
    by_cases hb : (m.vc (kVc t inp vc)).cut = true
    · exact h.cutVc_succ (fun m t inp hm => ih (m := m) t inp hm) hb (h.clearVc t inp vc hb hm)
    · rw [Mach.cutVc_of_whole (Bool.eq_false_iff.2 hb)]
      exact hm

theorem CutFrame.cutDir {P : Mach → Prop} (h : CutFrame P) {m : Mach} (l : Nat) (hm : P m) : P (m.cutDir l) := by
  refine List.foldlRecOn _ _ hm (fun m hm vc _ => ?_)
  refine h.cutVc _ _ _ _ ?_
  split
  · exact h.deadDrop _ _ _ _ hm
  · exact hm

theorem CutFrame.clearDir {P : Mach → Prop} (h : CutFrame P) {m : Mach} (l : Nat) (hm : P m) : P (m.clearDir l) :=
  h.resync l (h.dir _ _ _ (fun _ => ⟨rfl, fun _ => rfl⟩) (h.cutDir l (h.dropSent l hm)))

/-- The value of a part of the machine, none of what a cut changes. -/
theorem CutFrame.of {γ : Type} {π : Mach → γ} (v : γ) (hreg : ∀ m a w, π (m.setReg a w) = π m) (htele : ∀ m f, π (m.modTele f) = π m)
    (hflt : ∀ m f, π (m.modFlt f) = π m) (hdir : ∀ m l f, π (m.modDir l f) = π m) (hout : ∀ m k f, π (m.modOut k f) = π m)
    (hstn : ∀ m p f, π (m.modStn p f) = π m) (hcbu : ∀ m t f, π (m.modCbu t f) = π m) (hvc : ∀ m k f, π (m.modVc k f) = π m)
    (hniu : ∀ m n f, π (m.modNiu n f) = π m) : CutFrame (fun m => π m = v) where
  reg m a w h := (hreg m a w).trans h
  tele m f h := (htele m f).trans h
  flt m f h := (hflt m f).trans h
  dir m l f _ h := (hdir m l f).trans h
  out m k f h := (hout m k f).trans h
  stn m p _ h := (hstn m p _).trans h
  cbu m t f h := (hcbu m t f).trans h
  vc m k _ h := (hvc m k _).trans h
  niu m n _ h := (hniu m n _).trans h

/-! ## The links of a tile -/

/-- A link of a tile that goes DOWN. -/
def Link.downed (k : Link) : Link := if k.st = .excl then k else { k with st := if k.incl then .excl else .down, incl := false }

def Mach.linkDown (m : Mach) (n : Nat) : Mach :=
  if (m.link n).st = .excl then m
  else
    let m := m.modLink n (fun k => { k with st := if k.incl then .excl else .down, incl := false })
    let m := (m.clearDir (2 * n)).clearDir (2 * n + 1)
    ((m.finish (.train n) xSTATE).finish (.laneMap (2 * n)) xSTATE).finish (.laneMap (2 * n + 1)) xSTATE

theorem Mach.linksDown_eq (m : Mach) (t : Nat) : m.linksDown t = (tileLinks t).foldl Mach.linkDown m := rfl

/-- A property that holds through the loss of a tile's links. -/
structure DownFrame (P : Mach → Prop) : Prop extends CutFrame P where
  link   : ∀ m n f, P m → P (m.modLink n f)
  finish : ∀ m w st, P m → P (m.finish w st)

theorem DownFrame.linkDown {P : Mach → Prop} (h : DownFrame P) {m : Mach} (n : Nat) (hm : P m) : P (m.linkDown n) := by
  unfold Mach.linkDown
  split
  · exact hm
  · exact h.finish _ _ _ (h.finish _ _ _ (h.finish _ _ _ (h.clearDir _ (h.clearDir _ (h.link _ _ _ hm)))))

theorem DownFrame.linksDown {P : Mach → Prop} (h : DownFrame P) {m : Mach} (t : Nat) (hm : P m) : P (m.linksDown t) :=
  List.foldlRecOn _ _ hm (fun _ hm n _ => h.linkDown n hm)

theorem Mach.finish_keeps {γ : Type} {π : Mach → γ} (h : ∀ (m : Mach) l, π { m with engs := l } = π m) (m : Mach) (w : Wait) (st : Nat) :
    π (m.finish w st) = π m := by
  rw [Mach.finish_eq]
  exact h m _

theorem CutFrame.link (k : Nat) (v : Link) : CutFrame (fun m => m.link k = v) :=
  .of (π := fun m => m.link k) v (fun _ _ _ => rfl) (fun _ _ => rfl) (fun _ _ => rfl) (fun _ _ _ => rfl) (fun _ _ _ => rfl) (fun _ _ _ => rfl)
    (fun _ _ _ => rfl) (fun _ _ _ => rfl) (fun _ _ _ => rfl)

theorem Mach.link_linkDown (m : Mach) (n k : Nat) : (m.linkDown n).link k = if k = n then (m.link k).downed else m.link k := by
  unfold Mach.linkDown Link.downed
  by_cases hx : (m.link n).st = .excl
  · rw [if_pos hx]
    split
    next hk => subst hk; rw [if_pos hx]
    next => rfl
  · rw [if_neg hx]
    dsimp only
    rw [Mach.finish_keeps (π := fun m => m.link k) (fun _ _ => rfl), Mach.finish_keeps (π := fun m => m.link k) (fun _ _ => rfl),
      Mach.finish_keeps (π := fun m => m.link k) (fun _ _ => rfl)]
    refine (CutFrame.link k _).clearDir _ ((CutFrame.link k _).clearDir _ ?_)
    split
    next hk => subst hk; rw [if_neg hx, Mach.link_modLink]
    next hk => rw [Mach.link_modLink_ne _ _ hk]

theorem Mach.link_linksDown (m : Mach) {t : Nat} (ht : t < 128) (k : Nat) :
    (m.linksDown t).link k = if k ∈ tileLinks t then (m.link k).downed else m.link k := by
  have hone : ∀ t < 128, (tileLinks t).Nodup := by decide +kernel
  have hl := hone t ht
  rw [Mach.linksDown_eq]
  generalize tileLinks t = l at hl
  induction l generalizing m with
  | nil => simp
  | cons n l ih =>
    obtain ⟨hn, hl⟩ := List.nodup_cons.1 hl
    rw [List.foldl_cons, ih _ hl, Mach.link_linkDown]
    by_cases hk : k = n
    · subst hk
      rw [if_neg hn, if_pos rfl, if_pos (.head _)]
    · rw [if_neg hk]
      exact if_congr (by rw [List.mem_cons, or_iff_right hk]) rfl rfl

/-! ## A tile that loses its state -/

/-- A property that holds through the loss of a tile's links and registers. -/
structure LossFrame (P : Mach → Prop) : Prop extends DownFrame P where
  rp   : ∀ m r, P m → P { m with rp := r }
  regs : ∀ m r t, P m → P { m with regs := r, tele := t }

/-- What a tile's own units hold is gone: NIUs, router, combine unit. -/
def Mach.emptied (m : Mach) (t : Nat) : Mach :=
  let m := (domNius t).foldl (fun m n => m.modNiu n Niu.cleared) m
  { m with rin := Tab.keep (fun k => k / 96 ≠ t) m.rin, rout := Tab.keep (fun k => k / 96 ≠ t) m.rout,
           arb := Tab.keep (fun k => k / 8 ≠ t) m.arb, cb := Tab.keep (fun k => k / 256 ≠ t) m.cb,
           cbu := Tab.keep (fun k => k ≠ t) m.cbu }

/-- What a tile that loses its state leaves of the links and registers. -/
def Mach.unlinked (m : Mach) (t : Nat) : Mach := ((m.emptied t).linksDown t).clearRegs t (tileAddr t)

theorem LossFrame.unlinked {P : Mach → Prop} (h : LossFrame P) {m : Mach} (t : Nat) (hm : P (m.emptied t)) : P (m.unlinked t) :=
  h.regs _ _ _ (h.linksDown t hm)

end Sys2Proof.Machine

/-! PROOFS. A domain that opens: what it leaves of a tile's and of a spine domain's units (R385, R392, R431). -/

namespace Sys2Proof.Machine

/-! ## An opened domain -/

/-- The power side of a domain that opens: no leg closed, no reset release, no request to ramp. -/
def Mach.openedDom (m : Mach) (d : Nat) : Mach :=
  ((m.modDom d (fun x =>
    { x with st := .off, feed := 0, pgood := false, warn := false, pgWarn := false, lim := 0, timer := false, left := none })).modPwr
      (fun p => { p with reqs := p.reqs.filter (fun k => k ≠ d) })).modDom d (fun x => { x with live := false })

theorem Mach.dom_modReqs (m : Mach) (f : List Nat → List Nat) (k : Nat) :
    (m.modPwr (fun p => { p with reqs := f p.reqs })).dom k = m.dom k := rfl

theorem Mach.dom_openedDom (m : Mach) (d : Nat) : (m.openedDom d).dom d =
    { m.dom d with st := .off, feed := 0, pgood := false, warn := false, pgWarn := false, lim := 0, timer := false, left := none, live := false } := by
  rw [Mach.openedDom, Mach.dom_modDom, Mach.dom_modReqs, Mach.dom_modDom]

theorem Mach.dom_openedDom_ne (m : Mach) {d k : Nat} (h : k ≠ d) : (m.openedDom d).dom k = m.dom k := by
  rw [Mach.openedDom, Mach.dom_modDom_ne _ _ h, Mach.dom_modReqs, Mach.dom_modDom_ne _ _ h]

theorem Mach.openedDom_eq (m : Mach) (d : Nat) : m.openedDom d = { m with pwr := (m.openedDom d).pwr } := by
  unfold Mach.openedDom Mach.modDom Mach.modPwr
  rfl

theorem Mach.farDrop_eq (m : Mach) (d : Nat) : ∃ r, m.farDrop d = { m with rp := r } := by
  unfold Mach.farDrop
  generalize m.rp.far.any _ = b
  cases b
  · exact ⟨m.rp, rfl⟩
  · exact ⟨_, rfl⟩

theorem Mach.finishIf_running {m : Mach} {p : Wait → Bool} {st e : Nat} (h : (m.eng e).state ≠ .waiting) : (m.finishIf p st).eng e = m.eng e := by
  refine List.foldlRecOn (motive := fun a : Mach => a.eng e = m.eng e) _ _ rfl (fun a ha k _ => ?_)
  dsimp only
  split
  next hk =>
    have hne : e ≠ k := fun he => h (by rw [← ha, he]; exact hk.1)
    rw [Mach.eng_modEng_ne _ _ hne, ha]
  next => exact ha

theorem Mach.finishIf_keeps {γ : Type} {π : Mach → γ} (h : ∀ (m : Mach) l, π { m with engs := l } = π m) (m : Mach) (p : Wait → Bool) (st : Nat) :
    π (m.finishIf p st) = π m := by
  refine List.foldlRecOn (motive := fun a : Mach => π a = π m) _ _ rfl (fun a ha k _ => ?_)
  dsimp only
  split
  · exact (h a _).trans ha
  · exact ha

theorem Mach.leftDrop_none {m : Mach} (h : m.twin.left = []) (l : List Nat) : m.leftDrop l = m := by
  unfold Mach.leftDrop
  rw [h]
  rfl

theorem Tab.get_keep {α : Type} {d : Nat → α} (p : Nat → Bool) (t : Tab α) (k : Nat) :
    Tab.get d (Tab.keep p t) k = if p k then Tab.get d t k else d k := by
  unfold Tab.get Tab.keep
  rw [Tab.find_filter_key]
  split <;> rfl

/-! ## A tile -/

/-- What waited for an NIU of a tile that has lost its state. -/
def tileWaits (t : Nat) : Wait → Bool
  | .pin n _ => (domNius t).contains n
  | .sync ep => epTile ep == t
  | _ => false

theorem Mach.powerOff_tile (m : Mach) {d : Nat} (hd : d < 128) :
    m.powerOff d = ((((m.openedDom d).farDrop d).unlinked d).leftDrop (domNius d)).finishIf (tileWaits d) 0 := by
  show (if d < 128 then Mach.clearTile _ d else _) = _
  rw [if_pos hd]
  unfold Mach.clearTile
  refine congrArg (fun p => Mach.finishIf _ p 0) (funext fun w => ?_)
  cases w <;> rfl


/-- The value of a part of the machine, none of what a loss of links and registers changes. -/
theorem LossFrame.of {γ : Type} {π : Mach → γ} (v : γ) (hcut : CutFrame (fun m => π m = v)) (hlink : ∀ m n f, π (m.modLink n f) = π m)
    (hengs : ∀ (m : Mach) l, π { m with engs := l } = π m) (hrp : ∀ (m : Mach) r, π { m with rp := r } = π m)
    (hregs : ∀ (m : Mach) r t, π { m with regs := r, tele := t } = π m) : LossFrame (fun m => π m = v) where
  toCutFrame := hcut
  link m n f h := (hlink m n f).trans h
  finish m w st h := (Mach.finish_keeps hengs m w st).trans h
  rp m r h := (hrp m r).trans h
  regs m r t h := (hregs m r t).trans h

theorem LossFrame.twin (v : Twin) : LossFrame (fun m => m.twin = v) :=
  .of (π := fun m => m.twin) v (.of (π := fun m => m.twin) v (fun _ _ _ => rfl) (fun _ _ => rfl) (fun _ _ => rfl) (fun _ _ _ => rfl)
    (fun _ _ _ => rfl) (fun _ _ _ => rfl) (fun _ _ _ => rfl) (fun _ _ _ => rfl) (fun _ _ _ => rfl)) (fun _ _ _ => rfl) (fun _ _ => rfl)
    (fun _ _ => rfl) (fun _ _ _ => rfl)

theorem LossFrame.pwr (v : Power) : LossFrame (fun m => m.pwr = v) :=
  .of (π := fun m => m.pwr) v (.of (π := fun m => m.pwr) v (fun _ _ _ => rfl) (fun _ _ => rfl) (fun _ _ => rfl) (fun _ _ _ => rfl)
    (fun _ _ _ => rfl) (fun _ _ _ => rfl) (fun _ _ _ => rfl) (fun _ _ _ => rfl) (fun _ _ _ => rfl)) (fun _ _ _ => rfl) (fun _ _ => rfl)
    (fun _ _ => rfl) (fun _ _ _ => rfl)

/-- An engine that does not wait. -/
theorem LossFrame.eng (e : Nat) {x : Eng} (hx : x.state ≠ .waiting) : LossFrame (fun m => m.eng e = x) where
  toCutFrame := .of (π := fun m => m.eng e) x (fun _ _ _ => rfl) (fun _ _ => rfl) (fun _ _ => rfl) (fun _ _ _ => rfl)
    (fun _ _ _ => rfl) (fun _ _ _ => rfl) (fun _ _ _ => rfl) (fun _ _ _ => rfl) (fun _ _ _ => rfl)
  link _ _ _ h := h
  finish m w st h := by
    rw [Mach.eng_finish, if_neg (fun hw => hx (h ▸ hw.2.1)), h]
  rp _ _ h := h
  regs _ _ _ h := h

/-- An NIU that is in reset. -/
theorem Niu.clearEj_cleared (x : Niu) (vc : Nat) : x.cleared.clearEj vc = x.cleared := by
  simp [Niu.clearEj, Niu.cleared, Niu.init, Tab.set, dNil, dNone, Tab.del]

theorem LossFrame.niuReset (n : Nat) {x : Niu} (hx : ∀ vc, x.clearEj vc = x) : LossFrame (fun m => m.niu n = x) where
  reg _ _ _ h := h
  tele _ _ h := h
  flt _ _ h := h
  dir _ _ _ _ h := h
  out _ _ _ h := h
  stn _ _ _ h := h
  cbu _ _ _ h := h
  vc _ _ _ h := h
  niu m k vc h := by
    by_cases hk : n = k
    · rw [← hk, Mach.niu_modNiu, h, hx]
    · rw [Mach.niu_modNiu_ne _ _ hk, h]
  link _ _ _ h := h
  finish m w st h := (Mach.finish_keeps (π := fun m : Mach => m.niu n) (fun _ _ => rfl) m w st).trans h
  rp _ _ h := h
  regs _ _ _ h := h

/-- The input VCs of a tile's router hold nothing. -/
theorem LossFrame.vcs (t : Nat) : LossFrame (fun m => ∀ k, k / 96 = t → m.vc k = VcBuf.empty) where
  reg _ _ _ h := h
  tele _ _ h := h
  flt _ _ h := h
  dir _ _ _ _ h := h
  out _ _ _ h := h
  stn _ _ _ h := h
  cbu _ _ _ h := h
  vc m k hc h i hi := by
    have hne : i ≠ k := fun he => by
      rw [← he, h i hi] at hc
      exact absurd hc (by decide)
    rw [Mach.vc_modVc_ne m _ hne, h i hi]
  niu _ _ _ h := h
  link _ _ _ h := h
  finish m w st h i hi := (Mach.finish_keeps (π := fun m : Mach => m.vc i) (fun _ _ => rfl) m w st).trans (h i hi)
  rp _ _ h := h
  regs _ _ _ h := h

/-! ### The units of the tile themselves -/

theorem domNius_nodup {d : Nat} (hd : d < 128) : (domNius d).Nodup := by
  have h : ∀ d < 128, (domNius d).Nodup := by decide +kernel
  exact h d hd

theorem Mach.emptied_eq (m : Mach) (t : Nat) : m.emptied t =
    { m with nius := ((domNius t).foldl (fun m n => m.modNiu n Niu.cleared) m).nius, rin := Tab.keep (fun k => k / 96 ≠ t) m.rin,
             rout := Tab.keep (fun k => k / 96 ≠ t) m.rout, arb := Tab.keep (fun k => k / 8 ≠ t) m.arb, cb := Tab.keep (fun k => k / 256 ≠ t) m.cb,
             cbu := Tab.keep (fun k => k ≠ t) m.cbu } := by
  unfold Mach.emptied
  rw [Mach.foldl_modNiu_eq (fun _ => Niu.cleared)]

theorem Mach.niu_emptied (m : Mach) {t : Nat} (ht : t < 128) (n : Nat) :
    (m.emptied t).niu n = if n ∈ domNius t then (m.niu n).cleared else m.niu n :=
  (congrArg (fun t => Tab.get dNiu t n) (show (m.emptied t).nius = ((domNius t).foldl (fun m n => m.modNiu n Niu.cleared) m).nius by
    rw [Mach.emptied_eq])).trans (Mach.niu_foldl_modNiu (fun _ => Niu.cleared) (domNius_nodup ht) m n)

theorem Mach.vc_emptied (m : Mach) {t k : Nat} (hk : k / 96 = t) : (m.emptied t).vc k = VcBuf.empty := by
  have h : (m.emptied t).vc k = Tab.get dVc (Tab.keep (fun k => k / 96 ≠ t) m.rin) k := by rw [Mach.emptied_eq]; rfl
  rw [h, Tab.get_keep, if_neg (by simp [hk])]
  rfl

/-- The tile before what waits for it ends. -/
def Mach.lost (m : Mach) (d : Nat) : Mach := ((m.openedDom d).farDrop d).unlinked d

/-- A property of the lost tile, from the tile whose units have just been emptied. -/
theorem LossFrame.lost {P : Mach → Prop} (h : LossFrame P) {m : Mach} {d : Nat}
    (hm : ∀ r, P (({ m.openedDom d with rp := r } : Mach).emptied d)) : P (m.lost d) := by
  obtain ⟨r, hr⟩ := (m.openedDom d).farDrop_eq d
  rw [Mach.lost, hr]
  exact h.unlinked d (hm r)

theorem Mach.twin_lost (m : Mach) (d : Nat) : (m.lost d).twin = m.twin :=
  (LossFrame.twin m.twin).lost (fun r => by rw [Mach.emptied_eq, Mach.openedDom_eq])

theorem Mach.pwr_lost (m : Mach) (d : Nat) : (m.lost d).pwr = (m.openedDom d).pwr :=
  (LossFrame.pwr _).lost (fun r => by rw [Mach.emptied_eq])

theorem Mach.eng_lost {m : Mach} {e : Nat} (h : (m.eng e).state ≠ .waiting) (d : Nat) : (m.lost d).eng e = m.eng e :=
  (LossFrame.eng e h).lost (fun r => by rw [Mach.emptied_eq, Mach.openedDom_eq]; rfl)

theorem Mach.niu_lost (m : Mach) {d n : Nat} (hd : d < 128) (hn : n ∈ domNius d) : (m.lost d).niu n = (m.niu n).cleared :=
  (LossFrame.niuReset n (Niu.clearEj_cleared _)).lost (fun r => by
    rw [Mach.niu_emptied _ hd, if_pos hn, Mach.openedDom_eq]; rfl)

theorem Mach.vc_lost (m : Mach) {d k : Nat} (hk : k / 96 = d) : (m.lost d).vc k = VcBuf.empty :=
  (LossFrame.vcs d).lost (fun _ _ hk => Mach.vc_emptied _ hk) k hk

theorem Mach.link_lost (m : Mach) {d : Nat} (hd : d < 128) {n : Nat} (hn : n ∈ tileLinks d) : (m.lost d).link n = (m.link n).downed := by
  obtain ⟨r, hr⟩ := (m.openedDom d).farDrop_eq d
  rw [Mach.lost, hr, Mach.unlinked]
  have h : ∀ a : Mach, (a.clearRegs d (tileAddr d)).link n = a.link n := fun a => rfl
  rw [h, Mach.link_linksDown _ hd, if_pos hn, Mach.emptied_eq, Mach.openedDom_eq]
  rfl

end Sys2Proof.Machine

/-! PROOFS. A spine domain that opens (R385, R392, R431), and the domain instructions (O40). -/

namespace Sys2Proof.Machine

/-! ## A spine domain -/

section
variable {γ : Type} {π : Mach → γ}

theorem Mach.withdraw_keeps (hniu : ∀ m n f, π (m.modNiu n f) = π m) (himg : ∀ (m : Mach) i, π { m with img := i } = π m) (m : Mach) (e : Nat) :
    π (m.withdraw e) = π m := by
  unfold Mach.withdraw
  split
  · exact himg m _
  · exact hniu m _ _
  · rfl

theorem Mach.releaseToken_keeps (htok : ∀ (m : Mach) t, π { m with token := t } = π m) (m : Mach) (e : Nat) : π (m.releaseToken e) = π m := by
  unfold Mach.releaseToken
  split
  · exact htok m _
  · rfl

/-- An engine loses its state: what stays of the rest. -/
theorem Mach.clearEngine_keeps {e : Nat} (hniu : ∀ m n f, π (m.modNiu n f) = π m) (himg : ∀ (m : Mach) i, π { m with img := i } = π m)
    (htok : ∀ (m : Mach) t, π { m with token := t } = π m) (hregs : ∀ (m : Mach) r, π { m with regs := r } = π m)
    (heng : ∀ (m : Mach) f, π (m.modEng e f) = π m) (m : Mach) (st : EngSt) : π (m.clearEngine e st) = π m := by
  unfold Mach.clearEngine
  dsimp only
  rw [heng]
  exact (hregs _ _).trans ((hregs _ _).trans ((Mach.releaseToken_keeps htok _ e).trans (Mach.withdraw_keeps hniu himg m e)))

end

theorem Mach.eng_clearEngine (m : Mach) (e : Nat) (st : EngSt) :
    (m.clearEngine e st).eng e = { Eng.init with state := st, post := (m.eng e).post } := by
  have h : ((m.withdraw e).releaseToken e).eng e = m.eng e :=
    (Mach.releaseToken_keeps (π := fun m => m.eng e) (fun _ _ => rfl) _ e).trans
      (Mach.withdraw_keeps (π := fun m => m.eng e) (fun _ _ _ => rfl) (fun _ _ => rfl) m e)
  unfold Mach.clearEngine
  dsimp only
  rw [Mach.eng_modEng, Mach.eng_setFld]
  exact congrArg (fun x : Eng => { Eng.init with state := st, post := x.post }) h

/-- Changes of the eight stations of a spine domain. -/
theorem Mach.stn_foldl (f : Station → Station) (m : Mach) (q p : Nat) :
    ((List.range 8).foldl (fun m i => m.modStn (8 * q + i) f) m).stn p = if p / 8 = q then f (m.stn p) else m.stn p := by
  have h (l : List Nat) (hl : l.Nodup) (m : Mach) :
      (l.foldl (fun m i => m.modStn (8 * q + i) f) m).stn p = if 8 * q ≤ p ∧ p - 8 * q ∈ l then f (m.stn p) else m.stn p := by
    induction l generalizing m with
    | nil => simp
    | cons i l ih =>
      obtain ⟨hi, hl⟩ := List.nodup_cons.1 hl
      rw [List.foldl_cons, ih hl]
      by_cases hp : p = 8 * q + i
      · have : p - 8 * q = i := by omega
        rw [this, if_neg (fun hh => hi hh.2), if_pos ⟨by omega, .head _⟩, hp, Mach.stn_modStn]
      · rw [Mach.stn_modStn_ne m f hp]
        refine if_congr (and_congr_right fun hle => ?_) rfl rfl
        rw [List.mem_cons, or_iff_right (by omega)]
  rw [h _ List.nodup_range]
  refine if_congr ?_ rfl rfl
  rw [List.mem_range]
  omega

section
variable {γ : Type} {π : Mach → γ}

theorem Mach.rotorOff_keeps (hreg : ∀ m a w, π (m.setReg a w) = π m)
    (hspine : ∀ (m : Mach) (f : Spine → Spine), (∀ x, (f x).stn = x.stn) → π (m.modSpine f) = π m) (m : Mach) : π m.rotorOff = π m := by
  have hlock (l : Lock) : π (m.setLock l) = π m := by
    unfold Mach.setLock
    dsimp only
    split
    · exact (hreg _ _ _).trans (hspine m _ (fun _ => rfl))
    · exact hspine m _ (fun _ => rfl)
  unfold Mach.rotorOff
  split
  · rfl
  · refine (hspine _ _ ?_).trans (hlock .free)
    exact fun _ => rfl

/-- The turn bits of a spine domain's stations are gone. -/
def Mach.unturned (m : Mach) (q : Nat) : Mach :=
  (List.range 8).foldl (fun m i => m.modStn (8 * q + i) (fun x => { x with turnL := 0, turnS := [] })) m

theorem Mach.unturned_keeps (hspine : ∀ (m : Mach) x, π { m with spine := x } = π m) (m : Mach) (q : Nat) : π (m.unturned q) = π m := by
  refine foldl_keeps π _ _ _ (fun m i => ?_)
  exact hspine m _

theorem Mach.clearSpine_eq (m : Mach) (q : Nat) : m.clearSpine q =
    ((((m.clearEngine (q + 1) .off).clearRegs (128 + q) (spineAddr q)).unturned q).setFld (aEng (q + 1) 0x58) 32 16
      (m.fld (aEng (q + 1) 0x58) 32 16)).rotorOff := rfl

/-- What a spine domain's loss of its state leaves, its stations' turns apart. -/
theorem Mach.clearSpine_keeps {q : Nat} (hniu : ∀ m n f, π (m.modNiu n f) = π m) (himg : ∀ (m : Mach) i, π { m with img := i } = π m)
    (htok : ∀ (m : Mach) t, π { m with token := t } = π m) (hregs : ∀ (m : Mach) r, π { m with regs := r } = π m)
    (htele : ∀ (m : Mach) t, π { m with tele := t } = π m) (heng : ∀ (m : Mach) f, π (m.modEng (q + 1) f) = π m)
    (hspine : ∀ (m : Mach) x, π { m with spine := x } = π m) (m : Mach) : π (m.clearSpine q) = π m := by
  rw [Mach.clearSpine_eq, Mach.rotorOff_keeps (fun m a w => hregs m _) (fun m f _ => hspine m _)]
  refine (hregs _ _).trans ((Mach.unturned_keeps hspine _ _).trans ?_)
  rw [← Mach.clearEngine_keeps hniu himg htok hregs heng m .off]
  generalize m.clearEngine (q + 1) .off = a
  exact (htele { a with regs := Tab.keep (fun a => !spineAddr q a) a.regs } _).trans (hregs a _)

end

theorem Mach.eng_clearSpine (m : Mach) (q : Nat) : (m.clearSpine q).eng (q + 1) = { Eng.init with state := .off, post := (m.eng (q + 1)).post } := by
  rw [Mach.clearSpine_eq, Mach.rotorOff_keeps (π := fun m => m.eng (q + 1)) (fun _ _ _ => rfl) (fun _ _ _ => rfl), Mach.eng_setFld,
    Mach.unturned_keeps (π := fun m => m.eng (q + 1)) (fun _ _ => rfl)]
  exact m.eng_clearEngine (q + 1) .off

theorem Mach.stn_rotorOff (m : Mach) (p : Nat) : m.rotorOff.stn p = m.stn p :=
  Mach.rotorOff_keeps (π := fun m => m.stn p) (fun _ _ _ => rfl) (fun _ _ hf => congrArg (fun t => Tab.get dStn t p) (hf _)) m

theorem Mach.stn_clearSpine (m : Mach) (q p : Nat) : (m.clearSpine q).stn p =
    if p / 8 = q then { m.stn p with turnL := 0, turnS := [] } else m.stn p := by
  have h : ((m.clearEngine (q + 1) .off).clearRegs (128 + q) (spineAddr q)).stn p = m.stn p :=
    Mach.clearEngine_keeps (π := fun m => m.stn p) (fun _ _ _ => rfl) (fun _ _ => rfl) (fun _ _ => rfl) (fun _ _ => rfl) (fun _ _ => rfl) m .off
  rw [Mach.clearSpine_eq, Mach.stn_rotorOff, Mach.stn_setFld, Mach.unturned, Mach.stn_foldl (fun x => { x with turnL := 0, turnS := [] }), h]

theorem Mach.powerOff_spine (m : Mach) {d : Nat} (h1 : 128 ≤ d) (h2 : d < 132) : m.powerOff d = ((m.openedDom d).farDrop d).clearSpine (d - 128) := by
  show (if d < 128 then _ else if d < 132 then Mach.clearSpine _ _ else _) = _
  rw [if_neg (by omega), if_pos h2]
  rfl

theorem Mach.powerOff_spine_eq (m : Mach) {d : Nat} (h1 : 128 ≤ d) (h2 : d < 132) :
    ∃ r, m.powerOff d = ({ m with pwr := (m.openedDom d).pwr, rp := r } : Mach).clearSpine (d - 128) := by
  obtain ⟨r, hr⟩ := (m.openedDom d).farDrop_eq d
  refine ⟨r, ?_⟩
  rw [Mach.powerOff_spine m h1 h2, hr, Mach.openedDom_eq]

end Sys2Proof.Machine

/-! PROOFS. The domain instructions (O40). -/

namespace Sys2Proof.Machine

section
variable {s : State} {e : EngId} {w : Word} {d : Nat}

theorem Mach.dom_issued (m : Mach) (e : Nat) (w : Word) (d : Nat) : (m.issued e w).dom d = m.dom d := by rw [Mach.issued_eq]; rfl

theorem Mach.feedOk_issued (m : Mach) (e : Nat) (w : Word) (k : Nat) : (m.issued e w).feedOk k = m.feedOk k := by rw [Mach.issued_eq]; rfl

theorem Mach.pwr_issued (m : Mach) (e : Nat) (w : Word) : (m.issued e w).pwr = m.pwr := by rw [Mach.issued_eq]

theorem Mach.twin_issued (m : Mach) (e : Nat) (w : Word) : (m.issued e w).twin = m.twin := by rw [Mach.issued_eq]

theorem Mach.stn_issued (m : Mach) (e : Nat) (w : Word) (p : Nat) : (m.issued e w).stn p = m.stn p := by rw [Mach.issued_eq]; rfl

theorem Mach.link_issued (m : Mach) (e : Nat) (w : Word) (n : Nat) : (m.issued e w).link n = m.link n := by rw [Mach.issued_eq]; rfl

theorem Mach.state_issued (m : Mach) (e : Nat) (w : Word) (k : Nat) : ((m.issued e w).eng k).state = (m.eng k).state := by
  by_cases hk : k = e
  · rw [hk, Mach.eng_issued]
  · rw [Mach.issued, Mach.eng_modEng_ne _ _ hk, Mach.eng_readPc]

theorem Mach.engineBusy_issued (m : Mach) (e : Nat) (w : Word) (d : Nat) : (m.issued e w).engineBusy d = m.engineBusy d := by
  unfold Mach.engineBusy
  rw [Mach.state_issued]

theorem Mach.anyStn_issued (m : Mach) (e : Nat) (w : Word) (d : Nat) (p : StnSt → Bool) : (m.issued e w).anyStn d p = m.anyStn d p := by
  unfold Mach.anyStn
  simp only [Mach.hasSpine_issued, Mach.stn_issued]

/-- What a domain instruction does on a domain in scope while the AON clock runs. -/
theorem exec_domRow {i : Instr} {opc top : Nat} {lim : Bool} {act : Word → Nat → Mach → Mach} (hd : ((s.m.eng e).reg (wA w)).toNat = d)
    (hs : inScope e (domQuad d) = true) (ha : s.m.clk.astop = false)
    (hx : exec i s = s.on (fun m => m.issue e opc anyWord (fun w m => m.domOp e w lim top (act w)))) (h : Issues s e w opc) (hle : d ≤ top) :
    exec i s = .next { s with m := act w d (s.m.issued e w) } := by
  rw [exec_issue hx h, Mach.domOp_acts (by rw [Mach.reg_eng_issued]; exact hd) hs hle (by rw [Mach.clk_issued]; exact ha)]

/-- ... and on one that it cannot name. -/
theorem exec_domRow_range {i : Instr} {opc top : Nat} {lim : Bool} {act : Word → Nat → Mach → Mach} (hd : ((s.m.eng e).reg (wA w)).toNat = d)
    (hs : inScope e (domQuad d) = true)
    (hx : exec i s = s.on (fun m => m.issue e opc anyWord (fun w m => m.domOp e w lim top (act w)))) (h : Issues s e w opc) (hlt : top < d) :
    exec i s = .next { s with m := (s.m.issued e w).endStatus e 3 [] } := by
  rw [exec_issue hx h, Mach.domOp_range (by rw [Mach.reg_eng_issued]; exact hd) hs hlt]
end

theorem running_of_issues {s : State} {e opc : Nat} {w : Word} (h : Issues s e w opc) : (s.m.eng e).state = .running := by
  obtain ⟨-, hf, -⟩ := h
  unfold Mach.fetch at hf
  dsimp only at hf
  by_contra hne
  rw [if_pos hne] at hf
  cases hf

/-! ## What the rows leave -/

theorem Mach.clk_setFence (m : Mach) (t v : Nat) : (m.setFence t v).clk = m.clk := by
  rw [Mach.setFence_eq]
  refine (foldl_keeps (fun m : Mach => m.clk) _ _ _ (fun m n => ?_)).trans rfl
  unfold Mach.fenceAt
  split <;> rfl

/-- A tile that drains: its ports are stopped. -/
theorem Mach.draining_leaves (m : Mach) (e : Nat) (w : Word) {d : Nat} (hd : d < 128) (hst : (m.dom d).st = .on) :
    (m.doDrain e w d).dom d = { m.dom d with st := .draining } ∧ ((m.doDrain e w d).eng e).wait = .drain d ∧
      ∀ n, n / 4 = d → ((m.doDrain e w d).niu n).unit = none := by
  rw [Mach.doDrain_tile hst hd]
  unfold Mach.startLimit Mach.setWait
  refine ⟨?_, ?_, fun n hn => ?_⟩
  · rw [Mach.dom_modEng, Mach.dom_modEng, Mach.dom_stopPorts, Mach.dom_modDom]
  · rw [Mach.eng_modEng, Mach.eng_modEng]
  · rw [Mach.niu_modEng, Mach.niu_modEng]
    exact Mach.idlePorts_stopPorts _ d hd n hn

theorem Mach.powerOff_lost {m : Mach} {d : Nat} (hd : d < 128) (ht : m.twin.left = []) :
    m.powerOff d = (m.lost d).finishIf (tileWaits d) 0 := by
  rw [Mach.powerOff_tile m hd, ← Mach.lost, Mach.leftDrop_none (by rw [Mach.twin_lost]; exact ht)]

/-- A tile that DOM.OFF opens. -/
theorem Mach.switchedOff_tile {m : Mach} {d e : Nat} (hd : d < 128) (ht : m.twin.left = []) (he : (m.eng e).state = .running) :
    (m.switchedOff d).eng e = m.eng e ∧ (m.switchedOff d).pwr.fence = m.pwr.fence ∧
      (m.switchedOff d).dom d = { m.dom d with
        st := .off, feed := 0, pgood := false, warn := false, pgWarn := false, lim := 0, timer := false, live := false,
        alert := (m.dom d).alert && !(m.dom d).redo, flt := false, left := none } ∧
      (∀ n ∈ domNius d, (m.switchedOff d).niu n = (m.niu n).cleared) ∧ (∀ k, k / 96 = d → (m.switchedOff d).vc k = VcBuf.empty) ∧
      (∀ n ∈ tileLinks d, (m.switchedOff d).link n = (m.link n).downed) := by
  have he : (m.eng e).state ≠ .waiting := by rw [he]; decide
  have hel : (m.lost d).eng e = m.eng e := Mach.eng_lost he d
  have hpwr : (m.powerOff d).pwr = (m.openedDom d).pwr := by
    rw [Mach.powerOff_lost hd ht, Mach.finishIf_keeps (π := fun m => m.pwr) (fun _ _ => rfl), Mach.pwr_lost]
  unfold Mach.switchedOff
  refine ⟨?_, ?_, ?_, fun n hn => ?_, fun k hk => ?_, fun n hn => ?_⟩
  · rw [Mach.eng_modDom, Mach.powerOff_lost hd ht, Mach.finishIf_running (by rw [hel]; exact he), hel]
  · have hf : ∀ (a : Mach) f, (a.modDom d f).pwr.fence = a.pwr.fence := fun _ _ => rfl
    have ho : (m.openedDom d).pwr.fence = m.pwr.fence := rfl
    rw [hf, hpwr, ho]
  · have hk : (m.powerOff d).dom d = (m.openedDom d).dom d := by
      unfold Mach.dom
      rw [hpwr]
    rw [Mach.dom_modDom, hk, Mach.dom_openedDom]
  · rw [Mach.niu_modDom, Mach.powerOff_lost hd ht, Mach.finishIf_keeps (π := fun m => m.niu n) (fun _ _ => rfl), Mach.niu_lost m hd hn]
  · rw [Mach.vc_modDom, Mach.powerOff_lost hd ht, Mach.finishIf_keeps (π := fun m => m.vc k) (fun _ _ => rfl), Mach.vc_lost m hk]
  · rw [Mach.link_modDom, Mach.powerOff_lost hd ht, Mach.finishIf_keeps (π := fun m => m.link n) (fun _ _ => rfl), Mach.link_lost m hd hn]

theorem Link.downed_st {k : Link} (h : k.st ≠ .excl) : k.downed.st = if k.incl then .excl else .down := by
  unfold Link.downed
  rw [if_neg h]

/-- A spine domain that DOM.OFF opens. -/
theorem Mach.switchedOff_spine {m : Mach} {d e : Nat} (h1 : 128 ≤ d) (h2 : d < 132) (he : e ≠ d - 127) :
    (m.switchedOff d).eng e = m.eng e ∧ ((m.switchedOff d).dom d).st = .off ∧ ((m.switchedOff d).eng (d - 127)).state = .off ∧
      ∀ p, (m.switchedOff d).stn p = if p / 8 = d - 128 then { m.stn p with turnL := 0, turnS := [] } else m.stn p := by
  obtain ⟨r, hr⟩ := m.powerOff_spine_eq h1 h2
  have hopen := m.dom_openedDom d
  generalize m.openedDom d = o at hr hopen
  have hq : d - 128 + 1 = d - 127 := by omega
  unfold Mach.switchedOff
  rw [hr]
  refine ⟨?_, ?_, ?_, fun p => ?_⟩
  · rw [Mach.eng_modDom]
    exact Mach.clearSpine_keeps (π := fun m => m.eng e) (fun _ _ _ => rfl) (fun _ _ => rfl) (fun _ _ => rfl) (fun _ _ => rfl) (fun _ _ => rfl)
      (fun m f => Mach.eng_modEng_ne m f (by rw [hq]; exact he)) (fun _ _ => rfl) _
  · have hk : (({ m with pwr := o.pwr, rp := r } : Mach).clearSpine (d - 128)).dom d = o.dom d :=
      Mach.clearSpine_keeps (π := fun m => m.dom d) (fun _ _ _ => rfl) (fun _ _ => rfl) (fun _ _ => rfl) (fun _ _ => rfl) (fun _ _ => rfl)
        (fun _ _ => rfl) (fun _ _ => rfl) _
    rw [Mach.dom_modDom, hk, hopen]
  · rw [Mach.eng_modDom, ← hq, Mach.eng_clearSpine]
  · rw [Mach.stn_modDom, Mach.stn_clearSpine]
    rfl

/-- A domain that DOM.ON has asked for. -/
def PDom.asked (y : PDom) (retries : Nat) : PDom :=
  { y with st := .ramp, retryP := false, latched := false, retries := retries, boot := false, redo := true }

def Mach.modReqs (m : Mach) (d : Nat) : Mach := m.modPwr (fun p => { p with reqs := p.reqs.filter (fun k => k ≠ d) ++ [d] })

theorem Mach.Like.modReqs {a m : Mach} (h : a.Like m) (d : Nat) : (a.modReqs d).Like (m.modReqs d) :=
  h.modPwr (fun p => { p with reqs := p.reqs.filter (fun k => k ≠ d) ++ [d] }) (fun _ => rfl) (fun _ _ => rfl)

theorem Mach.LikeAt.modReqs {a m : Mach} {e : Nat} {x : Eng} (h : a.LikeAt e x m) (d : Nat) : (a.modReqs d).LikeAt e x (m.modReqs d) :=
  h.modPwr (fun p => { p with reqs := p.reqs.filter (fun k => k ≠ d) ++ [d] }) (fun _ => rfl) (fun _ _ => rfl)

theorem Mach.Like.startLimit {a m : Mach} (h : a.Like m) (e units : Nat) : (a.startLimit e units).Like (m.startLimit e units) := by
  unfold Mach.startLimit
  rw [h.clk]
  exact h.modEng e _

/-- DOM.ON asks for the ramp. -/
theorem Mach.LikeAt.doOn {a m : Mach} {e d : Nat} {x : Eng} (h : a.LikeAt e x m) (w : Word) (hst : (a.dom d).st = .off) :
    (a.doOn e w d).LikeAt e { x with state := .waiting, wait := .domOn d, limit := limitCycles m.clk.mode (wLimit w) }
      ((m.modDom d (fun y => y.asked (a.pdRetry d))).modReqs d) := by
  have hl := (((h.modDom d (fun y => y.asked (a.pdRetry d))).modReqs d).setWait (.domOn d)).startLimit (wLimit w)
  have ha : a.doOn e w d = ((((a.modDom d (fun y => { y with st := .ramp, retryP := false, latched := false })).modDom d
      (fun y => { y with retries := a.pdRetry d, boot := false, redo := true })).modReqs d).setWait e (.domOn d)).startLimit e (wLimit w) :=
    if_neg (fun hn => hn hst)
  refine hl.like ?_
  rw [ha]
  refine Mach.Like.startLimit (Mach.Like.modEng (Mach.Like.modReqs ?_ d) e _) e _
  exact Mach.modDom_modDom a d _ _

/-- Settles O40: each row by the state that it finds the domain in. -/
theorem domainInstructions : Obligations.DomainInstructions := by
  intro s e w d x y gone waits spine busy parked still hd hs ha
  have hdom : (s.m.issued e w).dom d = y := s.m.dom_issued e w d
  have hbusy : s.m.engineBusy d = true ↔ spine ∧ busy := Mach.engineBusy_iff
  have hany : s.m.anyStn d StnSt.runs = true ↔ spine ∧ ¬ parked := Mach.anyStn_runs
  have hstopped (h : still) : (s.m.issued e w).stopped d := by
    obtain ⟨hsp, hnb, hp⟩ := h
    exact ⟨by rw [Mach.engineBusy_issued]; exact Bool.eq_false_iff.2 (fun hb => hnb (hbusy.1 hb).2),
      by rw [Mach.anyStn_issued]; exact Bool.eq_false_iff.2 (fun hb => (hany.1 hb).2 hp)⟩
  have hstate (st : DSt) (h : y.st ≠ st ∨ (spine ∧ (busy ∨ ¬ parked))) : ((s.m.issued e w).dom d).st ≠ st ∨
      (s.m.issued e w).engineBusy d = true ∨ (s.m.issued e w).anyStn d StnSt.runs = true := by
    rw [hdom, Mach.engineBusy_issued, Mach.anyStn_issued, hbusy, hany]
    exact h.imp id (fun ⟨hsp, hh⟩ => hh.imp (fun hb => ⟨hsp, hb⟩) (fun hp => ⟨hsp, hp⟩))
  have hend {i : Instr} {opc top st : Nat} {lim : Bool} {act : Word → Nat → Mach → Mach}
      (hx : exec i s = s.on (fun m => m.issue e opc anyWord (fun w m => m.domOp e w lim top (act w)))) (h : Issues s e w opc) (hle : d ≤ top)
      (hact : act w d (s.m.issued e w) = (s.m.issued e w).endStatus e st []) : Does i s (gone st) :=
    Does.of_exec ((exec_domRow hd hs ha hx h hle).trans (by rw [hact]; rfl))
  have hrange {i : Instr} {opc top : Nat} {lim : Bool} {act : Word → Nat → Mach → Mach}
      (hx : exec i s = s.on (fun m => m.issue e opc anyWord (fun w m => m.domOp e w lim top (act w)))) (h : Issues s e w opc) (hlt : top < d) :
      Does i s (gone 3) := Does.of_exec (exec_domRow_range hd hs hx h hlt)
  have hone := s.m.issued_likeAt e w
  have hclk : (s.m.readPc e).clk.mode = s.m.clk.mode := by rw [Mach.readPc_eq]
  refine ⟨fun h hlt hst hidle => ?_, fun h hlt hst => ?_, fun h hstill hst => ?_, fun h hlt hbad => ?_, fun h hlt hst => ?_,
    fun h hsp hnb hst => ?_, fun h hlt hbad => ?_, fun h hlt hst htw => ?_, fun h hstill hst => ?_, fun h hlt hbad => ?_, fun h hlt hst => ?_,
    fun h hlt hst => ?_, fun h hlt hst => ?_, fun h hlt hst1 hst2 => ?_, fun h hlt hk => ?_, fun k h hlt hk hk12 hok h0 hne hbl => ?_,
    fun k h hlt hk hk12 hok h0 hne hbl => ?_, fun k h hlt hk hk12 hok => ?_, fun k h hlt hk hk12 hok hf => ?_, fun h hlt hk => ?_,
    fun h hd => ?_, fun h hd => ?_, fun h hd => ?_, fun h hd => ?_, fun h hd => ?_, fun h hlt => ?_⟩
  · refine DoesAt.of_exec (exec_domRow hd hs ha rfl h (by omega)) ?_
    have hi : ((s.m.issued e w).modDom d (fun y => { y with st := .draining })).idlePorts d := fun _ n hn => by
      rw [← hidle n hn, ← s.m.niu_issued e w n]; rfl
    rw [Mach.doDrain_tile (by rw [hdom, hst]) hlt, Mach.stopPorts_idle hi]
    have hr := ((hone.modDom d (fun y => { y with st := .draining })).setWait (.drain d)).startLimit (wLimit w)
    have hc : ((s.m.readPc e).modDom d (fun y => { y with st := .draining })).clk.mode = s.m.clk.mode := hclk
    rw [hc] at hr
    exact hr
  · refine ⟨_, exec_domRow hd hs ha rfl h (by omega), ?_, ?_, fun n hn => ?_⟩
    · rw [(Mach.draining_leaves _ e w hlt (by rw [hdom, hst])).1, hdom]
    · exact (Mach.draining_leaves _ e w hlt (by rw [hdom, hst])).2.1
    · exact (Mach.draining_leaves _ e w hlt (by rw [hdom, hst])).2.2 n hn
  · refine DoesAt.of_exec (exec_domRow hd hs ha rfl h (by have := hstill.1; omega)) ?_
    rw [Mach.doDrain_spine (by rw [hdom, hst]) hstill.1.1 (hstopped hstill)]
    exact (hone.modDom d _).done 0 []
  · exact hend rfl h (by omega) (Mach.doDrain_state (hstate _ hbad))
  · refine DoesAt.of_exec (exec_domRow hd hs ha rfl h (by omega)) ?_
    rw [Mach.doFence_tile (by rw [hdom, hst]) hlt]
    have hr := ((hone.setFence d 1).setWait (.fence d)).startLimit (wLimit w)
    rw [Mach.clk_setFence, hclk] at hr
    exact hr
  · refine DoesAt.of_exec (exec_domRow hd hs ha rfl h (by omega)) ?_
    rw [Mach.doFence_spine (by rw [hdom, hst]) hsp.1 (by rw [Mach.engineBusy_issued]; exact Bool.eq_false_iff.2 (fun hb => hnb (hbusy.1 hb).2))]
    exact (hone.modDom d _).done 0 []
  · refine hend rfl h (by omega) (Mach.doFence_state ?_)
    rw [hdom, Mach.engineBusy_issued, hbusy]
    exact hbad
  · obtain ⟨heng, hfence, hopen, hnius, hvcs, hlinks⟩ := Mach.switchedOff_tile (m := s.m.issued e w) (e := e) hlt (by rw [Mach.twin_issued]; exact htw)
      (by rw [Mach.state_issued]; exact running_of_issues h)
    refine ⟨_, (exec_domRow hd hs ha rfl h (by omega)).trans (by rw [Mach.doOff_opens (by rw [hdom, hst]) (Mach.stopped_tile hlt)]),
      ?_, ?_, ?_, fun n hn => ?_, fun k hk => ?_, fun n hn hx => ?_⟩
    · rw [Mach.done, Mach.eng_modEng, heng, Mach.eng_issued]
      rfl
    · rw [Mach.done, Mach.pwr_modEng, hfence, Mach.pwr_issued, Mach.readPc_eq]
    · rw [Mach.done, Mach.dom_modEng, hopen, hdom]
    · rw [Mach.done, Mach.niu_modEng, hnius n hn, Mach.niu_issued, Mach.niu_readPc]
    · rw [Mach.done, Mach.vc_modEng, hvcs k hk]
    · rw [Mach.done, Mach.link_modEng, hlinks n hn, Mach.link_issued, Link.downed_st hx]
  · obtain ⟨hsp, hnb, hp⟩ := hstill
    have hne : e.val ≠ d - 127 := fun he => hnb (.inl (by rw [← he]; exact running_of_issues h))
    obtain ⟨heng, hoff, hq, hstn⟩ := Mach.switchedOff_spine (m := s.m.issued e w) hsp.1 hsp.2 hne
    refine ⟨_, (exec_domRow hd hs ha rfl h (by omega)).trans (by rw [Mach.doOff_opens (by rw [hdom, hst]) (hstopped ⟨hsp, hnb, hp⟩)]),
      ?_, ?_, ?_, fun p => ?_⟩
    · rw [Mach.done, Mach.eng_modEng, heng, Mach.eng_issued]
      rfl
    · rw [Mach.done, Mach.dom_modEng, hoff]
    · rw [Mach.done, Mach.eng_modEng_ne _ _ (Ne.symm hne), hq]
    · rw [Mach.done, Mach.stn_modEng, hstn, Mach.stn_issued]
  · exact hend rfl h (by omega) (Mach.doOff_state (hstate _ hbad))
  · refine DoesAt.of_exec (exec_domRow hd hs ha rfl h (by omega)) ?_
    have hr : (s.m.issued e w).pdRetry d = (s.m.readPc e).fld (aDom d 0x08) 8 4 := by rw [Mach.issued_eq, Mach.readPc_eq]; rfl
    have hl := hone.doOn w (d := d) (by rw [hdom]; exact hst)
    rw [hr, hclk] at hl
    exact hl
  · exact hend rfl h (by omega) (Mach.doOn_state (by rw [hdom]; exact hst))
  · refine DoesAt.of_exec (exec_domRow hd hs ha rfl h (by omega)) ?_
    rw [Mach.doUnfence_on (by rw [hdom]; exact hst)]
    split
    · exact ((hone.setFence d 0).modDom d _).done 0 []
    · exact (hone.modDom d _).done 0 []
  · exact hend rfl h (by omega) (Mach.doUnfence_state (by rw [hdom]; exact ⟨hst1, hst2⟩))
  · refine DoesAt.of_exec (exec_domRow hd hs ha rfl h (by omega)) ?_
    rw [Mach.doFeed_stays hk (by decide) (fun hn => absurd rfl hn) (.inl rfl)]
    exact (hone.modDom d _).done 0 []
  · refine DoesAt.of_exec (exec_domRow hd hs ha rfl h (by omega)) ?_
    rw [Mach.doFeed_changes hk hk12 (by rw [Mach.feedOk_issued]; exact hok) (by rw [hdom]; exact h0) (by rw [hdom]; exact hne), Mach.pwr_issued, hbl,
      if_pos rfl]
    exact (hone.modDom d _).setWait _
  · refine DoesAt.of_exec (exec_domRow hd hs ha rfl h (by omega)) ?_
    rw [Mach.doFeed_changes hk hk12 (by rw [Mach.feedOk_issued]; exact hok) (by rw [hdom]; exact h0) (by rw [hdom]; exact hne), Mach.pwr_issued, hbl,
      if_neg Bool.false_ne_true]
    have hreg {o : Nat} (ho : o < 0x40) : ctrAddr (aDom d o) = false := ctrAddr_aDom ⟨d, hlt⟩ ho
    have h18 := hreg (o := 0x18) (by decide)
    have h20 := hreg (o := 0x20) (by decide)
    have hr := (((hone.modDom d (fun y => { y with mode := k, feed := k, warn := false, pgWarn := y.pgWarn && !y.pgood })).orReg
      h18 8).addFld h20 16 16 1).done 0 []
    refine hr.like (Mach.Like.modEng ((Mach.Like.orReg ?_ h18 8).addFld h20 16 16 1) e _)
    exact Mach.modDom_modDom _ _ _ _
  · exact hend rfl h (by omega) (Mach.doFeed_state hk hk12 (by rw [Mach.feedOk_issued]; exact hok))
  · refine DoesAt.of_exec (exec_domRow hd hs ha rfl h (by omega)) ?_
    rw [Mach.doFeed_stays hk (by omega) (fun _ => by rw [Mach.feedOk_issued]; exact hok) (.inr (by rw [hdom]; exact hf))]
    exact (hone.modDom d _).done 0 []
  · exact hend rfl h (by omega) (Mach.doFeed_range hk)
  · exact hrange rfl h (by omega)
  · exact hrange rfl h (by omega)
  · exact hrange rfl h (by omega)
  · exact hrange rfl h (by omega)
  · exact hrange rfl h (by omega)
  · refine DoesAt.of_exec (exec_domRow hd hs ha rfl h (by omega)) ?_
    have hst : (s.m.issued e w).pdStat d = (s.m.readPc e).pdStat d := by rw [Mach.issued_eq, Mach.readPc_eq]; rfl
    rw [Mach.doStat, hst]
    exact hone.done 0 _

end Sys2Proof.Machine

/-! PROOFS. The ends of DOM.DRAIN and DOM.FENCE, and the parts of a power-up (O41). -/

namespace Sys2Proof.Machine

/-! ## The end of one engine's wait -/

/-- The one engine that waits for `k` has its completion. -/
theorem Mach.finish_only {m : Mach} {e : EngId} {k : Wait} (hst : (m.eng e).state = .waiting) (hw : (m.eng e).wait = k)
    (hno : ∀ j, j ≠ e.val → (m.eng j).wait ≠ k) (st : Nat) :
    (m.finish k st).LikeAt e { m.eng e with wait := .done st [], limit := none } m := by
  have hall : (m.finish k st).Like (m.modEng e (fun _ => { m.eng e with wait := .done st [], limit := none })) := by
    rw [Mach.finish_eq]
    refine { Mach.Like.refl m with eng := fun j => ?_, bare := rfl }
    refine (Mach.eng_finish m k st j).trans ?_
    by_cases hj : j = e.val
    · rw [hj, if_pos ⟨e.isLt, hst, hw⟩, Mach.eng_modEng]
    · rw [if_neg (fun hh => hno j hj hh.2.2), Mach.eng_modEng_ne _ _ hj]
  exact hall

/-! ## Ramps -/

/-- The inrush of the rails that rise. -/
def Mach.rising (m : Mach) : Nat :=
  ((m.pwr.doms.filter (fun e => decide (e.2.st = .ramp) && e.2.closed && !e.2.pgood)).map (fun e => domInrush e.1)).foldl (· + ·) 0

theorem Mach.rising_none {m : Mach} (hwf : Tab.wf dDom m.pwr.doms = true)
    (h : ∀ k, (m.dom k).st = .ramp → (m.dom k).feed = 0 ∨ (m.dom k).pgood = true) : m.rising = 0 := by
  have hnil : m.pwr.doms.filter (fun e => decide (e.2.st = .ramp) && e.2.closed && !e.2.pgood) = [] := by
    refine List.filter_eq_nil_iff.2 (fun p hp hr => ?_)
    rw [Bool.and_eq_true, Bool.and_eq_true, decide_eq_true_eq, PDom.closed, decide_eq_true_eq, Bool.not_eq_true'] at hr
    obtain ⟨⟨hst, hf⟩, hg⟩ := hr
    have hd : m.dom p.1 = p.2 := by
      unfold Mach.dom Tab.get
      rw [Tab.find_of_mem (Tab.wf_iff.1 hwf).1 hp]
      rfl
    have := h p.1 (by rw [hd]; exact hst)
    rw [hd, hg] at this
    exact this.elim hf Bool.false_ne_true
  unfold Mach.rising
  rw [hnil]
  rfl

theorem domInrush_le (d : Nat) : domInrush d ≤ 32 := by
  unfold domInrush
  split
  · decide
  split <;> decide

/-- A ramp on the feed `k` that selection gives. -/
def Mach.ramped (m : Mach) (d k : Nat) : Mach :=
  let m := if (m.dom d).mode ≠ 0 ∧ (m.dom d).mode ≠ k then m.forceLost d else m
  (m.modDom d (fun x => { x with st := .ramp, feed := k })).modPwr (fun p => { p with reqs := p.reqs.drop 1 })

def Mach.rampAdmit (m : Mach) (d : Nat) : Mach :=
  if m.pwr.reqs.head? ≠ some d ∨ 32 < m.rising + domInrush d then m
  else match m.selFeed d with
    | none => m.modDom d (fun x => { x with st := .ramp })
    | some k => m.ramped d k

theorem exec_rampAdmit {s : State} {d : Dom} (hs : s.m.test.scan = false) : exec (.rampAdmit d) s = .next { s with m := s.m.rampAdmit d } := by
  change execRampAdmit d s = _
  rw [execRampAdmit, State.on_eq hs]
  refine congrArg (fun a => Host.Outcome.next { s with m := a }) ?_
  unfold Mach.rampAdmit
  refine if_congr Iff.rfl rfl ?_
  cases s.m.selFeed d <;> rfl

section
variable {m : Mach} {d : Nat} {rest : List Nat} (hreq : m.pwr.reqs = d :: rest) (hroom : m.rising = 0)
include hreq hroom

theorem Mach.rampAdmit_waits (ha : m.pwr.feedA = false) (hb : m.pwr.feedB = false) :
    m.rampAdmit d = m.modDom d (fun x => { x with st := .ramp }) := by
  have hok (k : Nat) : m.feedOk k = false := by
    unfold Mach.feedOk
    rw [ha, hb, ite_self, ite_self]
  have hsel : m.selFeed d = none := by
    unfold Mach.selFeed
    dsimp only
    rw [hok, if_neg (fun h => Bool.false_ne_true h.2), ha, hb]
    rfl
  have := domInrush_le d
  unfold Mach.rampAdmit
  rw [if_neg (by rw [hreq, hroom]; simp; omega), hsel]

theorem Mach.rampAdmit_ramps (hm : (m.dom d).mode = 0) (ha : m.pwr.feedA = true) : m.rampAdmit d =
    (m.modDom d (fun x => { x with st := .ramp, feed := 1 })).modPwr (fun p => { p with reqs := rest }) := by
  have hsel : m.selFeed d = some 1 := by
    unfold Mach.selFeed
    dsimp only
    rw [hm, if_neg (fun h => h.1 rfl), ha]
    rfl
  have := domInrush_le d
  unfold Mach.rampAdmit
  rw [if_neg (by rw [hreq, hroom]; simp; omega), hsel]
  show m.ramped d 1 = _
  unfold Mach.ramped
  dsimp only
  rw [if_neg (fun h => h.1 hm)]
  have hr : (m.modDom d (fun x => { x with st := .ramp, feed := 1 })).pwr.reqs = d :: rest := hreq
  generalize m.modDom d (fun x => { x with st := .ramp, feed := 1 }) = a at hr ⊢
  unfold Mach.modPwr
  dsimp only
  rw [hr]
  rfl
end

/-! ## A rail that has risen -/

theorem Mach.limQuiet_iff {m : Mach} {d : Nat} : m.limQuiet d = true ↔ (m.dom d).lim = 0 ∧ ∀ k, (m.dom d).left = some k → k + 100 ≤ m.clk.aon := by
  unfold Mach.limQuiet
  dsimp only
  rw [Bool.and_eq_true, decide_eq_true_eq]
  cases (m.dom d).left <;> simp

def PDom.risen (y : PDom) (low : Bool) : PDom := { y with pgood := true, timer := false, pgWarn := y.pgWarn && low }

/-- POWER_GOOD_RISE at the machine. -/
def Mach.railUp (m : Mach) (d : Nat) (v : Meas) : Mach :=
  if !(m.dom d).closed || (m.dom d).pgood || !m.limQuiet d || m.below v.rail.toNat 95 then m
  else (m.measure d v).modDom d (fun x => x.risen (!m.feedOk (m.dom d).feed && m.below (m.feedVol (m.dom d).feed) 94))

theorem exec_powerGoodRise {s : State} {d : Dom} {v : Meas} (hs : s.m.test.scan = false) :
    exec (.powerGoodRise d v) s = .next { s with m := s.m.railUp d v } := by
  change execPowerGoodRise d v s = _
  rw [execPowerGoodRise, State.on_eq hs]
  rfl

/-! ## The end of initialization -/

/-- What one element of a list establishes in a fold, and no other undoes. -/
theorem foldl_sets {α β : Type} {f : α → β → α} {I Q : α → Prop} {l : List β} {b : β} (hb : b ∈ l) (hI : ∀ a k, k ∈ l → I a → I (f a k))
    (hset : ∀ a, I a → Q (f a b)) (hkeep : ∀ a k, k ∈ l → I a → Q a → Q (f a k)) {a : α} (ha : I a) : Q (l.foldl f a) := by
  have hafter : ∀ (l' : List β), (∀ k ∈ l', k ∈ l) → ∀ a, I a → Q a → Q (l'.foldl f a) := by
    intro l'
    induction l' with
    | nil => exact fun _ _ _ hq => hq
    | cons k r ih =>
      intro hl a hi hq
      exact ih (fun j hj => hl j (.tail _ hj)) _ (hI a k (hl k (.head _)) hi) (hkeep a k (hl k (.head _)) hi hq)
  have hgo : ∀ (l' : List β), (∀ k ∈ l', k ∈ l) → b ∈ l' → ∀ a, I a → Q (l'.foldl f a) := by
    intro l'
    induction l' with
    | nil => exact fun _ h => absurd h List.not_mem_nil
    | cons k r ih =>
      intro hl hm a hi
      rcases List.mem_cons.1 hm with rfl | hm
      · exact hafter r (fun j hj => hl j (.tail _ hj)) _ (hI a b (hl b (.head _)) hi) (hset a hi)
      · exact ih (fun j hj => hl j (.tail _ hj)) hm _ (hI a k (hl k (.head _)) hi)
  exact hgo l (fun _ h => h) hb a ha

section
variable {γ : Type} {π : Mach → γ}

theorem Mach.niuUp_keeps {n : Nat} (hreg : ∀ m o w, o = 0x10 ∨ o = 0x18 → π (m.setReg (aNiu n o) w) = π m) (hflt : ∀ m f, π (m.modFlt f) = π m)
    (hniu : ∀ m f, π (m.modNiu n f) = π m) (m : Mach) : π (m.niuUp n) = π m := by
  have hr : ∀ f : BitVec 128, π ((m.setReg (aNiu n 0x10) (f.extractLsb' 0 64)).setReg (aNiu n 0x18) (f.extractLsb' 64 64)) = π m :=
    fun f => (hreg _ _ _ (.inr rfl)).trans (hreg _ _ _ (.inl rfl))
  unfold Mach.niuUp
  dsimp only
  split
  · exact hr _
  · split
    · exact (Mach.occur_leaves _ _ _ _ _ _ _ hflt).trans ((hniu _ _).trans (hr _))
    · exact (hniu _ _).trans (hr _)

theorem Mach.bootPhase_keeps (hpwr : ∀ (m : Mach) k, π (m.modPwr (fun p => { p with phase := k })) = π m) (m : Mach) : π m.bootPhase = π m := by
  unfold Mach.bootPhase
  split
  · exact hpwr m 4
  · rfl

theorem Mach.settleDom_keeps (hdom : ∀ m d f, π (m.modDom d f) = π m) (hfin : ∀ m w st, π (m.finish w st) = π m) (m : Mach) (d : Nat) :
    π (m.settleDom d) = π m := by
  unfold Mach.settleDom
  dsimp only
  split
  · rfl
  split
  · exact hdom _ _ _
  · exact (hfin _ _ _).trans (hdom _ _ _)
end

theorem aNiu_inj {n k a b : Nat} (hn : n < 516) (hk : k < 516) (ha : a < 0x1000) (hb : b < 0x1000) (h : aNiu n a = aNiu k b) : n = k ∧ a = b := by
  unfold aNiu at h
  split at h <;> split at h <;> omega

/-- The fence bits that an NIU comes up with. -/
def Mach.fenceBits (m : Mach) (n : Nat) (f : BitVec 128) : Prop :=
  m.reg (aNiu n 0x10) = f.extractLsb' 0 64 ∧ m.reg (aNiu n 0x18) = f.extractLsb' 64 64

theorem Mach.fenceBits_setRegs (m : Mach) (n : Nat) (f : BitVec 128) :
    ((m.setReg (aNiu n 0x10) (f.extractLsb' 0 64)).setReg (aNiu n 0x18) (f.extractLsb' 64 64)).fenceBits n f := by
  have hne : aNiu n 0x10 ≠ aNiu n 0x18 := by unfold aNiu; split <;> omega
  exact ⟨by rw [Mach.reg_setReg_ne _ _ hne, Mach.reg_setReg], Mach.reg_setReg _ _ _⟩

theorem Mach.fenceBits_niuUp (m : Mach) (n : Nat) : (m.niuUp n).fenceBits n m.pwr.fence := by
  have h := m.fenceBits_setRegs n m.pwr.fence
  unfold Mach.niuUp
  dsimp only
  split
  · exact h
  · split
    · unfold Mach.fenceBits
      rw [Mach.reg_occur, Mach.reg_occur]
      exact h
    · exact h

theorem Mach.pwr_niuUp (m : Mach) (n : Nat) : (m.niuUp n).pwr = m.pwr :=
  Mach.niuUp_keeps (π := fun m => m.pwr) (fun _ _ _ _ => rfl) (fun _ _ => rfl) (fun _ _ => rfl) m

theorem Mach.reg_niuUp_ne {m : Mach} {n k a : Nat} (hn : n < 516) (hk : k < 516) (ha : a < 0x1000) (hne : n ≠ k) :
    (m.niuUp k).reg (aNiu n a) = m.reg (aNiu n a) := by
  refine Mach.niuUp_keeps (π := fun m => m.reg (aNiu n a)) (fun m o w ho => ?_) (fun _ _ => rfl) (fun _ _ => rfl) m
  exact Mach.reg_setReg_ne _ _ (fun he => hne (aNiu_inj hn hk ha (by omega) he).1)

theorem mem_domNius_lt {n d : Nat} (hd : d < 128) (hn : n ∈ domNius d) : n < 516 := by
  have h : ∀ d < 128, ∀ n ∈ domNius d, n < 516 := by decide +kernel
  exact h d hd n hn

/-- The NIUs of a tile that have come up. -/
def Mach.niusUp (m : Mach) (d : Nat) : Mach := (domNius d).foldl (fun m n => m.niuUp n) m

theorem Mach.fenceBits_niusUp (m : Mach) {d n : Nat} (hd : d < 128) (hn : n ∈ domNius d) : (m.niusUp d).fenceBits n m.pwr.fence := by
  refine foldl_sets (I := fun a : Mach => a.pwr = m.pwr) (Q := fun a => a.fenceBits n m.pwr.fence) hn (fun a k _ ha => ?_) (fun a ha => ?_)
    (fun a k hk ha hq => ?_) rfl
  · exact (a.pwr_niuUp k).trans ha
  · rw [← ha]
    exact a.fenceBits_niuUp n
  · by_cases hne : n = k
    · subst hne
      rw [← ha]
      exact a.fenceBits_niuUp n
    · have hlt {j : Nat} (hj : j ∈ domNius d) : j < 516 := mem_domNius_lt hd hj
      unfold Mach.fenceBits
      rw [Mach.reg_niuUp_ne (hlt hn) (hlt hk) (by decide) hne, Mach.reg_niuUp_ne (hlt hn) (hlt hk) (by decide) hne]
      exact hq

theorem Mach.niu_niuUp (m : Mach) {n : Nat} (hn : n < 512) : (m.niuUp n).niu n =
    { m.niu n with inc := (m.niu n).incPin, ratio := (m.niu n).ratPin, spEn := (m.niu n).spPin, hold := true, relHold := false } := by
  unfold Mach.niuUp
  dsimp only
  rw [if_neg (by omega)]
  split
  · rw [Mach.occur_leaves (π := fun m => m.niu n) _ _ _ _ _ _ _ (fun _ _ => rfl), Mach.niu_modNiu]
    rfl
  · rw [Mach.niu_modNiu]
    rfl

theorem Mach.niu_niuUp_ne (m : Mach) {n k : Nat} (hne : n ≠ k) : (m.niuUp k).niu n = m.niu n :=
  Mach.niuUp_keeps (π := fun m => m.niu n) (fun _ _ _ _ => rfl) (fun _ _ => rfl) (fun m f => m.niu_modNiu_ne f hne) m

/-- An NIU that has come up has taken its pins. -/
def Niu.up (y x : Niu) : Prop := y.inc = x.incPin ∧ y.ratio = x.ratPin ∧ y.hold = true

theorem Mach.niu_niusUp (m : Mach) {d n : Nat} (hn : n ∈ domNius d) (hlt : n < 512) : ((m.niusUp d).niu n).up (m.niu n) := by
  have hone (a : Mach) (h : (a.niu n).incPin = (m.niu n).incPin ∧ (a.niu n).ratPin = (m.niu n).ratPin) : ((a.niuUp n).niu n).up (m.niu n) := by
    rw [Mach.niu_niuUp a hlt]
    exact ⟨h.1, h.2, rfl⟩
  refine foldl_sets (I := fun a : Mach => (a.niu n).incPin = (m.niu n).incPin ∧ (a.niu n).ratPin = (m.niu n).ratPin)
    (Q := fun a => (a.niu n).up (m.niu n)) hn (fun a k _ ha => ?_) (fun a ha => hone a ha) (fun a k _ ha hq => ?_) ⟨rfl, rfl⟩
  · by_cases hne : n = k
    · subst hne
      rw [Mach.niu_niuUp a hlt]
      exact ha
    · rw [Mach.niu_niuUp_ne a hne]
      exact ha
  · by_cases hne : n = k
    · subst hne
      exact hone a ha
    · rw [Mach.niu_niuUp_ne a hne]
      exact hq

/-- One link that begins training where both its tiles are up. -/
def Mach.linkTrain (m : Mach) (n : Nat) : Mach :=
  if (m.link n).st = .down ∧ m.domLive (linkTile n) = true ∧ m.domLive (linkTile2 n) = true then m.modLink n (fun k => { k with st := .train }) else m

theorem Mach.linksTrain_eq (m : Mach) (t : Nat) : m.linksTrain t = (tileLinks t).foldl Mach.linkTrain m := rfl

theorem Mach.linkTrain_keeps {γ : Type} {π : Mach → γ} (h : ∀ m n f, π (m.modLink n f) = π m) (m : Mach) (n : Nat) : π (m.linkTrain n) = π m := by
  unfold Mach.linkTrain
  split
  · exact h _ _ _
  · rfl

theorem Mach.linksTrain_keeps {γ : Type} {π : Mach → γ} (h : ∀ m n f, π (m.modLink n f) = π m) (m : Mach) (t : Nat) : π (m.linksTrain t) = π m :=
  foldl_keeps π _ _ _ (Mach.linkTrain_keeps h)

theorem Mach.linksTrain_trains {m : Mach} {t n : Nat} (hn : n ∈ tileLinks t) (hst : (m.link n).st = .down) (h1 : m.domLive (linkTile n) = true)
    (h2 : m.domLive (linkTile2 n) = true) : ((m.linksTrain t).link n).st = .train := by
  rw [Mach.linksTrain_eq]
  have hlive (a : Mach) (k d : Nat) : (a.linkTrain k).domLive d = a.domLive d := Mach.linkTrain_keeps (π := fun m => m.domLive d) (fun _ _ _ => rfl) a k
  refine foldl_sets (I := fun a : Mach => ((a.link n).st = .down ∨ (a.link n).st = .train) ∧ a.domLive (linkTile n) = true ∧ a.domLive (linkTile2 n) = true)
    (Q := fun a => (a.link n).st = .train) hn (fun a k _ ha => ⟨?_, ?_, ?_⟩) (fun a ha => ?_) (fun a k _ ha hq => ?_) ⟨.inl hst, h1, h2⟩
  · unfold Mach.linkTrain
    split
    · by_cases hk : n = k
      · subst hk
        rw [Mach.link_modLink]
        exact .inr rfl
      · rw [Mach.link_modLink_ne _ _ hk]
        exact ha.1
    · exact ha.1
  · rw [hlive]; exact ha.2.1
  · rw [hlive]; exact ha.2.2
  · obtain ⟨hd | ht, hl1, hl2⟩ := ha
    · rw [Mach.linkTrain, if_pos ⟨hd, hl1, hl2⟩, Mach.link_modLink]
    · rw [Mach.linkTrain, if_neg (by rw [ht]; simp), ht]
  · unfold Mach.linkTrain
    split
    · by_cases hk : n = k
      · subst hk
        rw [Mach.link_modLink]
      · rw [Mach.link_modLink_ne _ _ hk]
        exact hq
    · exact hq

end Sys2Proof.Machine

/-! PROOFS. The parts of a power-up, and the ends of DOM.DRAIN and DOM.FENCE (O41). -/

namespace Sys2Proof.Machine

/-! ## The end of initialization -/

theorem Mach.live_settleDom (m : Mach) (d k : Nat) : ((m.settleDom d).dom k).live = (m.dom k).live := by
  have hmod (f : PDom → PDom) (hf : ∀ x, (f x).live = x.live) : ((m.modDom d f).dom k).live = (m.dom k).live := by
    by_cases hk : k = d
    · rw [hk, Mach.dom_modDom, hf]
    · rw [Mach.dom_modDom_ne _ _ hk]
  unfold Mach.settleDom
  dsimp only
  split
  · rfl
  split
  · exact hmod _ (fun _ => rfl)
  · rw [Mach.finish_keeps (π := fun m => (m.dom k).live) (fun _ _ => rfl)]
    exact hmod _ (fun _ => rfl)

theorem Mach.eng_settleDom {m : Mach} {e : Nat} (h : (m.eng e).state ≠ .waiting) (d : Nat) : (m.settleDom d).eng e = m.eng e := by
  unfold Mach.settleDom
  dsimp only
  split
  · rfl
  split
  · rfl
  · rw [Mach.eng_finish, Mach.eng_modDom, if_neg (fun hh => h hh.2.1)]

/-- What the end of initialization does to a domain, before the domain's state settles. -/
def Mach.initialized (m : Mach) (d : Nat) (boot : Bool) : Mach :=
  if d < 128 then (m.niusUp d).linksTrain d
  else if d < 132 then
    ((List.range 8).foldl (fun m i => m.modStn (8 * (d - 128) + i) (fun _ => { Station.init with st := if boot then .enabled else .disabled })) m).clearEngine
      (d - 127) .idle
  else m

theorem exec_domainInitDone {s : State} {d : Dom} (hs : s.m.test.scan = false) (hst : (s.m.dom d).st = .init) (hl : (s.m.dom d).live = false) :
    exec (.domainInitDone d) s = .next { s with m :=
      (((s.m.modDom d (fun x => { x with live := true })).initialized d (s.m.dom d).boot).bootPhase).settleDom d } := by
  change execDomainInitDone d s = _
  rw [execDomainInitDone, State.on_eq hs]
  refine congrArg (fun a => Host.Outcome.next { s with m := a }) ?_
  dsimp only
  rw [if_neg (by rw [hst, hl]; simp)]
  rfl

/-- The values of the machine after initialization that a domain's settling does not change. -/
theorem Mach.settled_keeps {γ : Type} {π : Mach → γ} (hpwr : ∀ (m : Mach) p, π { m with pwr := p } = π m)
    (hengs : ∀ (m : Mach) l, π { m with engs := l } = π m) (m : Mach) (d : Nat) : π (m.bootPhase.settleDom d) = π m :=
  (Mach.settleDom_keeps (fun m _ _ => hpwr m _) (Mach.finish_keeps hengs) _ d).trans (Mach.bootPhase_keeps (fun m _ => hpwr m _) m)

theorem Mach.live_initialized (m : Mach) (d : Nat) (b : Bool) (k : Nat) : (m.initialized d b).dom k = m.dom k := by
  unfold Mach.initialized
  split
  · rw [Mach.linksTrain_keeps (π := fun m => m.dom k) (fun _ _ _ => rfl)]
    exact foldl_keeps (fun m : Mach => m.dom k) _ _ _
      (fun m n => Mach.niuUp_keeps (π := fun m => m.dom k) (fun _ _ _ _ => rfl) (fun _ _ => rfl) (fun _ _ => rfl) m)
  split
  · rw [Mach.clearEngine_keeps (π := fun m => m.dom k) (fun _ _ _ => rfl) (fun _ _ => rfl) (fun _ _ => rfl) (fun _ _ => rfl) (fun _ _ => rfl)]
    exact foldl_keeps (fun m : Mach => m.dom k) _ _ _ (fun _ _ => rfl)
  · rfl

/-- The machine of a domain whose initialization ends. -/
def Mach.initDone (m : Mach) (d : Nat) : Mach :=
  (((m.modDom d (fun x => { x with live := true })).initialized d (m.dom d).boot).bootPhase).settleDom d

theorem Mach.live_initDone (m : Mach) (d : Nat) : ((m.initDone d).dom d).live = true := by
  rw [Mach.initDone, Mach.live_settleDom, Mach.bootPhase_keeps (π := fun m => m.dom d) (fun _ _ => rfl), Mach.live_initialized, Mach.dom_modDom]

section
variable {m : Mach} {d : Nat}

theorem Mach.initDone_tile_niu (hd : d < 128) {n : Nat} (hn : n ∈ domNius d) :
    (m.initDone d).fenceBits n m.pwr.fence ∧ (n < 512 → ((m.initDone d).niu n).up (m.niu n)) := by
  have hreg (a : Nat) : (m.initDone d).reg a = ((m.modDom d (fun x => { x with live := true })).niusUp d).reg a := by
    rw [Mach.initDone, Mach.settled_keeps (π := fun m => m.reg a) (fun _ _ => rfl) (fun _ _ => rfl), Mach.initialized, if_pos hd,
      Mach.linksTrain_keeps (π := fun m => m.reg a) (fun _ _ _ => rfl)]
  have hniu : (m.initDone d).niu n = ((m.modDom d (fun x => { x with live := true })).niusUp d).niu n := by
    rw [Mach.initDone, Mach.settled_keeps (π := fun m => m.niu n) (fun _ _ => rfl) (fun _ _ => rfl), Mach.initialized, if_pos hd,
      Mach.linksTrain_keeps (π := fun m => m.niu n) (fun _ _ _ => rfl)]
  refine ⟨?_, fun hlt => ?_⟩
  · unfold Mach.fenceBits
    rw [hreg, hreg]
    exact (m.modDom d (fun x => { x with live := true })).fenceBits_niusUp hd hn
  · rw [hniu]
    exact Mach.niu_niusUp _ hn hlt

theorem Mach.initDone_tile_link (hd : d < 128) {n : Nat} (hn : n ∈ tileLinks d) (hst : (m.link n).st = .down)
    (h1 : m.domLive (linkTile n) = true ∨ linkTile n = d) (h2 : m.domLive (linkTile2 n) = true ∨ linkTile2 n = d) :
    ((m.initDone d).link n).st = .train := by
  have hlive {k : Nat} (hk : m.domLive k = true ∨ k = d) : ((m.modDom d (fun x => { x with live := true })).niusUp d).domLive k = true := by
    have hu : ((m.modDom d (fun x => { x with live := true })).niusUp d).domLive k = (m.modDom d (fun x => { x with live := true })).domLive k :=
      foldl_keeps (fun m : Mach => m.domLive k) _ _ _
        (fun m n => Mach.niuUp_keeps (π := fun m => m.domLive k) (fun _ _ _ _ => rfl) (fun _ _ => rfl) (fun _ _ => rfl) m)
    rw [hu, Mach.domLive]
    by_cases hkd : k = d
    · rw [hkd, Mach.dom_modDom]
    · rw [Mach.dom_modDom_ne _ _ hkd]
      exact hk.resolve_right hkd
  have hlink : ((m.modDom d (fun x => { x with live := true })).niusUp d).link n = m.link n :=
    foldl_keeps (fun m : Mach => m.link n) _ _ _
      (fun m k => Mach.niuUp_keeps (π := fun m => m.link n) (fun _ _ _ _ => rfl) (fun _ _ => rfl) (fun _ _ => rfl) m)
  rw [Mach.initDone, Mach.settled_keeps (π := fun m => m.link n) (fun _ _ => rfl) (fun _ _ => rfl), Mach.initialized, if_pos hd]
  exact Mach.linksTrain_trains hn (by rw [hlink, hst]) (hlive h1) (hlive h2)

theorem Mach.initDone_aon (hd : d = 132) (hst : (m.dom 132).st = .init) :
    ((m.initDone d).dom 132).st = if (m.dom 132).boot then .on else .fenced := by
  subst hd
  have hdom : (((m.modDom 132 (fun x => { x with live := true })).initialized 132 (m.dom 132).boot).bootPhase).dom 132 = { m.dom 132 with live := true } := by
    rw [Mach.bootPhase_keeps (π := fun m => m.dom 132) (fun _ _ => rfl), Mach.live_initialized, Mach.dom_modDom]
  rw [Mach.initDone]
  generalize ((m.modDom 132 (fun x => { x with live := true })).initialized 132 (m.dom 132).boot).bootPhase = a at hdom ⊢
  unfold Mach.settleDom
  dsimp only
  rw [hdom, if_neg (by rw [hst]; simp)]
  cases (m.dom 132).boot
  · rw [if_neg Bool.false_ne_true, Mach.finish_keeps (π := fun m => m.dom 132) (fun _ _ => rfl), Mach.dom_modDom]
    rfl
  · rw [if_pos rfl, Mach.dom_modDom]
    rfl

theorem Mach.initDone_spine (h1 : 128 ≤ d) (h2 : d < 132) :
    (m.initDone d).eng (d - 127) = { Eng.init with state := .idle, post := (m.eng (d - 127)).post } ∧
      ∀ i, i < 8 → (m.initDone d).stn (8 * (d - 128) + i) = { Station.init with st := if (m.dom d).boot then .enabled else .disabled } := by
  have heng : (((m.modDom d (fun x => { x with live := true })).initialized d (m.dom d).boot).bootPhase).eng (d - 127) =
      { Eng.init with state := .idle, post := (m.eng (d - 127)).post } := by
    rw [Mach.bootPhase_keeps (π := fun m => m.eng (d - 127)) (fun _ _ => rfl), Mach.initialized, if_neg (by omega), if_pos h2, Mach.eng_clearEngine]
    refine congrArg (fun x : Eng => ({ Eng.init with state := .idle, post := x.post } : Eng)) ?_
    exact foldl_keeps (fun m : Mach => m.eng (d - 127)) _ _ _ (fun _ _ => rfl)
  refine ⟨?_, fun i hi => ?_⟩
  · rw [Mach.initDone, ← heng]
    exact Mach.eng_settleDom (by rw [heng]; exact fun h => EngSt.noConfusion h) d
  · rw [Mach.initDone, Mach.settled_keeps (π := fun m => m.stn (8 * (d - 128) + i)) (fun _ _ => rfl) (fun _ _ => rfl), Mach.initialized,
      if_neg (by omega), if_pos h2,
      Mach.clearEngine_keeps (π := fun m => m.stn (8 * (d - 128) + i)) (fun _ _ _ => rfl) (fun _ _ => rfl) (fun _ _ => rfl) (fun _ _ => rfl) (fun _ _ => rfl),
      Mach.stn_foldl, if_pos (by omega)]
end

/-- DOMAIN_DRAINED, DOMAIN_FENCED and DOMAIN_RESET_RELEASE at the machine. -/
def Mach.drainEnd (m : Mach) (d : Nat) : Mach :=
  if d < 128 ∧ (m.dom d).st = .draining ∧ m.drainMet d = true then (m.modDom d (fun x => { x with st := .drained })).finish (.drain d) 0 else m

def Mach.fenceEnd (m : Mach) (d : Nat) : Mach :=
  if d < 128 ∧ m.waiters (.fence d) ≠ [] ∧ m.fenceMet d = true then (m.modDom d (fun x => { x with st := .fenced })).finish (.fence d) 0 else m

def Mach.resetEnd (m : Mach) (d : Nat) : Mach :=
  if d < 132 ∧ m.pwr.aonUp = true ∧ (m.dom d).pgood = true ∧ (m.dom d).st = .ramp then m.modDom d (fun x => { x with st := .init }) else m

section
variable {s : State} {d : Dom} (hs : s.m.test.scan = false)
include hs

theorem exec_domainDrained : exec (.domainDrained d) s = .next { s with m := s.m.drainEnd d } := by
  change execDomainDrained d s = _
  rw [execDomainDrained, State.on_eq hs]
  rfl

theorem exec_domainFenced : exec (.domainFenced d) s = .next { s with m := s.m.fenceEnd d } := by
  change execDomainFenced d s = _
  rw [execDomainFenced, State.on_eq hs]
  rfl

theorem exec_domainResetRelease : exec (.domainResetRelease d) s = .next { s with m := s.m.resetEnd d } := by
  change execDomainResetRelease d s = _
  rw [execDomainResetRelease, State.on_eq hs]
  rfl
end

/-- Settles O41: the ends of the waits, the ramp, power-good, the release of reset and the end of initialization. -/
theorem domainSteps : Obligations.DomainSteps := by
  intro s e d v rest x y only hs
  refine ⟨fun hd hst hm ho => ?_, fun h => ?_, fun hd hst hq ho => ?_, fun h => ?_, fun hreq hno hwf hm ha => ?_, fun hreq => ?_,
    fun hreq hno hwf ha hb => ?_, fun hf hg hl hleft hv => ?_, fun h => ?_, fun hd hup hg hst => ?_, fun h => ?_, fun hd hst hl => ?_,
    fun hd hst hl => ?_, fun h1 h2 hst hl => ?_⟩
  · refine DoesAt.of_exec (exec_domainDrained hs) ?_
    rw [Mach.drainEnd, if_pos ⟨hd, hst, hm⟩]
    obtain ⟨hw, hk, hj⟩ := ho
    exact (Mach.finish_only (m := s.m.modDom d (fun y => { y with st := .drained })) hw hk hj 0)
  · refine Does.of_exec ((exec_domainDrained hs).trans (congrArg (fun a => Host.Outcome.next { s with m := a }) (if_neg ?_)))
    rintro ⟨-, hst, hm⟩
    exact h.elim (fun hn => hn hst) (fun hf => Bool.false_ne_true (hf.symm.trans hm))
  · refine DoesAt.of_exec (exec_domainFenced hs) ?_
    obtain ⟨hw, hk, hj⟩ := ho
    rw [Mach.fenceEnd, if_pos ⟨hd, Mach.mem_waiters hw hk, by rw [Mach.fenceMet, hq, Bool.and_true]; exact decide_eq_true hst⟩]
    exact (Mach.finish_only (m := s.m.modDom d (fun y => { y with st := .fenced })) hw hk hj 0)
  · refine Does.of_exec ((exec_domainFenced hs).trans (congrArg (fun a => Host.Outcome.next { s with m := a }) (if_neg ?_)))
    rintro ⟨-, hw, hm⟩
    rw [Mach.fenceMet, Bool.and_eq_true, decide_eq_true_eq] at hm
    obtain hst | hq | hno := h
    · exact hst hm.1
    · exact Bool.false_ne_true (hq.symm.trans hm.2)
    · exact hw (List.filter_eq_nil_iff.2 (fun j _ hj => hno j (of_decide_eq_true hj).2))
  · refine Does.of_exec ((exec_rampAdmit hs).trans (congrArg (fun a => Host.Outcome.next { s with m := a }) ?_))
    exact Mach.rampAdmit_ramps hreq (Mach.rising_none hwf hno) hm ha
  · refine Does.of_exec ((exec_rampAdmit hs).trans (congrArg (fun a => Host.Outcome.next { s with m := a }) ?_))
    exact if_pos (.inl hreq)
  · refine Does.of_exec ((exec_rampAdmit hs).trans (congrArg (fun a => Host.Outcome.next { s with m := a }) ?_))
    exact Mach.rampAdmit_waits hreq (Mach.rising_none hwf hno) ha hb
  · refine ⟨_, exec_powerGoodRise hs, rfl, rfl, ?_⟩
    dsimp only
    have hq : s.m.limQuiet d = true := Mach.limQuiet_iff.2 ⟨hl, hleft⟩
    have hb : s.m.below v.rail.toNat 95 = false := decide_eq_false (by omega)
    rw [Mach.railUp, PDom.closed, decide_eq_true hf, hg, hq, hb]
    refine (Mach.modDom_modDom s.m d _ _).trans ?_
    rw [Mach.modDom_congr]
    · exact .refl _
    · rw [PDom.risen, ← Bool.and_assoc]
      rfl
  · refine Does.of_exec ((exec_powerGoodRise hs).trans (congrArg (fun a => Host.Outcome.next { s with m := a }) (if_pos ?_)))
    obtain hl | ⟨k, hk, hlt⟩ | hv := h
    · rw [show s.m.limQuiet d = false from Bool.eq_false_iff.2 (fun hq => hl (Mach.limQuiet_iff.1 hq).1)]
      simp
    · rw [show s.m.limQuiet d = false from Bool.eq_false_iff.2 (fun hq => by have := (Mach.limQuiet_iff.1 hq).2 k hk; omega)]
      simp
    · rw [Mach.below, decide_eq_true hv, Bool.or_true]
  · refine Does.of_exec ((exec_domainResetRelease hs).trans (congrArg (fun a => Host.Outcome.next { s with m := a }) ?_))
    exact if_pos ⟨hd, hup, hg, hst⟩
  · refine Does.of_exec ((exec_domainResetRelease hs).trans (congrArg (fun a => Host.Outcome.next { s with m := a }) (if_neg ?_)))
    rintro ⟨-, hup, hg, hst⟩
    obtain hn | hn | hn := h
    · exact Bool.false_ne_true (hn.symm.trans hup)
    · exact Bool.false_ne_true (hn.symm.trans hg)
    · exact hn hst
  · refine ⟨_, exec_domainInitDone hs hst hl, Mach.live_initDone s.m d, fun n hn => (Mach.initDone_tile_niu hd hn).1,
      fun n hn hlt => (Mach.initDone_tile_niu hd hn).2 hlt, fun n hn hst h1 h2 => Mach.initDone_tile_link hd hn hst h1 h2⟩
  · have hd' : (s.m.dom d).st = .init := hst
    refine ⟨_, exec_domainInitDone hs hst hl, ?_, ?_⟩
    · have := Mach.live_initDone s.m d
      rw [hd] at this ⊢
      exact this
    · have hy : y = s.m.dom 132 := congrArg s.m.dom hd
      rw [hy]
      exact Mach.initDone_aon hd (by rw [← hd]; exact hst)
  · exact ⟨_, exec_domainInitDone hs hst hl, Mach.initDone_spine h1 h2⟩

end Sys2Proof.Machine

/-! PROOFS. The frame of what may change besides NIUs and registers when an access is answered: engines, the token, the image under
read, the counters, the fault unit, the twin unit (O42 and others). -/

namespace Sys2Proof.Machine

/-- A projection of the machine that no answer to an access, no halt of an engine, no move's end and no count touches. -/
structure WideFrame {γ : Type} (π : Mach → γ) : Prop where
  like : ∀ a m : Mach, a.Like m → π a = π m
  regs : ∀ (m : Mach) r, π { m with regs := r } = π m
  engs : ∀ (m : Mach) l, π { m with engs := l } = π m
  nius : ∀ (m : Mach) t, π { m with nius := t } = π m
  twin : ∀ (m : Mach) x, π { m with twin := x } = π m
  free : ∀ (m : Mach) k, π { m with frees := k } = π m
  tok  : ∀ (m : Mach) t, π { m with token := t } = π m
  img  : ∀ (m : Mach) i, π { m with img := i } = π m
  tele : ∀ (m : Mach) t, π { m with tele := t } = π m
  flt  : ∀ (m : Mach) f, π { m with flt := f } = π m
  rp   : ∀ (m : Mach) r, π { m with rp := r } = π m
  pch  : ∀ (m : Mach) c, π { m with pchan := c } = π m

namespace WideFrame
variable {γ : Type} {π : Mach → γ} (h : WideFrame π) {m : Mach}
include h

theorem flow : FlowFrame π where
  niu m _ _ _ := h.nius m _
  done m w st := Mach.finish_keeps h.engs m w st
  reg m _ _ _ := h.regs m _
  like := h.like
  twin m _ := h.twin m _
  free := h.free

theorem modEng (m : Mach) (e : Nat) (f : Eng → Eng) : π (m.modEng e f) = π m := h.engs m _
theorem modNiu (m : Mach) (n : Nat) (f : Niu → Niu) : π (m.modNiu n f) = π m := h.nius m _
theorem setReg (m : Mach) (a : Nat) (w : Word) : π (m.setReg a w) = π m := h.regs m _
theorem modFlt (m : Mach) (f : FaultUnit → FaultUnit) : π (m.modFlt f) = π m := h.flt m _
theorem modTele (m : Mach) (f : Tele → Tele) : π (m.modTele f) = π m := h.tele m _
theorem modTwin (m : Mach) (f : Twin → Twin) : π (m.modTwin f) = π m := h.twin m _

theorem finish (m : Mach) (w : Wait) (st : Nat) : π (m.finish w st) = π m := Mach.finish_keeps h.engs m w st

theorem finishIf (m : Mach) (p : Wait → Bool) (st : Nat) : π (m.finishIf p st) = π m := Mach.finishIf_keeps h.engs m p st

theorem occur (m : Mach) (c k l o s n : Nat) : π (m.occur c k l o s n) = π m := Mach.occur_leaves m c k l o s n h.modFlt

theorem postEvt (m : Mach) (e cls kind detail src : Nat) : π (m.postEvt e cls kind detail src) = π m :=
  Mach.postEvt_leaves m e cls kind detail src (fun m f => h.modEng m e f) (fun m a w _ => h.setReg m a w)

theorem addCtr (m : Mach) (n k : Nat) (hd : FlitBits) : π (m.addCtr n k hd) = π m := by
  unfold Mach.addCtr
  dsimp only
  split
  · exact h.regs m _
  · exact (h.modTele _ _).trans (h.regs m _)

theorem count (m : Mach) (base w code : Nat) (sel tc : Option Nat) (k : Nat) (hd : FlitBits) : π (m.count base w code sel tc k hd) = π m := by
  unfold Mach.count
  split
  · rfl
  · refine foldl_keeps π _ _ _ (fun m i => ?_)
    dsimp only
    split
    · exact h.addCtr _ _ _ _
    · rfl

theorem completes (m : Mach) (e : Nat) (pc : Word) : π (m.completes e pc) = π m := by
  unfold Mach.completes
  dsimp only
  split
  · exact h.count _ _ _ _ _ _ _ _
  · refine (foldl_keeps π _ _ _ (fun m i => ?_)).trans (h.count _ _ _ _ _ _ _ _)
    dsimp only
    split
    · rfl
    · exact h.modTele _ _

theorem stepPc (m : Mach) (e : Nat) : π (m.stepPc e) = π m := (h.completes _ _ _).trans (h.modEng _ _ _)

theorem releaseToken (m : Mach) (e : Nat) : π (m.releaseToken e) = π m := Mach.releaseToken_keeps h.tok m e

theorem haltFault (m : Mach) (e code : Nat) : π (m.haltFault e code) = π m :=
  Mach.haltFault_keeps h.modEng h.setReg h.tok (fun m _ _ _ => h.rp m _) h.occur m e code

theorem endStatus (m : Mach) (e st : Nat) (wr : List (Nat × Word)) : π (m.endStatus e st wr) = π m := by
  have h0 : π (((m.releaseToken e).modEng e (fun x => { x with st := st, wait := .none, limit := none, state := .running })).modEng e
      (fun x => x.setRegs wr)) = π m := (h.modEng _ _ _).trans ((h.modEng _ _ _).trans (h.releaseToken _ _))
  unfold Mach.endStatus
  dsimp only
  split
  · exact (h.stepPc _ _).trans ((h.modEng _ _ _).trans h0)
  split
  · exact (h.stepPc _ _).trans ((h.count _ _ _ _ _ _ _ _).trans ((h.modEng _ _ _).trans h0))
  · exact (h.haltFault _ _ _).trans h0

/-! ## Answers to accesses -/

theorem startFetch (m : Mach) (e : Nat) (line : Word) : π (m.startFetch e line) = π m := by
  unfold Mach.startFetch
  split
  · rfl
  · split
    · rfl
    next hs => exact (h.modEng _ _ _).trans (h.flow.serviceReq hs)

theorem prefetch (m : Mach) (e : Nat) : π (m.prefetch e) = π m := by
  unfold Mach.prefetch
  dsimp only
  split
  · exact h.startFetch _ _ _
  · rfl

theorem lineAnswer (m : Mach) (e : Nat) (line : Word) (p : Pkt) : π (m.lineAnswer e line p) = π m := by
  unfold Mach.lineAnswer
  dsimp only
  split
  · exact (h.prefetch _ _).trans ((h.modEng _ _ _).trans (h.modEng _ _ _))
  · split
    · unfold Mach.haltFetch Mach.nextFree
      exact (h.haltFault _ _ _).trans ((h.modEng _ _ _).trans ((h.free _ _).trans (h.modEng _ _ _)))
    · exact h.modEng _ _ _

theorem accessAnswer (m : Mach) (e : Nat) (p : Pkt) : π (m.accessAnswer e p) = π m := by
  unfold Mach.accessAnswer
  dsimp only
  split
  · rfl
  split
  · exact (h.endStatus _ _ _ _).trans (h.regs _ _)
  split
  · exact h.endStatus _ _ _ _
  split
  · exact h.endStatus _ _ _ _
  · exact (h.endStatus _ _ _ _).trans (h.modEng _ _ _)

theorem imageLine (m : Mach) (ser idx st : Nat) (d : FlitBits) : π (m.imageLine ser idx st d) = π m := by
  unfold Mach.imageLine
  split
  · rfl
  · exact h.img _ _

theorem ownerFails (m : Mach) (o : Owner) (st : Nat) : π (m.ownerFails o st) = π m := by
  unfold Mach.ownerFails
  split
  · split
    · rfl
    · split
      · exact h.lineAnswer _ _ _ _
      · rfl
  · exact h.accessAnswer _ _ _
  · exact h.accessAnswer _ _ _
  · exact h.imageLine _ _ _ _ _
  · rfl

theorem fillFails (m : Mach) (n : Nat) (f : BitVec 16) : π (m.fillFails n f) = π m := by
  unfold Mach.fillFails
  split
  · rfl
  dsimp only
  refine (h.flow.settleFlows _ _).trans ((foldl_keeps π _ _ _ (fun m r => h.flow.srcAnswer _ _ _ _ _)).trans ?_)
  exact (h.modNiu _ _ _).trans ((h.modNiu _ _ _).trans ((h.regs _ _).trans (h.modNiu _ _ _)))

theorem copyFails (m : Mach) (n : Nat) (f seq : BitVec 16) : π (m.copyFails n f seq) = π m := by
  unfold Mach.copyFails
  dsimp only
  split
  · exact h.modNiu _ _ _
  · exact (h.modNiu _ _ _).trans (h.modNiu _ _ _)

theorem makerFails (m : Mach) (o : Owner) (st : Nat) : π (m.makerFails o st) = π m := by
  unfold Mach.makerFails
  split
  · exact h.fillFails _ _ _
  · exact h.copyFails _ _ _ _
  · exact h.ownerFails _ _ _

theorem dropUid (m : Mach) (n uid : Nat) : π (m.dropUid n uid) = π m := (h.modNiu _ _ _).trans (h.flow.dropInj _ _ _)

/-! ## The loss of a tile at the NIUs -/

theorem lossAt (m : Mach) (n t : Nat) : π (m.lossAt n t) = π m := by
  unfold Mach.lossAt
  dsimp only
  refine (foldl_keeps π _ _ _ (fun m p => ?_)).trans (foldl_keeps π _ _ _ (fun m p => ?_))
  · split
    · split
      · rfl
      next w _ _ =>
        have hw : π ((((if w.eo then m.retireRec n w.flow [w.seq] else m).modNiu n (fun x => x.freePwb p.1)).dropUid n w.uid).addFld (aNiu n 0x38) 32 16 1) = π m := by
          refine (h.regs _ _).trans ((h.dropUid _ _ _).trans ((h.modNiu _ _ _).trans ?_))
          split
          · exact h.flow.retireRec _ _ _ _
          · rfl
        split
        · exact (h.regs _ _).trans ((h.modTele _ _).trans hw)
        · exact hw
    · rfl
  · split
    · split
      · rfl
      · split
        · exact (h.modNiu _ _ _).trans ((h.flow.srcAnswer _ _ _ _ _).trans (h.dropUid _ _ _))
        · exact (h.makerFails _ _ _).trans ((h.modNiu _ _ _).trans (h.dropUid _ _ _))
    · rfl

theorem lostPosted (m : Mach) (t : Nat) : π (m.lostPosted t) = π m := by
  unfold Mach.lostPosted
  dsimp only
  split
  · rfl
  · exact (h.regs _ _).trans ((h.regs _ _).trans (h.regs _ _))

/-- The end of a move (R415). -/
theorem endMove (m : Mach) : π m.endMove = π m := by
  have hst (m : Mach) (s : TwSt) (k c : Nat) : π (m.twinState s k c) = π m := by
    unfold Mach.twinState
    split
    · rfl
    · exact (h.postEvt _ _ _ _ _ _).trans ((h.regs _ _).trans (h.modTwin _ _))
  unfold Mach.endMove Mach.endTwinOp
  dsimp only
  refine (h.modTwin _ _).trans ((h.finish _ _ _).trans ?_)
  refine (h.setReg _ _ _).trans ?_
  refine (hst _ _ _ _).trans ?_
  refine (h.nius _ _).trans ?_
  exact h.modTwin _ _

theorem leftDrop (m : Mach) (l : List Nat) : π (m.leftDrop l) = π m := by
  unfold Mach.leftDrop Mach.moveCheck
  split
  · split
    · exact (h.endMove _).trans ((h.modTwin _ _).trans (h.modTwin _ _))
    · exact h.modTwin _ _
  · rfl

end WideFrame

/-! ## Parts of the machine -/

theorem WideFrame.dom (d : Nat) : WideFrame (fun m => m.dom d) :=
  ⟨fun _ _ hl => hl.dom d, fun _ _ => rfl, fun _ _ => rfl, fun _ _ => rfl, fun _ _ => rfl, fun _ _ => rfl, fun _ _ => rfl, fun _ _ => rfl,
    fun _ _ => rfl, fun _ _ => rfl, fun _ _ => rfl, fun _ _ => rfl⟩

theorem WideFrame.link (n : Nat) : WideFrame (fun m => m.link n) :=
  ⟨fun _ _ hl => hl.link n, fun _ _ => rfl, fun _ _ => rfl, fun _ _ => rfl, fun _ _ => rfl, fun _ _ => rfl, fun _ _ => rfl, fun _ _ => rfl,
    fun _ _ => rfl, fun _ _ => rfl, fun _ _ => rfl, fun _ _ => rfl⟩

theorem WideFrame.stn (p : Nat) : WideFrame (fun m => m.stn p) :=
  ⟨fun _ _ hl => hl.stn p, fun _ _ => rfl, fun _ _ => rfl, fun _ _ => rfl, fun _ _ => rfl, fun _ _ => rfl, fun _ _ => rfl, fun _ _ => rfl,
    fun _ _ => rfl, fun _ _ => rfl, fun _ _ => rfl, fun _ _ => rfl⟩

/-- The power unit without its domains. -/
theorem WideFrame.power : WideFrame (fun m => { m.pwr with doms := [] }) :=
  ⟨fun a m hl => show a.bare.pwr = m.bare.pwr by rw [hl.bare], fun _ _ => rfl, fun _ _ => rfl, fun _ _ => rfl, fun _ _ => rfl, fun _ _ => rfl,
    fun _ _ => rfl, fun _ _ => rfl, fun _ _ => rfl, fun _ _ => rfl, fun _ _ => rfl, fun _ _ => rfl⟩

end Sys2Proof.Machine

/-! PROOFS. A trip or a supply loss opens a domain (O42). -/

namespace Sys2Proof.Machine

/-! ## The loss fence of a tile -/

theorem Mach.setFence_fence (m : Mach) {t : Nat} (ht : t < 128) : bt (m.setFence t 1).pwr.fence t = true := by
  have h : (m.setFence t 1).pwr.fence = sf m.pwr.fence t 1 1 := by
    rw [Mach.setFence_eq]
    refine (foldl_keeps (fun m : Mach => m.pwr.fence) _ _ _ (fun m n => ?_)).trans rfl
    unfold Mach.fenceAt
    split <;> rfl
  rw [h, bt_eq_bf, bf_sf _ (by omega)]
  rfl

theorem Mach.setFence_keeps {γ : Type} {π : Mach → γ} (hregs : ∀ (m : Mach) a w, π (m.setReg a w) = π m)
    (hpwr : ∀ (m : Mach) (f : BitVec 128 → BitVec 128), π (m.modPwr (fun p => { p with fence := f p.fence })) = π m) (m : Mach)
    (t v : Nat) : π (m.setFence t v) = π m := by
  rw [Mach.setFence_eq]
  refine (foldl_keeps π _ _ _ (fun m n => ?_)).trans (hpwr m (fun f => sf f t 1 v))
  unfold Mach.fenceAt
  split
  · exact hregs _ _ _
  · rfl

/-- The NIUs' part of the loss fence. -/
def Mach.lossNius (m : Mach) (t : Nat) : Mach := (m.nius.map Prod.fst).foldl (fun m n => if m.domLive (epTile n) then m.lossAt n t else m) m

theorem Mach.lossFence_eq (m : Mach) (t : Nat) : m.lossFence t = ((m.setFence t 1).modDom t (fun x => { x with lossF := true })).lossNius t := rfl

theorem WideFrame.lossNius {γ : Type} {π : Mach → γ} (h : WideFrame π) (m : Mach) (t : Nat) : π (m.lossNius t) = π m := by
  refine foldl_keeps π _ _ _ (fun m n => ?_)
  split
  · exact h.lossAt _ _ _
  · rfl

theorem Mach.dom_lossFence (m : Mach) (t : Nat) : (m.lossFence t).dom t = { m.dom t with lossF := true } := by
  rw [Mach.lossFence_eq, (WideFrame.dom t).lossNius, Mach.dom_modDom, Mach.setFence_keeps (π := fun m => m.dom t) (fun _ _ _ => rfl) (fun _ _ => rfl)]

theorem Mach.link_lossFence (m : Mach) (t n : Nat) : (m.lossFence t).link n = m.link n := by
  rw [Mach.lossFence_eq, (WideFrame.link n).lossNius, Mach.link_modDom,
    Mach.setFence_keeps (π := fun m => m.link n) (fun _ _ _ => rfl) (fun _ _ => rfl)]

theorem WideFrame.fence : WideFrame (fun m => m.pwr.fence) :=
  ⟨fun a m hl => show a.bare.pwr.fence = m.bare.pwr.fence by rw [hl.bare], fun _ _ => rfl, fun _ _ => rfl, fun _ _ => rfl, fun _ _ => rfl,
    fun _ _ => rfl, fun _ _ => rfl, fun _ _ => rfl, fun _ _ => rfl, fun _ _ => rfl, fun _ _ => rfl, fun _ _ => rfl⟩

theorem Mach.fence_lossFence (m : Mach) {t : Nat} (ht : t < 128) : bt (m.lossFence t).pwr.fence t = true := by
  have hf : ∀ (a : Mach) f, (a.modDom t f).pwr.fence = a.pwr.fence := fun _ _ => rfl
  rw [Mach.lossFence_eq, WideFrame.fence.lossNius, hf]
  exact m.setFence_fence ht

/-! ## The state of a tile that opens -/

section
variable {m : Mach} {d : Nat} (hd : d < 128)
include hd

theorem Mach.powerOff_dom_tile : (m.powerOff d).dom d = (m.openedDom d).dom d := by
  rw [Mach.powerOff_tile m hd, (WideFrame.dom d).finishIf, (WideFrame.dom d).leftDrop, ← Mach.lost]
  unfold Mach.dom
  rw [Mach.pwr_lost]

theorem Mach.powerOff_link_tile {n : Nat} (hn : n ∈ tileLinks d) : (m.powerOff d).link n = (m.link n).downed := by
  rw [Mach.powerOff_tile m hd, (WideFrame.link n).finishIf, (WideFrame.link n).leftDrop, ← Mach.lost, Mach.link_lost m hd hn]
end

/-! ## What follows the loss of state -/

/-- The record of an opening, its event and its alert, and the ends of the instructions that wait (R385, R394). -/
def Mach.alerted (m : Mach) (d kind : Nat) : Mach :=
  let m := (m.pdEvt d kind).pdCount d 0
  let m := (m.modDom d (fun x => { x with alert := true, redo := false, boot := false, flt := true })).occur 12 kind (domLevel d) d 0 1
  ((m.powerEvt d kind).finish (.drain d) xOK).finish (.fence d) xOK

/-- The retry or the latch (R387). -/
def Mach.retryOrLatch (m : Mach) (d : Nat) : Mach :=
  if (m.dom d).retries = 0 then (((m.modDom d (fun x => { x with latched := true })).pdEvt d 5).powerEvt d 4).finish (.domOn d) xTIMEOUT
  else m.modDom d (fun x => { x with retryP := true })

/-- The stations of a spine domain that opens (R230). -/
def Mach.stnLost (m : Mach) (p : Nat) : Mach :=
  (m.finish (.portOn p) xSTATE).modStn p (fun x =>
    { x with onReq := false, onDue := false, dying := decide (x.st ≠ .dead ∧ x.st ≠ .disabled) })

def Mach.stnsLost (m : Mach) (d : Nat) : Mach :=
  if 128 ≤ d ∧ d < 132 ∧ m.hasSpine = true then (List.range 8).foldl (fun m i => m.stnLost (8 * (d - 128) + i)) m else m

/-- A domain that has opened, before the record. -/
def Mach.gone (m : Mach) (d : Nat) : Mach :=
  let m := if d < 128 then m.lostPosted d else m
  let m := m.powerOff d
  if d < 128 then m.lossFence d else if d = 132 then m.holdAll.askBoot else m

theorem Mach.openDom_eq (m : Mach) (d kind : Nat) : m.openDom d kind = (((m.gone d).stnsLost d).alerted d kind).retryOrLatch d := by
  unfold Mach.openDom Mach.gone Mach.stnsLost Mach.alerted Mach.retryOrLatch Mach.stnLost
  rfl

theorem Mach.powerEvt_keeps {γ : Type} {π : Mach → γ} (hpch : ∀ (m : Mach) c, π { m with pchan := c } = π m) (m : Mach) (d k : Nat) :
    π (m.powerEvt d k) = π m := by
  unfold Mach.powerEvt
  split
  · exact hpch _ _
  · rfl

section
variable {γ : Type} {π : Mach → γ} (hregs : ∀ (m : Mach) r, π { m with regs := r } = π m) (hflt : ∀ (m : Mach) f, π (m.modFlt f) = π m)
  (hpch : ∀ (m : Mach) c, π { m with pchan := c } = π m) (hdom : ∀ (m : Mach) d f, π (m.modDom d f) = π m)
  (hfin : ∀ (m : Mach) w st, π (m.finish w st) = π m)
include hregs hpch hdom hfin

include hflt in
theorem Mach.alerted_keeps (m : Mach) (d kind : Nat) : π (m.alerted d kind) = π m := by
  unfold Mach.alerted
  dsimp only
  rw [hfin, hfin, Mach.powerEvt_keeps hpch, Mach.occur_leaves _ _ _ _ _ _ _ hflt, hdom]
  exact (hregs _ _).trans (hregs _ _)

theorem Mach.retryOrLatch_keeps (m : Mach) (d : Nat) : π (m.retryOrLatch d) = π m := by
  unfold Mach.retryOrLatch
  split
  · rw [hfin, Mach.powerEvt_keeps hpch]
    exact (hregs _ _).trans (hdom _ _ _)
  · exact hdom _ _ _
end

/-! ### The domain and its event register -/

theorem Mach.dom_alerted (m : Mach) (d kind : Nat) :
    (m.alerted d kind).dom d = { m.dom d with alert := true, redo := false, boot := false, flt := true } := by
  unfold Mach.alerted
  dsimp only
  rw [Mach.finish_keeps (π := fun m => m.dom d) (fun _ _ => rfl), Mach.finish_keeps (π := fun m => m.dom d) (fun _ _ => rfl),
    Mach.powerEvt_keeps (π := fun m => m.dom d) (fun _ _ => rfl), Mach.occur_leaves (π := fun m => m.dom d) _ _ _ _ _ _ _ (fun _ _ => rfl),
    Mach.dom_modDom]
  rfl

theorem Mach.dom_alerted_ne (m : Mach) {d k : Nat} (kind : Nat) (hk : k ≠ d) : (m.alerted d kind).dom k = m.dom k := by
  unfold Mach.alerted
  dsimp only
  rw [Mach.finish_keeps (π := fun m => m.dom k) (fun _ _ => rfl), Mach.finish_keeps (π := fun m => m.dom k) (fun _ _ => rfl),
    Mach.powerEvt_keeps (π := fun m => m.dom k) (fun _ _ => rfl), Mach.occur_leaves (π := fun m => m.dom k) _ _ _ _ _ _ _ (fun _ _ => rfl),
    Mach.dom_modDom_ne _ _ hk]
  rfl

theorem Mach.dom_retryOrLatch (m : Mach) (d : Nat) : (m.retryOrLatch d).dom d =
    if (m.dom d).retries = 0 then { m.dom d with latched := true } else { m.dom d with retryP := true } := by
  unfold Mach.retryOrLatch
  split
  · rw [Mach.finish_keeps (π := fun m => m.dom d) (fun _ _ => rfl), Mach.powerEvt_keeps (π := fun m => m.dom d) (fun _ _ => rfl)]
    exact Mach.dom_modDom _ _ _
  · exact Mach.dom_modDom _ _ _

theorem Mach.dom_retryOrLatch_ne (m : Mach) {d k : Nat} (hk : k ≠ d) : (m.retryOrLatch d).dom k = m.dom k := by
  unfold Mach.retryOrLatch
  split
  · rw [Mach.finish_keeps (π := fun m => m.dom k) (fun _ _ => rfl), Mach.powerEvt_keeps (π := fun m => m.dom k) (fun _ _ => rfl)]
    exact Mach.dom_modDom_ne _ _ hk
  · exact Mach.dom_modDom_ne _ _ hk

theorem bt_orReg (m : Mach) (a : Nat) {k : Nat} (hk : k < 64) (i : Nat) : bt ((m.orReg a (2 ^ k)).reg a) i = (bt (m.reg a) i || decide (i = k)) := by
  rw [Mach.orReg, Mach.reg_setReg, bt_or, bt_ofNat_two_pow hk]

theorem Mach.evt_alerted (m : Mach) (d : Nat) {kind : Nat} (hk : kind < 64) : bt ((m.alerted d kind).reg (aDom d 0x18)) kind = true := by
  have hne : aDom d 0x18 ≠ aDom d 0x20 := by unfold aDom; omega
  unfold Mach.alerted
  dsimp only
  rw [Mach.finish_keeps (π := fun m => m.reg (aDom d 0x18)) (fun _ _ => rfl), Mach.finish_keeps (π := fun m => m.reg (aDom d 0x18)) (fun _ _ => rfl),
    Mach.powerEvt_keeps (π := fun m => m.reg (aDom d 0x18)) (fun _ _ => rfl), Mach.reg_occur, Mach.reg_modDom, Mach.pdCount, Mach.addFld, Mach.setFld,
    Mach.reg_setReg_ne _ _ hne, Mach.pdEvt, bt_orReg _ _ hk, decide_eq_true rfl, Bool.or_true]

theorem Mach.evt_retryOrLatch (m : Mach) (d : Nat) {kind : Nat} (h : bt (m.reg (aDom d 0x18)) kind = true) :
    bt ((m.retryOrLatch d).reg (aDom d 0x18)) kind = true := by
  unfold Mach.retryOrLatch
  split
  · rw [Mach.finish_keeps (π := fun m => m.reg (aDom d 0x18)) (fun _ _ => rfl), Mach.powerEvt_keeps (π := fun m => m.reg (aDom d 0x18)) (fun _ _ => rfl),
      Mach.pdEvt, bt_orReg _ _ (by decide), Mach.reg_modDom, h, Bool.true_or]
  · exact h

/-! ### The stations -/

theorem Mach.stn_stnLost (m : Mach) (p k : Nat) : (m.stnLost p).stn k = if k = p then { m.stn k with
    onReq := false, onDue := false, dying := decide ((m.stn k).st ≠ .dead ∧ (m.stn k).st ≠ .disabled) } else m.stn k := by
  unfold Mach.stnLost
  by_cases hk : k = p
  · rw [if_pos hk, ← hk, Mach.stn_modStn, Mach.finish_keeps (π := fun m => m.stn k) (fun _ _ => rfl)]
  · rw [if_neg hk, Mach.stn_modStn_ne _ _ hk, Mach.finish_keeps (π := fun m => m.stn k) (fun _ _ => rfl)]

theorem Mach.stn_stnsLost (m : Mach) {d : Nat} (h1 : 128 ≤ d) (h2 : d < 132) (hs : m.hasSpine = true) (p : Nat) :
    (m.stnsLost d).stn p = if p / 8 = d - 128 then { m.stn p with
      onReq := false, onDue := false, dying := decide ((m.stn p).st ≠ .dead ∧ (m.stn p).st ≠ .disabled) } else m.stn p := by
  unfold Mach.stnsLost
  rw [if_pos ⟨h1, h2, hs⟩]
  have h (l : List Nat) (hl : l.Nodup) (m : Mach) : (l.foldl (fun m i => m.stnLost (8 * (d - 128) + i)) m).stn p =
      if 8 * (d - 128) ≤ p ∧ p - 8 * (d - 128) ∈ l then { m.stn p with
        onReq := false, onDue := false, dying := decide ((m.stn p).st ≠ .dead ∧ (m.stn p).st ≠ .disabled) } else m.stn p := by
    induction l generalizing m with
    | nil => simp
    | cons i l ih =>
      obtain ⟨hi, hl⟩ := List.nodup_cons.1 hl
      rw [List.foldl_cons, ih hl, Mach.stn_stnLost]
      by_cases hp : p = 8 * (d - 128) + i
      · have : p - 8 * (d - 128) = i := by omega
        rw [this, if_neg (fun hh => hi hh.2), if_pos hp, if_pos ⟨by omega, .head _⟩]
      · rw [if_neg hp]
        refine if_congr (and_congr_right fun hle => ?_) rfl rfl
        rw [List.mem_cons, or_iff_right (by omega)]
  rw [h _ List.nodup_range]
  refine if_congr ?_ rfl rfl
  rw [List.mem_range]
  omega

theorem Mach.stnsLost_keeps {γ : Type} {π : Mach → γ} (hfin : ∀ (m : Mach) w st, π (m.finish w st) = π m)
    (hstn : ∀ m p f, π (m.modStn p f) = π m) (m : Mach) (d : Nat) : π (m.stnsLost d) = π m := by
  unfold Mach.stnsLost
  split
  · exact foldl_keeps π _ _ _ (fun m i => (hstn _ _ _).trans (hfin _ _ _))
  · rfl

/-! ### An engine that is OFF -/

theorem Mach.finish_off {m : Mach} {e : Nat} (h : (m.eng e).state = .off) (w : Wait) (st : Nat) : ((m.finish w st).eng e).state = .off := by
  rw [Mach.eng_finish, if_neg (by rw [h]; rintro ⟨-, h, -⟩; cases h), h]

theorem Mach.stnsLost_off {m : Mach} {e : Nat} (h : (m.eng e).state = .off) (d : Nat) : ((m.stnsLost d).eng e).state = .off := by
  unfold Mach.stnsLost
  split
  · exact List.foldlRecOn (motive := fun a : Mach => (a.eng e).state = .off) _ _ h (fun a ha i _ => Mach.finish_off ha _ _)
  · exact h

theorem Mach.alerted_off {m : Mach} {e : Nat} (h : (m.eng e).state = .off) (d kind : Nat) : ((m.alerted d kind).eng e).state = .off := by
  unfold Mach.alerted
  dsimp only
  refine Mach.finish_off (Mach.finish_off ?_ _ _) _ _
  rw [Mach.powerEvt_keeps (π := fun m => m.eng e) (fun _ _ => rfl), Mach.occur_leaves (π := fun m => m.eng e) _ _ _ _ _ _ _ (fun _ _ => rfl)]
  exact h

theorem Mach.retryOrLatch_off {m : Mach} {e : Nat} (h : (m.eng e).state = .off) (d : Nat) : ((m.retryOrLatch d).eng e).state = .off := by
  unfold Mach.retryOrLatch
  split
  · refine Mach.finish_off ?_ _ _
    rw [Mach.powerEvt_keeps (π := fun m => m.eng e) (fun _ _ => rfl)]
    exact h
  · exact h

end Sys2Proof.Machine

/-! PROOFS. A trip or a supply loss opens a domain (O42): each kind of domain, and the always-on domain, which holds every other. -/

namespace Sys2Proof.Machine

/-! ## Resets of domains, at the power unit -/

theorem Mach.clearTile_eq (m : Mach) (t : Nat) : m.clearTile t = ((m.unlinked t).leftDrop (domNius t)).finishIf (tileWaits t) 0 := by
  unfold Mach.clearTile
  refine congrArg (fun p => Mach.finishIf _ p 0) (funext fun w => ?_)
  cases w <;> rfl

theorem WideFrame.aonUp : WideFrame (fun m => m.pwr.aonUp) :=
  ⟨fun a m hl => show a.bare.pwr.aonUp = m.bare.pwr.aonUp by rw [hl.bare], fun _ _ => rfl, fun _ _ => rfl, fun _ _ => rfl, fun _ _ => rfl,
    fun _ _ => rfl, fun _ _ => rfl, fun _ _ => rfl, fun _ _ => rfl, fun _ _ => rfl, fun _ _ => rfl, fun _ _ => rfl⟩

/-- The reset of a tile or spine domain leaves the power unit, but for the domain's own reset. -/
theorem Mach.domReset_pwr {γ : Type} {g : Power → γ} (hg : WideFrame (fun m => g m.pwr)) (m : Mach) {d : Nat} (hd : d < 132) :
    g (m.domReset d).pwr = g (m.modDom d (fun x => { x with live := false })).pwr := by
  obtain ⟨r, hr⟩ := (m.modDom d (fun x => { x with live := false })).farDrop_eq d
  unfold Mach.domReset
  dsimp only
  rw [hr]
  generalize m.modDom d (fun x => { x with live := false }) = a
  by_cases h : d < 128
  · have hu : (({ a with rp := r } : Mach).unlinked d).pwr = a.pwr := (LossFrame.pwr a.pwr).unlinked d (by rw [Mach.emptied_eq])
    rw [if_pos h, Mach.clearTile_eq, hg.finishIf, hg.leftDrop, hu]
  · rw [if_neg h, if_pos hd, Mach.clearSpine_keeps (π := fun m => g m.pwr) (fun _ _ _ => rfl) (fun _ _ => rfl) (fun _ _ => rfl) (fun _ _ => rfl)
      (fun _ _ => rfl) (fun _ _ => rfl) (fun _ _ => rfl)]

theorem Mach.dom_domReset (m : Mach) {d : Nat} (hd : d < 132) (k : Nat) :
    (m.domReset d).dom k = (m.modDom d (fun x => { x with live := false })).dom k :=
  Mach.domReset_pwr (g := fun p => Tab.get dDom p.doms k) (WideFrame.dom k) m hd

theorem Mach.aonUp_domReset (m : Mach) {d : Nat} (hd : d < 132) : (m.domReset d).pwr.aonUp = m.pwr.aonUp :=
  Mach.domReset_pwr (g := fun p => p.aonUp) WideFrame.aonUp m hd

/-! ## The always-on domain -/

/-- One domain that is held in reset. -/
def Mach.holdOne (m : Mach) (d : Nat) : Mach := if (m.dom d).pgood then (m.modDom d (fun x => { x with st := .ramp })).domReset d else m

theorem Mach.holdAll_eq (m : Mach) : m.holdAll = (List.range 132).foldl Mach.holdOne m := rfl

theorem Mach.dom_holdOne_ne (m : Mach) {d k : Nat} (hd : d < 132) (hk : k ≠ d) : (m.holdOne d).dom k = m.dom k := by
  unfold Mach.holdOne
  split
  · rw [Mach.dom_domReset _ hd, Mach.dom_modDom_ne _ _ hk, Mach.dom_modDom_ne _ _ hk]
  · rfl

theorem Mach.dom_holdOne (m : Mach) {d : Nat} (hd : d < 132) (hg : (m.dom d).pgood = true) :
    (m.holdOne d).dom d = { m.dom d with st := .ramp, live := false } := by
  unfold Mach.holdOne
  rw [if_pos hg, Mach.dom_domReset _ hd, Mach.dom_modDom, Mach.dom_modDom]

theorem Mach.aonUp_holdOne (m : Mach) {d : Nat} (hd : d < 132) : (m.holdOne d).pwr.aonUp = m.pwr.aonUp := by
  unfold Mach.holdOne
  split
  · exact (Mach.aonUp_domReset _ hd).trans rfl
  · rfl

/-- A property of the machine that every domain's holding keeps. -/
theorem Mach.holdAll_of {P : Mach → Prop} {m : Mach} (hm : P m) (h : ∀ a d, d < 132 → P a → P (a.holdOne d)) : P m.holdAll := by
  have hl : ∀ d ∈ List.range 132, d < 132 := fun d => List.mem_range.1
  rw [Mach.holdAll_eq]
  generalize List.range 132 = l at hl ⊢
  exact List.foldlRecOn l _ hm (fun a ha d hd => h a d (hl d hd) ha)

theorem Mach.aonUp_holdAll (m : Mach) : m.holdAll.pwr.aonUp = m.pwr.aonUp :=
  Mach.holdAll_of (P := fun a => a.pwr.aonUp = m.pwr.aonUp) rfl (fun a _ hd ha => (a.aonUp_holdOne hd).trans ha)

theorem Mach.dom_holdAll_aon (m : Mach) : m.holdAll.dom 132 = m.dom 132 :=
  Mach.holdAll_of (P := fun a => a.dom 132 = m.dom 132) rfl (fun a _ hd ha => (a.dom_holdOne_ne hd (by omega)).trans ha)

theorem Mach.live_holdAll {m : Mach} {k : Nat} (hk : k < 132) (hg : (m.dom k).pgood = true) : (m.holdAll.dom k).live = false := by
  rw [Mach.holdAll_eq]
  refine foldl_sets (I := fun a : Mach => (a.dom k).pgood = true) (Q := fun a => (a.dom k).live = false) (List.mem_range.2 hk)
    (fun a d hd ha => ?_) (fun a ha => by rw [Mach.dom_holdOne a hk ha]) (fun a d hd ha hq => ?_) hg
  · have hd := List.mem_range.1 hd
    by_cases hkd : k = d
    · subst hkd
      rw [Mach.dom_holdOne a hk ha]
      exact ha
    · rw [Mach.dom_holdOne_ne a hd hkd, ha]
  · have hd := List.mem_range.1 hd
    by_cases hkd : k = d
    · subst hkd
      rw [Mach.dom_holdOne a hk ha]
    · rw [Mach.dom_holdOne_ne a hd hkd, hq]

theorem Mach.clearAon_pwr (m : Mach) : m.clearAon.pwr = { m.pwr with aonUp := false } := by
  have h : (m.clearEngine 0 .idle).pwr = m.pwr :=
    Mach.clearEngine_keeps (π := fun m => m.pwr) (fun _ _ _ => rfl) (fun _ _ => rfl) (fun _ _ => rfl) (fun _ _ => rfl) (fun _ _ => rfl) m .idle
  have hs (m : Mach) : m.spineHold.pwr = m.pwr := by
    unfold Mach.spineHold
    split
    · rfl
    · exact Mach.setLock_leaves (π := fun m => m.pwr) _ _ (fun _ _ => rfl) (fun _ _ => rfl)
  unfold Mach.clearAon
  dsimp only
  rw [hs]
  show ({ (m.clearEngine 0 .idle).pwr with aonUp := false } : Power) = _
  rw [h]

theorem Mach.powerOff_aon_pwr (m : Mach) : (m.powerOff 132).pwr = { (m.openedDom 132).pwr with aonUp := false } := by
  obtain ⟨r, hr⟩ := (m.openedDom 132).farDrop_eq 132
  have h : m.powerOff 132 = ((m.openedDom 132).farDrop 132).clearAon := rfl
  rw [h, hr, Mach.clearAon_pwr]

/-! ## What every opened domain shares -/

/-- A domain without its state: OFF, no leg closed. -/
structure PDom.Dead (x y : PDom) : Prop where
  st      : x.st = .off
  feed    : x.feed = 0
  live    : x.live = false
  pgood   : x.pgood = false
  retries : x.retries = y.retries

theorem Mach.dead_openedDom (m : Mach) (d : Nat) : ((m.openedDom d).dom d).Dead (m.dom d) := by
  rw [Mach.dom_openedDom]
  exact ⟨rfl, rfl, rfl, rfl, rfl⟩

theorem Mach.gone_tile {m : Mach} {d : Nat} (hd : d < 128) : m.gone d = ((m.lostPosted d).powerOff d).lossFence d := by
  unfold Mach.gone
  rw [if_pos hd, if_pos hd]

theorem Mach.gone_spine {m : Mach} {d : Nat} (h1 : 128 ≤ d) (h2 : d < 132) : m.gone d = m.powerOff d := by
  unfold Mach.gone
  dsimp only
  rw [if_neg (by omega), if_neg (by omega), if_neg (by omega)]

theorem Mach.gone_aon (m : Mach) : m.gone 132 = (m.powerOff 132).holdAll.askBoot := by
  unfold Mach.gone
  dsimp only
  rw [if_neg (by decide), if_pos rfl, if_neg (by decide)]

theorem Mach.dom_powerOff_spine (m : Mach) {d : Nat} (h1 : 128 ≤ d) (h2 : d < 132) : (m.powerOff d).dom d = (m.openedDom d).dom d := by
  obtain ⟨r, hr⟩ := m.powerOff_spine_eq h1 h2
  generalize m.openedDom d = o at hr ⊢
  rw [hr, Mach.clearSpine_keeps (π := fun m => m.dom d) (fun _ _ _ => rfl) (fun _ _ => rfl) (fun _ _ => rfl) (fun _ _ => rfl) (fun _ _ => rfl)
    (fun _ _ => rfl) (fun _ _ => rfl)]
  rfl

theorem Mach.dom_powerOff_aon (m : Mach) (k : Nat) : (m.powerOff 132).dom k = (m.openedDom 132).dom k := by
  unfold Mach.dom
  rw [Mach.powerOff_aon_pwr]

theorem Mach.dead_gone (m : Mach) (d : Dom) : ((m.gone d).dom d).Dead (m.dom d) := by
  by_cases h1 : d.val < 128
  · rw [Mach.gone_tile h1, Mach.dom_lossFence, Mach.powerOff_dom_tile h1]
    have h := (m.lostPosted d).dead_openedDom d
    rw [(WideFrame.dom d).lostPosted] at h
    generalize ((m.lostPosted d).openedDom d).dom d = x at h ⊢
    exact ⟨h.st, h.feed, h.live, h.pgood, h.retries⟩
  by_cases h2 : d.val < 132
  · rw [Mach.gone_spine (by omega) h2, Mach.dom_powerOff_spine _ (by omega) h2]
    exact m.dead_openedDom d
  · have hd : d.val = 132 := by have := d.isLt; omega
    have h := m.dead_openedDom 132
    rw [← Mach.dom_powerOff_aon, ← Mach.dom_holdAll_aon] at h
    have hb {γ : Type} (f : PDom → γ) (hf : ∀ x : PDom, f { x with boot := true } = f x) :
        f ((m.gone 132).dom 132) = f ((m.powerOff 132).holdAll.dom 132) := by
      rw [Mach.gone_aon]
      exact Mach.dom_askBoot f hf _ 132
    rw [hd]
    exact ⟨(hb (fun x => x.st) (fun _ => rfl)).trans h.st, (hb (fun x => x.feed) (fun _ => rfl)).trans h.feed,
      (hb (fun x => x.live) (fun _ => rfl)).trans h.live, (hb (fun x => x.pgood) (fun _ => rfl)).trans h.pgood,
      (hb (fun x => x.retries) (fun _ => rfl)).trans h.retries⟩

/-- The domain, the record and the retry of an opening. -/
theorem Mach.openDom_dom (m : Mach) (d : Dom) {kind : Nat} (hk : kind < 64) :
    ((m.openDom d kind).dom d).Dead (m.dom d) ∧ ((m.openDom d kind).dom d).alert = true ∧ bt ((m.openDom d kind).reg (aDom d 0x18)) kind = true ∧
      ((m.dom d).retries = 0 → ((m.openDom d kind).dom d).latched = true) ∧ ((m.dom d).retries ≠ 0 → ((m.openDom d kind).dom d).retryP = true) := by
  have hdead := m.dead_gone d
  have hs : (((m.gone d).stnsLost d).dom d) = (m.gone d).dom d :=
    Mach.stnsLost_keeps (π := fun m => m.dom d) (Mach.finish_keeps (π := fun m => m.dom d) (fun _ _ => rfl)) (fun _ _ _ => rfl) _ d
  have hall : ((((m.gone d).stnsLost d).alerted d kind).dom d) =
      { (m.gone d).dom d with alert := true, redo := false, boot := false, flt := true } := by rw [Mach.dom_alerted, hs]
  rw [Mach.openDom_eq, Mach.dom_retryOrLatch, hall]
  refine ⟨?_, ?_, Mach.evt_retryOrLatch _ _ (Mach.evt_alerted _ _ hk), fun h0 => ?_, fun h0 => ?_⟩
  · split
    · exact ⟨hdead.st, hdead.feed, hdead.live, hdead.pgood, hdead.retries⟩
    · exact ⟨hdead.st, hdead.feed, hdead.live, hdead.pgood, hdead.retries⟩
  · split <;> rfl
  · rw [if_pos (hdead.retries.trans h0)]
  · rw [if_neg (fun h => h0 (hdead.retries.symm.trans h))]

/-! ## The tile, the spine domain and the always-on domain that open -/

/-- What follows the loss of state leaves everything but registers, the fault unit, events, domains and waits. -/
theorem Mach.openDom_keeps {γ : Type} {π : Mach → γ} (hregs : ∀ (m : Mach) r, π { m with regs := r } = π m) (hflt : ∀ (m : Mach) f, π (m.modFlt f) = π m)
    (hpch : ∀ (m : Mach) c, π { m with pchan := c } = π m) (hdom : ∀ (m : Mach) d f, π (m.modDom d f) = π m)
    (hengs : ∀ (m : Mach) l, π { m with engs := l } = π m) (m : Mach) (d kind : Nat) : π (m.openDom d kind) = π ((m.gone d).stnsLost d) := by
  rw [Mach.openDom_eq, Mach.retryOrLatch_keeps hregs hpch hdom (Mach.finish_keeps hengs),
    Mach.alerted_keeps hregs hflt hpch hdom (Mach.finish_keeps hengs)]

theorem Mach.openDom_tile (m : Mach) {d : Dom} (hd : d.val < 128) (kind : Nat) :
    ((m.openDom d kind).dom d).lossF = true ∧ bt (m.openDom d kind).pwr.fence d = true ∧
      ∀ n ∈ tileLinks d, (m.openDom d kind).link n = (m.link n).downed := by
  have hst {γ : Type} {π : Mach → γ} : π ((m.gone d).stnsLost d) = π (m.gone d) := by
    rw [Mach.stnsLost, if_neg (fun h => by have := h.1; omega)]
  refine ⟨?_, ?_, fun n hn => ?_⟩
  · have hs : (((m.gone d).stnsLost d).dom d) = (m.gone d).dom d := hst (π := fun m => m.dom d)
    have hloss : ((m.gone d).dom d).lossF = true := by rw [Mach.gone_tile hd, Mach.dom_lossFence]
    rw [Mach.openDom_eq, Mach.dom_retryOrLatch, Mach.dom_alerted, hs]
    split
    · exact hloss
    · exact hloss
  · rw [Mach.openDom_keeps (π := fun m => m.pwr.fence) (fun _ _ => rfl) (fun _ _ => rfl) (fun _ _ => rfl) (fun _ _ _ => rfl) (fun _ _ => rfl),
      hst (π := fun m => m.pwr.fence), Mach.gone_tile hd]
    exact Mach.fence_lossFence _ hd
  · rw [Mach.openDom_keeps (π := fun m => m.link n) (fun _ _ => rfl) (fun _ _ => rfl) (fun _ _ => rfl) (fun _ _ _ => rfl) (fun _ _ => rfl),
      hst (π := fun m => m.link n), Mach.gone_tile hd, Mach.link_lossFence, Mach.powerOff_link_tile hd hn, (WideFrame.link n).lostPosted]

/-- A station of a spine domain that has opened. -/
def Station.opened (x : Station) : Station :=
  { x with turnL := 0, turnS := [], onReq := false, onDue := false, dying := decide (x.st ≠ .dead ∧ x.st ≠ .disabled) }

theorem Mach.openDom_spine (m : Mach) {d : Dom} (h1 : 128 ≤ d.val) (h2 : d.val < 132) (kind : Nat) :
    ((m.openDom d kind).eng (d - 127)).state = .off ∧
      (m.hasSpine = true → ∀ p, (m.openDom d kind).stn p = if p / 8 = d.val - 128 then (m.stn p).opened else m.stn p) := by
  obtain ⟨r, hr⟩ := m.powerOff_spine_eq h1 h2
  generalize (m.openedDom d).pwr = p at hr
  have hq : d.val - 128 + 1 = d.val - 127 := by omega
  refine ⟨?_, fun hsp p => ?_⟩
  · rw [Mach.openDom_eq, Mach.gone_spine h1 h2]
    refine Mach.retryOrLatch_off (Mach.alerted_off (Mach.stnsLost_off ?_ _) _ _) _
    rw [hr, ← hq, Mach.eng_clearSpine]
  · have hs : (m.powerOff d).hasSpine = true := by
      rw [hr, Mach.clearSpine_keeps (π := fun m => m.hasSpine) (fun _ _ _ => rfl) (fun _ _ => rfl) (fun _ _ => rfl) (fun _ _ => rfl) (fun _ _ => rfl)
        (fun _ _ => rfl) (fun _ _ => rfl)]
      exact hsp
    rw [Mach.openDom_keeps (π := fun m => m.stn p) (fun _ _ => rfl) (fun _ _ => rfl) (fun _ _ => rfl) (fun _ _ _ => rfl) (fun _ _ => rfl),
      Mach.gone_spine h1 h2, Mach.stn_stnsLost _ h1 h2 hs, hr, Mach.stn_clearSpine]
    split <;> rfl

theorem Mach.openDom_aon (m : Mach) (kind : Nat) :
    (m.openDom 132 kind).pwr.aonUp = false ∧ ∀ k, k < 132 → (m.dom k).pgood = true → ((m.openDom 132 kind).dom k).live = false := by
  have hst {γ : Type} {π : Mach → γ} : π ((m.gone 132).stnsLost 132) = π (m.gone 132) := by
    rw [Mach.stnsLost, if_neg (fun h => by have := h.2.1; omega)]
  refine ⟨?_, fun k hk hg => ?_⟩
  · rw [Mach.openDom_keeps (π := fun m => m.pwr.aonUp) (fun _ _ => rfl) (fun _ _ => rfl) (fun _ _ => rfl) (fun _ _ _ => rfl) (fun _ _ => rfl),
      hst (π := fun m => m.pwr.aonUp), Mach.gone_aon, Mach.askBoot_leaves (π := fun m => m.pwr.aonUp) _ (fun _ _ => rfl) (fun _ _ => rfl),
      Mach.aonUp_holdAll, Mach.powerOff_aon_pwr]
  · have hne : k ≠ 132 := by omega
    have hd : ((m.gone 132).stnsLost 132).dom k = (m.gone 132).dom k := hst (π := fun m => m.dom k)
    have hb : ((m.gone 132).dom k).live = ((m.powerOff 132).holdAll.dom k).live := by
      rw [Mach.gone_aon]
      exact Mach.dom_askBoot (fun x => x.live) (fun _ => rfl) _ k
    rw [Mach.openDom_eq, Mach.dom_retryOrLatch_ne _ hne, Mach.dom_alerted_ne _ _ hne, hd, hb]
    refine Mach.live_holdAll hk ?_
    rw [Mach.dom_powerOff_aon, Mach.dom_openedDom_ne _ hne, hg]

/-! ## The commands -/

theorem Mach.measure_keeps {γ : Type} {π : Mach → γ} (h : ∀ (m : Mach) d f, π (m.modDom d f) = π m) (m : Mach) (d : Nat) (v : Meas) :
    π (m.measure d v) = π m := h m d _

def Mach.fastTrips (m : Mach) (d : Nat) (v : Meas) : Mach := if (m.dom d).closed then (m.measure d v).openDom d 0 else m

def Mach.timerTrips (m : Mach) (d : Nat) : Mach := if (m.dom d).closed && (m.dom d).timer && !m.limQuiet d then m.openDom d 1 else m

def Mach.deadline (m : Mach) (d : Nat) : Mach :=
  if (m.dom d).st = .ramp ∧ (m.dom d).closed = true ∧ (m.dom d).pgood = false ∧ (m.dom d).lim = 0 then m.openDom d 1 else m

def Mach.retries (m : Mach) (d : Nat) : Mach :=
  if (m.dom d).st = .off ∧ (m.dom d).retryP = true then
    (((m.askRamp d).modDom d (fun x => { x with retries := x.retries - 1 })).pdEvt d 6).powerEvt d 3
  else m

section
variable {s : State} {d : Dom}

theorem exec_supplyLoss_none {u : BitVec 8} (h : s.m.stuckFeed d u.toNat 88 = false) : exec (.supplyLoss ⟨d, u⟩) s = .next { s with m := s.m } := by
  change execSupplyLoss ⟨d, u⟩ s = _
  rw [execSupplyLoss, h, Bool.not_false, Bool.or_true, if_pos rfl]

variable (hs : s.m.test.scan = false)
include hs

theorem exec_fastTrip (v : Meas) : exec (.fastTrip d v) s = .next { s with m := s.m.fastTrips d v } := by
  change execFastTrip d v s = _
  rw [execFastTrip, State.on_eq hs]
  rfl

theorem exec_timerTrip : exec (.timerTrip d) s = .next { s with m := s.m.timerTrips d } := by
  change execTimerTrip d s = _
  rw [execTimerTrip, State.on_eq hs]
  rfl

theorem exec_powerGoodDeadline : exec (.powerGoodDeadline d) s = .next { s with m := s.m.deadline d } := by
  change execPowerGoodDeadline d s = _
  rw [execPowerGoodDeadline, State.on_eq hs]
  rfl

theorem exec_retryTimer : exec (.retryTimer d) s = .next { s with m := s.m.retries d } := by
  change execRetryTimer d s = _
  rw [execRetryTimer, State.on_eq hs]
  rfl

theorem exec_supplyLoss_opens {u : BitVec 8} (hd : d.val < 132) (h : s.m.stuckFeed d u.toNat 88 = true) :
    exec (.supplyLoss ⟨d, u⟩) s = .next { s with m := s.m.openDom d 2 } := by
  change execSupplyLoss ⟨d, u⟩ s = _
  rw [execSupplyLoss, hs, h, if_neg (by decide), if_neg (show ¬ d.val = 132 by omega)]
end

/-- Settles O42: every opening by what `openDom` does to a tile, a spine domain and the always-on domain. -/
theorem domainOpening : Obligations.DomainOpening := by
  intro s d v u y opened held hs
  have hopened (m : Mach) (kind : Nat) (hk : kind < 3) (hret : (m.dom d).retries = y.retries) (hlink : ∀ n, m.link n = s.m.link n)
      (hstn : ∀ p, m.stn p = s.m.stn p) (hsp : m.hasSpine = s.m.hasSpine) : opened { s with m := m.openDom d kind } kind := by
    obtain ⟨hdead, halert, hevt, hlatch, hretry⟩ := m.openDom_dom d (kind := kind) (by omega)
    have htile := fun hd => m.openDom_tile (d := d) hd kind
    have hspine := fun h1 h2 => m.openDom_spine (d := d) h1 h2 kind
    rw [hret] at hlatch hretry
    generalize m.openDom d kind = t at hdead halert hevt hlatch hretry htile hspine ⊢
    refine ⟨hdead.st, hdead.feed, hdead.live, hdead.pgood, halert, hevt, hlatch, hretry, fun hd => ?_, fun h1 h2 => ?_, rfl, rfl⟩
    · obtain ⟨hloss, hfence, hlinks⟩ := htile hd
      refine ⟨hloss, hfence, fun n hn hx => ?_⟩
      rw [hlinks n hn, Link.downed_st (by rw [hlink]; exact hx), hlink]
    · obtain ⟨hoff, hstns⟩ := hspine h1 h2
      refine ⟨hoff, fun h p => ?_⟩
      rw [hstns (hsp.trans h), hstn]
      rfl
  have hheld (m : Mach) (kind : Nat) (hg : ∀ k, k < 132 → (s.m.dom k).pgood = true → (m.dom k).pgood = true) :
      held { s with m := m.openDom d kind } := by
    intro hd
    have h := m.openDom_aon kind
    dsimp only
    rw [hd]
    exact ⟨h.1, fun k hk hpk => h.2 k hk (hg k hk hpk)⟩
  have hopen := hopened s.m
  refine ⟨fun hf => ?_, fun hf ht hl => ?_, fun hst hf hg hl => ?_, fun hd hf hb hok hu => ?_, fun hf => ⟨?_, ?_, ?_⟩, fun h => ?_, fun h => ?_, fun hl => ?_,
    fun hst hr => ?_, fun hr => ?_, fun hg => ?_, fun hg => ?_⟩
  · have hx := exec_fastTrip (d := d) hs v
    rw [Mach.fastTrips, PDom.closed, if_pos (decide_eq_true hf)] at hx
    refine ⟨_, hx, hopened _ 0 (by decide) ?_ (fun _ => rfl) (fun _ => rfl) rfl, hheld _ 0 (fun k _ hk => ?_)⟩
    · rw [Mach.measure, Mach.dom_modDom]
    · by_cases hkd : k = d.val
      · rw [hkd, Mach.measure, Mach.dom_modDom, ← hkd]
        exact hk
      · rw [Mach.measure, Mach.dom_modDom_ne _ _ hkd]
        exact hk
  · have hx := exec_timerTrip (d := d) hs
    have hq : s.m.limQuiet d = false := Bool.eq_false_iff.2 (fun hq => hl (Mach.limQuiet_iff.1 hq).1)
    rw [Mach.timerTrips, PDom.closed, ht, hq, decide_eq_true hf, if_pos (show (true && true && !false) = true from rfl)] at hx
    exact ⟨_, hx, hopen 1 (by decide) rfl (fun _ => rfl) (fun _ => rfl) rfl, hheld _ 1 (fun _ _ hk => hk)⟩
  · have hx := exec_powerGoodDeadline (d := d) hs
    rw [Mach.deadline, if_pos ⟨hst, decide_eq_true hf, hg, hl⟩] at hx
    exact ⟨_, hx, hopen 1 (by decide) rfl (fun _ => rfl) (fun _ => rfl) rfl, hheld _ 1 (fun _ _ hk => hk)⟩
  · refine ⟨_, exec_supplyLoss_opens hs hd (Mach.stuckFeed_iff.2 ?_), hopen 2 (by decide) rfl (fun _ => rfl) (fun _ => rfl) rfl⟩
    refine ⟨by show y.feed ≠ 0; omega, hb, decide_eq_true hu, hok⟩
  · exact Does.of_exec ((exec_fastTrip hs v).trans (congrArg (fun a => Host.Outcome.next { s with m := a }) (if_neg (by simp [PDom.closed, y, hf]))))
  · exact Does.of_exec ((exec_timerTrip hs).trans (congrArg (fun a => Host.Outcome.next { s with m := a }) (if_neg (by simp [PDom.closed, y, hf]))))
  · exact Does.of_exec (exec_supplyLoss_none (Bool.eq_false_iff.2 (fun h => (Mach.stuckFeed_iff.1 h).1 hf)))
  · refine Does.of_exec (exec_supplyLoss_none (Bool.eq_false_iff.2 (fun hst => ?_)))
    obtain ⟨-, hb, hu, hok⟩ := Mach.stuckFeed_iff.1 hst
    have hlt := of_decide_eq_true hu
    obtain h | h | h := h
    · exact Bool.false_ne_true (hb.symm.trans h)
    · omega
    · exact Bool.false_ne_true (hok.symm.trans h)
  · refine Does.of_exec ((exec_timerTrip hs).trans (congrArg (fun a => Host.Outcome.next { s with m := a }) (if_neg ?_)))
    intro hh
    rw [Bool.and_eq_true, Bool.and_eq_true, Bool.not_eq_true'] at hh
    obtain h | h := h
    · exact Bool.false_ne_true (h.symm.trans hh.1.2)
    · exact Bool.false_ne_true (hh.2.symm.trans h)
  · exact Does.of_exec ((exec_powerGoodDeadline hs).trans (congrArg (fun a => Host.Outcome.next { s with m := a }) (if_neg (fun hh => hl hh.2.2.2))))
  · refine ⟨_, (exec_retryTimer (d := d) hs).trans (congrArg (fun a => Host.Outcome.next { s with m := a }) (if_pos ⟨hst, hr⟩)), ?_, ?_, ?_⟩
    · dsimp only
      rw [Mach.powerEvt_keeps (π := fun m => m.dom d) (fun _ _ => rfl), Mach.pdEvt, Mach.dom_orReg,
        Mach.dom_modDom, Mach.askRamp, Mach.dom_modReqs _ (fun l => l.filter (fun k => k ≠ d.val) ++ [d.val]),
        Mach.dom_modDom]
    · dsimp only
      rw [Mach.powerEvt_keeps (π := fun m => m.pwr.reqs) (fun _ _ => rfl)]
      rfl
    · dsimp only
      rw [Mach.powerEvt_keeps (π := fun m => m.reg (aDom d 0x18)) (fun _ _ => rfl), Mach.pdEvt, bt_orReg _ _ (by decide), decide_eq_true rfl, Bool.or_true]
  · exact Does.of_exec ((exec_retryTimer hs).trans (congrArg (fun a => Host.Outcome.next { s with m := a })
      (if_neg (fun hh => Bool.false_ne_true (hr.symm.trans hh.2)))))
  · refine Does.run rfl hs ?_
    rw [if_pos hg]
    exact .refl _
  · refine Does.run rfl hs ?_
    rw [if_neg (by rw [hg]; exact Bool.false_ne_true)]

end Sys2Proof.Machine

/-! PROOFS. PL.DETACH, PL.ATTACH and PL.MIGRATE (O45). -/

namespace Sys2Proof.Machine

/-! ## Events at the master, and the state of the twin unit -/

theorem Mach.eng_postEvt (m : Mach) (e cls kind detail src : Nat) : ∃ q, (m.postEvt e cls kind detail src).eng e = { m.eng e with evq := q } := by
  unfold Mach.postEvt
  dsimp only
  split
  · exact ⟨(m.eng e).evq, rfl⟩
  split
  · exact ⟨_, Mach.eng_modEng _ _ _⟩
  · exact ⟨(m.eng e).evq, rfl⟩

theorem Mach.eng_postEvt_ne (m : Mach) {e k : Nat} (hk : k ≠ e) (cls kind detail src : Nat) : (m.postEvt e cls kind detail src).eng k = m.eng k :=
  Mach.postEvt_leaves (π := fun m => m.eng k) m e cls kind detail src (fun m f => m.eng_modEng_ne f hk) (fun _ _ _ _ => rfl)

/-- The twin unit in a state that it was not in. -/
theorem Mach.twinState_enters {m : Mach} {st : TwSt} (h : m.twin.st ≠ st) (kind src : Nat) :
    (m.twinState st kind src).twin = { m.twin with st := st, missed := if st = .down then 0 else m.twin.missed } ∧
      (∃ q, (m.twinState st kind src).eng 0 = { m.eng 0 with evq := q }) ∧ (∀ j, j ≠ 0 → (m.twinState st kind src).eng j = m.eng j) ∧
      (m.twinState st kind src).nius = m.nius ∧ (m.twinState st kind src).pwr = m.pwr ∧ (m.twinState st kind src).straps = m.straps ∧
      (m.twinState st kind src).keep = m.keep := by
  have hleaf {γ : Type} {π : Mach → γ} (heng : ∀ (m : Mach) f, π (m.modEng 0 f) = π m) (hreg : ∀ (m : Mach) a w, π (m.setReg a w) = π m)
      (a : Mach) (c d : Nat) : π (a.twinEvt c d) = π a := Mach.postEvt_leaves a 0 9 c _ d heng (fun m a w _ => hreg m a w)
  unfold Mach.twinState
  rw [if_neg h]
  refine ⟨?_, ?_, fun j hj => ?_, ?_, ?_, ?_, ?_⟩
  · exact hleaf (π := fun m => m.twin) (fun _ _ => rfl) (fun _ _ _ => rfl) _ _ _
  · exact Mach.eng_postEvt _ _ _ _ _ _
  · exact Mach.eng_postEvt_ne _ hj _ _ _ _
  · exact hleaf (π := fun m => m.nius) (fun _ _ => rfl) (fun _ _ _ => rfl) _ _ _
  · exact hleaf (π := fun m => m.pwr) (fun _ _ => rfl) (fun _ _ _ => rfl) _ _ _
  · exact hleaf (π := fun m => m.straps) (fun _ _ => rfl) (fun _ _ _ => rfl) _ _ _
  · exact hleaf (π := fun m => m.keep) (fun _ _ => rfl) (fun _ _ _ => rfl) _ _ _

/-! ## A move starts -/

/-- The machine in which both planes have been told of a move. -/
def Mach.detaching (m : Mach) (op : Nat) (dst : Bool) (first last : Nat) : Mach :=
  (m.modTwin (fun x => { x with op := op, opSelf := true, opTo := dst, first := first, last := last })).twinState .detaching 0 0

/-- The notices of a move that stays on this plane, to every running port. -/
def Mach.notified (m : Mach) (op : Nat) (dst : Bool) (first last : Nat) (l : List Nat) : Mach :=
  l.foldl (fun m n => (m.deliver n 0x3E [m.noticeRec first last dst (if op = 3 then 2 else 1)]).modNiu n (fun x => { x with notice := true })) m

def Mach.allArrive (m : Mach) : Mach := (List.range 512).foldl (fun m n => m.modNiu n (fun x => { x with arrive := true })) m

def Mach.ports (m : Mach) : List Nat := (List.range 512).filter (fun n => m.portRuns n)

theorem Mach.startMove_away {m : Mach} {dst : Bool} (h : dst ≠ m.straps.planeB) (hst : m.twin.st ≠ .detaching) (op first last : Nat) :
    m.startMove op true dst first last = m.detaching op dst first last := by
  have hs : (m.detaching op dst first last).straps = m.straps :=
    (Mach.twinState_enters (m := m.modTwin (fun x => { x with op := op, opSelf := true, opTo := dst, first := first, last := last })) hst 0 0).2.2.2.2.2.1
  exact if_pos (by rw [← hs] at h; exact h)

theorem Mach.startMove_here {m : Mach} {dst : Bool} (h : dst = m.straps.planeB) (hst : m.twin.st ≠ .detaching) (op first last : Nat) :
    m.startMove op true dst first last = ((((m.detaching op dst first last).allArrive).notified op dst first last
      ((m.detaching op dst first last).allArrive).ports).modTwin (fun x => { x with left := ((m.detaching op dst first last).allArrive).ports })).moveCheck := by
  have hs : (m.detaching op dst first last).straps = m.straps :=
    (Mach.twinState_enters (m := m.modTwin (fun x => { x with op := op, opSelf := true, opTo := dst, first := first, last := last })) hst 0 0).2.2.2.2.2.1
  unfold Mach.startMove
  dsimp only
  exact if_neg (fun hne => hne (by rw [← hs] at h; exact h))

/-- The target request of a notice (R404, R415). -/
def Mach.noticeReq (m : Mach) (op : Nat) (dst : Bool) (first last n : Nat) : Pres :=
  ⟨.service, ⟨m.ownHead n 0x3E (m.noticeRec first last dst (if op = 3 then 2 else 1)).toNat, [], false⟩, none, false, 16, none, none⟩

theorem Mach.noticeReq_congr {a m : Mach} (hk : a.keep = m.keep) (hs : a.straps = m.straps) : a.noticeReq = m.noticeReq := by
  unfold Mach.noticeReq Mach.ownHead Mach.noticeRec
  rw [hs, Mach.ftNs_congr hk]

/-- The notice of one port. -/
def Mach.noticeTo (m : Mach) (op : Nat) (dst : Bool) (first last n : Nat) : Mach :=
  (m.deliver n 0x3E [m.noticeRec first last dst (if op = 3 then 2 else 1)]).modNiu n (fun x => { x with notice := true })

theorem Mach.niu_noticeTo (m : Mach) (op : Nat) (dst : Bool) (first last n : Nat) : (m.noticeTo op dst first last n).niu n =
    { m.niu n with ready := (m.niu n).ready ++ [m.noticeReq op dst first last n], notice := true } := by
  change ((m.modNiu n _).modNiu n _).niu n = _
  rw [Mach.niu_modNiu, Mach.niu_modNiu]
  rfl

theorem Mach.niu_noticeTo_ne (m : Mach) (op : Nat) (dst : Bool) (first last : Nat) {n k : Nat} (h : n ≠ k) :
    (m.noticeTo op dst first last k).niu n = m.niu n := by
  change ((m.modNiu k _).modNiu k _).niu n = _
  rw [Mach.niu_modNiu_ne _ _ h, Mach.niu_modNiu_ne _ _ h]

/-- Every port of the list has its notice. -/
theorem Mach.niu_notified {op : Nat} {dst : Bool} {first last : Nat} {l : List Nat} (hl : l.Nodup) {m : Mach} (n : Nat) :
    (m.notified op dst first last l).niu n =
      if n ∈ l then { m.niu n with ready := (m.niu n).ready ++ [m.noticeReq op dst first last n], notice := true } else m.niu n := by
  have h (l : List Nat) (hl : l.Nodup) (a : Mach) (ha : a.noticeReq = m.noticeReq) : (a.notified op dst first last l).niu n =
      if n ∈ l then { a.niu n with ready := (a.niu n).ready ++ [m.noticeReq op dst first last n], notice := true } else a.niu n := by
    induction l generalizing a with
    | nil => rfl
    | cons k l ih =>
      obtain ⟨hk, hl⟩ := List.nodup_cons.1 hl
      rw [show a.notified op dst first last (k :: l) = (a.noticeTo op dst first last k).notified op dst first last l from rfl,
        ih hl (a.noticeTo op dst first last k) ((Mach.noticeReq_congr rfl rfl).trans ha)]
      by_cases hn : n = k
      · subst hn
        rw [if_neg hk, if_pos (.head _), Mach.niu_noticeTo, ha]
      · rw [Mach.niu_noticeTo_ne _ _ _ _ _ hn]
        simp only [List.mem_cons, hn, false_or]
  exact h l hl m rfl

theorem Mach.notified_keeps {γ : Type} {π : Mach → γ} (h : ∀ m n f, π (m.modNiu n f) = π m) (m : Mach) (op : Nat) (dst : Bool) (first last : Nat)
    (l : List Nat) : π (m.notified op dst first last l) = π m :=
  foldl_keeps π _ _ _ (fun _ _ => (h _ _ _).trans (h _ _ _))

theorem Mach.niu_allArrive (m : Mach) {n : Nat} (hn : n < 512) : m.allArrive.niu n = { m.niu n with arrive := true } := by
  rw [Mach.allArrive, Mach.niu_foldl_modNiu (fun _ x => { x with arrive := true }) List.nodup_range, if_pos (List.mem_range.2 hn)]

theorem Mach.allArrive_keeps {γ : Type} {π : Mach → γ} (h : ∀ m n f, π (m.modNiu n f) = π m) (m : Mach) : π m.allArrive = π m :=
  foldl_keeps π _ _ _ (fun _ _ => h _ _ _)

theorem Mach.ports_allArrive (m : Mach) : m.allArrive.ports = m.ports := by
  unfold Mach.ports
  refine List.filter_congr (fun n hn => ?_)
  unfold Mach.portRuns
  rw [Mach.allArrive_keeps (π := fun m => m.domLive (epTile n)) (fun _ _ _ => rfl), Mach.niu_allArrive m (List.mem_range.1 hn)]
  rfl

theorem Mach.moveCheck_waits {l : List Nat} (h : l ≠ []) (m : Mach) :
    (m.modTwin (fun x => { x with left := l })).moveCheck = m.modTwin (fun x => { x with left := l }) := if_neg (fun hh => h hh.2.2)

/-! ## The rows -/

/-- The master waits for the end of a move. -/
def Mach.twinWaits (m : Mach) (w : Word) : Mach := ((m.issued 0 w).setWait 0 .twin).startLimit 0 (wLimit w)

section
variable {s : State} {e : EngId} {w : Word}

theorem status_master (m : Mach) (act : Mach → Mach) : m.status 0 false ((0 : EngId).val == 0) false act = act m := m.status_free 0 act

theorem exec_plRow {i : Instr} {opc : Nat} {act : Word → Mach → Mach} (he : e = 0)
    (hx : exec i s = s.on (fun m => m.issue e opc anyWord (fun w m => m.status e false (e.val == 0) false (act w)))) (h : Issues s e w opc) :
    exec i s = .next { s with m := act w (s.m.issued e w) } := by
  subst he
  exact exec_issue hx h

theorem exec_plRow_denied {i : Instr} {opc : Nat} {act : Word → Mach → Mach} (he : e ≠ 0)
    (hx : exec i s = s.on (fun m => m.issue e opc anyWord (fun w m => m.status e false (e.val == 0) false (act w)))) (h : Issues s e w opc) :
    Does i s (((s.m.readPc e).modEng e (fun x => { x with insn := w })).endStatus e 6 []) := by
  refine Does.of_exec ((exec_issue hx h).trans ?_)
  have hne : (e.val == 0) = false := beq_eq_false_iff_ne.2 (fun h0 => he (Fin.ext h0))
  rw [hne]
  rfl
end

/-! ## What the master and the twin unit are left with -/

theorem Mach.detaching_spec {m : Mach} (h : m.twin.st ≠ .detaching) (op : Nat) (dst : Bool) (first last : Nat) :
    (m.detaching op dst first last).twin = { m.twin with op := op, opSelf := true, opTo := dst, first := first, last := last, st := .detaching } ∧
      (∃ q, (m.detaching op dst first last).eng 0 = { m.eng 0 with evq := q }) ∧
      (∀ j, j ≠ 0 → (m.detaching op dst first last).eng j = m.eng j) ∧ (m.detaching op dst first last).nius = m.nius ∧
      (m.detaching op dst first last).pwr = m.pwr ∧ (m.detaching op dst first last).straps = m.straps ∧
      (m.detaching op dst first last).keep = m.keep :=
  Mach.twinState_enters (m := m.modTwin (fun x => { x with op := op, opSelf := true, opTo := dst, first := first, last := last })) h 0 0

/-- The master waits, and the twin is told. -/
def Mach.told (m : Mach) (w : Word) (code a b : Nat) : Mach := (m.twinWaits w).sendCtrl code a b

/-- The wait of a twin instruction at the master; no other engine has changed. -/
def Mach.AwaitsTwin (a m : Mach) (w : Word) : Prop :=
  (a.eng 0).state = .waiting ∧ (a.eng 0).wait = .twin ∧ (a.eng 0).insn = w ∧ (a.eng 0).limit = limitCycles m.clk.mode (bf w 0 24) ∧
    ∀ j, j ≠ 0 → a.eng j = m.eng j

theorem Mach.told_awaitsTwin (m : Mach) (w : Word) (code a b : Nat) : (m.told w code a b).AwaitsTwin m w := by
  have hclk : ((m.issued 0 w).setWait 0 .twin).clk = m.clk := by
    change (m.issued 0 w).clk = m.clk
    rw [Mach.issued_eq]
  have hone : ((m.issued 0 w).setWait 0 .twin).eng 0 = { m.eng 0 with insn := w, state := .waiting, wait := .twin } := by
    rw [Mach.setWait, Mach.eng_modEng, Mach.eng_issued]
  have heng : (m.told w code a b).eng 0 = { m.eng 0 with
      insn := w, state := .waiting, wait := .twin, limit := limitCycles m.clk.mode (wLimit w) } := by
    change (((m.issued 0 w).setWait 0 .twin).startLimit 0 (wLimit w)).eng 0 = _
    rw [Mach.startLimit, Mach.eng_modEng, hone, hclk]
  refine ⟨by rw [heng], by rw [heng], by rw [heng], by rw [heng]; rfl, fun j hj => ?_⟩
  change (((m.issued 0 w).setWait 0 .twin).startLimit 0 (wLimit w)).eng j = _
  rw [Mach.startLimit, Mach.eng_modEng_ne _ _ hj, Mach.setWait, Mach.eng_modEng_ne _ _ hj, Mach.issued, Mach.eng_modEng_ne _ _ hj, Mach.eng_readPc]

theorem Mach.AwaitsTwin.of {a b m : Mach} {w : Word} (h : a.AwaitsTwin m w) (h0 : ∃ q, b.eng 0 = { a.eng 0 with evq := q })
    (hj : ∀ j, j ≠ 0 → b.eng j = a.eng j) : b.AwaitsTwin m w := by
  obtain ⟨hs, hw, hi, hl, hr⟩ := h
  obtain ⟨q, hq⟩ := h0
  exact ⟨by rw [hq]; exact hs, by rw [hq]; exact hw, by rw [hq]; exact hi, by rw [hq]; exact hl, fun j h => (hj j h).trans (hr j h)⟩

theorem Mach.twin_told (m : Mach) (w : Word) (code a b : Nat) :
    (m.told w code a b).twin = { m.twin with outq := m.twin.outq ++ [(4, Config.ctrlFrame code a b)] } := by
  change { (m.issued 0 w).twin with outq := (m.issued 0 w).twin.outq ++ [(4, Config.ctrlFrame code a b)] } = _
  rw [Mach.twin_issued]

theorem Mach.rest_told (m : Mach) (w : Word) (code a b : Nat) : (m.told w code a b).nius = m.nius ∧ (m.told w code a b).pwr = m.pwr ∧
    (m.told w code a b).straps = m.straps ∧ (m.told w code a b).keep = m.keep := by
  change (m.issued 0 w).nius = m.nius ∧ (m.issued 0 w).pwr = m.pwr ∧ (m.issued 0 w).straps = m.straps ∧ (m.issued 0 w).keep = m.keep
  rw [Mach.issued_eq]
  exact ⟨rfl, rfl, rfl, rfl⟩

/-- The twin unit after the start of a move. -/
def Mach.MovesTwin (a m : Mach) (op first last : Nat) (dst : Bool) : Prop :=
  a.twin.st = .detaching ∧ a.twin.op = op ∧ a.twin.opSelf = true ∧ a.twin.opTo = dst ∧ a.twin.first = first ∧ a.twin.last = last ∧
    a.twin.map = m.twin.map

/-- A move away from this plane, that the master has asked for. -/
theorem Mach.told_moves (m : Mach) (w : Word) (code x y op first last : Nat) (dst : Bool) (hst : m.twin.st = .attached) :
    ((m.told w code x y).detaching op dst first last).AwaitsTwin m w ∧ ((m.told w code x y).detaching op dst first last).MovesTwin m op first last dst ∧
      ((m.told w code x y).detaching op dst first last).nius = m.nius ∧ ((m.told w code x y).detaching op dst first last).pwr = m.pwr ∧
      ((m.told w code x y).detaching op dst first last).straps = m.straps ∧ ((m.told w code x y).detaching op dst first last).keep = m.keep := by
  have hne : (m.told w code x y).twin.st ≠ .detaching := by rw [Mach.twin_told]; exact hst ▸ nofun
  obtain ⟨htw, h0, hj, hn, hp, hs, hk⟩ := Mach.detaching_spec hne op dst first last
  obtain ⟨hn', hp', hs', hk'⟩ := m.rest_told w code x y
  refine ⟨(m.told_awaitsTwin w code x y).of h0 hj, ?_, hn.trans hn', hp.trans hp', hs.trans hs', hk.trans hk'⟩
  unfold Mach.MovesTwin
  rw [htw, Mach.twin_told]
  exact ⟨rfl, rfl, rfl, rfl, rfl, rfl, rfl⟩

theorem Mach.ports_congr {a m : Mach} (hn : a.nius = m.nius) (hp : a.pwr = m.pwr) : a.ports = m.ports := by
  unfold Mach.ports Mach.portRuns Mach.domLive Mach.dom Mach.niu
  rw [hn, hp]

/-- A move to this plane, that the master has asked for and that a port runs in. -/
theorem Mach.told_stays (m : Mach) (w : Word) {n : Nat} (hst : m.twin.st = .attached) (hn : n < 512) (hr : m.portRuns n = true)
    {x : Mach} (hx : x = (m.told w 2 (b1 m.straps.planeB) 0).startMove 2 true m.straps.planeB 0 0xFFFD) :
    x.AwaitsTwin m w ∧ x.MovesTwin m 2 0 0xFFFD m.straps.planeB ∧ x.twin.left = m.ports ∧
      x.niu n = { m.niu n with ready := (m.niu n).ready ++ [m.noticeReq 2 m.straps.planeB 0 0xFFFD n], notice := true, arrive := true } := by
  obtain ⟨haw, hmv, hnius, hpwr, hstr, hkeep⟩ := m.told_moves w 2 (b1 m.straps.planeB) 0 2 0 0xFFFD m.straps.planeB hst
  have hstr0 : m.straps.planeB = (m.told w 2 (b1 m.straps.planeB) 0).straps.planeB := by rw [(m.rest_told w 2 (b1 m.straps.planeB) 0).2.2.1]
  rw [Mach.startMove_here hstr0 (by rw [Mach.twin_told]; exact hst ▸ nofun)] at hx
  generalize (m.told w 2 (b1 m.straps.planeB) 0).detaching 2 m.straps.planeB 0 0xFFFD = d at haw hmv hnius hpwr hstr hkeep hx
  have hports : d.allArrive.ports = m.ports := (Mach.ports_allArrive d).trans (Mach.ports_congr hnius hpwr)
  have hmem : n ∈ m.ports := List.mem_filter.2 ⟨List.mem_range.2 hn, hr⟩
  have hnodup : m.ports.Nodup := List.Nodup.filter _ List.nodup_range
  have hniu : d.niu n = m.niu n := by unfold Mach.niu; rw [hnius]
  have harrive : d.allArrive.niu n = { d.niu n with arrive := true } := Mach.niu_allArrive d hn
  generalize m.ports = ports at *
  have hkeeps {γ : Type} (π : Mach → γ) (h : ∀ m n f, π (m.modNiu n f) = π m) :
      π (d.allArrive.notified 2 m.straps.planeB 0 0xFFFD ports) = π d :=
    (Mach.notified_keeps h d.allArrive 2 m.straps.planeB 0 0xFFFD ports).trans (Mach.allArrive_keeps h d)
  have hreq : d.allArrive.noticeReq = m.noticeReq :=
    (Mach.noticeReq_congr (Mach.allArrive_keeps (π := fun m => m.keep) (fun _ _ _ => rfl) d)
      (Mach.allArrive_keeps (π := fun m => m.straps) (fun _ _ _ => rfl) d)).trans (Mach.noticeReq_congr hkeep hstr)
  rw [hports, Mach.moveCheck_waits (List.ne_nil_of_mem hmem)] at hx
  have hengs (j : Nat) : x.eng j = d.eng j := by rw [hx]; exact hkeeps (fun m => m.eng j) (fun _ _ _ => rfl)
  have htwin : x.twin = { d.twin with left := ports } := by
    rw [hx]; exact congrArg (fun x => { x with left := ports }) (hkeeps (fun m => m.twin) (fun _ _ _ => rfl))
  refine ⟨haw.of ⟨(d.eng 0).evq, hengs 0⟩ (fun j _ => hengs j), ?_, by rw [htwin], ?_⟩
  · unfold Mach.MovesTwin
    rw [htwin]
    exact hmv
  · rw [hx]
    change (d.allArrive.notified 2 m.straps.planeB 0 0xFFFD ports).niu n = _
    rw [Mach.niu_notified hnodup, if_pos hmem, harrive, hniu, hreq]

/-- PL.ATTACH, once it is under way. -/
def Mach.attaches (m : Mach) (w : Word) : Mach :=
  (((m.twinWaits w).modTwin (fun x => { x.allTo m.straps.planeB with op := 1, opSelf := true, sweep := 0 })).twinState .attaching 0 0).sendCtrl 1 0 0

theorem Twin.mapOf_allTo (x : Twin) (p : Bool) (f : BitVec 16) : (x.allTo p).mapOf f = p := by
  have hf : decide (0 ≤ f.toNat ∧ f.toNat ≤ 0xFFFF) = true := decide_eq_true ⟨Nat.zero_le _, by omega⟩
  unfold Twin.mapOf Twin.allTo Twin.setPlane
  dsimp only
  rw [List.find?_cons_of_pos (by exact hf)]

theorem Mach.attaches_spec (m : Mach) (w : Word) (hst : m.twin.st = .detached) :
    (m.attaches w).AwaitsTwin m w ∧ (m.attaches w).twin.st = .attaching ∧ (m.attaches w).twin.op = 1 ∧ (m.attaches w).twin.opSelf = true ∧
      (m.attaches w).twin.sweep = 0 ∧ ∀ f, (m.attaches w).planeOf f = m.straps.planeB := by
  have htw : (m.twinWaits w).twin = m.twin := m.twin_issued 0 w
  have hne : ((m.twinWaits w).modTwin (fun x => { x.allTo m.straps.planeB with op := 1, opSelf := true, sweep := 0 })).twin.st ≠ .attaching := by
    change (m.twinWaits w).twin.st ≠ _
    rw [htw, hst]
    exact nofun
  obtain ⟨ht, h0, hj, -⟩ := Mach.twinState_enters hne 0 0
  have ha : (m.attaches w).twin = { ((m.twinWaits w).twin.allTo m.straps.planeB) with
      op := 1, opSelf := true, sweep := 0, st := .attaching,
      outq := (m.twinWaits w).twin.outq ++ [(4, Config.ctrlFrame 1 0 0)] } := congrArg (fun x => { x with
        outq := x.outq ++ [(4, Config.ctrlFrame 1 0 0)] }) ht
  refine ⟨(m.told_awaitsTwin w 1 0 0).of h0 hj, by rw [ha], by rw [ha], by rw [ha], by rw [ha], fun f => ?_⟩
  have hmap : (m.attaches w).planeOf f = ((m.twinWaits w).twin.allTo m.straps.planeB).mapOf f := by
    unfold Mach.planeOf
    rw [ha]
    rfl
  rw [hmap, Twin.mapOf_allTo]

/-- PL.DETACH at the master in ATTACHED; `stay` is the plane that carries the flows from then on. -/
theorem exec_plDetach {s : State} {w : Word} (h : Issues s 0 w 0xB0) (hst : s.m.twin.st = .attached) {stay : Bool}
    (hs : (if bt w 24 then s.m.straps.planeB else !s.m.straps.planeB) = stay) :
    exec (.plDetach 0) s = .next { s with m := (s.m.told w 2 (b1 stay) 0).startMove 2 true stay 0 0xFFFD } := by
  subst hs
  refine (exec_plRow (e := 0) rfl rfl h).trans ?_
  rw [if_neg (fun hn => hn ((congrArg Twin.st (s.m.twin_issued 0 w)).trans hst))]
  have hp : (s.m.issued 0 w).straps = s.m.straps := by rw [Mach.issued_eq]
  rw [← hp]
  rfl

theorem exec_plMigrate {s : State} {w : Word} (h : Issues s 0 w 0xB2) (hst : s.m.twin.st = .attached) {a b : Nat}
    (ha : ((s.m.eng 0).reg (wA w)).toNat = a) (hb : ((s.m.eng 0).reg (wB w)).toNat = b) (hr : ¬ (b = 0 ∨ 65536 < b ∨ 0xFFFD < a + b - 1)) :
    exec (.plMigrate 0) s = .next { s with m :=
      (s.m.told w 3 a (a + b - 1)).startMove 3 true (!s.m.straps.planeB) a (a + b - 1) } := by
  refine (exec_plRow (e := 0) rfl rfl h).trans ?_
  have hp : (s.m.told w 3 a (a + b - 1)).straps = s.m.straps := (s.m.rest_told w 3 a (a + b - 1)).2.2.1
  have ha' : (((s.m.issued 0 w).eng 0).reg (wA w)).toNat = a := by rw [Mach.eng_issued]; exact ha
  have hb' : (((s.m.issued 0 w).eng 0).reg (wB w)).toNat = b := by rw [Mach.eng_issued]; exact hb
  dsimp only
  rw [show ((0 : EngId).val) = 0 from rfl, ha', hb', if_neg hr, if_neg (fun hn => hn ((congrArg Twin.st (s.m.twin_issued 0 w)).trans hst)), ← hp]
  rfl

theorem exec_plAttach {s : State} {w : Word} (h : Issues s 0 w 0xB1) (hst : s.m.twin.st = .detached) (hall : s.m.allOn s.m.straps.planeB = true) :
    exec (.plAttach 0) s = .next { s with m := s.m.attaches w } := by
  refine (exec_plRow (e := 0) rfl rfl h).trans ?_
  have hp : (s.m.issued 0 w).straps = s.m.straps := by rw [Mach.issued_eq]
  have ha : (s.m.issued 0 w).allOn s.m.straps.planeB = s.m.allOn s.m.straps.planeB := by
    unfold Mach.allOn Mach.planeOf
    rw [Mach.twin_issued, hp]
  have hall' : (s.m.issued 0 w).allOn (s.m.issued 0 w).straps.planeB = true := by rw [hp, ha]; exact hall
  rw [if_neg (fun hn => hn.elim (fun hn => hn ((congrArg Twin.st (s.m.twin_issued 0 w)).trans hst)) (fun hn => Bool.false_ne_true
    (hn.symm.trans hall')))]
  unfold Mach.attaches
  rw [← hp]
  rfl

/-- Settles O45: a move away from this plane only tells the twin; one that stays gives every running port its notice, and waits for it. -/
theorem twinInstructions : Obligations.TwinInstructions := by
  intro s e w n x own a b gone waits moves
  have hend {i : Instr} {opc st : Nat} {act : Word → Mach → Mach} (he : e = 0)
      (hx : exec i s = s.on (fun m => m.issue e opc anyWord (fun w m => m.status e false (e.val == 0) false (act w)))) (h : Issues s e w opc)
      (hact : act w (s.m.issued e w) = (s.m.issued e w).endStatus e st []) : Does i s (gone st) :=
    Does.of_exec ((exec_plRow he hx h).trans (by rw [hact]; rfl))
  have htw (e : EngId) : (s.m.issued e w).twin = s.m.twin := s.m.twin_issued e w
  have hreg (e : EngId) (he : e = 0) (k : Nat) : ((s.m.issued e w).eng e).reg k = x.reg k := by
    subst he; rw [Mach.eng_issued]; rfl
  have haway (p : Bool) : (!p) ≠ p := by cases p <;> decide
  have hfree (code a b : Nat) : (s.m.told w code a b).straps = s.m.straps := (s.m.rest_told w code a b).2.2.1
  have hgo (hst : s.m.twin.st = .attached) (code a b : Nat) : (s.m.told w code a b).twin.st ≠ .detaching := by
    rw [Mach.twin_told]; exact hst ▸ nofun
  refine ⟨fun h hst hb => ?_, fun h hst hb hn hr => ?_, fun h hst h0 h1 h2 => ?_, fun h hbad he => ?_, fun h hst hall => ?_, fun h he hst => ?_,
    fun h h0 h1 h2 he hst => ?_, fun h he hst => ?_, fun h he => ?_, fun h he => ?_, fun h he => ?_⟩
  · obtain ⟨hw, hm, hnius, -⟩ := s.m.told_moves w 2 (b1 (!own)) 0 2 0 0xFFFD (!own) hst
    refine ⟨_, exec_plDetach h hst (stay := !own) (by rw [hb]; rfl), ?_⟩
    rw [Mach.startMove_away (by rw [hfree]; exact haway _) (hgo hst _ _ _)]
    refine ⟨hw, hm, fun k => ?_⟩
    rw [Mach.niu_readPc]
    exact congrArg (fun l => Tab.get dNiu l k) hnius
  · obtain ⟨hw, hm, hleft, hniu⟩ := s.m.told_stays w hst hn hr rfl
    refine ⟨_, exec_plDetach h hst (stay := own) (by rw [hb]; rfl), hw, hm, ?_, by rw [hniu], by rw [hniu], ?_⟩
    · rw [hleft]
      exact (Mach.ports_congr (congrArg Mach.nius (s.m.readPc_eq 0)) (congrArg Mach.pwr (s.m.readPc_eq 0))).symm
    · rw [hniu, Mach.niu_readPc]
      exact congrArg (fun f => (s.m.niu n).ready ++ [f 2 own 0 0xFFFD n])
        (Mach.noticeReq_congr (a := s.m.readPc 0) (by rw [Mach.readPc_eq]) (by rw [Mach.readPc_eq])).symm
  · obtain ⟨hw, hm, -⟩ := s.m.told_moves w 3 a (a + b - 1) 3 a (a + b - 1) (!own) hst
    refine ⟨_, exec_plMigrate (a := a) (b := b) h hst rfl rfl (by omega), ?_⟩
    rw [Mach.startMove_away (by rw [hfree]; exact haway _) (hgo hst _ _ _)]
    exact ⟨hw, hm⟩
  · subst he
    refine hend rfl rfl h ?_
    dsimp only
    rw [hreg 0 rfl, hreg 0 rfl]
    exact if_pos (by omega)
  · exact ⟨_, exec_plAttach h hst hall, s.m.attaches_spec w hst⟩
  · refine hend he rfl h (if_pos ?_)
    rw [htw]; exact hst
  · subst he
    refine hend rfl rfl h ?_
    dsimp only
    rw [hreg 0 rfl, hreg 0 rfl, if_neg (by omega)]
    exact if_pos (by rw [htw]; exact hst)
  · refine hend he rfl h (if_pos ?_)
    have hall : (s.m.issued e w).allOn (s.m.issued e w).straps.planeB = s.m.allOn own := by
      unfold Mach.allOn Mach.planeOf
      rw [htw, Mach.issued_eq]
    rw [htw, hall]
    exact hst
  · exact exec_plRow_denied he rfl h
  · exact exec_plRow_denied he rfl h
  · exact exec_plRow_denied he rfl h

end Sys2Proof.Machine

/-! PROOFS. Flow instructions and dropped copies (O35, O36): a copy of a packet that is being read for a resend keeps the entry of its flow
in use (R119), which `Niu.Calm` does not exclude. -/

namespace Sys2Proof.Machine

/-- The NIU of endpoint 0 caches the entry `c` of flow 0, and a copy of a packet of that flow is being read for a resend. -/
def readsCopy (c : FcE) : Mach := { Mach.reset with nius := [(0, { Niu.init with fc := [c], rsv := [(0, 0)] })] }

theorem readsCopy_niu_ne (c : FcE) {n : Nat} (h : n ≠ 0) : (readsCopy c).niu n = Niu.init := by
  simp [Mach.niu, Tab.get, Tab.find, readsCopy, Ne.symm h, dNiu]

theorem readsCopy_calm (c : FcE) : (readsCopy c).Calm := by
  refine ⟨fun n => ?_, fun d n f h => nomatch h⟩
  by_cases hn : n = 0
  · subst hn
    exact ⟨rfl, rfl, rfl, fun _ h => (nomatch h), fun _ h => (nomatch h)⟩
  · rw [readsCopy_niu_ne c hn]
    exact calm_init

/-! ## FL.INV -/

/-- FL.INV of the flow that g0 names, with no limit. -/
def flInvWord : Word := 0x7000000000000000

/-- Engine 0 is about to issue FL.INV of flow 0, whose entry is clean. -/
def invalidates : State :=
  { State.reset with m := (readsCopy (tableEntry 0 false)).modEng 0 (fun x => { x with state := .running, sram := Memory.setWord [] 0 flInvWord }) }

theorem invalidates_issues : Issues invalidates 0 flInvWord 0x70 :=
  ⟨by decide +kernel, by decide +kernel, by decide +kernel, by decide +kernel, .inl (by decide +kernel)⟩

theorem invalidates_calm : invalidates.m.Calm := by
  obtain ⟨hniu, -⟩ := readsCopy_calm (tableEntry 0 false)
  refine ⟨fun n => hniu n, fun d n f => ?_⟩
  by_cases hd : d = 0
  · subst hd
    exact nofun
  · rw [show invalidates.m.eng d = (readsCopy (tableEntry 0 false)).eng d from Mach.eng_modEng_ne _ _ hd]
    exact nofun

theorem invalidates_flowCalm (n : Nat) : invalidates.m.wbOut n 0 = false ∧ (∀ p ∈ (invalidates.m.niu n).inj, hFlow p.pkt.hd ≠ 0) ∧
    ∀ c ∈ (invalidates.m.niu n).fc, c.flow = 0 → c.pinned = false := by
  have hniu (k : Nat) : invalidates.m.niu k = (readsCopy (tableEntry 0 false)).niu k := rfl
  have hpwb : (invalidates.m.niu (niuService n)).pwb = [] := by
    rw [hniu, readsCopy_niu_ne _ (show niuService n ≠ 0 by unfold niuService; omega)]
    rfl
  refine ⟨by unfold Mach.wbOut; rw [hpwb]; rfl, ?_⟩
  by_cases hn : n = 0
  · subst hn
    exact ⟨fun _ h => (nomatch h), fun c hc _ => by rw [List.mem_singleton.1 (show c ∈ [tableEntry 0 false] from hc)]; rfl⟩
  · rw [hniu, readsCopy_niu_ne _ hn]
    exact ⟨fun _ h => (nomatch h), fun _ h => (nomatch h)⟩

/-- What FL.INV leaves of the entry. -/
theorem invalidates_kept {t : State} (h : exec (.flInv 0) invalidates = .next t) : (t.m.niu 0).entry 0 ≠ none := by
  have hx := exec_issue (i := .flInv 0) (e := 0) rfl invalidates_issues
  rw [hx] at h
  have h := Host.Outcome.next.inj h
  subst h
  decide +kernel

/-- Refutes O35: FL.INV of a flow whose entry is clean and not pinned, while no write-back is out and no packet of the flow waits, but a
copy of one is being read for a resend. The entry is in use (R119, R240) and stays. -/
theorem not_flowInstructions : ¬ Obligations.FlowInstructions := by
  intro h
  obtain ⟨hinv, -⟩ := h invalidates 0 flInvWord 0 (by decide +kernel) (by decide) (.inl rfl)
  obtain ⟨t, ht, ⟨hgone, -⟩, -⟩ := hinv invalidates_issues ⟨invalidates_calm, invalidates_flowCalm⟩
  exact invalidates_kept ht (hgone 0)

/-! ## The drop of a copy -/

/-- The entry of flow 0 at endpoint 0's NIU is to be dropped. -/
def dropsCopy : State := { State.reset with m := readsCopy { tableEntry 0 false with drop := true } }

theorem dropsCopy_kept {t : State} (h : exec (.flowCopyDropped 0 0) dropsCopy = .next t) : (t.m.niu 0).fc ≠ [] := by
  have hx : exec (.flowCopyDropped 0 0) dropsCopy = .next { dropsCopy with m := (dropsCopy.m.dropEntry 0 0).settleFlows 0 } := rfl
  rw [hx] at h
  have h := Host.Outcome.next.inj h
  subst h
  decide +kernel

/-- Refutes O36: a clean copy that is to be dropped, not pinned and with no write-back out, stays while a copy of a packet of its flow is
being read for a resend, since that locks it (R119, R240). -/
theorem not_flowEntries : ¬ Obligations.FlowEntries := by
  intro h
  obtain ⟨-, -, -, -, -, hdrop, -⟩ := h.1 dropsCopy 0 0 0 0 { tableEntry 0 false with drop := true }
  obtain ⟨t, ht, -, -, hlike⟩ := hdrop rfl (readsCopy_calm _) (fun _ h => nomatch h) rfl rfl rfl rfl rfl (by decide +kernel)
  exact dropsCopy_kept ht (by rw [hlike.niu 0]; decide +kernel)

end Sys2Proof.Machine

/-! PROOFS. Performance counters and queue samplers (O48). -/

namespace Sys2Proof.Machine

/-! ## Counters: PC.CFG and PC.READ -/

theorem Mach.ctrAbsent_issued (m : Mach) (e : Nat) (w : Word) (kind code : Nat) : (m.issued e w).ctrAbsent kind code = m.ctrAbsent kind code := by
  rw [Mach.issued_eq]
  rfl

/-- A counter's configuration that comes into force (R437). -/
theorem Mach.configCtr_leaves (m : Mach) (n e : Nat) (c : Word) :
    let t := m.configCtr n e c
    t.reg (aCtr n + 8) = c &&& ~~~0x2000000000000000#64 ∧ t.ownerOf n = e ∧ (∀ j, t.eng j = m.eng j) ∧
    (∀ r, r ≠ aCtr n → r ≠ aCtr n + 8 → r ≠ aCtr n + 16 → t.reg r = m.reg r) ∧
    (bt c 61 = true → t.reg (aCtr n + 16) = 0 ∧ t.reg (aCtr n) = BitVec.ofNat 64 (if bf c 54 6 = 0 then 0 else 2 ^ 48 - 2 ^ bf c 54 6)) ∧
    (bt c 61 = false → t.reg (aCtr n) = m.reg (aCtr n) ∧ t.reg (aCtr n + 16) = m.reg (aCtr n + 16)) := by
  have howner (t : Mach) (k : Nat) : (t.setOwner k e).ownerOf k = e := by
    unfold Mach.ownerOf Mach.setOwner
    rw [show (t.modTele (fun t => { t with owner := Tab.set dZero t.owner k (e + 1) })).tele.owner = Tab.set dZero t.tele.owner k (e + 1) from rfl,
      Tab.get_set]
    rfl
  have hload : sf c 61 1 0 = c &&& ~~~0x2000000000000000#64 := sf_zero c (by decide)
  unfold Mach.configCtr
  generalize aCtr n = a
  dsimp only
  cases hc : bt c 61 with
  | false =>
    rw [Bool.not_false, if_pos rfl]
    refine ⟨(m.reg_setReg _ _).trans hload, howner _ _, fun _ => rfl, fun r _ h8 _ => m.reg_setReg_ne _ h8, nofun, fun _ =>
      ⟨m.reg_setReg_ne _ (by omega), m.reg_setReg_ne _ (by omega)⟩⟩
  | true =>
    rw [Bool.not_true, if_neg Bool.false_ne_true]
    have hset (r : Nat) (v w : Word) : ((((m.setReg (a + 8) (sf c 61 1 0)).setOwner n e).setReg a v).setReg (a + 16) w).reg r =
        if r = a + 16 then w else if r = a then v else (m.setReg (a + 8) (sf c 61 1 0)).reg r := by
      split
      · next h => rw [h, Mach.reg_setReg]
      next h16 =>
      rw [Mach.reg_setReg_ne _ _ h16]
      split
      · next h => rw [h, Mach.reg_setReg]
      next h0 =>
      rw [Mach.reg_setReg_ne _ _ h0]
      rfl
    refine ⟨?_, ?_, fun _ => rfl, fun r h0 h8 h16 => ?_, fun _ => ⟨?_, ?_⟩, nofun⟩
    · rw [Mach.reg_modTele, hset, if_neg (by omega), if_neg (by omega), Mach.reg_setReg, hload]
    · exact howner (m.setReg (a + 8) (sf c 61 1 0)) n
    · rw [Mach.reg_modTele, hset, if_neg h16, if_neg h0, Mach.reg_setReg_ne _ _ h8]
    · rw [Mach.reg_modTele, hset, if_pos rfl]
    · rw [Mach.reg_modTele, hset, if_neg (by omega), if_pos rfl]

theorem Mach.configDone_ctr {m : Mach} {e n : Nat} {q : Option Nat} {v c : Word} (h : wOpc (m.eng e).insn = 0xC0) (hv : ctrSel v = some (n, q))
    (hl : m.domLive (ctrDom n) = true) : m.configDone e [v, c] = m.configCtr n e c := by
  unfold Mach.configDone
  rw [h]
  change (match ctrSel v with | some (n, _) => if m.domLive (ctrDom n) then m.configCtr n e c else m | none => m) = _
  rw [hv]
  exact if_pos hl

/-! ## A wrap -/

/-- The machine that has taken note of a wrap (R436). -/
def Mach.wrapSeen (m : Mach) (n : Nat) : Mach :=
  (m.modTele (fun t => { t with wraps := Tab.set dNone t.wraps n none, wrapPc := Tab.set dNil t.wrapPc n [] })).setFld (aCtr n) 63 1 1

/-- The counter starts again at its preset distance from the next wrap (R440). -/
def Mach.reloaded (m : Mach) (n k : Nat) (h : FlitBits) : Mach :=
  if k = 0 then m else (m.setFld (aCtr n) 0 48 (2 ^ 48 - 2 ^ k)).addCtr n (m.fld (aCtr n) 0 48) h

/-- The snapshot of the wrap, where none is held (R440). -/
def Mach.snapped (m : Mach) (n : Nat) (h : FlitBits) (pc : Word) : Mach :=
  if bt (m.reg (aCtr n + 16)) 63 then m else m.nextFree.2.setReg (aCtr n + 16) (m.snapWord n h pc)

/-- A wrap with SINT (R440): the counter starts again, the snapshot is kept, and its engine hears of it. -/
def Mach.wrapTold (m : Mach) (n : Nat) (h : FlitBits) (pc : Word) : Mach :=
  let t := m.reloaded n (m.fld (aCtr n + 8) 54 6) h
  (t.snapped n h pc).postEvt ((t.snapped n h pc).ownerOf n) 11 0 (b1 (bt (t.reg (aCtr n + 16)) 63)) n

theorem exec_counterWrap {s : State} {k : CtrId} {h : FlitBits} (hs : s.m.test.scan = false) (hw : Tab.get dNone s.m.tele.wraps k = some h) :
    exec (.counterWrap k) s = .next { s with m :=
      (if bt (s.m.reg (aCtr k + 8)) 62 then (s.m.wrapSeen k).wrapTold k h (s.m.snapPc k s.m.frees) else s.m.wrapSeen k) } := by
  change execCounterWrap k s = _
  rw [execCounterWrap, State.on_eq hs]
  dsimp only
  rw [hw]
  dsimp only
  have hreg : (s.m.wrapSeen k).reg (aCtr k + 8) = s.m.reg (aCtr k + 8) := Mach.reg_setReg_ne _ _ (by omega)
  rw [← hreg]
  cases hb : bt ((s.m.wrapSeen k).reg (aCtr k + 8)) 62
  all_goals
    unfold Mach.wrapSeen at hb
    rw [hb]
    rfl

section
variable {n k : Nat} {h : FlitBits}

theorem Mach.reloaded_eq {m : Mach} (hk : k < 48) (hv : k = 0 ∨ m.fld (aCtr n) 0 48 < 2 ^ k) : m.reloaded n k h = if k = 0 then m else
    (m.setFld (aCtr n) 0 48 (2 ^ 48 - 2 ^ k)).setFld (aCtr n) 0 48 (2 ^ 48 - 2 ^ k + m.fld (aCtr n) 0 48) := by
  unfold Mach.reloaded
  split
  · rfl
  next hne =>
  have hpow : 2 ^ k < 2 ^ 48 := Nat.pow_lt_pow_right (by decide) hk
  have hpos := Nat.two_pow_pos k
  have hlt : m.fld (aCtr n) 0 48 < 2 ^ k := hv.resolve_left hne
  have hfld : (m.setFld (aCtr n) 0 48 (2 ^ 48 - 2 ^ k)).fld (aCtr n) 0 48 = 2 ^ 48 - 2 ^ k := by
    rw [Mach.fld, Mach.setFld, Mach.reg_setReg, bf_sf _ (by decide), Nat.mod_eq_of_lt (by omega)]
  unfold Mach.addCtr
  dsimp only
  rw [hfld, if_pos (by omega)]

theorem Mach.reloaded_keeps {γ : Type} {π : Mach → γ} {m : Mach} (hk : k < 48) (hv : k = 0 ∨ m.fld (aCtr n) 0 48 < 2 ^ k)
    (hπ : ∀ (m : Mach) w, π (m.setReg (aCtr n) w) = π m) : π (m.reloaded n k h) = π m := by
  rw [Mach.reloaded_eq hk hv]
  split
  · rfl
  · exact (hπ _ _).trans (hπ _ _)

theorem Mach.bt_reloaded {m : Mach} (hk : k < 48) (hv : k = 0 ∨ m.fld (aCtr n) 0 48 < 2 ^ k) :
    bt ((m.reloaded n k h).reg (aCtr n)) 63 = bt (m.reg (aCtr n)) 63 := by
  rw [Mach.reloaded_eq hk hv]
  split
  · rfl
  · rw [Mach.setFld, Mach.reg_setReg, bt_sf_ne _ (by decide) _ (by decide), Mach.setFld, Mach.reg_setReg, bt_sf_ne _ (by decide) _ (by decide)]

theorem Mach.fld_reloaded {m : Mach} (hk : k < 48) (hv : k = 0 ∨ m.fld (aCtr n) 0 48 < 2 ^ k) :
    (m.reloaded n k h).fld (aCtr n) 0 48 = if k = 0 then m.fld (aCtr n) 0 48 else 2 ^ 48 - 2 ^ k + m.fld (aCtr n) 0 48 := by
  have hpow : 2 ^ k < 2 ^ 48 := Nat.pow_lt_pow_right (by decide) hk
  rw [Mach.reloaded_eq hk hv]
  split
  · rfl
  next hne =>
  have hlt : m.fld (aCtr n) 0 48 < 2 ^ k := hv.resolve_left hne
  rw [Mach.fld, Mach.setFld, Mach.reg_setReg, bf_sf _ (by decide), Nat.mod_eq_of_lt (by omega)]

end

/-- The fields of a snapshot, each in its place (R450). -/
theorem snapFields_eq {s d c o f : Nat} (hs : s < 2 ^ 10) (hd : d < 2 ^ 10) (hc : c < 2 ^ 2) (ho : o < 2 ^ 6) (hf : f < 2 ^ 16) :
    (mkf 64 63 1 1 ||| (mkf 64 50 10 s ||| mkf 64 40 10 d ||| mkf 64 38 2 c ||| mkf 64 32 6 o ||| mkf 64 16 16 f) : Word) =
      BitVec.ofNat 64 (2 ^ 63 + s * 2 ^ 50 + d * 2 ^ 40 + c * 2 ^ 38 + o * 2 ^ 32 + f * 2 ^ 16) := by
  have h1 := Nat.shiftLeft_eq f 16
  unfold mkf
  rw [Nat.mod_eq_of_lt hs, Nat.mod_eq_of_lt hd, Nat.mod_eq_of_lt hc, Nat.mod_eq_of_lt ho, Nat.mod_eq_of_lt hf, h1,
    BitVec.or_assoc, BitVec.or_assoc, BitVec.or_assoc, ofNat_or_ofNat (show f * 2 ^ 16 < 2 ^ 32 by omega),
    ofNat_or_ofNat (show o * 2 ^ 32 + f * 2 ^ 16 < 2 ^ 38 by omega),
    ofNat_or_ofNat (show c * 2 ^ 38 + (o * 2 ^ 32 + f * 2 ^ 16) < 2 ^ 40 by omega),
    ofNat_or_ofNat (show d * 2 ^ 40 + (c * 2 ^ 38 + (o * 2 ^ 32 + f * 2 ^ 16)) < 2 ^ 50 by omega),
    ofNat_or_ofNat (show s * 2 ^ 50 + (d * 2 ^ 40 + (c * 2 ^ 38 + (o * 2 ^ 32 + f * 2 ^ 16))) < 2 ^ 63 by omega)]
  simp only [Nat.add_assoc]
  rfl

/-- The snapshot of a packet event (R440). -/
theorem snapHead_eq (h : FlitBits) : (mkf 64 63 1 1 ||| (mkf 64 50 10 (hSrc h) ||| mkf 64 40 10 (hDst h) ||| mkf 64 38 2 (hTc h) |||
    mkf 64 32 6 (hOpc h) ||| mkf 64 16 16 (hFlow h).toNat) : Word) =
      BitVec.ofNat 64 (2 ^ 63 + hSrc h * 2 ^ 50 + hDst h * 2 ^ 40 + hTc h * 2 ^ 38 + hOpc h * 2 ^ 32 + (hFlow h).toNat * 2 ^ 16) :=
  snapFields_eq (bf_lt h 17 10) (bf_lt h 27 10) (bf_lt h 56 2) (bf_lt h 58 6) (hFlow h).isLt

/-- The snapshot of an engine event (R440). -/
theorem snapPc_eq (p : Word) : (mkf 64 63 1 1 ||| mkf 64 0 48 (bf p 0 48) : Word) = BitVec.ofNat 64 (2 ^ 63 + bf p 0 48) := by
  have hp : bf p 0 48 < 2 ^ 48 := bf_lt _ _ _
  unfold mkf
  rw [Nat.mod_eq_of_lt hp, Nat.shiftLeft_zero, ofNat_or_ofNat (by omega)]
  rfl

theorem Mach.reg_wrapSeen (m : Mach) (n : Nat) : (m.wrapSeen n).reg (aCtr n) = m.reg (aCtr n) ||| 0x8000000000000000#64 :=
  (Mach.reg_setReg _ _ _).trans (sf_one _ (by decide))

theorem Mach.reg_wrapSeen_ne (m : Mach) {n r : Nat} (h : r ≠ aCtr n) : (m.wrapSeen n).reg r = m.reg r := Mach.reg_setReg_ne _ _ h

theorem Mach.fld_wrapSeen (m : Mach) (n : Nat) : (m.wrapSeen n).fld (aCtr n) 0 48 = m.fld (aCtr n) 0 48 := by
  rw [Mach.fld, Mach.wrapSeen, Mach.setFld, Mach.reg_setReg, bf_sf_ne _ (by decide) _ (by decide)]
  rfl

theorem Mach.wraps_wrapSeen (m : Mach) (n : Nat) : Tab.get dNone (m.wrapSeen n).tele.wraps n = none := by
  change Tab.get dNone (Tab.set dNone m.tele.wraps n none) n = none
  rw [Tab.get_set]

theorem Mach.wrapSeen_like (m : Mach) {n : Nat} (hn : n < 5204) : (m.wrapSeen n).Like m := by
  have ha : ctrAddr (aCtr n) = true := ctrAddr_ctr hn
  exact { Mach.Like.refl m with
    reg := fun r hr => m.reg_wrapSeen_ne (fun h => by rw [h, ha] at hr; exact nomatch hr)
    bare := rfl }

/-- A machine but for its registers and the free values used. -/
theorem Mach.snapped_keeps {γ : Type} {π : Mach → γ} (hreg : ∀ (m : Mach) w, π (m.setReg (aCtr n + 16) w) = π m)
    (hfree : ∀ m : Mach, π m.nextFree.2 = π m) (m : Mach) (h : FlitBits) (p : Word) : π (m.snapped n h p) = π m := by
  unfold Mach.snapped
  split
  · rfl
  · exact (hreg _ _).trans (hfree _)

/-- What a wrap with SINT leaves (R440). -/
theorem Mach.wrapTold_spec {m : Mach} {n : Nat} (hn : n < 5204) (h : FlitBits) (p : Word) (hoff : (m.eng (m.ownerOf n)).state ≠ .off)
    (hroom : (m.eng (m.ownerOf n)).evq.length < 32) (hk : m.fld (aCtr n + 8) 54 6 < 48)
    (hv : m.fld (aCtr n + 8) 54 6 = 0 ∨ m.fld (aCtr n) 0 48 < 2 ^ m.fld (aCtr n + 8) 54 6) :
    let t := m.wrapTold n h p
    bt (t.reg (aCtr n)) 63 = bt (m.reg (aCtr n)) 63 ∧ t.tele = m.tele ∧
    t.fld (aCtr n) 0 48 = (if m.fld (aCtr n + 8) 54 6 = 0 then m.fld (aCtr n) 0 48
      else 2 ^ 48 - 2 ^ m.fld (aCtr n + 8) 54 6 + m.fld (aCtr n) 0 48) ∧
    (∀ r, r ≠ aCtr n → r ≠ aCtr n + 16 → t.reg r = m.reg r) ∧
    t.reg (aCtr n + 16) = (if bt (m.reg (aCtr n + 16)) 63 then m.reg (aCtr n + 16) else m.snapWord n h p) ∧
    t.eng (m.ownerOf n) = { m.eng (m.ownerOf n) with evq := (m.eng (m.ownerOf n)).evq ++
      [BitVec.ofNat 64 (11 * 2 ^ 60 + m.ftUs % 2 ^ 24 * 2 ^ 32 + b1 (bt (m.reg (aCtr n + 16)) 63) * 2 ^ 16 + n)] } ∧
    (∀ j, j ≠ m.ownerOf n → t.eng j = m.eng j) := by
  have hr {γ : Type} (π : Mach → γ) (hπ : ∀ (m : Mach) w, π (m.setReg (aCtr n) w) = π m) : π (m.reloaded n (m.fld (aCtr n + 8) 54 6) h) = π m :=
    Mach.reloaded_keeps hk hv hπ
  have hbt := Mach.bt_reloaded (h := h) hk hv
  have hfld := Mach.fld_reloaded (h := h) hk hv
  have hreg (r : Nat) (hr0 : r ≠ aCtr n) : (m.reloaded n (m.fld (aCtr n + 8) 54 6) h).reg r = m.reg r :=
    hr (fun m => m.reg r) (fun m w => m.reg_setReg_ne w hr0)
  have htele := hr (fun m => m.tele) (fun _ _ => rfl)
  have heng := hr (fun m => m.engs) (fun _ _ => rfl)
  have hkeep := hr (fun m => m.keep) (fun _ _ => rfl)
  unfold Mach.wrapTold
  dsimp only
  generalize m.reloaded n (m.fld (aCtr n + 8) 54 6) h = a at hbt hfld hreg htele heng hkeep
  have hs {γ : Type} (π : Mach → γ) (hπ : ∀ (m : Mach) w, π (m.setReg (aCtr n + 16) w) = π m) (hf : ∀ m : Mach, π m.nextFree.2 = π m) :
      π (a.snapped n h p) = π a := Mach.snapped_keeps hπ hf a h p
  have hreg2 (r : Nat) (hr16 : r ≠ aCtr n + 16) : (a.snapped n h p).reg r = a.reg r :=
    hs (fun m => m.reg r) (fun m w => m.reg_setReg_ne w hr16) (fun _ => rfl)
  have hsnap : (a.snapped n h p).reg (aCtr n + 16) = if bt (m.reg (aCtr n + 16)) 63 then m.reg (aCtr n + 16) else m.snapWord n h p := by
    have hword : a.snapWord n h p = m.snapWord n h p := by
      unfold Mach.snapWord Mach.fld
      rw [hreg _ (by omega)]
    rw [← hword, ← hreg (aCtr n + 16) (by omega)]
    unfold Mach.snapped
    split
    · rfl
    · exact Mach.reg_setReg _ _ _
  have htele2 := (hs (fun m => m.tele) (fun _ _ => rfl) (fun _ => rfl)).trans htele
  have heng2 := (hs (fun m => m.engs) (fun _ _ => rfl) (fun _ => rfl)).trans heng
  have hkeep2 := (hs (fun m => m.keep) (fun _ _ => rfl) (fun _ => rfl)).trans hkeep
  have hown : (a.snapped n h p).ownerOf n = m.ownerOf n := congrArg (fun t : Tele => Tab.get dZero t.owner n - 1) htele2
  have hus : (a.snapped n h p).ftUs = m.ftUs := by
    unfold Mach.ftUs
    rw [Mach.ftNs_congr hkeep2]
  have he (j : Nat) : (a.snapped n h p).eng j = m.eng j := congrArg (fun t => Tab.get (fun _ => Eng.init) t j) heng2
  generalize a.snapped n h p = b at hreg2 hsnap htele2 heng2 hkeep2 hown hus he
  have hd : b1 (bt (m.reg (aCtr n + 16)) 63) < 2 ^ 16 := by
    cases bt (m.reg (aCtr n + 16)) 63 <;> decide
  rw [hown, Mach.postEvt_queued (by rw [he]; exact hoff) (by rw [he]; exact hroom), hreg _ (by omega), hus, evtRecord_eq _ (by decide) (by decide) hd (by omega)]
  refine ⟨?_, htele2, ?_, fun r h0 h16 => ?_, hsnap, ?_, fun j hj => ?_⟩
  · rw [Mach.reg_modEng, hreg2 _ (by omega), hbt]
  · rw [Mach.fld, Mach.reg_modEng, hreg2 _ (by omega)]
    exact hfld
  · rw [Mach.reg_modEng, hreg2 _ h16, hreg _ h0]
  · rw [Mach.eng_modEng, he]
    simp only [Nat.zero_mul, Nat.add_zero]
  · rw [Mach.eng_modEng_ne _ _ hj, he]

theorem Mach.snapWord_congr {a m : Mach} {n : Nat} (h : a.reg (aCtr n + 8) = m.reg (aCtr n + 8)) : a.snapWord n = m.snapWord n := by
  unfold Mach.snapWord Mach.fld
  rw [h]

/-- The instruction of a snapshot is one of those noted for the wrap (R440). -/
theorem Mach.snapPc_mem {m : Mach} {n : Nat} (h : Tab.get dNil m.tele.wrapPc n ≠ []) (f : Nat) : m.snapPc n f ∈ Tab.get dNil m.tele.wrapPc n := by
  have hlt := Nat.mod_lt (Config.freeNat f) (List.length_pos_iff.2 h)
  unfold Mach.snapPc
  dsimp only
  rw [List.getD_eq_getElem _ _ hlt]
  exact List.getElem_mem hlt

theorem Mach.snapWord_packet {m : Mach} {n : Nat} {c : Word} (hc : m.reg (aCtr n + 8) = c) (h : FlitBits) (p : Word)
    (hp : packetEvent (ctrKind n) (bf c 0 8) = true) : m.snapWord n h p =
      BitVec.ofNat 64 (2 ^ 63 + hSrc h * 2 ^ 50 + hDst h * 2 ^ 40 + hTc h * 2 ^ 38 + hOpc h * 2 ^ 32 + (hFlow h).toNat * 2 ^ 16) := by
  unfold Mach.snapWord Mach.fld
  dsimp only
  rw [hc, hp]
  exact snapHead_eq h

theorem Mach.snapWord_insn {m : Mach} {n : Nat} {c : Word} (hc : m.reg (aCtr n + 8) = c) (h : FlitBits) (p : Word)
    (hi : insnEvent (ctrKind n) (bf c 0 8) = true) : m.snapWord n h p = BitVec.ofNat 64 (2 ^ 63 + bf p 0 48) := by
  have hk : ctrKind n = 3 := of_decide_eq_true (Bool.and_eq_true_iff.1 hi).1
  have hp : packetEvent (ctrKind n) (bf c 0 8) = false := by rw [hk]; rfl
  unfold Mach.snapWord Mach.fld
  dsimp only
  rw [hc, hp, hi]
  exact snapPc_eq p

theorem Mach.snapWord_other {m : Mach} {n : Nat} {c : Word} (hc : m.reg (aCtr n + 8) = c) (h : FlitBits) (p : Word)
    (hp : packetEvent (ctrKind n) (bf c 0 8) = false) (hi : insnEvent (ctrKind n) (bf c 0 8) = false) :
    m.snapWord n h p = 0x8000000000000000#64 := by
  unfold Mach.snapWord Mach.fld
  dsimp only
  rw [hc, hp, hi, if_neg Bool.false_ne_true, if_neg Bool.false_ne_true]
  decide

/-- COUNTER_WRAP of a counter with SINT whose engine has room for the event (R440). -/
theorem counterWrap_tells {s : State} {k : CtrId} {h : FlitBits} (hs : s.m.test.scan = false) (hw : Tab.get dNone s.m.tele.wraps k = some h)
    (hc : bt (s.m.reg (aCtr k + 8)) 62 = true) (hoff : (s.m.eng (s.m.ownerOf k)).state ≠ .off) (hroom : (s.m.eng (s.m.ownerOf k)).evq.length < 32)
    (hpre : bf (s.m.reg (aCtr k + 8)) 54 6 = 0 ∨ s.m.fld (aCtr k) 0 48 < 2 ^ bf (s.m.reg (aCtr k + 8)) 54 6)
    (hlt : bf (s.m.reg (aCtr k + 8)) 54 6 < 48) :
    ∃ t, exec (.counterWrap k) s = .next t ∧ bt (t.m.reg (aCtr k)) 63 = true ∧ Tab.get dNone t.m.tele.wraps k = none ∧
      t.m.fld (aCtr k) 0 48 = (if bf (s.m.reg (aCtr k + 8)) 54 6 = 0 then s.m.fld (aCtr k) 0 48
        else 2 ^ 48 - 2 ^ bf (s.m.reg (aCtr k + 8)) 54 6 + s.m.fld (aCtr k) 0 48) ∧
      (∀ r, r ≠ aCtr k → r ≠ aCtr k + 16 → t.m.reg r = s.m.reg r) ∧
      t.m.reg (aCtr k + 16) = (if bt (s.m.reg (aCtr k + 16)) 63 then s.m.reg (aCtr k + 16) else s.m.snapWord k h (s.m.snapPc k s.m.frees)) ∧
      t.m.eng (s.m.ownerOf k) = { s.m.eng (s.m.ownerOf k) with evq := (s.m.eng (s.m.ownerOf k)).evq ++
        [BitVec.ofNat 64 (11 * 2 ^ 60 + s.m.ftUs % 2 ^ 24 * 2 ^ 32 + b1 (bt (s.m.reg (aCtr k + 16)) 63) * 2 ^ 16 + k.val)] } ∧
      (∀ j, j ≠ s.m.ownerOf k → t.m.eng j = s.m.eng j) ∧ t.guards = s.guards ∧ t.pending = s.pending := by
  have hx := exec_counterWrap hs hw
  rw [if_pos hc] at hx
  have hpc (r : Nat) (hr : r ≠ aCtr k) : (s.m.wrapSeen k).reg r = s.m.reg r := s.m.reg_wrapSeen_ne hr
  have h8 := hpc (aCtr k + 8) (by omega)
  have hfld := s.m.fld_wrapSeen k
  have hpreEq : (s.m.wrapSeen k).fld (aCtr k + 8) 54 6 = bf (s.m.reg (aCtr k + 8)) 54 6 := congrArg (fun c => bf c 54 6) h8
  obtain ⟨hbt, htele, hval, hreg, hsnap, heng, hrest⟩ := Mach.wrapTold_spec (m := s.m.wrapSeen k) k.isLt h (s.m.snapPc k s.m.frees) hoff hroom
    (by rw [hpreEq]; exact hlt) (by rw [hpreEq, hfld]; exact hpre)
  refine ⟨_, hx, ?_, ?_, ?_, fun r h0 h16 => ?_, ?_, ?_, fun j hj => hrest j hj, rfl, rfl⟩
  · rw [hbt, Mach.reg_wrapSeen, bt_or]
    exact Bool.or_eq_true_iff.2 (.inr (by decide))
  · rw [htele]
    exact s.m.wraps_wrapSeen k
  · rw [hval, hpreEq, hfld]
  · exact (hreg r h0 h16).trans (hpc r h0)
  · rw [hsnap, hpc _ (by omega), Mach.snapWord_congr h8]
  · refine heng.trans ?_
    rw [hpc _ (by omega)]
    rfl

/-- PC.CFG, PC.READ and COUNTER_WRAP (R436, R437, R439, R440). -/
theorem counterInstructions_of (s : State) (e : EngId) (w : Word) :
    let x := s.m.eng e
    let v := x.reg (wA w)
    let c := x.reg (wB w)
    let gone (st : Nat) : Mach := ((s.m.readPc e).modEng e (fun x => { x with insn := w })).endStatus e st []
    (∀ n q, Issues s e w 0xC0 → ctrSel v = some (n, q) → inScope e q = true → s.m.ctrAbsent (bf v 28 4) (bf c 0 8) = false →
      (ctrSelStray v = false → cfgRange (bf v 28 4) c = false → (s.m.readPc e).domLive (ctrDom n) = true →
        DoesAt (.pcCfg e) s e { x with insn := w, state := .waiting, wait := .config [v, c], limit := none } (s.m.readPc e)) ∧
      (ctrSelStray v = true ∨ cfgRange (bf v 28 4) c = true → Does (.pcCfg e) s (gone 3)) ∧
      (ctrSelStray v = false → cfgRange (bf v 28 4) c = false → (s.m.readPc e).domLive (ctrDom n) = false → Does (.pcCfg e) s (gone 1))) ∧
    (Issues s e w 0xC0 → s.m.ctrAbsent (bf v 28 4) (bf c 0 8) = true → Does (.pcCfg e) s (gone 2)) ∧
    (∀ n q, Issues s e w 0xC1 → ctrSel v = some (n, q) → inScope e q = true → (bf v 28 4 = 2 → s.m.hasSpine = true) →
      ctrSelStray v = false →
      DoesAt (.pcRead e) s e (x.awaits w 0 [(wD w, if (s.m.readPc e).domLive (ctrDom n) then (s.m.readPc e).reg (aCtr n) else 0)]) (s.m.readPc e)) ∧
    (∀ n q, Issues s e w 0xC1 → ctrSel v = some (n, q) → inScope e q = true → (bf v 28 4 = 2 → s.m.hasSpine = true) →
      ctrSelStray v = true → Does (.pcRead e) s (gone 3)) := by
  intro x v c gone
  have hv : ((s.m.issued e w).eng e).reg (wA w) = v := s.m.reg_eng_issued e w _
  have hc : ((s.m.issued e w).eng e).reg (wB w) = c := s.m.reg_eng_issued e w _
  have habs : (s.m.issued e w).ctrAbsent (bf v 28 4) (bf c 0 8) = s.m.ctrAbsent (bf v 28 4) (bf c 0 8) := s.m.ctrAbsent_issued e w _ _
  have hsp : (s.m.issued e w).hasSpine = s.m.hasSpine := s.m.hasSpine_issued e w
  have hlive (d : Nat) : (s.m.issued e w).domLive d = (s.m.readPc e).domLive d := rfl
  have hone := s.m.issued_likeAt e w
  have hhere (h2 : bf v 28 4 = 2 → s.m.hasSpine = true) : (decide (bf v 28 4 = 2) && !s.m.hasSpine) = false := by
    by_cases hk : bf v 28 4 = 2
    · rw [h2 hk, Bool.not_true, Bool.and_false]
    · rw [decide_eq_false hk, Bool.false_and]
  refine ⟨fun n q hi hsel hin ha => ⟨fun hst hr hl => ?_, fun hr => ?_, fun hst hr hl => ?_⟩, fun hi ha => ?_, fun n q hi hsel hin h2 hst => ?_,
    fun n q hi hsel hin h2 hst => ?_⟩
  · refine DoesAt.issue rfl hi rfl (fun b _ hb => ?_)
    obtain rfl : b = s.m.issued e w := hb
    dsimp only
    rw [hv, hc, habs, ha, hsel]
    dsimp only
    rw [hin, Mach.status_free, hst, hr, hlive, hl]
    exact hone.mod _
  · refine Does.row rfl hi ?_
    dsimp only
    rw [hv, hc, habs, ha, hsel]
    dsimp only
    rw [hin, Mach.status_free, if_pos (Bool.or_eq_true_iff.2 hr)]
    rfl
  · refine Does.row rfl hi ?_
    dsimp only
    rw [hv, hc, habs, ha, hsel]
    dsimp only
    rw [hin, Mach.status_free, hst, hr, hlive, hl]
    rfl
  · refine Does.row rfl hi ?_
    dsimp only
    rw [hv, hc, habs, ha]
    rfl
  · refine DoesAt.issue rfl hi rfl (fun b _ hb => ?_)
    obtain rfl : b = s.m.issued e w := hb
    dsimp only
    rw [hv, hsel, hsp, hhere h2]
    dsimp only
    rw [hin, Mach.status_free, hst]
    exact hone.done 0 _
  · refine Does.row rfl hi ?_
    dsimp only
    rw [hv, hsel, hsp, hhere h2]
    dsimp only
    rw [hin, Mach.status_free, hst]
    rfl

end Sys2Proof.Machine

/-! PROOFS. Queue samplers, and the whole of O48. -/

namespace Sys2Proof.Machine

/-! ## One sample -/

/-- The machine with a sample counted in its bins and in COUNT, with the last values (R443). -/
def Mach.binned (m : Mach) (a d g db gb : Nat) : Mach :=
  let m := m.addFld (a + 0x20 + 8 * (db / 2)) (32 * (db % 2)) 32 1
  let m := m.addFld (a + 0x60 + 8 * (gb / 2)) (32 * (gb % 2)) 32 1
  ((m.addFld a 32 32 1).setFld a 16 16 (min d 0xFFFF)).setFld a 0 16 (min g 0xFFFF)

/-- The machine with a sample in its sampler's registers (R443): depth `d` and age `g`, in the bins `db` and `gb`. -/
def Mach.sampled (m : Mach) (a d g db gb : Nat) : Mach :=
  let m := m.binned a d g db gb
  let m := m.setFld (a + 8) 32 16 (max (m.fld (a + 8) 32 16) (min d 0xFFFF))
  m.setFld (a + 8) 0 32 (max (m.fld (a + 8) 0 32) (min g 0xFFFFFFFF))

theorem word_of_fields {w : Word} {x y z : Nat} (hx : bf w 32 32 = x) (hy : bf w 16 16 = y) (hz : bf w 0 16 = z) :
    w = BitVec.ofNat 64 (x * 2 ^ 32 + y * 2 ^ 16 + z) := by
  have hw := w.isLt
  rw [bf_eq_div] at hx hy hz
  refine BitVec.eq_of_toNat_eq ?_
  rw [BitVec.toNat_ofNat]
  omega

/-- Every part of the machine but its registers. -/
theorem Mach.sampled_keeps {γ : Type} {π : Mach → γ} (h : ∀ (m : Mach) a w, π (m.setReg a w) = π m) (m : Mach) (a d g db gb : Nat) :
    π (m.sampled a d g db gb) = π m :=
  (h _ _ _).trans ((h _ _ _).trans ((h _ _ _).trans ((h _ _ _).trans ((h _ _ _).trans ((h _ _ _).trans (h _ _ _))))))

section
variable {m : Mach} {a d g db gb : Nat}

theorem Mach.reg_sampled {r : Nat} (h0 : r ≠ a) (h8 : r ≠ a + 8) (h1 : r ≠ a + 0x20 + 8 * (db / 2)) (h2 : r ≠ a + 0x60 + 8 * (gb / 2)) :
    (m.sampled a d g db gb).reg r = m.reg r := by
  unfold Mach.sampled Mach.binned Mach.addFld Mach.setFld
  dsimp only
  rw [Mach.reg_setReg_ne _ _ h8, Mach.reg_setReg_ne _ _ h8, Mach.reg_setReg_ne _ _ h0, Mach.reg_setReg_ne _ _ h0, Mach.reg_setReg_ne _ _ h0,
    Mach.reg_setReg_ne _ _ h2, Mach.reg_setReg_ne _ _ h1]

theorem Mach.bins_sampled (hd : db ≤ 15) :
    (m.sampled a d g db gb).fld (a + 0x20 + 8 * (db / 2)) (32 * (db % 2)) 32 =
      min (2 ^ 32 - 1) (m.fld (a + 0x20 + 8 * (db / 2)) (32 * (db % 2)) 32 + 1) ∧
    (m.sampled a d g db gb).fld (a + 0x60 + 8 * (gb / 2)) (32 * (gb % 2)) 32 =
      min (2 ^ 32 - 1) (m.fld (a + 0x60 + 8 * (gb / 2)) (32 * (gb % 2)) 32 + 1) := by
  have hne {r : Nat} (h0 : r ≠ a) (h8 : r ≠ a + 8) (t : Mach) (u v x y z : Word) :
      (((((t.setReg a u).setReg a v).setReg a x).setReg (a + 8) y).setReg (a + 8) z).reg r = t.reg r := by
    rw [Mach.reg_setReg_ne _ _ h8, Mach.reg_setReg_ne _ _ h8, Mach.reg_setReg_ne _ _ h0, Mach.reg_setReg_ne _ _ h0, Mach.reg_setReg_ne _ _ h0]
  generalize hb : a + 0x20 + 8 * (db / 2) = b
  generalize hc : a + 0x60 + 8 * (gb / 2) = c
  have hbc : b ≠ c := by omega
  have hsat (t : Mach) (r k : Nat) : (t.addFld r (32 * (k % 2)) 32 1).fld r (32 * (k % 2)) 32 = min (2 ^ 32 - 1) (t.fld r (32 * (k % 2)) 32 + 1) := by
    rw [Mach.fld_addFld _ _ (by omega), Nat.min_comm]
  refine ⟨?_, ?_⟩
  · rw [← hsat, Mach.fld, Mach.fld]
    unfold Mach.sampled Mach.binned
    dsimp only
    rw [hb, hc]
    refine congrArg (fun w => bf w (32 * (db % 2)) 32) ((hne (by omega) (by omega) _ _ _ _ _ _).trans ?_)
    exact Mach.reg_setReg_ne _ _ hbc
  · have h1 : (m.addFld b (32 * (db % 2)) 32 1).fld c (32 * (gb % 2)) 32 = m.fld c (32 * (gb % 2)) 32 :=
      congrArg (fun w => bf w (32 * (gb % 2)) 32) (Mach.reg_setReg_ne _ _ (Ne.symm hbc))
    rw [← h1, ← hsat, Mach.fld, Mach.fld]
    unfold Mach.sampled Mach.binned
    dsimp only
    rw [hb, hc]
    exact congrArg (fun w => bf w (32 * (gb % 2)) 32) (hne (by omega) (by omega) _ _ _ _ _ _)

theorem Mach.count_sampled : (m.sampled a d g db gb).reg a =
    BitVec.ofNat 64 (min (2 ^ 32 - 1) (m.fld a 32 32 + 1) * 2 ^ 32 + min d 0xFFFF * 2 ^ 16 + min g 0xFFFF) := by
  have hreg : (m.sampled a d g db gb).reg a = sf (sf (sf (m.reg a) 32 32 (satAdd 32 (m.fld a 32 32) 1)) 16 16 (min d 0xFFFF)) 0 16 (min g 0xFFFF) := by
    unfold Mach.sampled Mach.binned Mach.addFld Mach.setFld Mach.fld
    dsimp only
    rw [Mach.reg_setReg_ne _ _ (by omega), Mach.reg_setReg_ne _ _ (by omega), Mach.reg_setReg, Mach.reg_setReg, Mach.reg_setReg,
      Mach.reg_setReg_ne _ _ (by omega), Mach.reg_setReg_ne _ _ (by omega)]
  have hsat : satAdd 32 (m.fld a 32 32) 1 = min (2 ^ 32 - 1) (m.fld a 32 32 + 1) := Nat.min_comm _ _
  rw [hreg, hsat]
  refine word_of_fields ?_ ?_ ?_
  · rw [bf_sf_ne _ (by decide) _ (by decide), bf_sf_ne _ (by decide) _ (by decide), bf_sf _ (by decide)]
    omega
  · rw [bf_sf_ne _ (by decide) _ (by decide), bf_sf _ (by decide)]
    omega
  · rw [bf_sf _ (by decide)]
    omega

theorem Mach.maxima_sampled : (m.sampled a d g db gb).fld (a + 8) 32 16 = max (m.fld (a + 8) 32 16) (min d 0xFFFF) ∧
    (m.sampled a d g db gb).fld (a + 8) 0 32 = max (m.fld (a + 8) 0 32) (min g 0xFFFFFFFF) := by
  have h0 : (m.binned a d g db gb).reg (a + 8) = m.reg (a + 8) := by
    unfold Mach.binned Mach.addFld Mach.setFld
    dsimp only
    rw [Mach.reg_setReg_ne _ _ (by omega), Mach.reg_setReg_ne _ _ (by omega), Mach.reg_setReg_ne _ _ (by omega), Mach.reg_setReg_ne _ _ (by omega),
      Mach.reg_setReg_ne _ _ (by omega)]
  have hb := bf_lt (m.reg (a + 8)) 32 16
  have hc := bf_lt (m.reg (a + 8)) 0 32
  unfold Mach.sampled
  dsimp only
  refine ⟨?_, ?_⟩
  · rw [Mach.fld, Mach.setFld, Mach.reg_setReg, bf_sf_ne _ (by decide) _ (by decide), Mach.setFld, Mach.reg_setReg, bf_sf _ (by decide), Mach.fld,
      h0, Mach.fld]
    omega
  · rw [Mach.fld, Mach.setFld, Mach.reg_setReg, bf_sf _ (by decide), Mach.fld, Mach.setFld, Mach.reg_setReg, bf_sf_ne _ (by decide) _ (by decide), h0,
      Mach.fld]
    omega

end

/-! ## SAMPLER_SAMPLE -/

/-- The event of a sample at the threshold `thr` (R443). -/
def Mach.sampleTold (m : Mach) (o k thr d : Nat) : Mach := if 0 < thr ∧ thr ≤ d then m.postEvt o 11 1 0 (6144 + k) else m

/-- The machine after a sample, with the period boundary noted (R443). -/
def Mach.sampleTaken (m : Mach) (k : Nat) : Mach :=
  let c0 := m.reg (aSmp k + 0x10)
  let c1 := m.reg (aSmp k + 0x18)
  let q := m.queueOf k (bf c0 44 2) (bf c0 32 8)
  let b := m.sampled (aSmp k) q.1 (m.cycNs q.2) (min 15 (q.1 / 2 ^ bf c1 8 6)) (min 15 (m.cycNs q.2 / 2 ^ bf c1 0 6))
  (b.sampleTold (b.ownerOf (8192 + k)) k (bf c1 32 16) q.1)

theorem Mach.sample_eq (m : Mach) (k : Nat) : m.sample k = m.sampleTaken k := by
  unfold Mach.sample
  extract_lets a c0 c1 q d g bin db gb m1 m2 m3 m4 m5 thr
  have h : m5 = m.sampled a d g db gb := rfl
  change (if 0 < thr ∧ thr ≤ d then m5.postEvt (m5.ownerOf (8192 + k)) 11 1 0 (6144 + k) else m5) = _
  rw [h]
  rfl

theorem exec_samplerSample {s : State} {k : SmpId} (hs : s.m.test.scan = false) : exec (.samplerSample k) s = .next { s with m :=
    (if s.m.sampling k = false ∨ s.m.keep.st = .frozen ∨ s.m.atMultiple (s.m.smpPeriod k) = false ∨
        s.m.smpNow k = Tab.get dZero s.m.tele.smpAt k then s.m
    else (s.m.sample k).modTele (fun t => { t with smpAt := Tab.set dZero t.smpAt k (s.m.smpNow k) })) } := by
  change execSamplerSample k s = _
  rw [execSamplerSample, State.on_eq hs]

theorem Mach.sampleTold_eq {m : Mach} {o k thr d : Nat} (hk : k < 544) (hoff : (m.eng o).state ≠ .off) (hroom : (m.eng o).evq.length < 32) :
    m.sampleTold o k thr d = if 0 < thr ∧ thr ≤ d then
      m.modEng o (fun x => { x with evq := x.evq ++ [BitVec.ofNat 64 (11 * 2 ^ 60 + 2 ^ 56 + m.ftUs % 2 ^ 24 * 2 ^ 32 + (6144 + k))] }) else m := by
  unfold Mach.sampleTold
  rw [Mach.postEvt_queued hoff hroom, evtRecord_eq _ (by decide) (by decide) (by decide) (by omega), Nat.zero_mul,
    Nat.add_zero, Nat.one_mul]

theorem Mach.reg_sampleTold {m : Mach} {o k thr d : Nat} (hk : k < 544) (hoff : (m.eng o).state ≠ .off) (hroom : (m.eng o).evq.length < 32) (r : Nat) :
    (m.sampleTold o k thr d).reg r = m.reg r := by
  rw [Mach.sampleTold_eq hk hoff hroom]
  split <;> rfl

theorem Mach.eng_sampleTold {m : Mach} {o k thr d : Nat} (hk : k < 544) (hoff : (m.eng o).state ≠ .off) (hroom : (m.eng o).evq.length < 32) :
    (m.sampleTold o k thr d).eng o = { m.eng o with evq := (m.eng o).evq ++ if 0 < thr ∧ thr ≤ d then
      [BitVec.ofNat 64 (11 * 2 ^ 60 + 2 ^ 56 + m.ftUs % 2 ^ 24 * 2 ^ 32 + (6144 + k))] else [] } ∧
    ∀ j, j ≠ o → (m.sampleTold o k thr d).eng j = m.eng j := by
  rw [Mach.sampleTold_eq hk hoff hroom]
  split
  · exact ⟨Mach.eng_modEng _ _ _, fun j hj => Mach.eng_modEng_ne _ _ hj⟩
  · exact ⟨by rw [List.append_nil], fun _ _ => rfl⟩

theorem samplerSample_takes {s : State} {k : SmpId} (hs : s.m.test.scan = false) :
    let a := aSmp k
    let c0 := s.m.reg (a + 0x10)
    let c1 := s.m.reg (a + 0x18)
    let per := bf c0 0 32
    let d := (s.m.queueOf k (bf c0 44 2) (bf c0 32 8)).1
    let g := s.m.cycNs (s.m.queueOf k (bf c0 44 2) (bf c0 32 8)).2
    let db := min 15 (d / 2 ^ bf c1 8 6)
    let gb := min 15 (g / 2 ^ bf c1 0 6)
    let o := s.m.ownerOf (8192 + k)
    s.m.sampling k = true → s.m.keep.st ≠ .frozen → s.m.atMultiple per = true →
      Tab.get dZero s.m.tele.smpAt k ≠ s.m.ftNs / per * per → (s.m.eng o).state ≠ .off → (s.m.eng o).evq.length < 32 →
      ∃ t, exec (.samplerSample k) s = .next t ∧
        t.m.fld (a + 0x20 + 8 * (db / 2)) (32 * (db % 2)) 32 = min (2 ^ 32 - 1) (s.m.fld (a + 0x20 + 8 * (db / 2)) (32 * (db % 2)) 32 + 1) ∧
        t.m.fld (a + 0x60 + 8 * (gb / 2)) (32 * (gb % 2)) 32 = min (2 ^ 32 - 1) (s.m.fld (a + 0x60 + 8 * (gb / 2)) (32 * (gb % 2)) 32 + 1) ∧
        t.m.reg a = BitVec.ofNat 64 (min (2 ^ 32 - 1) (s.m.fld a 32 32 + 1) * 2 ^ 32 + min d 0xFFFF * 2 ^ 16 + min g 0xFFFF) ∧
        Tab.get dZero t.m.tele.smpAt k = s.m.ftNs / per * per ∧
        t.m.fld (a + 8) 32 16 = max (s.m.fld (a + 8) 32 16) (min d 0xFFFF) ∧ t.m.fld (a + 8) 0 32 = max (s.m.fld (a + 8) 0 32) (min g 0xFFFFFFFF) ∧
        (∀ r, r ≠ a → r ≠ a + 8 → r ≠ a + 0x20 + 8 * (db / 2) → r ≠ a + 0x60 + 8 * (gb / 2) → t.m.reg r = s.m.reg r) ∧
        t.m.eng o = { s.m.eng o with evq := (s.m.eng o).evq ++ if 0 < bf c1 32 16 ∧ bf c1 32 16 ≤ d then
          [BitVec.ofNat 64 (11 * 2 ^ 60 + 2 ^ 56 + s.m.ftUs % 2 ^ 24 * 2 ^ 32 + (6144 + k.val))] else [] } ∧
        (∀ i, i ≠ o → t.m.eng i = s.m.eng i) ∧ t.guards = s.guards ∧ t.pending = s.pending := by
  intro a c0 c1 per d g db gb o hsm hfr hat hne hoff hroom
  have hx := exec_samplerSample (k := k) hs
  rw [if_neg (by
    rintro (h | h | h | h)
    · rw [hsm] at h; exact nomatch h
    · exact hfr h
    · rw [show s.m.smpPeriod k = per from rfl, hat] at h; exact nomatch h
    · exact hne h.symm), Mach.sample_eq] at hx
  have hkeeps {γ : Type} (π : Mach → γ) (h : ∀ (m : Mach) a w, π (m.setReg a w) = π m) : π (s.m.sampled a d g db gb) = π s.m :=
    Mach.sampled_keeps h s.m a d g db gb
  have ho : (s.m.sampled a d g db gb).ownerOf (8192 + k) = o := hkeeps (fun m => m.ownerOf (8192 + k)) (fun _ _ _ => rfl)
  have hus : (s.m.sampled a d g db gb).ftUs = s.m.ftUs := hkeeps (fun m => m.ftUs) (fun _ _ _ => rfl)
  have heng (j : Nat) : (s.m.sampled a d g db gb).eng j = s.m.eng j := hkeeps (fun m => m.eng j) (fun _ _ _ => rfl)
  have htk : s.m.sampleTaken k = (s.m.sampled a d g db gb).sampleTold o k (bf c1 32 16) d := by rw [← ho]; rfl
  rw [htk] at hx
  have hbins := Mach.bins_sampled (m := s.m) (a := a) (d := d) (g := g) (gb := gb) (show db ≤ 15 from Nat.min_le_left _ _)
  have hcount := Mach.count_sampled (m := s.m) (a := a) (d := d) (g := g) (db := db) (gb := gb)
  have hmax := Mach.maxima_sampled (m := s.m) (a := a) (d := d) (g := g) (db := db) (gb := gb)
  have hreg (r : Nat) := Mach.reg_sampled (m := s.m) (a := a) (d := d) (g := g) (db := db) (gb := gb) (r := r)
  generalize s.m.sampled a d g db gb = b at hx ho hus heng hbins hcount hmax hreg
  have htold := Mach.reg_sampleTold (m := b) (o := o) (thr := bf c1 32 16) (d := d) k.isLt (by rw [heng]; exact hoff) (by rw [heng]; exact hroom)
  have hfld (r lo len : Nat) : (b.sampleTold o k (bf c1 32 16) d).fld r lo len = b.fld r lo len := congrArg (fun w => bf w lo len) (htold r)
  obtain ⟨he, hrest⟩ := Mach.eng_sampleTold (m := b) (o := o) (thr := bf c1 32 16) (d := d) k.isLt (by rw [heng]; exact hoff) (by rw [heng]; exact hroom)
  generalize b.sampleTold o k (bf c1 32 16) d = t at hx htold hfld he hrest
  refine ⟨_, hx, ?_, ?_, ?_, ?_, ?_, ?_, fun r h0 h8 h1 h2 => ?_, ?_, fun i hi => ?_, rfl, rfl⟩
  · exact (hfld _ _ _).trans hbins.1
  · exact (hfld _ _ _).trans hbins.2
  · exact (htold _).trans hcount
  · exact Tab.get_set _ _ _
  · exact (hfld _ _ _).trans hmax.1
  · exact (hfld _ _ _).trans hmax.2
  · exact (htold r).trans (hreg r h0 h8 h1 h2)
  · refine he.trans ?_
    rw [heng, hus]
  · exact (hrest i hi).trans (heng i)

/-! ## SMP.CFG -/

/-- SMP.CFG with its two words, once its gate is passed. -/
def Mach.smpTakes (m : Mach) (e : Nat) (w0 w1 : Word) : Mach :=
  if smpRange w0 w1 then m.endStatus e 3 []
  else if !m.domLive (smpDom (bf w0 48 10)) then m.endStatus e 1 []
  else m.putConfig e [w0, w1]

/-- The gate of SMP.CFG, whose words have been read. -/
def Mach.smpGate (m : Mach) (e : Nat) (w0 w1 : Word) : Mach :=
  m.status e (decide (512 ≤ bf w0 48 10 ∧ bf w0 48 10 < 544) && !m.hasSpine)
    (if bf w0 48 10 < 544 then inScope e (domQuad (smpDom (bf w0 48 10))) else true) false (fun m => m.smpTakes e w0 w1)

theorem exec_smpCfg (e : EngId) (s : State) : exec (.smpCfg e) s = s.on (fun m => m.issue e 0xC2 anyWord (fun w m =>
    m.sadr e w 2 (fun m => m.smpGate e (m.descWord e w 0) (m.descWord e w 1)))) := by
  change execSmpCfg e s = _
  unfold execSmpCfg Mach.smpGate Mach.smpTakes
  rfl

/-- The gate of SMP.CFG is open where the sampler's unit is there and in scope. -/
theorem Mach.smpGate_open {m : Mach} {e j : Nat} (hsp : 512 ≤ j → j < 544 → m.hasSpine = true) (hin : j < 544 → inScope e (domQuad (smpDom j)) = true)
    (act : Mach → Mach) : m.status e (decide (512 ≤ j ∧ j < 544) && !m.hasSpine) (if j < 544 then inScope e (domQuad (smpDom j)) else true) false act =
      act m := by
  have ha : (decide (512 ≤ j ∧ j < 544) && !m.hasSpine) = false := by
    by_cases h : 512 ≤ j ∧ j < 544
    · rw [hsp h.1 h.2, Bool.not_true, Bool.and_false]
    · rw [decide_eq_false h, Bool.false_and]
  have hs : (if j < 544 then inScope e (domQuad (smpDom j)) else true) = true := by
    split
    · next h => exact hin h
    · rfl
  rw [ha, hs, Mach.status_free]

/-- A sampler's configuration that comes into force (R442). -/
def Mach.smpSet (m : Mach) (k e : Nat) (w0 w1 : Word) : Mach :=
  ((m.setReg (aSmp k + 0x10) (sf w0 62 1 0)).setReg (aSmp k + 0x18) w1).setOwner (8192 + k) e

theorem Mach.configSmp_eq (m : Mach) (e : Nat) (w0 w1 : Word) : m.configSmp e w0 w1 =
    if bt w0 62 then (m.smpSet (bf w0 48 10) e w0 w1).clearSmp (bf w0 48 10) else m.smpSet (bf w0 48 10) e w0 w1 := rfl

theorem Mach.clearSmp_keeps {γ : Type} {π : Mach → γ} {k : Nat}
    (h : ∀ (m : Mach) a w, (a < aSmp k + 0x10 ∨ aSmp k + 0x20 ≤ a) → aSmp k ≤ a → a < aSmp k + 0xA0 → π (m.setReg a w) = π m) (m : Mach) :
    π (m.clearSmp k) = π m := by
  refine (List.foldlRecOn (motive := fun t => π t = π ((m.setFld (aSmp k) 32 32 0).setReg (aSmp k + 8) 0)) _ _ rfl (fun t ht i hi => ?_)).trans ?_
  · have := List.mem_range.1 hi
    exact (h _ _ _ (by omega) (by omega) (by omega)).trans ht
  · exact (h _ _ _ (by omega) (by omega) (by omega)).trans (h _ _ _ (by omega) (by omega) (by omega))

theorem Mach.reg_clearSmp (m : Mach) (k : Nat) : (m.clearSmp k).fld (aSmp k) 32 32 = 0 ∧ (m.clearSmp k).reg (aSmp k + 8) = 0 ∧
    ∀ i, i < 16 → (m.clearSmp k).reg (aSmp k + 0x20 + 8 * i) = 0 := by
  have hlow (r : Nat) (hr : r < aSmp k + 0x20) : (m.clearSmp k).reg r = ((m.setFld (aSmp k) 32 32 0).setReg (aSmp k + 8) 0).reg r :=
    foldl_keeps (fun m : Mach => m.reg r) _ _ _ (fun m i => m.reg_setReg_ne _ (by omega))
  refine ⟨?_, (hlow _ (by omega)).trans (Mach.reg_setReg _ _ _), fun i hi => ?_⟩
  · rw [Mach.fld, hlow _ (by omega), Mach.reg_setReg_ne _ _ (by omega), Mach.setFld, Mach.reg_setReg, bf_sf _ (by decide), Nat.zero_mod]
  · refine foldl_sets (I := fun _ => True) (Q := fun m : Mach => m.reg (aSmp k + 0x20 + 8 * i) = 0) (List.mem_range.2 hi) (fun _ _ _ _ => trivial)
      (fun m _ => m.reg_setReg _ _) (fun m j _ _ hm => ?_) trivial
    by_cases hj : j = i
    · subst hj
      exact m.reg_setReg _ _
    · exact (m.reg_setReg_ne _ (by omega)).trans hm

/-- What a sampler's configuration leaves (R442). -/
theorem Mach.configSmp_leaves (m : Mach) (e : Nat) (w0 w1 : Word) :
    let j := bf w0 48 10
    let t := m.configSmp e w0 w1
    t.reg (aSmp j + 0x10) = w0 &&& ~~~0x4000000000000000#64 ∧ t.reg (aSmp j + 0x18) = w1 ∧ t.ownerOf (8192 + j) = e ∧
    (∀ i, t.eng i = m.eng i) ∧ (∀ r, (r < aSmp j ∨ aSmp j + 0xA0 ≤ r) → t.reg r = m.reg r) ∧
    (bt w0 62 = false → ∀ r, r ≠ aSmp j + 0x10 → r ≠ aSmp j + 0x18 → t.reg r = m.reg r) ∧
    (bt w0 62 = true → t.fld (aSmp j) 32 32 = 0 ∧ t.reg (aSmp j + 8) = 0 ∧ ∀ i, i < 16 → t.reg (aSmp j + 0x20 + 8 * i) = 0) := by
  intro j t
  have hset : (m.smpSet j e w0 w1).reg (aSmp j + 0x10) = w0 &&& ~~~0x4000000000000000#64 ∧ (m.smpSet j e w0 w1).reg (aSmp j + 0x18) = w1 ∧
      (m.smpSet j e w0 w1).ownerOf (8192 + j) = e ∧
      ∀ r, r ≠ aSmp j + 0x10 → r ≠ aSmp j + 0x18 → (m.smpSet j e w0 w1).reg r = m.reg r := by
    refine ⟨?_, Mach.reg_setReg _ _ _, ?_, fun r h10 h18 => (Mach.reg_setReg_ne _ _ h18).trans (Mach.reg_setReg_ne _ _ h10)⟩
    · exact (Mach.reg_setReg_ne _ _ (by omega)).trans ((Mach.reg_setReg _ _ _).trans (sf_zero w0 (by decide)))
    · change Tab.get dZero (Tab.set dZero m.tele.owner (8192 + j) (e + 1)) (8192 + j) - 1 = e
      rw [Tab.get_set]
      rfl
  obtain ⟨h10, h18, hown, hrest⟩ := hset
  have ht : t = if bt w0 62 then (m.smpSet j e w0 w1).clearSmp j else m.smpSet j e w0 w1 := m.configSmp_eq e w0 w1
  clear_value t
  cases hb : bt w0 62 with
  | false =>
    rw [hb, if_neg Bool.false_ne_true] at ht
    subst ht
    exact ⟨h10, h18, hown, fun _ => rfl, fun r hr => hrest r (by omega) (by omega), fun _ => hrest, nofun⟩
  | true =>
    rw [hb, if_pos rfl] at ht
    have hk {γ : Type} {π : Mach → γ} (h : ∀ (m : Mach) a w, (a < aSmp j + 0x10 ∨ aSmp j + 0x20 ≤ a) → aSmp j ≤ a → a < aSmp j + 0xA0 →
        π (m.setReg a w) = π m) : π t = π (m.smpSet j e w0 w1) := ht ▸ Mach.clearSmp_keeps h _
    refine ⟨?_, ?_, ?_, fun i => ?_, fun r hr => ?_, nofun, fun _ => ?_⟩
    · exact (hk (π := fun m => m.reg (aSmp j + 0x10)) (fun m a w h _ _ => m.reg_setReg_ne w (by omega))).trans h10
    · exact (hk (π := fun m => m.reg (aSmp j + 0x18)) (fun m a w h _ _ => m.reg_setReg_ne w (by omega))).trans h18
    · exact (hk (π := fun m => m.ownerOf (8192 + j)) (fun _ _ _ _ _ _ => rfl)).trans hown
    · exact hk (π := fun m => m.eng i) (fun _ _ _ _ _ _ => rfl)
    · exact (hk (π := fun m => m.reg r) (fun m a w _ h1 h2 => m.reg_setReg_ne w (by omega))).trans (hrest r (by omega) (by omega))
    · rw [ht]
      exact Mach.reg_clearSmp _ j

theorem Mach.configDone_smp {m : Mach} {e : Nat} {w0 w1 : Word} (h : wOpc (m.eng e).insn = 0xC2) (hl : m.domLive (smpDom (bf w0 48 10)) = true) :
    m.configDone e [w0, w1] = m.configSmp e w0 w1 := by
  unfold Mach.configDone
  rw [h]
  exact if_pos hl

/-- Settles O48: a counter's configuration, its reads and its wrap; a sampler's configuration and one sample. -/
theorem counters : Obligations.Counters := by
  refine ⟨fun s e w k h => ?_, fun s e w k => ?_⟩
  · intro x v c gone a cfg o pre
    obtain ⟨hcfg, habs, hread, hrange⟩ := counterInstructions_of s e w
    refine ⟨hcfg, fun ws hs hst hw => ?_, fun n q v c hop hv hl => ?_, habs, hread, hrange, fun hs hw => ?_, fun hs hw hb => ?_,
      fun hs hw hb hoff hroom hpre hlt => ?_⟩
    · change execFabricInstructionCompletion e s = _
      rw [execFabricInstructionCompletion, State.onAll, hs]
      dsimp only
      rw [if_neg (not_not_intro hst), hw]
      rfl
    · intro t
      rw [show t = s.m.configCtr n e c from Mach.configDone_ctr hop hv hl]
      exact s.m.configCtr_leaves n e c
    · refine Does.of_exec ?_
      change execCounterWrap k s = _
      rw [execCounterWrap, State.on_eq hs]
      dsimp only
      rw [hw]
    · have hx := exec_counterWrap hs hw
      rw [hb, if_neg Bool.false_ne_true] at hx
      exact ⟨_, hx, s.m.wrapSeen_like k.isLt, s.m.reg_wrapSeen k, fun r hr => s.m.reg_wrapSeen_ne hr, s.m.wraps_wrapSeen k, rfl, rfl⟩
    · obtain ⟨t, hx, hbt, hwr, hval, hreg, hsnap, heng, hrest, hg, hp⟩ := counterWrap_tells hs hw hb hoff hroom hpre hlt
      refine ⟨t, hx, hbt, hwr, hval, hreg, fun h63 => ?_, fun h63 hpk => ?_, fun h63 hin hne => ?_, fun h63 hpk hin => ?_, heng, hrest, hg, hp⟩
      · rw [hsnap]
        exact if_pos h63
      all_goals rw [show s.m.reg (aCtr k + 16) = s.m.reg (a + 16) from rfl, h63, if_neg Bool.false_ne_true] at hsnap
      · exact hsnap.trans (Mach.snapWord_packet rfl h _ hpk)
      · exact ⟨_, Mach.snapPc_mem hne _, hsnap.trans (Mach.snapWord_insn rfl h _ hin)⟩
      · exact hsnap.trans (Mach.snapWord_other rfl h _ hpk hin)
  · intro x w0 w1 j read gone a c0 c1 per d g db gb o
    have hdesc (i : Nat) : ((s.m.issued e w).readWords e (wSadr w) 2).descWord e w i = s.m.descWord e w i :=
      congrFun (s.m.descWord_read e w _ _) i
    have hsp : ((s.m.issued e w).readWords e (wSadr w) 2).hasSpine = s.m.hasSpine := by
      rw [Mach.readWords_eq, Mach.issued_eq]
      rfl
    have hlive (d : Nat) : ((s.m.issued e w).readWords e (wSadr w) 2).domLive d = s.m.domLive d := by
      rw [Mach.readWords_eq, Mach.issued_eq]
      rfl
    have hread : ((s.m.issued e w).readWords e (wSadr w) 2).Like (read.modEng e (fun x => { x with insn := w })) :=
      s.m.issued_readWords_like e w _ 2
    have hrow (hal : wSadr w % 8 = 0) (hj : 512 ≤ j → j < 544 → s.m.hasSpine = true) (hin : j < 544 → inScope e (domQuad (smpDom j)) = true) :
        (s.m.issued e w).sadr e w 2 (fun m => m.smpGate e (m.descWord e w 0) (m.descWord e w 1)) =
          ((s.m.issued e w).readWords e (wSadr w) 2).smpTakes e w0 w1 := by
      rw [Mach.sadr, if_neg (not_not_intro hal), hdesc, hdesc]
      exact Mach.smpGate_open (by rw [hsp]; exact hj) hin _
    refine ⟨fun hi hal => ?_, fun hi hal hj hin => ⟨fun hr => ?_, fun hr hl => ?_, fun hr hl => ?_⟩, fun w0 w1 hop hl => ?_, fun hs hno => ?_,
      fun hs => samplerSample_takes hs⟩
    · refine Does.row (exec_smpCfg e s) hi ?_
      rw [Mach.sadr, if_pos hal]
      rfl
    · refine Does.issue (exec_smpCfg e s) hi rfl ?_
      rw [← Mach.issued, hrow hal hj hin, Mach.smpTakes, if_pos hr]
      exact hread.endStatus e 3 []
    · refine Does.issue (exec_smpCfg e s) hi rfl ?_
      rw [← Mach.issued, hrow hal hj hin, Mach.smpTakes, hr, if_neg Bool.false_ne_true, hlive, hl]
      exact hread.endStatus e 1 []
    · refine DoesAt.issue (exec_smpCfg e s) hi rfl (fun b _ hb => ?_)
      obtain rfl : b = s.m.issued e w := hb
      rw [hrow hal hj hin, Mach.smpTakes, hr, if_neg Bool.false_ne_true, hlive, hl]
      exact (s.m.issued_readWords_likeAt e w _ 2).mod _
    · intro j t
      rw [show t = s.m.configSmp e w0 w1 from Mach.configDone_smp hop hl]
      exact s.m.configSmp_leaves e w0 w1
    · refine Does.of_exec ((exec_samplerSample hs).trans ?_)
      rw [if_pos]
      exact hno.imp id (Or.imp id (Or.imp id Eq.symm))

end Sys2Proof.Machine

/-! PROOFS. Shedding: the resource that fails, the reservation that goes, and what is left (R253, R256). -/

namespace Sys2Proof.Machine

/-! ## The lowest resource that fails, and the victim -/

theorem foldl_min?_eq {f : Option Nat → Nat → Option Nat} (h0 : ∀ r, f none r = some r) (h1 : ∀ q r, f (some q) r = some (min q r)) (l : List Nat) :
    l.foldl f none = l.min? := by
  have hacc : ∀ (l : List Nat) (q : Nat), l.foldl f (some q) = some (l.foldl min q) := by
    intro l
    induction l with
    | nil => exact fun _ => rfl
    | cons r l ih => exact fun q => by rw [List.foldl_cons, h1, ih]; rfl
  cases l with
  | nil => rfl
  | cons r l => rw [List.foldl_cons, h0, hacc, List.min?_cons']

/-- The resources of a ledger that fail. -/
def Mach.failingOf (m : Mach) (l : List Resv) : List Nat := (l.map Resv.res).flatten.filter (fun r => !m.resMeets l r)

theorem Mach.failing_eq (m : Mach) : m.failing = (m.failingOf m.adm.led).min? := foldl_min?_eq (fun _ => rfl) (fun _ _ => rfl) _

theorem Mach.mem_failingOf {m : Mach} {l : List Resv} {r : Nat} : r ∈ m.failingOf l ↔ (∃ u ∈ l, r ∈ u.res) ∧ m.resMeets l r = false := by
  simp only [Mach.failingOf, List.mem_filter, List.mem_flatten, List.mem_map, Bool.not_eq_true', exists_exists_and_eq_and]

theorem Mach.failing_none {m : Mach} : m.failing = none ↔ ∀ u ∈ m.adm.led, ∀ r ∈ u.res, m.resMeets m.adm.led r = true := by
  rw [Mach.failing_eq, List.min?_eq_none_iff, List.eq_nil_iff_forall_not_mem]
  constructor
  · intro h u hu r hr
    exact Bool.not_eq_false _ ▸ fun hf => h r (Mach.mem_failingOf.2 ⟨⟨u, hu, hr⟩, hf⟩)
  · rintro h r hr
    obtain ⟨⟨u, hu, hur⟩, hf⟩ := Mach.mem_failingOf.1 hr
    exact Bool.noConfusion (hf.symm.trans (h u hu r hur))

theorem Mach.failing_some {m : Mach} {r : Nat} (h : m.failing = some r) : (∃ u ∈ m.adm.led, r ∈ u.res) ∧ m.resMeets m.adm.led r = false ∧
    ∀ u ∈ m.adm.led, ∀ q ∈ u.res, m.resMeets m.adm.led q = false → r ≤ q := by
  rw [Mach.failing_eq, List.min?_eq_some_iff] at h
  obtain ⟨hr, hmin⟩ := h
  obtain ⟨hu, hf⟩ := Mach.mem_failingOf.1 hr
  exact ⟨hu, hf, fun u hu q hq hqf => hmin q (Mach.mem_failingOf.2 ⟨⟨u, hu, hq⟩, hqf⟩)⟩

/-- `u` is not shed after `v` (R253). -/
def Resv.before (u v : Resv) : Prop := u.rank < v.rank ∨ (u.rank = v.rank ∧ u.age ≤ v.age)

theorem Resv.before_refl (u : Resv) : u.before u := .inr ⟨rfl, Nat.le_refl _⟩

theorem Resv.before_trans {u v w : Resv} (h : u.before v) (h' : v.before w) : u.before w := by
  unfold Resv.before at *
  omega

/-- The one of two that is shed first. -/
def Resv.worse (b : Option Resv) (v : Resv) : Option Resv :=
  match b with
  | none => some v
  | some u => if u.rank < v.rank ∨ (u.rank = v.rank ∧ u.age < v.age) then some v else b

/-- A choice made one by one among the members of a list. -/
theorem foldl_worse {l : List Resv} (hl : l ≠ []) : ∃ v ∈ l, l.foldl Resv.worse none = some v ∧ ∀ u ∈ l, u.before v := by
  have hacc : ∀ (l : List Resv) (q : Resv), ∃ v ∈ q :: l, l.foldl Resv.worse (some q) = some v ∧ ∀ u ∈ q :: l, u.before v := by
    intro l
    induction l with
    | nil => exact fun q => ⟨q, .head _, rfl, fun u hu => by rw [List.mem_singleton.1 hu]; exact q.before_refl⟩
    | cons r l ih =>
      intro q
      rw [List.foldl_cons, Resv.worse]
      split
      · next hlt =>
        obtain ⟨v, hv, he, hall⟩ := ih r
        have hqr : q.before r := by unfold Resv.before; omega
        exact ⟨v, .tail _ hv, he, fun u hu => (List.mem_cons.1 hu).elim (fun h => h ▸ Resv.before_trans hqr (hall r (.head _))) (hall u)⟩
      · next hge =>
        obtain ⟨v, hv, he, hall⟩ := ih q
        have hrq : r.before q := by unfold Resv.before; omega
        have hmem : v ∈ q :: r :: l := (List.mem_cons.1 hv).elim (fun h => h ▸ .head _) (fun h => .tail _ (.tail _ h))
        refine ⟨v, hmem, he, fun u hu => ?_⟩
        rcases List.mem_cons.1 hu with h | h
        · exact h ▸ hall q (.head _)
        · exact (List.mem_cons.1 h).elim (fun h => h ▸ Resv.before_trans hrq (hall q (.head _))) (fun h => hall u (.tail _ h))
  cases l with
  | nil => exact absurd rfl hl
  | cons r l => exact hacc l r

theorem Adm.victim_some {a : Adm} {r : Nat} (h : ∃ u ∈ a.led, r ∈ u.res) :
    ∃ v ∈ a.led, a.victim r = some v ∧ r ∈ v.res ∧ ∀ u ∈ a.led, r ∈ u.res → u.before v := by
  obtain ⟨u, hu, hr⟩ := h
  have hmem {v : Resv} : v ∈ a.led.filter (fun v => v.res.contains r) ↔ v ∈ a.led ∧ r ∈ v.res := by
    rw [List.mem_filter, List.contains_iff_mem]
  obtain ⟨v, hv, he, hall⟩ := foldl_worse (List.ne_nil_of_mem (hmem.2 ⟨hu, hr⟩))
  exact ⟨v, (hmem.1 hv).1, he, (hmem.1 hv).2, fun u hu hr => hall u (hmem.2 ⟨hu, hr⟩)⟩

/-! ## One reservation goes -/

/-- The record of a breach (R256). -/
def breachWord (us : Nat) (p : Nat × Resv) : Word :=
  mkf 64 63 1 1 ||| mkf 64 51 12 p.1 ||| mkf 64 49 2 p.2.tc ||| mkf 64 47 2 p.2.rlvl ||| mkf 64 37 10 p.2.ep ||| mkf 64 31 6 p.2.shp |||
    mkf 64 15 16 p.2.flow.toNat ||| mkf 64 0 15 us

/-- The machine without the reservation (R253). -/
def Mach.unreserved (m : Mach) (v : Resv) : Mach := { m with adm := { m.adm with led := m.adm.led.filter (fun u => u.age ≠ v.age) } }

/-- The machine with the breach recorded (R256). -/
def Mach.breached (m : Mach) (p : Nat × Resv) : Mach :=
  let t := m.unreserved p.2
  if t.adm.brq.length < 64 then { t with adm := { t.adm with brq := t.adm.brq ++ [breachWord m.ftUs p] } } else t.orReg 0x208 (2 ^ 32)

/-- The shaper becomes STANDARD with RATE 0 at the next tick (R253). -/
def Mach.demotes (m : Mach) (v : Resv) : Mach := m.setPend v.ep v.shp (fun s => { s with demoted := true, pend := some (1, 0, s.next.2.2) })

/-- The mark and the events of a shed reservation (R255, R329, R451). -/
def Mach.shedTold (m : Mach) (v : Resv) (r : Nat) : Mach :=
  let t := if m.domLive (epTile v.ep) then m.orReg (aSch v.ep 0x20) (2 ^ 3) else m
  (t.postEvt 0 7 0 r t.adm.brq.length).occur 9 0 7 r 0 1

theorem Mach.shed_eq (m : Mach) (v : Resv) (r : Nat) :
    m.shed v r = (((m.breached (r, v)).addFld 0x208 48 16 1).demotes v).shedTold v r := by
  unfold Mach.shed Mach.breached Mach.demotes Mach.shedTold Mach.unreserved breachWord
  rfl

/-- The registers of the mark and the events. -/
def toldReg (a : Nat) : Prop := (∃ n, a = aSch n 0x20) ∨ a = aEng 0 0x58 ∨ a = aEng 0 0

theorem Mach.shedTold_keeps {γ : Type} {π : Mach → γ} (heng : ∀ (m : Mach) f, π (m.modEng 0 f) = π m) (hflt : ∀ (m : Mach) f, π (m.modFlt f) = π m)
    (hreg : ∀ (m : Mach) a w, toldReg a → π (m.setReg a w) = π m) (m : Mach) (v : Resv) (r : Nat) : π (m.shedTold v r) = π m := by
  unfold Mach.shedTold
  dsimp only
  rw [Mach.occur_leaves _ _ _ _ _ _ _ hflt, Mach.postEvt_leaves _ _ _ _ _ _ heng (fun _ _ _ h => hreg _ _ _ (.inr h))]
  split
  · exact hreg _ _ _ (.inl ⟨v.ep, rfl⟩)
  · rfl

theorem Mach.demotes_keeps {γ : Type} {π : Mach → γ} (hniu : ∀ (m : Mach) n f, π (m.modNiu n f) = π m) (m : Mach) (v : Resv) : π (m.demotes v) = π m :=
  Mach.setPend_leaves _ _ _ _ hniu

theorem Mach.breached_keeps {γ : Type} {π : Mach → γ} (hadm : ∀ (m : Mach) a, π { m with adm := a } = π m)
    (hreg : ∀ (m : Mach) w, π (m.setReg 0x208 w) = π m) (m : Mach) (p : Nat × Resv) : π (m.breached p) = π m := by
  unfold Mach.breached
  dsimp only
  split
  · exact (hadm (m.unreserved p.2) _).trans (hadm _ _)
  · exact (hreg _ _).trans (hadm _ _)

theorem ne_of_toldReg {a : Nat} (h : toldReg a) : a ≠ 0x208 ∧ a ≠ 0x200 ∧ a ≠ 0x80010 := by
  rcases h with ⟨n, h⟩ | h | h
  · unfold aSch at h; split at h <;> omega
  · unfold aEng at h; omega
  · unfold aEng at h; omega

theorem Mach.resMeets_setReg (m : Mach) {a : Nat} (h1 : a ≠ 0x200) (h2 : a ≠ 0x80010) (w : Word) : (m.setReg a w).resMeets = m.resMeets := by
  unfold Mach.resMeets Mach.capacity Mach.spResvd Mach.fld
  rw [Mach.reg_setReg_ne _ _ (Ne.symm h1), Mach.reg_setReg_ne _ _ (Ne.symm h2)]
  rfl

section
variable (m : Mach) (v : Resv) (r : Nat)

theorem Mach.resMeets_shed : (m.shed v r).resMeets = m.resMeets := by
  refine Mach.shed_leaves (fun _ _ => rfl) (fun _ _ _ => rfl) (fun _ _ => rfl) (fun _ _ => rfl) (fun m a w h => m.resMeets_setReg ?_ ?_ w) m v r
  · exact h.elim (fun h => h ▸ (by decide)) (fun h => (ne_of_toldReg h).2.1)
  · exact h.elim (fun h => h ▸ (by decide)) (fun h => (ne_of_toldReg h).2.2)

theorem Mach.ftUs_shed : (m.shed v r).ftUs = m.ftUs :=
  Mach.shed_leaves (π := fun m => m.ftUs) (fun _ _ => rfl) (fun _ _ _ => rfl) (fun _ _ => rfl) (fun _ _ => rfl) (fun _ _ _ _ => rfl) m v r

theorem Mach.domLive_shed (d : Nat) : (m.shed v r).domLive d = m.domLive d :=
  Mach.shed_leaves (π := fun m => m.domLive d) (fun _ _ => rfl) (fun _ _ _ => rfl) (fun _ _ => rfl) (fun _ _ => rfl) (fun _ _ _ _ => rfl) m v r

theorem Mach.adm_shed : (m.shed v r).adm = (m.breached (r, v)).adm := by
  rw [Mach.shed_eq, Mach.shedTold_keeps (π := fun m => m.adm) (fun _ _ => rfl) (fun _ _ => rfl) (fun _ _ _ _ => rfl),
    Mach.demotes_keeps (π := fun m => m.adm) (fun _ _ _ => rfl)]
  rfl

theorem Mach.led_shed : (m.shed v r).adm.led = m.adm.led.filter (fun u => u.age ≠ v.age) := by
  rw [Mach.adm_shed]
  unfold Mach.breached
  dsimp only
  split <;> rfl

theorem Mach.brq_shed : (m.shed v r).adm.brq = if m.adm.brq.length < 64 then m.adm.brq ++ [breachWord m.ftUs (r, v)] else m.adm.brq := by
  rw [Mach.adm_shed]
  unfold Mach.breached
  change (if m.adm.brq.length < 64 then _ else (m.unreserved v).orReg 0x208 (2 ^ 32) : Mach).adm.brq = _
  split <;> rfl

theorem Mach.reg_shed : (m.shed v r).reg 0x208 = ((m.breached (r, v)).addFld 0x208 48 16 1).reg 0x208 := by
  rw [Mach.shed_eq, Mach.shedTold_keeps (π := fun m => m.reg 0x208) (fun _ _ => rfl) (fun _ _ => rfl)
    (fun m a w h => m.reg_setReg_ne w (ne_of_toldReg h).1.symm), Mach.demotes_keeps (π := fun m => m.reg 0x208) (fun _ _ _ => rfl)]

theorem Mach.reg_breached (p : Nat × Resv) : (m.breached p).reg 0x208 =
    if m.adm.brq.length < 64 then m.reg 0x208 else m.reg 0x208 ||| BitVec.ofNat 64 (2 ^ 32) := by
  unfold Mach.breached
  change (if m.adm.brq.length < 64 then _ else (m.unreserved p.2).orReg 0x208 (2 ^ 32) : Mach).reg 0x208 = _
  split
  · rfl
  · exact Mach.reg_setReg _ _ _

theorem Mach.count_shed : (m.shed v r).fld 0x208 48 16 = min 65535 (m.fld 0x208 48 16 + 1) := by
  have hb : (m.breached (r, v)).fld 0x208 48 16 = m.fld 0x208 48 16 := by
    rw [Mach.fld, Mach.reg_breached]
    split
    · rfl
    · rw [bf_or, show bf (BitVec.ofNat 64 (2 ^ 32)) 48 16 = 0 by decide, Nat.or_zero]
      rfl
  rw [Mach.fld, Mach.reg_shed, ← Mach.fld, Mach.fld_addFld _ _ (by decide), hb, Nat.min_comm, show 2 ^ 16 - 1 = 65535 from rfl]

theorem Mach.lost_shed : bt ((m.shed v r).reg 0x208) 32 = (bt (m.reg 0x208) 32 || decide (64 ≤ m.adm.brq.length)) := by
  rw [Mach.reg_shed, Mach.addFld, Mach.setFld, Mach.reg_setReg, bt_sf_ne _ (by decide) _ (by decide), Mach.reg_breached]
  split
  · next h => rw [decide_eq_false (by omega), Bool.or_false]
  · next h => rw [decide_eq_true (by omega), bt_or]; rfl

end

/-- A shaper that is to become STANDARD with RATE 0, DEMOTED (R253). -/
def Shaper.Demoted (x : Shaper) : Prop := x.demoted = true ∧ x.pend.map (fun q => (q.1, q.2.1)) = some (1, 0)

theorem Mach.niu_shed (m : Mach) (v : Resv) (r n : Nat) : (m.shed v r).niu n = (m.demotes v).niu n := by
  rw [Mach.shed_eq, Mach.shedTold_keeps (π := fun m => m.niu n) (fun _ _ => rfl) (fun _ _ => rfl) (fun _ _ _ _ => rfl)]
  have hn (a b : Mach) (ha : a.nius = b.nius) (hp : a.pwr = b.pwr) : (a.demotes v).niu n = (b.demotes v).niu n := by
    unfold Mach.demotes Mach.setPend Mach.domLive Mach.dom
    rw [hp]
    split
    · unfold Mach.modNiu Mach.niu
      rw [ha]
    · unfold Mach.niu
      rw [ha]
  have hkeeps {γ : Type} (π : Mach → γ) (hadm : ∀ (m : Mach) a, π { m with adm := a } = π m) (hreg : ∀ (m : Mach) w, π (m.setReg 0x208 w) = π m) :
      π ((m.breached (r, v)).addFld 0x208 48 16 1) = π m := (hreg _ _).trans (Mach.breached_keeps hadm hreg m (r, v))
  exact hn _ _ (hkeeps (fun m => m.nius) (fun _ _ => rfl) (fun _ _ => rfl)) (hkeeps (fun m => m.pwr) (fun _ _ => rfl) (fun _ _ => rfl))

theorem Niu.shaper_modShp (x : Niu) (n k : Nat) (f : Shaper → Shaper) : (x.modShp n k f).shaper n k = f (x.shaper n k) := Tab.get_upd _ _ _

theorem Niu.shaper_modShp_ne (x : Niu) (n : Nat) {k i : Nat} (h : i ≠ k) (f : Shaper → Shaper) : (x.modShp n k f).shaper n i = x.shaper n i :=
  Tab.get_upd_ne _ _ h

theorem Mach.shaper_demotes {m : Mach} {v : Resv} (hl : m.domLive (epTile v.ep) = true) : ((m.demotes v).niu v.ep).shaper v.ep v.shp =
    { (m.niu v.ep).shaper v.ep v.shp with demoted := true, pend := some (1, 0, ((m.niu v.ep).shaper v.ep v.shp).next.2.2) } := by
  unfold Mach.demotes Mach.setPend
  rw [if_pos hl, Mach.niu_modNiu, Niu.shaper_modShp]

theorem Mach.demoted_shed {m : Mach} {v : Resv} (hl : m.domLive (epTile v.ep) = true) (r : Nat) :
    (((m.shed v r).niu v.ep).shaper v.ep v.shp).Demoted := by
  rw [Mach.niu_shed, Mach.shaper_demotes hl]
  exact ⟨rfl, rfl⟩

/-- A shaper that is DEMOTED stays so. -/
theorem Mach.demoted_shed_of {m : Mach} {n k : Nat} (h : ((m.niu n).shaper n k).Demoted) (v : Resv) (r : Nat) :
    (((m.shed v r).niu n).shaper n k).Demoted := by
  rw [Mach.niu_shed]
  unfold Mach.demotes Mach.setPend
  split
  · by_cases hn : n = v.ep
    · subst hn
      rw [Mach.niu_modNiu]
      by_cases hk : k = v.shp
      · subst hk
        rw [Niu.shaper_modShp]
        exact ⟨rfl, rfl⟩
      · rwa [Niu.shaper_modShp_ne _ _ hk]
    · rwa [Mach.niu_modNiu_ne _ _ hn]
  · exact h

/-! ## The recheck -/

/-- What a list of reservations leaves of a ledger. -/
def ledgerLeft (led : List Resv) (l : List (Nat × Resv)) : List Resv := led.filter (fun u => l.all (fun p => decide (p.2.age ≠ u.age)))

/-- The reservation that goes next of those that a ledger has (R253). -/
def Mach.ShedNext (m : Mach) (had : List Resv) (p : Nat × Resv) : Prop :=
  p.2 ∈ had ∧ p.1 ∈ p.2.res ∧ m.resMeets had p.1 = false ∧ (∀ u ∈ had, ∀ q ∈ u.res, m.resMeets had q = false → p.1 ≤ q) ∧
    ∀ u ∈ had, p.1 ∈ u.res → u.before p.2

/-- What the recheck leaves that has shed the reservations `l` one after the other (R253, R256). -/
structure Mach.Sheds (m t : Mach) (l : List (Nat × Resv)) : Prop where
  order   : ∀ i p, l[i]? = some p → m.ShedNext (ledgerLeft m.adm.led (l.take i)) p
  led     : t.adm.led = ledgerLeft m.adm.led l
  meets   : ∀ u ∈ t.adm.led, ∀ q ∈ u.res, m.resMeets t.adm.led q = true
  failing : t.failing = none
  brq     : t.adm.brq = m.adm.brq ++ (l.map (breachWord m.ftUs)).take (64 - m.adm.brq.length)
  lost    : bt (t.reg 0x208) 32 = (bt (m.reg 0x208) 32 || decide (64 < m.adm.brq.length + l.length ∧ l ≠ []))
  count   : t.fld 0x208 48 16 = min 65535 (m.fld 0x208 48 16 + l.length)
  keeps   : ∀ n k, ((m.niu n).shaper n k).Demoted → ((t.niu n).shaper n k).Demoted
  demoted : ∀ p ∈ l, m.domLive (epTile p.2.ep) = true → ((t.niu p.2.ep).shaper p.2.ep p.2.shp).Demoted

theorem ledgerLeft_nil (led : List Resv) : ledgerLeft led [] = led := List.filter_eq_self.2 (fun _ _ => rfl)

theorem ledgerLeft_cons (led : List Resv) (p : Nat × Resv) (l : List (Nat × Resv)) :
    ledgerLeft led (p :: l) = ledgerLeft (led.filter (fun u => u.age ≠ p.2.age)) l := by
  unfold ledgerLeft
  rw [List.filter_filter]
  refine List.filter_congr (fun u _ => ?_)
  rw [List.all_cons, Bool.and_comm]
  congr 1
  exact decide_eq_decide.2 ne_comm

theorem Mach.Sheds.refl {m : Mach} (h : m.failing = none) : m.Sheds m [] where
  order := fun i p hp => by rw [List.getElem?_nil] at hp; exact nomatch hp
  led := (ledgerLeft_nil _).symm
  meets := Mach.failing_none.1 h
  failing := h
  brq := by rw [List.map_nil, List.take_nil, List.append_nil]
  lost := by rw [decide_eq_false (fun h => h.2 rfl), Bool.or_false]
  count := by
    have := bf_lt (m.reg 0x208) 48 16
    rw [Mach.fld, List.length_nil]
    omega
  keeps := fun _ _ h => h
  demoted := fun p hp => nomatch hp

theorem Mach.Sheds.cons {m t : Mach} {v : Resv} {r : Nat} {l : List (Nat × Resv)} (hn : m.ShedNext m.adm.led (r, v))
    (h : (m.shed v r).Sheds t l) : m.Sheds t ((r, v) :: l) where
  order := by
    intro i p hp
    cases i with
    | zero =>
      rw [List.getElem?_cons_zero, Option.some.injEq] at hp
      subst hp
      rw [List.take_zero, ledgerLeft_nil]
      exact hn
    | succ i =>
      have ho := h.order i p (by rwa [List.getElem?_cons_succ] at hp)
      rw [List.take_succ_cons, ledgerLeft_cons]
      unfold Mach.ShedNext at ho ⊢
      rwa [Mach.resMeets_shed, Mach.led_shed] at ho
  led := by rw [h.led, ledgerLeft_cons, Mach.led_shed]
  meets := by
    have := h.meets
    rwa [Mach.resMeets_shed] at this
  failing := h.failing
  brq := by
    rw [h.brq, Mach.brq_shed, Mach.ftUs_shed]
    split
    · next hlt =>
      obtain ⟨d, hd⟩ : ∃ d, 64 - m.adm.brq.length = d + 1 := ⟨63 - m.adm.brq.length, by omega⟩
      have hd' : 64 - (m.adm.brq ++ [breachWord m.ftUs (r, v)]).length = d := by rw [List.length_append, List.length_singleton]; omega
      rw [hd, hd', List.map_cons, List.take_succ_cons, List.append_assoc, List.singleton_append]
    · next hge => rw [show 64 - m.adm.brq.length = 0 by omega, List.take_zero, List.take_zero]
  lost := by
    rw [h.lost, Mach.lost_shed, Mach.brq_shed, Bool.or_assoc]
    congr 1
    rw [← Bool.decide_or]
    refine decide_eq_decide.2 ?_
    have hl : l ≠ [] ↔ 0 < l.length := List.length_pos_iff.symm
    rw [hl, List.length_cons]
    split
    · rw [List.length_append, List.length_singleton]
      simp only [ne_eq, reduceCtorEq, not_false_eq_true, and_true]
      omega
    · simp only [ne_eq, reduceCtorEq, not_false_eq_true, and_true]
      omega
  count := by
    rw [h.count, Mach.count_shed, List.length_cons]
    omega
  keeps := fun n k hd => h.keeps n k (Mach.demoted_shed_of hd v r)
  demoted := by
    intro p hp hl
    rcases List.mem_cons.1 hp with rfl | hp
    · exact h.keeps _ _ (Mach.demoted_shed hl r)
    · exact h.demoted p hp (by rw [Mach.domLive_shed]; exact hl)

/-- Each reservation that goes shortens the ledger, so that the recheck ends with no resource failing (R253). -/
theorem Mach.recheck_sheds (k : Nat) (m : Mach) (hk : m.adm.led.length ≤ k) : ∃ l, m.Sheds (m.recheck k) l := by
  induction k generalizing m with
  | zero =>
    refine ⟨[], Mach.Sheds.refl (Mach.failing_none.2 (fun u hu => ?_))⟩
    rw [List.eq_nil_of_length_eq_zero (Nat.le_zero.1 hk)] at hu
    exact nomatch hu
  | succ k ih =>
    unfold Mach.recheck
    cases hf : m.failing with
    | none => exact ⟨[], Mach.Sheds.refl hf⟩
    | some r =>
      obtain ⟨hu, hr, hmin⟩ := Mach.failing_some hf
      obtain ⟨v, hv, he, hrv, hall⟩ := Adm.victim_some hu
      dsimp only
      rw [he]
      have hlt : (m.shed v r).adm.led.length < m.adm.led.length := by
        rw [Mach.led_shed]
        exact List.length_filter_lt_length_iff_exists.2 ⟨v, hv, by simp⟩
      obtain ⟨l, hl⟩ := ih (m.shed v r) (by omega)
      exact ⟨(r, v) :: l, hl.cons ⟨hv, hrv, hr, hmin, hall⟩⟩

end Sys2Proof.Machine

/-! PROOFS. ADM.RESV, ADM.FREE and the recheck (O34). -/

namespace Sys2Proof.Machine

theorem Mach.recheck_calm {m : Mach} (h : m.failing = none) (k : Nat) : m.recheck k = m := by
  cases k with
  | zero => rfl
  | succ k => rw [Mach.recheck, h]

theorem exec_admissionRecheck {s : State} (hs : s.m.test.scan = false) : exec .admissionRecheck s = .next { s with m := s.m.recheck 1024 } := by
  change execAdmissionRecheck s = _
  rw [execAdmissionRecheck, State.on_eq hs]

/-! ## ADM.RESV -/

/-- A reservation as it would stand in the ledger, in place of one that its shaper has (R251). -/
def Adm.dated (a : Adm) (v : Resv) : Resv := { v with age := ((a.find v.ep v.shp).map Resv.age).getD a.age }

/-- The ledger without what the shaper has. -/
def Adm.without (a : Adm) (ep shp : Nat) : List Resv := a.led.filter (fun u => !(u.ep == ep && u.shp == shp))

/-- The ledger with a reservation recorded (R251). -/
def Adm.reserve (a : Adm) (v : Resv) : Adm :=
  { a with led := a.without v.ep v.shp ++ [a.dated v], age := a.age + (if (a.find v.ep v.shp).isSome then 0 else 1) }

/-- ADM.RESV with its reservation, once the descriptor is read (R251). -/
def Mach.resvTakes (m : Mach) (e : Nat) (w : Word) (v : Resv) (n : Nat) : Mach :=
  if m.resvRange v n then m.endStatus e 3 []
  else match m.resvFails (m.adm.dated v) (m.adm.without v.ep v.shp ++ [m.adm.dated v]) with
    | some r => m.endStatus e 6 [(wD w, BitVec.ofNat 64 r)]
    | none =>
      if !m.hasSpine && v.res.any (fun r => decide (1024 ≤ r)) then m.endStatus e 2 []
      else if m.shedding then m.endStatus e 5 []
      else (({ m with adm := m.adm.reserve v } : Mach).setPend v.ep v.shp (fun s => { s with demoted := false, pend := some (2, v.rate, v.burst) })).done e 0 []

theorem exec_admResv (e : EngId) (s : State) : exec (.admResv e) s = s.on (fun m => m.issue e 0x85 anyWord (fun w m =>
    m.status e false (decide ((e : Nat) = 0)) false (fun t =>
      t.sadr e w (2 + (min 64 (m.resvDesc e w).2 + 3) / 4) (fun t => t.resvTakes e w (m.resvDesc e w).1 (m.resvDesc e w).2)))) := by
  change execAdmResv e s = _
  unfold execAdmResv Mach.resvTakes Adm.reserve
  rfl

section
variable {γ : Type} {π : Mach → γ} {e : Nat} (hreg : ∀ (m : Mach) w, π (m.setReg (aEng e 0) w) = π m)
include hreg

theorem Mach.readSram_keeps (m : Mach) (a : Nat) : π (m.readSram e a) = π m := by
  unfold Mach.readSram
  split
  · exact hreg _ _
  · rfl

theorem Mach.readWords_keeps (m : Mach) (a n : Nat) : π (m.readWords e a n) = π m :=
  foldl_keeps π _ _ _ (fun m _ => Mach.readSram_keeps hreg m _)

theorem Mach.readPc_keeps (m : Mach) : π (m.readPc e) = π m := by
  unfold Mach.readPc
  split
  · rfl
  · exact Mach.readSram_keeps hreg m _

theorem Mach.issued_keeps (heng : ∀ (m : Mach) f, π (m.modEng e f) = π m) (m : Mach) (w : Word) : π (m.issued e w) = π m :=
  (heng _ _).trans (Mach.readPc_keeps hreg m)
end

/-- The machine in which a descriptor of the master's has been read. -/
def Mach.descRead (m : Mach) (w : Word) (k : Nat) : Mach := (m.issued 0 w).readWords 0 (wSadr w) k

theorem Mach.descRead_keeps {γ : Type} {π : Mach → γ} (hreg : ∀ (m : Mach) w, π (m.setReg (aEng 0 0) w) = π m)
    (heng : ∀ (m : Mach) f, π (m.modEng 0 f) = π m) (m : Mach) (w : Word) (k : Nat) : π (m.descRead w k) = π m :=
  (Mach.readWords_keeps hreg _ _ _).trans (Mach.issued_keeps hreg heng m w)

theorem Mach.failing_congr {a m : Mach} (hr : a.resMeets = m.resMeets) (ha : a.adm = m.adm) : a.failing = m.failing := by
  rw [Mach.failing_eq, Mach.failing_eq, ha]
  unfold Mach.failingOf
  rw [hr]

theorem Mach.resMeets_aEng (m : Mach) (w : Word) : (m.setReg (aEng 0 0) w).resMeets = m.resMeets :=
  m.resMeets_setReg (by decide) (by decide) w

section
variable (m : Mach) (w : Word) (k : Nat)

theorem Mach.adm_descRead : (m.descRead w k).adm = m.adm := Mach.descRead_keeps (π := fun m => m.adm) (fun _ _ => rfl) (fun _ _ => rfl) m w k

theorem Mach.resMeets_descRead : (m.descRead w k).resMeets = m.resMeets :=
  Mach.descRead_keeps (π := fun m => m.resMeets) Mach.resMeets_aEng (fun _ _ => rfl) m w k

theorem Mach.hasSpine_descRead : (m.descRead w k).hasSpine = m.hasSpine :=
  Mach.descRead_keeps (π := fun m => m.hasSpine) (fun _ _ => rfl) (fun _ _ => rfl) m w k

theorem Mach.domLive_descRead (d : Nat) : (m.descRead w k).domLive d = m.domLive d :=
  Mach.descRead_keeps (π := fun m => m.domLive d) (fun _ _ => rfl) (fun _ _ => rfl) m w k

theorem Mach.failing_descRead : (m.descRead w k).failing = m.failing :=
  Mach.failing_congr (m.resMeets_descRead w k) (m.adm_descRead w k)

theorem Mach.resvRange_descRead (v : Resv) (n : Nat) : (m.descRead w k).resvRange v n = m.resvRange v n :=
  Mach.descRead_keeps (π := fun m => m.resvRange v n) (fun _ _ => rfl) (fun _ _ => rfl) m w k

theorem Mach.resvFails_descRead (v : Resv) (led : List Resv) : (m.descRead w k).resvFails v led = m.resvFails v led := by
  unfold Mach.resvFails
  rw [Mach.resMeets_descRead, Mach.hasSpine_descRead]
end

/-! ## What the ledger answers -/

section
variable {m : Mach} {v : Resv} {led : List Resv}

theorem Mach.resvFails_none (h : ∀ r ∈ v.res, m.hasSpine = true ∨ r < 1024 → m.resMeets led r = true) : m.resvFails v led = none := by
  unfold Mach.resvFails
  rw [List.find?_eq_none]
  intro r hr hb
  obtain ⟨hp, hf⟩ := Bool.and_eq_true_iff.1 hb
  rw [h r hr ((Bool.or_eq_true_iff.1 hp).imp id of_decide_eq_true)] at hf
  exact nomatch hf

theorem Mach.resvFails_some {i r : Nat} (hi : v.res[i]? = some r) (hp : m.hasSpine = true ∨ r < 1024) (hf : m.resMeets led r = false)
    (hbefore : ∀ j, j < i → ∀ q, v.res[j]? = some q → m.hasSpine = true ∨ q < 1024 → m.resMeets led q = true) : m.resvFails v led = some r := by
  unfold Mach.resvFails
  obtain ⟨hlt, hget⟩ := List.getElem?_eq_some_iff.1 hi
  rw [List.find?_eq_some_iff_getElem]
  refine ⟨by rw [hf, Bool.and_eq_true, Bool.or_eq_true, decide_eq_true_eq]; exact ⟨hp, rfl⟩, i, hlt, hget, fun j hj => ?_⟩
  have hj' : j < v.res.length := by omega
  rw [Bool.not_eq_true']
  refine Bool.eq_false_iff.2 (fun hb => ?_)
  obtain ⟨hq, hm⟩ := Bool.and_eq_true_iff.1 hb
  rw [hbefore j hj _ (List.getElem?_eq_getElem hj') ((Bool.or_eq_true_iff.1 hq).imp id of_decide_eq_true)] at hm
  exact nomatch hm

theorem resv_present (h : ∀ r ∈ v.res, m.hasSpine = true ∨ r < 1024) : (!m.hasSpine && v.res.any (fun r => decide (1024 ≤ r))) = false := by
  cases hs : m.hasSpine with
  | true => rfl
  | false =>
    rw [Bool.not_false, Bool.true_and, List.any_eq_false]
    intro r hr
    have := (h r hr).resolve_left (by rw [hs]; exact Bool.false_ne_true)
    rw [decide_eq_true_eq]
    omega

theorem resv_absent {r : Nat} (hr : r ∈ v.res) (h : ¬ (m.hasSpine = true ∨ r < 1024)) :
    (!m.hasSpine && v.res.any (fun r => decide (1024 ≤ r))) = true := by
  rw [not_or, Bool.not_eq_true, Nat.not_lt] at h
  rw [h.1, Bool.not_false, Bool.true_and]
  exact List.any_eq_true.2 ⟨r, hr, decide_eq_true h.2⟩

end

theorem Mach.Like.setAdm {a m : Mach} (h : a.Like m) (x : Adm) : ({ a with adm := x } : Mach).Like { m with adm := x } :=
  { h with bare := congrArg (fun b : Mach => { b with adm := x }) h.bare }

theorem Mach.LikeAt.setAdm {a m : Mach} {e : Nat} {y : Eng} (h : a.LikeAt e y m) (x : Adm) :
    ({ a with adm := x } : Mach).LikeAt e y { m with adm := x } := Mach.Like.setAdm h x

theorem Mach.resvDesc_issued (m : Mach) (e : Nat) (w : Word) : (m.issued e w).resvDesc e w = m.resvDesc e w := by
  unfold Mach.resvDesc
  rw [Mach.descWord_issued]
  rfl

/-- ADM.RESV on the master with an aligned descriptor. -/
theorem exec_admResv_read {s : State} {w : Word} {v : Resv} {n : Nat} (h : Issues s 0 w 0x85) (hal : bf w 24 16 % 8 = 0)
    (hd : s.m.resvDesc 0 w = (v, n)) :
    exec (.admResv 0) s = .next { s with m := (s.m.descRead w (2 + (min 64 n + 3) / 4)).resvTakes 0 w v n } := by
  have hx := exec_issue (exec_admResv 0 s) h
  have hd' : (s.m.issued 0 w).resvDesc 0 w = (v, n) := (s.m.resvDesc_issued 0 w).trans hd
  rw [show ((0 : EngId).val) = 0 from rfl, hd', decide_eq_true rfl, Mach.status_free, Mach.sadr,
    if_neg (not_not_intro (show wSadr w % 8 = 0 from hal))] at hx
  exact hx

theorem Mach.endStatus_descRead (m : Mach) (w : Word) (k st : Nat) (wr : List (Nat × Word)) :
    ((m.descRead w k).endStatus 0 st wr).Like ((((m.readPc 0).readWords 0 (wSadr w) k).modEng 0 (fun x => { x with insn := w })).endStatus 0 st wr) :=
  (m.issued_readWords_like 0 w (wSadr w) k).endStatus 0 st wr

theorem Mach.resvTakes_fails {m : Mach} {w : Word} {v : Resv} {n r : Nat} (hr : m.resvRange v n = false)
    (hf : m.resvFails (m.adm.dated v) (m.adm.without v.ep v.shp ++ [m.adm.dated v]) = some r) :
    m.resvTakes 0 w v n = m.endStatus 0 6 [(wD w, BitVec.ofNat 64 r)] := by
  unfold Mach.resvTakes
  rw [hr, if_neg Bool.false_ne_true, hf]

theorem Mach.resvTakes_meets {m : Mach} {w : Word} {v : Resv} {n : Nat} (hr : m.resvRange v n = false)
    (hf : m.resvFails (m.adm.dated v) (m.adm.without v.ep v.shp ++ [m.adm.dated v]) = none) :
    m.resvTakes 0 w v n = if !m.hasSpine && v.res.any (fun r => decide (1024 ≤ r)) then m.endStatus 0 2 []
      else if m.shedding then m.endStatus 0 5 []
      else (({ m with adm := m.adm.reserve v } : Mach).setPend v.ep v.shp (fun s => { s with demoted := false, pend := some (2, v.rate, v.burst) })).done 0 0 [] := by
  unfold Mach.resvTakes
  rw [hr, if_neg Bool.false_ne_true, hf]

theorem Mach.setPend_live {m : Mach} {n : Nat} (h : m.domLive (epTile n) = true) (a : Adm) (k : Nat) (f : Shaper → Shaper) :
    ({ m with adm := a } : Mach).setPend n k f = ({ m with adm := a } : Mach).modNiu n (fun y => y.modShp n k f) := if_pos h

/-! ## ADM.FREE -/

/-- ADM.FREE of the shaper named. -/
def Mach.admFrees (m : Mach) (ep k : Nat) : Mach :=
  if (m.adm.find ep k).isNone then m.endStatus 0 1 []
  else if m.shedding then m.endStatus 0 5 []
  else (({ m with adm := { m.adm with led := m.adm.without ep k } } : Mach).setPend ep k (fun s => { s with pend := some (1, s.next.2.1, s.next.2.2) })).done 0 0 []

theorem exec_admFree {s : State} {w : Word} {ep k : Nat} (h : Issues s 0 w 0x86) (hv : ((s.m.eng 0).reg (wA w)).toNat = ep * 2 ^ 48 + k)
    (he : ep < 516) (hk : k < 64) : exec (.admFree 0) s = .next { s with m := (s.m.issued 0 w).admFrees ep k } := by
  have hx := exec_issue (i := .admFree 0) (e := 0) rfl h
  have hv' : (((s.m.issued 0 w).eng 0).reg (wA w)).toNat = ep * 2 ^ 48 + k := by rw [Mach.reg_eng_issued]; exact hv
  rw [show ((0 : EngId).val) = 0 from rfl, decide_eq_true rfl, Mach.status_free, selShaper_some hv' he hk] at hx
  exact hx

theorem Adm.find_some {a : Adm} {ep k : Nat} {u : Resv} (hu : u ∈ a.led) (he : u.ep = ep) (hk : u.shp = k) : (a.find ep k).isNone = false := by
  rw [Adm.find, Option.isNone_eq_false_iff, List.find?_isSome]
  exact ⟨u, hu, by rw [he, hk, beq_self_eq_true, beq_self_eq_true]; rfl⟩

theorem Mach.shedding_of {m : Mach} (h : m.failing = none) : m.shedding = false := by rw [Mach.shedding, h]; rfl

theorem Mach.shedding_of_ne {m : Mach} (h : m.failing ≠ none) : m.shedding = true := by
  rw [Mach.shedding]
  exact Option.isSome_iff_ne_none.2 h

theorem Mach.failing_issued (m : Mach) (w : Word) : (m.issued 0 w).failing = m.failing :=
  Mach.failing_congr (Mach.issued_keeps (π := fun m => m.resMeets) Mach.resMeets_aEng (fun _ _ => rfl) m w) (m.adm_issued 0 w)

/-- Settles O34: ADM.RESV by what it refuses, in the order of R251; the recheck sheds one reservation after the other. -/
theorem admission : Obligations.Admission := by
  refine ⟨fun s w v n => ?_, fun s => ?_, fun s v r hs hled hres hfail hbrq hep hl => ?_⟩
  · intro x adm led fresh old v' present meets asks gone read calm
    have hdated : (s.m.descRead w (2 + (min 64 n + 3) / 4)).adm.dated v = v' := by rw [Mach.adm_descRead]; rfl
    have hwithout : (s.m.descRead w (2 + (min 64 n + 3) / 4)).adm.without v.ep v.shp = led := by rw [Mach.adm_descRead]; rfl
    have hfails (o : Option Nat) (h : s.m.resvFails v' (led ++ [v']) = o) : (s.m.descRead w (2 + (min 64 n + 3) / 4)).resvFails
        ((s.m.descRead w (2 + (min 64 n + 3) / 4)).adm.dated v)
        ((s.m.descRead w (2 + (min 64 n + 3) / 4)).adm.without v.ep v.shp ++ [(s.m.descRead w (2 + (min 64 n + 3) / 4)).adm.dated v]) = o := by
      rw [hdated, hwithout, Mach.resvFails_descRead]
      exact h
    have hrng (h : s.m.resvRange v n = false) : (s.m.descRead w (2 + (min 64 n + 3) / 4)).resvRange v n = false := by
      rw [Mach.resvRange_descRead]; exact h
    have hsp : (s.m.descRead w (2 + (min 64 n + 3) / 4)).hasSpine = s.m.hasSpine := s.m.hasSpine_descRead w _
    have hfailing : (s.m.descRead w (2 + (min 64 n + 3) / 4)).failing = s.m.failing := s.m.failing_descRead w _
    have hend {st : Nat} {wr : List (Nat × Word)} (ha : asks)
        (hact : (s.m.descRead w (2 + (min 64 n + 3) / 4)).resvTakes 0 w v n = (s.m.descRead w (2 + (min 64 n + 3) / 4)).endStatus 0 st wr) :
        Does (.admResv 0) s (gone read st wr) :=
      ⟨_, exec_admResv_read ha.1 ha.2.1 ha.2.2, rfl, rfl, by rw [hact]; exact s.m.endStatus_descRead w _ st wr⟩
    have hfree {st : Nat} (hi : Issues s 0 w 0x86) (hv : (x.reg (wA w)).toNat = v.ep * 2 ^ 48 + v.shp) (hep : v.ep < 516) (hshp : v.shp < 64)
        (hact : (s.m.issued 0 w).admFrees v.ep v.shp = (s.m.issued 0 w).endStatus 0 st []) : Does (.admFree 0) s (gone (s.m.readPc 0) st []) :=
      Does.of_exec ((exec_admFree hi hv hep hshp).trans (by rw [hact]; rfl))
    refine ⟨fun ha ⟨hcalm, hlive⟩ hr hm hp => ?_, fun r i ha hr hri hp hf hbef => ?_, fun ha hr => ?_,
      fun r hrm ha hr hm hp => ?_, fun ha hr hm hp hcalm => ?_, fun e he hi => ?_,
      fun u hu hi ⟨hcalm, hlive⟩ hue huk hep hshp hv => ?_, fun hi hfresh hep hshp hv => ?_, fun u hu hi hcalm hue huk hep hshp hv => ?_,
      fun hs hcalm => ?_, fun z mid ht hz => ?_⟩
    · refine ⟨_, exec_admResv_read ha.1 ha.2.1 ha.2.2, rfl, rfl, ?_⟩
      rw [Mach.resvTakes_meets (hrng hr) (hfails none (Mach.resvFails_none hm)), resv_present (by rw [hsp]; exact hp), if_neg Bool.false_ne_true,
        Mach.shedding_of (hfailing.trans hcalm), if_neg Bool.false_ne_true, Mach.setPend_live (s.m.domLive_descRead w _ _ |>.trans hlive),
        Mach.adm_descRead]
      exact (((s.m.issued_readWords_likeAt 0 w (wSadr w) _).setAdm (adm.reserve v)).modNiu v.ep _).done 0 []
    · refine hend ha (Mach.resvTakes_fails (hrng hr) (hfails (some r) (Mach.resvFails_some hri hp hf hbef)))
    · refine hend ha (if_pos ?_)
      rw [Mach.resvRange_descRead]
      exact hr
    · refine hend ha ?_
      rw [Mach.resvTakes_meets (hrng hr) (hfails none (Mach.resvFails_none hm)), resv_absent hrm (by rw [hsp]; exact hp)]
      rfl
    · refine hend ha ?_
      rw [Mach.resvTakes_meets (hrng hr) (hfails none (Mach.resvFails_none hm)), resv_present (by rw [hsp]; exact hp), if_neg Bool.false_ne_true,
        Mach.shedding_of_ne (by rw [hfailing]; exact hcalm)]
      rfl
    · refine Does.row (exec_admResv e s) hi ?_
      rw [decide_eq_false he]
      rfl
    · refine ⟨_, exec_admFree hi hv hep hshp, rfl, rfl, ?_⟩
      unfold Mach.admFrees
      rw [Mach.adm_issued, Adm.find_some hu hue huk, if_neg Bool.false_ne_true, Mach.shedding_of ((s.m.failing_issued w).trans hcalm),
        if_neg Bool.false_ne_true, Mach.setPend_live ((s.m.domLive_issued 0 w _).trans hlive)]
      exact (((s.m.issued_likeAt 0 w).setAdm { adm with led := adm.without v.ep v.shp }).modNiu v.ep _).done 0 []
    · refine hfree hi hv hep hshp ?_
      unfold Mach.admFrees
      rw [Mach.adm_issued, Adm.find_none hfresh]
      rfl
    · refine hfree hi hv hep hshp ?_
      unfold Mach.admFrees
      rw [Mach.adm_issued, Adm.find_some hu hue huk, if_neg Bool.false_ne_true, Mach.shedding_of_ne (by rw [Mach.failing_issued]; exact hcalm)]
      rfl
    · exact Does.of_exec ((exec_admissionRecheck hs).trans (by rw [Mach.recheck_calm hcalm]))
    · refine Does.hostWrite_near (i := .admBrqPop z true mid) rfl ht rfl ?_
      exact if_pos hz
  · intro adm rank left word hs hlen
    obtain ⟨l, h⟩ := s.m.recheck_sheds 1024 hlen
    refine ⟨_, l, exec_admissionRecheck hs, h.order, h.led, ?_, h.failing, h.brq, fun hlt hne => ?_, h.count, fun p hp hep hshp hlive => ?_, rfl, rfl⟩
    · have := h.meets
      rw [h.led] at this
      exact this
    · rw [h.lost, decide_eq_true ⟨hlt, hne⟩, Bool.or_true]
    · exact h.demoted p hp hlive
  · have hnext : s.m.failing = some r := by
      rw [Mach.failing_eq]
      unfold Mach.failingOf
      rw [hled]
      simp [hres, hfail]
    have hvictim : s.m.adm.victim r = some v := by
      unfold Adm.victim
      rw [hled]
      simp [hres]
    have hled' : (s.m.shed v r).adm.led = [] := by
      rw [Mach.led_shed, hled]
      simp
    have hcalm : (s.m.shed v r).failing = none := Mach.failing_none.2 (fun u hu => by rw [hled'] at hu; exact nomatch hu)
    have hx := exec_admissionRecheck hs
    rw [Mach.recheck, hnext] at hx
    dsimp only at hx
    rw [hvictim] at hx
    dsimp only at hx
    rw [Mach.recheck_calm hcalm] at hx
    refine ⟨_, hx, hled', ?_, ?_⟩
    · rw [Mach.brq_shed, if_pos hbrq]
      rfl
    · rw [Mach.niu_shed, Mach.shaper_demotes hl]

end Sys2Proof.Machine

/-! PROOFS. Route images and epochs (O26). -/

namespace Sys2Proof.Machine

/-! ## The reads of an image -/

section
variable {γ : Type} {π : Mach → γ} (hniu : ∀ (m : Mach) n f, π (m.modNiu n f) = π m) (himg : ∀ (m : Mach) g, π { m with img := g } = π m)
include hniu himg

theorem Mach.imageReads_keeps (q n : Nat) (l : List Nat) (m : Mach) : π (m.imageReads q n l) = π m := by
  induction l generalizing m with
  | nil => exact himg _ _
  | cons i l ih =>
    unfold Mach.imageReads
    split
    · exact himg _ _
    · next t ht =>
      obtain ⟨f, rfl⟩ := Mach.serviceReq_eq ht
      exact (ih _).trans ((himg _ _).trans (hniu _ _ _))

theorem Mach.pumpImage_keeps (k : Nat) (m : Mach) : π (m.pumpImage k) = π m := by
  unfold Mach.pumpImage
  split
  · rfl
  · refine foldl_keeps π _ _ _ (fun m q => ?_)
    split
    · exact Mach.imageReads_keeps hniu himg _ _ _ _
    · rfl

theorem Mach.readImage_keeps (m : Mach) (first : Quad) (ep addr : Nat) : π (m.readImage first ep addr) = π m :=
  (foldl_keeps π _ _ _ (fun m _ => Mach.pumpImage_keeps hniu himg _ m)).trans (himg _ _)
end

theorem Mach.imageReads_modEng (e : Nat) (f : Eng → Eng) (q n : Nat) (l : List Nat) (m : Mach) :
    (m.modEng e f).imageReads q n l = (m.imageReads q n l).modEng e f := by
  induction l generalizing m with
  | nil => rfl
  | cons i l ih =>
    unfold Mach.imageReads
    rw [show (m.modEng e f).img = m.img from rfl, Mach.serviceReq_modEng]
    cases m.serviceReq n opRD 1 m.img.ep (m.img.addr + 64 * i) 64 0xFFFF 0 [] (.image m.img.ser q i) with
    | none => rfl
    | some t => exact ih { t with img := { t.img with out := t.img.out + 1 } }

theorem Mach.pumpImage_modEng (e : Nat) (f : Eng → Eng) (k : Nat) (m : Mach) : (m.modEng e f).pumpImage k = (m.pumpImage k).modEng e f := by
  have hfold : ∀ (l : List Nat) (m : Mach), l.foldl (fun m q =>
      if m.imageNiu q = some (512 + k) then m.imageReads q (512 + k) (Tab.get dNil m.img.todo q) else m) (m.modEng e f) =
        (l.foldl (fun m q => if m.imageNiu q = some (512 + k) then m.imageReads q (512 + k) (Tab.get dNil m.img.todo q) else m) m).modEng e f := by
    intro l
    induction l with
    | nil => exact fun _ => rfl
    | cons q l ih =>
      intro m
      rw [List.foldl_cons, List.foldl_cons, ← ih]
      congr 1
      rw [show (m.modEng e f).imageNiu q = m.imageNiu q from rfl, show (m.modEng e f).img = m.img from rfl, Mach.imageReads_modEng]
      split <;> rfl
  unfold Mach.pumpImage
  rw [show (m.modEng e f).img = m.img from rfl]
  split
  · rfl
  · exact hfold _ m

/-- The machine in which the reads of an image are about to begin (R355). -/
def Mach.imageAsked (m : Mach) (ep addr : Nat) : Mach :=
  { m with img := { on := true, ser := m.img.ser + 1, ep := ep, addr := addr,
                    todo := (List.range 4).foldl (fun t q => Tab.set dNil t q (imageLines q)) [], out := 0, got := [], code := none } }

theorem Mach.readImage_eq (m : Mach) (first : Quad) (ep addr : Nat) : m.readImage first ep addr =
    ((List.range 4).map (fun k => (first.val + k) % 4)).foldl (fun m k => m.pumpImage k) (m.imageAsked ep addr) := by
  unfold Mach.readImage each Mach.imageAsked
  rfl

theorem Mach.readImage_modEng (e : Nat) (f : Eng → Eng) (m : Mach) (first : Quad) (ep addr : Nat) :
    (m.modEng e f).readImage first ep addr = (m.readImage first ep addr).modEng e f := by
  have hfold : ∀ (l : List Nat) (m : Mach), l.foldl (fun m k => m.pumpImage k) (m.modEng e f) = (l.foldl (fun m k => m.pumpImage k) m).modEng e f := by
    intro l
    induction l with
    | nil => exact fun _ => rfl
    | cons q l ih => exact fun m => by rw [List.foldl_cons, List.foldl_cons, ← ih, Mach.pumpImage_modEng]
  rw [Mach.readImage_eq, Mach.readImage_eq]
  exact hfold _ (m.imageAsked ep addr)

/-! ## RT.LOAD, RT.EPOCH and RT.RETIRE -/

section
variable {s : State} {e : EngId} {w : Word}

theorem exec_ownedRow {i : Instr} {opc : Nat} {act : Word → Mach → Mach} (held : s.m.token = none ∨ s.m.token = some e.val)
    (hx : exec i s = s.on (fun m => m.issue e opc anyWord (fun w m => m.status e false true true (act w)))) (h : Issues s e w opc) :
    exec i s = .next { s with m := act w (s.m.owned e w) } :=
  (exec_issue hx h).trans (by rw [Mach.status_owned held])

/-- RT.LOAD of the image at `a`, once the token is held (R355). -/
def Mach.loads (m : Mach) (e : EngId) (first : Quad) (a : Word) : Mach :=
  if bf a 0 6 ≠ 0 then m.haltFault e 9
  else if bt a 63 = false then m.endStatus e 3 []
  else if m.rt.st = .prev then m.endStatus e 1 []
  else if (m.imageNiu 0).isNone then m.endStatus e 1 []
  else (m.readImage first (bf a 48 10) (bf a 0 48)).setWait e .image

theorem exec_rtLoad {first : Quad} (held : s.m.token = none ∨ s.m.token = some e.val) (h : Issues s e w 0x40) :
    exec (.rtLoad e first) s = .next { s with m := (s.m.owned e w).loads e first ((s.m.eng e).reg (wA w)) } := by
  have hx : exec (.rtLoad e first) s = s.on (fun m => m.issue e 0x40 anyWord (fun w m =>
      m.status e false true true (fun t => t.loads e first ((m.eng e).reg (wA w))))) := rfl
  refine (exec_issue hx h).trans ?_
  rw [Mach.status_owned held, Mach.reg_eng_issued]

theorem Mach.rt_owned (m : Mach) (e : Nat) (w : Word) : (m.owned e w).rt = m.rt := by
  change (m.issued e w).rt = m.rt
  rw [Mach.issued_eq]

theorem Mach.imageNiu_owned (m : Mach) (e : Nat) (w : Word) (q : Nat) : (m.owned e w).imageNiu q = m.imageNiu q := by
  change (m.issued e w).imageNiu q = m.imageNiu q
  rw [Mach.issued_eq]
  rfl

theorem Mach.owned_eq (m : Mach) (e : Nat) (w : Word) :
    m.owned e w = ({ (m.readPc e) with token := some e } : Mach).modEng e (fun x => { x with insn := w }) := rfl

theorem rtLoad_starts {first : Quad} (held : s.m.token = none ∨ s.m.token = some e.val) (h : Issues s e w 0x40)
    (hal : bf ((s.m.eng e).reg (wA w)) 0 6 = 0) (hmem : bt ((s.m.eng e).reg (wA w)) 63 = true) (hst : s.m.rt.st ≠ .prev) (hniu : s.m.imageNiu 0 ≠ none) :
    DoesAt (.rtLoad e first) s e { s.m.eng e with insn := w, state := .waiting, wait := .image }
      (({ (s.m.readPc e) with token := some e.val } : Mach).readImage first (bf ((s.m.eng e).reg (wA w)) 48 10) (bf ((s.m.eng e).reg (wA w)) 0 48)) := by
  have hx := exec_rtLoad (first := first) held h
  have hnone : ((s.m.owned e w).imageNiu 0).isNone = false := by
    rw [Mach.imageNiu_owned]
    exact Option.isNone_eq_false_iff.2 (Option.isSome_iff_ne_none.2 hniu)
  unfold Mach.loads at hx
  rw [if_neg (not_not_intro hal), hmem, if_neg (Bool.noConfusion : ¬ true = false), Mach.rt_owned, if_neg hst, hnone, if_neg Bool.false_ne_true] at hx
  refine DoesAt.of_exec hx ?_
  generalize bf ((s.m.eng e).reg (wA w)) 48 10 = ep
  generalize bf ((s.m.eng e).reg (wA w)) 0 48 = a
  have heng : (({ (s.m.readPc e) with token := some e.val } : Mach).readImage first ep a).eng e = s.m.eng e :=
    (Mach.readImage_keeps (π := fun m => m.eng e) (fun _ _ _ => rfl) (fun _ _ => rfl) _ first ep a).trans (s.m.eng_readPc e e)
  rw [Mach.owned_eq, Mach.readImage_modEng]
  generalize ({ (s.m.readPc e) with token := some e.val } : Mach).readImage first ep a = t at heng
  have hr := ((Mach.LikeAt.refl t e).mod (fun x => { x with insn := w })).mod (fun x => { x with state := .waiting, wait := .image })
  rw [heng] at hr
  exact hr

end

/-! ## The snapshot -/

theorem Mach.link_foldl_exclude {f : Mach → Nat → Mach} {x : Link} (hf : ∀ m k n, (f m k).link n = if n = k then x else m.link n) (l : List Nat) (m : Mach)
    (n : Nat) : (l.foldl f m).link n = if n ∈ l then x else m.link n := by
  induction l generalizing m with
  | nil => exact (if_neg List.not_mem_nil).symm
  | cons k l ih =>
    rw [List.foldl_cons, ih, hf]
    by_cases hl : n ∈ l
    · rw [if_pos hl, if_pos (.tail _ hl)]
    · rw [if_neg hl]
      simp only [List.mem_cons, hl, or_false]

/-- What the exclusion of a link ends: the waits for its map and its training, its traffic, the power-up of its tiles. -/
def Mach.unlinks (m : Mach) (n : Nat) : Mach :=
  let m := ((m.finish (.laneMap (2 * n)) xSTATE).finish (.laneMap (2 * n + 1)) xSTATE).finish (.train n) xSTATE
  ((m.clearDir (2 * n)).clearDir (2 * n + 1)).settleLink n

theorem Mach.exclude_eq (m : Mach) (n : Nat) : m.exclude n = (m.modLink n (fun _ => { st := .excl, pend := false, incl := false })).unlinks n := rfl

/-- The waits that the exclusion of a link can end. -/
def Wait.ofLink : Wait → Bool
  | .laneMap _ => true
  | .train _ => true
  | .domOn _ => true
  | _ => false

theorem Mach.unlinks_of {P : Mach → Prop} (h : CutFrame P) (hdom : ∀ (m : Mach) d f, P m → P (m.modDom d f))
    (hfin : ∀ (m : Mach) w st, w.ofLink = true → P m → P (m.finish w st)) {m : Mach} (n : Nat) (hm : P m) : P (m.unlinks n) := by
  have hsettle (m : Mach) (d : Nat) (hm : P m) : P (m.settleDom d) := by
    unfold Mach.settleDom
    dsimp only
    split
    · exact hm
    split
    · exact hdom _ _ _ hm
    · exact hfin _ _ _ rfl (hdom _ _ _ hm)
  have hfins := hfin _ (.train n) xSTATE rfl (hfin _ (.laneMap (2 * n + 1)) xSTATE rfl (hfin _ (.laneMap (2 * n)) xSTATE rfl hm))
  unfold Mach.unlinks Mach.settleLink
  exact hsettle _ _ (hsettle _ _ (h.clearDir _ (h.clearDir _ hfins)))

theorem Mach.link_exclude (m : Mach) (k n : Nat) : (m.exclude k).link n = if n = k then ⟨.excl, false, false⟩ else m.link n := by
  rw [Mach.exclude_eq]
  refine Mach.unlinks_of (P := fun t => t.link n = if n = k then ⟨.excl, false, false⟩ else m.link n) (CutFrame.link n _) (fun _ _ _ h => h)
    (fun m w st _ h => ?_) k ?_
  · exact (Mach.finish_keeps (π := fun m => m.link n) (fun _ _ => rfl) m w st).trans h
  · by_cases hn : n = k
    · subst hn
      rw [if_pos rfl, Mach.link_modLink]
    · rw [if_neg hn, Mach.link_modLink_ne _ _ hn]

theorem Mach.rt_exclude (m : Mach) (n : Nat) : (m.exclude n).rt = m.rt :=
  Mach.unlinks_of (P := fun t => t.rt = m.rt) (.of (π := fun m => m.rt) _ (fun _ _ _ => rfl) (fun _ _ => rfl) (fun _ _ => rfl) (fun _ _ _ => rfl)
    (fun _ _ _ => rfl) (fun _ _ _ => rfl) (fun _ _ _ => rfl) (fun _ _ _ => rfl) (fun _ _ _ => rfl)) (fun _ _ _ h => h)
    (fun t w st _ h => (Mach.finish_keeps (π := fun m => m.rt) (fun _ _ => rfl) t w st).trans h) n rfl

/-- An engine whose instruction has ended. -/
theorem Mach.done_exclude {m : Mach} {e st : Nat} (h : (m.eng e).wait = .done st []) (n : Nat) : ((m.exclude n).eng e).wait = .done st [] := by
  refine Mach.unlinks_of (P := fun t => (t.eng e).wait = .done st []) (.of (π := fun m => (m.eng e).wait) _ (fun _ _ _ => rfl) (fun _ _ => rfl)
    (fun _ _ => rfl) (fun _ _ _ => rfl) (fun _ _ _ => rfl) (fun _ _ _ => rfl) (fun _ _ _ => rfl) (fun _ _ _ => rfl) (fun _ _ _ => rfl))
    (fun _ _ _ h => h) (fun t w st' hw h => ?_) n h
  rw [Mach.eng_finish, if_neg]
  · exact h
  · rintro ⟨-, -, hwt⟩
    rw [← hwt, h] at hw
    exact nomatch hw

theorem Mach.mem_pendLinks {m : Mach} {n : Nat} : n ∈ m.pendLinks ↔ (m.link n).pend = true := by
  unfold Mach.pendLinks
  rw [List.mem_filter, List.mem_dedup, and_iff_right_iff_imp]
  intro h
  by_contra hk
  have hnone : m.link n = Link.init := by
    unfold Mach.link Tab.get
    rw [Tab.find_none_of_key hk]
    rfl
  rw [hnone] at h
  exact nomatch h

/-- A snapshot that finds no packet of the PREV epoch (R178, R179). -/
def Mach.retired (m : Mach) : Mach :=
  let m := m.finish .retire 0
  { m with rt := { m.rt with st := .free } }

theorem exec_epochSnapshot {s : State} (hs : s.m.test.scan = false) : exec .epochSnapshot s = .next { s with m :=
    (if s.m.clk.fstop = true ∨ s.m.waiters .retire = [] ∨ s.m.rt.st ≠ .prev ∨ s.m.epochGone s.m.rt.othE = false then s.m
    else s.m.retired.pendLinks.foldl (fun m n => m.exclude n) s.m.retired) } := by
  change execEpochSnapshot s = _
  rw [execEpochSnapshot, State.on_eq hs]
  rfl

theorem epochSnapshot_frees {s : State} {e : EngId} (n : Nat) (hs : s.m.test.scan = false) (hf : s.m.clk.fstop = false)
    (hst : (s.m.eng e).state = .waiting) (hw : (s.m.eng e).wait = .retire) (hp : s.m.rt.st = .prev) (hg : s.m.epochGone s.m.rt.othE = true) :
    ∃ t, exec .epochSnapshot s = .next t ∧ t.m.rt = { s.m.rt with st := .free } ∧ (t.m.eng e).wait = .done 0 [] ∧
      ((s.m.link n).pend = true → t.m.link n = ⟨.excl, false, false⟩) ∧ ((s.m.link n).pend = false → t.m.link n = s.m.link n) := by
  have hx := exec_epochSnapshot hs
  rw [if_neg (by
    rintro (h | h | h | h)
    · rw [hf] at h; exact nomatch h
    · exact Mach.mem_waiters hst hw h
    · exact h hp
    · rw [hg] at h; exact nomatch h)] at hx
  have hrt : s.m.retired.rt = { s.m.rt with st := .free } :=
    congrArg (fun r : Routes => { r with st := .free }) (Mach.finish_keeps (π := fun m => m.rt) (fun _ _ => rfl) s.m .retire 0)
  have hlink (k : Nat) : s.m.retired.link k = s.m.link k := Mach.finish_keeps (π := fun m => m.link k) (fun _ _ => rfl) s.m .retire 0
  have hwait : (s.m.retired.eng e).wait = .done 0 [] := by
    change ((s.m.finish .retire 0).eng e).wait = _
    rw [Mach.eng_finish, if_pos ⟨e.isLt, hst, hw⟩]
  have hmem : n ∈ s.m.retired.pendLinks ↔ (s.m.link n).pend = true := by rw [Mach.mem_pendLinks, hlink]
  generalize s.m.retired = r at *
  have hfold := Mach.link_foldl_exclude (f := fun m n => m.exclude n) (fun m k n => m.link_exclude k n) r.pendLinks r n
  have hrt' : (r.pendLinks.foldl (fun m n => m.exclude n) r).rt = r.rt := foldl_keeps (fun m : Mach => m.rt) _ _ _ (fun m k => m.rt_exclude k)
  have hwait' : ((r.pendLinks.foldl (fun m n => m.exclude n) r).eng e).wait = .done 0 [] :=
    List.foldlRecOn (motive := fun m : Mach => (m.eng e).wait = .done 0 []) _ _ hwait (fun m hm k _ => Mach.done_exclude hm k)
  refine ⟨_, hx, hrt'.trans hrt, hwait', fun hpend => ?_, fun hpend => ?_⟩
  · rw [hfold, if_pos (hmem.2 hpend)]
  · rw [hfold, if_neg (fun h => Bool.noConfusion (hpend.symm.trans (hmem.1 h))), hlink]

/-! ## The end of RT.LOAD, and the broadcast -/

theorem exec_imageCompletion {s : State} {e : EngId} (hs : s.m.test.scan = false) (hst : (s.m.eng e).state = .waiting)
    (hw : (s.m.eng e).wait = .image) :
    exec (.fabricInstructionCompletion e) s = .next { s with m := (if s.m.img.whole then s.m.imageEnd e else s.m) } := by
  change execFabricInstructionCompletion e s = _
  rw [execFabricInstructionCompletion, State.onAll, hs]
  dsimp only
  rw [if_neg (not_not_intro hst), hw]
  rfl

/-- The machine in which the reads of the image are over. -/
def Mach.imageClosed (m : Mach) : Mach := { m with img := { m.img with on := false, got := [] } }

/-- The checks of an image that was read without a failure (R176, R177). -/
def Mach.imageChecked (m : Mach) (e : Nat) (g : Img) : Mach :=
  if m.imgAbsent g then m.endStatus e 2 []
  else if m.imgBad g then m.endStatus e 3 []
  else ({ m with rt := { m.rt with oth := g, othE := (m.rt.curE + 1) % 8, st := .next } } : Mach).endStatus e 0 []

theorem Mach.imageEnd_read {m : Mach} (e : Nat) (hc : m.img.code = none) :
    m.imageEnd e = m.imageClosed.imageChecked e (imgOfLines ((List.range 769).map (fun i => Tab.get (fun _ => 0) m.img.got i))) := by
  unfold Mach.imageEnd
  dsimp only
  split
  · next c hc' => exact nomatch hc.symm.trans hc'
  · rfl

theorem Mach.imageEnd_failed {m : Mach} (e : Nat) {c : Nat} (hc : m.img.code = some c) :
    m.imageEnd e = (m.imageClosed.setFld (aEng e 0) 28 4 c).endStatus e 6 [] := by
  unfold Mach.imageEnd Mach.imageClosed
  dsimp only
  split
  · next c' hc' =>
    cases hc'.symm.trans hc
    rfl
  · next hc' => exact nomatch hc'.symm.trans hc

/-- The broadcast reaches the unit with number `k` (R178). -/
def Mach.reaches (m : Mach) (k : Nat) : Mach :=
  if m.rt.casting && !m.rt.reached.contains k then { m with rt := { m.rt with reached := m.rt.reached ++ [k] } } else m

theorem Does.reaches {i : Instr} {s : State} {k : Nat} (hx : exec i s = s.on (fun m => m.reaches k)) (hs : s.m.test.scan = false)
    (hc : s.m.rt.casting = true) (hr : s.m.rt.reached.contains k = false) :
    Does i s { s.m with rt := { s.m.rt with reached := s.m.rt.reached ++ [k] } } := by
  refine Does.of_exec ((hx.trans (State.on_eq hs _)).trans ?_)
  unfold Mach.reaches
  rw [hc, hr]
  rfl

theorem Mach.LikeAt.setRt {a m : Mach} {e : Nat} {y : Eng} (h : a.LikeAt e y m) (x : Routes) :
    ({ a with rt := x } : Mach).LikeAt e y { m with rt := x } := { h with bare := congrArg (fun b : Mach => { b with rt := x }) h.bare }

/-- NEXT becomes current (R177, R178). -/
def Routes.epoch (r : Routes) : Routes :=
  { cur := r.oth, curE := r.othE, oth := r.cur, othE := r.curE, st := .prev, casting := true, reached := [] }

/-- Whether the image `g`, or a combine tree, uses a link that is pending exclusion (R177). -/
def Mach.usesPend (m : Mach) (g : Img) : Bool := m.pendLinks.any (fun n => m.imgUses g n || m.treeUses n)

theorem Mach.usesPend_owned (m : Mach) (e : Nat) (w : Word) (g : Img) : (m.owned e w).usesPend g = m.usesPend g := by
  change (m.issued e w).usesPend g = m.usesPend g
  rw [Mach.issued_eq]
  rfl

/-- RT.EPOCH, once the token is held. -/
def Mach.epochs (m : Mach) (e : EngId) : Mach :=
  if m.rt.st ≠ .next ∨ m.usesPend m.rt.oth = true then m.endStatus e 1 [] else ({ m with rt := m.rt.epoch } : Mach).done e 0 []

/-- RT.RETIRE, once the token is held. -/
def Mach.retires (m : Mach) (e : EngId) (w : Word) : Mach :=
  if m.rt.st ≠ .prev then m.endStatus e 1 [] else (m.setWait e .retire).startLimit e (wLimit w)

theorem rtEpoch_changes {s : State} {e : EngId} {w : Word} (h : Issues s e w 0x41) (held : s.m.token = none ∨ s.m.token = some e.val)
    (hst : s.m.rt.st = .next) (huse : s.m.usesPend s.m.rt.oth = false) :
    DoesAt (.rtEpoch e) s e ((s.m.eng e).awaits w 0 []) { (s.m.readPc e) with token := some e.val, rt := s.m.rt.epoch } := by
  refine DoesAt.of_exec (exec_ownedRow (act := fun _ m => m.epochs e) held rfl h) ?_
  unfold Mach.epochs
  rw [Mach.usesPend_owned, Mach.rt_owned, if_neg (not_or_intro (not_not_intro hst) (by rw [huse]; exact Bool.false_ne_true))]
  exact ((s.m.owned_likeAt e w).setRt s.m.rt.epoch).done 0 []

theorem rtRetire_waits {s : State} {e : EngId} {w : Word} (h : Issues s e w 0x42) (held : s.m.token = none ∨ s.m.token = some e.val)
    (hst : s.m.rt.st = .prev) :
    DoesAt (.rtRetire e) s e { s.m.eng e with insn := w, state := .waiting, wait := .retire,
                                              limit := limitCycles (s.m.readPc e).clk.mode (bf w 0 24) }
      { (s.m.readPc e) with token := some e.val } := by
  refine DoesAt.of_exec (exec_ownedRow (act := fun w m => m.retires e w) held rfl h) ?_
  unfold Mach.retires
  rw [Mach.rt_owned, if_neg (not_not_intro hst)]
  exact ((s.m.owned_likeAt e w).setWait .retire).startLimit (bf w 0 24)

/-- Settles O26: the image is read under the token; the snapshot that finds no packet of the PREV epoch excludes the pending links. -/
theorem routeEpochs : Obligations.RouteEpochs := by
  refine ⟨fun s e first w => ?_, fun m u => ⟨fun hc => ?_, fun hc hr => ?_, fun hc hr => ?_⟩⟩
  · intro x r held
    refine ⟨fun h ht hal hmem hst hn => rtLoad_starts ht h hal hmem hst hn, fun h ht hal hmem hst => ?_, fun hs hst hw hwhole => ?_,
      fun hs hst hw hwhole => ?_, fun h ht hst hpl => ?_, fun h ht hst => ?_, fun n hs hf hst hw hp hg => epochSnapshot_frees n hs hf hst hw hp hg,
      fun hs hbad => ?_, fun n hs hc hr => Does.reaches rfl hs hc hr, fun t hs hc hr => Does.reaches rfl hs hc hr⟩
    · refine Does.of_exec ((exec_rtLoad ht h).trans ?_)
      unfold Mach.loads
      rw [if_neg (not_not_intro hal), hmem, if_neg (Bool.noConfusion : ¬ true = false), Mach.rt_owned, if_pos hst]
      rfl
    · have hx := exec_imageCompletion hs hst hw
      rw [if_pos hwhole] at hx
      intro g m
      have hchecked {t : Mach} (hc : s.m.img.code = none) (ht : m.imageChecked e g = t) : Does (.fabricInstructionCompletion e) s t := by
        rw [Mach.imageEnd_read e hc] at hx
        exact Does.of_exec (ht ▸ hx)
      refine ⟨fun hc ha hb => hchecked hc ?_, fun hc ha => hchecked hc ?_, fun hc ha hb => hchecked hc ?_, fun c hc => ?_⟩
      · unfold Mach.imageChecked
        rw [if_neg (by rw [show m.imgAbsent g = false from ha]; exact Bool.false_ne_true),
          if_neg (by rw [show m.imgBad g = false from hb]; exact Bool.false_ne_true)]
      · exact if_pos ha
      · unfold Mach.imageChecked
        rw [if_neg (by rw [show m.imgAbsent g = false from ha]; exact Bool.false_ne_true), if_pos (show m.imgBad g = true from hb)]
      · rw [Mach.imageEnd_failed e hc] at hx
        exact Does.of_exec hx
    · have hx := exec_imageCompletion hs hst hw
      rw [hwhole, if_neg Bool.false_ne_true] at hx
      exact Does.of_exec hx
    · exact rtEpoch_changes h ht hst hpl
    · exact rtRetire_waits h ht hst
    · refine Does.of_exec ((exec_epochSnapshot hs).trans ?_)
      rw [if_pos (hbad.imp id (fun h => .inr (.inr h)))]
  · rw [Mach.epochOf, hc]
    rfl
  · rw [Mach.epochOf, hc, hr]
    rfl
  · rw [Mach.epochOf, hc, hr]
    rfl

end Sys2Proof.Machine

/-! PROOFS. Link instructions, the end of training, and the width of a link direction (O27). -/

namespace Sys2Proof.Machine

theorem LDir.mask_eq (d : LDir) : d.mask = d.want.getD d.fail := rfl

theorem LDir.fail_of {d : LDir} {v : BitVec 9} (h : d.mask = v ∧ d.want = none) : d.fail = v := by
  obtain ⟨hm, hw⟩ := h
  rw [← hm, LDir.mask_eq, hw]
  rfl

/-! ## What a link's death leaves -/

theorem quadOf_lt (t : Nat) : quadOf t < 4 := by
  have h (b : Bool) : b1 b ≤ 1 := by cases b <;> decide
  have h1 := h (decide (8 ≤ tileX t))
  have h2 := h (decide (4 ≤ tileY t))
  unfold quadOf
  omega


/-- Two directions of one link. -/
theorem dirBack_ne (l : Nat) : dirBack l ≠ l := by
  unfold dirBack
  split <;> omega

section
variable {γ : Type} {π : Mach → γ}

theorem Mach.slicesFail_keeps (hflt : ∀ (m : Mach) f, π (m.modFlt f) = π m) (heng : ∀ (m : Mach) e f, π (m.modEng e f) = π m)
    (hreg : ∀ (m : Mach) a w, a < 0x100000 → π (m.setReg a w) = π m) (m : Mach) (l : Nat) (new : BitVec 9) : π (m.slicesFail l new) = π m := by
  have hq (o : Nat) (ho : o < 0x1000) : aEng (qeOf (quadOf (linkTile (l / 2)))) o < 0x100000 := by
    have h := quadOf_lt (linkTile (l / 2))
    unfold aEng qeOf
    omega
  refine foldl_keeps π _ _ _ (fun m k => (Mach.postEvt_leaves _ _ _ _ _ _ (fun m f => heng m _ f) (fun m a w h => hreg m a w ?_)).trans
    (Mach.occur_leaves _ _ _ _ _ _ _ hflt))
  rcases h with rfl | rfl <;> exact hq _ (by decide)

theorem Mach.settleLink_keeps (hdom : ∀ m d f, π (m.modDom d f) = π m) (hfin : ∀ m w st, π (m.finish w st) = π m) (m : Mach) (n : Nat) :
    π (m.settleLink n) = π m := (Mach.settleDom_keeps hdom hfin _ _).trans (Mach.settleDom_keeps hdom hfin _ _)
end

theorem Mach.dir_slicesFail (m : Mach) (l : Nat) (new : BitVec 9) (j : Nat) : (m.slicesFail l new).dir j = m.dir j :=
  Mach.slicesFail_keeps (π := fun m => m.dir j) (fun _ _ => rfl) (fun _ _ _ => rfl) (fun _ _ _ _ => rfl) m l new

theorem Mach.link_slicesFail (m : Mach) (l : Nat) (new : BitVec 9) (j : Nat) : (m.slicesFail l new).link j = m.link j :=
  Mach.slicesFail_keeps (π := fun m => m.link j) (fun _ _ => rfl) (fun _ _ _ => rfl) (fun _ _ _ _ => rfl) m l new

theorem Mach.niu_slicesFail (m : Mach) (l : Nat) (new : BitVec 9) (j : Nat) : (m.slicesFail l new).niu j = m.niu j :=
  Mach.slicesFail_keeps (π := fun m => m.niu j) (fun _ _ => rfl) (fun _ _ _ => rfl) (fun _ _ _ _ => rfl) m l new

theorem Mach.reg_slicesFail (m : Mach) (l : Nat) (new : BitVec 9) {a : Nat} (ha : 0x100000 ≤ a) : (m.slicesFail l new).reg a = m.reg a :=
  Mach.slicesFail_keeps (π := fun m => m.reg a) (fun _ _ => rfl) (fun _ _ _ => rfl)
    (fun m _ w h => m.reg_setReg_ne w (Nat.ne_of_gt (Nat.lt_of_lt_of_le h ha))) m l new

theorem Mach.forceHalf_slicesFail (m : Mach) (l : Nat) (new : BitVec 9) (n : Nat) : (m.slicesFail l new).forceHalf n = m.forceHalf n :=
  congrArg (fun w => bt w 8) (m.reg_slicesFail l new (by unfold aLinkCfg; omega))

/-- The mask that a direction reads with. -/
theorem CutFrame.mask (l : Nat) (v : BitVec 9) : CutFrame (fun m => (m.dir l).mask = v) where
  reg _ _ _ h := h
  tele _ _ h := h
  flt _ _ h := h
  dir m k f hf h := by
    by_cases hk : l = k
    · rw [← hk, Mach.dir_modDir, (hf _).1, h]
    · rw [Mach.dir_modDir_ne _ _ hk, h]
  out _ _ _ h := h
  stn _ _ _ h := h
  cbu _ _ _ h := h
  vc _ _ _ h := h
  niu _ _ _ h := h

/-- ... and that it asks for no new map. -/
theorem CutFrame.noWant (l : Nat) : CutFrame (fun m => (m.dir l).want = none) where
  reg _ _ _ h := h
  tele _ _ h := h
  flt _ _ h := h
  dir m k f hf h := by
    by_cases hk : l = k
    · rw [← hk, Mach.dir_modDir]
      exact (hf _).2 h
    · rw [Mach.dir_modDir_ne _ _ hk, h]
  out _ _ _ h := h
  stn _ _ _ h := h
  cbu _ _ _ h := h
  vc _ _ _ h := h
  niu _ _ _ h := h

theorem Mach.mask_clearDir (m : Mach) (k l : Nat) : ((m.clearDir k).dir l).mask = (m.dir l).mask := (CutFrame.mask l _).clearDir k rfl

theorem Mach.want_clearDir (m : Mach) (l : Nat) : ((m.clearDir l).dir l).want = none :=
  (CutFrame.noWant l).resync l (by rw [Mach.dir_modDir]; rfl)

/-- What a link's death leaves (R193, R198). -/
theorem Mach.linkDie_of {P : Mach → Prop} (h : CutFrame P) (hfin : ∀ (m : Mach) w st, P m → P (m.finish w st))
    (heng : ∀ (m : Mach) e f, P m → P (m.modEng e f)) {m : Mach} {l : Nat}
    (hm : P (((m.modLink (l / 2) (fun k => { k with st := .dead, incl := false })).clearDir (2 * (l / 2))).clearDir (2 * (l / 2) + 1))) :
    P (m.linkDie l) := by
  have hpost {t : Mach} (e c k d o : Nat) (ht : P t) : P (t.postEvt e c k d o) := by
    unfold Mach.postEvt
    dsimp only
    split
    · exact h.reg _ _ _ ht
    split
    · exact heng _ _ _ ht
    · exact h.reg _ _ _ ht
  unfold Mach.linkDie
  dsimp only
  generalize Mach.clearDir _ (2 * (l / 2) + 1) = t at hm ⊢
  exact hpost _ _ _ _ _ (h.occur _ _ _ _ _ _ (hfin _ _ _ (hfin _ _ _ hm)))

theorem Mach.link_linkDie (m : Mach) (l : Nat) : ((m.linkDie l).link (l / 2)).st = .dead := by
  have h : (m.linkDie l).link (l / 2) = { m.link (l / 2) with st := .dead, incl := false } :=
    Mach.linkDie_of (P := fun t => t.link (l / 2) = _) (CutFrame.link _ _)
      (fun t w st h => (Mach.finish_keeps (π := fun m => m.link (l / 2)) (fun _ _ => rfl) t w st).trans h) (fun _ _ _ h => h)
      ((CutFrame.link _ _).clearDir _ ((CutFrame.link _ _).clearDir _ (Mach.link_modLink _ _ _)))
  rw [h]

theorem Mach.fail_linkDie (m : Mach) {l j : Nat} (hj : j / 2 = l / 2) : ((m.linkDie l).dir j).fail = (m.dir j).mask := by
  have hmask : ((m.linkDie l).dir j).mask = (m.dir j).mask :=
    Mach.linkDie_of (P := fun t => (t.dir j).mask = _) (CutFrame.mask j _)
      (fun t w st h => (Mach.finish_keeps (π := fun m => (m.dir j).mask) (fun _ _ => rfl) t w st).trans h) (fun _ _ _ h => h)
      ((Mach.mask_clearDir _ _ _).trans (Mach.mask_clearDir _ _ _))
  have hwant : ((m.linkDie l).dir j).want = none := by
    refine Mach.linkDie_of (P := fun t => (t.dir j).want = none) (CutFrame.noWant j)
      (fun t w st h => (Mach.finish_keeps (π := fun m => (m.dir j).want) (fun _ _ => rfl) t w st).trans h) (fun _ _ _ h => h) ?_
    obtain rfl | rfl : j = 2 * (l / 2) ∨ j = 2 * (l / 2) + 1 := by omega
    · exact (CutFrame.noWant _).clearDir _ (Mach.want_clearDir _ _)
    · exact Mach.want_clearDir _ _
  exact LDir.fail_of ⟨hmask, hwant⟩

theorem Mach.test_linkDie (m : Mach) (l : Nat) : (m.linkDie l).test = m.test :=
  have h : CutFrame (fun t : Mach => t.test = m.test) := .of (π := fun m => m.test) _ (fun _ _ _ => rfl) (fun _ _ => rfl) (fun _ _ => rfl)
    (fun _ _ _ => rfl) (fun _ _ _ => rfl) (fun _ _ _ => rfl) (fun _ _ _ => rfl) (fun _ _ _ => rfl) (fun _ _ _ => rfl)
  Mach.linkDie_of h (fun t w st h => (Mach.finish_keeps (π := fun m => m.test) (fun _ _ => rfl) t w st).trans h) (fun _ _ _ h => h)
    (h.clearDir _ (h.clearDir _ rfl))

/-! ## The end of training -/

section
variable (m : Mach) (l : Nat) (bad : BitVec 9)

theorem Mach.resync_keeps {γ : Type} {π : Mach → γ} (h : ∀ m k f, π (m.modOut k f) = π m) (m : Mach) (l : Nat) : π (m.resync l) = π m :=
  foldl_keeps π _ _ _ (fun m _ => h m _ _)

theorem Mach.trained_keeps {γ : Type} {π : Mach → γ} (hflt : ∀ (m : Mach) f, π (m.modFlt f) = π m) (heng : ∀ (m : Mach) e f, π (m.modEng e f) = π m)
    (hreg : ∀ (m : Mach) a w, a < 0x100000 → π (m.setReg a w) = π m) (hdir : ∀ (m : Mach) f, π (m.modDir l f) = π m)
    (hout : ∀ m k f, π (m.modOut k f) = π m) : π (m.trained l bad) = π m := by
  unfold Mach.trained
  dsimp only
  rw [Mach.resync_keeps hout, hdir, Mach.slicesFail_keeps hflt heng hreg]

theorem Mach.dir_trained : (m.trained l bad).dir l = { LDir.init with fail := bad, half := halfOf bad (m.forceHalf (l / 2)) } := by
  unfold Mach.trained
  dsimp only
  rw [Mach.resync_keeps (π := fun m => m.dir l) (fun _ _ _ => rfl), Mach.dir_modDir]

theorem Mach.dir_trained_ne {j : Nat} (hj : j ≠ l) : (m.trained l bad).dir j = m.dir j :=
  Mach.trained_keeps m l bad (π := fun m => m.dir j) (fun _ _ => rfl) (fun _ _ _ => rfl) (fun _ _ _ _ => rfl)
    (fun m f => m.dir_modDir_ne f hj) (fun _ _ _ => rfl)
end

/-- What training found of both directions of link `n` (R199, R478). -/
def Mach.Found (m : Mach) (n : Nat) (fwd back : BitVec 9) (ctlBad : Bool) : Prop :=
  (m.dir (2 * n)).fail = fwd ∧ (m.dir (2 * n + 1)).fail = back ∧ Tab.get dNoTrain m.test.train n = (fwd, back, ctlBad)

/-- Both directions after training, with what it found kept. -/
def Mach.trainedBoth (m : Mach) (n : Nat) (fwd back : BitVec 9) (ctlBad : Bool) : Mach :=
  (({ m with test := { m.test with train := Tab.set dNoTrain m.test.train n (fwd, back, ctlBad) } } : Mach).trained (2 * n) fwd).trained
    (2 * n + 1) back

/-- The end of the training of link `n` (R199, R200). -/
def Mach.trainEnd (m : Mach) (n : Nat) (fwd back : BitVec 9) (ctlBad : Bool) : Mach :=
  if !ctlBad && decide (pop fwd 9 ≤ 5 ∧ pop back 9 ≤ 5) then
    (((m.trainedBoth n fwd back ctlBad).modLink n (fun k => { k with st := .up, incl := false })).finish (.train n) 0).settleLink n
  else if (m.link n).incl then
    (((m.trainedBoth n fwd back ctlBad).modLink n (fun k => { k with st := .excl, incl := false })).finish (.train n) 1).settleLink n
  else
    ((m.trainedBoth n fwd back ctlBad).linkDie (if ctlBad ∨ 5 < pop fwd 9 then 2 * n else 2 * n + 1)).settleLink n

theorem exec_linkTrainingDone {s : State} {n : LinkId} {fwd back : BitVec 9} {ctlBad : Bool} (hs : s.m.test.scan = false) :
    exec (.linkTrainingDone n fwd back ctlBad) s = .next { s with m :=
      if (s.m.link n).st ≠ .train ∨ s.m.clk.fstop = true then s.m else s.m.trainEnd n fwd back ctlBad } := by
  change execLinkTrainingDone n fwd back ctlBad s = _
  rw [execLinkTrainingDone, State.on_eq hs]
  rfl

section
variable (m : Mach) (n : Nat) (fwd back : BitVec 9) (ctlBad : Bool)

theorem Mach.link_trainedBoth (j : Nat) : (m.trainedBoth n fwd back ctlBad).link j = m.link j := by
  have h (m : Mach) (l : Nat) (bad : BitVec 9) : (m.trained l bad).link j = m.link j :=
    Mach.trained_keeps m l bad (π := fun m => m.link j) (fun _ _ => rfl) (fun _ _ _ => rfl) (fun _ _ _ _ => rfl) (fun _ _ => rfl) (fun _ _ _ => rfl)
  exact (h _ _ _).trans (h _ _ _)

theorem Mach.dir_trainedBoth_fwd :
    (m.trainedBoth n fwd back ctlBad).dir (2 * n) = { LDir.init with fail := fwd, half := halfOf fwd (m.forceHalf n) } := by
  refine (Mach.dir_trained_ne _ _ _ (by omega)).trans ((Mach.dir_trained _ _ _).trans ?_)
  rw [Nat.mul_div_cancel_left n (by decide : 0 < 2)]
  rfl

theorem Mach.dir_trainedBoth_back : ∃ h, (m.trainedBoth n fwd back ctlBad).dir (2 * n + 1) = { LDir.init with fail := back, half := h } :=
  ⟨_, Mach.dir_trained _ _ _⟩

theorem Mach.test_trainedBoth :
    (m.trainedBoth n fwd back ctlBad).test = { m.test with train := Tab.set dNoTrain m.test.train n (fwd, back, ctlBad) } := by
  have h (m : Mach) (l : Nat) (bad : BitVec 9) : (m.trained l bad).test = m.test :=
    Mach.trained_keeps m l bad (π := fun m => m.test) (fun _ _ => rfl) (fun _ _ _ => rfl) (fun _ _ _ _ => rfl) (fun _ _ => rfl) (fun _ _ _ => rfl)
  exact (h _ _ _).trans (h _ _ _)

variable {m n fwd back ctlBad}

/-- A change that leaves the masks of the link's directions, and the test instruments. -/
theorem Mach.Found.congr {a b : Mach} (h : b.Found n fwd back ctlBad) (h0 : (a.dir (2 * n)).fail = (b.dir (2 * n)).fail)
    (h1 : (a.dir (2 * n + 1)).fail = (b.dir (2 * n + 1)).fail) (ht : a.test = b.test) : a.Found n fwd back ctlBad := by
  obtain ⟨hf, hb, hr⟩ := h
  exact ⟨h0.trans hf, h1.trans hb, by rw [ht, hr]⟩

theorem Mach.found_trainedBoth : (m.trainedBoth n fwd back ctlBad).Found n fwd back ctlBad := by
  obtain ⟨h, hb⟩ := m.dir_trainedBoth_back n fwd back ctlBad
  refine ⟨by rw [Mach.dir_trainedBoth_fwd], by rw [hb], ?_⟩
  rw [Mach.test_trainedBoth]
  exact Tab.get_set _ _ _

/-- The end of a training's wait changes no link, no direction and no test instrument. -/
theorem Mach.trainSettled_keeps {γ : Type} {π : Mach → γ} (hdom : ∀ m d f, π (m.modDom d f) = π m) (heng : ∀ (m : Mach) l, π { m with engs := l } = π m)
    (t : Mach) (n st : Nat) : π ((t.finish (.train n) st).settleLink n) = π t :=
  (Mach.settleLink_keeps hdom (Mach.finish_keeps heng) _ n).trans (Mach.finish_keeps heng t _ st)

theorem Mach.Found.settled {t : Mach} (h : t.Found n fwd back ctlBad) (f : Link → Link) (st : Nat) :
    (((t.modLink n f).finish (.train n) st).settleLink n).Found n fwd back ctlBad :=
  h.congr (Mach.trainSettled_keeps (π := fun m => (m.dir (2 * n)).fail) (fun _ _ _ => rfl) (fun _ _ => rfl) _ n st)
    (Mach.trainSettled_keeps (π := fun m => (m.dir (2 * n + 1)).fail) (fun _ _ _ => rfl) (fun _ _ => rfl) _ n st)
    (Mach.trainSettled_keeps (π := fun m => m.test) (fun _ _ _ => rfl) (fun _ _ => rfl) _ n st)

theorem Mach.link_settled (t : Mach) (f : Link → Link) (st : Nat) :
    (((t.modLink n f).finish (.train n) st).settleLink n).link n = f (t.link n) :=
  (Mach.trainSettled_keeps (π := fun m => m.link n) (fun _ _ _ => rfl) (fun _ _ => rfl) _ n st).trans (Mach.link_modLink _ _ _)

/-- A training that ends well: both directions keep four slices (R199). -/
theorem Mach.trainEnd_up (hc : ctlBad = false) (hf : pop fwd 9 ≤ 5) (hb : pop back 9 ≤ 5) :
    ((m.trainEnd n fwd back ctlBad).link n).st = .up ∧ ((m.trainEnd n fwd back ctlBad).link n).pend = (m.link n).pend ∧
      (m.trainEnd n fwd back ctlBad).Found n fwd back ctlBad ∧ ((m.trainEnd n fwd back ctlBad).dir (2 * n)).half = halfOf fwd (m.forceHalf n) := by
  have hend : m.trainEnd n fwd back ctlBad =
      (((m.trainedBoth n fwd back ctlBad).modLink n (fun k => { k with st := .up, incl := false })).finish (.train n) 0).settleLink n := by
    unfold Mach.trainEnd
    rw [if_pos (by rw [hc, decide_eq_true (And.intro hf hb)]; rfl)]
  rw [hend]
  refine ⟨by rw [Mach.link_settled], by rw [Mach.link_settled, Mach.link_trainedBoth], Mach.found_trainedBoth.settled _ _, ?_⟩
  refine (Mach.trainSettled_keeps (π := fun m => (m.dir (2 * n)).half) (fun _ _ _ => rfl) (fun _ _ => rfl) _ n 0).trans ?_
  rw [Mach.dir_modLink, Mach.dir_trainedBoth_fwd]

theorem trainBad (h : ctlBad = true ∨ 5 < pop fwd 9 ∨ 5 < pop back 9) : (!ctlBad && decide (pop fwd 9 ≤ 5 ∧ pop back 9 ≤ 5)) = false := by
  rcases h with h | h | h
  · rw [h]; rfl
  · rw [decide_eq_false (fun hh => absurd hh.1 (Nat.not_le.2 h)), Bool.and_false]
  · rw [decide_eq_false (fun hh => absurd hh.2 (Nat.not_le.2 h)), Bool.and_false]

/-- ... one that LINK.INCL began and that ends badly (R200). -/
theorem Mach.trainEnd_excl (h : ctlBad = true ∨ 5 < pop fwd 9 ∨ 5 < pop back 9) (hi : (m.link n).incl = true) :
    ((m.trainEnd n fwd back ctlBad).link n).st = .excl ∧ (m.trainEnd n fwd back ctlBad).Found n fwd back ctlBad := by
  have hend : m.trainEnd n fwd back ctlBad =
      (((m.trainedBoth n fwd back ctlBad).modLink n (fun k => { k with st := .excl, incl := false })).finish (.train n) 1).settleLink n := by
    unfold Mach.trainEnd
    rw [trainBad h, if_neg Bool.false_ne_true, if_pos hi]
  rw [hend]
  exact ⟨by rw [Mach.link_settled], Mach.found_trainedBoth.settled _ _⟩

/-- ... and another. -/
theorem Mach.trainEnd_dead (h : ctlBad = true ∨ 5 < pop fwd 9 ∨ 5 < pop back 9) (hi : (m.link n).incl = false) :
    ((m.trainEnd n fwd back ctlBad).link n).st = .dead ∧ (m.trainEnd n fwd back ctlBad).Found n fwd back ctlBad := by
  unfold Mach.trainEnd
  rw [trainBad h, if_neg Bool.false_ne_true, hi, if_neg Bool.false_ne_true]
  have hl : (if ctlBad = true ∨ 5 < pop fwd 9 then 2 * n else 2 * n + 1) / 2 = n := by split <;> omega
  generalize (if ctlBad = true ∨ 5 < pop fwd 9 then 2 * n else 2 * n + 1) = l at hl
  have hkeep {γ : Type} {π : Mach → γ} (hdom : ∀ m d f, π (m.modDom d f) = π m) (heng : ∀ (m : Mach) l, π { m with engs := l } = π m) (t : Mach) :
      π (t.settleLink n) = π t := Mach.settleLink_keeps hdom (Mach.finish_keeps heng) t n
  have hfound := m.found_trainedBoth (n := n) (fwd := fwd) (back := back) (ctlBad := ctlBad)
  obtain ⟨x, hb⟩ := m.dir_trainedBoth_back n fwd back ctlBad
  have hf := m.dir_trainedBoth_fwd n fwd back ctlBad
  generalize m.trainedBoth n fwd back ctlBad = t at *
  refine ⟨?_, hfound.congr ?_ ?_ ?_⟩
  · refine (hkeep (π := fun m => (m.link n).st) (fun _ _ _ => rfl) (fun _ _ => rfl) _).trans ?_
    rw [← hl, Mach.link_linkDie]
  · refine (hkeep (π := fun m => (m.dir (2 * n)).fail) (fun _ _ _ => rfl) (fun _ _ => rfl) _).trans ?_
    rw [Mach.fail_linkDie _ (by omega), hf]
    rfl
  · refine (hkeep (π := fun m => (m.dir (2 * n + 1)).fail) (fun _ _ _ => rfl) (fun _ _ => rfl) _).trans ?_
    rw [Mach.fail_linkDie _ (by omega), hb]
    rfl
  · exact (hkeep (π := fun m => m.test) (fun _ _ _ => rfl) (fun _ _ => rfl) _).trans (Mach.test_linkDie _ _)
end

/-! ## Link instructions -/

theorem Mach.Like.modLink {a m : Mach} (h : a.Like m) (n : Nat) (f : Link → Link) : (a.modLink n f).Like (m.modLink n f) := by
  refine { h with link := fun k => ?_, bare := h.bare }
  by_cases hk : k = n
  · subst hk
    rw [Mach.link_modLink, Mach.link_modLink, h.link]
  · rw [Mach.link_modLink_ne _ _ hk, Mach.link_modLink_ne _ _ hk, h.link]

theorem Mach.LikeAt.modLink {a m : Mach} {e : Nat} {x : Eng} (h : a.LikeAt e x m) (n : Nat) (f : Link → Link) :
    (a.modLink n f).LikeAt e x (m.modLink n f) := h.upd (fun y => y.modLink n f) (fun _ => .refl _) (fun _ _ hl => hl.modLink n f)

theorem Mach.dir_issued (m : Mach) (e : Nat) (w : Word) (l : Nat) : (m.issued e w).dir l = m.dir l := by
  rw [Mach.issued_eq]
  rfl

theorem Mach.tileDown_issued (m : Mach) (e : Nat) (w : Word) (t : Nat) : (m.issued e w).tileDown t = m.tileDown t := by
  rw [Mach.issued_eq]
  rfl

section
variable {s : State} {e : EngId} {w : Word} {n : LinkId}

/-- A link instruction on a link in scope (R343). -/
theorem exec_linkRow {i : Instr} {opc : Nat} {act : Word → Nat → Mach → Mach} (hn : ((s.m.eng e).reg (wA w)).toNat = n.val)
    (hsc : inScope e (some (quadOf (linkTile n))) = true)
    (hx : exec i s = s.on (fun m => m.issue e opc anyWord (fun w m => m.linkOp e w (act w)))) (h : Issues s e w opc) :
    exec i s = .next { s with m := act w n (s.m.issued e w) } := by
  have hsel : selLink ((s.m.eng e).reg (wA w)) = some n.val := by
    have := n.isLt
    rw [selLink, selRange, if_pos ⟨by omega, by omega⟩, hn]
  rw [exec_issue hx h]
  unfold Mach.linkOp
  rw [Mach.reg_eng_issued, hsel]
  dsimp only
  rw [hsc, Mach.status_free]

/-- LINK.EXCL (R179). -/
def Mach.linkExcl (m : Mach) (e : EngId) (n : Nat) : Mach :=
  if (m.link n).st = .excl then m.endStatus e 1 [] else (m.modLink n (fun k => { k with pend := true })).done e 0 []

/-- LINK.INCL (R179, R200). -/
def Mach.linkIncl (m : Mach) (e : EngId) (n : Nat) : Mach :=
  let k := m.link n
  if k.st = .dead ∨ k.st = .down ∨ k.st = .tied then m.endStatus e 1 []
  else if k.st = .excl then
    if m.tileDown (linkTile n) || m.tileDown (linkTile2 n) then m.endStatus e 1 []
    else (m.modLink n (fun k => { k with st := .train, incl := true, pend := false })).setWait e (.train n)
  else (m.modLink n (fun k => { k with pend := false })).done e 0 []

/-- LANE.MAP (R195) of direction `l` with the slices `bad`. -/
def Mach.laneMap (m : Mach) (e : EngId) (n l : Nat) (b : Word) : Mach :=
  if bf b 9 55 ≠ 0 ∨ 5 < pop ((m.dir l).mask ||| b.extractLsb' 0 9) 9 then m.endStatus e 3 []
  else if !m.linkUp n then m.endStatus e 1 []
  else if b.extractLsb' 0 9 &&& ~~~(m.dir l).mask = 0 then m.done e 0 []
  else (m.markSlices l (b.extractLsb' 0 9)).setWait e (.laneMap l)

variable (hn : ((s.m.eng e).reg (wA w)).toNat = n.val) (hsc : inScope e (some (quadOf (linkTile n))) = true)
include hn hsc

theorem exec_linkExcl (h : Issues s e w 0x43) : exec (.linkExcl e) s = .next { s with m := (s.m.issued e w).linkExcl e n } :=
  exec_linkRow (act := fun _ n m => m.linkExcl e n) hn hsc rfl h

theorem exec_linkIncl (h : Issues s e w 0x44) : exec (.linkIncl e) s = .next { s with m := (s.m.issued e w).linkIncl e n } :=
  exec_linkRow (act := fun _ n m => m.linkIncl e n) hn hsc rfl h

theorem exec_laneMap (h : Issues s e w 0x45) :
    exec (.laneMap e) s = .next { s with m := (s.m.issued e w).laneMap e n (2 * n + b1 (bt w 24)) ((s.m.eng e).reg (wB w)) } := by
  have hx := exec_linkRow (i := .laneMap e) (act := fun w n m => m.laneMap e n (2 * n + b1 (bt w 24)) ((m.eng e).reg (wB w))) hn hsc rfl h
  rwa [Mach.reg_eng_issued] at hx
end

/-- LREQ for the map `k` on a direction (R196). -/
def LDir.lreq (d : LDir) (k : BitVec 9) (force : Bool) : LDir :=
  { d with sent := d.sent ++ [⟨12, false, d.crd.headD 15, k.toNat + 512 * b1 force, none⟩], crd := d.crd.drop 1 }

theorem Mach.askMap_wants {m : Mach} {l : Nat} {k : BitVec 9} (h : (m.dir l).want = some k) :
    m.askMap l = m.modDir (dirBack l) (fun d => d.lreq k (m.forceHalf (l / 2))) := by
  unfold Mach.askMap
  rw [h]
  rfl

/-- Newly failed slices that leave four (R195, R196). -/
theorem Mach.markSlices_asks {m : Mach} {l : Nat} {bad : BitVec 9} (hnew : bad &&& ~~~(m.dir l).mask ≠ 0) (hp : pop ((m.dir l).mask ||| bad) 9 ≤ 5) :
    m.markSlices l bad = ((m.slicesFail l (bad &&& ~~~(m.dir l).mask)).modDir l (fun d => { d with want := some ((m.dir l).mask ||| bad) })).modDir
      (dirBack l) (fun d => d.lreq ((m.dir l).mask ||| bad) (m.forceHalf (l / 2))) := by
  unfold Mach.markSlices
  rw [if_neg hnew]
  dsimp only
  rw [if_neg (Nat.not_lt.2 hp), Mach.askMap_wants (k := (m.dir l).mask ||| bad) (by rw [Mach.dir_modDir])]
  congr 1
  funext d
  exact congrArg _ (Mach.forceHalf_slicesFail _ _ _ _)

section
variable {m : Mach} {l : Nat} {bad : BitVec 9} (hnew : bad &&& ~~~(m.dir l).mask ≠ 0) (hp : pop ((m.dir l).mask ||| bad) 9 ≤ 5)
include hnew hp

theorem Mach.want_markSlices : ((m.markSlices l bad).dir l).want = some ((m.dir l).mask ||| bad) := by
  rw [Mach.markSlices_asks hnew hp, Mach.dir_modDir_ne _ _ (dirBack_ne l).symm, Mach.dir_modDir]

theorem Mach.dirBack_markSlices :
    (m.markSlices l bad).dir (dirBack l) = (m.dir (dirBack l)).lreq ((m.dir l).mask ||| bad) (m.forceHalf (l / 2)) := by
  rw [Mach.markSlices_asks hnew hp, Mach.dir_modDir, Mach.dir_modDir_ne _ _ (dirBack_ne l), Mach.dir_slicesFail]

theorem Mach.dir_markSlices_ne {j : Nat} (hj : j ≠ l) (hb : j ≠ dirBack l) : (m.markSlices l bad).dir j = m.dir j := by
  rw [Mach.markSlices_asks hnew hp, Mach.dir_modDir_ne _ _ hb, Mach.dir_modDir_ne _ _ hj, Mach.dir_slicesFail]

theorem Mach.link_markSlices (j : Nat) : (m.markSlices l bad).link j = m.link j := by
  rw [Mach.markSlices_asks hnew hp, Mach.link_modDir, Mach.link_modDir, Mach.link_slicesFail]

theorem Mach.niu_markSlices (j : Nat) : (m.markSlices l bad).niu j = m.niu j := by
  rw [Mach.markSlices_asks hnew hp, Mach.niu_modDir, Mach.niu_modDir, Mach.niu_slicesFail]
end

theorem halfOf_of_pop (k : BitVec 9) (force : Bool) :
    (pop k 9 = 0 → halfOf k force = force) ∧ (pop k 9 = 1 → halfOf k force = false) ∧ (2 ≤ pop k 9 → halfOf k force = true) := by
  unfold halfOf
  refine ⟨fun h => if_pos h, fun h => ?_, fun h => ?_⟩
  · rw [h]
    rfl
  · rw [if_neg (by omega)]
    exact decide_eq_true h

/-- Settles O27: a link instruction changes its link alone; training keeps what it found whatever becomes of the link. -/
theorem linkTraining : Obligations.LinkTraining := by
  refine ⟨fun s e w n => ?_, fun s n fwd back ctlBad => ?_, halfOf_of_pop⟩
  · intro x k l bad mask hn hsc
    have hone := s.m.issued_likeAt e w
    have hdir : (s.m.issued e w).dir l = s.m.dir l := s.m.dir_issued e w l
    have hlink : (s.m.issued e w).link n = k := s.m.link_issued e w n
    have hl : l / 2 = n.val := by
      have : b1 (bt w 24) ≤ 1 := by cases bt w 24 <;> decide
      omega
    have hmap (h : Issues s e w 0x45) := exec_laneMap hn hsc h
    unfold Mach.laneMap at hmap
    rw [hdir, Mach.linkUp, hlink] at hmap
    refine ⟨fun h hk => ?_, fun h hk => ?_, fun h hk => ?_, fun h hk h1 h2 => ?_, fun h hk => ?_, fun h hb hk hp hnew => ?_, fun h hb hk hp hnew => ?_,
      fun h hb hk hp => ?_, fun h hb => ?_⟩
    · refine DoesAt.of_exec (exec_linkExcl hn hsc h) ?_
      rw [Mach.linkExcl, hlink, if_neg hk]
      exact (hone.modLink n _).done 0 []
    · refine Does.of_exec ((exec_linkExcl hn hsc h).trans ?_)
      rw [Mach.linkExcl, hlink, if_pos hk]
      rfl
    · refine DoesAt.of_exec (exec_linkIncl hn hsc h) ?_
      unfold Mach.linkIncl
      rw [hlink]
      dsimp only
      rw [if_neg (by rcases hk with hk | hk <;> rw [hk] <;> decide), if_neg (by rcases hk with hk | hk <;> rw [hk] <;> decide)]
      exact (hone.modLink n _).done 0 []
    · refine DoesAt.of_exec (exec_linkIncl hn hsc h) ?_
      unfold Mach.linkIncl
      rw [hlink, Mach.tileDown_issued, Mach.tileDown_issued, h1, h2]
      dsimp only
      rw [if_neg (by rw [hk]; decide), if_pos hk]
      exact (hone.modLink n _).setWait (.train n)
    · refine Does.of_exec ((exec_linkIncl hn hsc h).trans ?_)
      unfold Mach.linkIncl
      rw [hlink, Mach.tileDown_issued, Mach.tileDown_issued]
      dsimp only
      rcases hk with hk | hk | ⟨hk, ht⟩
      · rw [if_pos (.inl hk)]
        rfl
      · rw [if_pos (.inr (.inl hk))]
        rfl
      · rw [if_neg (by rw [hk]; decide), if_pos hk, if_pos (by rw [Bool.or_eq_true]; exact ht)]
        rfl
    · have hx := hmap h
      rw [if_neg (not_or_intro (not_not_intro hb) (Nat.not_lt.2 hp)), hk, if_neg (by decide), if_neg hnew] at hx
      have hnew' : bad &&& ~~~((s.m.issued e w).dir l).mask ≠ 0 := by rw [hdir]; exact hnew
      have hp' : pop (((s.m.issued e w).dir l).mask ||| bad) 9 ≤ 5 := by rw [hdir]; exact hp
      refine ⟨_, hx, ?_, ?_, (Mach.want_markSlices hnew' hp').trans (by rw [hdir]), ?_, fun j hj hj' => Mach.dir_markSlices_ne hnew' hp' hj hj',
        Mach.link_markSlices hnew' hp', Mach.niu_markSlices hnew' hp'⟩
      · exact congrArg Eng.state (Mach.eng_modEng _ _ _)
      · exact congrArg Eng.wait (Mach.eng_modEng _ _ _)
      · refine (congrArg (fun d : LDir => d.sent.getLast?.map (fun c => (c.tag, c.h, c.arg))) (Mach.dirBack_markSlices hnew' hp')).trans ?_
        rw [hdir, hl, LDir.lreq, List.getLast?_concat]
        rfl
    · refine DoesAt.of_exec (hmap h) ?_
      rw [if_neg (not_or_intro (not_not_intro hb) (Nat.not_lt.2 hp)), hk, if_neg (by decide), if_pos hnew]
      exact hone.done 0 []
    · refine Does.of_exec ((hmap h).trans ?_)
      rw [if_neg (not_or_intro (not_not_intro hb) (Nat.not_lt.2 hp)), if_pos (by rw [decide_eq_false hk]; rfl)]
      rfl
    · refine Does.of_exec ((hmap h).trans ?_)
      rw [if_pos hb]
      rfl
  · intro k found hs
    have hx := exec_linkTrainingDone (n := n) (fwd := fwd) (back := back) (ctlBad := ctlBad) hs
    have hgo (hk : k.st = .train) (hf : s.m.clk.fstop = false) :
        exec (.linkTrainingDone n fwd back ctlBad) s = .next { s with m := s.m.trainEnd n fwd back ctlBad } := by
      rwa [if_neg (not_or_intro (not_not_intro hk) (by rw [hf]; exact Bool.false_ne_true))] at hx
    refine ⟨fun h => ?_, fun hk hf hc h1 h2 => ?_, fun hk hf hb hi => ?_, fun hk hf hb hi => ?_⟩
    · rw [if_pos h] at hx
      exact Does.of_exec hx
    · obtain ⟨hst, hpend, hfound, hhalf⟩ := Mach.trainEnd_up (m := s.m) (n := n) hc h1 h2
      exact ⟨_, hgo hk hf, hst, hpend, hfound, hhalf⟩
    · obtain ⟨hst, hfound⟩ := Mach.trainEnd_excl (m := s.m) (n := n) hb hi
      exact ⟨_, hgo hk hf, hst, hfound⟩
    · obtain ⟨hst, hfound⟩ := Mach.trainEnd_dead (m := s.m) (n := n) hb hi
      exact ⟨_, hgo hk hf, hst, hfound⟩

end Sys2Proof.Machine

/-! PROOFS. Slots of a link, replay and map changes (O28). -/

namespace Sys2Proof.Machine

/-! ## A slot without errors on its wires -/

/-- The control word that a slot's sender drives, NAK clear (R186). -/
def Slot.ctlWord (c : Slot) (rpt : Nat) : BitVec 24 :=
  mkf 24 20 4 c.tag ||| mkf 24 19 1 (b1 c.h) ||| mkf 24 15 4 c.crd ||| mkf 24 14 1 (b1 false) ||| mkf 24 0 12 rpt

section
variable {c : Slot} {rpt : Nat}

theorem Slot.tag_ctlWord (ht : c.tag < 16) : bf (c.ctlWord rpt) 20 4 = c.tag := by
  simp [Slot.ctlWord, bf_or, bf_mkf, bf_mkf_ne]
  omega

theorem Slot.crd_ctlWord (hc : c.crd < 16) : bf (c.ctlWord rpt) 15 4 = c.crd := by
  simp [Slot.ctlWord, bf_or, bf_mkf, bf_mkf_ne]
  omega

theorem Slot.h_ctlWord : bt (c.ctlWord rpt) 19 = c.h := by
  cases hh : c.h <;> simp [Slot.ctlWord, bt_or, bt_mkf, b1, hh]

theorem Slot.nak_ctlWord : bt (c.ctlWord rpt) 14 = false := by
  simp [Slot.ctlWord, bt_or, bt_mkf, b1]

/-- The control word of a slot whose wires carry no error (R186, R187, R190). -/
theorem ctlOf_clean (ht : c.tag < 16) (hc : c.crd < 16) (hh : c.tag < 13 ∨ c.h = false) :
    ctlOf c false rpt 0 = ⟨c.tag, c.h, c.crd, bf (c.ctlWord rpt) 0 12, false, false⟩ := by
  have hz : c.ctlWord rpt ^^^ 0 = c.ctlWord rpt := BitVec.xor_zero
  have hbad : (decide (13 ≤ c.tag) && c.h) = false := by
    rcases hh with h | h
    · rw [decide_eq_false (by omega), Bool.false_and]
    · rw [h, Bool.and_false]
  unfold ctlOf
  rw [← Slot.ctlWord, hz]
  dsimp only
  rw [Slot.tag_ctlWord ht, Slot.crd_ctlWord hc, Slot.h_ctlWord, Slot.nak_ctlWord, hbad]
  rfl
end

theorem bt_of_bf_zero {n lo len i : Nat} {e : BitVec n} (h : bf e lo len = 0) (hi : i < len) : bt e (lo + i) = false := by
  have hb := testBit_bf e lo len i
  rw [h, Nat.zero_testBit, decide_eq_true hi, Bool.true_and] at hb
  exact hb.symm

/-- An error on wire 20 alone of the wires that the first parity bit covers (R190). -/
theorem ctlOf_bad (c : Slot) (nak : Bool) (rpt : Nat) {e : BitVec 24} (h20 : bt e 20 = true) (h21 : bf e 21 3 = 0) (h13 : bf e 13 2 = 0)
    (h19 : bt e 19 = false) : (ctlOf c nak rpt e).bad = true := by
  have hpop : pop (e.extractLsb' 19 5) 5 = 1 := by
    have hx (i : Nat) (hi : i < 5) : bt (e.extractLsb' 19 5) i = bt e (19 + i) := by
      rw [bt, BitVec.getLsbD_extractLsb', decide_eq_true hi, Bool.true_and, bt]
    simp only [pop]
    rw [hx 4 (by decide), hx 3 (by decide), hx 2 (by decide), hx 1 (by decide), hx 0 (by decide), h19, h20,
      show bt e (19 + 2) = false from bt_of_bf_zero h21 (i := 0) (by decide), show bt e (19 + 3) = false from bt_of_bf_zero h21 (i := 1) (by decide),
      show bt e (19 + 4) = false from bt_of_bf_zero h21 (i := 2) (by decide)]
    rfl
  unfold ctlOf
  dsimp only
  rw [hpop, show bt e 14 = false from bt_of_bf_zero h13 (i := 1) (by decide), show bt e 13 = false from bt_of_bf_zero h13 (i := 0) (by decide)]
  simp [b1]

/-! ## A flit without errors on its slices -/

/-- The lane check of a flit whose slices carry no error (R185, R191). -/
theorem Mach.laneCheck_clean (m : Mach) (l : Nat) (second : Bool) {f : Flit} (hf : f.bad = 0) :
    ∀ r ∈ m.laneCheck l second f 0, r.2.2.1 = .clean ∧ r.2.2.2 = 0 := by
  have hz (k : Nat) : sliceCheck ((0 : BitVec 648).extractLsb' k 72) = (.clean, 0) := by
    rw [show (0 : BitVec 648).extractLsb' k 72 = 0 from BitVec.extractLsb'_zero]
    decide
  intro r hr
  unfold Mach.laneCheck at hr
  obtain ⟨w, -, rfl⟩ := List.mem_map.1 hr
  dsimp only
  rw [hz, hf, show bt (0 : BitVec 8) w = false from BitVec.getLsbD_zero]
  exact ⟨rfl, rfl⟩

theorem reencode_clean {f : Flit} {c : List (Nat × Nat × SliceRes × BitVec 64)} (h : ∀ r ∈ c, r.2.2.1 = .clean ∧ r.2.2.2 = 0) : reencode f c = f := by
  unfold reencode
  induction c with
  | nil => rfl
  | cons r c ih =>
    obtain ⟨hc, hz⟩ := h r (.head _)
    have hm (k : Nat) : mkf 512 (64 * k) 64 (0 : BitVec 64).toNat = 0 := by
      unfold mkf
      rw [show (0 : BitVec 64).toNat = 0 from rfl, Nat.zero_mod, Nat.zero_shiftLeft]
      rfl
    rw [List.foldl_cons]
    dsimp only
    rw [hc, hz, hm, if_neg (by decide), show f.bits ^^^ 0 = f.bits from BitVec.xor_zero]
    exact ih (fun x hx => h x (.tail _ hx))

/-- A direction whose slot has been examined: no slice of it was in error. -/
def Mach.examined (m : Mach) (l : Nat) : Mach := m.modDir l (fun d => d)

/-- A flit that is whole, out of its slots, goes to its VC. -/
def Mach.arrives (m : Mach) (l k vc : Nat) (f : Flit) : Mach := (((m.examined l).confirm l k).modDir l (fun d => { d with half1 := none })).deliverFlit l vc f

/-- The first half of a flit waits for the second (R197). -/
def Mach.halfArrives (m : Mach) (l vc : Nat) (f : Flit) : Mach :=
  (m.examined l).modDir l (fun d => { d with half1 := some (vc, f), sent := modAt (fun s : Slot => { s with crd := 15 }) d.sent 0 })

section
variable {m : Mach} {l : Nat} {c : Ctl} {f : Flit}

theorem Mach.laneCheck_dirty (second : Bool) (hf : f.bad = 0) :
    (m.laneCheck l second f 0).filter (fun r => decide (r.2.2.1 ≠ .clean)) = [] :=
  List.filter_eq_nil_iff.2 (fun r hr => by rw [(m.laneCheck_clean l second hf r hr).1]; decide)

theorem Mach.laneCheck_cnt (second : Bool) (hf : f.bad = 0) {x : SliceRes} (hx : x ≠ .clean) :
    cnt (fun r => decide (r.2.2.1 = x)) (m.laneCheck l second f 0) = 0 := by
  rw [cnt, List.filter_eq_nil_iff.2 (fun r hr => by rw [(m.laneCheck_clean l second hf r hr).1]; simpa using hx.symm)]
  rfl

/-- The slot of a flit that no first half stands for. -/
theorem Mach.flitSlot_first (hf : f.bad = 0) (hh : c.h = f.head) (h1 : (m.dir l).half1 = none) :
    m.flitSlot l c f 0 = if (m.dir l).half then m.halfArrives l c.tag f else m.arrives l 1 c.tag f := by
  have hf0 : ({ f with head := c.h } : Flit) = f := by rw [hh]
  unfold Mach.flitSlot
  dsimp only
  rw [h1]
  dsimp only
  rw [hf0, Mach.laneCheck_dirty _ hf, Mach.laneCheck_cnt _ hf (by decide), Mach.laneCheck_cnt _ hf (by decide),
    reencode_clean (m.laneCheck_clean l _ hf), if_pos rfl, if_pos rfl, if_neg (fun h => h.2 rfl)]
  cases (m.dir l).half <;> rfl

/-- The second slot of a flit. -/
theorem Mach.flitSlot_second {g : Flit} {vc : Nat} (hg : g.bad = 0) (hw : (m.dir l).half = true) (h1 : (m.dir l).half1 = some (vc, g)) :
    m.flitSlot l c f 0 = m.arrives l 2 vc g := by
  unfold Mach.flitSlot
  dsimp only
  rw [h1, hw]
  dsimp only
  rw [Mach.laneCheck_dirty _ hg, Mach.laneCheck_cnt _ hg (by decide), Mach.laneCheck_cnt _ hg (by decide),
    reencode_clean (m.laneCheck_clean l _ hg), if_pos rfl, if_pos rfl, if_neg (fun h => h.2 rfl)]
  rfl
end

/-! ## A flit that enters an input VC -/

theorem kVc_div {t inp vc : Nat} (h : vc < 12) : kVc t inp vc / 12 = t * 8 + inp := by
  unfold kVc
  omega

/-- The steps of `freeReg`. -/
def Mach.freeVc (m : Mach) (k : Nat) : Mach := if (m.vc k).inReg then m.modVc k (fun b => { b with inReg := false }) else m

theorem Mach.freeReg_eq (m : Mach) (t inp : Nat) : m.freeReg t inp = (List.range 12).foldl (fun m vc => m.freeVc (kVc t inp vc)) m := rfl

theorem Mach.vc_freeVc (m : Mach) (k j : Nat) : (m.freeVc k).vc j = if j = k then { m.vc j with inReg := false } else m.vc j := by
  unfold Mach.freeVc
  by_cases hj : j = k
  · subst hj
    rw [if_pos rfl]
    split
    · rw [Mach.vc_modVc]
    · next h => rw [← Bool.eq_false_iff.2 h]
  · rw [if_neg hj]
    split
    · rw [Mach.vc_modVc_ne _ _ hj]
    · rfl

/-- A flit takes an input's register: what stood there is in its VC buffer now (R158). -/
theorem Mach.vc_freeReg (m : Mach) (t inp j : Nat) :
    (m.freeReg t inp).vc j = if j / 12 = t * 8 + inp then { m.vc j with inReg := false } else m.vc j := by
  have h (n : Nat) (hn : n ≤ 12) : ((List.range n).foldl (fun m vc => m.freeVc (kVc t inp vc)) m).vc j =
      if j / 12 = t * 8 + inp ∧ j % 12 < n then { m.vc j with inReg := false } else m.vc j := by
    induction n with
    | zero => rw [if_neg (by omega)]; rfl
    | succ n ih =>
      rw [List.range_succ, List.foldl_append, List.foldl_cons, List.foldl_nil, Mach.vc_freeVc, ih (by omega)]
      have hk : j = kVc t inp n ↔ j / 12 = t * 8 + inp ∧ j % 12 = n := by unfold kVc; omega
      by_cases hj : j = kVc t inp n
      · obtain ⟨hd, hm⟩ := hk.1 hj
        rw [if_pos hj, if_neg (fun h : j / 12 = t * 8 + inp ∧ j % 12 < n => by omega),
          if_pos (show j / 12 = t * 8 + inp ∧ j % 12 < n + 1 from ⟨hd, by omega⟩)]
      · rw [if_neg hj]
        exact if_congr (by omega) rfl rfl
  rw [Mach.freeReg_eq, h 12 (Nat.le_refl _)]
  exact if_congr (by omega) rfl rfl

theorem Mach.freeReg_keeps {γ : Type} {π : Mach → γ} (h : ∀ m k f, π (m.modVc k f) = π m) (m : Mach) (t inp : Nat) : π (m.freeReg t inp) = π m :=
  foldl_keeps π _ _ _ (fun m k => by
    change π (m.freeVc (kVc t inp k)) = π m
    unfold Mach.freeVc
    split
    · exact h _ _ _
    · rfl)

theorem Mach.count_keeps {γ : Type} {π : Mach → γ} (hreg : ∀ (m : Mach) a w, π (m.setReg a w) = π m) (htele : ∀ (m : Mach) f, π (m.modTele f) = π m)
    (m : Mach) (base w code : Nat) (sel tc : Option Nat) (k : Nat) (hd : FlitBits) : π (m.count base w code sel tc k hd) = π m := by
  have hadd (m : Mach) (n k : Nat) : π (m.addCtr n k hd) = π m := by
    unfold Mach.addCtr
    dsimp only
    split
    · exact hreg _ _ _
    · exact (htele _ _).trans (hreg _ _ _)
  unfold Mach.count
  split
  · rfl
  · refine foldl_keeps π _ _ _ (fun m i => ?_)
    dsimp only
    split
    · exact hadd _ _ _
    · rfl

theorem Mach.headSeen_keeps {γ : Type} {π : Mach → γ} (hreg : ∀ (m : Mach) a w, π (m.setReg a w) = π m) (hflt : ∀ (m : Mach) f, π (m.modFlt f) = π m)
    (m : Mach) (t inp : Nat) (h : FlitBits) : π (m.headSeen t inp h) = π m := by
  have hmiss : π (if isComb h || (m.imgOf (hEpoch h)).2 then m else (m.orReg (aTile t 0x10) 1).addFld (aTile t 0x18) 0 16 1) = π m := by
    split
    · rfl
    · exact (hreg _ _ _).trans (hreg _ _ _)
  unfold Mach.headSeen
  dsimp only
  generalize (if isComb h || (m.imgOf (hEpoch h)).2 then m else (m.orReg (aTile t 0x10) 1).addFld (aTile t 0x18) 0 16 1) = a at hmiss
  split
  · exact hmiss
  split
  · exact (Mach.occur_leaves _ _ _ _ _ _ _ hflt).trans hmiss
  · exact ((hreg _ _ _).trans (hreg _ _ _)).trans hmiss

/-- A direction whose slots, first half and NAK are as they were. -/
def LDir.Held (d x : LDir) : Prop := d.nak = x.nak ∧ d.sent = x.sent ∧ d.half1 = x.half1

/-- Machine `b` is `a` after the flit `f` has come into input VC `k` (R158). -/
structure Mach.Delivers (a b : Mach) (k : Nat) (f : Flit) : Prop where
  q     : (b.vc k).q = (a.vc k).q ++ [f]
  inReg : (b.vc k).inReg = true
  vc    : ∀ j, j ≠ k → { b.vc j with inReg := (a.vc j).inReg } = a.vc j
  far   : ∀ j, j / 12 ≠ k / 12 → b.vc j = a.vc j
  near  : ∀ j, j / 12 = k / 12 → j ≠ k → (b.vc j).inReg = false
  eng   : ∀ j, b.eng j = a.eng j
  niu   : ∀ j, b.niu j = a.niu j

theorem Mach.freeReg_delivers (m : Mach) {t inp vc : Nat} {f : Flit} (hv : vc < 12) (g : VcBuf → VcBuf) (hq : ∀ b, (g b).q = b.q ++ [f])
    (hr : ∀ b, (g b).inReg = true) : m.Delivers ((m.freeReg t inp).modVc (kVc t inp vc) g) (kVc t inp vc) f := by
  have hk := kVc_div (t := t) (inp := inp) hv
  refine ⟨?_, ?_, fun j hj => ?_, fun j hj => ?_, fun j hj hne => ?_, fun j => ?_, fun j => ?_⟩
  · rw [Mach.vc_modVc, hq, Mach.vc_freeReg, if_pos hk]
  · rw [Mach.vc_modVc, hr]
  · rw [Mach.vc_modVc_ne _ _ hj, Mach.vc_freeReg]
    split <;> rfl
  · rw [Mach.vc_modVc_ne _ _ (fun hh => hj (by rw [hh])), Mach.vc_freeReg, if_neg (by rwa [← hk])]
  · rw [Mach.vc_modVc_ne _ _ hne, Mach.vc_freeReg, if_pos (by rwa [← hk])]
  · rw [Mach.eng_modVc, Mach.freeReg_keeps (π := fun m => m.eng j) (fun _ _ _ => rfl)]
  · rw [Mach.niu_modVc, Mach.freeReg_keeps (π := fun m => m.niu j) (fun _ _ _ => rfl)]

/-- ... also where registers and counters have changed. -/
theorem Mach.Delivers.of {a b c : Mach} {k : Nat} {f : Flit} (h : b.Delivers c k f) (hvc : ∀ j, b.vc j = a.vc j) (heng : ∀ j, b.eng j = a.eng j)
    (hniu : ∀ j, b.niu j = a.niu j) : a.Delivers c k f where
  q := by rw [h.q, hvc]
  inReg := h.inReg
  vc j hj := by rw [← hvc, h.vc j hj]
  far j hj := by rw [h.far j hj, hvc]
  near := h.near
  eng j := by rw [h.eng, heng]
  niu j := by rw [h.niu, hniu]

/-- ... and where something else has changed since. -/
theorem Mach.Delivers.to {a b c : Mach} {k : Nat} {f : Flit} (h : a.Delivers b k f) (hvc : ∀ j, c.vc j = b.vc j) (heng : ∀ j, c.eng j = b.eng j)
    (hniu : ∀ j, c.niu j = b.niu j) : a.Delivers c k f where
  q := by rw [hvc, h.q]
  inReg := by rw [hvc, h.inReg]
  vc j hj := by rw [hvc, h.vc j hj]
  far j hj := by rw [hvc, h.far j hj]
  near j hj hne := by rw [hvc, h.near j hj hne]
  eng j := by rw [heng, h.eng]
  niu j := by rw [hniu, h.niu]

/-- Whether a flit is lost as it enters a router (R48, R282, R484). -/
def Mach.lostFlit (m : Mach) (t inp vc : Nat) (f : Flit) : Bool := if f.head then m.lostIn t inp f.bits else (m.vc (kVc t inp vc)).drop

theorem Mach.lostFlit_modDir (m : Mach) (l t inp vc : Nat) (g : LDir → LDir) (f : Flit) : (m.modDir l g).lostFlit t inp vc f = m.lostFlit t inp vc f := rfl

/-- What a router records of a flit that enters it. -/
def Mach.flitSeen (m : Mach) (t inp vc : Nat) (f : Flit) : Mach :=
  let m := m.countRtr t 3 (some inp) (some (vcTc vc)) (if f.head then f.bits else (m.vc (kVc t inp vc)).hd)
  if f.head then m.headSeen t inp f.bits else m

theorem Mach.flitSeen_keeps {γ : Type} {π : Mach → γ} (hreg : ∀ (m : Mach) a w, π (m.setReg a w) = π m) (htele : ∀ (m : Mach) f, π (m.modTele f) = π m)
    (hflt : ∀ (m : Mach) f, π (m.modFlt f) = π m) (m : Mach) (t inp vc : Nat) (f : Flit) : π (m.flitSeen t inp vc f) = π m := by
  unfold Mach.flitSeen
  dsimp only
  split
  · exact (Mach.headSeen_keeps hreg hflt _ _ _ _).trans (Mach.count_keeps hreg htele _ _ _ _ _ _ _ _)
  · exact Mach.count_keeps hreg htele _ _ _ _ _ _ _ _

/-- A flit that is not lost enters its VC (R158, R163). -/
theorem Mach.flitIn_enters {m : Mach} {t inp vc : Nat} {f : Flit} (h : m.lostFlit t inp vc f = false) :
    ∃ g : VcBuf → VcBuf, (∀ b, (g b).q = b.q ++ [f]) ∧ (∀ b, (g b).inReg = true) ∧
      m.flitIn t inp vc f = ((m.flitSeen t inp vc f).freeReg t inp).modVc (kVc t inp vc) g := by
  have hcount (hd : FlitBits) : (m.countRtr t 3 (some inp) (some (vcTc vc)) hd).lostIn t inp f.bits = m.lostIn t inp f.bits :=
    Mach.count_keeps (π := fun m => m.lostIn t inp f.bits) (fun _ _ _ => rfl) (fun _ _ => rfl) _ _ _ _ _ _ _ _
  unfold Mach.lostFlit at h
  unfold Mach.flitIn
  dsimp only
  rw [hcount, h, if_neg Bool.false_ne_true]
  exact ⟨_, fun _ => rfl, fun _ => rfl, rfl⟩

theorem Mach.flitIn_delivers {m : Mach} {t inp vc : Nat} {f : Flit} (hv : vc < 12) (h : m.lostFlit t inp vc f = false) :
    m.Delivers (m.flitIn t inp vc f) (kVc t inp vc) f := by
  obtain ⟨g, hq, hr, he⟩ := Mach.flitIn_enters h
  rw [he]
  refine (Mach.freeReg_delivers _ hv g hq hr).of (fun j => ?_) (fun j => ?_) (fun j => ?_)
  · exact Mach.flitSeen_keeps (π := fun m => m.vc j) (fun _ _ _ => rfl) (fun _ _ => rfl) (fun _ _ => rfl) _ _ _ _ _
  · exact Mach.flitSeen_keeps (π := fun m => m.eng j) (fun _ _ _ => rfl) (fun _ _ => rfl) (fun _ _ => rfl) _ _ _ _ _
  · exact Mach.flitSeen_keeps (π := fun m => m.niu j) (fun _ _ _ => rfl) (fun _ _ => rfl) (fun _ _ => rfl) _ _ _ _ _

/-- ... and changes no other part of the machine. -/
theorem Mach.flitIn_keeps {γ : Type} {π : Mach → γ} (hreg : ∀ (m : Mach) a w, π (m.setReg a w) = π m) (htele : ∀ (m : Mach) f, π (m.modTele f) = π m)
    (hflt : ∀ (m : Mach) f, π (m.modFlt f) = π m) (hvc : ∀ m k f, π (m.modVc k f) = π m) {m : Mach} {t inp vc : Nat} {f : Flit}
    (h : m.lostFlit t inp vc f = false) : π (m.flitIn t inp vc f) = π m := by
  obtain ⟨g, -, -, he⟩ := Mach.flitIn_enters h
  rw [he, hvc, Mach.freeReg_keeps hvc, Mach.flitSeen_keeps hreg htele hflt]

/-- A checked flit without marked words that its router takes goes into the router, past what a head says about its VC (R191). -/
theorem Mach.deliverFlit_eq {m : Mach} {l vc : Nat} {f : Flit} (hf : f.bad = 0) (hd : f.head = false → bt (m.dir l).dvc vc = false) :
    m.deliverFlit l vc f = (if f.head then m.modDir l (fun d => { d with dvc := sf d.dvc vc 1 0 }) else m).flitIn (dirTo l) (dirInput l) vc f := by
  unfold Mach.deliverFlit
  dsimp only
  cases hh : f.head with
  | false => rw [if_neg Bool.false_ne_true, hd hh, if_neg Bool.false_ne_true, if_neg Bool.false_ne_true, if_neg (not_not_intro hf)]
  | true => rw [if_pos rfl, decide_eq_false (not_not_intro hf), if_neg Bool.false_ne_true, if_pos rfl, if_neg (not_not_intro hf)]

section
variable {m : Mach} {l vc : Nat} {f : Flit} (hf : f.bad = 0) (hd : f.head = false → bt (m.dir l).dvc vc = false)
  (h : m.lostFlit (dirTo l) (dirInput l) vc f = false)
include hf hd h

theorem Mach.deliverFlit_delivers (hv : vc < 12) : m.Delivers (m.deliverFlit l vc f) (kVc (dirTo l) (dirInput l) vc) f := by
  rw [Mach.deliverFlit_eq hf hd]
  split
  · exact (Mach.flitIn_delivers (m := m.modDir l _) hv ((m.lostFlit_modDir _ _ _ _ _ _).trans h)).of (fun _ => rfl) (fun _ => rfl) (fun _ => rfl)
  · exact Mach.flitIn_delivers hv h

theorem Mach.outVc_deliverFlit (j : Nat) : (m.deliverFlit l vc f).outVc j = m.outVc j := by
  have hkeep {a : Mach} (ha : a.lostFlit (dirTo l) (dirInput l) vc f = false) : (a.flitIn (dirTo l) (dirInput l) vc f).outVc j = a.outVc j :=
    Mach.flitIn_keeps (π := fun m => m.outVc j) (fun _ _ _ => rfl) (fun _ _ => rfl) (fun _ _ => rfl) (fun _ _ _ => rfl) ha
  rw [Mach.deliverFlit_eq hf hd]
  split
  · exact (hkeep (a := m.modDir l _) ((m.lostFlit_modDir _ _ _ _ _ _).trans h)).trans rfl
  · exact hkeep h

theorem Mach.dir_deliverFlit : ((m.deliverFlit l vc f).dir l).Held (m.dir l) := by
  have hkeep {a : Mach} (ha : a.lostFlit (dirTo l) (dirInput l) vc f = false) : (a.flitIn (dirTo l) (dirInput l) vc f).dir l = a.dir l :=
    Mach.flitIn_keeps (π := fun m => m.dir l) (fun _ _ _ => rfl) (fun _ _ => rfl) (fun _ _ => rfl) (fun _ _ _ => rfl) ha
  rw [Mach.deliverFlit_eq hf hd]
  split
  · rw [hkeep (a := m.modDir l _) ((m.lostFlit_modDir _ _ _ _ _ _).trans h), Mach.dir_modDir]
    exact ⟨rfl, rfl, rfl⟩
  · rw [hkeep h]
    exact ⟨rfl, rfl, rfl⟩
end

theorem Mach.takeCredit_keeps {γ : Type} {π : Mach → γ} (h : ∀ m k f, π (m.modOut k f) = π m) (m : Mach) (l v : Nat) :
    π (m.takeCredit l v) = π m := by
  unfold Mach.takeCredit
  split
  · rfl
  · exact h _ _ _

theorem Mach.outVc_takeCredit (m : Mach) (l v j : Nat) : (m.takeCredit l v).outVc j =
    if v < 12 ∧ j = kVc (dirTo l) (dirInput l) v then { m.outVc j with used := (m.outVc j).used - 1 } else m.outVc j := by
  unfold Mach.takeCredit
  by_cases hv : 12 ≤ v
  · rw [if_pos hv, if_neg (fun h => absurd h.1 (Nat.not_lt.2 hv))]
  · rw [if_neg hv]
    by_cases hj : j = kVc (dirTo l) (dirInput l) v
    · subst hj
      rw [if_pos ⟨Nat.not_le.1 hv, rfl⟩, Mach.outVc_modOut]
    · rw [if_neg (fun h => hj h.2), Mach.outVc_modOut_ne _ _ hj]

/-- The machine once a clean slot has been examined: credit `v` taken, the report kept (R186, R188). -/
def Mach.slotTaken (m : Mach) (l v : Nat) (r : BitVec 16) : Mach := (m.takeCredit l v).modDir l (fun d => { d with rpt := r })

theorem Mach.slotTaken_keeps {γ : Type} {π : Mach → γ} (hout : ∀ m k f, π (m.modOut k f) = π m) (hdir : ∀ m k f, π (m.modDir k f) = π m)
    (m : Mach) (l v : Nat) (r : BitVec 16) : π (m.slotTaken l v r) = π m := (hdir _ _ _).trans (Mach.takeCredit_keeps hout m l v)

theorem Mach.dir_slotTaken (m : Mach) (l v : Nat) (r : BitVec 16) : (m.slotTaken l v r).dir l = { m.dir l with rpt := r } := by
  unfold Mach.slotTaken
  rw [Mach.dir_modDir, Mach.takeCredit_keeps (π := fun m => m.dir l) (fun _ _ _ => rfl)]

theorem Mach.outVc_slotTaken (m : Mach) (l v : Nat) (r : BitVec 16) (j : Nat) : (m.slotTaken l v r).outVc j =
    if v < 12 ∧ j = kVc (dirTo l) (dirInput l) v then { m.outVc j with used := (m.outVc j).used - 1 } else m.outVc j := m.outVc_takeCredit l v j

/-! ## A clean slot of a flit -/

section
variable {m : Mach} {l : Nat} {c : Slot} {p : Flit}

/-- The slot of a flit that stands where it belongs, without an error on its wires (R158, R186). -/
theorem Mach.receive_flit {t : Mach} {e : BitVec 648} (hd : (m.dir l).nak = false) (hb : (m.dir (dirBack l)).nak = false) (hn : m.nextSlot l = (c, m))
    (hf : c.flit = some p) (hc : c.crd < 16) (hw : (c.tag < 12 ∧ (m.dir l).half1 = none) ∨ (c.tag = 14 ∧ c.h = false ∧ (m.dir l).half1.isSome = true))
    (ht : ∀ r, m.flitSlot l ⟨c.tag, c.h, c.crd, r, false, false⟩ p e = t) (hnak : (t.dir l).nak = false)
    (hlen : c.tag < 12 ∨ (t.dir l).sent.length < (m.dir l).sent.length) :
    ∃ r, m.receive l 0 e = t.slotTaken l c.crd r := by
  have htag : c.tag < 16 := by omega
  have hh : c.tag < 13 ∨ c.h = false := by
    rcases hw with ⟨h, -⟩ | ⟨-, h, -⟩
    · exact .inl (by omega)
    · exact .inr h
  have hwhole : (c.tag < 12 ∧ (m.dir l).half1.isSome = false) ∨ (c.tag = 14 ∧ (m.dir l).half1.isSome = true) := by
    rcases hw with ⟨h, hn⟩ | ⟨h, -, hs⟩
    · exact .inl ⟨h, by rw [hn]; rfl⟩
    · exact .inr ⟨h, hs⟩
  have hcred : ((t.takeCredit l c.crd).dir l).nak = false := by
    rw [← hnak]
    unfold Mach.takeCredit
    split <;> rfl
  unfold Mach.receive
  rw [hd, if_neg Bool.false_ne_true, hn]
  dsimp only
  rw [hb, ctlOf_clean htag hc hh]
  dsimp only
  rw [if_neg Bool.false_ne_true, if_neg Bool.false_ne_true, if_pos hwhole, hf]
  dsimp only
  rw [ht]
  have hgo : (if c.tag < 12 ∧ (t.dir l).nak = false then t.takeCredit l c.crd
      else if (t.dir l).sent.length < (m.dir l).sent.length then t.takeCredit l c.crd else t) = t.takeCredit l c.crd := by
    by_cases h12 : c.tag < 12
    · rw [if_pos ⟨h12, hnak⟩]
    · rw [if_neg (fun h => h12 h.1), if_pos (hlen.resolve_left h12)]
  rw [hgo, hcred, if_neg Bool.false_ne_true]
  exact ⟨_, rfl⟩
end

/-- The machine before a whole flit is delivered. -/
def Mach.whole (m : Mach) (l k : Nat) : Mach := ((m.examined l).confirm l k).modDir l (fun d => { d with half1 := none })

theorem Mach.arrives_eq (m : Mach) (l k vc : Nat) (f : Flit) : m.arrives l k vc f = (m.whole l k).deliverFlit l vc f := rfl

theorem Mach.dir_whole (m : Mach) (l k : Nat) : ((m.whole l k).dir l).nak = (m.dir l).nak ∧ ((m.whole l k).dir l).sent = (m.dir l).sent.drop k ∧
    ((m.whole l k).dir l).half1 = none ∧ ((m.whole l k).dir l).dvc = (m.dir l).dvc := by
  unfold Mach.whole Mach.confirm Mach.examined
  rw [Mach.dir_modDir, Mach.dir_modDir, Mach.dir_modDir]
  exact ⟨rfl, rfl, rfl, rfl⟩

theorem Mach.vc_whole (m : Mach) (l k j : Nat) : (m.whole l k).vc j = m.vc j := rfl
theorem Mach.eng_whole (m : Mach) (l k j : Nat) : (m.whole l k).eng j = m.eng j := rfl
theorem Mach.niu_whole (m : Mach) (l k j : Nat) : (m.whole l k).niu j = m.niu j := rfl

theorem Mach.lostFlit_whole (m : Mach) (l k t inp vc : Nat) (f : Flit) : (m.whole l k).lostFlit t inp vc f = m.lostFlit t inp vc f := by
  unfold Mach.whole Mach.confirm Mach.examined
  rw [Mach.lostFlit_modDir, Mach.lostFlit_modDir, Mach.lostFlit_modDir]

section
variable {m : Mach} {l k vc : Nat} {f : Flit} (hf : f.bad = 0) (hd : f.head = false → bt (m.dir l).dvc vc = false)
  (h : m.lostFlit (dirTo l) (dirInput l) vc f = false)
include hf hd h

theorem Mach.arrives_delivers (hv : vc < 12) (v : Nat) (r : BitVec 16) :
    m.Delivers ((m.arrives l k vc f).slotTaken l v r) (kVc (dirTo l) (dirInput l) vc) f := by
  obtain ⟨-, -, -, hdvc⟩ := m.dir_whole l k
  rw [← hdvc] at hd
  rw [← m.lostFlit_whole l k] at h
  have hin := (Mach.deliverFlit_delivers (m := m.whole l k) hf hd h hv).of (m.vc_whole l k) (m.eng_whole l k) (m.niu_whole l k)
  rw [Mach.arrives_eq]
  refine hin.to ?_ ?_ ?_
  · exact fun j => Mach.slotTaken_keeps (π := fun m => m.vc j) (fun _ _ _ => rfl) (fun _ _ _ => rfl) _ l v r
  · exact fun j => Mach.slotTaken_keeps (π := fun m => m.eng j) (fun _ _ _ => rfl) (fun _ _ _ => rfl) _ l v r
  · exact fun j => Mach.slotTaken_keeps (π := fun m => m.niu j) (fun _ _ _ => rfl) (fun _ _ _ => rfl) _ l v r

theorem Mach.outVc_arrives (j : Nat) : (m.arrives l k vc f).outVc j = m.outVc j := by
  obtain ⟨-, -, -, hdvc⟩ := m.dir_whole l k
  rw [← hdvc] at hd
  rw [← m.lostFlit_whole l k] at h
  exact (Mach.outVc_deliverFlit (m := m.whole l k) hf hd h j).trans rfl

theorem Mach.dir_arrives : ((m.arrives l k vc f).dir l).nak = (m.dir l).nak ∧ ((m.arrives l k vc f).dir l).sent = (m.dir l).sent.drop k ∧
    ((m.arrives l k vc f).dir l).half1 = none := by
  obtain ⟨hn, hs, h1, hdvc⟩ := m.dir_whole l k
  rw [← hdvc] at hd
  rw [← m.lostFlit_whole l k] at h
  obtain ⟨g1, g2, g3⟩ := Mach.dir_deliverFlit (m := m.whole l k) hf hd h
  exact ⟨g1.trans hn, g2.trans hs, g3.trans h1⟩
end

theorem Mach.dir_halfArrives (m : Mach) (l vc : Nat) (f : Flit) : (m.halfArrives l vc f).dir l =
    { m.dir l with half1 := some (vc, f), sent := modAt (fun s : Slot => { s with crd := 15 }) (m.dir l).sent 0 } := by
  unfold Mach.halfArrives Mach.examined
  rw [Mach.dir_modDir, Mach.dir_modDir]

theorem exec_linkSlotReceive {s : State} {l : LinkDir} {ce : BitVec 24} {se : BitVec 648} (hs : s.m.test.scan = false) (hu : s.m.linkUp (l / 2) = true) :
    exec (.linkSlotReceive l ce se) s = .next { s with m := s.m.receive l ce se } := by
  change execLinkSlotReceive l ce se s = _
  rw [execLinkSlotReceive, State.on_eq hs, if_pos hu]

/-- The machine once a slot with an error in its control word has been examined: NAK (R190, R192). -/
def Mach.slotBad (m : Mach) (l : Nat) : Mach :=
  ((m.addFld (aLinkCnt l) 0 16 1).modDir (dirBack l) (fun d => { d with nak := true })).modDir l
    (fun d => { d with nak := true, half1 := none, bad := (m.dir l).bad ||| 0 })

theorem Mach.dir_slotBad (m : Mach) (l : Nat) : ((m.slotBad l).dir l).nak = true ∧ ((m.slotBad l).dir l).sent = (m.dir l).sent := by
  unfold Mach.slotBad
  rw [Mach.dir_modDir, Mach.dir_modDir_ne _ _ (dirBack_ne l).symm]
  exact ⟨rfl, rfl⟩

theorem Mach.vc_slotBad (m : Mach) (l j : Nat) : (m.slotBad l).vc j = m.vc j := rfl

theorem Mach.fld_slotBad (m : Mach) (l : Nat) : (m.slotBad l).fld (aLinkCnt l) 0 16 = satAdd 16 (m.fld (aLinkCnt l) 0 16) 1 :=
  m.fld_addFld (aLinkCnt l) (lo := 0) (len := 16) (by decide) 1

theorem Mach.receive_bad {m : Mach} {l : Nat} {c : Slot} {ce : BitVec 24} {se : BitVec 648} (hd : (m.dir l).nak = false) (hn : m.nextSlot l = (c, m))
    (hb : ∀ nak rpt, (ctlOf c nak rpt ce).bad = true) (ht : (m.dir l).tries < 8) : m.receive l ce se = m.slotBad l := by
  unfold Mach.receive
  rw [hd, if_neg Bool.false_ne_true, hn]
  dsimp only
  rw [if_pos (hb _ _)]
  have hdir : ((m.addFld (aLinkCnt l) 0 16 1).modDir (dirBack l) (fun d => { d with nak := true })).dir l = m.dir l :=
    Mach.dir_modDir_ne _ _ (dirBack_ne l).symm
  unfold Mach.slotFails
  dsimp only
  rw [hdir, if_pos ht]
  rfl

theorem Mach.nextSlot_first {m : Mach} {l : Nat} {c : Slot} {rest : List Slot} (h1 : (m.dir l).half1 = none) (hs : (m.dir l).sent = c :: rest) :
    m.nextSlot l = (c, m) := by
  unfold Mach.nextSlot
  dsimp only
  rw [h1, hs]
  cases rest <;> rfl

theorem Mach.nextSlot_second {m : Mach} {l : Nat} {b c : Slot} {x : Nat × Flit} {rest : List Slot} (h1 : (m.dir l).half1 = some x)
    (hs : (m.dir l).sent = b :: c :: rest) : m.nextSlot l = (c, m) := by
  unfold Mach.nextSlot
  dsimp only
  rw [h1, hs]

/-! ## Commands -/

theorem Mach.Like.modDir {a m : Mach} (h : a.Like m) (l : Nat) (f : LDir → LDir) : (a.modDir l f).Like (m.modDir l f) := by
  refine { h with dir := fun k => ?_, bare := h.bare }
  by_cases hk : k = l
  · subst hk
    rw [Mach.dir_modDir, Mach.dir_modDir, h.dir]
  · rw [Mach.dir_modDir_ne _ _ hk, Mach.dir_modDir_ne _ _ hk, h.dir]

theorem LDir.command_front {d : LDir} {c : Slot} {rest : List Slot} {h : Bool} (hs : d.sent = c :: rest) (ht : c.tag = 12) (hh : c.h = h)
    (hn : d.nak = false) : d.command h = some c := by
  unfold LDir.command
  rw [hs]
  exact if_pos ⟨ht, hh, hn⟩

/-- A direction that takes NAK: RPLY goes ahead of what follows again (R192). -/
def LDir.replays (d : LDir) : LDir :=
  { d with nak := false, half1 := none, tries := d.tries + 1,
           sent := if (d.sent.map Slot.tag).headD 0 = 13 then d.sent else ⟨13, false, 15, 0, none⟩ :: d.sent }

/-- LREQ `c` has been taken from the opposite direction and is answered (R196). -/
def Mach.lreqTaken (m : Mach) (l : Nat) (c : Slot) : Mach :=
  ((m.confirm (dirBack l) 1).takeCredit (dirBack l) c.crd).sendMap l (BitVec.ofNat 9 c.arg) (c.arg / 512 % 2 == 1)

/-- LMAP `c` has been taken (R196). -/
def Mach.lmapTaken (m : Mach) (l : Nat) (c : Slot) : Mach :=
  ((m.confirm l 1).takeCredit l c.crd).takeMap l (BitVec.ofNat 9 c.arg) (c.arg / 512 % 2 == 1)

section
variable {s : State} {l : LinkDir} {c : Slot} (hs : s.m.test.scan = false) (hu : s.m.linkUp (l / 2) = true)
include hs hu

theorem exec_nakReceive (hn : (s.m.dir l).nak = true) : exec (.nakReceive l) s =
    .next { s with m := ((s.m.modDir l LDir.replays).addFld (aLinkCnt l) 48 16 1).countRtr (dirTo l) 7 (some (dirInput l)) none 0 } := by
  change execNakReceive l s = _
  rw [execNakReceive, State.on_eq hs]
  dsimp only
  rw [hu, hn, if_neg (by decide)]
  rfl

theorem exec_lreqReceive (hc : (s.m.dir (dirBack l)).command false = some c) :
    exec (.lreqReceive l) s = .next { s with m := s.m.lreqTaken l c } := by
  change execLreqReceive l s = _
  rw [execLreqReceive, State.on_eq hs]
  dsimp only
  rw [hc]
  dsimp only
  rw [if_pos hu]
  rfl

theorem exec_lmapReceive (hc : (s.m.dir l).command true = some c) : exec (.lmapReceive l) s = .next { s with m := s.m.lmapTaken l c } := by
  change execLmapReceive l s = _
  rw [execLmapReceive, State.on_eq hs]
  dsimp only
  rw [hc]
  dsimp only
  rw [if_pos hu]
  rfl

theorem exec_lreqRepeat : exec (.lreqRepeat l) s = .next { s with m := if !s.m.clk.fstop then s.m.askMap l else s.m } := by
  change execLreqRepeat l s = _
  rw [execLreqRepeat, State.on_eq hs, hu, Bool.true_and]

theorem exec_sliceThreshold {slice : Slice} (h0 : s.m.fld (aLinkCfg (l / 2)) 16 8 ≠ 0)
    (hle : s.m.fld (aLinkCfg (l / 2)) 16 8 ≤ (s.m.dir l).errs.getD slice 0) (hm : bt (s.m.dir l).mask slice = false) :
    exec (.sliceThreshold l slice) s = .next { s with m := s.m.markSlices l (BitVec.ofNat 9 (2 ^ slice.val)) } := by
  change execSliceThreshold l slice s = _
  rw [execSliceThreshold, State.on_eq hs]
  dsimp only
  rw [if_pos ⟨hu, h0, hle, hm⟩]
end

theorem Mach.modDir_congr {m : Mach} {l : Nat} {f g : LDir → LDir} (h : f (m.dir l) = g (m.dir l)) : m.modDir l f = m.modDir l g := by
  unfold Mach.modDir Tab.upd
  rw [show f (Tab.get dDir m.dirs l) = g (Tab.get dDir m.dirs l) from h]

/-- A direction whose sender has answered LREQ, no credit waiting (R196). -/
theorem Mach.dir_sendMap {m : Mach} {l : Nat} (k : BitVec 9) (force : Bool) (hc : (m.dir l).crd = []) :
    ((m.sendMap l k force).dir l).lmap = some (k, force) ∧ ((m.sendMap l k force).dir l).sent = (m.dir l).sent.take (m.dir l).ahead ++
      [⟨12, true, 15, k.toNat + 512 * b1 force, none⟩, ⟨15, false, 15, 0, none⟩, ⟨15, false, 15, 0, none⟩] ++
      (reslot (halfOf k force) (((m.dir l).sent.drop (m.dir l).ahead).map
        (fun x => if x.tag = 12 ∧ x.h = true then { x with arg := k.toNat + 512 * b1 force } else x))).1 := by
  unfold Mach.sendMap
  rw [Mach.dir_modDir]
  dsimp only
  rw [hc]
  exact ⟨rfl, rfl⟩

/-- The command slot at a direction's front has been taken. -/
theorem Mach.dir_confirm (m : Mach) (l k : Nat) : ((m.confirm l k).dir l).sent = (m.dir l).sent.drop k ∧ ((m.confirm l k).dir l).fail = (m.dir l).fail := by
  unfold Mach.confirm
  rw [Mach.dir_modDir]
  exact ⟨rfl, rfl⟩

/-- A direction whose receiver has taken LMAP (R196). -/
def LDir.mapped (d : LDir) (k : BitVec 9) (force : Bool) : LDir :=
  { d with fail := d.fail ||| k, half := halfOf (d.fail ||| k) force, lmap := if d.lmap = some (k, force) then none else d.lmap,
           want := if d.want = some k then none else d.want }

/-- A map that leaves four slices comes into force (R196). -/
theorem Mach.takeMap_maps {m : Mach} {l : Nat} {k : BitVec 9} {force : Bool} (h : pop ((m.dir l).fail ||| k) 9 ≤ 5) :
    ((m.takeMap l k force).dir l).sent = (m.dir l).sent ∧ ((m.takeMap l k force).dir l).fail = (m.dir l).fail ||| k ∧
      ((m.takeMap l k force).dir l).half = halfOf ((m.dir l).fail ||| k) force := by
  have hx : (m.takeMap l k force).dir l = (m.dir l).mapped k force := by
    unfold Mach.takeMap
    dsimp only
    rw [if_neg (Nat.not_lt.2 h)]
    split
    · rw [Mach.finish_keeps (π := fun m => m.dir l) (fun _ _ => rfl), Mach.dir_modDir]
      rfl
    · rw [Mach.dir_modDir]
      rfl
  rw [hx]
  generalize m.dir l = d
  exact ⟨rfl, rfl, rfl⟩

theorem Mach.takeMap_dies {m : Mach} {l : Nat} {k : BitVec 9} (force : Bool) (h : 5 < pop ((m.dir l).fail ||| k) 9) :
    ((m.takeMap l k force).link (l / 2)).st = .dead := by
  unfold Mach.takeMap
  dsimp only
  rw [if_pos h]
  exact Mach.link_linkDie _ _

/-- A newly failed slice that leaves fewer than four (R195). -/
theorem Mach.markSlices_dies {m : Mach} {l : Nat} {bad : BitVec 9} (hnew : bad &&& ~~~(m.dir l).mask ≠ 0) (hp : 5 < pop ((m.dir l).mask ||| bad) 9) :
    ((m.markSlices l bad).link (l / 2)).st = .dead ∧ ((m.markSlices l bad).dir l).fail = (m.dir l).mask ||| bad := by
  unfold Mach.markSlices
  rw [if_neg hnew]
  dsimp only
  rw [if_pos hp, Mach.fail_linkDie _ rfl, Mach.dir_modDir]
  exact ⟨Mach.link_linkDie _ _, rfl⟩

/-- A slice that is not marked yet. -/
theorem slice_new {k : BitVec 9} (slice : Slice) (h : bt k slice = false) : BitVec.ofNat 9 (2 ^ slice.val) &&& ~~~k ≠ 0 := by
  intro hz
  have hone : (BitVec.ofNat 9 (2 ^ slice.val)).getLsbD slice.val = true := by
    rw [BitVec.getLsbD_ofNat, Nat.testBit_two_pow_self, decide_eq_true slice.isLt]
    rfl
  have hb := congrArg (fun w : BitVec 9 => w.getLsbD slice.val) hz
  rw [BitVec.getLsbD_and, BitVec.getLsbD_not, hone, show k.getLsbD slice.val = false from h, decide_eq_true slice.isLt,
    show (0 : BitVec 9).getLsbD slice.val = false from BitVec.getLsbD_zero] at hb
  exact absurd hb (by decide)

/-- The argument of LMAP is that of the LREQ it answers (R196). -/
theorem mapArg_eq (a : Nat) : (BitVec.ofNat 9 a).toNat + 512 * b1 (a / 512 % 2 == 1) = a % 1024 := by
  rw [BitVec.toNat_ofNat]
  obtain h | h : a / 512 % 2 = 0 ∨ a / 512 % 2 = 1 := by omega
  · rw [h, show b1 (0 == 1) = 0 from rfl]
    omega
  · rw [h, show b1 (1 == 1) = 1 from rfl]
    omega

theorem dirTo_lt (l : LinkDir) : dirTo l < 128 := by
  have := l.isLt
  unfold dirTo linkTile2 linkTile
  split <;> split <;> omega

section
variable {s : State} {l : LinkDir} {c : Slot} {rest : List Slot} {f : Flit} (hs : s.m.test.scan = false) (hu : s.m.linkUp (l / 2) = true)
  (hnak : (s.m.dir l).nak = false) (hbn : (s.m.dir (dirBack l)).nak = false) (hc : c.crd < 16) (hbad : f.bad = 0)
include hs hu hnak hbn hc hbad

/-- The first slot of a flit at half width (R197). -/
theorem exec_halfSlot (hw : (s.m.dir l).half = true) (h1 : (s.m.dir l).half1 = none) (hsent : (s.m.dir l).sent = c :: rest) (hflit : c.flit = some f)
    (ht : c.tag < 12) (hh : c.h = f.head) :
    ∃ r, exec (.linkSlotReceive l 0 0) s = .next { s with m := (s.m.halfArrives l c.tag f).slotTaken l c.crd r } := by
  obtain ⟨r, hr⟩ := Mach.receive_flit (t := s.m.halfArrives l c.tag f) (e := 0) hnak hbn (Mach.nextSlot_first h1 hsent) hflit hc
    (.inl ⟨ht, h1⟩) (fun r => (Mach.flitSlot_first hbad hh h1).trans (if_pos hw)) (by rw [Mach.dir_halfArrives]; exact hnak) (.inl ht)
  exact ⟨r, by rw [exec_linkSlotReceive hs hu, hr]⟩

/-- ... and the second. -/
theorem exec_secondSlot {vc : Nat} {b : Slot} {p : Flit} (hw : (s.m.dir l).half = true) (h1 : (s.m.dir l).half1 = some (vc, f))
    (hsent : (s.m.dir l).sent = b :: c :: rest) (hflit : c.flit = some p) (ht : c.tag = 14) (hh : c.h = false)
    (hd : f.head = false → bt (s.m.dir l).dvc vc = false) (hl : s.m.lostFlit (dirTo l) (dirInput l) vc f = false) :
    ∃ r, exec (.linkSlotReceive l 0 0) s = .next { s with m := (s.m.arrives l 2 vc f).slotTaken l c.crd r } := by
  obtain ⟨hn, hse, -⟩ := Mach.dir_arrives (k := 2) hbad hd hl
  obtain ⟨r, hr⟩ := Mach.receive_flit (t := s.m.arrives l 2 vc f) (e := 0) hnak hbn (Mach.nextSlot_second h1 hsent) hflit hc
    (.inr ⟨ht, hh, by rw [h1]; rfl⟩) (fun r => Mach.flitSlot_second hbad hw h1) (hn.trans hnak)
    (.inr (by rw [hse, hsent]; simp only [List.drop_succ_cons, List.drop_zero, List.length_cons]; omega))
  exact ⟨r, by rw [exec_linkSlotReceive hs hu, hr]⟩

/-- The slot of a flit at full width (R158). -/
theorem exec_fullSlot (hw : (s.m.dir l).half = false) (h1 : (s.m.dir l).half1 = none) (hsent : (s.m.dir l).sent = c :: rest) (hflit : c.flit = some f)
    (ht : c.tag < 12) (hh : c.h = f.head) (hd : f.head = false → bt (s.m.dir l).dvc c.tag = false)
    (hl : s.m.lostFlit (dirTo l) (dirInput l) c.tag f = false) :
    ∃ r, exec (.linkSlotReceive l 0 0) s = .next { s with m := (s.m.arrives l 1 c.tag f).slotTaken l c.crd r } := by
  obtain ⟨hn, -, -⟩ := Mach.dir_arrives (k := 1) hbad hd hl
  obtain ⟨r, hr⟩ := Mach.receive_flit (t := s.m.arrives l 1 c.tag f) (e := 0) hnak hbn (Mach.nextSlot_first h1 hsent) hflit hc (.inl ⟨ht, h1⟩)
    (fun r => (Mach.flitSlot_first hbad hh h1).trans (if_neg (by rw [hw]; exact Bool.false_ne_true))) (hn.trans hnak) (.inl ht)
  exact ⟨r, by rw [exec_linkSlotReceive hs hu, hr]⟩
end

section
variable {m : Mach} {l : Nat} {c : Slot} {rest : List Slot}

/-- LREQ has been answered, no credit waiting to be returned (R196). -/
theorem Mach.lreqTaken_answers (hb : (m.dir (dirBack l)).sent = c :: rest) (hd : (m.dir l).crd = []) :
    ((m.lreqTaken l c).dir (dirBack l)).sent = rest ∧
      ((m.lreqTaken l c).dir l).sent = (m.dir l).sent.take (m.dir l).ahead ++
        [⟨12, true, 15, c.arg % 1024, none⟩, ⟨15, false, 15, 0, none⟩, ⟨15, false, 15, 0, none⟩] ++
        (reslot (halfOf (BitVec.ofNat 9 c.arg) (c.arg / 512 % 2 == 1)) (((m.dir l).sent.drop (m.dir l).ahead).map
          (fun x => if x.tag = 12 ∧ x.h = true then { x with arg := c.arg % 1024 } else x))).1 ∧
      ((m.lreqTaken l c).dir l).lmap = some (BitVec.ofNat 9 c.arg, c.arg / 512 % 2 == 1) := by
  have hdl : ((m.confirm (dirBack l) 1).takeCredit (dirBack l) c.crd).dir l = m.dir l :=
    (Mach.takeCredit_keeps (π := fun m => m.dir l) (fun _ _ _ => rfl) _ _ _).trans (Mach.dir_modDir_ne _ _ (dirBack_ne l).symm)
  have hdb : (((m.confirm (dirBack l) 1).takeCredit (dirBack l) c.crd).dir (dirBack l)).sent = rest := by
    rw [Mach.takeCredit_keeps (π := fun m => m.dir (dirBack l)) (fun _ _ _ => rfl), (m.dir_confirm _ _).1, hb]
    rfl
  unfold Mach.lreqTaken
  generalize (m.confirm (dirBack l) 1).takeCredit (dirBack l) c.crd = a at *
  obtain ⟨hmap, hsent⟩ := Mach.dir_sendMap (m := a) (l := l) (BitVec.ofNat 9 c.arg) (c.arg / 512 % 2 == 1) (by rw [hdl]; exact hd)
  rw [hdl, mapArg_eq] at hsent
  exact ⟨(congrArg LDir.sent (Mach.dir_modDir_ne _ _ (dirBack_ne l))).trans hdb, hsent, hmap⟩

/-- The direction whose command LMAP is about to be carried out. -/
theorem Mach.dir_lmapSlot (hd : (m.dir l).sent = c :: rest) :
    (((m.confirm l 1).takeCredit l c.crd).dir l).sent = rest ∧ (((m.confirm l 1).takeCredit l c.crd).dir l).fail = (m.dir l).fail := by
  obtain ⟨h1, h2⟩ := m.dir_confirm l 1
  rw [Mach.takeCredit_keeps (π := fun m => m.dir l) (fun _ _ _ => rfl), h1, h2, hd]
  exact ⟨rfl, rfl⟩

theorem Mach.lmapTaken_maps (hd : (m.dir l).sent = c :: rest) (hp : pop ((m.dir l).fail ||| BitVec.ofNat 9 c.arg) 9 ≤ 5) :
    ((m.lmapTaken l c).dir l).sent = rest ∧ ((m.lmapTaken l c).dir l).fail = (m.dir l).fail ||| BitVec.ofNat 9 c.arg ∧
      ((m.lmapTaken l c).dir l).half = halfOf ((m.dir l).fail ||| BitVec.ofNat 9 c.arg) (c.arg / 512 % 2 == 1) := by
  obtain ⟨h1, h2⟩ := Mach.dir_lmapSlot hd
  unfold Mach.lmapTaken
  generalize (m.confirm l 1).takeCredit l c.crd = a at *
  rw [← h2] at hp ⊢
  rw [← h1]
  exact Mach.takeMap_maps hp

theorem Mach.lmapTaken_dies (hd : (m.dir l).sent = c :: rest) (hp : 5 < pop ((m.dir l).fail ||| BitVec.ofNat 9 c.arg) 9) :
    ((m.lmapTaken l c).link (l / 2)).st = .dead := by
  obtain ⟨-, h2⟩ := Mach.dir_lmapSlot hd
  unfold Mach.lmapTaken
  generalize (m.confirm l 1).takeCredit l c.crd = a at *
  rw [← h2] at hp
  exact Mach.takeMap_dies _ hp
end

theorem Mach.replays_eq {m : Mach} {l : Nat} (h : ((m.dir l).sent.map Slot.tag).headD 0 ≠ 13) : m.modDir l LDir.replays =
    m.modDir l (fun d => { d with nak := false, half1 := none, tries := d.tries + 1, sent := ⟨13, false, 15, 0, none⟩ :: d.sent }) := by
  refine Mach.modDir_congr ?_
  unfold LDir.replays
  rw [if_neg h]

theorem Mach.askMap_bare {m : Mach} {l : Nat} {k : BitVec 9} (hw : (m.dir l).want = some k) (hb : (m.dir (dirBack l)).crd = []) :
    m.askMap l = m.modDir (dirBack l) (fun b => { b with sent := b.sent ++ [⟨12, false, 15, k.toNat + 512 * b1 (m.forceHalf (l / 2)), none⟩] }) := by
  rw [Mach.askMap_wants hw]
  refine Mach.modDir_congr ?_
  unfold LDir.lreq
  rw [hb]
  rfl

/-- Settles O28: what one slot does to the link's two directions, the credits of its sender and the VC of its flit. -/
theorem linkSlots : Obligations.LinkSlots := by
  refine ⟨fun s l c rest f ctlErr sliceErr => ?_, fun s l c rest slice => ?_⟩
  · intro d t i k credited delivered enters hs hu hnak
    have hlost {vc : Nat} (h : enters vc f) : (f.head = false → bt d.dvc vc = false) ∧ s.m.lostFlit t i vc f = false := by
      unfold Mach.lostFlit
      dsimp only [enters] at h
      cases hf : f.head with
      | false =>
        rw [hf, if_neg Bool.false_ne_true] at h
        exact ⟨fun _ => h.1, by rw [if_neg Bool.false_ne_true]; exact h.2⟩
      | true =>
        rw [hf, if_pos rfl] at h
        exact ⟨fun hh => Bool.noConfusion hh, by rw [if_pos rfl]; exact h⟩
    have hdone {n vc : Nat} (v : Nat) (r : BitVec 16) (hv : vc < 12) (hf : f.bad = 0) (he : enters vc f) :
        delivered { s with m := (s.m.arrives l n vc f).slotTaken l v r } (kVc t i vc) f := by
      obtain ⟨hd, hl⟩ := hlost he
      have h := Mach.arrives_delivers (k := n) hf hd hl hv v r
      obtain ⟨hn, -, -⟩ := Mach.dir_arrives (k := n) hf hd hl
      exact ⟨by rw [Mach.dir_slotTaken]; exact hn.trans hnak, h.q, h.inReg, h.vc, h.far, h.near, h.eng, h.niu⟩
    have hcred {n vc : Nat} (v : Nat) (r : BitVec 16) (hf : f.bad = 0) (he : enters vc f) :
        credited { s with m := (s.m.arrives l n vc f).slotTaken l v r } v := fun j => by
      obtain ⟨hd, hl⟩ := hlost he
      rw [Mach.outVc_slotTaken, Mach.outVc_arrives hf hd hl]
    refine ⟨fun hw h1 hsent hflit ht hc hbad hh hbn => ?_, fun vc b p hw h1 hsent hflit ht hh hv hc hbad hbn he => ?_,
      fun hw h1 hsent => ⟨fun hflit ht hc hbad hh hbn he => ?_, fun ht h20 h21 h13 h19 htr => ?_⟩⟩
    · obtain ⟨r, hr⟩ := exec_halfSlot hs hu hnak hbn hc hbad hw h1 hsent hflit ht hh
      have hdir : ((s.m.halfArrives l c.tag f).slotTaken l c.crd r).dir l =
          { { s.m.dir l with half1 := some (c.tag, f), sent := { c with crd := 15 } :: rest } with rpt := r } := by
        rw [Mach.dir_slotTaken, Mach.dir_halfArrives, show (s.m.dir l).sent = c :: rest from hsent]
        rfl
      exact ⟨_, hr, by rw [hdir], by rw [hdir], fun j => Mach.outVc_slotTaken _ _ _ r j,
        fun j => Mach.slotTaken_keeps (π := fun m => m.vc j) (fun _ _ _ => rfl) (fun _ _ _ => rfl) _ _ _ r⟩
    · obtain ⟨hd, hl⟩ := hlost he
      obtain ⟨-, hse, hh1⟩ := Mach.dir_arrives (k := 2) hbad hd hl
      obtain ⟨r, hr⟩ := exec_secondSlot hs hu hnak hbn hc hbad hw h1 hsent hflit ht hh hd hl
      refine ⟨_, hr, ?_, ?_, hcred c.crd r hbad he, hdone c.crd r hv hbad he⟩
      · exact (congrArg LDir.half1 (Mach.dir_slotTaken _ _ _ r)).trans hh1
      · exact (congrArg LDir.sent (Mach.dir_slotTaken _ _ _ r)).trans (hse.trans (congrArg (List.drop 2) hsent))
    · obtain ⟨hd, hl⟩ := hlost he
      obtain ⟨-, hse, hh1⟩ := Mach.dir_arrives (k := 1) hbad hd hl
      obtain ⟨r, hr⟩ := exec_fullSlot hs hu hnak hbn hc hbad hw h1 hsent hflit ht hh hd hl
      exact ⟨_, hr, (congrArg LDir.sent (Mach.dir_slotTaken _ _ _ r)).trans (hse.trans (congrArg (List.drop 1) hsent)), hcred c.crd r hbad he,
        hdone c.crd r ht hbad he⟩
    · have hx := exec_linkSlotReceive (ce := ctlErr) (se := sliceErr) hs hu
      rw [Mach.receive_bad hnak (Mach.nextSlot_first h1 hsent) (fun nak rpt => ctlOf_bad c nak rpt h20 h21 h13 h19) htr] at hx
      obtain ⟨hn, hse⟩ := s.m.dir_slotBad l
      exact ⟨_, hx, hn, hse, s.m.vc_slotBad l, s.m.fld_slotBad l⟩
  · intro d b hs hu
    refine ⟨fun hn h13 => ?_, fun hb ht hh hbn hc hd => ?_, fun hd ht hh hn hp => ?_, fun hd ht hh hn hp => ?_, fun h => ?_, fun k hw hf hb => ?_,
      fun h0 hle hm hp => ?_, fun h0 hle hm hp => ?_⟩
    · refine ⟨_, exec_nakReceive hs hu hn, rfl, rfl, ?_⟩
      rw [Mach.replays_eq h13]
      refine Mach.Like.count (base := ctrRouter (dirTo l)) (.refl _) ?_ 7 (some (dirInput l)) none 1 0
      have := dirTo_lt l
      unfold ctrRouter
      omega
    · exact ⟨_, exec_lreqReceive hs hu (LDir.command_front hb ht hh hbn), Mach.lreqTaken_answers hb hd⟩
    · have h := Mach.lmapTaken_maps (m := s.m) (l := l) hd hp
      have hx := exec_lmapReceive hs hu (LDir.command_front hd ht hh hn)
      generalize s.m.lmapTaken l c = u at h hx
      exact ⟨_, hx, h⟩
    · have h := Mach.lmapTaken_dies (m := s.m) (l := l) hd hp
      have hx := exec_lmapReceive hs hu (LDir.command_front hd ht hh hn)
      generalize s.m.lmapTaken l c = u at h hx
      exact ⟨_, hx, h⟩
    · refine Does.of_exec ((exec_lreqRepeat hs hu).trans ?_)
      rcases h with h | h
      · unfold Mach.askMap
        rw [show (s.m.dir l).want = none from h]
        dsimp only
        rw [ite_self]
      · rw [h]
        rfl
    · refine Does.of_exec ((exec_lreqRepeat hs hu).trans ?_)
      rw [hf, Mach.askMap_bare hw hb]
      rfl
    · exact ⟨_, exec_sliceThreshold hs hu h0 hle hm, Mach.want_markSlices (slice_new slice hm) hp⟩
    · exact ⟨_, exec_sliceThreshold hs hu h0 hle hm, Mach.markSlices_dies (slice_new slice hm) hp⟩

end Sys2Proof.Machine

/-! PROOFS. A flit through an output of a router, and the winner of switch allocation (O29). -/

namespace Sys2Proof.Machine

/-! ## What the parts of a switch change -/

/-- A part of the machine that the accounts of a switch leave alone: registers, telemetry, arbitration, what the mirror asks of a service
NIU. -/
structure RouterFrame {γ : Type} (π : Mach → γ) : Prop where
  reg  : ∀ (m : Mach) a w, π (m.setReg a w) = π m
  tele : ∀ (m : Mach) f, π (m.modTele f) = π m
  arb  : ∀ (m : Mach) k f, π (m.modArb k f) = π m
  niu  : ∀ (m : Mach) n f, (∀ x : Niu, (f x).ej = x.ej ∧ (f x).ejHd = x.ejHd) → π (m.modNiu n f) = π m

/-- A request of a service NIU leaves the ejection VCs. -/
theorem Mach.serviceReq_ej {m t : Mach} {q opc sub dst addr len : Nat} {flow : BitVec 16} {inl : BitVec 128} {data : List FlitBits} {own : Owner}
    (h : m.serviceReq q opc sub dst addr len flow inl data own = some t) : 
    ∃ f, t = m.modNiu q f ∧ ∀ x : Niu, (f x).ej = x.ej ∧ (f x).ejHd = x.ejHd := by
  unfold Mach.serviceReq at h
  dsimp only at h
  split at h
  · cases h
  · split at h
    · cases h
    · refine ⟨_, (Option.some.inj h).symm, fun x => ?_⟩
      split <;> exact ⟨rfl, rfl⟩

namespace RouterFrame
variable {γ : Type} {π : Mach → γ} (h : RouterFrame π)
include h

theorem count (m : Mach) (t code : Nat) (sel tc : Option Nat) (hd : FlitBits) : π (m.countRtr t code sel tc hd) = π m :=
  Mach.count_keeps h.reg h.tele m _ _ _ _ _ _ _

theorem noteLost (m : Mach) (t out inp vc : Nat) : π (m.noteLost t out inp vc) = π m := by
  unfold Mach.noteLost
  split
  · rfl
  · exact h.tele _ _

theorem hop (m : Mach) (t : Nat) (hd : FlitBits) : π (m.hop t hd).2 = π m := by
  unfold Mach.hop
  split
  · rfl
  dsimp only
  split
  · exact (h.reg _ _ _).trans (h.reg _ _ _)
  · rfl

theorem pumpMirror (q k : Nat) (m : Mach) : π (m.pumpMirror q k) = π m := by
  induction k generalizing m with
  | zero => rfl
  | succ k ih =>
    unfold Mach.pumpMirror
    split
    · rfl
    dsimp only
    split
    · rfl
    · next hs =>
      obtain ⟨f, rfl, hf⟩ := Mach.serviceReq_ej hs
      exact (ih _).trans ((h.tele _ _).trans (h.niu _ _ _ hf))

theorem capture (m : Mach) (t r pt out vc : Nat) (hd : FlitBits) : π (m.capture t r pt out vc hd) = π m := by
  unfold Mach.capture
  dsimp only
  split
  · exact h.reg _ _ _
  split
  · exact h.reg _ _ _
  · exact (h.pumpMirror _ _ _).trans ((h.reg _ _ _).trans ((h.tele _ _).trans (h.reg _ _ _)))

theorem mirror (m : Mach) (t pt out vc : Nat) (hd : FlitBits) : π (m.mirror t pt out vc hd) = π m := by
  unfold Mach.mirror
  split
  · rfl
  dsimp only
  have hcnt (l : List Nat) (f : Mach → Nat → Mach) (hf : ∀ m k, π (f m k) = π m) : π (l.foldl f m) = π m := foldl_keeps π _ _ _ hf
  split
  · exact hcnt _ _ (fun m k => h.tele m _)
  · exact (h.capture _ _ _ _ _ _ _).trans (hcnt _ _ (fun m k => h.tele m _))
end RouterFrame

theorem Mach.credit_keeps {γ : Type} {π : Mach → γ} {t inp vc : Nat}
    (hdir : ∀ (m : Mach) c f, dirOut t inp = some c → (∀ d : LDir, ∃ l, f d = { d with crd := l }) → π (m.modDir c f) = π m)
    (hout : ∀ (m : Mach) u f, neighbour t inp = some u → π (m.modOut (kVc u (opposite inp) vc) f) = π m) (m : Mach) :
    π (m.credit t inp vc) = π m := by
  unfold Mach.credit
  split
  · rfl
  split
  · next c u hc hu =>
    split
    · exact hdir _ _ _ hc (fun d => ⟨_, rfl⟩)
    · exact hout _ _ _ hu
  · rfl

/-- The machine once the first flit of an input VC has won an output and left (R159, R163). -/
def Mach.popped (m : Mach) (t out inp vc : Nat) (f : Flit) (b : Bool) : Mach :=
  ((m.noteLost t out inp vc).grant t out (inp, vc, f) b).popVc t inp vc out f

theorem Mach.popVc_bare {m : Mach} {t inp vc : Nat} (out : Nat) (f : Flit) (h : (m.vc (kVc t inp vc)).tail = []) :
    ∃ g : VcBuf → VcBuf, (∀ b, (g b).q = b.q.drop 1 ++ b.tail.take 1) ∧ m.popVc t inp vc out f = (m.modVc (kVc t inp vc) g).credit t inp vc := by
  unfold Mach.popVc
  dsimp only
  rw [h]
  exact ⟨_, fun _ => rfl, rfl⟩

section
variable {m : Mach} {t out inp vc : Nat} {f : Flit} {b : Bool} (ht : (m.vc (kVc t inp vc)).tail = [])
include ht

theorem Mach.popped_eq : ∃ (a : Mach) (g : VcBuf → VcBuf), (∀ b, (g b).q = b.q.drop 1 ++ b.tail.take 1) ∧
    (∀ {γ : Type} {π : Mach → γ}, RouterFrame π → π a = π m) ∧ m.popped t out inp vc f b = (a.modVc (kVc t inp vc) g).credit t inp vc := by
  have hpre {γ : Type} {π : Mach → γ} (h : RouterFrame π) : π ((m.noteLost t out inp vc).grant t out (inp, vc, f) b) = π m :=
    (h.arb _ _ _).trans (h.noteLost m t out inp vc)
  have hvc : RouterFrame (fun m => m.vc (kVc t inp vc)) := ⟨fun _ _ _ => rfl, fun _ _ => rfl, fun _ _ _ => rfl, fun _ _ _ _ => rfl⟩
  obtain ⟨g, hg, he⟩ := Mach.popVc_bare (m := (m.noteLost t out inp vc).grant t out (inp, vc, f) b) out f (by rw [hpre hvc]; exact ht)
  exact ⟨_, g, hg, hpre, he⟩

theorem Mach.popped_keeps {γ : Type} {π : Mach → γ} (h : RouterFrame π) (hvc : ∀ (m : Mach) k f, π (m.modVc k f) = π m)
    (hdir : ∀ (m : Mach) c f, dirOut t inp = some c → (∀ d : LDir, ∃ l, f d = { d with crd := l }) → π (m.modDir c f) = π m)
    (hout : ∀ (m : Mach) u f, neighbour t inp = some u → π (m.modOut (kVc u (opposite inp) vc) f) = π m) : π (m.popped t out inp vc f b) = π m := by
  obtain ⟨a, g, -, ha, he⟩ := Mach.popped_eq (out := out) (f := f) (b := b) ht
  rw [he, Mach.credit_keeps hdir hout, hvc, ha h]

/-- The flit has left its VC. -/
theorem Mach.q_popped {q : List Flit} (hq : (m.vc (kVc t inp vc)).q = f :: q) : ((m.popped t out inp vc f b).vc (kVc t inp vc)).q = q := by
  obtain ⟨a, g, hg, ha, he⟩ := Mach.popped_eq (out := out) (f := f) (b := b) ht
  have hvc : a.vc (kVc t inp vc) = m.vc (kVc t inp vc) :=
    ha (π := fun m => m.vc (kVc t inp vc)) ⟨fun _ _ _ => rfl, fun _ _ => rfl, fun _ _ _ => rfl, fun _ _ _ _ => rfl⟩
  rw [he, Mach.vc_credit, Mach.vc_modVc, hg, hvc, hq, ht]
  exact List.append_nil _
end

/-! ## HOPS -/

theorem hHops_lt (h : FlitBits) : hHops h < 64 := bf_lt h 222 6

/-- HOPS counted (R159). -/
def hHopped (h : FlitBits) : FlitBits := hSetHops h (min 63 (hHops h + 1))

theorem Mach.hop_fst (m : Mach) (t : Nat) (h : FlitBits) : (m.hop t h).1 = hHopped h := by
  have hlt := hHops_lt h
  unfold Mach.hop hHopped
  by_cases h63 : hHops h = 63
  · rw [if_pos h63, h63]
    refine BitVec.eq_of_getLsbD_eq (fun i _ => ?_)
    have hb := bt_sf h (lo := 222) (len := 6) (by decide) (min 63 (63 + 1)) i
    rw [bt] at hb
    rw [hSetHops, hb]
    split
    · next hi =>
      have h63' : (bf h 222 6).testBit (i - 222) = Nat.testBit 63 (i - 222) := congrArg (fun n => Nat.testBit n (i - 222)) h63
      rw [testBit_bf, decide_eq_true (by omega), Bool.true_and, Nat.add_sub_cancel' hi.1] at h63'
      exact h63'
    · rfl
  · rw [if_neg h63, Nat.min_eq_right (by omega)]

theorem bf_hHopped (h : FlitBits) {lo len : Nat} (hd : lo + len ≤ 222 ∨ 228 ≤ lo) : bf (hHopped h) lo len = bf h lo len :=
  bf_sf_ne h (by decide) _ hd

theorem isComb_hHopped (h : FlitBits) : isComb (hHopped h) = isComb h := by
  unfold isComb
  rw [show hOpc (hHopped h) = hOpc h from bf_hHopped h (by decide)]

theorem hDst_hHopped (h : FlitBits) : hDst (hHopped h) = hDst h := bf_hHopped h (by decide)

/-- A flit as its router passes it on. -/
def Flit.hopped (f : Flit) : Flit := if f.head then { f with bits := hHopped f.bits } else f

/-- The machine once a router has recorded a flit that leaves it (R159, R446). -/
def Mach.seenOut (m : Mach) (t out vc : Nat) (f : Flit) (hd : FlitBits) : Mach :=
  if f.head then
    (((m.hop t f.bits).2.countRtr t 1 (some out) (some (vcTc vc)) (hHopped f.bits)).countRtr t 2 (some out) (some (vcTc vc)) (hHopped f.bits)).mirror
      t 1 out vc (hHopped f.bits)
  else m.countRtr t 1 (some out) (some (vcTc vc)) hd

theorem RouterFrame.seenOut {γ : Type} {π : Mach → γ} (h : RouterFrame π) (m : Mach) (t out vc : Nat) (f : Flit) (hd : FlitBits) :
    π (m.seenOut t out vc f hd) = π m := by
  unfold Mach.seenOut
  split
  · exact (h.mirror _ _ _ _ _ _).trans ((h.count _ _ _ _ _ _).trans ((h.count _ _ _ _ _ _).trans (h.hop _ _ _)))
  · exact h.count _ _ _ _ _ _

/-- The machine in which the winner of a switch is about to enter what is behind its output. -/
def Mach.leaving (m : Mach) (t out inp vc : Nat) (f : Flit) (b : Bool) : Mach :=
  (m.popped t out inp vc f b).seenOut t out vc f (m.vc (kVc t inp vc)).hd

theorem Mach.switch_out {m : Mach} {t out inp vc : Nat} {f : Flit} {b : Bool} (hw : m.winner t out = some ((inp, vc, f), b)) (hi : inp < 7)
    (ho : out ≠ 7) : m.switch t out = (m.leaving t out inp vc f b).sendOut t out vc f.hopped (if f.head then hHopped f.bits else (m.vc (kVc t inp vc)).hd) := by
  have hpop : ((m.noteLost t out inp vc).grant t out (inp, vc, f) b).popVc t inp vc out f = m.popped t out inp vc f b := rfl
  obtain ⟨fh, fl, fb, bad⟩ := f
  unfold Mach.switch
  rw [hw]
  dsimp only
  rw [if_neg (by omega : ¬ inp = 7)]
  dsimp only
  rw [if_neg ho, hpop]
  unfold Mach.leaving Mach.seenOut Flit.hopped
  cases fh with
  | false => simp only [Bool.false_eq_true, if_false, Option.map_none, Option.getD_none]
  | true => simp only [if_true, Mach.hop_fst]

/-- The machine once a router has recorded a flit that goes to its combine unit (R282). -/
def Mach.seenCb (m : Mach) (t vc : Nat) (f : Flit) (hd : FlitBits) : Mach :=
  let m := m.countRtr t 1 (some 7) (some (vcTc vc)) hd
  if f.head then m.countRtr t 2 (some 7) (some (vcTc vc)) f.bits else m

theorem RouterFrame.seenCb {γ : Type} {π : Mach → γ} (h : RouterFrame π) (m : Mach) (t vc : Nat) (f : Flit) (hd : FlitBits) :
    π (m.seenCb t vc f hd) = π m := by
  unfold Mach.seenCb
  dsimp only
  split
  · exact (h.count _ _ _ _ _ _).trans (h.count _ _ _ _ _ _)
  · exact h.count _ _ _ _ _ _

theorem Mach.switch_cb {m : Mach} {t inp vc : Nat} {f : Flit} {b : Bool} (hw : m.winner t 7 = some ((inp, vc, f), b)) (hi : inp < 7) :
    ∃ hd, m.switch t 7 = ((m.popped t 7 inp vc f b).seenCb t vc f hd).toCb t inp vc f := by
  have hpop : ((m.noteLost t 7 inp vc).grant t 7 (inp, vc, f) b).popVc t inp vc 7 f = m.popped t 7 inp vc f b := rfl
  unfold Mach.switch
  rw [hw]
  dsimp only
  rw [if_neg (by omega : ¬ inp = 7)]
  dsimp only
  rw [if_pos rfl, hpop]
  exact ⟨_, rfl⟩

/-! ## Behind the outputs -/

section
variable {a : Mach} {t out vc : Nat} {f : Flit} {hd : FlitBits}

/-- The bits of a flit as it goes over a link: a head with the output at the next router (R159, R168). -/
def Mach.linkBits (a : Mach) (t out u : Nat) (f : Flit) : FlitBits :=
  if f.head && !isComb f.bits then hSetLa f.bits (a.la u (opposite out) (some (a.reportFrom t out)) f.bits) else f.bits

theorem Mach.sendOut_link {l u : Nat} (ho : out < 4) (hl : dirOut t out = some l) (hu : neighbour t out = some u) (hup : a.linkUp (l / 2) = true)
    (hgo : f.head = false → (a.outVc (kVc t out vc)).busy = true) : a.sendOut t out vc f hd =
      (a.modOut (kVc t out vc) (fun o => { used := o.used + 1, busy := !f.last })).sendSlot l vc { f with bits := a.linkBits t out u f } := by
  unfold Mach.sendOut
  rw [if_pos ho, hl, hu]
  dsimp only
  have hno : ¬ (!f.head && !(a.outVc (kVc t out vc)).busy) = true := by
    cases hf : f.head with
    | false => rw [hgo hf]; decide
    | true => simp
  rw [hup, if_neg (by decide), if_neg hno]
  rfl

/-- A data flit whose head was lost with the link goes nowhere (R169). -/
theorem Mach.sendOut_lost {l u : Nat} (ho : out < 4) (hl : dirOut t out = some l) (hu : neighbour t out = some u) (hup : a.linkUp (l / 2) = true)
    (hf : f.head = false) (hb : (a.outVc (kVc t out vc)).busy = false) : a.sendOut t out vc f hd = a := by
  unfold Mach.sendOut
  rw [if_pos ho, hl, hu]
  dsimp only
  rw [hup, if_neg (by decide), hf, hb, if_pos (by decide)]

theorem Mach.sendOut_local (ho : out = 4 ∨ out = 5) : a.sendOut t out vc f hd =
    (a.modOut (kVc t out vc) (fun o => { o with busy := !f.last })).modNiu (a.localNiu t out vc f) (fun x => x.pushEj vc f) := by
  unfold Mach.sendOut
  rw [if_neg (by omega), if_pos (by omega)]

theorem Mach.sendOut_spine {p : Nat} (hp : spineOf t = some p) : a.sendOut t 6 vc f hd =
    if (a.stn p).st = .dead then (if f.head then a.cellLost p 1 hd else a.orReg 0x80030 (2 ^ 3))
    else a.modStn p (fun x => { x with entry := Tab.upd dNil x.entry (stnCode vc) (fun l => l ++ [f]) }) := by
  unfold Mach.sendOut
  rw [if_neg (by decide), if_neg (by decide), if_pos rfl, hp]
end

/-- The slots of a flit on a direction (R186, R197). -/
def LDir.sends (d : LDir) (two : Bool) (vc : Nat) (f : Flit) : LDir :=
  if two then { d with sent := d.sent ++ [⟨vc, f.head, d.crd.headD 15, 0, some f⟩, ⟨14, false, (d.crd.drop 1).headD 15, 0, some f⟩], crd := d.crd.drop 2 }
  else { d with sent := d.sent ++ [⟨vc, f.head, d.crd.headD 15, 0, some f⟩], crd := d.crd.drop 1 }

section
variable (a : Mach) (l vc : Nat) (f : Flit)

theorem Mach.sendSlot_eq : a.sendSlot l vc f = (if a.slotsPer l = 2 ∨ (a.dir l).nak = true then a else a.freeReg (dirTo l) (dirInput l)).modDir l
    (fun d => d.sends (decide (a.slotsPer l = 2)) vc f) := by
  unfold Mach.sendSlot LDir.sends
  by_cases h : a.slotsPer l = 2
  · simp only [h, decide_true, if_true]
  · simp only [h, decide_false, if_false, Bool.false_eq_true]

theorem Mach.sendSlot_keeps {γ : Type} {π : Mach → γ} (hvc : ∀ m k f, π (m.modVc k f) = π m) (hdir : ∀ m k f, π (m.modDir k f) = π m) :
    π (a.sendSlot l vc f) = π a := by
  rw [Mach.sendSlot_eq, hdir]
  split
  · rfl
  · exact Mach.freeReg_keeps hvc _ _ _

theorem Mach.dir_sendSlot : (a.sendSlot l vc f).dir l = (a.dir l).sends (decide (a.slotsPer l = 2)) vc f := by
  rw [Mach.sendSlot_eq, Mach.dir_modDir]
  split
  · rfl
  · rw [Mach.freeReg_keeps (π := fun m => m.dir l) (fun _ _ _ => rfl)]

theorem Mach.q_sendSlot (j : Nat) : ((a.sendSlot l vc f).vc j).q = (a.vc j).q := by
  rw [Mach.sendSlot_eq, Mach.vc_modDir]
  split
  · rfl
  · rw [Mach.vc_freeReg]
    split <;> rfl

theorem Mach.inReg_sendSlot {j : Nat} (hj : j < 12) (h1 : a.slotsPer l = 1) (hn : (a.dir l).nak = false) :
    ((a.sendSlot l vc f).vc (kVc (dirTo l) (dirInput l) j)).inReg = false := by
  rw [Mach.sendSlot_eq, Mach.vc_modDir, if_neg (by rw [h1, hn]; decide), Mach.vc_freeReg, if_pos (kVc_div hj)]
end

/-! ## What is behind an output when the flit comes -/

theorem neighbour_ne {t d u : Nat} (h : neighbour t d = some u) : u ≠ t := by
  unfold neighbour at h
  split at h
  · split at h
    · cases h; omega
    · cases h
  split at h
  · split at h
    · cases h; omega
    · cases h
  split at h
  · split at h
    · cases h; omega
    · cases h
  split at h
  · split at h
    · cases h; omega
    · cases h
  · cases h

theorem kVc_ne {t u i j v w : Nat} (h : u ≠ t) (hi : i < 8) (hj : j < 8) (hv : v < 12) (hw : w < 12) : kVc u i v ≠ kVc t j w := by
  unfold kVc
  omega

section
variable {m : Mach} {t out inp vc : Nat} {f : Flit} {b : Bool} (ht : (m.vc (kVc t inp vc)).tail = [])
include ht

theorem Mach.leaving_keeps {γ : Type} {π : Mach → γ} (h : RouterFrame π) (hvc : ∀ (m : Mach) k f, π (m.modVc k f) = π m)
    (hdir : ∀ (m : Mach) c f, dirOut t inp = some c → (∀ d : LDir, ∃ l, f d = { d with crd := l }) → π (m.modDir c f) = π m)
    (hout : ∀ (m : Mach) u f, neighbour t inp = some u → π (m.modOut (kVc u (opposite inp) vc) f) = π m) : π (m.leaving t out inp vc f b) = π m :=
  (h.seenOut _ _ _ _ _ _).trans (Mach.popped_keeps ht h hvc hdir hout)

theorem Mach.q_leaving {q : List Flit} (hq : (m.vc (kVc t inp vc)).q = f :: q) : ((m.leaving t out inp vc f b).vc (kVc t inp vc)).q = q := by
  have h : RouterFrame (fun m => (m.vc (kVc t inp vc)).q) := ⟨fun _ _ _ => rfl, fun _ _ => rfl, fun _ _ _ => rfl, fun _ _ _ _ => rfl⟩
  exact (h.seenOut _ _ _ _ _ _).trans (Mach.q_popped ht hq)

theorem Mach.dir_leaving {l : Nat} (hl : ∀ c, dirOut t inp = some c → c ≠ l) : (m.leaving t out inp vc f b).dir l = m.dir l :=
  Mach.leaving_keeps ht (π := fun m => m.dir l) ⟨fun _ _ _ => rfl, fun _ _ => rfl, fun _ _ _ => rfl, fun _ _ _ _ => rfl⟩ (fun _ _ _ => rfl)
    (fun m c g hc _ => m.dir_modDir_ne g (hl c hc).symm) (fun _ _ _ _ => rfl)

theorem Mach.linkUp_leaving (n : Nat) : (m.leaving t out inp vc f b).linkUp n = m.linkUp n :=
  Mach.leaving_keeps ht (π := fun m => m.linkUp n) ⟨fun _ _ _ => rfl, fun _ _ => rfl, fun _ _ _ => rfl, fun _ _ _ _ => rfl⟩ (fun _ _ _ => rfl)
    (fun _ _ _ _ _ => rfl) (fun _ _ _ _ => rfl)

theorem Mach.outVc_leaving (hv : vc < 12) (ho : out < 8) : (m.leaving t out inp vc f b).outVc (kVc t out vc) = m.outVc (kVc t out vc) :=
  Mach.leaving_keeps ht (π := fun m => m.outVc (kVc t out vc)) ⟨fun _ _ _ => rfl, fun _ _ => rfl, fun _ _ _ => rfl, fun _ _ _ _ => rfl⟩
    (fun _ _ _ => rfl) (fun _ _ _ _ _ => rfl)
    (fun m u g hu => m.outVc_modOut_ne g (kVc_ne (neighbour_ne hu) (by unfold opposite; omega) ho hv hv).symm)

theorem Mach.la_leaving (u i : Nat) (r : BitVec 16) (h : FlitBits) : (m.leaving t out inp vc f b).la u i (some r) h = m.la u i (some r) h :=
  Mach.leaving_keeps ht (π := fun m => m.la u i (some r) h) ⟨fun _ _ _ => rfl, fun _ _ => rfl, fun _ _ _ => rfl, fun _ _ _ _ => rfl⟩
    (fun _ _ _ => rfl) (fun _ _ _ _ _ => rfl) (fun _ _ _ _ => rfl)

theorem Mach.reportFrom_leaving (u o : Nat) : (m.leaving t out inp vc f b).reportFrom u o = m.reportFrom u o := by
  have hrpt (k : Nat) : ((m.leaving t out inp vc f b).dir k).rpt = (m.dir k).rpt :=
    Mach.leaving_keeps ht (π := fun m => (m.dir k).rpt) ⟨fun _ _ _ => rfl, fun _ _ => rfl, fun _ _ _ => rfl, fun _ _ _ _ => rfl⟩ (fun _ _ _ => rfl)
      (fun m c g _ hg => by
        by_cases hk : k = c
        · obtain ⟨l, he⟩ := hg (m.dir c)
          rw [hk, Mach.dir_modDir, he]
        · rw [Mach.dir_modDir_ne _ _ hk])
      (fun _ _ _ _ => rfl)
  unfold Mach.reportFrom
  split
  · rfl
  · exact hrpt _

theorem Mach.linkBits_leaving (u : Nat) : (m.leaving t out inp vc f b).linkBits t out u f.hopped =
    (if f.head = false then f.bits else if isComb f.bits then hHopped f.bits
      else hSetLa (hHopped f.bits) (m.la u (opposite out) (some (m.reportFrom t out)) (hHopped f.bits))) := by
  unfold Mach.linkBits
  rw [Mach.reportFrom_leaving ht, Mach.la_leaving ht]
  unfold Flit.hopped
  cases hf : f.head with
  | false => simp [hf]
  | true =>
    cases hc : isComb f.bits with
    | false => simp [isComb_hHopped, hc]
    | true => simp [isComb_hHopped, hc]

/-- The machine after the winner of a mesh output has been put on its link (R158, R159). -/
theorem Mach.switch_link {q : List Flit} (hw : m.winner t out = some ((inp, vc, f), b)) (hi : inp < 7) (hv : vc < 12) (hq : (m.vc (kVc t inp vc)).q = f :: q)
    {l u : Nat} (ho : out < 4) (hl : dirOut t out = some l) (hu : neighbour t out = some u) (hup : m.linkUp (l / 2) = true)
    (hne : ∀ c, dirOut t inp = some c → c ≠ l) (hgo : f.head = false → (m.outVc (kVc t out vc)).busy = true) :
    ((m.switch t out).vc (kVc t inp vc)).q = q ∧ (m.switch t out).outVc (kVc t out vc) = ⟨(m.outVc (kVc t out vc)).used + 1, !f.last⟩ ∧
      (m.switch t out).dir l = (m.dir l).sends (decide (m.slotsPer l = 2)) vc { f with bits := (m.leaving t out inp vc f b).linkBits t out u f.hopped } ∧
      (m.slotsPer l = 1 → (m.dir l).nak = false → ∀ j, j < 12 → ((m.switch t out).vc (kVc (dirTo l) (dirInput l) j)).inReg = false) := by
  have hfl : ({ f.hopped with bits := (m.leaving t out inp vc f b).linkBits t out u f.hopped } : Flit) =
      { f with bits := (m.leaving t out inp vc f b).linkBits t out u f.hopped } := by
    generalize (m.leaving t out inp vc f b).linkBits t out u f.hopped = w
    unfold Flit.hopped
    split <;> rfl
  have hhl : f.hopped.head = f.head ∧ f.hopped.last = f.last := by
    unfold Flit.hopped
    split <;> exact ⟨rfl, rfl⟩
  have hout := Mach.outVc_leaving (b := b) (f := f) ht hv (by omega : out < 8)
  have hdir := Mach.dir_leaving (b := b) (f := f) (out := out) ht hne
  have hqq := Mach.q_leaving (b := b) (out := out) ht hq
  rw [Mach.switch_out hw hi (by omega), Mach.sendOut_link ho hl hu (by rw [Mach.linkUp_leaving ht, hup]) (by rw [hhl.1, hout]; exact hgo), hfl, hhl.2]
  generalize (m.leaving t out inp vc f b).linkBits t out u f.hopped = w
  generalize m.leaving t out inp vc f b = a at *
  have hper : (a.modOut (kVc t out vc) (fun o => { used := o.used + 1, busy := !f.last })).slotsPer l = m.slotsPer l := by
    unfold Mach.slotsPer
    rw [Mach.dir_modOut, hdir]
  refine ⟨?_, ?_, ?_, fun h1 hn j hj => ?_⟩
  · rw [Mach.q_sendSlot]
    exact hqq
  · rw [Mach.sendSlot_keeps (π := fun m => m.outVc (kVc t out vc)) _ _ _ _ (fun _ _ _ => rfl) (fun _ _ _ => rfl), Mach.outVc_modOut, hout]
  · rw [Mach.dir_sendSlot, hper, Mach.dir_modOut, hdir]
  · exact Mach.inReg_sendSlot _ _ _ _ hj (by rw [hper, h1]) (by rw [Mach.dir_modOut, hdir, hn])
end

/-! ## Local outputs -/

/-- What stands at an ejection VC. -/
theorem RouterFrame.ej (n vc : Nat) : RouterFrame (fun m => (Tab.get dNone (m.niu n).ejHd vc, Tab.get dNil (m.niu n).ej vc)) where
  reg _ _ _ := rfl
  tele _ _ := rfl
  arb _ _ _ := rfl
  niu m k f hf := by
    by_cases hk : n = k
    · subst hk
      obtain ⟨h1, h2⟩ := hf (m.niu n)
      rw [Mach.niu_modNiu, h1, h2]
    · rw [Mach.niu_modNiu_ne _ _ hk]

section
variable {m : Mach} {t out inp vc : Nat} {f : Flit} {b : Bool} (ht : (m.vc (kVc t inp vc)).tail = [])
include ht

theorem Mach.ej_leaving (n v : Nat) : Tab.get dNone ((m.leaving t out inp vc f b).niu n).ejHd v = Tab.get dNone (m.niu n).ejHd v ∧
    Tab.get dNil ((m.leaving t out inp vc f b).niu n).ej v = Tab.get dNil (m.niu n).ej v := by
  have h := Mach.leaving_keeps (out := out) (f := f) (b := b) ht (.ej n v) (fun _ _ _ => rfl) (fun _ _ _ _ _ => rfl) (fun _ _ _ _ => rfl)
  exact ⟨congrArg Prod.fst h, congrArg Prod.snd h⟩

theorem Mach.localNiu_leaving (v : Nat) : (m.leaving t out inp vc f b).localNiu t out v f.hopped = m.localNiu t out v f := by
  have hej (n : Nat) : ((m.leaving t out inp vc f b).niu n).ejFlits v = (m.niu n).ejFlits v := by
    obtain ⟨h1, h2⟩ := Mach.ej_leaving (out := out) (f := f) (b := b) ht n v
    unfold Niu.ejFlits
    rw [h1, h2]
  unfold Mach.localNiu
  simp only [hej]
  unfold Flit.hopped
  cases hf : f.head with
  | false => rw [if_neg Bool.false_ne_true, hf]
  | true => simp only [if_true, hDst_hHopped]

theorem Mach.stn_leaving (p : Nat) : (m.leaving t out inp vc f b).stn p = m.stn p :=
  Mach.leaving_keeps ht (π := fun m => m.stn p) ⟨fun _ _ _ => rfl, fun _ _ => rfl, fun _ _ _ => rfl, fun _ _ _ _ => rfl⟩ (fun _ _ _ => rfl)
    (fun _ _ _ _ _ => rfl) (fun _ _ _ _ => rfl)
end

theorem Niu.ej_pushEj_nil {x : Niu} {vc : Nat} (f : Flit) (h : Tab.get dNil x.ej vc = []) : Tab.get dNil (x.pushEj vc f).ej vc = [f] := by
  unfold Niu.pushEj
  rw [h]
  dsimp only
  rw [Tab.get_set]
  rfl

/-! ## The winner -/

theorem foldl_min_le {l : List Nat} {a x : Nat} : (l.foldl min a ≤ x) ↔ a ≤ x ∨ ∃ y ∈ l, y ≤ x := by
  induction l generalizing a with
  | nil => simp
  | cons y l ih =>
    rw [List.foldl_cons, ih, min_le_iff, or_assoc]
    simp

/-- The round robin picks one of the candidates. -/
theorem rrCand_mem {last : Nat} {l : List Cand} {c : Cand} (h : rrCand last l = some c) : c ∈ l := by
  have hstep : ∀ (l : List Cand) (o : Option Cand), (l.foldl (fun b c => match b with
      | none => some c
      | some d => if (c.1 + 15 - last) % 8 < (d.1 + 15 - last) % 8 then some c else b) o) = some c → o = some c ∨ c ∈ l := by
    intro l
    induction l with
    | nil => exact fun o ho => .inl ho
    | cons x l ih =>
      intro o ho
      rw [List.foldl_cons] at ho
      rcases ih _ ho with hx | hx
      · split at hx
        · cases hx
          exact .inr (.head _)
        · split at hx
          · cases hx
            exact .inr (.head _)
          · exact .inl hx
      · exact .inr (.tail _ hx)
  exact (hstep l none h).resolve_left (fun hn => nomatch hn)

theorem Mach.level_le (m : Mach) (t out : Nat) (c : Cand) : m.level t out c ≤ 3 := by
  unfold Mach.level
  dsimp only
  split
  · omega
  split <;> omega

/-- The candidates of the lowest level that any candidate has. -/
def Mach.best (m : Mach) (t out : Nat) : List Cand :=
  (m.cands t out).filter (fun c => m.level t out c == ((m.cands t out).map (m.level t out)).foldl min 9)

theorem Mach.mem_best {m : Mach} {t out : Nat} {c : Cand} : c ∈ m.best t out ↔
    c ∈ m.cands t out ∧ ∀ d ∈ m.cands t out, m.level t out c ≤ m.level t out d := by
  unfold Mach.best
  rw [List.mem_filter, beq_iff_eq]
  refine and_congr_right (fun hc => ?_)
  have hle (x : Nat) : ((m.cands t out).map (m.level t out)).foldl min 9 ≤ x ↔ 9 ≤ x ∨ ∃ d ∈ m.cands t out, m.level t out d ≤ x := by
    rw [foldl_min_le]
    simp
  constructor
  · intro h d hd
    rw [h]
    exact (hle _).2 (.inr ⟨d, hd, le_refl _⟩)
  · intro h
    refine le_antisymm ?_ ((hle _).2 (.inr ⟨c, hc, le_refl _⟩))
    rcases (hle _).1 (le_refl _) with h9 | ⟨d, hd, hl⟩
    · exact (m.level_le t out c).trans (by omega)
    · exact (h d hd).trans hl

theorem winner_spec {m : Mach} {t out : Nat} {c : Cand} {b : Bool} (h : m.winner t out = some (c, b)) :
    c ∈ m.best t out ∧ ((∃ d ∈ m.best t out, 6 ≤ d.2.1) → 6 ≤ c.2.1) := by
  unfold Mach.winner at h
  dsimp only at h
  rw [← Mach.best] at h
  have hrsp : ∀ x ∈ (if ((m.best t out).filter (fun c => decide (6 ≤ c.2.1))).isEmpty = true then m.best t out
      else (m.best t out).filter (fun c => decide (6 ≤ c.2.1))), x ∈ m.best t out ∧ ((∃ d ∈ m.best t out, 6 ≤ d.2.1) → 6 ≤ x.2.1) := by
    intro x hx
    split at hx
    · next he =>
      refine ⟨hx, fun ⟨d, hd, h6⟩ => ?_⟩
      rw [List.isEmpty_iff, List.filter_eq_nil_iff] at he
      exact absurd (decide_eq_true h6) (he d hd)
    · obtain ⟨h1, h2⟩ := List.mem_filter.1 hx
      exact ⟨h1, fun _ => of_decide_eq_true h2⟩
  generalize (if ((m.best t out).filter (fun c => decide (6 ≤ c.2.1))).isEmpty = true then m.best t out
      else (m.best t out).filter (fun c => decide (6 ≤ c.2.1))) = l at h hrsp
  obtain ⟨c', hc', he⟩ := Option.map_eq_some_iff.1 h
  cases he
  refine hrsp c ?_
  have hmem := rrCand_mem hc'
  split at hmem
  · exact hmem
  split at hmem
  · exact (List.mem_filter.1 hmem).1
  · exact (List.mem_filter.1 hmem).1

/-- The output of a winner that no combine unit produced takes its flit. -/
theorem outTakes_of_winner {m : Mach} {t out inp vc : Nat} {f : Flit} {b : Bool} (h : m.winner t out = some ((inp, vc, f), b)) (hi : inp < 7) :
    m.outTakes t out vc f = true := by
  have hmem := (Mach.mem_best.1 (winner_spec h).1).1
  unfold Mach.cands at hmem
  rcases List.mem_append.1 hmem with hm | hm
  · obtain ⟨l, hl, hc⟩ := List.mem_flatten.1 hm
    obtain ⟨i, -, rfl⟩ := List.mem_map.1 hl
    obtain ⟨v, -, hv⟩ := List.mem_filterMap.1 hc
    split at hv
    · split at hv
      · next ht =>
        cases hv
        exact ht.2
      · cases hv
    · cases hv
  · obtain ⟨v, -, hv⟩ := List.mem_filterMap.1 hm
    obtain ⟨g, -, hg⟩ := Option.bind_eq_some_iff.1 hv
    split at hg
    · cases hg
      omega
    · cases hg

/-- A head that wins a local output finds its ejection VC empty (R161). -/
theorem ej_of_winner {m : Mach} {t out inp vc : Nat} {f : Flit} {b : Bool} (h : m.winner t out = some ((inp, vc, f), b)) (hi : inp < 7)
    (ho : out = 4 ∨ out = 5) (hf : f.head = true) : Tab.get dNil (m.niu (m.localNiu t out vc f)).ej vc = [] := by
  have ht := outTakes_of_winner h hi
  unfold Mach.outTakes Mach.vcFree at ht
  rw [Bool.and_eq_true] at ht
  dsimp only at ht
  rw [if_neg (by omega : ¬ out < 4), if_pos (by omega : out < 6), if_pos hf, Bool.and_eq_true, List.isEmpty_iff, Niu.ejFlits] at ht
  exact (List.append_eq_nil_iff.1 ht.2.2).2

section
variable {m : Mach} {t out inp vc : Nat} {f : Flit} {b : Bool} {q : List Flit} (hw : m.winner t out = some ((inp, vc, f), b)) (hi : inp < 7)
  (ht : (m.vc (kVc t inp vc)).tail = []) (hq : (m.vc (kVc t inp vc)).q = f :: q)
include hw hi ht hq

/-- The machine after the winner of a local output has joined its VC at the NIU (R206). -/
theorem Mach.switch_local (ho : out = 4 ∨ out = 5) : ((m.switch t out).vc (kVc t inp vc)).q = q ∧
    ∃ x : Niu, x.ejHd = ((m.leaving t out inp vc f b).niu (m.localNiu t out vc f)).ejHd ∧
      x.ej = ((m.leaving t out inp vc f b).niu (m.localNiu t out vc f)).ej ∧
      (m.switch t out).niu (m.localNiu t out vc f) = x.pushEj vc f.hopped := by
  rw [Mach.switch_out hw hi (by omega), Mach.sendOut_local ho, Mach.localNiu_leaving ht]
  refine ⟨Mach.q_leaving ht hq, _, rfl, rfl, ?_⟩
  exact Mach.niu_modNiu _ _ _

theorem Mach.switch_local_head (ho : out = 4 ∨ out = 5) (hf : f.head = true) :
    Tab.get dNil ((m.switch t out).niu (m.localNiu t out vc f)).ej vc =
      Tab.get dNil (m.niu (m.localNiu t out vc f)).ej vc ++ [{ f with bits := hHopped f.bits }] := by
  have hej := ej_of_winner hw hi ho hf
  obtain ⟨-, x, -, hx, he⟩ := Mach.switch_local hw hi ht hq ho
  rw [he, hej, Niu.ej_pushEj_nil _ (by rw [hx, (Mach.ej_leaving ht _ _).2, hej]), Flit.hopped, if_pos hf]
  rfl

theorem Mach.switch_local_data (ho : out = 4 ∨ out = 5) (hf : f.head = false)
    (h : ∀ h ∈ Tab.get dNil (m.niu (m.localNiu t out vc f)).ej vc, h.head = true → Tab.get dNone (m.niu (m.localNiu t out vc f)).ejHd vc = none) :
    ((m.switch t out).niu (m.localNiu t out vc f)).ejFlits vc = (m.niu (m.localNiu t out vc f)).ejFlits vc ++ [f] := by
  obtain ⟨-, x, hh, hx, he⟩ := Mach.switch_local hw hi ht hq ho
  obtain ⟨g1, g2⟩ := Mach.ej_leaving (out := out) (f := f) (b := b) ht (m.localNiu t out vc f) vc
  have hfl : x.ejFlits vc = (m.niu (m.localNiu t out vc f)).ejFlits vc := by
    unfold Niu.ejFlits
    rw [hh, hx, g1, g2]
  rw [he, Flit.hopped, if_neg (by rw [hf]; exact Bool.false_ne_true), Niu.ejFlits_pushEj, hfl]
  rw [hh, hx, g1, g2]
  by_cases hn : Tab.get dNone (m.niu (m.localNiu t out vc f)).ejHd vc = none
  · exact .inl hn
  · exact .inr (fun g hg => Bool.eq_false_iff.2 (fun hgh => hn (h g hg hgh)))

/-- ... of a spine port whose station is not DEAD. -/
theorem Mach.switch_spine {p : Nat} (ho : out = 6) (hp : spineOf t = some p) (hst : (m.stn p).st ≠ .dead) :
    ((m.switch t out).vc (kVc t inp vc)).q = q ∧ Tab.get dNil ((m.switch t out).stn p).entry (stnCode vc) =
      Tab.get dNil (m.stn p).entry (stnCode vc) ++ [f.hopped] := by
  have hs := Mach.stn_leaving (out := out) (f := f) (b := b) ht p
  subst ho
  rw [Mach.switch_out hw hi (by decide), Mach.sendOut_spine hp, hs, if_neg hst, Mach.stn_modStn, hs]
  refine ⟨Mach.q_leaving ht hq, ?_⟩
  dsimp only
  rw [Tab.get_upd]

/-- ... and of one that is (R230). -/
theorem Mach.switch_deadSpine {p : Nat} (ho : out = 6) (hp : spineOf t = some p) (hst : (m.stn p).st = .dead) :
    ((m.switch t out).vc (kVc t inp vc)).q = q ∧ (m.switch t out).stn p = m.stn p ∧ bt ((m.switch t out).reg 0x80030) 3 = true := by
  have hs := Mach.stn_leaving (out := out) (f := f) (b := b) ht p
  have hqq := Mach.q_leaving (out := out) (b := b) ht hq
  subst ho
  rw [Mach.switch_out hw hi (by decide), Mach.sendOut_spine hp, hs, if_pos hst]
  generalize m.leaving t 6 inp vc f b = a at *
  split
  · unfold Mach.cellLost
    rw [if_neg (by decide)]
    refine ⟨?_, ?_, ?_⟩
    · exact (Mach.count_keeps (π := fun m => (m.vc (kVc t inp vc)).q) (fun _ _ _ => rfl) (fun _ _ => rfl) _ _ _ _ _ _ _ _).trans hqq
    · exact (Mach.count_keeps (π := fun m => m.stn p) (fun _ _ _ => rfl) (fun _ _ => rfl) _ _ _ _ _ _ _ _).trans hs
    · rw [(Mach.like_count _ (base := 5120) (w := 64) (by decide) 5 (some p) none 1 _).reg 0x80030 (by decide)]
      rw [Mach.addFld, Mach.setFld, Mach.reg_setReg_ne _ _ (by decide), bt_orReg a 0x80030 (by decide : 3 < 64), decide_eq_true rfl, Bool.or_true]
  · refine ⟨hqq, hs, ?_⟩
    exact (bt_orReg a 0x80030 (by decide : 3 < 64) 3).trans (by rw [decide_eq_true rfl, Bool.or_true])

/-- The machine after the winner has joined its packet at the combine unit (R282). -/
theorem Mach.switch_combine (ho : out = 7) : ∃ a : Mach, (a.vc (kVc t inp vc)).q = q ∧ a.cbUnit t = m.cbUnit t ∧ m.switch t out = a.toCb t inp vc f := by
  subst ho
  obtain ⟨hd, he⟩ := Mach.switch_cb hw hi
  have hcb : RouterFrame (fun m => m.cbUnit t) := ⟨fun _ _ _ => rfl, fun _ _ => rfl, fun _ _ _ => rfl, fun _ _ _ _ => rfl⟩
  have hvc : RouterFrame (fun m => (m.vc (kVc t inp vc)).q) := ⟨fun _ _ _ => rfl, fun _ _ => rfl, fun _ _ _ => rfl, fun _ _ _ _ => rfl⟩
  exact ⟨_, (hvc.seenCb _ _ _ _ _).trans (Mach.q_popped ht hq), (hcb.seenCb _ _ _ _ _).trans
    (Mach.popped_keeps ht hcb (fun _ _ _ => rfl) (fun _ _ _ _ _ => rfl) (fun _ _ _ _ => rfl)), he⟩
end

/-- The combine unit with one flit more of a packet. -/
def CbUnit.takes (u : CbUnit) (k : Nat) (f : Flit) : CbUnit := { u with part := Tab.set dNil u.part k (Tab.get dNil u.part k ++ [f]) }

theorem Mach.cbUnit_toCb_part (a : Mach) (t inp vc : Nat) {f : Flit} (hf : f.last = false) :
    (a.toCb t inp vc f).cbUnit t = (a.cbUnit t).takes (inp * 12 + vc) f := by
  unfold Mach.toCb
  rw [Mach.cbUnit_modCbu]
  dsimp only
  rw [hf]
  rfl

theorem Mach.cbUnit_toCb_whole (a : Mach) (t inp vc : Nat) {f : Flit} {p : Pkt} (hf : f.last = true)
    (hp : Pkt.ofFlits (Tab.get dNil (a.cbUnit t).part (inp * 12 + vc) ++ [f]) = some p) : (a.toCb t inp vc f).cbUnit t =
    { a.cbUnit t with part := Tab.set dNil (a.cbUnit t).part (inp * 12 + vc) [],
                      inq := (a.cbUnit t).inq ++ [(inp, cnt (fun g => decide (g.bad ≠ 0)) (Tab.get dNil (a.cbUnit t).part (inp * 12 + vc) ++ [f]), p)] } := by
  unfold Mach.toCb
  rw [Mach.cbUnit_modCbu]
  dsimp only
  rw [hf, hp]
  rfl

theorem cnt_singleton {α : Type} (p : α → Bool) (x : α) : cnt p [x] = b1 (p x) := by
  cases h : p x <;> simp [cnt, h, b1]

theorem exec_routerSwitch {s : State} {t : Tile} {out : Port} (hs : s.m.test.scan = false) (hl : s.m.domLive t = true) :
    exec (.routerSwitch t out) s = .next { s with m := s.m.switch t out } := by
  change execRouterSwitch t out s = _
  rw [execRouterSwitch, State.on_eq hs, if_pos hl]

/-- Settles O29: the winner leaves its VC; what it enters is what its output leads to. -/
theorem routerSwitching : Obligations.RouterSwitching := by
  refine ⟨fun s t out inp vc f b q => ?_, fun m t out c b h => ?_⟩
  · intro k hs hlive hi hv hw hq ht g
    have hx := exec_routerSwitch (out := out) hs hlive
    have hone {l : Nat} {y : Flit} (h : s.m.slotsPer l = 1) : (s.m.dir l).sends (decide (s.m.slotsPer l = 2)) vc y =
        { s.m.dir l with sent := (s.m.dir l).sent ++ [⟨vc, y.head, (s.m.dir l).crd.headD 15, 0, some y⟩], crd := (s.m.dir l).crd.drop 1 } := by
      rw [h]
      rfl
    have htwo {l : Nat} {y : Flit} (h : s.m.slotsPer l = 2) : (s.m.dir l).sends (decide (s.m.slotsPer l = 2)) vc y =
        (s.m.dir l).sends true vc y := by
      rw [h]
      rfl
    refine ⟨fun l u ho hl hu hup hper hne hf => ?_, fun l u ho hl hu hup hper hne hf => ⟨fun hb => ?_, fun hb => ?_⟩,
      fun l u ho hl hu hup hper hne hgo => ?_, fun p ho hp => ⟨fun hst => ?_, fun hst => ?_⟩, fun ho hf hej => ?_, fun ho hf => ?_, ?_⟩
    · have hgo : f.head = false → (s.m.outVc (kVc t out vc)).busy = true := fun h => by rw [hf] at h; cases h
      obtain ⟨h1, h2, h3, -⟩ := Mach.switch_link ht hw hi hv hq ho hl hu hup hne hgo
      refine ⟨_, hx, h1, h2, ?_⟩
      rw [hone hper, Mach.linkBits_leaving ht, if_neg (by rw [hf]; decide)] at h3
      rw [h3, hf]
      rfl
    · have hqq := Mach.q_leaving (b := b) (out := out) ht hq
      have hd := Mach.dir_leaving (b := b) (f := f) (out := out) ht hne
      have hsw : s.m.switch t out = s.m.leaving t out inp vc f b := by
        rw [Mach.switch_out hw hi (by omega), Flit.hopped, if_neg (by rw [hf]; decide)]
        exact Mach.sendOut_lost ho hl hu (by rw [Mach.linkUp_leaving ht, hup]) hf (by rw [Mach.outVc_leaving ht hv (by omega), hb])
      rw [hsw] at hx
      exact ⟨_, hx, hqq, hd⟩
    · obtain ⟨h1, h2, h3, h4⟩ := Mach.switch_link ht hw hi hv hq ho hl hu hup hne (fun _ => hb)
      rw [hone hper, Mach.linkBits_leaving ht, if_pos hf] at h3
      exact ⟨_, hx, h1, by rw [h2], by rw [h2], by rw [h3, ← hf], h4 hper⟩
    · obtain ⟨h1, h2, h3, -⟩ := Mach.switch_link ht hw hi hv hq ho hl hu hup hne hgo
      rw [htwo hper, Mach.linkBits_leaving ht] at h3
      exact ⟨_, hx, h1, h2, by rw [h3]; rfl, by rw [h3]; rfl⟩
    · obtain ⟨h1, h2⟩ := Mach.switch_spine hw hi ht hq ho hp hst
      exact ⟨_, hx, h1, h2⟩
    · exact ⟨_, hx, Mach.switch_deadSpine hw hi ht hq ho hp hst⟩
    · exact ⟨_, hx, (Mach.switch_local hw hi ht hq ho).1, Mach.switch_local_data hw hi ht hq ho hf hej⟩
    · exact ⟨_, hx, (Mach.switch_local hw hi ht hq ho).1, Mach.switch_local_head hw hi ht hq ho hf⟩
    · intro part
      refine ⟨fun ho hlast => ?_, fun ho hlast hf hp => ?_, fun h r ho hlast hp hh => ?_⟩
      · obtain ⟨a, h1, h2, he⟩ := Mach.switch_combine hw hi ht hq ho
        rw [he] at hx
        refine ⟨_, hx, h1, ?_, ?_⟩
        · rw [Mach.cbUnit_toCb_part a t inp vc hlast, h2]
          rfl
        · rw [Mach.cbUnit_toCb_part a t inp vc hlast, h2]
          exact Tab.get_set (d := (dNil : Nat → List Flit)) _ _ _
      · obtain ⟨a, h1, h2, he⟩ := Mach.switch_combine hw hi ht hq ho
        rw [he] at hx
        have hpart : Tab.get dNil (a.cbUnit t).part (inp * 12 + vc) = [] := by rw [h2]; exact hp
        refine ⟨_, hx, h1, ?_⟩
        rw [Mach.cbUnit_toCb_whole a t inp vc (p := ⟨f.bits, [], false⟩) hlast (by rw [hpart]; exact if_pos hf), hpart, h2]
        exact congrArg (fun n => (s.m.cbUnit t).inq ++ [(inp, n, ⟨f.bits, [], false⟩)]) (cnt_singleton _ f)
      · obtain ⟨a, h1, h2, he⟩ := Mach.switch_combine hw hi ht hq ho
        rw [he] at hx
        have hpart : Tab.get dNil (a.cbUnit t).part (inp * 12 + vc) = h :: r := by rw [h2]; exact hp
        refine ⟨_, hx, h1, ?_, ?_⟩
        all_goals rw [Mach.cbUnit_toCb_whole a t inp vc hlast (by rw [hpart]; exact if_pos hh)]
        · dsimp only
          rw [Tab.get_set]
        · rw [hpart, h2]
          rfl
  · obtain ⟨hb, h6⟩ := winner_spec h
    obtain ⟨hc, hle⟩ := Mach.mem_best.1 hb
    refine ⟨hc, hle, fun ⟨d, hd, hl, hd6⟩ => h6 ⟨d, Mach.mem_best.2 ⟨hd, fun x hx => by rw [hl]; exact hle x hx⟩, hd6⟩⟩

end Sys2Proof.Machine

/-! PROOFS. What one rotor slot of Eland changes (R207 to R209, R219): cells launched, sent and landed. -/

namespace Sys2Proof.Machine

/-! ## What the accounts of Eland change -/

/-- A property of the machine that the accounts of Eland leave alone: its counters, its lost cells, its fault events. -/
structure TallyFrame (P : Mach → Prop) : Prop where
  reg  : ∀ m a w, a ≠ 0x80010 → a ≠ 0x80030 → P m → P (m.setReg a w)
  evt  : ∀ m w, P m → P (m.orReg 0x80030 w)
  tele : ∀ m f, P m → P (m.modTele f)
  flt  : ∀ m f, P m → P (m.modFlt f)

/-- The value of a part of the machine without registers, telemetry and fault events. -/
theorem TallyFrame.of {γ : Type} {π : Mach → γ} (v : γ) (hreg : ∀ m a w, π (m.setReg a w) = π m) (htele : ∀ m f, π (m.modTele f) = π m)
    (hflt : ∀ m f, π (m.modFlt f) = π m) : TallyFrame (fun m => π m = v) where
  reg m a w _ _ h := (hreg m a w).trans h
  evt m _ h := (hreg m _ _).trans h
  tele m f h := (htele m f).trans h
  flt m f h := (hflt m f).trans h

theorem aCtr_ge (n : Nat) : 0x400000 ≤ aCtr n := by
  unfold aCtr
  split
  · omega
  split
  · omega
  split <;> omega

namespace TallyFrame
variable {P : Mach → Prop} (h : TallyFrame P) {m : Mach}
include h

theorem addCtr (n k : Nat) (hd : FlitBits) (hm : P m) : P (m.addCtr n k hd) := by
  have ha := aCtr_ge n
  have hs : P (m.setFld (aCtr n) 0 48 (m.fld (aCtr n) 0 48 + k)) := h.reg _ _ _ (by omega) (by omega) hm
  unfold Mach.addCtr
  dsimp only
  split
  · exact hs
  · exact h.tele _ _ hs

theorem count (base w code : Nat) (sel tc : Option Nat) (k : Nat) (hd : FlitBits) (hm : P m) : P (m.count base w code sel tc k hd) := by
  unfold Mach.count
  split
  · exact hm
  · refine List.foldlRecOn _ _ hm (fun m hm i _ => ?_)
    dsimp only
    split
    · exact h.addCtr _ _ _ hm
    · exact hm

theorem countSp (code : Nat) (sel : Option Nat) (k : Nat) (hd : FlitBits) (hm : P m) : P (m.countSp code sel k hd) := by
  unfold Mach.countSp
  split
  · exact hm
  · exact h.count _ _ _ _ _ _ _ hm

theorem idle (l : List Nat) (hm : P m) : P (l.foldl (fun m j => m.countSp 4 (some j) 1 0) m) :=
  List.foldlRecOn _ _ hm (fun _ hm _ _ => h.countSp _ _ _ _ hm)

theorem occur (c k l o s n : Nat) (hm : P m) : P (m.occur c k l o s n) := by
  unfold Mach.occur
  split
  · exact h.flt _ _ hm
  · exact hm

theorem cellLost (p k : Nat) (hd : FlitBits) (hm : P m) : P (m.cellLost p k hd) := by
  unfold Mach.cellLost
  split
  · exact hm
  · exact h.count _ _ _ _ _ _ _ (h.reg _ _ _ (by decide) (by decide) (h.evt _ _ hm))

theorem cellGone (n : Nat) (c : Cell) (hm : P m) : P (m.cellGone n c) := h.occur _ _ _ _ _ _ (h.cellLost _ _ _ hm)

theorem cellCheck (n : Nat) (fl : List Flit) (hm : P m) : P (m.cellCheck n fl) := by
  unfold Mach.cellCheck
  dsimp only
  split
  · exact hm
  · exact h.occur _ _ _ _ _ _ (h.reg _ _ _ (by decide) (by decide) (h.evt _ _ hm))

/-- The packets that an entry register discards toward DEAD stations. -/
theorem entryDead (p : Nat) (hclear : ∀ z c, P z → P (z.modStn p (fun x => { x with entry := Tab.set dNil x.entry c [] }))) (hm : P m) :
    P (m.entryDead p) := by
  refine List.foldlRecOn _ _ hm (fun m hm c _ => ?_)
  split
  · split
    · exact h.cellLost _ _ _ (hclear _ _ hm)
    · exact hm
  · exact hm
end TallyFrame

/-! ## Launches and sends -/

/-- The code of class `k` that may go, its turn bit first. -/
def clsTurn (t : Bool) (ok : Nat → Bool) (k : Nat) : Option Nat :=
  let a := if t then k + 2 else k
  let b := if t then k else k + 2
  if ok a then some a else if ok b then some b else none

theorem clsTurn_some {t : Bool} {ok : Nat → Bool} {k c : Nat} (h : clsTurn t ok k = some c) : (c = k ∨ c = k + 2) ∧ ok c = true := by
  cases t <;> grind [clsTurn]

theorem clsTurn_none {t : Bool} {ok : Nat → Bool} {k : Nat} (h : clsTurn t ok k = none) : ok k = false ∧ ok (k + 2) = false := by
  cases t <;> grind [clsTurn]

theorem takeTurn_eq (turn : BitVec 2) (ok : Nat → Bool) :
    takeTurn turn ok = (clsTurn (bt turn 0) ok 0).orElse (fun _ => clsTurn (bt turn 1) ok 1) := rfl

theorem takeTurn_some {turn : BitVec 2} {ok : Nat → Bool} {c : Nat} (h : takeTurn turn ok = some c) : c < 4 ∧ ok c = true := by
  rw [takeTurn_eq] at h
  cases h0 : clsTurn (bt turn 0) ok 0 with
  | some d =>
    rw [h0, Option.orElse_some] at h
    obtain ⟨hd, ho⟩ := clsTurn_some (h0.trans h)
    exact ⟨by omega, ho⟩
  | none =>
    rw [h0, Option.orElse_none] at h
    obtain ⟨hd, ho⟩ := clsTurn_some h
    exact ⟨by omega, ho⟩

/-- The only code that may go goes. -/
theorem takeTurn_only {turn : BitVec 2} {ok : Nat → Bool} {c : Nat} (hc : c < 4) (h : ok c = true) (hno : ∀ d, d < 4 → d ≠ c → ok d = false) :
    takeTurn turn ok = some c := by
  cases ht : takeTurn turn ok with
  | some d =>
    obtain ⟨hd, ho⟩ := takeTurn_some ht
    by_cases he : d = c
    · rw [he]
    · rw [hno d hd he] at ho
      cases ho
  | none =>
    rw [takeTurn_eq] at ht
    cases h0 : clsTurn (bt turn 0) ok 0 with
    | some d => rw [h0, Option.orElse_some] at ht; cases ht
    | none =>
      rw [h0, Option.orElse_none] at ht
      obtain ⟨ho0, ho2⟩ := clsTurn_none h0
      obtain ⟨ho1, ho3⟩ := clsTurn_none ht
      obtain rfl | rfl | rfl | rfl : c = 0 ∨ c = 1 ∨ c = 2 ∨ c = 3 := by omega
      · rw [ho0] at h; cases h
      · rw [ho1] at h; cases h
      · rw [ho2] at h; cases h
      · rw [ho3] at h; cases h

namespace TallyFrame
variable {P : Mach → Prop} (h : TallyFrame P) {m z : Mach}
include h

/-- A node's high water marks (R231). -/
theorem entryMark (n lo v : Nat) (hn : n < 32) (hz : P z) : P (if z.fld (aSpStn n 8) lo 12 < v then z.setFld (aSpStn n 8) lo 12 v else z) := by
  split
  · exact h.reg _ _ _ (by unfold aSpStn; omega) (by unfold aSpStn; omega) hz
  · exact hz

/-- A launch, where the property changes once the packet has joined its queue. -/
theorem launch1_to {P' : Mach → Prop} (h' : TallyFrame P') (i s : Nat) (hto : ∀ z, P z → P' z)
    (hleave : ∀ z c (g : BitVec 2 → BitVec 2), (m.stn i).st.runs = true → P z →
      P (z.modStn i (fun x => { x with entry := Tab.set dNil x.entry c [], turnL := g x.turnL })))
    (hjoin : ∀ z k cell, (m.stn ((i + s) % 32)).st = .enabled → P z →
      P' (z.modStn ((i + s) % 32) (fun x => { x with q := Tab.upd dNil x.q k (fun l => l ++ [cell]) })))
    (hz : P z) : P' (m.launch1 i s z) := by
  have hn : (i + s) % 32 < 32 := Nat.mod_lt _ (by decide)
  unfold Mach.launch1
  dsimp only
  split
  · exact hto _ hz
  next hrun =>
    obtain ⟨hr, hen⟩ : (m.stn i).st.runs = true ∧ (m.stn ((i + s) % 32)).st = .enabled := by simpa using hrun
    have hno (c : Nat) (k : Nat) (hd : FlitBits) : P (z.countSp 3 (some c) k hd) := h.countSp _ _ _ _ hz
    split
    · exact hto _ (hno _ _ _)
    next c _ =>
      split
      · exact hto _ (hno _ _ _)
      next o fl _ =>
        split
        · exact hto _ (h.cellGone _ _ (h.countSp _ _ _ _ (hleave _ c (fun t => nextTurn t c) hr (hno _ _ _))))
        · exact h'.cellCheck _ _ (h'.countSp _ _ _ _ (h'.entryMark _ _ _ hn (h'.entryMark _ _ _ hn
            (hjoin _ _ _ hen (hleave _ c (fun t => nextTurn t c) hr (hno _ _ _))))))

theorem launch1 (i s : Nat)
    (hleave : ∀ z c (g : BitVec 2 → BitVec 2), (m.stn i).st.runs = true → P z →
      P (z.modStn i (fun x => { x with entry := Tab.set dNil x.entry c [], turnL := g x.turnL })))
    (hjoin : ∀ z k cell, (m.stn ((i + s) % 32)).st = .enabled → P z →
      P (z.modStn ((i + s) % 32) (fun x => { x with q := Tab.upd dNil x.q k (fun l => l ++ [cell]) })))
    (hz : P z) : P (m.launch1 i s z) :=
  h.launch1_to h i s (fun _ hz => hz) hleave hjoin hz

theorem send1 (j s : Nat)
    (hsend : ∀ z c (g : Tab (BitVec 2) → Tab (BitVec 2)), c < 4 → (m.stn j).st.runs = true → P z → P (z.modStn j (fun x =>
      { x with q := Tab.upd dNil x.q ((j + s) % 32 * 4 + c) (fun l => l.drop 1), turnS := g x.turnS })))
    (hfly : ∀ z cell, cell.broken = false → P z → P (z.modSpine (fun s => { s with flight := s.flight ++ [cell] })))
    (hz : P z) : P (m.send1 j s z) := by
  unfold Mach.send1
  dsimp only
  split
  · exact h.countSp _ _ _ _ hz
  next hrun =>
    obtain ⟨hr, -⟩ : (m.stn j).st.runs = true ∧ (m.stn ((j + s) % 32)).st.runs = true := by simpa using hrun
    split
    · exact h.countSp _ _ _ _ hz
    next c ht =>
      split
      · exact hz
      next cell l _ =>
        have hl := hsend _ c (fun t => Tab.upd (fun _ => 0) t ((j + s) % 32) (fun b => nextTurn b c)) (takeTurn_some ht).1 hr hz
        split
        · exact h.cellGone _ _ (h.countSp _ _ _ _ hl)
        · next hb => exact h.cellCheck _ _ (h.countSp _ _ _ _ (hfly _ _ (Bool.eq_false_iff.2 hb) hl))
end TallyFrame

/-- The packet of an entry register that may go leaves it, and joins the queue of the node it reaches unless it fails its check (R208, R212). -/
theorem Mach.launch1_goes {m : Mach} {i s c o n : Nat} {fl : List Flit} (hn : (i + s) % 32 = n) (hr : (m.stn i).st.runs = true)
    (hen : (m.stn n).st = .enabled) (hc : c < 4) (he : m.entryOf i c = some (o, fl))
    (hno : ∀ d, d < 4 → d ≠ c → m.entryOf i d = none) (hav : m.avoids ((o + 32 - n) % 32) = false) (had : m.admits n o c = true) (z : Mach) :
    Tab.get dNil ((m.launch1 i s z).stn i).entry c = [] ∧
    (m.launch1 i s z).nodeQ n o c = if (mkCell c o n m.clk.cyc fl).broken then z.nodeQ n o c else z.nodeQ n o c ++ [mkCell c o n m.clk.cyc fl] := by
  have hn32 : n < 32 := hn ▸ Nat.mod_lt _ (by decide)
  generalize hv : z.nodeQ n o c = v
  have hq : TallyFrame (fun t : Mach => t.nodeQ n o c = v) := .of v (fun _ _ _ => rfl) (fun _ _ => rfl) (fun _ _ => rfl)
  have hfr (v : List Cell) : TallyFrame (fun t : Mach => Tab.get dNil (t.stn i).entry c = [] ∧ t.nodeQ n o c = v) :=
    ⟨fun _ _ _ _ _ h => h, fun _ _ h => h, fun _ _ h => h, fun _ _ h => h⟩
  have hleave {y : Mach} (g : BitVec 2 → BitVec 2) (hy : y.nodeQ n o c = v) :
      Tab.get dNil ((y.modStn i (fun x => { x with entry := Tab.set dNil x.entry c [], turnL := g x.turnL })).stn i).entry c = [] ∧
      (y.modStn i (fun x => { x with entry := Tab.set dNil x.entry c [], turnL := g x.turnL })).nodeQ n o c = v := by
    refine ⟨by rw [Mach.stn_modStn]; dsimp only; rw [Tab.get_set], ?_⟩
    unfold Mach.nodeQ at hy ⊢
    by_cases hi : n = i
    · rw [hi, Mach.stn_modStn]; exact hi ▸ hy
    · rw [Mach.stn_modStn_ne _ _ hi]; exact hy
  have hjoin {y : Mach} {cell : Cell} (hy : Tab.get dNil (y.stn i).entry c = [] ∧ y.nodeQ n o c = v) :
      Tab.get dNil ((y.modStn n (fun x => { x with q := Tab.upd dNil x.q (o * 4 + c) (fun l => l ++ [cell]) })).stn i).entry c = [] ∧
      (y.modStn n (fun x => { x with q := Tab.upd dNil x.q (o * 4 + c) (fun l => l ++ [cell]) })).nodeQ n o c = v ++ [cell] := by
    refine ⟨?_, by unfold Mach.nodeQ; rw [Mach.stn_modStn]; dsimp only; rw [Tab.get_upd]; exact congrArg (· ++ [cell]) hy.2⟩
    by_cases hi : i = n
    · rw [hi, Mach.stn_modStn]; exact hi ▸ hy.1
    · rw [Mach.stn_modStn_ne _ _ hi]; exact hy.1
  unfold Mach.launch1
  dsimp only
  rw [hn]
  split
  · next hrun => simp [hr, hen] at hrun
  split
  · next ht =>
    rw [takeTurn_only hc (by simp [he, hav, had]) (fun d hd hne => by simp [hno d hd hne])] at ht
    cases ht
  next c' ht =>
    rw [takeTurn_only hc (by simp [he, hav, had]) (fun d hd hne => by simp [hno d hd hne])] at ht
    obtain rfl := Option.some.inj ht
    split
    · next hn => rw [he] at hn; cases hn
    next o' fl' heq =>
      obtain ⟨rfl, rfl⟩ := Prod.mk.inj (Option.some.inj (heq.symm.trans he))
      have hl := fun k hd => hleave (y := z.countSp 3 (some n) k hd) (fun t => nextTurn t c) (hq.countSp _ _ _ _ hv)
      by_cases hb : (mkCell c o' n m.clk.cyc fl').broken = true
      · rw [if_pos hb, if_pos hb]
        exact (hfr v).cellGone _ _ ((hfr v).countSp _ _ _ _ (hl _ _))
      · rw [if_neg hb, if_neg hb]
        exact (hfr _).cellCheck _ _ ((hfr _).countSp _ _ _ _ ((hfr _).entryMark _ _ _ hn32 ((hfr _).entryMark _ _ _ hn32 (hjoin (hl _ _)))))

/-- The oldest cell of the queue that the slot serves leaves it, and is in flight unless it fails its check (R209, R212). -/
theorem Mach.send1_goes {m : Mach} {j s c u : Nat} {k : Cell} {q : List Cell} (hu : (j + s) % 32 = u) (hr : (m.stn j).st.runs = true)
    (hr' : (m.stn u).st.runs = true) (hc : c < 4) (hq : m.nodeQ j u c = k :: q) (hno : ∀ d, d < 4 → d ≠ c → m.nodeQ j u d = [])
    (ht : m.toward u c < 2) {z : Mach} (hz : z.nodeQ j u c = k :: q) :
    (m.send1 j s z).nodeQ j u c = q ∧ (k.broken = false → k ∈ (m.send1 j s z).spine.flight) := by
  have hfr (Q : List Cell → Prop) : TallyFrame (fun t : Mach => t.nodeQ j u c = q ∧ Q t.spine.flight) :=
    ⟨fun _ _ _ _ _ h => h, fun _ _ h => h, fun _ _ h => h, fun _ _ h => h⟩
  have hsend (g : Tab (BitVec 2) → Tab (BitVec 2)) :
      (z.modStn j (fun x => { x with q := Tab.upd dNil x.q (u * 4 + c) (fun l => l.drop 1), turnS := g x.turnS })).nodeQ j u c = q := by
    unfold Mach.nodeQ at hz ⊢
    rw [Mach.stn_modStn]
    dsimp only
    rw [Tab.get_upd, hz]
    rfl
  unfold Mach.send1
  dsimp only
  rw [hu]
  split
  · next hrun => simp [hr, hr'] at hrun
  split
  · next hturn =>
    rw [takeTurn_only hc (by simp [hq, ht]) (fun d hd hne => by simp [hno d hd hne])] at hturn
    cases hturn
  next c' hturn =>
    rw [takeTurn_only hc (by simp [hq, ht]) (fun d hd hne => by simp [hno d hd hne])] at hturn
    obtain rfl := Option.some.inj hturn
    split
    · next hn => rw [hq] at hn; cases hn
    next cell l heq =>
      obtain ⟨rfl, rfl⟩ := List.cons.inj (heq.symm.trans hq)
      have hl := hsend (fun t => Tab.upd (fun _ => 0) t u (fun b => nextTurn b c))
      generalize z.modStn j (fun x => { x with
        q := Tab.upd dNil x.q (u * 4 + c) (fun l => l.drop 1), turnS := Tab.upd (fun _ => 0) x.turnS u (fun b => nextTurn b c) }) = y at hl ⊢
      by_cases hb : cell.broken = true
      · rw [if_pos hb]
        have h := (hfr (fun _ => True)).cellGone j cell ((hfr (fun _ => True)).countSp 4 (some j) 1 0 ⟨hl, trivial⟩)
        exact ⟨h.1, fun hk => absurd hb (by rw [hk]; decide)⟩
      · rw [if_neg hb]
        have h := (hfr (fun f => cell ∈ f)).cellCheck j cell.flits ((hfr (fun f => cell ∈ f)).countSp 2 (some j) 1 (hdOf cell.flits)
          (m := y.modSpine (fun s => { s with flight := s.flight ++ [cell] })) ⟨hl, List.mem_append_right _ (.head _)⟩)
        exact ⟨h.1, fun _ => h.2⟩

/-! ## The connections of a slot -/

/-- What a station is, apart from the packets and cells it holds and the turn bits. -/
def Station.head (x : Station) : StnSt × Bool × Bool × Bool := (x.st, x.onReq, x.onDue, x.dying)

/-- A property that the traffic of Eland leaves alone. -/
structure SlotFrame (P : Mach → Prop) : Prop extends TallyFrame P where
  stn    : ∀ m p f, (∀ x : Station, (f x).head = x.head) → P m → P (m.modStn p f)
  flight : ∀ m (f : List Cell → List Cell) (n : Nat → Nat), P m → P (m.modSpine (fun s => { s with flight := f s.flight, lands := n s.lands }))

/-- The value of a part of the machine outside Eland. -/
theorem SlotFrame.of {γ : Type} {π : Mach → γ} (v : γ) (hreg : ∀ m a w, π (m.setReg a w) = π m) (htele : ∀ m f, π (m.modTele f) = π m)
    (hflt : ∀ m f, π (m.modFlt f) = π m) (hsp : ∀ m f, π (m.modSpine f) = π m) : SlotFrame (fun m => π m = v) where
  toTallyFrame := .of v hreg htele hflt
  stn m p f _ h := (hsp m (fun s => { s with stn := Tab.upd dStn s.stn p f })).trans h
  flight m _ _ h := (hsp m _).trans h

/-- The rotor's own account: everything of Eland but its stations and the cells in flight. -/
def Spine.phase (s : Spine) : Spine := { s with stn := [], flight := [], lands := 0 }

theorem SlotFrame.phase (v : Spine) : SlotFrame (fun m => m.spine.phase = v) :=
  ⟨.of v (fun _ _ _ => rfl) (fun _ _ => rfl) (fun _ _ => rfl), fun _ _ _ _ h => h, fun _ _ _ h => h⟩

theorem SlotFrame.mask (v : Word) : SlotFrame (fun m => m.reg 0x80010 = v) where
  reg m a w ha _ h := (Mach.reg_setReg_ne m w (Ne.symm ha)).trans h
  evt m w h := (Mach.reg_setReg_ne m _ (by decide)).trans h
  tele _ _ h := h
  flt _ _ h := h
  stn _ _ _ _ h := h
  flight _ _ _ h := h

/-- CELL_LOST stays set (R231). -/
theorem SlotFrame.lost : SlotFrame (fun m => bt (m.reg 0x80030) 3 = true) where
  reg m a w _ ha h := (congrArg (fun w => bt w 3) (Mach.reg_setReg_ne m w (Ne.symm ha))).trans h
  evt m w h := by
    change bt ((m.setReg 0x80030 (m.reg 0x80030 ||| w)).reg 0x80030) 3 = true
    rw [Mach.reg_setReg, bt_or, h, Bool.true_or]
  tele _ _ h := h
  flt _ _ h := h
  stn _ _ _ _ h := h
  flight _ _ _ h := h

theorem Mach.head_modStn (m : Mach) {f : Station → Station} (hf : ∀ x : Station, (f x).head = x.head) (p k : Nat) :
    ((m.modStn p f).stn k).head = (m.stn k).head := by
  by_cases hk : k = p
  · rw [hk, Mach.stn_modStn, hf]
  · rw [Mach.stn_modStn_ne _ _ hk]

theorem SlotFrame.heads (v : Nat → StnSt × Bool × Bool × Bool) : SlotFrame (fun m => ∀ p, (m.stn p).head = v p) where
  reg _ _ _ _ _ h := h
  evt _ _ h := h
  tele _ _ h := h
  flt _ _ h := h
  stn m p _ hf h k := (m.head_modStn hf p k).trans (h k)
  flight _ _ _ h := h

theorem TallyFrame.connect {P : Mach → Prop} (h : TallyFrame P) {m : Mach} (s : Nat)
    (hsend : ∀ j z c (g : Tab (BitVec 2) → Tab (BitVec 2)), c < 4 → (m.stn j).st.runs = true → P z → P (z.modStn j (fun x =>
      { x with q := Tab.upd dNil x.q ((j + s) % 32 * 4 + c) (fun l => l.drop 1), turnS := g x.turnS })))
    (hfly : ∀ z cell, cell.broken = false → P z → P (z.modSpine (fun s => { s with flight := s.flight ++ [cell] })))
    (hleave : ∀ i z c (g : BitVec 2 → BitVec 2), (m.stn i).st.runs = true → P z →
      P (z.modStn i (fun x => { x with entry := Tab.set dNil x.entry c [], turnL := g x.turnL })))
    (hjoin : ∀ n z k cell, (m.stn n).st = .enabled → P z →
      P (z.modStn n (fun x => { x with q := Tab.upd dNil x.q k (fun l => l ++ [cell]) })))
    (hm : P m) : P (m.connect s) := by
  unfold Mach.connect
  refine List.foldlRecOn _ _ (List.foldlRecOn _ _ hm (fun z hz j _ => ?_)) (fun z hz i _ => ?_)
  · exact h.send1 j s (hsend j) hfly hz
  · exact h.launch1 i s (hleave i) (hjoin _) hz

namespace SlotFrame
variable {P : Mach → Prop} (h : SlotFrame P) {m : Mach}
include h

theorem connect (s : Nat) (hm : P m) : P (m.connect s) :=
  h.toTallyFrame.connect s (fun _ _ _ _ _ _ hz => h.stn _ _ _ (fun _ => rfl) hz) (fun _ cell _ hz => h.flight _ (fun l => l ++ [cell]) id hz)
    (fun _ _ _ _ _ hz => h.stn _ _ _ (fun _ => rfl) hz) (fun _ _ _ _ _ hz => h.stn _ _ _ (fun _ => rfl) hz) hm

theorem land (hm : P m) : P m.land :=
  List.foldlRecOn _ _ (h.flight _ (fun _ => []) (fun n => n + 1) hm) (fun _ hm _ _ => h.stn _ _ _ (fun _ => rfl) hm)

theorem entriesDead (l : List Nat) (hm : P m) : P (l.foldl (fun m p => m.entryDead p) m) :=
  List.foldlRecOn _ _ hm (fun _ hm _ _ => h.entryDead _ (fun _ _ hz => h.stn _ _ _ (fun _ => rfl) hz) hm)
end SlotFrame

/-! ## The start of a slot -/

/-- A station asked for is due at a period boundary (R229). -/
def Mach.markDue (m : Mach) : Mach :=
  (List.range 32).foldl (fun m p => if (m.stn p).onReq then m.modStn p (fun x => { x with onDue := true }) else m) m

/-- The machine when the connections of a slot are made, once stations whose domain has opened are DEAD. -/
def Mach.slotOpen (m : Mach) (s : Nat) : Mach :=
  let m := (List.range 32).foldl (fun m p => m.entryDead p) m.land
  if s = 0 then m.markDue else m

/-- ... and what the slot does then. -/
def Mach.slotGo (m : Mach) (s : Nat) (quiet : Bool) : Mach :=
  if quiet then (List.range 32).foldl (fun m j => m.countSp 4 (some j) 1 0) m else m.connect s

theorem Mach.slotStart_eq (m : Mach) (s : Nat) (quiet : Bool) : m.slotStart s quiet = (m.stnsDie.slotOpen s).slotGo s quiet := rfl

theorem SlotFrame.slotGo {P : Mach → Prop} (h : SlotFrame P) {m : Mach} (s : Nat) (quiet : Bool) (hm : P m) : P (m.slotGo s quiet) := by
  unfold Mach.slotGo
  split
  · exact h.toTallyFrame.idle _ hm
  · exact h.connect _ hm

/-- The head of a station that is due if it has been asked for. -/
def Station.dueHead (x : Station) : StnSt × Bool × Bool × Bool := (x.st, x.onReq, x.onReq || x.onDue, x.dying)

theorem Mach.head_markDue (m : Mach) (p : Nat) : (m.markDue.stn p).head = if p < 32 then (m.stn p).dueHead else (m.stn p).head := by
  unfold Mach.markDue
  generalize 32 = n
  induction n with
  | zero => rfl
  | succ n ih =>
    rw [List.range_succ, List.foldl_append, List.foldl_cons, List.foldl_nil]
    generalize (List.range n).foldl _ m = z at ih
    have hstep (f : Station → Station) (hf : ∀ x, (f x).head = (x.st, x.onReq, true, x.dying)) (z : Mach) (hr : (z.stn n).onReq = true) :
        ((z.modStn n f).stn p).head = if p = n then (z.stn p).dueHead else (z.stn p).head := by
      by_cases hp : p = n
      · subst hp
        rw [if_pos rfl, Mach.stn_modStn, hf, Station.dueHead, hr, Bool.true_or]
      · rw [if_neg hp, Mach.stn_modStn_ne _ _ hp]
    have hno (z : Mach) (hr : ¬ (z.stn n).onReq = true) : (z.stn p).head = if p = n then (z.stn p).dueHead else (z.stn p).head := by
      split
      · next hp => subst hp; rw [Station.dueHead, Bool.eq_false_iff.2 hr, Bool.false_or, Station.head, Bool.eq_false_iff.2 hr]
      · rfl
    have hz : ((if (z.stn n).onReq = true then z.modStn n (fun x => { x with onDue := true }) else z).stn p).head =
        if p = n then (z.stn p).dueHead else (z.stn p).head := by
      split
      · next hr => exact hstep _ (fun _ => rfl) z hr
      · next hr => exact hno z hr
    rw [hz]
    by_cases hp : p = n
    · subst hp
      rw [if_pos rfl, if_pos (Nat.lt_succ_self _)]
      rw [if_neg (Nat.lt_irrefl _)] at ih
      simp only [Station.head, Prod.mk.injEq] at ih
      obtain ⟨h1, h2, h3, h4⟩ := ih
      rw [Station.dueHead, Station.dueHead, h1, h2, h3, h4]
    · rw [if_neg hp, ih]
      exact if_congr (by omega) rfl rfl

theorem SlotFrame.slotOpen {P : Mach → Prop} (h : SlotFrame P) (hdue : ∀ m p, P m → P (m.modStn p (fun x => { x with onDue := true }))) {m : Mach}
    (s : Nat) (hm : P m) : P (m.slotOpen s) := by
  have hd : P ((List.range 32).foldl (fun m p => m.entryDead p) m.land) := h.entriesDead _ (h.land hm)
  unfold Mach.slotOpen
  dsimp only
  split
  · refine List.foldlRecOn _ _ hd (fun m hm p _ => ?_)
    split
    · exact hdue _ _ hm
    · exact hm
  · exact hd

end Sys2Proof.Machine

/-! PROOFS. A rotor slot of Eland (O32). -/

namespace Sys2Proof.Machine

/-! ## Where a slot starts -/

theorem Mach.stnsDie_none {m : Mach} (h : ∀ p, (m.stn p).dying = false) : m.stnsDie = m :=
  foldl_fixed (fun p _ => if_neg (by rw [h p]; decide))

theorem Mach.entryOf_congr {a m : Mach} {p c : Nat} (h : Tab.get dNil (a.stn p).entry c = Tab.get dNil (m.stn p).entry c) :
    a.entryOf p c = m.entryOf p c := by
  unfold Mach.entryOf
  rw [h]

theorem Mach.entryDead_none {m : Mach} (h : ∀ p, (m.stn p).st ≠ .dead) (p : Nat) : m.entryDead p = m := by
  refine foldl_fixed (fun c _ => ?_)
  split
  · exact if_neg (h _)
  · rfl

/-- Where no station is DEAD, only landing changes anything at the start of a slot. -/
theorem Mach.slotOpen_land {m : Mach} {s : Nat} (hs : s ≠ 0) (h : ∀ p, (m.stn p).st ≠ .dead) : m.slotOpen s = m.land := by
  have hheads : ∀ p, (m.land.stn p).head = (m.stn p).head := (SlotFrame.heads _).land (fun _ => rfl)
  unfold Mach.slotOpen
  dsimp only
  rw [if_neg hs]
  exact foldl_fixed (fun p _ => Mach.entryDead_none (fun p => by rw [show (m.land.stn p).st = (m.stn p).st from congrArg Prod.fst (hheads p)]; exact h p) p)

theorem Mach.land_empty {m : Mach} (h : m.spine.flight = []) : m.land = m.modSpine (fun s => { s with lands := s.lands + 1 }) := by
  unfold Mach.land
  dsimp only
  rw [h]
  cases hm : m.spine
  rw [hm] at h
  dsimp only at h
  subst h
  unfold Mach.modSpine
  rw [hm]
  rfl

theorem Mach.land_one {m : Mach} {k : Cell} (h : m.spine.flight = [k]) :
    m.land = (m.modSpine (fun s => { s with flight := [], lands := s.lands + 1 })).modStn k.out (fun x =>
      { x with exit := Tab.upd dNil x.exit k.code (fun l => l ++ k.flits.map (fun f => (f, k.node, m.spine.lands + 1))) }) := by
  unfold Mach.land
  dsimp only
  rw [h]
  rfl

/-! ## The rotor -/

/-- The next slot's index and number. -/
def Mach.advanced (m : Mach) : Mach := m.modSpine (fun x => { x with slot := (m.spine.slot + 1) % 32, abs := x.abs + 1 })

/-- At slot 0 the correction found at the last mark comes into force (R218). -/
def Mach.corrected (m : Mach) (sl : Nat) : Mach :=
  if sl = 0 then (m.countSp 6 none 1 0).modSpine (fun x => { x with corr := x.corrN, corrN := 0 }) else m

/-- The count of cycles starts at a period boundary that should meet a mark. -/
def Mach.restarted (m : Mach) : Mach :=
  if m.spine.abs % (if m.clk.mode = 1 then 96 else 32) = 0 then m.modSpine (fun x => { x with cyc := 0 }) else m

/-- At slot 0 a rotor that is not LOCKED takes a pending mask (R222). -/
def Mach.masked (m : Mach) (sl : Nat) : Mach :=
  if sl = 0 ∧ m.spine.lock ≠ .locked ∧ m.keep.st ≠ .frozen then m.applyMask m.ftNs else m

/-- What a slot does before its stations and connections. -/
def Mach.rotated (m : Mach) : Mach :=
  ((m.advanced.corrected ((m.spine.slot + 1) % 32)).restarted).masked ((m.spine.slot + 1) % 32)

/-- ... and, in slot 31, that the correction has been used. -/
def Mach.turned (m : Mach) : Mach :=
  if (m.spine.slot + 1) % 32 = 31 then m.rotated.modSpine (fun x => { x with corr := 0 }) else m.rotated

/-- Whether no packet or cell moves in the slot (R218, R219). -/
def Mach.idles (m : Mach) : Bool :=
  decide ((m.spine.slot + 1) % 32 = 31 ∧ m.rotated.spine.corr < 0) || decide (m.turned.spine.lock = .acq)

def Mach.slotNext (m : Mach) : Mach :=
  if !m.hasSpine || m.clk.fstop then m else if !m.spineUp then m.stnsDie else m.turned.slotStart ((m.spine.slot + 1) % 32) m.idles

theorem exec_rotorSlot {s : State} (hs : s.m.test.scan = false) : exec .rotorSlot s = .next { s with m := s.m.slotNext } := by
  change execRotorSlot s = _
  rw [execRotorSlot, State.on_eq hs]
  rfl

theorem Mach.slotNext_eq {m : Mach} (hsp : m.hasSpine = true) (hf : m.clk.fstop = false) (hu : m.spineUp = true) :
    m.slotNext = (m.turned.stnsDie.slotOpen ((m.spine.slot + 1) % 32)).slotGo ((m.spine.slot + 1) % 32) m.idles := by
  unfold Mach.slotNext
  rw [hsp, hf, hu]
  rfl

theorem Mach.restarted_eq (m : Mach) : m.restarted = m.modSpine (fun x =>
    { x with cyc := if x.abs % (if m.clk.mode = 1 then 96 else 32) = 0 then 0 else x.cyc }) := by
  unfold Mach.restarted Mach.modSpine
  generalize (if m.clk.mode = 1 then 96 else 32) = per
  split
  · next h => dsimp only; rw [if_pos h]
  · next h => dsimp only; rw [if_neg h]

theorem Mach.rotated_eq {m : Mach} (h0 : (m.spine.slot + 1) % 32 ≠ 0) : m.rotated = m.advanced.restarted := by
  unfold Mach.rotated Mach.corrected Mach.masked
  rw [if_neg h0, if_neg (fun h => h0 h.1)]

theorem Mach.turned_eq {m : Mach} (h0 : (m.spine.slot + 1) % 32 ≠ 0) : m.turned = m.modSpine (fun y =>
    { y with slot := (m.spine.slot + 1) % 32, abs := y.abs + 1, corr := if (m.spine.slot + 1) % 32 = 31 then 0 else y.corr,
             cyc := if (y.abs + 1) % (if m.clk.mode = 1 then 96 else 32) = 0 then 0 else y.cyc }) := by
  unfold Mach.turned
  rw [Mach.rotated_eq h0, Mach.restarted_eq]
  by_cases h31 : (m.spine.slot + 1) % 32 = 31
  · simp only [h31, if_true]
    rw [Mach.advanced, h31]
    rfl
  · simp only [h31, if_false]
    rfl

section
variable {P : Mach → Prop} (hsp : ∀ m f, (∀ x : Spine, (f x).stn = x.stn ∧ (f x).flight = x.flight) → P m → P (m.modSpine f))
  (hmask : ∀ m w, P m → P (m.setReg 0x80010 w))
include hsp hmask

theorem Mach.applyMask_of {m : Mach} (t : Nat) (hm : P m) : P (m.applyMask t) := by
  unfold Mach.applyMask
  split
  · exact hsp _ _ (fun _ => ⟨rfl, rfl⟩) (hmask _ _ hm)
  · exact hm

theorem Mach.masked_of {m : Mach} (sl : Nat) (hm : P m) : P (m.masked sl) := by
  unfold Mach.masked
  split
  · exact Mach.applyMask_of hsp hmask _ hm
  · exact hm

/-- What the turn of the rotor leaves alone. -/
theorem Mach.turned_of (h : TallyFrame P) {m : Mach} (hm : P m) : P m.turned := by
  have hc : P (m.advanced.corrected ((m.spine.slot + 1) % 32)) := by
    have ha : P m.advanced := hsp _ _ (fun _ => ⟨rfl, rfl⟩) hm
    unfold Mach.corrected
    split
    · exact hsp _ _ (fun _ => ⟨rfl, rfl⟩) (h.countSp _ _ _ _ ha)
    · exact ha
  have hr : P m.rotated := by
    unfold Mach.rotated
    rw [Mach.restarted_eq]
    exact Mach.masked_of hsp hmask _ (hsp _ _ (fun _ => ⟨rfl, rfl⟩) hc)
  unfold Mach.turned
  split
  · exact hsp _ _ (fun _ => ⟨rfl, rfl⟩) hr
  · exact hr
end

theorem Mach.stn_turned (m : Mach) (p : Nat) : m.turned.stn p = m.stn p :=
  Mach.turned_of (P := fun t => t.stn p = m.stn p) (fun m _ hf h => (congrArg (fun l => Tab.get dStn l p) (hf m.spine).1).trans h) (fun _ _ h => h)
    (.of _ (fun _ _ _ => rfl) (fun _ _ => rfl) (fun _ _ => rfl)) rfl

theorem Mach.flight_turned (m : Mach) : m.turned.spine.flight = m.spine.flight :=
  Mach.turned_of (P := fun t => t.spine.flight = m.spine.flight) (fun m _ hf h => ((hf m.spine).2).trans h) (fun _ _ h => h)
    (.of _ (fun _ _ _ => rfl) (fun _ _ => rfl) (fun _ _ => rfl)) rfl

/-- A part of the machine outside Eland and the registers. -/
theorem Mach.turned_keeps {γ : Type} {π : Mach → γ} (hreg : ∀ m a w, π (m.setReg a w) = π m) (htele : ∀ m f, π (m.modTele f) = π m)
    (hflt : ∀ m f, π (m.modFlt f) = π m) (hsp : ∀ m f, π (m.modSpine f) = π m) (m : Mach) : π m.turned = π m :=
  Mach.turned_of (P := fun t => π t = π m) (fun _ _ _ h => (hsp _ _).trans h) (fun _ _ h => (hreg _ _ _).trans h) (.of _ hreg htele hflt) rfl

/-! ## Slot 0 -/

theorem Mach.spine_restarted (m : Mach) : ∃ n, m.restarted.spine = { m.spine with cyc := n } := by
  rw [Mach.restarted_eq]
  exact ⟨_, rfl⟩

/-- Whether a rotor takes a pending mask at slot 0. -/
def Mach.takesMask (m : Mach) : Prop :=
  m.spine.lock ≠ .locked ∧ m.keep.st ≠ .frozen ∧ m.spine.pend = true ∧ m.fld 0x80018 0 64 ≤ m.ftNs

theorem Mach.masked_takes {m : Mach} (h : m.takesMask) :
    (m.masked 0).spine = { m.spine with pend := false } ∧ (m.masked 0).reg 0x80010 = mkf 64 0 32 (m.fld 0x80010 32 32) := by
  obtain ⟨hl, hk, hp, ht⟩ := h
  unfold Mach.masked Mach.applyMask
  rw [if_pos ⟨rfl, hl, hk⟩, if_pos ⟨hp, ht⟩]
  exact ⟨rfl, Mach.reg_setReg _ _ _⟩

theorem Mach.masked_keeps {m : Mach} (h : ¬ m.takesMask) : m.masked 0 = m := by
  unfold Mach.masked Mach.applyMask
  split
  · next hl => exact if_neg (fun hp => h ⟨hl.2.1, hl.2.2, hp.1, hp.2⟩)
  · rfl

/-- At slot 0 the correction found at the last mark comes into force, and a rotor that is not LOCKED takes a pending mask whose time has
come. -/
theorem Mach.turned_zero {m : Mach} (h0 : (m.spine.slot + 1) % 32 = 0) :
    m.turned.spine.slot = 0 ∧ m.turned.spine.corr = m.spine.corrN ∧ m.turned.spine.corrN = 0 ∧ m.turned.spine.abs = m.spine.abs + 1 ∧
    m.turned.spine.lock = m.spine.lock ∧
    (m.takesMask → m.turned.spine.pend = false ∧ m.turned.reg 0x80010 = mkf 64 0 32 (m.fld 0x80010 32 32)) ∧
    (¬ m.takesMask → m.turned.spine.pend = m.spine.pend ∧ m.turned.reg 0x80010 = m.reg 0x80010) := by
  obtain ⟨y, hy⟩ : ∃ y, y = m.advanced.countSp 6 none 1 0 := ⟨_, rfl⟩
  have hlike : y.Like m.advanced := hy ▸ m.advanced.like_count (by decide) _ _ _ _ _
  have hsp : y.spine = { m.spine with slot := 0, abs := m.spine.abs + 1 } := by
    rw [hy, ← h0]
    exact TallyFrame.countSp (P := fun t => t.spine = m.advanced.spine) (.of _ (fun _ _ _ => rfl) (fun _ _ => rfl) (fun _ _ => rfl)) _ _ _ _ rfl
  have hkeep : y.keep = m.keep := by
    rw [hy]
    exact TallyFrame.countSp (P := fun t => t.keep = m.advanced.keep) (.of _ (fun _ _ _ => rfl) (fun _ _ => rfl) (fun _ _ => rfl)) _ _ _ _ rfl
  have hr (a : Nat) (ha : ctrAddr a = false) : y.reg a = m.reg a := hlike.reg a ha
  obtain ⟨z, hz⟩ : ∃ z, z = (y.modSpine (fun x => { x with corr := x.corrN, corrN := 0 })).restarted := ⟨_, rfl⟩
  have ht : m.turned = z.masked 0 := by
    unfold Mach.turned Mach.rotated Mach.corrected
    rw [h0, if_neg (by decide), if_pos rfl, hz, hy]
  have hzs : ∃ n, z.spine = { m.spine with slot := 0, abs := m.spine.abs + 1, cyc := n, corr := m.spine.corrN, corrN := 0 } := by
    obtain ⟨n, hn⟩ := Mach.spine_restarted (y.modSpine (fun x => { x with corr := x.corrN, corrN := 0 }))
    exact ⟨n, by rw [hz, hn, Mach.modSpine, hsp]⟩
  obtain ⟨n, hzs⟩ := hzs
  have hzk : z.keep = m.keep := by
    rw [hz, Mach.restarted_eq]
    exact hkeep
  have hzr (a : Nat) (ha : ctrAddr a = false) : z.reg a = m.reg a := by
    rw [hz, Mach.restarted_eq]
    exact hr a ha
  have htm : z.takesMask ↔ m.takesMask := by
    unfold Mach.takesMask Mach.fld Mach.ftNs
    rw [hzs, hzk, hzr _ (by decide)]
  have hmk : z.fld 0x80010 32 32 = m.fld 0x80010 32 32 := congrArg (fun w => bf w 32 32) (hzr _ (by decide))
  rw [ht]
  by_cases hm : m.takesMask
  · obtain ⟨hs, hw⟩ := Mach.masked_takes (htm.2 hm)
    rw [hs, hzs]
    exact ⟨rfl, rfl, rfl, rfl, rfl, fun _ => ⟨rfl, hw.trans (by rw [hmk])⟩, fun h => absurd hm h⟩
  · rw [Mach.masked_keeps (fun h => hm (htm.1 h)), hzs]
    exact ⟨rfl, rfl, rfl, rfl, rfl, fun h => absurd h hm, fun _ => ⟨rfl, hzr _ (by decide)⟩⟩

theorem Station.dueHead_congr {x y : Station} (h : x.head = y.head) : x.dueHead = y.dueHead := by
  simp only [Station.head, Prod.mk.injEq] at h
  obtain ⟨h1, h2, h3, h4⟩ := h
  rw [Station.dueHead, Station.dueHead, h1, h2, h3, h4]

theorem Mach.lock_turned (m : Mach) : m.turned.spine.lock = m.spine.lock := by
  by_cases h0 : (m.spine.slot + 1) % 32 = 0
  · obtain ⟨-, -, -, -, hl, -⟩ := Mach.turned_zero h0
    exact hl
  · rw [Mach.turned_eq h0]
    rfl

theorem Mach.idles_eq {m : Mach} (h0 : (m.spine.slot + 1) % 32 ≠ 0) :
    m.idles = (decide ((m.spine.slot + 1) % 32 = 31 ∧ m.spine.corr < 0) || decide (m.spine.lock = .acq)) := by
  unfold Mach.idles
  rw [Mach.lock_turned, Mach.rotated_eq h0, Mach.restarted_eq]
  rfl

theorem Mach.like_idle (m : Mach) : ((List.range 32).foldl (fun m j => m.countSp 4 (some j) 1 0) m).Like m :=
  List.foldlRecOn (motive := fun a : Mach => a.Like m) _ _ (.refl _) (fun a ha j _ => (a.like_count (by decide) _ _ _ _ _).trans ha)

section
variable {m : Mach} (hsp : m.hasSpine = true) (hf : m.clk.fstop = false) (hu : m.spineUp = true)
include hsp hf hu

theorem Mach.slotNext_whole (hd : ∀ p, (m.stn p).dying = false) :
    m.slotNext = (m.turned.slotOpen ((m.spine.slot + 1) % 32)).slotGo ((m.spine.slot + 1) % 32) m.idles := by
  rw [Mach.slotNext_eq hsp hf hu, Mach.stnsDie_none (fun p => by rw [Mach.stn_turned]; exact hd p)]

/-- Slot 0. -/
theorem Mach.slotNext_zero (h0 : (m.spine.slot + 1) % 32 = 0) (hd : ∀ p, (m.stn p).dying = false) :
    m.slotNext.spine.slot = 0 ∧ m.slotNext.spine.corr = m.spine.corrN ∧ m.slotNext.spine.corrN = 0 ∧ m.slotNext.spine.abs = m.spine.abs + 1 ∧
    (∀ p, (m.slotNext.stn p).st = (m.stn p).st) ∧ (∀ p : Fin 32, (m.slotNext.stn p).onDue = ((m.stn p).onReq || (m.stn p).onDue)) ∧
    (if m.spine.lock ≠ .locked ∧ m.keep.st ≠ .frozen ∧ m.spine.pend = true ∧ m.fld 0x80018 0 64 ≤ m.ftNs then
      m.slotNext.spine.pend = false ∧ m.slotNext.reg 0x80010 = mkf 64 0 32 (m.fld 0x80010 32 32)
    else m.slotNext.spine.pend = m.spine.pend ∧ m.slotNext.reg 0x80010 = m.reg 0x80010) := by
  obtain ⟨h1, h2, h3, h4, -, h5, h6⟩ := Mach.turned_zero h0
  have heq := Mach.slotNext_whole hsp hf hu hd
  rw [h0] at heq
  have hph : m.slotNext.spine.phase = m.turned.spine.phase := by
    rw [heq]
    exact (SlotFrame.phase _).slotGo _ _ ((SlotFrame.phase _).slotOpen (fun _ _ h => h) _ rfl)
  have hmk : m.slotNext.reg 0x80010 = m.turned.reg 0x80010 := by
    rw [heq]
    exact (SlotFrame.mask _).slotGo _ _ ((SlotFrame.mask _).slotOpen (fun _ _ h => h) _ rfl)
  have hhd (p : Nat) : (m.slotNext.stn p).head = if p < 32 then (m.stn p).dueHead else (m.stn p).head := by
    rw [heq]
    refine (SlotFrame.heads (fun p => if p < 32 then (m.stn p).dueHead else (m.stn p).head)).slotGo _ _ (fun p => ?_) p
    unfold Mach.slotOpen
    rw [if_pos rfl, Mach.head_markDue]
    have hopen (p : Nat) : (((List.range 32).foldl (fun m p => m.entryDead p) m.turned.land).stn p).head = (m.stn p).head :=
      (SlotFrame.heads (fun p => (m.stn p).head)).entriesDead _ ((SlotFrame.heads _).land (fun p => by rw [Mach.stn_turned])) p
    rw [hopen, Station.dueHead_congr (hopen p)]
  refine ⟨(congrArg Spine.slot hph).trans h1, (congrArg Spine.corr hph).trans h2, (congrArg Spine.corrN hph).trans h3,
    (congrArg Spine.abs hph).trans h4, fun p => ?_, fun p => ?_, ?_⟩
  · have := congrArg Prod.fst (hhd p)
    split at this <;> exact this
  · have := hhd p
    rw [if_pos p.isLt] at this
    exact congrArg (fun x => x.2.2.1) this
  · rw [show m.slotNext.spine.pend = m.turned.spine.pend from (congrArg Spine.pend hph).trans rfl, hmk]
    split
    · next h => exact h5 h
    · next h => exact h6 h

section
variable (hno : ∀ p, (m.stn p).st ≠ .dead ∧ (m.stn p).dying = false) (h0 : (m.spine.slot + 1) % 32 ≠ 0)
include hno h0

/-- A slot in which nothing moves. -/
theorem Mach.slotNext_idle (hq : m.spine.lock = .acq ∨ ((m.spine.slot + 1) % 32 = 31 ∧ m.spine.corr < 0)) :
    m.slotNext = (List.range 32).foldl (fun m j => m.countSp 4 (some j) 1 0) m.turned.land := by
  have hquiet : m.idles = true := by
    rw [Mach.idles_eq h0]
    rcases hq with hq | hq
    · rw [decide_eq_true hq, Bool.or_true]
    · rw [decide_eq_true hq, Bool.true_or]
  rw [Mach.slotNext_whole hsp hf hu (fun p => (hno p).2), hquiet, Mach.slotOpen_land h0 (fun p => by rw [Mach.stn_turned]; exact (hno p).1)]
  rfl

/-- A slot in which packets and cells move, with none in flight. -/
theorem Mach.slotNext_moves (hl : m.spine.lock ≠ .acq) (hs : ¬ ((m.spine.slot + 1) % 32 = 31 ∧ m.spine.corr < 0)) :
    m.slotNext = m.turned.land.connect ((m.spine.slot + 1) % 32) := by
  have hquiet : m.idles = false := by
    rw [Mach.idles_eq h0, decide_eq_false hl, decide_eq_false hs]
    rfl
  rw [Mach.slotNext_whole hsp hf hu (fun p => (hno p).2), hquiet, Mach.slotOpen_land h0 (fun p => by rw [Mach.stn_turned]; exact (hno p).1)]
  rfl

theorem Mach.slotNext_rests (hfl : m.spine.flight = []) (hq : m.spine.lock = .acq ∨ ((m.spine.slot + 1) % 32 = 31 ∧ m.spine.corr < 0)) :
    m.slotNext.Like (m.modSpine (fun y =>
      { y with slot := (m.spine.slot + 1) % 32, abs := y.abs + 1, lands := y.lands + 1, corr := if (m.spine.slot + 1) % 32 = 31 then 0 else y.corr,
               cyc := if (y.abs + 1) % (if m.clk.mode = 1 then 96 else 32) = 0 then 0 else y.cyc })) := by
  rw [Mach.slotNext_idle hsp hf hu hno h0 hq, Mach.land_empty (by rw [Mach.flight_turned]; exact hfl), Mach.turned_eq h0]
  exact Mach.like_idle _

/-- A cell in flight reaches its exit stage (R209). -/
theorem Mach.slotNext_lands {k : Cell} (hfl : m.spine.flight = [k]) (hq : m.spine.lock = .acq) :
    m.slotNext.spine.flight = [] ∧ (m.slotNext.stn k.out).exit =
      Tab.upd dNil (m.stn k.out).exit k.code (fun l => l ++ k.flits.map (fun f => (f, k.node, m.spine.lands + 1))) := by
  rw [Mach.slotNext_idle hsp hf hu hno h0 (.inl hq), Mach.land_one (by rw [Mach.flight_turned]; exact hfl)]
  have hfr (v : Tab (List (Flit × Nat × Nat))) : TallyFrame (fun t : Mach => t.spine.flight = [] ∧ (t.stn k.out).exit = v) :=
    ⟨fun _ _ _ _ _ h => h, fun _ _ h => h, fun _ _ h => h, fun _ _ h => h⟩
  refine (hfr _).idle _ ⟨rfl, ?_⟩
  rw [Mach.stn_modStn, show m.turned.spine.lands = m.spine.lands by rw [Mach.turned_eq h0]; rfl]
  exact congrArg (fun x : Station => Tab.upd dNil x.exit k.code (fun l => l ++ k.flits.map (fun f => (f, k.node, m.spine.lands + 1)))) (m.stn_turned _)

/-- Where a slot's connections start, with nothing in flight. -/
theorem Mach.slotNext_connects (hfl : m.spine.flight = []) (hl : m.spine.lock ≠ .acq) (hs : ¬ ((m.spine.slot + 1) % 32 = 31 ∧ m.spine.corr < 0)) :
    ∃ F : Spine → Spine, (∀ x : Spine, (F x).stn = x.stn ∧ (F x).flight = x.flight ∧ (F x).pend = x.pend) ∧
      (F m.spine).slot = (m.spine.slot + 1) % 32 ∧
      m.slotNext = (m.modSpine F).connect ((m.spine.slot + 1) % 32) := by
  have heq : m.slotNext = _ := Mach.slotNext_moves hsp hf hu hno h0 hl hs
  rw [Mach.land_empty (by rw [Mach.flight_turned]; exact hfl)] at heq
  rw [heq, Mach.turned_eq h0]
  exact ⟨fun y =>
    { y with slot := (m.spine.slot + 1) % 32, abs := y.abs + 1, corr := if (m.spine.slot + 1) % 32 = 31 then 0 else y.corr,
             cyc := if (y.abs + 1) % (if m.clk.mode = 1 then 96 else 32) = 0 then 0 else y.cyc, lands := y.lands + 1 },
    fun _ => ⟨rfl, rfl, rfl⟩, rfl, rfl⟩
end
end

/-! ## One packet, one cell -/

/-- What one index of a range establishes in a fold, what the others leave alone before and after it. -/
theorem foldl_range_at {α : Type} {P Q : α → Prop} {f : α → Nat → α} {d n : Nat} (hd : d < n) (hpre : ∀ a k, k < n → k ≠ d → P a → P (f a k))
    (hat : ∀ a, P a → Q (f a d)) (hpost : ∀ a k, k < n → k ≠ d → Q a → Q (f a k)) {a : α} (ha : P a) : Q ((List.range n).foldl f a) := by
  have hfold (j : Nat) (hj : j ≤ n) : (j ≤ d → P ((List.range j).foldl f a)) ∧ (d < j → Q ((List.range j).foldl f a)) := by
    induction j with
    | zero => exact ⟨fun _ => ha, fun h => absurd h (by omega)⟩
    | succ j ih =>
      obtain ⟨hp, hq⟩ := ih (by omega)
      rw [List.range_succ, List.foldl_append, List.foldl_cons, List.foldl_nil]
      refine ⟨fun h => hpre _ _ (by omega) (by omega) (hp (by omega)), fun h => ?_⟩
      by_cases he : j = d
      · subst he
        exact hat _ (hp (Nat.le_refl _))
      · exact hpost _ _ (by omega) he (hq (by omega))
  exact (hfold n (Nat.le_refl _)).2 hd

theorem Mach.entry_join (z : Mach) (n k i : Nat) (cell : Cell) :
    ((z.modStn n (fun x => { x with q := Tab.upd dNil x.q k (fun l => l ++ [cell]) })).stn i).entry = (z.stn i).entry := by
  by_cases h : i = n
  · rw [h, Mach.stn_modStn]
  · rw [Mach.stn_modStn_ne _ _ h]

theorem Mach.nodeQ_ne {n p : Nat} (h : n ≠ p) (z : Mach) (f : Station → Station) (o c : Nat) : (z.modStn p f).nodeQ n o c = z.nodeQ n o c := by
  unfold Mach.nodeQ
  rw [Mach.stn_modStn_ne _ _ h]

theorem Mach.nodeQ_leave (z : Mach) (i d : Nat) (g : BitVec 2 → BitVec 2) (n o c : Nat) :
    (z.modStn i (fun x => { x with entry := Tab.set dNil x.entry d [], turnL := g x.turnL })).nodeQ n o c = z.nodeQ n o c := by
  unfold Mach.nodeQ
  by_cases h : n = i
  · rw [h, Mach.stn_modStn]
  · rw [Mach.stn_modStn_ne _ _ h]

section
variable {m : Mach} {s : Nat}

theorem Mach.connect_eq (m : Mach) (s : Nat) : m.connect s =
    (List.range 32).foldl (fun z i => m.launch1 i s z) ((List.range 32).foldl (fun z j => m.send1 j s z) m) := rfl

/-- The launch of one port, among all that a slot makes. -/
theorem Mach.connect_launches {i c o n : Nat} {fl : List Flit} (hi : i < 32) (hn : (i + s) % 32 = n) (hr : (m.stn i).st.runs = true)
    (hen : (m.stn n).st = .enabled) (hc : c < 4) (he : m.entryOf i c = some (o, fl))
    (hno : ∀ d, d < 4 → d ≠ c → m.entryOf i d = none) (hav : m.avoids ((o + 32 - n) % 32) = false) (had : m.admits n o c = true)
    (hne : (n + s) % 32 ≠ o) :
    Tab.get dNil ((m.connect s).stn i).entry c = [] ∧ (m.connect s).nodeQ n o c =
      if (mkCell c o n m.clk.cyc fl).broken then m.nodeQ n o c else m.nodeQ n o c ++ [mkCell c o n m.clk.cyc fl] := by
  have hq (v : List Cell) : TallyFrame (fun t : Mach => t.nodeQ n o c = v) := .of v (fun _ _ _ => rfl) (fun _ _ => rfl) (fun _ _ => rfl)
  have hfr (v : List Cell) : TallyFrame (fun t : Mach => Tab.get dNil (t.stn i).entry c = [] ∧ t.nodeQ n o c = v) :=
    ⟨fun _ _ _ _ _ h => h, fun _ _ h => h, fun _ _ h => h, fun _ _ h => h⟩
  have hsent : ((List.range 32).foldl (fun z j => m.send1 j s z) m).nodeQ n o c = m.nodeQ n o c := by
    refine List.foldlRecOn (motive := fun t : Mach => t.nodeQ n o c = m.nodeQ n o c) _ _ rfl (fun z hz j _ => ?_)
    refine (hq _).send1 j s (fun z d g hd _ hz => ?_) (fun z _ _ hz => hz) hz
    by_cases hj : n = j
    · subst hj
      rw [← hz]
      unfold Mach.nodeQ
      rw [Mach.stn_modStn]
      exact Tab.get_upd_ne _ _ (by omega)
    · exact (Mach.nodeQ_ne hj _ _ _ _).trans hz
  rw [Mach.connect_eq]
  refine foldl_range_at (P := fun t : Mach => t.nodeQ n o c = m.nodeQ n o c) (Q := fun t : Mach => Tab.get dNil (t.stn i).entry c = [] ∧
    t.nodeQ n o c = if (mkCell c o n m.clk.cyc fl).broken then m.nodeQ n o c else m.nodeQ n o c ++ [mkCell c o n m.clk.cyc fl])
    hi (fun z k hk hki hz => ?_) (fun z hz => ?_) (fun z k hk hki hz => ?_) hsent
  · exact (hq _).launch1 k s (fun z d g _ hz => (Mach.nodeQ_leave _ _ _ _ _ _ _).trans hz)
      (fun z d cell _ hz => (Mach.nodeQ_ne (by omega) _ _ _ _).trans hz) hz
  · rw [← hz]
    exact Mach.launch1_goes hn hr hen hc he hno hav had z
  · exact (hfr _).launch1 k s
      (fun z d g _ hz => ⟨by rw [Mach.stn_modStn_ne _ _ (Ne.symm hki)]; exact hz.1, (Mach.nodeQ_leave _ _ _ _ _ _ _).trans hz.2⟩)
      (fun z d cell _ hz => ⟨by rw [Mach.entry_join]; exact hz.1,
        (Mach.nodeQ_ne (by omega) _ _ _ _).trans hz.2⟩) hz

/-- The cell that one node sends, among all that a slot sends. -/
theorem Mach.connect_sends {j c u : Nat} {k : Cell} {q : List Cell} (hj : j < 32) (hs : s < 32) (hu : (j + s) % 32 = u) (hr : (m.stn j).st.runs = true)
    (hr' : (m.stn u).st.runs = true) (hc : c < 4) (hq : m.nodeQ j u c = k :: q) (hno : ∀ d, d < 4 → d ≠ c → m.nodeQ j u d = [])
    (ht : m.toward u c < 2) (hfl : m.spine.flight = []) :
    (k ∈ (m.connect s).spine.flight ↔ k.broken = false) ∧ ((m.connect s).nodeQ j u c = q ∨ ∃ z, (m.connect s).nodeQ j u c = q ++ [z]) := by
  have hfr (Q : List Cell → List Cell → Prop) : TallyFrame (fun t : Mach => Q (t.nodeQ j u c) t.spine.flight) :=
    ⟨fun _ _ _ _ _ h => h, fun _ _ h => h, fun _ _ h => h, fun _ _ h => h⟩
  have hwhole : ∀ x ∈ (m.connect s).spine.flight, x.broken = false := by
    refine TallyFrame.connect (P := fun t : Mach => ∀ x ∈ t.spine.flight, x.broken = false)
      ⟨fun _ _ _ _ _ h => h, fun _ _ h => h, fun _ _ h => h, fun _ _ h => h⟩ s (fun _ _ _ _ _ _ h => h) (fun z cell hb h x hx => ?_)
      (fun _ _ _ _ _ h => h) (fun _ _ _ _ _ h => h) (by rw [hfl]; exact fun x hx => absurd hx List.not_mem_nil)
    rcases List.mem_append.1 hx with hx | hx
    · exact h x hx
    · rw [List.mem_singleton.1 hx]
      exact hb
  have hsent := foldl_range_at (f := fun z j => m.send1 j s z) (P := fun t : Mach => t.nodeQ j u c = k :: q)
    (Q := fun t : Mach => t.nodeQ j u c = q ∧ (k.broken = false → k ∈ t.spine.flight)) (a := m) hj
    (fun z i hi hij hz => (hfr (fun l _ => l = k :: q)).send1 i s (fun z d g hd _ hz => (Mach.nodeQ_ne (Ne.symm hij) _ _ _ _).trans hz) (fun z _ _ hz => hz) hz)
    (fun z hz => Mach.send1_goes hu hr hr' hc hq hno ht hz)
    (fun z i hi hij hz => (hfr (fun l f => l = q ∧ (k.broken = false → k ∈ f))).send1 i s
      (fun z d g hd _ hz => ⟨(Mach.nodeQ_ne (Ne.symm hij) _ _ _ _).trans hz.1, hz.2⟩)
      (fun z cell _ hz => ⟨hz.1, fun hb => List.mem_append_left _ (hz.2 hb)⟩) hz) hq
  have hgo : ((m.connect s).nodeQ j u c = q ∨ ∃ z, (m.connect s).nodeQ j u c = q ++ [z]) ∧ (k.broken = false → k ∈ (m.connect s).spine.flight) := by
    rw [Mach.connect_eq]
    refine foldl_range_at (d := (j + 32 - s) % 32) (P := fun t : Mach => t.nodeQ j u c = q ∧ (k.broken = false → k ∈ t.spine.flight))
      (Q := fun t : Mach => (t.nodeQ j u c = q ∨ ∃ z, t.nodeQ j u c = q ++ [z]) ∧ (k.broken = false → k ∈ t.spine.flight))
      (Nat.mod_lt _ (by decide)) (fun z i hi hij hz => ?_) (fun z hz => ?_) (fun z i hi hij hz => ?_) hsent
    · exact (hfr (fun l f => l = q ∧ (k.broken = false → k ∈ f))).launch1 i s
        (fun z d g _ hz => ⟨(Mach.nodeQ_leave _ _ _ _ _ _ _).trans hz.1, hz.2⟩)
        (fun z d cell _ hz => ⟨(Mach.nodeQ_ne (by omega) _ _ _ _).trans hz.1, hz.2⟩) hz
    · refine (hfr (fun l f => l = q ∧ (k.broken = false → k ∈ f))).launch1_to
        (hfr (fun l f => (l = q ∨ ∃ z, l = q ++ [z]) ∧ (k.broken = false → k ∈ f))) _ s (fun z hz => ⟨.inl hz.1, hz.2⟩)
        (fun z d g _ hz => ⟨(Mach.nodeQ_leave _ _ _ _ _ _ _).trans hz.1, hz.2⟩) (fun z d cell _ hz => ⟨?_, hz.2⟩) hz
      by_cases hd : u * 4 + c = d
      · refine .inr ⟨cell, ?_⟩
        have hn : ((j + 32 - s) % 32 + s) % 32 = j := by omega
        rw [← hz.1, hn, ← hd]
        unfold Mach.nodeQ
        rw [Mach.stn_modStn]
        dsimp only
        rw [Tab.get_upd]
      · refine .inl ?_
        rw [← hz.1]
        unfold Mach.nodeQ
        by_cases hn : j = ((j + 32 - s) % 32 + s) % 32
        · rw [← hn, Mach.stn_modStn]
          dsimp only
          rw [Tab.get_upd_ne _ _ hd]
        · rw [Mach.stn_modStn_ne _ _ hn]
    · exact (hfr (fun l f => (l = q ∨ ∃ z, l = q ++ [z]) ∧ (k.broken = false → k ∈ f))).launch1 i s
        (fun z d g _ hz => ⟨by rw [Mach.nodeQ_leave]; exact hz.1, hz.2⟩)
        (fun z d cell _ hz => ⟨by rw [Mach.nodeQ_ne (by omega)]; exact hz.1, hz.2⟩) hz
  exact ⟨⟨hwhole k, hgo.2⟩, hgo.1⟩
end

section
variable {F : Spine → Spine} (hF : ∀ x : Spine, (F x).stn = x.stn ∧ (F x).flight = x.flight ∧ (F x).pend = x.pend) (m : Mach)
include hF

theorem Mach.stn_modSpine (p : Nat) : (m.modSpine F).stn p = m.stn p := congrArg (fun l => Tab.get dStn l p) (hF m.spine).1

theorem Mach.entryOf_modSpine (p c : Nat) : (m.modSpine F).entryOf p c = m.entryOf p c :=
  Mach.entryOf_congr (by rw [Mach.stn_modSpine hF])

theorem Mach.nodeQ_modSpine (n o c : Nat) : (m.modSpine F).nodeQ n o c = m.nodeQ n o c := by
  unfold Mach.nodeQ
  rw [Mach.stn_modSpine hF]

theorem exitCells_modSpine (p c : Nat) : exitCells (m.modSpine F) p c = exitCells m p c := by
  unfold exitCells
  rw [Mach.stn_modSpine hF]

theorem Mach.toward_modSpine (o c : Nat) : (m.modSpine F).toward o c = m.toward o c := by
  unfold Mach.toward
  rw [exitCells_modSpine hF, show (m.modSpine F).spine.flight = m.spine.flight from (hF m.spine).2.1]

theorem Mach.nodeUsed_modSpine (n : Nat) : (m.modSpine F).nodeUsed n = m.nodeUsed n := by
  have hx : exitCells (m.modSpine F) = exitCells m := funext fun p => funext fun c => exitCells_modSpine hF m p c
  unfold Mach.nodeUsed
  rw [hx, Mach.stn_modSpine hF, show (m.modSpine F).spine.flight = m.spine.flight from (hF m.spine).2.1]

theorem Mach.admits_modSpine (n o c : Nat) : (m.modSpine F).admits n o c = m.admits n o c := by
  unfold Mach.admits
  rw [Mach.nodeQ_modSpine hF, Mach.nodeUsed_modSpine hF]
  rfl

theorem Mach.avoids_modSpine (i : Nat) : (m.modSpine F).avoids i = m.avoids i := by
  unfold Mach.avoids
  rw [show (m.modSpine F).spine.pend = m.spine.pend from (hF m.spine).2.2]
  rfl
end

/-- A slot launches and sends nothing that changes a part of the machine outside Eland. -/
theorem SlotFrame.slotOutside {γ : Type} {π : Mach → γ} (hreg : ∀ m a w, π (m.setReg a w) = π m) (htele : ∀ m f, π (m.modTele f) = π m)
    (hflt : ∀ m f, π (m.modFlt f) = π m) (hsp : ∀ m f, π (m.modSpine f) = π m) (m : Mach) (F : Spine → Spine) (s : Nat) :
    π ((m.modSpine F).connect s) = π m :=
  (SlotFrame.of (π := π) _ hreg htele hflt hsp).connect s (hsp m F)

/-! ## A packet toward a DEAD station -/

/-- A packet gone from its entry register, and marked as lost. -/
def Mach.EntryLost (m : Mach) (i c : Nat) : Prop := Tab.get dNil (m.stn i).entry c = [] ∧ bt (m.reg 0x80030) 3 = true

theorem Mach.entry_clear {z : Mach} {i c : Nat} (h : Tab.get dNil (z.stn i).entry c = []) (p d : Nat) (g : BitVec 2 → BitVec 2) :
    Tab.get dNil ((z.modStn p (fun x => { x with entry := Tab.set dNil x.entry d [], turnL := g x.turnL })).stn i).entry c = [] := by
  by_cases hp : i = p
  · subst hp
    rw [Mach.stn_modStn]
    dsimp only
    by_cases hd : c = d
    · rw [hd, Tab.get_set]
    · rw [Tab.get_set_ne _ _ hd, h]
  · rw [Mach.stn_modStn_ne _ _ hp, h]

theorem Mach.bt_cellLost (m : Mach) (p : Nat) (h : FlitBits) : bt ((m.cellLost p 1 h).reg 0x80030) 3 = true := by
  unfold Mach.cellLost
  rw [if_neg (by decide)]
  refine SlotFrame.lost.count _ _ _ _ _ _ _ (SlotFrame.lost.reg _ _ _ (by decide) (by decide) ?_)
  rw [bt_orReg m 0x80030 (by decide), decide_eq_true rfl, Bool.or_true]

/-- One entry register looked at. -/
def Mach.entryLook (p : Nat) (m : Mach) (c : Nat) : Mach :=
  match m.entryOf p c with
  | some (o, fl) =>
    if (m.stn o).st = .dead then (m.modStn p (fun x => { x with entry := Tab.set dNil x.entry c [] })).cellLost p 1 (hdOf fl) else m
  | none => m

theorem Mach.entryDead_eq (m : Mach) (p : Nat) : m.entryDead p = (List.range 4).foldl (Mach.entryLook p) m := rfl

theorem Mach.entryLook_cases (m : Mach) (p c : Nat) : m.entryLook p c = m ∨
    ∃ hd, m.entryLook p c = (m.modStn p (fun x => { x with entry := Tab.set dNil x.entry c [] })).cellLost p 1 hd := by
  unfold Mach.entryLook
  split
  · split
    · exact .inr ⟨_, rfl⟩
    · exact .inl rfl
  · exact .inl rfl

section
variable {m : Mach} {i c o : Nat} {fl : List Flit} (ho : (m.stn o).st = .dead) (he : m.entryOf i c = some (o, fl))

/-- A machine on the way: its stations are as they were, and the packet is there or lost. -/
def Mach.EntryKept (z m : Mach) (i c : Nat) : Prop :=
  (∀ p, (z.stn p).head = (m.stn p).head) ∧ (Tab.get dNil (z.stn i).entry c = Tab.get dNil (m.stn i).entry c ∨ z.EntryLost i c)

theorem Mach.EntryLost.look {z : Mach} (h : z.EntryLost i c) (p d : Nat) : (z.entryLook p d).EntryLost i c := by
  rcases z.entryLook_cases p d with hz | ⟨hd, hz⟩
  · rw [hz]
    exact h
  · rw [hz]
    refine ⟨?_, z.modStn p _ |>.bt_cellLost p hd⟩
    exact TallyFrame.cellLost (P := fun t => Tab.get dNil (t.stn i).entry c = [])
      ⟨fun _ _ _ _ _ h => h, fun _ _ h => h, fun _ _ h => h, fun _ _ h => h⟩ _ _ _
      (Mach.entry_clear h.1 p d id)

theorem Mach.EntryKept.look {z : Mach} (h : z.EntryKept m i c) (p d : Nat) : (z.entryLook p d).EntryKept m i c := by
  refine ⟨?_, h.2.elim (fun hk => ?_) (fun hl => .inr (hl.look p d))⟩
  · rcases z.entryLook_cases p d with hz | ⟨hd, hz⟩
    · rw [hz]
      exact h.1
    · rw [hz]
      exact (SlotFrame.heads _).cellLost _ _ _ ((SlotFrame.heads _).stn _ _ _ (fun _ => rfl) h.1)
  · rcases z.entryLook_cases p d with hz | ⟨hd, hz⟩
    · rw [hz]
      exact .inl hk
    · rw [hz]
      have hfr (v : List Flit) : TallyFrame (fun t : Mach => Tab.get dNil (t.stn i).entry c = v) :=
        ⟨fun _ _ _ _ _ h => h, fun _ _ h => h, fun _ _ h => h, fun _ _ h => h⟩
      by_cases hpd : i = p ∧ c = d
      · obtain ⟨rfl, rfl⟩ := hpd
        refine .inr ⟨(hfr _).cellLost _ _ _ ?_, Mach.bt_cellLost _ _ _⟩
        rw [Mach.stn_modStn]
        dsimp only
        rw [Tab.get_set]
      · refine .inl ((hfr _).cellLost _ _ _ ?_)
        by_cases hp : i = p
        · subst hp
          rw [Mach.stn_modStn]
          dsimp only
          rw [Tab.get_set_ne _ _ (fun hd => hpd ⟨rfl, hd⟩), hk]
        · rw [Mach.stn_modStn_ne _ _ hp, hk]

include ho he
theorem Mach.EntryKept.lost {z : Mach} (h : z.EntryKept m i c) : (z.entryLook i c).EntryLost i c := by
  rcases h.2 with hk | hl
  · have hz : z.entryLook i c = (z.modStn i (fun x => { x with entry := Tab.set dNil x.entry c [] })).cellLost i 1 (hdOf fl) := by
      unfold Mach.entryLook
      rw [Mach.entryOf_congr hk, he]
      exact if_pos ((congrArg Prod.fst (h.1 o)).trans ho)
    rw [hz]
    refine ⟨TallyFrame.cellLost (P := fun t => Tab.get dNil (t.stn i).entry c = []) ⟨fun _ _ _ _ _ h => h, fun _ _ h => h, fun _ _ h => h, fun _ _ h => h⟩
      _ _ _ ?_, Mach.bt_cellLost _ _ _⟩
    rw [Mach.stn_modStn]
    dsimp only
    rw [Tab.get_set]
  · exact hl.look i c

theorem Mach.entriesDead_lost (hi : i < 32) (hc : c < 4) : ((List.range 32).foldl (fun m p => m.entryDead p) m).EntryLost i c := by
  have hstart : m.EntryKept m i c := ⟨fun _ => rfl, .inl rfl⟩
  refine foldl_sets (I := fun z : Mach => z.EntryKept m i c) (Q := fun z : Mach => z.EntryLost i c) (List.mem_range.2 hi)
    (fun z p _ hz => ?_) (fun z hz => ?_) (fun z p _ _ hz => ?_) hstart
  · exact List.foldlRecOn (motive := fun z : Mach => z.EntryKept m i c) _ _ hz (fun z hz d _ => hz.look p d)
  · exact foldl_sets (I := fun z : Mach => z.EntryKept m i c) (Q := fun z : Mach => z.EntryLost i c) (List.mem_range.2 hc)
      (fun z d _ hz => hz.look i d) (fun z hz => hz.lost ho he)
      (fun z d _ _ hz => hz.look i d) hz
  · exact List.foldlRecOn (motive := fun z : Mach => z.EntryLost i c) _ _ hz (fun z hz d _ => hz.look p d)
end

theorem Mach.EntryLost.markDue {z : Mach} {i c : Nat} (h : z.EntryLost i c) : z.markDue.EntryLost i c := by
  refine List.foldlRecOn (motive := fun z : Mach => z.EntryLost i c) _ _ h (fun z hz p _ => ?_)
  split
  · refine ⟨?_, hz.2⟩
    by_cases hp : i = p
    · subst hp
      rw [Mach.stn_modStn]
      exact hz.1
    · rw [Mach.stn_modStn_ne _ _ hp, hz.1]
  · exact hz

/-- The state of each station. -/
def Mach.Stands (m : Mach) (v : Nat → StnSt) : Prop := ∀ p, (m.stn p).st = v p

theorem Mach.Stands.modStn {m : Mach} {v : Nat → StnSt} (h : m.Stands v) {f : Station → Station} (hf : ∀ x, (f x).st = x.st) (p : Nat) :
    (m.modStn p f).Stands v := fun k => by
  by_cases hk : k = p
  · rw [hk, Mach.stn_modStn, hf, h]
  · rw [Mach.stn_modStn_ne _ _ hk, h]

theorem SlotFrame.states (v : Nat → StnSt) : SlotFrame (fun m => m.Stands v) where
  reg _ _ _ _ _ h := h
  evt _ _ h := h
  tele _ _ h := h
  flt _ _ h := h
  stn _ p _ hf h := h.modStn (fun x => congrArg Prod.fst (hf x)) p
  flight _ _ _ h := h

/-- A packet lost stays so in the slot. -/
theorem Mach.EntryLost.slotGo {z : Mach} {i c : Nat} (h : z.EntryLost i c) (s : Nat) (quiet : Bool) : (z.slotGo s quiet).EntryLost i c := by
  have hfr : TallyFrame (fun t : Mach => Tab.get dNil (t.stn i).entry c = []) := ⟨fun _ _ _ _ _ h => h, fun _ _ h => h, fun _ _ h => h, fun _ _ h => h⟩
  refine ⟨?_, SlotFrame.lost.slotGo s quiet h.2⟩
  unfold Mach.slotGo
  split
  · exact hfr.idle _ h.1
  · refine hfr.connect s (fun j z d g _ _ hz => ?_) (fun _ _ _ hz => hz) (fun p z d g _ hz => Mach.entry_clear hz p d g)
      (fun n z k cell _ hz => by rw [Mach.entry_join]; exact hz) h.1
    by_cases hj : i = j
    · rw [hj] at hz ⊢
      rw [Mach.stn_modStn]
      exact hz
    · rw [Mach.stn_modStn_ne _ _ hj, hz]

section
variable {m : Mach} (hsp : m.hasSpine = true) (hf : m.clk.fstop = false) (hu : m.spineUp = true)
include hsp hf hu

/-- A packet in an entry register toward a DEAD station is discarded (R230). -/
theorem Mach.slotNext_entryDead {i c o : Nat} {fl : List Flit} (hd : ∀ p, (m.stn p).dying = false) (ho : (m.stn o).st = .dead) (hi : i < 32)
    (hc : c < 4) (he : m.entryOf i c = some (o, fl)) :
    Tab.get dNil (m.slotNext.stn i).entry c = [] ∧ bt (m.slotNext.reg 0x80030) 3 = true ∧ (∀ p, (m.slotNext.stn p).st = (m.stn p).st) := by
  have heq := Mach.slotNext_whole hsp hf hu hd
  have hland (p : Nat) : (m.turned.land.stn p).head = (m.stn p).head :=
    (SlotFrame.heads (fun p => (m.stn p).head)).land (fun p => by rw [Mach.stn_turned]) p
  have hentry : (m.turned.land.stn i).entry = (m.stn i).entry := by
    refine List.foldlRecOn (motive := fun t : Mach => (t.stn i).entry = (m.stn i).entry) _ _ (congrArg Station.entry (m.stn_turned i)) (fun z hz k _ => ?_)
    by_cases hk : i = k.out
    · rw [hk] at hz ⊢
      rw [Mach.stn_modStn]
      exact hz
    · rw [Mach.stn_modStn_ne _ _ hk, hz]
  have hopen : (m.turned.slotOpen ((m.spine.slot + 1) % 32)).EntryLost i c := by
    have hl : ((List.range 32).foldl (fun m p => m.entryDead p) m.turned.land).EntryLost i c :=
      Mach.entriesDead_lost ((congrArg Prod.fst (hland o)).trans ho) ((Mach.entryOf_congr (by rw [hentry])).trans he) hi hc
    unfold Mach.slotOpen
    dsimp only
    split
    · exact hl.markDue
    · exact hl
  have hst (p : Nat) : (m.slotNext.stn p).st = (m.stn p).st := by
    rw [heq]
    exact (SlotFrame.states _).slotGo _ _ ((SlotFrame.states (fun p => (m.stn p).st)).slotOpen (fun _ p hz =>
      Mach.Stands.modStn (f := fun x => { x with onDue := true }) hz (fun _ => rfl) p) _
      (fun p => by rw [Mach.stn_turned])) p
  have hgo := hopen.slotGo ((m.spine.slot + 1) % 32) m.idles
  rw [← heq] at hgo
  exact ⟨hgo.1, hgo.2, hst⟩

section
variable (hno : ∀ p, (m.stn p).st ≠ .dead ∧ (m.stn p).dying = false) (h0 : (m.spine.slot + 1) % 32 ≠ 0) (hfl : m.spine.flight = [])
  (hl : m.spine.lock ≠ .acq) (hs : ¬ ((m.spine.slot + 1) % 32 = 31 ∧ m.spine.corr < 0))
include hno h0 hfl hl hs

/-- The port whose packet may go launches it (R208). -/
theorem Mach.slotNext_launches {i c o n : Nat} {fl : List Flit} (hi : i < 32) (hn : (i + (m.spine.slot + 1) % 32) % 32 = n) (hc : c < 4)
    (hr : (m.stn i).st.runs = true) (hen : (m.stn n).st = .enabled) (he : m.entryOf i c = some (o, fl))
    (hone : ∀ d, d < 4 → d ≠ c → m.entryOf i d = none) (hav : m.avoids ((o + 32 - n) % 32) = false) (had : m.admits n o c = true)
    (hne : (n + (m.spine.slot + 1) % 32) % 32 ≠ o) :
    m.slotNext.spine.slot = (m.spine.slot + 1) % 32 ∧ Tab.get dNil (m.slotNext.stn i).entry c = [] ∧
    m.slotNext.nodeQ n o c = (if (mkCell c o n m.clk.cyc fl).broken then m.nodeQ n o c else m.nodeQ n o c ++ [mkCell c o n m.clk.cyc fl]) ∧
    (∀ a, m.slotNext.eng a = m.eng a) ∧ (∀ a, m.slotNext.vc a = m.vc a) ∧ (∀ a, m.slotNext.niu a = m.niu a) ∧
    (∀ a, m.slotNext.dir a = m.dir a) := by
  obtain ⟨F, hF, hslot, heq⟩ := Mach.slotNext_connects hsp hf hu hno h0 hfl hl hs
  have hstn := Mach.stn_modSpine hF m
  obtain ⟨h1, h2⟩ := Mach.connect_launches (m := m.modSpine F) hi hn (by rw [hstn]; exact hr) (by rw [hstn]; exact hen) hc
    (by rw [Mach.entryOf_modSpine hF]; exact he) (fun d hd hdc => by rw [Mach.entryOf_modSpine hF]; exact hone d hd hdc)
    (by rw [Mach.avoids_modSpine hF]; exact hav) (by rw [Mach.admits_modSpine hF]; exact had) hne
  rw [Mach.nodeQ_modSpine hF] at h2
  rw [heq]
  refine ⟨(congrArg Spine.slot ((SlotFrame.phase _).connect _ rfl)).trans hslot, h1, h2, fun a => ?_, fun a => ?_, fun a => ?_, fun a => ?_⟩
  · exact SlotFrame.slotOutside (π := fun m => m.eng a) (fun _ _ _ => rfl) (fun _ _ => rfl) (fun _ _ => rfl) (fun _ _ => rfl) m F _
  · exact SlotFrame.slotOutside (π := fun m => m.vc a) (fun _ _ _ => rfl) (fun _ _ => rfl) (fun _ _ => rfl) (fun _ _ => rfl) m F _
  · exact SlotFrame.slotOutside (π := fun m => m.niu a) (fun _ _ _ => rfl) (fun _ _ => rfl) (fun _ _ => rfl) (fun _ _ => rfl) m F _
  · exact SlotFrame.slotOutside (π := fun m => m.dir a) (fun _ _ _ => rfl) (fun _ _ => rfl) (fun _ _ => rfl) (fun _ _ => rfl) m F _

/-- A node sends its oldest cell of the queue the slot serves (R209). -/
theorem Mach.slotNext_sends {j c u : Nat} {k : Cell} {q : List Cell} (hj : j < 32) (hu' : (j + (m.spine.slot + 1) % 32) % 32 = u) (hc : c < 4)
    (hr : (m.stn j).st.runs = true) (hr' : (m.stn u).st.runs = true) (hq : m.nodeQ j u c = k :: q)
    (hone : ∀ d, d < 4 → d ≠ c → m.nodeQ j u d = []) (ht : (exitCells m u c).length < 2) :
    (k ∈ m.slotNext.spine.flight ↔ k.broken = false) ∧ (m.slotNext.nodeQ j u c = q ∨ ∃ z, m.slotNext.nodeQ j u c = q ++ [z]) := by
  obtain ⟨F, hF, -, heq⟩ := Mach.slotNext_connects hsp hf hu hno h0 hfl hl hs
  have hstn := Mach.stn_modSpine hF m
  have htow : m.toward u c < 2 := by
    unfold Mach.toward
    rw [hfl]
    exact Nat.lt_of_le_of_lt (Nat.le_of_eq (Nat.zero_add _)) ht
  rw [heq]
  exact Mach.connect_sends (m := m.modSpine F) hj (Nat.mod_lt _ (by decide)) hu' (by rw [hstn]; exact hr) (by rw [hstn]; exact hr') hc
    (by rw [Mach.nodeQ_modSpine hF]; exact hq) (fun d hd hdc => by rw [Mach.nodeQ_modSpine hF]; exact hone d hd hdc)
    (by rw [Mach.toward_modSpine hF]; exact htow) ((hF _).2.1.trans hfl)
end
end

end Sys2Proof.Machine

/-! PROOFS. Stations of Eland that become DEAD, DISABLED and ENABLED, and the exit stage (O32). -/

namespace Sys2Proof.Machine

/-! ## A station becomes DEAD -/

/-- A station DEAD, what it held and what was on its way to it discarded. -/
def Mach.stnGone (m : Mach) (p : Nat) : Mach := ((m.modStn p (fun x => { x with st := .dead, dying := false })).stnDrop p).towardDrop p

/-- The packets cut that its exit stage has passed in part to its router. -/
def Mach.cutSpn (m : Mach) (p : Nat) : Mach := [3, 5, 9, 11].foldl (fun m vc => Mach.cutVc (spineTile p) 6 vc m 256) m

/-- The death told: to the entry registers, the fault unit, the engine. -/
def Mach.stnTold (m : Mach) (p : Nat) : Mach :=
  ((((List.range 32).foldl (fun m i => m.entryDead i) m).orReg aSpEvt (2 ^ 2)).occur 7 0 3 p 0 1).postEvt (qeOf (p / 8)) 3 0 0 p

theorem Mach.stnDie_eq (m : Mach) (p : Nat) : m.stnDie p = ((m.stnGone p).cutSpn p).stnTold p := rfl

theorem CutFrame.tally {P : Mach → Prop} (h : CutFrame P) : TallyFrame P :=
  ⟨fun m a w _ _ => h.reg m a w, fun m _ => h.reg m _ _, h.tele, h.flt⟩

/-- A station that has become DEAD, when nothing else has changed. -/
def Mach.stnEmptied (m : Mach) (p : Nat) : Mach :=
  (m.modStn p (fun x => { x with st := .dead, dying := false })).modStn p (fun x => { x with entry := [], q := [], exit := [] })

theorem TallyFrame.stnGone {P : Mach → Prop} (h : TallyFrame P)
    (hshed : ∀ m n g, P m → P (m.modStn n (fun x => { x with q := x.q.filter g }))) {P' : Mach → Prop} (h' : TallyFrame P') {m : Mach} {p : Nat}
    (hfly : ∀ m, P m → P' (m.modSpine (fun s => { s with flight := s.flight.filter (fun c => c.out ≠ p) })))
    (hm : P (m.stnEmptied p)) : P' (m.stnGone p) := by
  unfold Mach.stnGone Mach.towardDrop
  refine h'.cellLost _ _ _ (hfly _ ?_)
  refine List.foldlRecOn _ _ (h.cellLost _ _ _ hm) (fun m hm n _ => ?_)
  dsimp only
  split
  · exact hm
  · exact h.cellLost _ _ _ (hshed _ _ _ hm)

theorem Mach.postEvt_of {P : Mach → Prop} (hreg : ∀ m a w, P m → P (m.setReg a w)) (heng : ∀ m e f, P m → P (m.modEng e f)) {m : Mach}
    (e c k d src : Nat) (hm : P m) : P (m.postEvt e c k d src) := by
  unfold Mach.postEvt
  dsimp only
  split
  · exact hreg _ _ _ hm
  split
  · exact heng _ _ _ hm
  · exact hreg _ _ _ hm

/-- A property that a station's death leaves alone once the station is empty. -/
structure DieFrame (P : Mach → Prop) : Prop extends CutFrame P where
  shed : ∀ m n g, P m → P (m.modStn n (fun x => { x with q := x.q.filter g }))
  fly  : ∀ m p, P m → P (m.modSpine (fun s => { s with flight := s.flight.filter (fun c => c.out ≠ p) }))
  eng  : ∀ m e f, P m → P (m.modEng e f)

namespace DieFrame
variable {P : Mach → Prop} (h : DieFrame P) {m : Mach} {p : Nat}
include h

theorem told (hm : P m) : P (m.stnTold p) := by
  refine Mach.postEvt_of h.reg h.eng _ _ _ _ _ (h.toCutFrame.occur _ _ _ _ _ _ (h.reg _ _ _ ?_))
  exact List.foldlRecOn _ _ hm (fun m hm i _ => h.toCutFrame.tally.entryDead i (fun _ _ hz => h.stn _ _ _ hz) hm)

theorem cutSpn (hm : P m) : P (m.cutSpn p) := List.foldlRecOn _ _ hm (fun _ hm _ _ => h.toCutFrame.cutVc _ _ _ _ hm)

theorem rest (hm : P (m.stnGone p)) : P (m.stnDie p) := h.told (h.cutSpn hm)

theorem stnDie (hm : P (m.stnEmptied p)) : P (m.stnDie p) :=
  h.rest (h.toCutFrame.tally.stnGone h.shed h.toCutFrame.tally (fun _ hz => h.fly _ _ hz) hm)
end DieFrame

/-- A part of the machine that a station's death never touches. -/
theorem DieFrame.of {γ : Type} {π : Mach → γ} (v : γ) (hcut : CutFrame (fun m => π m = v)) (hsp : ∀ m f, π (m.modSpine f) = π m)
    (heng : ∀ m e f, π (m.modEng e f) = π m) : DieFrame (fun m => π m = v) where
  toCutFrame := hcut
  shed m n g h := (hsp m (fun s => { s with stn := Tab.upd dStn s.stn n (fun x => { x with q := x.q.filter g }) })).trans h
  fly m _ h := (hsp m _).trans h
  eng m e f h := (heng m e f).trans h

/-- A station DEAD that holds nothing. -/
structure Mach.StnIsGone (m : Mach) (p : Nat) : Prop where
  st    : (m.stn p).st = .dead
  dying : (m.stn p).dying = false
  entry : (m.stn p).entry = []
  q     : (m.stn p).q = []
  exit  : (m.stn p).exit = []

theorem Mach.StnIsGone.mod {m : Mach} {p : Nat} (h : m.StnIsGone p) {n : Nat} {f : Station → Station}
    (hf : n = p → ∀ x : Station, (f x).st = x.st ∧ (f x).dying = x.dying ∧ (x.entry = [] → (f x).entry = []) ∧ (x.q = [] → (f x).q = []) ∧
      (x.exit = [] → (f x).exit = [])) : (m.modStn n f).StnIsGone p := by
  by_cases hn : p = n
  · subst hn
    obtain ⟨h1, h2, h3, h4, h5⟩ := hf rfl (m.stn p)
    refine ⟨?_, ?_, ?_, ?_, ?_⟩
    · rw [Mach.stn_modStn, h1, h.st]
    · rw [Mach.stn_modStn, h2, h.dying]
    · rw [Mach.stn_modStn, h3 h.entry]
    · rw [Mach.stn_modStn, h4 h.q]
    · rw [Mach.stn_modStn, h5 h.exit]
  · refine ⟨?_, ?_, ?_, ?_, ?_⟩
    · rw [Mach.stn_modStn_ne _ _ hn, h.st]
    · rw [Mach.stn_modStn_ne _ _ hn, h.dying]
    · rw [Mach.stn_modStn_ne _ _ hn, h.entry]
    · rw [Mach.stn_modStn_ne _ _ hn, h.q]
    · rw [Mach.stn_modStn_ne _ _ hn, h.exit]

theorem Mach.stn_gone_iff (m : Mach) (p : Nat) : m.StnIsGone p ↔ (m.stn p).st = .dead ∧ (m.stn p).dying = false ∧ (m.stn p).entry = [] ∧
    (m.stn p).q = [] ∧ (m.stn p).exit = [] :=
  ⟨fun h => ⟨h.st, h.dying, h.entry, h.q, h.exit⟩, fun ⟨h1, h2, h3, h4, h5⟩ => ⟨h1, h2, h3, h4, h5⟩⟩

theorem Mach.StnIsGone.clear {m : Mach} {p : Nat} (h : m.StnIsGone p) (n c : Nat) :
    (m.modStn n (fun x => { x with entry := Tab.set dNil x.entry c [] })).StnIsGone p := by
  refine h.mod (f := fun x => { x with entry := Tab.set dNil x.entry c [] }) (fun _ x => ⟨rfl, rfl, fun he => ?_, id, id⟩)
  dsimp only
  rw [he]
  rfl

/-- ... and that nothing is on its way to. -/
def Mach.StnIsDead (m : Mach) (p : Nat) : Prop := m.StnIsGone p ∧ ∀ c ∈ m.spine.flight, c.out ≠ p

theorem DieFrame.gone (p : Nat) : DieFrame (fun m => m.StnIsGone p) where
  reg _ _ _ h := ⟨h.st, h.dying, h.entry, h.q, h.exit⟩
  tele _ _ h := ⟨h.st, h.dying, h.entry, h.q, h.exit⟩
  flt _ _ h := ⟨h.st, h.dying, h.entry, h.q, h.exit⟩
  dir _ _ _ _ h := ⟨h.st, h.dying, h.entry, h.q, h.exit⟩
  out _ _ _ h := ⟨h.st, h.dying, h.entry, h.q, h.exit⟩
  stn _ n c h := h.clear n c
  cbu _ _ _ h := ⟨h.st, h.dying, h.entry, h.q, h.exit⟩
  vc _ _ _ h := ⟨h.st, h.dying, h.entry, h.q, h.exit⟩
  niu _ _ _ h := ⟨h.st, h.dying, h.entry, h.q, h.exit⟩
  shed _ n g h := Mach.StnIsGone.mod (f := fun x => { x with q := x.q.filter g }) h
    (fun _ x => ⟨rfl, rfl, id, fun hq => by dsimp only; rw [hq]; rfl, id⟩)
  fly _ _ h := ⟨h.st, h.dying, h.entry, h.q, h.exit⟩
  eng _ _ _ h := ⟨h.st, h.dying, h.entry, h.q, h.exit⟩

theorem DieFrame.dead (p : Nat) : DieFrame (fun m => m.StnIsDead p) where
  reg _ _ _ h := ⟨(DieFrame.gone p).reg _ _ _ h.1, h.2⟩
  tele _ _ h := ⟨(DieFrame.gone p).tele _ _ h.1, h.2⟩
  flt _ _ h := ⟨(DieFrame.gone p).flt _ _ h.1, h.2⟩
  dir _ _ _ hf h := ⟨(DieFrame.gone p).dir _ _ _ hf h.1, h.2⟩
  out _ _ _ h := ⟨(DieFrame.gone p).out _ _ _ h.1, h.2⟩
  stn _ n c h := ⟨h.1.clear n c, h.2⟩
  cbu _ _ _ h := ⟨(DieFrame.gone p).cbu _ _ _ h.1, h.2⟩
  vc _ _ hc h := ⟨(DieFrame.gone p).vc _ _ hc h.1, h.2⟩
  niu _ _ _ h := ⟨(DieFrame.gone p).niu _ _ _ h.1, h.2⟩
  shed _ n g h := ⟨(DieFrame.gone p).shed _ n g h.1, h.2⟩
  fly _ k h := ⟨(DieFrame.gone p).fly _ k h.1, fun c hc => h.2 c (List.mem_filter.1 hc).1⟩
  eng _ _ _ h := ⟨(DieFrame.gone p).eng _ _ _ h.1, h.2⟩

/-- A station that becomes DEAD holds nothing, and nothing is on its way to it (R230). -/
theorem Mach.stnDie_dead (m : Mach) (p : Nat) : (m.stnDie p).StnIsDead p := by
  refine (DieFrame.dead p).rest ((DieFrame.gone p).toCutFrame.tally.stnGone (DieFrame.gone p).shed (DieFrame.dead p).toCutFrame.tally
    (fun z hz => ⟨(DieFrame.gone p).fly _ p hz, fun c hc => of_decide_eq_true (List.mem_filter.1 hc).2⟩) ?_)
  unfold Mach.stnEmptied
  refine ⟨?_, ?_, ?_, ?_, ?_⟩ <;> rw [Mach.stn_modStn, Mach.stn_modStn]

theorem Mach.stnEmptied_ne {m : Mach} {p k : Nat} (h : k ≠ p) : (m.stnEmptied p).stn k = m.stn k := by
  unfold Mach.stnEmptied
  rw [Mach.stn_modStn_ne _ _ h, Mach.stn_modStn_ne _ _ h]

theorem DieFrame.dying (p : Nat) : DieFrame (fun m => (m.stn p).dying = true) where
  reg _ _ _ h := h
  tele _ _ h := h
  flt _ _ h := h
  dir _ _ _ _ h := h
  out _ _ _ h := h
  stn m n c h := by
    by_cases hn : p = n
    · subst hn; rw [Mach.stn_modStn]; exact h
    · rw [Mach.stn_modStn_ne _ _ hn, h]
  cbu _ _ _ h := h
  vc _ _ _ h := h
  niu _ _ _ h := h
  shed m n g h := by
    by_cases hn : p = n
    · subst hn; rw [Mach.stn_modStn]; exact h
    · rw [Mach.stn_modStn_ne _ _ hn, h]
  fly _ _ h := h
  eng _ _ _ h := h

/-- A station whose domain has opened is DEAD at the next slot (R230). -/
theorem Mach.stnsDie_dead {m : Mach} {p : Nat} (hp : p < 32) (hd : (m.stn p).dying = true) : m.stnsDie.StnIsDead p := by
  have hkeep (z : Mach) (k : Nat) (hk : k ≠ p) (hz : z.StnIsDead p) : (z.stnDie k).StnIsDead p := by
    refine (DieFrame.dead p).stnDie ⟨?_, hz.2⟩
    obtain ⟨h1, h2, h3, h4, h5⟩ := hz.1
    rw [Mach.stn_gone_iff, Mach.stnEmptied_ne (Ne.symm hk)]
    exact ⟨h1, h2, h3, h4, h5⟩
  have hq (z : Mach) (k : Nat) (hz : z.StnIsDead p) : (if (z.stn k).dying then z.stnDie k else z).StnIsDead p := by
    split
    · next hk =>
      refine hkeep z k (fun he => ?_) hz
      rw [he, hz.1.dying] at hk
      cases hk
    · exact hz
  refine foldl_sets (I := fun z : Mach => (z.stn p).dying = true ∨ z.StnIsDead p) (Q := fun z : Mach => z.StnIsDead p) (List.mem_range.2 hp)
    (fun z k _ hz => ?_) (fun z hz => ?_) (fun z k _ _ hz => hq z k hz) (.inl hd)
  · rcases hz with hz | hz
    · split
      · by_cases hk : k = p
        · subst hk
          exact .inr (z.stnDie_dead k)
        · refine .inl ((DieFrame.dying p).stnDie ?_)
          rw [Mach.stnEmptied_ne (Ne.symm hk), hz]
      · exact .inl hz
    · exact .inr (hq z k hz)
  · rcases hz with hz | hz
    · rw [if_pos hz]
      exact z.stnDie_dead p
    · exact hq z p hz

/-- What is empty stays so in the slot: nothing is launched from a DEAD station, sent by one or to one. -/
theorem Mach.StnIsDead.slot {m : Mach} {p : Nat} (h : m.StnIsDead p) (s : Nat) (quiet : Bool) : ((m.slotOpen s).slotGo s quiet).StnIsGone p := by
  have hfr := (DieFrame.gone p).toCutFrame.tally
  have hland : m.land.StnIsGone p := by
    refine List.foldlRecOn (motive := fun z : Mach => z.StnIsGone p) _ _ ⟨h.1.st, h.1.dying, h.1.entry, h.1.q, h.1.exit⟩ (fun z hz k hk => ?_)
    exact hz.mod (fun hn => absurd hn (h.2 k hk))
  have hopen : (m.slotOpen s).StnIsGone p := by
    have hd : ((List.range 32).foldl (fun m p => m.entryDead p) m.land).StnIsGone p :=
      List.foldlRecOn (motive := fun z : Mach => z.StnIsGone p) _ _ hland (fun z hz k _ => hfr.entryDead k (fun _ _ hz => hz.clear _ _) hz)
    unfold Mach.slotOpen
    dsimp only
    split
    · refine List.foldlRecOn (motive := fun z : Mach => z.StnIsGone p) _ _ hd (fun z hz k _ => ?_)
      split
      · exact Mach.StnIsGone.mod (f := fun x => { x with onDue := true }) hz (fun _ x => ⟨rfl, rfl, id, id, id⟩)
      · exact hz
    · exact hd
  unfold Mach.slotGo
  split
  · exact hfr.idle _ hopen
  · have hne {j : Nat} (hj : ((m.slotOpen s).stn j).st.runs = true) : j ≠ p := fun he => by
      rw [he, hopen.st] at hj
      cases hj
    exact hfr.connect s (fun j z c g _ hj hz => hz.mod (fun he => absurd he (hne hj))) (fun z _ _ hz => ⟨hz.st, hz.dying, hz.entry, hz.q, hz.exit⟩)
      (fun i z c g hi hz => hz.mod (fun he => absurd he (hne hi)))
      (fun n z k cell hn hz => hz.mod (fun he => by rw [he, hopen.st] at hn; cases hn)) hopen

theorem Mach.slotNext_dead {m : Mach} {p : Nat} (hsp : m.hasSpine = true) (hf : m.clk.fstop = false) (hu : m.spineUp = true) (hp : p < 32)
    (hd : (m.stn p).dying = true) : m.slotNext.StnIsGone p := by
  rw [Mach.slotNext_eq hsp hf hu]
  exact (Mach.stnsDie_dead hp (by rw [Mach.stn_turned]; exact hd)).slot _ _

/-! ## STATION_DEAD (R230) -/

def Mach.stationDead (m : Mach) (p : Nat) : Mach := if !m.hasSpine || decide ((m.stn p).st = .dead) then m else m.stnDie p

theorem exec_stationDead {s : State} (hs : s.m.test.scan = false) (p : Stn) :
    exec (.stationDead p) s = .next { s with m := s.m.stationDead p } := by
  change execStationDead p s = _
  rw [execStationDead, State.on_eq hs]
  rfl

/-- An input VC cut. -/
def VcBuf.gone (b : VcBuf) : Prop := b.q = [] ∧ b.cut = false

theorem CutFrame.vcGone (k : Nat) : CutFrame (fun m => (m.vc k).gone) where
  reg _ _ _ h := h
  tele _ _ h := h
  flt _ _ h := h
  dir _ _ _ _ h := h
  out _ _ _ h := h
  stn _ _ _ h := h
  cbu _ _ _ h := h
  vc m i hc h := by
    by_cases hk : k = i
    · rw [← hk, h.2] at hc
      cases hc
    · rw [Mach.vc_modVc_ne _ _ hk]
      exact h
  niu _ _ _ h := h

theorem VcBuf.gone_empty (hd : FlitBits) : ({ VcBuf.empty with hd := hd } : VcBuf).gone := ⟨rfl, rfl⟩

theorem CutFrame.vcKept (k : Nat) (v : VcBuf) : CutFrame (fun m => m.vc k = v ∨ (m.vc k).gone) where
  reg _ _ _ h := h
  tele _ _ h := h
  flt _ _ h := h
  dir _ _ _ _ h := h
  out _ _ _ h := h
  stn _ _ _ h := h
  cbu _ _ _ h := h
  vc m i _ h := by
    by_cases hk : k = i
    · rw [hk, Mach.vc_modVc]
      exact .inr (VcBuf.gone_empty _)
    · rw [Mach.vc_modVc_ne _ _ hk]
      exact h
  niu _ _ _ h := h

section
variable {γ : Type} {π : Mach → γ} (hreg : ∀ m a w, π (m.setReg a w) = π m) (htele : ∀ m f, π (m.modTele f) = π m)
  (hflt : ∀ m f, π (m.modFlt f) = π m) (hsp : ∀ m f, π (m.modSpine f) = π m)
include hreg htele hflt hsp

theorem Mach.stnGone_keeps (m : Mach) (p : Nat) : π (m.stnGone p) = π m := by
  have hstn (m : Mach) (n : Nat) (f : Station → Station) : π (m.modStn n f) = π m := hsp m (fun s => { s with stn := Tab.upd dStn s.stn n f })
  exact TallyFrame.stnGone (P := fun t => π t = π m) (.of _ hreg htele hflt) (fun _ _ _ h => (hstn _ _ _).trans h) (.of _ hreg htele hflt)
    (fun _ h => (hsp _ _).trans h) ((hstn _ _ _).trans (hstn _ _ _))

theorem Mach.stnTold_keeps (heng : ∀ m e f, π (m.modEng e f) = π m) (m : Mach) (p : Nat) : π (m.stnTold p) = π m := by
  have hstn (m : Mach) (n : Nat) (f : Station → Station) : π (m.modStn n f) = π m := hsp m (fun s => { s with stn := Tab.upd dStn s.stn n f })
  have hfr : TallyFrame (fun t => π t = π m) := .of _ hreg htele hflt
  refine Mach.postEvt_of (P := fun t => π t = π m) (fun _ _ _ h => (hreg _ _ _).trans h) (fun _ _ _ h => (heng _ _ _).trans h) _ _ _ _ _
    (hfr.occur _ _ _ _ _ _ (hfr.evt _ _ ?_))
  exact List.foldlRecOn (motive := fun z => π z = π m) _ _ rfl (fun z hz i _ => hfr.entryDead i (fun _ _ h => (hstn _ _ _).trans h) hz)
end

/-- A packet of which its exit stage has passed a part leaves no flit at the router of a station that becomes DEAD. -/
theorem Mach.vc_stnDie {m : Mach} {p c : Nat} (hc : c ∈ [3, 5, 9, 11]) (hcut : (m.vc (kVc (spineTile p) 6 c)).cut = true) :
    ((m.stnDie p).vc (kVc (spineTile p) 6 c)).q = [] := by
  have hgone : (m.stnGone p).vc (kVc (spineTile p) 6 c) = m.vc (kVc (spineTile p) 6 c) :=
    Mach.stnGone_keeps (π := fun m => m.vc (kVc (spineTile p) 6 c)) (fun _ _ _ => rfl) (fun _ _ => rfl) (fun _ _ => rfl) (fun _ _ => rfl) m p
  have hcuts : (((m.stnGone p).cutSpn p).vc (kVc (spineTile p) 6 c)).gone := by
    refine foldl_sets (I := fun z : Mach => z.vc (kVc (spineTile p) 6 c) = m.vc (kVc (spineTile p) 6 c) ∨ (z.vc (kVc (spineTile p) 6 c)).gone)
      (Q := fun z : Mach => (z.vc (kVc (spineTile p) 6 c)).gone) hc (fun z k _ hz => (CutFrame.vcKept _ _).cutVc _ _ _ _ hz) (fun z hz => ?_)
      (fun z k _ _ hz => (CutFrame.vcGone _).cutVc _ _ _ _ hz) (.inl hgone)
    rcases hz with hz | hz
    · refine (CutFrame.vcGone (kVc (spineTile p) 6 c)).cutVc_succ (fun _ _ _ h => (CutFrame.vcGone _).cutVc _ _ _ _ h) (by rw [hz]; exact hcut) ?_
      unfold Mach.clearVc
      rw [Mach.vc_modVc]
      exact VcBuf.gone_empty _
    · exact (CutFrame.vcGone _).cutVc _ _ _ _ hz
  rw [Mach.stnDie_eq, Mach.stnTold_keeps (π := fun m => m.vc (kVc (spineTile p) 6 c)) (fun _ _ _ => rfl) (fun _ _ => rfl) (fun _ _ => rfl)
    (fun _ _ => rfl) (fun _ _ _ => rfl)]
  exact hcuts.1

/-- Where none has passed a part of a packet, routers and NIUs stay as they are. -/
theorem Mach.stnDie_whole {γ : Type} {π : Mach → γ} (hreg : ∀ m a w, π (m.setReg a w) = π m) (htele : ∀ m f, π (m.modTele f) = π m)
    (hflt : ∀ m f, π (m.modFlt f) = π m) (hsp : ∀ m f, π (m.modSpine f) = π m) (heng : ∀ m e f, π (m.modEng e f) = π m) {m : Mach} {p : Nat}
    (hcut : ∀ c ∈ [3, 5, 9, 11], (m.vc (kVc (spineTile p) 6 c)).cut = false) : π (m.stnDie p) = π m := by
  have hgone (k : Nat) : (m.stnGone p).vc k = m.vc k :=
    Mach.stnGone_keeps (π := fun m => m.vc k) (fun _ _ _ => rfl) (fun _ _ => rfl) (fun _ _ => rfl) (fun _ _ => rfl) m p
  have hcuts : (m.stnGone p).cutSpn p = m.stnGone p := foldl_fixed (fun c hc => Mach.cutVc_of_whole (by rw [hgone]; exact hcut c hc) _)
  rw [Mach.stnDie_eq, Mach.stnTold_keeps hreg htele hflt hsp heng, hcuts, Mach.stnGone_keeps hreg htele hflt hsp]

end Sys2Proof.Machine

/-! PROOFS. Grid marks, stations and the exit stage of Eland (O32). -/

namespace Sys2Proof.Machine

/-! ## Grid marks (R217 to R219) -/

/-- The phase error of a mark read. -/
def Mach.gridRead (m : Mach) : Mach := m.modSpine (fun x => { x with err := m.phaseErr, mark := m.gridNow })

/-- A mark of a rotor that keeps time. -/
def Mach.gridCorrects (m : Mach) (e : Int) : Mach :=
  let m := m.modSpine (fun x => { x with corrN := if e.natAbs ≤ 1 ∨ 8 < e.natAbs then 0 else if 0 < e then 1 else -1 })
  let m := if m.spine.lock = .locked then m.applyMask m.gridNow else m
  if e.natAbs ≤ 1 then m.setLock .locked else if e.natAbs ≤ 8 then m.setLock .slew else m.setLock .acq

/-- The rotor locked at slot 0. -/
def Mach.gridLocks (m : Mach) : Mach :=
  let m := if m.spine.seen then m.orReg aSpEvt 2 else m
  (m.modSpine (fun x => { x with slot := 0, abs := 0, cyc := 0, corr := 0, corrN := 0, seen := true })).setLock .locked

/-- What a mark does (R218, R219). -/
def Mach.gridActs (m : Mach) (e : Int) : Mach :=
  if m.spine.lock = .free ∨ m.spine.acqNext = true then (m.modSpine (fun x => { x with acqNext := false })).setLock .acq
  else if m.spine.lock = .acq then ((m.gridLocks.countSp 6 none 1 0).applyMask m.gridLocks.gridNow).slotStart 0 false
  else m.gridCorrects e

def Mach.gridMarked (m : Mach) : Mach :=
  if !m.spineUp || m.clk.fstop || decide (m.keep.st ≠ .track) || !m.gridDue then m else m.gridRead.gridActs m.phaseErr

theorem exec_gridMark {s : State} (hs : s.m.test.scan = false) : exec .gridMark s = .next { s with m := s.m.gridMarked } := by
  change execGridMark s = _
  rw [execGridMark, State.on_eq hs]
  rfl

/-- The rotor's time: everything of Eland but its stations, the cells in flight and the pending mask. -/
def Spine.beat (s : Spine) : Spine := { s.phase with pend := false }

theorem SlotFrame.beat (v : Spine) : SlotFrame (fun m => m.spine.beat = v) :=
  ⟨.of v (fun _ _ _ => rfl) (fun _ _ => rfl) (fun _ _ => rfl), fun _ _ _ _ h => h, fun _ _ _ h => h⟩

theorem DieFrame.beat (v : Spine) : DieFrame (fun m => m.spine.beat = v) where
  reg _ _ _ h := h
  tele _ _ h := h
  flt _ _ h := h
  dir _ _ _ _ h := h
  out _ _ _ h := h
  stn _ _ _ h := h
  cbu _ _ _ h := h
  vc _ _ _ h := h
  niu _ _ _ h := h
  shed _ _ _ h := h
  fly _ _ h := h
  eng _ _ _ h := h

theorem Mach.beat_slotStart (m : Mach) (s : Nat) (quiet : Bool) : (m.slotStart s quiet).spine.beat = m.spine.beat := by
  have hdie : m.stnsDie.spine.beat = m.spine.beat := by
    refine List.foldlRecOn (motive := fun z : Mach => z.spine.beat = m.spine.beat) _ _ rfl (fun z hz p _ => ?_)
    split
    · exact (DieFrame.beat _).stnDie hz
    · exact hz
  rw [Mach.slotStart_eq]
  exact (SlotFrame.beat _).slotGo _ _ ((SlotFrame.beat _).slotOpen (fun _ _ h => h) _ hdie)

theorem Mach.setLock_quiet {m : Mach} {l : Lock} (h : m.spine.lock = .free ∨ m.spine.lock = .acq ∨ l = .locked ∨ l = .slew) :
    m.setLock l = m.modSpine (fun s => { s with lock := l }) := by
  unfold Mach.setLock
  refine if_neg (fun ⟨hw, h1, h2⟩ => ?_)
  rcases h with h | h | h | h
  · rw [h] at hw; rcases hw with hw | hw <;> cases hw
  · rw [h] at hw; rcases hw with hw | hw <;> cases hw
  · exact h1 h
  · exact h2 h

theorem Mach.setLock_marks {m : Mach} (h : m.spine.lock = .locked ∨ m.spine.lock = .slew) :
    m.setLock .acq = (m.modSpine (fun s => { s with lock := .acq })).orReg aSpEvt 1 := by
  unfold Mach.setLock
  exact if_pos ⟨h, by decide, by decide⟩

theorem Mach.beat_gridLocks (m : Mach) : m.gridLocks.spine.beat =
    Spine.beat { m.spine with slot := 0, abs := 0, cyc := 0, corr := 0, corrN := 0, seen := true, lock := .locked } := by
  have hs : (if m.spine.seen then m.orReg aSpEvt 2 else m).spine = m.spine := by split <;> rfl
  unfold Mach.gridLocks
  generalize (if m.spine.seen then m.orReg aSpEvt 2 else m) = z at hs
  rw [Mach.setLock_quiet (.inr (.inr (.inl rfl)))]
  have h := congrArg (fun x : Spine => Spine.beat { x with slot := 0, abs := 0, cyc := 0, corr := 0, corrN := 0, seen := true, lock := .locked }) hs
  exact h

section
variable {m : Mach} (hup : m.spineUp = true) (hf : m.clk.fstop = false) (hk : m.keep.st = .track) (hd : m.gridDue = true)
include hup hf hk hd

theorem Mach.gridMarked_acts : m.gridMarked = m.gridRead.gridActs m.phaseErr := by
  unfold Mach.gridMarked
  rw [hup, hf, hk, hd]
  rfl

/-- The first mark begins acquisition. -/
theorem Mach.gridMarked_free (hl : m.spine.lock = .free) :
    m.gridMarked = m.modSpine (fun y => { y with err := m.phaseErr, mark := m.gridNow, lock := .acq, acqNext := false }) := by
  have hl' : m.gridRead.spine.lock = .free := hl
  rw [Mach.gridMarked_acts hup hf hk hd, Mach.gridActs, if_pos (.inl hl'),
    Mach.setLock_quiet (m := m.gridRead.modSpine (fun x => { x with acqNext := false })) (.inl hl)]
  rfl

/-- The mark that ends an acquisition starts slot 0 with the rotor locked (R219). -/
theorem Mach.gridMarked_acq (hl : m.spine.lock = .acq) (hn : m.spine.acqNext = false) : m.gridMarked.spine.beat =
    Spine.beat { m.spine with slot := 0, abs := 0, cyc := 0, corr := 0, corrN := 0, seen := true, lock := .locked, err := m.phaseErr,
                              mark := m.gridNow } := by
  have hl' : m.gridRead.spine.lock = .acq := hl
  have hn' : ¬ (m.gridRead.spine.lock = .free ∨ m.gridRead.spine.acqNext = true) := by
    rw [hl', show m.gridRead.spine.acqNext = false from hn]
    decide
  rw [Mach.gridMarked_acts hup hf hk hd, Mach.gridActs, if_neg hn', if_pos hl', Mach.beat_slotStart]
  have hmask (t : Nat) : ((m.gridRead.gridLocks.countSp 6 none 1 0).applyMask t).spine.beat = m.gridRead.gridLocks.spine.beat := by
    have hc : (m.gridRead.gridLocks.countSp 6 none 1 0).spine.beat = m.gridRead.gridLocks.spine.beat := (SlotFrame.beat _).countSp _ _ _ _ rfl
    unfold Mach.applyMask
    split
    · exact hc
    · exact hc
  rw [hmask, Mach.beat_gridLocks]
  rfl

section
variable (hl : m.spine.lock = .locked ∨ m.spine.lock = .slew) (hn : m.spine.acqNext = false)
include hl hn

theorem Mach.gridMarked_corrects : m.gridMarked = m.gridRead.gridCorrects m.phaseErr := by
  have hn' : ¬ (m.gridRead.spine.lock = .free ∨ m.gridRead.spine.acqNext = true) := by
    rw [show m.gridRead.spine.lock = m.spine.lock from rfl, show m.gridRead.spine.acqNext = false from hn]
    rcases hl with hl | hl <;> rw [hl] <;> decide
  have ha : ¬ m.gridRead.spine.lock = .acq := by
    rw [show m.gridRead.spine.lock = m.spine.lock from rfl]
    rcases hl with hl | hl <;> rw [hl] <;> decide
  rw [Mach.gridMarked_acts hup hf hk hd, Mach.gridActs, if_neg hn', if_neg ha]

/-- What a mark that the rotor keeps writes down. -/
def Mach.gridKept (m : Mach) (k : Int) : Mach := m.modSpine (fun y => { y with err := m.phaseErr, mark := m.gridNow, corrN := k })

/-- A mark without a pending mask, or before its time. -/
theorem Mach.gridMarked_plain (hp : ¬ (m.spine.lock = .locked ∧ m.spine.pend = true ∧ m.fld 0x80018 0 64 ≤ m.gridNow)) {k : Int}
    (hc : (if m.phaseErr.natAbs ≤ 1 ∨ 8 < m.phaseErr.natAbs then 0 else if 0 < m.phaseErr then 1 else -1) = k) :
    m.gridMarked = if m.phaseErr.natAbs ≤ 1 then (m.gridKept k).setLock .locked
      else if m.phaseErr.natAbs ≤ 8 then (m.gridKept k).setLock .slew else (m.gridKept k).setLock .acq := by
  rw [Mach.gridMarked_corrects hup hf hk hd hl hn, Mach.gridCorrects, hc]
  have hz : (m.gridRead.modSpine (fun x => { x with corrN := k })) = m.gridKept k := rfl
  rw [hz]
  have hm : (if (m.gridKept k).spine.lock = .locked then (m.gridKept k).applyMask (m.gridKept k).gridNow else m.gridKept k) = m.gridKept k := by
    split
    · next h => exact if_neg (fun hpt => hp ⟨h, hpt.1, hpt.2⟩)
    · rfl
  rw [hm]

theorem Mach.gridMarked_steady (hp : ¬ (m.spine.lock = .locked ∧ m.spine.pend = true ∧ m.fld 0x80018 0 64 ≤ m.gridNow)) (he : m.phaseErr.natAbs ≤ 1) :
    m.gridMarked = m.modSpine (fun y => { y with err := m.phaseErr, mark := m.gridNow, corrN := 0, lock := .locked }) := by
  rw [Mach.gridMarked_plain hup hf hk hd hl hn hp (if_pos (.inl he)), if_pos he, Mach.setLock_quiet (.inr (.inr (.inl rfl)))]
  rfl

theorem Mach.gridMarked_slews (hp : ¬ (m.spine.lock = .locked ∧ m.spine.pend = true ∧ m.fld 0x80018 0 64 ≤ m.gridNow)) (h2 : 2 ≤ m.phaseErr.natAbs)
    (h8 : m.phaseErr.natAbs ≤ 8) : m.gridMarked = m.modSpine (fun y =>
      { y with err := m.phaseErr, mark := m.gridNow, corrN := if 0 < m.phaseErr then 1 else -1, lock := .slew }) := by
  rw [Mach.gridMarked_plain hup hf hk hd hl hn hp (if_neg (by omega)), if_neg (by omega), if_pos h8,
    Mach.setLock_quiet (.inr (.inr (.inr rfl)))]
  rfl

theorem Mach.gridMarked_loses (hp : ¬ (m.spine.lock = .locked ∧ m.spine.pend = true ∧ m.fld 0x80018 0 64 ≤ m.gridNow)) (h8 : 8 < m.phaseErr.natAbs) :
    m.gridMarked = (m.modSpine (fun y => { y with err := m.phaseErr, mark := m.gridNow, corrN := 0, lock := .acq })).orReg 0x80030 1 := by
  rw [Mach.gridMarked_plain hup hf hk hd hl hn hp (if_pos (.inr h8)), if_neg (by omega), if_neg (by omega), Mach.setLock_marks (m := m.gridKept 0) hl]
  rfl
end

/-- A pending mask comes into force at the mark of its boundary (R222). -/
theorem Mach.gridMarked_mask (hl : m.spine.lock = .locked) (hn : m.spine.acqNext = false) (hp : m.spine.pend = true)
    (ht : m.fld 0x80018 0 64 ≤ m.gridNow) (he : m.phaseErr.natAbs ≤ 1) :
    m.gridMarked = (m.setReg 0x80010 (mkf 64 0 32 (m.fld 0x80010 32 32))).modSpine (fun y =>
      { y with err := m.phaseErr, mark := m.gridNow, corrN := 0, lock := .locked, pend := false }) := by
  have hc : (if m.phaseErr.natAbs ≤ 1 ∨ 8 < m.phaseErr.natAbs then 0 else if 0 < m.phaseErr then 1 else -1) = (0 : Int) := if_pos (.inl he)
  rw [Mach.gridMarked_corrects hup hf hk hd (.inl hl) hn, Mach.gridCorrects, hc]
  have hz : (m.gridRead.modSpine (fun x => { x with corrN := 0 })) = m.gridKept 0 := rfl
  have hm : (if (m.gridKept 0).spine.lock = .locked then (m.gridKept 0).applyMask (m.gridKept 0).gridNow else m.gridKept 0) =
      (m.gridKept 0).applyMask (m.gridKept 0).gridNow := if_pos hl
  have ha : (m.gridKept 0).applyMask (m.gridKept 0).gridNow = ((m.gridKept 0).setReg 0x80010 (mkf 64 0 32 ((m.gridKept 0).fld 0x80010 32 32))).modSpine
      (fun s => { s with pend := false }) := if_pos ⟨hp, ht⟩
  rw [hz, hm, ha, if_pos he, Mach.setLock_quiet (.inr (.inr (.inl rfl)))]
  rfl
end

/-- Where no mark acts. -/
theorem Mach.gridMarked_none {m : Mach} (h : m.keep.st ≠ .track ∨ m.gridDue = false ∨ m.clk.fstop = true ∨ m.spineUp = false) : m.gridMarked = m := by
  unfold Mach.gridMarked
  refine if_pos ?_
  rcases h with h | h | h | h
  · rw [decide_eq_true h, Bool.or_true, Bool.true_or]
  · rw [h, Bool.not_false, Bool.or_true]
  · rw [h, Bool.or_true, Bool.true_or, Bool.true_or]
  · rw [h, Bool.not_false, Bool.true_or, Bool.true_or, Bool.true_or]

theorem Mach.slotNext_none {m : Mach} (h : m.clk.fstop = true ∨ m.hasSpine = false) : m.slotNext = m := by
  unfold Mach.slotNext
  refine if_pos ?_
  rcases h with h | h
  · rw [h, Bool.or_true]
  · rw [h, Bool.not_false, Bool.true_or]

/-! ## Stations that close and are enabled (R228, R229) -/

def Mach.stationDisabled (m : Mach) (p : Nat) : Mach :=
  if m.hasSpine = true ∧ (m.stn p).st = .closing ∧ m.stnEmpty p = true then (m.modStn p (fun x => { x with st := .disabled })).finish (.portOff p) xOK
  else m

theorem exec_stationDisabled {s : State} (hs : s.m.test.scan = false) (p : Stn) :
    exec (.stationDisabled p) s = .next { s with m := s.m.stationDisabled p } := by
  change execStationDisabled p s = _
  rw [execStationDisabled, State.on_eq hs]
  rfl

/-- A station enabled at a period boundary, its SP.PORT ON ended. -/
def Mach.stnOn (m : Mach) (p : Nat) : Mach :=
  (m.modStn p (fun x => { x with st := .enabled, onReq := false, onDue := false })).finish (.portOn p) xOK

def Mach.stationEnable (m : Mach) (p : Nat) : Mach :=
  if m.hasSpine = true ∧ (m.stn p).onReq = true ∧ (m.stn p).onDue = true ∧ m.spine.slot = 0 ∧ ((m.stn p).st = .closing → m.stnEmpty p = true) then
    (if (m.stn p).st = .closing then m.finish (.portOff p) xOK else m).stnOn p
  else m

theorem exec_stationEnable {s : State} (hs : s.m.test.scan = false) (p : Stn) :
    exec (.stationEnable p) s = .next { s with m := s.m.stationEnable p } := by
  change execStationEnable p s = _
  rw [execStationEnable, State.on_eq hs]
  rfl

theorem Mach.stnOn_likeAt {m : Mach} {p : Nat} {e : EngId} (hst : (m.eng e).state = .waiting) (hw : (m.eng e).wait = .portOn p)
    (hno : ∀ d, d ≠ e.val → (m.eng d).wait ≠ .portOn p) :
    (m.stnOn p).LikeAt e { m.eng e with wait := .done 0 [], limit := none }
      (m.modStn p (fun y => { y with st := .enabled, onReq := false, onDue := false })) :=
  Mach.finish_only (m := m.modStn p (fun y => { y with st := .enabled, onReq := false, onDue := false })) hst hw hno 0

/-! ## The exit stage (R210) -/

def Mach.exitStagePass (m : Mach) (p : Nat) : Mach :=
  if !m.hasSpine || !(m.stn p).st.runs || (m.stn p).dying || !m.domLive (spineTile p) then m
  else match m.exitNext p with
    | none => m
    | some (c, f, _) =>
      let t := spineTile p
      let bits := if f.head then (let h := hSetSph f.bits true; hSetLa h (m.la t 6 none h)) else f.bits
      (m.modStn p (fun x => { x with exit := Tab.upd dNil x.exit c (fun l => l.drop 1) })).flitIn t 6 ([3, 5, 9, 11].getD c 3) { f with bits := bits }

theorem exec_exitStagePass {s : State} (hs : s.m.test.scan = false) (p : Stn) :
    exec (.exitStagePass p) s = .next { s with m := s.m.exitStagePass p } := by
  change execExitStagePass p s = _
  rw [execExitStagePass, State.on_eq hs]
  rfl

/-- The flit that an exit register offers. -/
def Mach.exitReady (m : Mach) (p c : Nat) : Option (Nat × Flit × Nat) :=
  match Tab.get dNil (m.stn p).exit c with
  | [] => none
  | (f, _, born) :: _ =>
    let b := m.vc (kVc (spineTile p) 6 ([3, 5, 9, 11].getD c 3))
    if (if f.head then b.q.isEmpty else decide (b.q.length < 4)) then some (c, f, born) else none

/-- The older of two flits offered. -/
def exitOlder : Option (Nat × Flit × Nat) → Option (Nat × Flit × Nat) → Option (Nat × Flit × Nat)
  | some x, some y => if y.2.2 < x.2.2 then some y else some x
  | some x, none => some x
  | none, y => y

theorem Mach.exitNext_eq (m : Mach) (p : Nat) :
    m.exitNext p = (exitOlder (m.exitReady p 2) (m.exitReady p 3)).orElse (fun _ => exitOlder (m.exitReady p 0) (m.exitReady p 1)) := by
  unfold Mach.exitNext exitOlder
  rfl

theorem Mach.exitReady_empty {m : Mach} {p c : Nat} (h : Tab.get dNil (m.stn p).exit c = []) : m.exitReady p c = none := by
  unfold Mach.exitReady
  rw [h]

theorem Mach.exitNext_none {m : Mach} {p : Nat} (h : ∀ c, Tab.get dNil (m.stn p).exit c = []) : m.exitNext p = none := by
  rw [Mach.exitNext_eq, Mach.exitReady_empty (h 0), Mach.exitReady_empty (h 1), Mach.exitReady_empty (h 2), Mach.exitReady_empty (h 3)]
  rfl

theorem Mach.exitNext_first {m : Mach} {p n born : Nat} {f : Flit} {r : List (Flit × Nat × Nat)} (h : Tab.get dNil (m.stn p).exit 0 = (f, n, born) :: r)
    (hf : f.head = false) (hno : ∀ c, c = 1 ∨ c = 2 ∨ c = 3 → Tab.get dNil (m.stn p).exit c = []) (hq : (m.vc (kVc (spineTile p) 6 3)).q.length < 4) :
    m.exitNext p = some (0, f, born) := by
  have h0 : m.exitReady p 0 = some (0, f, born) := by
    unfold Mach.exitReady
    rw [h]
    dsimp only
    rw [hf, if_neg Bool.false_ne_true]
    exact if_pos (decide_eq_true hq)
  rw [Mach.exitNext_eq, h0, Mach.exitReady_empty (hno 1 (by decide)), Mach.exitReady_empty (hno 2 (by decide)), Mach.exitReady_empty (hno 3 (by decide))]
  rfl

theorem Mach.exitStagePass_none {m : Mach} {p : Nat} (h : ∀ c, Tab.get dNil (m.stn p).exit c = []) : m.exitStagePass p = m := by
  unfold Mach.exitStagePass
  rw [Mach.exitNext_none h]
  exact ite_self _

/-- The exit stage passes the flit at its front into the SPN input VC of its code. -/
theorem Mach.exitStagePass_passes {m : Mach} {p n born : Nat} {f : Flit} {r : List (Flit × Nat × Nat)} (hsp : m.hasSpine = true)
    (hrun : (m.stn p).st.runs = true) (hdy : (m.stn p).dying = false) (hlive : m.domLive (spineTile p) = true)
    (h : Tab.get dNil (m.stn p).exit 0 = (f, n, born) :: r) (hf : f.head = false)
    (hno : ∀ c, c = 1 ∨ c = 2 ∨ c = 3 → Tab.get dNil (m.stn p).exit c = []) (hq : (m.vc (kVc (spineTile p) 6 3)).q.length < 4)
    (hdr : (m.vc (kVc (spineTile p) 6 3)).drop = false) :
    Tab.get dNil ((m.exitStagePass p).stn p).exit 0 = r ∧ m.Delivers (m.exitStagePass p) (kVc (spineTile p) 6 3) f := by
  have heq : m.exitStagePass p = (m.modStn p (fun x => { x with exit := Tab.upd dNil x.exit 0 (fun l => l.drop 1) })).flitIn (spineTile p) 6 3 f := by
    unfold Mach.exitStagePass
    rw [Mach.exitNext_first h hf hno hq, hsp, hrun, hdy, hlive]
    obtain ⟨head, last, bits, bad⟩ := f
    obtain rfl : head = false := hf
    rfl
  have hlost : (m.modStn p (fun x => { x with exit := Tab.upd dNil x.exit 0 (fun l => l.drop 1) })).lostFlit (spineTile p) 6 3 f = false := by
    unfold Mach.lostFlit
    rw [hf, if_neg Bool.false_ne_true]
    exact hdr
  rw [heq]
  refine ⟨?_, (Mach.flitIn_delivers (by decide) hlost).of (fun _ => rfl) (fun _ => rfl) (fun _ => rfl)⟩
  rw [Mach.flitIn_keeps (π := fun m => m.stn p) (fun _ _ _ => rfl) (fun _ _ => rfl) (fun _ _ => rfl) (fun _ _ _ => rfl) hlost, Mach.stn_modStn]
  dsimp only
  rw [Tab.get_upd, h]
  rfl

/-- Settles O32: rotor slots, grid marks and stations of Eland. -/
theorem spineSlots : Obligations.SpineSlots := by
  unfold Obligations.SpineSlots
  refine ⟨?_, ?_, ?_⟩
  · intro s i j c o fl k q sp sl n u mask hs hsp hf hu
    have hx := exec_rotorSlot hs
    refine ⟨fun h0 hno => ?_, fun p hd => ?_, fun hd ho hc he => ?_, fun h0 => ⟨fun hq hfl hno => ?_, fun hl hfl hno => ?_, ?_, ?_⟩⟩
    · have h := Mach.slotNext_zero hsp hf hu h0 (fun p => (hno p).2)
      exact ⟨_, hx, h⟩
    · have h := Mach.slotNext_dead hsp hf hu p.isLt hd
      exact ⟨_, hx, h.st, h.dying, h.entry, h.q, h.exit⟩
    · have h := Mach.slotNext_entryDead hsp hf hu hd ho i.isLt hc he
      exact ⟨_, hx, h⟩
    · have h := Mach.slotNext_rests hsp hf hu hno h0 hfl hq
      exact ⟨_, hx, rfl, rfl, h⟩
    · have h := Mach.slotNext_lands hsp hf hu hno h0 hfl hl
      exact ⟨_, hx, h⟩
    · intro hl hsh hfl hno hc hr hen he hone hb hb' had hne
      have hav : s.m.avoids ((o + 32 - n) % 32) = false := by
        unfold Mach.avoids
        dsimp only
        rw [show bt (s.m.reg 0x80010) ((o + 32 - n) % 32) = false from hb, Bool.false_or]
        cases hp : s.m.spine.pend with
        | false => rfl
        | true => exact (Bool.true_and _).trans (hb' hp)
      have h := Mach.slotNext_launches hsp hf hu hno h0 hfl hl hsh i.isLt rfl hc hr hen he hone hav had hne
      exact ⟨_, hx, h⟩
    · intro hl hsh hfl hno hc hr hr' hq _ _ hone ht
      have h := Mach.slotNext_sends hsp hf hu hno h0 hfl hl hsh j.isLt rfl hc hr hr' hq hone ht
      exact ⟨_, hx, h⟩
  · intro s sp g e hs
    have hx := exec_gridMark hs
    have hdoes {a : Mach} (h : s.m.gridMarked = a) : Does .gridMark s a := ⟨_, hx, rfl, rfl, h ▸ .refl _⟩
    have hnone (hp : s.m.spine.pend = false) : ¬ (s.m.spine.lock = .locked ∧ s.m.spine.pend = true ∧ s.m.fld 0x80018 0 64 ≤ s.m.gridNow) :=
      fun h => by rw [hp] at h; exact absurd h.2.1 (by decide)
    refine ⟨fun h => hdoes (Mach.gridMarked_none h), fun h => ⟨_, exec_rotorSlot hs, rfl, rfl, ?_⟩, fun hf hup =>
      ⟨fun hk hd hl => hdoes (Mach.gridMarked_free hup hf hk hd hl), fun hk hd hl hn => ⟨_, hx, ?_⟩,
       fun hk hd hl hn hp he => hdoes (Mach.gridMarked_steady hup hf hk hd hl hn (hnone hp) he),
       fun hk hd hl hn hp h2 h8 => hdoes (Mach.gridMarked_slews hup hf hk hd hl hn (hnone hp) h2 h8),
       fun hk hd hl hn hp h8 => hdoes (Mach.gridMarked_loses hup hf hk hd hl hn (hnone hp) h8),
       fun hk hd hl hn hp ht he => hdoes (Mach.gridMarked_mask hup hf hk hd hl hn hp ht he),
       fun hk hd hl hn hp ht he => hdoes (Mach.gridMarked_steady hup hf hk hd (.inl hl) hn (fun h => Nat.not_le.2 ht h.2.2) he)⟩⟩
    · rw [Mach.slotNext_none h]
      exact .refl _
    · have h := Mach.gridMarked_acq hup hf hk hd hl hn
      exact ⟨congrArg Spine.lock h, congrArg Spine.slot h, congrArg Spine.cyc h, congrArg Spine.err h, congrArg Spine.mark h, congrArg Spine.seen h⟩
  · intro s p e f n born r y x k hs hsp
    have hdis := exec_stationDisabled hs p
    have hen := exec_stationEnable hs p
    have hdead := exec_stationDead hs p
    have hpass := exec_exitStagePass hs p
    refine ⟨fun hc he hst hw hno => ?_, fun h => ⟨_, hdis, rfl, rfl, ?_⟩, fun hr hd h0 hst hx hw hno => ?_, fun hr hd h0 hc he hx hw hno hoff => ?_,
      fun h => ⟨_, hen, rfl, rfl, ?_⟩, fun hst => ?_, fun hst => ⟨_, hdead, rfl, rfl, ?_⟩, fun hrun hdy hlive hq hf hno hlen hdr => ?_,
      fun h => ⟨_, hpass, rfl, rfl, ?_⟩⟩
    · refine ⟨_, hdis, rfl, rfl, ?_⟩
      dsimp only
      rw [Mach.stationDisabled, if_pos ⟨hsp, hc, he⟩]
      exact Mach.finish_only (m := s.m.modStn p (fun y => { y with st := .disabled })) hst hw hno 0
    · dsimp only
      rw [Mach.stationDisabled, if_neg]
      · exact .refl _
      · rintro ⟨-, h1, h2⟩
        rcases h with h | h
        · exact h h1
        · rw [h] at h2; cases h2
    · refine ⟨_, hen, rfl, rfl, ?_⟩
      have hc : ¬ (s.m.stn p).st = .closing := by
        rcases hst with h | h <;> rw [show (s.m.stn p).st = _ from h] <;> decide
      dsimp only
      rw [Mach.stationEnable, if_pos ⟨hsp, hr, hd, h0, fun h => absurd h hc⟩, if_neg hc]
      exact Mach.stnOn_likeAt hx hw hno
    · refine ⟨_, hen, rfl, rfl, ?_⟩
      dsimp only
      rw [Mach.stationEnable, if_pos ⟨hsp, hr, hd, h0, fun _ => he⟩, if_pos hc, Mach.finish_none hoff]
      exact Mach.stnOn_likeAt hx hw hno
    · dsimp only
      rw [Mach.stationEnable, if_neg]
      · exact .refl _
      · rintro ⟨-, h1, h2, h3, h4⟩
        rcases h with h | h | h | ⟨h, h'⟩
        · rw [show (s.m.stn p).onReq = false from h] at h1; cases h1
        · rw [show (s.m.stn p).onDue = false from h] at h2; cases h2
        · exact h h3
        · rw [h4 h] at h'; cases h'
    · refine ⟨_, hdead, ?_⟩
      have heq : s.m.stationDead p = s.m.stnDie p := by
        unfold Mach.stationDead
        rw [hsp, decide_eq_false hst]
        exact if_neg (by decide)
      dsimp only
      rw [heq]
      obtain ⟨hgone, hfl⟩ := s.m.stnDie_dead p
      refine ⟨hgone.st, hgone.entry, hgone.q, hgone.exit, hfl, fun c hc hcut => Mach.vc_stnDie hc hcut, fun hcut => ⟨fun a => ?_, fun a => ?_⟩⟩
      · exact Mach.stnDie_whole (π := fun m => m.vc a) (fun _ _ _ => rfl) (fun _ _ => rfl) (fun _ _ => rfl) (fun _ _ => rfl) (fun _ _ _ => rfl) hcut
      · exact Mach.stnDie_whole (π := fun m => m.niu a) (fun _ _ _ => rfl) (fun _ _ => rfl) (fun _ _ => rfl) (fun _ _ => rfl) (fun _ _ _ => rfl) hcut
    · dsimp only
      rw [Mach.stationDead, decide_eq_true hst, Bool.or_true, if_pos rfl]
      exact .refl _
    · obtain ⟨hex, hdel⟩ := Mach.exitStagePass_passes hsp hrun hdy hlive hq hf hno hlen hdr
      exact ⟨_, hpass, hex, hdel.q, hdel.vc, hdel.far⟩
    · dsimp only
      rw [Mach.exitStagePass_none h]
      exact .refl _

end Sys2Proof.Machine

/-! PROOFS. A round at a combine node (O38). -/

namespace Sys2Proof.Machine

/-! ## What the accounts of a combine unit leave alone -/

section
variable {γ : Type} {π : Mach → γ} (hreg : ∀ (m : Mach) a w, π (m.setReg a w) = π m) (htele : ∀ (m : Mach) f, π (m.modTele f) = π m)
include hreg

theorem Mach.cbEvt_keeps (m : Mach) (t b : Nat) : π (m.cbEvt t b) = π m := hreg _ _ _

theorem Mach.cbCount_keeps (m : Mach) (t lo k : Nat) : π (m.cbCount t lo k) = π m := hreg _ _ _

include htele

theorem Mach.cbMerged_keeps (m : Mach) (t nbad : Nat) (p : Pkt) : π (m.cbMerged t nbad p) = π m := by
  have hc : π (m.countRtr t 9 none (some (hTc p.hd)) p.hd) = π m := Mach.count_keeps hreg htele _ _ _ _ _ _ _ _
  unfold Mach.cbMerged
  dsimp only
  split
  · exact hc
  · exact (hreg _ _ _).trans ((hreg _ _ _).trans hc)

theorem Mach.cbSend_keeps (hcbu : ∀ (m : Mach) t f, π (m.modCbu t f) = π m) (m : Mach) (t out : Nat) (p : Pkt) : π (m.cbSend t out p) = π m :=
  (hcbu _ _ _).trans (Mach.count_keeps hreg htele _ _ _ _ _ _ _ _)
end

/-- The packet that a combine unit has produced, none produced before it (R282, R290). -/
theorem Mach.cbUnit_cbSend {m : Mach} {t : Nat} (h : (m.cbUnit t).outq = []) (out : Nat) (p : Pkt) :
    (m.cbSend t out p).cbUnit t = { m.cbUnit t with outq := [⟨out, p.hd, p.flits, 0, true⟩] } := by
  have hc : (m.countRtr t 3 (some 7) (some (vcTc (vcOf p.hd))) p.hd).cbUnit t = m.cbUnit t :=
    Mach.count_keeps (π := fun m => m.cbUnit t) (fun _ _ _ => rfl) (fun _ _ => rfl) _ _ _ _ _ _ _ _
  unfold Mach.cbSend
  rw [Mach.cbUnit_modCbu, hc, CbUnit.freeReg, h]
  rfl

theorem Mach.reg_cbSend {t : Nat} (ht : t < 128) (m : Mach) (out : Nat) (p : Pkt) {a : Nat} (ha : ctrAddr a = false) :
    (m.cbSend t out p).reg a = m.reg a :=
  (m.like_count (by unfold ctrRouter; omega) _ _ _ _ _).reg a ha

theorem Mach.cbStamp_congr {a m : Mach} (h : a.rt = m.rt) (t : Nat) (p : Pkt) : a.cbStamp t p = m.cbStamp t p := by
  unfold Mach.cbStamp Mach.epochOf
  rw [h]

/-! ## The packet at the front -/

/-- A combine unit that has taken the packet at its front. -/
def Mach.cbTaken (m : Mach) (t : Nat) : Mach := m.modCbu t (fun u => { u with inq := dropAt u.inq 0 })

theorem Mach.cbNext_front {m : Mach} {t inp nbad : Nat} {p : Pkt} {kind : Nat → FlitBits → Bool} (h : (m.cbUnit t).inq = [(inp, nbad, p)])
    (hk : kind inp p.hd = true) : m.cbNext t kind = (some (inp, nbad, p), m.cbTaken t) := by
  unfold Mach.cbNext
  rw [h]
  unfold firstIdx
  rw [if_pos hk]
  rfl

theorem Mach.cbUnit_cbTaken {m : Mach} {t inp nbad : Nat} {p : Pkt} (h : (m.cbUnit t).inq = [(inp, nbad, p)]) :
    (m.cbTaken t).cbUnit t = { m.cbUnit t with inq := [] } := by
  unfold Mach.cbTaken
  rw [Mach.cbUnit_modCbu, h]
  rfl

/-! ## Merging one contribution -/

/-- The contribution whose turn it is to be merged (R286). -/
def CbNode.turn (x : CbNode) (all : Bool) : Option Nat :=
  let left := x.kidList.filter (fun k => !x.merged.contains k)
  let here := left.filter (fun k => x.held.any (fun r => r.1 == k))
  if x.arrival || all then here.head? else (left.head?).filter (fun k => here.contains k)

theorem Mach.cbMerge_rests {x : CbNode} {all : Bool} (h : x.turn all = none) (m : Mach) (t k : Nat) : m.cbMerge t x all k = (m, x) := by
  cases k with
  | zero => rfl
  | succ k =>
    unfold Mach.cbMerge
    dsimp only
    split
    · rfl
    · next heq => exact absurd (heq.symm.trans h) (by simp)

theorem Mach.cbMerge_step {x : CbNode} {all : Bool} {k j nbad : Nat} {p : Pkt} (h : x.turn all = some k)
    (hf : x.held.find? (fun r => r.1 == k) = some (j, nbad, p)) (m : Mach) (t fuel : Nat) : m.cbMerge t x all (fuel + 1) =
      (m.cbMerged t nbad p).cbMerge t ({ x with held := x.held.filter (fun r => r.1 ≠ k) }.merge k nbad p) all fuel := by
  rw [Mach.cbMerge]
  split
  · next heq => exact absurd (heq.symm.trans h) (by simp)
  · next k' heq =>
    obtain rfl : k' = k := Option.some.inj (heq.symm.trans h)
    rw [hf]

theorem CbNode.turn_empty {x : CbNode} (h : x.held = []) (all : Bool) : x.turn all = none := by
  have hnone (l : List Nat) : l.filter (fun k => x.held.any (fun r => r.1 == k)) = [] := by
    rw [h]
    exact List.filter_eq_nil_iff.2 (fun _ _ => by simp)
  unfold CbNode.turn
  dsimp only
  rw [hnone]
  split
  · rfl
  · exact Option.filter_eq_none_iff.2 (fun _ _ => by simp)

section
variable {x : CbNode} {k nbad : Nat} {p : Pkt} (hh : x.held = [(k, nbad, p)]) (hm : x.merged = [])
include hh hm

/-- Under DETERMINISTIC a contribution waits for those before it in tree order. -/
theorem CbNode.turn_waits {j : Nat} {r : List Nat} (ha : x.arrival = false) (hk : x.kidList = j :: r) (hj : j ≠ k) : x.turn false = none := by
  unfold CbNode.turn
  dsimp only
  rw [ha, hm, hk, hh]
  refine (if_neg (by decide)).trans (Option.filter_eq_none_iff.2 (fun a h => ?_))
  obtain rfl : j = a := Option.some.inj h
  have hk' : ¬ k = j := Ne.symm hj
  simp [hk']

/-- Under ARRIVAL, or where it is the first in tree order, it is merged at once. -/
theorem CbNode.turn_now (hin : k ∈ x.kidList) (h : x.arrival = true ∨ x.kidList.head? = some k) : x.turn false = some k := by
  have hleft : x.kidList.filter (fun k => !x.merged.contains k) = x.kidList := by
    rw [hm]
    exact List.filter_eq_self.2 (fun _ _ => by simp)
  have hhere (a : Nat) : x.held.any (fun r => r.1 == a) = decide (k = a) := by
    rw [hh, List.any_cons, List.any_nil, Bool.or_false]
    exact beq_eq_decide ..
  unfold CbNode.turn
  dsimp only
  rw [hleft]
  simp only [hhere]
  by_cases ha : x.arrival = true
  · rw [ha, Bool.true_or, if_pos rfl]
    cases hf : (x.kidList.filter (fun a => decide (k = a))) with
    | nil => exact absurd (decide_eq_true rfl) (List.filter_eq_nil_iff.1 hf k hin)
    | cons a l =>
      have ha := (List.mem_filter.1 (hf ▸ List.mem_cons_self : a ∈ x.kidList.filter (fun a => decide (k = a)))).2
      exact congrArg some (of_decide_eq_true ha).symm
  · rw [if_neg (by simpa using ha), h.resolve_left ha]
    exact Option.filter_eq_some_iff.2 ⟨rfl, by simpa using hin⟩
end

/-- A node with its first contribution merged. -/
theorem Mach.cbMerge_first {x : CbNode} {k nbad : Nat} {p : Pkt} (hh : x.held = [(k, nbad, p)]) (hm : x.merged = []) (hin : k ∈ x.kidList)
    (h : x.arrival = true ∨ x.kidList.head? = some k) (m : Mach) (t n : Nat) :
    m.cbMerge t x false (n + 1) = (m.cbMerged t nbad p, { x with held := [] }.merge k nbad p) := by
  have hx : ({ x with held := x.held.filter (fun r => r.1 ≠ k) } : CbNode) = { x with held := [] } := by
    rw [hh]
    simp
  have hf : x.held.find? (fun r => r.1 == k) = some (k, nbad, p) := by
    rw [hh]
    simp
  rw [Mach.cbMerge_step (CbNode.turn_now hh hm hin h) hf, hx]
  exact Mach.cbMerge_rests (CbNode.turn_empty rfl false) _ _ _

/-! ## A round begins -/

/-- An idle node that has taken its first contribution. -/
def CbNode.begun (x : CbNode) (k nbad : Nat) (p : Pkt) (red : Bool) : CbNode :=
  { x.clear .collect with ticks := x.toTicks, held := [(k, nbad, p)], reds := if red then [(k, p.hd)] else [] }

/-- ... and merged it. -/
def CbNode.mergedOne (x : CbNode) (k nbad : Nat) (p : Pkt) (red : Bool) : CbNode := { x.begun k nbad p red with held := [] }.merge k nbad p

section
variable {m : Mach} {t g k nbad : Nat} {x : CbNode} {p : Pkt} {red : Bool} (hst : x.st = .idle)
include hst

theorem Mach.cbTake_idle : m.cbTake t g x k nbad p red =
    if x.kidList.all (fun j => (m.cbMerge t (x.begun k nbad p red) false 8).2.merged.contains j) then
      (m.cbMerge t (x.begun k nbad p red) false 8).1.cbFinish t g (m.cbMerge t (x.begun k nbad p red) false 8).2 false
    else (m.cbMerge t (x.begun k nbad p red) false 8).1.setNode t g (some (m.cbMerge t (x.begun k nbad p red) false 8).2) := by
  unfold Mach.cbTake
  dsimp only
  rw [if_pos hst]
  cases red <;> rfl

theorem Mach.cbTake_merges (hin : k ∈ x.kidList) (h : x.arrival = true ∨ x.kidList.head? = some k) (hmore : ∃ j ∈ x.kidList, j ≠ k) :
    m.cbTake t g x k nbad p red = (m.cbMerged t nbad p).setNode t g (some (x.mergedOne k nbad p red)) := by
  have hall : ¬ x.kidList.all (fun j => (x.mergedOne k nbad p red).merged.contains j) = true := by
    obtain ⟨j, hj, hne⟩ := hmore
    intro hall
    have hc := List.all_eq_true.1 hall j hj
    rw [show (x.mergedOne k nbad p red).merged = [k] from rfl] at hc
    simp at hc
    exact hne hc
  rw [Mach.cbTake_idle hst, Mach.cbMerge_first (x := x.begun k nbad p red) rfl rfl hin h]
  exact if_neg hall

theorem Mach.cbTake_holds {j : Nat} {r : List Nat} (ha : x.arrival = false) (hk : x.kidList = j :: r) (hj : j ≠ k) :
    m.cbTake t g x k nbad p red = m.setNode t g (some (x.begun k nbad p red)) := by
  rw [Mach.cbTake_idle hst, Mach.cbMerge_rests (CbNode.turn_waits (x := x.begun k nbad p red) rfl rfl ha hk hj), hk]
  rfl

theorem Mach.cbTake_only (hk : x.kidList = [k]) :
    m.cbTake t g x k nbad p red = (m.cbMerged t nbad p).cbFinish t g (x.mergedOne k nbad p red) false := by
  rw [Mach.cbTake_idle hst, Mach.cbMerge_first (x := x.begun k nbad p red) rfl rfl (hk ▸ List.mem_singleton.2 rfl) (.inr (congrArg List.head? hk)), hk]
  exact if_pos (by simp [CbNode.merge, CbNode.begun, CbNode.clear])
end

/-! ## A round ends -/

/-- The status that a round ends with (R289). -/
def CbNode.ends (x : CbNode) (cut : Bool) : Nat :=
  if x.status = sPOISON then sPOISON else if cut ∨ x.status = sPARTIAL then sPARTIAL else sOK

/-- The partial result that a node sends to its parent. -/
def Mach.cbPart (m : Mach) (t : Nat) (a : Pkt) (st : Nat) : Pkt := m.cbStamp t { a with hd := hSetStatus a.hd st }

/-- A node whose partial result has gone to its parent. -/
def CbNode.gone (x : CbNode) (p : Pkt) : CbNode :=
  { x with st := .sent, held := [], acc := none, eps := [], kept := some p, ticks := 2 * x.toTicks }

theorem Mach.cbFinish_sends {x : CbNode} {a : Pkt} {cut : Bool} {st : Nat} (ha : x.acc = some a) (hup : x.up < 4) (hst : x.ends cut = st)
    (m : Mach) (t g : Nat) :
    m.cbFinish t g x cut = (m.cbSend t x.up (m.cbPart t a st)).setNode t g (some (x.gone (m.cbPart t a st))) := by
  subst hst
  unfold Mach.cbFinish
  rw [ha]
  exact if_neg (by omega)

theorem CbNode.ends_clean {x : CbNode} {k nbad : Nat} {p : Pkt} {red : Bool} (hn : nbad = 0) (hb : p.bad = false) (hs : hStatus p.hd = 0) :
    (x.mergedOne k nbad p red).ends false = 0 := by
  have h : (x.mergedOne k nbad p red).status = 0 := by
    unfold CbNode.mergedOne CbNode.merge CbNode.begun CbNode.clear
    dsimp only
    rw [hn, hb, hs]
    rfl
  unfold CbNode.ends
  rw [h]
  rfl

/-- A result forwarded to the one child direction of a node without members (R290). -/
theorem Mach.cbForward_one {x : CbNode} {d : Nat} (hd : d < 4) (hk : x.kids = BitVec.ofNat 4 (2 ^ d)) (hr : x.reds = []) (m : Mach) (t : Nat)
    (p : Pkt) : m.cbForward t x p = m.cbSend t d p := by
  have hdirs : ∀ d < 4, [3, 2, 1, 0].filter (fun j => bt (BitVec.ofNat 4 (2 ^ d)) j) = [d] := by decide
  unfold Mach.cbForward
  dsimp only
  rw [hk, hdirs d hd, hr]
  rfl

/-! ## The steps of a combine unit -/

def Mach.redArrives (m : Mach) (t : Nat) : Mach :=
  if !m.domLive t then m
  else match m.cbNext t (fun inp h => decide (inp = 4 ∨ inp = 5) && hOpc h == opRED) with
    | (none, _) => m
    | (some (_, nbad, p), m) =>
      let h := p.hd
      let g := hGroup h
      let reject (m : Mach) : Mach :=
        ((m.cbEvt t 2).cbCount t 16 1).cbSend t (niuPort (hSrc h)) (m.cbStamp t (resultOf h sPARTIAL p))
      match m.node t g with
      | none => reject m
      | some x => if x.rejects h then reject m else m.cbTake t g x (hSrc h % 4 + 2) nbad p true

theorem exec_combineRedArrival {s : State} (hs : s.m.test.scan = false) (t : Tile) :
    exec (.combineRedArrival t) s = .next { s with m := s.m.redArrives t } := by
  change execCombineRedArrival t s = _
  rw [execCombineRedArrival, State.on_eq hs]
  rfl

def Mach.partialArrives (m : Mach) (t : Nat) : Mach :=
  if !m.domLive t then m
  else match m.cbNext t (fun inp h => decide (inp < 4) && hOpc h == opRED) with
    | (none, _) => m
    | (some (inp, nbad, p), m) =>
      let g := hGroup p.hd
      match m.node t g with
      | none => m.occur 2 0 4 t 0 1
      | some x =>
        let k := kidOfDir inp
        if x.st = .sent ∨ x.st = .failed ∨ x.kidList.contains k = false ∨ x.has k = true then m.cbLate t
        else m.cbTake t g x k nbad p false

theorem exec_combinePartialArrival {s : State} (hs : s.m.test.scan = false) (t : Tile) :
    exec (.combinePartialArrival t) s = .next { s with m := s.m.partialArrives t } := by
  change execCombinePartialArrival t s = _
  rw [execCombinePartialArrival, State.on_eq hs]
  rfl

def Mach.resultArrives (m : Mach) (t : Nat) : Mach :=
  if !m.domLive t then m
  else match m.cbNext t (fun _ h => hOpc h == rspOf opRED) with
    | (none, _) => m
    | (some (_, _, p), m) =>
      let g := hGroup p.hd
      match m.node t g with
      | none => m.occur 2 0 4 t 0 1
      | some x =>
        if x.st = .failed then m.cbLate t
        else (m.cbForward t x p).cbEnd t g x (decide (x.st = .sent ∧ hStatus p.hd = sOK))

theorem exec_combineResultArrival {s : State} (hs : s.m.test.scan = false) (t : Tile) :
    exec (.combineResultArrival t) s = .next { s with m := s.m.resultArrives t } := by
  change execCombineResultArrival t s = _
  rw [execCombineResultArrival, State.on_eq hs]
  rfl

/-- The timeout of a round marked and counted (R291). -/
def Mach.timedOut (m : Mach) (t : Nat) : Mach := (m.cbEvt t 0).cbCount t 0 1

def Mach.collectTimeout (m : Mach) (t g : Nat) : Mach :=
  match m.node t g with
  | some x =>
    if m.domLive t = true ∧ x.st = .collect ∧ x.ticks = 0 then
      ((m.timedOut t).cbMerge t x true 8).1.cbFinish t g ((m.timedOut t).cbMerge t x true 8).2 true
    else m
  | none => m

theorem exec_collectTimeout {s : State} (hs : s.m.test.scan = false) (t : Tile) (g : Group) :
    exec (.collectTimeout t g) s = .next { s with m := s.m.collectTimeout t g } := by
  change execCollectTimeout t g s = _
  rw [execCollectTimeout, State.on_eq hs]
  rfl

def Mach.sentTimeout (m : Mach) (t g : Nat) : Mach :=
  match m.node t g with
  | some x =>
    if m.domLive t = true ∧ x.st = .sent ∧ x.ticks = 0 then
      match x.kept with
      | none => (m.timedOut t).cbEnd t g x false
      | some p =>
        let st := if hStatus p.hd = sPOISON then sPOISON else sPARTIAL
        ((m.timedOut t).cbForward t x ((m.timedOut t).cbStamp t (resultOf p.hd st p))).cbEnd t g x false
    else m
  | none => m

theorem exec_sentTimeout {s : State} (hs : s.m.test.scan = false) (t : Tile) (g : Group) :
    exec (.sentTimeout t g) s = .next { s with m := s.m.sentTimeout t g } := by
  change execSentTimeout t g s = _
  rw [execSentTimeout, State.on_eq hs]
  rfl

/-! ## What each step comes to -/

theorem ctrAddr_aTile {t o : Nat} (ht : t < 128) (ho : o < 0x1000) : ctrAddr (aTile t o) = false := by
  unfold ctrAddr aTile
  simp
  omega

section
variable {m : Mach} {t g inp nbad : Nat} {p : Pkt} (hl : m.domLive t = true) (hin : (m.cbUnit t).inq = [(inp, nbad, p)]) (hg : hGroup p.hd = g)
include hl hin hg

section
variable (ho : hOpc p.hd = opRED) (hi : inp = 4 ∨ inp = 5)
include ho hi

theorem Mach.redArrives_eq : m.redArrives t =
    let reject (m : Mach) : Mach :=
      ((m.cbEvt t 2).cbCount t 16 1).cbSend t (niuPort (hSrc p.hd)) (m.cbStamp t (resultOf p.hd sPARTIAL p))
    match m.node t g with
    | none => reject (m.cbTaken t)
    | some x => if x.rejects p.hd then reject (m.cbTaken t) else (m.cbTaken t).cbTake t g x (hSrc p.hd % 4 + 2) nbad p true := by
  subst hg
  unfold Mach.redArrives
  rw [Mach.cbNext_front hin (by rw [ho]; simpa using hi), hl]
  rfl

theorem Mach.redArrives_rejects {x : CbNode} (h : m.node t g = none ∨ (m.node t g = some x ∧ x.rejects p.hd = true)) :
    m.redArrives t = (((m.cbTaken t).cbEvt t 2).cbCount t 16 1).cbSend t (niuPort (hSrc p.hd)) (m.cbStamp t (resultOf p.hd 13 p)) := by
  rw [Mach.redArrives_eq hl hin hg ho hi]
  rcases h with h | ⟨h, hx⟩
  · rw [h]
    rfl
  · rw [h]
    exact if_pos hx

theorem Mach.redArrives_takes {x : CbNode} (h : m.node t g = some x) (hx : x.rejects p.hd = false) :
    m.redArrives t = (m.cbTaken t).cbTake t g x (hSrc p.hd % 4 + 2) nbad p true := by
  rw [Mach.redArrives_eq hl hin hg ho hi, h]
  exact if_neg (by rw [hx]; decide)
end

section
variable (ho : hOpc p.hd = opRED) (hi : inp < 4) {x : CbNode} (hx : m.node t g = some x)
include ho hi hx

theorem Mach.partialArrives_eq : m.partialArrives t =
    if x.st = .sent ∨ x.st = .failed ∨ x.kidList.contains (kidOfDir inp) = false ∨ x.has (kidOfDir inp) = true then (m.cbTaken t).cbLate t
    else (m.cbTaken t).cbTake t g x (kidOfDir inp) nbad p false := by
  subst hg
  unfold Mach.partialArrives
  rw [Mach.cbNext_front hin (by rw [ho]; simpa using hi), hl]
  dsimp only
  rw [if_neg (by decide), show (m.cbTaken t).node t (hGroup p.hd) = some x from hx]
end

section
variable (ho : hOpc p.hd = rspOf opRED) {x : CbNode} (hx : m.node t g = some x)
include ho hx

theorem Mach.resultArrives_eq : m.resultArrives t =
    if x.st = .failed then (m.cbTaken t).cbLate t
    else ((m.cbTaken t).cbForward t x p).cbEnd t g x (decide (x.st = .sent ∧ hStatus p.hd = sOK)) := by
  subst hg
  unfold Mach.resultArrives
  rw [Mach.cbNext_front hin (by rw [ho]; exact beq_self_eq_true _), hl]
  dsimp only
  rw [if_neg (by decide), show (m.cbTaken t).node t (hGroup p.hd) = some x from hx]
end
end

/-- A change of a unit counts by its value at the unit alone. -/
theorem Mach.modCbu_congr {m : Mach} {t : Nat} {f g : CbUnit → CbUnit} (h : f (m.cbUnit t) = g (m.cbUnit t)) : m.modCbu t f = m.modCbu t g := by
  unfold Mach.modCbu Tab.upd
  rw [show f (Tab.get dCbu m.cbu t) = g (Tab.get dCbu m.cbu t) from h]

/-- A packet that a node takes no more (R288). -/
theorem Mach.cbLate_taken {m : Mach} {t inp nbad : Nat} {p : Pkt} (h : (m.cbUnit t).inq = [(inp, nbad, p)]) : (m.cbTaken t).cbLate t =
    ((m.modCbu t (fun u => { u with inq := [] })).orReg (aTile t 0x208) 8).addFld (aTile t 0x210) 32 16 1 := by
  have htaken : m.cbTaken t = m.modCbu t (fun u => { u with inq := [] }) :=
    Mach.modCbu_congr (congrArg (fun l => { m.cbUnit t with inq := dropAt l 0 }) h)
  rw [htaken]
  rfl

theorem CbNode.member_of_taken {x : CbNode} {h : FlitBits} (hx : x.rejects h = false) : hSrc h % 4 + 2 ∈ x.kidList := by
  have hlt : hSrc h % 4 < 4 := Nat.mod_lt _ (by decide)
  unfold CbNode.rejects at hx
  dsimp only at hx
  simp only [Bool.or_eq_false_iff] at hx
  obtain ⟨⟨⟨hb, -⟩, -⟩, -⟩ := hx
  unfold CbNode.kidList
  simp only [List.mem_append, List.mem_map, List.mem_filter, List.mem_range]
  exact .inl (.inl (.inr ⟨_, ⟨hlt, by simpa using hb⟩, rfl⟩))

section
variable {m : Mach} {t : Nat} (hu : (m.cbUnit t).outq = [])
include hu

/-- What stands at the combine unit once a node has sent its partial result on. -/
theorem Mach.outq_cbSend (out : Nat) (p : Pkt) : ((m.cbSend t out p).cbUnit t).outq = [⟨out, p.hd, p.flits, 0, true⟩] := by
  rw [Mach.cbUnit_cbSend hu]

theorem Mach.inq_cbSend (out : Nat) (p : Pkt) : ((m.cbSend t out p).cbUnit t).inq = (m.cbUnit t).inq := by
  rw [Mach.cbUnit_cbSend hu]
end

section
variable {m : Mach} {t inp nbad : Nat} {p : Pkt} (hin : (m.cbUnit t).inq = [(inp, nbad, p)]) (ho : (m.cbUnit t).outq = [])
include hin

theorem Mach.inq_cbTaken : ((m.cbTaken t).cbUnit t).inq = [] := by rw [Mach.cbUnit_cbTaken hin]

include ho

theorem Mach.outq_cbTaken : ((m.cbTaken t).cbUnit t).outq = [] := by rw [Mach.cbUnit_cbTaken hin, ho]
end

theorem Mach.cbUnit_cbMerged (m : Mach) (t nbad : Nat) (p : Pkt) (u : Nat) : (m.cbMerged t nbad p).cbUnit u = m.cbUnit u :=
  Mach.cbMerged_keeps (π := fun m => m.cbUnit u) (fun _ _ _ => rfl) (fun _ _ => rfl) m t nbad p

theorem Pkt.clean {p : Pkt} (h : p.bad = false) : ({ p with bad := false } : Pkt) = p := by
  obtain ⟨hd, data, bad⟩ := p
  exact h ▸ rfl

/-- A node that ends its round after a result with OK is IDLE. -/
theorem Mach.cbEnd_ok (m : Mach) (t g : Nat) (x : CbNode) : m.cbEnd t g x true = m.setNode t g (some (x.clear .idle)) := rfl

theorem Mach.cbEnd_failed_keeps {γ : Type} {π : Mach → γ} (hreg : ∀ m a w, π (m.setReg a w) = π m) (heng : ∀ m e f, π (m.modEng e f) = π m)
    (m : Mach) (t g : Nat) (x : CbNode) : π (m.cbEnd t g x false) = π (m.setNode t g (some (x.clear .failed))) := by
  have h : π ((m.setNode t g (some (x.clear .failed))).cbEvt t 1) = π (m.setNode t g (some (x.clear .failed))) := hreg _ _ _
  exact Mach.postEvt_of (P := fun z => π z = π (m.setNode t g (some (x.clear .failed)))) (fun _ _ _ hz => (hreg _ _ _).trans hz)
    (fun _ _ _ hz => (heng _ _ _).trans hz) _ _ _ _ _ h

/-- CB_FAIL is marked (R297). -/
theorem Mach.bt_cbEnd (m : Mach) {t : Nat} (ht : t < 128) (g : Nat) (x : CbNode) : bt ((m.cbEnd t g x false).reg (aTile t 0x208)) 1 = true := by
  have h : bt (((m.setNode t g (some (x.clear .failed))).cbEvt t 1).reg (aTile t 0x208)) 1 = true := by
    unfold Mach.cbEvt
    rw [bt_orReg _ _ (by decide), decide_eq_true rfl, Bool.or_true]
  have hne (e o : Nat) (he : e < 5) (ho : o < 0x1000) : aTile t 0x208 ≠ aEng e o := by unfold aTile aEng; omega
  have hq : qeOf (quadOf t) < 5 := Nat.succ_lt_succ (quadOf_lt t)
  change bt ((Mach.postEvt _ (qeOf (quadOf t)) 4 0 t g).reg (aTile t 0x208)) 1 = true
  unfold Mach.postEvt
  dsimp only
  split
  · exact (congrArg (fun w => bt w 1) (Mach.reg_setReg_ne _ _ (hne _ _ hq (by decide)))).trans h
  split
  · exact h
  · exact (congrArg (fun w => bt w 1) (Mach.reg_setReg_ne _ _ (hne _ _ hq (by decide)))).trans h

/-- Settles O38: what a combine node does with contributions, results and timeouts. -/
theorem combineRounds : Obligations.CombineRounds := by
  unfold Obligations.CombineRounds
  refine ⟨fun s t g x p inp nbad d => ?_, fun s t g x a d => ?_⟩
  · intro u h k sent passed hs hl hin hout hg
    have hred := exec_combineRedArrival hs t
    have hpart := exec_combinePartialArrival hs t
    have hres := exec_combineResultArrival hs t
    have hout' := Mach.outq_cbTaken hin hout
    have hin' := Mach.inq_cbTaken hin
    refine ⟨fun ho hi hx => ⟨_, hred, ?_⟩, fun ho hi hx hr hst ha hmore => ⟨_, x.mergedOne k nbad p true, hred, ?_⟩,
      fun ho hi hx hr hst ha hk => ⟨_, x.begun k nbad p true, hred, ?_⟩, fun ho hi hx hst hk hhas hup hn hb hstat =>
        ⟨_, (x.mergedOne (kidOfDir inp) nbad p false).gone passed, hpart, ?_⟩,
      fun ho hx hst hstat hd hk hr => ⟨_, hres, ?_⟩, fun ho hx hst => ⟨_, hres, rfl, rfl, ?_⟩, fun ho hi hx hst => ⟨_, hpart, rfl, rfl, ?_⟩⟩
    · dsimp only
      rw [Mach.redArrives_rejects hl hin hg ho hi hx]
      obtain ⟨z, hz⟩ : ∃ z, z = ((s.m.cbTaken t).cbEvt t 2).cbCount t 16 1 := ⟨_, rfl⟩
      have hzu : z.cbUnit t = (s.m.cbTaken t).cbUnit t := by rw [hz]; rfl
      have hzn : z.node t g = s.m.node t g := by rw [hz]; rfl
      have hzr : bt (z.reg (aTile t 0x208)) 2 = true := by
        rw [hz, Mach.cbCount, Mach.addFld, Mach.setFld, Mach.reg_setReg_ne _ _ (by unfold aTile; omega), Mach.cbEvt, bt_orReg _ _ (by decide),
          decide_eq_true rfl, Bool.or_true]
      rw [← hz]
      have hzo : (z.cbUnit t).outq = [] := by rw [hzu]; exact hout'
      refine ⟨⟨Mach.outq_cbSend hzo _ _, ?_⟩, ?_, ?_⟩
      · rw [Mach.inq_cbSend hzo, hzu]
        exact hin'
      · exact (Mach.cbSend_keeps (π := fun m => m.node t g) (fun _ _ _ => rfl) (fun _ _ => rfl) (fun _ _ _ => rfl) _ _ _ _).trans hzn
      · rw [Mach.reg_cbSend t.isLt _ _ _ (ctrAddr_aTile t.isLt (by decide))]
        exact hzr
    · dsimp only
      rw [Mach.redArrives_takes hl hin hg ho hi hx hr, Mach.cbTake_merges hst (CbNode.member_of_taken hr) (.inl ha) hmore, Mach.node_setNode]
      exact ⟨rfl, rfl, rfl, rfl, rfl, rfl, (congrArg CbUnit.inq (Mach.cbUnit_cbMerged _ _ _ _ _)).trans hin'⟩
    · obtain ⟨j, r, hk, hj⟩ := hk
      dsimp only
      rw [Mach.redArrives_takes hl hin hg ho hi hx hr, Mach.cbTake_holds hst ha hk hj, Mach.node_setNode]
      exact ⟨rfl, rfl, rfl, rfl, rfl, rfl⟩
    · have hone := Mach.cbTake_only (m := s.m.cbTaken t) (t := t) (g := g) (nbad := nbad) (p := p) (red := false) hst hk
      have hacc : (x.mergedOne (kidOfDir inp) nbad p false).acc = some p := congrArg some (Pkt.clean hb)
      have hmu : (((s.m.cbTaken t).cbMerged t nbad p).cbUnit t) = (s.m.cbTaken t).cbUnit t := Mach.cbUnit_cbMerged _ _ _ _ _
      have hp : ((s.m.cbTaken t).cbMerged t nbad p).cbPart t p 0 = passed := Mach.cbStamp_congr
        (Mach.cbMerged_keeps (π := fun m => m.rt) (fun _ _ _ => rfl) (fun _ _ => rfl) (s.m.cbTaken t) t nbad p) _ _
      have hno : ¬ (x.st = .sent ∨ x.st = .failed ∨ x.kidList.contains (kidOfDir inp) = false ∨ x.has (kidOfDir inp) = true) := by
        rw [hst, hk, hhas]
        simp
      dsimp only
      rw [Mach.partialArrives_eq hl hin hg ho hi hx, if_neg hno, hone,
        Mach.cbFinish_sends hacc hup (CbNode.ends_clean hn hb hstat), hp, Mach.node_setNode]
      exact ⟨⟨Mach.outq_cbSend (by rw [hmu]; exact hout') _ _, (Mach.inq_cbSend (by rw [hmu]; exact hout') _ _).trans (by rw [hmu]; exact hin')⟩,
        rfl, rfl, rfl, rfl⟩
    · dsimp only
      rw [Mach.resultArrives_eq hl hin hg ho hx, if_neg (by rw [hst]; decide), Mach.cbForward_one hd hk hr, decide_eq_true ⟨hst, hstat⟩,
        Mach.cbEnd_ok, Mach.node_setNode]
      exact ⟨⟨Mach.outq_cbSend hout' _ _, (Mach.inq_cbSend hout' _ _).trans hin'⟩, rfl⟩
    · dsimp only
      rw [Mach.resultArrives_eq hl hin hg ho hx, if_pos hst, Mach.cbLate_taken hin]
      exact .refl _
    · dsimp only
      rw [Mach.partialArrives_eq hl hin hg ho hi hx, if_pos (hst.imp_right .inl), Mach.cbLate_taken hin]
      exact .refl _
  · intro part sent hs hl hx hout
    have hcol := exec_collectTimeout hs t g
    have hsnt := exec_sentTimeout hs t g
    obtain ⟨z, hz⟩ : ∃ z, z = s.m.timedOut t := ⟨_, rfl⟩
    have hzo : (z.cbUnit t).outq = [] := by rw [hz]; exact hout
    have hzt (q : Pkt) : z.cbStamp t q = s.m.cbStamp t q := Mach.cbStamp_congr (by rw [hz]; rfl) _ _
    have hzc : z.fld (aTile t 0x210) 0 16 = satAdd 16 (s.m.fld (aTile t 0x210) 0 16) 1 := by
      rw [hz, Mach.timedOut, Mach.cbCount, Mach.fld_addFld _ _ (by decide), satAdd]
      exact congrArg (fun w => min (bf w 0 16 + 1) _) (Mach.reg_setReg_ne _ _ (by unfold aTile; omega))
    refine ⟨fun hst ht hh ha hs11 hup => ⟨_, x.gone part, hcol, ?_⟩, fun hst ht hk hs11 hd hkids hr => ⟨_, hsnt, ?_⟩,
      fun h => ⟨_, hcol, rfl, rfl, ?_⟩, fun h => ⟨_, hsnt, rfl, rfl, ?_⟩⟩
    · have hends : x.ends true = 13 := (if_neg hs11).trans (if_pos (.inl rfl))
      have heq : s.m.collectTimeout t g = (z.cbSend t x.up part).setNode t g (some (x.gone part)) := by
        unfold Mach.collectTimeout
        rw [hx]
        dsimp only
        rw [if_pos ⟨hl, hst, ht⟩, ← hz, Mach.cbMerge_rests (CbNode.turn_empty hh true), Mach.cbFinish_sends ha hup hends, Mach.cbPart, hzt]
      dsimp only
      rw [heq, Mach.node_setNode]
      refine ⟨Mach.outq_cbSend hzo _ _, rfl, rfl, rfl, rfl, ?_⟩
      exact (congrArg (fun w => bf w 0 16) (Mach.reg_cbSend t.isLt z x.up part (ctrAddr_aTile t.isLt (by decide)))).trans hzc
    · have heq : s.m.sentTimeout t g = (z.cbSend t d (s.m.cbStamp t (resultOf a.hd 13 a))).cbEnd t g x false := by
        unfold Mach.sentTimeout
        rw [hx]
        dsimp only
        rw [if_pos ⟨hl, hst, ht⟩, hk]
        dsimp only
        rw [← hz, if_neg (show ¬ hStatus a.hd = sPOISON from hs11), hzt, Mach.cbForward_one hd hkids hr]
        rfl
      dsimp only
      rw [heq]
      refine ⟨?_, ?_, Mach.bt_cbEnd _ t.isLt _ _⟩
      · exact (congrArg CbUnit.outq (Mach.cbEnd_failed_keeps (π := fun m => m.cbUnit t) (fun _ _ _ => rfl) (fun _ _ _ => rfl) _ _ _ _)).trans
          (Mach.outq_cbSend hzo _ _)
      · exact (Mach.cbEnd_failed_keeps (π := fun m => m.node t g) (fun _ _ _ => rfl) (fun _ _ _ => rfl) _ _ _ _).trans (Mach.node_setNode _ _ _ _)
    · dsimp only
      unfold Mach.collectTimeout
      rw [hx]
      dsimp only
      rw [if_neg (fun hh => h.elim (fun ht => ht hh.2.2) (fun hst => hst hh.2.1))]
      exact .refl _
    · dsimp only
      unfold Mach.sentTimeout
      rw [hx]
      dsimp only
      rw [if_neg (fun hh => h.elim (fun ht => ht hh.2.2) (fun hst => hst hh.2.1))]
      exact .refl _

end Sys2Proof.Machine

/-! PROOFS. Frames and records of the twin link (O46). -/

namespace Sys2Proof.Machine

/-! ## Frames (R407) -/

/-- What a twin unit has received and asks for, and its map. -/
structure TwinRecv where
  rseq  : Nat
  nak   : Bool
  map   : List (Nat × Nat × Bool)
  rx    : List TwRx
  rxq   : List (BitVec 128)
  hbIn  : Option (Nat × BitVec 512)

def Twin.recv (x : Twin) : TwinRecv := ⟨x.rseq, x.nakOut, x.map, x.rx, x.rxq, x.hbIn⟩

/-- The acknowledgement, the credits and the NAK that a frame brings. -/
def Mach.frameAcked (m : Mach) (ctl : BitVec 30) : Mach :=
  let m := m.modTwin (fun x => { x.acked (fAck ctl) with crd := fCrd ctl })
  if fNak ctl && !m.twin.unack.isEmpty && m.twin.again.isEmpty then (m.modTwin Twin.resend).addFld aTwCnt 48 16 1 else m

/-- A unit with a frame next in order taken. -/
def Twin.takes (x : Twin) (kind : Nat) (data : BitVec 512) : Twin :=
  let s := x.rseq
  let x := { x with rseq := (s + 1) % 256, nakOut := false }
  if kind = 2 then { x with hbIn := some (s, data) } else { x with rx := x.rx ++ [⟨s, kind, data⟩] }

/-- The frame itself: taken, discarded, or discarded and asked for again. -/
def Mach.frameTaken (m : Mach) (data : BitVec 512) (ctl : BitVec 30) : Mach :=
  let kind := fKind ctl
  if kind = 0 ∨ 5 ≤ kind then m
  else if fSeq ctl ≠ m.twin.rseq then
    if (fSeq ctl + 256 - m.twin.rseq) % 256 < 128 then m.modTwin (fun x => { x with nakOut := true }) else m
  else if 32 ≤ m.twin.rx.length + m.twin.hbIn.toList.length then m.modTwin (fun x => { x with nakOut := true })
  else m.modTwin (fun x => x.takes kind data)

def Mach.frameIn (m : Mach) (data : BitVec 512) (ctl : BitVec 30) (crc : BitVec 32) : Mach :=
  if !m.pwr.aonUp then m
  else if twinCrc data ctl ≠ crc then
    if m.twin.trained then (m.orReg aTwEvt 4).modTwin (fun x => { x with nakOut := true }) else m
  else if !m.twin.trained || !fUp ctl then m.modTwin (fun x => { x with live := true })
  else (((m.modTwin (fun x => { x with live := true })).frameAcked ctl).frameTaken data ctl).advanceRx.attachCheck

theorem exec_twinFrameReceive {s : State} (hs : s.m.test.scan = false) (data : BitVec 512) (ctl : BitVec 30) (crc : BitVec 32) :
    exec (.twinFrameReceive data ctl crc) s = .next { s with m := s.m.frameIn data ctl crc } := by
  change execTwinFrameReceive data ctl crc s = _
  rw [execTwinFrameReceive, State.on_eq hs]
  rfl

section
variable {γ : Type} {π : Mach → γ} (hreg : ∀ m a w, π (m.setReg a w) = π m)
  (htw : ∀ m f, (∀ x : Twin, (f x).recv = x.recv) → π (m.modTwin f) = π m)
include hreg htw

theorem Mach.frameAcked_keeps (m : Mach) (ctl : BitVec 30) : π (m.frameAcked ctl) = π m := by
  have h : π (m.modTwin (fun x => { x.acked (fAck ctl) with crd := fCrd ctl })) = π m := htw _ _ (fun _ => rfl)
  unfold Mach.frameAcked
  dsimp only
  split
  · exact (hreg _ _ _).trans ((htw _ Twin.resend (fun _ => rfl)).trans h)
  · exact h

theorem Mach.attachCheck_keeps (heng : ∀ m e f, π (m.modEng e f) = π m) (hengs : ∀ (m : Mach) l, π { m with engs := l } = π m) (m : Mach) :
    π m.attachCheck = π m := by
  have hstate : π (m.twinState .attached 0 0) = π m := by
    unfold Mach.twinState
    split
    · rfl
    · exact (Mach.postEvt_leaves _ _ _ _ _ _ (fun m f => heng m _ f) (fun m a w _ => hreg m a w)).trans ((hreg _ _ _).trans (htw _ _ (fun _ => rfl)))
  have hctrl (m : Mach) : π (m.sendCtrl 7 0 0) = π m := htw m (fun x => { x with outq := x.outq ++ [(4, Config.ctrlFrame 7 0 0)] }) (fun _ => rfl)
  have hend (m : Mach) : π (m.endTwinOp xOK) = π m :=
    (htw _ (fun x => { x with op := 0, opSelf := false, left := [], flushq := [], flushed := [] }) (fun _ => rfl)).trans
      (Mach.finish_keeps hengs _ _ _)
  unfold Mach.attachCheck
  dsimp only
  split
  · exact (hend _).trans ((hctrl _).trans hstate)
  · rfl
end

theorem Mach.advanceRx_none {m : Mach} (h : m.twin.rxq ≠ [] ∨ m.twin.rx = []) : m.advanceRx = m := by
  unfold Mach.advanceRx Mach.twinAdvance
  dsimp only
  rcases h with h | h
  · exact if_pos (by simpa using h)
  · rw [h]
    exact ite_self _

/-- The records of a REC frame are next to be applied. -/
theorem Mach.advanceRx_records {m : Mach} {f : TwRx} (hq : m.twin.rxq = []) (hx : m.twin.rx = [f]) (hk : f.kind = 1) (hne : frameRecs f.data ≠ []) :
    m.advanceRx = (m.modTwin (fun x => { x with rx := [] })).modTwin (fun x => { x with rxq := frameRecs f.data, taken := some f.seq }) := by
  unfold Mach.advanceRx Mach.twinAdvance
  dsimp only
  rw [hq, hx]
  dsimp only
  rw [if_neg (by decide), if_neg (by rw [hk]; decide), if_pos hk]
  exact Mach.advanceRx_none (m := (m.modTwin (fun x => { x with rx := [] })).modTwin (fun x => { x with rxq := frameRecs f.data, taken := some f.seq }))
    (.inl hne)

section
variable {m : Mach} {data : BitVec 512} {ctl : BitVec 30} {crc : BitVec 32} (hup : m.pwr.aonUp = true)
include hup

theorem Mach.frameIn_bad (hc : twinCrc data ctl ≠ crc) : m.frameIn data ctl crc =
    if m.twin.trained then (m.orReg aTwEvt 4).modTwin (fun x => { x with nakOut := true }) else m := by
  unfold Mach.frameIn
  rw [hup]
  exact (if_neg (by decide)).trans (if_pos hc)

theorem Mach.frameIn_idle (hc : twinCrc data ctl = crc) (h : m.twin.trained = false ∨ fUp ctl = false) :
    m.frameIn data ctl crc = m.modTwin (fun x => { x with live := true }) := by
  unfold Mach.frameIn
  rw [hup]
  refine (if_neg (by decide)).trans ((if_neg (not_not_intro hc)).trans (if_pos ?_))
  rcases h with h | h
  · rw [h]; rfl
  · rw [h, Bool.not_false, Bool.or_true]

variable (ht : m.twin.trained = true) (hc : twinCrc data ctl = crc) (hu : fUp ctl = true)
include ht hc hu

/-- A frame of a trained link, its acknowledgement read. -/
theorem Mach.frameIn_read : ∃ z : Mach, z.twin.recv = m.twin.recv ∧ (∀ k, z.niu k = m.niu k) ∧
    m.frameIn data ctl crc = (z.frameTaken data ctl).advanceRx.attachCheck := by
  refine ⟨(m.modTwin (fun x => { x with live := true })).frameAcked ctl, ?_, fun k => ?_, ?_⟩
  · exact Mach.frameAcked_keeps (π := fun m => m.twin.recv) (fun _ _ _ => rfl) (fun m f h => h m.twin) _ _
  · exact Mach.frameAcked_keeps (π := fun m => m.niu k) (fun _ _ _ => rfl) (fun _ _ _ => rfl) _ _
  · unfold Mach.frameIn
    rw [hup, ht, hu]
    exact (if_neg (by decide)).trans ((if_neg (not_not_intro hc)).trans (if_neg (by decide)))
end

theorem Mach.recv_attachCheck (m : Mach) : m.attachCheck.twin.recv = m.twin.recv :=
  Mach.attachCheck_keeps (π := fun m => m.twin.recv) (fun _ _ _ => rfl) (fun m _ h => h m.twin) (fun _ _ _ => rfl) (fun _ _ => rfl) m

theorem Mach.niu_attachCheck (m : Mach) (k : Nat) : m.attachCheck.niu k = m.niu k :=
  Mach.attachCheck_keeps (π := fun m => m.niu k) (fun _ _ _ => rfl) (fun _ _ _ => rfl) (fun _ _ _ => rfl) (fun _ _ => rfl) m

section
variable {z : Mach} {data : BitVec 512} {ctl : BitVec 30} (hx : z.twin.rx = [])
include hx

/-- A frame next in order is taken. -/
theorem Mach.frameTaken_next (hk : 1 ≤ fKind ctl) (hk' : fKind ctl < 5) (hs : fSeq ctl = z.twin.rseq) :
    z.frameTaken data ctl = z.modTwin (fun x => x.takes (fKind ctl) data) := by
  have hlen : ¬ 32 ≤ z.twin.rx.length + z.twin.hbIn.toList.length := by
    rw [hx]
    cases z.twin.hbIn <;> simp
  unfold Mach.frameTaken
  dsimp only
  rw [if_neg (by omega), if_neg (not_not_intro hs), if_neg hlen]

omit hx in
/-- A later one is discarded and asked for again. -/
theorem Mach.frameTaken_other (hk : 1 ≤ fKind ctl) (hk' : fKind ctl < 5) (hs : fSeq ctl ≠ z.twin.rseq) : z.frameTaken data ctl =
    if (fSeq ctl + 256 - z.twin.rseq) % 256 < 128 then z.modTwin (fun x => { x with nakOut := true }) else z := by
  unfold Mach.frameTaken
  dsimp only
  rw [if_neg (by omega), if_pos hs]
end

theorem recv_fields {x y : Twin} (h : y.recv = x.recv) (hx : x.rx = []) : y.rseq = x.rseq ∧ y.rx = [] ∧ y.rxq = x.rxq :=
  ⟨congrArg TwinRecv.rseq h, (congrArg TwinRecv.rx h).trans hx, congrArg TwinRecv.rxq h⟩

theorem takes_records {x : Twin} {kind : Nat} {data : BitVec 512} (hk : kind = 1) : x.takes kind data =
    { x with rseq := (x.rseq + 1) % 256, nakOut := false, rx := x.rx ++ [⟨x.rseq, kind, data⟩] } := by
  unfold Twin.takes
  dsimp only
  rw [if_neg (by omega)]

theorem takes_heartbeat {x : Twin} {data : BitVec 512} : x.takes 2 data =
    { x with rseq := (x.rseq + 1) % 256, nakOut := false, hbIn := some (x.rseq, data) } := rfl

section
variable {m : Mach} {data : BitVec 512} {ctl : BitVec 30} {crc : BitVec 32} (hup : m.pwr.aonUp = true) (ht : m.twin.trained = true)
  (hc : twinCrc data ctl = crc) (hu : fUp ctl = true) (hrx : m.twin.rx = [])
include hup ht hc hu hrx

/-- A REC frame in order: its records wait to be applied. -/
theorem Mach.frameIn_records (hrxq : m.twin.rxq = []) (hs : fSeq ctl = m.twin.rseq) (hk : fKind ctl = 1) (hne : frameRecs data ≠ []) :
    (m.frameIn data ctl crc).twin.recv = ⟨(m.twin.rseq + 1) % 256, false, m.twin.map, [], frameRecs data, m.twin.hbIn⟩ ∧
    ∀ k, (m.frameIn data ctl crc).niu k = m.niu k := by
  obtain ⟨z, hz, hn, heq⟩ := Mach.frameIn_read hup ht hc hu
  obtain ⟨hrs, hrx', hq'⟩ := recv_fields hz hrx
  have hadv : (z.modTwin (fun x => x.takes (fKind ctl) data)).advanceRx = _ :=
    Mach.advanceRx_records (f := ⟨z.twin.rseq, fKind ctl, data⟩) ((congrArg Twin.rxq (takes_records hk)).trans (hq'.trans hrxq))
      ((congrArg Twin.rx (takes_records hk)).trans (congrArg (· ++ _) hrx')) hk hne
  rw [heq, Mach.recv_attachCheck, Mach.frameTaken_next hrx' hk.ge (by omega) (hs.trans hrs.symm), hadv]
  refine ⟨?_, fun k => (Mach.niu_attachCheck _ k).trans (hn k)⟩
  have htk := takes_records (x := z.twin) (data := data) hk
  have hmap : z.twin.map = m.twin.map := congrArg TwinRecv.map hz
  have hhb : z.twin.hbIn = m.twin.hbIn := congrArg TwinRecv.hbIn hz
  change TwinRecv.mk (z.twin.takes (fKind ctl) data).rseq (z.twin.takes (fKind ctl) data).nakOut (z.twin.takes (fKind ctl) data).map [] (frameRecs data)
    (z.twin.takes (fKind ctl) data).hbIn = _
  rw [htk]
  dsimp only
  rw [hrs, hmap, hhb]

/-- A HEARTBEAT frame in order waits for its row. -/
theorem Mach.frameIn_heartbeat (hs : fSeq ctl = m.twin.rseq) (hk : fKind ctl = 2) :
    (m.frameIn data ctl crc).twin.recv = ⟨(m.twin.rseq + 1) % 256, false, m.twin.map, m.twin.rx, m.twin.rxq, some (m.twin.rseq, data)⟩ := by
  obtain ⟨z, hz, -, heq⟩ := Mach.frameIn_read hup ht hc hu
  obtain ⟨hrs, hrx', hq'⟩ := recv_fields hz hrx
  have hmap : z.twin.map = m.twin.map := congrArg TwinRecv.map hz
  rw [heq, Mach.recv_attachCheck, Mach.frameTaken_next hrx' (by omega) (by omega) (hs.trans hrs.symm), hk,
    Mach.advanceRx_none (m := z.modTwin (fun x => x.takes 2 data)) (.inr hrx')]
  change TwinRecv.mk ((z.twin.rseq + 1) % 256) false z.twin.map z.twin.rx z.twin.rxq (some (z.twin.rseq, data)) = _
  rw [hrs, hmap, hrx', hrx, hq']

/-- A frame out of order is discarded, and asked for again where it is a later one. -/
theorem Mach.frameIn_later (hs : fSeq ctl ≠ m.twin.rseq) (hk : 1 ≤ fKind ctl) (hk' : fKind ctl < 5) : (m.frameIn data ctl crc).twin.recv =
    ⟨m.twin.rseq, m.twin.nakOut || decide ((fSeq ctl + 256 - m.twin.rseq) % 256 < 128), m.twin.map, m.twin.rx, m.twin.rxq, m.twin.hbIn⟩ := by
  obtain ⟨z, hz, -, heq⟩ := Mach.frameIn_read hup ht hc hu
  obtain ⟨hrs, hrx', -⟩ := recv_fields hz hrx
  rw [heq, Mach.recv_attachCheck, Mach.frameTaken_other hk hk' (by rw [hrs]; exact hs), hrs]
  by_cases hd : (fSeq ctl + 256 - m.twin.rseq) % 256 < 128
  · rw [if_pos hd, Mach.advanceRx_none (m := z.modTwin (fun x => { x with nakOut := true })) (.inr hrx'), decide_eq_true hd, Bool.or_true]
    exact congrArg (fun q : TwinRecv => { q with nak := true }) hz
  · rw [if_neg hd, Mach.advanceRx_none (.inr hrx'), decide_eq_false hd, Bool.or_false]
    exact hz
end

/-! ## Records (R408, R410) -/

theorem Mach.Like.setTwin {a m : Mach} (h : a.Like m) (x : Twin) : ({ a with twin := x } : Mach).Like { m with twin := x } :=
  { h with bare := congrArg (fun b : Mach => { b with twin := x }) h.bare }

theorem Mach.Like.of_eq {a m : Mach} (h : a = m) : a.Like m := h ▸ .refl a

/-- Two changes of one NIU in turn. -/
theorem Mach.like_modNiu_twice (m : Mach) (n : Nat) (f g : Niu → Niu) : ((m.modNiu n f).modNiu n g).Like (m.modNiu n (fun x => g (f x))) := by
  refine { Mach.Like.refl m with niu := fun k => ?_, bare := rfl }
  by_cases hk : k = n
  · rw [hk, Mach.niu_modNiu, Mach.niu_modNiu, Mach.niu_modNiu]
  · rw [Mach.niu_modNiu_ne _ _ hk, Mach.niu_modNiu_ne _ _ hk, Mach.niu_modNiu_ne _ _ hk]

/-- A change that leaves the NIU as it is. -/
theorem Mach.like_modNiu_same (m : Mach) (n : Nat) {f : Niu → Niu} (h : f (m.niu n) = m.niu n) : (m.modNiu n f).Like m := by
  refine { Mach.Like.refl m with niu := fun k => ?_, bare := rfl }
  by_cases hk : k = n
  · rw [hk, Mach.niu_modNiu, h]
  · rw [Mach.niu_modNiu_ne _ _ hk]

/-- The machine once the record next in order has been applied. -/
def Mach.recTaken (m : Mach) (r : BitVec 128) (rest : List (BitVec 128)) : Mach :=
  ((m.shadowRec r).applyRec r).modTwin (fun x => { x with rxq := rest })

theorem Mach.twin_shadowRec (m : Mach) (r : BitVec 128) : (m.shadowRec r).twin = m.twin := by
  unfold Mach.shadowRec
  split
  · rfl
  split
  · rfl
  split <;> rfl

theorem Mach.twin_applyRec (m : Mach) (r : BitVec 128) : (m.applyRec r).twin = m.twin := by
  refine foldl_keeps (fun m : Mach => m.twin) _ _ _ (fun m n => ?_)
  split <;> rfl

theorem Mach.applyNext_other {m : Mach} {r : BitVec 128} {rest : List (BitVec 128)} {ty : Nat} (h : m.twin.rxq = r :: rest) (hty : rType r ≠ ty) :
    m.applyNext ty = m := by
  unfold Mach.applyNext
  rw [h]
  exact if_pos hty

section
variable {m : Mach} {r : BitVec 128} {rest : List (BitVec 128)} {ty : Nat} (h : m.twin.rxq = r :: rest) (hx : m.twin.rx = [])
include h hx

theorem Mach.applyNext_eq (hty : rType r = ty) (hr : m.recReady r = true) : m.applyNext ty = m.recTaken r rest := by
  unfold Mach.applyNext
  rw [h]
  dsimp only
  rw [if_neg (not_not_intro hty), hr, if_neg (by decide)]
  refine Mach.advanceRx_none (m := m.recTaken r rest) (.inr ?_)
  change ((m.shadowRec r).applyRec r).twin.rx = []
  rw [Mach.twin_applyRec, Mach.twin_shadowRec, hx]
end

/-- What an applied record leaves, by what it changes at the NIUs. -/
theorem Mach.recTaken_like {m a : Mach} {r : BitVec 128} {rest : List (BitVec 128)} (h : ((m.shadowRec r).applyRec r).Like a) :
    (m.recTaken r rest).Like { a with twin := { m.twin with rxq := rest } } := by
  have ht : ((m.shadowRec r).applyRec r).twin = m.twin := by rw [Mach.twin_applyRec, Mach.twin_shadowRec]
  unfold Mach.recTaken Mach.modTwin
  rw [ht]
  exact h.setTwin _

/-- An NIU of this plane that has a flow's entry at hand. -/
def Mach.AtHand (m : Mach) (f : BitVec 16) (k : Nat) : Prop := k < 512 ∧ m.domLive (epTile k) = true ∧ (m.niu k).entry f ≠ none

theorem Mach.AtHand.takes {m : Mach} {f : BitVec 16} {k : Nat} (h : m.AtHand f k) : m.takesRecs k = true := by
  unfold Mach.takesRecs
  rw [decide_eq_true h.1, h.2.1]
  rfl

theorem Mach.AtHand.isSome {m : Mach} {f : BitVec 16} {k : Nat} (h : m.AtHand f k) : ((m.niu k).entry f).isSome = true :=
  Option.isSome_iff_ne_none.2 h.2.2

theorem Mach.recReady_of {m : Mach} {r : BitVec 128} (h : ∀ n ∈ recNius r, m.AtHand (rFlow r) n) : m.recReady r = true :=
  List.all_eq_true.2 (fun n hn => by rw [(h n hn).isSome, Bool.or_true])

section
variable {m : Mach} {r : BitVec 128}

theorem Mach.applyRec_one {n : Nat} (hn : (if rType r = 4 then [rEp r] else (recNius r).dedup) = [n]) (ht : m.takesRecs n = true) :
    m.applyRec r = m.modNiu n (fun x => x.applyRec n r) := by
  unfold Mach.applyRec
  rw [hn]
  exact if_pos ht

/-- An NIU's shadow tracker with an SREC record entered. -/
def Niu.noted (r : BitVec 128) (x : Niu) : Niu := { x with shadow := (rSrec r).enter x.shadow }

theorem Mach.shadowRec_enters {n : Nat} (hn : rEp r = n) (hst : m.twin.st ≠ .dead) (hlt : n < 512) (hl : m.domLive (epTile n) = true)
    (hty : rType r = 1) : m.shadowRec r = m.modNiu n (Niu.noted r) := by
  subst hn
  unfold Mach.shadowRec
  rw [if_neg (by rintro (h | h | h); exacts [hst h, by omega, by rw [hl] at h; cases h]), if_pos hty]
  rfl

theorem Mach.shadowRec_retires {n : Nat} (hn : rEp r = n) (hst : m.twin.st ≠ .dead) (hlt : n < 512) (hl : m.domLive (epTile n) = true)
    (hty : rType r = 2) : m.shadowRec r = m.modNiu n (fun x => { x with shadow := SRec.retire (rFlow r) (rSeq r) x.shadow }) := by
  subst hn
  unfold Mach.shadowRec
  rw [if_neg (by rintro (h | h | h); exacts [hst h, by omega, by rw [hl] at h; cases h]), if_neg (by rw [hty]; decide), if_pos hty]

theorem Mach.shadowRec_other (h1 : rType r ≠ 1) (h2 : rType r ≠ 2) : m.shadowRec r = m := by
  unfold Mach.shadowRec
  rw [if_neg h1, if_neg h2, ite_self]
end

section
variable {s : State} (hs : s.m.test.scan = false)
include hs

theorem exec_srecApply : exec .srecApply s = .next { s with m := s.m.applyNext 1 } := by
  change execSrecApply s = _
  rw [execSrecApply, State.on_eq hs]

theorem exec_retireApply : exec .retireApply s = .next { s with m := s.m.applyNext 2 } := by
  change execRetireApply s = _
  rw [execRetireApply, State.on_eq hs]

theorem exec_rxmarkApply : exec .rxmarkApply s = .next { s with m := s.m.applyNext 3 } := by
  change execRxmarkApply s = _
  rw [execRxmarkApply, State.on_eq hs]

theorem exec_atomApply : exec .atomApply s = .next { s with m := s.m.applyNext 4 } := by
  change execAtomApply s = _
  rw [execAtomApply, State.on_eq hs]

theorem exec_orelApply : exec .orelApply s = .next { s with m := s.m.applyNext 5 } := by
  change execOrelApply s = _
  rw [execOrelApply, State.on_eq hs]

theorem exec_fstateApply : exec .fstateApply s = .next { s with m := s.m.applyNext 6 } := by
  change execFstateApply s = _
  rw [execFstateApply, State.on_eq hs]
end

/-! ## What a record of each type changes at an NIU -/

theorem Niu.applyRec_srec {r : BitVec 128} (h : rType r = 1) (x : Niu) (n : Nat) :
    x.applyRec n r = x.setSend (rFlow r) (fun g => sf g 64 16 (rSeq r + 1).toNat) := by
  unfold Niu.applyRec
  rw [h]
  rfl

theorem Niu.applyRec_mark {r : BitVec 128} (h : rType r = 3) (x : Niu) (n : Nat) :
    x.applyRec n r = x.applyMark (rFlow r) (rSeq r) (bf r 74 8) (bt r 73) := by
  unfold Niu.applyRec
  rw [h]
  rfl

theorem Niu.applyRec_atom {r : BitVec 128} (h : rType r = 4) {x : Niu} (hx : x.atoms.length < 64) (n : Nat) :
    x.applyRec n r = { x with atoms := x.atoms ++ [(rFlow r, rSeq r, r.extractLsb' 18 64)] } := by
  unfold Niu.applyRec
  rw [h]
  dsimp only
  rw [if_neg (by omega)]
  rfl

theorem Niu.applyRec_source {r : BitVec 128} (h : rType r = 5) (x : Niu) (hne : rEp r ≠ bf r 72 10) :
    x.applyRec (rEp r) r = x.setSend (rFlow r) (fun g => sf g 64 16 (rSeq r + 1).toNat) := by
  unfold Niu.applyRec
  rw [h]
  dsimp only
  rw [if_pos rfl, if_neg hne]
  rfl

theorem Niu.applyRec_dest {r : BitVec 128} (h : rType r = 5) (x : Niu) (hne : bf r 72 10 ≠ rEp r) :
    x.applyRec (bf r 72 10) r = x.setRecv (rFlow r) (fun g => sf g 304 16 (rSeq r + 1).toNat) := by
  unfold Niu.applyRec
  rw [h]
  dsimp only
  rw [if_neg hne, if_pos rfl]
  rfl

theorem Niu.applyRec_state {r : BitVec 128} (h : rType r = 6) (x : Niu) (n : Nat) : x.applyRec n r =
    x.setSend (rFlow r) (fun g => sf (sf (sf g 64 16 (rSeq r).toNat) 51 2 (bf r 80 2)) 43 8 (bf r 72 8)) := by
  unfold Niu.applyRec
  rw [h]
  rfl

/-- A request that is no message has a record of its own. -/
theorem SRec.enter_new {r : SRec} {l : List SRec} (h : r.opc ≠ opMSG) (hl : l.length < 272) : r.enter l = l ++ [r] := by
  unfold SRec.enter
  dsimp only
  rw [if_neg, if_neg (by omega)]
  rw [List.any_eq_true]
  rintro ⟨q, -, hq⟩
  exact h (of_decide_eq_true hq).1

/-- The packets of a message share its record. -/
theorem SRec.enter_same {r q : SRec} (h : r.opc = opMSG ∧ q.opc = opMSG ∧ q.flow = r.flow ∧ q.sub = r.sub ∧ q.etag = r.etag ∧ q.done = []) :
    r.enter [q] = [{ q with seqs := q.seqs ++ r.seqs }] := by
  unfold SRec.enter
  dsimp only
  rw [if_pos (by rw [List.any_cons, decide_eq_true h, Bool.true_or]), List.map_cons, if_pos (decide_eq_true h)]
  rfl

section
variable {m : Mach} {r : BitVec 128} {n : Nat} (hn : rEp r = n)
include hn

/-- A record that changes one entry of one NIU. -/
theorem Mach.rec_one (hty : rType r = 1 ∨ rType r = 3 ∨ rType r = 6) (h : m.AtHand (rFlow r) n) :
    m.recReady r = true ∧ (∀ a : Mach, a.takesRecs n = true → a.applyRec r = a.modNiu n (fun x => x.applyRec n r)) := by
  have hl : recNius r = [n] := by
    unfold recNius
    rw [if_pos hty, hn]
  refine ⟨Mach.recReady_of (fun k hk => ?_), fun a ha => Mach.applyRec_one ?_ ha⟩
  · rw [hl, List.mem_singleton] at hk
    rw [hk]
    exact h
  · rw [if_neg (by omega), hl]
    rfl

theorem Mach.rec_srec {f : Niu → Niu} (hty : rType r = 1) (hst : m.twin.st ≠ .dead) (h : m.AtHand (rFlow r) n)
    (hf : f (m.niu n) = { (m.niu n).setSend (rFlow r) (fun g => sf g 64 16 (rSeq r + 1).toNat) with shadow := (rSrec r).enter (m.niu n).shadow }) :
    m.recReady r = true ∧ ((m.shadowRec r).applyRec r).Like (m.modNiu n f) := by
  obtain ⟨hready, happ⟩ := Mach.rec_one hn (.inl hty) h
  refine ⟨hready, ?_⟩
  rw [Mach.shadowRec_enters hn hst h.1 h.2.1 hty, happ (m.modNiu n (Niu.noted r)) h.takes]
  refine (Mach.like_modNiu_twice _ _ _ _).trans (.of_eq (Mach.modNiu_congr ?_))
  rw [Niu.applyRec_srec hty, hf]
  rfl

theorem Mach.rec_retire (hty : rType r = 2) (hst : m.twin.st ≠ .dead) (hlt : n < 512) (hl : m.domLive (epTile n) = true) :
    m.recReady r = true ∧ (m.shadowRec r).applyRec r = m.modNiu n (fun x => { x with shadow := SRec.retire (rFlow r) (rSeq r) x.shadow }) := by
  have hno : recNius r = [] := by
    unfold recNius
    rw [hty]
    rfl
  refine ⟨Mach.recReady_of (fun k hk => ?_), ?_⟩
  · rw [hno] at hk
    exact absurd hk List.not_mem_nil
  · rw [Mach.shadowRec_retires hn hst hlt hl hty, Mach.applyRec, hno, if_neg (by rw [hty]; decide)]
    rfl

theorem Mach.rec_atom (hty : rType r = 4) (hlt : n < 512) (hl : m.domLive (epTile n) = true) :
    m.recReady r = true ∧ (m.shadowRec r).applyRec r = m.modNiu n (fun x => x.applyRec n r) := by
  have hno : recNius r = [] := by
    unfold recNius
    rw [hty]
    rfl
  refine ⟨Mach.recReady_of (fun k hk => ?_), ?_⟩
  · rw [hno] at hk
    exact absurd hk List.not_mem_nil
  · rw [Mach.shadowRec_other (by rw [hty]; decide) (by rw [hty]; decide)]
    refine Mach.applyRec_one (by rw [if_pos hty, hn]) ?_
    unfold Mach.takesRecs
    rw [decide_eq_true hlt, hl]
    rfl

theorem Mach.rec_orel {d : Nat} (hty : rType r = 5) (hd : bf r 72 10 = d) (h : m.AtHand (rFlow r) n) (h' : m.AtHand (rFlow r) d) (hne : n ≠ d) :
    m.recReady r = true ∧ (m.shadowRec r).applyRec r = (m.modNiu n (fun x => x.applyRec n r)).modNiu d (fun x => x.applyRec d r) := by
  have hl : recNius r = [n, d] := by
    unfold recNius
    rw [if_neg (by rw [hty]; decide), if_pos hty, hn, hd]
  have hdd : [n, d].dedup = [n, d] := List.Nodup.dedup (by simp [hne])
  refine ⟨Mach.recReady_of (fun k hk => ?_), ?_⟩
  · rw [hl, List.mem_cons, List.mem_singleton] at hk
    rcases hk with hk | hk
    · rw [hk]; exact h
    · rw [hk]; exact h'
  · rw [Mach.shadowRec_other (by rw [hty]; decide) (by rw [hty]; decide), Mach.applyRec, if_neg (by rw [hty]; decide), hl, hdd,
      List.foldl_cons, List.foldl_cons, List.foldl_nil, if_pos h.takes]
    exact if_pos h'.takes
end

/-! ## COPY frames (R417) -/

/-- The machine with a COPY frame next to be taken applied to a flow's own entry `g`. -/
def Mach.copied (m : Mach) (d g : FlitBits) : Mach :=
  let f := d.extractLsb' 96 16
  let m := if m.takesRecs (eSrc g) then m.modNiu (eSrc g) (fun x => x.setSend f (sendState d)) else m
  if m.takesRecs (eDst g) then m.modNiu (eDst g) (fun x => x.setRecv f (recvState d)) else m

/-- A COPY frame next to be taken. -/
def Mach.copyFrame (m : Mach) (d : FlitBits) (rest : List TwRx) : Mach :=
  let f := d.extractLsb' 96 16
  let done (m : Mach) : Mach := (m.modTwin (fun x => { x with rx := rest })).advanceRx
  let want (m : Mach) (l : List Nat) : Mach := l.foldl (fun m n => if m.takesRecs n then m.wantEntry n f else m) m
  match m.copiesOf f with
  | [] =>
    let r := m.nextFree
    let g := Config.tableEntry r.1
    let l := [eSrc g, eDst g].filter (fun n => r.2.takesRecs n)
    if !m.tblEn || !eV g || l.isEmpty then done r.2 else want r.2 l
  | (_, g) :: _ =>
    let l := [eSrc g, eDst g].filter (fun n => m.takesRecs n)
    if !eV g then done m
    else if l.any (fun n => ((m.niu n).entry f).isNone) then want m l
    else done (m.copied d g)

def Mach.copyApply (m : Mach) : Mach :=
  match m.twin.rxq, m.twin.rx with
  | [], ⟨_, 3, d⟩ :: rest => m.copyFrame d rest
  | _, _ => m

theorem exec_copyApply {s : State} (hs : s.m.test.scan = false) : exec .copyApply s = .next { s with m := s.m.copyApply } := by
  change execCopyApply s = _
  rw [execCopyApply, State.on_eq hs]
  rfl

theorem Mach.copyApply_none {m : Mach} (hq : m.twin.rxq = []) (hx : m.twin.rx = []) : m.copyApply = m := by
  unfold Mach.copyApply
  rw [hq, hx]

theorem Mach.copyApply_copies {m : Mach} {j k : Nat} {c g : FlitBits} {l : List (Nat × FlitBits)} (hq : m.twin.rxq = []) (hx : m.twin.rx = [⟨j, 3, c⟩])
    (hc : m.copiesOf (c.extractLsb' 96 16) = (k, g) :: l) (hv : eV g = true) (hsrc : m.AtHand (c.extractLsb' 96 16) (eSrc g))
    (hdst : m.AtHand (c.extractLsb' 96 16) (eDst g)) :
    m.copyApply = { (m.modNiu (eSrc g) (fun y => y.setSend (c.extractLsb' 96 16) (sendState c))).modNiu (eDst g)
      (fun y => y.setRecv (c.extractLsb' 96 16) (recvState c)) with twin := { m.twin with rx := [] } } := by
  have hcop : m.copied c g = (m.modNiu (eSrc g) (fun y => y.setSend (c.extractLsb' 96 16) (sendState c))).modNiu (eDst g)
      (fun y => y.setRecv (c.extractLsb' 96 16) (recvState c)) := by
    unfold Mach.copied
    dsimp only
    rw [if_pos hsrc.takes]
    exact if_pos hdst.takes
  have hany : ¬ ([eSrc g, eDst g].filter (fun n => m.takesRecs n)).any (fun n => ((m.niu n).entry (c.extractLsb' 96 16)).isNone) = true := by
    rw [List.filter_cons_of_pos hsrc.takes, List.filter_cons_of_pos hdst.takes, List.filter_nil, List.any_cons, List.any_cons, List.any_nil,
      ← Option.not_isSome, ← Option.not_isSome, hsrc.isSome, hdst.isSome]
    decide
  unfold Mach.copyApply
  rw [hq, hx]
  change m.copyFrame c [] = _
  unfold Mach.copyFrame
  dsimp only
  rw [hc]
  dsimp only
  rw [hv, if_neg (by decide), if_neg hany, hcop]
  exact Mach.advanceRx_none (.inr rfl)

/-- Settles O46: frames, records and copies of the twin link. -/
theorem twinLink : Obligations.TwinLink := by
  unfold Obligations.TwinLink
  refine ⟨fun s data ctl crc => ?_, fun s r rest f n d => ?_, fun s c g j k l => ?_⟩
  · intro x kind hs hup
    have hx := exec_twinFrameReceive hs data ctl crc
    have hdoes {a : Mach} (h : s.m.frameIn data ctl crc = a) : Does (.twinFrameReceive data ctl crc) s a := ⟨_, hx, rfl, rfl, .of_eq h⟩
    refine ⟨fun ht hc => hdoes ?_, fun ht hc => hdoes (Mach.frameIn_idle hup hc (.inl ht)), fun ht hc => hdoes ?_,
      fun ht hc hu hk hsq hrx hrxq hne => ⟨_, hx, ?_⟩, fun ht hc hu hk hsq hrx => ⟨_, hx, ?_⟩, fun ht hc hu hk hk' hsq hrx => ⟨_, hx, ?_⟩,
      fun ht hc hu => hdoes (Mach.frameIn_idle hup hc (.inr hu))⟩
    · rw [Mach.frameIn_bad hup hc, if_neg (by rw [show s.m.twin.trained = false from ht]; decide)]
    · rw [Mach.frameIn_bad hup hc, if_pos ht]
      rfl
    · obtain ⟨hrec, hniu⟩ := Mach.frameIn_records hup ht hc hu hrx hrxq hsq hk hne
      exact ⟨congrArg TwinRecv.rxq hrec, congrArg TwinRecv.rseq hrec, congrArg TwinRecv.nak hrec, congrArg TwinRecv.map hrec, hniu⟩
    · have hrec := Mach.frameIn_heartbeat hup ht hc hu hrx hsq hk
      exact ⟨congrArg TwinRecv.hbIn hrec, congrArg TwinRecv.rseq hrec⟩
    · have hrec := Mach.frameIn_later hup ht hc hu hrx hsq hk hk'
      exact ⟨congrArg TwinRecv.nak hrec, congrArg TwinRecv.rseq hrec, (congrArg TwinRecv.rx hrec).trans hrx, congrArg TwinRecv.rxq hrec,
        congrArg TwinRecv.hbIn hrec⟩
  · intro x seq next took has ty gone hs hrxq hrx hf hn
    subst hf
    have hdoes {i : Instr} {k : Nat} {a : Mach} (hx : exec i s = .next { s with m := s.m.applyNext k }) (hty : ty = k)
        (h : s.m.recReady r = true ∧ ((s.m.shadowRec r).applyRec r).Like a) : Does i s (took a) :=
      ⟨_, hx, rfl, rfl, Mach.applyNext_eq hrxq hrx hty h.1 ▸ Mach.recTaken_like h.2⟩
    have hother {i : Instr} {k : Nat} (hx : exec i s = .next { s with m := s.m.applyNext k }) (hty : ty ≠ k) : Does i s s.m :=
      ⟨_, hx, rfl, rfl, .of_eq (Mach.applyNext_other hrxq hty)⟩
    refine ⟨fun hty hh hst ho hl => ?_, fun q hty hh hst ho hsh hqo hqf hqs hqe hqd => ?_, fun hty hlt hl hst => ?_, fun hty hh => ?_,
      fun hty hlt hl hlen => ?_, fun hty hd hh hh' hne => ?_, fun hty hh => ?_, hother (exec_srecApply hs), hother (exec_retireApply hs),
      hother (exec_rxmarkApply hs), hother (exec_atomApply hs), hother (exec_orelApply hs), hother (exec_fstateApply hs)⟩
    · refine hdoes (exec_srecApply hs) hty (Mach.rec_srec hn hty hst hh ?_)
      rw [SRec.enter_new ho hl]
    · refine hdoes (exec_srecApply hs) hty (Mach.rec_srec hn hty hst hh ?_)
      rw [hsh, SRec.enter_same ⟨ho, hqo, hqf, hqs, hqe, hqd⟩]
      rfl
    · obtain ⟨hr, heq⟩ := Mach.rec_retire hn hty hst hlt hl
      exact hdoes (exec_retireApply hs) hty ⟨hr, .of_eq heq⟩
    · obtain ⟨hr, happ⟩ := Mach.rec_one hn (.inr (.inl hty)) hh
      refine hdoes (exec_rxmarkApply hs) hty ⟨hr, .of_eq ?_⟩
      rw [Mach.shadowRec_other (by rw [show rType r = 3 from hty]; decide) (by rw [show rType r = 3 from hty]; decide), happ _ (Mach.AtHand.takes hh)]
      exact Mach.modNiu_congr (Niu.applyRec_mark hty _ _)
    · obtain ⟨hr, heq⟩ := Mach.rec_atom hn hty hlt hl
      refine hdoes (exec_atomApply hs) hty ⟨hr, .of_eq (heq.trans (Mach.modNiu_congr ?_))⟩
      rw [Niu.applyRec_atom hty hlen]
    · obtain ⟨hr, heq⟩ := Mach.rec_orel hn hty hd hh hh' hne
      subst hd hn
      refine hdoes (exec_orelApply hs) hty ⟨hr, .of_eq (heq.trans ?_)⟩
      have hsrc : s.m.modNiu (rEp r) (fun x => x.applyRec (rEp r) r) = s.m.modNiu (rEp r) (fun y => y.setSend (rFlow r) (fun g => sf g 64 16 next)) :=
        Mach.modNiu_congr (Niu.applyRec_source hty _ hne)
      rw [hsrc]
      exact Mach.modNiu_congr (Niu.applyRec_dest hty _ hne.symm)
    · obtain ⟨hr, happ⟩ := Mach.rec_one hn (.inr (.inr hty)) hh
      refine hdoes (exec_fstateApply hs) hty ⟨hr, .of_eq ?_⟩
      rw [Mach.shadowRec_other (by rw [show rType r = 6 from hty]; decide) (by rw [show rType r = 6 from hty]; decide), happ _ (Mach.AtHand.takes hh)]
      exact Mach.modNiu_congr (Niu.applyRec_state hty _ _)
  · intro f has hs hrxq
    have hx := exec_copyApply hs
    exact ⟨fun hrx hc hv hsrc hdst _ => ⟨_, hx, rfl, rfl, .of_eq (Mach.copyApply_copies hrxq hrx hc hv hsrc hdst)⟩,
      fun hrx => ⟨_, hx, rfl, rfl, .of_eq (Mach.copyApply_none hrxq hrx)⟩⟩

end Sys2Proof.Machine

/-! PROOFS. Heartbeats, training, loss and death of the twin (O47). -/

namespace Sys2Proof.Machine

/-! ## The death of the twin (R413) -/

/-- The shadow tracker and the notice of an NIU that has handed over. -/
def Niu.HandedOver (x : Niu) : Prop := x.shadow = [] ∧ x.arrive = false ∧ x.notice = false

section
variable {γ : Type} {π : Mach → γ} (hniu : ∀ m n f, π (m.modNiu n f) = π m)
include hniu

theorem Mach.deliver_keeps (m : Mach) (n sub : Nat) (l : List (BitVec 128)) : π (m.deliver n sub l) = π m := by
  unfold Mach.deliver
  split
  · rfl
  · exact hniu _ _ _
  · exact hniu _ _ _

theorem Mach.takeOver_keeps (m : Mach) (n : Nat) : π (m.takeOver n) = π m := by
  unfold Mach.takeOver
  dsimp only
  split
  · exact (Mach.deliver_keeps hniu _ _ _ _).trans ((Mach.deliver_keeps hniu _ _ _ _).trans (hniu _ _ _))
  · exact hniu _ _ _

theorem Mach.shadowRec_keeps (m : Mach) (r : BitVec 128) : π (m.shadowRec r) = π m := by
  unfold Mach.shadowRec
  split
  · rfl
  split
  · exact hniu _ _ _
  split
  · exact hniu _ _ _
  · rfl

theorem Mach.applyRec_keeps (m : Mach) (r : BitVec 128) : π (m.applyRec r) = π m := by
  refine foldl_keeps π _ _ _ (fun m n => ?_)
  split
  · exact hniu _ _ _
  · rfl

/-- Records received are applied to NIUs only. -/
theorem Mach.applyAll_keeps (htw : ∀ (m : Mach) q (r : Twin → List TwRx), π (m.modTwin (fun x => { x with rxq := q, rx := r x })) = π m) (m : Mach) :
    π m.applyAll = π m := by
  unfold Mach.applyAll
  refine (htw _ _ _).trans ?_
  refine (foldl_keeps (fun a : List (BitVec 128) × Mach => π a.2) _ _ _ (fun a r => ?_)).trans (foldl_keeps π _ _ _ (fun m r => ?_))
  · split
    · exact Mach.applyRec_keeps hniu _ _
    · rfl
  · exact Mach.shadowRec_keeps hniu _ _
end

/-- A change of an NIU that keeps what has been handed over. -/
theorem Mach.handed_modNiu {m : Mach} {k : Nat} (h : (m.niu k).HandedOver) (n : Nat) {f : Niu → Niu} (hf : (m.niu n).HandedOver → (f (m.niu n)).HandedOver) :
    ((m.modNiu n f).niu k).HandedOver := by
  by_cases hk : k = n
  · subst hk
    rw [Mach.niu_modNiu]
    exact hf h
  · rw [Mach.niu_modNiu_ne _ _ hk]
    exact h

theorem Mach.handed_deliver {m : Mach} {k : Nat} (h : (m.niu k).HandedOver) (n sub : Nat) (l : List (BitVec 128)) :
    ((m.deliver n sub l).niu k).HandedOver := by
  unfold Mach.deliver
  split
  · exact h
  · exact Mach.handed_modNiu h n id
  · exact Mach.handed_modNiu h n id

/-- What stands at an NIU once it has handed over. -/
theorem Mach.takeOver_handed {m : Mach} {n k : Nat} (h : k = n ∨ (m.niu k).HandedOver) : ((m.takeOver n).niu k).HandedOver := by
  have hset (u : List SRec) : ((m.modNiu n (fun x => { x with unc := u, shadow := [], arrive := false, notice := false })).niu k).HandedOver := by
    rcases h with rfl | h
    · rw [Mach.niu_modNiu]
      exact ⟨rfl, rfl, rfl⟩
    · exact Mach.handed_modNiu h n (fun _ => ⟨rfl, rfl, rfl⟩)
  unfold Mach.takeOver
  dsimp only
  split
  · exact Mach.handed_deliver (Mach.handed_deliver (hset _) _ _ _) _ _ _
  · exact hset _

/-- Every NIU hands over. -/
def Mach.handOver (m : Mach) : Mach := (List.range 512).foldl (fun m n => m.takeOver n) m

/-- The survivor before its NIUs hand over: nothing waits to be sent, what was received is applied, it carries every flow. -/
def Mach.survivor (m : Mach) (cause : Nat) : Mach :=
  (m.modTwin (fun x => { x with recq := [], recw := [], outq := [], hbDue := false, unack := [], again := [] })).applyAll.modTwin
    (fun x => { x.allTo m.straps.planeB with cause := cause })

theorem Mach.declareDead_eq (m : Mach) (cause : Nat) : m.declareDead cause =
    ((((m.survivor cause).handOver.orReg aTwEvt 2).twinState .dead 1 cause).occur 13 1 7 0 cause 1).endTwinOp
      (if m.twin.op = 2 ∧ m.twin.opSelf = true ∧ m.twin.opTo = m.straps.planeB then xOK else xSTATE) := by
  unfold Mach.declareDead Mach.handOver Mach.survivor
  dsimp only

/-- What the survivor keeps as its NIUs hand over and the death is marked. -/
theorem Mach.handOver_keeps {γ : Type} {π : Mach → γ} (hniu : ∀ m n f, π (m.modNiu n f) = π m) (hreg : ∀ m a w, π (m.setReg a w) = π m)
    (m : Mach) (a v : Nat) : π (m.handOver.orReg a v) = π m := by
  refine (hreg _ _ _).trans ?_
  unfold Mach.handOver
  exact foldl_keeps π _ _ _ (fun a n => Mach.takeOver_keeps hniu a n)

theorem Mach.handOver_niu (m : Mach) (a v : Nat) {n : Nat} (hn : n < 512) : ((m.handOver.orReg a v).niu n).HandedOver := by
  rw [Mach.niu_orReg]
  unfold Mach.handOver
  exact foldl_sets (I := fun _ => True) (Q := fun m : Mach => (m.niu n).HandedOver) (List.mem_range.2 hn) (fun _ _ _ _ => trivial)
    (fun _ _ => Mach.takeOver_handed (.inl rfl)) (fun _ _ _ _ h => Mach.takeOver_handed (.inr h)) trivial

theorem Mach.survivor_twin (m : Mach) (cause : Nat) : (m.survivor cause).twin.st = m.twin.st ∧ (m.survivor cause).twin.recq = [] ∧
    (m.survivor cause).straps = m.straps ∧ (m.survivor cause).twin.cause = cause ∧ ∀ f, (m.survivor cause).planeOf f = m.straps.planeB := by
  unfold Mach.survivor
  have h := Mach.applyAll_keeps (π := fun m : Mach => (m.straps, m.twin.st, m.twin.recq)) (fun _ _ _ => rfl) (fun _ _ _ => rfl)
    (m.modTwin (fun x => { x with recq := [], recw := [], outq := [], hbDue := false, unack := [], again := [] }))
  generalize Mach.applyAll _ = z at h ⊢
  obtain ⟨hstr, hst, hrecq⟩ := Prod.mk.inj h |>.imp_right Prod.mk.inj
  exact ⟨hst, hrecq, hstr, rfl, fun f => Twin.mapOf_allTo z.twin m.straps.planeB f⟩

/-- What an occurrence and the end of a twin operation leave. -/
theorem Mach.deadEnd_keeps {γ : Type} {π : Mach → γ} (hflt : ∀ (m : Mach) f, π (m.modFlt f) = π m) (hengs : ∀ (m : Mach) l, π { m with engs := l } = π m)
    (htw : ∀ m : Mach, π (m.modTwin (fun x => { x with op := 0, opSelf := false, left := [], flushq := [], flushed := [] })) = π m) (m : Mach) (cause st : Nat) :
    π ((m.occur 13 1 7 0 cause 1).endTwinOp st) = π m :=
  (htw _).trans ((Mach.finish_keeps hengs _ _ _).trans (Mach.occur_leaves m _ _ _ _ _ _ hflt))

/-- What the death of the twin leaves of a machine whose twin lived. -/
structure Mach.TwinDied (m t : Mach) (cause : Nat) : Prop where
  st    : t.twin.st = .dead
  cause : t.twin.cause = cause
  recq  : t.twin.recq = []
  plane : ∀ f, t.planeOf f = m.straps.planeB
  niu   : ∀ n, n < 512 → (t.niu n).shadow = [] ∧ (t.niu n).arrive = false ∧ (t.niu n).notice = false

/-- DEAD is entered, the death is reported, and the operation in progress ends. -/
theorem Mach.deadEntered {y : Mach} (h : y.twin.st ≠ .dead) (cause st : Nat) {t : Mach}
    (ht : ((y.twinState .dead 1 cause).occur 13 1 7 0 cause 1).endTwinOp st = t) : t.twin.st = .dead ∧ t.twin.cause = y.twin.cause ∧
    t.twin.recq = y.twin.recq ∧ (∀ f, t.planeOf f = y.planeOf f) ∧ ∀ n, t.niu n = y.niu n := by
  obtain ⟨htw, -, -, hnius, -, hstr, -⟩ := Mach.twinState_enters h 1 cause
  generalize Mach.twinState _ _ _ _ = z at htw hnius hstr ht
  have hend {γ : Type} {π : Mach → γ} := Mach.deadEnd_keeps (γ := γ) (π := π)
  have hp (f : BitVec 16) : z.planeOf f = y.planeOf f := by
    unfold Mach.planeOf
    rw [htw, hstr]
    rfl
  have hcause : z.twin.cause = y.twin.cause := by rw [htw]
  have hrecq : z.twin.recq = y.twin.recq := by rw [htw]
  subst ht
  exact ⟨(hend (π := fun m => m.twin.st) (fun _ _ => rfl) (fun _ _ => rfl) (fun _ => rfl) _ _ _).trans (congrArg Twin.st htw),
    (hend (π := fun m => m.twin.cause) (fun _ _ => rfl) (fun _ _ => rfl) (fun _ => rfl) _ _ _).trans hcause,
    (hend (π := fun m => m.twin.recq) (fun _ _ => rfl) (fun _ _ => rfl) (fun _ => rfl) _ _ _).trans hrecq,
    fun f => (hend (π := fun m => m.planeOf f) (fun _ _ => rfl) (fun _ _ => rfl) (fun _ => rfl) _ _ _).trans (hp f),
    fun n => (hend (π := fun m => m.niu n) (fun _ _ => rfl) (fun _ _ => rfl) (fun _ => rfl) _ _ _).trans (congrArg (fun l => Tab.get dNiu l n) hnius)⟩

theorem Mach.declareDead_died {m : Mach} (h : m.twin.st ≠ .dead) (cause : Nat) : m.TwinDied (m.declareDead cause) cause := by
  obtain ⟨hst, hrecq, -, hcause, hmap⟩ := Mach.survivor_twin m cause
  have hover : ((m.survivor cause).handOver.orReg aTwEvt 2).twin = (m.survivor cause).twin :=
    Mach.handOver_keeps (π := Mach.twin) (fun _ _ _ => rfl) (fun _ _ _ => rfl) _ _ _
  have hplane (f : BitVec 16) : ((m.survivor cause).handOver.orReg aTwEvt 2).planeOf f = (m.survivor cause).planeOf f :=
    Mach.handOver_keeps (π := fun m => m.planeOf f) (fun _ _ _ => rfl) (fun _ _ _ => rfl) _ _ _
  have hne : ((m.survivor cause).handOver.orReg aTwEvt 2).twin.st ≠ .dead := by
    rw [hover, hst]
    exact h
  obtain ⟨hst', hcause', hrecq', hplane', hniu'⟩ := Mach.deadEntered hne cause _ (Mach.declareDead_eq m cause).symm
  refine ⟨hst', ?_, ?_, fun f => ?_, fun n hn => ?_⟩
  · rw [hcause', hover, hcause]
  · rw [hrecq', hover, hrecq]
  · rw [hplane', hplane, hmap]
  · rw [hniu']
    exact (m.survivor cause).handOver_niu aTwEvt 2 hn

/-! ## Heartbeats (R411, R412, R414, R418) -/

/-- The heartbeat received is taken and its time read. -/
def Mach.hbRead (m : Mach) (d : BitVec 512) : Mach := (m.modTwin (fun x => { x with hbIn := none, missed := 0, twVar := bf d 168 4 })).hbTime d

/-- What FAILED does. -/
def Mach.hbFailed (m : Mach) : Mach :=
  if m.twin.carrying then m.declareDead 1
  else if m.twin.st = .attaching ∨ m.twin.st = .detached then m.twinDown
  else m

def Mach.hbReceived (m : Mach) : Mach :=
  match m.twin.hbIn with
  | none => m
  | some (_, d) => if !bt d 175 || (m.hbRead d).twin.cfgBad then m.hbRead d else (m.hbRead d).hbFailed

/-- A period without a heartbeat is counted. -/
def Mach.hbCounted (m : Mach) (live : Bool) : Mach :=
  (m.modTwin (fun x => { x with live := live, missed := min 15 (x.missed + 1) })).addFld aTwCnt 32 16 1

/-- The cause under which `k` missed heartbeats make the twin DEAD for plane B or A. -/
def hbDead (k : Nat) (live b : Bool) : Option Nat :=
  if 4 ≤ k ∧ live = false then some 0 else if 4 ≤ k ∧ b = false then some 2 else none

theorem hbDead_few {k : Nat} (h : k < 4) (live b : Bool) : hbDead k live b = none := by
  unfold hbDead
  rw [if_neg (by omega), if_neg (by omega)]

theorem hbDead_many {k : Nat} (h : 4 ≤ k) {live b : Bool} (hl : live = false ∨ b = false) : hbDead k live b = some (if live then 2 else 0) := by
  unfold hbDead
  cases live with
  | false => exact if_pos ⟨h, rfl⟩
  | true =>
    have hb : b = false := hl.resolve_left (by decide)
    rw [if_neg (fun h => nomatch h.2), if_pos ⟨h, hb⟩]
    rfl

theorem hbDead_stays (k : Nat) : hbDead k true true = none := by
  unfold hbDead
  rw [if_neg (fun h => nomatch h.2), if_neg (fun h => nomatch h.2)]

def Mach.hbJudged (m : Mach) (live : Bool) : Mach :=
  let dead := hbDead m.twin.missed live m.straps.planeB
  let leave := decide (3 ≤ m.twin.missed) && live && m.straps.planeB
  if m.twin.cfgBad then m
  else if m.twin.carrying then
    match dead with
    | some c => m.declareDead c
    | none => if leave then m.withdrawPlane else m
  else if (m.twin.st = .attaching ∨ m.twin.st = .detached) ∧ (dead.isSome = true ∨ leave = true) then m.twinDown
  else m

def Mach.hbMiss (m : Mach) (live : Bool) : Mach :=
  if m.twin.st = .down ∨ m.twin.hbIn.isSome = true then m.modTwin (fun x => { x with live := live }) else (m.hbCounted live).hbJudged live

section
variable {s : State} (hs : s.m.test.scan = false)
include hs

theorem exec_hbReceive : exec .hbReceive s = .next { s with m := s.m.hbReceived } := by
  change execHbReceive s = _
  rw [execHbReceive, State.on_eq hs]
  rfl

variable (hup : s.m.pwr.aonUp = true) (hst : s.m.clk.astop = false)
include hup hst

theorem exec_hbSend : exec .hbSend s = .next { s with m := if s.m.twin.st = .down then s.m else s.m.modTwin (fun x => { x with hbDue := true }) } := by
  change execHbSend s = _
  rw [execHbSend, State.on_eq hs]
  dsimp only
  rw [hup, hst, Bool.not_true, Bool.or_false, Bool.false_or]
  simp only [decide_eq_true_eq]

theorem exec_hbMissed (live : Bool) : exec (.hbMissed live) s = .next { s with m := s.m.hbMiss live } := by
  change execHbMissed live s = _
  rw [execHbMissed, State.on_eq hs]
  dsimp only
  rw [hup, hst]
  rfl
end

def Mach.hbRtt (m : Mach) (d : BitVec 512) : Int := (m.ftNs : Int) - bf d 64 64 - bf d 128 32

def Mach.hbOff (m : Mach) (d : BitVec 512) : Int := (bf d 0 64 : Int) + m.hbRtt d / 2 - m.ftNs

/-- The time that a heartbeat tells. -/
def Mach.hbTold (m : Mach) (d : BitVec 512) : Mach :=
  m.modTwin (fun x => { x with rtt := m.hbRtt d, offset := m.hbOff d, lastFt := bf d 0 64, lastAt := m.ftNs })

/-- An offset beyond SKEW_MAX is marked. -/
def Mach.skewMarked (m : Mach) (off : Int) : Mach :=
  if m.skewMax < off.natAbs then
    let e := if bt (m.reg aTwEvt) 4 then m else m.twinEvt 3 0
    e.orReg aTwEvt 16
  else m

theorem Mach.skewMarked_keeps {γ : Type} {π : Mach → γ} (heng : ∀ (m : Mach) f, π (m.modEng 0 f) = π m)
    (hreg : ∀ (m : Mach) a w, a = aTwEvt ∨ a = aEng 0 0x58 ∨ a = aEng 0 0 → π (m.setReg a w) = π m) (m : Mach) (off : Int) :
    π (m.skewMarked off) = π m := by
  unfold Mach.skewMarked
  dsimp only
  split
  · refine (hreg _ _ _ (.inl rfl)).trans ?_
    split
    · rfl
    · exact Mach.postEvt_leaves m 0 9 3 _ 0 heng (fun m a w h => hreg m a w (.inr h))
  · rfl

/-- A heartbeat's time is read, and not offered to the keeper where the time does not follow the twin. -/
theorem Mach.hbTime_eq {m : Mach} (hf : m.timeFollow = false) (d : BitVec 512) : m.hbTime d = (m.hbTold d).skewMarked (m.hbOff d) := by
  have hf' : ((m.hbTold d).skewMarked (m.hbOff d)).timeFollow = false := by
    refine (Mach.skewMarked_keeps (π := Mach.timeFollow) (fun _ _ => rfl) (fun m a w h => ?_) _ _).trans hf
    refine congrArg (bt · 16) (Mach.reg_setReg_ne _ _ ?_)
    rcases h with h | h | h <;> rw [h] <;> decide
  change (if ((m.hbTold d).skewMarked (m.hbOff d)).timeFollow && _ && _ then _ else _) = _
  rw [hf', Bool.false_and, Bool.false_and]
  rfl

theorem Mach.hbRead_eq {m : Mach} (hf : m.timeFollow = false) (d : BitVec 512) : m.hbRead d =
    ((m.modTwin (fun x => { x with hbIn := none, missed := 0, twVar := bf d 168 4 })).hbTold d).skewMarked (m.hbOff d) :=
  Mach.hbTime_eq (m := m.modTwin (fun x => { x with hbIn := none, missed := 0, twVar := bf d 168 4 })) hf d

/-- The unit goes DOWN. -/
theorem Mach.twinDown_twin {m : Mach} (h : m.twin.st ≠ .down) : m.twinDown.twin.st = .down ∧ m.twinDown.twin.trained = false ∧ m.twinDown.twin.map = m.twin.map := by
  obtain ⟨htw, -⟩ := Mach.twinState_enters (m := m.modTwin (fun x =>
    { x with trained := false, recq := [], recw := [], outq := [], hbDue := false, unack := [], again := [] })) h 0 0
  have hend (z : Mach) : (z.endTwinOp xSTATE).twin = { z.twin with op := 0, opSelf := false, left := [], flushq := [], flushed := [] } :=
    congrArg (fun x : Twin => { x with op := 0, opSelf := false, left := [], flushq := [], flushed := [] })
      (Mach.finish_keeps (π := Mach.twin) (fun _ _ => rfl) z _ _)
  unfold Mach.twinDown
  rw [hend, htw]
  exact ⟨rfl, rfl, rfl⟩

theorem Mach.withdrawPlane_safe {m : Mach} (h : m.twin.wdrawn = false) (hsafe : m.safe = false) :
    m.withdrawPlane.twin = { m.twin with wdrawn := true } ∧ m.withdrawPlane.safe = true ∧ m.withdrawPlane.flt.cause = 2 := by
  unfold Mach.withdrawPlane Mach.enterSafe
  rw [h, show (m.modTwin (fun x => { x with wdrawn := true })).safe = false from hsafe]
  rw [if_neg (by decide), if_neg (by decide)]
  exact ⟨rfl, rfl, (by decide : (2 &&& 2) ||| (2 &&& 2) ||| (2 &&& 2) = 2)⟩

section
variable {m : Mach} {live : Bool}

theorem Mach.hbCounted_twin : (m.hbCounted live).twin = { m.twin with live := live, missed := min 15 (m.twin.missed + 1) } :=
  Mach.twin_addFld ..

/-- Fewer than 3 missed heartbeats change nothing. -/
theorem Mach.hbJudged_few (h : m.twin.missed < 3) : m.hbJudged live = m := by
  unfold Mach.hbJudged
  dsimp only
  rw [hbDead_few (by omega), decide_eq_false (show ¬ 3 ≤ m.twin.missed by omega)]
  simp

variable (hbad : m.twin.cfgBad = false) (hfull : m.twin.st = .attached ∨ m.twin.st = .detaching)
include hbad hfull

theorem Mach.hbJudged_dead (hk : 4 ≤ m.twin.missed) (h : live = false ∨ m.straps.planeB = false) :
    m.hbJudged live = m.declareDead (if live then 2 else 0) := by
  unfold Mach.hbJudged Twin.carrying
  dsimp only
  rw [hbad, decide_eq_true hfull, hbDead_many hk h]
  exact (if_neg (by decide)).trans (if_pos rfl)

theorem Mach.hbJudged_leaves (hk : 3 ≤ m.twin.missed) (hl : live = true) (h : m.straps.planeB = true) : m.hbJudged live = m.withdrawPlane := by
  unfold Mach.hbJudged Twin.carrying
  dsimp only
  rw [hbad, decide_eq_true hfull, hl, h, decide_eq_true hk, hbDead_stays]
  rfl
end

/-- A heartbeat with FAILED, where the time does not follow the twin. -/
theorem Mach.hbReceived_failed {m : Mach} {q : Nat} {d : BitVec 512} (hin : m.twin.hbIn = some (q, d)) (hf : bt d 175 = true) (htf : m.timeFollow = false)
    (hbad : m.twin.cfgBad = false) : ∃ z : Mach, m.hbReceived = z.hbFailed ∧ z.twin.st = m.twin.st ∧ z.twin.map = m.twin.map ∧ z.straps = m.straps := by
  have hkeep {γ : Type} {π : Mach → γ} (heng : ∀ (m : Mach) f, π (m.modEng 0 f) = π m) (hreg : ∀ (m : Mach) a w, π (m.setReg a w) = π m) :
      π (m.hbRead d) = π ((m.modTwin (fun x => { x with hbIn := none, missed := 0, twVar := bf d 168 4 })).hbTold d) := by
    rw [Mach.hbRead_eq htf]
    exact Mach.skewMarked_keeps heng (fun m a w _ => hreg m a w) _ _
  have htw : (m.hbRead d).twin = _ := hkeep (π := Mach.twin) (fun _ _ => rfl) (fun _ _ _ => rfl)
  refine ⟨m.hbRead d, ?_, by rw [htw]; rfl, by rw [htw]; rfl, hkeep (π := Mach.straps) (fun _ _ => rfl) (fun _ _ _ => rfl)⟩
  have hbad' : (m.hbRead d).twin.cfgBad = false := by
    rw [htw]
    exact hbad
  unfold Mach.hbReceived
  rw [hin]
  dsimp only
  rw [hf, hbad']
  rfl

theorem Mach.hbFailed_full {m : Mach} (h : m.twin.st = .attached ∨ m.twin.st = .detaching) : m.hbFailed = m.declareDead 1 := by
  unfold Mach.hbFailed Twin.carrying
  exact if_pos (decide_eq_true h)

theorem Mach.hbFailed_down {m : Mach} (h : m.twin.st = .attaching ∨ m.twin.st = .detached) : m.hbFailed = m.twinDown := by
  have hno : ¬ (m.twin.st = .attached ∨ m.twin.st = .detaching) := by
    rcases h with h | h <;> rw [h] <;> decide
  unfold Mach.hbFailed Twin.carrying
  rw [decide_eq_false hno]
  exact (if_neg (by decide)).trans (if_pos h)

/-- The fields of a heartbeat. -/
theorem Mach.hbFrame_fields (m : Mach) : bf m.hbFrame 0 64 = m.ftNs % 2 ^ 64 ∧ bt m.hbFrame 175 = (m.twin.failed || m.twin.wdrawn) ∧
    bt m.hbFrame 174 = decide (m.keep.st = .track) ∧ bt m.hbFrame 172 = m.straps.planeB ∧ bf m.hbFrame 160 8 = m.twin.st.code ∧
    bf m.hbFrame 176 16 = m.twin.hbSeq % 65536 ∧ bf m.hbFrame 64 64 = m.twin.lastFt % 2 ^ 64 ∧
    bf m.hbFrame 128 32 = (m.ftNs - m.twin.lastAt) % 2 ^ 32 := by
  have hb (b : Bool) : (b1 b).testBit 0 = b := by cases b <;> rfl
  have hcode : m.twin.st.code % 2 ^ 8 = m.twin.st.code := by cases m.twin.st <;> rfl
  have h16 : 2 ^ 16 = 65536 := rfl
  unfold Mach.hbFrame
  dsimp only
  refine ⟨?_, ?_, ?_, ?_, ?_, ?_, ?_, ?_⟩
  case refine_2 | refine_3 | refine_4 => simp (disch := decide) only [bt_or, bt_mkf]; simp [hb]
  all_goals simp (disch := decide) only [bf_or, bf_mkf, bf_mkf_ne, Nat.or_zero, Nat.zero_or, hcode, h16]

/-- A heartbeat that is due leaves where no resend does and the link takes a frame. -/
theorem Mach.twinEdge_heartbeat {m : Mach} (hdue : m.twin.hbDue = true) (hag : m.twin.again = []) (hmay : m.twin.mayTx = true) :
    m.twinEdge = { m with twin := (m.twin.flushNow.send 2 m.hbFrame []).hbGone } := by
  unfold Mach.twinEdge
  dsimp only
  rw [show m.twin.flushNow.again = [] from hag, show m.twin.flushNow.hbDue = true from hdue]
  exact if_pos hmay

/-! ## Training (R399 to R401) -/

/-- The twin's link trains: the sequences start again. -/
def Mach.linkFresh (m : Mach) : Mach :=
  m.modTwin (fun x =>
    { x with trained := true, fseq := 0, rseq := 0, unack := [], again := [], rx := [], taken := none, hbIn := none, hbDue := false, crd := 0, nakOut := false, missed := 0,
             live := true })

/-- The state and the plane map that a training leaves. -/
def Mach.linkJoined (m : Mach) (fresh : Bool) : Mach :=
  if m.twin.fresh && fresh then (m.linkFresh.modTwin (fun x => { x with whole := none })).twinState .attached 0 0
  else (m.linkFresh.modTwin (fun x => { x with whole := m.linkFresh.wholeAt fresh })).twinState .detached 0 0

def Mach.linkTrained (m : Mach) (fresh : Bool) (variant : BitVec 4) (plane : Bool) : Mach :=
  if !m.pwr.aonUp || m.twin.cfgBad || !(decide (m.twin.st = .down) || decide (m.twin.st = .dead)) then m
  else if plane = m.straps.planeB ∨ variant.toNat ≠ m.straps.variant then
    (m.modTwin (fun x => { x with cfgBad := true })).occur 13 0 7 0 m.twin.cause 1
  else m.linkJoined fresh

theorem exec_twinLinkTrained {s : State} (hs : s.m.test.scan = false) (fresh : Bool) (variant : BitVec 4) (plane : Bool) :
    exec (.twinLinkTrained fresh variant plane) s = .next { s with m := s.m.linkTrained fresh variant plane } := by
  change execTwinLinkTrained fresh variant plane s = _
  rw [execTwinLinkTrained, State.on_eq hs]
  rfl

section
variable {m : Mach}

theorem Mach.linkTrained_bad (h : m.twin.cfgBad = true) (fresh : Bool) (variant : BitVec 4) (plane : Bool) : m.linkTrained fresh variant plane = m := by
  unfold Mach.linkTrained
  rw [h, Bool.or_true, Bool.true_or]
  rfl

variable (hup : m.pwr.aonUp = true) (hbad : m.twin.cfgBad = false) (hst : m.twin.st = .down ∨ m.twin.st = .dead) {fresh plane : Bool} {variant : BitVec 4}
include hup hbad hst

theorem Mach.linkTrained_open : (!m.pwr.aonUp || m.twin.cfgBad || !(decide (m.twin.st = .down) || decide (m.twin.st = .dead))) = false := by
  rw [hup, hbad]
  rcases hst with h | h <;> rw [h] <;> rfl

theorem Mach.linkTrained_misfit (h : plane = m.straps.planeB ∨ variant.toNat ≠ m.straps.variant) :
    (m.linkTrained fresh variant plane).twin = { m.twin with cfgBad := true } := by
  unfold Mach.linkTrained
  rw [Mach.linkTrained_open hup hbad hst, if_neg (by decide), if_pos h]
  exact Mach.occur_leaves (π := Mach.twin) _ _ _ _ _ _ _ (fun _ _ => rfl)

theorem Mach.linkTrained_joined (hp : plane ≠ m.straps.planeB) (hv : variant.toNat = m.straps.variant) :
    m.linkTrained fresh variant plane = m.linkJoined fresh := by
  unfold Mach.linkTrained
  rw [Mach.linkTrained_open hup hbad hst, if_neg (by decide), if_neg (by rintro (h | h); exacts [hp h, h hv])]

omit hup hbad in
/-- The twin that a training leaves. -/
theorem Mach.linkJoined_twin : (m.linkJoined fresh).twin.st = (if fresh && m.twin.fresh then .attached else .detached) ∧
    (m.linkJoined fresh).twin.trained = true ∧ (m.linkJoined fresh).twin.map = m.twin.map ∧
    (m.linkJoined fresh).twin.whole = (if fresh && m.twin.fresh then none else m.wholeAt fresh) ∧ (m.linkJoined fresh).straps = m.straps := by
  have hne {x : TwSt} (hx : x = .attached ∨ x = .detached) : m.twin.st ≠ x := by
    rcases hst with h | h <;> rcases hx with h' | h' <;> rw [h, h'] <;> decide
  unfold Mach.linkJoined
  rw [Bool.and_comm]
  by_cases hf : (fresh && m.twin.fresh) = true
  · obtain ⟨htw, -, -, -, -, hstr, -⟩ := Mach.twinState_enters (m := m.linkFresh.modTwin (fun x => { x with whole := none })) (hne (.inl rfl)) 0 0
    rw [if_pos hf, if_pos hf, if_pos hf, htw, hstr]
    exact ⟨rfl, rfl, rfl, rfl, rfl⟩
  · obtain ⟨htw, -, -, -, -, hstr, -⟩ := Mach.twinState_enters (m := m.linkFresh.modTwin (fun x => { x with whole := m.linkFresh.wholeAt fresh }))
      (hne (.inr rfl)) 0 0
    rw [if_neg hf, if_neg hf, if_neg hf, htw, hstr]
    exact ⟨rfl, rfl, rfl, rfl, rfl⟩
end

/-! ## The end of a notice and of a flush handshake (R405, R415) -/

/-- The notice of an NIU that has been answered leaves the target requests. -/
def Mach.noticeEnds (m : Mach) (n : Nat) : Mach :=
  match lowest (fun k => (Tab.get dNone (m.niu n).tt k).any (fun t => t.kind == .service && bf t.hd 11 6 == 0x3E) &&
      !(m.niu n).treq.any (fun q => q.1 == k)) 256 with
  | none => m
  | some k => (m.modNiu n (fun x => { x with tt := Tab.set dNone x.tt k none })).noticeDone n

def Mach.handshakeEnds (m : Mach) (n : Nat) : Mach :=
  if m.twin.st = .detaching ∧ m.twin.opTo = m.straps.planeB ∧ m.twin.left.contains n = true ∧ m.twin.flushed.contains n = true ∧
      (m.niu n).notice = false then
    ((m.modNiu n (fun x => { x with arrive := false })).modTwin (fun x => { x with left := x.left.filter (fun k => k ≠ n) })).moveCheck
  else m

section
variable {s : State} (hs : s.m.test.scan = false)
include hs

theorem exec_twinAbsentTimeout : exec .twinAbsentTimeout s = .next { s with m :=
    if s.m.pwr.ready ∧ s.m.twin.st = .down ∧ s.m.twin.cfgBad = false then s.m.declareDead 3 else s.m } := by
  change execTwinAbsentTimeout s = _
  rw [execTwinAbsentTimeout, State.on_eq hs]

theorem exec_noticeAnswered (ep : Ep) : exec (.noticeAnswered ep) s = .next { s with m := s.m.noticeEnds ep } := by
  change execNoticeAnswered ep s = _
  rw [execNoticeAnswered, State.on_eq hs]
  rfl

theorem exec_flushHandshakeDone (ep : Ep) : exec (.flushHandshakeDone ep) s = .next { s with m := s.m.handshakeEnds ep } := by
  change execFlushHandshakeDone ep s = _
  rw [execFlushHandshakeDone, State.on_eq hs]
  rfl
end

section
variable {m : Mach} {n : Nat}

theorem Mach.noticeEnds_none (h : (m.niu n).tt = []) : m.noticeEnds n = m := by
  have hno : lowest (fun k => (Tab.get dNone (m.niu n).tt k).any (fun t => t.kind == .service && bf t.hd 11 6 == 0x3E) &&
      !(m.niu n).treq.any (fun q => q.1 == k)) 256 = none := by
    rw [lowest, List.find?_eq_none, h]
    exact fun _ _ h => nomatch h
  unfold Mach.noticeEnds
  rw [hno]

/-- The only target request of an NIU, its notice, is answered while no move runs. -/
theorem Mach.noticeEnds_one {k : Nat} {t : TT} (h : (m.niu n).tt = [(k, some t)]) (hk : k < 256) (hs : t.kind = .service) (hq : bf t.hd 11 6 = 0x3E)
    (htr : (m.niu n).treq = none) (hst : m.twin.st ≠ .detaching) : (m.noticeEnds n).Like (m.modNiu n (fun y => { y with tt := [], notice := false })) := by
  have hlow : lowest (fun k => (Tab.get dNone (m.niu n).tt k).any (fun t => t.kind == .service && bf t.hd 11 6 == 0x3E) &&
      !(m.niu n).treq.any (fun q => q.1 == k)) 256 = some k := by
    rw [lowest_eq_some, h, htr]
    refine ⟨?_, hk, fun j hj => ?_⟩
    · rw [Tab.get, Tab.find, if_pos rfl, Option.getD_some, Option.any_some, hs, hq]
      rfl
    · rw [Tab.get, Tab.find, if_neg (by omega)]
      rfl
  have hset : Tab.set dNone [(k, some t)] k none = [] := by
    unfold Tab.set Tab.del
    exact (if_pos rfl).trans (List.filter_cons_of_neg (by simp))
  unfold Mach.noticeEnds
  rw [hlow]
  dsimp only
  unfold Mach.noticeDone
  dsimp only
  rw [if_neg (fun h => hst h.2.1)]
  refine (Mach.like_modNiu_twice _ _ _ _).trans (.of_eq (Mach.modNiu_congr ?_))
  rw [h, hset]

theorem Mach.handshakeEnds_one (hst : m.twin.st = .detaching) (hto : m.twin.opTo = m.straps.planeB) (hl : m.twin.left.contains n = true)
    (hf : m.twin.flushed.contains n = true) (hn : (m.niu n).notice = false) (hne : m.twin.left.filter (fun k => k ≠ n) ≠ []) : m.handshakeEnds n =
    (m.modNiu n (fun x => { x with arrive := false })).modTwin (fun x => { x with left := x.left.filter (fun k => k ≠ n) }) := by
  unfold Mach.handshakeEnds
  rw [if_pos ⟨hst, hto, hl, hf, hn⟩]
  unfold Mach.moveCheck
  exact if_neg (fun h => hne h.2.2)
end

theorem Twin.mapOf_congr {x y : Twin} (h : x.map = y.map) (f : BitVec 16) : x.mapOf f = y.mapOf f := by
  unfold Twin.mapOf
  rw [h]

theorem Mach.planeOf_some {m : Mach} {b : Bool} (h : m.twin.whole = some b) (f : BitVec 16) : m.planeOf f = (m.straps.planeB == b) := by
  unfold Mach.planeOf
  rw [h]

theorem Mach.planeOf_none {m : Mach} (h : m.twin.whole = none) (f : BitVec 16) : m.planeOf f = m.twin.mapOf f := by
  unfold Mach.planeOf
  rw [h]

theorem Mach.planeOf_congr {a m : Mach} (hw : a.twin.whole = m.twin.whole) (hm : a.twin.map = m.twin.map) (hs : a.straps = m.straps) (f : BitVec 16) :
    a.planeOf f = m.planeOf f := by
  unfold Mach.planeOf
  rw [hw, hs, Twin.mapOf_congr hm]

/-- Where neither plane is fresh the flows stay as they were, or, where a part of them was here, plane A carries all. -/
theorem Mach.wholeAt_old {m : Mach} (h : m.twin.fresh = false) : m.wholeAt false =
    if m.twin.whole.isSome = true ∨ m.allOn true = true ∨ m.allOn false = true then m.twin.whole else some (!m.straps.planeB) := by
  unfold Mach.wholeAt
  dsimp only
  rw [h, if_neg (by decide), if_neg (by decide)]
  exact if_congr (by rw [Bool.or_eq_true, Bool.or_eq_true, or_assoc]) rfl rfl

theorem not_dead_of_full {x : TwSt} (h : x = .attached ∨ x = .detaching) : x ≠ .dead := by
  rcases h with h | h <;> rw [h] <;> decide

/-- Settles O47: heartbeats, training, loss and death of the twin. -/
theorem twinStates : Obligations.TwinStates := by
  unfold Obligations.TwinStates
  refine ⟨fun s d q live => ?_, fun s fresh plane variant ep k t0 => ?_⟩
  · intro x k rtt full hs hup hst
    have hx := exec_hbReceive hs
    have hxm := exec_hbMissed hs hup hst live
    have hcount (hfull : full) (hin : x.hbIn = none) : s.m.hbMiss live = (s.m.hbCounted live).hbJudged live := by
      have hin' : s.m.twin.hbIn = none := hin
      refine if_neg (fun h => ?_)
      rw [hin'] at h
      rcases h with h | h
      · rcases hfull with h' | h' <;> exact absurd (h.symm.trans h') (by decide)
      · cases h
    refine ⟨fun h => ?_, fun h => ?_, ?_, fun hdue hag hmay => ?_, fun hin => ?_, fun hin hf htf hskew => ?_, fun hin hf htf hbad hfull => ⟨_, hx, ?_⟩,
      fun hin hf htf hbad hattd => ⟨_, hx, ?_⟩, fun hd hin hk => ?_, fun h => ?_, fun hfull hin hbad hk hlb => ⟨_, hxm, ?_⟩,
      fun hfull hin hbad hk hlive hb hw hsafe => ⟨_, hxm, ?_⟩⟩
    · exact ⟨_, exec_hbSend hs hup hst, rfl, rfl, .of_eq (if_pos h)⟩
    · exact ⟨_, exec_hbSend hs hup hst, rfl, rfl, .of_eq (if_neg h)⟩
    · exact Mach.hbFrame_fields s.m
    · rw [Mach.twinEdge_heartbeat hdue hag hmay]
      exact ⟨rfl, rfl, rfl⟩
    · exact ⟨_, hx, rfl, rfl, .of_eq (by unfold Mach.hbReceived; rw [show s.m.twin.hbIn = none from hin])⟩
    · refine ⟨_, hx, rfl, rfl, .of_eq ?_⟩
      unfold Mach.hbReceived
      rw [show s.m.twin.hbIn = _ from hin]
      dsimp only
      rw [hf]
      refine (if_pos rfl).trans ((Mach.hbRead_eq htf d).trans ?_)
      exact if_neg (Nat.not_lt.2 hskew)
    · obtain ⟨z, hz, hst', -, hstr⟩ := Mach.hbReceived_failed hin hf htf hbad
      have hzs : z.twin.st = .attached ∨ z.twin.st = .detaching := by rw [hst']; exact hfull
      rw [hz, Mach.hbFailed_full hzs]
      have hdied := Mach.declareDead_died (not_dead_of_full hzs) 1
      exact ⟨hdied.st, hdied.cause, fun f => (hdied.plane f).trans (congrArg Straps.planeB hstr)⟩
    · obtain ⟨z, hz, hst', hmap, -⟩ := Mach.hbReceived_failed hin hf htf hbad
      have hzs : z.twin.st = .attaching ∨ z.twin.st = .detached := by rw [hst']; exact hattd
      rw [hz, Mach.hbFailed_down hzs]
      obtain ⟨h1, h2, h3⟩ := Mach.twinDown_twin (m := z) (by rcases hzs with h | h <;> rw [h] <;> decide)
      exact ⟨h1, h2, h3.trans hmap⟩
    · have hm : (s.m.hbCounted live).twin.missed < 3 := by rw [Mach.hbCounted_twin]; exact hk
      have hin' : s.m.twin.hbIn = none := hin
      exact ⟨_, hxm, rfl, rfl, .of_eq ((if_neg (by rw [hin']; exact fun h => h.elim hd (fun h => nomatch h))).trans ((Mach.hbJudged_few hm).trans rfl))⟩
    · exact ⟨_, hxm, rfl, rfl, .of_eq (if_pos (h.imp_right Option.isSome_iff_ne_none.2))⟩
    · have hz := Mach.hbCounted_twin (m := s.m) (live := live)
      have hzs : (s.m.hbCounted live).twin.st = .attached ∨ (s.m.hbCounted live).twin.st = .detaching := by rw [hz]; exact hfull
      have hzk : 4 ≤ (s.m.hbCounted live).twin.missed := by rw [hz]; exact hk
      have hzb : (s.m.hbCounted live).twin.cfgBad = false := by rw [hz]; exact hbad
      rw [hcount hfull hin, Mach.hbJudged_dead hzb hzs hzk hlb]
      have hdied := Mach.declareDead_died (not_dead_of_full hzs) (if live then 2 else 0)
      exact ⟨hdied.st, hdied.cause, hdied.plane⟩
    · have hz := Mach.hbCounted_twin (m := s.m) (live := live)
      have hzs : (s.m.hbCounted live).twin.st = .attached ∨ (s.m.hbCounted live).twin.st = .detaching := by rw [hz]; exact hfull
      have hzk : 3 ≤ (s.m.hbCounted live).twin.missed := by rw [hz]; exact hk
      have hzb : (s.m.hbCounted live).twin.cfgBad = false := by rw [hz]; exact hbad
      have hzw : (s.m.hbCounted live).twin.wdrawn = false := by rw [hz]; exact hw
      rw [hcount hfull hin, Mach.hbJudged_leaves hzb hzs hzk hlive hb]
      obtain ⟨h1, h2, h3⟩ := Mach.withdrawPlane_safe hzw hsafe
      exact ⟨by rw [h1], h2, h3, by rw [h1, hz]⟩
  · intro x y hs
    have hx := exec_twinLinkTrained hs fresh variant plane
    have hxa := exec_twinAbsentTimeout hs
    have hxn := exec_noticeAnswered hs ep
    have hxf := exec_flushHandshakeDone hs ep
    refine ⟨fun hup hbad hst hp hv => ⟨_, hx, ?_⟩, fun hup hbad hst h => ⟨_, hx, Mach.linkTrained_misfit hup hbad hst h⟩,
      fun hbad => ⟨_, hx, rfl, rfl, .of_eq (Mach.linkTrained_bad hbad _ _ _)⟩, fun hr hst hbad => ⟨_, hxa, ?_⟩, fun h => ⟨_, hxa, rfl, rfl, .of_eq ?_⟩,
      fun htt hk hsv hq htr hst => ⟨_, hxn, rfl, rfl, Mach.noticeEnds_one htt hk hsv hq htr hst⟩,
      fun htt => ⟨_, hxn, rfl, rfl, .of_eq (Mach.noticeEnds_none htt)⟩,
      fun hst hto hl hf hn hne => ⟨_, hxf, rfl, rfl, .of_eq (Mach.handshakeEnds_one hst hto hl hf hn hne)⟩,
      fun h => ⟨_, hxf, rfl, rfl, .of_eq (if_neg ?_)⟩⟩
    · rw [Mach.linkTrained_joined hup hbad hst hp hv]
      obtain ⟨hst', htr, hmap, hwhole, hstr⟩ := Mach.linkJoined_twin hst (fresh := fresh)
      refine ⟨htr, hst', hmap, fun hboth f => ?_, fun hf hf' f => ?_, fun hf hf' f => ?_, fun hf hf' f => ?_⟩
      · rw [if_pos hboth] at hwhole
        rw [Mach.planeOf_none hwhole, Twin.mapOf_congr hmap]
      · have hw : s.m.wholeAt fresh = some false := if_pos hf
        rw [hf', Bool.false_and, if_neg (by decide), ← hf', hw] at hwhole
        rw [Mach.planeOf_some hwhole, hstr]
        cases s.m.straps.planeB <;> rfl
      · have hw : s.m.wholeAt fresh = some true := (if_neg (by rw [show s.m.twin.fresh = false from hf]; decide)).trans (if_pos hf')
        rw [show s.m.twin.fresh = false from hf, Bool.and_false, if_neg (by decide), hw] at hwhole
        rw [Mach.planeOf_some hwhole, hstr]
        cases s.m.straps.planeB <;> rfl
      · subst hf'
        rw [Bool.false_and, if_neg (by decide), Mach.wholeAt_old hf] at hwhole
        by_cases hold : s.m.twin.whole.isSome = true ∨ s.m.allOn true = true ∨ s.m.allOn false = true
        · rw [if_pos hold] at hwhole ⊢
          exact Mach.planeOf_congr hwhole hmap hstr f
        · rw [if_neg hold] at hwhole ⊢
          rw [Mach.planeOf_some hwhole, hstr]
          cases s.m.straps.planeB <;> rfl
    · rw [if_pos ⟨hr, hst, hbad⟩]
      have hdied := Mach.declareDead_died (m := s.m) (by rw [show s.m.twin.st = .down from hst]; decide) 3
      exact ⟨hdied.st, hdied.cause, hdied.recq, hdied.plane, hdied.niu⟩
    · refine if_neg (fun h' => ?_)
      obtain ⟨hr, hst, hbad⟩ := h'
      rcases h with h | h | h
      · rw [h] at hr; cases hr
      · exact h hst
      · rw [show s.m.twin.cfgBad = true from h] at hbad; cases hbad
    · intro h'
      obtain ⟨hst, -, -, hf, hn⟩ := h'
      rcases h with h | h | h
      · exact h hst
      · rw [show s.m.twin.flushed.contains ep.val = false from h] at hf; cases hf
      · rw [show (s.m.niu ep).notice = true from h] at hn; cases hn

end Sys2Proof.Machine

/-! PROOFS. The request channel of a port (O52). -/

namespace Sys2Proof.Machine

/-! ## A beat at the port (R67, R70, R71) -/

theorem Mach.Like.thenNiu {a m : Mach} {n : Nat} {f : Niu → Niu} (h : a.Like (m.modNiu n f)) (g : Niu → Niu) :
    (a.modNiu n g).Like (m.modNiu n (fun x => g (f x))) :=
  (Mach.Like.modNiu h n g).trans (Mach.like_modNiu_twice m n f g)

theorem Mach.niu_offer (m : Mach) (n : Nat) : (m.offer n).niu n = { m.niu n with beatAt := some m.clk.cyc, beatEnd := false } := Mach.niu_modNiu _ _ _

theorem Mach.portOpen_offer (m : Mach) (n : Nat) : (m.offer n).portOpen n = m.portOpen n := by
  unfold Mach.portOpen Mach.epStop
  rw [Mach.niu_offer]
  rfl

theorem Mach.portOpen_iff {m : Mach} {n : Nat} : m.portOpen n = true ↔
    (m.niu n).rstN = true ∧ (m.niu n).abort = false ∧ m.epStop n = false ∧ (m.niu n).ingress.length < 18 := by
  unfold Mach.portOpen
  simp [and_assoc]

theorem Mach.refuseBeat_like (m : Mach) {n : Nat} (hn : n < 512) : (m.refuseBeat n).Like m := by
  unfold Mach.refuseBeat Mach.countNiu
  rw [if_pos hn]
  exact m.like_count (by simp only [ctrNiu]; omega) _ _ _ _ _

/-- An accepted request takes the serial number `a`. -/
def Niu.acceptAs (a uid : Nat) (x : Niu) : Niu :=
  { x with
    accNext := a + 1
    trk := Tab.mapv dNone (fun _ o => o.map (fun t => if t.uid = uid then { t with acc := a } else t)) x.trk
    pwb := Tab.mapv dNone (fun _ o => o.map (fun w => if w.uid = uid then { w with acc := a } else w)) x.pwb }

/-- An accepted request takes its serial number. -/
def Niu.accept (uid : Nat) (x : Niu) : Niu := x.acceptAs x.accNext uid

section
variable (x : Niu) (uid j : Nat)

theorem Niu.trk_accept : Tab.get dNone (x.accept uid).trk j = (Tab.get dNone x.trk j).map (fun t => if t.uid = uid then { t with acc := x.accNext } else t) :=
  Tab.get_mapv_same (d := dNone) x.trk (fun _ (o : Option Trk) => o.map (fun (t : Trk) => if t.uid = uid then { t with acc := x.accNext } else t)) j rfl

theorem Niu.pwb_accept : Tab.get dNone (x.accept uid).pwb j = (Tab.get dNone x.pwb j).map (fun w => if w.uid = uid then { w with acc := x.accNext } else w) :=
  Tab.get_mapv_same (d := dNone) x.pwb (fun _ (o : Option Pwb) => o.map (fun (w : Pwb) => if w.uid = uid then { w with acc := x.accNext } else w)) j rfl
end

/-- No answer is held for the request `uid`, and no buffer entry of it has failed. -/
structure Niu.Unanswered (x : Niu) (uid : Nat) : Prop where
  trk : ∀ j t, Tab.get dNone x.trk j = some t → t.uid = uid → t.hold = none
  pwb : ∀ j w, Tab.get dNone x.pwb j = some w → w.uid = uid → w.fail = false

theorem Niu.Unanswered.accept {x : Niu} {uid : Nat} (h : x.Unanswered uid) : (x.accept uid).Unanswered uid where
  trk j t ht hu := by
    rw [Niu.trk_accept, Option.map_eq_some_iff] at ht
    obtain ⟨r, hr, rfl⟩ := ht
    split at hu
    · rw [if_pos (by assumption)]
      exact h.trk j r hr hu
    · exact absurd hu (by assumption)
  pwb j w hw hu := by
    rw [Niu.pwb_accept, Option.map_eq_some_iff] at hw
    obtain ⟨r, hr, rfl⟩ := hw
    split at hu
    · rw [if_pos (by assumption)]
      exact h.pwb j r hr hu
    · exact absurd hu (by assumption)

/-- The answer that waited for the acceptance of the request `uid` is given (R94). -/
def Mach.heldAnswer (m : Mach) (n uid : Nat) : Mach :=
  match lowest (fun k => (Tab.get dNone (m.niu n).trk k).any (fun t => t.uid == uid)) 256 with
  | some k =>
    match (Tab.get dNone (m.niu n).trk k).bind Trk.hold with
    | some st => m.respond n k st 0 0 [] none
    | none => m
  | none =>
    match lowest (fun k => (Tab.get dNone (m.niu n).pwb k).any (fun w => w.uid == uid && w.fail)) 16 with
    | some k => (m.modNiu n (fun x => x.freePwb k)).addFld (aNiu n 0x38) 0 16 1
    | none => m

theorem Mach.heldAnswer_none {m : Mach} {n uid : Nat} (h : (m.niu n).Unanswered uid) : m.heldAnswer n uid = m := by
  have hfail : lowest (fun k => (Tab.get dNone (m.niu n).pwb k).any (fun w => w.uid == uid && w.fail)) 16 = none := by
    rw [lowest, List.find?_eq_none]
    intro j _ hj
    cases hw : Tab.get dNone (m.niu n).pwb j with
    | none => rw [hw] at hj; exact nomatch hj
    | some w =>
      rw [hw, Option.any_some, Bool.and_eq_true, beq_iff_eq] at hj
      rw [h.pwb j w hw hj.1] at hj
      exact nomatch hj.2
  unfold Mach.heldAnswer
  split
  · next k hk =>
    obtain ⟨hk, -, -⟩ := lowest_eq_some.1 hk
    cases ht : Tab.get dNone (m.niu n).trk k with
    | none => rfl
    | some t =>
      rw [ht, Option.any_some, beq_iff_eq] at hk
      rw [Option.bind_some, h.trk k t ht hk]
  · rw [hfail]

/-- A request for which no answer is held is accepted. -/
theorem Mach.acceptReq_eq {m : Mach} {n uid : Nat} (h : (m.niu n).Unanswered uid) : m.acceptReq n uid = m.modNiu n (Niu.accept uid) := by
  have hacc := h.accept
  rw [← Mach.niu_modNiu m n (Niu.accept uid)] at hacc
  have hmod : m.acceptReq n uid = (m.modNiu n (Niu.acceptAs (m.niu n).accNext uid)).heldAnswer n uid := rfl
  rw [hmod, Mach.modNiu_congr (f := Niu.acceptAs (m.niu n).accNext uid) (g := Niu.accept uid) rfl, Mach.heldAnswer_none hacc]

/-! ## Units (R70, R71, R89) -/

section
variable {m : Mach} {n : Nat} {u : PUnit}

theorem Mach.unitStep_goes (h : u.left ≠ 0) : m.unitStep n u = m.modNiu n (fun x => { x with unit := some u }) := by
  unfold Mach.unitStep
  exact if_pos h

theorem Mach.unitStep_parks (h : u.left = 0) (ha : u.after ≠ 0) : (m.unitStep n u).Like
    (m.modNiu n (fun x => { x with beatEnd := true, unit := none, opens := x.opens ++ [u] })) := by
  unfold Mach.unitStep
  rw [if_neg (not_not_intro h), if_pos ha]
  exact Mach.like_modNiu_twice _ _ _ _

theorem Mach.unitStep_accepts (h : u.left = 0) (ha : u.after = 0) (hu : (m.niu n).Unanswered u.uid) : m.unitStep n u =
    ((m.modNiu n (fun x => { x with beatEnd := true })).modNiu n (fun x => { x with unit := none })).modNiu n (Niu.accept u.uid) := by
  unfold Mach.unitStep
  rw [if_neg (not_not_intro h), if_neg (not_not_intro ha)]
  refine Mach.acceptReq_eq ?_
  rw [Mach.niu_modNiu, Mach.niu_modNiu]
  exact ⟨hu.trk, hu.pwb⟩
end

/-! ## Header beats (R69, R101) -/

/-- The TAG or buffer entry that a header takes. -/
def Niu.reqSlot (x : Niu) (d : BeatBits) : Option Nat :=
  if qPosted d then (if x.devDrain then none else lowest (fun k => (Tab.get dNone x.pwb k).isNone) 16)
  else lowest (fun k => (Tab.get dNone x.trk k).isNone) 256

/-- The request of a header beat is entered under `k`. -/
def Niu.enter (d : BeatBits) (dbg : Bool) (k uid : Nat) (x : Niu) : Niu :=
  let x := { x with uidNext := uid + 1 }
  if qPosted d then { x with pwb := Tab.set dNone x.pwb k (some ⟨uid, qEtag d, false, qFlow d, 0, 0, false, false, 0, .endpoint, none, 0, []⟩) }
  else { x with trk := Tab.set dNone x.trk k (some ⟨uid, d, qFlow d, 0, [], 0, false, false, 0, .endpoint, false, none, false, false, none, 0, [], dbg⟩) }

/-- The first unit of a request. -/
def firstUnit (d : BeatBits) (uid o : Nat) : PUnit :=
  ⟨uid, o, 0, unitBeats d 0, dataBeats (qOpc d) (qSize d) - unitBeats d 0, qOpc d == opMSG⟩

/-- A header beat where the owner `o` may begin a request. -/
def Mach.headerGiven (m : Mach) (n : Nat) (d : BeatBits) (last dbg : Bool) (o : Nat) : Mach :=
  let uid := (m.niu n).uidNext
  match (m.niu n).reqSlot d with
  | none => (m.offer n).refuseBeat n
  | some k =>
    if !(m.offer n).portOpen n then (m.offer n).refuseBeat n
    else if last ≠ decide (unitBeats d 0 = 0) then (m.offer n).proto n false
    else (((m.offer n).modNiu n (Niu.enter d dbg k uid)).takeBeat n ⟨.header, d, dbg, k, uid⟩).unitStep n (firstUnit d uid o)

def Mach.headerBeat (m : Mach) (n : Nat) (d : BeatBits) (last dbg : Bool) (sub : Nat) : Mach :=
  match (m.niu n).owner with
  | none => m
  | some o =>
    if ((m.niu n).spEn ∧ o ≠ sub) ∨ (m.niu n).unit.isSome ∨ (m.niu n).opens.any (fun u => u.sub == o) then m
    else m.headerGiven n d last dbg o

theorem exec_reqHeaderBeat {s : State} (hs : s.m.test.scan = false) (ep : Ep) (d : BeatBits) (last dbg : Bool) (sub : Sub) :
    exec (.reqHeaderBeat ep d last dbg sub) s = .next { s with m := s.m.headerBeat ep.val d last dbg sub.val } := by
  change execReqHeaderBeat ep d last dbg sub s = _
  rw [execReqHeaderBeat, State.on_eq hs]
  rfl

section
variable {x : Niu} {d : BeatBits} {k : Nat}

theorem Niu.reqSlot_tag (hp : qPosted d = false) (hk : k < 256) (hf : Tab.get dNone x.trk k = none) (hl : ∀ j, j < k → Tab.get dNone x.trk j ≠ none) :
    x.reqSlot d = some k := by
  unfold Niu.reqSlot
  rw [hp, if_neg (by decide), lowest_eq_some, hf]
  exact ⟨rfl, hk, fun j hj => Option.isNone_eq_false_iff.2 (Option.isSome_iff_ne_none.2 (hl j hj))⟩

theorem Niu.reqSlot_buf (hp : qPosted d = true) (hd : x.devDrain = false) (hk : k < 16) (hf : Tab.get dNone x.pwb k = none)
    (hl : ∀ j, j < k → Tab.get dNone x.pwb j ≠ none) : x.reqSlot d = some k := by
  unfold Niu.reqSlot
  rw [hp, if_pos rfl, hd, if_neg (by decide), lowest_eq_some, hf]
  exact ⟨rfl, hk, fun j hj => Option.isNone_eq_false_iff.2 (Option.isSome_iff_ne_none.2 (hl j hj))⟩

/-- No place for a request. -/
theorem Niu.reqSlot_none (h : (qPosted d = false ∧ ∀ j, j < 256 → Tab.get dNone x.trk j ≠ none) ∨
    (qPosted d = true ∧ (x.devDrain = true ∨ ∀ j, j < 16 → Tab.get dNone x.pwb j ≠ none))) : x.reqSlot d = none := by
  have hno {α : Type} {t : Tab (Option α)} {n : Nat} (h : ∀ j, j < n → Tab.get dNone t j ≠ none) :
      lowest (fun k => (Tab.get dNone t k).isNone) n = none := by
    rw [lowest, List.find?_eq_none]
    intro j hj hn
    exact h j (List.mem_range.1 hj) (Option.isNone_iff_eq_none.1 hn)
  unfold Niu.reqSlot
  rcases h with ⟨hp, h⟩ | ⟨hp, h | h⟩
  · rw [hp, if_neg (by decide), hno h]
  · rw [hp, h, if_pos rfl, if_pos rfl]
  · rw [hp, if_pos rfl, hno h, ite_self]

variable {dbg : Bool} {uid : Nat}

/-- The entry of a request that is new. -/
theorem Niu.enter_unanswered (ht : ∀ j t, Tab.get dNone x.trk j = some t → t.uid ≠ uid) (hw : ∀ j w, Tab.get dNone x.pwb j = some w → w.uid ≠ uid) :
    (x.enter d dbg k uid).Unanswered uid := by
  unfold Niu.enter
  constructor
  · intro j t h hu
    split at h
    · exact absurd hu (ht j t h)
    · by_cases hj : j = k
      · subst hj
        rw [Tab.get_set] at h
        obtain rfl := Option.some.inj h
        rfl
      · rw [Tab.get_set_ne _ _ hj] at h
        exact absurd hu (ht j t h)
  · intro j w h hu
    split at h
    · by_cases hj : j = k
      · subst hj
        rw [Tab.get_set] at h
        obtain rfl := Option.some.inj h
        rfl
      · rw [Tab.get_set_ne _ _ hj] at h
        exact absurd hu (hw j w h)
    · exact absurd hu (hw j w h)
end

/-- A header has been taken: the request is entered, and its beat stands in the ingress buffer. -/
def Niu.headTaken (d : BeatBits) (dbg : Bool) (k uid now : Nat) (x : Niu) : Niu :=
  let x := ({ x with beatAt := some now, beatEnd := false } : Niu).enter d dbg k uid
  { x with ingress := x.ingress ++ [⟨.header, d, dbg, k, uid⟩], burst := x.burst + 1 }

theorem Niu.headTaken_tag {d : BeatBits} (hp : qPosted d = false) (x : Niu) (dbg : Bool) (k uid now : Nat) : x.headTaken d dbg k uid now =
    { x with
      beatAt := some now, beatEnd := false, uidNext := uid + 1, ingress := x.ingress ++ [⟨.header, d, dbg, k, uid⟩], burst := x.burst + 1,
      trk := Tab.set dNone x.trk k (some ⟨uid, d, qFlow d, 0, [], 0, false, false, 0, .endpoint, false, none, false, false, none, 0, [], dbg⟩) } := by
  unfold Niu.headTaken Niu.enter
  rw [hp]
  rfl

theorem Niu.headTaken_buf {d : BeatBits} (hp : qPosted d = true) (x : Niu) (dbg : Bool) (k uid now : Nat) : x.headTaken d dbg k uid now =
    { x with
      beatAt := some now, beatEnd := false, uidNext := uid + 1, ingress := x.ingress ++ [⟨.header, d, dbg, k, uid⟩], burst := x.burst + 1,
      pwb := Tab.set dNone x.pwb k (some ⟨uid, qEtag d, false, qFlow d, 0, 0, false, false, 0, .endpoint, none, 0, []⟩) } := by
  unfold Niu.headTaken Niu.enter
  rw [hp]
  rfl

/-- An entry of another request keeps what it is as a request is accepted. -/
theorem map_acc_of_ne {α : Type} {o : Option α} {p : α → Prop} [DecidablePred p] {g : α → α} (h : ∀ t, o = some t → ¬ p t) :
    o.map (fun t => if p t then g t else t) = o := by
  cases o with
  | none => rfl
  | some t => exact congrArg some (if_neg (h t rfl))

/-- The machine with a header taken. -/
def Mach.headTaken (m : Mach) (n : Nat) (d : BeatBits) (dbg : Bool) (k : Nat) : Mach :=
  ((m.offer n).modNiu n (Niu.enter d dbg k (m.niu n).uidNext)).takeBeat n ⟨.header, d, dbg, k, (m.niu n).uidNext⟩

theorem Mach.headTaken_like (m : Mach) (n : Nat) (d : BeatBits) (dbg : Bool) (k : Nat) :
    (m.headTaken n d dbg k).Like (m.modNiu n (Niu.headTaken d dbg k (m.niu n).uidNext m.clk.cyc)) :=
  ((Mach.Like.refl (m.offer n)).thenNiu (Niu.enter d dbg k (m.niu n).uidNext)).thenNiu _

section
variable {m : Mach} {n o sub : Nat} {d : BeatBits} {last dbg : Bool}

theorem Mach.headerBeat_given (hown : (m.niu n).owner = some o) (hsub : (m.niu n).spEn = true → o = sub) (hu : (m.niu n).unit = none)
    (hop : ∀ v ∈ (m.niu n).opens, v.sub ≠ o) : m.headerBeat n d last dbg sub = m.headerGiven n d last dbg o := by
  have hany : (m.niu n).opens.any (fun u => u.sub == o) = false := by
    rw [List.any_eq_false]
    exact fun v hv h => hop v hv (beq_iff_eq.1 h)
  unfold Mach.headerBeat
  rw [hown]
  dsimp only
  rw [hu, hany]
  refine if_neg ?_
  rintro (⟨h, hne⟩ | h | h)
  · exact hne (hsub h)
  · cases h
  · cases h

theorem Mach.headerBeat_not (h : (∃ p, (m.niu n).owner = some p ∧ (m.niu n).spEn = true ∧ p ≠ sub) ∨ (m.niu n).owner = none ∨ (m.niu n).unit ≠ none) :
    m.headerBeat n d last dbg sub = m := by
  unfold Mach.headerBeat
  split
  · rfl
  · next o ho =>
    refine if_pos ?_
    rcases h with ⟨p, hp, hen, hne⟩ | h | h
    · obtain rfl := Option.some.inj (ho.symm.trans hp)
      exact .inl ⟨hen, hne⟩
    · rw [ho] at h; cases h
    · exact .inr (.inl (Option.isSome_iff_ne_none.2 h))

/-- A header that finds no place, or a port that is closed, is refused. -/
theorem Mach.headerGiven_refused (hn : n < 512) (h : m.portOpen n = false ∨ (m.niu n).reqSlot d = none) :
    (m.headerGiven n d last dbg o).Like (m.offer n) := by
  unfold Mach.headerGiven
  dsimp only
  split
  · exact Mach.refuseBeat_like _ hn
  · next k hk =>
    have hopen : m.portOpen n = false := h.resolve_right (by rw [hk]; exact fun h => nomatch h)
    rw [Mach.portOpen_offer, hopen]
    exact Mach.refuseBeat_like _ hn

variable {k : Nat} (hk : (m.niu n).reqSlot d = some k) (hopen : m.portOpen n = true)
include hk hopen

theorem Mach.headerGiven_taken (hl : last = decide (unitBeats d 0 = 0)) :
    m.headerGiven n d last dbg o = (m.headTaken n d dbg k).unitStep n (firstUnit d (m.niu n).uidNext o) := by
  unfold Mach.headerGiven
  dsimp only
  rw [hk]
  dsimp only
  rw [Mach.portOpen_offer, hopen, if_neg (by decide), if_neg (not_not_intro hl)]
  rfl

/-- A framing error at a header. -/
theorem Mach.headerGiven_framing (hl : last ≠ decide (unitBeats d 0 = 0)) : m.headerGiven n d last dbg o = (m.offer n).proto n false := by
  unfold Mach.headerGiven
  dsimp only
  rw [hk]
  dsimp only
  rw [Mach.portOpen_offer, hopen, if_neg (by decide), if_pos hl]

/-- A header with data to follow. -/
theorem Mach.headerGiven_goes (hne : unitBeats d 0 ≠ 0) (hl : last = false) : (m.headerGiven n d last dbg o).Like
    (m.modNiu n (fun x => { x.headTaken d dbg k (m.niu n).uidNext m.clk.cyc with unit := some (firstUnit d (m.niu n).uidNext o) })) := by
  rw [Mach.headerGiven_taken hk hopen (by rw [hl, decide_eq_false hne]), Mach.unitStep_goes hne]
  exact (Mach.headTaken_like m n d dbg k).thenNiu _
end

theorem dataBeats_of_unitBeats {d : BeatBits} (h : unitBeats d 0 = 0) : dataBeats (qOpc d) (qSize d) = 0 := by
  unfold unitBeats at h
  dsimp only at h
  split at h <;> omega

/-- A request of no data is accepted with its header. -/
theorem Mach.headerGiven_ends {m : Mach} {n o k : Nat} {d : BeatBits} {dbg : Bool} (hk : (m.niu n).reqSlot d = some k) (hopen : m.portOpen n = true)
    (h0 : unitBeats d 0 = 0) (ht : ∀ j t, Tab.get dNone (m.niu n).trk j = some t → t.uid ≠ (m.niu n).uidNext)
    (hw : ∀ j w, Tab.get dNone (m.niu n).pwb j = some w → w.uid ≠ (m.niu n).uidNext) :
    (m.headerGiven n d true dbg o).niu n = Niu.accept (m.niu n).uidNext
      { (m.niu n).headTaken d dbg k (m.niu n).uidNext m.clk.cyc with beatEnd := true, unit := none } ∧
    ∀ j, j ≠ n → (m.headerGiven n d true dbg o).niu j = m.niu j := by
  have hlike := Mach.headTaken_like m n d dbg k
  have hniu : (m.headTaken n d dbg k).niu n = (m.niu n).headTaken d dbg k (m.niu n).uidNext m.clk.cyc := by rw [hlike.niu, Mach.niu_modNiu]
  have hun : ((m.headTaken n d dbg k).niu n).Unanswered (m.niu n).uidNext := by
    rw [hniu]
    have h := Niu.enter_unanswered (x := { m.niu n with beatAt := some m.clk.cyc, beatEnd := false }) (d := d) (k := k) (dbg := dbg) ht hw
    exact ⟨h.trk, h.pwb⟩
  have ha : (firstUnit d (m.niu n).uidNext o).after = 0 := by
    change dataBeats (qOpc d) (qSize d) - unitBeats d 0 = 0
    rw [dataBeats_of_unitBeats h0, Nat.zero_sub]
  rw [Mach.headerGiven_taken hk hopen (decide_eq_true h0).symm, Mach.unitStep_accepts h0 ha hun]
  refine ⟨?_, fun j hj => ?_⟩
  · rw [Mach.niu_modNiu, Mach.niu_modNiu, Mach.niu_modNiu, hniu]
    rfl
  · rw [Mach.niu_modNiu_ne _ _ hj, Mach.niu_modNiu_ne _ _ hj, Mach.niu_modNiu_ne _ _ hj, hlike.niu, Mach.niu_modNiu_ne _ _ hj]

/-! ## Data beats (R69, R89) -/

/-- The unit that a data beat of the owner `o` belongs to. -/
def Niu.nextUnit (x : Niu) (o : Nat) : Option PUnit :=
  match x.unit with
  | some u => some u
  | none => (x.opens.find? (fun u => u.sub == o)).map (fun u => { u with idx := u.idx + 1, left := min 8 u.after, after := u.after - min 8 u.after })

/-- The unit in hand. -/
def Niu.inHand (u : PUnit) (x : Niu) : Niu := { x with unit := some u, opens := x.opens.filter (fun v => v.uid ≠ u.uid) }

/-- A data beat of the unit `u`. -/
def Mach.dataGiven (m : Mach) (n : Nat) (d : BeatBits) (last : Bool) (u : PUnit) : Mach :=
  if !m.portOpen n then (m.offer n).refuseBeat n
  else if last ≠ decide (u.left = 1) then ((m.offer n).modNiu n (Niu.inHand u)).proto n true
  else (((m.offer n).modNiu n (Niu.inHand u)).takeBeat n ⟨.data, d, false, u.idx, u.uid⟩).unitStep n { u with left := u.left - 1 }

def Mach.dataBeat (m : Mach) (n : Nat) (d : BeatBits) (last : Bool) (sub : Nat) : Mach :=
  match (m.niu n).owner with
  | none => m
  | some o =>
    match (m.niu n).nextUnit o with
    | none => m
    | some u => if (m.niu n).spEn ∧ o ≠ sub then m else m.dataGiven n d last u

theorem exec_reqDataBeat {s : State} (hs : s.m.test.scan = false) (ep : Ep) (d : BeatBits) (last : Bool) (sub : Sub) :
    exec (.reqDataBeat ep d last sub) s = .next { s with m := s.m.dataBeat ep.val d last sub.val } := by
  change execReqDataBeat ep d last sub s = _
  rw [execReqDataBeat, State.on_eq hs]
  rfl

/-- A data beat has been taken. -/
def Niu.dataTaken (d : BeatBits) (u : PUnit) (now : Nat) (x : Niu) : Niu :=
  let x := ({ x with beatAt := some now, beatEnd := false } : Niu).inHand u
  { x with ingress := x.ingress ++ [⟨.data, d, false, u.idx, u.uid⟩], burst := x.burst + 1 }

def Mach.dataTaken (m : Mach) (n : Nat) (d : BeatBits) (u : PUnit) : Mach :=
  ((m.offer n).modNiu n (Niu.inHand u)).takeBeat n ⟨.data, d, false, u.idx, u.uid⟩

theorem Mach.dataTaken_like (m : Mach) (n : Nat) (d : BeatBits) (u : PUnit) : (m.dataTaken n d u).Like (m.modNiu n (Niu.dataTaken d u m.clk.cyc)) :=
  ((Mach.Like.refl (m.offer n)).thenNiu (Niu.inHand u)).thenNiu _

section
variable {m : Mach} {n o sub : Nat} {d : BeatBits} {last : Bool} {u : PUnit}

theorem Mach.dataBeat_given (hown : (m.niu n).owner = some o) (hsub : (m.niu n).spEn = true → o = sub) (hu : (m.niu n).nextUnit o = some u) :
    m.dataBeat n d last sub = m.dataGiven n d last u := by
  unfold Mach.dataBeat
  rw [hown]
  dsimp only
  rw [hu]
  exact if_neg (fun h => h.2 (hsub h.1))

theorem Mach.dataBeat_not (h : (m.niu n).owner = none ∨ ((m.niu n).unit = none ∧ (m.niu n).opens = [])) : m.dataBeat n d last sub = m := by
  unfold Mach.dataBeat
  rcases h with h | ⟨hu, hop⟩
  · rw [h]
  · split
    · rfl
    · next o _ =>
      have hno : (m.niu n).nextUnit o = none := by
        unfold Niu.nextUnit
        rw [hu, hop]
        rfl
      rw [hno]

theorem Mach.dataGiven_refused (hn : n < 512) (h : m.portOpen n = false) : (m.dataGiven n d last u).Like (m.offer n) := by
  unfold Mach.dataGiven
  rw [h]
  exact Mach.refuseBeat_like _ hn

variable (hopen : m.portOpen n = true)
include hopen

theorem Mach.dataGiven_taken (hl : last = decide (u.left = 1)) :
    m.dataGiven n d last u = (m.dataTaken n d u).unitStep n { u with left := u.left - 1 } := by
  unfold Mach.dataGiven
  rw [hopen, if_neg (by decide), if_neg (not_not_intro hl)]
  rfl

theorem Mach.dataGiven_framing (hl : last ≠ decide (u.left = 1)) : m.dataGiven n d last u = ((m.offer n).modNiu n (Niu.inHand u)).proto n true := by
  unfold Mach.dataGiven
  rw [hopen, if_neg (by decide), if_pos hl]

/-- A beat after which the unit goes on. -/
theorem Mach.dataGiven_goes (hle : 1 < u.left) (hl : last = false) : (m.dataGiven n d last u).Like
    (m.modNiu n (fun x => { x.dataTaken d u m.clk.cyc with unit := some { u with left := u.left - 1 } })) := by
  rw [Mach.dataGiven_taken hopen (by rw [hl, decide_eq_false (by omega)]), Mach.unitStep_goes (u := { u with left := u.left - 1 }) (by simp only; omega)]
  exact (Mach.dataTaken_like m n d u).thenNiu _

/-- The last beat of a unit that is not the last of its message: the message stays open. -/
def Niu.parked (u : PUnit) (x : Niu) : Niu := { x with beatEnd := true, unit := none, opens := x.opens ++ [u] }

theorem Mach.dataGiven_parks (hle : u.left = 1) (ha : u.after ≠ 0) (hl : last = true) :
    (m.dataGiven n d last u).Like (m.modNiu n (fun x => (x.dataTaken d u m.clk.cyc).parked { u with left := 0 })) := by
  have h0 : ({ u with left := u.left - 1 } : PUnit) = { u with left := 0 } := by rw [hle]
  rw [Mach.dataGiven_taken hopen (by rw [hl, decide_eq_true hle]), h0]
  exact (Mach.unitStep_parks (u := { u with left := 0 }) rfl ha).trans ((Mach.dataTaken_like m n d u).thenNiu _)

/-- The last beat of the last unit accepts the request. -/
theorem Mach.dataGiven_ends (hle : u.left = 1) (ha : u.after = 0) (hl : last = true) (hun : (m.niu n).Unanswered u.uid) :
    (m.dataGiven n d last u).niu n = Niu.accept u.uid { (m.niu n).dataTaken d u m.clk.cyc with beatEnd := true, unit := none } ∧
    ∀ j, j ≠ n → (m.dataGiven n d last u).niu j = m.niu j := by
  have hlike := Mach.dataTaken_like m n d u
  have hniu : (m.dataTaken n d u).niu n = (m.niu n).dataTaken d u m.clk.cyc := by rw [hlike.niu, Mach.niu_modNiu]
  have hun' : ((m.dataTaken n d u).niu n).Unanswered u.uid := by
    rw [hniu]
    exact ⟨hun.trk, hun.pwb⟩
  have h0 : ({ u with left := u.left - 1 } : PUnit).left = 0 := by simp only; omega
  rw [Mach.dataGiven_taken hopen (by rw [hl, decide_eq_true hle]), Mach.unitStep_accepts h0 ha hun']
  refine ⟨?_, fun j hj => ?_⟩
  · rw [Mach.niu_modNiu, Mach.niu_modNiu, Mach.niu_modNiu, hniu]
  · rw [Mach.niu_modNiu_ne _ _ hj, Mach.niu_modNiu_ne _ _ hj, Mach.niu_modNiu_ne _ _ hj, hlike.niu, Mach.niu_modNiu_ne _ _ hj]
end

/-! ## Framing errors (R70) -/

theorem FlowFrame.port {n off : Nat} (hn : n < 512) (ho : off = 0x18 ∨ off = 0x20) : FlowFrame (fun m => m.reg (aPort n off)) := by
  refine FlowFrame.keyReg ?_ ?_
  · unfold ctrAddr aPort
    rw [decide_eq_false (by omega)]
  · rintro ⟨k, h | h | h⟩
    · unfold aPort aSch at h
      split at h <;> omega
    · unfold aPort aSch at h
      split at h <;> omega
    · unfold aPort aNiu at h
      split at h <;> omega

/-- The unit in hand is discarded, and counted. -/
theorem Mach.discardUnit_port {m : Mach} {n : Nat} (hn : n < 512) {u : PUnit} (hu : (m.niu n).unit = some u) :
    ((m.discardUnit n).niu n).unit = none ∧ (m.discardUnit n).reg (aPort n 0x18) = m.reg (aPort n 0x18) ∧
      (m.discardUnit n).fld (aPort n 0x20) 0 16 = min 65535 (m.fld (aPort n 0x20) 0 16 + 1) ∧
      ∀ b ∈ ((m.discardUnit n).niu n).ingress, b.uid ≠ u.uid := by
  have hkeep {off : Nat} (ho : off = 0x18 ∨ off = 0x20) : (m.abandon n u.uid).reg (aPort n off) = m.reg (aPort n off) :=
    (FlowFrame.port hn ho).abandon_keeps (fun _ => rfl) m
  have hin : ((m.abandon n u.uid).niu n).ingress = (m.niu n).ingress.filter (fun b => b.uid ≠ u.uid) := by
    have hframe := FlowFrame.ofNiu n Niu.ingress (fun _ _ h => congrArg Niu.ingress h :)
    refine (hframe.abandon m n u.uid).trans ?_
    rw [Mach.niu_modNiu]
    exact congrArg (List.filter _) (hframe.dropInj m n _)
  unfold Mach.discardUnit
  rw [hu]
  dsimp only
  refine ⟨?_, ?_, ?_, fun b hb => ?_⟩
  · rw [Mach.niu_addFld, Mach.niu_modNiu]
  · rw [Mach.addFld, Mach.setFld, Mach.reg_setReg_ne _ _ (by unfold aPort; omega), Mach.reg_modNiu, hkeep (.inl rfl)]
  · rw [Mach.fld_addFld _ _ (by decide), Mach.fld, Mach.reg_modNiu, hkeep (.inr rfl), min_comm]
    rfl
  · rw [Mach.niu_addFld, Mach.niu_modNiu] at hb
    rw [show ∀ x : Niu, ({ x with unit := none } : Niu).ingress = x.ingress from fun _ => rfl, hin, List.mem_filter] at hb
    exact of_decide_eq_true hb.2

/-- A framing error in the unit `u`. -/
theorem Mach.proto_unit {m : Mach} {n : Nat} (hn : n < 512) {u : PUnit} (hu : (m.niu n).unit = some u) :
    ((m.proto n true).niu n).unit = none ∧ bt ((m.proto n true).reg (aPort n 0x18)) 9 = true ∧
      (m.proto n true).fld (aPort n 0x20) 0 16 = min 65535 (m.fld (aPort n 0x20) 0 16 + 1) ∧
      ∀ b ∈ ((m.proto n true).niu n).ingress, b.uid ≠ u.uid := by
  have hu' : (((m.orReg (aPort n 0x18) (2 ^ 9)).modNiu n (fun x => { x with burst := x.burst + 1 })).niu n).unit = some u := by
    rw [Mach.niu_modNiu, Mach.niu_orReg]
    exact hu
  obtain ⟨hunit, h18, h20, hin⟩ := Mach.discardUnit_port hn hu'
  refine ⟨hunit, ?_, h20.trans ?_, hin⟩
  · change bt (Mach.reg (Mach.discardUnit _ n) _) 9 = true
    rw [h18, Mach.reg_modNiu, bt_orReg _ _ (by decide), decide_eq_true rfl, Bool.or_true]
  · rw [Mach.fld, Mach.reg_modNiu, Mach.orReg, Mach.reg_setReg_ne _ _ (by unfold aPort; omega)]
    rfl

/-- Settles O52: the request channel. -/
theorem portRequests : Obligations.PortRequests := by
  unfold Obligations.PortRequests
  intro s ep d last dbg sub o k u n x mine isOpen left total head tagFree bufFree uid fresh beat trk pwb unit1 now offered hs
  have hn : n < 512 := ep.isLt
  have hx := exec_reqHeaderBeat hs ep d last dbg sub
  have hxd := exec_reqDataBeat hs ep d last sub
  have hopen (h : isOpen) : s.m.portOpen n = true := Mach.portOpen_iff.2 h
  have hclosed (h : ¬ isOpen) : s.m.portOpen n = false := Bool.eq_false_iff.2 (fun h' => h (Mach.portOpen_iff.1 h'))
  have hgiven (h : head) : s.m.headerBeat n d last dbg sub.val = s.m.headerGiven n d last dbg o := Mach.headerBeat_given h.1.1 h.1.2 h.2.1 h.2.2
  have htag (hp : qPosted d = false) (h : tagFree) : (s.m.niu n).reqSlot d = some k := Niu.reqSlot_tag hp h.1 h.2.1 h.2.2
  have hbuf (hp : qPosted d = true) (h : bufFree) : (s.m.niu n).reqSlot d = some k := Niu.reqSlot_buf hp h.1 h.2.1 h.2.2.1 h.2.2.2
  have hhead {a : Mach} (h : (s.m.headerBeat n d last dbg sub.val).Like a) : Does (.reqHeaderBeat ep d last dbg sub) s a := ⟨_, hx, rfl, rfl, h⟩
  have hdata {a : Mach} (h : (s.m.dataBeat n d last sub.val).Like a) : Does (.reqDataBeat ep d last sub) s a := ⟨_, hxd, rfl, rfl, h⟩
  have hnext {u : PUnit} (hu : x.unit = some u) : (s.m.niu n).nextUnit o = some u := by
    unfold Niu.nextUnit
    rw [show (s.m.niu n).unit = some u from hu]
  refine ⟨fun hh ho hp hf hl hlast => ?_, fun hh ho hp hf hl hlast => ?_, fun hh ho hp hf hfr hl hlast => ?_, fun hh ho hp hf hfr hl hlast => ?_,
    fun hh hno => ?_, fun h => ?_, fun hh ho hp hf hl => ?_, fun hm ho hu hl hlast => ?_, fun hm ho hu hl ha hlast => ?_,
    fun hm ho hu hl ha hlast ht hw => ?_, fun hm ho hu hop hl hlast => ?_, fun hm ho hu hl => ?_, fun hm hu ho => ?_, fun h => ?_⟩
  · refine hhead (hgiven hh ▸ (Mach.headerGiven_goes (htag hp hf) (hopen ho) hl hlast).trans (.of_eq (Mach.modNiu_congr ?_)))
    rw [Niu.headTaken_tag hp]
    rfl
  · refine hhead (hgiven hh ▸ (Mach.headerGiven_goes (hbuf hp hf) (hopen ho) hl hlast).trans (.of_eq (Mach.modNiu_congr ?_)))
    rw [Niu.headTaken_buf hp]
    rfl
  · obtain ⟨hy, hne⟩ := Mach.headerGiven_ends (o := o) (dbg := dbg) (htag hp hf) (hopen ho) hl hfr.1 hfr.2
    rw [Niu.headTaken_tag hp] at hy
    refine ⟨_, hx, ?_⟩
    dsimp only
    rw [hgiven hh, hlast, hy]
    refine ⟨rfl, rfl, rfl, rfl, rfl, rfl, rfl, ?_, fun j hj => ?_, fun j => ?_, hne, rfl, rfl⟩
    · rw [Niu.trk_accept]
      dsimp only
      rw [Tab.get_set]
      exact congrArg some (if_pos rfl)
    · rw [Niu.trk_accept]
      dsimp only
      rw [Tab.get_set_ne _ _ hj]
      exact map_acc_of_ne (hfr.1 j)
    · rw [Niu.pwb_accept]
      exact map_acc_of_ne (hfr.2 j)
  · obtain ⟨hy, hne⟩ := Mach.headerGiven_ends (o := o) (dbg := dbg) (hbuf hp hf) (hopen ho) hl hfr.1 hfr.2
    rw [Niu.headTaken_buf hp] at hy
    refine ⟨_, hx, ?_⟩
    dsimp only
    rw [hgiven hh, hlast, hy]
    refine ⟨rfl, rfl, rfl, rfl, rfl, rfl, rfl, ?_, fun j hj => ?_, fun j => ?_, hne, rfl, rfl⟩
    · rw [Niu.pwb_accept]
      dsimp only
      rw [Tab.get_set]
      exact congrArg some (if_pos rfl)
    · rw [Niu.pwb_accept]
      dsimp only
      rw [Tab.get_set_ne _ _ hj]
      exact map_acc_of_ne (hfr.2 j)
    · rw [Niu.trk_accept]
      exact map_acc_of_ne (hfr.1 j)
  · refine hhead (hgiven hh ▸ (Mach.headerGiven_refused hn ?_))
    exact hno.imp hclosed Niu.reqSlot_none
  · exact hhead (.of_eq (Mach.headerBeat_not h))
  · exact hhead (hgiven hh ▸ .of_eq (Mach.headerGiven_framing (htag hp hf) (hopen ho) hl))
  · exact hdata (Mach.dataBeat_given hm.1 hm.2 (hnext hu) ▸ (Mach.dataGiven_goes (hopen ho) hl hlast))
  · exact hdata (Mach.dataBeat_given hm.1 hm.2 (hnext hu) ▸ (Mach.dataGiven_parks (hopen ho) hl ha hlast))
  · obtain ⟨hy, hne⟩ := Mach.dataGiven_ends (d := d) (hopen ho) hl ha hlast ⟨ht, hw⟩
    refine ⟨_, hxd, ?_⟩
    dsimp only
    rw [Mach.dataBeat_given hm.1 hm.2 (hnext hu), hy]
    exact ⟨rfl, rfl, rfl, rfl, rfl, rfl, fun j => Niu.trk_accept _ _ j, fun j => Niu.pwb_accept _ _ j, hne, rfl, rfl⟩
  · have hnext' : (s.m.niu n).nextUnit o = some { u with idx := u.idx + 1, left := min 8 u.after, after := u.after - min 8 u.after } := by
      unfold Niu.nextUnit
      rw [show (s.m.niu n).unit = none from hu, show (s.m.niu n).opens.find? (fun v => v.sub == o) = some u from hop]
      rfl
    exact hdata (Mach.dataBeat_given hm.1 hm.2 hnext' ▸ (Mach.dataGiven_goes (hopen ho) hl hlast))
  · refine ⟨_, hxd, ?_⟩
    dsimp only
    rw [Mach.dataBeat_given hm.1 hm.2 (hnext hu), Mach.dataGiven_framing (hopen ho) hl]
    have hunit : (((s.m.offer n).modNiu n (Niu.inHand u)).niu n).unit = some u := by rw [Mach.niu_modNiu]; rfl
    obtain ⟨h1, h2, h3, h4⟩ := Mach.proto_unit hn hunit
    exact ⟨h1, h2, h3, h4, rfl, rfl⟩
  · exact hdata (Mach.dataBeat_given hm.1 hm.2 (hnext hu) ▸ (Mach.dataGiven_refused hn (hclosed ho)))
  · exact hdata (.of_eq (Mach.dataBeat_not h))

end Sys2Proof.Machine

/-! PROOFS. What answers at the target side of an NIU leave; barriers and the sideband of a port (O53). -/

namespace Sys2Proof.Machine

/-! ## The frame of the target side's answers (R109, R112) -/

/-- An NIU without what its answers to requests change: contexts, what is next to be presented, target requests, responses that wait, kept
prior values, admitted accesses, a notice. -/
def Niu.face (x : Niu) : Niu :=
  { x with ctxs := [], ready := [], tt := [], rspInj := [], atoms := [], gOld := 0, gNew := 0, notice := false }

/-- What a projection must stand for the answers of the target side to leave it alone. -/
structure AnswerFrame {γ : Type} (π : Mach → γ) : Prop where
  niu  : ∀ (m : Mach) n f, (∀ x, (f x : Niu).face = x.face) → π (m.modNiu n f) = π m
  twin : ∀ (m : Mach) f, π (m.modTwin f) = π m

theorem Niu.face_endAll (x : Niu) (l : List Nat) : (x.endAll l).face = x.face := by
  refine foldl_keeps Niu.face _ _ _ (fun x g => ?_)
  unfold Niu.endAccess
  split <;> rfl

namespace AnswerFrame
variable {γ : Type} {π : Mach → γ} (h : AnswerFrame π) {m : Mach} {v : γ}
include h

theorem mod {n : Nat} {f : Niu → Niu} (hf : ∀ x, (f x).face = x.face) (hm : π m = v) : π (m.modNiu n f) = v := (h.niu m n f hf).trans hm

theorem putRsp (m : Mach) (n : Nat) (p : Pkt) (eo : List (BitVec 16)) (mir : Option Nat) : π (m.putRsp n p eo mir) = π m :=
  h.niu _ _ _ (fun _ => rfl)

theorem ctxStep (m : Mach) (n : Nat) (hd : FlitBits) (b : Bool) : π (m.ctxStep n hd b) = π m := by
  unfold Mach.ctxStep
  split
  · rfl
  split
  · rfl
  split
  · exact h.niu _ _ _ (fun _ => rfl)
  split
  · split
    · rfl
    · exact h.mod (fun _ => rfl) (h.putRsp _ _ _ _ _)
  · exact h.niu _ _ _ (fun _ => rfl)

theorem noticeDone (m : Mach) (n : Nat) : π (m.noticeDone n) = π m := by
  unfold Mach.noticeDone
  dsimp only
  split
  · exact (h.twin _ _).trans (h.mod (fun _ => rfl) rfl)
  · exact h.niu _ _ _ (fun _ => rfl)

theorem pushRec (m : Mach) (ty ep : Nat) (f seq : BitVec 16) (k : Nat) : π (m.pushRec ty ep f seq k).2 = π m := by
  unfold Mach.pushRec
  dsimp only
  exact h.twin m _

theorem answerTt (m : Mach) (n : Nat) (t : TT) (st : Nat) (inl : BitVec 128) (data : List FlitBits) : π (m.answerTt n t st inl data) = π m := by
  have hend : π (m.modNiu n (fun x => x.endAll t.gens)) = π m := h.niu _ _ _ (fun x => x.face_endAll _)
  unfold Mach.answerTt
  dsimp only
  generalize m.modNiu n (fun x => x.endAll t.gens) = z at hend ⊢
  split
  · split
    · exact (h.noticeDone _ _).trans hend
    · exact hend
  · exact (h.putRsp _ _ _ _ _).trans hend
  · exact (h.ctxStep _ _ _ _).trans (h.mod (fun _ => rfl) hend)
  · split
    · exact (h.putRsp _ _ _ _ _).trans hend
    split
    · split
      · split
        · exact (h.putRsp _ _ _ _ _).trans ((h.pushRec _ _ _ _ _ _).trans (h.mod (fun _ => rfl) hend))
        · exact (h.putRsp _ _ _ _ _).trans (h.mod (fun _ => rfl) hend)
      · exact (h.putRsp _ _ _ _ _).trans hend
    · exact (h.putRsp _ _ _ _ _).trans hend

theorem answerGone (n k : Nat) (m : Mach) : π (m.answerGone n k) = π m := by
  induction k generalizing m with
  | zero => rfl
  | succ k ih =>
    unfold Mach.answerGone
    dsimp only
    split
    · rfl
    split
    · rfl
    split
    · rfl
    · exact (ih _).trans ((h.answerTt _ _ _ _ _ _).trans (h.mod (fun _ => rfl) rfl))
end AnswerFrame

/-- A part of one NIU that the answers do not change. -/
theorem AnswerFrame.ofNiu {β : Type} (k : Nat) (g : Niu → β) (hg : ∀ x y : Niu, x.face = y.face → g x = g y) : AnswerFrame (fun m => g (m.niu k)) where
  niu m n f hf := by
    by_cases hk : k = n
    · subst hk
      exact (congrArg g (m.niu_modNiu k f)).trans (hg _ _ (hf _))
    · exact congrArg g (m.niu_modNiu_ne f hk)
  twin _ _ := rfl

/-! ## Barriers (R74, R143, R144) -/

/-- A barrier beat of the owner `o`. -/
def Mach.barrierGiven (m : Mach) (n : Nat) (kind : BarKind) (o : Nat) : Mach :=
  if !(m.offer n).portOpen n then (m.offer n).refuseBeat n
  else if (m.niu n).unit.isSome then (m.offer n).proto n true
  else match (m.niu n).opens.find? (fun u => u.sub == o) with
    | some u => ((m.offer n).modNiu n (fun x => { x with unit := some u })).proto n true
    | none =>
      if 8 ≤ (m.niu n).bars.length then (m.offer n).refuseBeat n
      else ((m.offer n).modNiu n (fun x =>
        { x with bars := x.bars ++ [⟨kind, o, x.accNext⟩], accNext := x.accNext + 1, beatEnd := true })).takeBeat n ⟨.barrier kind, 0, false, o, 0⟩

def Mach.barrierBeat (m : Mach) (n : Nat) (kind : BarKind) (sub : Nat) : Mach :=
  match (m.niu n).owner with
  | none => m
  | some o => if (m.niu n).spEn ∧ o ≠ sub then m else m.barrierGiven n kind o

def Mach.barrierDone (m : Mach) (n : Nat) : Mach :=
  match (m.niu n).bars with
  | [] => m
  | b :: rest =>
    if (m.niu n).barHolds b then m.modNiu n (fun x =>
      if x.runs then { x with bars := rest, pulses := x.pulses + 1, barSub := if x.spEn then b.sub else 0 } else { x with bars := rest })
    else m

def Mach.abortAt (m : Mach) (n : Nat) (level : Bool) : Mach :=
  (if level && !(m.niu n).abort then m.discardUnit n else m).modNiu n (fun x => { x with abort := level })

def Mach.resetEnds (m : Mach) (n : Nat) (inc : BitVec 8) : Mach :=
  if (m.niu n).rstN then m
  else if (m.niu n).ratio == 3 || !m.domLive (epTile n) then m.modNiu n (fun x => { x with rstN := true, incPin := inc })
  else m.modNiu n (fun x =>
    { x with rstN := true, inc := inc, incPin := inc, hold := true, relHold := true, bars := x.bars.filter (fun b => !x.barHolds b) })

def Mach.incChanged (m : Mach) (n : Nat) (inc : BitVec 8) : Mach :=
  let m1 := m.modNiu n (fun x => { x with incPin := inc })
  if (m.niu n).rstN && (m.niu n).incPin != inc && m.domLive (epTile n) then m1.orReg (aPort n 0x18) (2 ^ 8) else m1

def Mach.holdEnds (m : Mach) (n : Nat) : Mach := if m.clk.fstop then m else m.modNiu n (fun x => { x with hold := false })

/-- A port enters reset, or stays in it. -/
def Mach.resetBegins (m : Mach) (n : Nat) : Mach := if (m.niu n).rstN then m.portReset n else m

section
variable {s : State} (hs : s.m.test.scan = false) (ep : Ep)
include hs

theorem exec_barrierBeat (kind : BarKind) (sub : Sub) : exec (.barrierBeat ep kind sub) s = .next { s with m := s.m.barrierBeat ep.val kind sub.val } := by
  change execBarrierBeat ep kind sub s = _
  rw [execBarrierBeat, State.on_eq hs]
  rfl

theorem exec_barrierComplete : exec (.barrierComplete ep) s = .next { s with m := s.m.barrierDone ep.val } := by
  change execBarrierComplete ep s = _
  rw [execBarrierComplete, State.on_eq hs]
  rfl

theorem exec_epAbort (level : Bool) : exec (.epAbort ep level) s = .next { s with m := s.m.abortAt ep.val level } := by
  change execEpAbort ep level s = _
  rw [execEpAbort, State.on_eq hs]
  rfl

theorem exec_epRstAssert : exec (.epRstAssert ep) s = .next { s with m := s.m.resetBegins ep.val } := by
  change execEpRstAssert ep s = _
  rw [execEpRstAssert, State.on_eq hs]
  rfl

theorem exec_epRstRelease (inc : BitVec 8) : exec (.epRstRelease ep inc) s = .next { s with m := s.m.resetEnds ep.val inc } := by
  change execEpRstRelease ep inc s = _
  rw [execEpRstRelease, State.on_eq hs]
  rfl

theorem exec_epIncChange (inc : BitVec 8) : exec (.epIncChange ep inc) s = .next { s with m := s.m.incChanged ep.val inc } := by
  change execEpIncChange ep inc s = _
  rw [execEpIncChange, State.on_eq hs]
  rfl

theorem exec_epStopHoldEnd : exec (.epStopHoldEnd ep) s = .next { s with m := s.m.holdEnds ep.val } := by
  change execEpStopHoldEnd ep s = _
  rw [execEpStopHoldEnd, State.on_eq hs]
  rfl
end

/-! ## Barrier beats -/

section
variable {m : Mach} {n o sub : Nat} {kind : BarKind}

theorem Mach.barrierBeat_given (hown : (m.niu n).owner = some o) (hsub : (m.niu n).spEn = true → o = sub) :
    m.barrierBeat n kind sub = m.barrierGiven n kind o := by
  unfold Mach.barrierBeat
  rw [hown]
  exact if_neg (fun h => h.2 (hsub h.1))

theorem Mach.barrierGiven_unit (hopen : m.portOpen n = true) {u : PUnit} (hu : (m.niu n).unit = some u) :
    m.barrierGiven n kind o = (m.offer n).proto n true := by
  unfold Mach.barrierGiven
  rw [Mach.portOpen_offer, hopen, hu]
  rfl

variable (hu : (m.niu n).unit = none) (hop : ∀ v ∈ (m.niu n).opens, v.sub ≠ o)
include hu hop

theorem Mach.barrierGiven_refused (hn : n < 512) (h : 8 ≤ (m.niu n).bars.length ∨ m.portOpen n = false) :
    (m.barrierGiven n kind o).Like (m.offer n) := by
  have hfind : (m.niu n).opens.find? (fun u => u.sub == o) = none := List.find?_eq_none.2 (fun v hv h => hop v hv (beq_iff_eq.1 h))
  unfold Mach.barrierGiven
  rw [Mach.portOpen_offer, hu, hfind]
  dsimp only
  split
  · exact Mach.refuseBeat_like _ hn
  · next hopen =>
    have h8 : 8 ≤ (m.niu n).bars.length := h.resolve_right (fun h' => hopen (by rw [h']; rfl))
    rw [if_neg (by decide), if_pos h8]
    exact Mach.refuseBeat_like _ hn

theorem Mach.barrierGiven_taken (hopen : m.portOpen n = true) (h8 : (m.niu n).bars.length < 8) : (m.barrierGiven n kind o).Like
    (m.modNiu n (fun x => { x with
      bars := x.bars ++ [⟨kind, o, x.accNext⟩], accNext := x.accNext + 1, burst := x.burst + 1, beatAt := some m.clk.cyc, beatEnd := true,
      ingress := x.ingress ++ [⟨.barrier kind, 0, false, o, 0⟩] })) := by
  have hfind : (m.niu n).opens.find? (fun u => u.sub == o) = none := List.find?_eq_none.2 (fun v hv h => hop v hv (beq_iff_eq.1 h))
  unfold Mach.barrierGiven
  rw [Mach.portOpen_offer, hopen, hu, hfind, if_neg (by decide), if_neg (by decide)]
  dsimp only
  rw [if_neg (Nat.not_le.2 h8)]
  exact ((Mach.Like.refl (m.offer n)).thenNiu _).thenNiu _
end

/-! ## Port reset (R79, R80) -/

/-- A part of one port that neither its messages nor what serves its requests changes, after a request has been abandoned. -/
theorem Mach.abandon_keeps {β : Type} (g : Niu → β) (hg : ∀ x y : Niu, x.outer = y.outer → g x = g y) (hd : ∀ uid x, g (Niu.dropUid uid x) = g x)
    (m : Mach) (n uid : Nat) : g ((m.abandon n uid).niu n) = g (m.niu n) :=
  (FlowFrame.ofNiu n g hg).abandon_keeps (fun m => by rw [Mach.niu_modNiu, hd]) m

theorem Mach.discardUnit_keeps {β : Type} (g : Niu → β) (hg : ∀ x y : Niu, x.outer = y.outer → g x = g y) (hd : ∀ uid x, g (Niu.dropUid uid x) = g x)
    (hu : ∀ x, g { x with unit := none } = g x) (m : Mach) (n : Nat) : g ((m.discardUnit n).niu n) = g (m.niu n) := by
  unfold Mach.discardUnit
  split
  · rfl
  · rw [Mach.niu_addFld, Mach.niu_modNiu, hu]
    exact Mach.abandon_keeps g hg hd m n _

theorem Mach.opens_abandon (m : Mach) (n uid : Nat) : ((m.abandon n uid).niu n).opens = (m.niu n).opens.filter (fun u => u.uid ≠ uid) := by
  have hframe := FlowFrame.ofNiu n Niu.opens (fun _ _ h => congrArg Niu.opens h :)
  refine (hframe.abandon m n uid).trans ?_
  rw [Mach.niu_modNiu]
  exact congrArg (List.filter _) (hframe.dropInj m n _)

/-- Once the messages of a list that holds all that are open have been abandoned, none is open. -/
theorem Mach.opens_foldl_abandon {n : Nat} (l : List PUnit) {m : Mach} (h : ∀ u ∈ (m.niu n).opens, ∃ v ∈ l, v.uid = u.uid) :
    ((l.foldl (fun m u => m.abandon n u.uid) m).niu n).opens = [] := by
  induction l generalizing m with
  | nil => exact List.eq_nil_iff_forall_not_mem.2 (fun u hu => by obtain ⟨v, hv, -⟩ := h u hu; exact List.not_mem_nil hv)
  | cons a l ih =>
    rw [List.foldl_cons]
    refine ih (fun u hu => ?_)
    rw [Mach.opens_abandon, List.mem_filter] at hu
    obtain ⟨v, hv, he⟩ := h u hu.1
    rcases List.mem_cons.1 hv with rfl | hv
    · exact absurd he.symm (of_decide_eq_true hu.2)
    · exact ⟨v, hv, he⟩

/-- What is left of a port `x` whose units, messages and responses are gone. -/
structure Niu.CutOf (y x : Niu) : Prop where
  unit   : y.unit = none
  opens  : y.opens = []
  rspOut : y.rspOut = none
  rspq   : y.rspq = []
  bars   : y.bars = x.bars
  inc    : y.inc = x.inc

/-- What answers is held, and the ports of a machine whose requests and responses go. -/
theorem Mach.reset_cut (m : Mach) (n : Nat) : ((((m.discardUnit n).abandonOpens n).dropResponses n).niu n).CutOf (m.niu n) := by
  have hab {β : Type} (g : Niu → β) (hg : ∀ x y : Niu, x.outer = y.outer → g x = g y) (hd : ∀ uid x, g (Niu.dropUid uid x) = g x) :
      g (((m.discardUnit n).abandonOpens n).niu n) = g ((m.discardUnit n).niu n) :=
    foldl_keeps (fun m : Mach => g (m.niu n)) _ _ _ (fun m u => Mach.abandon_keeps g hg hd m n u.uid)
  have hrsp {β : Type} (g : Niu → β) (hg : ∀ x k, g (Niu.freeTrk x k) = g x)
    (ht : ∀ x v, g (Niu.takeEj x v) = g x) (hr : ∀ x, g { x with rspOut := none, rspq := [] } = g x)
      (m : Mach) : g ((m.dropResponses n).niu n) = g (m.niu n) := by
    unfold Mach.dropResponses
    dsimp only
    rw [Mach.niu_modNiu, hr]
    refine foldl_keeps (fun m : Mach => g (m.niu n)) _ _ _ (fun m r => ?_)
    rw [Mach.niu_modNiu, ht, hg]
  have hto (x : Niu) (v : Option Nat) : (x.takeEj v).unit = x.unit ∧ (x.takeEj v).opens = x.opens ∧ (x.takeEj v).bars = x.bars ∧ (x.takeEj v).inc = x.inc := by
    cases v <;> exact ⟨rfl, rfl, rfl, rfl⟩
  have hdrop (m : Mach) : ((m.dropResponses n).niu n).rspOut = none ∧ ((m.dropResponses n).niu n).rspq = [] := by
    unfold Mach.dropResponses
    dsimp only
    rw [Mach.niu_modNiu]
    exact ⟨rfl, rfl⟩
  refine ⟨?_, ?_, (hdrop _).1, (hdrop _).2, ?_, ?_⟩
  · rw [hrsp Niu.unit (fun _ _ => rfl) (fun x v => (hto x v).1) (fun _ => rfl), hab Niu.unit (fun _ _ h => congrArg Niu.unit h :) (fun _ _ => rfl),
      Mach.unit_discardUnit, if_pos rfl]
  · rw [hrsp Niu.opens (fun _ _ => rfl) (fun x v => (hto x v).2.1) (fun _ => rfl)]
    exact Mach.opens_foldl_abandon _ (fun u hu => ⟨u, hu, rfl⟩)
  · rw [hrsp Niu.bars (fun _ _ => rfl) (fun x v => (hto x v).2.2.1) (fun _ => rfl), hab Niu.bars (fun _ _ h => congrArg Niu.bars h :) (fun _ _ => rfl),
      Mach.discardUnit_keeps Niu.bars (fun _ _ h => congrArg Niu.bars h :) (fun _ _ => rfl) (fun _ => rfl)]
  · rw [hrsp Niu.inc (fun _ _ => rfl) (fun x v => (hto x v).2.2.2) (fun _ => rfl), hab Niu.inc (fun _ _ h => congrArg Niu.inc h :) (fun _ _ => rfl),
      Mach.discardUnit_keeps Niu.inc (fun _ _ h => congrArg Niu.inc h :) (fun _ _ => rfl) (fun _ => rfl)]

/-- A port in reset. -/
def Niu.reset (x : Niu) : Niu :=
  { x.endTreq with rstN := false, trsp := none, tt := Tab.mapv dNone (fun _ o => o.map (fun t => { t with gone := true })) x.tt, scores := if x.scores.isEmpty then [] else [0, 0, 0, 0], gnt := 0, burst := 0 }

/-- The context of a queue message that was being presented goes. -/
def Mach.dropMsg (m : Mach) (n : Nat) : Mach :=
  match (m.niu n).treq.bind (fun q => (Tab.get dNone (m.niu n).tt q.1).bind (fun t => if t.kind = .qmsg then (m.niu n).ctxOf t.hd else none)) with
  | none => m
  | some c => m.modNiu n (fun x => x.freeCtx c.hd)

theorem Mach.portReset_eq (m : Mach) (n : Nat) : m.portReset n =
    (((((m.discardUnit n).abandonOpens n).dropResponses n).dropMsg n).modNiu n Niu.reset).answerGone n 256 := rfl

theorem Mach.cut_dropMsg {m : Mach} {n : Nat} {x : Niu} (h : (m.niu n).CutOf x) : ((m.dropMsg n).niu n).CutOf x := by
  unfold Mach.dropMsg
  split
  · exact h
  · rw [Mach.niu_modNiu]
    exact ⟨h.unit, h.opens, h.rspOut, h.rspq, h.bars, h.inc⟩

theorem Niu.cut_reset {y x : Niu} (h : y.CutOf x) : y.reset.CutOf x ∧ y.reset.rstN = false ∧ y.reset.treq = none ∧ y.reset.trsp = none ∧ y.reset.gnt = 0 ∧
    ∀ i, y.reset.scores.getD i 0 = 0 := by
  have hto (v : Option Nat) : (y.takeEj v).CutOf y := by
    cases v <;> exact ⟨h.unit, h.opens, h.rspOut, h.rspq, rfl, rfl⟩
  have hc := hto y.treqVc
  refine ⟨⟨hc.unit, hc.opens, hc.rspOut, hc.rspq, hc.bars.trans h.bars, hc.inc.trans h.inc⟩, rfl, rfl, rfl, rfl, fun i => ?_⟩
  change (if y.scores.isEmpty then [] else [0, 0, 0, 0] : List Int).getD i 0 = 0
  split
  · rfl
  · match i with
    | 0 | 1 | 2 | 3 | _ + 4 => rfl

/-- The port that a reset leaves. -/
theorem Mach.portReset_niu (m : Mach) (n : Nat) : ((m.portReset n).niu n).CutOf (m.niu n) ∧ ((m.portReset n).niu n).rstN = false ∧
    ((m.portReset n).niu n).treq = none ∧ ((m.portReset n).niu n).trsp = none ∧ ((m.portReset n).niu n).gnt = 0 ∧
    ∀ i, ((m.portReset n).niu n).scores.getD i 0 = 0 := by
  obtain ⟨hcut, hrst, htr, hts, hg, hsc⟩ := Niu.cut_reset (Mach.cut_dropMsg (m.reset_cut n))
  rw [← Mach.niu_modNiu _ n Niu.reset] at hcut hrst htr hts hg hsc
  rw [Mach.portReset_eq]
  generalize Mach.modNiu _ n Niu.reset = z at hcut hrst htr hts hg hsc
  have hkeep {β : Type} (g : Niu → β) (hf : ∀ x y : Niu, x.face = y.face → g x = g y) : g ((z.answerGone n 256).niu n) = g (z.niu n) :=
    (AnswerFrame.ofNiu n g hf).answerGone n 256 z
  refine ⟨⟨?_, ?_, ?_, ?_, ?_, ?_⟩, ?_, ?_, ?_, ?_, ?_⟩
  · exact (hkeep Niu.unit (fun _ _ h => congrArg Niu.unit h :)).trans hcut.unit
  · exact (hkeep Niu.opens (fun _ _ h => congrArg Niu.opens h :)).trans hcut.opens
  · exact (hkeep Niu.rspOut (fun _ _ h => congrArg Niu.rspOut h :)).trans hcut.rspOut
  · exact (hkeep Niu.rspq (fun _ _ h => congrArg Niu.rspq h :)).trans hcut.rspq
  · exact (hkeep Niu.bars (fun _ _ h => congrArg Niu.bars h :)).trans hcut.bars
  · exact (hkeep Niu.inc (fun _ _ h => congrArg Niu.inc h :)).trans hcut.inc
  · exact (hkeep Niu.rstN (fun _ _ h => congrArg Niu.rstN h :)).trans hrst
  · exact (hkeep Niu.treq (fun _ _ h => congrArg Niu.treq h :)).trans htr
  · exact (hkeep Niu.trsp (fun _ _ h => congrArg Niu.trsp h :)).trans hts
  · exact (hkeep Niu.gnt (fun _ _ h => congrArg Niu.gnt h :)).trans hg
  · rw [hkeep Niu.scores (fun _ _ h => congrArg Niu.scores h :)]
    exact hsc

/-- Settles O53: barriers and the sideband of a port. -/
theorem portSideband : Obligations.PortSideband := by
  unfold Obligations.PortSideband
  intro s ep kind sub o b rest u level inc n x mine isOpen hs
  have hn : n < 512 := ep.isLt
  have hxb := exec_barrierBeat hs ep kind sub
  have hopen (h : isOpen) : s.m.portOpen n = true := Mach.portOpen_iff.2 h
  have hgiven (h : mine) : s.m.barrierBeat n kind sub.val = s.m.barrierGiven n kind o := Mach.barrierBeat_given h.1 h.2
  have hbar {a : Mach} (h : (s.m.barrierBeat n kind sub.val).Like a) : Does (.barrierBeat ep kind sub) s a := ⟨_, hxb, rfl, rfl, h⟩
  have hdone {a : Mach} (h : s.m.barrierDone n = a) : Does (.barrierComplete ep) s a := ⟨_, exec_barrierComplete hs ep, rfl, rfl, .of_eq h⟩
  have hrel {a : Mach} (h : s.m.resetEnds n inc = a) : Does (.epRstRelease ep inc) s a := ⟨_, exec_epRstRelease hs ep inc, rfl, rfl, .of_eq h⟩
  have hinc {a : Mach} (h : s.m.incChanged n inc = a) : Does (.epIncChange ep inc) s a := ⟨_, exec_epIncChange hs ep inc, rfl, rfl, .of_eq h⟩
  have hdoneAt {b : Bar} {rest : List Bar} (hb : x.bars = b :: rest) : s.m.barrierDone n = if x.barHolds b then s.m.modNiu n (fun x =>
      if x.runs then { x with bars := rest, pulses := x.pulses + 1, barSub := if x.spEn then b.sub else 0 } else { x with bars := rest }) else s.m := by
    unfold Mach.barrierDone
    rw [show (s.m.niu n).bars = b :: rest from hb]
  refine ⟨fun hm ho hu hop h8 => ?_, fun hm hu hop h => ?_, fun hm ho hu => ⟨_, hxb, ?_⟩, fun hb hh hr => hdone ?_, fun hb hh hr => hdone ?_, fun hb hh => hdone ?_,
    fun hb => hdone ?_, fun h => ⟨_, exec_epAbort hs ep level, rfl, rfl, .of_eq ?_⟩,
    fun ha hu => ⟨_, exec_epAbort hs ep true, ?_⟩,
    fun hr => ?_, fun hr => ⟨_, exec_epRstAssert hs ep, ?_⟩, fun hr => hrel (if_pos hr),
    fun hr hra hl => hrel ?_, fun hr h => hrel ?_, fun hr hi hl => hinc ?_, fun h => hinc ?_, fun hf => ?_, fun hf => ?_⟩
  · exact hbar (hgiven hm ▸ Mach.barrierGiven_taken hu hop (hopen ho) h8)
  · exact hbar (hgiven hm ▸ Mach.barrierGiven_refused hu hop hn (h.imp_right (fun ho => Bool.eq_false_iff.2 (fun h' => ho (Mach.portOpen_iff.1 h')))))
  · dsimp only
    rw [hgiven hm, Mach.barrierGiven_unit (hopen ho) hu]
    have hunit : ((s.m.offer n).niu n).unit = some u := by rw [Mach.niu_offer]; exact hu
    obtain ⟨h1, h2, h3, -⟩ := Mach.proto_unit hn hunit
    refine ⟨h1, h2, h3, (Mach.discardUnit_keeps Niu.bars (fun _ _ h => congrArg Niu.bars h :) (fun _ _ => rfl) (fun _ => rfl) _ n).trans ?_⟩
    rw [Mach.niu_modNiu, Mach.niu_orReg, Mach.niu_offer]
  · rw [hdoneAt hb, if_pos hh]
    exact Mach.modNiu_congr (if_pos hr)
  · rw [hdoneAt hb, if_pos hh]
    exact Mach.modNiu_congr (if_neg (by rw [show (s.m.niu n).runs = false from hr]; decide))
  · rw [hdoneAt hb, if_neg (by rw [hh]; decide)]
  · unfold Mach.barrierDone
    rw [show (s.m.niu n).bars = [] from hb]
  · refine congrArg (fun m : Mach => m.modNiu n (fun x => { x with abort := level })) ?_
    rcases h with h | h | h
    · rw [h]; rfl
    · rw [show (s.m.niu n).abort = true from h, Bool.not_true, Bool.and_false]; rfl
    · rw [Mach.discardUnit_of_none h, ite_self]
  · obtain ⟨h1, -, h3, -⟩ := Mach.discardUnit_port hn hu
    have habort : s.m.abortAt n true = (s.m.discardUnit n).modNiu n (fun x => { x with abort := true }) := by
      unfold Mach.abortAt
      rw [show (s.m.niu n).abort = false from ha]
      rfl
    dsimp only
    rw [habort, Mach.niu_modNiu]
    exact ⟨rfl, h1, h3⟩
  · exact ⟨_, exec_epRstAssert hs ep, rfl, rfl, .of_eq (if_neg (by rw [show (s.m.niu ep.val).rstN = false from hr]; decide))⟩
  · have hreset : s.m.resetBegins n = s.m.portReset n := if_pos hr
    obtain ⟨hcut, hrst, htr, hts, hg, hsc⟩ := s.m.portReset_niu n
    dsimp only
    rw [hreset]
    exact ⟨hrst, hcut.unit, hcut.opens, hcut.rspOut, hcut.rspq, htr, hts, hg, hsc, hcut.bars, hcut.inc, rfl, rfl⟩
  · refine (if_neg (by rw [show (s.m.niu n).rstN = false from hr]; decide)).trans (if_neg ?_)
    rw [hl, Bool.not_true, Bool.or_false, beq_iff_eq]
    exact hra
  · refine (if_neg (by rw [show (s.m.niu n).rstN = false from hr]; decide)).trans (if_pos ?_)
    rw [Bool.or_eq_true, beq_iff_eq, Bool.not_eq_true']
    exact h
  · refine if_pos ?_
    rw [show (s.m.niu n).rstN = true from hr, hl, Bool.and_true, Bool.true_and, bne_iff_ne]
    exact hi
  · refine if_neg ?_
    rw [Bool.and_eq_true, Bool.and_eq_true, bne_iff_ne]
    rintro ⟨⟨hr, hi⟩, hl⟩
    rcases h with h | h | h
    · exact nomatch hr.symm.trans h
    · exact hi h
    · exact nomatch hl.symm.trans h
  · exact ⟨_, exec_epStopHoldEnd hs ep, rfl, rfl, .of_eq (if_neg (by rw [hf]; decide))⟩
  · exact ⟨_, exec_epStopHoldEnd hs ep, rfl, rfl, .of_eq (if_pos hf)⟩

end Sys2Proof.Machine

/-! PROOFS. The response, target-request and target-response channels of a port (O55). -/

namespace Sys2Proof.Machine

/-! ## The channels (R72, R75, R76) -/

/-- The response on the channel, one from the queue where none is. -/
def Niu.rspNext (x : Niu) : Niu :=
  match x.rspOut with
  | some _ => x
  | none =>
    match x.nextRsp with
    | none => x
    | some (i, r) => { x with rspOut := some r, rspq := dropAt x.rspq i }

/-- A beat of the response `r` on the channel of the port `x` is taken. -/
def Mach.rspTaken (m : Mach) (n : Nat) (x : Niu) (r : Rsp) : Mach :=
  if r.beats.length ≤ 1 then m.modNiu n (fun _ => { (x.freeTrk r.tag).takeEj r.vc with rspOut := none })
  else m.modNiu n (fun _ => { x with rspOut := some { r with beats := r.beats.drop 1 } })

def Mach.rspBeat (m : Mach) (n : Nat) : Mach :=
  if !(m.niu n).runs then m
  else match (m.niu n).rspNext.rspOut with
    | none => m
    | some r => m.rspTaken n (m.niu n).rspNext r

/-- The last beat of a target request of `t` has been taken. -/
def Niu.treqDone (x : Niu) (t : TT) : Niu :=
  let x := if t.kind = .qmsg then x.freeCtx t.hd else x
  if t.kind = .dup ∨ hDmode t.hd ≠ 2 then x else x.rxMarks (hFlow t.hd) t.seqs none

def Mach.treqBeat (m : Mach) (n : Nat) : Mach :=
  match (m.niu n).treq with
  | none => m
  | some (k, beats) =>
    if !(m.niu n).runs then m
    else if 1 < beats.length then m.modNiu n (fun x => { x with treq := some (k, beats.drop 1) })
    else match Tab.get dNone (m.niu n).tt k with
      | none => m.modNiu n Niu.endTreq
      | some t => if hQueue t.hd = false ∨ t.kind = .service then m.modNiu n Niu.endTreq else (m.modNiu n Niu.endTreq).modNiu n (fun x => x.treqDone t)

section
variable {s : State} (hs : s.m.test.scan = false) (ep : Ep)
include hs

theorem exec_rspBeatAccept : exec (.rspBeatAccept ep) s = .next { s with m := s.m.rspBeat ep.val } := by
  change execRspBeatAccept ep s = _
  rw [execRspBeatAccept, State.on_eq hs]
  rfl

theorem exec_treqBeatAccept : exec (.treqBeatAccept ep) s = .next { s with m := s.m.treqBeat ep.val } := by
  change execTreqBeatAccept ep s = _
  rw [execTreqBeatAccept, State.on_eq hs]
  rfl
end

section
variable {m : Mach} {n : Nat}

theorem Mach.rspBeat_reset (h : (m.niu n).runs = false) : m.rspBeat n = m := by
  unfold Mach.rspBeat
  rw [h]
  rfl

theorem Mach.rspBeat_out (hr : (m.niu n).runs = true) {r : Rsp} (h : (m.niu n).rspOut = some r) : m.rspBeat n = m.rspTaken n (m.niu n) r := by
  have hn : (m.niu n).rspNext = m.niu n := by
    unfold Niu.rspNext
    rw [h]
  unfold Mach.rspBeat
  rw [hr, hn, h]
  rfl

theorem Mach.rspBeat_next (hr : (m.niu n).runs = true) (h : (m.niu n).rspOut = none) {i : Nat} {r : Rsp} (hq : (m.niu n).nextRsp = some (i, r)) :
    m.rspBeat n = m.rspTaken n { m.niu n with rspOut := some r, rspq := dropAt (m.niu n).rspq i } r := by
  have hn : (m.niu n).rspNext = { m.niu n with rspOut := some r, rspq := dropAt (m.niu n).rspq i } := by
    unfold Niu.rspNext
    rw [h, hq]
  unfold Mach.rspBeat
  rw [hr, hn]
  rfl

theorem Mach.rspBeat_none (h : (m.niu n).rspOut = none) (hq : (m.niu n).nextRsp = none) : m.rspBeat n = m := by
  have hn : (m.niu n).rspNext = m.niu n := by
    unfold Niu.rspNext
    rw [h, hq]
  unfold Mach.rspBeat
  rw [hn, h]
  exact ite_self _

theorem Mach.treqBeat_none (h : (m.niu n).treq = none ∨ (m.niu n).runs = false) : m.treqBeat n = m := by
  unfold Mach.treqBeat
  split
  · rfl
  · next k beats htr =>
    rw [h.resolve_left (by rw [htr]; exact fun h => nomatch h)]
    rfl

variable (hr : (m.niu n).runs = true) {k : Nat} {beats : List BeatBits} (ht : (m.niu n).treq = some (k, beats))
include hr ht

theorem Mach.treqBeat_more (h : 1 < beats.length) : m.treqBeat n = m.modNiu n (fun x => { x with treq := some (k, beats.drop 1) }) := by
  unfold Mach.treqBeat
  rw [ht]
  dsimp only
  rw [hr, if_neg (by decide), if_pos h]

variable (h : beats.length ≤ 1) {t : TT} (htt : Tab.get dNone (m.niu n).tt k = some t)
include h htt

theorem Mach.treqBeat_last : m.treqBeat n =
    if hQueue t.hd = false ∨ t.kind = .service then m.modNiu n Niu.endTreq else (m.modNiu n Niu.endTreq).modNiu n (fun x => x.treqDone t) := by
  unfold Mach.treqBeat
  rw [ht]
  dsimp only
  rw [hr, if_neg (by decide), if_neg (Nat.not_lt.2 h), htt]

/-- The last beat of a queue message. -/
theorem Mach.treqBeat_queue (hq : hQueue t.hd = true) (hk : t.kind ≠ .service) : (m.treqBeat n).niu n = (m.niu n).endTreq.treqDone t := by
  rw [Mach.treqBeat_last hr ht h htt, if_neg, Mach.niu_modNiu, Mach.niu_modNiu]
  rintro (h | h)
  · rw [hq] at h
    cases h
  · exact hk h
end

/-! ## The marks of a delivered message (R126, R127) -/

/-- Parts of an NIU that marks leave. -/
theorem Niu.rxMark_keeps {β : Type} (g : Niu → β) (hg : ∀ (x : Niu) l, g { x with fc := l } = g x) (x : Niu) (f q : BitVec 16) (err : Bool) :
    g (x.rxMark f q err) = g x := by
  unfold Niu.rxMark
  split
  · rfl
  · dsimp only
    split
    · rfl
    · exact hg x _

theorem Niu.rxMarks_keeps {β : Type} (g : Niu → β) (hg : ∀ (x : Niu) l k p, g { x with fc := l, marks := k, eoPend := p } = g x) (x : Niu) (f : BitVec 16)
    (l : List (BitVec 16)) (bad : Option (BitVec 16)) : g (x.rxMarks f l bad) = g x := by
  unfold Niu.rxMarks
  dsimp only
  split
  · unfold Niu.makeMarks
    dsimp only
    refine (hg _ _ _ _).trans ((foldl_keeps g _ _ _ (fun x k => x.rxMark_keeps g (fun y l => hg y l _ _) _ _ _)).trans (hg x _ _ _))
  · exact hg x _ _ _

/-- The window's top does not lie among its marks. -/
theorem eTop_sf (g : FlitBits) {lo len : Nat} (h : lo + len ≤ 512) (hlo : 289 ≤ lo) (v : Nat) : eTop (sf g lo len v) = eTop g := by
  refine BitVec.eq_of_getLsbD_eq fun i hi => ?_
  unfold eTop
  rw [BitVec.getLsbD_extractLsb', BitVec.getLsbD_extractLsb']
  exact congrArg _ (bt_sf_ne g h v (.inl (by omega)))

theorem bt_eMap (g : FlitBits) {b : Nat} (h : b < 64) : bt (eMap g) b = bt g (320 + b) := by
  unfold bt eMap
  rw [BitVec.getLsbD_extractLsb', decide_eq_true h, Bool.true_and]

/-- The entry that a mark at distance `b` leaves. -/
def markEnt (b : Nat) (err : Bool) (g : FlitBits) : FlitBits :=
  let g := sf g (320 + b) 1 1
  if err then sf g (384 + b) 1 1 else g

section
variable (g : FlitBits) {b : Nat} (h : b ≤ 63) (err : Bool)
include h

theorem eTop_markEnt : eTop (markEnt b err g) = eTop g := by
  unfold markEnt
  dsimp only
  split
  · rw [eTop_sf _ (by omega) (by omega), eTop_sf _ (by omega) (by omega)]
  · rw [eTop_sf _ (by omega) (by omega)]

theorem eMap_markEnt {c : Nat} (hc : c ≤ 63) : bt (eMap (markEnt b err g)) c = (decide (c = b) || bt (eMap g) c) := by
  have hsf : bt (sf g (320 + b) 1 1) (320 + c) = (decide (c = b) || bt (eMap g) c) := by
    rw [bt_sf _ (by omega), bt_eMap g (by omega)]
    by_cases hcb : c = b
    · subst hcb
      rw [if_pos (by omega), decide_eq_true rfl, Nat.sub_self]
      rfl
    · rw [if_neg (by omega), decide_eq_false hcb, Bool.false_or]
  unfold markEnt
  dsimp only
  rw [bt_eMap _ (by omega), ← hsf]
  split
  · exact bt_sf_ne _ (by omega) _ (.inl (by omega))
  · rfl
end

theorem Niu.entry_setRecv (x : Niu) (f : BitVec 16) (g : FlitBits → FlitBits) :
    (x.setRecv f g).entry f = (x.entry f).map (fun e => { e with ent := g e.ent, dirtyR := true }) := by
  have hcomp : (fun e : FcE => decide (e.flow = f)) ∘ (fun e : FcE => if e.flow = f then { e with ent := g e.ent, dirtyR := true } else e) =
      fun e => decide (e.flow = f) := by
    funext e
    change decide ((if e.flow = f then ({ e with ent := g e.ent, dirtyR := true } : FcE) else e).flow = f) = decide (e.flow = f)
    split <;> rfl
  unfold Niu.setRecv Niu.modEntry Niu.entry
  dsimp only
  rw [List.find?_map, hcomp]
  refine Option.map_congr (fun e he => if_pos ?_)
  have := List.find?_some (p := fun e : FcE => decide (e.flow = f)) he
  exact of_decide_eq_true this

/-- The window of the flow `f` begins at `top`; the distances in `l` are marked. -/
def Niu.Window (x : Niu) (f top : BitVec 16) (l : Nat → Prop) : Prop :=
  ∃ e, x.entry f = some e ∧ eTop e.ent = top ∧ ∀ b, l b → bt (eMap e.ent) b = true

/-- A mark stands where its number lies in the window, and unsets none. -/
theorem Niu.window_rxMark {x : Niu} {f top : BitVec 16} {l : Nat → Prop} (h : x.Window f top l) (hl : ∀ b, l b → b ≤ 63) (q : BitVec 16) (err : Bool) :
    (x.rxMark f q err).Window f top (fun b => l b ∨ (b = seqDist top q ∧ b ≤ 63)) := by
  obtain ⟨e, he, rfl, hm⟩ := h
  unfold Niu.rxMark
  rw [he]
  dsimp only
  by_cases hb : 63 < seqDist (eTop e.ent) q
  · rw [if_pos hb]
    exact ⟨e, he, rfl, fun b h => h.elim (hm b) (fun h => by omega)⟩
  · rw [if_neg hb]
    refine ⟨{ e with ent := markEnt (seqDist (eTop e.ent) q) err e.ent, dirtyR := true }, ?_, eTop_markEnt _ (by omega) _, fun b h => ?_⟩
    · rw [Niu.entry_setRecv, he]
      rfl
    · have hb63 : b ≤ 63 := h.elim (hl b) (fun h => h.2)
      dsimp only
      rw [eMap_markEnt _ (by omega) _ hb63]
      rcases h with h | h
      · rw [hm b h, Bool.or_true]
      · rw [decide_eq_true h.1, Bool.true_or]

theorem Niu.Window.mono {x : Niu} {f top : BitVec 16} {l k : Nat → Prop} (h : x.Window f top l) (hk : ∀ b, k b → l b) : x.Window f top k := by
  obtain ⟨e, he, ht, hm⟩ := h
  exact ⟨e, he, ht, fun b hb => hm b (hk b hb)⟩

/-- Of a list of marks, each that lies in the window stands in the end. -/
theorem Niu.window_foldl {x : Niu} {f top q : BitVec 16} {l : List (BitVec 16 × BitVec 16 × Bool)} {err : Bool} (hq : (f, q, err) ∈ l)
    (h : x.Window f top (fun _ => False)) : (l.foldl (fun x k => x.rxMark f k.2.1 k.2.2) x).Window f top (fun b => b = seqDist top q ∧ b ≤ 63) :=
  foldl_sets (I := fun x : Niu => x.Window f top (fun _ => False)) (Q := fun x : Niu => x.Window f top (fun b => b = seqDist top q ∧ b ≤ 63)) hq
    (fun _ k _ h => (Niu.window_rxMark h (fun _ h => h.elim) k.2.1 k.2.2).mono (fun _ h => h.elim))
    (fun _ h => (Niu.window_rxMark h (fun _ h => h.elim) q err).mono (fun _ h => .inr h))
    (fun _ k _ _ h => (Niu.window_rxMark h (fun _ h => h.2) k.2.1 k.2.2).mono (fun _ h => .inl h)) h

theorem Niu.marked_of_window {x : Niu} {f top q : BitVec 16} (h : x.Window f top (fun b => b = seqDist top q ∧ b ≤ 63)) (hd : seqDist top q ≤ 63) :
    x.marked f q = true := by
  obtain ⟨e, he, rfl, hm⟩ := h
  unfold Niu.marked
  rw [he, Option.any_some, decide_eq_true hd, hm _ ⟨rfl, hd⟩]
  rfl

/-- The numbers of a delivered message are marked as far as they lie in the window, and pending no more. -/
theorem Niu.rxMarks_marked {x : Niu} {f q : BitVec 16} {e : FcE} (he : x.entry f = some e) {l : List (BitVec 16)} (hq : q ∈ l) :
    (f, q) ∉ (x.rxMarks f l none).eoPend ∧ (seqDist (eTop e.ent) q ≤ 63 → (x.rxMarks f l none).marked f q = true) := by
  have hmem : (f, q, decide ((none : Option (BitVec 16)) = some q)) ∈
      (x.marks ++ l.map (fun q => (f, q, decide ((none : Option (BitVec 16)) = some q)))).filter (fun k => k.1 = f) :=
    List.mem_filter.2 ⟨List.mem_append_right _ (List.mem_map.2 ⟨q, hq, rfl⟩), decide_eq_true rfl⟩
  unfold Niu.rxMarks
  dsimp only
  rw [if_pos (show Option.isSome (Niu.entry { x with marks := _ } f) = true by exact Option.isSome_iff_ne_none.2 (he ▸ Option.some_ne_none e))]
  unfold Niu.makeMarks
  dsimp only
  refine ⟨fun h => ?_, fun hd => ?_⟩
  · obtain ⟨-, h⟩ := List.mem_filter.1 h
    rw [Bool.not_eq_true', List.any_eq_false] at h
    exact h _ hmem (decide_eq_true ⟨rfl, rfl⟩)
  · exact Niu.marked_of_window (Niu.window_foldl (x := { x with marks := x.marks ++ l.map (fun q => (f, q, decide ((none : Option (BitVec 16)) = some q))) })
      hmem ⟨e, he, rfl, fun _ h => h.elim⟩) hd

/-! ## Target responses (R112) -/

/-- The last beat of the target response with header `hdr` frees the TTAG, and `t` is answered. -/
def Mach.trspEnds (m : Mach) (n : Nat) (hdr : BeatBits) (more : List BeatBits) (t : TT) : Mach :=
  (m.modNiu n (fun x => { x with trsp := none, tt := Tab.set dNone x.tt (bf hdr 40 8) none })).answerTt
    n t (trspStatus (bf hdr 48 4)) (hdr.extractLsb' 128 128) (flitsOf more)

/-- A beat of the target response with header `hdr` to `t`, `more` the data with this beat. -/
def Mach.trspTaken (m : Mach) (n : Nat) (hdr : BeatBits) (more : List BeatBits) (t : TT) (last : Bool) : Mach :=
  if !last then m.modNiu n (fun x => { x with trsp := some (hdr, more) }) else m.trspEnds n hdr more t

section
variable {s : State} (hs : s.m.test.scan = false) (ep : Ep) (d : BeatBits) (last : Bool)
include hs

theorem exec_trspBeat_closed (h : ¬ (s.m.domLive (epTile ep.val) = true ∧ (s.m.niu ep.val).runs = true ∧ (s.m.niu ep.val).rspInj.length < 32)) :
    exec (.trspBeat ep d last) s = .next s := by
  change execTrspBeat ep d last s = _
  unfold execTrspBeat
  dsimp only
  refine if_pos ?_
  rw [hs, Bool.false_or]
  unfold Niu.rspRoom
  by_contra hc
  simp only [Bool.or_eq_true, not_or, Bool.not_eq_true, Bool.not_eq_false', decide_eq_true_eq] at hc
  exact h ⟨hc.1.1, hc.1.2, hc.2⟩

variable (h : s.m.domLive (epTile ep.val) = true ∧ (s.m.niu ep.val).runs = true ∧ (s.m.niu ep.val).rspInj.length < 32)
include h

section
variable {hdr : BeatBits} {more : List BeatBits} (hh : ((s.m.niu ep.val).trsp = none ∧ hdr = d ∧ more = []) ∨
  ∃ l, (s.m.niu ep.val).trsp = some (hdr, l) ∧ more = l ++ [d])
include hh

/-- What a beat that the port takes comes to. -/
theorem exec_trspBeat_open : exec (.trspBeat ep d last) s =
    (Tab.get dNone (s.m.niu ep.val).tt (bf hdr 40 8)).elim (.fault .strayTargetResponse) (fun t =>
      .next { s with m := s.m.trspTaken ep.val hdr more t last }) := by
  have hopen : (s.m.test.scan || !s.m.domLive (epTile ep.val) || !(s.m.niu ep.val).runs || !(s.m.niu ep.val).rspRoom) = false := by
    rw [hs, h.1, h.2.1, Niu.rspRoom, decide_eq_true h.2.2]
    rfl
  change execTrspBeat ep d last s = _
  unfold execTrspBeat
  dsimp only
  rw [hopen]
  refine (if_neg (by decide)).trans ?_
  rcases hh with ⟨ht, rfl, rfl⟩ | ⟨l, ht, rfl⟩
  · rw [ht]
    dsimp only [Option.map_none, Option.getD_none]
    cases Tab.get dNone (s.m.niu ep.val).tt (bf hdr 40 8) <;> cases last <;> rfl
  · rw [ht]
    dsimp only [Option.map_some, Option.getD_some]
    cases Tab.get dNone (s.m.niu ep.val).tt (bf hdr 40 8) <;> cases last <;> rfl

theorem exec_trspBeat_taken {t : TT} (ht : Tab.get dNone (s.m.niu ep.val).tt (bf hdr 40 8) = some t) :
    exec (.trspBeat ep d last) s = .next { s with m := s.m.trspTaken ep.val hdr more t last } := by
  rw [exec_trspBeat_open hs ep d last h hh, ht]
  rfl

theorem exec_trspBeat_stray (ht : Tab.get dNone (s.m.niu ep.val).tt (bf hdr 40 8) = none) :
    exec (.trspBeat ep d last) s = .fault .strayTargetResponse := by
  rw [exec_trspBeat_open hs ep d last h hh, ht]
  rfl
end
end

theorem trspStatus_eq (c : Nat) : trspStatus c = if c = 0 ∨ c = 11 then c else 10 := rfl

/-- The answer of a request that brings no data back (R112). -/
theorem Mach.answerTt_bare {m : Mach} {n : Nat} {t : TT} {st : Nat} (hk : t.kind = .plain) (hd : hDmode t.hd ≠ 2)
    (h : (hOpc t.hd ≠ opRD ∧ hOpc t.hd ≠ opATM) ∨ st ≠ 0) (inl : BitVec 128) (data : List FlitBits) :
    m.answerTt n t st inl data = (m.modNiu n (fun x => x.endAll t.gens)).putRsp n (rspBare t.hd st) [] none := by
  have hrd : ¬ (hOpc t.hd = opRD ∧ st = sOK) := fun h' => h.elim (fun h => h.1 h'.1) (fun h => h h'.2)
  have hatm : ¬ (hOpc t.hd = opATM ∧ st = sOK) := fun h' => h.elim (fun h => h.2 h'.1) (fun h => h h'.2)
  unfold Mach.answerTt
  rw [hk]
  dsimp only
  rw [if_neg hrd, if_neg hatm, if_neg (fun h => hd h.1), eoSeqs, if_neg (fun h => hd h.1)]

theorem Niu.endAll_tt (x : Niu) (l : List Nat) : (x.endAll l).tt = x.tt ∧ (x.endAll l).rspInj = x.rspInj := by
  have h {β : Type} (g : Niu → β) (hg : ∀ (x : Niu) a b, g { x with gNew := a, gOld := b } = g x) : g (x.endAll l) = g x := by
    refine foldl_keeps g _ _ _ (fun x k => ?_)
    unfold Niu.endAccess
    split
    · exact hg x _ _
    · exact hg x _ _
  exact ⟨h Niu.tt (fun _ _ _ => rfl), h Niu.rspInj (fun _ _ _ => rfl)⟩

/-- The NIU that the answer of such a request leaves. -/
theorem Mach.trspEnds_bare {m : Mach} {n : Nat} {hdr : BeatBits} {t : TT} {st : Nat} (hst : trspStatus (bf hdr 48 4) = st) (hk : t.kind = .plain)
    (hd : hDmode t.hd ≠ 2) (h : (hOpc t.hd ≠ opRD ∧ hOpc t.hd ≠ opATM) ∨ st ≠ 0) (more : List BeatBits) :
    ((m.trspEnds n hdr more t).niu n).tt = Tab.set dNone (m.niu n).tt (bf hdr 40 8) none ∧
      ((m.trspEnds n hdr more t).niu n).rspInj = (m.niu n).rspInj ++ [⟨none, [], false, rspBare t.hd st⟩] := by
  obtain ⟨htt, hinj⟩ := Niu.endAll_tt { m.niu n with trsp := none, tt := Tab.set dNone (m.niu n).tt (bf hdr 40 8) none } t.gens
  unfold Mach.trspEnds
  rw [hst, Mach.answerTt_bare hk hd h, Mach.putRsp, Mach.niu_modNiu, Mach.niu_modNiu, Mach.niu_modNiu]
  exact ⟨htt, congrArg (· ++ [_]) hinj⟩

/-- Settles O55: the response, target-request and target-response channels. -/
theorem portAnswers : Obligations.PortAnswers := by
  unfold Obligations.PortAnswers
  intro s ep d last r i k beats t0 n x key ready st hs
  have hrsp {a : Mach} (h : s.m.rspBeat n = a) : Does (.rspBeatAccept ep) s a := ⟨_, exec_rspBeatAccept hs ep, rfl, rfl, .of_eq h⟩
  have htreq {a : Mach} (h : s.m.treqBeat n = a) : Does (.treqBeatAccept ep) s a := ⟨_, exec_treqBeatAccept hs ep, rfl, rfl, .of_eq h⟩
  have hshort {r : Rsp} (h : 1 < r.beats.length) : ¬ r.beats.length ≤ 1 := Nat.not_le.2 h
  refine ⟨fun hr => hrsp (Mach.rspBeat_reset hr), fun hr ho hl => hrsp ?_, fun hr ho hl => hrsp ?_, fun hr ho hq hl => hrsp ?_,
    fun hr ho hq => hrsp (Mach.rspBeat_none ho hq), fun h => htreq (Mach.treqBeat_none h), fun hr ht hl => htreq (Mach.treqBeat_more hr ht hl),
    fun hr ht hl htt hq => htreq ((Mach.treqBeat_last hr ht hl htt).trans (if_pos hq)), fun hr ht hl htt hq hk => ⟨_, exec_treqBeatAccept hs ep, ?_⟩,
    fun e hr ht hl htt hq hk hd he => ⟨_, exec_treqBeatAccept hs ep, ?_⟩, fun h => ?_, fun h hts htt => ?_, fun h hts htt hl => ?_,
    fun hd l h hts htt hl => ?_, fun h hts hl htt hk hd hop => ?_⟩
  · exact (Mach.rspBeat_out hr ho).trans ((if_neg (hshort hl)).trans (Mach.modNiu_congr rfl))
  · exact (Mach.rspBeat_out hr ho).trans ((if_pos hl).trans (Mach.modNiu_congr rfl))
  · exact (Mach.rspBeat_next hr ho hq).trans ((if_neg (hshort hl)).trans (Mach.modNiu_congr rfl))
  · dsimp only
    rw [Mach.treqBeat_queue hr ht hl htt hq (by rw [hk]; decide)]
    have hkeep {β : Type} (g : Niu → β) (hg : ∀ (x : Niu) l k p, g { x with fc := l, marks := k, eoPend := p } = g x) :
        g ((s.m.niu n).endTreq.treqDone t0) = g ((s.m.niu n).endTreq.freeCtx t0.hd) := by
      unfold Niu.treqDone
      rw [if_pos hk]
      dsimp only
      split
      · rfl
      · exact Niu.rxMarks_keeps g hg _ _ _ _
    have htt' : (s.m.niu n).endTreq.tt = (s.m.niu n).tt := by
      unfold Niu.endTreq
      cases (s.m.niu n).treqVc <;> rfl
    refine ⟨hkeep Niu.treq (fun _ _ _ _ => rfl), hkeep Niu.treqSlot (fun _ _ _ _ => rfl), ?_, (hkeep Niu.tt (fun _ _ _ _ => rfl)).trans htt', rfl, rfl⟩
    refine (hkeep (fun x => x.ctxOf t0.hd) (fun _ _ _ _ => rfl)).trans (List.find?_eq_none.2 (fun c hc h => ?_))
    rw [Niu.freeCtx, List.mem_filter] at hc
    rw [h] at hc
    exact nomatch hc.2
  · dsimp only
    rw [Mach.treqBeat_queue hr ht hl htt hq (by rcases hk with hk | hk <;> rw [hk] <;> decide)]
    have hdone : (s.m.niu n).endTreq.treqDone t0 =
        (if t0.kind = .qmsg then (s.m.niu n).endTreq.freeCtx t0.hd else (s.m.niu n).endTreq).rxMarks (hFlow t0.hd) t0.seqs none := by
      unfold Niu.treqDone
      refine if_neg ?_
      rintro (h | h)
      · rcases hk with hk | hk <;> rw [hk] at h <;> cases h
      · exact h hd
    rw [hdone]
    have he' : Niu.entry (if t0.kind = .qmsg then (s.m.niu n).endTreq.freeCtx t0.hd else (s.m.niu n).endTreq) (hFlow t0.hd) = some e := by
      have hend : (s.m.niu n).endTreq.entry (hFlow t0.hd) = some e := by
        unfold Niu.endTreq
        cases (s.m.niu n).treqVc <;> exact he
      split <;> exact hend
    have htr' : Niu.treq (if t0.kind = .qmsg then (s.m.niu n).endTreq.freeCtx t0.hd else (s.m.niu n).endTreq) = none := by split <;> rfl
    generalize (if t0.kind = .qmsg then (s.m.niu n).endTreq.freeCtx t0.hd else (s.m.niu n).endTreq) = z at he' htr' ⊢
    exact ⟨(Niu.rxMarks_keeps Niu.treq (fun _ _ _ _ => rfl) _ _ _ _).trans htr', fun q hq => Niu.rxMarks_marked he' hq⟩
  · exact ⟨s, exec_trspBeat_closed hs ep d last h, rfl, rfl, .refl _⟩
  · exact exec_trspBeat_stray hs ep d last h (.inl ⟨hts, rfl, rfl⟩) htt
  · exact ⟨_, exec_trspBeat_taken hs ep d last h (.inl ⟨hts, rfl, rfl⟩) htt, rfl, rfl, .of_eq (if_pos (by rw [hl]; rfl))⟩
  · exact ⟨_, exec_trspBeat_taken hs ep d last h (.inr ⟨l, hts, rfl⟩) htt, rfl, rfl, .of_eq (if_pos (by rw [hl]; rfl))⟩
  · refine ⟨_, exec_trspBeat_taken hs ep d last h (.inl ⟨hts, rfl, rfl⟩) htt, ?_⟩
    have hlast : s.m.trspTaken n d [] t0 last = s.m.trspEnds n d [] t0 := if_neg (by rw [hl]; decide)
    dsimp only
    rw [hlast]
    obtain ⟨htt', hinj⟩ := Mach.trspEnds_bare (m := s.m) (n := n) (hdr := d) (trspStatus_eq _) hk hd hop []
    rw [htt', hinj]
    exact ⟨Tab.get_set _ _ _, fun j hj => Tab.get_set_ne _ _ hj, rfl, rfl, rfl⟩

end Sys2Proof.Machine

/-! PROOFS. The target side of an NIU (O57). -/

namespace Sys2Proof.Machine

/-! ## A packet at the head of an ejection VC (R105) -/

/-- A mirror ring that is not in force takes no head. -/
theorem Mach.mirror_idle {m : Mach} (h : m.hasMirror = false ∨ bt (m.reg 0x480000) 63 = false) (t pt out vc : Nat) (hd : FlitBits) :
    m.mirror t pt out vc hd = m := by
  unfold Mach.mirror
  refine if_pos ?_
  rcases h with h | h
  · rw [h]; rfl
  · change (!m.hasMirror || !bt (m.reg 0x480000) 63) = true
    rw [h]
    exact Bool.or_true _

/-- The packet with head `h` has been dealt with: it passes the mirror's point and is counted. -/
def Mach.passed (m : Mach) (n : Nat) (h : FlitBits) : Mach :=
  (m.mirror (epTile n) 2 0 (vcOf h) h).countNiu n 3 none (some (hTc h)) 1 h

def Mach.ejectAt (m : Mach) (n vc : Nat) : Mach :=
  match (m.niu n).ejected vc with
  | none => m
  | some p =>
    if (m.niu n).ready.any (fun r => r.vc == some vc) || (m.niu n).treqVc == some vc then m
    else if (m.eject n vc p).2 then (m.eject n vc p).1.passed n p.hd else (m.eject n vc p).1

theorem exec_packetEject {s : State} (hs : s.m.test.scan = false) (ep : Ep) (vc : Vc) :
    exec (.packetEject ep vc) s = .next { s with m := s.m.ejectAt ep.val vc.val } := by
  change execPacketEject ep vc s = _
  rw [execPacketEject, State.on_eq hs]
  rfl

theorem Mach.passed_like (m : Mach) {n : Nat} (hn : n < 512) {h : FlitBits} (hq : m.hasMirror = false ∨ bt (m.reg 0x480000) 63 = false) :
    (m.passed n h).Like m := by
  unfold Mach.passed Mach.countNiu
  rw [Mach.mirror_idle hq, if_pos hn]
  exact m.like_count (by simp only [ctrNiu]; omega) _ _ _ _ _

theorem Mach.like_countNiu (m : Mach) (n code : Nat) (sel tc : Option Nat) (k : Nat) (hd : FlitBits) : (m.countNiu n code sel tc k hd).Like m := by
  unfold Mach.countNiu
  split
  · exact m.like_count (by simp only [ctrNiu]; omega) _ _ _ _ _
  · exact .refl m

section
variable {m : Mach} {n vc : Nat} {p : Pkt} (he : (m.niu n).ejected vc = some p)
  (hr : ∀ r ∈ (m.niu n).ready, r.vc ≠ some vc) (ht : (m.niu n).treqVc ≠ some vc)
include he hr ht

/-- What the checks of R105 make of a packet that waits for nothing. -/
theorem Mach.ejectAt_eq : m.ejectAt n vc = if (m.eject n vc p).2 then (m.eject n vc p).1.passed n p.hd else (m.eject n vc p).1 := by
  unfold Mach.ejectAt
  rw [he]
  refine if_neg ?_
  rw [Bool.or_eq_true, List.any_eq_true, beq_iff_eq]
  rintro (⟨r, hm, h⟩ | h)
  · exact hr r hm (beq_iff_eq.1 h)
  · exact ht h

theorem Mach.ejectAt_stays {a : Mach} (h : m.eject n vc p = (a, false)) : m.ejectAt n vc = a := by
  rw [Mach.ejectAt_eq he hr ht, h]
  rfl

theorem Mach.ejectAt_dealt {a : Mach} (h : m.eject n vc p = (a, true)) : m.ejectAt n vc = a.passed n p.hd := by
  rw [Mach.ejectAt_eq he hr ht, h]
  rfl
end

section
variable {m : Mach} {n vc : Nat} {p : Pkt} (hop : opReq (hOpc p.hd) = true) (hred : hOpc p.hd ≠ opRED) (hmu : hMulti p.hd = false)
  (hcl : hCloses p.hd = false)

theorem Mach.refuse_single {x : Option Nat} (hmu : hMulti p.hd = false) (st : Nat) (h : (m.niu n).rspInj.length < 32) :
    m.refuse n p x st = ((m.modNiu n (fun y => y.takeEj x)).putRsp n (rspBare p.hd st) [] none, true) := by
  unfold Mach.refuse Niu.rspRoom
  dsimp only
  rw [decide_eq_true h, hmu]
  rfl

theorem Mach.refuse_full {x : Option Nat} (st : Nat) (h : 32 ≤ (m.niu n).rspInj.length) : m.refuse n p x st = (m, false) := by
  unfold Mach.refuse Niu.rspRoom
  dsimp only
  rw [decide_eq_false (by omega)]
  rfl

/-- A packet of no message that goes to memory needs no room (R98). -/
theorem Niu.roomFor_single (x : Niu) {h : FlitBits} (hmu : hMulti h = false) (hmem : hOpc h ≠ opMSG) (b : Bool) : x.roomFor h b = .ok := by
  unfold Niu.roomFor
  rw [hmu, beq_false_of_ne hmem]
  rfl

/-- A packet next in line to be presented, which waits in an ejection VC (R93). -/
def atEj (p : Pkt) (vc : Nat) : Pres := ⟨.plain, p, some vc, false, 0, none, none⟩
def Niu.lined (x : Niu) (r : Pres) : Niu := { x with ready := x.ready ++ [r] }

theorem Mach.place_single (hmu : hMulti p.hd = false) (hmem : hOpc p.hd ≠ opMSG) (eo : Bool) :
    m.place n p (some vc) eo = m.modNiu n (fun x => x.lined (atEj p vc)) := by
  unfold Mach.place
  dsimp only
  rw [hmu, beq_false_of_ne hmem]
  rfl

include hop hred
theorem Mach.eject_safe (h : (m.niu n).safe = true) : m.eject n vc p = m.refuse n p (some vc) sSAFE := by
  unfold Mach.eject
  dsimp only
  rw [hop, beq_false_of_ne hred, h]
  rfl

theorem Mach.eject_stale (h : (m.niu n).safe = false) (hi : hDstInc p.hd ≠ (m.niu n).inc) : m.eject n vc p = m.refuse n p (some vc) sSTALE := by
  unfold Mach.eject
  dsimp only
  rw [hop, beq_false_of_ne hred, h]
  exact if_pos hi

section
variable (hsafe : (m.niu n).safe = false) (hinc : hDstInc p.hd = (m.niu n).inc)
include hsafe hinc

include hmu hcl in
theorem Mach.eject_unordered (hmem : hOpc p.hd ≠ opMSG) (hd : hDmode p.hd = 0) :
    m.eject n vc p = (m.modNiu n (fun x => x.lined (atEj p vc)), true) := by
  unfold Mach.eject
  dsimp only
  rw [hop, beq_false_of_ne hred, hsafe, Niu.roomFor_single _ hmu hmem, hcl, Mach.place_single hmu hmem, hd]
  exact (if_neg (by decide)).trans ((if_neg (by decide)).trans (if_neg (fun h => h hinc)))

/-- A packet of another mode whose receive half is at hand (R105 steps 2 and 3). -/
theorem Mach.eject_known (hd : hDmode p.hd ≠ 0) (hw : m.recWaits n (hFlow p.hd) = false) {e : FcE} (he : (m.niu n).entry (hFlow p.hd) = some e)
    (hv : eV e.ent = true) (hdst : eDst e.ent = n) (hc : m.carries (hFlow p.hd) = true) {r : Mach × Bool}
    (h : (if hDmode p.hd = 2 then m.ejectEo n vc p e.ent else m.ejectOrdered n vc p e.ent) = r) :
    m.eject n vc p = if r.2 then (r.1.lookedUp n (!bt (m.niu n).missEj vc) e, true) else r := by
  unfold Mach.eject
  dsimp only
  rw [hop, beq_false_of_ne hred, hsafe, hw, he]
  refine (if_neg (by decide)).trans ((if_neg (by decide)).trans ((if_neg (fun h => h hinc)).trans ((if_neg hd).trans ?_)))
  have hgood : ¬ (eV e.ent = false ∨ eDst e.ent ≠ n ∨ m.carries (hFlow p.hd) = false) := by
    rw [hv, hc]
    rintro (h | h | h)
    · exact nomatch h
    · exact h hdst
    · exact nomatch h
  refine (if_neg (by decide)).trans ?_
  dsimp only
  rw [if_neg hgood, h]
end
end

theorem Niu.entry_flow {x : Niu} {f : BitVec 16} {e : FcE} (h : x.entry f = some e) : e.flow = f :=
  of_decide_eq_true (List.find?_some (p := fun e : FcE => decide (e.flow = f)) h)

/-- The lookup of the receive half of a flow has hit (R238, R255), `b` saying whether it counts. -/
def Mach.used (m : Mach) (n : Nat) (f : BitVec 16) (b : Bool) : Mach :=
  if b then (m.modNiu n (fun x => x.touch f)).addFld (aSch n 0x08) 32 32 1 else m.modNiu n (fun x => x.touch f)

theorem Mach.lookedUp_eq (m : Mach) (n : Nat) (b : Bool) (e : FcE) : m.lookedUp n b e = m.used n e.flow (b && !e.dflt) := by
  unfold Mach.lookedUp Mach.used
  split <;> rfl

theorem ctrAddr_aSch {n o : Nat} (hn : n < 512) (ho : o < 0x40) : ctrAddr (aSch n o) = false := by
  unfold ctrAddr aSch
  rw [if_pos hn]
  exact decide_eq_false (by omega)

theorem Mach.Like.used {a m : Mach} (h : a.Like m) {n : Nat} (hn : n < 512) (f : BitVec 16) (b : Bool) : (a.used n f b).Like (m.used n f b) := by
  unfold Mach.used
  split
  · exact (h.modNiu n _).addFld (ctrAddr_aSch hn (by decide)) _ _ _
  · exact h.modNiu n _

theorem Niu.entry_touch (x : Niu) (f : BitVec 16) : (x.touch f).entry f = x.entry f := by
  unfold Niu.touch Niu.entry
  dsimp only
  rw [List.find?_append, List.find?_filter, List.find?_filter]
  rw [List.find?_eq_none.2 (fun e _ h => ?_), Option.none_or]
  · simp only [and_self, Bool.decide_eq_true]
  · obtain ⟨h1, h2⟩ := of_decide_eq_true h
    exact of_decide_eq_true h1 (of_decide_eq_true h2)

theorem Mach.niu_used (m : Mach) (n : Nat) (f : BitVec 16) (b : Bool) : (m.used n f b).niu n = (m.niu n).touch f := by
  unfold Mach.used
  split
  · rw [Mach.niu_addFld, Mach.niu_modNiu]
  · rw [Mach.niu_modNiu]

/-! ## The ORDERED flow (R106) and the window of an EXACTLY_ONCE flow (R126) -/

section
variable {m : Mach} {n vc : Nat} {p : Pkt} {e : FlitBits} (hmu : hMulti p.hd = false) (hcl : hCloses p.hd = false) (hmem : hOpc p.hd ≠ opMSG)

/-- The receive half of a flow takes the number of an ORDERED packet. -/
def Niu.nexts (x : Niu) (h : FlitBits) : Niu := x.setRecv (hFlow h) (fun g => sf g 304 16 (hSeq h + 1).toNat)

theorem Mach.drainStore_empty (hst : (m.niu n).store = []) {f : BitVec 16} (k : Nat) : m.drainStore n f k = m := by
  cases k with
  | zero => rfl
  | succ k =>
    unfold Mach.drainStore
    dsimp only
    rw [hst]
    split <;> rfl

include hmu hcl hmem in
/-- The next in order, with none behind it in the packet store. -/
theorem Mach.ejectOrdered_next (hseq : hSeq p.hd = eNext e) (hst : (m.niu n).store = []) :
    m.ejectOrdered n vc p e = ((m.modNiu n (fun x => x.nexts p.hd)).modNiu n (fun x => x.lined (atEj p vc)), true) := by
  unfold Mach.ejectOrdered
  have h0 : seqDist (hSeq p.hd) (eNext e) = 0 := by rw [hseq, seqDist, BitVec.sub_self]; rfl
  dsimp only
  rw [if_pos h0, Niu.roomFor_single _ hmu hmem, hcl, Mach.place_single hmu hmem]
  refine (if_neg (fun h => h rfl)).trans ((if_neg Bool.false_ne_true).trans ?_)
  exact congrArg (·, true) (Mach.drainStore_empty (by rw [Mach.niu_modNiu, Mach.niu_modNiu]; exact hst) _)

/-- An early packet takes a slot of the packet store. -/
theorem Mach.ejectOrdered_early (h1 : 1 ≤ (hSeq p.hd - eNext e).toNat) (h64 : (hSeq p.hd - eNext e).toNat < 64) (hs : (m.niu n).storeUsed < 64) :
    m.ejectOrdered n vc p e =
      ((m.modNiu n (fun x => { (x.clearEj vc) with store := x.store ++ [p] })).countNiu n 7 none (some (hTc p.hd)) 1 p.hd, true) := by
  unfold Mach.ejectOrdered
  dsimp only
  rw [if_neg (show ¬ seqDist (hSeq p.hd) (eNext e) = 0 by unfold seqDist; omega), if_pos (show seqDist (hSeq p.hd) (eNext e) < 64 from h64),
    if_neg (by omega)]
  rfl

/-- The entry whose window's top has moved up to a packet's number. -/
def movedUp (e : FlitBits) (seq : BitVec 16) : FlitBits :=
  sf (sf (sf e 320 64 ((eMap e) <<< seqDist seq (eTop e)).toNat) 384 64 ((eErr e) <<< seqDist seq (eTop e)).toNat) 273 16 seq.toNat

theorem eTop_movedUp (e : FlitBits) (seq : BitVec 16) : eTop (movedUp e seq) = seq := by
  refine BitVec.eq_of_getLsbD_eq fun i hi => ?_
  unfold eTop movedUp
  have h := bt_sf (sf (sf e 320 64 ((eMap e) <<< seqDist seq (eTop e)).toNat) 384 64 ((eErr e) <<< seqDist seq (eTop e)).toNat)
    (lo := 273) (len := 16) (by decide) seq.toNat (273 + i)
  rw [if_pos (by omega), Nat.add_sub_cancel_left] at h
  rw [BitVec.getLsbD_extractLsb', decide_eq_true hi, Bool.true_and]
  exact h.trans (BitVec.testBit_toNat seq)

theorem eMap_movedUp (e : FlitBits) (seq : BitVec 16) : eMap (movedUp e seq) = eMap e <<< seqDist seq (eTop e) := by
  refine BitVec.eq_of_getLsbD_eq fun i hi => ?_
  have h := bt_sf e (lo := 320) (len := 64) (by decide) ((eMap e) <<< seqDist seq (eTop e)).toNat (320 + i)
  rw [if_pos (by omega), Nat.add_sub_cancel_left, BitVec.testBit_toNat] at h
  refine (bt_eMap _ hi).trans ?_
  unfold movedUp
  rw [bt_sf_ne _ (by decide) _ (by omega), bt_sf_ne _ (by decide) _ (by omega)]
  exact h

theorem rxWindow_new {h : FlitBits} (hst : eRxState e = true) (hinc : hSrcInc h = eSInc e) (h1 : 1 ≤ (hSeq h - eTop e).toNat)
    (h64 : (hSeq h - eTop e).toNat ≤ 64) (b : Bool) : rxWindow e h b = .accept (movedUp e (hSeq h)) false := by
  unfold rxWindow
  dsimp only
  rw [if_neg (by rw [hst]; decide), if_neg (fun h => h hinc)]
  exact if_pos ⟨h1, h64⟩

theorem rxWindow_old {h : FlitBits} (hst : eRxState e = true) (hinc : hSrcInc h = eSInc e) (h64 : 64 ≤ (eTop e - hSeq h).toNat)
    (hle : (eTop e - hSeq h).toNat ≤ 32767) (b : Bool) : rxWindow e h b = .late e false := by
  unfold rxWindow
  dsimp only
  have hneg : (hSeq h - eTop e).toNat + (eTop e - hSeq h).toNat = 65536 := by
    rw [BitVec.toNat_sub] at *
    rw [BitVec.toNat_sub]
    omega
  rw [if_neg (by rw [hst]; decide), if_neg (fun h => h hinc)]
  refine (if_neg (fun h => ?_)).trans ((if_neg (fun h => ?_)).trans (if_pos hle))
  · have := h.2
    unfold seqDist at this
    omega
  · unfold seqDist at h
    omega

/-- The receive half of a flow's entry as R126 leaves it. -/
theorem Niu.ent_setWindow (x : Niu) (f : BitVec 16) (g : FlitBits) (b : Bool) :
    ((x.setWindow f g b).entry f).map FcE.ent = (x.entry f).map (fun _ => g) := by
  unfold Niu.setWindow
  change ((match x.entry f with
    | some e => if e.ent = g then x else x.setRecv f (fun _ => g)
    | none => x).entry f).map FcE.ent = _
  split
  · next e he =>
    split
    · next h => rw [he, Option.map_some, h]; rfl
    · rw [Niu.entry_setRecv, he]; rfl
  · next he => rw [he]; rfl

theorem Niu.setWindow_keeps {β : Type} (g : Niu → β) (hg : ∀ (x : Niu) l a, g { x with fc := l, atoms := a } = g x) (x : Niu) (f : BitVec 16)
    (e : FlitBits) (b : Bool) : g (x.setWindow f e b) = g x := by
  unfold Niu.setWindow
  dsimp only
  split
  · split
    · exact hg x _ _
    · exact hg x _ _
  · exact hg x _ _

/-- A packet is accepted in the window: its number is pending. -/
def Niu.pends (h g : FlitBits) (x : Niu) : Niu := { (x.setWindow (hFlow h) g false) with eoPend := x.eoPend ++ [(hFlow h, hSeq h)] }

include hmu hcl hmem in
theorem Mach.ejectEo_new (hst : eRxState e = true) (hinc : hSrcInc p.hd = eSInc e) (h1 : 1 ≤ (hSeq p.hd - eTop e).toNat)
    (h64 : (hSeq p.hd - eTop e).toNat ≤ 64) : m.ejectEo n vc p e =
      ((m.modNiu n (fun x => x.pends p.hd (movedUp e (hSeq p.hd)))).modNiu n (fun x => x.lined (atEj p vc)), true) := by
  unfold Mach.ejectEo
  dsimp only
  rw [rxWindow_new hst hinc h1 h64]
  dsimp only
  rw [Niu.roomFor_single _ hmu hmem, hcl, hmu, Mach.place_single hmu hmem]
  exact (if_neg (fun h => h rfl)).trans (if_neg Bool.false_ne_true)

theorem Mach.ejectEo_old (hst : eRxState e = true) (hinc : hSrcInc p.hd = eSInc e) (h64 : 64 ≤ (eTop e - hSeq p.hd).toNat)
    (hle : (eTop e - hSeq p.hd).toNat ≤ 32767) :
    m.ejectEo n vc p e = ((m.modNiu n (fun x => (x.clearEj vc).setWindow (hFlow p.hd) e false)).countNiu n 0x0B none none 1 p.hd, true) := by
  unfold Mach.ejectEo
  dsimp only
  rw [rxWindow_old hst hinc h64 hle]
  rfl
end

/-! ## Presentation (R105 steps 4 to 6, R112) -/

def Mach.presentAt (m : Mach) (g : Guard) (n : Nat) : Mach :=
  match m.nextReady n with
  | none => m
  | some (i, r) =>
    match r.kind with
    | .service =>
      if !(m.niu n).runs then
        (if bf r.pkt.hd 11 6 = 0x3E then (m.modNiu n (fun x => x.dropReady i none)).noticeDone n else m.modNiu n (fun x => x.dropReady i none))
      else match (m.niu n).freeTt with
        | none => m
        | some k => (m.modNiu n (fun x => x.dropReady i none)).present n k r r.size r.pkt.data [] []
    | .qmsg => m.treatMessage n i r
    | .dup => m.treatDup g n i r
    | _ => m.treatPacket g n i r

def Mach.presents (m : Mach) (g : Guard) (n : Nat) : Mach :=
  ((((m.niu n).store.map (fun p => hFlow p.hd)).dedup).foldl (fun m f => m.drainStore n f 64) m).presentAt g n

theorem exec_targetPresent {s : State} (hs : s.m.test.scan = false) (ep : Ep) :
    exec (.targetPresent ep) s = .next { s with m := s.m.presents (s.guard ep.val) ep.val } := by
  change execTargetPresent ep s = _
  rw [execTargetPresent, State.onAll, hs]
  rfl

section
variable {m : Mach} {g : Guard} {n : Nat} (hst : (m.niu n).store = [])
include hst

theorem Mach.presents_eq : m.presents g n = m.presentAt g n := by
  unfold Mach.presents
  rw [hst]
  rfl

theorem Mach.presents_none (hr : (m.niu n).ready = []) : m.presents g n = m := by
  rw [Mach.presents_eq hst]
  unfold Mach.presentAt Mach.nextReady
  dsimp only
  rw [hr]
  rfl

/-- A packet of an UNORDERED flow alone in line. -/
theorem Mach.presents_single {r : Pres} (hr : (m.niu n).ready = [r]) (hk : r.kind = .plain) (hm : r.mir = none) (hd : hDmode r.pkt.hd = 0) :
    m.presents g n = m.treatPacket g n 0 r := by
  have hw (x : Niu) : x.qWaits r = false := by
    unfold Niu.qWaits
    dsimp only
    rw [hd]
    simp
  have hnext : m.nextReady n = some (0, r) := by
    unfold Mach.nextReady
    dsimp only
    rw [hr]
    simp [List.zipIdx, hw, hm]
  rw [Mach.presents_eq hst]
  unfold Mach.presentAt
  rw [hnext]
  dsimp only
  rw [hk]
end

section
variable {m : Mach} {g : Guard} {n : Nat} {r : Pres} (hk : r.kind = .plain) (hd : hDmode r.pkt.hd = 0) (hadm : r.adm = none)

/-- The packet answered without presentation. -/
def Mach.answersBare (m : Mach) (n : Nat) (r : Pres) (st : Nat) : Mach :=
  (m.modNiu n (fun x => x.discardReady 0 r)).putRsp n (rspBare r.pkt.hd st) [] none

include hk hd in
theorem Mach.turnAway_plain (st : Nat) : m.turnAway n 0 r st = m.answersBare n r st := by
  unfold Mach.turnAway Mach.answersBare
  dsimp only
  have hseqs (x : Niu) : eoSeqs x r.pkt.hd = [] := if_neg (by rw [hd]; intro h; exact nomatch h.1)
  rw [hk, hseqs]
  rfl

include hk hd

theorem Mach.presentPlain_eq (k j : Nat) :
    m.presentPlain n 0 k r j = (m.modNiu n (fun x => x.dropReady 0 none)).present n k r (hLen r.pkt.hd) r.pkt.data [j] [] := by
  have hseqs (x : Niu) : eoSeqs x r.pkt.hd = [] := if_neg (by rw [hd]; intro h; exact nomatch h.1)
  unfold Mach.presentPlain
  dsimp only
  rw [hseqs, hd, hk]
  rfl

theorem Mach.treatPacket_waits (hrun : (m.niu n).runs = true) (ht : (m.niu n).freeTt = none) : m.treatPacket g n 0 r = m := by
  unfold Mach.treatPacket
  dsimp only
  rw [hk, hd, hrun, ht]
  rfl

include hadm

theorem Mach.treatPacket_denied (ht : (m.niu n).runs = true → (m.niu n).freeTt ≠ none) {d : Denial} (hg : g.check r.pkt.hd = some d)
    (hroom : (m.niu n).rspInj.length < 32) : m.treatPacket g n 0 r = (m.deny n r.pkt.hd d).answersBare n r sGUARD := by
  unfold Mach.treatPacket
  dsimp only
  rw [hk, hd, hadm, hg, Niu.rspRoom, decide_eq_true hroom]
  refine (if_neg ?_).trans ((if_neg ?_).trans ((if_neg ?_).trans (Mach.turnAway_plain hk hd _)))
  · exact fun h => nomatch h.1
  · exact fun h => nomatch h.1
  · exact fun h => ht h.2.1 h.2.2

theorem Mach.treatPacket_reset (hrun : (m.niu n).runs = false) (hg : g.check r.pkt.hd = none) (hroom : (m.niu n).rspInj.length < 32) :
    m.treatPacket g n 0 r = m.answersBare n r sTGTERR := by
  unfold Mach.treatPacket
  dsimp only
  rw [hk, hd, hadm, hg, Niu.rspRoom, decide_eq_true hroom, Mach.turnAway_plain hk hd, hrun]
  rfl

/-- The guard has admitted the first packet in line (R306). -/
def Mach.letIn (m : Mach) (n : Nat) : Mach :=
  m.modNiu n (fun x => { x.admitted with ready := modAt (fun p => { p with adm := some (m.niu n).gSer }) x.ready 0 })

/-- The packet presented under the TTAG `k`. -/
def Mach.presentsPlain (m : Mach) (n k : Nat) (r : Pres) : Mach :=
  ((m.letIn n).modNiu n (fun x => x.dropReady 0 none)).present n k r (hLen r.pkt.hd) r.pkt.data [(m.niu n).gSer] []

theorem Mach.treatPacket_presents (hrun : (m.niu n).runs = true) (hb : r.pkt.bad = false) {k : Nat} (ht : (m.niu n).freeTt = some k)
    (hg : g.check r.pkt.hd = none) : m.treatPacket g n 0 r = m.presentsPlain n k r := by
  unfold Mach.treatPacket
  dsimp only
  rw [hk, hd, hadm, hg, hrun, ht, hb]
  refine (if_neg ?_).trans ((if_neg ?_).trans ((if_neg ?_).trans ?_))
  · exact fun h => nomatch h.1
  · exact fun h => nomatch h.1
  · exact fun h => nomatch h.2.2
  · change (match ((m.letIn n).niu n).freeTt with
      | none => m.letIn n
      | some k => (m.letIn n).presentPlain n 0 k r (m.niu n).gSer) = _
    rw [show ((m.letIn n).niu n).freeTt = some k by rw [Mach.letIn, Mach.niu_modNiu]; exact ht]
    exact Mach.presentPlain_eq hk hd k _
end

/-- What a refusal of the guard leaves, past its count (R308, R311). -/
theorem Mach.deny_leaves {γ : Type} {π : Mach → γ} (m : Mach) (n : Nat) (h : FlitBits) (d : Denial) (hlike : ∀ a m : Mach, a.Like m → π a = π m)
    (hfld : ∀ m : Mach, π (m.addFld (aGd n 0x28) 16 16 1) = π m) (hocc : ∀ (m : Mach) c k l o s j, π (m.occur c k l o s j) = π m)
    (hreg : ∀ (m : Mach) v, π (m.orReg (aGd n 0x08) v) = π m) (hlog : ∀ (m : Mach) l, π (m.modNiu n (fun x => { x with gLog := x.gLog ++ l })) = π m)
    (hevt : ∀ (m : Mach) c k d s, π (m.postEvt (niuQe n) c k d s) = π m) : π (m.deny n h d) = π (m.addFld (aGd n 0x28) 32 32 1) := by
  have hite {b : Prop} [Decidable b] {a c : Mach} (hac : π a = π c) : π (if b then a else c) = π c := by
    split
    · exact hac
    · rfl
  unfold Mach.deny
  dsimp only
  refine Eq.trans ?_ (hlike _ _ (Mach.like_countNiu _ n 0x0E none none 1 h))
  generalize (m.addFld (aGd n 0x28) 32 32 1).countNiu n 0x0E none none 1 h = m
  refine Eq.trans ?_ (hite (b := hDbg h = true) (hfld m))
  generalize (if hDbg h = true then m.addFld (aGd n 0x28) 16 16 1 else m) = m
  refine Eq.trans ?_ (hite (b := (hDbg h && d.locked) = true) (hocc m 11 0 3 n d.region 1))
  generalize (if (hDbg h && d.locked) = true then m.occur 11 0 3 n d.region 1 else m) = m
  split
  · exact hreg _ _
  · exact (hite (hevt _ _ _ _ _)).trans (hlog _ _)

theorem Mach.niu_deny {β : Type} (g : Niu → β) (hg : ∀ (x : Niu) l, g { x with gLog := l } = g x) (m : Mach) (n : Nat) (h : FlitBits) (d : Denial) :
    g ((m.deny n h d).niu n) = g (m.niu n) :=
  (Mach.deny_leaves (π := fun m => g (m.niu n)) m n h d (fun _ _ h => congrArg g (h.niu n)) (fun m => congrArg g (m.niu_addFld _ _ _ _ n))
    (fun m _ _ _ _ _ _ => Mach.occur_leaves (π := fun m => g (m.niu n)) m _ _ _ _ _ _ (fun _ _ => rfl)) (fun m _ => congrArg g (m.niu_orReg _ _ n))
    (fun m _ => (congrArg g (m.niu_modNiu n _)).trans (hg _ _)) (fun m _ _ _ _ => Mach.postEvt_leaves (π := fun m => g (m.niu n)) m _ _ _ _ _
      (fun _ _ => rfl) (fun _ _ _ _ => rfl))).trans (congrArg g (m.niu_addFld _ _ _ _ n))

/-- The refusals of a guard are counted (R308). -/
theorem Mach.fld_deny (m : Mach) {n : Nat} (hn : n < 512) (h : FlitBits) (d : Denial) :
    (m.deny n h d).fld (aGd n 0x28) 32 32 = min (2 ^ 32 - 1) (m.fld (aGd n 0x28) 32 32 + 1) := by
  have hgd : 0x100E00 ≤ aGd n 0x28 ∧ aGd n 0x28 < 0x400000 := by unfold aGd; omega
  have hreg (a : Nat) (ha : aGd n 0x28 ≠ a) (m : Mach) (w : Word) : (m.setReg a w).fld (aGd n 0x28) 32 32 = m.fld (aGd n 0x28) 32 32 :=
    congrArg (fun w => bf w 32 32) (m.reg_setReg_ne w ha)
  have hb (b : Bool) : b1 b ≤ 1 := by cases b <;> decide
  have hqe : niuQe n ≤ 4 := by
    have h1 := hb (decide (8 ≤ tileX (epTile n)))
    have h2 := hb (decide (4 ≤ tileY (epTile n)))
    unfold niuQe qeOf quadOf
    omega
  have heng (o : Nat) (ho : o < 0x1000) : aGd n 0x28 ≠ aEng (niuQe n) o := by unfold aEng; omega
  refine (Mach.deny_leaves (π := fun m => m.fld (aGd n 0x28) 32 32) m n h d (fun a m hl => ?_) (fun m => ?_)
    (fun m _ _ _ _ _ _ => Mach.occur_leaves (π := fun m => m.fld (aGd n 0x28) 32 32) m _ _ _ _ _ _ (fun _ _ => rfl))
    (fun m _ => hreg _ (by unfold aGd; omega) m _) (fun m _ => rfl)
    (fun m _ _ _ _ => Mach.postEvt_leaves (π := fun m => m.fld (aGd n 0x28) 32 32) m _ _ _ _ _ (fun _ _ => rfl) (fun m a w ha => ?_))).trans ?_
  · exact congrArg (fun w => bf w 32 32) (hl.reg _ (decide_eq_false (by omega)))
  · exact (congrArg (fun w => bf w 32 32) (m.reg_setReg _ _)).trans (bf_sf_ne _ (by decide) _ (by decide))
  · rcases ha with rfl | rfl
    · exact hreg _ (heng _ (by decide)) m w
    · exact hreg _ (heng _ (by decide)) m w
  · exact (m.fld_addFld _ (by decide) 1).trans (Nat.min_comm _ _)

/-! ## A reassembly that takes too long (R111) -/

/-- The context `c` ends with what it holds. -/
def Niu.reasmEnds (c : Ctx) (flow : BitVec 16) (x : Niu) : Niu :=
  let mine := fun (r : Pres) => c.isOf r.pkt.hd && hMulti r.pkt.hd
  let x := (if c.mem then x else x.endAll c.gens).endAll ((x.ready.filter mine).filterMap Pres.adm)
  let x := (x.ready.filter mine).foldl (fun x r => x.takeEj r.vc) x
  { (x.freeCtx c.hd) with ready := x.ready.filter (fun r => !mine r), eoPend := x.eoPend.filter (fun q => !(decide (q.1 = flow) && c.seqs.contains q.2)) }

def Mach.reasmDone (m : Mach) (n : Nat) (c : Ctx) (f : BitVec 16) : Mach :=
  ((m.modNiu n (fun x => x.reasmEnds c f)).addFld (aNiu n 0x40) 16 16 1).orReg (aNiu n 0x30) (2 ^ 3)

def Mach.reasmAt (m : Mach) (n : Nat) (f : BitVec 16) (src : BitVec 10) (msg : BitVec 8) : Mach :=
  match (m.niu n).ctxs.find? (fun c => decide (c.src = src.toNat ∧ c.flow = f ∧ c.msg = msg.toNat)) with
  | none => m
  | some c => if c.ticks ≠ some 0 then m else m.reasmDone n c f

theorem exec_reasmTimeout {s : State} (hs : s.m.test.scan = false) (ep : Ep) (f : BitVec 16) (src : BitVec 10) (msg : BitVec 8) :
    exec (.reasmTimeout ep f src msg) s = .next { s with m := s.m.reasmAt ep.val f src msg } := by
  change execReasmTimeout ep f src msg s = _
  rw [execReasmTimeout, State.on_eq hs]
  rfl

theorem Niu.ctxs_reasmEnds (c : Ctx) (f : BitVec 16) (x : Niu) : ∀ d ∈ (x.reasmEnds c f).ctxs, d.isOf c.hd = false := by
  intro d hd
  have h := (List.mem_filter.1 hd).2
  exact Bool.not_eq_true' _ ▸ h

theorem Niu.rspInj_reasmEnds (c : Ctx) (f : BitVec 16) (x : Niu) : (x.reasmEnds c f).rspInj = x.rspInj := by
  have hej (l : List Pres) (x : Niu) : (l.foldl (fun x r => x.takeEj r.vc) x).rspInj = x.rspInj :=
    foldl_keeps Niu.rspInj _ _ _ (fun x r => by cases r.vc <;> rfl)
  unfold Niu.reasmEnds
  refine (hej _ _).trans ((Niu.endAll_tt _ _).2.trans ?_)
  split
  · rfl
  · exact (Niu.endAll_tt _ _).2

theorem Mach.reasmDone_spec (m : Mach) {n : Nat} (hn : n < 512) (c : Ctx) (f : BitVec 16) : bt ((m.reasmDone n c f).reg (aNiu n 0x30)) 3 = true ∧
    (m.reasmDone n c f).fld (aNiu n 0x40) 16 16 = min 65535 (m.fld (aNiu n 0x40) 16 16 + 1) ∧
    (∀ d ∈ ((m.reasmDone n c f).niu n).ctxs, d.isOf c.hd = false) ∧ ((m.reasmDone n c f).niu n).rspInj = (m.niu n).rspInj := by
  have hniu : (m.reasmDone n c f).niu n = (m.niu n).reasmEnds c f := by
    unfold Mach.reasmDone
    rw [Mach.niu_orReg, Mach.niu_addFld, Mach.niu_modNiu]
  have hne : aNiu n 0x40 ≠ aNiu n 0x30 := by
    unfold aNiu
    rw [if_pos hn, if_pos hn]
    omega
  rw [hniu]
  refine ⟨?_, ?_, Niu.ctxs_reasmEnds c f _, Niu.rspInj_reasmEnds c f _⟩
  · unfold Mach.reasmDone
    rw [Mach.reg_orReg, bt_or]
    exact Bool.or_eq_true_iff.2 (.inr (by decide))
  · unfold Mach.reasmDone
    refine (congrArg (fun w => bf w 16 16) (Mach.reg_orReg_ne _ _ hne)).trans ?_
    exact (Mach.fld_addFld _ _ (by decide) 1).trans (Nat.min_comm _ _)

/-! ## What R105 makes of a packet that waits for nothing -/

/-- A mirror ring that is not in force (R446). -/
def Mach.Quiet (m : Mach) : Prop := m.hasMirror = false ∨ bt (m.reg 0x480000) 63 = false

theorem Mach.Quiet.of_like {a m : Mach} (h : m.Quiet) (hl : a.Like m) : a.Quiet :=
  h.imp (fun h => (congrArg Mach.hasMirror hl.bare).trans h) (fun h => (congrArg (fun w => bt w 63) (hl.reg _ (by decide))).trans h)

theorem Mach.Quiet.used {m : Mach} (h : m.Quiet) {n : Nat} (hn : n < 512) (f : BitVec 16) (b : Bool) : (m.used n f b).Quiet := by
  unfold Mach.used
  split
  · refine h.imp id (fun h => (congrArg (fun w => bt w 63) ?_).trans h)
    refine (Mach.reg_setReg_ne _ _ ?_).trans rfl
    unfold aSch
    rw [if_pos hn]
    omega
  · exact h

/-- A request of no message of its own stands at the head of an ejection VC. -/
structure Mach.Heads (m : Mach) (n vc : Nat) (p : Pkt) : Prop where
  lt     : n < 512
  ej     : (m.niu n).ejected vc = some p
  ready  : ∀ r ∈ (m.niu n).ready, r.vc ≠ some vc
  treq   : (m.niu n).treqVc ≠ some vc
  quiet  : m.Quiet
  req    : opReq (hOpc p.hd) = true
  red    : hOpc p.hd ≠ opRED
  multi  : hMulti p.hd = false
  closes : hCloses p.hd = false

/-- The checks of R105 step 1 pass, and the receive half of the packet's flow is at hand. -/
structure Mach.Role (m : Mach) (n : Nat) (h : FlitBits) (e : FcE) : Prop where
  safe  : (m.niu n).safe = false
  inc   : hDstInc h = (m.niu n).inc
  wait  : m.recWaits n (hFlow h) = false
  entry : (m.niu n).entry (hFlow h) = some e
  valid : eV e.ent = true
  dst   : eDst e.ent = n
  plane : m.carries (hFlow h) = true

section
variable {m : Mach} {n vc : Nat} {p : Pkt} {e : FcE} (h : m.Heads n vc p)
include h

/-- A refusal goes to the RSP injection space, and the ejection VC is free. -/
theorem Mach.Heads.refused {st : Nat} (he : m.eject n vc p = m.refuse n p (some vc) st) (hl : (m.niu n).rspInj.length < 32) :
    (m.ejectAt n vc).Like (m.modNiu n (fun x => { (x.clearEj vc) with rspInj := x.rspInj ++ [⟨none, [], false, rspBare p.hd st⟩] })) := by
  rw [Mach.ejectAt_dealt h.ej h.ready h.treq (he.trans (Mach.refuse_single h.multi st hl))]
  have hq : ((m.modNiu n (fun y => y.takeEj (some vc))).putRsp n (rspBare p.hd st) [] none).Quiet := h.quiet
  exact (Mach.passed_like _ h.lt hq).trans (Mach.like_modNiu_twice m n _ _)

theorem Mach.Heads.held (hs : (m.niu n).safe = true ∨ hDstInc p.hd ≠ (m.niu n).inc) (hl : 32 ≤ (m.niu n).rspInj.length) : m.ejectAt n vc = m := by
  refine Mach.ejectAt_stays h.ej h.ready h.treq ?_
  cases hsafe : (m.niu n).safe with
  | true => exact (Mach.eject_safe h.req h.red hsafe).trans (Mach.refuse_full _ hl)
  | false => exact (Mach.eject_stale h.req h.red hsafe (hs.resolve_left (by rw [hsafe]; decide))).trans (Mach.refuse_full _ hl)

theorem Mach.Heads.unordered (hmem : hOpc p.hd ≠ opMSG) (hs : (m.niu n).safe = false) (hi : hDstInc p.hd = (m.niu n).inc) (hd : hDmode p.hd = 0) :
    (m.ejectAt n vc).Like (m.modNiu n (fun x => x.lined (atEj p vc))) := by
  rw [Mach.ejectAt_dealt h.ej h.ready h.treq (Mach.eject_unordered h.req h.red h.multi h.closes hs hi hmem hd)]
  have hq : (m.modNiu n (fun x => x.lined (atEj p vc))).Quiet := h.quiet
  exact Mach.passed_like _ h.lt hq

/-- Steps 2 and 3 of R105 with the receive half at hand, and what a lookup that hits adds. -/
theorem Mach.Heads.known (r : m.Role n p.hd e) {k : Nat} (hd : hDmode p.hd = k) (hk : k ≠ 0) {a : Mach}
    (ha : (if k = 2 then m.ejectEo n vc p e.ent else m.ejectOrdered n vc p e.ent) = (a, true)) (hq : a.Quiet) :
    (m.ejectAt n vc).Like (a.used n (hFlow p.hd) (!bt (m.niu n).missEj vc && !e.dflt)) := by
  have heq : m.ejectAt n vc = (a.used n (hFlow p.hd) (!bt (m.niu n).missEj vc && !e.dflt)).passed n p.hd := by
    refine Mach.ejectAt_dealt h.ej h.ready h.treq ?_
    subst hd
    rw [Mach.eject_known h.req h.red r.safe r.inc hk r.wait r.entry r.valid r.dst r.plane ha, Mach.lookedUp_eq, Niu.entry_flow r.entry]
    rfl
  rw [heq]
  exact Mach.passed_like _ h.lt (hq.used h.lt _ _)

theorem Mach.Heads.next (r : m.Role n p.hd e) (hmem : hOpc p.hd ≠ opMSG) (hd : hDmode p.hd = 1) (hseq : hSeq p.hd = eNext e.ent)
    (hst : (m.niu n).store = []) :
    (m.ejectAt n vc).Like ((m.modNiu n (fun x => (x.nexts p.hd).lined (atEj p vc))).used n (hFlow p.hd) (!bt (m.niu n).missEj vc && !e.dflt)) := by
  refine (h.known r hd (by decide) ((if_neg (by decide)).trans (Mach.ejectOrdered_next h.multi h.closes hmem hseq hst)) h.quiet).trans ?_
  exact Mach.Like.used (Mach.like_modNiu_twice m n _ _) h.lt _ _

theorem Mach.Heads.early (r : m.Role n p.hd e) (hd : hDmode p.hd = 1) (h1 : 1 ≤ (hSeq p.hd - eNext e.ent).toNat)
    (h64 : (hSeq p.hd - eNext e.ent).toNat < 64) (hs : (m.niu n).storeUsed < 64) :
    (m.ejectAt n vc).Like ((m.modNiu n (fun x => { (x.clearEj vc) with store := x.store ++ [p] })).used n (hFlow p.hd)
      (!bt (m.niu n).missEj vc && !e.dflt)) := by
  have hc := Mach.like_countNiu (m.modNiu n (fun x => { (x.clearEj vc) with store := x.store ++ [p] })) n 7 none (some (hTc p.hd)) 1 p.hd
  refine (h.known r hd (by decide) ((if_neg (by decide)).trans (Mach.ejectOrdered_early h1 h64 hs)) ?_).trans (Mach.Like.used hc h.lt _ _)
  exact Mach.Quiet.of_like (m := m.modNiu n _) h.quiet hc

/-- A new number of an EXACTLY_ONCE flow. -/
theorem Mach.Heads.windowNew (r : m.Role n p.hd e) (hmem : hOpc p.hd ≠ opMSG) (hd : hDmode p.hd = 2) (hst : eRxState e.ent = true)
    (hinc : hSrcInc p.hd = eSInc e.ent) (h1 : 1 ≤ (hSeq p.hd - eTop e.ent).toNat) (h64 : (hSeq p.hd - eTop e.ent).toNat ≤ 64) :
    (m.ejectAt n vc).niu n = (((m.niu n).pends p.hd (movedUp e.ent (hSeq p.hd))).lined (atEj p vc)).touch (hFlow p.hd) := by
  have hl := h.known r hd (by decide) ((if_pos rfl).trans (Mach.ejectEo_new h.multi h.closes hmem hst hinc h1 h64)) h.quiet
  rw [hl.niu, Mach.niu_used, Mach.niu_modNiu, Mach.niu_modNiu]

/-- A number the window has passed. -/
theorem Mach.Heads.windowOld (r : m.Role n p.hd e) (hd : hDmode p.hd = 2) (hst : eRxState e.ent = true)
    (hinc : hSrcInc p.hd = eSInc e.ent) (h64 : 64 ≤ (eTop e.ent - hSeq p.hd).toNat) (hle : (eTop e.ent - hSeq p.hd).toNat ≤ 32767) :
    (m.ejectAt n vc).niu n = (((m.niu n).clearEj vc).setWindow (hFlow p.hd) e.ent false).touch (hFlow p.hd) := by
  have hc := Mach.like_countNiu (m.modNiu n (fun x => (x.clearEj vc).setWindow (hFlow p.hd) e.ent false)) n 0x0B none none 1 p.hd
  have hl := h.known r hd (by decide) ((if_pos rfl).trans (Mach.ejectEo_old hst hinc h64 hle)) (Mach.Quiet.of_like (m := m.modNiu n _) h.quiet hc)
  rw [hl.niu, Mach.niu_used, hc.niu, Mach.niu_modNiu]
end

/-! ## What a presentation and a refusal leave -/

section
variable {m : Mach} {n : Nat} {r : Pres}

theorem Niu.dropReady_keeps {β : Type} (g : Niu → β) (hg : ∀ (x : Niu) l, g { x with ready := l } = g x) (hc : ∀ (x : Niu) v, g (x.clearEj v) = g x)
    (x : Niu) (i : Nat) (v : Option Nat) : g (x.dropReady i v) = g x := by
  refine (hg _ _).trans ?_
  cases v with
  | none => rfl
  | some v => exact hc x v

theorem Niu.discardReady_keeps {β : Type} (g : Niu → β) (hg : ∀ (x : Niu) l a b, g { x with ready := l, gNew := a, gOld := b } = g x)
    (hc : ∀ (x : Niu) v, g (x.clearEj v) = g x) (x : Niu) (i : Nat) (r : Pres) : g (x.discardReady i r) = g x := by
  refine (foldl_keeps g _ _ _ (fun x k => ?_)).trans (Niu.dropReady_keeps g (fun x l => hg x l x.gNew x.gOld) hc x i r.vc)
  unfold Niu.endAccess
  split
  · exact hg x x.ready _ _
  · exact hg x x.ready _ _

theorem Niu.ready_discardReady (x : Niu) (i : Nat) (r : Pres) : (x.discardReady i r).ready = dropAt x.ready i := by
  refine foldl_keeps Niu.ready _ _ (x.dropReady i r.vc) (fun x k => ?_)
  unfold Niu.endAccess
  split <;> rfl

/-- What a packet answered without presentation leaves (R105). -/
theorem Mach.niu_answersBare (st : Nat) (hr : (m.niu n).ready = [r]) : ((m.answersBare n r st).niu n).ready = [] ∧
    ((m.answersBare n r st).niu n).treq = (m.niu n).treq ∧
    ((m.answersBare n r st).niu n).rspInj = (m.niu n).rspInj ++ [⟨none, [], false, rspBare r.pkt.hd st⟩] := by
  unfold Mach.answersBare Mach.putRsp
  rw [Mach.niu_modNiu, Mach.niu_modNiu]
  refine ⟨?_, Niu.discardReady_keeps Niu.treq (fun _ _ _ _ => rfl) (fun _ _ => rfl) _ 0 r,
    congrArg (· ++ _) (Niu.discardReady_keeps Niu.rspInj (fun _ _ _ _ => rfl) (fun _ _ => rfl) (m.niu n) 0 r)⟩
  exact (Niu.ready_discardReady _ 0 r).trans (by rw [hr]; rfl)

/-- The NIU that a presentation under the TTAG `k` leaves (R112). -/
def Niu.presented (k : Nat) (r : Pres) (x : Niu) : Niu :=
  let y : Niu := { x.admitted with ready := modAt (fun p => { p with adm := some x.gSer }) x.ready 0 }
  let z := y.dropReady 0 none
  { z with
    treq := some (k, treqBeats r.pkt.hd (hLen r.pkt.hd) k r.pkt.data)
    treqVc := r.vc
    treqSlot := r.slot
    tt := Tab.set dNone z.tt k (some ⟨r.kind, r.pkt.hd, [x.gSer], [], false⟩) }

theorem Mach.niu_presentsPlain (k : Nat) : (m.presentsPlain n k r).niu n = (m.niu n).presented k r := by
  unfold Mach.presentsPlain Mach.present Mach.letIn
  rw [Mach.niu_modNiu, Mach.niu_modNiu, Mach.niu_modNiu]
  rfl

theorem Niu.presented_spec {x : Niu} (hr : x.ready = [r]) (hk : r.kind = .plain) (k : Nat) : (x.presented k r).ready = [] ∧
    (x.presented k r).treq = some (k, treqBeats r.pkt.hd (hLen r.pkt.hd) k r.pkt.data) ∧ (x.presented k r).treqVc = r.vc ∧
    (x.presented k r).treqSlot = r.slot ∧ (x.presented k r).ej = x.ej ∧
    Tab.get dNone (x.presented k r).tt k = some ⟨.plain, r.pkt.hd, [x.gSer], [], false⟩ ∧
    (∀ j, j ≠ k → Tab.get dNone (x.presented k r).tt j = Tab.get dNone x.tt j) ∧ (x.presented k r).rspInj = x.rspInj := by
  have htt : (x.presented k r).tt = Tab.set dNone x.tt k (some ⟨.plain, r.pkt.hd, [x.gSer], [], false⟩) := by rw [← hk]; rfl
  have hready : (x.presented k r).ready = dropAt (modAt (fun p => { p with adm := some x.gSer }) x.ready 0) 0 := rfl
  have hej : (x.presented k r).ej = x.ej := by
    unfold Niu.presented
    dsimp only [Niu.dropReady, Niu.takeEj, Niu.admitted]
  have hinj : (x.presented k r).rspInj = x.rspInj := by
    unfold Niu.presented
    dsimp only [Niu.dropReady, Niu.takeEj, Niu.admitted]
  rw [htt, hready, hr, hej, hinj]
  exact ⟨rfl, rfl, rfl, rfl, rfl, Tab.get_set _ _ _, fun j hj => Tab.get_set_ne _ _ hj, rfl⟩
end

theorem Niu.freeTt_some {x : Niu} (ht : x.treq = none) {k : Nat} (hk : k < 256) (hf : Tab.get dNone x.tt k = none)
    (hl : ∀ j, j < k → Tab.get dNone x.tt j ≠ none) : x.freeTt = some k := by
  unfold Niu.freeTt
  rw [ht]
  refine lowest_eq_some.2 ⟨?_, hk, fun j hj => ?_⟩
  · rw [hf]; rfl
  · cases h : Tab.get dNone x.tt j with
    | none => exact absurd h (hl j hj)
    | some t => rfl

theorem Niu.freeTt_ne {x : Niu} (ht : x.treq = none) {k : Nat} (hk : k < 256) (hf : Tab.get dNone x.tt k = none) : x.freeTt ≠ none := by
  unfold Niu.freeTt lowest
  rw [ht]
  intro h
  have := List.find?_eq_none.1 h k (List.mem_range.2 hk)
  rw [hf] at this
  exact this rfl

/-- What a new number leaves at the window (R126, R127). -/
theorem Niu.taken_spec {x : Niu} {h : FlitBits} {e : FcE} (he : x.entry (hFlow h) = some e) (r : Pres) (f : BitVec 16) :
    (((x.pends h (movedUp e.ent (hSeq h))).lined r).touch f).ready = x.ready ++ [r] ∧
    (((x.pends h (movedUp e.ent (hSeq h))).lined r).entry (hFlow h)).map (fun e => eTop e.ent) = some (hSeq h) ∧
    (((x.pends h (movedUp e.ent (hSeq h))).lined r).entry (hFlow h)).map (fun e => eMap e.ent) = some (eMap e.ent <<< (hSeq h - eTop e.ent).toNat) ∧
    (hFlow h, hSeq h) ∈ (((x.pends h (movedUp e.ent (hSeq h))).lined r).touch f).eoPend := by
  have hent := Niu.ent_setWindow x (hFlow h) (movedUp e.ent (hSeq h)) false
  rw [he, Option.map_some] at hent
  have hmap {β : Type} (g : FlitBits → β) : ((x.setWindow (hFlow h) (movedUp e.ent (hSeq h)) false).entry (hFlow h)).map (fun e => g e.ent) =
      some (g (movedUp e.ent (hSeq h))) := by
    have := congrArg (Option.map g) hent
    rwa [Option.map_map, Option.map_some] at this
  refine ⟨?_, (hmap eTop).trans (congrArg some (eTop_movedUp _ _)), (hmap eMap).trans (congrArg some (eMap_movedUp _ _)), ?_⟩
  · exact congrArg (· ++ [r]) (Niu.setWindow_keeps Niu.ready (fun _ _ _ => rfl) x (hFlow h) _ false)
  · exact List.mem_append_right _ (List.mem_singleton.2 rfl)

theorem Niu.ejected_clearEj (x : Niu) (vc : Nat) : (x.clearEj vc).ejected vc = none := by
  unfold Niu.ejected
  rw [Niu.ejFlits_clearEj]
  rfl

/-- What a number the window has passed leaves. -/
theorem Niu.old_spec (x : Niu) (vc : Nat) (f : BitVec 16) (g : FlitBits) :
    (((x.clearEj vc).setWindow f g false).touch f).ready = x.ready ∧ (((x.clearEj vc).setWindow f g false).touch f).rspInj = x.rspInj ∧
    (((x.clearEj vc).setWindow f g false).touch f).ejected vc = none :=
  ⟨Niu.setWindow_keeps Niu.ready (fun _ _ _ => rfl) (x.clearEj vc) f g false, Niu.setWindow_keeps Niu.rspInj (fun _ _ _ => rfl) (x.clearEj vc) f g false,
    (Niu.setWindow_keeps (fun x => x.ejected vc) (fun _ _ _ => rfl) (x.clearEj vc) f g false).trans (x.ejected_clearEj vc)⟩

/-! ## The obligation -/

/-- Settles O57: the checks at arrival, the receive window, presentation and its refusals, a reassembly timeout. -/
theorem targetSide : Obligations.TargetSide := by
  unfold Obligations.TargetSide
  intro s ep vc p e r c k f src msg n x h quiet here answered role hit waiting memory next found hs
  have hn : n < 512 := ep.isLt
  have hej {m : Mach} (hl : (s.m.ejectAt n vc.val).Like m) : Does (.packetEject ep vc) s m := ⟨_, exec_packetEject hs ep vc, rfl, rfl, hl⟩
  have hpr {a : Mach} (h : s.m.presents (s.guard n) n = a) : Does (.targetPresent ep) s a := ⟨_, exec_targetPresent hs ep, rfl, rfl, .of_eq h⟩
  have hre {a : Mach} (h : s.m.reasmAt n f src msg = a) : Does (.reasmTimeout ep f src msg) s a := ⟨_, exec_reasmTimeout hs ep f src msg, rfl, rfl, .of_eq h⟩
  have hhead (h : here) : s.m.Heads n vc.val p := by
    obtain ⟨h1, h2, h3, h4, h5, h6, h7, h8⟩ := h
    exact ⟨hn, h1, h2, h3, h4, h5, h6, h7, h8⟩
  have hrole (hs : x.safe = false) (hi : hDstInc h = x.inc) (h : role) : s.m.Role n p.hd e := by
    obtain ⟨h1, h2, h3, h4, h5⟩ := h
    exact ⟨hs, hi, h1, h2, h3, h4, h5⟩
  have hhit (m : Mach) : m.used n (hFlow h) (!bt x.missEj vc.val && !e.dflt) = hit m := by
    have hb (a b : Bool) : ((!a && !b) = true) ↔ (a = false ∧ b = false) := by cases a <;> cases b <;> decide
    exact if_congr (hb _ _) rfl rfl
  clear_value hit
  refine ⟨fun h => hej ?_, fun hr hsafe hl => hej ?_, fun hr hsafe hi hl => hej ?_, fun hr hor hl => hej ?_, fun hr hmem hsafe hi hd => hej ?_,
    fun hr hmem hsafe hi hd hro hseq hst => hej ?_, fun hr hmem hsafe hi hd hro h1 h64 hsu => hej ?_,
    fun hr hmem hsafe hi hd hro hst hinc h1 h64 => ⟨_, exec_packetEject hs ep vc, ?_⟩,
    fun hr hmem hsafe hi hd hro hst hinc h64 hle => ⟨_, exec_packetEject hs ep vc, ?_⟩,
    fun hr hst => hpr (Mach.presents_none hst hr), ?_, ?_, ?_, ?_, ?_, ?_, ?_⟩
  · unfold Mach.ejectAt
    rw [show (s.m.niu n).ejected vc.val = none from h]
    exact .refl _
  · have hh := hhead hr
    exact hh.refused (Mach.eject_safe hh.req hh.red hsafe) hl
  · have hh := hhead hr
    exact hh.refused (Mach.eject_stale hh.req hh.red hsafe hi) hl
  · exact .of_eq ((hhead hr).held hor hl)
  · exact (hhead hr).unordered hmem hsafe hi hd
  · rw [← hhit]
    exact (hhead hr).next (hrole hsafe hi hro) hmem hd hseq hst
  · rw [← hhit]
    exact (hhead hr).early (hrole hsafe hi hro) hd h1 h64 hsu
  · dsimp only
    rw [(hhead hr).windowNew (hrole hsafe hi hro) hmem hd hst hinc h1 h64, Niu.entry_touch]
    exact Niu.taken_spec (hrole hsafe hi hro).entry (atEj p vc.val) (hFlow h)
  · dsimp only
    rw [(hhead hr).windowOld (hrole hsafe hi hro) hd hst hinc h64 hle]
    exact Niu.old_spec (s.m.niu n) vc.val (hFlow h) e.ent
  · intro ⟨hst, hr, hk, hm, hadm, hd, hb⟩ hrun ht
    refine hpr ((Mach.presents_single hst hr hk hm hd).trans (Mach.treatPacket_waits hk hd hrun ?_))
    exact if_pos (Option.isSome_iff_ne_none.2 ht)
  · intro ⟨hst, hr, hk, hm, hadm, hd, hb⟩ hrun ht hk256 hfree hlow hg
    refine ⟨_, exec_targetPresent hs ep, ?_⟩
    dsimp only
    rw [Mach.presents_single hst hr hk hm hd, Mach.treatPacket_presents hk hd hadm hrun hb (Niu.freeTt_some ht hk256 hfree hlow) hg,
      Mach.niu_presentsPlain]
    exact Niu.presented_spec hr hk k
  · intro d ⟨hst, hr, hk, hm, hadm, hd, hb⟩ hrun ht hk256 hfree hg hroom
    refine ⟨_, exec_targetPresent hs ep, ?_⟩
    dsimp only
    rw [Mach.presents_single hst hr hk hm hd, Mach.treatPacket_denied hk hd hadm (fun _ => Niu.freeTt_ne ht hk256 hfree) hg hroom]
    obtain ⟨h1, h2, h3⟩ := Mach.niu_answersBare (m := s.m.deny n r.pkt.hd d) (n := n) sGUARD
      ((Mach.niu_deny Niu.ready (fun _ _ => rfl) s.m n r.pkt.hd d).trans hr)
    refine ⟨h1, h2.trans ((Mach.niu_deny Niu.treq (fun _ _ => rfl) s.m n r.pkt.hd d).trans ht), h3.trans ?_, Mach.fld_deny s.m hn r.pkt.hd d⟩
    exact congrArg (· ++ _) (Mach.niu_deny Niu.rspInj (fun _ _ => rfl) s.m n r.pkt.hd d)
  · intro ⟨hst, hr, hk, hm, hadm, hd, hb⟩ hrun hg hroom
    refine ⟨_, exec_targetPresent hs ep, ?_⟩
    dsimp only
    rw [Mach.presents_single hst hr hk hm hd, Mach.treatPacket_reset hk hd hadm hrun hg hroom]
    obtain ⟨h1, h2, h3⟩ := Mach.niu_answersBare (m := s.m) (n := n) sTGTERR hr
    exact ⟨h1, h3⟩
  · intro h
    exact hre (by unfold Mach.reasmAt; rw [show (s.m.niu n).ctxs = [] from h]; rfl)
  · intro hf ht
    exact hre (by unfold Mach.reasmAt; rw [show _ = some c from hf]; exact if_pos ht)
  · intro hf ht hc
    refine ⟨_, exec_reasmTimeout hs ep f src msg, ?_⟩
    have heq : s.m.reasmAt n f src msg = s.m.reasmDone n c f := by
      unfold Mach.reasmAt
      rw [show _ = some c from hf]
      exact if_neg (fun h => h ht)
    dsimp only
    rw [heq]
    exact Mach.reasmDone_spec s.m hn c f

end Sys2Proof.Machine

/-! PROOFS. The source side of an NIU (O56): a resend of a flow whose copies find no room to be read at once does not lock the flow's entry,
and the entry that another flow's resend asks for in the same step may take its place (R119, R237). -/

namespace Sys2Proof.Machine

/-- A request of an EXACTLY_ONCE flow, released under SEQ 0 and not answered, with the ticks left to its deadline and the copies to read. -/
def releasedOnce (flow : BitVec 16) (ddl : Option Nat) (todo : List (BitVec 16)) : Trk :=
  ⟨0, 0, flow, 0, [0], 1, false, true, 1, .endpoint, false, none, false, false, ddl, 0, todo, false⟩

/-- The entry of flow 0: valid, EXACTLY_ONCE, ACTIVE, clean. -/
def onceEntry : FcE := { tableEntry 0 false with ent := mkf 512 0 1 1 ||| mkf 512 24 2 2 }

/-- The NIU of endpoint 0, all 32 places of whose cache are taken: by flow 0's entry, and by entries that are being filled. The deadline of
flow 0's request has expired; of flow 1's request a copy is still to be read, and flow 1's entry is not cached. -/
def crowded : Niu :=
  { Niu.init with
    fc := [onceEntry]
    fills := (List.range 31).map (fun k => BitVec.ofNat 16 (k + 2))
    trk := [(0, some (releasedOnce 0 (some 0) [])), (1, some (releasedOnce 1 none [0]))] }

def crowdedState : State := { State.reset with m := { Mach.reset with nius := [(0, crowded)] } }

/-- A deadline that leads to a resend (R119): the copies of the request are to be read. -/
def Mach.resends (m : Mach) (n : Nat) (r : Late) : Mach :=
  (m.modNiu n (fun x =>
    if r.posted then x.modPwb r.place (fun w => { w with ddl := none, tries := r.tries + 1, todo := r.seqs })
    else x.modTrk r.place (fun t => { t with ddl := none, tries := r.tries + 1, todo := r.seqs }))).pumpReads n

theorem exec_retxDeadline {s : State} (hs : s.m.test.scan = false) (n : NiuId) {f seq : BitVec 16} {r : Late} {e : FcE}
    (hr : (s.m.niu n.val).expired f seq = some r) (he : (s.m.niu n.val).entry f = some e) (hroom : (s.m.mirrors && !s.m.recRoom) = false)
    (h0 : eState e.ent = 0) (ht : r.tries < 7) (hf : s.m.fenced n.val r.dst = false) (hu : bt (s.m.imgOf (s.m.epochOf n.val)).1.unr r.dst = false) :
    exec (.retxDeadline n f seq) s = .next { s with m := s.m.resends n.val r } := by
  change execRetxDeadline n f seq s = _
  rw [execRetxDeadline, State.on_eq hs]
  dsimp only
  rw [hr, he, hroom]
  dsimp only
  rw [h0, hf, hu]
  refine congrArg (fun m => Host.Outcome.next { s with m := m }) ?_
  rw [if_neg Bool.false_ne_true, if_neg (show ¬ (0 : Nat) = 1 by decide), if_neg (show ¬ (0 : Nat) = 2 by decide), if_neg (by omega),
    if_neg Bool.false_ne_true, if_neg Bool.false_ne_true]
  rfl

/-- The request whose deadline expires. -/
def expiredOnce : Late := ⟨false, 0, [0], 0, 1⟩

/-- Neither request finds room to be read at the service NIU, which has no power, and flow 1's default entry takes the place of flow 0's. -/
theorem crowded_evicts : ((crowdedState.m.resends (0 : Ep).val expiredOnce).niu (0 : Ep).val).entry 0 = none := by decide +kernel

/-- Refutes O56: a deadline of flow 0 expires where the cache is full and flow 0's entry alone may be replaced, no copy can be read yet, and
a resend of flow 1, whose entry is not cached, waits too. In that step flow 1's default entry takes the place of flow 0's, whose STATE and
sequence number are then no longer in the cache. -/
theorem not_sourceSide : ¬ Obligations.SourceSide := by
  intro h
  have hscan : crowdedState.m.test.scan = false := by decide +kernel
  have hr : (crowdedState.m.niu (0 : Ep).val).expired 0 0 = some expiredOnce := by decide +kernel
  have he : (crowdedState.m.niu (0 : Ep).val).entry 0 = some onceEntry := by decide +kernel
  have hm : crowdedState.m.mirrors = false := by decide +kernel
  have h0 : eState onceEntry.ent = 0 := by decide +kernel
  have hf : crowdedState.m.fenced (0 : Ep).val expiredOnce.dst = false := by decide +kernel
  have hu : bt (crowdedState.m.imgOf (crowdedState.m.epochOf (0 : Ep).val)).1.unr expiredOnce.dst = false := by decide +kernel
  obtain ⟨-, -, -, -, -, -, -, -, -, -, -, -, -, -, -, -, hresend, -⟩ := h crowdedState 0 ⟨.data, 0, false, 0, 0⟩ [] onceEntry 0 0 0
    ⟨0, ⟨0, [], false⟩, 0, 0, 0, false, false, false, false, none, false, none, 0, none⟩
    ⟨0, 0, false, 0, 0, 0, false, false, 0, .endpoint, none, 0, []⟩ ⟨0, [], false⟩ (releasedOnce 0 none []) 0 0 0 hscan
  obtain ⟨t, ht, -, -, hent, -⟩ := hresend expiredOnce (.inl hm) hr he h0 (by decide) hf hu
  have hx := exec_retxDeadline hscan ⟨(0 : Ep).val, by decide⟩ hr he (by rw [hm]; rfl) h0 (by decide) hf hu
  have ht := Host.Outcome.next.inj (hx.symm.trans ht)
  subst ht
  dsimp only at hent
  rw [crowded_evicts] at hent
  exact nomatch hent

end Sys2Proof.Machine
